-- ==== Sys2Proof/Word.lean ====
section
/-! DEFINITION. The byte and word types of the dictionary's encodings and their plainest arithmetic. -/

namespace Sys2Proof

/-- One byte of a record, datagram, image or DOMAIN (00 R6). -/
abbrev Byte := BitVec 8

/-- A byte string, first byte first. -/
abbrev Bytes := List Byte

/-- A value of the dictionary: a number of one of the CiA 301 integer types, or a byte string (15 R334). -/
inductive Val where
  | int (v : Int)
  | bytes (b : Bytes)
  deriving DecidableEq, Repr

end Sys2Proof
end

