-- ==== Sys2Proof/Syntax.lean ====
section
/-! DEFINITION. The commands of the Lorvos H960, one constructor for each row of spec/opcode_table.json, with the
operands the row's rule names, and the record types those operands are made of. -/

namespace Sys2Proof

/-- Where a sequencer-B result differs from sequencer A's (05 R147, R148): the context, B's u and B's signature. -/
structure SeqDiff where
  ctx : Nat
  uB : Int
  sigB : Nat
  deriving DecidableEq, Repr

/-- The inputs that the converters and the outside give one 100 µs loop frame (01 Table 01-4, 05 Table 05-2). -/
structure FrameIn where
  /-- AI channel 0–23 and what its converter sees at the sample instants of this frame, oldest first, mV or µA (04 R105). An input that is not
  listed holds its level. -/
  ai : List (Nat × List Int)
  /-- LS channel 0–15 and its samples outside pulse windows since the last frame start, counts (04 R97). -/
  noise : List (Nat × List Int)
  /-- Shaft input 0–11 of type 0x03 and the current in it, µA (04 R108). An input that is not listed holds its current. -/
  shaft : List (Nat × Nat)
  /-- PV channel 0–15 and its mean current of the period ending at the frame start, mA (05 Table 05-5). -/
  pv : List (Nat × Nat)
  /-- Contexts whose sequencer-B result differs (05 R148). -/
  seqB : List SeqDiff
  /-- Functions whose W differs in sequencer B, with B's W (05 R148). -/
  wB : List (Nat × Int)
  /-- The width in mm of the header sections that ISO 11783-10 section control has switched on at the frame start (02 R36). -/
  sections : Nat
  deriving DecidableEq, Repr

/-- One footprint of the map strip that yield mapping gives the Passage (03 R73): the parcel whose footprint it is and the
footprint's centre. -/
structure StripCell where
  parcel : Nat
  lat : Int
  lon : Int
  deriving DecidableEq, Repr

/-- The inputs of one 10 ms application frame: the map strip (03 R73) and the distance in mm to the task boundary ahead on
ActivePass (08 R205). -/
structure AppIn where
  strip : List StripCell
  boundary : Option Nat
  deriving DecidableEq, Repr

/-- How a sleeping transceiver was woken (14 R326). -/
inductive CanWake where
  | pattern
  | frame (ext : Bool) (id dlc data : Nat)
  | errorCount
  deriving DecidableEq, Repr

/-- The owner of a memory area with an uncorrectable error (01 R21): Column or the loop engine with the functions it
affects, or another engine by its Table 16-1 code. -/
inductive EccArea where
  | columnOrLoop (functions : List Nat)
  | other (engine : Nat)
  deriving DecidableEq, Repr

/-- One CAN frame (14 R316, R320). -/
structure CanFrame where
  ext : Bool
  id : Nat
  fd : Bool
  brs : Bool
  data : Bytes
  deriving DecidableEq, Repr

/-- What became of the frame that entered the arbitration (14 R319–R323). -/
inductive CanTxOutcome where
  | completed
  | arbitrationLost
  | errorConflict
  | errorOther
  deriving DecidableEq, Repr

/-- The outcome of an address claim (14 R329). -/
inductive ClaimOutcome where
  | claimed (addr : Nat)
  | cannotClaim
  deriving DecidableEq, Repr

/-- What the navigation message says of UTC (12 Table 12-7): TAI − UTC in s, a change announced for the end of the day, a removed second. -/
structure UtcInfo where
  offset : Int
  pending : Bool
  negative : Bool
  deriving DecidableEq, Repr

/-- The solution of one 50 ms epoch (12 R283–R287): what the measurements solve to for the phase centre of ANT1. `valid` is the result of
the checks of Table 12-6 that the solve makes itself. -/
structure Solution where
  epoch : Nat
  valid : Bool
  lat : Int
  lon : Int
  height : Int
  velN : Int
  velE : Int
  velU : Int
  /-- forward ground speed, mm/s, negative in reverse -/
  speed : Int
  /-- azimuth of the vector ANT1 to ANT2, 0.01° (R286) -/
  heading : Nat
  /-- at least 5 common signals have fixed integer ambiguities (R286) -/
  headingValid : Bool
  tilt : Int
  accuracy : Nat
  sats : Nat
  /-- ambiguity ratio, 0.1; range to the base, m (R284) -/
  ratio : Nat
  baseRange : Nat
  /-- GNSS time minus machine time at the epoch, ns (R283, R293) -/
  offset : Int
  /-- 2 σt + |es| of 12 R290, ns -/
  timeSpread : Nat
  jammed : Nat
  headingInconsistent : Bool
  tempC : Int
  utc : Option UtcInfo
  /-- solved length of the vector ANT1 to ANT2, mm (R286) -/
  baseline : Nat
  /-- measurements excluded by the residual check, by satellite and signal (R287) -/
  excluded : List (Nat × Nat)
  /-- constellations, by acquisition signal, whose bias changed by more than 20 ns (R287) -/
  biasJump : List Nat
  deriving DecidableEq, Repr

/-- A SENT frame as received (10 R241): the tick measured in 0.01 µs, the previous tick, the nibble pulses in ticks, the
nibbles (status, data…, CRC) and the frame's end. -/
structure SentFrame where
  tick : Nat
  prevTick : Nat
  pulses : List Nat
  nibbles : List Nat
  stamp : Nat
  serial : Option (Nat × Nat)
  deriving DecidableEq, Repr

/-- One yield cell of Table 09-2. -/
structure TileCell where
  area : Nat
  wet : Nat
  dry : Nat
  moisture : Nat
  flags : Nat
  deriving DecidableEq, Repr

/-- A satellite as the channel allocation sees it (12 R281): number, elevation (degrees), signals present by bit of Table 12-1,
C/N0 by signal. -/
structure SatView where
  svid : Nat
  elevation : Int
  azimuth : Nat
  signals : List (Nat × Nat)
  deriving DecidableEq, Repr

/-- What the vertical blanking reads (17 R375, R387): the panel temperature in 0.1 °C (none: outside the valid range), the
overlay CRC that the tap read over the frame now ended, whether every line packet of that frame was sent, the machine time at the
start of line Height. -/
structure BlankIn where
  temp : Option Int
  crcRead : Nat
  whole : Bool
  stamp : Nat
  deriving DecidableEq, Repr

/-- The currents and supplies one 50 µs regulation period works from (10 R228). -/
structure PvIn where
  time : Nat
  imeas : List (Nat × Nat)
  vbank : Nat
  deriving DecidableEq, Repr

/-- The outcome of the off-state test of a channel (10 Table 10-7). -/
inductive OffTest where
  | pass
  | openLoad
  | lowSideAtGround
  deriving DecidableEq, Repr

/-- The sender of an update command (19 R420): a dictionary session, or the fleet link with the message STAMP. -/
inductive UpSource where
  | session (n : Nat)
  | fleet (stamp : Nat)
  deriving DecidableEq, Repr

/-- An entry of an object set or package (09 R220). -/
structure ObjEntry where
  index : Nat
  sub : Nat
  data : Bytes
  deriving DecidableEq, Repr

/-- A dictionary transport (15 Table 15-5). -/
inductive Transport where
  | c8 | e1 | e2 | e3 | usb
  deriving DecidableEq, Repr

/-- The fleet-link topic a message arrived on (09 Table 09-4). -/
inductive InTopic where
  | rtcm | map | update | cartPose
  deriving DecidableEq, Repr

/-- A Flowstone record before SEQ, STAMP and CHECK are given to it (16 Table 16-1). -/
structure FlowEv where
  code : Nat
  arg : Nat
  engine : Nat
  payload : Bytes
  more : Bytes := []
  parcel : Nat := 0xFFFFFFFF
  station : Nat := 0xF
  deriving DecidableEq, Repr

/-- What a shaft input and its second input stand at after a crossing (04 R108): mV, or µA for type 0x03. -/
structure ShaftLines where
  a : Nat
  q : Nat
  deriving DecidableEq, Repr

/-- Who asks for a field to be opened or closed (09 R213): a session's MapCommand, or a task naming a partfield. -/
inductive MapBy where
  | session (n : Nat)
  | task (partfield : Nat)
  deriving DecidableEq, Repr

/-- The commands. `sess` is the dictionary session a write comes from; an index `n`, `k`, `j`, `c`, `b`, `g` counts the rule's own
objects from 0. -/
inductive Instr where
  -- frames
  | loopFrame (x : FrameIn)
  | applicationFrame (x : AppIn)
  -- power and device state
  | ignWake
  | keysvcWake
  | keysvcHoldExpiry
  | alarmWake
  | alarmPassedAwake
  | canWake (w : Nat) (how : CanWake)
  | startAllowedWaitEnd
  | startToRun
  | startToLadder (noCol noGal : Bool)
  | deviceStateRequestRun (sess : Nat)
  | deviceStateRequestService (sess : Nat)
  | deviceStateRequestShutdown (sess : Nat)
  | ignOffDelayExpiry
  | ladderIgnOffExpiry
  | shutdownComplete
  | shutdownLimitExpiry
  | parkDwellExpiry
  | operatorTakeover (stamp : Nat)
  | eccCorrected (mem : Nat)
  | eccUncorrectable (mem : Nat) (area : EccArea) (address : Nat)
  -- passage
  | headerEntersWork
  | headerLeavesWork
  | stationStopTimeout (k : Nat)
  | groundSourceLossExpiry
  | eventRecord (sess : Nat) (rec : Bytes)
  | eventCancel (sess id : Nat)
  | snapshot (sess : Nat) (v : Int)
  | stationConfigWrite (sess k sub : Nat) (v : Int)
  | kernelWrite (sess k sub : Nat) (v : Int)
  | sliceLengthWrite (sess sub : Nat) (v : Int)
  | calStart (sess : Nat)
  | calStop (sess : Nat)
  | calAccept (sess : Nat)
  | calDiscard (sess : Nat)
  | calProposalReady (transit step : Nat) (kernel : List Int) (quality : Int)
  | transitTrim (trims : List (Nat × Int))
  | passageReset (outOfOrder : Option (Nat × Nat))
  -- leads
  | leadSuspendEnd
  | leadEnable (sess : Nat) (v : Int)
  | leadSlotWrite (sess j sub : Nat) (v : Int)
  | leadSnapshot (sess : Nat) (v : Int)
  | leadCountRecord
  -- sensing
  | sensorSupplyFoldback (i : Nat)
  | sensorSupplyRetry (i : Nat) (within : Bool)
  | pulseWindowClose (c stamp : Nat) (samples : List Int)
  | lsChannelTest (c : Nat) (cap : Option Nat) (lowResistance : Bool)
  | lsTestNow (sess : Nat) (mask : Int)
  | lsNoisyExpiry (c : Nat) (above : Bool)
  | lossChannelWrite (sess c sub : Nat) (v : Int)
  | aiRangeFault (a : Nat) (raw : Int)
  | aiRangeHoldExpiry (a : Nat)
  | shuntOpen (a : Nat)
  | shuntRetest (a : Nat) (microamp : Int)
  | aiConfigWrite (sess a sub : Nat) (v : Int)
  | shaftEdge (sh stamp : Nat) (lines : ShaftLines) (held : Nat)
  | indexEdge (sh stamp : Nat)
  | shaftZeroTimeout (sh : Nat)
  | shaftFaultClearExpiry (sh : Nat)
  | tareLearn
  | imuSample (stamp : Nat) (ax ay az rx ry rz biasX biasY : Int)
  | imuSelfTest (pass : Bool)
  -- loop engine
  | contextEnable (sess n : Nat)
  | contextDisable (sess n : Nat)
  | coefSetWrite (sess n set : Nat) (rec : Bytes)
  | swapRequest (sess n : Nat) (v : Int)
  | functionModeManual (sess f : Nat)
  | functionModeAuto (sess f : Nat)
  | functionModeHold (sess f : Nat)
  | committedSetpointWrite (sess f : Nat) (v : Int)
  | setpointLimitsWrite (sess f sub : Nat) (v : Int)
  | setpointSourceWrite (sess f sub : Nat) (v : Int)
  | manualCommandWrite (sess f : Nat) (v : Int)
  | functionCommand (sess f : Nat) (v : Int)
  | lpeHandover (costs : List Nat)
  -- compensation and trace
  | repClear (sess n : Nat)
  | repHold (sess n : Nat)
  | repResume (sess n : Nat)
  | repSave (sess n : Nat)
  | repMemoryLoad (n : Nat)
  | compTableWrite (sess n sub : Nat) (data : Bytes)
  | traceArm (sess : Nat)
  | traceForceTrigger (sess : Nat)
  | traceDisarm (sess : Nat)
  | traceRelease (sess : Nat)
  | readBlock (sess : Nat)
  -- optimiser
  | blockJudged
  | suggestionAccept (sess j : Nat)
  | suggestionReject (sess j : Nat)
  | suggestionExpiry (j : Nat)
  | operatorHoldExpiry (j : Nat)
  | damageDatagram (iface : Transport) (rec : Bytes)
  | damageStaleExpiry
  | optConfigWrite (sess sub : Nat) (v : Int)
  | optSlotWrite (sess j sub : Nat) (v : Int)
  -- steering
  | steerEngage (sess : Option Nat)
  | steerDisengageCommand (sess : Nat)
  | steerDisengage (reason : Nat)
  | seatLowExpiry
  | wheelAngleDisagree
  | runawayExpiry
  | steerOverspeedExpiry
  | steerReverseTravel
  | takeoverRefusalEnd
  | coastExhausted
  | turnNow (sess : Nat)
  | turnCancel (sess : Nat)
  | turnComplete
  | lineSetA (sess : Nat)
  | lineSetB (sess : Nat)
  | curveRecordStart (sess : Nat)
  | curveRecordEnd (sess : Nat)
  | nearestPass (sess : Nat) (v : Int)
  | edgeFrame (ch id stamp : Nat) (data : Bytes)
  | edgeTimeout
  | unloadMessage
  -- yield and fleet
  | loadStart (sess : Nat)
  | loadEmpty (sess : Nat)
  | loadEmptied
  | weighedMassWrite (sess : Nat) (g : Int)
  | loadAccept (sess : Nat)
  | loadDiscard (sess : Nat)
  | mapOpen (by_ : MapBy)
  | mapClose (by_ : MapBy)
  | priorTile (tile : Bytes)
  | fleetConnect
  | fleetReconnectExpiry (connected : Bool)
  | fleetLinkLost (authRefused : Bool)
  | posePublish
  | parcelBatchPublish
  | tilePublish (e n : Int)
  | statePublish (opt : Bool)
  | docPublish (file : Bytes)
  | fleetMessageReceive (topic : InTopic) (msg : Bytes)
  -- valve drive
  | bankEnable (b : Nat) (grant : Bool)
  | driveSupplyNotPresent (sup : Nat) (high : Bool) (mV : Nat)
  | driveSupplyPresent (sup : Nat)
  | bankResumeSlot (b : Nat)
  | railFault
  | railFaultClear
  | pvRegulationPeriod (x : PvIn)
  | svBoostEnd (n time : Nat)
  | boostTimeout (n mA : Nat)
  | svPeakEnd (n : Nat)
  | svPulseHoldExpiry (n : Nat)
  | svQuenchEnd (n : Nat)
  | svBoostGranted (b time : Nat)
  | boostRejected (n time : Nat)
  | svThermalLimit (n : Nat)
  | overlapCheck (n mean : Nat)
  | moveDetect (n : Nat) (moveTime : Option Nat)
  | coilTempUpdate (n : Nat) (res : Option Nat) (relaxed : Int)
  | sentFrame (i : Nat) (frame : SentFrame)
  | sentTimeout (i : Nat)
  | stuck (n targetChange travel : Nat)
  | valveOvercurrent (n : Nat)
  | valveTripRetry (n : Nat)
  | highSideTrip (b : Nat)
  | uncommandedCurrent (n : Nat)
  | offStateTest (n : Nat) (result : OffTest)
  | openLoadDriven (n : Nat) (set : Bool)
  | shortedCoil (n : Nat)
  | valveOvertempStage (n : Nat) (high : Bool)
  | valveFaultCommand (sess n : Nat) (v : Int)
  | bankCommand (sess b : Nat) (v : Int)
  | valveGuardExpiry (b : Nat)
  | valveGuardEnd (b : Nat)
  | testCommand (sess n : Nat) (v : Int)
  | testCommandTimeout (n : Nat)
  | valveConfigWrite (sess index sub : Nat) (v : Val)
  -- field input and output
  | fieldInputChange (n : Nat) (mV : Int) (stamp : Nat)
  | outputCommandWrite (sess n : Nat) (v : Int)
  | groupEnable (g : Nat) (grant : Bool)
  | groupSupplyLow (g : Nat) (low : Bool) (mV : Nat)
  | groupSupplyMissing (g : Nat) (high : Bool) (mV : Nat)
  | groupRestoreStart (g : Nat)
  | groupRestoreSlot (g : Nat)
  | fieldOvercurrent (n : Nat)
  | fieldOvertempStage (n : Nat) (high : Bool)
  | groupOverload (g : Nat)
  | noLoadCurrent (n : Nat) (set : Bool)
  | externalDrive (n : Nat) (set : Bool)
  | pinsJoined (m n : Nat) (followed : Bool)
  | fieldGuardExpiry (g : Nat)
  | fieldGuardEnd (g : Nat)
  | fieldFaultCommand (sess n : Nat) (v : Int)
  | groupCommand (sess g : Nat) (v : Int)
  | pinModeWrite (sess n : Nat) (v : Int)
  -- skylight and time
  | antennaFeedFault (a : Nat) (short : Bool)
  | antennaFeedRetry (a : Nat) (ok : Bool)
  | searchBlock (svid sig : Nat) (peak : Int)
  | detectionVerify (ch : Nat) (locked : Bool)
  | aidingSet (f0 f1 f2 : Bytes) (t0 t1 t2 : Nat)
  | channelAllocation (view : List SatView)
  | cycleSlip (ch : Nat)
  | epochSolution (sol : Solution)
  | rtcmFrame (fromFleet : Bool) (frame : Bytes)
  | firstFixTimeSet (gnssTime : Nat)
  | slewEnd
  | timeStep
  | ppsEdge (second : Nat) (qerr : Int)
  | timeMessage
  | skyColdStart (sess : Nat)
  | skyDropAmbiguities (sess : Nat)
  | skylightStop
  | rtcWrite
  | ptpSyncReceive (port : Nat) (offset : Int) (accuracy : Nat)
  | ptpSyncDepart (port : Nat)
  | pdelayExchange (port : Nat) (delay : Int)
  | announceTimeout
  | acceptRefusedStep (sess : Nat)
  | discardRefusedStep (sess : Nat)
  | ethLinkChange (p : Nat) (up : Bool)
  | netConfigWrite (sess index sub : Nat) (v : Val)
  -- CAN
  | canFrameTransmit (c : Nat) (outcome : CanTxOutcome) (stamp tdc : Nat)
  | canFrameReceive (c : Nat) (frame : CanFrame) (stamp : Nat)
  | busOff (c : Nat)
  | busOffRecovery (c : Nat)
  | resumeObject (sess c obj : Nat)
  | leaveBusOff (sess c : Nat)
  | txdTimeout (c : Nat)
  | protocolException (c : Nat)
  | frameSend (sess : Nat) (rec : Bytes)
  | frameCancel (sess : Nat) (v : Int)
  | referenceMessage (sent : Bool) (stamp : Nat)
  | refResume (sess : Nat) (v : Int)
  | addressClaim (k : Nat) (outcome : ClaimOutcome)
  | addressReclaim (k new : Nat)
  | canChannelConfigWrite (sess c sub : Nat) (v : Int)
  -- sessions, persistence, aborts
  | sessionOpen (tr : Transport) (source : Nat)
  | roleRequest (sess : Nat) (v : Int)
  | challenge (sess : Nat) (random : Bytes)
  | response (sess : Nat) (r : Bytes)
  | roleLockoutEnd (source : Nat)
  | sessionTimeout (sess : Nat)
  | sessionClose (sess : Nat) (v : Int)
  | datagram (tr : Transport) (ip : Nat) (data : Bytes)
  | transferTimeout (sess : Nat)
  | store (sess : Nat) (v : Int)
  | storeComplete
  | restoreDefaults (sess : Nat) (v : Int)
  | persistentWrite (layer key : Nat) (v : Val) (okA okB okC : Bool)
  | layerBuild
  | persistSnapshot (sess : Nat) (v : Int)
  | confirmCommand (sess : Nat) (v : Int)
  | eolFuse (sess : Nat) (v : Int)
  | abortTransfer (sess target : Nat)
  | abortFunction (sess f : Nat)
  | abortAllFunctions (sess : Nat)
  | abortPassageReset (sess : Nat)
  | abortUpdate (sess : Nat)
  | objectWrite (sess index sub : Nat) (data : Bytes)
  -- Flowstone
  | flowstoneRecord (ev : FlowEv)
  | suppressionSummary
  | flush
  | flushComplete
  | flushFailed (error : Nat)
  | tornGroupDiscard (count : Nat)
  | readWindow (sess : Nat)
  | clearHide (sess : Nat)
  | clearFot (sess : Nat)
  | clearCounters (sess : Nat)
  | eraseRing (sess : Nat)
  | fotLookup (sess : Nat) (code : Int)
  -- Lantern
  | verticalBlanking (x : BlankIn)
  | linePacket (n : Nat) (pixels : Bytes)
  | linkTraining (locked : Bool)
  | locknLow
  | panelPowerUp
  | panelPowerDown
  | fastPowerDown
  | vpnlFault
  | panelRetry
  | panelCommand (sess : Nat) (v : Int)
  | panelEnableWrite (sess : Nat) (v : Int)
  | vcomFault (set : Bool)
  | vtSwapRequest
  -- supply
  | brownoutOpen (mV : Nat)
  | brownoutClose (minMv duration : Nat)
  | resetLevelHoldup (mV : Nat)
  | resetLevelNoHoldup
  | holdupArmed (energy : Nat) (enough : Bool)
  | holdupRestartWaitEnd
  | batteryOvervoltage (above : Bool)
  | systemVoltageDetect (meanMv : Nat)
  | belayPowerLoss
  | thermalThrottle (on : Bool)
  | thermalCritical
  -- updates
  | updateOffer (src : UpSource) (rec : Bytes)
  | updateBlock (src : UpSource) (offset : Nat) (data : Bytes)
  | fleetUpdateMessage (stamp : Nat) (entries : List ObjEntry)
  | updateCommit (src : UpSource)
  | updateAbort (src : UpSource)
  | withdrawStaged (src : UpSource) (region : Nat)
  | confirmRegion (src : UpSource) (region : Nat)
  | fallBack (src : UpSource) (region : Nat)
  | leaveLadder (sess : Nat)
  | galHandover (accepted converted : Bool)
  | mdpLiveApply
  | lanHandover
  | imageStaged
  | stagedCopy (region : Nat) (verified selfTest converted : Bool)
  | orphanHoldExpiry
  | probationEnd (region : Nat)
  | engineRestartFallBack (region : Nat)
  | ladderImageWrite (sess : Nat) (hdr sig : Bytes) (body : Bytes)
  -- rows the table lists last
  | ignKeysvcFall (ign keysvc : Bool)
  | announceReceive (port : Nat) (better : Bool) (accuracy : Nat)
  | nextParcelNorWrite
  | usbVbusChange (present : Bool)
  | sessionLinkDownExpiry (p : Nat)
  deriving DecidableEq, Repr

end Sys2Proof
end

