-- ==== Sys2Proof/Machine/ObjTable.lean ====
section
/-! DEFINITION. The objects of the parameter dictionary as one table: first index, number of indices, sub-index, data type, access,
default, permitted values (for a byte string its permitted lengths; an empty list permits all) and who may write (15 R334, R336–R338 and the
chapters' object tables). Defaults and ranges are the tables' own; see log 8 for the ranges a table states in words only. -/

namespace Sys2Proof.Machine

/-- Object data types (15 Table 15-1). -/
inductive ObjTy where
  | u8 | u16 | u32 | u64 | i8 | i16 | i32 | i64 | bool | domain | octet | vis
  deriving DecidableEq, Repr

/-- Access codes (00 R7). -/
inductive Acc where
  | ro | rw | wo
  deriving DecidableEq, Repr

/-- Who may write (15 R337, R338): the session itself without a role, any role, OEM or Service, Service only, OEM only, Factory. -/
inductive Right where
  | own | op | os | svc | oem | fac
  deriving DecidableEq, Repr

/-- A default: one number, one for each index, bytes, `n` equal bytes, or the overdrive grid of 17 R384. -/
inductive Dflt where
  | num (i : Int)
  | nums (l : List Int)
  | raw (l : List Nat)
  | fill (n b : Nat)
  | odGrid
  deriving DecidableEq, Repr

/-- One row of an object table. -/
structure ObjRow where
  lo : Nat
  count : Nat
  sub : Nat
  ty : ObjTy
  acc : Acc
  dflt : Dflt
  check : List (Int × Int)
  right : Right
  deriving DecidableEq, Repr

/-- Objects 0x1000–0x10FF. -/
def objs10 : List ObjRow := [
  ⟨0x1000, 1, 0x00, .u32, .ro, .num 0, [], .os⟩,
  ⟨0x1008, 1, 0x00, .vis, .ro, .num 0, [], .os⟩,
  ⟨0x1009, 1, 0x00, .vis, .ro, .num 0, [], .os⟩,
  ⟨0x100A, 1, 0x00, .vis, .ro, .num 0, [], .os⟩,
  ⟨0x1018, 1, 0x00, .u8, .ro, .num 0, [], .os⟩,
  ⟨0x1018, 1, 0x01, .u32, .ro, .num 0, [], .os⟩,
  ⟨0x1018, 1, 0x02, .u32, .ro, .num 0, [], .os⟩,
  ⟨0x1018, 1, 0x03, .u32, .ro, .num 0, [], .os⟩,
  ⟨0x1018, 1, 0x04, .u32, .ro, .num 0, [], .os⟩,
  ⟨0x1010, 1, 0x01, .u32, .rw, .num 0, [], .os⟩,
  ⟨0x1011, 1, 0x01, .u32, .rw, .num 0, [], .os⟩]

/-- Objects 0x2000–0x20FF. -/
def objs20 : List ObjRow := [
  ⟨0x2000, 1, 0x01, .u8, .ro, .num 0, [], .os⟩,
  ⟨0x2000, 1, 0x02, .u8, .rw, .num 4, [(4, 5), (7, 7)], .os⟩,
  ⟨0x2000, 1, 0x03, .u16, .rw, .num 2000, [(100, 60000)], .os⟩,
  ⟨0x2000, 1, 0x04, .u16, .rw, .num 72, [(0, 720)], .os⟩,
  ⟨0x2010, 1, 0x01, .u8, .rw, .num 0, [(0, 0), (1, 1), (2, 2)], .os⟩,
  ⟨0x2010, 1, 0x02, .u8, .ro, .num 0, [], .os⟩,
  ⟨0x2010, 1, 0x03, .u16, .rw, .num 10000, [(2000, 60000)], .os⟩,
  ⟨0x2011, 1, 0x01, .u16, .ro, .num 0, [], .os⟩,
  ⟨0x2011, 1, 0x02, .u8, .ro, .num 0, [], .os⟩,
  ⟨0x2011, 1, 0x03, .u16, .ro, .num 0, [], .os⟩,
  ⟨0x2011, 1, 0x04, .u32, .ro, .num 0, [], .os⟩,
  ⟨0x2011, 1, 0x05, .u16, .ro, .num 0, [], .os⟩,
  ⟨0x2011, 1, 0x06, .u32, .ro, .num 0, [], .os⟩,
  ⟨0x2011, 1, 0x07, .u16, .ro, .num 0, [], .os⟩,
  ⟨0x2012, 1, 0x01, .u8, .ro, .num 0, [], .os⟩,
  ⟨0x2012, 1, 0x02, .u16, .ro, .num 0, [], .os⟩,
  ⟨0x2012, 1, 0x03, .u16, .ro, .num 0, [], .os⟩,
  ⟨0x2012, 1, 0x04, .u16, .ro, .num 0, [], .os⟩,
  ⟨0x2012, 1, 0x05, .u32, .ro, .num 0, [], .os⟩,
  ⟨0x2013, 1, 0x01, .u64, .rw, .num 0, [], .os⟩,
  ⟨0x2013, 1, 0x02, .u32, .rw, .num 0, [(0, 0), (600, 2592000)], .os⟩,
  ⟨0x2013, 1, 0x03, .u8, .ro, .num 0, [], .os⟩,
  ⟨0x2013, 1, 0x04, .u8, .ro, .num 0, [], .os⟩,
  ⟨0x2013, 1, 0x05, .bool, .ro, .num 0, [], .os⟩,
  ⟨0x2013, 1, 0x06, .domain, .ro, .num 0, [], .os⟩,
  ⟨0x2014, 1, 0x01, .i16, .ro, .num 0, [], .os⟩,
  ⟨0x2014, 1, 0x02, .i16, .ro, .num 0, [], .os⟩,
  ⟨0x2014, 1, 0x03, .u8, .ro, .num 0, [], .os⟩,
  ⟨0x2014, 1, 0x04, .u32, .ro, .num 0, [], .os⟩]

/-- Objects 0x2100–0x21FF. -/
def objs21 : List ObjRow := [
  ⟨0x2100, 1, 0x01, .u8, .ro, .num 0, [], .os⟩,
  ⟨0x2100, 1, 0x02, .u8, .wo, .num 0, [(1, 4)], .own⟩,
  ⟨0x2100, 1, 0x03, .octet, .ro, .num 0, [], .os⟩,
  ⟨0x2100, 1, 0x04, .octet, .wo, .num 0, [(32, 32)], .own⟩,
  ⟨0x2100, 1, 0x05, .u8, .ro, .num 0, [], .os⟩,
  ⟨0x2100, 1, 0x06, .u16, .rw, .num 30, [(5, 600)], .own⟩,
  ⟨0x2100, 1, 0x07, .u8, .wo, .num 0, [(1, 1)], .own⟩,
  ⟨0x2100, 1, 0x08, .u8, .ro, .num 0, [], .os⟩,
  ⟨0x2101, 1, 0x01, .u8, .ro, .num 0, [], .os⟩,
  ⟨0x2101, 1, 0x02, .domain, .ro, .num 0, [], .os⟩,
  ⟨0x2101, 1, 0x03, .u32, .ro, .num 0, [], .os⟩,
  ⟨0x2102, 1, 0x01, .vis, .wo, .num 0, [(0, 32)], .op⟩,
  ⟨0x2102, 1, 0x02, .octet, .wo, .num 0, [(32, 32)], .oem⟩,
  ⟨0x2102, 1, 0x03, .octet, .wo, .num 0, [(32, 32)], .oem⟩,
  ⟨0x2102, 1, 0x04, .octet, .rw, .raw [], [(97, 97)], .oem⟩,
  ⟨0x2102, 1, 0x05, .u32, .ro, .num 0, [], .os⟩,
  ⟨0x2103, 1, 0x01, .u8, .rw, .num 126, [(1, 127)], .os⟩,
  ⟨0x2103, 1, 0x02, .u8, .rw, .num 15, [(0, 15)], .os⟩,
  ⟨0x2110, 1, 0x01, .u32, .ro, .num 0, [], .os⟩,
  ⟨0x2110, 1, 0x02, .u32, .ro, .num 0, [], .os⟩,
  ⟨0x2110, 1, 0x03, .u8, .ro, .num 0, [], .os⟩,
  ⟨0x2110, 1, 0x04, .u32, .ro, .num 0, [], .os⟩,
  ⟨0x2110, 1, 0x05, .u32, .ro, .num 0, [], .os⟩,
  ⟨0x2140, 1, 0x01, .u8, .rw, .num 1, [(1, 1), (2, 2), (3, 3)], .op⟩,
  ⟨0x2140, 1, 0x02, .u32, .rw, .num 0, [(0, 16777215)], .op⟩,
  ⟨0x2140, 1, 0x03, .u8, .wo, .num 0, [(1, 1)], .op⟩,
  ⟨0x2140, 1, 0x04, .u8, .ro, .num 0, [], .os⟩,
  ⟨0x2140, 1, 0x05, .domain, .ro, .num 0, [], .os⟩,
  ⟨0x2140, 1, 0x06, .domain, .ro, .num 0, [], .os⟩,
  ⟨0x2140, 1, 0x07, .domain, .ro, .num 0, [], .os⟩,
  ⟨0x2140, 1, 0x08, .domain, .ro, .num 0, [], .os⟩,
  ⟨0x2140, 1, 0x09, .domain, .ro, .num 0, [], .os⟩,
  ⟨0x2140, 1, 0x0A, .u8, .ro, .num 0, [], .os⟩,
  ⟨0x2140, 1, 0x0B, .u8, .wo, .num 0, [(1, 4)], .svc⟩,
  ⟨0x2141, 1, 0x01, .u16, .ro, .num 0, [], .os⟩,
  ⟨0x2141, 1, 0x02, .domain, .ro, .num 0, [], .os⟩]

/-- Objects 0x2200–0x22FF. -/
def objs22 : List ObjRow := [
  ⟨0x2200, 1, 0x01, .u32, .wo, .num 0, [], .op⟩,
  ⟨0x2200, 1, 0x02, .u8, .ro, .num 0, [], .os⟩,
  ⟨0x2200, 1, 0x03, .u64, .ro, .num 0, [], .os⟩,
  ⟨0x2200, 1, 0x04, .u64, .ro, .num 0, [], .os⟩]

/-- Objects 0x2800–0x28FF. -/
def objs28 : List ObjRow := [
  ⟨0x2800, 48, 0x01, .u8, .rw, .num 1, [(1, 3)], .op⟩,
  ⟨0x2800, 48, 0x02, .u8, .rw, .num 1, [(1, 1), (2, 2), (3, 3)], .os⟩,
  ⟨0x2800, 48, 0x03, .i32, .rw, .num 0, [], .op⟩,
  ⟨0x2800, 48, 0x04, .i32, .rw, .num 0, [], .os⟩,
  ⟨0x2800, 48, 0x05, .i32, .rw, .num 10000, [], .os⟩,
  ⟨0x2800, 48, 0x06, .u32, .rw, .num 0, [], .os⟩,
  ⟨0x2800, 48, 0x07, .u32, .rw, .num 0, [], .os⟩,
  ⟨0x2800, 48, 0x08, .u8, .rw, .num 0, [(0, 3)], .os⟩,
  ⟨0x2800, 48, 0x09, .u8, .rw, .num 255, [(1, 12), (64, 87), (255, 255)], .os⟩,
  ⟨0x2800, 48, 0x0A, .i32, .rw, .num 65536, [], .os⟩,
  ⟨0x2800, 48, 0x0B, .i16, .rw, .num 0, [], .op⟩,
  ⟨0x2800, 48, 0x0C, .u8, .rw, .num 0, [(0, 2)], .os⟩,
  ⟨0x2800, 48, 0x0D, .i16, .rw, .num 0, [], .os⟩,
  ⟨0x2800, 48, 0x0E, .u16, .ro, .num 0, [], .os⟩,
  ⟨0x2800, 48, 0x0F, .i32, .ro, .num 0, [], .os⟩,
  ⟨0x2800, 48, 0x10, .i32, .ro, .num 0, [], .os⟩,
  ⟨0x2800, 48, 0x11, .i32, .ro, .num 0, [], .os⟩,
  ⟨0x2800, 48, 0x12, .i32, .ro, .num 0, [], .os⟩,
  ⟨0x2800, 48, 0x13, .u8, .wo, .num 0, [(1, 1)], .os⟩,
  ⟨0x2800, 48, 0x14, .u32, .ro, .num 0, [], .os⟩]

/-- Objects 0x3000–0x30FF. -/
def objs30 : List ObjRow := [
  ⟨0x3000, 128, 0x01, .bool, .rw, .num 0, [(0, 1)], .os⟩,
  ⟨0x3000, 128, 0x02, .u8, .rw, .num 255, [(0, 47), (255, 255)], .os⟩,
  ⟨0x3000, 128, 0x03, .u8, .rw, .num 2, [(1, 4)], .os⟩,
  ⟨0x3000, 128, 0x04, .u8, .rw, .num 0, [], .os⟩,
  ⟨0x3000, 128, 0x05, .i32, .rw, .num 0, [], .os⟩,
  ⟨0x3000, 128, 0x06, .i32, .rw, .num 32768, [], .os⟩,
  ⟨0x3000, 128, 0x07, .u8, .rw, .num 0, [(0, 0), (128, 255)], .os⟩,
  ⟨0x3000, 128, 0x08, .bool, .rw, .num 0, [(0, 1)], .os⟩,
  ⟨0x3000, 128, 0x09, .u8, .rw, .num 0, [(0, 32), (48, 95)], .os⟩,
  ⟨0x3000, 128, 0x0A, .u8, .rw, .num 0, [(0, 32), (48, 95)], .os⟩,
  ⟨0x3000, 128, 0x0B, .i32, .rw, .num 3500, [], .os⟩,
  ⟨0x3000, 128, 0x0C, .i16, .rw, .num 16384, [], .os⟩,
  ⟨0x3000, 128, 0x0D, .u16, .rw, .num 1638, [], .os⟩,
  ⟨0x3000, 128, 0x0E, .u8, .rw, .num 1, [(0, 2)], .os⟩,
  ⟨0x3000, 128, 0x0F, .u8, .rw, .num 0, [(0, 7)], .os⟩,
  ⟨0x3000, 128, 0x10, .domain, .rw, .raw [3, 229, 0, 0, 0, 1, 0, 0, 0, 0, 255, 127, 0, 128, 255, 127, 0, 128, 0, 0, 0, 0, 0, 0, 0, 0, 0, 0, 0, 0, 0, 0], [(32, 32)], .os⟩,
  ⟨0x3000, 128, 0x11, .domain, .rw, .raw [3, 229, 0, 0, 0, 1, 0, 0, 0, 0, 255, 127, 0, 128, 255, 127, 0, 128, 0, 0, 0, 0, 0, 0, 0, 0, 0, 0, 0, 0, 0, 0], [(32, 32)], .os⟩,
  ⟨0x3000, 128, 0x12, .u8, .ro, .num 0, [], .os⟩,
  ⟨0x3000, 128, 0x13, .u8, .wo, .num 0, [(1, 1)], .os⟩,
  ⟨0x3000, 128, 0x14, .u16, .ro, .num 0, [], .os⟩,
  ⟨0x3000, 128, 0x15, .u8, .ro, .num 0, [], .os⟩,
  ⟨0x3000, 128, 0x16, .u16, .ro, .num 0, [], .os⟩,
  ⟨0x3000, 128, 0x17, .u16, .ro, .num 0, [], .os⟩,
  ⟨0x3000, 128, 0x18, .u8, .ro, .num 0, [], .os⟩,
  ⟨0x3000, 128, 0x19, .domain, .ro, .num 0, [], .os⟩,
  ⟨0x3000, 128, 0x1A, .u32, .ro, .num 0, [], .os⟩,
  ⟨0x3000, 128, 0x1B, .u32, .ro, .num 0, [], .os⟩]

/-- Objects 0x3400–0x34FF. -/
def objs34 : List ObjRow := [
  ⟨0x3400, 128, 0x01, .u8, .rw, .num 255, [(0, 0), (1, 12), (33, 34), (255, 255)], .os⟩,
  ⟨0x3400, 128, 0x02, .u32, .rw, .num 512, [(2, 16777216)], .os⟩,
  ⟨0x3400, 128, 0x03, .i16, .rw, .num 0, [(0, 16384)], .os⟩,
  ⟨0x3400, 128, 0x04, .i16, .rw, .num 32604, [(29491, 32767)], .os⟩,
  ⟨0x3400, 128, 0x05, .u16, .rw, .num 0, [], .os⟩,
  ⟨0x3400, 128, 0x06, .u8, .rw, .num 1, [(0, 0), (1, 1)], .os⟩,
  ⟨0x3400, 128, 0x07, .i16, .rw, .num 3277, [(0, 32767)], .os⟩,
  ⟨0x3400, 128, 0x08, .i16, .rw, .num 8192, [], .os⟩,
  ⟨0x3400, 128, 0x09, .u32, .rw, .num 32768, [], .os⟩,
  ⟨0x3400, 128, 0x0A, .bool, .rw, .num 1, [(0, 1)], .os⟩,
  ⟨0x3400, 128, 0x0B, .bool, .rw, .num 0, [(0, 1)], .os⟩,
  ⟨0x3400, 128, 0x0C, .u8, .wo, .num 0, [(1, 4)], .os⟩,
  ⟨0x3400, 128, 0x0D, .domain, .rw, .fill 1024 0, [(1024, 1024)], .os⟩,
  ⟨0x3400, 128, 0x0E, .u16, .ro, .num 0, [], .os⟩,
  ⟨0x3400, 128, 0x0F, .u16, .ro, .num 0, [], .os⟩,
  ⟨0x3400, 128, 0x10, .u8, .rw, .num 255, [(33, 34), (64, 87), (96, 111), (254, 254), (255, 255)], .os⟩,
  ⟨0x3400, 128, 0x11, .i32, .rw, .num 0, [], .os⟩,
  ⟨0x3400, 128, 0x12, .i32, .rw, .num 32767, [], .os⟩,
  ⟨0x3400, 128, 0x13, .u8, .rw, .num 0, [(0, 0), (1, 12)], .os⟩,
  ⟨0x3400, 128, 0x14, .i32, .rw, .num 256, [(1, 2147483647)], .os⟩,
  ⟨0x3400, 128, 0x15, .domain, .rw, .fill 512 0, [(512, 512)], .os⟩,
  ⟨0x3400, 128, 0x16, .domain, .rw, .fill 512 0, [(512, 512)], .os⟩,
  ⟨0x3400, 128, 0x17, .domain, .ro, .num 0, [], .os⟩,
  ⟨0x3400, 128, 0x18, .u32, .ro, .num 0, [], .os⟩]

/-- Objects 0x3600–0x36FF. -/
def objs36 : List ObjRow := [
  ⟨0x3600, 1, 0x01, .u8, .wo, .num 0, [(1, 1), (2, 2), (3, 3), (4, 4)], .os⟩,
  ⟨0x3600, 1, 0x02, .u8, .ro, .num 0, [], .os⟩,
  ⟨0x3600, 1, 0x03, .u8, .rw, .num 0, [(0, 0), (1, 1)], .os⟩,
  ⟨0x3600, 1, 0x04, .u16, .rw, .num 1, [(1, 10000)], .os⟩,
  ⟨0x3600, 1, 0x05, .u16, .rw, .num 1024, [(0, 8191)], .os⟩,
  ⟨0x3600, 1, 0x06, .u8, .rw, .num 0, [(0, 7)], .os⟩,
  ⟨0x3600, 1, 0x07, .u32, .rw, .num 0, [], .os⟩,
  ⟨0x3600, 1, 0x08, .i16, .rw, .num 0, [], .os⟩,
  ⟨0x3600, 1, 0x09, .u8, .rw, .num 1, [(1, 1), (2, 2), (3, 3)], .os⟩,
  ⟨0x3600, 1, 0x0A, .u8, .rw, .num 0, [(0, 0), (1, 1)], .os⟩,
  ⟨0x3600, 1, 0x0B, .u16, .ro, .num 0, [], .os⟩,
  ⟨0x3600, 1, 0x0C, .u64, .ro, .num 0, [], .os⟩,
  ⟨0x3600, 1, 0x0D, .u64, .ro, .num 0, [], .os⟩,
  ⟨0x3600, 1, 0x0E, .u64, .ro, .num 0, [], .os⟩,
  ⟨0x3600, 1, 0x0F, .u8, .ro, .num 0, [], .os⟩,
  ⟨0x3600, 1, 0x10, .u16, .ro, .num 0, [], .os⟩,
  ⟨0x3610, 8, 0x01, .u8, .rw, .num 0, [], .os⟩,
  ⟨0x3610, 8, 0x02, .u8, .rw, .num 0, [], .os⟩,
  ⟨0x3610, 8, 0x03, .u8, .rw, .num 0, [(0, 31)], .os⟩,
  ⟨0x3610, 8, 0x04, .u8, .ro, .num 0, [], .os⟩,
  ⟨0x3620, 1, 0x01, .u8, .rw, .num 0, [(0, 7)], .op⟩,
  ⟨0x3620, 1, 0x02, .u16, .rw, .num 0, [(0, 8191)], .op⟩,
  ⟨0x3620, 1, 0x03, .domain, .ro, .num 0, [], .os⟩,
  ⟨0x3620, 1, 0x04, .u32, .ro, .num 0, [], .os⟩]

/-- Objects 0x3800–0x38FF, part 1. -/
def objs38a : List ObjRow := [
  ⟨0x3800, 10, 0x01, .u8, .rw, .nums [32, 1, 2, 2, 3, 4, 4, 0, 5, 6], [(0, 0), (1, 12), (32, 32)], .os⟩,
  ⟨0x3800, 10, 0x02, .u32, .rw, .nums [65536, 65536, 65536, 65536, 65536, 65536, 65536, 65536, 65536, 65536], [], .os⟩,
  ⟨0x3800, 10, 0x03, .u32, .rw, .nums [131072000, 104857600, 393216, 589824, 917504, 1441792, 262144, 0, 2621440, 1966080], [], .os⟩,
  ⟨0x3800, 10, 0x04, .u32, .rw, .nums [131072000, 104857600, 393216, 589824, 917504, 1441792, 262144, 0, 2621440, 1966080], [], .os⟩,
  ⟨0x3800, 10, 0x05, .u16, .rw, .num 500, [], .os⟩,
  ⟨0x3800, 10, 0x06, .u16, .rw, .num 3000, [], .os⟩,
  ⟨0x3800, 10, 0x07, .u32, .rw, .nums [3276800, 2621440, 9830, 14745, 22937, 36044, 6553, 0, 65536, 49152], [], .os⟩,
  ⟨0x3800, 10, 0x08, .i16, .rw, .num 0, [(0, 32767)], .os⟩,
  ⟨0x3800, 10, 0x09, .i16, .rw, .num 0, [(0, 32767)], .os⟩,
  ⟨0x3800, 10, 0x0A, .i16, .rw, .num 0, [(0, 32767)], .os⟩,
  ⟨0x3800, 10, 0x0B, .i16, .rw, .num 0, [(0, 32767)], .os⟩,
  ⟨0x3800, 10, 0x0C, .i16, .rw, .num 1311, [(0, 32767)], .os⟩,
  ⟨0x3800, 10, 0x0D, .i16, .rw, .num 3277, [(0, 32767)], .os⟩,
  ⟨0x3800, 10, 0x0E, .i16, .rw, .num 6226, [(0, 32767)], .os⟩,
  ⟨0x3800, 10, 0x0F, .i16, .rw, .num 8192, [(0, 32767)], .os⟩,
  ⟨0x3800, 10, 0x10, .i16, .rw, .num 6881, [(0, 32767)], .os⟩,
  ⟨0x3800, 10, 0x11, .i16, .rw, .num 4260, [(0, 32767)], .os⟩,
  ⟨0x3800, 10, 0x12, .i16, .rw, .num 1966, [(0, 32767)], .os⟩,
  ⟨0x3800, 10, 0x13, .i16, .rw, .num 655, [(0, 32767)], .os⟩,
  ⟨0x3800, 10, 0x14, .i16, .rw, .num 0, [(0, 32767)], .os⟩,
  ⟨0x3800, 10, 0x15, .i16, .rw, .num 0, [(0, 32767)], .os⟩,
  ⟨0x3800, 10, 0x16, .i16, .rw, .num 0, [(0, 32767)], .os⟩,
  ⟨0x3800, 10, 0x17, .i16, .rw, .num 0, [(0, 32767)], .os⟩,
  ⟨0x3800, 10, 0x18, .u16, .rw, .num 500, [(20, 5000)], .os⟩,
  ⟨0x3800, 10, 0x19, .u8, .rw, .nums [0, 1, 1, 1, 0, 0, 0, 0, 0, 0], [(0, 0), (1, 1), (2, 2)], .os⟩,
  ⟨0x3800, 10, 0x1A, .u8, .rw, .num 255, [(0, 47), (255, 255)], .os⟩,
  ⟨0x3800, 10, 0x1B, .u8, .rw, .num 16, [(8, 64)], .os⟩,
  ⟨0x3800, 10, 0x1C, .u16, .ro, .num 0, [], .os⟩,
  ⟨0x3800, 10, 0x1D, .i32, .ro, .num 0, [], .os⟩,
  ⟨0x3800, 10, 0x1E, .u16, .ro, .num 0, [], .os⟩,
  ⟨0x3800, 10, 0x1F, .i64, .ro, .num 0, [], .os⟩,
  ⟨0x3810, 1, 0x01, .u16, .rw, .num 250, [(100, 1000)], .os⟩,
  ⟨0x3810, 1, 0x02, .u16, .rw, .num 200, [(50, 400)], .os⟩,
  ⟨0x3810, 1, 0x03, .u8, .rw, .num 254, [(0, 47), (64, 87), (254, 254)], .os⟩,
  ⟨0x3810, 1, 0x04, .i16, .rw, .num 2500, [], .os⟩,
  ⟨0x3810, 1, 0x05, .u16, .rw, .num 200, [], .os⟩,
  ⟨0x3810, 1, 0x06, .u8, .rw, .num 0, [(0, 0), (1, 1)], .os⟩,
  ⟨0x3810, 1, 0x07, .u16, .rw, .num 9000, [(1000, 18000)], .os⟩,
  ⟨0x3810, 1, 0x08, .u8, .rw, .num 255, [(1, 12), (255, 255)], .os⟩,
  ⟨0x3810, 1, 0x09, .u32, .ro, .num 0, [], .os⟩,
  ⟨0x3810, 1, 0x0A, .u8, .rw, .num 255, [(64, 87), (255, 255)], .os⟩,
  ⟨0x3810, 1, 0x0B, .i16, .rw, .num 16384, [], .os⟩,
  ⟨0x3810, 1, 0x0C, .u8, .rw, .num 25, [(15, 80)], .os⟩,
  ⟨0x3810, 1, 0x0D, .u16, .rw, .num 500, [(100, 2000)], .os⟩,
  ⟨0x3810, 1, 0x0E, .i16, .rw, .num 0, [], .os⟩,
  ⟨0x3810, 1, 0x0F, .i16, .rw, .num 0, [], .os⟩,
  ⟨0x3811, 1, 0x01, .u32, .ro, .num 0, [], .os⟩,
  ⟨0x3811, 1, 0x02, .u32, .ro, .num 0, [], .os⟩,
  ⟨0x3811, 1, 0x03, .u16, .ro, .num 0, [], .os⟩,
  ⟨0x3811, 1, 0x04, .u16, .ro, .num 0, [], .os⟩,
  ⟨0x3811, 1, 0x05, .u32, .ro, .num 0, [], .os⟩,
  ⟨0x3811, 1, 0x06, .u32, .ro, .num 0, [], .os⟩,
  ⟨0x3811, 1, 0x07, .u32, .ro, .num 0, [], .os⟩,
  ⟨0x3811, 1, 0x08, .u32, .ro, .num 0, [], .os⟩,
  ⟨0x3811, 1, 0x09, .u32, .ro, .num 0, [], .os⟩,
  ⟨0x3880, 1, 0x01, .u32, .rw, .num 0, [], .op⟩,
  ⟨0x3880, 1, 0x02, .u8, .wo, .num 0, [(1, 1)], .op⟩,
  ⟨0x3880, 1, 0x03, .u8, .ro, .num 0, [], .os⟩,
  ⟨0x3880, 1, 0x04, .u64, .ro, .num 0, [], .os⟩,
  ⟨0x3880, 1, 0x05, .u64, .ro, .num 0, [], .os⟩]

/-- Objects 0x3800–0x38FF, part 2. -/
def objs38b : List ObjRow := [
  ⟨0x3880, 1, 0x06, .u64, .ro, .num 0, [], .os⟩,
  ⟨0x3880, 1, 0x07, .u16, .ro, .num 0, [], .os⟩,
  ⟨0x3880, 1, 0x08, .u16, .ro, .num 0, [], .os⟩,
  ⟨0x3880, 1, 0x09, .u32, .ro, .num 0, [], .os⟩,
  ⟨0x3880, 1, 0x0A, .i32, .ro, .num 0, [], .os⟩,
  ⟨0x3880, 1, 0x0B, .i32, .ro, .num 0, [], .os⟩,
  ⟨0x3880, 1, 0x0C, .i32, .ro, .num 0, [], .os⟩,
  ⟨0x3880, 1, 0x0D, .i32, .ro, .num 0, [], .os⟩,
  ⟨0x3880, 1, 0x0E, .u32, .ro, .num 0, [], .os⟩,
  ⟨0x3880, 1, 0x0F, .u8, .ro, .num 0, [], .os⟩,
  ⟨0x3880, 1, 0x10, .i32, .ro, .num 0, [], .os⟩,
  ⟨0x3880, 1, 0x11, .u8, .ro, .num 0, [], .os⟩,
  ⟨0x3880, 1, 0x12, .u32, .ro, .num 0, [], .os⟩,
  ⟨0x3880, 1, 0x13, .u16, .ro, .num 0, [], .os⟩,
  ⟨0x3880, 1, 0x14, .u32, .ro, .num 0, [], .os⟩,
  ⟨0x3880, 1, 0x15, .u32, .ro, .num 0, [], .os⟩,
  ⟨0x3880, 1, 0x16, .u16, .ro, .num 0, [], .os⟩,
  ⟨0x3880, 1, 0x17, .u8, .ro, .num 0, [], .os⟩,
  ⟨0x3880, 1, 0x18, .u32, .ro, .num 0, [], .os⟩,
  ⟨0x3880, 1, 0x19, .u16, .ro, .num 0, [], .os⟩,
  ⟨0x3880, 1, 0x1A, .u16, .ro, .num 0, [], .os⟩,
  ⟨0x3820, 1, 0x01, .domain, .wo, .num 0, [(24, 24)], .os⟩,
  ⟨0x3820, 1, 0x02, .u8, .ro, .num 0, [], .os⟩,
  ⟨0x3820, 1, 0x03, .u32, .ro, .num 0, [], .os⟩,
  ⟨0x3820, 1, 0x04, .u32, .wo, .num 0, [], .os⟩,
  ⟨0x3820, 1, 0x05, .u8, .ro, .num 0, [], .os⟩,
  ⟨0x3820, 1, 0x06, .u16, .ro, .num 0, [], .os⟩,
  ⟨0x3812, 1, 0x01, .u8, .wo, .num 0, [(1, 1), (2, 2), (3, 3), (4, 4)], .os⟩,
  ⟨0x3812, 1, 0x02, .u8, .rw, .num 3, [(0, 9)], .os⟩,
  ⟨0x3812, 1, 0x03, .u8, .ro, .num 0, [], .os⟩,
  ⟨0x3812, 1, 0x04, .u16, .ro, .num 0, [], .os⟩,
  ⟨0x3812, 1, 0x05, .u32, .ro, .num 0, [], .os⟩,
  ⟨0x3812, 1, 0x06, .u32, .ro, .num 0, [], .os⟩,
  ⟨0x3812, 1, 0x07, .domain, .ro, .num 0, [], .os⟩,
  ⟨0x3812, 1, 0x08, .bool, .rw, .num 0, [(0, 1)], .os⟩,
  ⟨0x3812, 1, 0x09, .i16, .ro, .num 0, [], .os⟩,
  ⟨0x38A0, 1, 0x01, .bool, .rw, .num 0, [(0, 1)], .os⟩,
  ⟨0x38A0, 1, 0x02, .u16, .rw, .num 40000, [(5000, 40000)], .os⟩,
  ⟨0x38A0, 1, 0x03, .u16, .rw, .num 4915, [(1638, 16384)], .os⟩,
  ⟨0x38A0, 1, 0x04, .u16, .rw, .num 50, [(0, 500)], .os⟩,
  ⟨0x38A0, 1, 0x05, .u8, .rw, .num 20, [(5, 100)], .os⟩,
  ⟨0x38A0, 1, 0x06, .u16, .rw, .num 10000, [(0, 40000)], .os⟩,
  ⟨0x38A0, 1, 0x07, .u8, .rw, .num 255, [(64, 87), (255, 255)], .os⟩,
  ⟨0x38A0, 1, 0x08, .u16, .rw, .num 220, [(50, 500)], .os⟩,
  ⟨0x38A0, 1, 0x09, .u16, .rw, .num 2000, [(500, 5000)], .os⟩,
  ⟨0x38A0, 1, 0x0A, .u16, .ro, .num 0, [], .os⟩,
  ⟨0x38A0, 1, 0x0B, .u8, .rw, .num 3, [(1, 20)], .os⟩,
  ⟨0x38A0, 1, 0x0C, .u16, .rw, .num 40, [(0, 400)], .os⟩,
  ⟨0x38A0, 1, 0x0D, .u16, .rw, .num 1000, [(0, 5000)], .os⟩,
  ⟨0x38A0, 1, 0x0E, .u16, .rw, .num 10, [(5, 100)], .os⟩,
  ⟨0x38A8, 8, 0x01, .u8, .rw, .num 255, [(0, 47), (255, 255)], .os⟩,
  ⟨0x38A8, 8, 0x02, .u8, .rw, .num 2, [(0, 4)], .os⟩,
  ⟨0x38A8, 8, 0x03, .u16, .rw, .num 0, [(0, 10000)], .os⟩,
  ⟨0x38A8, 8, 0x04, .i32, .rw, .num 0, [], .os⟩,
  ⟨0x38A8, 8, 0x05, .u16, .rw, .num 3277, [(0, 8192)], .os⟩,
  ⟨0x38A8, 8, 0x06, .u8, .ro, .num 0, [], .os⟩,
  ⟨0x38C0, 1, 0x01, .u32, .rw, .num 0, [], .op⟩,
  ⟨0x38C0, 1, 0x02, .u8, .wo, .num 0, [(1, 1)], .op⟩,
  ⟨0x38C0, 1, 0x03, .u8, .ro, .num 0, [], .os⟩,
  ⟨0x38C0, 1, 0x04, .u64, .ro, .num 0, [], .os⟩]

/-- Objects 0x3800–0x38FF, part 3. -/
def objs38c : List ObjRow := [
  ⟨0x38C0, 1, 0x05, .bool, .ro, .num 0, [], .os⟩,
  ⟨0x38C0, 1, 0x06, .u16, .ro, .num 0, [], .os⟩,
  ⟨0x38C0, 1, 0x07, .u32, .ro, .num 0, [], .os⟩,
  ⟨0x38C0, 1, 0x08, .u8, .ro, .num 0, [], .os⟩,
  ⟨0x38C0, 1, 0x09, .u16, .ro, .num 0, [], .os⟩,
  ⟨0x38C0, 1, 0x0A, .u16, .ro, .num 0, [], .os⟩,
  ⟨0x38C0, 1, 0x0B, .i16, .ro, .num 0, [], .os⟩,
  ⟨0x38C0, 1, 0x0C, .i32, .ro, .num 0, [], .os⟩,
  ⟨0x38C0, 1, 0x0D, .i32, .ro, .num 0, [], .os⟩,
  ⟨0x38C0, 1, 0x0E, .u8, .ro, .num 0, [], .os⟩,
  ⟨0x38C0, 1, 0x0F, .domain, .ro, .num 0, [], .os⟩,
  ⟨0x38C0, 1, 0x10, .u8, .ro, .num 0, [], .os⟩,
  ⟨0x38C0, 1, 0x11, .u8, .ro, .num 0, [], .os⟩,
  ⟨0x38C1, 1, 0x01, .u16, .ro, .num 0, [], .os⟩,
  ⟨0x38C1, 1, 0x02, .u16, .ro, .num 0, [], .os⟩,
  ⟨0x38C1, 1, 0x03, .u32, .ro, .num 0, [], .os⟩,
  ⟨0x38C1, 1, 0x04, .u32, .ro, .num 0, [], .os⟩,
  ⟨0x38C1, 1, 0x05, .domain, .ro, .num 0, [], .os⟩,
  ⟨0x38C1, 1, 0x06, .u16, .ro, .num 0, [], .os⟩]

/-- Objects 0x3A00–0x3AFF. -/
def objs3A : List ObjRow := [
  ⟨0x3A00, 1, 0x01, .u8, .rw, .num 0, [(0, 0), (1, 1), (2, 2)], .op⟩,
  ⟨0x3A00, 1, 0x02, .bool, .rw, .num 0, [(0, 1)], .oem⟩,
  ⟨0x3A00, 1, 0x03, .u16, .rw, .num 256, [], .op⟩,
  ⟨0x3A00, 1, 0x04, .u16, .rw, .num 256, [], .op⟩,
  ⟨0x3A00, 1, 0x05, .u16, .rw, .num 64, [], .op⟩,
  ⟨0x3A00, 1, 0x06, .u16, .rw, .num 512, [], .op⟩,
  ⟨0x3A00, 1, 0x07, .u16, .rw, .num 0, [], .op⟩,
  ⟨0x3A00, 1, 0x08, .u16, .rw, .num 0, [(0, 2000)], .op⟩,
  ⟨0x3A00, 1, 0x09, .u16, .rw, .num 1024, [], .op⟩,
  ⟨0x3A00, 1, 0x0A, .u16, .rw, .num 400, [(1, 60000)], .os⟩,
  ⟨0x3A00, 1, 0x0B, .u16, .rw, .num 400, [(1, 60000)], .os⟩,
  ⟨0x3A00, 1, 0x0C, .u16, .rw, .num 40, [(8, 400)], .os⟩,
  ⟨0x3A00, 1, 0x0D, .u8, .rw, .num 3, [(0, 20)], .os⟩,
  ⟨0x3A00, 1, 0x0E, .u16, .rw, .num 20, [(0, 200)], .os⟩,
  ⟨0x3A00, 1, 0x0F, .u8, .rw, .num 2, [(1, 8)], .os⟩,
  ⟨0x3A00, 1, 0x10, .u16, .rw, .num 20, [(4, 400)], .os⟩,
  ⟨0x3A00, 1, 0x11, .u16, .rw, .num 90, [(60, 600)], .os⟩,
  ⟨0x3A00, 1, 0x12, .u16, .rw, .num 8192, [], .os⟩,
  ⟨0x3A00, 1, 0x13, .u16, .rw, .num 200, [(100, 1000)], .os⟩,
  ⟨0x3A00, 1, 0x14, .u16, .rw, .num 3277, [], .os⟩,
  ⟨0x3A00, 1, 0x15, .u16, .rw, .num 8192, [], .os⟩,
  ⟨0x3A00, 1, 0x16, .u16, .rw, .num 200, [(0, 2000)], .os⟩,
  ⟨0x3A00, 1, 0x17, .u16, .rw, .num 300, [(0, 3600)], .os⟩,
  ⟨0x3A00, 1, 0x18, .u16, .rw, .num 120, [(10, 3600)], .os⟩,
  ⟨0x3A00, 1, 0x19, .u16, .rw, .num 0, [], .op⟩,
  ⟨0x3A00, 1, 0x1A, .u16, .rw, .num 0, [(0, 10000)], .os⟩,
  ⟨0x3A10, 8, 0x01, .u8, .rw, .num 255, [(0, 47), (255, 255)], .os⟩,
  ⟨0x3A10, 8, 0x02, .u8, .rw, .num 2, [(1, 8)], .os⟩,
  ⟨0x3A10, 8, 0x03, .i32, .rw, .num 0, [], .os⟩,
  ⟨0x3A10, 8, 0x04, .i32, .rw, .num 0, [], .os⟩,
  ⟨0x3A10, 8, 0x05, .u32, .rw, .num 0, [], .os⟩,
  ⟨0x3A10, 8, 0x06, .u32, .rw, .num 0, [], .os⟩,
  ⟨0x3A10, 8, 0x07, .u32, .rw, .num 0, [], .os⟩,
  ⟨0x3A10, 8, 0x08, .u16, .rw, .num 1000, [(0, 10000)], .os⟩,
  ⟨0x3A10, 8, 0x09, .bool, .rw, .num 0, [(0, 1)], .op⟩,
  ⟨0x3A10, 8, 0x0A, .u16, .ro, .num 0, [], .os⟩,
  ⟨0x3A10, 8, 0x0B, .i32, .ro, .num 0, [], .os⟩,
  ⟨0x3A10, 8, 0x0C, .u16, .ro, .num 0, [], .os⟩,
  ⟨0x3A10, 8, 0x0D, .i32, .ro, .num 0, [], .os⟩,
  ⟨0x3A10, 8, 0x0E, .u8, .ro, .num 0, [], .os⟩,
  ⟨0x3A10, 8, 0x0F, .u8, .wo, .num 0, [(1, 1), (2, 2)], .op⟩,
  ⟨0x3A10, 8, 0x10, .u8, .ro, .num 0, [], .os⟩,
  ⟨0x3A01, 1, 0x01, .u8, .ro, .num 0, [], .os⟩,
  ⟨0x3A01, 1, 0x02, .u8, .ro, .num 0, [], .os⟩,
  ⟨0x3A01, 1, 0x03, .u32, .ro, .num 0, [], .os⟩,
  ⟨0x3A01, 1, 0x04, .u16, .ro, .num 0, [], .os⟩,
  ⟨0x3A01, 1, 0x05, .u16, .ro, .num 0, [], .os⟩,
  ⟨0x3A01, 1, 0x06, .u32, .ro, .num 0, [], .os⟩,
  ⟨0x3A01, 1, 0x07, .u32, .ro, .num 0, [], .os⟩,
  ⟨0x3A01, 1, 0x08, .domain, .ro, .num 0, [], .os⟩,
  ⟨0x3A01, 1, 0x09, .u32, .ro, .num 0, [], .os⟩]

/-- Objects 0x3C00–0x3CFF, part 1. -/
def objs3Ca : List ObjRow := [
  ⟨0x3C00, 1, 0x01, .u8, .rw, .num 255, [(0, 47), (255, 255)], .os⟩,
  ⟨0x3C00, 1, 0x02, .u8, .rw, .num 255, [(64, 87), (96, 111), (255, 255)], .os⟩,
  ⟨0x3C00, 1, 0x03, .u8, .rw, .num 255, [(64, 87), (96, 111), (255, 255)], .os⟩,
  ⟨0x3C00, 1, 0x04, .u16, .rw, .num 150, [(20, 1000)], .os⟩,
  ⟨0x3C00, 1, 0x05, .u16, .rw, .num 3500, [(500, 6000)], .os⟩,
  ⟨0x3C00, 1, 0x06, .u16, .rw, .num 2000, [(100, 6000)], .os⟩,
  ⟨0x3C00, 1, 0x07, .u8, .rw, .num 255, [(0, 47), (64, 87), (129, 140), (255, 255)], .os⟩,
  ⟨0x3C00, 1, 0x08, .i32, .rw, .num 0, [], .os⟩,
  ⟨0x3C00, 1, 0x09, .u16, .rw, .num 20, [(1, 40)], .os⟩,
  ⟨0x3C00, 1, 0x0A, .u8, .rw, .num 255, [(0, 47), (255, 255)], .os⟩,
  ⟨0x3C00, 1, 0x0B, .u8, .rw, .num 255, [(0, 47), (255, 255)], .os⟩,
  ⟨0x3C00, 1, 0x0C, .u8, .rw, .num 255, [(0, 47), (255, 255)], .os⟩,
  ⟨0x3C00, 1, 0x0D, .u16, .rw, .num 5, [(2, 50)], .os⟩,
  ⟨0x3C00, 1, 0x0E, .u16, .rw, .num 300, [(50, 400)], .os⟩,
  ⟨0x3C00, 1, 0x0F, .u16, .rw, .num 500, [(100, 2000)], .os⟩,
  ⟨0x3C00, 1, 0x10, .u16, .rw, .num 300, [(50, 2000)], .os⟩,
  ⟨0x3C00, 1, 0x11, .u16, .rw, .num 800, [(100, 3000)], .os⟩,
  ⟨0x3C00, 1, 0x12, .u16, .rw, .num 1500, [(0, 5000)], .os⟩,
  ⟨0x3C00, 1, 0x13, .u16, .rw, .num 3500, [(0, 6000)], .os⟩,
  ⟨0x3C00, 1, 0x14, .u16, .rw, .num 3800, [(1500, 8000)], .os⟩,
  ⟨0x3C00, 1, 0x15, .u16, .rw, .num 40, [(1, 1000)], .os⟩,
  ⟨0x3C00, 1, 0x16, .u16, .rw, .num 150, [(0, 1000)], .os⟩,
  ⟨0x3C00, 1, 0x17, .u16, .rw, .num 20, [(0, 1000)], .os⟩,
  ⟨0x3C00, 1, 0x18, .u16, .rw, .num 300, [(0, 1000)], .os⟩,
  ⟨0x3C00, 1, 0x19, .u16, .rw, .num 80, [(20, 300)], .os⟩,
  ⟨0x3C00, 1, 0x1A, .u8, .rw, .num 4, [(2, 2), (3, 3), (4, 4)], .os⟩,
  ⟨0x3C00, 1, 0x1B, .u16, .rw, .num 5000, [(0, 30000)], .os⟩,
  ⟨0x3C00, 1, 0x1C, .u16, .rw, .num 200, [(0, 1000)], .os⟩,
  ⟨0x3C00, 1, 0x1D, .u16, .rw, .num 300, [(50, 2000)], .os⟩,
  ⟨0x3C20, 1, 0x01, .u8, .rw, .num 0, [(0, 0), (1, 1), (2, 2), (3, 3)], .os⟩,
  ⟨0x3C20, 1, 0x02, .i32, .rw, .num 0, [], .os⟩,
  ⟨0x3C20, 1, 0x03, .i32, .rw, .num 0, [], .os⟩,
  ⟨0x3C20, 1, 0x04, .i32, .rw, .num 0, [], .os⟩,
  ⟨0x3C20, 1, 0x05, .i32, .rw, .num 0, [], .os⟩,
  ⟨0x3C20, 1, 0x06, .u16, .rw, .num 0, [(0, 35999)], .os⟩,
  ⟨0x3C20, 1, 0x07, .u16, .rw, .num 8800, [(1000, 18000)], .os⟩,
  ⟨0x3C20, 1, 0x08, .i16, .rw, .num 0, [], .os⟩,
  ⟨0x3C20, 1, 0x09, .domain, .rw, .raw [], [(0, 32768)], .os⟩,
  ⟨0x3C20, 1, 0x0A, .i16, .ro, .num 0, [], .os⟩,
  ⟨0x3C20, 1, 0x0B, .u8, .wo, .num 0, [(1, 1), (2, 2), (3, 3), (4, 4), (5, 5)], .os⟩,
  ⟨0x3C38, 1, 0x01, .u8, .rw, .num 3, [(1, 8)], .os⟩,
  ⟨0x3C38, 1, 0x02, .u32, .rw, .num 0, [(0, 2047), (2147483648, 2684354559)], .os⟩,
  ⟨0x3C38, 1, 0x03, .i16, .rw, .num 200, [], .os⟩,
  ⟨0x3C38, 1, 0x04, .u16, .rw, .num 200, [(50, 1000)], .os⟩,
  ⟨0x3C38, 1, 0x05, .u8, .rw, .num 50, [(0, 100)], .os⟩,
  ⟨0x3C38, 1, 0x06, .u8, .rw, .num 255, [(64, 87), (255, 255)], .os⟩,
  ⟨0x3C38, 1, 0x07, .u8, .rw, .num 255, [(64, 87), (255, 255)], .os⟩,
  ⟨0x3C30, 1, 0x01, .bool, .rw, .num 0, [(0, 1)], .os⟩,
  ⟨0x3C30, 1, 0x02, .u8, .rw, .num 1, [(1, 1), (2, 2)], .os⟩,
  ⟨0x3C30, 1, 0x03, .u8, .rw, .num 0, [(0, 10)], .os⟩,
  ⟨0x3C30, 1, 0x04, .u8, .rw, .num 0, [(0, 0), (1, 1), (2, 2)], .os⟩,
  ⟨0x3C30, 1, 0x05, .u16, .rw, .num 6000, [(3000, 20000)], .os⟩,
  ⟨0x3C30, 1, 0x06, .u16, .rw, .num 120, [(20, 200)], .os⟩,
  ⟨0x3C30, 1, 0x07, .u8, .wo, .num 0, [(1, 1), (2, 2)], .os⟩,
  ⟨0x3C30, 1, 0x08, .u8, .ro, .num 0, [], .os⟩,
  ⟨0x3C30, 1, 0x09, .u32, .ro, .num 0, [], .os⟩,
  ⟨0x3C40, 1, 0x01, .bool, .rw, .num 0, [(0, 1)], .os⟩,
  ⟨0x3C40, 1, 0x02, .u32, .rw, .num 0, [], .os⟩,
  ⟨0x3C40, 1, 0x03, .i16, .rw, .num 0, [], .os⟩,
  ⟨0x3C40, 1, 0x04, .i16, .rw, .num 0, [], .os⟩]

/-- Objects 0x3C00–0x3CFF, part 2. -/
def objs3Cb : List ObjRow := [
  ⟨0x3C40, 1, 0x05, .u16, .rw, .num 7000, [], .os⟩,
  ⟨0x3C40, 1, 0x06, .u8, .rw, .num 255, [(64, 87), (255, 255)], .os⟩,
  ⟨0x3C40, 1, 0x07, .u16, .rw, .num 500, [(100, 2000)], .os⟩,
  ⟨0x3C40, 1, 0x08, .i16, .rw, .num 0, [], .os⟩,
  ⟨0x3C40, 1, 0x09, .i32, .ro, .num 0, [], .os⟩,
  ⟨0x3C40, 1, 0x0A, .i32, .ro, .num 0, [], .os⟩,
  ⟨0x3C40, 1, 0x0B, .i16, .ro, .num 0, [], .os⟩,
  ⟨0x3C40, 1, 0x0C, .u16, .ro, .num 0, [], .os⟩,
  ⟨0x3C40, 1, 0x0D, .u8, .ro, .num 0, [], .os⟩,
  ⟨0x3C10, 1, 0x01, .u8, .rw, .num 1, [(1, 1), (2, 2), (3, 3)], .os⟩,
  ⟨0x3C10, 1, 0x02, .u8, .wo, .num 0, [(0, 0), (1, 1)], .op⟩,
  ⟨0x3C10, 1, 0x03, .u8, .ro, .num 0, [], .os⟩,
  ⟨0x3C10, 1, 0x04, .u8, .ro, .num 0, [], .os⟩,
  ⟨0x3C10, 1, 0x05, .u8, .ro, .num 0, [], .os⟩,
  ⟨0x3C10, 1, 0x06, .u8, .ro, .num 0, [], .os⟩,
  ⟨0x3C10, 1, 0x07, .u16, .ro, .num 0, [], .os⟩,
  ⟨0x3C10, 1, 0x08, .i16, .ro, .num 0, [], .os⟩,
  ⟨0x3C10, 1, 0x09, .i16, .ro, .num 0, [], .os⟩,
  ⟨0x3C10, 1, 0x0A, .i16, .ro, .num 0, [], .os⟩,
  ⟨0x3C10, 1, 0x0B, .i32, .ro, .num 0, [], .os⟩,
  ⟨0x3C10, 1, 0x0C, .i16, .ro, .num 0, [], .os⟩,
  ⟨0x3C10, 1, 0x0D, .u16, .ro, .num 0, [], .os⟩,
  ⟨0x3C10, 1, 0x0E, .u32, .ro, .num 0, [], .os⟩]

/-- Objects 0x3E00–0x3EFF. -/
def objs3E : List ObjRow := [
  ⟨0x3E00, 1, 0x01, .u16, .rw, .num 200, [(100, 1000)], .os⟩,
  ⟨0x3E00, 1, 0x02, .u16, .rw, .num 1400, [(0, 3000)], .os⟩,
  ⟨0x3E00, 1, 0x03, .u16, .rw, .num 24576, [(16384, 32768)], .os⟩,
  ⟨0x3E00, 1, 0x04, .u16, .rw, .num 40, [(0, 400)], .os⟩,
  ⟨0x3E00, 1, 0x05, .u32, .ro, .num 0, [], .os⟩,
  ⟨0x3E00, 1, 0x06, .i32, .ro, .num 0, [], .os⟩,
  ⟨0x3E00, 1, 0x07, .i32, .ro, .num 0, [], .os⟩,
  ⟨0x3E00, 1, 0x08, .u8, .wo, .num 0, [(1, 1), (2, 2)], .os⟩,
  ⟨0x3E00, 1, 0x09, .u16, .rw, .num 60, [(10, 600)], .os⟩,
  ⟨0x3E00, 1, 0x0A, .u32, .ro, .num 0, [], .os⟩,
  ⟨0x3E00, 1, 0x0B, .u32, .ro, .num 0, [], .os⟩,
  ⟨0x3E00, 1, 0x0C, .u32, .ro, .num 0, [], .os⟩,
  ⟨0x3E00, 1, 0x0D, .u32, .ro, .num 0, [], .os⟩,
  ⟨0x3E00, 1, 0x0E, .u8, .ro, .num 0, [], .os⟩,
  ⟨0x3E00, 1, 0x10, .u8, .wo, .num 0, [(1, 4)], .op⟩,
  ⟨0x3E00, 1, 0x11, .u8, .ro, .num 0, [], .os⟩,
  ⟨0x3E00, 1, 0x12, .u32, .ro, .num 0, [], .os⟩,
  ⟨0x3E00, 1, 0x13, .u32, .rw, .num 0, [], .op⟩,
  ⟨0x3E00, 1, 0x14, .u16, .ro, .num 0, [], .os⟩,
  ⟨0x3E20, 1, 0x01, .bool, .rw, .num 0, [(0, 1)], .os⟩,
  ⟨0x3E20, 1, 0x02, .vis, .rw, .raw [], [(0, 253)], .os⟩,
  ⟨0x3E20, 1, 0x03, .u16, .rw, .num 8883, [], .os⟩,
  ⟨0x3E20, 1, 0x04, .u32, .rw, .num 0, [], .os⟩,
  ⟨0x3E20, 1, 0x05, .vis, .rw, .raw [108, 111, 114, 118, 111, 115], [(1, 32)], .os⟩,
  ⟨0x3E20, 1, 0x06, .u16, .rw, .num 30, [(10, 600)], .os⟩,
  ⟨0x3E20, 1, 0x07, .u16, .rw, .num 256, [(16, 256)], .os⟩,
  ⟨0x3E20, 1, 0x08, .u8, .rw, .num 5, [(1, 10)], .os⟩,
  ⟨0x3E20, 1, 0x09, .u16, .rw, .num 5000, [(1000, 60000)], .os⟩,
  ⟨0x3E20, 1, 0x0A, .u8, .ro, .num 0, [], .os⟩,
  ⟨0x3E20, 1, 0x0B, .u32, .ro, .num 0, [], .os⟩,
  ⟨0x3E20, 1, 0x0C, .u32, .ro, .num 0, [], .os⟩,
  ⟨0x3E20, 1, 0x0D, .u32, .ro, .num 0, [], .os⟩]

/-- Objects 0x4000–0x40FF. -/
def objs40 : List ObjRow := [
  ⟨0x4000, 32, 0x01, .u16, .ro, .num 0, [], .os⟩,
  ⟨0x4000, 32, 0x02, .u16, .ro, .num 0, [], .os⟩,
  ⟨0x4000, 32, 0x03, .i16, .ro, .num 0, [], .os⟩,
  ⟨0x4000, 32, 0x04, .u32, .ro, .num 0, [], .os⟩,
  ⟨0x4000, 32, 0x05, .u32, .rw, .num 0, [], .os⟩,
  ⟨0x4000, 32, 0x06, .u16, .rw, .num 600, [(10, 3600)], .os⟩,
  ⟨0x4000, 32, 0x07, .i16, .rw, .num 155, [(80, 200)], .os⟩,
  ⟨0x4000, 32, 0x08, .u8, .rw, .num 0, [(0, 2)], .os⟩,
  ⟨0x4000, 32, 0x09, .u8, .wo, .num 0, [(1, 1)], .os⟩,
  ⟨0x4000, 32, 0x0A, .u16, .wo, .num 0, [], .svc⟩,
  ⟨0x4000, 32, 0x0B, .u32, .ro, .num 0, [], .os⟩,
  ⟨0x4000, 16, 0x10, .u16, .rw, .num 3500, [(100, 3500)], .os⟩,
  ⟨0x4000, 16, 0x11, .u16, .rw, .num 0, [(0, 0), (40, 400)], .os⟩,
  ⟨0x4000, 16, 0x12, .u16, .rw, .num 0, [(0, 500)], .os⟩,
  ⟨0x4000, 16, 0x13, .u8, .rw, .num 1, [(1, 1), (2, 2), (3, 3)], .os⟩,
  ⟨0x4000, 16, 0x14, .u16, .rw, .num 33, [], .os⟩,
  ⟨0x4000, 16, 0x15, .u16, .rw, .num 7, [], .os⟩,
  ⟨0x4000, 16, 0x16, .u16, .rw, .num 1000, [(0, 3500)], .os⟩,
  ⟨0x4000, 16, 0x17, .u16, .rw, .num 0, [(0, 3500)], .os⟩,
  ⟨0x4000, 16, 0x18, .u8, .rw, .num 255, [(0, 15), (255, 255)], .os⟩,
  ⟨0x4000, 16, 0x19, .u16, .rw, .num 300, [(10, 3500)], .os⟩,
  ⟨0x4000, 16, 0x1A, .u16, .rw, .num 40, [(1, 4095)], .os⟩,
  ⟨0x4000, 16, 0x1B, .u16, .rw, .num 500, [(50, 10000)], .os⟩,
  ⟨0x4000, 16, 0x1C, .u16, .ro, .num 0, [], .os⟩,
  ⟨0x4010, 16, 0x20, .u8, .rw, .num 0, [(0, 1)], .os⟩,
  ⟨0x4010, 16, 0x21, .u16, .rw, .num 500, [(10, 60000)], .os⟩,
  ⟨0x4010, 16, 0x22, .domain, .rw, .raw [208, 7, 32, 3, 76, 4, 148, 17, 208, 7, 244, 1, 232, 3, 160, 15, 196, 9, 244, 1, 232, 3, 160, 15, 184, 11, 88, 2, 76, 4, 104, 16], [(32, 32)], .os⟩,
  ⟨0x4010, 16, 0x23, .u16, .rw, .num 400, [(200, 3000)], .os⟩,
  ⟨0x4010, 16, 0x24, .bool, .rw, .num 0, [(0, 1)], .os⟩,
  ⟨0x4010, 16, 0x25, .u16, .rw, .num 1638, [(328, 16384)], .os⟩,
  ⟨0x4010, 16, 0x26, .u8, .ro, .num 0, [], .os⟩,
  ⟨0x4010, 16, 0x27, .u8, .ro, .num 0, [], .os⟩,
  ⟨0x4010, 16, 0x28, .u16, .ro, .num 0, [], .os⟩,
  ⟨0x4010, 16, 0x29, .u16, .ro, .num 0, [], .os⟩,
  ⟨0x4010, 16, 0x2A, .u16, .ro, .num 0, [], .os⟩,
  ⟨0x4040, 6, 0x01, .u8, .ro, .num 0, [], .os⟩,
  ⟨0x4040, 6, 0x02, .u16, .rw, .num 100, [(2, 2000)], .os⟩,
  ⟨0x4042, 4, 0x03, .u16, .rw, .num 2000, [(100, 10000)], .os⟩,
  ⟨0x4042, 4, 0x04, .u16, .rw, .num 3277, [(328, 16384)], .os⟩,
  ⟨0x4040, 6, 0x05, .u16, .ro, .num 0, [], .os⟩,
  ⟨0x4042, 4, 0x06, .u8, .ro, .num 0, [], .os⟩,
  ⟨0x4042, 4, 0x07, .u8, .ro, .num 0, [], .os⟩,
  ⟨0x4040, 6, 0x08, .i16, .ro, .num 0, [], .os⟩,
  ⟨0x4040, 6, 0x09, .u8, .wo, .num 0, [(1, 1)], .os⟩,
  ⟨0x4042, 4, 0x0A, .u32, .ro, .num 0, [], .os⟩,
  ⟨0x4042, 4, 0x0B, .u32, .ro, .num 0, [], .os⟩,
  ⟨0x4040, 6, 0x0C, .u32, .ro, .num 0, [], .os⟩,
  ⟨0x4048, 3, 0x01, .u16, .ro, .num 0, [], .os⟩,
  ⟨0x4048, 3, 0x02, .u8, .ro, .num 0, [], .os⟩,
  ⟨0x4048, 3, 0x03, .u16, .ro, .num 0, [], .os⟩,
  ⟨0x4048, 3, 0x04, .u32, .ro, .num 0, [], .os⟩]

/-- Objects 0x4400–0x44FF. -/
def objs44 : List ObjRow := [
  ⟨0x4400, 48, 0x01, .u8, .rw, .num 0, [(0, 3)], .os⟩,
  ⟨0x4400, 48, 0x02, .u16, .rw, .num 10, [(1, 200)], .os⟩,
  ⟨0x4400, 48, 0x03, .bool, .rw, .num 0, [(0, 1)], .op⟩,
  ⟨0x4400, 48, 0x04, .u8, .rw, .num 0, [(0, 2)], .os⟩,
  ⟨0x4400, 48, 0x05, .u8, .wo, .num 0, [(1, 1)], .os⟩,
  ⟨0x4400, 48, 0x06, .u16, .ro, .num 0, [], .os⟩,
  ⟨0x4400, 48, 0x07, .u16, .ro, .num 0, [], .os⟩,
  ⟨0x4400, 48, 0x08, .u16, .ro, .num 0, [], .os⟩,
  ⟨0x4400, 48, 0x09, .u64, .ro, .num 0, [], .os⟩,
  ⟨0x4400, 48, 0x0A, .u8, .ro, .num 0, [], .os⟩,
  ⟨0x4400, 48, 0x0B, .u32, .ro, .num 0, [], .os⟩,
  ⟨0x4480, 4, 0x01, .u8, .ro, .num 0, [], .os⟩,
  ⟨0x4480, 4, 0x02, .u16, .rw, .num 100, [(2, 2000)], .os⟩,
  ⟨0x4480, 4, 0x03, .u16, .ro, .num 0, [], .os⟩,
  ⟨0x4480, 4, 0x04, .u16, .ro, .num 0, [], .os⟩,
  ⟨0x4480, 4, 0x05, .u16, .ro, .num 0, [], .os⟩,
  ⟨0x4480, 4, 0x06, .u32, .ro, .num 0, [], .os⟩,
  ⟨0x4480, 4, 0x07, .u8, .wo, .num 0, [(1, 1)], .os⟩,
  ⟨0x4480, 4, 0x08, .u32, .ro, .num 0, [], .os⟩]

/-- Objects 0x4800–0x48FF, part 1. -/
def objs48a : List ObjRow := [
  ⟨0x4810, 16, 0x01, .u8, .rw, .num 255, [(3, 3), (4, 4), (255, 255)], .os⟩,
  ⟨0x4810, 16, 0x02, .u16, .rw, .num 256, [(0, 4096)], .os⟩,
  ⟨0x4810, 16, 0x03, .u8, .rw, .num 1, [(1, 1), (4, 4), (16, 16)], .os⟩,
  ⟨0x4810, 16, 0x04, .i16, .rw, .num 40, [(10, 1000)], .os⟩,
  ⟨0x4810, 16, 0x05, .u8, .rw, .num 40, [(20, 100)], .os⟩,
  ⟨0x4810, 16, 0x06, .i16, .rw, .num 300, [(20, 2047)], .os⟩,
  ⟨0x4810, 16, 0x07, .u16, .rw, .num 6, [(1, 400)], .os⟩,
  ⟨0x4810, 16, 0x08, .u16, .rw, .num 40, [(1, 400)], .os⟩,
  ⟨0x4810, 16, 0x09, .u8, .rw, .num 12, [(2, 100)], .os⟩,
  ⟨0x4810, 16, 0x0A, .u32, .rw, .num 200000, [], .os⟩,
  ⟨0x4810, 16, 0x0B, .u16, .rw, .num 200, [], .os⟩,
  ⟨0x4810, 16, 0x0C, .u16, .rw, .num 10000, [], .os⟩,
  ⟨0x4810, 16, 0x0D, .u16, .ro, .num 0, [], .os⟩,
  ⟨0x4810, 16, 0x0E, .u32, .ro, .num 0, [], .os⟩,
  ⟨0x4810, 16, 0x0F, .u32, .ro, .num 0, [], .os⟩,
  ⟨0x4810, 16, 0x10, .u32, .ro, .num 0, [], .os⟩,
  ⟨0x4810, 16, 0x11, .u32, .ro, .num 0, [], .os⟩,
  ⟨0x4810, 16, 0x12, .u32, .ro, .num 0, [], .os⟩,
  ⟨0x4810, 16, 0x13, .u16, .ro, .num 0, [], .os⟩,
  ⟨0x4810, 16, 0x14, .u16, .ro, .num 0, [], .os⟩,
  ⟨0x4810, 16, 0x15, .u32, .ro, .num 0, [], .os⟩,
  ⟨0x4840, 24, 0x01, .u8, .rw, .num 0, [(0, 0), (1, 1), (2, 2), (3, 3)], .os⟩,
  ⟨0x4840, 24, 0x02, .u8, .rw, .num 4, [(1, 1), (2, 2), (3, 3), (4, 4), (5, 5)], .os⟩,
  ⟨0x4840, 24, 0x03, .u8, .rw, .num 0, [(0, 2)], .os⟩,
  ⟨0x4840, 24, 0x04, .u16, .rw, .num 1000, [(1, 49999)], .os⟩,
  ⟨0x4840, 24, 0x05, .i32, .rw, .num 0, [], .os⟩,
  ⟨0x4840, 24, 0x06, .i32, .rw, .num 65536, [], .os⟩,
  ⟨0x4840, 24, 0x07, .u8, .rw, .num 0, [(0, 0), (1, 1), (2, 2), (3, 3)], .os⟩,
  ⟨0x4840, 24, 0x08, .u16, .rw, .num 100, [(10, 5000)], .os⟩,
  ⟨0x4840, 24, 0x09, .i32, .ro, .num 0, [], .os⟩,
  ⟨0x4840, 24, 0x0A, .i32, .ro, .num 0, [], .os⟩,
  ⟨0x4840, 24, 0x0B, .u8, .ro, .num 0, [], .os⟩,
  ⟨0x4840, 24, 0x0C, .u64, .ro, .num 0, [], .os⟩,
  ⟨0x4860, 12, 0x01, .u8, .rw, .num 0, [(0, 3)], .os⟩,
  ⟨0x4860, 12, 0x02, .bool, .rw, .num 0, [(0, 1)], .os⟩,
  ⟨0x4860, 12, 0x03, .u8, .rw, .num 1, [(1, 1), (2, 2), (3, 3)], .os⟩,
  ⟨0x4860, 12, 0x04, .u16, .rw, .num 20, [(2, 1000)], .os⟩,
  ⟨0x4860, 12, 0x05, .bool, .rw, .num 0, [(0, 1)], .os⟩,
  ⟨0x4860, 12, 0x06, .u32, .rw, .num 0, [], .os⟩,
  ⟨0x4860, 12, 0x07, .u8, .rw, .num 255, [(1, 12), (255, 255)], .os⟩,
  ⟨0x4860, 12, 0x08, .u16, .rw, .num 500, [(20, 5000)], .os⟩,
  ⟨0x4860, 12, 0x09, .i64, .ro, .num 0, [], .os⟩,
  ⟨0x4860, 12, 0x0A, .u64, .ro, .num 0, [], .os⟩,
  ⟨0x4860, 12, 0x0B, .i32, .ro, .num 0, [], .os⟩,
  ⟨0x4860, 12, 0x0C, .u16, .ro, .num 0, [], .os⟩,
  ⟨0x4860, 12, 0x0D, .u16, .ro, .num 0, [], .os⟩,
  ⟨0x4860, 12, 0x0E, .u32, .ro, .num 0, [], .os⟩,
  ⟨0x4880, 1, 0x01, .u8, .rw, .num 255, [(64, 87), (255, 255)], .os⟩,
  ⟨0x4880, 1, 0x02, .u8, .rw, .num 255, [(64, 87), (255, 255)], .os⟩,
  ⟨0x4880, 1, 0x03, .domain, .rw, .raw [], [(64, 64)], .os⟩,
  ⟨0x4880, 1, 0x04, .u16, .rw, .num 2000, [(500, 10000)], .os⟩,
  ⟨0x4880, 1, 0x05, .i16, .rw, .num 30, [(-500, 500)], .os⟩,
  ⟨0x4880, 1, 0x06, .i16, .rw, .num 15, [(-500, 500)], .os⟩,
  ⟨0x4880, 1, 0x07, .u16, .rw, .num 1000, [(800, 1250)], .os⟩,
  ⟨0x4880, 1, 0x08, .i32, .ro, .num 0, [], .os⟩,
  ⟨0x4880, 1, 0x09, .i32, .rw, .num 0, [], .os⟩,
  ⟨0x4880, 1, 0x0A, .u16, .rw, .num 300, [(10, 2000)], .os⟩,
  ⟨0x4880, 1, 0x0B, .u16, .rw, .num 20, [(10, 500)], .os⟩,
  ⟨0x4880, 1, 0x0C, .u8, .rw, .num 255, [(64, 87), (255, 255)], .os⟩,
  ⟨0x4880, 1, 0x0D, .u16, .rw, .num 0, [(0, 1000)], .os⟩]

/-- Objects 0x4800–0x48FF, part 2. -/
def objs48b : List ObjRow := [
  ⟨0x4880, 1, 0x0E, .u32, .ro, .num 0, [], .os⟩,
  ⟨0x4880, 1, 0x0F, .u16, .ro, .num 0, [], .os⟩,
  ⟨0x4890, 1, 0x01, .i16, .rw, .num 0, [(-18000, 18000)], .os⟩,
  ⟨0x4890, 1, 0x02, .i16, .rw, .num 0, [(-9000, 9000)], .os⟩,
  ⟨0x4890, 1, 0x03, .i16, .rw, .num 0, [(-18000, 18000)], .os⟩,
  ⟨0x4890, 1, 0x04, .u16, .rw, .num 2000, [(100, 20000)], .os⟩,
  ⟨0x4890, 1, 0x05, .domain, .ro, .num 0, [], .os⟩,
  ⟨0x4890, 1, 0x06, .domain, .ro, .num 0, [], .os⟩,
  ⟨0x4890, 1, 0x07, .i16, .ro, .num 0, [], .os⟩,
  ⟨0x4890, 1, 0x08, .i16, .ro, .num 0, [], .os⟩,
  ⟨0x4890, 1, 0x09, .u64, .ro, .num 0, [], .os⟩,
  ⟨0x4890, 1, 0x0A, .u8, .ro, .num 0, [], .os⟩,
  ⟨0x4800, 1, 0x01, .u8, .ro, .num 0, [], .os⟩,
  ⟨0x4800, 1, 0x02, .u16, .ro, .num 0, [], .os⟩,
  ⟨0x4800, 1, 0x03, .u16, .ro, .num 0, [], .os⟩,
  ⟨0x4800, 1, 0x04, .u16, .wo, .num 0, [], .svc⟩,
  ⟨0x48A0, 16, 0x01, .bool, .rw, .num 0, [(0, 1)], .os⟩,
  ⟨0x48A0, 16, 0x02, .u8, .rw, .num 30, [(30, 120)], .os⟩,
  ⟨0x48A0, 16, 0x03, .u8, .rw, .num 6, [(1, 6)], .os⟩,
  ⟨0x48A0, 16, 0x04, .u8, .rw, .num 1, [(0, 0), (1, 1)], .os⟩,
  ⟨0x48A0, 16, 0x05, .bool, .rw, .num 1, [(0, 1)], .os⟩,
  ⟨0x48A0, 16, 0x06, .bool, .rw, .num 1, [(0, 1)], .os⟩,
  ⟨0x48A0, 16, 0x07, .u8, .rw, .num 5, [(1, 100)], .os⟩,
  ⟨0x48A0, 16, 0x08, .u16, .ro, .num 0, [], .os⟩,
  ⟨0x48A0, 16, 0x09, .u16, .ro, .num 0, [], .os⟩,
  ⟨0x48A0, 16, 0x0A, .u8, .ro, .num 0, [], .os⟩,
  ⟨0x48A0, 16, 0x0B, .u64, .ro, .num 0, [], .os⟩,
  ⟨0x48A0, 16, 0x0C, .u16, .ro, .num 0, [], .os⟩,
  ⟨0x48A0, 16, 0x0D, .u8, .ro, .num 0, [], .os⟩,
  ⟨0x48A0, 16, 0x0E, .u32, .ro, .num 0, [], .os⟩,
  ⟨0x48A0, 16, 0x0F, .u8, .rw, .num 0, [], .os⟩,
  ⟨0x48A0, 16, 0x10, .u32, .ro, .num 0, [], .os⟩]

/-- Objects 0x5000–0x50FF. -/
def objs50 : List ObjRow := [
  ⟨0x5000, 1, 0x01, .u16, .rw, .num 32767, [(0, 32767)], .os⟩,
  ⟨0x5000, 1, 0x02, .u8, .rw, .num 10, [(0, 30)], .os⟩,
  ⟨0x5000, 1, 0x03, .u8, .rw, .num 30, [(20, 45)], .os⟩,
  ⟨0x5000, 1, 0x04, .u8, .rw, .num 3, [(0, 3)], .os⟩,
  ⟨0x5000, 1, 0x05, .i16, .rw, .num 0, [], .os⟩,
  ⟨0x5000, 1, 0x06, .u16, .rw, .num 0, [(0, 0), (500, 5000)], .os⟩,
  ⟨0x5000, 1, 0x07, .u16, .rw, .num 9000, [(0, 35999)], .os⟩,
  ⟨0x5000, 1, 0x08, .u16, .rw, .num 30, [(5, 200)], .os⟩,
  ⟨0x5000, 1, 0x09, .u8, .rw, .num 1, [(0, 0), (1, 1), (2, 2)], .os⟩,
  ⟨0x5000, 1, 0x0A, .u8, .rw, .num 10, [(1, 60)], .os⟩,
  ⟨0x5000, 1, 0x0B, .u8, .rw, .num 60, [(10, 120)], .os⟩,
  ⟨0x5000, 1, 0x0C, .u8, .rw, .num 40, [(5, 100)], .os⟩,
  ⟨0x5000, 1, 0x0D, .u8, .rw, .num 30, [(20, 100)], .os⟩,
  ⟨0x5000, 1, 0x0E, .u16, .rw, .num 200, [(50, 5000)], .os⟩,
  ⟨0x5000, 1, 0x0F, .u8, .rw, .num 1, [(0, 2)], .os⟩,
  ⟨0x5000, 1, 0x10, .u16, .rw, .num 100, [(1, 500)], .os⟩,
  ⟨0x5000, 1, 0x11, .u16, .rw, .num 0, [(0, 10000)], .os⟩,
  ⟨0x5000, 1, 0x12, .u8, .rw, .num 20, [(1, 20)], .os⟩,
  ⟨0x5000, 1, 0x13, .u16, .rw, .num 100, [(10, 10000)], .os⟩,
  ⟨0x5000, 1, 0x14, .bool, .rw, .num 0, [(0, 1)], .os⟩,
  ⟨0x5000, 1, 0x15, .u8, .rw, .num 3, [(1, 8)], .os⟩,
  ⟨0x5000, 1, 0x16, .u32, .rw, .num 2566866432, [(2147483648, 2684354557)], .os⟩,
  ⟨0x5000, 1, 0x17, .u8, .wo, .num 0, [(1, 1), (2, 2)], .os⟩,
  ⟨0x5001, 1, 0x01, .u8, .ro, .num 0, [], .os⟩,
  ⟨0x5001, 1, 0x02, .u8, .ro, .num 0, [], .os⟩,
  ⟨0x5001, 1, 0x03, .u8, .ro, .num 0, [], .os⟩,
  ⟨0x5001, 1, 0x04, .u64, .ro, .num 0, [], .os⟩,
  ⟨0x5001, 1, 0x05, .i32, .ro, .num 0, [], .os⟩,
  ⟨0x5001, 1, 0x06, .i32, .ro, .num 0, [], .os⟩,
  ⟨0x5001, 1, 0x07, .i32, .ro, .num 0, [], .os⟩,
  ⟨0x5001, 1, 0x08, .domain, .ro, .num 0, [], .os⟩,
  ⟨0x5001, 1, 0x09, .u16, .ro, .num 0, [], .os⟩,
  ⟨0x5001, 1, 0x0A, .i16, .ro, .num 0, [], .os⟩,
  ⟨0x5001, 1, 0x0B, .u16, .ro, .num 0, [], .os⟩,
  ⟨0x5001, 1, 0x0C, .u32, .ro, .num 0, [], .os⟩,
  ⟨0x5001, 1, 0x0D, .u16, .ro, .num 0, [], .os⟩,
  ⟨0x5001, 1, 0x0E, .u8, .ro, .num 0, [], .os⟩,
  ⟨0x5001, 1, 0x0F, .u16, .ro, .num 0, [], .os⟩,
  ⟨0x5001, 1, 0x10, .u32, .ro, .num 0, [], .os⟩,
  ⟨0x5001, 1, 0x11, .u32, .ro, .num 0, [], .os⟩,
  ⟨0x5001, 1, 0x12, .i64, .ro, .num 0, [], .os⟩,
  ⟨0x5001, 1, 0x13, .u32, .ro, .num 0, [], .os⟩,
  ⟨0x5001, 1, 0x14, .u32, .ro, .num 0, [], .os⟩,
  ⟨0x5001, 1, 0x15, .u32, .ro, .num 0, [], .os⟩,
  ⟨0x5001, 1, 0x16, .u32, .ro, .num 0, [], .os⟩,
  ⟨0x5001, 1, 0x17, .domain, .ro, .num 0, [], .os⟩,
  ⟨0x5002, 1, 0x01, .u16, .rw, .num 0, [(0, 383)], .op⟩,
  ⟨0x5002, 1, 0x02, .domain, .ro, .num 0, [], .os⟩]

/-- Objects 0x5200–0x52FF. -/
def objs52 : List ObjRow := [
  ⟨0x5200, 1, 0x01, .u64, .ro, .num 0, [], .os⟩,
  ⟨0x5200, 1, 0x02, .i16, .ro, .num 0, [], .os⟩,
  ⟨0x5200, 1, 0x03, .u8, .ro, .num 0, [], .os⟩,
  ⟨0x5200, 1, 0x04, .u8, .rw, .num 1, [(0, 0), (1, 1)], .os⟩,
  ⟨0x5200, 1, 0x05, .u8, .rw, .num 2, [(0, 2)], .os⟩,
  ⟨0x5200, 1, 0x06, .u32, .rw, .num 1000, [(100, 1000000000)], .os⟩,
  ⟨0x5200, 1, 0x07, .u32, .rw, .num 200, [(20, 10000)], .os⟩,
  ⟨0x5200, 1, 0x08, .u8, .wo, .num 0, [(1, 1), (2, 2)], .svc⟩,
  ⟨0x5200, 1, 0x09, .i64, .ro, .num 0, [], .os⟩,
  ⟨0x5200, 1, 0x0A, .i64, .ro, .num 0, [], .os⟩,
  ⟨0x5200, 1, 0x0B, .u64, .ro, .num 0, [], .os⟩,
  ⟨0x5200, 1, 0x0C, .u64, .ro, .num 0, [], .os⟩,
  ⟨0x5200, 1, 0x0D, .u64, .ro, .num 0, [], .os⟩,
  ⟨0x5200, 1, 0x0E, .u16, .ro, .num 0, [], .os⟩,
  ⟨0x5200, 1, 0x0F, .u8, .rw, .num 128, [], .os⟩,
  ⟨0x5200, 1, 0x10, .u8, .rw, .num 128, [], .os⟩,
  ⟨0x5200, 1, 0x11, .u8, .rw, .num 0, [(0, 127)], .os⟩,
  ⟨0x5200, 1, 0x12, .u32, .rw, .num 10000, [(100, 1000000)], .os⟩,
  ⟨0x5200, 1, 0x13, .i32, .ro, .num 0, [], .os⟩,
  ⟨0x5200, 1, 0x14, .u32, .ro, .num 0, [], .os⟩]

/-- Objects 0x5400–0x54FF. -/
def objs54 : List ObjRow := [
  ⟨0x5400, 8, 0x01, .bool, .rw, .num 1, [(0, 1)], .os⟩,
  ⟨0x5400, 8, 0x02, .u8, .rw, .nums [4, 4, 2, 2, 2, 2, 2, 2], [(1, 32)], .os⟩,
  ⟨0x5400, 8, 0x03, .u16, .rw, .nums [69, 69, 63, 63, 63, 63, 63, 63], [(2, 256)], .os⟩,
  ⟨0x5400, 8, 0x04, .u8, .rw, .nums [10, 10, 16, 16, 16, 16, 16, 16], [(2, 128)], .os⟩,
  ⟨0x5400, 8, 0x05, .u8, .rw, .nums [10, 10, 16, 16, 16, 16, 16, 16], [(1, 128)], .os⟩,
  ⟨0x5400, 8, 0x06, .bool, .rw, .num 0, [(0, 1)], .os⟩,
  ⟨0x5402, 6, 0x07, .u8, .rw, .num 1, [(1, 32)], .os⟩,
  ⟨0x5402, 6, 0x08, .u8, .rw, .num 31, [(1, 32)], .os⟩,
  ⟨0x5402, 6, 0x09, .u8, .rw, .num 8, [(1, 16)], .os⟩,
  ⟨0x5402, 6, 0x0A, .u8, .rw, .num 8, [(1, 16)], .os⟩,
  ⟨0x5400, 8, 0x0B, .u8, .rw, .num 1, [(0, 2)], .os⟩,
  ⟨0x5400, 8, 0x0C, .u8, .rw, .num 0, [(0, 127)], .os⟩,
  ⟨0x5400, 8, 0x0D, .bool, .rw, .nums [0, 0, 1, 0, 0, 0, 0, 1], [(0, 1)], .os⟩,
  ⟨0x5400, 8, 0x0E, .u8, .rw, .num 0, [(0, 1)], .os⟩,
  ⟨0x5400, 8, 0x0F, .u16, .rw, .num 1000, [(0, 10000)], .os⟩,
  ⟨0x5400, 8, 0x10, .u8, .ro, .num 0, [], .os⟩,
  ⟨0x5400, 8, 0x11, .u8, .ro, .num 0, [], .os⟩,
  ⟨0x5400, 8, 0x12, .u8, .ro, .num 0, [], .os⟩,
  ⟨0x5400, 8, 0x13, .u8, .ro, .num 0, [], .os⟩,
  ⟨0x5400, 8, 0x14, .u32, .ro, .num 0, [], .os⟩,
  ⟨0x5400, 8, 0x15, .domain, .ro, .num 0, [], .os⟩,
  ⟨0x5400, 8, 0x16, .u32, .ro, .num 0, [], .os⟩,
  ⟨0x5400, 8, 0x17, .u8, .ro, .num 0, [], .os⟩,
  ⟨0x5400, 8, 0x18, .domain, .ro, .num 0, [], .os⟩,
  ⟨0x5400, 8, 0x19, .u16, .wo, .num 0, [], .svc⟩,
  ⟨0x5400, 8, 0x1A, .u8, .ro, .num 0, [], .os⟩,
  ⟨0x5400, 8, 0x1B, .u32, .ro, .num 0, [], .os⟩,
  ⟨0x5410, 1, 0x01, .bool, .rw, .num 1, [(0, 1)], .os⟩,
  ⟨0x5410, 1, 0x02, .u8, .rw, .num 3, [(1, 8)], .os⟩,
  ⟨0x5410, 1, 0x03, .u32, .rw, .num 16, [(0, 2047), (2147483648, 2684354559)], .os⟩,
  ⟨0x5410, 1, 0x04, .u16, .rw, .num 10, [(1, 1000)], .os⟩,
  ⟨0x5410, 1, 0x05, .u8, .ro, .num 0, [], .os⟩,
  ⟨0x5410, 1, 0x06, .u32, .ro, .num 0, [], .os⟩,
  ⟨0x5410, 1, 0x07, .u32, .ro, .num 0, [], .os⟩,
  ⟨0x5410, 1, 0x08, .u64, .ro, .num 0, [], .os⟩,
  ⟨0x5410, 1, 0x09, .u8, .ro, .num 0, [], .os⟩,
  ⟨0x5410, 1, 0x0A, .u8, .wo, .num 0, [(1, 1)], .os⟩,
  ⟨0x5418, 2, 0x01, .u8, .rw, .nums [0, 1], [(0, 2)], .os⟩,
  ⟨0x5418, 2, 0x02, .u32, .rw, .num 0, [(0, 2047), (2147483648, 2684354559)], .os⟩,
  ⟨0x5418, 2, 0x03, .u32, .rw, .num 536870911, [(0, 536870911)], .os⟩,
  ⟨0x5418, 2, 0x04, .u8, .rw, .num 0, [(0, 8)], .os⟩,
  ⟨0x5418, 2, 0x05, .u64, .rw, .num 0, [], .os⟩,
  ⟨0x5418, 2, 0x06, .u64, .rw, .num 18446744073709551615, [], .os⟩,
  ⟨0x5418, 2, 0x07, .u8, .rw, .num 2, [(1, 1), (2, 2), (3, 3), (4, 4)], .os⟩,
  ⟨0x5418, 2, 0x08, .u32, .ro, .num 0, [], .os⟩,
  ⟨0x5418, 2, 0x09, .u8, .ro, .num 0, [], .os⟩,
  ⟨0x5420, 1, 0x01, .u8, .rw, .num 8, [(1, 8)], .svc⟩,
  ⟨0x5420, 1, 0x02, .domain, .wo, .num 0, [(72, 72)], .svc⟩,
  ⟨0x5420, 1, 0x03, .u8, .wo, .num 0, [(1, 1)], .svc⟩,
  ⟨0x5420, 1, 0x04, .u8, .ro, .num 0, [], .os⟩,
  ⟨0x5420, 1, 0x05, .u64, .ro, .num 0, [], .os⟩,
  ⟨0x5430, 4, 0x01, .u64, .rw, .num 0, [], .os⟩,
  ⟨0x5430, 4, 0x02, .u8, .rw, .nums [128, 38, 247, 128], [], .os⟩,
  ⟨0x5430, 4, 0x03, .u8, .ro, .num 0, [], .os⟩]

/-- Objects 0x5600–0x56FF. -/
def objs56 : List ObjRow := [
  ⟨0x5600, 4, 0x01, .bool, .rw, .num 1, [(0, 1)], .os⟩,
  ⟨0x5600, 3, 0x02, .u8, .rw, .num 1, [(1, 1), (2, 2)], .os⟩,
  ⟨0x5600, 4, 0x03, .octet, .ro, .num 0, [], .os⟩,
  ⟨0x5600, 4, 0x04, .u32, .rw, .nums [174063873, 174064129, 174064385, 174065921], [], .os⟩,
  ⟨0x5600, 4, 0x05, .u8, .rw, .num 24, [(8, 30)], .os⟩,
  ⟨0x5600, 4, 0x06, .u32, .rw, .num 0, [], .os⟩,
  ⟨0x5600, 4, 0x07, .u8, .ro, .num 0, [], .os⟩,
  ⟨0x5600, 4, 0x08, .u32, .ro, .num 0, [], .os⟩,
  ⟨0x5600, 4, 0x09, .u32, .ro, .num 0, [], .os⟩,
  ⟨0x5600, 4, 0x0A, .u32, .ro, .num 0, [], .os⟩,
  ⟨0x5600, 4, 0x0B, .u32, .ro, .num 0, [], .os⟩,
  ⟨0x5600, 3, 0x0C, .u8, .ro, .num 0, [], .os⟩,
  ⟨0x5610, 3, 0x01, .u8, .rw, .nums [0, 1, 1], [(0, 3)], .os⟩,
  ⟨0x5610, 3, 0x02, .bool, .rw, .num 1, [(0, 1)], .os⟩,
  ⟨0x5610, 3, 0x03, .i8, .rw, .num (-3), [(-5, 0)], .os⟩,
  ⟨0x5610, 3, 0x04, .i8, .rw, .num 0, [(-3, 3)], .os⟩,
  ⟨0x5610, 3, 0x05, .i8, .rw, .num 0, [(-3, 3)], .os⟩,
  ⟨0x5610, 3, 0x06, .u16, .ro, .num 0, [], .os⟩,
  ⟨0x5610, 3, 0x07, .u16, .ro, .num 0, [], .os⟩,
  ⟨0x5610, 3, 0x08, .u8, .ro, .num 0, [], .os⟩,
  ⟨0x5610, 3, 0x09, .i32, .ro, .num 0, [], .os⟩,
  ⟨0x5610, 3, 0x0A, .u8, .ro, .num 0, [], .os⟩,
  ⟨0x5610, 3, 0x0B, .i32, .ro, .num 0, [], .os⟩,
  ⟨0x5610, 3, 0x0C, .u32, .ro, .num 0, [], .os⟩]

/-- Objects 0x5800–0x58FF. -/
def objs58 : List ObjRow := [
  ⟨0x5800, 1, 0x01, .u32, .ro, .num 0, [], .os⟩,
  ⟨0x5800, 1, 0x02, .u32, .ro, .num 0, [], .os⟩,
  ⟨0x5800, 1, 0x03, .u32, .ro, .num 0, [], .os⟩,
  ⟨0x5800, 1, 0x04, .u32, .ro, .num 0, [], .os⟩,
  ⟨0x5800, 1, 0x05, .u32, .ro, .num 0, [], .os⟩,
  ⟨0x5800, 1, 0x06, .u32, .ro, .num 0, [], .os⟩,
  ⟨0x5800, 1, 0x07, .u16, .rw, .num 64, [(8, 1024)], .oem⟩,
  ⟨0x5800, 1, 0x08, .u8, .rw, .num 10, [(1, 60)], .oem⟩,
  ⟨0x5800, 1, 0x09, .u16, .rw, .num 1000, [(100, 10000)], .oem⟩,
  ⟨0x5800, 1, 0x0A, .u8, .wo, .num 0, [(1, 4)], .svc⟩,
  ⟨0x5800, 1, 0x0B, .u8, .ro, .num 0, [], .os⟩,
  ⟨0x5800, 1, 0x0C, .u16, .ro, .num 0, [], .os⟩,
  ⟨0x5810, 1, 0x01, .u32, .rw, .num 0, [], .op⟩,
  ⟨0x5810, 1, 0x02, .domain, .ro, .num 0, [], .os⟩,
  ⟨0x5810, 1, 0x03, .u8, .ro, .num 0, [], .os⟩,
  ⟨0x5810, 1, 0x04, .u8, .ro, .num 0, [], .os⟩,
  ⟨0x5810, 1, 0x05, .u32, .ro, .num 0, [], .os⟩,
  ⟨0x5810, 1, 0x06, .u8, .rw, .num 0, [(0, 3)], .op⟩,
  ⟨0x5820, 1, 0x01, .u16, .rw, .num 0, [(0, 1023)], .op⟩,
  ⟨0x5820, 1, 0x02, .domain, .ro, .num 0, [], .os⟩,
  ⟨0x5820, 1, 0x03, .u16, .wo, .num 0, [], .op⟩]

/-- Objects 0x5A00–0x5AFF. -/
def objs5A : List ObjRow := [
  ⟨0x5A01, 1, 0x01, .u8, .ro, .num 0, [], .os⟩,
  ⟨0x5A01, 1, 0x02, .u8, .ro, .num 0, [], .os⟩,
  ⟨0x5A01, 1, 0x03, .u8, .ro, .num 0, [], .os⟩,
  ⟨0x5A01, 1, 0x04, .u32, .ro, .num 0, [], .os⟩,
  ⟨0x5A01, 1, 0x05, .u8, .ro, .num 0, [], .os⟩,
  ⟨0x5A01, 1, 0x06, .u32, .ro, .num 0, [], .os⟩,
  ⟨0x5A01, 1, 0x07, .u32, .ro, .num 0, [], .os⟩,
  ⟨0x5A01, 1, 0x08, .u8, .ro, .num 0, [], .os⟩,
  ⟨0x5A01, 1, 0x09, .u32, .ro, .num 0, [], .os⟩,
  ⟨0x5A01, 1, 0x0A, .u16, .rw, .num 600, [(60, 3600)], .oem⟩,
  ⟨0x5A01, 1, 0x0B, .u32, .ro, .num 0, [], .os⟩,
  ⟨0x5A10, 1, 0x01, .domain, .wo, .num 0, [(232, 232)], .os⟩,
  ⟨0x5A10, 1, 0x02, .domain, .wo, .num 0, [(5, 32768)], .os⟩,
  ⟨0x5A10, 1, 0x03, .u16, .wo, .num 0, [], .op⟩,
  ⟨0x5A10, 1, 0x04, .u8, .ro, .num 0, [], .os⟩,
  ⟨0x5A10, 1, 0x05, .u32, .ro, .num 0, [], .os⟩,
  ⟨0x5A20, 8, 0x01, .u8, .ro, .num 0, [], .os⟩,
  ⟨0x5A20, 8, 0x02, .u32, .ro, .num 0, [], .os⟩,
  ⟨0x5A20, 8, 0x03, .u32, .ro, .num 0, [], .os⟩,
  ⟨0x5A20, 8, 0x04, .u32, .ro, .num 0, [], .os⟩,
  ⟨0x5A20, 8, 0x05, .u16, .ro, .num 0, [], .os⟩,
  ⟨0x5A20, 8, 0x06, .u16, .ro, .num 0, [], .os⟩,
  ⟨0x5A20, 8, 0x07, .u32, .ro, .num 0, [], .os⟩,
  ⟨0x5A20, 8, 0x08, .u32, .ro, .num 0, [], .os⟩,
  ⟨0x5A20, 8, 0x09, .u8, .ro, .num 0, [], .os⟩,
  ⟨0x5A40, 1, 0x01, .u8, .ro, .num 0, [], .os⟩]

/-- Objects 0x5C00–0x5CFF. -/
def objs5C : List ObjRow := [
  ⟨0x5C10, 8, 0x01, .u8, .rw, .num 0, [(0, 3)], .os⟩,
  ⟨0x5C10, 8, 0x02, .u16, .rw, .num 0, [], .os⟩,
  ⟨0x5C10, 8, 0x03, .u16, .rw, .num 1, [], .os⟩,
  ⟨0x5C10, 8, 0x04, .u16, .rw, .num 0, [], .os⟩,
  ⟨0x5C10, 8, 0x05, .u8, .rw, .num 1, [(1, 8)], .os⟩,
  ⟨0x5C10, 8, 0x06, .u16, .rw, .num 1, [], .os⟩,
  ⟨0x5C10, 8, 0x07, .bool, .rw, .num 1, [(0, 1)], .os⟩,
  ⟨0x5C00, 1, 0x01, .bool, .rw, .num 1, [(0, 1)], .os⟩,
  ⟨0x5C00, 1, 0x02, .u16, .rw, .num 1920, [(320, 1920)], .os⟩,
  ⟨0x5C00, 1, 0x03, .u16, .rw, .num 1200, [(240, 1200)], .os⟩,
  ⟨0x5C00, 1, 0x04, .u16, .rw, .num 2080, [], .os⟩,
  ⟨0x5C00, 1, 0x05, .u16, .rw, .num 1235, [], .os⟩,
  ⟨0x5C00, 1, 0x06, .u32, .rw, .num 154128, [(20000, 165000)], .os⟩,
  ⟨0x5C00, 1, 0x07, .u8, .rw, .num 12, [(1, 12)], .os⟩,
  ⟨0x5C00, 1, 0x08, .u8, .rw, .num 4, [(1, 1), (2, 2), (3, 3), (4, 4)], .os⟩,
  ⟨0x5C00, 1, 0x09, .u8, .rw, .num 4, [(1, 5)], .os⟩,
  ⟨0x5C00, 1, 0x0A, .bool, .rw, .num 1, [(0, 1)], .os⟩,
  ⟨0x5C00, 1, 0x0B, .domain, .rw, .raw [0, 15, 35], [(3, 3)], .os⟩,
  ⟨0x5C00, 1, 0x0C, .u8, .rw, .num 2, [(0, 3)], .os⟩,
  ⟨0x5C00, 1, 0x0D, .domain, .rw, .raw [255, 3, 182, 3, 109, 3, 36, 3, 219, 2, 146, 2, 73, 2, 0, 2, 183, 1, 110, 1, 37, 1, 220, 0, 147, 0, 74, 0], [(28, 28)], .os⟩,
  ⟨0x5C00, 1, 0x0E, .u16, .rw, .num 4000, [(0, 8000)], .os⟩,
  ⟨0x5C00, 1, 0x0F, .domain, .rw, .fill 32 0, [(32, 32)], .os⟩,
  ⟨0x5C00, 1, 0x10, .u8, .rw, .num 0, [], .os⟩,
  ⟨0x5C00, 1, 0x11, .u16, .rw, .num 20, [(5, 500)], .os⟩,
  ⟨0x5C00, 1, 0x12, .u8, .rw, .num 2, [(1, 10)], .os⟩,
  ⟨0x5C00, 1, 0x13, .u16, .rw, .num 100, [(0, 2000)], .os⟩,
  ⟨0x5C00, 1, 0x14, .u16, .rw, .num 20, [(5, 100)], .os⟩,
  ⟨0x5C00, 1, 0x15, .u16, .rw, .num 1000, [(200, 20000)], .os⟩,
  ⟨0x5C00, 1, 0x16, .u16, .rw, .num 800, [(0, 1000)], .op⟩,
  ⟨0x5C00, 1, 0x17, .u8, .wo, .num 0, [(1, 1)], .os⟩,
  ⟨0x5C40, 1, 0x01, .bool, .rw, .num 0, [(0, 1)], .os⟩,
  ⟨0x5C40, 1, 0x02, .u16, .rw, .num 0, [], .os⟩,
  ⟨0x5C40, 1, 0x03, .u16, .rw, .num 0, [], .os⟩,
  ⟨0x5C40, 1, 0x04, .u16, .rw, .num 256, [(36, 256)], .os⟩,
  ⟨0x5C40, 1, 0x05, .u16, .rw, .num 64, [(36, 128)], .os⟩,
  ⟨0x5C40, 1, 0x06, .u32, .rw, .num 0, [(0, 16777215)], .os⟩,
  ⟨0x5C40, 1, 0x07, .u8, .rw, .num 3, [(1, 10)], .os⟩,
  ⟨0x5C40, 1, 0x08, .domain, .rw, .fill 2048 0, [(2048, 2048)], .os⟩,
  ⟨0x5C40, 1, 0x09, .domain, .rw, .raw [0, 0, 255, 0, 0, 0, 255, 255, 0, 0, 255, 0, 0, 0, 255, 255, 0, 0, 255, 0, 0, 0, 255, 255, 0, 0, 255, 0, 0, 0, 255, 255, 0, 0, 255, 0, 0, 0, 255, 255, 0, 0, 255, 0, 0, 0, 255, 255, 0, 0, 255, 0, 0, 0, 255, 255, 0, 0, 255, 0, 0, 0, 255, 255, 0, 0, 255, 0, 0, 0, 255, 255, 0, 0, 255, 0, 0, 0, 255, 255, 0, 0, 255, 0, 0, 0, 255, 255, 0, 0, 255, 0, 0, 0, 255, 255, 0, 0, 255, 0, 0, 0, 255, 255, 0, 0, 255, 0, 0, 0, 255, 255, 0, 0, 255, 0, 0, 0, 255, 255, 0, 0, 255, 0, 0, 0, 255, 255], [(128, 128)], .os⟩,
  ⟨0x5C01, 1, 0x01, .u8, .ro, .num 0, [], .os⟩,
  ⟨0x5C01, 1, 0x02, .u16, .ro, .num 0, [], .os⟩,
  ⟨0x5C01, 1, 0x03, .u32, .ro, .num 0, [], .os⟩,
  ⟨0x5C01, 1, 0x04, .u64, .ro, .num 0, [], .os⟩,
  ⟨0x5C01, 1, 0x05, .i16, .ro, .num 0, [], .os⟩,
  ⟨0x5C01, 1, 0x06, .u8, .ro, .num 0, [], .os⟩,
  ⟨0x5C01, 1, 0x07, .u16, .ro, .num 0, [], .os⟩,
  ⟨0x5C01, 1, 0x08, .u32, .ro, .num 0, [], .os⟩,
  ⟨0x5C01, 1, 0x09, .u32, .ro, .num 0, [], .os⟩,
  ⟨0x5C01, 1, 0x0A, .u32, .ro, .num 0, [], .os⟩,
  ⟨0x5C01, 1, 0x0B, .u16, .ro, .num 0, [], .os⟩,
  ⟨0x5C20, 4, 0x01, .domain, .rw, .odGrid, [(289, 289)], .os⟩]

/-- Objects 0x6000–0x60FF. -/
def objs60 : List ObjRow := [
  ⟨0x6000, 1, 0x01, .u8, .wo, .num 0, [(1, 1)], .fac⟩,
  ⟨0x6000, 1, 0x02, .u8, .ro, .num 0, [], .os⟩,
  ⟨0x6000, 1, 0x03, .u32, .rw, .num 0, [], .fac⟩,
  ⟨0x6000, 1, 0x04, .u32, .ro, .num 0, [], .os⟩,
  ⟨0x6010, 24, 0x01, .domain, .rw, .raw [], [], .fac⟩,
  ⟨0x6040, 16, 0x01, .domain, .rw, .raw [], [], .fac⟩,
  ⟨0x6060, 32, 0x01, .domain, .rw, .raw [], [], .fac⟩,
  ⟨0x60A0, 1, 0x01, .domain, .rw, .raw [], [], .fac⟩,
  ⟨0x60B0, 1, 0x01, .domain, .rw, .raw [], [], .fac⟩,
  ⟨0x60C0, 1, 0x01, .domain, .rw, .raw [], [], .fac⟩,
  ⟨0x60D0, 1, 0x01, .domain, .rw, .raw [], [], .fac⟩]

/-- Objects 0x7000–0x70FF. -/
def objs70 : List ObjRow := [
  ⟨0x7000, 1, 0x01, .u32, .ro, .num 0, [], .os⟩,
  ⟨0x7001, 4095, 0x01, .u32, .ro, .num 0, [], .os⟩,
  ⟨0x7001, 4095, 0x02, .domain, .ro, .num 0, [], .os⟩,
  ⟨0x7001, 4095, 0x03, .u32, .ro, .num 0, [], .os⟩]

/-- The rows of the page an index lies in. -/
def objPage (p : Nat) : List ObjRow :=
  if p = 0x10 then objs10
  else if p = 0x20 then objs20
  else if p = 0x21 then objs21
  else if p = 0x22 then objs22
  else if p = 0x28 then objs28
  else if p = 0x30 then objs30
  else if p = 0x34 then objs34
  else if p = 0x36 then objs36
  else if p = 0x38 then objs38a ++ objs38b ++ objs38c
  else if p = 0x3A then objs3A
  else if p = 0x3C then objs3Ca ++ objs3Cb
  else if p = 0x3E then objs3E
  else if p = 0x40 then objs40
  else if p = 0x44 then objs44
  else if p = 0x48 then objs48a ++ objs48b
  else if p = 0x50 then objs50
  else if p = 0x52 then objs52
  else if p = 0x54 then objs54
  else if p = 0x56 then objs56
  else if p = 0x58 then objs58
  else if p = 0x5A then objs5A
  else if p = 0x5C then objs5C
  else if p = 0x60 then objs60
  else if 0x70 ≤ p ∧ p ≤ 0x7F then objs70
  else []

/-- The row of an object, if the object exists (01 R27). -/
def objRow? (i sub : Nat) : Option ObjRow :=
  (objPage (i / 256)).find? fun r => decide (r.lo ≤ i) && decide (i < r.lo + r.count) && r.sub == sub

/-- The default of a row at an index. -/
def ObjRow.default (r : ObjRow) (i : Nat) : Val :=
  match r.dflt with
  | .num v => .int v
  | .nums l => .int (l.getD (i - r.lo) 0)
  | .raw l => .bytes (l.map (BitVec.ofNat 8))
  | .fill n b => .bytes (List.replicate n (BitVec.ofNat 8 b))
  | .odGrid => .bytes ((List.range 289).map fun k => BitVec.ofNat 8 (min (16 * (k % 17)) 255))

end Sys2Proof.Machine
end

