-- ==== Sys2Proof/Config.lean ====
section
/-! DEFINITION. What a unit or an implementation fixes and what the spec leaves open: constants with no body that a proof can see,
so that a claim holds whatever they are. -/

namespace Sys2Proof.Config

/-- Free value: the n-th number that an instruction leaves open (log 6). Applied to `State.free`. -/
opaque freeInt : Nat → Int

/-- Free value: the n-th byte that an instruction leaves open (log 6). -/
opaque freeByte : Nat → Byte

/-- Sine of an angle in degrees; the spec uses it and gives no rounding of it (log 7). -/
opaque sinDeg : Rat → Rat

/-- Cosine of an angle in degrees (log 7). -/
opaque cosDeg : Rat → Rat

/-- Angle in degrees of the vector (x, y) as atan2 y x (log 7). -/
opaque atanDeg : Rat → Rat → Rat

/-- Quotient x / 0, a mean over nothing and the like, where a rule divides and does not say what stands there (log 25). -/
opaque divByZero : Rat → Rat

/-- π as the projection of 09 R213 takes it (log 7). -/
opaque pi : Rat

/-- e to the power −x. -/
opaque expNeg : Rat → Rat

/-- Plane offset in mm (east, north) from the first position to the second, both latitude and longitude in 1e-7 degree
(log 7: the spec measures distances on the ground and gives no formula). -/
opaque geoOffset : Int → Int → Int → Int → Int × Int

/-- The position reached from a latitude and longitude by an offset east and north in mm (log 7). -/
opaque geoMove : Int → Int → Rat → Rat → Int × Int

/-- Whether an ECDSA P-384 signature (96 bytes) of a SHA-384 digest verifies under a public key (15 R345, 19 R419). -/
opaque ecdsaP384 (key digest sig : Bytes) : Bool

/-- Turyel's image signing keys by KEY_ID, held in ROM (00 R1, 19 R419). -/
opaque turyelKey : Nat → Bytes

/-- Turyel's Factory role key, const (15 Table 15-3). -/
opaque factoryKey : Bytes

/-- Per-unit values written at end of line: serial number, role keys, MDP key, MAC addresses, PHY latencies (15 Table 15-5, 13 Table 13-6). -/
opaque serialNumber : Nat
opaque serviceKey : Bytes
opaque oemKey : Bytes
opaque mdpPublicKey : Bytes
opaque macAddress : Nat → Bytes
opaque egressLatency : Nat → Nat
opaque ingressLatency : Nat → Nat

/-- Board issue as a number (00 R3), and the letter before it in ManufacturerHardwareVersion (00 R2). -/
opaque boardIssue : Nat
opaque boardLetter : Byte

/-- ARG of Flowstone code 0x9003 for a step after the first fix (0), a GNSS return (1) or TimeCommand (2): 16 Table 16-3 calls it the
cause and numbers none. -/
opaque stepCause : Nat → Nat

/-- Coefficient by which the first-order low-pass of an analogue input moves toward a sample, for a corner in Hz and a sample rate
(log 21: 04 R105 names the filter and gives no discrete form). -/
opaque lowPass : Nat → Nat → Rat

/-- The bytes over which a context's state signature is computed, from its integrator, d, u_prev, y_prev, v_prev, ActiveSet and repetitive
index (log 24: 05 R147 gives the values and not their layout). -/
opaque sigBytes (i d u y v : Int) (active k : Nat) : List Nat

/-- Whether signal A leading signal Q counts positive in quadrature (04 R111: the phase order sets the sign; which order it does not say). -/
opaque phaseForward : Bool

/-- Error bytes that ISO 11783-6 defines for what is outside Table 17-10 (17 R393; log 70): 0 audio, 1 memory, 2 object type, 3 stored versions,
4 unknown version. -/
opaque vtError : Nat → Byte

/-- Bytes of VT answers that the spec does not give: 0 boot time, 1 hardware features, 2 navigation keys (log 70). -/
opaque vtHardware : Nat → Byte

/-- Whether the IMU's acceleration at rest points with gravity, or against it (04 R116 does not say; log 19). -/
opaque restWithGravity : Bool

end Sys2Proof.Config
end

