-- ==== Sys2Proof/Machine/Flags.lean ====
section
/-! DEFINITION. Status words as natural numbers read and written bit by bit, and the error checks of chapters 05, 06 and 12: CRC-16,
CRC-24Q and CRC-32. -/

namespace Sys2Proof.Machine

/-- Word w with bit i made b (00 R5 numbers bits from 0). -/
def setBit (w i : Nat) (b : Bool) : Nat :=
  if w.testBit i = b then w else if b then w + 2 ^ i else w - 2 ^ i

/-- The bits of w from lo upward, n of them. -/
def bits (w lo n : Nat) : Nat := w / 2 ^ lo % 2 ^ n

/-- A Boolean as a status bit's number. -/
def b2n (b : Bool) : Nat := if b then 1 else 0

/-- One bit of a CRC register of `w` bits, most significant bit first. -/
def crcStep (w poly : Nat) (r : Nat) : Nat :=
  if r.testBit (w - 1) then (Nat.xor (r * 2) poly) % 2 ^ w else r * 2 % 2 ^ w

/-- `n` bits of it. -/
def crcBits (w poly : Nat) : Nat → Nat → Nat
  | 0, r => r
  | n + 1, r => crcBits w poly n (crcStep w poly r)

/-- A CRC with the most significant bit first over bytes given as numbers. -/
def crcMsb (w poly init : Nat) (l : List Nat) : Nat :=
  l.foldl (fun r b => crcBits w poly 8 (Nat.xor r (b * 2 ^ (w - 8)))) init

/-- One bit of a reflected CRC register. -/
def crcRefStep (poly r : Nat) : Nat := if r % 2 = 1 then Nat.xor (r / 2) poly else r / 2

/-- `n` bits of it. -/
def crcRefBits (poly : Nat) : Nat → Nat → Nat
  | 0, r => r
  | n + 1, r => crcRefBits poly n (crcRefStep poly r)

/-- CRC-32 of IEEE 802.3 (06 Table 06-7, 15 R352). -/
def crc32 (l : List Nat) : Nat :=
  Nat.xor (l.foldl (fun r b => crcRefBits 0xEDB88320 8 (Nat.xor r b)) 0xFFFFFFFF) 0xFFFFFFFF

/-- CRC-16 of 05 Table 05-8: polynomial 0x1021, initial value 0xFFFF, no reflection, no final XOR. -/
def crc16 (l : List Nat) : Nat := crcMsb 16 0x1021 0xFFFF l

/-- CRC-24Q of RTCM 3 frames (12 R285). -/
def crc24q (l : List Nat) : Nat := crcMsb 24 0x864CFB 0 l

end Sys2Proof.Machine
end

