-- ==== Sys2Proof/Machine/Operands.lean ====
section
/-! DEFINITION. How values stand in bytes (00 R6: little-endian; 15 R334), the fixed-point and rounding operations the chapters share,
and SHA-256, SHA-384 and HMAC for roles, tags and packages (15 R339, R344, R345). -/

namespace Sys2Proof.Machine

/-! ## Bytes and numbers -/

/-- A byte as a number and back. -/
def byteOf (n : Nat) : Byte := BitVec.ofNat 8 n

/-- Byte string as numbers. -/
def nats (b : Bytes) : List Nat := b.map BitVec.toNat

/-- n bytes of a number, little-endian (00 R6). -/
def leBytes : Nat → Nat → Bytes
  | 0, _ => []
  | n + 1, v => byteOf v :: leBytes n (v / 256)

/-- Little-endian number of a byte string. -/
def leNat : Bytes → Nat
  | [] => 0
  | b :: t => b.toNat + 256 * leNat t

/-- Big-endian number of a byte string. -/
def beNat (b : Bytes) : Nat := b.foldl (fun a x => a * 256 + x.toNat) 0

/-- n bytes of a number, big-endian. -/
def beBytes (n v : Nat) : Bytes := (leBytes n v).reverse

/-- Two's-complement reading of an n-byte number. -/
def toSigned (n v : Nat) : Int := if v < 2 ^ (8 * n - 1) then v else (v : Int) - 2 ^ (8 * n)

/-- Two's-complement bytes of an integer. -/
def ofSigned (n : Nat) (v : Int) : Nat := (v % (2 ^ (8 * n) : Int)).toNat

/-- Little-endian two's-complement bytes. -/
def leInt (n : Nat) (v : Int) : Bytes := leBytes n (ofSigned n v)

/-- Bytes from position `off`, `n` of them, as a little-endian number. -/
def fieldLe (b : Bytes) (off n : Nat) : Nat := leNat ((b.drop off).take n)

/-- The same, signed. -/
def fieldInt (b : Bytes) (off n : Nat) : Int := toSigned n (fieldLe b off n)

/-- The characters of an ASCII string as bytes. -/
def ascii (t : String) : Bytes := t.toList.map fun c => byteOf c.toNat

/-- A number in decimal digits. -/
def decimal (n : Nat) : Bytes := (Nat.toDigits 10 n).map fun c => byteOf c.toNat

/-- A hardware stamp, resolved to 4 ns (00 R10). -/
def tick (stamp : Nat) : Nat := stamp / 4 * 4

/-! ## Fixed point and rounding -/

/-- Clamp into an interval. -/
def clampI (lo hi v : Int) : Int := if v < lo then lo else if hi < v then hi else v

/-- The Q15 interval of 05 R126. -/
def sat15 (v : Int) : Int := clampI (-32768) 32767 v

/-- Round half away from zero of a/b for b > 0. -/
def divRound (a : Int) (b : Nat) : Int :=
  if 0 ≤ a then (2 * a + b) / (2 * b : Nat) else -((2 * (-a) + b) / (2 * b : Nat))

/-- Round half up of a/b (floor of a/b + 1/2). -/
def divHalfUp (a : Int) (b : Nat) : Int := (2 * a + b) / (2 * b : Nat)

/-- Truncation toward minus infinity of a/b. -/
def divFloor (a : Int) (b : Nat) : Int := a / (b : Int)

/-- Nearest integer of a rational, halves away from zero. -/
def ratRound (q : Rat) : Int := divRound q.num q.den

/-- Nearest integer of a rational, halves up (05 R126). -/
def halfUp (q : Rat) : Int := divHalfUp q.num q.den

/-- Quotient of rationals; by 0 it is a free value of the dividend (log 25). -/
def divQ (a b : Rat) : Rat := if b = 0 then Config.divByZero a else a / b

/-- Clamp of a rational. -/
def clampQ (lo hi v : Rat) : Rat := if v < lo then lo else if hi < v then hi else v

/-- Mean of a list; of an empty one free (log 25). -/
def meanQ (l : List Rat) : Rat := divQ (l.foldl (· + ·) 0) l.length

/-- Integer square root by Newton's iteration with fuel. -/
def isqrtAux : Nat → Nat → Nat → Nat
  | 0, _, r => r
  | f + 1, n, r => let r' := (r + n / r) / 2; if r' < r then isqrtAux f n r' else r

/-- ⌊√n⌋. -/
def isqrt (n : Nat) : Nat := if n = 0 then 0 else isqrtAux (n.log2 + 8) n (2 ^ (n.log2 / 2 + 1))

/-- Nearest integer of the square root of a rational, halves up. -/
def sqrtRound (q : Rat) : Nat := (isqrt (4 * q).floor.toNat + 1) / 2

/-- Insertion into a rising list of integers. -/
def insI (x : Int) : List Int → List Int
  | [] => [x]
  | y :: t => if x ≤ y then x :: y :: t else y :: insI x t

/-- A list of integers in rising order. -/
def sortI (l : List Int) : List Int := l.foldr insI []

/-- Median of a list of integers; of an even number, the mean of the two middle ones, rounded down (log 11). -/
def medianI (l : List Int) : Int :=
  let o := sortI l
  (o.getD ((l.length - 1) / 2) 0 + o.getD (l.length / 2) 0) / 2

/-! ## SHA-2 (15 R339) -/

/-- Word-size parameters of a SHA-2 function. -/
structure Sha where
  w : Nat
  rounds : Nat
  k : List Nat
  init : List Nat
  /-- rotation amounts: Σ0, Σ1, σ0 (two rotations, one shift), σ1 -/
  r : List Nat

/-- Right rotation of a w-bit word. -/
def rotr (w n x : Nat) : Nat := Nat.lor (x / 2 ^ n) (x * 2 ^ (w - n) % 2 ^ w)

/-- Σ with three rotations. -/
def bigSigma (w a b c x : Nat) : Nat := Nat.xor (Nat.xor (rotr w a x) (rotr w b x)) (rotr w c x)

/-- σ with two rotations and one shift. -/
def smallSigma (w a b c x : Nat) : Nat := Nat.xor (Nat.xor (rotr w a x) (rotr w b x)) (x / 2 ^ c)

/-- Message schedule: `n` more words before the sixteen newest, which stand first in `l` (newest first). -/
def schedule (h : Sha) : Nat → List Nat → List Nat
  | 0, l => l
  | n + 1, l =>
    let g := fun i => h.r.getD i 0
    let x := (smallSigma h.w (g 9) (g 10) (g 11) (l.getD 1 0) + l.getD 6 0 +
      smallSigma h.w (g 6) (g 7) (g 8) (l.getD 14 0) + l.getD 15 0) % 2 ^ h.w
    schedule h n (x :: l)

/-- One compression round on the eight working words. -/
def shaRound (h : Sha) (v : List Nat) (kw : Nat × Nat) : List Nat :=
  match v with
  | [a, b, c, d, e, f, g, i] =>
    let r := fun j => h.r.getD j 0
    let ch := Nat.xor (Nat.land e f) (Nat.land (2 ^ h.w - 1 - e) g)
    let t1 := i + bigSigma h.w (r 3) (r 4) (r 5) e + ch + kw.1 + kw.2
    let maj := Nat.xor (Nat.xor (Nat.land a b) (Nat.land a c)) (Nat.land b c)
    let t2 := bigSigma h.w (r 0) (r 1) (r 2) a + maj
    [(t1 + t2) % 2 ^ h.w, a, b, c, (d + t1) % 2 ^ h.w, e, f, g]
  | v => v

/-- The compression function on one block. -/
def shaBlock (h : Sha) (v : List Nat) (block : List Nat) : List Nat :=
  let ws := (schedule h (h.rounds - 16) block.reverse).reverse
  List.zipWith (fun a b => (a + b) % 2 ^ h.w) v ((List.zip h.k ws).foldl (shaRound h) v)

/-- Big-endian words of a byte string, `n` of them, `m` bytes each. -/
def beWords (m : Nat) : Nat → Bytes → List Nat
  | 0, _ => []
  | n + 1, b => beNat (b.take m) :: beWords m n (b.drop m)

/-- All blocks, with fuel. -/
def shaLoop (h : Sha) : Nat → List Nat → Bytes → List Nat
  | 0, v, _ => v
  | n + 1, v, b => shaLoop h n (shaBlock h v (beWords (h.w / 8) 16 (b.take (2 * h.w)))) (b.drop (2 * h.w))

/-- Padding: a 1 bit, zeros, the length in bits. -/
def shaPad (h : Sha) (b : Bytes) : Bytes :=
  let blk := 2 * h.w
  let lenB := h.w / 4
  let z := (blk - (b.length + 1 + lenB) % blk) % blk
  b ++ [0x80#8] ++ List.replicate z 0#8 ++ beBytes lenB (8 * b.length)

/-- The digest, `n` bytes of it. -/
def shaDigest (h : Sha) (n : Nat) (b : Bytes) : Bytes :=
  let p := shaPad h b
  ((shaLoop h (p.length / (2 * h.w)) h.init p).flatMap (beBytes (h.w / 8))).take n

/-- The first 64-bit fractional words of the cube roots of the first 80 primes; SHA-256 uses their upper halves. -/
def shaK : List Nat := [
  0x428A2F98D728AE22, 0x7137449123EF65CD, 0xB5C0FBCFEC4D3B2F, 0xE9B5DBA58189DBBC, 0x3956C25BF348B538,
  0x59F111F1B605D019, 0x923F82A4AF194F9B, 0xAB1C5ED5DA6D8118, 0xD807AA98A3030242, 0x12835B0145706FBE,
  0x243185BE4EE4B28C, 0x550C7DC3D5FFB4E2, 0x72BE5D74F27B896F, 0x80DEB1FE3B1696B1, 0x9BDC06A725C71235,
  0xC19BF174CF692694, 0xE49B69C19EF14AD2, 0xEFBE4786384F25E3, 0x0FC19DC68B8CD5B5, 0x240CA1CC77AC9C65,
  0x2DE92C6F592B0275, 0x4A7484AA6EA6E483, 0x5CB0A9DCBD41FBD4, 0x76F988DA831153B5, 0x983E5152EE66DFAB,
  0xA831C66D2DB43210, 0xB00327C898FB213F, 0xBF597FC7BEEF0EE4, 0xC6E00BF33DA88FC2, 0xD5A79147930AA725,
  0x06CA6351E003826F, 0x142929670A0E6E70, 0x27B70A8546D22FFC, 0x2E1B21385C26C926, 0x4D2C6DFC5AC42AED,
  0x53380D139D95B3DF, 0x650A73548BAF63DE, 0x766A0ABB3C77B2A8, 0x81C2C92E47EDAEE6, 0x92722C851482353B,
  0xA2BFE8A14CF10364, 0xA81A664BBC423001, 0xC24B8B70D0F89791, 0xC76C51A30654BE30, 0xD192E819D6EF5218,
  0xD69906245565A910, 0xF40E35855771202A, 0x106AA07032BBD1B8, 0x19A4C116B8D2D0C8, 0x1E376C085141AB53,
  0x2748774CDF8EEB99, 0x34B0BCB5E19B48A8, 0x391C0CB3C5C95A63, 0x4ED8AA4AE3418ACB, 0x5B9CCA4F7763E373,
  0x682E6FF3D6B2B8A3, 0x748F82EE5DEFB2FC, 0x78A5636F43172F60, 0x84C87814A1F0AB72, 0x8CC702081A6439EC,
  0x90BEFFFA23631E28, 0xA4506CEBDE82BDE9, 0xBEF9A3F7B2C67915, 0xC67178F2E372532B, 0xCA273ECEEA26619C,
  0xD186B8C721C0C207, 0xEADA7DD6CDE0EB1E, 0xF57D4F7FEE6ED178, 0x06F067AA72176FBA, 0x0A637DC5A2C898A6,
  0x113F9804BEF90DAE, 0x1B710B35131C471B, 0x28DB77F523047D84, 0x32CAAB7B40C72493, 0x3C9EBE0A15C9BEBC,
  0x431D67C49C100D4C, 0x4CC5D4BECB3E42B6, 0x597F299CFC657E2A, 0x5FCB6FAB3AD6FAEC, 0x6C44198C4A475817]

/-- SHA-256. -/
def sha256 (b : Bytes) : Bytes :=
  shaDigest ⟨32, 64, (shaK.take 64).map (· / 2 ^ 32), [
  0x6A09E667, 0xBB67AE85, 0x3C6EF372, 0xA54FF53A, 0x510E527F, 0x9B05688C, 0x1F83D9AB, 0x5BE0CD19], [2, 13, 22, 6, 11, 25, 7, 18, 3, 17, 19, 10]⟩ 32 b

/-- SHA-384. -/
def sha384 (b : Bytes) : Bytes :=
  shaDigest ⟨64, 80, shaK, [
  0xCBBB9D5DC1059ED8, 0x629A292A367CD507, 0x9159015A3070DD17, 0x152FECD8F70E5939,
  0x67332667FFC00B31, 0x8EB44A8768581511, 0xDB0C2E0D64F98FA7, 0x47B5481DBEFA4FA4], [28, 34, 39, 14, 18, 41, 1, 8, 7, 19, 61, 6]⟩ 48 b

/-- HMAC-SHA-256 (15 R339, R344). -/
def hmac256 (key msg : Bytes) : Bytes :=
  let k0 := if key.length > 64 then sha256 key else key
  let k := k0 ++ List.replicate (64 - k0.length) 0#8
  sha256 (k.map (· ^^^ 0x5C#8) ++ sha256 (k.map (· ^^^ 0x36#8) ++ msg))

end Sys2Proof.Machine
end

