-- ==== Sys2Proof/Machine/State.lean ====
section
/-! DEFINITION. The state of the Lorvos H960 as plain data, one record per engine, with the reasons a command may be refused and
`State.reset`. The dictionary's writable values stand in `State.dict` (15 R334); every live value that an object reads is a field of its
engine's record. -/

namespace Sys2Proof.Machine

/-- The reasons the block can stop with a fault. -/
inductive Fault where
  /-- Nobody raises it: the spec names no command after which the block stands still. Safe: a machine that never
  faults is asked of no claim. -/
  | stopped
  deriving DecidableEq, Repr

/-- The reasons a command is refused by the model. -/
inductive Refusal where
  /-- Raised by an arm of exec whose command has no meaning yet. Safe. -/
  | notModelled (mnemonic : String)
  /-- Raised by `withUnit` for a command whose operands name a channel, bank, pin, session or other unit that the module
  does not have (17th SENT input and so on): such a command cannot be sent. Safe. -/
  | noSuchUnit
  deriving DecidableEq, Repr

/-! ## Power and device state (chapters 01 and 18) -/

/-- The device states of 0x2000.01 (01 Table 01-8). -/
inductive Dev where
  | dormant | park | start | run | service | ladder | shutdown
  deriving DecidableEq, Repr

/-- Belay's hold-up states of 0x2012.01 (18 Table 18-7). -/
inductive Holdup where
  | off | charging | armed | supplying | fault
  deriving DecidableEq, Repr

/-- One entry of PowerHistory (18 Table 18-8): TAI seconds, state, cause. -/
structure PowerEntry where
  tai : Nat
  state : Nat
  cause : Nat
  deriving DecidableEq, Repr

/-- Supply, wake and device state (01 R28–R31, 18 R396–R415). -/
structure Pw where
  dev : Dev := .dormant
  ign : Bool := false
  keysvc : Bool := false
  /-- wake latched with its source (R407) -/
  wake : Option Nat := none
  wakeSource : Nat := 0
  /-- the 1 s for which Belay holds a KEYSVC wake is running (R407) -/
  keyHold : Bool := false
  /-- the latched wake leads to Ladder (R407) -/
  wakeLadder : Bool := false
  /-- session that requested Service (01 Table 01-9) -/
  reqSess : Option Nat := none
  batMv : Nat := 0
  batMin : Nat := 0
  belowWarning : Bool := false
  overvoltage : Bool := false
  episode : Bool := false
  storeCut : Bool := false
  /-- lowest 1 ms mean of the open episode -/
  episodeMin : Nat := 0
  episodeCount : Nat := 0
  lastEpisodeMin : Nat := 0
  lastEpisodeDuration : Nat := 0
  detected : Nat := 0
  /-- SystemVoltage and ShutdownLimit as taken at Start (R415) -/
  systemVoltage : Nat := 0
  shutdownLimit : Nat := 10000
  deriving DecidableEq, Repr

/-- Belay's hold-up bank, clock, history and the thermal supervision (18 R402–R412). -/
structure Belay where
  holdup : Holdup := .off
  holdupMv : Nat := 0
  holdupEnergy : Nat := 0
  lastHoldupTime : Nat := 0
  holdupCount : Nat := 0
  /-- the running Shutdown is on the bank (R402) -/
  onHoldup : Bool := false
  /-- Kilxus is off after a shutdown on hold-up until BAT+ has held for 500 ms (R405) -/
  restartWait : Bool := false
  /-- Kilxus is held in reset until the start condition of R407 holds (R405); the state it restarts in -/
  resetWait : Bool := false
  /-- device state that a reset without hold-up ended (R405) -/
  resetFrom : Nat := 0
  /-- a Store was cut off on hold-up; STORE_CUT reads 1 from the next Start (R404) -/
  cut : Bool := false
  /-- machine time of the entry to Shutdown -/
  shutdownAt : Nat := 0
  rtc : Nat := 0
  rtcValid : Bool := false
  /-- the retention memory was lost since the last Start (R409) -/
  memLost : Bool := false
  /-- machine time written to NOR at the last Shutdown (R409) -/
  norTime : Nat := 0
  history : List PowerEntry := []
  throttled : Bool := false
  critical : Bool := false
  above70 : Bool := false
  /-- ns throttled since Start before the running throttle, and MonotonicNs of its start (R412) -/
  throttleTime : Nat := 0
  throttleAt : Nat := 0
  dieTemp : Int := 0
  boardTemp : Int := 0
  modulePower : Nat := 0
  /-- the module stays in Park or Dormant until IGN is cycled with the die below 100 °C (R412) -/
  criticalLock : Bool := false
  /-- IGN has been low since the critical Shutdown (R412) -/
  ignSeenLow : Bool := false
  /-- corrected errors by memory, with a count each (01 R21) -/
  eccCount : List (Nat × Nat) := []
  /-- engines restarted after an uncorrectable error (01 R21), with a count each -/
  engineRestarts : List (Nat × Nat) := []
  deriving DecidableEq, Repr

/-! ## Flowstone (chapter 16) -/

/-- A record group: the head's fields of Table 16-1 and the continuation bytes (16 R361). -/
structure FlowRec where
  seq : Nat
  stamp : Nat
  timeSource : Nat
  code : Nat
  arg : Nat
  engine : Nat
  station : Nat
  parcel : Nat
  payload : Bytes
  more : Bytes
  deriving DecidableEq, Repr

/-- A first-occurrence entry (16 Table 16-5). -/
structure FotEntry where
  first : FlowRec
  count : Nat
  lastStamp : Nat
  lastSeq : Nat
  deriving DecidableEq, Repr

/-- Flowstone's buffer, ring and counters (16 R361–R371). -/
structure Flow where
  /-- SEQ of the next record -/
  nextSeq : Nat := 0
  /-- groups not yet copied to the ring, oldest first -/
  wait : List FlowRec := []
  /-- groups of the non-volatile ring, oldest first -/
  ring : List FlowRec := []
  /-- a flush is running, and the SEQ after the last it covers -/
  flushUntil : Option Nat := none
  flushedSeq : Nat := 0
  flushFailed : Bool := false
  clearSeq : Nat := 0
  lostRecords : Nat := 0
  suppressed : Nat := 0
  /-- records lost since the last 0x0003 and the first of them (R367) -/
  lostPending : Nat := 0
  lostFirst : Nat := 0
  /-- the second of MonotonicNs the counts below belong to -/
  second : Nat := 0
  /-- code, records written, records suppressed in that second (R366) -/
  perCode : List (Nat × Nat × Nat) := []
  /-- SuppressLimit in force this second (R371) -/
  limit : Nat := 64
  fot : List FotEntry := []
  fotFull : Bool := false
  deriving DecidableEq, Repr

/-! ## Sessions and persistence (chapter 15) -/

/-- The unfinished segmented write of a session (15 R344). -/
structure Transfer where
  index : Nat
  sub : Nat
  total : Nat
  data : Bytes
  /-- MonotonicNs of the last segment -/
  segAt : Nat
  deriving DecidableEq, Repr

/-- The challenge of a role request (15 R339). -/
structure Chal where
  value : Bytes
  time : Nat
  used : Bool
  deriving DecidableEq, Repr

/-- The windows and per-session objects of other chapters, one copy in each session. -/
structure SessWin where
  parcelSelect : Nat := 0
  /-- parcel window copy: result code and the bytes of the objects of the window (02 R54) -/
  parcelResult : Nat := 1
  parcelCopy : List (Nat × Val) := []
  eventResult : Nat := 0
  eventId : Nat := 0
  cancelResult : Nat := 0
  leadSelect : Nat := 0
  leadResult : Nat := 1
  leadCopy : List (Nat × Val) := []
  readChannel : Nat := 0
  readOffset : Nat := 0
  channelSelect : Nat := 0
  frameChannel : Nat := 8
  frameResult : Nat := 0
  frameStamp : Nat := 0
  persistLayer : Nat := 1
  persistTarget : Nat := 0
  persistResult : Nat := 1
  persistCopy : List (Nat × Val) := []
  readCursor : Nat := 0
  minSeverity : Nat := 0
  window : List FlowRec := []
  windowStatus : Nat := 0
  skipped : Nat := 0
  fotIndex : Nat := 0
  deriving DecidableEq, Repr

/-- One dictionary session (15 R339–R344, R357). -/
structure Sess where
  opened : Bool := false
  role : Nat := 0
  transport : Transport := .c8
  source : Nat := 0
  timeout : Nat := 30
  /-- MonotonicNs of the last valid request -/
  lastReq : Nat := 0
  roleReq : Option Nat := none
  chal : Option Chal := none
  /-- key and Response of the grant (R344) -/
  key : Bytes := []
  response : Bytes := []
  lastSeq : Option Nat := none
  lastAnswer : Bytes := []
  transfer : Option Transfer := none
  readCopy : Option (Nat × Nat × Bytes) := none
  readAt : Nat := 0
  /-- abort code of the session's last write, 0 when it was carried out (R336) -/
  answer : Nat := 0
  /-- bytes answered to the session's last read -/
  answerData : Bytes := []
  abortResult : Nat := 0xFF
  abortAccepted : Nat := 0
  abortCompleted : Nat := 0
  /-- a function abort still to complete: its function, or 48 for all (R358) -/
  aborting : Option Nat := none
  updResult : Nat := 0
  updId : Nat := 0
  win : SessWin := {}
  deriving DecidableEq, Repr

/-- The dictionary server's session bookkeeping (15 R339–R344). -/
structure Serv where
  sess : List Sess := List.replicate 16 {}
  /-- failed responses: source and MonotonicNs (R340) -/
  fails : List (Nat × Nat) := []
  /-- sources whose role requests are refused, and MonotonicNs since when (R340) -/
  lockouts : List (Nat × Nat) := []
  failedAttempts : Nat := 0
  rejected : Nat := 0
  /-- the last datagram answered, if any (R343, R344) -/
  reply : Bytes := []
  /-- credentials: OperatorPassword, ServiceKey, OemKey, MdpPublicKey (Table 15-5) -/
  password : Bytes := []
  serviceKey : Bytes := []
  oemKey : Bytes := []
  mdpKey : Bytes := []
  /-- UdpInterfaces and NodeId in use since Start -/
  nodeId : Nat := 0x7E
  deriving DecidableEq, Repr

/-- One of the three copies of a persistent value (15 R352); `ok` says that its CRC holds. -/
structure Copy where
  gen : Nat
  value : Val
  ok : Bool
  deriving DecidableEq, Repr

/-- A persistent target: its layer (1 dictionary, 2 user calibration, 3 Column safety), its key, copies A, B, C and PersistState
(15 R352–R356). -/
structure Target where
  layer : Nat
  key : Nat
  a : Option Copy
  b : Option Copy
  c : Option Copy
  state : Nat
  deriving DecidableEq, Repr

/-- A machine description package as loaded (15 R345). -/
structure Package where
  id : Nat
  version : Nat
  formatMajor : Nat
  entries : List ObjEntry
  deriving DecidableEq, Repr

/-- Persistence, package and factory state (15 R345–R356). -/
structure Persist where
  targets : List Target := []
  /-- running Store: the session and the keys still to be committed, ascending (R349) -/
  store : Option (Nat × List (Nat × Val)) := none
  /-- RestoreDefaults written: layer 3 is cleared at the next Start -/
  restore : Bool := false
  package : Option Package := none
  /-- PACKAGE_ID and PACKAGE_VERSION first applied before (R346) -/
  appliedId : Option (Nat × Nat) := none
  mdpState : Nat := 0
  mdpEntry : Nat := 0
  mdpAbort : Nat := 0
  fuse : Bool := false
  calDate : Nat := 0
  /-- factory areas whose CRC failed (R348) -/
  areaBad : List Nat := []
  /-- factory area contents: index and bytes -/
  areas : List (Nat × Bytes) := []
  /-- LAYER_BUILD has run since the wake and was not refused (R346) -/
  built : Bool := false
  deriving DecidableEq, Repr

/-! ## Machine time, Ethernet and Skylight (chapters 12 and 13) -/

/-- Machine time, its steering and the network client (13 R297–R307, 12 R291–R293). -/
structure Tm where
  /-- machine time in ns: the start of the present frame (00 R9, 13 R301) -/
  now : Nat := 0
  /-- MonotonicNs (R298) -/
  mono : Nat := 0
  /-- loop frame number N (05 R121) -/
  frame : Nat := 0
  utcOffset : Int := 0
  utcValid : Bool := false
  leapPending : Bool := false
  leapNegative : Bool := false
  /-- TimeSource 0x5200.03 -/
  source : Nat := 0
  /-- offset still to be slewed out, ns, and the tenths of ns accrued to the next tick (R297, R301) -/
  slew : Int := 0
  slewAcc : Nat := 0
  /-- a step waiting for a frame end (R302) -/
  step : Option Int := none
  /-- cause of that step: 0 first fix, 1 GNSS return, 2 TimeCommand (R297) -/
  stepCause : Nat := 0
  /-- machine time of the frame end at which the step is made: the next whole second of the time it is counted in (R291, R293, R302) -/
  stepAt : Nat := 0
  /-- MonotonicNs of the last stretched frame (R302) -/
  stretchedAt : Option Nat := none
  lastStep : Int := 0
  lastStepFrame : Nat := 0
  stepCount : Nat := 0
  /-- PTP servo correction in 0.01 ppb and its time error in ns (R299, 12 R290) -/
  freqCorr : Int := 0
  deriving DecidableEq, Repr

/-- One network interface (13 Table 13-6). -/
structure Port where
  link : Bool := false
  rxFrames : Nat := 0
  txFrames : Nat := 0
  rxDropped : Nat := 0
  downCount : Nat := 0
  quality : Nat := 0
  /-- MonotonicNs at which the link went down (15 R341) -/
  downAt : Nat := 0
  deriving DecidableEq, Repr

/-- One PTP port (13 Table 13-6, R304–R308). -/
structure Ptp where
  /-- 1 disabled, 2 listening, 3 master, 4 slave, 5 passive -/
  state : Nat := 1
  meanDelay : Int := 0
  /-- MeanLinkDelay of the last 16 exchanges, newest first -/
  delays : List Int := []
  /-- exchanges beyond PathThreshold since the last within it, newest first -/
  outliers : List Int := []
  /-- exchanges within PathThreshold of the new median since PATH_CHANGE -/
  within : Nat := 0
  pathChange : Bool := false
  notCapable : Bool := false
  foreignGm : Bool := false
  pathCount : Nat := 0
  /-- Syncs departed: count and stamp of the last -/
  syncs : Nat := 0
  lastSync : Nat := 0
  deriving DecidableEq, Repr

/-- Ethernet, PTP and the network client's state (13 R303–R308). -/
structure Net where
  ports : List Port := List.replicate 4 {}
  ptp : List Ptp := List.replicate 3 {}
  vbus : Bool := false
  /-- grandmaster's accuracy in ns, as announced on the client port -/
  gmAccuracy : Nat := 0
  /-- consecutive Syncs within 100 ns (R306) -/
  lockRun : Nat := 0
  clientLocked : Bool := false
  clientUnc : Nat := 0
  clientOffset : Int := 0
  stepRefused : Bool := false
  freqHeld : Bool := false
  /-- refused offsets, newest first, at most 8 -/
  refused : List Int := []
  /-- RefusedStep 0x5200.09 -/
  refusedStep : Int := 0
  /-- consecutive Syncs within JumpThreshold during a refusal -/
  goodRun : Nat := 0
  deriving DecidableEq, Repr

/-- One of the 384 tracking channels (12 Table 12-4). -/
structure Chan where
  svid : Nat := 0
  signal : Nat := 0
  antenna : Nat := 0
  /-- 0 idle, 1 verifying, 2 pull-in, 3 code lock, 4 carrier lock, 5 excluded -/
  state : Nat := 0
  cno : Nat := 0
  elevation : Int := 0
  azimuth : Nat := 0
  /-- epochs of carrier lock -/
  lockTime : Nat := 0
  doppler : Int := 0
  /-- carrier phase not used until it has held lock for 1 s (R282) -/
  slipped : Bool := false
  /-- MonotonicNs since which C/N0 has been below CnoMask (R281) -/
  lowSince : Option Nat := none
  deriving DecidableEq, Repr

/-- The last solution as 0x5001 reads it (12 Table 12-9). -/
structure Pose where
  stamp : Nat := 0
  lat : Int := 0
  lon : Int := 0
  height : Int := 0
  velN : Int := 0
  velE : Int := 0
  velU : Int := 0
  speed : Int := 0
  heading : Nat := 0
  tilt : Int := 0
  accuracy : Nat := 0
  sats : Nat := 0
  deriving DecidableEq, Repr

/-- What Skylight saves to eMMC at Shutdown (12 R277). -/
structure SkyStore where
  almanac : Bool := false
  ephemeris : Bool := false
  /-- lat, lon, uncertainty m -/
  pos : Option (Int × Int × Nat) := none
  /-- TAI − UTC of the UTC parameters -/
  utc : Option Int := none
  /-- machine time of the last Shutdown with a fix -/
  fixAt : Option Nat := none
  deriving DecidableEq, Repr

/-- Skylight (12 R274–R295). -/
structure Sky where
  /-- SkyState 0x5001.01 -/
  state : Nat := 0
  /-- TimeStatus: 0 unsynchronised, 1 locked, 2 holdover, 3 returning -/
  status : Nat := 0
  fix : Nat := 0
  pose : Pose := {}
  /-- SkyFlags 0x5001.10 as a word -/
  flags : Nat := 0
  /-- consecutive valid epochs (R291) -/
  validRun : Nat := 0
  /-- machine time, uncertainty and OCXO temperature at entry to holdover (R292) -/
  holdAt : Nat := 0
  u0 : Nat := 0
  t0 : Int := 0
  temp : Int := 0
  /-- UNCERTAINTY, none for unbounded -/
  unc : Option Nat := none
  lastOffset : Int := 0
  corrAge : Nat := 0xFFFF
  channels : List Chan := List.replicate 384 {}
  /-- search scheduler: blocks done of a satellite's window, by number and signal bit (R276) -/
  search : List (Nat × Nat × Nat) := []
  /-- satellites not found in this pass (R277) -/
  notFound : List (Nat × Nat) := []
  /-- satellites with a cell that failed verification, skipped on the next pass (R278) -/
  skips : List (Nat × Nat) := []
  almanac : Bool := false
  ephemeris : Bool := false
  /-- Skylight's own time knowledge (UTC s, uncertainty ms) and position knowledge (lat, lon, uncertainty m) (R277, R280) -/
  knownTime : Option (Nat × Nat) := none
  knownPos : Option (Int × Int × Nat) := none
  ambiguities : Bool := false
  /-- constellations excluded for 60 s, by acquisition signal, with the MonotonicNs of the end (R287) -/
  barred : List (Nat × Nat) := []
  /-- the channels as of the last epoch (Table 12-10) -/
  snap : List Chan := List.replicate 384 {}
  /-- what eMMC holds since the last Shutdown (R277) -/
  store : SkyStore := {}
  deriving DecidableEq, Repr

/-- Skylight's inputs and outputs beside the solution: aiding, corrections, antennas, PPS (12 R274, R279–R290). -/
structure SkyIo where
  /-- aiding frames of the set being received: identifier offset, data, machine time -/
  aid : List (Nat × Bytes × Nat) := []
  aidHeading : Option Nat := none
  aidCount : Nat := 0
  aidRejected : Nat := 0
  rtcmErrors : Nat := 0
  rtcmIgnored : Nat := 0
  /-- last base reference point (ECEF in 0.1 mm) and machine time of its change (R284) -/
  base : Option (Int × Int × Int) := none
  baseChangedAt : Option Nat := none
  descriptor : Bytes := []
  glonassBias : Bytes := []
  /-- machine time of the last observation message used, and system with epoch of the last MSM7 -/
  corrStamp : Option Nat := none
  lastMsm7 : List (Nat × Nat) := []
  /-- folded-back antenna feeds -/
  foldedAnt : List Nat := []
  /-- last PPS edge: marked second (ns) and QERR (ps) -/
  edgeTime : Option Nat := none
  qerr : Int := 0
  /-- the last edge was the first after a step (R290) -/
  stepped : Bool := false
  /-- a step has been made since the last edge -/
  stepSince : Bool := false
  msgSeq : Nat := 0
  message : Bytes := []
  deriving DecidableEq, Repr

/-! ## Crop, loss and shaft sensing (chapter 04) -/

/-- One impact channel (04 Table 04-2, R97–R101). -/
structure Ls where
  /-- ChannelStatus bits [4:1]: TESTING, OPEN, SHORTED, NOISY -/
  testing : Bool := false
  opened : Bool := false
  shorted : Bool := false
  noisy : Bool := false
  /-- MonotonicNs of the last window beyond the limit of R99 -/
  limitedAt : Option Nat := none
  grains : Nat := 0
  straws : Nat := 0
  pileUps : Nat := 0
  saturated : Nat := 0
  rateLimited : Nat := 0
  egrain : Rat := 200000
  /-- NoiseRms in 0.1 counts; number and sum of squares of the samples outside windows in this millisecond, and in each of the last 100 (R97) -/
  noise : Nat := 0
  quiet : Nat × Nat := (0, 0)
  quietMs : List (Nat × Nat) := []
  /-- the trigger level stands above GrainMinAmp, and the MonotonicNs since which it has or has not (R101) -/
  loud : Bool := false
  loudAt : Nat := 0
  /-- LossStation and ChannelWeight in effect in this frame (R102) -/
  station : Nat := 0xFF
  weight : Nat := 256
  cap : Nat := 0
  /-- millisecond of machine time the count belongs to, windows classified in it (R99) -/
  ms : Nat := 0
  inMs : Nat := 0
  /-- gain the values above were formed in (R102) -/
  gain : Nat := 1
  /-- MonotonicNs and n of the impacts of the last second -/
  recent : List (Nat × Nat) := []
  deriving DecidableEq, Repr

/-- One analogue input (04 Table 04-4, R104–R106). -/
structure Ai where
  raw : Int := 0
  stamp : Nat := 0
  valid : Bool := false
  low : Bool := false
  high : Bool := false
  shuntOpen : Bool := false
  /-- a fault record has been written and not cleared (R106, R119) -/
  faulted : Bool := false
  /-- engineering value of the last valid sample -/
  lastValid : Int := 0
  /-- engineering value of the latest sample and of the sample at 0 µs -/
  eng : Int := 0
  first : Int := 0
  /-- mean engineering value of the last frame with samples, and the same before this frame -/
  mean : Option Rat := none
  prevMean : Option Rat := none
  /-- low-pass state and its value at the 0 µs sample -/
  filter : Option Rat := none
  filtered : Rat := 0
  deriving DecidableEq, Repr

/-- One shaft input (04 Table 04-6, R108–R111). -/
structure Sh where
  count : Int := 0
  lastStamp : Nat := 0
  /-- levels of the input and of its second input after the last edges (R108) -/
  high : Bool := false
  highQ : Bool := false
  /-- current of a two-wire sensor, µA, and frames in a row outside 3.0–25.0 mA (R108) -/
  current : Nat := 0
  currentRun : Nat := 0
  /-- MonotonicNs of the last edge or frame with the condition of OVER_RATE, FIFO_OVERFLOW or CURRENT_FAULT (Table 04-10) -/
  condAt : Nat := 0
  /-- counted edges of the last 100 ms and at least the last two: MonotonicNs of the stamp and sign, newest first -/
  edges : List (Nat × Int) := []
  /-- edges counted since the last frame start (the FIFO of R110) -/
  fifo : Nat := 0
  /-- signed counts since the last frame start -/
  fresh : Int := 0
  reverse : Bool := false
  zero : Bool := true
  overflow : Bool := false
  quadFault : Bool := false
  overRate : Bool := false
  currentFault : Bool := false
  indexError : Bool := false
  quadErrors : Nat := 0
  /-- transitions counted; their number at each of the last errors, newest first (R111) -/
  counted : Nat := 0
  errs : List Nat := []
  /-- counted edges in a row that followed the previous one by less than 18 µs (R110) -/
  fast : Nat := 0
  /-- count at the last index edge -/
  indexAt : Option Int := none
  deriving DecidableEq, Repr

/-- The IMU (04 Table 04-8). -/
structure Imu where
  /-- acceleration in mg and rate in 0.01 °/s, machine axes X, Y, Z -/
  accel : List Int := [0, 0, 0]
  rate : List Int := [0, 0, 0]
  /-- roll and pitch of the complementary filter, degrees (R117) -/
  attitude : Rat × Rat := (0, 0)
  stamp : Nat := 0
  delivered : Bool := false
  selfFail : Bool := false
  saturated : Bool := false
  stuck : Bool := false
  /-- samples in a row at a range limit of each axis, with equal rates while a shaft turns, and normal -/
  satRun : List Nat := [0, 0, 0, 0, 0, 0]
  sameRun : Nat := 0
  normalRun : Nat := 0
  /-- samples in a row below 0.1 km/h (R117) -/
  stillRun : Nat := 0
  bias : List Rat := [0, 0, 0]
  deriving DecidableEq, Repr

/-- One SENT input (10 Table 10-6, R241, R242). -/
structure Sent where
  sig1 : Nat := 0
  sig2 : Nat := 0
  nibble : Nat := 0
  stamp : Nat := 0
  tick : Nat := 0
  /-- the input is valid but for SIGNAL_DIAG -/
  ok : Bool := false
  diag : Bool := false
  timeout : Bool := false
  frameErrors : Bool := false
  /-- rejected and valid frames in a row -/
  bad : Nat := 0
  good : Nat := 0
  errors : Nat := 0
  /-- latest serial data by identifier -/
  serial : List (Nat × Nat) := []
  deriving DecidableEq, Repr

/-- Sensing as a whole: inputs, supplies and the crop-flow chain (04 R95, R112–R115). -/
structure Sense where
  /-- in Shutdown every output is safe, so the inputs and supplies are unpowered (R120) -/
  off : Bool := false
  supplyFault : Nat := 0
  /-- LsTestNow tests still to start (bit c) -/
  testQueue : Nat := 0
  ls : List Ls := List.replicate 16 {}
  ai : List Ai := List.replicate 24 {}
  sh : List Sh := List.replicate 12 {}
  sent : List Sent := List.replicate 16 {}
  imu : Imu := {}
  /-- impacts closed since the last frame: station, frame start of the window, n × ChannelWeight (R100, R103) -/
  impacts : List (Nat × Nat × Nat) := []
  tare : Int := 0
  tareRefused : Bool := false
  /-- the tare window: paddles travelled (Q16.16), sum and number of frame means (R114) -/
  tarePaddles : Int := 0
  tareSum : Rat := 0
  tareN : Nat := 0
  massFlow : Rat := 0
  slopeUncorrected : Bool := false
  massUnmeasured : Bool := false
  tailUnmeasured : Bool := false
  feedUnmeasured : Bool := false
  moistureInvalid : Bool := false
  /-- moisture readings held until S5 reaches a travel (R115) -/
  moistQueue : List (Int × Rat) := []
  deriving DecidableEq, Repr

/-! ## The crop passage and Leads (chapters 02 and 03) -/

/-- What a ring entry sampled when it entered a station (02 R41, R43, R44) and where it left it. -/
structure Visit where
  station : Nat
  transit : Int
  step : Int
  taps : List Int
  compressed : Bool
  /-- CROSS_k: TravelCounter at the crossing out of the station, and the instant of the crossing in machine time (R47) -/
  cross : Option Int
  crossAt : Nat := 0
  deriving DecidableEq, Repr

/-- Quantities attributed to a ring entry (02 R55, 04 R118). -/
structure Attr where
  sep : Rat := 0
  shoe : Rat := 0
  /-- the same losses by the pass that they belong to, 1 to 3 (R48) -/
  sepBy : List Rat := [0, 0, 0]
  shoeBy : List Rat := [0, 0, 0]
  mass : Rat := 0
  feedSum : Rat := 0
  feedW : Rat := 0
  tailSum : Rat := 0
  tailW : Rat := 0
  moistSum : Rat := 0
  moistMass : Rat := 0
  /-- kernel weight seen, and seen in unmeasured frames, for separator, shoe, tailings, mass, feed, moisture -/
  seen : List Rat := [0, 0, 0, 0, 0, 0]
  lost : List Rat := [0, 0, 0, 0, 0, 0]
  deriving DecidableEq, Repr

/-- One entry of the parcel ring (02 R34, R48–R51, Table 02-7). -/
structure Parcel where
  num : Nat
  /-- pass count: 1 for a parcel, 2 and 3 for its tailings sub-parcels -/
  pass : Nat := 1
  cutStart : Nat := 0
  cutEnd : Nat := 0
  /-- length in mm, area in mm² -/
  len : Rat := 0
  area : Rat := 0
  startLat : Int := 0
  startLon : Int := 0
  endLat : Int := 0
  endLon : Int := 0
  /-- heading in 0.01° and FIX code at CutEnd (09 R214, R217) -/
  heading : Nat := 0
  fix : Nat := 0
  /-- ParcelFlags without LEAD_STATE (02 Table 02-8) -/
  flags : Nat := 1
  /-- main track: 0–7, 9 for path T, 0xFF finished -/
  main : Nat := 0
  pos : Int := 0
  /-- residue track: 0 not started, 1 in S8, 2 left S8 -/
  residue : Nat := 0
  resPos : Int := 0
  visits : List Visit := []
  attr : Attr := {}
  /-- FeedRateS1 in 0.01 kg/s, provisional until final -/
  feed : Rat := 0
  feedFinal : Bool := false
  header : Option Rat := none
  tailUnresolved : Rat := 0
  /-- tailings shares of its sub-parcels that have been freed (Table 02-7) -/
  tailPast : Rat := 0
  lossTaken : Bool := false
  massTaken : Bool := false
  /-- an addendum waits: a sub-parcel has left S8 since the loss report was released (R55); addenda taken by the Gallery -/
  addendum : Bool := false
  addenda : Nat := 0
  leadState : Nat := 0
  leadRef : Nat := 0xFFFF
  probeRef : Nat := 0
  merged10 : Bool := false
  deriving DecidableEq, Repr

/-- One station (02 R39, R46, R56–R58). -/
structure Station where
  /-- TravelCounter, Q16.16, and the travel of its counted edges alone -/
  travel : Int := 0
  edge : Int := 0
  /-- travel of this frame -/
  step : Int := 0
  /-- ShaftSpeed, Q16.16 per second -/
  speed : Int := 0
  stopped : Bool := false
  reversing : Bool := false
  /-- TransitHi and KernelStep have been set themselves (R40) -/
  hiSet : Bool := false
  stepSet : Bool := false
  /-- trim in Q15 of the calibrated transit (R68) -/
  trim : Int := 0
  deriving DecidableEq, Repr

/-- The kernel weights of one frame (02 R55, 04 R103): frame start, and for S3, S4, S1 at FeedMeasurePos and S6 the entries
(number, pass) with their weight; the healthy and total channel weight of S3 and S4, and whether a healthy channel serves them. -/
structure Taps where
  start : Nat
  s3 : List (Nat × Nat × Int)
  s4 : List (Nat × Nat × Int)
  s6 : List (Nat × Nat × Int)
  s1 : List (Nat × Nat × Int)
  healthy3 : Nat
  total3 : Nat
  healthy4 : Nat
  total4 : Nat
  any3 : Bool
  any4 : Bool
  deriving DecidableEq, Repr

/-- A scheduled event (02 Table 02-10). -/
structure Event where
  id : Nat
  parcel : Nat
  station : Nat
  anchor : Nat
  late : Nat
  function : Nat
  advance : Nat
  value : Int
  action : Nat
  source : Nat
  tag : Nat
  /-- machine time of the insertion (01 R22) -/
  stamp : Nat := 0
  deriving DecidableEq, Repr

/-- A transit calibration run (02 Table 02-14). -/
structure CalRun where
  state : Nat := 0
  station : Nat := 3
  parcels : Nat := 0
  transit : Nat := 0
  step : Nat := 0
  kernel : List Int := List.replicate 16 0
  quality : Int := 0
  /-- sum and sum of squares of FeedRateS1 over the parcels used (R67) -/
  sum : Rat := 0
  sumSq : Rat := 0
  deriving DecidableEq, Repr

/-- The Passage (02 R32–R69). -/
structure Pas where
  headerInWork : Bool := false
  /-- slice accumulator and travel deficit, Q16.16 mm -/
  acc : Int := 0
  deficit : Int := 0
  /-- length of the slice in progress, mm -/
  sliceLen : Nat := 250
  sliceStart : Nat := 0
  sliceLat : Int := 0
  sliceLon : Int := 0
  /-- area of the slice in progress, mm²; the sections' width of this frame, mm (R36) -/
  sliceArea : Rat := 0
  sectionWidth : Nat := 0
  /-- part of the slice in progress was cut in holdover or from the ground shaft, and from the ground shaft (R35) -/
  sliceUncertain : Bool := false
  sliceWheel : Bool := false
  /-- header load of the slice in progress: sum and number of frames -/
  headSum : Rat := 0
  headN : Nat := 0
  nextParcel : Nat := 0
  nextParcelNor : Nat := 0
  ring : List Parcel := []
  /-- parcel numbers lost to the last passage resets: first and one past last -/
  lost : List (Nat × Nat) := []
  stations : List Station := List.replicate 10 {}
  taps : List Taps := []
  /-- middle of the slice by S0 travel in mm, and header load, of the last 100 parcels cut, newest first (03 R73) -/
  heads : List (Rat × Option Rat) := []
  /-- final FeedRateS1 of the last 20 parcels, newest first -/
  finals : List Rat := []
  unattSep : Rat := 0
  unattShoe : Rat := 0
  unattMass : Rat := 0
  deriving DecidableEq, Repr

/-- The Passage's events, resets, ground source and calibration (02 R58–R69). -/
structure PasCtl where
  events : List Event := []
  nextEvent : Nat := 1
  /-- events released by ADVANCE whose crossing is still to come, with the predicted time (R62) -/
  watch : List (Event × Nat) := []
  /-- probe steps of `events` that are due and wait for the slot's feed-forward to reach 0 (03 R88): whether their crossing had passed when
  they fell due, and the time of it, passed or predicted -/
  probeWait : List (Event × Bool × Nat) := []
  /-- probe blocks: function, identifier, first and last parcel (07 R181) -/
  probes : List (Nat × Nat × Nat × Option Nat) := []
  /-- identifiers of released events (R65) -/
  released : List Nat := []
  discarded : Nat := 0
  resetActive : Bool := false
  /-- frame number at the request of the reset, and the session that requested it -/
  resetFrame : Nat := 0
  resetSess : Option Nat := none
  resetCount : Nat := 0
  /-- S0's ground source: 0 none, 1 Skylight, 2 GroundShaft, 3 carried Skylight speed, 4 the shaft input that 0x3800.01 names (R39) -/
  ground : Nat := 0
  groundLost : Bool := false
  carriedSpeed : Int := 0
  groundRem : Int := 0
  /-- S0 travel of the frames of the last 100 ms, newest first (Table 02-2) -/
  speedLog : List Int := []
  /-- wheel learning: closed segments of travel (Q16.16 mm) and edges, newest first; the open one; travel accrued (R58) -/
  wheelSegs : List (Int × Nat) := []
  wheelOpen : Int × Nat := (0, 0)
  wheelTravel : Int := 0
  wheelScale : Nat := 0
  cal : CalRun := {}
  /-- parcels cut since the last trim -/
  trimCount : Nat := 0
  merging : Bool := false
  deriving DecidableEq, Repr

/-- One Lead (03 R72, Table 03-5). -/
structure Lead where
  index : Nat
  parcel : Nat
  /-- 1 placed, 3 went, 4 died; acting is read from `started` -/
  state : Nat := 1
  pred : Rat := 0
  /-- map yield of its footprint, kg/m² -/
  y : Rat := 0
  measured : Nat := 0xFFFF
  conf : Rat := 0
  lat : Int := 0
  lon : Int := 0
  reason : Nat := 0
  /-- frozen offsets before the clamps of R77, by slot, and those last computed -/
  delta : List Rat := List.replicate 8 0
  /-- LeadAdvance of the slots as the prediction froze (R75) -/
  adv : List Nat := []
  /-- slots that have started acting (bit j) -/
  started : Nat := 0
  frozen : Bool := false
  noMap : Bool := false
  holdover : Bool := false
  deriving DecidableEq, Repr

/-- The Lead ring and what the Passage publishes (03 R72–R92). -/
structure Leads where
  ring : List Lead := []
  /-- published feed-forward of each slot, Q16.16 of the set-point unit (R78) -/
  published : List Int := List.replicate 8 0
  /-- frame start of the publication (01 R22) -/
  pubStamp : Nat := 0
  /-- parcel of the acting Lead of each slot -/
  acting : List (Option Nat) := List.replicate 8 none
  /-- wider envelope kept after a narrowing (R79), set-point units -/
  wide : List Int := List.replicate 8 0
  suspended : Bool := false
  /-- parcels cut since the suspension -/
  sinceSuspend : Nat := 0
  deaths : Nat := 0
  went : Nat := 0
  died : Nat := 0
  byReason : List Nat := List.replicate 11 0
  /-- went and died in the present 10 s period -/
  periodWent : Nat := 0
  periodDied : Nat := 0
  short : Bool := false
  placing : Bool := false
  reach : Nat := 0
  /-- a Gallery hand-over takes the next application frame: no strip comes and no Lead is placed (R90) -/
  pause : Bool := false
  /-- FeedRatio in 0.01 once learned, its samples (newest first) and the map values of parcels not yet final: parcel, y, c -/
  feedRatio : Nat := 220
  ratios : List Rat := []
  mapped : List (Nat × Rat × Rat) := []
  /-- parcels not yet cut whose Lead has died, with its ring index -/
  ahead : List (Nat × Nat) := []
  deriving DecidableEq, Repr

/-! ## The loop engine (chapters 05 and 06) -/

/-- The compensation of one context (06 R156–R164). -/
structure Comp where
  /-- RepMemory, 512 cells -/
  mem : List Int := List.replicate 512 0
  /-- cell of the last run; error sum and runs spent in it; runs since the enable -/
  k : Nat := 0
  eSum : Int := 0
  runs : Nat := 0
  total : Nat := 0
  held : Bool := false
  /-- RepCommand 0x01 or 0x04 written, to act at the next run -/
  clear : Bool := false
  save : Bool := false
  /-- a save is being written; the copy in user calibration -/
  saving : Bool := false
  saved : Option (List Int) := none
  loaded : Bool := false
  /-- SOURCE_INVALID stays set until the source's first index edge (R162) -/
  waitIndex : Bool := false
  overspeed : Bool := false
  reverse : Bool := false
  srcInvalid : Bool := false
  limited : Bool := false
  posInvalid : Bool := false
  clamped : Bool := false
  frozen : Bool := false
  learning : Bool := false
  /-- table position of the previous run -/
  xPrev : Option Int := none
  /-- c_rep, c_fric, c_cog of the last run -/
  terms : List Int := [0, 0, 0]
  learnCount : Nat := 0
  deriving DecidableEq, Repr

/-- The mapping of a context's output to its destinations, taken at its last run (05 R122, R130). -/
structure OutMap where
  fs : Int := 3500
  thr : Int := 16384
  hyst : Int := 1638
  deriving DecidableEq, Repr

/-- A context's output as latched in the last agreeing frame (05 R145). -/
structure OutLast where
  u : Int := 0
  posOn : Bool := false
  negOn : Bool := false
  deriving DecidableEq, Repr

/-- One loop context (05 R121–R148). Accumulator values have 31 fraction bits (R126). -/
structure LCtx where
  enabled : Bool := false
  lane : Nat := 0xFF
  phase : Nat := 0
  cost : Nat := 0
  result : Nat := 0
  active : Nat := 0
  swap : Bool := false
  /-- mode of its function that the context has taken over -/
  mode : Nat := 1
  /-- its input-fault action 0x00 or 0x02 acts -/
  faultAct : Bool := false
  i : Int := 0
  d : Int := 0
  u : Int := 0
  y : Int := 0
  v : Int := 0
  /-- w, y, e, p, i, d, v, u of the last run as Q15, f, and its machine time -/
  mon : List Int := List.replicate 8 0
  f : Int := 0
  ranAt : Nat := 0
  /-- raw measurement of the last run -/
  raw : Int := 0
  swapSat : Bool := false
  handLim : Bool := false
  headroom : Bool := false
  intLim : Bool := false
  outLim : Bool := false
  slewLim : Bool := false
  inFault : Bool := false
  tracking : Bool := false
  mismatch : Bool := false
  satCount : Nat := 0
  /-- MonotonicNs of the last accumulator saturation -/
  satAt : Option Nat := none
  swapCount : Nat := 0
  /-- on/off command of OutputDest and OutputDestNeg (R130) -/
  posOn : Bool := false
  negOn : Bool := false
  map : OutMap := {}
  last : OutLast := {}
  comp : Comp := {}
  deriving DecidableEq, Repr

/-- One function (05 R134–R152). -/
structure Fn where
  mode : Nat := 1
  /-- a written mode, taking effect at the next frame start -/
  next : Option Nat := none
  /-- an abort to be applied at the next frame start (R146) -/
  abort : Bool := false
  /-- committed set-point -/
  c : Int := 0
  manual : Int := 0
  /-- W, L after its clamp, and the two ramps at full precision -/
  w : Int := 0
  lv : Int := 0
  rampW : Rat := 0
  rampC : Rat := 0
  limited : Bool := false
  spFault : Bool := false
  safe : Bool := false
  /-- the outputs stand at the safe command until a new ManualCommand or mode; the safe state in force is `off` (R145) -/
  atSafe : Bool := false
  safeOff : Bool := false
  /-- Hold has become Manual, so nothing moves until a new ManualCommand (R142) -/
  still : Bool := false
  forced : Bool := false
  engineFault : Bool := false
  mismatches : Nat := 0
  /-- consecutive frames in which its contexts agreed since the force -/
  agreed : Nat := 0
  deriving DecidableEq, Repr

/-- Outputs latched by the loop engine (05 R130, Table 05-2) and the PV currents it reads. -/
structure Latch where
  pv : List Nat := List.replicate 16 0
  sv : List Bool := List.replicate 16 false
  fo : List Bool := List.replicate 48 false
  imeas : List Nat := List.replicate 16 0
  /-- frame start of the latch (01 R22) -/
  stamp : Nat := 0
  deriving DecidableEq, Repr

/-- The loop engine. -/
structure LoopSt where
  ctx : List LCtx := List.replicate 128 {}
  fn : List Fn := List.replicate 48 {}
  lat : Latch := {}
  /-- machine time and frame number of the last mismatches, newest first (R149) -/
  mismatches : List (Nat × Nat) := []
  engineFault : Bool := false
  /-- machine time of the last heartbeats to Column-B: of the engines that give one each frame, and of the Gallery (01 R22) -/
  beat : Nat := 0
  galBeat : Nat := 0
  deriving DecidableEq, Repr

/-- The trace unit (06 R165–R171). -/
structure Trace where
  state : Nat := 0
  owner : Nat := 0xFF
  /-- first frame after arming -/
  armFrame : Nat := 0
  /-- samples taken since arming -/
  taken : Nat := 0
  /-- samples of the eight channels, oldest first -/
  bufs : List (List Int) := List.replicate 8 []
  trigIndex : Nat := 0
  firstTime : Nat := 0
  firstFrame : Nat := 0
  trigTime : Nat := 0
  /-- machine times of the samples kept, oldest first -/
  times : List Nat := []
  /-- command 0x02 or a condition of Table 06-6 waits for the next sample -/
  force : Bool := false
  cond : Bool := false
  /-- watched status bit, function mode or SEQ at the last look -/
  last : Nat := 0
  /-- last sample of the watched channel -/
  prev : Option Int := none
  /-- NODE_ABSENT, SAMPLE_SATURATED, SPECULATIVE of each channel, as bits 0–2 -/
  marks : List Nat := List.replicate 8 0
  deriving DecidableEq, Repr

/-! ## The harvest optimiser (chapter 07) -/

/-- A parcel's reports as the Gallery holds them for a cycle (07 R173, R182). Masses and areas stand as the objects of 0x3880 read. -/
structure OptRep where
  num : Nat
  flags : Nat
  leadState : Nat
  feed : Int
  sep : Int
  shoe : Int
  tail : Int
  area : Int
  /-- measured shares of separator, shoe, tailings, mass, feed, moisture (04 R118) -/
  share : List Rat
  period : Nat
  /-- LOSS_FINAL and no sub-parcel outstanding -/
  final : Bool
  deriving DecidableEq, Repr

/-- A judged parcel: its report and its damage samples, sum and number (07 R176, R182). -/
structure OptJudged where
  rep : OptRep
  dmgSum : Nat
  dmgN : Nat
  deriving DecidableEq, Repr

/-- A probe block (07 R180–R182). -/
structure PBlk where
  id : Nat
  up : Bool
  value : Int
  first : Nat
  last : Nat
  /-- identifiers of its begin and end event, once accepted -/
  beginEv : Option Nat := none
  endEv : Option Nat := none
  /-- MonotonicNs of the release of the end event -/
  ended : Option Nat := none
  /-- the begin event was released late (R182) -/
  late : Bool := false
  /-- arrival error of the begin event, ns -/
  err : Int := 0
  judged : Option (List OptJudged) := none
  deriving DecidableEq, Repr

/-- A running cycle (07 R179–R181); cfg holds 0x3A00.0C–.12 as taken at its start. -/
structure OptCycle where
  slot : Nat
  fn : Nat
  c0 : Int
  vUp : Int
  vDown : Int
  station : Nat
  advance : Nat
  cfg : List Nat
  blocks : List PBlk := []
  /-- a source other than the optimiser has written C (R187) -/
  foreign : Bool := false
  deriving DecidableEq, Repr

/-- One optimiser slot's results and suggestion (07 Table 07-3). -/
structure OSlot where
  gradient : Int := 0
  t : Nat := 0
  result : Nat := 0xFF
  moved : Bool := false
  significant : Bool := false
  suggestion : Int := 0
  sugState : Nat := 0
  sugTag : Nat := 0
  /-- SuggestionCommand 0x01 waits for the next application frame -/
  accepted : Bool := false
  /-- MonotonicNs at which the suggestion was made (R185) -/
  sugAt : Nat := 0
  held : Bool := false
  /-- MonotonicNs of the last change by another authority (R186) -/
  heldAt : Nat := 0
  /-- event of the last cycle's move, accepted and not yet released (LAST_MOVED) -/
  moveEv : Option Nat := none
  deriving DecidableEq, Repr

/-- A move to be inserted (07 R184). -/
structure OMove where
  slot : Nat
  fn : Nat
  c0 : Int
  c1 : Int
  source : Nat
  tag : Nat
  deriving DecidableEq, Repr

/-- The optimiser. -/
structure Opt where
  cycle : Option OptCycle := none
  /-- the first happening of Table 07-5 found since the last application frame -/
  void : Option Nat := none
  lastSlot : Nat := 7
  cycleId : Nat := 0
  probeId : Nat := 0
  /-- MonotonicNs of the last cycle start -/
  startedAt : Option Nat := none
  /-- parcel number from which settling counts -/
  settleAt : Nat := 0
  slots : List OSlot := List.replicate 8 {}
  moves : List OMove := []
  reps : List OptRep := []
  /-- crossings of S6 by main-track centres: machine time, parcel, newest first (R176) -/
  s6 : List (Nat × Nat) := []
  /-- damage samples: parcel, sum, number -/
  damage : List (Nat × Nat × Nat) := []
  /-- the same of the material other than grain, and SEQ of the last accepted record (Table 07-2) -/
  foreign : List (Nat × Nat × Nat) := []
  hubSeq : Nat := 0
  stale : Bool := true
  /-- MonotonicNs of the last accepted damage record -/
  damageAt : Nat := 0
  rejected : Nat := 0
  done : Nat := 0
  voids : Nat := 0
  lastBlocks : Bytes := []
  deriving DecidableEq, Repr
/-! ## Steering (chapter 08) -/

/-- A cart's report (09 Table 09-6). -/
structure CartPose where
  stamp : Nat
  lat : Int
  lon : Int
  speed : Int
  heading : Nat
  fix : Nat
  deriving DecidableEq, Repr

/-- The grain cart (08 R206, R207). -/
structure Cart where
  report : Option CartPose := none
  relForward : Int := 0
  relLateral : Int := 0
  relSpeed : Int := 0
  age : Nat := 0
  stale : Bool := false
  lowAccuracy : Bool := false
  /-- spout angle of the last computation, 0.01° -/
  angle : Int := 0
  deriving DecidableEq, Repr

/-- One segment of a guidance path (08 R199, R205): its start (1e-7 degree), heading (degrees), length (mm) and curvature (1/mm, positive to the
right). Of a curve it is a chord with the curvature of the curve there, in a turn an arc. -/
structure Seg where
  lat : Int
  lon : Int
  heading : Rat
  len : Rat
  kappa : Rat
  arc : Bool
  /-- the pass it belongs to, none in a turn -/
  pass : Option Int
  deriving DecidableEq, Repr

/-- The pose of the steering stage (08 R197, R203): the antenna point, the heading in degrees, and the S0 travel and MonotonicNs it stands for. -/
structure StagePose where
  lat : Int := 0
  lon : Int := 0
  heading : Rat := 0
  travel : Int := 0
  mono : Nat := 0
  deriving DecidableEq, Repr

/-- Lines, passes and headland turns (08 R199, R205). -/
structure Guide where
  activePass : Int := 0
  /-- curve points being recorded, and S0 travel at the last of them -/
  record : Option (List (Int × Int) × Int) := none
  turn : Nat := 0
  turnTarget : Int := 0
  /-- side of the last turn: 1 left, 2 right -/
  turnSide : Nat := 2
  turnsDone : Nat := 0
  boundary : Option Nat := none
  /-- the machine runs the passes against the direction of their base line -/
  reversed : Bool := false
  /-- the guidance window (R199) -/
  window : List Seg := []
  /-- path of the turn in progress, without the target pass -/
  turnPath : List Seg := []
  /-- MonotonicNs since which the target pass has held the limits of R205 -/
  heldAt : Option Nat := none
  deriving DecidableEq, Repr

/-- The steering stage and Column-A's steering enable (08 R191–R205). Angles in 0.01°. -/
structure Steer where
  engaged : Bool := false
  /-- steering enable granted by Column-A -/
  enable : Bool := false
  /-- ActiveMode; 0 none -/
  mode : Nat := 0
  /-- requested mode of a running transfer; 0 none -/
  goal : Nat := 0
  alpha : Rat := 0
  dOld : Rat := 0
  c : Rat := 0
  /-- integrators of the modes 1, 2, 3 -/
  integ : List Rat := [0, 0, 0]
  reason : Nat := 0
  result : Nat := 0
  ex : Rat := 0
  epsi : Rat := 0
  /-- the last ten ex values of modes 2 and 3 with S0 travel, newest first -/
  edgeEx : List (Rat × Int) := []
  rowEx : List (Rat × Int) := []
  pose : StagePose := {}
  edgeOffset : Int := 0
  edgeQuality : Nat := 0
  edgeCounter : Option Nat := none
  edgeValid : Bool := false
  /-- MonotonicNs of the last edge frame of good quality (R198) -/
  edgeAt : Nat := 0
  /-- withdrawal conditions that Column-A has found and that still hold, as Table 08-3 codes (03–07) -/
  conds : List Nat := []
  takeoverCount : Nat := 0
  /-- engagement is refused for 1 s after a takeover -/
  takeoverBar : Bool := false
  /-- MonotonicNs of the last takeover; its condition has been acted on -/
  takeoverAt : Nat := 0
  takeoverMet : Bool := false
  /-- conditions of Column-A, as Table 08-3 codes, with the MonotonicNs since which each has lasted -/
  lasting : List (Nat × Nat) := []
  /-- greatest S0 travel since engagement (Table 08-3, 0x07) -/
  farthest : Int := 0
  /-- MonotonicNs and S0 travel at which coasting began -/
  coast : Option (Nat × Int) := none
  lowSpeed : Bool := false
  fromCourse : Bool := false
  uncompensated : Bool := false
  rowSingle : Bool := false
  guide : Guide := {}
  cart : Cart := {}
  deriving DecidableEq, Repr
/-! ## Yield maps and the fleet link (chapter 09) -/

/-- What one cell has accumulated (09 R214): area mm², wet and dry mass g, moisture mass, flags. -/
structure CellAcc where
  area : Rat := 0
  wet : Rat := 0
  dry : Rat := 0
  moistSum : Rat := 0
  moistMass : Rat := 0
  flags : Nat := 0
  deriving DecidableEq, Repr

/-- A tile of the open field (09 R213, R215): its column, row, and the cells written, by cell index. -/
structure MapTile where
  e : Int
  n : Int
  cells : List (Nat × CellAcc) := []
  gen : Nat := 0
  updated : Nat := 0
  /-- changed since the last publication, and MonotonicNs of that -/
  dirty : Bool := false
  sentAt : Option Nat := none
  deriving DecidableEq, Repr

/-- A time-log entry of the active task (09 R217). -/
structure LogEntry where
  parcel : Nat
  stamp : Nat
  lat : Int
  lon : Int
  yield : Option Rat
  moisture : Option Nat
  width : Nat
  total : Rat
  status : Nat
  deriving DecidableEq, Repr

/-- One value of the map strip (09 R216): the footprint, y in kg/m² and c from 0 to 1. -/
structure StripVal where
  parcel : Nat
  y : Rat
  c : Rat
  lat : Int
  lon : Int
  deriving DecidableEq, Repr

/-- Yield mapping (09 R209–R217). -/
structure Yield where
  field : Option Nat := none
  /-- the field is held by a task -/
  task : Bool := false
  originSet : Bool := false
  originLat : Int := 0
  originLon : Int := 0
  /-- fields opened without a task so far -/
  opened : Nat := 0
  crop : Nat := 0
  wet : Rat := 0
  dry : Rat := 0
  area : Rat := 0
  missing : Nat := 0
  tiles : List MapTile := []
  /-- prior tiles as stored (R216) -/
  prior : List Bytes := []
  /-- prior tiles of the open field, loaded when it opened (R216) -/
  loaded : List Bytes := []
  /-- parcel and moisture of the last parcel with valid moisture (R211) -/
  lastMoist : Option (Nat × Rat) := none
  log : List LogEntry := []
  /-- a task has ended and its documentation has not been published (R217) -/
  docDue : Bool := false
  loadState : Nat := 0
  loadMass : Rat := 0
  proposed : Nat := 0
  /-- MonotonicNs of the entry to emptying -/
  emptyAt : Nat := 0
  deriving DecidableEq, Repr

/-- A message of the fleet-link queue: topic number in Table 09-4's order, tile, bytes. -/
structure FleetMsg where
  topic : Nat
  tile : Option (Int × Int)
  data : Bytes
  deriving DecidableEq, Repr

/-- The fleet link (09 R218–R221). -/
structure Fleet where
  link : Nat := 0
  /-- retry wait in s -/
  wait : Nat := 1
  /-- QoS 1 messages not acknowledged, oldest first -/
  queue : List FleetMsg := []
  dropped : Nat := 0
  rejected : Nat := 0
  /-- next SEQ of each topic (R219) -/
  seqs : List Nat := List.replicate 8 0
  /-- parcel records waiting for the next batch -/
  batch : List Bytes := []
  /-- topic string and message last sent on each topic -/
  last : List (Bytes × Bytes) := List.replicate 8 ([], [])
  /-- values of 0x3E20.02–.07 in force since the last connection -/
  cfg : List Val := []
  /-- object sets published last, and MonotonicNs of that: state, optimiser -/
  sets : List Bytes := [[], []]
  setAt : List (Option Nat) := [none, none]
  deriving DecidableEq, Repr
/-! ## Valve and solenoid drive (chapter 10) -/

/-- One valve channel: PV1–PV16 are 0–15, SV1–SV16 are 16–31. -/
structure VCh where
  /-- command last latched by the TE: mA, or 1 for on -/
  cmd : Nat := 0
  /-- TestCommand in force (R247), and the session that wrote it -/
  test : Option (Nat × Nat) := none
  /-- command the guard imposes (R245) -/
  guardCmd : Option Nat := none
  /-- the channel has resumed since its bank's last grant (R226) -/
  live : Bool := false
  duty : Rat := 0
  acc : Rat := 0
  imeas : Nat := 0
  target : Nat := 0
  /-- consecutive periods at full duty below target, and periods without a cause of HEADROOM -/
  lowRun : Nat := 0
  okRun : Nat := 0
  clipped : Bool := false
  headroom : Bool := false
  trip : Bool := false
  /-- MonotonicNs of the trips within 10 s, newest first -/
  trips : List Nat := []
  tripCount : Nat := 0
  latched : Bool := false
  uncommanded : Bool := false
  overtemp : Bool := false
  shorted : Bool := false
  openLoad : Bool := false
  /-- STUCK or NOT_MOVED -/
  stuck : Bool := false
  thermal : Bool := false
  distorted : Bool := false
  rejected : Bool := false
  phase : Nat := 0
  /-- machine time at which the phase, the profile and the boost began -/
  phaseAt : Nat := 0
  startAt : Nat := 0
  band : Nat := 1
  /-- PEAK_CURRENT, HOLD_CURRENT, PEAK_TIME, BOOST_TIME_MAX of the running profile -/
  prof : List Nat := []
  /-- the hold target is cut for the rest of the profile (R236); the first distortion has been recorded (R237) -/
  cut : Bool := false
  noted : Bool := false
  moveTime : Nat := 0xFFFF
  boostTime : Nat := 0
  boostDelay : Nat := 0
  coilTemp : Int := 0
  coilRes : Nat := 0
  mA : Nat := 0
  /-- mean currents of the last 20 regulation periods, newest first -/
  hist : List Nat := []
  /-- CoilTemp from which it relaxes, and MonotonicNs since when (R240) -/
  tempFrom : Int := 0
  tempAt : Nat := 0
  /-- BoardTemp toward which it relaxes -/
  tempBoard : Int := 0
  /-- machine time of the latest rising edge in Pulse mode (R233) -/
  edgeAt : Nat := 0
  /-- rejected: no profile until the command has gone off (R238) -/
  blocked : Bool := false
  /-- an SV mean current below target in the last checked window (R237) -/
  lowMean : Bool := false
  /-- MonotonicNs from which a cleared channel follows its command (R244) -/
  resumeAt : Nat := 0
  /-- the off-state test passed last time (Table 10-7) -/
  offOk : Bool := false
  deriving DecidableEq, Repr

/-- One bank, in the order of Table 10-1. -/
structure VBank where
  enable : Bool := false
  latched : Bool := false
  hsTrip : Bool := false
  trips : List Nat := []
  /-- channel slot to come in a running resume (R226) -/
  resume : Option Nat := none
  guard : Bool := false
  /-- consecutive latches since the guard began -/
  latches : Nat := 0
  guardCount : Nat := 0
  /-- MonotonicNs at which the guard timer reaches GuardTimeout; none while it stands still (R245) -/
  guardDue : Option Nat := none
  rejects : Nat := 0
  distortions : Nat := 0
  boardTemp : Int := 0
  deriving DecidableEq, Repr

/-- A drive supply (10 R225): 0 VBA, 1 VBB, 2 the boost rail. -/
structure VSup where
  present : Bool := false
  low : Bool := true
  overV : Bool := false
  /-- it has been present since Start -/
  seen : Bool := false
  mV : Nat := 0
  minMv : Nat := 0xFFFF
  offCount : Nat := 0
  /-- MonotonicNs and lowest voltage of the running absence -/
  offAt : Nat := 0
  offMin : Nat := 0
  /-- MonotonicNs of the last report that set a condition -/
  condAt : Nat := 0
  fault : Bool := false
  /-- the rail read below 40.0 V at the last profile start (R238) -/
  below : Bool := false
  deriving DecidableEq, Repr

/-- The valve stages. -/
structure Valve where
  ch : List VCh := List.replicate 32 {}
  bank : List VBank := List.replicate 6 {}
  sup : List VSup := List.replicate 3 {}
  /-- the last frame latched: its commands act from this frame's start, 100 µs later (R123, R245) -/
  fresh : Bool := false
  deriving DecidableEq, Repr
/-! ## Field input and output (chapter 11) -/

/-- A field pin (11 R253–R267). -/
structure FPin where
  /-- filtered input level -/
  level : Bool := false
  stamp : Nat := 0
  /-- command in force, and the one latched at 80 µs of this frame, in force from its end (R258) -/
  cmd : Bool := false
  next : Bool := false
  /-- command the guard imposes (R268) -/
  guardCmd : Option Bool := none
  /-- its restore slot has come -/
  slotted : Bool := false
  trip : Bool := false
  /-- MonotonicNs at which the running off time ends -/
  tripEnd : Nat := 0
  trips : List Nat := []
  tripCount : Nat := 0
  latched : Bool := false
  overtemp : Bool := false
  noLoad : Bool := false
  extDrive : Bool := false
  joined : Bool := false
  joinedWith : Nat := 0xFF
  mV : Nat := 0
  mA : Nat := 0
  deriving DecidableEq, Repr

/-- A field group (11 R259–R268). -/
structure FGrp where
  enable : Bool := false
  low : Bool := false
  missing : Bool := true
  overV : Bool := false
  /-- the group has left the missing condition since Start -/
  seen : Bool := false
  restoring : Bool := false
  /-- pins of the group whose slot has come in the running sequence -/
  slot : Nat := 0
  overload : Bool := false
  overEnd : Nat := 0
  trips : List Nat := []
  latched : Bool := false
  guard : Bool := false
  latches : Nat := 0
  guardCount : Nat := 0
  /-- MonotonicNs at which the guard timer reaches GuardTimeout; none while it stands still (R268) -/
  guardDue : Option Nat := none
  /-- the supply has been low since before the first departure from missing (R260) -/
  lowFirst : Bool := false
  missingCount : Nat := 0
  mV : Nat := 0
  minMv : Nat := 0xFFFF
  mA : Nat := 0
  /-- MonotonicNs of leaving the missing condition (R256), and of entry to low, missing and overvoltage with the extreme voltage -/
  leftAt : Nat := 0
  /-- the last condition reported was overvoltage, at this MonotonicNs -/
  lastHigh : Bool := false
  condAt : Nat := 0
  lowAt : Nat := 0
  lowMin : Nat := 0
  missAt : Nat := 0
  missMin : Nat := 0
  overAt : Nat := 0
  overMax : Nat := 0
  deriving DecidableEq, Repr

/-- The field I/O stage. -/
structure Fio where
  pins : List FPin := List.replicate 48 {}
  grp : List FGrp := List.replicate 4 {}
  /-- output pairs under watch: m, n, consecutive followed, consecutive missed (R267) -/
  pairs : List (Nat × Nat × Nat × Nat) := []
  deriving DecidableEq, Repr
/-! ## CAN (chapter 14) -/

/-- One transmit object (14 R319–R323). -/
structure CanObj where
  pending : Option CanFrame := none
  result : Nat := 0x0A
  oneShot : Bool := false
  /-- a cancel arrived after the decision point (R322) -/
  cancel : Bool := false
  conflicts : Nat := 0
  suspended : Bool := false
  /-- dictionary session that the object serves (objects 40–47) -/
  owner : Option Nat := none
  deriving DecidableEq, Repr

/-- One CAN channel (14 Table 14-9). -/
structure CanCh where
  /-- ChannelState: 0 off, 1 integrating, 2 error active, 3 error passive, 4 bus-off, 5 sleep -/
  state : Nat := 0
  tec : Nat := 0
  rec_ : Nat := 0
  txdTimeout : Bool := false
  tdcFault : Bool := false
  protoExc : Bool := false
  idConflict : Bool := false
  /-- MonotonicNs of the last overflow -/
  overAt : Option Nat := none
  busOffCount : Nat := 0
  overflow : List Nat := [0, 0]
  conflictCount : Nat := 0
  tdc : Nat := 0
  objs : List CanObj := List.replicate 64 {}
  /-- received frames with their stamps, oldest first -/
  fifo0 : List (CanFrame × Nat) := []
  fifo1 : List (CanFrame × Nat) := []
  load : Nat := 0
  errorFrames : Nat := 0
  deriving DecidableEq, Repr

/-- A control function (14 R329, R330). -/
structure CanCf where
  claimed : Nat := 0xFF
  /-- MonotonicNs at which a new claim has held for 250 ms -/
  holdAt : Option Nat := none
  deriving DecidableEq, Repr

/-- A working set of the VT server (17 R393): its address, the bytes it announced, the object pool as transferred, whether the pool is in use,
and what its transfer ran into. -/
structure VtSet where
  addr : Nat
  need : Nat := 0
  pool : List Bytes := []
  active : Bool := false
  bad : Option Nat := none
  deriving DecidableEq, Repr

/-- A message to the VT server in transport (14 Table 14-7): sender, length, bytes so far, extended transport. -/
structure VtTp where
  src : Nat
  total : Nat
  got : Bytes
  ext : Bool
  deriving DecidableEq, Repr

/-- The VT server (17 R393): working sets, stored versions by sender and label, transports, answers waiting. -/
structure Vt where
  sets : List VtSet := []
  stored : List (Nat × Bytes × List Bytes) := []
  tp : List VtTp := []
  out : List CanFrame := []
  deriving DecidableEq, Repr

/-- The bus engine: channels, time master, control functions and wake counts. -/
structure Can where
  ch : List CanCh := List.replicate 8 {}
  cf : List CanCf := List.replicate 4 {}
  cycle : Nat := 0
  refSent : Nat := 0
  refSkipped : Nat := 0
  lastRef : Nat := 0
  refSuspended : Bool := false
  lastSkipped : Bool := false
  /-- the reference message sent last -/
  refMsg : Bytes := []
  /-- WakeCount and LastWake of C1 and C8; never reset -/
  wakes : List (Nat × Nat) := [(0, 0), (0, 0)]
  vt : Vt := {}
  deriving DecidableEq, Repr
/-! ## Lantern (chapter 17) -/

/-- Settings that R375 loads in a blanking. -/
structure LanCfg where
  inversion : Nat := 4
  overdrive : Bool := true
  bands : List Int := [0, 15, 35]
  faultBand : Nat := 2
  gamma : Bytes := []
  vcom : Nat := 4000
  driver : Bytes := []
  black : Nat := 0
  blackFrames : Nat := 2
  discharge : Nat := 20
  backDelay : Nat := 100
  od : List Bytes := []
  /-- GcMode, GcRise, GcFall, GcOffset, GcPeriod, GcHighLines, GcDischarge of the eight lines -/
  gates : List (List Nat) := []
  deriving DecidableEq, Repr

/-- Timing and link, as of the last power-up (R392). -/
structure LanTime where
  width : Nat := 1920
  height : Nat := 1200
  htotal : Nat := 2080
  vtotal : Nat := 1235
  clock : Nat := 154128
  drivers : Nat := 12
  rate : Nat := 4
  deriving DecidableEq, Repr

/-- Column-B's overlay settings, as of the last Start (R392). -/
structure LanOver where
  on : Bool := false
  x : Nat := 0
  y : Nat := 0
  w : Nat := 256
  h : Nat := 64
  bg : Nat := 0
  failFrames : Nat := 3
  glyphs : Bytes := []
  slots : Bytes := []
  /-- conditions of the 16 slots as evaluated in the last blanking (R386) -/
  shown : List Bool := []
  deriving DecidableEq, Repr

/-- The overlay check of Column-B (R387, R388). -/
structure LanCheck where
  fails : Nat := 0
  passes : Nat := 0
  failCount : Nat := 0
  /-- OVERLAY_FAULT, and with it the gate of BLEN -/
  fault : Bool := false
  deriving DecidableEq, Repr

/-- Lantern (R373–R395). -/
structure Lantern where
  /-- PanelState -/
  state : Nat := 0
  cfg : LanCfg := {}
  time : LanTime := {}
  cover : LanOver := {}
  check : LanCheck := {}
  /-- MonotonicNs at which the running step ends: PanelT1, discharge (Table 17-6, R390) -/
  stepEnd : Nat := 0
  /-- running power-down: 1 the frame in progress, 2 the frame in BlackCode, 3 discharge; 0 none -/
  down : Nat := 0
  /-- the panel is to be powered up when the power-down ends -/
  again : Bool := false
  locked : Bool := false
  retraining : Bool := false
  linkFault : Bool := false
  supplyFault : Bool := false
  vcomFault : Bool := false
  /-- mV at VCOMFB -/
  vcomMeas : Nat := 0
  ptempFault : Bool := false
  /-- MonotonicNs of the last supply or link fault (R391) -/
  failAt : Nat := 0
  /-- MonotonicNs of the VPNL faults of the last 60 s -/
  faults : List Nat := []
  /-- the frame in progress lost line packets, and whether it is sent in BlackCode -/
  broken : Bool := false
  blackNow : Bool := false
  blackDone : Nat := 0
  /-- BLEN as Lantern drives it, and when it goes high -/
  blen : Bool := false
  backAt : Option Nat := none
  frameCount : Nat := 0
  frameStamp : Nat := 0
  temp : Int := 0
  band : Option Nat := none
  retrains : Nat := 0
  lost : Nat := 0
  /-- a swap is pending; which of the two buffers is the front one; a first buffer has been swapped in since Start -/
  swap : Bool := false
  front : Bool := false
  swapped : Bool := false
  /-- targets of the previous frame by line (R384) -/
  prev : List (Nat × Bytes) := []
  /-- the last packet sent on each pair: header, payload and CRC (R377) -/
  packets : List Bytes := []
  deriving DecidableEq, Repr

/-! ## Updates (chapter 19) -/

/-- An image as a slot holds it. -/
structure Img where
  version : Nat := 0
  rollback : Nat := 0
  format : Nat := 0
  deriving DecidableEq, Repr

/-- An update region (19 R417, Table 19-7). -/
structure Region where
  /-- RegionState -/
  state : Nat := 0
  /-- RegionState before the running update -/
  before : Nat := 0
  active : Img := {}
  prev : Option Img := none
  staged : Option Img := none
  /-- SETTINGS_MIN of the staged image -/
  stagedMin : Nat := 0
  fuse : Nat := 0
  /-- time left in probation, ns (R427) -/
  left : Nat := 0
  lastId : Nat := 0
  lastResult : Nat := 0
  /-- restarts of its engine during the probation -/
  restarts : Nat := 0
  /-- the fall-back of a staged region waits for the next Start -/
  fall : Bool := false
  deriving DecidableEq, Repr

/-- An accepted offer (19 R420). -/
structure Offer where
  id : Nat
  region : Nat
  header : Bytes
  sig : Bytes
  digest : Bytes
  /-- bytes that the blocks carry -/
  total : Nat
  deriving DecidableEq, Repr

/-- The Antechamber and the update agent (19 R417–R431). A source is a session's number, or 16 for the fleet link. -/
structure Upd where
  offers : List (Nat × Offer) := []
  /-- AntechamberState -/
  state : Nat := 0
  owner : Option Nat := none
  /-- transport and source of the owner, kept while orphaned (R424) -/
  ownTransport : Nat := 0
  ownSource : Nat := 0
  cur : Option Offer := none
  body : Bytes := []
  /-- the last accepted block -/
  last : Option (Nat × Bytes) := none
  committed : Bool := false
  orphanAt : Nat := 0
  count : Nat := 0
  fleetResult : Nat := 0
  fleetId : Nat := 0
  /-- STAMP of the last accepted fleet-link offer -/
  fleetStamp : Nat := 0
  regions : List Region := List.replicate 8 {}
  ladderReason : Nat := 0
  /-- an image being written to a slot in Ladder: session, offer, bytes (R429) -/
  slot : Option (Nat × Offer × Bytes) := none
  deriving DecidableEq, Repr

/-! ## The whole state -/

/-- The state of the module and the queue of the commands that wait. -/
structure State where
  tm : Tm
  pw : Pw
  belay : Belay
  flow : Flow
  serv : Serv
  per : Persist
  net : Net
  sky : Sky
  skyio : SkyIo
  sens : Sense
  pas : Pas
  pctl : PasCtl
  lead : Leads
  /-- writable objects of the dictionary that differ from their default: key = index × 256 + sub-index, keys rising (15 R334) -/
  dict : List (Nat × Val)
  steer : Steer
  opt : Opt
  yield : Yield
  fleet : Fleet
  loop : LoopSt
  trace : Trace
  fio : Fio
  valve : Valve
  can : Can
  lan : Lantern
  upd : Upd
  /-- the model's own counter: every value that a rule leaves open takes the next number of it (log 6) -/
  free : Nat
  /-- commands that wait, first in, first out -/
  pending : List Instr
  deriving DecidableEq, Repr

/-- The module right after power has been applied: Dormant, nothing listed, every register at its reset value (log 3). -/
def State.reset : State where
  tm := {}
  pw := {}
  belay := {}
  flow := {}
  serv := {}
  per := {}
  net := {}
  sky := {}
  skyio := {}
  sens := {}
  pas := {}
  pctl := {}
  lead := {}
  dict := []
  steer := {}
  opt := {}
  yield := {}
  fleet := {}
  loop := {}
  trace := {}
  fio := {}
  valve := {}
  can := {}
  lan := {}
  upd := {}
  free := 0
  pending := []

end Sys2Proof.Machine
end

