-- ==== Sys2Proof/Machine/Ops.lean ====
section
/-! DEFINITION. The named operations that every chapter shares: parts of the state, the dictionary's values, the write check and
its answer (15 R334–R338), and Flowstone's record operation (16 R361–R368). -/

namespace Sys2Proof.Machine

/-- The outcome of a command. -/
abbrev Out := Host.Outcome State Fault Refusal

/-- A command whose operands name a unit the module does not have is refused by name. -/
def withUnit (ok : Bool) (s : State) : Out := if ok then .next s else .refused .noSuchUnit

/-- Update of the `tm` part. -/
def State.updTm (s : State) (f : Tm → Tm) : State := { s with tm := f s.tm }

/-- Update of the `pw` part. -/
def State.updPw (s : State) (f : Pw → Pw) : State := { s with pw := f s.pw }

/-- Update of the `belay` part. -/
def State.updBelay (s : State) (f : Belay → Belay) : State := { s with belay := f s.belay }

/-- Update of the `flow` part. -/
def State.updFlow (s : State) (f : Flow → Flow) : State := { s with flow := f s.flow }

/-- Update of the `serv` part. -/
def State.updServ (s : State) (f : Serv → Serv) : State := { s with serv := f s.serv }

/-- Update of the `per` part. -/
def State.updPer (s : State) (f : Persist → Persist) : State := { s with per := f s.per }

/-- Update of the `net` part. -/
def State.updNet (s : State) (f : Net → Net) : State := { s with net := f s.net }

/-- Update of the `sky` part. -/
def State.updSky (s : State) (f : Sky → Sky) : State := { s with sky := f s.sky }

/-- Update of the `skyio` part. -/
def State.updSkyio (s : State) (f : SkyIo → SkyIo) : State := { s with skyio := f s.skyio }

/-- Update of the `sens` part. -/
def State.updSens (s : State) (f : Sense → Sense) : State := { s with sens := f s.sens }

/-- Update of the `pas` part. -/
def State.updPas (s : State) (f : Pas → Pas) : State := { s with pas := f s.pas }

/-- Update of the `pctl` part. -/
def State.updPctl (s : State) (f : PasCtl → PasCtl) : State := { s with pctl := f s.pctl }

/-- Update of the `lead` part. -/
def State.updLead (s : State) (f : Leads → Leads) : State := { s with lead := f s.lead }

/-- Update of the `dict` part. -/
def State.updDict (s : State) (f : List (Nat × Val) → List (Nat × Val)) : State := { s with dict := f s.dict }

/-- Update of the `steer` part. -/
def State.updSteer (s : State) (f : Steer → Steer) : State := { s with steer := f s.steer }

/-- Update of the `opt` part. -/
def State.updOpt (s : State) (f : Opt → Opt) : State := { s with opt := f s.opt }

/-- Update of the `yield` part. -/
def State.updYield (s : State) (f : Yield → Yield) : State := { s with yield := f s.yield }

/-- Update of the `fleet` part. -/
def State.updFleet (s : State) (f : Fleet → Fleet) : State := { s with fleet := f s.fleet }

/-- Update of the `loop` part. -/
def State.updLoop (s : State) (f : LoopSt → LoopSt) : State := { s with loop := f s.loop }

/-- Update of the `trace` part. -/
def State.updTrace (s : State) (f : Trace → Trace) : State := { s with trace := f s.trace }

/-- Update of the `fio` part. -/
def State.updFio (s : State) (f : Fio → Fio) : State := { s with fio := f s.fio }

/-- Update of the `valve` part. -/
def State.updValve (s : State) (f : Valve → Valve) : State := { s with valve := f s.valve }

/-- Update of the `can` part. -/
def State.updCan (s : State) (f : Can → Can) : State := { s with can := f s.can }

/-- Update of the `lan` part. -/
def State.updLan (s : State) (f : Lantern → Lantern) : State := { s with lan := f s.lan }

/-- Update of the `upd` part. -/
def State.updUpd (s : State) (f : Upd → Upd) : State := { s with upd := f s.upd }

/-! ## The dictionary's values -/

/-- Key of an object: index × 256 + sub-index. -/
def keyOf (i sub : Nat) : Nat := i * 256 + sub

/-- The value an unlisted object reads as: its table's default. -/
def defaultOf (i sub : Nat) : Val :=
  match objRow? i sub with
  | some r => r.default i
  | none => .int 0

/-- Value listed at a key. -/
def dictFind (l : List (Nat × Val)) (k : Nat) : Option Val :=
  match l with
  | [] => none
  | (j, v) :: t => if j = k then some v else if k < j then none else dictFind t k

/-- List the value at a key, keys rising. -/
def dictInsert (l : List (Nat × Val)) (k : Nat) (v : Val) : List (Nat × Val) :=
  match l with
  | [] => [(k, v)]
  | (j, w) :: t => if j = k then (k, v) :: t else if k < j then (k, v) :: (j, w) :: t else (j, w) :: dictInsert t k v

/-- Take a key off the list. -/
def dictErase (l : List (Nat × Val)) (k : Nat) : List (Nat × Val) :=
  match l with
  | [] => []
  | (j, w) :: t => if j = k then t else if k < j then (j, w) :: t else (j, w) :: dictErase t k

/-- The value that an unlisted key reads as. -/
def keyDefault (k : Nat) : Val := defaultOf (k / 256) (k % 256)

/-- The dictionary's canonical form: keys strictly rising, and no value that the unlisted object reads as. -/
def dictWf (l : List (Nat × Val)) : Bool :=
  decide (l.Pairwise fun a b => a.1 < b.1) && l.all fun e => decide (e.2 ≠ keyDefault e.1)

/-- An object's value (15 R334, R335). -/
def State.val (s : State) (i sub : Nat) : Val :=
  match dictFind s.dict (keyOf i sub) with
  | some v => v
  | none => defaultOf i sub

/-- Store an object's value; storing the default takes the entry off the list. -/
def dictPut (l : List (Nat × Val)) (i sub : Nat) (v : Val) : List (Nat × Val) :=
  if v = keyDefault (keyOf i sub) then dictErase l (keyOf i sub) else dictInsert l (keyOf i sub) v

/-- The same on the state. -/
def State.put (s : State) (i sub : Nat) (v : Val) : State := { s with dict := dictPut s.dict i sub v }

/-- A value as an integer. -/
def valNum : Val → Int
  | .int v => v
  | .bytes b => leNat b

/-- A value as bytes. -/
def valRaw : Val → Bytes
  | .int _ => []
  | .bytes b => b

/-- Integer value of an object. -/
def State.int (s : State) (i sub : Nat) : Int := valNum (s.val i sub)

/-- The same as a natural number. -/
def State.nat (s : State) (i sub : Nat) : Nat := (s.int i sub).toNat

/-- The same as a Boolean. -/
def State.flag (s : State) (i sub : Nat) : Bool := decide (s.int i sub ≠ 0)

/-- Byte string value of an object. -/
def State.raw (s : State) (i sub : Nat) : Bytes := valRaw (s.val i sub)

/-! ## Abort codes (15 Table 15-2) -/

namespace Abort
abbrev timedOut : Nat := 0x05040000
abbrev unknownOp : Nat := 0x05040001
abbrev noRight : Nat := 0x06010000
abbrev writeOnly : Nat := 0x06010001
abbrev readOnly : Nat := 0x06010002
abbrev noObject : Nat := 0x06020000
abbrev notCommitted : Nat := 0x06060000
abbrev length : Nat := 0x06070010
abbrev range : Nat := 0x06090030
abbrev general : Nat := 0x08000000
abbrev order : Nat := 0x08000020
abbrev state : Nat := 0x08000022
end Abort

/-! ## Who writes, and the checks every write passes (15 R334–R338) -/

/-- The writer of an object: its role (0 none, 1 Operator, 2 Service, 3 OEM, 4 Factory), its session, and whether it is a package
(15 R346). -/
structure Ctx where
  role : Nat
  sess : Option Nat
  package : Bool
  deriving DecidableEq, Repr

/-- Whether a role has a right (15 R337). -/
def Right.met : Right → Nat → Bool
  | .own, _ => true
  | .op, r => decide (1 ≤ r)
  | .os, r => decide (2 ≤ r)
  | .svc, r => r == 2 || r == 4
  | .oem, r => decide (3 ≤ r)
  | .fac, r => r == 4

/-- The numbers of an integer type, as (bytes, signed); none for byte strings (15 Table 15-1). -/
def ObjTy.size : ObjTy → Option (Nat × Bool)
  | .u8 => some (1, false) | .u16 => some (2, false) | .u32 => some (4, false) | .u64 => some (8, false)
  | .i8 => some (1, true) | .i16 => some (2, true) | .i32 => some (4, true) | .i64 => some (8, true)
  | .bool => some (1, false)
  | .domain => none | .octet => none | .vis => none

/-- Whether a number is one of a type. -/
def ObjTy.holds (t : ObjTy) (v : Int) : Bool :=
  match t.size with
  | some (n, false) => decide (0 ≤ v) && decide (v < 2 ^ (8 * n))
  | some (n, true) => decide (-(2 ^ (8 * n - 1)) ≤ v) && decide (v < 2 ^ (8 * n - 1))
  | none => false

/-- Whether a number lies in one of the intervals; an empty list permits all. -/
def inRanges (l : List (Int × Int)) (v : Int) : Bool :=
  l.isEmpty || l.any fun p => decide (p.1 ≤ v) && decide (v ≤ p.2)

/-- The abort code that a value meets at a row, 0 for none (15 R334, R336). -/
def ObjRow.judge (r : ObjRow) : Val → Nat
  | .int v =>
    if r.ty.size.isNone then Abort.length
    else if r.ty.holds v && inRanges r.check v then 0 else Abort.range
  | .bytes b =>
    if r.ty.size.isSome then Abort.length
    else if inRanges r.check b.length then 0 else if r.ty = .octet then Abort.length else Abort.range

/-- The checks that do not depend on the chapter: existence, access, right, length and range. 0 when all pass. -/
def preCheck (c : Ctx) (i sub : Nat) (v : Val) : Nat :=
  match objRow? i sub with
  | none => Abort.noObject
  | some r =>
    if r.acc = .ro then Abort.readOnly
    else if !r.right.met c.role then Abort.noRight
    else r.judge v

/-- Bytes of a write as a value of the object's type (15 R334). -/
def decodeVal (t : ObjTy) (b : Bytes) : Except Nat Val :=
  match t.size with
  | none => .ok (.bytes b)
  | some (n, sg) =>
    if b.length ≠ n then .error Abort.length
    else .ok (.int (if sg then toSigned n (leNat b) else leNat b))

/-- A value as the bytes of the object's type. -/
def encodeVal (t : ObjTy) (v : Val) : Bytes :=
  match t.size, v with
  | some (n, _), .int x => leInt n x
  | _, .bytes b => b
  | none, .int _ => []

/-- A condition that refuses with a code. -/
def need (ok : Bool) (code : Nat) : Except Nat Unit := if ok then .ok () else .error code

/-! ## Sessions -/

/-- Session n. -/
def State.sessOf (s : State) (n : Nat) : Sess := s.serv.sess.getD n {}

/-- Update of session n. -/
def State.updSess (s : State) (n : Nat) (f : Sess → Sess) : State :=
  s.updServ fun v => { v with sess := v.sess.modify n f }

/-- Update of session n's windows. -/
def State.updWin (s : State) (n : Nat) (f : SessWin → SessWin) : State :=
  s.updSess n fun x => { x with win := f x.win }

/-- The writer that session n is. -/
def State.ctxOf (s : State) (n : Nat) : Ctx := ⟨(s.sessOf n).role, some n, false⟩

/-- The device states in which every object is reachable (01 R28), but for a reset without hold-up (18 R405). -/
def State.reachable (s : State) : Bool :=
  (s.pw.dev = .start || s.pw.dev = .run || s.pw.dev = .service || s.pw.dev = .shutdown) && !s.belay.resetWait

/-- The objects reachable in Ladder: identity, 0x2100–0x2101, and of the update objects 0x5A10 and 0x5A40 (01 R28, 19 R429). -/
def ladderObject (i : Nat) : Bool :=
  i == 0x1000 || i == 0x1008 || i == 0x1009 || i == 0x100A || i == 0x1018 || i == 0x2100 || i == 0x2101 || i == 0x5A10 || i == 0x5A40

/-- Whether a time of `d` ns from MonotonicNs `t` on has passed. In Ladder no loop frame counts time, and the row that reports the end of the
time is taken at its word (log 4). -/
def State.waited (s : State) (t d : Nat) : Bool := s.pw.dev = .ladder || decide (t + d ≤ s.tm.mono)

/-- Whether an index can be reached now. -/
def State.reaches (s : State) (i : Nat) : Bool := s.reachable || (s.pw.dev = .ladder && !s.belay.resetWait && ladderObject i)

/-- The answer of a write: the state it gives and 0, or the old state and the abort code (15 R336). -/
def State.answer (s : State) (n : Nat) (r : Except Nat State) : State :=
  match r with
  | .ok t => t.updSess n fun x => { x with answer := 0 }
  | .error a => s.updSess n fun x => { x with answer := a }

/-- A valid request of session n restarts its timeout (R341). -/
def State.touch (s : State) (n : Nat) : State := s.updSess n fun x => { x with lastReq := s.tm.mono }

/-- What a session's access to an index out of reach does: in Ladder it is answered as one to an object that does not exist (01 R27, R28); in a
state in which no session is served, nothing happens (log 5). -/
def State.unreached (s : State) (n : Nat) : State :=
  if s.pw.dev = .ladder ∧ !s.belay.resetWait then (s.touch n).answer n (.error Abort.noObject) else s

/-- A write of session n to object i: carried out and answered when the session is open and the index reachable. -/
def State.asSession (s : State) (n i : Nat) (w : Ctx → State → Except Nat State) : Out :=
  withUnit (decide (n < 16))
    (if !(s.sessOf n).opened then s
     else if s.reaches i then (s.touch n).answer n (w (s.ctxOf n) (s.touch n))
     else s.unreached n)

/-- The checked write of one number: the common checks, then the chapter's own. -/
def checked (c : Ctx) (i sub : Nat) (v : Val) (s : State) (w : State → Except Nat State) : Except Nat State :=
  if preCheck c i sub v = 0 then w s else .error (preCheck c i sub v)

/-- A write that only stores the value. -/
def plainWrite (c : Ctx) (i sub : Nat) (v : Val) (s : State) : Except Nat State :=
  checked c i sub v s fun s => .ok (s.put i sub v)

/-! ## Free values -/

/-- The next free number, and the state that has counted it (log 6). -/
def State.freeInt (s : State) : Int × State := (Config.freeInt s.free, { s with free := s.free + 1 })

/-! ## Flowstone (16 R361–R368) -/

/-- Severity of a code: 0 information, 1 warning, 2 fault, 3 safety (16 Table 16-3). -/
def severityOf (code : Nat) : Nat :=
  if [0x1007, 0x2001, 0x2002, 0x3011, 0xD001].contains code then 3
  else if [0x0005, 0x1005, 0x3001, 0x6001, 0x7001, 0x7003, 0x7005, 0x8001, 0x8005, 0x8007, 0x8009, 0xA001, 0xA002, 0xB003].contains code
    then 2
  else if [0x0003, 0x1003, 0x2004, 0x3003, 0x4001, 0x7006, 0x7007, 0x7008, 0x700A, 0x700B, 0x8003, 0x8008, 0x9001, 0x9003, 0x9004,
    0x9005, 0xA003, 0xB002, 0xB004].contains code then 1
  else 0

/-- Number of continuation records of a group (16 R361). -/
def FlowRec.cont (r : FlowRec) : Nat := (r.more.length + 15) / 16

/-- Number of records of a group. -/
def FlowRec.size (r : FlowRec) : Nat := 1 + r.cont

/-- Records of a list of groups. -/
def flowSize (l : List FlowRec) : Nat := (l.map FlowRec.size).sum

/-- SEQ difference modulo 2^32 (16 R362). -/
def seqAdd (a n : Nat) : Nat := (a + n) % 2 ^ 32

/-- A record's 30 bytes before CHECK, head (j = 0) or continuation j (16 Table 16-1). -/
def FlowRec.body (r : FlowRec) (j : Nat) : Bytes :=
  let sev := severityOf r.code
  let head := r.engine % 32 * 2 ^ 3 + (if j = 0 then r.cont else 0)
  let b17 := r.station % 16 * 16 + r.timeSource % 4 * 4 + sev
  if j = 0 then
    leBytes 8 r.stamp ++ leBytes 4 r.seq ++ leBytes 2 r.code ++ leBytes 2 r.arg ++ leBytes 1 (head % 256) ++
      leBytes 1 b17 ++ leBytes 4 r.parcel ++ ((r.payload ++ List.replicate 8 0#8).take 8)
  else
    leBytes 8 r.stamp ++ leBytes 4 (seqAdd r.seq j) ++ leBytes 2 1 ++
      (((r.more.drop (16 * (j - 1))) ++ List.replicate 16 0#8).take 16)

/-- The 32 bytes of record j of a group. -/
def FlowRec.bytes (r : FlowRec) (j : Nat) : Bytes :=
  r.body j ++ leBytes 2 (crc16 (nats (r.body j)))

/-- Count of a code in the present second. -/
def codeCount (l : List (Nat × Nat × Nat)) (code : Nat) : Nat × Nat :=
  match l with
  | [] => (0, 0)
  | (c, w, p) :: t => if c = code then (w, p) else codeCount t code

/-- The count with one more written (or suppressed) record of the code. -/
def codeBump (l : List (Nat × Nat × Nat)) (code : Nat) (suppress : Bool) : List (Nat × Nat × Nat) :=
  match l with
  | [] => [(code, if suppress then 0 else 1, if suppress then 1 else 0)]
  | (c, w, p) :: t =>
    if c = code then (if suppress then (c, w, p + 1) else (c, w + 1, p)) :: t else (c, w, p) :: codeBump t code suppress

/-- The first-occurrence table after an occurrence (16 R368). -/
def fotNote (l : List FotEntry) (r : FlowRec) (written : Bool) : List FotEntry :=
  if l.any (fun e => e.first.code == r.code) then
    l.map fun e => if e.first.code = r.code then
      { e with count := min (e.count + 1) 0xFFFFFFFF, lastStamp := r.stamp, lastSeq := if written then r.seq else e.lastSeq } else e
  else if l.length < 1024 ∧ written then l ++ [⟨r, 1, r.stamp, r.seq⟩] else l

/-- Take out the oldest group of lower severity (16 R367). -/
def dropLower (sev : Nat) : List FlowRec → Option (FlowRec × List FlowRec)
  | [] => none
  | r :: t => if severityOf r.code < sev then some (r, t) else (dropLower sev t).map fun p => (p.1, r :: p.2)

/-- Count lost records (16 R367). -/
def Flow.lose (f : Flow) (r : FlowRec) : Flow :=
  { f with lostRecords := f.lostRecords + r.size, lostPending := f.lostPending + r.size,
           lostFirst := if f.lostPending = 0 then r.seq else f.lostFirst }

/-- Place a group in the volatile buffer: it takes the place of the oldest uncopied group of lower severity when the buffer is full, or
is dropped (16 R364, R367). -/
def Flow.place (f : Flow) (r : FlowRec) : Flow :=
  if flowSize f.wait + r.size ≤ 8192 then { f with wait := f.wait ++ [r] }
  else match dropLower (severityOf r.code) f.wait with
    | some (old, rest) => { f.lose old with wait := rest ++ [r] }
    | none => f.lose r

/-- Whether writing this record extends a flush that is running (16 Table 16-4; log 10). -/
def Flow.triggers (f : Flow) (r : FlowRec) : Bool := decide (1 ≤ severityOf r.code) || decide (4096 ≤ flowSize f.wait)

/-- Write a group whose code may be suppressed (16 R362, R366–R368). -/
def Flow.write (f : Flow) (r : FlowRec) : Flow :=
  let r := { r with seq := f.nextSeq }
  if severityOf r.code ≠ 3 ∧ f.limit ≤ (codeCount f.perCode r.code).1 then
    { f with suppressed := f.suppressed + 1, perCode := codeBump f.perCode r.code true, fot := fotNote f.fot r false }
  else
    let g := { f with nextSeq := seqAdd f.nextSeq r.size, perCode := codeBump f.perCode r.code false,
                      fot := fotNote f.fot r true,
                      fotFull := f.fotFull || (decide (1024 ≤ f.fot.length) && !f.fot.any fun e => e.first.code == r.code) }
    let g := g.place r
    if g.flushUntil.isSome && g.triggers r then { g with flushUntil := some g.nextSeq } else g

/-- A new second of MonotonicNs: the counts start again, and one 0x0002 record for each suppressed code (16 R366). -/
def Flow.newSecond (f : Flow) (sec limit stamp src : Nat) : Flow :=
  let g := { f with second := sec, perCode := [], limit := limit }
  (f.perCode.filter fun e => e.2.2 ≠ 0).foldl
    (fun g e => g.write ⟨0, stamp, src, 0x0002, e.1, 0, 0xF, 0xFFFFFFFF, leBytes 4 e.2.2 ++ leBytes 4 0, []⟩) g

/-- Roll to the present second when it has changed. -/
def State.rollSecond (s : State) : State :=
  if s.flow.second = s.tm.mono / 1000000000 then s
  else s.updFlow fun f => f.newSecond (s.tm.mono / 1000000000) (s.nat 0x5800 7) s.tm.now s.tm.source

/-- Engine of Table 16-1 that runs a region's firmware (19 R427): codes GAL 1, LPE 2, LAN 3, COL 5, SKY 6, BUS 7, BEL 8. -/
def regionEngine (region engine : Nat) : Bool :=
  match region with
  | 1 => engine == 0xE | 2 => engine == 4 | 3 => engine == 0xD | 5 => engine == 2 || engine == 3
  | 6 => engine == 0xB | 7 => engine == 0xC | 8 => engine == 1 | _ => false

/-- 7,200 s of probation. -/
abbrev probationNs : Nat := 7200000000000

/-- A fault or safety record of a region's engine starts its probation afresh (19 R427). -/
def Upd.noteFault (u : Upd) (engine : Nat) : Upd :=
  { u with regions := u.regions.mapIdx fun r x => if x.state = 3 ∧ regionEngine (r + 1) engine then { x with left := probationNs } else x }

/-- Write one record group with the present machine time and time source (16 R361). Nothing is recorded in Dormant and Park
(16 Table 16-8). -/
def State.record (s : State) (e : FlowEv) : State :=
  if s.pw.dev = .dormant ∨ s.pw.dev = .park then s
  else
    let t := s.rollSecond.updFlow fun f =>
      f.write ⟨0, s.tm.now, s.tm.source, e.code, e.arg, e.engine, e.station, e.parcel, e.payload, e.more⟩
    if 2 ≤ severityOf e.code then t.updUpd fun u => u.noteFault e.engine else t

/-- Write several, in order. -/
def State.records (s : State) (l : List FlowEv) : State := l.foldl State.record s

/-- Steering is engaged (08 R194). -/
def State.steerEngaged (s : State) : Bool := s.steer.engaged

/-! ## Functions and units named by number -/

/-- Update of element n of a list of like units. -/
def updAt {α : Type} (l : List α) (n : Nat) (f : α → α) : List α := l.modify n f

/-- Bound of a sum of naturals that saturates at an UNSIGNED32 counter. -/
def inc32 (n : Nat) : Nat := min (n + 1) 0xFFFFFFFF

/-- n, n+1, … -/
def rangeFrom (a n : Nat) : List Nat := (List.range n).map (· + a)

/-- Number reached by a saturating UNSIGNED32 counter. -/
def add32 (n k : Nat) : Nat := min (n + k) 0xFFFFFFFF

/-- Function f, context n, shaft input h, analogue input a, impact channel c, station k. -/
def State.fnOf (s : State) (f : Nat) : Fn := s.loop.fn.getD f {}
def State.ctxAt (s : State) (n : Nat) : LCtx := s.loop.ctx.getD n {}
def State.shOf (s : State) (h : Nat) : Sh := s.sens.sh.getD h {}
def State.aiOf (s : State) (a : Nat) : Ai := s.sens.ai.getD a {}
def State.lsOf (s : State) (c : Nat) : Ls := s.sens.ls.getD c {}
def State.stOf (s : State) (k : Nat) : Station := s.pas.stations.getD k {}

/-- Updates of one of them. -/
def State.updFn (s : State) (f : Nat) (g : Fn → Fn) : State := s.updLoop fun l => { l with fn := updAt l.fn f g }
def State.updCtx (s : State) (n : Nat) (g : LCtx → LCtx) : State := s.updLoop fun l => { l with ctx := updAt l.ctx n g }
def State.updShaft (s : State) (h : Nat) (g : Sh → Sh) : State := s.updSens fun x => { x with sh := updAt x.sh h g }
def State.updAi (s : State) (a : Nat) (g : Ai → Ai) : State := s.updSens fun x => { x with ai := updAt x.ai a g }
def State.updLs (s : State) (c : Nat) (g : Ls → Ls) : State := s.updSens fun x => { x with ls := updAt x.ls c g }

/-- MonotonicNs of a machine-time stamp (13 R298). -/
def State.monoOf (s : State) (stamp : Nat) : Nat := ((s.tm.mono : Int) + stamp - s.tm.now).toNat

/-- The Passage cuts parcels (02 R32). -/
def State.cutting (s : State) : Bool :=
  (s.pw.dev = .run || s.pw.dev = .service) && s.pas.headerInWork && s.nat 0x3810 3 != 0xFE && s.pctl.ground != 0 && !s.pctl.resetActive

/-- Start or Service, where the sensing and station configuration may be written. -/
def State.configurable (s : State) : Bool := s.pw.dev = .start || s.pw.dev = .service

/-- Order of parcel numbers modulo 2^32 (00 R13): the distance from p up to q, and p before q. -/
def pdist (p q : Nat) : Nat := (q + 2 ^ 32 - p % 2 ^ 32) % 2 ^ 32
def pbefore (p q : Nat) : Bool := decide (1 ≤ pdist p q) && decide (pdist p q < 2 ^ 31)

/-- Level of a field input (chapter 11). -/
def State.pinLevel (s : State) (n : Nat) : Bool := (s.fio.pins.getD n {}).level

/-- HEADROOM of a destination: valve channels only (10 R229, R237). -/
def State.headroomAt (s : State) (dest : Nat) : Bool := 1 ≤ dest && decide (dest ≤ 32) && (s.valve.ch.getD (dest - 1) {}).headroom

/-- Numbers m below n with a property. -/
def indices (n : Nat) (p : Nat → Bool) : List Nat := (List.range n).filter p

/-- Contexts of a function. -/
def State.ctxOfFn (s : State) (f : Nat) : List Nat := indices 128 fun n => s.nat (0x3000 + n) 2 == f

/-- Lead slot that names a function (03 R75). -/
def State.slotOf (s : State) (f : Nat) : Option Nat := (indices 8 fun j => s.nat (0x38A8 + j) 1 == f).head?

/-- Optimiser slot that names a function (07 R177); 0xFF none. -/
def State.optSlotOf (s : State) (f : Nat) : Nat := (indices 8 fun j => s.nat (0x3A10 + j) 1 == f).headD 0xFF

/-! ## What the optimiser takes notice of (07 R182, R185–R187) -/

/-- A happening of Table 07-5: the first one voids the running cycle in the next application frame. -/
def State.optVoid (code : Nat) (s : State) : State :=
  s.updOpt fun o => if o.cycle.isSome && o.void.isNone then { o with void := some code } else o

/-- Settling starts again with the next parcel (07 R179). -/
def State.optSettle (s : State) : State := s.updOpt fun o => { o with settleAt := s.pas.nextParcel }

/-- C of function f changed, or with `mode` its FunctionMode was written: a pending suggestion is withdrawn, and unless the change is the
optimiser's own the slot is held and a cycle on it void (07 R185, R186, Table 07-5). -/
def State.optChange (f : Nat) (own mode : Bool) (s : State) : State :=
  s.updOpt fun o =>
    { o with
      slots := o.slots.mapIdx fun j (x : OSlot) =>
        if s.nat (0x3A10 + j) 1 ≠ f then x
        else { x with sugState := if !mode && x.sugState == 1 then 5 else x.sugState
                      accepted := x.accepted && (mode || x.sugState != 1)
                      held := x.held || !own
                      heldAt := if own then x.heldAt else s.tm.mono }
      cycle := o.cycle.map fun c => if c.fn == f && !own && !mode then { c with foreign := true } else c
      void := match o.cycle with
        | some c => if c.fn == f && !own && o.void.isNone then some (if mode then 0x10 else 0x11) else o.void
        | none => o.void }

/-- A source other than the optimiser has written C of function f, be it the value it had (07 R187). -/
def State.optForeign (f : Nat) (s : State) : State :=
  s.updOpt fun o => { o with cycle := o.cycle.map fun c => if c.fn == f then { c with foreign := true } else c }

/-- Update of the blocks of the running cycle. -/
def State.updBlocks (f : PBlk → PBlk) (s : State) : State :=
  s.updOpt fun o => { o with cycle := o.cycle.map fun c => { c with blocks := c.blocks.map f } }

/-- An event is released: one of the running cycle's, or a move (07 R181, R184). -/
def State.optReleased (id : Nat) (late : Bool) (s : State) : State :=
  (s.updBlocks fun b => { b with late := b.late || (late && b.beginEv == some id)
                                 ended := if b.endEv = some id then some s.tm.mono else b.ended }).updOpt fun o =>
    { o with slots := o.slots.map fun (x : OSlot) => if x.moveEv = some id then { x with moved := true, moveEv := none } else x }

/-- The arrival error of one of its events, ns. -/
def State.optArrived (id : Nat) (err : Int) (s : State) : State :=
  s.updBlocks fun b => if b.beginEv = some id then { b with err := err } else b

/-! ## Persistent values (15 R352) -/

/-- The highest generation present in a target. -/
def Target.gen (t : Target) : Nat :=
  [t.a, t.b, t.c].foldl (fun m x => match x with | some c => max m c.gen | none => m) 0

/-- The target of a layer and key. -/
def findTarget (l : List Target) (layer key : Nat) : Option Target := l.find? fun t => t.layer == layer && t.key == key

/-- Two copies at least are committed (R352). -/
def twoOf (okA okB okC : Bool) : Bool := (okA && okB) || (okA && okC) || (okB && okC)

/-- Write A, B and C with generation g + 1 in that order (R352); a copy that does not verify keeps a failed CRC, and after two of them the
rest is not written. -/
def writeCopies (t : Target) (v : Val) (okA okB okC : Bool) : Target :=
  let n : Bool → Option Copy := fun ok => some ⟨t.gen + 1, v, ok⟩
  if !okA && !okB then { t with a := n false, b := n false }
  else { t with a := n okA, b := n okB, c := n okC, state := if twoOf okA okB okC then 0 else t.state }

/-- The value a resolved target gives; none in disagreement or lost (R353). -/
def Target.used (t : Target) : Option Val :=
  if t.state = 2 ∨ t.state = 6 then none
  else match [t.a, t.b, t.c].filterMap (fun x => x.bind fun c => if c.ok then some c.value else none) with
    | v :: _ => some v
    | [] => none

/-- Store a target. -/
def putTarget (l : List Target) (t : Target) : List Target :=
  if l.any fun x => x.layer == t.layer && x.key == t.key then l.map fun x => if x.layer == t.layer && x.key == t.key then t else x
  else l ++ [t]

/-- Safety parameters that Column-A and Column-B keep in copies of their own (R356). -/
def safetyKey (i sub : Nat) : Bool :=
  (decide (0x2800 ≤ i) && decide (i < 0x2830) && (sub == 0xC || sub == 0xD)) ||
    (decide (0x4000 ≤ i) && decide (i < 0x4020) && (sub == 8 || sub == 0x17)) ||
    (((decide (0x4040 ≤ i) && decide (i < 0x4046)) || (decide (0x4480 ≤ i) && decide (i < 0x4484))) && sub == 2) ||
    (decide (0x4400 ≤ i) && decide (i < 0x4430) && sub == 4) || (i == 0x3C00 && decide (7 ≤ sub) && decide (sub ≤ 9))

/-- A safety parameter of an index with property p is unresolved: the enables that depend on it are withheld (R356). -/
def State.safetyHeld (s : State) (p : Nat → Bool) : Bool :=
  s.per.targets.any fun t => t.layer == 3 && (t.state == 2 || t.state == 6) && p (t.key / 256)

/-- One persistent write whose copies all verify. -/
def State.commit (s : State) (layer key : Nat) (v : Val) : State :=
  s.updPer fun p =>
    let t := (findTarget p.targets layer key).getD ⟨layer, key, none, none, none, 0⟩
    { p with targets := putTarget p.targets (writeCopies t v true true true) }

end Sys2Proof.Machine
end

