-- ==== Sys2Proof/Machine/LeadOps.lean ====
section
/-! DEFINITION. The death of Leads and the freeing of their entries (03 R81, R82, R85, R92), which sensing, the Passage and the
device state bring about. -/

namespace Sys2Proof.Machine

/-- Function of a lead slot, when configured (R75). -/
def State.slotFn (s : State) (j : Nat) : Option Nat := if s.nat (0x38A8 + j) 1 < 48 then some (s.nat (0x38A8 + j) 1) else none

/-- A Lead that went has slots configured that are still to start: it continues under R78 (R80). -/
def State.leadToStart (s : State) (l : Lead) : Bool :=
  l.state == 3 && (List.range 8).any fun j => (s.slotFn j).isSome && !l.started.testBit j

/-- An entry is freed when its Lead is resolved and acts on no slot (R92). DESIGN CHOICE (log 67): one that went stays until each configured
slot has started, so that it can act at a late station (R72, R80). -/
def State.freeLeads (s : State) (x : Leads) : Leads :=
  { x with ring := x.ring.filter fun l => l.state == 1 || s.leadToStart l || x.acting.contains (some l.parcel) }

/-- LEAD_STATE and LeadRef of the parcels of resolved Leads (02 Table 02-8). -/
def markParcels (ring : List Parcel) (hit : List Lead) (st : Nat) : List Parcel :=
  ring.map fun q => match hit.find? fun l => l.parcel == q.num && q.pass == 1 with
    | some l => { q with leadState := st, leadRef := l.index }
    | none => q

/-- The unresolved Leads that satisfy p die with a reason (R81): they are counted, and their parcels show it. -/
def killLeads (p : Lead → Bool) (reason : Nat) (s : State) : State :=
  let hit := s.lead.ring.filter fun l => l.state == 1 && p l
  let n := hit.length
  let x := { s.lead with
    ring := s.lead.ring.map fun l => if l.state == 1 && p l then { l with state := 4, reason := reason } else l
    died := add32 s.lead.died n
    byReason := updAt s.lead.byReason (reason - 1) (add32 · n)
    periodDied := s.lead.periodDied + n
    ahead := s.lead.ahead ++ (hit.filter fun l => !s.pas.ring.any fun q => q.num == l.parcel).map fun l => (l.parcel, l.index) }
  { s with lead := s.freeLeads x, pas := { s.pas with ring := markParcels s.pas.ring hit 2 } }

/-- Every unresolved Lead dies. -/
def killUnresolved (reason : Nat) (s : State) : State := killLeads (fun _ => true) reason s

/-- Whether a Lead's parcel is not yet cut. -/
def State.uncut (s : State) (l : Lead) : Bool := !pbefore l.parcel s.pas.nextParcel

/-- Every Lead whose parcel is not yet cut dies (reasons 0x02 and 0x0A). -/
def killUncut (reason : Nat) (s : State) : State := killLeads s.uncut reason s

/-- The Lead ring is emptied: every unresolved Lead dies and every entry is freed (02 R69, Table 03-7). -/
def emptyLeads (reason : Nat) (s : State) : State :=
  (killUnresolved reason s).updLead fun x => { x with ring := [], acting := List.replicate 8 none, ahead := [] }

end Sys2Proof.Machine
end

