-- ==== Sys2Proof/Machine/Sensing.lean ====
section
/-! DEFINITION. Crop, loss and shaft sensing (chapter 04): impact channels, analogue and shaft inputs, the crop-flow chain and the IMU. -/

namespace Sys2Proof.Machine

/-- The inputs and supplies are on in Start, Run and Service, and in Shutdown until every output is safe (R95, R120). -/
def State.senses (s : State) : Bool := s.reachable && !s.sens.off

/-- Sensor fault record, raised or cleared (R119): ARG the input's code, ENGINE, the status word. -/
def sensorRecord (raised : Bool) (code engine status : Nat) (s : State) : State :=
  s.record ⟨if raised then 0x4001 else 0x4002, code, engine, leBytes 4 status, [], 0xFFFFFFFF, 0xF⟩

/-! ## Sensor supplies (R95) -/

/-- Whether a supply named by a SensorSupply value is in fault. -/
def State.supplyBad (s : State) (v : Nat) : Bool := decide (v ≠ 0) && s.sens.supplyFault.testBit (v - 1)

/-- AiStatus (Table 04-4). -/
def aiStatus (s : State) (a : Nat) : Nat :=
  let x := s.aiOf a
  b2n x.valid + 2 * b2n x.low + 4 * b2n x.high + 8 * b2n (s.supplyBad (s.nat (0x4840 + a) 7)) + 16 * b2n x.shuntOpen

/-- FeedRateSource names this analogue input (02 Table 02-5). -/
def State.feedSource (s : State) (a : Nat) : Bool := s.nat 0x3810 0xA == 0x40 + a

/-- An analogue input becomes invalid; as FeedRateSource it kills every unresolved Lead with reason 0x05 (Table 04-10). -/
def aiInvalid (a : Nat) (s : State) : State :=
  let t := s.updAi a fun x => { x with valid := false }
  if s.feedSource a then killUnresolved 5 t else t

/-- R95: the supply folds back, its fault is raised, and every analogue input that names it becomes invalid. -/
def execSensorSupplyFoldback (i : Nat) (s : State) : Out :=
  withUnit (decide (i < 3))
    (if s.senses && !s.sens.supplyFault.testBit i then
      let s := s.updSens fun x => { x with supplyFault := setBit x.supplyFault i true }
      let s := sensorRecord true (0xA1 + i) 0x0F s.sens.supplyFault s
      (List.range 24).foldl (fun s a => if s.nat (0x4840 + a) 7 == i + 1 && s.nat (0x4840 + a) 1 != 0 then aiInvalid a s else s) s
    else s)

/-- R95: the retry clears the fault when the current is within the limit. -/
def execSensorSupplyRetry (i : Nat) (within : Bool) (s : State) : Out :=
  withUnit (decide (i < 3))
    (if s.senses && s.sens.supplyFault.testBit i && within then
      let s := s.updSens fun x => { x with supplyFault := setBit x.supplyFault i false }
      sensorRecord false (0xA1 + i) 0x0F s.sens.supplyFault s
    else s)

/-! ## Impact channels (R96–R102) -/

/-- HEALTHY: none of TESTING, OPEN, SHORTED and NOISY (R100, R101). -/
def Ls.healthy (x : Ls) : Bool := !(x.testing || x.opened || x.shorted || x.noisy)

/-- ChannelStatus (Table 04-2). -/
def lsStatus (x : Ls) : Nat :=
  b2n x.healthy + 2 * b2n x.testing + 4 * b2n x.opened + 8 * b2n x.shorted + 16 * b2n x.noisy + 32 * b2n x.limitedAt.isSome

/-- Zero crossings of a window: sign changes between successive nonzero samples. -/
def zeroCrossings (l : List Int) : Nat :=
  let z := l.filter (· ≠ 0)
  ((z.zip z.tail).filter fun p => decide (p.1 * p.2 < 0)).length

/-- Second peak: after |x| has fallen below A/4 it rises again to A/2 or more; `st` counts the rise to A/2 seen, and the fall. -/
def secondPeak (a : Nat) : Nat → List Int → Bool
  | _, [] => false
  | st, x :: t =>
    let m := x.natAbs
    if st = 2 then if a ≤ 2 * m then true else secondPeak a 2 t
    else if st = 1 then secondPeak a (if 4 * m < a then 2 else 1) t
    else secondPeak a (if a ≤ 2 * m then 1 else 0) t

/-- The trigger level of R97 in counts; NoiseFactor and NoiseRms are in tenths. -/
def trigLevel (s : State) (c : Nat) (x : Ls) : Rat :=
  max (s.int (0x4810 + c) 4 : Rat) ((s.nat (0x4810 + c) 5 * x.noise : Nat) / 100)

/-- Index of the sample at which a window closes: the last one at half the trigger level or above once 8 µs have followed below it, or the
one at 200 µs (R97; DEDUCED, log 68: the window ends at the sample after which the magnitude stayed low). `i` is the index of the next sample,
`last` that of the last high one. -/
def closeAt (half : Rat) : Nat → Nat → List Int → Nat
  | i, _, [] => i - 1
  | i, last, x :: t =>
    if half ≤ (x.natAbs : Rat) then (if 200 ≤ i then 200 else closeAt half (i + 1) i t)
    else if last + 8 ≤ i then last
    else if 200 ≤ i then 200
    else closeAt half (i + 1) last t

/-- The pulse window of a run of samples (R97), limited to the converter's 12 bits (R96); none while no sample opens one. -/
def pulseWindow (tr : Rat) (l : List Int) : List Int :=
  let l := (l.map (clampI (-2048) 2047)).dropWhile fun x => decide ((x.natAbs : Rat) < tr)
  l.take (closeAt (tr / 2) 0 0 l + 1)

/-- Classes of R98. -/
inductive Pulse where
  | saturated | noise | straw | pileUp | grain
  deriving DecidableEq, Repr

/-- Features and class of a window (R98): energy, class and n. The window lasts one microsecond for each sample after its first. -/
def classify (s : State) (c : Nat) (egrain : Rat) (x : List Int) : Nat × Pulse × Nat :=
  let o := 0x4810 + c
  let a := x.foldl (fun m v => max m v.natAbs) 0
  let tr := (x.findIdx? fun v => v.natAbs == a).getD 0
  let w := x.length - 1
  let e : Nat := x.foldl (fun m v => m + v.natAbs * v.natAbs) 0
  let f : Rat := if w = 0 then 0 else 1000 * (zeroCrossings x : Rat) / (2 * w)
  let n := (ratRound ((e : Rat) / egrain)).toNat
  if x.any fun v => decide (v ≤ -2048) || decide (2047 ≤ v) then (e, .saturated, 1)
  else if (a : Int) < s.int o 6 then (e, .noise, 0)
  else if f < (s.nat o 7 : Rat) ∨ (s.nat o 8 : Rat) < f ∨ s.nat o 9 < tr then (e, .straw, 0)
  else if 200 ≤ w ∨ secondPeak a 0 x then (e, .pileUp, max 2 (min 8 n))
  else (e, .grain, 1)

/-- At the first window after an InputGain write Egrain and NoiseRms go over to the new gain's counts (R102). DESIGN CHOICE (log 68): NoiseRms
is rounded down. -/
def Ls.regain (x : Ls) (g : Nat) : Ls :=
  if x.gain = g then x
  else
    let sq := fun (q : Nat × Nat) => (q.1, q.2 * (g * g) / (x.gain * x.gain))
    { x with egrain := x.egrain * (g : Rat) * g / ((x.gain : Rat) * x.gain), noise := x.noise * g / x.gain, gain := g,
             quiet := sq x.quiet, quietMs := x.quietMs.map sq }

/-- Add n grain impacts at an instant. -/
def Ls.addGrains (x : Ls) (mono n : Nat) : Ls :=
  { x with grains := add32 x.grains n, recent := (mono, n) :: x.recent.filter fun e => decide (mono < e.1 + 1000000000) }

/-- One window beyond the limit of R99. -/
def Ls.limited (x : Ls) (mono energy : Nat) : Ls × Nat :=
  let n := max 1 (ratRound ((energy : Rat) / x.egrain)).toNat
  ({ (x.addGrains mono n) with rateLimited := inc32 x.rateLimited, limitedAt := some mono, inMs := x.inMs + 1 }, n)

/-- One classified window. -/
def Ls.classified (x : Ls) (mono energy : Nat) (p : Pulse) (n : Nat) : Ls :=
  let x := { x with inMs := x.inMs + 1 }
  match p with
  | .saturated => { (x.addGrains mono n) with saturated := inc32 x.saturated }
  | .noise => x
  | .straw => { x with straws := inc32 x.straws }
  | .pileUp => { (x.addGrains mono n) with pileUps := inc32 x.pileUps }
  | .grain => { (x.addGrains mono n) with egrain := x.egrain + ((energy : Rat) - x.egrain) / 256 }

/-- R97–R100: a window opened at `stamp`, a whole microsecond (R94), has closed: it is classified, counted, and handed to its station when the
channel is healthy. Samples that reach no trigger level open no window. -/
def execPulseWindowClose (c stamp : Nat) (samples : List Int) (s : State) : Out :=
  withUnit (decide (c < 16))
    (let o := 0x4810 + c
     let x := (s.lsOf c).regain (s.nat o 3)
     let w := pulseWindow (trigLevel s c x) samples
     if s.senses && w != [] then
      let x := if x.ms = stamp / 1000000 then x else { x with ms := stamp / 1000000, inMs := 0 }
      let r := classify s c x.egrain w
      let mono := s.monoOf (stamp / 1000 * 1000)
      let (x', n) := if x.inMs < 40 then (x.classified mono r.1 r.2.1 r.2.2, r.2.2) else x.limited mono r.1
      let t := s.updLs c fun _ => x'
      let t := if x'.limitedAt.isSome && x.limitedAt.isNone then sensorRecord true (0x90 + c) 0x0A (lsStatus x') t else t
      if n ≠ 0 ∧ x.healthy ∧ (x.station = 3 ∨ x.station = 4) then
        t.updSens fun z => { z with impacts := z.impacts ++ [(x.station, stamp / 100000 * 100000, n * x.weight)] }
      else t
    else s)

/-- Start the tests that are due, of at most one channel of each station at a time (R101). -/
def startTests (s : State) : State :=
  (List.range 16).foldl (fun s c =>
    let st := (s.lsOf c).station
    if s.sens.testQueue.testBit c &&
        !(List.range 16).any (fun d => (s.lsOf d).testing && (s.lsOf d).station == st && st != 0xFF) then
      (s.updLs c fun x => { x with testing := true }).updSens fun z => { z with testQueue := setBit z.testQueue c false }
    else s) s

/-- R101: a channel's 10 s test begins (no `cap`), at once or when the other channel of its station that is under test is done; or a test's
200 µs are over, with its judgement. -/
def execLsChannelTest (c : Nat) (cap : Option Nat) (lowResistance : Bool) (s : State) : Out :=
  withUnit (decide (c < 16))
    (if s.senses then
      match cap with
      | none => startTests (s.updSens fun z => { z with testQueue := setBit z.testQueue c true })
      | some cap =>
        let o := 0x4810 + c
        let old := s.lsOf c
        let x := { old with testing := false, cap := min cap 0xFFFF, opened := decide (cap < s.nat o 0xB),
                            shorted := decide (s.nat o 0xC < cap) || lowResistance }
        let t := s.updLs c fun _ => x
        let bad := x.opened || x.shorted
        let was := old.opened || old.shorted
        let t := if bad && (x.opened != old.opened || x.shorted != old.shorted) then sensorRecord true (0x90 + c) 0x0A (lsStatus x) t
          else if was && !bad then sensorRecord false (0x90 + c) 0x0A (lsStatus x) t else t
        startTests t
    else s)

/-- R101: NOISY is set after 5 s of a trigger level above GrainMinAmp and cleared after 5 s at or below it. -/
def execLsNoisyExpiry (c : Nat) (above : Bool) (s : State) : Out :=
  withUnit (decide (c < 16))
    (let x := s.lsOf c
     if s.senses && x.noisy != x.loud && x.loud == above && decide (x.loudAt + 5000000000 ≤ s.tm.mono) then
      let t := s.updLs c fun x => { x with noisy := x.loud }
      sensorRecord x.loud (0x90 + c) 0x0A (lsStatus (t.lsOf c)) t
    else s)

/-- Writes to 0x4810 + c (R102) and to 0x4800.04 (R101). -/
def lossWrite (w : Ctx) (i sub : Nat) (v : Val) (s : State) : Except Nat State :=
  checked w i sub v s fun s =>
    let x := valNum v
    if i = 0x4800 then
      .ok (startTests (s.updSens fun z => { z with testQueue := Nat.lor z.testQueue x.toNat }))
    else if (sub = 1 ∨ sub = 2) ∧ ¬(s.configurable ∨ !s.cutting) then .error Abort.state
    else if sub = 7 ∧ (s.nat i 8 : Int) ≤ x then .error Abort.range
    else if sub = 8 ∧ x ≤ s.nat i 7 then .error Abort.range
    else .ok (s.put i sub v)

def execLsTestNow (sess : Nat) (mask : Int) (s : State) : Out := s.asSession sess 0x4800 fun w => lossWrite w 0x4800 4 (.int mask)
def execLossChannelWrite (sess c sub : Nat) (v : Int) (s : State) : Out :=
  if c < 16 then s.asSession sess (0x4810 + c) fun w => lossWrite w (0x4810 + c) sub (.int v) else withUnit false s

/-! ## Analogue inputs (R104–R107) -/

/-- Range limits of a mode in raw units (Table 04-3). -/
def aiLimits (mode : Nat) : Int × Int :=
  if mode = 1 then (-10500, 10500) else if mode = 2 then (-500, 10500) else (3600, 21000)

/-- R106: the raw value has been beyond a limit for 1 ms. -/
def execAiRangeFault (a : Nat) (raw : Int) (s : State) : Out :=
  withUnit (decide (a < 24))
    (let m := s.nat (0x4840 + a) 1
     let low := decide (raw < (aiLimits m).1)
     let high := decide ((aiLimits m).2 < raw)
     if s.senses && m != 0 && (low || high) && !(s.aiOf a).shuntOpen then
      let new := !(s.aiOf a).faulted
      let t := s.updAi a fun x => { x with low := low, high := high, valid := false, faulted := true }
      let t := if new then sensorRecord true (0x40 + a) 0x0F (aiStatus t a) t else t
      aiInvalid a t
     else s)

/-- R106: RangeHold of continuous in-range samples with the supply healthy and the shunt closed. -/
def execAiRangeHoldExpiry (a : Nat) (s : State) : Out :=
  withUnit (decide (a < 24))
    (let o := 0x4840 + a
     let x := s.aiOf a
     if s.senses && s.nat o 1 != 0 && !x.valid && !x.shuntOpen && !s.supplyBad (s.nat o 7) then
      let t := s.updAi a fun x => { x with valid := true, low := false, high := false, faulted := false }
      if x.faulted then sensorRecord false (0x40 + a) 0x0F (aiStatus t a) t else t
     else s)

/-- R104: above 30 mA for 1 ms the shunt is opened. -/
def execShuntOpen (a : Nat) (s : State) : Out :=
  withUnit (decide (a < 24))
    (if s.senses && s.nat (0x4840 + a) 1 == 3 && !(s.aiOf a).shuntOpen then
      let new := !(s.aiOf a).faulted
      let t := s.updAi a fun x => { x with shuntOpen := true, faulted := true, valid := false }
      let t := if new then sensorRecord true (0x40 + a) 0x0F (aiStatus t a) t else t
      aiInvalid a t
    else s)

/-- R104: the shunt is closed to test the current; it stays closed unless the current is above 30 mA. -/
def execShuntRetest (a : Nat) (microamp : Int) (s : State) : Out :=
  withUnit (decide (a < 24))
    (if s.senses && (s.aiOf a).shuntOpen && decide (microamp ≤ 30000) then s.updAi a fun x => { x with shuntOpen := false } else s)

/-- Samples per second of a SampleRate code (Table 04-4). -/
def sampleRate (c : Nat) : Nat :=
  if c = 1 then 100000 else if c = 2 then 50000 else if c = 3 then 20000 else if c = 4 then 10000 else 1000

/-- An enabled loop context reads the source, as measurement or table position (R107). -/
def State.ctxSelects (s : State) (code : Nat) : Bool :=
  (List.range 128).any fun n => (s.ctxAt n).enabled && (s.nat (0x3000 + n) 4 == code || s.nat (0x3400 + n) 0x10 == code)

/-- Something that R107 names selects an analogue input. -/
def State.aiSelected (s : State) (a : Nat) : Bool :=
  let c := 0x40 + a
  s.ctxSelects c || s.nat 0x3810 3 == c || s.nat 0x3810 0xA == c || s.nat 0x38A0 7 == c || s.nat 0x4880 1 == c ||
    s.nat 0x4880 2 == c || s.nat 0x4880 0xC == c || s.nat 0x3C00 2 == c || s.nat 0x3C00 3 == c || s.nat 0x3C00 7 == c ||
    s.nat 0x3C38 6 == c || s.nat 0x3C38 7 == c

/-- Writes to 0x4840 + a (R107). -/
def aiWrite (w : Ctx) (i sub : Nat) (v : Val) (s : State) : Except Nat State :=
  checked w i sub v s fun s =>
    let a := i - 0x4840
    let x := (valNum v).toNat
    if sub = 4 ∧ sampleRate (s.nat i 2) ≤ 2 * x then .error Abort.range
    else if sub = 2 ∧ sampleRate x ≤ 2 * s.nat i 4 then .error Abort.range
    else if (sub = 1 ∨ sub = 2 ∨ sub = 7) ∧ !s.configurable ∧ s.aiSelected a then .error Abort.state
    else
      let t := s.put i sub v
      let t := if sub = 1 ∨ sub = 2 ∨ sub = 3 then t.updAi a fun y => { y with filter := none } else t
      let t := if sub = 1 ∨ sub = 7 then t.updAi a fun y => { y with valid := false, lastValid := 0 } else t
      .ok (if sub = 1 ∧ x ≠ 3 then t.updAi a fun y => { y with shuntOpen := false } else t)

def execAiConfigWrite (sess a sub : Nat) (v : Int) (s : State) : Out :=
  if a < 24 then s.asSession sess (0x4840 + a) fun w => aiWrite w (0x4840 + a) sub (.int v) else withUnit false s

/-- EngValue = (raw − EngOffset) × EngGain (R106), the product's fraction rounded half up (log 18). -/
def engValue (s : State) (a : Nat) (raw : Int) : Int :=
  divHalfUp ((raw - s.int (0x4840 + a) 5) * s.int (0x4840 + a) 6) 65536

/-- The same with its fraction. -/
def engRat (s : State) (a : Nat) (raw : Int) : Rat :=
  ((raw - s.int (0x4840 + a) 5) * s.int (0x4840 + a) 6 : Int) / 65536

/-- One sample taken: the low-pass moves, and it is the latest (R105). -/
def aiSample (s : State) (a : Nat) (x : Ai) (raw : Int) : Ai :=
  let k := Config.lowPass (s.nat (0x4840 + a) 4) (sampleRate (s.nat (0x4840 + a) 2))
  let e := engRat s a raw
  { x with raw := raw, eng := engValue s a raw,
           filter := some (match x.filter with | some y => y + k * (e - y) | none => e) }

/-- Samples that a channel takes in a frame at its SampleRate: 10, 5, 2 or 1; at 1 kSa/s one in the frames that begin on a whole millisecond of
machine time (R105). -/
def samplesIn (rate now : Nat) : Nat :=
  if rate = 1 then 10 else if rate = 2 then 5 else if rate = 3 then 2 else if rate = 4 then 1 else if now % 1000000 = 0 then 1 else 0

/-- What the converter of an input sees at n sample instants: the levels given, the last of them holding. -/
def samplesOf (n : Nat) (given : List Int) (raw : Int) : List Int := (given ++ List.replicate n (given.getLast?.getD raw)).take n

/-- The samples of one frame of an analogue input (R105). `start` is the frame start. -/
def aiFrame (s : State) (a start : Nat) (l : List Int) (x : Ai) : Ai :=
  let x := { x with prevMean := x.mean }
  match l with
  | [] => x
  | h :: t =>
    let n := l.length
    let x := aiSample s a x h
    let x := { x with first := x.eng, filtered := x.filter.getD 0 }
    let x := t.foldl (aiSample s a) x
    { x with stamp := start + (n - 1) * (100000 / n),
             mean := some ((l.map (engRat s a)).foldl (· + ·) 0 / n) }

/-- The value a consumer reads at 20 µs by FrameValue, before validity (R105). DESIGN CHOICE (log 68): a mean and the low-pass output are rounded
to the nearest whole engineering unit, which R105 does not say. -/
def aiFrameValue (s : State) (a : Nat) : Int :=
  let x := s.aiOf a
  let m := s.nat (0x4840 + a) 3
  if m = 1 then (match x.prevMean with | some q => ratRound q | none => 0)
  else if m = 2 then ratRound x.filtered else x.first

/-- The value consumers receive and its validity (R106): the last valid value while invalid. -/
def aiConsumer (s : State) (a : Nat) : Int × Bool :=
  if (s.aiOf a).valid then (aiFrameValue s a, true) else ((s.aiOf a).lastValid, false)

/-! ## Shaft inputs (R108–R111) -/

/-- A fault that freezes the stations of a shaft input (Table 04-10). -/
def Sh.bad (x : Sh) : Bool := x.quadFault || x.overRate || x.overflow || x.currentFault

/-- ShStatus (Table 04-6). -/
def shStatus (x : Sh) : Nat :=
  b2n (!x.bad) + 2 * b2n x.reverse + 4 * b2n x.overflow + 8 * b2n x.quadFault + 16 * b2n x.overRate + 32 * b2n x.currentFault +
    64 * b2n x.indexError

/-- Edges worth keeping: the last two and those of the last 100 ms. -/
def keepEdges (mono : Nat) (l : List (Nat × Int)) : List (Nat × Int) :=
  l.take 2 ++ (l.drop 2).filter fun e => decide (mono < e.1 + 100000000)

/-- Level of a shaft input after a voltage in mV, or a current in µA for type 0x03; between the thresholds of Table 04-5 it stays (R108). -/
def shaftLevel (type v : Nat) (was : Bool) : Bool :=
  if type = 3 then decide (10500 < v)
  else if (if type = 1 then 2500 else 11000) ≤ v then true
  else if v ≤ (if type = 1 then 1000 else 5000) then false
  else was

/-- EdgeSelect counts a transition to the level `rise`: rising, falling or both (R109). -/
def edgeCounts (select : Nat) (rise : Bool) : Bool := select == 3 || (if rise then select == 1 else select == 2)

/-- A transition of one signal in quadrature with A leading: A has changed to a level other than Q's, or Q to A's (R111). -/
def leadsA (changedA a q : Bool) : Bool := if changedA then a != q else a == q

/-- A counted edge. -/
def Sh.count1 (x : Sh) (mono stamp : Nat) (d : Int) : Sh :=
  let fast := match x.edges with
    | e :: _ => if mono < e.1 + 18000 then x.fast + 1 else 0
    | [] => 0
  { x with count := x.count + d, lastStamp := stamp, edges := keepEdges mono ((mono, d) :: x.edges), fifo := x.fifo + 1,
           fresh := x.fresh + d, reverse := decide (d < 0), zero := false, counted := x.counted + 1, fast := fast,
           overflow := x.overflow || decide (64 < x.fifo + 1), overRate := x.overRate || decide (16 ≤ fast),
           condAt := if 64 < x.fifo + 1 ∨ 16 ≤ fast then mono else x.condAt }

/-- A quadrature transition of both signals within one MinPulse (R111). -/
def Sh.quadError (x : Sh) : Sh :=
  let e := (x.counted :: x.errs).take 8
  { x with quadErrors := inc32 x.quadErrors, errs := e,
           quadFault := x.quadFault || (decide (e.length = 8) && decide (x.counted ≤ e.getD 7 0 + 1000)) }

/-- R108–R111: the input, or its second input, crosses a threshold at `stamp`: mV, or µA for type 0x03, on both after the crossing, and how
long in ns the levels have held. A level that has not held for MinPulse is no edge. In quadrature every transition counts, with the sign of
the phase order; both signals within one MinPulse are an error. -/
def execShaftEdge (sh stamp : Nat) (lines : ShaftLines) (held : Nat) (s : State) : Out :=
  withUnit (decide (sh < 12))
    (let o := 0x4860 + sh
     let type := s.nat o 1
     if s.senses && type != 0 && decide (s.nat o 4 * 100 ≤ held) then
      let quad := s.flag o 5
      let old := s.shOf sh
      let ha := shaftLevel type lines.a old.high
      let hq := if quad then shaftLevel type lines.q old.highQ else old.highQ
      let at4 := tick stamp
      let y := { old with high := ha, highQ := hq }
      let x :=
        if quad then
          if ha != old.high && hq != old.highQ then y.quadError
          else if ha != old.high || hq != old.highQ then
            y.count1 (s.monoOf at4) at4 (if leadsA (ha != old.high) ha hq = Config.phaseForward then 1 else -1)
          else y
        else if ha != old.high && edgeCounts (s.nat o 3) ha then y.count1 (s.monoOf at4) at4 1
        else y
      let t := s.updShaft sh fun _ => x
      if shStatus { x with reverse := old.reverse } ≠ shStatus old then sensorRecord true (sh + 1) 0x0F (shStatus x) t else t
    else s)

/-- Contexts that waited for the first index edge of their angle source go on (06 R162). -/
def releaseIndex (sh : Nat) (s : State) : State :=
  s.updLoop fun l => { l with ctx := l.ctx.mapIdx fun n c =>
    if c.comp.waitIndex && s.nat (0x3400 + n) 1 == 0x21 + sh then { c with comp := { c.comp with waitIndex := false } } else c }

/-- R111: the edge that marks zero for input `sh`, whose IndexSource names the input it came on. -/
def execIndexEdge (sh _stamp : Nat) (s : State) : Out :=
  withUnit (decide (sh < 12))
    (let o := 0x4860 + sh
     let cpr := s.nat o 6
     if s.senses && s.nat o 1 != 0 && s.nat o 7 != 0xFF && cpr != 0 then
      let x := s.shOf sh
      let off := match x.indexAt with
        | some c => let m := ((x.count - c) % cpr).toNat; decide (2 < min m (cpr - m))
        | none => false
      let t := releaseIndex sh (s.updShaft sh fun x => { x with indexAt := some x.count, indexError := off })
      if off != x.indexError then sensorRecord off (sh + 1) 0x0F (shStatus (t.shOf sh)) t else t
     else s)

/-- R111: no edge has come for ZeroTimeout. -/
def execShaftZeroTimeout (sh : Nat) (s : State) : Out :=
  withUnit (decide (sh < 12))
    (let since := match (s.shOf sh).edges with | e :: _ => e.1 | [] => 0
     if s.senses && decide (since + s.nat (0x4860 + sh) 8 * 1000000 ≤ s.tm.mono) then s.updShaft sh fun x => { x with zero := true } else s)

/-- Table 04-10: QUAD_FAULT clears after 1,000 counts without error, the other shaft faults after 100 ms without their condition. -/
def Sh.clear (x : Sh) (mono : Nat) : Sh :=
  let calm := decide (x.condAt + 100000000 ≤ mono)
  let quad := x.quadFault && decide (x.counted < x.errs.headD 0 + 1000)
  { x with quadFault := quad, errs := if quad then x.errs else [], fast := if calm then 0 else x.fast,
           overRate := x.overRate && !calm, overflow := x.overflow && !calm, currentFault := x.currentFault && !calm }

/-- R119: a shaft fault clears when its condition has been absent long enough, with a record. -/
def execShaftFaultClearExpiry (sh : Nat) (s : State) : Out :=
  withUnit (decide (sh < 12))
    (let old := s.shOf sh
     if s.senses && old.bad then
      let x := old.clear s.tm.mono
      let t := s.updShaft sh fun _ => x
      if shStatus x ≠ shStatus old then sensorRecord false (sh + 1) 0x0F (shStatus x) t else t
    else s)

/-- Sum of the signs of edges. -/
def signSum (l : List (Nat × Int)) : Int := (l.map (·.2)).foldl (· + ·) 0

/-- Counts per second, Q16.16, over a list of edges, newest first: the counts after the first over the time they took. -/
def edgeRate (l : List (Nat × Int)) : Int :=
  match l, l.getLast? with
  | a :: _ :: _, some b => if a.1 ≤ b.1 then 0 else divRound (signSum l.dropLast * 65536000000000) (a.1 - b.1)
  | _, _ => 0

/-- ShaftRate (R111): over the edges closed in the last 1 ms, or the last two. -/
def shaftRate (s : State) (sh : Nat) : Int :=
  let x := s.shOf sh
  if x.zero then 0
  else
    let l := x.edges.filter fun e => decide (s.tm.mono < e.1 + 1000000) && decide (e.1 ≤ s.tm.mono)
    edgeRate (if 2 ≤ l.length then l else x.edges.take 2)

/-- The estimated part of a count since the last edge, in 1/65,536 and below one count (02 R46). -/
def estimate (s : State) (sh : Nat) : Int :=
  let x := s.shOf sh
  match x.edges with
  | a :: b :: _ =>
    if x.zero ∨ a.1 ≤ b.1 ∨ s.tm.mono ≤ a.1 then 0
    else min 65535 (((s.tm.mono - a.1) * 65536 / (a.1 - b.1) : Nat) : Int) * a.2
  | _ => 0

/-- Angle in 1/65,536 revolution (R111). -/
def shaftAngle (s : State) (sh : Nat) : Nat :=
  let cpr := s.nat (0x4860 + sh) 6
  let x := s.shOf sh
  if cpr = 0 then 0
  else ((((x.count - x.indexAt.getD 0) * 65536 + estimate s sh) % ((cpr : Int) * 65536)) / cpr).toNat

/-- Something that R107 names selects a shaft input: a station, the ground shaft, an index source or a loop input. -/
def State.shSelected (s : State) (sh : Nat) : Bool :=
  let c := sh + 1
  (List.range 10).any (fun k => s.nat (0x3800 + k) 1 == c) || s.nat 0x3810 8 == c ||
  (List.range 12).any (fun h => s.nat (0x4860 + h) 7 == c) ||
  s.ctxSelects c || (decide (sh < 2) && s.ctxSelects (0x21 + sh)) ||
  (List.range 128).any (fun n => (s.ctxAt n).enabled &&
    (s.nat (0x3400 + n) 1 == c || (decide (sh < 2) && s.nat (0x3400 + n) 1 == 0x21 + sh) || s.nat (0x3400 + n) 0x13 == c)) ||
  (List.range 48).any (fun f => s.nat (0x2800 + f) 8 == 3 && s.nat (0x2800 + f) 9 == c)

/-- Writes to 0x4860 + s (Table 04-6, R111). -/
def shWrite (w : Ctx) (i sub : Nat) (v : Val) (s : State) : Except Nat State :=
  checked w i sub v s fun s =>
    let h := i - 0x4860
    let x := valNum v
    if sub = 5 ∧ x = 1 ∧ 2 ≤ h then .error Abort.range
    else if sub = 7 ∧ x = h + 1 then .error Abort.range
    else if (sub = 1 ∨ sub = 3 ∨ sub = 5 ∨ sub = 6 ∨ sub = 7) ∧ !s.configurable ∧ s.shSelected h then .error Abort.state
    else .ok (s.put i sub v)

/-! ## The crop-flow chain (R112–R115) -/

/-- Frame mean of a crop-flow source (R103, R118), the last one in a frame without a sample (log 22); none when the source is not configured or
invalid. -/
def flowInput (s : State) (src : Nat) : Option Rat :=
  if 0x40 ≤ src ∧ src < 0x58 ∧ (s.aiOf (src - 0x40)).valid then (s.aiOf (src - 0x40)).mean else none

/-- The eight points of MassCurve: mV and g/s. -/
def massCurve (b : Bytes) : List (Int × Nat) := (List.range 8).map fun k => (fieldInt b (8 * k) 4, fieldLe b (8 * k + 4) 4)

/-- Linear interpolation through one segment. -/
def segment (a b : Int × Nat) (x : Rat) : Rat :=
  (a.2 : Rat) + (x - a.1) / ((b.1 : Rat) - a.1) * ((b.2 : Rat) - a.2)

/-- q0 of R113: 0 below the first point, extended from the last segment above. -/
def curveAt : List (Int × Nat) → Rat → Rat
  | a :: b :: t, x => if x < (a.1 : Rat) then 0 else if x < (b.1 : Rat) ∨ t = [] then segment a b x else curveAt (b :: t) x
  | _, _ => 0

/-- Roll and Pitch in 0.01° (Table 04-8). -/
def Imu.roll (m : Imu) : Int := ratRound (m.attitude.1 * 100)
def Imu.pitch (m : Imu) : Int := ratRound (m.attitude.2 * 100)

/-- VALID of the IMU (R117). -/
def Imu.valid (m : Imu) : Bool := m.delivered && !m.selfFail && !m.saturated && !m.stuck

/-- The mass flow of a frame in g/s (R113); none while unmeasured. -/
def massFlow (s : State) : Option Rat :=
  match flowInput s (s.nat 0x4880 2), s.raw 0x4880 3 with
  | some m, b =>
    if b = [] then none
    else
      let rate : Rat := ((s.stOf 5).speed : Rat) / 65536
      if rate ≤ 0 then some 0
      else
        let kv := clampQ (1 / 2) 2 ((s.nat 0x4880 4 : Rat) / 100 / rate)
        let pitch : Rat := (s.sens.imu.pitch : Rat) / 100
        let roll : Rat := (s.sens.imu.roll.natAbs : Rat) / 100
        let ks := if s.sens.imu.valid
          then clampQ (4 / 5) (6 / 5) (1 - (s.int 0x4880 5 : Rat) / 10000 * pitch - (s.int 0x4880 6 : Rat) / 10000 * roll) else 1
        some (curveAt (massCurve b) (m - s.sens.tare) * kv * ks * (s.nat 0x4880 7 : Rat) / 1000)
  | none, _ => none

/-- R114: the tare window is complete. Tare is learned, or refused beyond TareLimit of TareReference. DESIGN CHOICE (log 68): the mean is rounded to
the nearest mV, which R114 does not say. -/
def execTareLearn (s : State) : Out :=
  .next <| if s.senses && decide ((s.nat 0x4880 0xB : Int) * 65536 ≤ s.sens.tarePaddles) && decide (s.sens.tareN ≠ 0) then
    let m := s.sens.tareSum / s.sens.tareN
    let src := s.nat 0x4880 2
    let fits := decide ((m - s.int 0x4880 9).abs ≤ (s.nat 0x4880 0xA : Rat))
    let was := s.sens.tareRefused
    let t := s.updSens fun z => { z with tare := if fits then ratRound m else z.tare, tareRefused := !fits,
                                         tarePaddles := 0, tareSum := 0, tareN := 0 }
    if was != !fits then sensorRecord (!fits) src 0x0F (b2n (!fits) * 64) t else t
  else s

/-- Signal strictly ascending through the eight points. -/
def ascending : List (Int × Nat) → Bool
  | a :: b :: t => decide (a.1 < b.1) && ascending (b :: t)
  | _ => true

/-- Writes to 0x4880 (R102, Table 04-7). -/
def cropWrite (w : Ctx) (i sub : Nat) (v : Val) (s : State) : Except Nat State :=
  checked w i sub v s fun s =>
    if sub = 3 ∧ !ascending (massCurve (valRaw v)) then .error Abort.range
    else if (sub = 1 ∨ sub = 2 ∨ sub = 0xC) ∧ !s.configurable ∧ s.cutting then .error Abort.state
    else .ok (s.put i sub v)

/-! ## The IMU (R116, R117) -/

/-- Ground speed of Skylight below 0.1 km/h (28 mm/s). -/
def State.still (s : State) : Bool := s.sky.flags.testBit 0 && decide (s.sky.pose.speed.natAbs < 28)

/-- Sine and cosine of an angle in degrees; of 0 they are 0 and 1. -/
def sinD (x : Rat) : Rat := if x = 0 then 0 else Config.sinDeg x
def cosD (x : Rat) : Rat := if x = 0 then 1 else Config.cosDeg x

/-- Machine axes of a vector in housing axes, by MountRoll, MountPitch and MountYaw in degrees, turned about X, then Y, then Z (R116, log 19). -/
def mounted (r p y : Rat) (v : Rat × Rat × Rat) : Rat × Rat × Rat :=
  let a := (v.1, cosD r * v.2.1 - sinD r * v.2.2, sinD r * v.2.1 + cosD r * v.2.2)
  let b := (cosD p * a.1 + sinD p * a.2.2, a.2.1, cosD p * a.2.2 - sinD p * a.1)
  (cosD y * b.1 - sinD y * b.2.1, sinD y * b.1 + cosD y * b.2.1, b.2.2)

/-- A 16-bit sample of a range: its value in the range's unit, machine axes (R116). -/
def imuAxes (s : State) (range : Int) (x y z : Int) : List Int :=
  let q := fun (c : Int) => ((clampI (-32768) 32767 c * range : Int) : Rat) / 32768
  let v := mounted ((s.int 0x4890 1 : Rat) / 100) ((s.int 0x4890 2 : Rat) / 100) ((s.int 0x4890 3 : Rat) / 100) (q x, q y, q z)
  [ratRound v.1, ratRound v.2.1, ratRound v.2.2]

/-- Roll and pitch that the gravity vector shows, degrees: roll is positive with the right side down, pitch with the nose up (R116). -/
def gravityAngles (a : List Int) : Rat × Rat :=
  let down := if Config.restWithGravity then a else a.map (- ·)
  let gy := down.getD 1 0
  let gz := down.getD 2 0
  (Config.atanDeg gy gz, Config.atanDeg (-(down.getD 0 0)) (isqrt (gy * gy + gz * gz).toNat))

/-- The complementary filter over one millisecond, with the learned bias taken off the rates (R117; its discrete form is a choice, log 19). -/
def Imu.turn (m : Imu) (tau : Nat) (a r : List Int) : Rat × Rat :=
  let g := gravityAngles a
  if !m.delivered then g
  else
    let k : Rat := tau / (tau + 1)
    let step := fun (n : Nat) => ((r.getD n 0 : Rat) - m.bias.getD n 0) / 100000
    (k * (m.attitude.1 + step 0) + (1 - k) * g.1, k * (m.attitude.2 + step 1) + (1 - k) * g.2)

/-- One sample's validity checks: raw counts of the six axes, rates in machine axes. -/
def Imu.check (m : Imu) (raw r : List Int) (turning : Bool) : Imu :=
  let sat := raw.zipWith (fun c n => if c ≤ -32768 ∨ 32767 ≤ c then n + 1 else 0) m.satRun
  let limit := sat.any (0 < ·)
  let same := turning && m.delivered && decide (m.rate = r)
  let sm := if same then m.sameRun + 1 else 0
  let norm := if limit || same then 0 else m.normalRun + 1
  { m with satRun := sat, sameRun := sm, normalRun := norm, delivered := true,
           saturated := if 1000 ≤ norm then false else m.saturated || sat.any (100 ≤ ·)
           stuck := if 1000 ≤ norm then false else m.stuck || decide (1000 ≤ sm) }

/-- ImuStatus (Table 04-8). -/
def imuStatus (m : Imu) : Nat := b2n m.valid + 2 * b2n m.selfFail + 4 * b2n m.stuck + 8 * b2n m.saturated

/-- Object of station k. -/
abbrev stObj (k : Nat) : Nat := 0x3800 + k

/-- The shaft input that clocks a station, when it is configured. -/
def State.stShaft (s : State) (k : Nat) : Option Nat :=
  let c := s.nat (stObj k) 1
  if 1 ≤ c ∧ c ≤ 12 ∧ s.nat (0x4860 + (c - 1)) 1 ≠ 0 then some (c - 1) else none

/-- A station's shaft turns (R117). -/
def State.shaftTurns (s : State) : Bool := (List.range 10).any fun k => (s.stShaft k).isSome && (s.stOf k).speed != 0

/-- R116, R117: one sample on a whole millisecond: the 16-bit counts of the six axes in housing axes, and the gyro bias about X and Y that
standstill shows, in the unit of the rates. When it is learned is checked here; R117 does not say how, and the bias about Z, which no rule
uses, is a free value (log 19). -/
def execImuSample (stamp : Nat) (ax ay az rx ry rz biasX biasY : Int) (s : State) : Out :=
  .next <| if s.senses then
    let old := s.sens.imu
    let a := imuAxes s 8000 ax ay az
    let r := imuAxes s 25000 rx ry rz
    let m := old.check [ax, ay, az, rx, ry, rz] r s.shaftTurns
    let run := if s.still then old.stillRun + 1 else 0
    let z := s.freeInt
    let (b, s) := if 5000 ≤ run then ([(biasX : Rat), biasY, z.1], z.2) else (old.bias, s)
    let m := { m with accel := a, rate := r, attitude := old.turn (s.nat 0x4890 4) a r, stamp := stamp / 1000000 * 1000000, stillRun := run,
                      bias := b }
    let t := s.updSens fun z => { z with imu := m }
    let wasBad := old.selfFail || old.saturated || old.stuck
    let isBad := m.selfFail || m.saturated || m.stuck
    if wasBad != isBad then sensorRecord isBad 0x88 0x0F (imuStatus m) t else t
  else s

/-- R117: the self-test of Start. -/
def execImuSelfTest (pass : Bool) (s : State) : Out :=
  .next <| if s.pw.dev = .start then
    let was := s.sens.imu.selfFail
    let t := s.updSens fun z => { z with imu := { z.imu with selfFail := !pass } }
    if was != !pass then sensorRecord (!pass) 0x88 0x0F (imuStatus t.sens.imu) t else t
  else s

/-- Writes to 0x4890 (Table 04-8). -/
def imuWrite (w : Ctx) (i sub : Nat) (v : Val) (s : State) : Except Nat State := plainWrite w i sub v s

/-! ## One frame of sensing -/

/-- One frame of samples outside windows; at a whole millisecond NoiseRms is formed over the last 100 ms, and the trigger level with it
(R97, R101). DESIGN CHOICE (log 68): NoiseRms is rounded to the nearest 0.1 count, and holds while no sample is outside windows. -/
def lsFrame (s : State) (c : Nat) (l : List Int) (x : Ls) : Ls :=
  let x := { x with station := s.nat (0x4810 + c) 1, weight := s.nat (0x4810 + c) 2 }
  if s.tm.now % 1000000 ≠ 0 then
    { x with quiet := (x.quiet.1 + l.length, l.foldl (fun n v => n + v.natAbs * v.natAbs) x.quiet.2) }
  else
    let ms := (x.quiet :: x.quietMs).take 100
    let n : Nat := ms.foldl (fun n q => n + q.1) 0
    let sq : Nat := ms.foldl (fun n q => n + q.2) 0
    let x := { x with quietMs := ms, quiet := (l.length, l.foldl (fun n v => n + v.natAbs * v.natAbs) 0),
                      noise := if n = 0 then x.noise else sqrtRound ((100 * sq : Nat) / (n : Rat)) }
    let loud := decide ((s.int (0x4810 + c) 6 : Rat) < trigLevel s c x)
    if loud = x.loud then x else { x with loud := loud, loudAt := s.tm.mono }

/-- One frame of a two-wire shaft input: CURRENT_FAULT after 1 ms below 3.0 mA or above 25.0 mA (R108). -/
def shFrame (s : State) (h : Nat) (cur : Option Nat) (x : Sh) : Sh :=
  let x := { x with current := cur.getD x.current }
  if s.nat (0x4860 + h) 1 = 3 ∧ (x.current < 3000 ∨ 25000 < x.current) then
    { x with currentRun := x.currentRun + 1, condAt := s.tm.mono, currentFault := x.currentFault || decide (10 ≤ x.currentRun) }
  else { x with currentRun := 0 }

/-- The entry of an operand's list for a channel. -/
def givenFor {α : Type} (l : List (Nat × α)) (k : Nat) : Option α := (l.find? fun p => p.1 == k).map (·.2)

/-- RATE_LIMITED ends 1 s after the last excess (R99), with its record. -/
def limitExpiry (s : State) (c : Nat) : State :=
  match (s.lsOf c).limitedAt with
  | some t => if t + 1000000000 ≤ s.tm.mono then
      let s := s.updLs c fun y => { y with limitedAt := none }
      sensorRecord false (0x90 + c) 0x0A (lsStatus (s.lsOf c)) s
    else s
  | none => s

/-- The samples, noise measurements, sensor currents and the one-second expiry of RATE_LIMITED of one frame. -/
def senseFrame (x : FrameIn) (s : State) : State :=
  if !s.senses then s
  else
    let now := s.tm.now
    let old := s.sens.sh
    let s := s.updSens fun z =>
      { z with
        ai := z.ai.mapIdx fun a y =>
          if y.shuntOpen || s.nat (0x4840 + a) 1 == 0 then aiFrame s a now [] y
          else aiFrame s a now (samplesOf (samplesIn (s.nat (0x4840 + a) 2) now) ((givenFor x.ai a).getD []) y.raw) y
        ls := z.ls.mapIdx fun c y => lsFrame s c ((givenFor x.noise c).getD []) y
        sh := z.sh.mapIdx fun h y => shFrame s h (givenFor x.shaft h) y }
    let s := s.updSens fun z => { z with ai := z.ai.mapIdx fun a y => if y.valid then { y with lastValid := aiFrameValue s a } else y }
    let s := (List.range 12).foldl (fun s h =>
      if (s.shOf h).currentFault && !(old.getD h {}).currentFault then sensorRecord true (h + 1) 0x0F (shStatus (s.shOf h)) s else s) s
    (List.range 16).foldl limitExpiry s

/-! ## What the objects read -/

/-- Sum of ChannelWeight of the healthy (or all) channels of a station. -/
def weightOf (s : State) (st : Nat) (all : Bool) : Nat :=
  (s.sens.ls.filter fun x => x.station == st && (all || x.healthy)).foldl (fun n x => n + x.weight) 0

/-- A healthy channel serves a station (R100, R118). -/
def servedBy (s : State) (st : Nat) : Bool := s.sens.ls.any fun x => x.station == st && x.healthy

/-- FlowStatus (Table 04-7); CHAIN_ACTIVE while MassFlowSource is configured (log 20). -/
def flowStatus (s : State) : Nat :=
  let z := s.sens
  b2n (s.senses && s.nat 0x4880 2 != 0xFF) + 2 * b2n z.feedUnmeasured + 4 * b2n z.tailUnmeasured + 8 * b2n z.massUnmeasured +
    16 * b2n z.moistureInvalid + 32 * b2n z.slopeUncorrected + 64 * b2n z.tareRefused

/-- Values that 0x4800–0x4890 read. -/
def senseRead (s : State) (i sub : Nat) : Option Val :=
  if i = 0x4800 then match sub with
    | 1 => some (.int s.sens.supplyFault) | 2 => some (.int (weightOf s 3 false)) | 3 => some (.int (weightOf s 4 false)) | _ => none
  else if 0x4810 ≤ i ∧ i < 0x4820 then
    let x := s.lsOf (i - 0x4810)
    match sub with
    | 0xD => some (.int (lsStatus x)) | 0xE => some (.int x.grains) | 0xF => some (.int x.straws) | 0x10 => some (.int x.pileUps)
    | 0x11 => some (.int x.saturated) | 0x12 => some (.int x.rateLimited) | 0x13 => some (.int (min x.noise 0xFFFF))
    | 0x14 => some (.int x.cap)
    | 0x15 => some (.int ((x.recent.filter fun e => decide (s.tm.mono < e.1 + 1000000000)).foldl (fun n e => n + e.2) 0))
    | _ => none
  else if 0x4840 ≤ i ∧ i < 0x4858 then
    let x := s.aiOf (i - 0x4840)
    match sub with
    | 9 => some (.int x.raw) | 0xA => some (.int x.eng) | 0xB => some (.int (aiStatus s (i - 0x4840))) | 0xC => some (.int x.stamp)
    | _ => none
  else if 0x4860 ≤ i ∧ i < 0x486C then
    let x := s.shOf (i - 0x4860)
    match sub with
    | 9 => some (.int x.count) | 0xA => some (.int x.lastStamp) | 0xB => some (.int (shaftRate s (i - 0x4860)))
    | 0xC => some (.int (shaftAngle s (i - 0x4860))) | 0xD => some (.int (shStatus x)) | 0xE => some (.int x.quadErrors) | _ => none
  else if i = 0x4880 then match sub with
    | 8 => some (.int s.sens.tare) | 0xE => some (.int s.sens.massFlow.floor) | 0xF => some (.int (flowStatus s)) | _ => none
  else if i = 0x4890 then
    let m := s.sens.imu
    match sub with
    | 5 => some (.bytes (m.accel.flatMap (leInt 2))) | 6 => some (.bytes (m.rate.flatMap (leInt 2))) | 7 => some (.int m.roll)
    | 8 => some (.int m.pitch) | 9 => some (.int m.stamp) | 0xA => some (.int (imuStatus m)) | _ => none
  else none

end Sys2Proof.Machine
end

