-- ==== Sys2Proof/Machine/Passage.lean ====
section
/-! DEFINITION. The crop passage (chapter 02): station travel, slices and parcels, crossings, the tailings return, attribution of
measurements, and the station and passage configuration. Scheduled events are in Events. -/

namespace Sys2Proof.Machine

/-- Bits of ParcelFlags (Table 02-8). -/
abbrev pfValid : Nat := 0
abbrev pfProbe : Nat := 1
abbrev pfMassFinal : Nat := 4
abbrev pfLossFinal : Nat := 5
abbrev pfLate : Nat := 6
abbrev pfUnresolved : Nat := 7
abbrev pfHeld : Nat := 8
abbrev pfUncertain : Nat := 9
abbrev pfWheel : Nat := 10
abbrev pfShort : Nat := 11
abbrev pfMerged : Nat := 12
abbrev pfReversed : Nat := 13
abbrev pfCompressed : Nat := 14
abbrev pfSlug : Nat := 15

/-- Set a flag of a parcel. -/
def Parcel.flag (p : Parcel) (i : Nat) : Parcel := { p with flags := setBit p.flags i true }
def Parcel.has (p : Parcel) (i : Nat) : Bool := p.flags.testBit i

/-! ## Stations and their clocks (R39–R46, R56) -/

/-- SHAFT_FAULT (Table 02-3, Table 04-10). -/
def State.stFault (s : State) (k : Nat) : Bool := match s.stShaft k with | some h => (s.shOf h).bad | none => false

/-- NO_SOURCE (Table 02-3). -/
def State.stNoSource (s : State) (k : Nat) : Bool := if k = 0 then s.pctl.ground == 0 else (s.stShaft k).isNone

/-- A frozen station: stopped, with a faulted shaft, or without a source. -/
def State.stFrozen (s : State) (k : Nat) : Bool := (s.stOf k).stopped || s.stFault k || s.stNoSource k

/-- One frame of a station clocked by shaft h: `d` edges of `u` units were counted in it, and the edge rate is `rate` (R46, R56). -/
def shaftAdvance (s : State) (h u : Nat) (d rate : Int) (t : Station) : Station :=
  let x := s.shOf h
  let edge := t.edge + d * u
  let stopped := t.stopped && x.fifo == 0
  let back := if x.fifo = 0 then t.reversing else decide (d < 0)
  let est : Int := if stopped || back then 0 else (estimate s h).natAbs * u / 65536
  let travel := if d < 0 then edge else max t.travel (edge + est)
  { t with travel := travel, edge := edge, step := travel - t.travel, stopped := stopped, reversing := back,
           speed := if stopped then 0 else divRound (rate * u) 65536 }

/-- A station without a source, or with a faulted one, is frozen and does not reverse (Table 02-3). -/
def Station.freeze (t : Station) : Station := { t with step := 0, speed := 0, reversing := false }

/-- One frame of a station clocked by a shaft (R46, R56). -/
def stationTravel (s : State) (k : Nat) (t : Station) : Station :=
  match s.stShaft k with
  | none => t.freeze
  | some h =>
    let x := s.shOf h
    if x.bad then t.freeze
    else
      let mode := s.nat (stObj k) 0x19
      let back := mode == 2 && s.pinLevel (s.nat (stObj k) 0x1A)
      let d : Int := if mode = 1 then x.fresh else if back then -(x.fifo : Int) else x.fifo
      let l := x.edges.filter fun e => decide (s.tm.mono < e.1 + 100000000)
      let r := edgeRate (if 2 ≤ l.length then l else x.edges.take 2)
      shaftAdvance s h (s.nat (stObj k) 2) d (if mode = 1 then r else if back then -(r.natAbs : Int) else r.natAbs) t

/-- R57: no edge, and for S0 no ground travel, for StopTimeout. A stopped station does not reverse. -/
def execStationStopTimeout (k : Nat) (s : State) : Out :=
  withUnit (decide (k < 10))
    (if s.senses then s.updPas fun p => { p with stations := updAt p.stations k fun t => { t.freeze with stopped := true } } else s)

/-! ## Ground travel (R38, R58) -/

/-- Skylight has a position solution. -/
def State.skyGood (s : State) : Bool := s.sky.flags.testBit 0

/-- The ground shaft, when it is configured and healthy. -/
def State.groundShaft (s : State) : Option Nat :=
  let c := s.nat 0x3810 8
  if 1 ≤ c ∧ c ≤ 12 ∧ s.nat (0x4860 + (c - 1)) 1 ≠ 0 ∧ !(s.shOf (c - 1)).bad then some (c - 1) else none

/-- Counts of the ground shaft in this frame. -/
def State.groundCounts (s : State) : Int := match s.groundShaft with | some h => (s.shOf h).fresh | none => 0

/-- The switch of S0's source at a frame start (R39, R58). With 0x3800.01 at 0x00 S0 has no source, and with a shaft input it has that
input alone; the substitution by GroundShaft and by the carried speed is Skylight's. -/
def switchGround (s : State) (c : PasCtl) : PasCtl :=
  let src := s.nat 0x3800 1
  if src ≠ 0x20 then { c with ground := if (s.stShaft 0).isSome then 4 else 0, groundLost := false }
  else
    let c := if c.ground = 4 then { c with ground := 0 } else c
    if s.skyGood then
      if c.ground = 1 then { c with carriedSpeed := s.sky.pose.speed }
      else if s.cutting ∧ c.ground ≠ 0 then c
      else { c with ground := 1, groundLost := false, carriedSpeed := s.sky.pose.speed }
    else if c.ground = 1 ∨ (c.ground = 2 ∧ s.groundShaft.isNone) then
      if s.groundShaft.isSome ∧ c.wheelScale ≠ 0 then { c with ground := 2 } else { c with ground := 3 }
    else c

/-- Ground speed in mm/s: Skylight's, present or carried, else S0's ShaftSpeed. -/
def groundSpeed (s : State) : Int :=
  if s.pctl.ground = 1 then s.sky.pose.speed else if s.pctl.ground = 3 then s.pctl.carriedSpeed else (s.stOf 0).speed / 65536

/-- Travel of a speed in mm/s over one frame, Q16.16 mm, with the remainder that is carried. -/
def speedTravel (v rem : Int) : Int × Int := ((v * 65536 + rem) / 10000, (v * 65536 + rem) % 10000)

/-- S0 over one frame before the deficit is repaid, with the remainder that is carried: by its own shaft input, by GroundShaft at WheelScale
with the estimate of R46, or by the Skylight ground speed, present or carried (R39, R46, R58). -/
def groundAdvance (s : State) (c : PasCtl) (t : Station) : Station × Int :=
  if c.ground = 4 then (stationTravel s 0 t, c.groundRem)
  else if c.ground = 2 then
    match s.groundShaft with
    | some h => (shaftAdvance s h c.wheelScale s.groundCounts 0 t, c.groundRem)
    | none => (t.freeze, c.groundRem)
  else
    let r := speedTravel (if c.ground = 1 then s.sky.pose.speed else if c.ground = 3 then c.carriedSpeed else 0) c.groundRem
    ({ t with travel := t.travel + r.1, edge := t.travel + r.1, step := r.1, reversing := decide (r.1 < 0),
              stopped := t.stopped && r.1 == 0 }, r.2)

/-- WheelScale is learned over the last 200 m of forward travel, in segments of 1 m (R58). -/
def learnWheel (s : State) (c : PasCtl) (d : Int) : PasCtl :=
  if c.ground = 1 ∧ s.skyGood ∧ s.groundShaft.isSome ∧ 0 < d then
    let seg := (c.wheelOpen.1 + d, c.wheelOpen.2 + s.groundCounts.toNat)
    let (segs, seg) := if 65536000 ≤ seg.1 then ((seg :: c.wheelSegs).take 200, (0, 0)) else (c.wheelSegs, seg)
    let travel := c.wheelTravel + d
    let sum := segs.foldl (fun a x => (a.1 + x.1, a.2 + x.2)) seg
    { c with wheelSegs := segs, wheelOpen := seg, wheelTravel := travel,
             wheelScale := if 13107200000 ≤ travel ∧ sum.2 ≠ 0 then (sum.1 / sum.2).toNat else c.wheelScale }
  else c

/-- R58: the last speed has been carried for 2 s. -/
def execGroundSourceLossExpiry (s : State) : Out :=
  .next <| if s.pctl.ground = 3 ∧ !s.skyGood then s.updPctl fun c => { c with ground := 0, groundLost := true } else s

/-! ## Transit and kernel of a visit (R43–R45) -/

/-- TransitLo with its trim, TransitHi and KernelStep (R40, R68). -/
def transitLo (s : State) (k : Nat) : Int := divHalfUp (s.int (stObj k) 3 * (32768 + (s.stOf k).trim)) 32768
def transitHi (s : State) (k : Nat) : Int :=
  divHalfUp ((if (s.stOf k).hiSet then s.int (stObj k) 4 else s.int (stObj k) 3) * (32768 + (s.stOf k).trim)) 32768
def kernelStep (s : State) (k : Nat) : Int := if (s.stOf k).stepSet then s.int (stObj k) 7 else s.int (stObj k) 3 / 40

/-- Kernel taps of a station. -/
def kernelTaps (s : State) (k : Nat) : List Int := (rangeFrom 8 16).map fun j => s.int (stObj k) j

/-- The transit a parcel samples on entry, f in 0.01 kg/s (R43). -/
def sampleTransit (s : State) (k : Nat) (f : Rat) : Int :=
  let lo := transitLo s k
  if k = 0 ∨ k = 1 ∨ k = 7 ∨ k = 9 then lo
  else
    let a : Rat := s.nat (stObj k) 5
    let b : Rat := s.nat (stObj k) 6
    if f ≤ a then lo else if b ≤ f then transitHi s k
    else ratRound (lo + (f - a) / (b - a) * (transitHi s k - lo))

/-- A visit of station k beginning now. -/
def visitOf (s : State) (k : Nat) (f : Rat) (compressed : Bool) : Visit :=
  let st := kernelStep s k
  { station := k, transit := sampleTransit s k f, step := if compressed then st * s.nat (stObj k) 0x1B / 8 else st,
    taps := kernelTaps s k, compressed := compressed, cross := none }

/-- The visit of a station. -/
def Parcel.visit (p : Parcel) (k : Nat) : Option Visit := p.visits.find? fun v => v.station == k

/-- Position in a station's track. -/
def Parcel.posIn (p : Parcel) (k : Nat) : Int := if k = 8 then p.resPos else p.pos

/-- Exit offset of R44 from station k. -/
def exitOffset (st : List Station) (p : Parcel) (v : Visit) : Int :=
  match v.cross with
  | some c => (st.getD v.station {}).travel - c
  | none => p.posIn v.station - v.transit

/-- Tap weight at an exit offset. -/
def tapAt (v : Visit) (d : Int) : Int :=
  if v.step ≤ 0 then 0
  else
    let i := d / v.step + 8
    if 0 ≤ i ∧ i < 16 then v.taps.getD i.toNat 0 else 0

/-- Index of the first and one past the last nonzero tap. -/
def firstTap (t : List Int) : Int := ((t.findIdx? (· ≠ 0)).getD 0 : Nat)
def pastTap (t : List Int) : Int := ((t.length - (t.reverse.findIdx? (· ≠ 0)).getD 0 : Nat) : Int)

/-- Head and tail of a visit at its exit (R45). -/
def Visit.head (v : Visit) : Int := (firstTap v.taps - 8) * v.step
def Visit.tail (v : Visit) : Int := (pastTap v.taps - 8) * v.step

/-! ## Feed of a parcel (R55, 04 R118) -/

/-- Mean FeedRateS1 of the last 10 final parcels, 0.01 kg/s. -/
def meanFinal (l : List Rat) (n : Nat) : Rat :=
  let l := l.take n
  if l = [] then 0 else l.foldl (· + ·) 0 / l.length

/-- FeedRateS1 from the measured frames so far; with no measured share the mean of the last 10 final parcels. -/
def feedNow (finals : List Rat) (a : Attr) : Rat := if a.feedW = 0 then meanFinal finals 10 else a.feedSum / a.feedW

/-- Share of S1 feed in the tailings at S4 of one entry. -/
def tailShare (p : Parcel) : Rat := if p.attr.tailW = 0 ∨ p.feed = 0 then 0 else p.attr.tailSum / p.attr.tailW / p.feed

/-! ## Slices and parcels (R32–R38, R52) -/

/-- Cut-bar centre (R35): the antenna position carried to the frame start, moved along the heading. -/
def cutBar (s : State) : Int × Int :=
  let p := s.sky.pose
  let dt : Rat := ((s.tm.now - p.stamp : Nat) : Rat) / 1000000000
  let h : Rat := (p.heading : Rat) / 100
  let f : Rat := s.int 0x3810 0xE
  let l : Rat := s.int 0x3810 0xF
  Config.geoMove p.lat p.lon (p.velE * dt + Config.sinDeg h * f + Config.cosDeg h * l)
    (p.velN * dt + Config.cosDeg h * f - Config.sinDeg h * l)

/-- Width in use, mm (R36). -/
def widthInUse (s : State) : Nat := if s.nat 0x3810 6 = 1 then s.pas.sectionWidth else s.nat 0x3810 7

/-- Free entries of the ring (R51). -/
def freeEntries (p : Pas) : Nat := 2048 - p.ring.length

/-- Newest parcel of the ring: the last one of pass 1. -/
def newestOf (l : List Parcel) : Option Parcel := l.reverse.find? fun p => p.pass == 1

/-- The machine part of a crossing: parcel, pass, station entered, instant. -/
structure Crossing where
  num : Nat
  pass : Nat
  station : Nat
  time : Nat
  deriving DecidableEq, Repr

/-- What one frame of the Passage made happen, for Leads, events and the trace. -/
structure PasEv where
  crossings : List Crossing := []
  /-- parcels closed in this frame: number, and whether SHORT or MERGED -/
  closed : List (Nat × Bool) := []
  recs : List FlowEv := []
  deriving DecidableEq, Repr

/-- The Passage cuts in holdover, or from the ground shaft (R35). -/
def State.cutUncertain (s : State) : Bool := s.pctl.ground == 2 || s.sky.status == 2

/-- Flags of a parcel cut now: what held in any part of its slice (R34, R35, R37). -/
def cutFlags (s : State) (short : Bool) : Nat :=
  let f := setBit (setBit (setBit 0 pfValid true) pfShort short) pfWheel s.pas.sliceWheel
  setBit f pfUncertain s.pas.sliceUncertain

/-- The slice accumulator at 0, with nothing of a slice in progress. -/
def Pas.noSlice (p : Pas) : Pas := { p with acc := 0, sliceArea := 0, headSum := 0, headN := 0, sliceUncertain := false, sliceWheel := false }

/-- Probe block that a parcel number lies in (07 R181). -/
def probeOf (c : PasCtl) (num : Nat) : Option Nat :=
  (c.probes.find? fun p => !pbefore num p.2.2.1 && (match p.2.2.2 with | some last => !pbefore last num | none => true)).map (·.2.1)

/-- Close the slice in progress with length `len` mm. `carry` is the travel already made beyond it, whose area belongs to the next slice;
`ahead` is the travel of this frame that the stations have still to take (R33, R34, R37, R52). -/
def closeSlice (s : State) (len : Nat) (carry ahead : Int) (short : Bool) : State × PasEv :=
  let p := s.pas
  let (lat, lon) := cutBar s
  let past : Rat := (carry : Rat) * widthInUse s / 65536
  let more := decide (0 < carry)
  let next := { p.noSlice with acc := carry, sliceLen := s.nat 0x3810 1, sliceStart := s.tm.now, sliceLat := lat, sliceLon := lon,
                               sliceArea := past, sliceUncertain := more && s.cutUncertain, sliceWheel := more && s.pctl.ground == 2 }
  let back := s.skyGood && (s.pctl.ground == 2 || s.pctl.ground == 3)
  let ctl := { s.pctl with ground := if back then 1 else s.pctl.ground, groundLost := s.pctl.groundLost && !back,
                           carriedSpeed := if back then s.sky.pose.speed else s.pctl.carriedSpeed }
  if freeEntries p = 0 then
    match newestOf p.ring with
    | none => ({ s with pas := next }, {})
    | some q =>
      let q' := { (q.flag pfMerged) with cutEnd := s.tm.now, len := q.len + len, area := q.area + (p.sliceArea - past), endLat := lat,
                                         endLon := lon, heading := s.sky.pose.heading, fix := s.sky.fix }
      let q' := if p.sliceUncertain then q'.flag pfUncertain else q'
      let q' := if p.sliceWheel then q'.flag pfWheel else q'
      let long := decide ((10000 : Rat) < q'.len) && !q.merged10
      let q' := { q' with merged10 := q.merged10 || long }
      ({ s with pas := { next with ring := p.ring.map fun x => if x.num = q.num ∧ x.pass = 1 then q' else x },
                pctl := { ctl with merging := true } },
       { closed := [(q.num, true)], recs := if long then [⟨0x3003, 0, 0x05, [], [], q.num, 0⟩] else [] })
  else
    let n := p.nextParcel
    let pr := probeOf ctl n
    let q : Parcel :=
      { num := n, cutStart := p.sliceStart, cutEnd := s.tm.now, len := len, area := p.sliceArea - past, startLat := p.sliceLat,
        startLon := p.sliceLon, endLat := lat, endLon := lon, heading := s.sky.pose.heading, fix := s.sky.fix,
        flags := setBit (cutFlags s short) pfProbe pr.isSome, main := 0,
        pos := (len : Int) * 32768 + carry - ahead, visits := [visitOf s 0 0 false],
        header := if p.headN = 0 then none else some (p.headSum / p.headN), probeRef := pr.getD 0 }
    let dead := s.lead.ahead.find? fun e => e.1 == n
    let q := match dead with | some e => { q with leadState := 2, leadRef := e.2 } | none => q
    let mid : Rat := ((s.stOf 0).travel - carry : Int) / 65536 - (len : Rat) / 2
    ({ s with pas := { next with ring := p.ring ++ [q], nextParcel := (n + 1) % 2 ^ 32, heads := ((mid, q.header) :: p.heads).take 100 },
              lead := { s.lead with ahead := s.lead.ahead.filter fun e => e.1 != n,
                                    sinceSuspend := if s.lead.suspended then s.lead.sinceSuspend + 1 else s.lead.sinceSuspend },
              pctl := { ctl with merging := false, trimCount := ctl.trimCount + 1 } },
     { closed := [(n, short)] })

/-- Two parts of what one frame made happen, in order. -/
def PasEv.and (a b : PasEv) : PasEv := ⟨a.crossings ++ b.crossings, a.closed ++ b.closed, a.recs ++ b.recs⟩

/-- Close every slice that the accumulator has reached, with the first number as a bound (R33). -/
def closeSlices (ahead : Int) : Nat → State × PasEv → State × PasEv
  | 0, x => x
  | n + 1, x =>
    if (x.1.pas.sliceLen : Int) * 65536 ≤ x.1.pas.acc then
      let r := closeSlice x.1 x.1.pas.sliceLen (x.1.pas.acc - x.1.pas.sliceLen * 65536) ahead false
      closeSlices ahead n (r.1, x.2.and r.2)
    else x

/-- The forward travel of S0 in a frame after the deficit has been repaid, and the deficit left (R38). -/
def repay (deficit d : Int) : Int × Int :=
  if d < 0 then (0, deficit - d) else if d ≤ deficit then (0, deficit - d) else (d - deficit, 0)

/-- S0 travel in one frame (R38, R39, R46, R58); ShaftSpeed is the mean of the last 100 ms (Table 02-2). -/
def groundStep (s : State) : State :=
  let c := switchGround s s.pctl
  let a := groundAdvance s c (s.stOf 0)
  let d := a.1.travel - (s.stOf 0).travel
  let c := learnWheel s { c with groundRem := a.2, speedLog := (d :: c.speedLog).take 1000 } d
  let (share, deficit) := repay s.pas.deficit d
  let st := updAt s.pas.stations 0 fun _ => { a.1 with step := share, speed := c.speedLog.foldl (· + ·) 0 * 10 }
  { s with pas := { s.pas with stations := st, deficit := deficit }, pctl := c }

/-- S0 travel, slice accumulation and the closing of slices in one frame. A parcel cut in it takes the frame's travel with the others. -/
def groundFrame (s : State) : State × PasEv :=
  let s := groundStep s
  let share := (s.stOf 0).step
  if s.cutting && decide (0 < share) then
    let p := s.pas
    let p := if p.acc = 0 ∧ p.sliceArea = 0 then
        let b := cutBar s
        { p with sliceStart := s.tm.now - 100000, sliceLat := b.1, sliceLon := b.2, sliceLen := s.nat 0x3810 1 }
      else p
    let h := flowInput s (s.nat 0x38A0 7)
    let p := { p with acc := p.acc + share, sliceArea := p.sliceArea + (share : Rat) * widthInUse s / 65536,
                      headSum := p.headSum + h.getD 0, headN := if h.isSome then p.headN + 1 else p.headN,
                      sliceUncertain := p.sliceUncertain || s.cutUncertain, sliceWheel := p.sliceWheel || s.pctl.ground == 2 }
    closeSlices share ((share / 6553600).toNat + 2) ({ s with pas := p }, {})
  else (s, {})

/-! ## Crossings (R43, R47, R50, R56, R57) -/

/-- Place of a station on the main track. -/
def mainRank (m : Nat) : Nat := if m = 0xFF then 100 else m

/-- Whether an entry has left station k. -/
def hasLeft (q : Parcel) (k : Nat) : Bool := if k = 8 then q.residue == 2 else decide (k < mainRank q.main) && q.main != 9

/-- The predecessor test of R47 against the ring. -/
def predLeft (ring : List Parcel) (p : Parcel) (k : Nat) : Bool :=
  if p.pass ≠ 1 ∧ (k = 9 ∨ (2 ≤ k ∧ k ≤ 4)) then true
  else match (ring.filter fun q => q.pass == 1 && pbefore q.num p.num).getLast? with
    | some q => hasLeft q k
    | none => true

/-- Entries in station k. -/
def inStation (ring : List Parcel) (k : Nat) : List Parcel := ring.filter fun q => if k = 8 then q.residue == 1 else q.main == k

/-- ENTRY_BLOCKED (R56). -/
def entryBlocked (st : List Station) (ring : List Parcel) (k : Nat) : Bool :=
  (st.getD k {}).reversing || (inStation ring k).any fun q => decide (q.posIn k < 0)

/-- Station after k on the main track (R47, R48). -/
def successor (k : Nat) : Nat := if k = 9 then 2 else if k = 6 then 7 else k + 1

/-- Update the visit of a station with its crossing. -/
def Parcel.setCross (p : Parcel) (k : Nat) (c : Int) (at_ : Nat) : Parcel :=
  { p with visits := p.visits.map (fun (v : Visit) => if v.station = k then { v with cross := some c, crossAt := at_ } else v) }

/-- Enter station n with the position that its travel since the crossing gives. -/
def enterStation (s : State) (p : Parcel) (n : Nat) (pos : Int) : Parcel :=
  let z := s.stFrozen n
  let p := if z then p.flag pfCompressed else p
  let p := { p with visits := (p.visits.filter fun (v : Visit) => v.station != n) ++ [visitOf s n p.feed z] }
  if n = 8 then { p with residue := 1, resPos := pos } else { p with main := n, pos := pos }

/-- The tailings of an entry at its S4 exit: the sub-parcel it sends back, or the unresolved share, with TAILINGS_UNRESOLVED at pass 3 (R48,
R49). DESIGN CHOICE (log 64): with no free entry for it no sub-parcel is created, and its share joins the unresolved figure. -/
def tailings (s : State) (p : Parcel) (room : Bool) (pos : Int) : Option Parcel × Rat × Bool :=
  let share := tailShare p
  if p.pass < 3 ∧ 1 / 256 ≤ share ∧ room then
    (some (enterStation s { num := p.num, pass := p.pass + 1, cutStart := p.cutStart, cutEnd := p.cutEnd, flags := 1, main := 9,
                            feed := p.feed, feedFinal := p.feedFinal } 9 pos), 0, false)
  else (none, share, p.pass == 3)

/-- The result of one entry's pass through a station in one frame: the entry, the sub-parcel it sent back, the share left unresolved for its
parcel and whether that sets TAILINGS_UNRESOLVED, its crossings in order. -/
structure Moved where
  p : Parcel
  sub : Option Parcel := none
  lost : Rat := 0
  open3 : Bool := false
  crossed : List Crossing := []
  deriving DecidableEq, Repr

/-- Shaft and units per edge by which a station travels, if it travels by edges. -/
def clockOf (s : State) (k : Nat) : Option (Nat × Nat) :=
  if k = 0 then
    if s.pctl.ground = 4 then (s.stShaft 0).map (·, s.nat (stObj 0) 2)
    else if s.pctl.ground = 2 then s.groundShaft.map (·, s.pctl.wheelScale) else none
  else (s.stShaft k).map (·, s.nat (stObj k) 2)

/-- MonotonicNs at which the travel by edges reached x: `e` is the travel at the newest edge listed; between two stamps it is
interpolated (R47). -/
def edgeInstant (u x : Int) : Int → List (Nat × Int) → Option Nat
  | e, a :: b :: t =>
    let e0 := e - a.2 * u
    if e0 < e ∧ e0 ≤ x ∧ x ≤ e then some (a.1 - ((e - x) * ((a.1 - b.1 : Nat) : Int) / (e - e0)).toNat) else edgeInstant u x e0 (b :: t)
  | _, _ => none

/-- How long before the frame start, at most one frame, station k had travelled all but `past` units, ns (R47): between edge stamps, from the
last of them to the frame start along the estimate, and for ground travel from Skylight along the frame. -/
def crossAge (s : State) (k : Nat) (past : Int) : Nat :=
  let t := s.stOf k
  let line : Nat := if t.step ≤ 0 then 0 else (100000 * past / t.step).toNat
  let age := match clockOf s k with
    | none => line
    | some (h, u) =>
      let x := t.travel - past
      match (s.shOf h).edges with
      | [] => line
      | a :: _ =>
        if t.edge ≤ x then
          if t.travel ≤ t.edge then line else ((t.travel - x) * ((s.tm.mono - a.1 : Nat) : Int) / (t.travel - t.edge)).toNat
        else match edgeInstant u x t.edge (s.shOf h).edges with
          | some m => s.tm.mono - m
          | none => line
  min age 100000

/-- Travel of station n since an instant of this frame, `age` ns before its end. -/
def travelSince (s : State) (n age : Nat) : Int := (s.stOf n).step * age / 100000

/-- Cross out of station k with `past` of travel beyond the transit (R47, R50). A stay in S7 ends at once. -/
def crossOut (s : State) (p : Parcel) (k : Nat) (past : Int) (room : Bool) : Moved :=
  let age := crossAge s k past
  let time := s.tm.now - age
  let p := p.setCross k ((s.stOf k).travel - past) time
  if k = 8 then { p := { (p.flag pfLossFinal) with residue := 2 } }
  else if k = 6 then { p := { p with main := 0xFF, pos := 0 }, crossed := [⟨p.num, p.pass, 7, time⟩] }
  else if k = 4 then
    let (sub, lost, open3) := tailings s p room (travelSince s 9 age)
    { p := enterStation s (enterStation s p 5 (travelSince s 5 age)) 8 (travelSince s 8 age), sub := sub, lost := lost, open3 := open3,
      crossed := [⟨p.num, p.pass, 5, time⟩] }
  else { p := enterStation s p (successor k) (travelSince s (successor k) age), crossed := [⟨p.num, p.pass, successor k, time⟩] }

/-- A parcel at its transit may cross: its predecessor has crossed and the stations it enters take it (R47, R56). -/
def nextOpen (s : State) (ring : List Parcel) (k : Nat) : Bool :=
  k = 8 || k = 6 || (!entryBlocked s.pas.stations ring (successor k) && !(k == 4 && entryBlocked s.pas.stations ring 8))

/-- The stay of an entry in a station at a position. -/
def Parcel.stay (p : Parcel) (k : Nat) (x : Int) : Parcel := if k = 8 then { p with resPos := x } else { p with pos := x }

/-- The transit of an entry in station k. -/
def Parcel.transit (p : Parcel) (k : Nat) : Int := ((p.visit k).map (·.transit)).getD 0

/-- The crossings of one entry from station k on, standing at `pos` there, with the first number as a bound on their number (the loop of
R47); a track ends at most five stations on. -/
def crossOn (s : State) (ring : List Parcel) (room : Bool) : Nat → Nat → Int → Moved → Moved
  | 0, _, _, m => m
  | n + 1, k, pos, m =>
    let tr := m.p.transit k
    if pos < tr then { m with p := m.p.stay k pos }
    else if !predLeft ring m.p k then { m with p := (m.p.flag pfHeld).stay k tr }
    else if !nextOpen s ring k then { m with p := m.p.stay k tr }
    else
      let r := crossOut s (m.p.stay k pos) k (pos - tr) room
      let m := { r with sub := r.sub.orElse fun _ => m.sub, lost := m.lost + r.lost, open3 := m.open3 || r.open3,
                        crossed := m.crossed ++ r.crossed }
      if k = 8 ∨ k = 6 then m
      else
        let m := crossOn s ring room n (successor k) m.p.pos m
        if k = 4 then crossOn s ring room n 8 m.p.resPos m else m

/-- One entry in station k in this frame (R47, R56). -/
def moveEntry (s : State) (ring : List Parcel) (k : Nat) (room : Bool) (p : Parcel) : Moved :=
  let step := (s.stOf k).step
  let pos := p.posIn k + step
  let eject : Int := -((s.nat 0x3810 0xD : Int) * 65536)
  if k = 1 ∧ pos ≤ eject ∧ step < 0 then { p := (p.flag pfReversed).stay k eject } else crossOn s ring room 10 k pos { p := p }

/-- Update of one entry. -/
def putEntry (ring : List Parcel) (p : Parcel) : List Parcel :=
  ring.map fun q => if q.num = p.num ∧ q.pass = p.pass then p else q

/-- The unresolved tailings of an entry belong to its parcel; a sub-parcel that leaves S8 after the parcel's loss report brings an addendum
(R49, R55). -/
def settleMove (ring : List Parcel) (old : Parcel) (m : Moved) : List Parcel :=
  let ring := putEntry ring m.p ++ m.sub.toList
  let late := m.p.pass != 1 && old.residue != 2 && m.p.residue == 2
  if m.lost = 0 ∧ !m.open3 ∧ !late then ring
  else ring.map fun q =>
    if q.num = m.p.num ∧ q.pass = 1 then
      let q := { q with tailUnresolved := q.tailUnresolved + m.lost, addendum := q.addendum || (late && q.has pfLossFinal) }
      if m.open3 then q.flag pfUnresolved else q
    else q

/-- The pass of one station over the entries standing in it, in order. -/
def passStation (s : State) (k : Nat) (todo : List Parcel) (acc : List Parcel × List Crossing) : List Parcel × List Crossing :=
  match todo with
  | [] => acc
  | p :: t =>
    let m := moveEntry s acc.1 k (decide (acc.1.length < 2048)) p
    passStation s k t (settleMove acc.1 p m, acc.2 ++ m.crossed)

/-- All stations, downstream first (R47). Entries that stand on T now are the ones T moves. -/
def advance (s : State) : State × List Crossing :=
  let onT := (inStation s.pas.ring 9).map fun p => (p.num, p.pass)
  let r := [8, 6, 5, 4, 3, 2, 9, 1, 0].foldl (fun acc k =>
    let here := (inStation acc.1 k).filter fun p => k != 9 || onT.contains (p.num, p.pass)
    passStation s k here acc) (s.pas.ring, [])
  ({ s with pas := { s.pas with ring := r.1 } }, r.2)

/-! ## Attribution (R55; 04 R100, R103, R113–R118) -/

/-- Weights of the entries at the exit of station k. -/
def tapsAt (p : Pas) (k : Nat) : List (Nat × Nat × Int) :=
  p.ring.filterMap fun q => match q.visit k with
    | some v => let w := tapAt v (exitOffset p.stations q v); if 0 < w then some (q.num, q.pass, w) else none
    | none => none

/-- Offset of a parcel from FeedMeasurePos in S1, and its visit. -/
def feedOffset (s : State) (q : Parcel) : Option (Visit × Int) :=
  (q.visit 1).map fun v => (v, exitOffset s.pas.stations q v + v.transit - divHalfUp (v.transit * s.int 0x3810 0xB) 32768)

/-- Weights of the parcels at FeedMeasurePos. -/
def feedTaps (s : State) : List (Nat × Nat × Int) :=
  s.pas.ring.filterMap fun q => match feedOffset s q with
    | some (v, d) => let w := tapAt v d; if 0 < w ∧ q.pass = 1 then some (q.num, q.pass, w) else none
    | none => none

/-- The weights of this frame. -/
def frameTaps (s : State) : Taps :=
  ⟨s.tm.now, tapsAt s.pas 3, tapsAt s.pas 4, tapsAt s.pas 6, feedTaps s, weightOf s 3 false, weightOf s 3 true, weightOf s 4 false,
   weightOf s 4 true, servedBy s 3, servedBy s 4⟩

/-- Total weight. -/
def tapSum (l : List (Nat × Nat × Int)) : Int := l.foldl (fun a x => a + x.2.2) 0

/-- Apply to the attribution of the named entries, with the pass, the weight and the share of each (R55); sub-parcels' shares go to their
parcel when `up` is set. -/
def spread (ring : List Parcel) (l : List (Nat × Nat × Int)) (up : Bool) (f : Nat → Rat → Rat → Attr → Attr) : List Parcel :=
  let total : Rat := tapSum l
  l.foldl (fun ring e => ring.map fun q =>
    if q.num = e.1 ∧ q.pass = (if up then 1 else e.2.1) then { q with attr := f e.2.1 e.2.2 ((e.2.2 : Rat) / total) q.attr } else q) ring

/-- Count a frame's weight as seen, and as unmeasured, for quantity j (04 R118). -/
def Attr.see (a : Attr) (j : Nat) (w : Rat) (missing : Bool) : Attr :=
  { a with seen := updAt a.seen j (· + w), lost := if missing then updAt a.lost j (· + w) else a.lost }

/-- Losses of a pass added to the parcel's totals, which keep their pass count (R48). -/
def Attr.loseSep (a : Attr) (pass : Nat) (q : Rat) : Attr := { a with sep := a.sep + q, sepBy := updAt a.sepBy (pass - 1) (· + q) }
def Attr.loseShoe (a : Attr) (pass : Nat) (q : Rat) : Attr := { a with shoe := a.shoe + q, shoeBy := updAt a.shoeBy (pass - 1) (· + q) }

/-- Impacts of closed windows, attributed with the weights of the frame they opened in (04 R100, R103). A frame in which no healthy channel
serves the station attributes nothing (04 R118). DESIGN CHOICE (log 64): neither does one in which every healthy channel has ChannelWeight 0,
where R100 divides by 0. -/
def attributeImpact (p : Pas) (e : Nat × Nat × Nat) : Pas :=
  match (p.taps.find? fun t => t.start == e.2.1).orElse fun _ => p.taps.getLast? with
  | none => if e.1 = 3 then { p with unattSep := p.unattSep + e.2.2 } else { p with unattShoe := p.unattShoe + e.2.2 }
  | some t =>
    let l := if e.1 = 3 then t.s3 else t.s4
    let h := if e.1 = 3 then t.healthy3 else t.healthy4
    let n := if e.1 = 3 then t.total3 else t.total4
    if h = 0 then p
    else
      let q : Rat := (e.2.2 : Rat) * n / h
      if l = [] then (if e.1 = 3 then { p with unattSep := p.unattSep + q } else { p with unattShoe := p.unattShoe + q })
      else { p with ring := spread p.ring l true fun pass _ sh a =>
        if e.1 = 3 then a.loseSep pass (q * sh) else a.loseShoe pass (q * sh) }

/-- The window openings of the frame before this one are attributed by its weights, which still stand in `pas.taps`. -/
def attributeImpacts (s : State) : State :=
  { s with pas := s.sens.impacts.foldl attributeImpact s.pas, sens := { s.sens with impacts := [] } }

/-- The moisture readings due now and the queue left (04 R115). -/
def moistureDue (s : State) : List Rat × List (Int × Rat) :=
  let t := (s.stOf 5).travel
  let lag : Int := (s.nat 0x4880 0xD * 65536 / 10 : Nat)
  let q := match flowInput s (s.nat 0x4880 0xC) with
    | some m => if 500 ≤ m ∧ m ≤ 4000 then s.sens.moistQueue ++ [(t + lag, m)] else s.sens.moistQueue
    | none => s.sens.moistQueue
  ((q.filter fun e => decide (e.1 ≤ t)).map (·.2), q.filter fun e => decide (t < e.1))

/-- The analogue quantities of this frame (R55; 04 R112–R118). -/
def attributeFlows (s : State) : State :=
  let t := frameTaps s
  let feed := flowInput s (s.nat 0x3810 0xA)
  let tail := flowInput s (s.nat 0x4880 1)
  let mass := massFlow s
  let (due, queue) := moistureDue s
  let badM := match flowInput s (s.nat 0x4880 0xC) with | some m => !(decide (500 ≤ m) && decide (m ≤ 4000)) | none => true
  let sg : Rat := if (s.stOf 1).reversing then -1 else 1
  let p := s.pas
  let r := spread p.ring t.s3 true fun _ w _ a => a.see 0 w !t.any3
  let r := spread r t.s4 true fun _ w _ a => a.see 1 w !t.any4
  let r := spread r t.s4 false fun _ w sh a =>
    let a := a.see 2 w tail.isNone
    match tail with | some q => { a with tailSum := a.tailSum + q * sh, tailW := a.tailW + sh } | none => a
  let r := spread r t.s1 false fun _ w sh a =>
    let a := a.see 4 w feed.isNone
    match feed with | some q => { a with feedSum := a.feedSum + sg * q * sh, feedW := a.feedW + sg * sh } | none => a
  let g := (mass.getD 0) / 10000
  let r := spread r t.s6 true fun _ w sh a =>
    let a := (a.see 3 w mass.isNone).see 5 w badM
    let a := { a with mass := a.mass + g * sh }
    due.foldl (fun a m => { a with moistSum := a.moistSum + m * g * sh, moistMass := a.moistMass + g * sh }) a
  { s with
    pas := { p with ring := r, taps := (t :: p.taps).take 4,
                    unattMass := if t.s6 = [] then p.unattMass + g else p.unattMass }
    sens := { s.sens with
      massFlow := mass.getD 0, massUnmeasured := mass.isNone, tailUnmeasured := tail.isNone, feedUnmeasured := feed.isNone,
      moistureInvalid := badM, moistQueue := queue,
      slopeUncorrected := !s.sens.imu.valid } }

/-- The tare window (04 R114): its conditions hold, or it starts again. -/
def tareFrame (s : State) : State :=
  let t := s.stOf 5
  let free := !s.pas.ring.any fun q => q.main == 5 || q.main == 6
  let fast := decide ((s.nat 0x4880 4 : Int) * 65536 ≤ 200 * t.speed)
  match flowInput s (s.nat 0x4880 2) with
  | some m =>
    if free && fast then s.updSens fun z => { z with tarePaddles := z.tarePaddles + t.step, tareSum := z.tareSum + m, tareN := z.tareN + 1 }
    else s.updSens fun z => { z with tarePaddles := 0, tareSum := 0, tareN := 0 }
  | none => s.updSens fun z => { z with tarePaddles := 0, tareSum := 0, tareN := 0 }

/-- The main track's tail has passed S6 (R55). -/
def massOut (st : List Station) (q : Parcel) : Bool :=
  match q.visit 6 with
  | some v => v.cross.isSome && decide (v.tail ≤ exitOffset st q v)
  | none => false

/-- FeedRateS1 becomes final when the parcel's tail passes FeedMeasurePos (R55); SLUG (R59); the mass of an entry is final, and a parcel's
mass report released, when the main track's tail has passed S6. DESIGN CHOICE (log 64): a parcel with fewer than 20 final parcels before it
never carries SLUG. -/
def settle (s : State) : State × List Nat :=
  s.pas.ring.foldl (fun (acc : State × List Nat) q =>
    let s := acc.1
    let out := massOut s.pas.stations q
    if q.pass ≠ 1 then
      if out && !q.has pfMassFinal then ({ s with pas := { s.pas with ring := putEntry s.pas.ring (q.flag pfMassFinal) } }, acc.2) else acc
    else
      let done := match feedOffset s q with | some (v, d) => !q.feedFinal && decide (v.tail ≤ d) | none => false
      let f := feedNow s.pas.finals q.attr
      let q1 := if q.feedFinal then q else { q with feed := f, feedFinal := done }
      let slug := done && decide (20 ≤ s.pas.finals.length) &&
        decide ((s.nat 0x3810 0xC : Rat) / 10 * meanFinal s.pas.finals 20 < f)
      let q1 := if slug then q1.flag pfSlug else q1
      let q1 := if out then q1.flag pfMassFinal else q1
      if q1 = q then acc
      else
        ({ s with pas := { s.pas with ring := putEntry s.pas.ring q1,
                                      finals := if done then (f :: s.pas.finals).take 20 else s.pas.finals } },
         if done then acc.2 ++ [q.num] else acc.2)) (s, [])

/-- Whether an entry is freed (R51): it has left S6 and S8 and its mass is final; of a parcel also, no sub-parcel is outstanding and the
Gallery has taken both reports and every addendum. -/
def freed (ring : List Parcel) (q : Parcel) : Bool :=
  q.main == 0xFF && q.residue == 2 && q.has pfMassFinal &&
    (q.pass != 1 || (q.has pfLossFinal && q.lossTaken && q.massTaken && !q.addendum && !ring.any fun r => r.num == q.num && r.pass != 1))

/-- The ring without the entries that are freed; a parcel keeps the tailings share of its sub-parcels (Table 02-7). -/
def freeRing (ring : List Parcel) : List Parcel :=
  let gone := ring.filter fun q => q.pass != 1 && freed ring q
  (ring.filter fun q => !freed ring q).map fun q =>
    if q.pass = 1 then { q with tailPast := ((gone.filter fun r => r.num == q.num).map tailShare).foldl (· + ·) q.tailPast } else q

/-- Entries are freed, and merging ends when one is free again (R51, R52). -/
def freeEntriesNow (s : State) : State :=
  let ring := freeRing s.pas.ring
  { s with pas := { s.pas with ring := ring }, pctl := { s.pctl with merging := s.pctl.merging && decide (2048 ≤ ring.length) } }

/-! ## Passage reset (R69) -/

/-- Events lost before their crossing: their record carries a free arrival error. -/
def recordLost (s : State) : State :=
  s.pctl.watch.foldl (fun s w =>
    let (e, s) := s.freeInt
    s.record ⟨0x3002, w.1.function, 0x05, leInt 4 e ++ leBytes 4 w.1.id, [], w.1.parcel, w.1.station⟩) s

/-- Discard every queued event and add them to DiscardedEvents. -/
def discardEvents (s : State) : State :=
  (recordLost s).updPctl fun c =>
    { c with discarded := add32 c.discarded c.events.length, events := [], watch := [], probeWait := [],
             probes := c.probes.map fun p => (p.1, p.2.1, p.2.2.1, some (p.2.2.2.getD ((s.pas.nextParcel + 2 ^ 32 - 1) % 2 ^ 32))) }

/-- A reset begins: cutting stops, the queue is discarded, both rings are emptied (R69). `by_` is the requesting session. -/
def beginReset (by_ : Option Nat) (s : State) : State :=
  let s := emptyLeads 6 (discardEvents (s.optVoid 0x13))
  let first := (s.pas.ring.head?.map (·.num)).getD s.pas.nextParcel
  { s with
    pas := { s.pas.noSlice with ring := [], taps := [], lost := if s.pas.ring = [] then s.pas.lost else (first, s.pas.nextParcel) :: s.pas.lost }
    pctl := { s.pctl with resetActive := true, resetFrame := s.tm.frame, resetSess := by_, resetCount := inc32 s.pctl.resetCount,
                          merging := false }
    opt := { s.opt with settleAt := s.pas.nextParcel } }

/-- The Passage resets itself because two entries are out of order, and records it (R69). -/
def selfReset (a b : Nat) (s : State) : State :=
  (beginReset none s).record ⟨0x3001, 0, 0x05, leBytes 4 a ++ leBytes 4 b, [], 0xFFFFFFFF, 0xF⟩

/-- The order check: the first two neighbours of the ring of which the later parcel stands farther on, on either track. -/
def orderBroken : List Parcel → Option (Nat × Nat)
  | p :: q :: t =>
    if mainRank p.main < mainRank q.main ∨ p.residue < q.residue ∨ !pbefore p.num q.num then some (p.num, q.num)
    else orderBroken (q :: t)
  | _ => none

/-- The check of one frame. -/
def orderCheck (s : State) : State :=
  match orderBroken (s.pas.ring.filter fun p => p.pass == 1) with
  | some (a, b) => selfReset a b s
  | none => s

/-- R69: the reset that the order check triggers, with the numbers found out of order, or the one of entry to Start. -/
def execPassageReset (outOfOrder : Option (Nat × Nat)) (s : State) : Out :=
  .next <| if s.reachable then
    match outOfOrder with
    | some (a, b) => selfReset a b s
    | none => beginReset none s
  else s

/-- The reset completes at the end of the 0–20 µs phase of the first frame that starts after the request (R69). -/
def completeReset (s : State) : State :=
  if s.pctl.resetActive && s.pctl.resetFrame != s.tm.frame then
    let t := s.updPctl fun c => { c with resetActive := false, resetSess := none }
    match s.pctl.resetSess with
    | some n => t.updSess n fun x => { x with abortResult := 0, abortCompleted := s.tm.now }
    | none => t
  else s

/-! ## Configuration (R41, R42, R53) -/

/-- Normalise a kernel to a sum of 32,768 (R42). -/
def normalise (t : List Int) : List Int :=
  let sum := t.foldl (· + ·) 0
  let r := t.map fun x => divHalfUp (x * 32768) sum.toNat
  let big := t.foldl max 0
  let i := (t.findIdx? (· = big)).getD 0
  updAt r i (· + (32768 - r.foldl (· + ·) 0))

/-- The kernel after a write of one tap, when its sum is accepted (R42). -/
def kernelAfter (s : State) (k j : Nat) (v : Int) : Option (List Int) :=
  let t := updAt (kernelTaps s k) j fun _ => v
  let sum := t.foldl (· + ·) 0
  if 31130 ≤ sum ∧ sum ≤ 34404 then some (normalise t) else none

/-- Store all sixteen taps. -/
def putTaps (s : State) (k : Nat) (t : List Int) : State :=
  t.zipIdx.foldl (fun s e => s.put (stObj k) (8 + e.2) (.int e.1)) s

/-- TransitLo, TransitHi and KernelStep after a write: neither transit below 8 steps (R42). -/
def transitsOk (s : State) (k : Nat) : Bool :=
  let lo := s.int (stObj k) 3
  let hi := if (s.stOf k).hiSet then s.int (stObj k) 4 else lo
  decide (8 * kernelStep s k ≤ lo) && decide (8 * kernelStep s k ≤ hi)

/-- Update of a station. -/
def State.updStation (s : State) (k : Nat) (f : Station → Station) : State := s.updPas fun p => { p with stations := updAt p.stations k f }

/-- Station k is stopped with Occupancy 0 (R41). -/
def State.stIdle (s : State) (k : Nat) : Bool := (s.stOf k).stopped && (inStation s.pas.ring k).isEmpty

/-- Writes to 0x3800 + k (R40–R42). -/
def stationWrite (w : Ctx) (i sub : Nat) (v : Val) (s : State) : Except Nat State :=
  checked w i sub v s fun s =>
    let k := i - 0x3800
    let x := valNum v
    if sub = 1 ∧ x = 0x20 ∧ k ≠ 0 then .error Abort.range
    else if (sub = 1 ∨ sub = 2 ∨ sub = 0x19) then
      if s.configurable ∨ s.stIdle k then .ok (s.put i sub v) else .error Abort.state
    else if sub = 5 ∧ (s.nat i 6 : Int) ≤ x then .error Abort.range
    else if sub = 6 ∧ x ≤ s.nat i 5 then .error Abort.range
    else if 8 ≤ sub ∧ sub < 0x18 then
      match kernelAfter s k (sub - 8) x with
      | some t => .ok (putTaps s k t)
      | none => .error Abort.range
    else if sub = 3 ∨ sub = 4 ∨ sub = 7 then
      let t := (s.put i sub v).updStation k fun t => { t with hiSet := t.hiSet || sub == 4, stepSet := t.stepSet || sub == 7 }
      if transitsOk t k then .ok t else .error Abort.range
    else .ok (s.put i sub v)

def execStationConfigWrite (sess k sub : Nat) (v : Int) (s : State) : Out :=
  if k < 10 then s.asSession sess (stObj k) fun w => stationWrite w (stObj k) sub (.int v) else withUnit false s
def execKernelWrite (sess k sub : Nat) (v : Int) (s : State) : Out :=
  if k < 10 then s.asSession sess (stObj k) fun w => stationWrite w (stObj k) sub (.int v) else withUnit false s

/-- Writes to 0x3810 (R53). -/
def passageWrite (w : Ctx) (i sub : Nat) (v : Val) (s : State) : Except Nat State :=
  checked w i sub v s fun s =>
    let t := s.put i sub v
    if (sub = 1 ∨ sub = 2) ∧ t.nat 0x3810 1 * 6144 < t.nat 0x3810 2 * 2500 then .error Abort.range
    else .ok t

def execSliceLengthWrite (sess sub : Nat) (v : Int) (s : State) : Out :=
  s.asSession sess 0x3810 fun w => passageWrite w 0x3810 sub (.int v)

/-! ## Transit calibration (R66–R68) -/

/-- The proposal becomes user calibration and applies under R41: transit, step and kernel of the station; a set that R42 refuses changes
nothing. DESIGN CHOICE (log 64): the one ProposedTransit becomes TransitLo, TransitHi keeps its value, and a trim in effect ends. -/
def acceptCal (s : State) : Except Nat State :=
  let c := s.pctl.cal
  let k := c.station
  let o := stObj k
  let sum := c.kernel.foldl (· + ·) 0
  let taps := normalise c.kernel
  let t := (putTaps ((s.put o 3 (.int c.transit)).put o 7 (.int c.step)) k taps).updStation k fun t => { t with stepSet := true, trim := 0 }
  if sum < 31130 ∨ 34404 < sum ∨ !transitsOk t k then .error Abort.range
  else
    let t := (t.commit 2 (keyOf o 3) (.int c.transit)).commit 2 (keyOf o 7) (.int c.step)
    let t := taps.zipIdx.foldl (fun t e => t.commit 2 (keyOf o (8 + e.2)) (.int e.1)) t
    .ok (t.updPctl fun p => { p with cal := { p.cal with state := 3 } })

/-- Writes to 0x3812 (R66, R67). DESIGN CHOICE (log 64): a command that the CalState does not allow (start while collecting; stop while not;
accept or discard without a proposal) is refused with 0x0800_0022; a start on a station without a signal in Table 02-13 (S2, S5, S7) with
0x0609_0030. -/
def calWrite (w : Ctx) (i sub : Nat) (v : Val) (s : State) : Except Nat State :=
  checked w i sub v s fun s =>
    let c := s.pctl.cal
    let k := s.nat 0x3812 2
    if sub ≠ 1 then .ok (s.put i sub v)
    else match valNum v with
      | 1 => if c.state = 1 then .error Abort.state
             else if k = 2 ∨ k = 5 ∨ k = 7 then .error Abort.range
             else .ok (s.updPctl fun p => { p with cal := { state := 1, station := k } })
      | 2 => if c.state = 1 then .ok (s.updPctl fun p => { p with cal := { p.cal with state := 5 } }) else .error Abort.state
      | 3 => if c.state = 2 then acceptCal s else .error Abort.state
      | _ => if c.state = 2 then .ok (s.updPctl fun p => { p with cal := { p.cal with state := 0 } }) else .error Abort.state

def execCalStart (sess : Nat) (s : State) : Out := s.asSession sess 0x3812 fun w => calWrite w 0x3812 1 (.int 1)
def execCalStop (sess : Nat) (s : State) : Out := s.asSession sess 0x3812 fun w => calWrite w 0x3812 1 (.int 2)
def execCalAccept (sess : Nat) (s : State) : Out := s.asSession sess 0x3812 fun w => calWrite w 0x3812 1 (.int 3)
def execCalDiscard (sess : Nat) (s : State) : Out := s.asSession sess 0x3812 fun w => calWrite w 0x3812 1 (.int 4)

/-- The run's parcels are enough: 400, with a coefficient of variation of FeedRateS1 of 10 % or more (R67). -/
def CalRun.enough (c : CalRun) : Bool :=
  decide (400 ≤ c.parcels) && decide (c.sum * c.sum ≤ 100 * (c.parcels * c.sumSq - c.sum * c.sum))

/-- R67: the run has its parcels; a proposal is offered, or its quality is too low. The estimate itself is an operand: R66 names the
correlation and gives no estimator (log 65). -/
def execCalProposalReady (transit step : Nat) (kernel : List Int) (quality : Int) (s : State) : Out :=
  withUnit (kernel.length == 16)
    (if s.pctl.cal.state = 1 ∧ s.pctl.cal.enough then
      s.updPctl fun p => { p with cal := if quality < 19661 then { p.cal with state := 4, quality := quality }
        else { p.cal with state := 2, transit := transit, step := step, kernel := kernel, quality := quality } }
    else s)

/-- Parcels that a calibration run can use (R67). -/
def calUsable (p : Parcel) : Bool := !(p.has pfSlug || p.has pfCompressed || p.has pfMerged)

/-- Count the parcels that have become final for the run. -/
def calCount (s : State) (finals : List Nat) : State :=
  let l := (s.pas.ring.filter fun q => q.pass == 1 && finals.contains q.num && calUsable q).map (·.feed)
  if s.pctl.cal.state = 1 then
    s.updPctl fun p => { p with cal := l.foldl (fun (c : CalRun) f =>
      if 65535 ≤ c.parcels then c else { c with parcels := c.parcels + 1, sum := c.sum + f, sumSq := c.sumSq + f * f }) p.cal }
  else s

/-- R68: the trims of S3, S4 and S6 after 200 parcels, held within ±10 % (3,276 / 32,768 is the greatest Q15 fraction of it). The trim itself is
an operand, as the proposal of R67 is (log 65). DESIGN CHOICE (log 64): clearing TrimEnable ends the trimming and leaves a trim in effect. -/
def execTransitTrim (trims : List (Nat × Int)) (s : State) : Out :=
  withUnit (trims.all fun t => t.1 == 3 || t.1 == 4 || t.1 == 6)
    (if s.flag 0x3812 8 ∧ 200 ≤ s.pctl.trimCount then
      (trims.foldl (fun s t => s.updStation t.1 fun x => { x with trim := clampI (-3276) 3276 t.2 }) s).updPctl fun c =>
        { c with trimCount := 0 }
    else s)

/-! ## What the objects read -/

/-- COMPRESSED_QUEUE: two or more parcels wait at the station's entry. -/
def queued (s : State) (k : Nat) : Bool :=
  let here := (inStation s.pas.ring k).filter fun q => decide (q.posIn k ≤ 0) && ((q.visit k).map (·.compressed)).getD false
  let up := s.pas.ring.filter fun q => q.main != 0xFF && successor q.main == k &&
    (match q.visit q.main with | some v => decide (v.transit ≤ q.pos) | none => false)
  decide (2 ≤ here.length + up.length)

/-- StationStatus (Table 02-3). -/
def stationStatus (s : State) (k : Nat) : Nat :=
  let t := s.stOf k
  b2n (t.trim != 0) + 2 * b2n t.stopped + 4 * b2n t.reversing + 8 * b2n (queued s k) +
    16 * b2n (entryBlocked s.pas.stations s.pas.ring k) + 32 * b2n (s.stFault k) + 64 * b2n (k == 0 && s.pctl.ground == 2) +
    128 * b2n (s.stNoSource k)

/-- PassageFlags (Table 02-6). -/
def passageFlags (s : State) : Nat :=
  b2n (decide (freeEntries s.pas < 128)) + 2 * b2n s.pctl.merging + 4 * b2n (s.pctl.ground == 2) + 8 * b2n s.pctl.groundLost +
    16 * b2n s.pctl.resetActive + 32 * b2n s.cutting

/-- SelectResult of a parcel number (Table 02-7). -/
def selectResult (s : State) (n : Nat) : Nat :=
  if s.pas.ring.any fun q => q.num == n && q.pass == 1 then 0
  else if s.pas.lost.any fun l => !pbefore n l.1 && pbefore n l.2 then 3
  else if !pbefore n s.pas.nextParcel then 1 else 2

/-- Highest pass count of a parcel still in the machine; 0 none. -/
def passOpen (s : State) (n : Nat) : Nat :=
  (s.pas.ring.filter fun q => q.num == n && !(q.main == 0xFF && q.residue == 2)).foldl (fun m q => max m q.pass) 0

/-- Bound to an UNSIGNED16 or UNSIGNED32 object. -/
def sat16 (q : Rat) : Int := clampI 0 65535 q.floor
def sat32 (q : Rat) : Int := clampI 0 4294967295 q.floor

/-- The fields of the parcel window by sub-index (Table 02-7). -/
def parcelFields (s : State) (q : Parcel) : List (Nat × Val) :=
  let subs := s.pas.ring.filter fun r => r.num == q.num && r.pass != 1
  let tail := q.tailPast + tailShare q + (subs.map tailShare).foldl (· + ·) 0
  [(4, .int s.tm.now), (5, .int q.cutStart), (6, .int q.cutEnd), (7, .int (sat16 q.len)),
   (8, .int (sat16 (if q.len = 0 then 0 else q.area / q.len))), (9, .int (sat32 (q.area / 100))), (0xA, .int q.startLat),
   (0xB, .int q.startLon), (0xC, .int q.endLat), (0xD, .int q.endLon), (0xE, .int (q.flags + 4 * q.leadState)),
   (0xF, .int q.main), (0x10, .int q.pos), (0x11, .int q.residue), (0x12, .int (max q.resPos 0)), (0x13, .int (sat16 q.feed)),
   (0x14, .int (sat32 q.attr.sep)), (0x15, .int (sat32 q.attr.shoe)), (0x16, .int (sat16 (tail * 32768))),
   (0x17, .int (passOpen s q.num)), (0x18, .int (sat32 q.attr.mass)), (0x19, .int q.leadRef), (0x1A, .int q.probeRef)]

/-- R54: Snapshot 0x01 copies the selected parcel into the session's window. -/
def parcelSnapshot (n : Nat) (s : State) : State :=
  let num := (s.sessOf n).win.parcelSelect
  let q := s.pas.ring.find? fun q => q.num == num && q.pass == 1
  s.updWin n fun w => { w with parcelResult := selectResult s num, parcelCopy := match q with
    | some q => parcelFields s q
    | none => [] }

/-- Writes to 0x3880. -/
def parcelWrite (w : Ctx) (i sub : Nat) (v : Val) (s : State) : Except Nat State :=
  checked w i sub v s fun s => match w.sess with
    | none => .ok s
    | some n => .ok (if sub = 1 then s.updWin n fun x => { x with parcelSelect := (valNum v).toNat } else parcelSnapshot n s)

def execSnapshot (sess : Nat) (v : Int) (s : State) : Out := s.asSession sess 0x3880 fun w => parcelWrite w 0x3880 2 (.int v)

/-- Values that 0x3800–0x3812 and 0x3880 read. -/
def passageRead (s : State) (sess i sub : Nat) : Option Val :=
  if 0x3800 ≤ i ∧ i < 0x380A then
    let k := i - 0x3800
    match sub with
    | 4 => if (s.stOf k).hiSet then none else some (s.val i 3)
    | 7 => some (.int (kernelStep s k))
    | 0x1C => some (.int (stationStatus s k)) | 0x1D => some (.int (s.stOf k).speed)
    | 0x1E => some (.int (inStation s.pas.ring k).length) | 0x1F => some (.int (s.stOf k).travel) | _ => none
  else if i = 0x3810 then (if sub = 9 then some (.int s.pctl.wheelScale) else none)
  else if i = 0x3811 then
    let last : Nat := (s.pas.nextParcel + 2 ^ 32 - 1) % 2 ^ 32
    match sub with
    | 1 => some (.int (((newestOf s.pas.ring).map (·.num)).getD last))
    | 2 => some (.int (((s.pas.ring.find? fun q => q.pass == 1).map (·.num)).getD s.pas.nextParcel))
    | 3 => some (.int (freeEntries s.pas)) | 4 => some (.int (passageFlags s)) | 5 => some (.int s.pctl.resetCount)
    | 6 => some (.int (sat32 s.pas.unattSep)) | 7 => some (.int (sat32 s.pas.unattShoe)) | 8 => some (.int (sat32 s.pas.unattMass))
    | 9 => some (.int s.pctl.discarded) | _ => none
  else if i = 0x3812 then
    let c := s.pctl.cal
    match sub with
    | 3 => some (.int c.state) | 4 => some (.int c.parcels) | 5 => some (.int c.transit) | 6 => some (.int c.step)
    | 7 => some (.bytes (c.kernel.flatMap (leInt 2))) | 9 => some (.int c.quality) | _ => none
  else if i = 0x3880 then
    let w := (s.sessOf sess).win
    if sub = 1 then some (.int w.parcelSelect) else if sub = 3 then some (.int w.parcelResult)
    else some ((w.parcelCopy.find? fun e => e.1 == sub).elim (.int (if sub = 0x19 then 0xFFFF else 0)) (·.2))
  else none

end Sys2Proof.Machine
end

