-- ==== Sys2Proof/Machine/Events.lean ====
section
/-! DEFINITION. Scheduled events of the Passage (chapter 02, R60–R65): insertion, prediction, release and cancellation. -/

namespace Sys2Proof.Machine

/-- Station left at the crossing into a station (R50, R60). -/
def stationBefore (k : Nat) : Nat := if k = 8 then 4 else k - 1

/-- The event of a 24-byte record (Table 02-10). -/
def eventOf (b : Bytes) : Event :=
  let n := leNat b
  { id := 0, parcel := bits n 160 32, station := bits n 156 4, anchor := bits n 154 2, late := bits n 152 2, function := bits n 144 8,
    advance := bits n 128 16, value := toSigned 4 (bits n 96 32), action := bits n 88 8, source := bits n 80 8, tag := bits n 64 16 }

/-- Whether every field of a record lies in its range and the reserved fields are 0 (result 0x06). -/
def eventFieldsOk (b : Bytes) (e : Event) : Bool :=
  decide (1 ≤ e.station) && decide (e.station ≤ 8) && decide (e.anchor ≤ 2) && decide (e.late ≤ 1) && decide (e.function < 48) &&
    decide (e.advance ≤ 10000) && decide (1 ≤ e.action) && decide (e.action ≤ 3) && decide (1 ≤ e.source) && decide (e.source ≤ 5) &&
    bits (leNat b) 0 64 == 0

/-- Exit offset of an anchor (R45). -/
def anchorOffset (v : Visit) (anchor : Nat) : Int := if anchor = 1 then v.head else if anchor = 2 then v.tail else 0

/-- The parcel of an event. -/
def eventParcel (s : State) (e : Event) : Option Parcel := s.pas.ring.find? fun q => q.num == e.parcel && q.pass == 1

/-- Offset of a parcel beyond the anchored crossing, when it lies at or behind the frame start (R62). An anchor at or after the centre needs
the centre's crossing: a parcel held at its transit has not crossed. -/
def crossedBy (s : State) (e : Event) : Option Int :=
  match eventParcel s e with
  | none => none
  | some q => match q.visit (stationBefore e.station) with
    | none => none
    | some v =>
      let a := anchorOffset v e.anchor
      let d := exitOffset s.pas.stations q v - a
      if decide (0 ≤ d) && (v.cross.isSome || decide (a < 0)) then some d else none

/-- Instant of an anchored crossing that lies `d` behind. The centre's is kept from the crossing; another within the frame is found as R47
finds it, and one before the frame from the distance at the station's ShaftSpeed, or with the shaft at rest from the centre's (log 66). -/
def crossTime (s : State) (e : Event) (d : Int) : Nat :=
  let k := stationBefore e.station
  let v := (eventParcel s e).bind fun q => q.visit k
  let centre := (v.map (·.crossAt)).getD 0
  if (v.map fun v => v.cross.isSome && anchorOffset v e.anchor == 0) = some true then centre
  else
    let t := s.stOf k
    if d ≤ t.step then s.tm.now - crossAge s k d
    else if 0 < t.speed then s.tm.now - (1000000000 * d / t.speed).toNat
    else if centre = 0 then s.tm.now else centre

/-- Seconds to travel a distance at a station's ShaftSpeed; none for never. -/
def travelTime (s : State) (k : Nat) (d : Int) : Option Rat :=
  let v := (s.stOf k).speed
  if v ≤ 0 then none else some ((max d 0 : Int) / (v : Rat))

/-- Sum of two times. -/
def addTime (a b : Option Rat) : Option Rat := match a, b with | some x, some y => some (x + y) | _, _ => none

/-- Time from the entry of station k (already travelled `pos` of it) to the anchored exit of station `last`. -/
def pathTime (s : State) (q : Option Parcel) (feed : Rat) (last anchor : Nat) : Nat → Nat → Int → Option Rat
  | 0, _, _ => none
  | n + 1, k, pos =>
    let v := ((q.bind fun q => q.visit k)).getD (visitOf s k feed false)
    if k = last then travelTime s k (v.transit + anchorOffset v anchor - pos)
    else addTime (travelTime s k (v.transit - pos)) (pathTime s q feed last anchor n (k + 1) 0)

/-- Ground travel left until a parcel not yet cut is closed, Q16.16 mm (R62). -/
def uncutTravel (s : State) (num : Nat) : Int :=
  let open_ : Int := if s.pas.acc = 0 then s.nat 0x3810 1 else s.pas.sliceLen
  (pdist s.pas.nextParcel num * s.nat 0x3810 1 * 65536 : Nat) + (open_ * 65536 - s.pas.acc) + s.pas.deficit

/-- Predicted seconds to the crossing of parcel `num` into `station` at an anchor (R62). DESIGN CHOICE (log 64): the transits of a parcel not
yet cut are sampled at the mean FeedRateS1 of the last 10 final parcels. -/
def predictCrossing (s : State) (num station anchor : Nat) : Option Rat :=
  let last := stationBefore station
  match s.pas.ring.find? fun q => q.num == num && q.pass == 1 with
  | some q =>
    if q.main = 0xFF ∨ last < q.main then
      match q.visit last with
      | some v => travelTime s last (anchorOffset v anchor - exitOffset s.pas.stations q v)
      | none => none
    else pathTime s (some q) q.feed last anchor 10 q.main q.pos
  | none =>
    if pbefore num s.pas.nextParcel then none
    else
      let half : Int := (s.nat 0x3810 1 : Int) * 32768
      addTime (travelTime s 0 (uncutTravel s num)) (pathTime s none (meanFinal s.pas.finals 10) last anchor 10 0 half)

/-- The result of an insertion: the first condition of Table 02-11 that holds. -/
def eventResult (s : State) (fieldsOk : Bool) (e : Event) : Nat :=
  let f := 0x2800 + e.function
  let newest := (s.pas.nextParcel + 2 ^ 32 - 1) % 2 ^ 32
  if s.pctl.resetActive then 7
  else if !fieldsOk then 6
  else if s.nat f 8 ≠ 1 ∨ (2 ≤ e.action ∧ s.pw.dev ≠ .run) then 5
  else if e.value < s.int f 4 ∨ s.int f 5 < e.value then 8
  else if pbefore e.parcel s.pas.nextParcel ∧ (eventParcel s e).isNone then 2
  else if !pbefore e.parcel s.pas.nextParcel ∧ 40000 < pdist newest e.parcel * s.nat 0x3810 1 then 3
  else if (crossedBy s e).isSome ∧ e.late = 0 then 4
  else if 1024 ≤ s.pctl.events.length then 1
  else 0

/-- Queue an accepted event under the next identifier (R61). A probe's end tells the last parcel of its block (07 R181). -/
def queueEvent (e : Event) (s : State) : State :=
  s.updPctl fun c =>
    { c with events := c.events ++ [{ e with id := c.nextEvent, stamp := s.tm.now }], nextEvent := (c.nextEvent + 1) % 2 ^ 32
             probes := if e.action = 3 then c.probes.map fun p =>
                 if p.1 = e.function ∧ p.2.1 = e.tag ∧ p.2.2.2 = none then (p.1, p.2.1, p.2.2.1, some e.parcel) else p else c.probes }

/-- Insert an event record: the result, and the state (R60, R61). -/
def insertEvent (b : Bytes) (s : State) : Nat × State :=
  let e := eventOf b
  let r := eventResult s (b.length == 24 && eventFieldsOk b e) e
  (r, if r = 0 then queueEvent e s else s)

/-- The same for an event that an engine of the module makes. -/
def insertOwn (e : Event) (s : State) : Nat × State :=
  let r := eventResult s true e
  (r, if r = 0 then queueEvent e s else s)

/-- Cancel an event (R65): 0x00 cancelled, 0x01 already released, 0x02 unknown. -/
def cancelEvent (id : Nat) (s : State) : Nat × State :=
  match s.pctl.events.find? fun e => e.id == id with
  | some hit =>
    let newest := (s.pas.nextParcel + 2 ^ 32 - 1) % 2 ^ 32
    (0, s.updPctl fun c =>
      { c with events := c.events.filter fun e => e.id != id
               probeWait := c.probeWait.filter fun e => e.1.id != id
               probes := if hit.action = 3 then c.probes.map fun p =>
                   if p.1 = hit.function ∧ p.2.1 = hit.tag then (p.1, p.2.1, p.2.2.1, some newest) else p else c.probes })
  | none => if s.pctl.released.contains id then (1, s) else (2, s)

/-- Writes to 0x3820. The insertion itself is answered as accepted, and EventResult gives its result. -/
def eventWrite (w : Ctx) (i sub : Nat) (v : Val) (s : State) : Except Nat State :=
  checked w i sub v s fun s =>
    if sub = 1 then
      let r := insertEvent (valRaw v) s
      match w.sess with
      | some n => .ok (r.2.updWin n fun x =>
          { x with eventResult := r.1, eventId := if r.1 = 0 then s.pctl.nextEvent else x.eventId })
      | none => .ok r.2
    else
      let r := cancelEvent (valNum v).toNat s
      match w.sess with
      | some n => .ok (r.2.updWin n fun x => { x with cancelResult := r.1 })
      | none => .ok r.2

def execEventRecord (sess : Nat) (rec : Bytes) (s : State) : Out := s.asSession sess 0x3820 fun w => eventWrite w 0x3820 1 (.bytes rec)
def execEventCancel (sess id : Nat) (s : State) : Out := s.asSession sess 0x3820 fun w => eventWrite w 0x3820 4 (.int id)

/-! ## Release (R62–R64) -/

/-- The event record of a release (Table 16-3). -/
def releaseRecord (e : Event) (us : Int) : FlowEv :=
  ⟨0x3002, e.function, 0x05, leInt 4 (clampI (-2147483648) 2147483647 us) ++ leBytes 4 e.id, [], e.parcel, e.station⟩

/-- Probe begin and end records. -/
def probeRecord (s : State) (e : Event) : FlowEv :=
  ⟨if e.action = 2 then 0x5001 else 0x5002, s.optSlotOf e.function, 0x05, leBytes 4 e.tag ++ leInt 4 e.value, [], e.parcel, e.station⟩

/-- The parcels of a probe block carry PROBE and ProbeRef (07 R181). -/
def markProbes (c : PasCtl) (ring : List Parcel) : List Parcel :=
  ring.map fun q => match probeOf c q.num with
    | some t => if q.pass = 1 then { (q.flag pfProbe) with probeRef := t } else q
    | none => q

/-- Last parcel of the probe block that an event begins: of its end event in the queue, or of the running cycle's block. -/
def probeEnd (s : State) (e : Event) : Option Nat :=
  match s.pctl.events.find? fun x => x.action == 3 && x.function == e.function && x.tag == e.tag with
  | some x => some x.parcel
  | none => match s.opt.cycle with
    | some c => if e.source = 3 ∧ c.fn = e.function then (c.blocks.find? fun b => b.id == e.tag).map (·.last) else none
    | none => none

/-- Begin or end of a probe block in the Passage's list, which reaches back over the last 2,000 parcels (07 R179). -/
def noteProbe (last : Option Nat) (c : PasCtl) (e : Event) : PasCtl :=
  if e.action = 2 then { c with probes := ((e.function, e.tag, e.parcel, last) :: c.probes).take 2000 }
  else if e.action = 3 then
    { c with probes := c.probes.map fun p => if p.1 = e.function ∧ p.2.1 = e.tag then (p.1, p.2.1, p.2.2.1, some e.parcel) else p }
  else c

/-- The action of a released event: it writes the committed set-point, and a probe's begin and end change Auto to Probe and back
(R64, 05 R141). -/
def applyEvent (e : Event) (s : State) : State :=
  let f := e.function
  let c := clampI (s.int (0x2800 + f) 4) (s.int (0x2800 + f) 5) e.value
  let old := (s.fnOf f).c
  let s := s.updFn f fun x =>
    let m := if s.pw.dev ≠ .run then x.mode else if e.action = 2 ∧ x.mode = 2 then 4 else if e.action = 3 ∧ x.mode = 4 then 2 else x.mode
    { x with c := c, mode := m }
  let own := e.source == 2 || e.source == 3
  let s := if c = old then (if own then s else s.optForeign f) else s.optChange f own false
  let s := s.updPctl fun c => { (noteProbe (probeEnd s e) c e) with released := e.id :: c.released }
  if e.action = 1 then s
  else (s.updPas fun p => { p with ring := markProbes s.pctl p.ring }).record (probeRecord s e)

/-- Release one event whose crossing lies at `time`; `late` tells by how much it has been crossed (R62). -/
def releaseEvent (s : State) (e : Event) (crossed : Bool) (time : Nat) : State :=
  let s := if crossed && e.advance != 0 then
      s.updPas fun p => { p with ring := p.ring.map fun q => if q.num = e.parcel ∧ q.pass = 1 then q.flag pfLate else q }
    else s
  let s := (applyEvent e s).optReleased e.id (crossed && e.advance != 0)
  if crossed then s.record (releaseRecord e 0) else s.updPctl fun c => { c with watch := c.watch ++ [(e, time)] }

/-- Whether an event is due now, with the time of its crossing and whether that has passed (R62). -/
def eventDue (s : State) (e : Event) : Option (Bool × Nat) :=
  match crossedBy s e with
  | some d => some (true, crossTime s e d)
  | none =>
    if e.advance = 0 then none
    else match predictCrossing s e.parcel e.station e.anchor with
      | some t => if t * 1000 ≤ e.advance then some (false, s.tm.now + (t * 1000000000).floor.toNat) else none
      | none => none

/-- Insertion by crossing time; equal times keep their order of acceptance (R63). -/
def insertDue (x : Event × Bool × Nat) : List (Event × Bool × Nat) → List (Event × Bool × Nat)
  | [] => [x]
  | y :: t => if x.2.2 ≤ y.2.2 then x :: y :: t else y :: insertDue x t

/-- Whether a probe's begin must wait for its slot's feed-forward to reach 0 (03 R88). -/
def probeHeld (s : State) (e : Event) : Bool :=
  e.action == 2 && (match s.slotOf e.function with | some j => s.lead.published.getD j 0 != 0 | none => false)

/-- Record the arrival error of events released by ADVANCE whose crossing has now come (R62). -/
def watchCrossings (s : State) : State :=
  s.pctl.watch.foldl (fun s w => match crossedBy s w.1 with
    | some d =>
      let err := (crossTime s w.1 d : Int) - w.2
      ((s.record (releaseRecord w.1 (err / 1000))).optArrived w.1.id err).updPctl fun c =>
        { c with watch := c.watch.filter fun x => x.1.id != w.1.id }
    | none => s) s

/-- The events that are due now with their crossings, in order of acceptance. One that waits for its slot stays due (03 R88). -/
def dueEvents (s : State) : List (Event × Bool × Nat) :=
  s.pctl.events.filterMap fun e => match eventDue s e with
    | some r => some (e, r)
    | none => s.pctl.probeWait.find? fun w => w.1.id == e.id

/-- The releases of one frame (R62, R63): nothing is released in Start (Table 02-15). -/
def releaseEvents (s : State) : State :=
  if s.pw.dev ≠ .run ∧ s.pw.dev ≠ .service then s
  else
    let s := watchCrossings s
    let due := dueEvents s
    let go := (due.filter fun d => !probeHeld s d.1).foldr insertDue []
    let ids := go.map (·.1.id)
    let s := s.updPctl fun c => { c with events := c.events.filter fun e => !ids.contains e.id
                                         probeWait := due.filter fun d => probeHeld s d.1 }
    go.foldl (fun s d => releaseEvent s d.1 d.2.1 d.2.2) s

/-- Values that 0x3820 reads (Table 02-12). -/
def eventRead (s : State) (sess sub : Nat) : Option Val :=
  let w := (s.sessOf sess).win
  match sub with
  | 2 => some (.int w.eventResult) | 3 => some (.int w.eventId) | 5 => some (.int w.cancelResult)
  | 6 => some (.int (s.pctl.events.length : Nat)) | _ => none

end Sys2Proof.Machine
end

