-- ==== Sys2Proof/Machine/Guide.lean ====
section
/-! DEFINITION. The geometry of guidance (chapter 08, R197, R199, R205): the pose of the steering stage, the guided point, passes, curves and
headland turns as paths of segments, and the guidance window. Lengths are in mm, angles in degrees. Log 26 names what the spec leaves open. -/

namespace Sys2Proof.Machine

/-- Ground speed in 0.1 km/h. -/
def groundKmh (s : State) : Rat := (groundSpeed s : Rat) * 9 / 250

/-- An angle brought into −180° to 180°. -/
def wrap180 (a : Rat) : Rat := a - 360 * (((a + 180) / 360).floor : Int)

/-- An angle brought into 0° to 360°. -/
def wrap360 (a : Rat) : Rat := a - 360 * ((a / 360).floor : Int)

/-- East and north of an offset forward and to the right of a heading. -/
def planeOffset (h f r : Rat) : Rat × Rat :=
  (Config.sinDeg h * f + Config.cosDeg h * r, Config.cosDeg h * f - Config.sinDeg h * r)

/-- Forward and right of a heading of an offset east and north. -/
def alongOf (h : Rat) (d : Int × Int) : Rat × Rat :=
  (d.1 * Config.sinDeg h + d.2 * Config.cosDeg h, d.1 * Config.cosDeg h - d.2 * Config.sinDeg h)

/-- A point moved forward and to the right of a heading. -/
def moveBy (p : Int × Int) (h f r : Rat) : Int × Int :=
  let d := planeOffset h f r
  Config.geoMove p.1 p.2 d.1 d.2

/-- Heading from one point to another. -/
def bearing (p q : Int × Int) : Rat :=
  let d := Config.geoOffset p.1 p.2 q.1 q.2
  Config.atanDeg d.1 d.2

/-- Distance from one point to another. -/
def distance (p q : Int × Int) : Nat :=
  let d := Config.geoOffset p.1 p.2 q.1 q.2
  sqrtRound ((d.1 * d.1 + d.2 * d.2 : Int) : Rat)

/-! ## The pose (R197, R203) -/

/-- A solution with a fix, not older than 150 ms, outside holdover. -/
def solved (s : State) : Bool :=
  s.skyGood && s.sky.status != 2 && decide (s.tm.now ≤ s.sky.pose.stamp + 150000000) && decide (1 ≤ s.sky.fix) && decide (s.sky.fix ≤ 4)

/-- A fix at or above GuidanceMinFix (R203). -/
def gnssGood (s : State) : Bool := solved s && decide (s.nat 0x3C00 0x1A ≤ s.sky.fix)

/-- GNSS guidance is the active mode or the goal of a transfer. -/
def inGnss (s : State) : Bool := s.steer.engaged && (s.steer.mode == 1 || s.steer.goal == 1)

/-- Dual-antenna heading valid. -/
def headingGood (s : State) : Bool := s.sky.flags.testBit 5

/-- The IMU rate about Z, which points down, in degrees per second to the right; 0 while the IMU is not valid. -/
def yawRate (s : State) : Rat := if s.sens.imu.valid then (s.sens.imu.rate.getD 2 0 : Rat) / 100 else 0

/-- The last stage pose carried by S0's ground travel and the IMU rate about Z (R203). -/
def carriedPose (s : State) : StagePose :=
  let o := s.steer.pose
  let t := (s.stOf 0).travel
  let h := wrap360 (o.heading + yawRate s * ((s.tm.mono - o.mono : Nat) : Rat) / 1000000000)
  let p := moveBy (o.lat, o.lon) h (((t - o.travel : Int) : Rat) / 65536) 0
  ⟨p.1, p.2, h, t, s.tm.mono⟩

/-- The latest solution extrapolated: position by velocity, heading by the IMU rate about Z. Without a valid dual-antenna heading it is the course
over ground at 2 km/h and above, and below that the heading carried so far (R197). -/
def solvedPose (s : State) : StagePose :=
  let p := s.sky.pose
  let dt : Rat := ((s.tm.now - p.stamp : Nat) : Rat) / 1000000000
  let q := Config.geoMove p.lat p.lon (p.velE * dt) (p.velN * dt)
  let h := if headingGood s then (p.heading : Rat) / 100 + yawRate s * dt
    else if 20 ≤ groundKmh s then Config.atanDeg p.velE p.velN + yawRate s * dt
    else (carriedPose s).heading
  ⟨q.1, q.2, wrap360 h, (s.stOf 0).travel, s.tm.mono⟩

/-- The pose now. In GNSS guidance only a solution that meets GuidanceMinFix counts (R203). -/
def poseNow (s : State) : StagePose :=
  if (if inGnss s then gnssGood s else solved s) then solvedPose s else carriedPose s

/-- Lateral correction of the antenna point to the guided point (R198). -/
def terrain (s : State) : Rat :=
  if s.sens.imu.valid then (s.nat 0x3C00 0x13 : Rat) * Config.sinDeg ((s.sens.imu.roll : Rat) / 100) else 0

/-- The same forward. -/
def terrainFwd (s : State) : Rat :=
  if s.sens.imu.valid then (s.nat 0x3C00 0x13 : Rat) * Config.sinDeg ((s.sens.imu.pitch : Rat) / 100) else 0

/-- The guided point of a pose (R198). -/
def guidedOf (s : State) (o : StagePose) : Int × Int := moveBy (o.lat, o.lon) o.heading (terrainFwd s) (-terrain s)

/-- The guided point now. -/
def guidedPoint (s : State) : Int × Int := guidedOf s (poseNow s)

/-! ## Segments and paths -/

/-- Degrees turned to the right over a distance along a segment. -/
def Seg.turned (q : Seg) (d : Rat) : Rat := if q.arc then d * q.kappa * 180 / Config.pi else 0

/-- Point and heading at a distance along a segment. -/
def Seg.point (q : Seg) (d : Rat) : (Int × Int) × Rat :=
  let a := q.turned d
  if q.arc then
    let r := 1 / q.kappa
    (moveBy (q.lat, q.lon) q.heading (r * Config.sinDeg a) (r * (1 - Config.cosDeg a)), q.heading + a)
  else (moveBy (q.lat, q.lon) q.heading d 0, q.heading)

/-- The part of a segment between two distances along it. -/
def Seg.part (q : Seg) (a b : Rat) : Seg :=
  let p := q.point a
  { q with lat := p.1.1, lon := p.1.2, heading := p.2, len := b - a }

/-- A segment run backwards. -/
def Seg.back (q : Seg) : Seg :=
  let p := q.point q.len
  { q with lat := p.1.1, lon := p.1.2, heading := wrap360 (p.2 + 180), kappa := -q.kappa }

/-- A path run backwards. -/
def backwards (l : List Seg) : List Seg := (l.map Seg.back).reverse

/-- Where a point lies against a segment: distance along it, distance to its right, heading of the tangent there. On an arc the angle turned is the
one nearest to the arc's middle. -/
def Seg.against (q : Seg) (p : Int × Int) : Rat × Rat × Rat :=
  let f := alongOf q.heading (Config.geoOffset q.lat q.lon p.1 p.2)
  if q.arc then
    let r := 1 / q.kappa
    let g : Rat := if r < 0 then -1 else 1
    let a := Config.atanDeg f.1 (g * (r - f.2))
    let mid := g * q.turned q.len / 2
    let b := mid + wrap180 (a - mid)
    let dist := f.1 * Config.sinDeg a + g * (r - f.2) * Config.cosDeg a
    (b * (g * r) * Config.pi / 180, g * (g * r - dist), q.heading + g * b)
  else (f.1, f.2, q.heading)

/-- Where a point lies against a path: distance along it, cross-track error (right positive), heading and curvature of the path there, the
length left, the pass. -/
structure Spot where
  along : Rat
  ex : Rat
  heading : Rat
  kappa : Rat
  ahead : Rat
  pass : Option Int
  deriving DecidableEq, Repr

/-- Length of a path. -/
def pathLength (l : List Seg) : Rat := l.foldl (fun a q => a + q.len) 0

/-- The spot against each segment, the path beginning at a distance, with the squared distance from the segment. -/
def spots (p : Int × Int) : Rat → List Seg → List (Rat × Spot)
  | _, [] => []
  | d, q :: t =>
    let a := q.against p
    let c := clampQ 0 q.len a.1
    ((a.1 - c) * (a.1 - c) + a.2.1 * a.2.1, ⟨d + c, a.2.1, a.2.2, q.kappa, q.len - c + pathLength t, q.pass⟩) :: spots p (d + q.len) t

/-- The nearest of them; of equals the first. -/
def nearestSpot : List (Rat × Spot) → Option (Rat × Spot)
  | [] => none
  | x :: t => match nearestSpot t with
    | none => some x
    | some y => if y.1 < x.1 then some y else some x

/-- Where a point lies against a path. -/
def locate (l : List Seg) (p : Int × Int) : Option Spot := (nearestSpot (spots p 0 l)).map (·.2)

/-- The part of a path, which begins at a distance, between two distances. -/
def clipPath (lo hi : Rat) : Rat → List Seg → List Seg
  | _, [] => []
  | d, q :: t =>
    let a := max (lo - d) 0
    let b := min (hi - d) q.len
    if a < b then q.part a b :: clipPath lo hi (d + q.len) t else clipPath lo hi (d + q.len) t

/-- Point and heading at a distance along a path; past its end on its last segment. -/
def pathPoint : Rat → List Seg → Option ((Int × Int) × Rat)
  | _, [] => none
  | d, [q] => some (q.point d)
  | d, q :: t => if d ≤ q.len then some (q.point d) else pathPoint (d - q.len) t

/-- A path of segments one after another from a point and a heading, each given by length, curvature and whether it is an arc. -/
def chain : (Int × Int) → Rat → List (Rat × Rat) → List Seg
  | _, _, [] => []
  | p, h, (len, k) :: t =>
    let q : Seg := ⟨p.1, p.2, wrap360 h, len, k, decide (k ≠ 0), none⟩
    let e := q.point len
    q :: chain e.1 e.2 t

/-! ## Passes (R199) -/

/-- Curve points of a byte string. -/
def curveOf (b : Bytes) : List (Int × Int) := (List.range (b.length / 8)).map fun j => (fieldInt b (8 * j) 4, fieldInt b (8 * j + 4) 4)

/-- Headings of the chords of a curve. -/
def chordHeadings : List (Int × Int) → List Rat
  | a :: b :: t => bearing a b :: chordHeadings (b :: t)
  | _ => []

/-- Headings at the points of a curve: the mean of the chords before and after. -/
def pointHeadings : Rat → List Rat → List Rat
  | last, [] => [last]
  | last, h :: t => (last + wrap180 (h - last) / 2) :: pointHeadings h t

/-- The points of a curve shifted to the right. -/
def shiftPoints (d : Rat) (pts : List (Int × Int)) (hs : List Rat) : List (Int × Int) := (pts.zip hs).map fun x => moveBy x.1 x.2 0 d

/-- Chords of the shifted points, with the curvature of the parallel of the recorded curve: k / (1 − k × shift). -/
def curveChords (d : Rat) (n : Int) : List (Int × Int) → List (Int × Int) → List Rat → List Seg
  | a :: b :: t, p :: q :: u, g :: h :: v =>
    let k := divQ (wrap180 (h - g) * Config.pi / 180) (distance a b)
    ⟨p.1, p.2, wrap360 (bearing p q), distance p q, divQ k (1 - k * d), false, some n⟩ :: curveChords d n (b :: t) (q :: u) (h :: v)
  | _, _, _ => []

/-- A straight segment of a pass. -/
def straight (p : Int × Int) (h len : Rat) (n : Int) : Seg := ⟨p.1, p.2, wrap360 h, len, 0, false, some n⟩

/-- The parallel of the recorded curve, extended along its end tangents by 50 m. -/
def curvePath (s : State) (d : Rat) (n : Int) : List Seg :=
  let pts := curveOf (s.raw 0x3C20 9)
  match chordHeadings pts with
  | [] => []
  | h :: t =>
    let hs := pointHeadings h (h :: t)
    let l := curveChords d n pts (shiftPoints d pts hs) hs
    match l, l.getLast? with
    | a :: _, some z =>
      straight (moveBy (a.lat, a.lon) a.heading (-50000) 0) a.heading 50000 n :: l ++ [straight (z.point z.len).1 z.heading 50000 n]
    | _, _ => []

/-- Pass n: the base line shifted right by n × PassSpacing + PassOffset. -/
def passShift (s : State) (n : Int) : Rat := (n * s.nat 0x3C20 7 + s.int 0x3C20 8 : Int)

/-- The line shifted right by d as a path, run backwards or not, from `back` before a point q to 60 m or more beyond a point p. An AB or A+heading
line has no end. -/
def linePath (s : State) (d : Rat) (n : Int) (rev : Bool) (back : Rat) (q p : Int × Int) : List Seg :=
  let t := s.nat 0x3C20 1
  if t = 1 ∨ t = 2 then
    let a := (s.int 0x3C20 2, s.int 0x3C20 3)
    let h : Rat := if t = 1 then bearing a (s.int 0x3C20 4, s.int 0x3C20 5) else (s.nat 0x3C20 6 : Rat) / 100
    let b := moveBy a h 0 d
    let l := straight b (if rev then h + 180 else h) 0 n
    let aq := (l.against q).1
    let ap := (l.against p).1
    [straight (l.point (aq - back)).1 l.heading (back + max 0 (ap - aq) + 60000) n]
  else if t = 3 then
    let l := if rev then backwards (curvePath s d n) else curvePath s d n
    match locate l q with
    | some x => clipPath (x.along - back) (pathLength l) 0 l
    | none => []
  else []

/-- Pass n as a path. -/
def passPath (s : State) (n : Int) (rev : Bool) (back : Rat) (q p : Int × Int) : List Seg := linePath s (passShift s n) n rev back q p

/-- Where a point lies against the base line itself. -/
def baseSpot (s : State) (p : Int × Int) : Option Spot := locate (linePath s 0 0 false 10000 p p) p

/-- The pass nearest to a point; without a line the pass stays. -/
def nearestPass (s : State) (p : Int × Int) : Int :=
  match baseSpot s p with
  | some x => clampI (-32768) 32767 (halfUp (divQ (x.ex - s.int 0x3C20 8) (s.nat 0x3C20 7)))
  | none => s.steer.guide.activePass

/-- The machine heads against the base line. -/
def againstLine (s : State) (o : StagePose) : Bool :=
  match baseSpot s (guidedOf s o) with
  | some x => decide (90 < (wrap180 (o.heading - x.heading)).abs)
  | none => false

/-! ## Headland turns (R205) -/

/-- The segments of a turn to a side (1 to the right, −1 to the left) at a radius over a lateral step. -/
def turnShape (g r step : Rat) : List (Rat × Rat) :=
  if 2 * r ≤ step then
    let quarter := (Config.pi * r / 2, g / r)
    if 2 * r = step then [quarter, quarter] else [quarter, (step - 2 * r, 0), quarter]
  else
    let x := 4 * r
    let y := step + 2 * r
    let a := Config.atanDeg (sqrtRound (x * x - y * y)) y
    let arc := fun (deg k : Rat) => (deg * r * Config.pi / 180, k / r)
    [arc a (-g), arc (180 + 2 * a) g, arc a (-g)]

/-- The path of a turn from a point of the active pass. -/
def turnFrom (s : State) (p : (Int × Int) × Rat) : List Seg :=
  chain p.1 p.2 (turnShape (if s.steer.guide.turnSide = 2 then 1 else -1) (s.nat 0x3C30 5) ((1 + s.nat 0x3C30 3) * s.nat 0x3C20 7 : Nat))

/-- A turn path followed by its target pass, which is run the other way. -/
def withTarget (s : State) (l : List Seg) (p : Int × Int) : List Seg :=
  match l.getLast? with
  | some z =>
    let q := (z.point z.len).1
    l ++ passPath s s.steer.guide.turnTarget (!s.steer.guide.reversed) 0 q p
  | none => []

/-- A path cut to the window: 10 m behind to 60 m ahead of a point. -/
def around (l : List Seg) (p : Int × Int) : List Seg :=
  match locate l p with
  | some x => clipPath (x.along - 10000) (x.along + 60000) 0 l
  | none => []

/-- The active pass, with the turn path loaded from the boundary on while a turn is armed. -/
def activePath (s : State) (p : Int × Int) : List Seg :=
  let g := s.steer.guide
  let l := passPath s g.activePass g.reversed 10000 p p
  match g.turn, g.boundary, locate l p with
  | 1, some b, some x =>
    let d := x.along + b
    clipPath 0 d 0 l ++ (match pathPoint d l with | some q => withTarget s (turnFrom s q) p | none => [])
  | _, _, _ => l

/-- The Gallery fills the window (R199). -/
def fillWindow (s : State) : State :=
  let o := poseNow s
  let p := guidedOf s o
  if s.steer.guide.turn = 2 then
    s.updSteer fun x => { x with guide := { x.guide with window := around (withTarget s s.steer.guide.turnPath p) p } }
  else
    let s := s.updSteer fun x => { x with guide := { x.guide with reversed := againstLine s o } }
    s.updSteer fun x => { x with guide := { x.guide with window := around (activePath s p) p } }

/-- The path of the turn that begins now. -/
def turnNowPath (s : State) : List Seg :=
  let p := guidedPoint s
  let l := passPath s s.steer.guide.activePass s.steer.guide.reversed 10000 p p
  match locate l p with
  | some x => match pathPoint x.along l with | some q => turnFrom s q | none => []
  | none => []

/-! ## Footprints ahead of the cut (03 R73) -/

/-- The point a distance ahead of the cut-bar centre: along the guidance window in GNSS guidance, else along the present heading at the present
yaw rate. -/
def pointAhead (s : State) (d : Rat) : Int × Int :=
  let b := cutBar s
  let w := s.steer.guide.window
  match (if inGnss s then (locate w b).bind fun x => pathPoint (x.along + d) w else none) with
  | some q => q.1
  | none =>
    let v := groundSpeed s
    let k : Rat := if 0 < v then yawRate s * Config.pi / 180 / v else 0
    ((⟨b.1, b.2, (s.sky.pose.heading : Rat) / 100, d, k, decide (k ≠ 0), none⟩ : Seg).point d).1

end Sys2Proof.Machine
end

