-- ==== Sys2Proof/Machine/LeadEngine.lean ====
section
/-! DEFINITION. Leads (chapter 03): placement, prediction, acting, resolution, suspension and the lead window; and the header-work
commands, which close a parcel and so concern its Lead. -/

namespace Sys2Proof.Machine

/-! ## Slots and envelopes (R75–R77) -/

/-- Object of lead slot j. -/
abbrev slotObj (j : Nat) : Nat := 0x38A8 + j

/-- LeadEnable is 1. -/
def State.leadOn (s : State) : Bool := s.flag 0x38A0 1

/-- E_j = LeadEnvelope_j × (SetMax − SetMin), half rounded up (R76). -/
def envelopeOf (s : State) (j : Nat) : Int :=
  match s.slotFn j with
  | some f => divHalfUp (s.int (slotObj j) 5 * (s.int (0x2800 + f) 5 - s.int (0x2800 + f) 4)) 32768
  | none => 0

/-- f_ref in 0.01 kg/s (R74). -/
def feedRef (s : State) : Rat := meanFinal s.pas.finals 10

/-- The offset of slot j before its clamps (R77). -/
def rawOffset (s : State) (j : Nat) (pred : Rat) : Rat :=
  match s.slotFn j with
  | some _ => (s.int (slotObj j) 4 : Rat) / 65536 * (pred - feedRef s) / 100
  | none => 0

/-- The offset now, in whole set-point units (R77, log 23). -/
def offsetOf (s : State) (j : Nat) (l : Lead) : Int :=
  match s.slotFn j with
  | some f =>
    let e := envelopeOf s j
    let c := (s.fnOf f).c
    clampI (s.int (0x2800 + f) 4 - c) (s.int (0x2800 + f) 5 - c) (clampI (-e) e (ratRound (l.delta.getD j 0)))
  | none => 0

/-! ## Prediction (R72–R74) -/

/-- d(n) of R72 in mm, never negative. -/
def leadDistance (s : State) (num : Nat) : Rat :=
  let sl : Rat := s.nat 0x3810 1
  if pbefore num s.pas.nextParcel then 0
  else
    let d := (pdist s.pas.nextParcel num : Rat) * sl + sl / 2 - (s.pas.acc : Rat) / 65536
    if d < 0 then 0 else d

/-- Ground speed in m/s. -/
def leadSpeed (s : State) : Rat := ((s.stOf 0).speed : Rat) / 65536000

/-- Header load of the newest parcel, 0.01 kg/s; with HeaderLoadSource 0xFF, and where that parcel has none, the mean of the last 10 final
parcels. -/
def feedNowAhead (s : State) : Rat :=
  if s.nat 0x38A0 7 = 0xFF then feedRef s else ((s.pas.heads.head?.map (·.2)).getD none).getD (feedRef s)

/-- Header loads of the last n parcels against ground distance in m. -/
def trendPoints (s : State) (n : Nat) : List (Rat × Rat) :=
  (s.pas.heads.take n).filterMap fun h => h.2.map fun q => (h.1 / 1000, q)

/-- FeedRatio in 0.01: FeedRatioStart until 40 parcels have been learned from (R74). -/
def State.feedRatio (s : State) : Nat := if s.lead.ratios.length < 40 then s.nat 0x38A0 8 else s.lead.feedRatio

/-- Least-squares slope; 0 with fewer than two distances. -/
def slopeOf (l : List (Rat × Rat)) : Rat :=
  let n : Rat := l.length
  let sx := (l.map (·.1)).foldl (· + ·) 0
  let sy := (l.map (·.2)).foldl (· + ·) 0
  let sxx := (l.map fun p => p.1 * p.1).foldl (· + ·) 0
  let sxy := (l.map fun p => p.1 * p.2).foldl (· + ·) 0
  let d := n * sxx - sx * sx
  if d = 0 then 0 else (n * sxy - sx * sy) / d

/-- f_pred of R73 in 0.01 kg/s. -/
def predictFeed (s : State) (num : Nat) (y c : Rat) : Rat :=
  let d := leadDistance s num
  let reach : Rat := s.nat 0x38A0 6
  let fmap := y * (s.feedRatio : Rat) * ((widthInUse s : Rat) / 1000) * leadSpeed s
  let slope := slopeOf (trendPoints s (s.nat 0x38A0 5))
  let t := feedNowAhead s + slope * min d reach / 1000
  let trend := if t < 0 then 0 else t
  let w := if reach = 0 then c else c * min 1 (d / reach)
  w * fmap + (1 - w) * trend

/-- Offsets of all slots for a prediction. -/
def offsetsFor (s : State) (pred : Rat) : List Rat := (List.range 8).map fun j => rawOffset s j pred

/-- Freeze a Lead with its prediction as it stands, and with the present LeadAdvances (R73, R75). -/
def Lead.freeze (s : State) (l : Lead) : Lead :=
  if l.frozen then l
  else { l with frozen := true, delta := offsetsFor s l.pred, adv := (List.range 8).map fun j => s.nat (slotObj j) 3 }

/-- Predict again. -/
def Lead.predict (s : State) (l : Lead) : Lead :=
  if l.frozen then l
  else
    let p := predictFeed s l.parcel l.y l.conf
    { l with pred := p, delta := offsetsFor s p }

/-- Median of rationals, at six decimals (log 11). -/
def medianRat (l : List Rat) : Rat := (medianI (l.map fun q => ratRound (q * 1000000)) : Rat) / 1000000

/-- R74: FeedRatio after parcels have become final. -/
def learnRatio (finals : List Nat) (s : State) : State :=
  finals.foldl (fun s n =>
    match s.pas.ring.find? (fun q => q.num == n && q.pass == 1), s.lead.mapped.find? fun m => m.1 == n with
    | some q, some m =>
      let vp : Rat := if q.cutEnd ≤ q.cutStart then 0 else q.len * 1000000 / ((q.cutEnd - q.cutStart : Nat) : Rat)
      let width := if q.len = 0 then 0 else q.area / q.len / 1000
      let den := m.2.1 * width * vp
      let l := if 1 / 2 ≤ m.2.2 ∧ !q.has pfSlug ∧ !q.has pfMerged ∧ den ≠ 0 then (q.feed / 100 / den :: s.lead.ratios).take 40
        else s.lead.ratios
      s.updLead fun x =>
        { x with ratios := l, mapped := x.mapped.filter fun e => e.1 != n,
                 feedRatio := if l.length < 40 then x.feedRatio else (clampI 50 500 (ratRound (medianRat l * 100))).toNat }
    | _, _ => s) s

/-! ## Placement (R71, R72) -/

/-- The conditions of R71. -/
def placeAllowed (s : State) : Bool :=
  s.pw.dev = .run && s.leadOn && (List.range 8).any (fun j => (s.slotFn j).isSome) && s.cutting && s.pctl.ground == 1 && s.sky.status != 2 &&
    decide ((s.nat 0x38A0 0xE : Rat) / 36 ≤ leadSpeed s) && !s.lead.suspended

/-- Smallest free ring index. -/
def freeIndex (ring : List Lead) : Nat := ((List.range 512).find? fun i => !ring.any fun l => l.index == i).getD 0

/-- The Lead placed for a parcel. -/
def newLead (s : State) (strip : List StripVal) (num : Nat) : Lead :=
  let cell := strip.find? fun c => c.parcel == num
  let pos := match cell with | some c => (c.lat, c.lon) | none => pointAhead s (leadDistance s num)
  Lead.predict s { index := freeIndex s.lead.ring, parcel := num, y := (cell.map (·.y)).getD 0, conf := (cell.map (·.c)).getD 0,
                   lat := pos.1, lon := pos.2, noMap := ((cell.map (·.c)).getD 0) == 0 }

/-- Place Leads nearest first until the horizon or the end of the ring. -/
def placeFrom (strip : List StripVal) : Nat → Nat → State → State
  | 0, _, s => s
  | n + 1, num, s =>
    let d := leadDistance s num
    if (s.nat 0x38A0 2 : Rat) < d then s
    else if s.lead.ring.any fun l => l.parcel == num then placeFrom strip n ((num + 1) % 2 ^ 32) s
    else if 512 ≤ s.lead.ring.length then s.updLead fun x => { x with short := true }
    else
      let l := newLead s strip num
      placeFrom strip n ((num + 1) % 2 ^ 32) (s.updLead fun x =>
        { x with ring := x.ring ++ [l], ahead := x.ahead.filter fun e => e.1 != num })

/-- Farthest distance covered by unresolved Leads. -/
def reachOf (s : State) : Nat := s.lead.ring.foldl (fun m l => max m (leadDistance s l.parcel).floor.toNat) 0

/-- The strip's cells come to the Leads whose prediction has not frozen, and to the parcels that FeedRatio is learned from. -/
def takeStrip (strip : List StripVal) (s : State) : State :=
  s.updLead fun z => { z with
    ring := z.ring.map fun l => match strip.find? fun c => c.parcel == l.parcel with
      | some c => if l.frozen then l else { l with y := c.y, conf := c.c, lat := c.lat, lon := c.lon, noMap := c.c == 0 }
      | none => if l.frozen then l else { l with conf := 0, noMap := true }
    mapped := (strip.map fun c => (c.parcel, c.y, c.c)) ++
      z.mapped.filter fun m => pbefore m.1 s.pas.nextParcel && !strip.any fun c => c.parcel == m.1 }

/-- The Leads' part of an application frame: the strip's cells, predictions and placement. In the frame of a Gallery hand-over the strip
pauses and no Lead is placed (R90). -/
def leadAppFrame (strip : List StripVal) (s : State) : State :=
  let pause := s.lead.pause
  let s := if pause then s else takeStrip strip s
  let place := placeAllowed s && !pause
  let s := s.updLead fun z => { z with ring := z.ring.map (Lead.predict s), short := false, placing := place, pause := false }
  let s := if place then placeFrom strip 513 s.pas.nextParcel s else s
  s.updLead fun z => { z with reach := reachOf s }

/-! ## Closing, acting and resolving (R73, R78–R83) -/

/-- Distance in mm from the middle of a parcel's slice to a Lead's predicted footprint. -/
def footprintMiss (q : Parcel) (l : Lead) : Nat :=
  let d := Config.geoOffset ((q.startLat + q.endLat) / 2) ((q.startLon + q.endLon) / 2) l.lat l.lon
  isqrt (d.1 ^ 2 + d.2 ^ 2).toNat

/-- The close of a parcel: its Lead dies by reason 0x04 or 0x03, or freezes with what it predicts now (R73, R81). -/
def leadClose (s : State) (c : Nat × Bool) : State :=
  if c.2 then killLeads (fun l => l.parcel == c.1) 4 s
  else
    let miss := fun (l : Lead) => match s.pas.ring.find? fun q => q.num == c.1 && q.pass == 1 with
      | some q => s.sky.status != 2 && decide (s.nat 0x38A0 9 < footprintMiss q l)
      | none => false
    let s := killLeads (fun l => l.parcel == c.1 && miss l) 3 s
    s.updLead fun x => { x with ring := x.ring.map fun l => if l.parcel = c.1 ∧ l.state = 1 then Lead.freeze s (Lead.predict s l) else l }

/-- Seconds until a Lead's parcel reaches the action point of slot j (R78). -/
def actionTime (s : State) (num station : Nat) : Option Rat :=
  if station = 0 then
    if pbefore num s.pas.nextParcel then some 0
    else
      let left : Int := (pdist s.pas.nextParcel num * s.nat 0x3810 1 * 65536 : Nat) - s.pas.acc + s.pas.deficit
      if left ≤ 0 then some 0 else travelTime s 0 left
  else
    match s.pas.ring.find? fun q => q.num == num && q.pass == 1 with
    | some q => if (q.visit station).isSome then some 0 else predictCrossing s num station 0
    | none => predictCrossing s num station 0

/-- LeadAdvance of slot j for a Lead: the present one until its prediction freezes (R75). -/
def Lead.advance (s : State) (l : Lead) (j : Nat) : Nat := if l.frozen then l.adv.getD j 0 else s.nat (slotObj j) 3

/-- Slot j of a Lead starts acting in this frame. -/
def startsNow (s : State) (j : Nat) (l : Lead) : Bool :=
  (s.slotFn j).isSome && l.state != 4 && !l.started.testBit j &&
    (match actionTime s l.parcel (s.nat (slotObj j) 2) with
     | some t => decide (t * 1000 ≤ (l.advance s j : Rat))
     | none => false)

/-- Start the slots that are due; the first of them freezes the Lead (R73, R78). -/
def startLead (s : State) (l : Lead) : Lead :=
  let due := (List.range 8).filter fun j => startsNow s j l
  if due = [] then l
  else due.foldl (fun l j => { l with started := setBit l.started j true }) (Lead.freeze s l)

/-- The highest-numbered Lead whose slot j has started. -/
def actingOf (ring : List Lead) (j : Nat) : Option Nat :=
  ring.foldl (fun a l => if l.started.testBit j then
    match a with
    | some p => if pbefore p l.parcel then some l.parcel else a
    | none => some l.parcel
    else a) none

/-- A probe block runs on the slot's function and the acting Lead's parcel is not behind it, or the block waits to begin (R88). -/
def probeSuppress (s : State) (f : Nat) (acting : Option Nat) : Bool :=
  s.pctl.probeWait.any (fun e => e.1.function == f) ||
    (match acting with
     | some n => s.pctl.probes.any fun p => p.1 == f && ((s.fnOf f).mode == 4 || !pbefore n p.2.2.1) &&
         (match p.2.2.2 with | some last => !pbefore last n | none => true)
     | none => false)

/-- SUPPRESSED (R86–R88). -/
def slotSuppressed (s : State) (j : Nat) : Bool :=
  match s.slotFn j with
  | some f => !s.leadOn || !((s.fnOf f).mode == 2 || (s.fnOf f).mode == 4) || probeSuppress s f (s.lead.acting.getD j none)
  | none => true

/-- Feed-forward target of slot j (R78, R83). -/
def slotTarget (s : State) (j : Nat) : Int :=
  if slotSuppressed s j then 0
  else match s.lead.acting.getD j none with
    | some n => match s.lead.ring.find? fun l => l.parcel == n with
      | some l => if l.state = 4 then 0 else offsetOf s j l
      | none => 0
    | none => 0

/-- Every enabled context of a function has made its hand-over run to the law (05 R142). -/
def State.handedOver (s : State) (f : Nat) : Bool :=
  (s.ctxOfFn f).all fun n => !(s.ctxAt n).enabled || (s.ctxAt n).mode == 2 || (s.ctxAt n).mode == 4

/-- The published value of slot j moves toward the target within the function's slew limit; it is 0 outside Auto, and starts from 0 after the
hand-over to it (R78, R86). DESIGN CHOICE (log 67): the step of a frame, SlewLimit / 10,000, is cut to a whole 1/65,536 of a unit. -/
def publishSlot (s : State) (j : Nat) : Int :=
  match s.slotFn j with
  | none => 0
  | some f =>
    if !((s.fnOf f).mode == 2 || (s.fnOf f).mode == 4) || !s.handedOver f then 0
    else
      let old := s.lead.published.getD j 0
      let goal := slotTarget s j * 65536
      let lim := s.nat (0x2800 + f) 6
      if lim = 0 then goal
      else
        let st : Int := (lim * 65536 / 10000 : Nat)
        old + clampI (-st) st (goal - old)

/-- Start, act and publish (R78), and let a narrowed envelope come into force (R79). -/
def actFrame (s : State) : State :=
  let s := s.updLead fun x => { x with ring := x.ring.map (startLead s) }
  let s := s.updLead fun x =>
    { x with acting := (List.range 8).map fun j => match actingOf x.ring j with | some n => some n | none => x.acting.getD j none }
  let pub := (List.range 8).map (publishSlot s)
  s.updLead fun x => s.freeLeads { x with published := pub, pubStamp := s.tm.now, wide := (List.range 8).map fun j =>
    let w := x.wide.getD j 0
    if (pub.getD j 0).natAbs ≤ (envelopeOf s j * 65536).natAbs then 0 else w }

/-- Resolve the Lead of a parcel whose feed has become final (R80, R82); a Lead that has died and still acts shows the measured feed too. -/
def resolveLead (s : State) (num : Nat) : State :=
  match s.pas.ring.find? fun q => q.num == num && q.pass == 1 with
  | none => s
  | some q =>
    let m := (sat16 q.feed).toNat
    let s := s.updLead fun x => { x with ring := x.ring.map fun y => if y.parcel = num then { y with measured := m } else y }
    match s.lead.ring.find? fun l => l.parcel == num && l.state == 1 with
    | none => s
    | some l =>
      let half := max ((s.nat 0x38A0 3 : Rat) / 32768 * l.pred) (s.nat 0x38A0 4 : Rat)
      if (q.feed - l.pred).abs ≤ half then
        let hit := [l]
        { s with
          lead := { s.lead with ring := s.lead.ring.map fun y => if y.parcel = num ∧ y.state = 1 then { y with state := 3 } else y,
                                went := inc32 s.lead.went, periodWent := s.lead.periodWent + 1, deaths := 0 }
          pas := { s.pas with ring := markParcels s.pas.ring hit 1 } }
      else
        let s := (killLeads (fun y => y.parcel == num) 1 s).updLead fun x => { x with deaths := x.deaths + 1 }
        if s.nat 0x38A0 0xB ≤ s.lead.deaths ∧ !s.lead.suspended then
          (killUnresolved 9 s).updLead fun x => { x with suspended := true, sinceSuspend := 0 }
        else s

/-- The Leads' part of a loop frame, after the Passage has advanced: `ev` is what it made happen, `finals` the parcels final now. -/
def leadFrame (ev : PasEv) (finals : List Nat) (s : State) : State :=
  let s := ev.closed.foldl leadClose s
  let s := if s.cutting then s else killUncut 2 s
  let s := if s.pas.deficit > (s.nat 0x38A0 0xD : Int) * 65536 then killUncut 0xA s else s
  let s := if s.sky.status = 2 then
      s.updLead fun x => { x with ring := x.ring.map fun l => if l.frozen then l else { (Lead.freeze s l) with holdover := true } }
    else s
  let s := finals.foldl resolveLead (learnRatio finals s)
  let s := ev.crossings.foldl (fun s c =>
    if c.station = 2 ∧ c.pass = 1 then killLeads (fun l => l.parcel == c.num) 0xB s else s) s
  actFrame s

/-- R82: SuspendParcels more parcels have been cut. The consecutive count stands: only a Lead that goes resets it. -/
def execLeadSuspendEnd (s : State) : Out :=
  .next <| if s.lead.suspended && decide (s.nat 0x38A0 0xC ≤ s.lead.sinceSuspend) then
    s.updLead fun x => { x with suspended := false }
  else s

/-- R85: the record of a 10 s period in which a Lead was resolved. -/
def execLeadCountRecord (s : State) : Out :=
  .next <| if s.lead.periodWent + s.lead.periodDied ≠ 0 then
    (s.record ⟨0x3010, 0, 0x05, leBytes 4 s.lead.periodWent ++ leBytes 4 s.lead.periodDied, [], 0xFFFFFFFF, 0xF⟩).updLead fun x =>
      { x with periodWent := 0, periodDied := 0 }
  else s

/-! ## Header work (02 R32, R37) -/

/-- R32, R37: the header enters work, and the accumulator restarts at 0. -/
def execHeaderEntersWork (s : State) : Out :=
  .next <| if s.senses ∧ s.nat 0x3810 3 ≠ 0xFE ∧ !s.pas.headerInWork then
    s.optSettle.updPas fun p => { p.noSlice with headerInWork := true }
  else s

/-- R32, R37: while the Passage cuts, a partial slice of 10 mm or more closes as a SHORT parcel and a shorter one is discarded. Cutting stops;
where it had stopped before, no parcel is cut and the accumulator restarts at 0 when the header next enters work. -/
def execHeaderLeavesWork (s : State) : Out :=
  .next <| if s.senses ∧ s.pas.headerInWork then
    let cut := s.cutting
    let (s, ev) := if cut ∧ 655360 ≤ s.pas.acc then closeSlice s (s.pas.acc / 65536).toNat 0 0 true else (s, {})
    let s := (s.optVoid 0x12).updPas fun p => { (if cut then p.noSlice else p) with headerInWork := false }
    killUncut 2 (ev.closed.foldl leadClose (s.records ev.recs))
  else s

/-! ## Objects -/

/-- Writes to 0x38A0 (Table 03-1). -/
def leadWrite (w : Ctx) (i sub : Nat) (v : Val) (s : State) : Except Nat State :=
  checked w i sub v s fun s =>
    if sub = 1 then
      if valNum v = 0 then .ok (killUnresolved 8 (s.put i sub v))
      else if s.nat 0x3810 0xA = 0xFF ∨ !(List.range 8).any (fun j => (s.slotFn j).isSome) then .error Abort.state
      else .ok (s.put i sub v)
    else .ok (s.put i sub v)

/-- Writes to 0x38A8 + j (R75, R79). -/
def slotWrite (w : Ctx) (i sub : Nat) (v : Val) (s : State) : Except Nat State :=
  checked w i sub v s fun s =>
    let j := i - 0x38A8
    let f := (valNum v).toNat
    let twin := f != 0xFF && (List.range 8).any fun k => k != j && s.nat (slotObj k) 1 == f
    let steer := f != 0xFF && (s.ctxOfFn f).any fun n =>
      [1, 2].contains (s.nat (0x3000 + n) 9) || [1, 2].contains (s.nat (0x3000 + n) 0xA)
    if sub = 1 ∧ (twin ∨ steer) then .error Abort.range
    else if (sub = 1 ∨ sub = 2) ∧ s.leadOn then .error Abort.state
    else if sub = 5 then
      let e := envelopeOf s j
      .ok ((s.put i sub v).updLead fun x => { x with wide := updAt x.wide j fun w => max w e })
    else .ok (s.put i sub v)

def execLeadEnable (sess : Nat) (v : Int) (s : State) : Out := s.asSession sess 0x38A0 fun w => leadWrite w 0x38A0 1 (.int v)
def execLeadSlotWrite (sess j sub : Nat) (v : Int) (s : State) : Out :=
  if j < 8 then s.asSession sess (0x38A8 + j) fun w => slotWrite w (0x38A8 + j) sub (.int v) else withUnit false s

/-- ActingMask of a Lead. -/
def actingMask (s : State) (l : Lead) : Nat :=
  (List.range 8).foldl (fun m j => setBit m j (s.lead.acting.getD j none == some l.parcel)) 0

/-- Fields of the lead window (Table 03-5). -/
def leadFields (s : State) (l : Lead) : List (Nat × Val) :=
  let mask := actingMask s l
  let st := if l.state = 1 ∧ mask ≠ 0 then 2 else l.state
  [(4, .int s.tm.now), (5, .int (b2n (decide (st ≤ 2)))), (6, .int l.index), (7, .int l.parcel), (8, .int st), (9, .int (sat16 l.pred)),
   (0xA, .int l.measured), (0xB, .int (sat15 (ratRound (l.conf * 32768)))), (0xC, .int l.lat), (0xD, .int l.lon), (0xE, .int l.reason),
   (0xF, .bytes ((List.range 8).flatMap fun j => leInt 4 (offsetOf s j l))), (0x10, .int mask),
   (0x11, .int (b2n l.holdover + 2 * b2n l.noMap + 4 * b2n l.frozen))]

/-- Snapshot of the selected parcel's Lead (R91). -/
def leadSnapshot (n : Nat) (s : State) : State :=
  let num := (s.sessOf n).win.leadSelect
  let l := s.lead.ring.find? fun l => l.parcel == num
  let freed := s.lead.ahead.any (fun e => e.1 == num) || s.pas.ring.any fun q => q.num == num && q.pass == 1 && q.leadRef != 0xFFFF
  s.updWin n fun w => { w with leadResult := if l.isSome then 0 else if freed then 2 else 1, leadCopy := match l with
    | some l => leadFields s l
    | none => [] }

/-- Writes to 0x38C0; a session on `E1` is refused (R85). -/
def leadWindowWrite (w : Ctx) (i sub : Nat) (v : Val) (s : State) : Except Nat State :=
  match w.sess with
  | none => .error Abort.noRight
  | some n =>
    if (s.sessOf n).transport = .e1 then .error Abort.noRight
    else checked w i sub v s fun s =>
      .ok (if sub = 1 then s.updWin n fun x => { x with leadSelect := (valNum v).toNat } else leadSnapshot n s)

def execLeadSnapshot (sess : Nat) (v : Int) (s : State) : Out := s.asSession sess 0x38C0 fun w => leadWindowWrite w 0x38C0 2 (.int v)

/-- Values that 0x38A0–0x38C1 read. -/
def leadRead (s : State) (sess i sub : Nat) : Option Val :=
  if i = 0x38A0 then (if sub = 0xA then some (.int s.feedRatio) else none)
  else if 0x38A8 ≤ i ∧ i < 0x38B0 then
    let j := i - 0x38A8
    if sub = 6 then some (.int (b2n (s.slotFn j).isSome + 2 * b2n (s.lead.acting.getD j none).isSome +
      4 * b2n ((s.slotFn j).isSome && slotSuppressed s j))) else none
  else if i = 0x38C0 then
    let w := (s.sessOf sess).win
    if sub = 1 then some (.int w.leadSelect) else if sub = 3 then some (.int w.leadResult)
    else some ((w.leadCopy.find? fun e => e.1 == sub).elim
      (if sub = 0xF then .bytes (List.replicate 32 0#8) else .int (if sub = 5 then 1 else if sub = 0xA then 0xFFFF else 0)) (·.2))
  else if i = 0x38C1 then
    let x := s.lead
    match sub with
    | 1 => some (.int (b2n x.placing + 2 * b2n x.suspended + 4 * b2n x.short + 8 * b2n (s.sky.status == 2)))
    | 2 => some (.int x.ring.length) | 3 => some (.int x.went) | 4 => some (.int x.died)
    | 5 => some (.bytes (x.byReason.flatMap (leBytes 4))) | 6 => some (.int (min x.reach 65535)) | _ => none
  else none

end Sys2Proof.Machine
end

