-- ==== Sys2Proof/Machine/Comp.lean ====
section
/-! DEFINITION. Measurement sources of the loop engine (05 R131) and the compensation term (chapter 06, R155–R164). -/

namespace Sys2Proof.Machine

/-! ## Sources (05 Table 05-5) -/

/-- Position of a SENT input and its validity (10 R242). -/
def sentConsumer (s : State) (i : Nat) : Int × Bool :=
  let x := s.sens.sent.getD i {}
  (x.sig1, s.flag (0x48A0 + i) 1 && x.ok && !x.diag)

/-- A shaft input is configured and HEALTHY. -/
def State.shValid (s : State) (h : Nat) : Bool := s.nat (0x4860 + h) 1 != 0 && !(s.shOf h).bad

/-- Raw value and validity of a measurement source (R131, R133). -/
def sourceValue (s : State) (c : Nat) : Int × Bool :=
  if 1 ≤ c ∧ c ≤ 0xC then (shaftRate s (c - 1), s.shValid (c - 1))
  else if c = 0x21 ∨ c = 0x22 then (shaftAngle s (c - 0x21), s.shValid (c - 0x21) && s.nat (0x4860 + (c - 0x21)) 6 != 0)
  else if 0x40 ≤ c ∧ c < 0x58 then aiConsumer s (c - 0x40)
  else if 0x60 ≤ c ∧ c < 0x70 then sentConsumer s (c - 0x60)
  else if 0x70 ≤ c ∧ c < 0x80 then (s.loop.lat.imeas.getD (c - 0x70) 0, true)
  else if c = 0x88 then (s.sens.imu.roll, s.sens.imu.valid)
  else if c = 0x89 then (s.sens.imu.pitch, s.sens.imu.valid)
  else if c = 0x8A then (s.sens.imu.rate.getD 2 0, s.sens.imu.valid)
  else (0, false)

/-- A code of Table 05-5. -/
def measCode (c : Int) : Bool :=
  c == 0 || inRanges [(1, 12), (0x21, 0x22), (0x40, 0x57), (0x60, 0x6F), (0x70, 0x7F), (0x88, 0x8A)] c

/-- MeasSource names an input that is off or not configured (05 Table 05-4, 0x07). -/
def sourceOff (s : State) (c : Nat) : Bool :=
  if 1 ≤ c ∧ c ≤ 0xC then s.nat (0x4860 + (c - 1)) 1 == 0
  else if c = 0x21 ∨ c = 0x22 then s.nat (0x4860 + (c - 0x21)) 1 == 0 || s.nat (0x4860 + (c - 0x21)) 6 == 0
  else if 0x40 ≤ c ∧ c < 0x58 then s.nat (0x4840 + (c - 0x40)) 1 == 0
  else if 0x60 ≤ c ∧ c < 0x70 then !s.flag (0x48A0 + (c - 0x60)) 1
  else c == 0

/-! ## The repetitive controller (R158–R161) -/

/-- Object of a context's compensation. -/
abbrev compObj (n : Nat) : Nat := 0x3400 + n

/-- Cell and number of cells (R158). -/
def repCell (s : State) (n : Nat) (c : Comp) : Nat × Nat :=
  let src := s.nat (compObj n) 1
  let per := s.nat (compObj n) 2
  if src = 0 then (c.total % per, per)
  else if 1 ≤ src ∧ src ≤ 0xC then
    ((((s.shOf (src - 1)).count % (per : Int)).toNat * 512 / per), 512)
  else if src = 0x21 ∨ src = 0x22 then (shaftAngle s (src - 0x21) / 128, 512)
  else (0, 512)

/-- The period source is valid (R158, R162). -/
def repValid (s : State) (n : Nat) (c : Comp) : Bool :=
  let src := s.nat (compObj n) 1
  let fast := fun (h per : Nat) => s.shValid h && per != 0 &&
    decide ((s.nat (compObj n) 9 * per : Nat) ≤ shaftRate s h)
  !c.waitIndex &&
    (if src = 0 then true
     else if 1 ≤ src ∧ src ≤ 0xC then fast (src - 1) (s.nat (compObj n) 2)
     else if src = 0x21 ∨ src = 0x22 then fast (src - 0x21) (s.nat (0x4860 + (src - 0x21)) 6)
     else false)

/-- The period source runs backward. -/
def repReverse (s : State) (n : Nat) : Bool :=
  let src := s.nat (compObj n) 1
  if 1 ≤ src ∧ src ≤ 0xC then (s.shOf (src - 1)).reverse
  else if src = 0x21 ∨ src = 0x22 then (s.shOf (src - 0x21)).reverse
  else false

/-- A cell after its update, from the memory before the run (R159). -/
def repUpdate (smooth : Bool) (forget gain eMean : Int) (mem : List Int) (np j : Nat) : Int :=
  let at_ := fun i => mem.getD (i % np) 0
  let m := if smooth then divHalfUp (at_ (j + np - 1) + 2 * at_ j + at_ (j + 1)) 4 else at_ j
  sat15 (divHalfUp (forget * m + gain * eMean) 32768)

/-- The cells from j, `todo` of them, updated (R159). -/
def repUpdates (f : Nat → Int) (np : Nat) : Nat → Nat → List Int → List Int
  | 0, _, out => out
  | todo + 1, j, out => repUpdates f np todo ((j + 1) % np) (updAt out j fun _ => f j)

/-- One run of the repetitive part: c_rep in Q15, and the new compensation state. `ok` are the conditions of R160 that the context's run
decides. -/
def repRun (s : State) (n : Nat) (c : Comp) (e : Int) (ok : Bool) : Int × Comp :=
  let o := compObj n
  let (k, np) := repCell s n c
  let valid := repValid s n c
  let rev := repReverse s n
  let out := valid && !rev
  let lim := s.int o 7
  let raw := c.mem.getD ((k + s.nat o 5) % np) 0
  let crep := if out then clampI (-lim) lim raw else 0
  let dk := (k + np - c.k % np) % np
  let gain := s.int o 3
  let learn := out && decide (dk ≤ 64) && decide (0 < gain) && decide ((e.natAbs : Int) ≤ s.int o 8) && !c.held && ok
  let go := learn && decide (1 ≤ dk) && decide (0 < c.runs)
  let eMean := divHalfUp c.eSum c.runs
  let mem := if go then
      repUpdates (repUpdate (s.nat o 6 == 1) (s.int o 4) gain eMean c.mem np) np dk (c.k % np) c.mem
    else c.mem
  let (es, rs) := if dk ≠ 0 ∨ !learn then (0, 0) else (c.eSum, c.runs)
  let (es, rs) := if learn then (es + e, rs + 1) else (es, rs)
  (crep, { c with
    mem := mem, k := k, eSum := es, runs := rs, total := c.total + 1, overspeed := decide (64 < dk), reverse := rev, srcInvalid := !valid,
    limited := out && crep != raw, learning := learn, frozen := decide (0 < gain) && !learn,
    learnCount := if go then add32 c.learnCount dk else c.learnCount })

/-! ## Friction and cogging (R163, R164) -/

/-- Table position in 1/256 entry, whether it wraps, whether the clamp acts; none while the source is not valid (R163). -/
def tablePos (s : State) (n : Nat) (own : Int × Bool) : Option (Int × Bool × Bool) :=
  let o := compObj n
  let src := s.nat o 0x10
  let v := if src = 0xFE then own else sourceValue s src
  if src = 0xFF ∨ !v.2 then none
  else if src = 0x21 ∨ src = 0x22 then some (v.1, true, false)
  else
    let lo := s.int o 0x11
    let hi := s.int o 0x12
    let x := divHalfUp ((v.1 - lo) * 65280) (hi - lo).toNat
    some (clampI 0 65280 x, false, decide (x < 0) || decide (65280 < x))

/-- The value read from a table at a position (R163). -/
def tableRead (b : Bytes) (x : Int) (wraps : Bool) : Int :=
  let i := (x / 256).toNat
  let t := fun j => fieldInt b (2 * j) 2
  let next := if i = 255 then (if wraps then t 0 else t 255) else t (i + 1)
  t i + divHalfUp ((next - t i) * (x % 256)) 256

/-- Difference of wrapped angles into −32,768…32,767. -/
def wrap16 (d : Int) : Int := (d + 32768) % 65536 - 32768

/-- c_fric (accumulator) and c_cog (Q15) of a run, and the new state. -/
def tableRun (s : State) (n : Nat) (c : Comp) (own : Int × Bool) : Int × Int × Comp :=
  let o := compObj n
  let sel := s.nat (0x3000 + n) 0xF
  match tablePos s n own with
  | none => (0, 0, { c with posInvalid := true, clamped := false, xPrev := none })
  | some (x, wraps, clamped) =>
    let vs := s.nat o 0x13
    let vel : Option Int := if vs = 0 then
        (match c.xPrev with | some p => some (if wraps then wrap16 (x - p) else x - p) | none => some 0)
      else if s.shValid (vs - 1) then some (shaftRate s (vs - 1)) else none
    let sg := match vel with | some v => clampI (-32768) 32767 (divHalfUp (v * 32768) (s.int o 0x14).toNat) | none => 0
    let fr := if sel.testBit 1 ∧ vel.isSome then tableRead (s.raw o 0x15) x wraps * sg * 2 else 0
    let cog := if sel.testBit 2 then tableRead (s.raw o 0x16) x wraps else 0
    (fr, cog, { c with posInvalid := false, clamped := clamped, xPrev := some x })

/-- The compensation term of a run in the accumulator, and the new state (R155). The sources' status bits follow whatever CompSelect
selects (Table 06-2). -/
def compRun (s : State) (n : Nat) (c : Comp) (e : Int) (own : Int × Bool) (ok : Bool) : Int × Comp :=
  let sel := s.nat (0x3000 + n) 0xF
  let c := if c.clear then { c with mem := List.replicate 512 0, clear := false } else c
  let (rep, c) := if sel.testBit 0 then repRun s n c e ok
    else (0, { c with total := c.total + 1, learning := false, frozen := false, limited := false, overspeed := false,
                      reverse := repReverse s n, srcInvalid := !repValid s n c })
  let (fr, cog, c) := tableRun s n c own
  (rep * 65536 + fr + cog * 65536, { c with terms := [rep, sat15 (divHalfUp fr 65536), cog] })

/-! ## Objects (R156, R157, R162) -/

/-- CompStatus (Table 06-2). -/
def compStatus (c : Comp) : Nat :=
  b2n c.learning + 2 * b2n c.frozen + 4 * b2n c.held + 8 * b2n c.clamped + 16 * b2n c.posInvalid + 32 * b2n c.limited +
    64 * b2n c.srcInvalid + 128 * b2n c.reverse + 256 * b2n c.overspeed + 512 * b2n c.loaded

/-- Update of a context's compensation. -/
def State.updComp (s : State) (n : Nat) (f : Comp → Comp) : State := s.updCtx n fun x => { x with comp := f x.comp }

/-- 512 cells from 1,024 bytes. -/
def cellsOf (b : Bytes) : List Int := (List.range 512).map fun j => fieldInt b (2 * j) 2

/-- RepCommand (R162). The save needs an OEM- or Service-role session. -/
def repCommand (w : Ctx) (n : Nat) (v : Int) (s : State) : Except Nat State :=
  match v with
  | 1 => .ok (s.updComp n fun c => { c with clear := true })
  | 2 => .ok (s.updComp n fun c => { c with held := true })
  | 3 => .ok (s.updComp n fun c => { c with held := false })
  | _ =>
    if w.role < 2 then .error Abort.noRight
    else if (s.ctxAt n).comp.save ∨ (s.ctxAt n).comp.saving then .error Abort.state
    else .ok (s.updComp n fun c => { c with save := true })

/-- Writes to 0x3400 + n (R157, R162). -/
def compWrite (w : Ctx) (i sub : Nat) (v : Val) (s : State) : Except Nat State :=
  checked w i sub v s fun s =>
    let n := i - 0x3400
    let x := valNum v
    let src := s.nat i 1
    if sub = 0xC then repCommand w n x s
    else if sub = 2 ∧ src = 0 ∧ 512 < x then .error Abort.range
    else if sub = 2 ∧ 1 ≤ src ∧ src ≤ 0xC ∧ x < 8 then .error Abort.range
    else if sub = 5 ∧ (if src = 0 then s.int i 2 else 512) ≤ x then .error Abort.range
    else if sub = 0x11 ∧ s.int i 0x12 ≤ x then .error Abort.range
    else if sub = 0x12 ∧ x ≤ s.int i 0x11 then .error Abort.range
    else if sub = 0xB ∧ x = 1 ∧ !((src = 0x21 ∨ src = 0x22) ∧ s.nat (0x4860 + (src - 0x21)) 7 ≠ 0xFF) then .error Abort.range
    else if [1, 2, 0x10, 0x11, 0x12, 0x13].contains sub ∧ (s.ctxAt n).enabled then .error Abort.state
    else if sub = 0xD then
      if (s.ctxAt n).enabled ∧ !(s.ctxAt n).comp.held then .error Abort.state
      else .ok (s.updComp n fun c => { c with mem := cellsOf (valRaw v) })
    else .ok (s.put i sub v)

def execRepClear (sess n : Nat) (s : State) : Out :=
  if n < 128 then s.asSession sess (compObj n) fun w => compWrite w (compObj n) 0xC (.int 1) else withUnit false s
def execRepHold (sess n : Nat) (s : State) : Out :=
  if n < 128 then s.asSession sess (compObj n) fun w => compWrite w (compObj n) 0xC (.int 2) else withUnit false s
def execRepResume (sess n : Nat) (s : State) : Out :=
  if n < 128 then s.asSession sess (compObj n) fun w => compWrite w (compObj n) 0xC (.int 3) else withUnit false s
def execRepSave (sess n : Nat) (s : State) : Out :=
  if n < 128 then s.asSession sess (compObj n) fun w => compWrite w (compObj n) 0xC (.int 4) else withUnit false s
def execCompTableWrite (sess n sub : Nat) (data : Bytes) (s : State) : Out :=
  if n < 128 then s.asSession sess (compObj n) fun w => compWrite w (compObj n) sub (.bytes data) else withUnit false s

/-- R161, R162: the memory at Start: loaded from its saved copy with RepLoadAtStart 1, and then waiting for the index; else cleared. -/
def loadMemory (s : State) (n : Nat) : State :=
  let v := (findTarget s.per.targets 2 (keyOf (compObj n) 0xD)).bind Target.used
  match v with
  | some (.bytes b) =>
    if s.flag (compObj n) 0xB then s.updComp n fun c => { c with mem := cellsOf b, loaded := true, waitIndex := true, srcInvalid := true }
    else s.updComp n fun c => { c with mem := List.replicate 512 0, loaded := false, waitIndex := false }
  | _ => s.updComp n fun c => { c with mem := List.replicate 512 0, loaded := false, waitIndex := false }

/-- R162: at Start. -/
def execRepMemoryLoad (n : Nat) (s : State) : Out :=
  withUnit (decide (n < 128)) (if s.pw.dev = .start then loadMemory s n else s)

/-- Values that 0x3400 + n reads. -/
def compRead (s : State) (i sub : Nat) : Option Val :=
  let c := (s.ctxAt (i - 0x3400)).comp
  match sub with
  | 0xD => some (.bytes (c.mem.flatMap (leInt 2))) | 0xE => some (.int c.k) | 0xF => some (.int (compStatus c))
  | 0x17 => some (.bytes (c.terms.flatMap (leInt 2))) | 0x18 => some (.int c.learnCount) | _ => none

end Sys2Proof.Machine
end

