-- ==== Sys2Proof/Machine/Loop.lean ====
section
/-! DEFINITION. The loop engine (chapter 05): arithmetic, coefficient sets, one run of a context, set-points, modes and hand-over, safe
states, the static schedule check, the compare of the two sequencers and the latch. -/

namespace Sys2Proof.Machine

abbrev ctxObj (n : Nat) : Nat := 0x3000 + n
abbrev fnObj (f : Nat) : Nat := 0x2800 + f

/-! ## Arithmetic (R126, R127) -/

/-- Saturation of an accumulator operation, and 1 when it acted. -/
def accSat (x : Int) : Int × Nat := if x < -(2 ^ 39) then (-(2 ^ 39), 1) else if 2 ^ 39 ≤ x then (2 ^ 39 - 1, 1) else (x, 0)

/-- Sum of accumulator values, one addition after another. -/
def accSum (l : List Int) : Int × Nat := l.foldl (fun a x => let r := accSat (a.1 + x); (r.1, a.2 + r.2)) (0, 0)

/-- m × x × 2^s for a Q15 mantissa and an accumulator value, rounded half up into the accumulator. -/
def gainAcc (m s x : Int) : Int × Nat :=
  accSat (if 0 ≤ s then divHalfUp (m * x * 2 ^ s.toNat) 32768 else divHalfUp (m * x) (32768 * 2 ^ (-s).toNat))

/-- Conversion of the accumulator to Q15. -/
def q15 (x : Int) : Int := sat15 ((x + 0x8000) / 65536)

/-- Q15 of (raw − offset) × 32,768 / full scale, rounded half up (R132). -/
def toQ15 (raw : Rat) (off fs : Int) : Int :=
  let q := (raw - off) * 32768 / fs
  sat15 (divHalfUp q.num q.den)

/-! ## Coefficient sets (R138, R139) -/

/-- A coefficient set. -/
structure Coef where
  kp : Int
  kpS : Int
  ki : Int
  kiS : Int
  kd : Int
  kdS : Int
  kf : Int
  kfS : Int
  ad : Int
  bw : Int
  intMax : Int
  intMin : Int
  outMax : Int
  outMin : Int
  setId : Nat
  aw : Nat
  deriving DecidableEq, Repr

/-- The set of a 32-byte record (Table 05-8). -/
def coefOf (b : Bytes) : Coef :=
  let n := leNat b
  let i16 := fun p => toSigned 2 (bits n p 16)
  let i8 := fun p => toSigned 1 (bits n p 8)
  ⟨i16 240, i8 232, i16 208, i8 224, i16 192, i8 184, i16 160, i8 176, bits n 144 16, bits n 128 16, i16 112, i16 96, i16 80, i16 64,
   bits n 48 16, bits n 40 8⟩

/-- The checks of R139. -/
def coefOk (b : Bytes) : Bool :=
  let k := coefOf b
  let sh := fun (s : Int) => decide (-16 ≤ s) && decide (s ≤ 8)
  b.length == 32 && fieldLe b 0 2 == crc16 (nats (b.drop 2)) && sh k.kpS && sh k.kiS && sh k.kdS && sh k.kfS && decide (k.ad ≤ 32767) &&
    decide (k.bw ≤ 32768) && decide (k.intMin ≤ k.intMax) && decide (k.outMin < k.outMax) && decide (k.aw ≤ 1) &&
    bits (leNat b) 16 24 == 0

/-- The set a context uses. -/
def activeCoef (s : State) (n active : Nat) : Coef := coefOf (s.raw (ctxObj n) (0x10 + active))

/-! ## Contexts and their schedule (R121, R124) -/

/-- Class period in frames (Table 05-1). -/
def periodOf (s : State) (n : Nat) : Nat :=
  match s.nat (ctxObj n) 3 with | 1 => 1 | 2 => 10 | 3 => 100 | _ => 1000

/-- A context is due in the present frame. -/
def ctxDue (s : State) (n : Nat) : Bool :=
  let x := s.ctxAt n
  x.enabled && decide (x.lane < 4) && s.tm.frame % periodOf s n == x.phase

/-- Outer context named by SetpointSel. -/
def outerOf (s : State) (n : Nat) : Option Nat := if 0x80 ≤ s.nat (ctxObj n) 7 then some (s.nat (ctxObj n) 7 - 0x80) else none

/-- Cascade depth, the outermost at 0; `fuel` bounds the chain. -/
def depthOf (s : State) : Nat → Nat → Nat
  | 0, _ => 0
  | fuel + 1, n => match outerOf s n with | some m => depthOf s fuel m + 1 | none => 0

/-- The contexts due now, outermost first, then by number (R124). -/
def dueOrder (s : State) : List Nat :=
  let due := indices 128 (ctxDue s)
  [0, 1, 2, 3].flatMap fun d => due.filter fun n => min (depthOf s 5 n) 3 == d

/-- A destination is physical. -/
def physical (s : State) (n : Nat) : Bool := s.nat (ctxObj n) 9 != 0 || s.nat (ctxObj n) 0xA != 0

/-- Enabled contexts of a function. -/
def enabledOf (s : State) (f : Nat) : List Nat := indices 128 fun n => (s.ctxAt n).enabled && s.nat (ctxObj n) 2 == f

/-- Lowest enabled context of a function with a physical destination. -/
def leadCtx (s : State) (f : Nat) : Option Nat := (enabledOf s f).find? (physical s)

/-- Lowest enabled outermost context of a function. -/
def outermost (s : State) (f : Nat) : Option Nat := (enabledOf s f).find? fun n => (outerOf s n).isNone

/-- A context has LeadInput 1, or is cascaded from one that has (R167). -/
def leadFed (s : State) : Nat → Nat → Bool
  | 0, _ => false
  | fuel + 1, n => s.flag (ctxObj n) 8 || (match outerOf s n with | some m => leadFed s fuel m | none => false)

/-- The law runs in Auto and Probe. -/
def isAuto (m : Nat) : Bool := m == 2 || m == 4

/-! ## Safe states (R145) -/

/-- On/off command with its hysteresis. -/
def onCommand (u thr hyst : Int) (old : Bool) : Bool := if thr ≤ u then true else if u < thr - hyst then false else old

/-- A context's output at the safe command of its function: off, as latched in the last agreeing frame, or SafeValue through its mapping (R145). -/
def safeOut (s : State) (f : Nat) (x : LCtx) : LCtx :=
  match s.nat (fnObj f) 0xC with
  | 0 => { x with u := 0, posOn := false, negOn := false }
  | 1 => { x with u := x.last.u, posOn := x.last.posOn, negOn := x.last.negOn }
  | _ =>
    let v := s.int (fnObj f) 0xD
    { x with u := v * 65536, posOn := onCommand v x.map.thr x.map.hyst x.last.posOn, negOn := onCommand (-v) x.map.thr x.map.hyst x.last.negOn }

/-- The safe command reaches the contexts of a function that drive something. -/
def safeCtx (s : State) (f : Nat) (n : Nat) (x : LCtx) : LCtx :=
  if s.nat (ctxObj n) 2 != f || !x.enabled || !physical s n then x else safeOut s f x

/-- The published Lead value of a function that leaves Auto is 0 in that frame (03 R86). -/
def dropLead (f : Nat) (s : State) : State :=
  match s.slotOf f with
  | some j => s.updLead fun x => { x with published := updAt x.published j fun _ => 0 }
  | none => s

/-- The loop engine applies the safe state of a function: FunctionMode becomes Manual and ManualCommand holds the safe command (R145). -/
def applySafe (f : Nat) (s : State) : State :=
  let s := dropLead f s
  let s := s.updLoop fun l => { l with ctx := l.ctx.mapIdx fun n x => safeCtx s f n x }
  let cmd := match leadCtx s f with | some n => q15 (s.ctxAt n).u | none => if s.nat (fnObj f) 0xC = 2 then s.int (fnObj f) 0xD else 0
  s.updFn f fun x => { x with mode := 1, next := none, abort := false, manual := cmd, safe := true, atSafe := true, still := false,
                              safeOff := s.nat (fnObj f) 0xC == 0 }

/-- Column-B forces a function safe (R79, R148, 01 R21): the force holds until FunctionCommand 0x01. -/
def columnForce (f : Nat) (s : State) : State := (applySafe f s).updFn f fun x => { x with forced := true, agreed := 0 }

/-- All functions. -/
def applySafeAll (s : State) : State := (List.range 48).foldl (fun s f => applySafe f s) s

/-! ## Modes (R141, R142) -/

/-- Command now applied by the lowest context with a physical destination. -/
def appliedCommand (s : State) (f : Nat) : Int := match leadCtx s f with | some n => q15 (s.ctxAt n).u | none => (s.fnOf f).manual

/-- A mode takes effect at a frame start (R142): ManualCommand is set on leaving Auto, Probe or Hold for Manual, and after Hold nothing moves. -/
def takeMode (s : State) (f m : Nat) : State :=
  let cmd := appliedCommand s f
  s.updFn f fun x => { x with mode := m, next := none, manual := if m = 1 ∧ x.mode ≠ 1 then cmd else x.manual,
                              still := decide (m = 1) && (x.mode == 3 || x.still) }

/-- Aborts and written modes at a frame start (R141, R146). -/
def modeFrame (s : State) : State :=
  (List.range 48).foldl (fun s f =>
    let x := s.fnOf f
    if x.abort then applySafe f s
    else match x.next with
      | some m => takeMode s f m
      | none => s) s

/-- Why a write of Auto is refused (R141). -/
def autoRefused (s : State) (f : Nat) : Bool :=
  (leadCtx s f).isNone || (s.fnOf f).forced || (s.pw.dev == .service && s.nat 0x3C00 1 == f)

/-- On entry to Run from Start each function enters StartMode, or Manual where Auto would be refused (R141); the steering function enters
Manual, since only engagement gives it another mode (08 R192). -/
def startModes (s : State) : State :=
  (List.range 48).foldl (fun s f =>
    let m := s.nat (fnObj f) 2
    s.updFn f fun x => { x with next := some (if (m = 2 ∧ autoRefused s f) ∨ s.nat 0x3C00 1 = f then 1 else m) }) s

/-! ## Set-points (R134–R137) -/

/-- C of a function for this frame, with SETPOINT_LIMITED and SETPOINT_FAULT (R136, R137). -/
def sourceFrame (s : State) (f : Nat) (x : Fn) : Fn :=
  let o := fnObj f
  let lo := s.int o 4
  let hi := s.int o 5
  let src := s.nat o 8
  if src = 2 ∨ src = 3 then
    let inp := s.nat o 9
    let v := if inp = 0xFF then (0, false) else sourceValue s inp
    if v.2 then
      let p := divHalfUp (s.int o 0xA * v.1) 65536
      { x with c := clampI lo hi p, limited := decide (p < lo) || decide (hi < p), spFault := false }
    else { x with c := clampI lo hi x.c, limited := decide (x.c < lo) || decide (hi < x.c), spFault := true }
  else { x with c := clampI lo hi x.c, limited := decide (x.c < lo) || decide (hi < x.c), spFault := false }

/-- Published Lead value of a function in whole units (log 23). -/
def leadValue (s : State) (f : Nat) : Int := match s.slotOf f with | some j => divHalfUp (s.lead.published.getD j 0) 65536 | none => 0

/-- W (R134). -/
def effective (s : State) (f : Nat) (c : Int) : Int :=
  let e := match s.slotOf f with | some j => envelopeOf s j | none => 0
  clampI (s.int (fnObj f) 4) (s.int (fnObj f) 5) (clampI (c - e) (c + e) (c + leadValue s f))

/-- A ramp's step toward its target (R135). -/
def rampStep (lim : Nat) (goal r : Rat) : Rat :=
  if lim = 0 then goal
  else
    let st : Rat := (lim : Rat) / 10000
    r + clampQ (-st) st (goal - r)

/-- In the frame in which its outermost contexts hand over to the law, both ramps start from the measured value (R142). -/
def rampsRestart (s : State) (f : Nat) : Option Int :=
  let outer := (enabledOf s f).filter fun n => (outerOf s n).isNone
  if isAuto (s.fnOf f).mode && outer.any (fun n => ctxDue s n && !isAuto (s.ctxAt n).mode) && !outer.any fun n => isAuto (s.ctxAt n).mode then
    outer.head?.map fun n => (sourceValue s (s.nat (ctxObj n) 4)).1
  else none

/-- The set-point stage of a function at 20 µs. -/
def setpointFrame (s : State) (f : Nat) (x : Fn) : Fn :=
  let x := sourceFrame s f x
  let w := effective s f x.c
  let lim := s.nat (fnObj f) 6
  match rampsRestart s f with
  | some m => { x with w := w, lv := w - x.c, rampW := rampStep lim w m, rampC := rampStep lim x.c m }
  | none => { x with w := w, lv := w - x.c, rampW := rampStep lim w x.rampW, rampC := rampStep lim x.c x.rampC }

/-- All functions. A set-point of source 0x02 or 0x03, or new limits, that change C are a change by another authority (07 R186). -/
def setpointStage (s : State) : State :=
  let t := s.updLoop fun l => { l with fn := l.fn.mapIdx fun f x => setpointFrame s f x }
  (List.range 48).foldl (fun t f => if (t.fnOf f).c = (s.fnOf f).c then t else t.optChange f false false) t

/-! ## One run of a context (R128, R129, R133, R140, R143) -/

/-- What one run works with. -/
structure RunIn where
  k : Coef
  w : Int
  y : Int
  c : Int
  step : Option Int
  headPos : Bool
  headNeg : Bool
  deriving DecidableEq, Repr

/-- Slew of u toward v; the flag says that it acted. -/
def slewTo (step : Option Int) (old v : Int) : Int × Bool :=
  match step with
  | none => (v, false)
  | some st => (old + clampI (-st) st (v - old), decide (st < (v - old).natAbs))

/-- The proportional term (R128). -/
def pTerm (r : RunIn) : Int × Nat := gainAcc r.k.kp r.k.kpS (r.k.bw * r.w * 2 - r.y * 65536)

/-- The set-point feed-forward. -/
def fTerm (r : RunIn) : Int × Nat := gainAcc r.k.kf r.k.kfS (r.w * 65536)

/-- integrate_allowed (R129). -/
def mayIntegrate (r : RunIn) (x : LCtx) (e : Int) : Bool :=
  r.k.aw == 0 ||
    !((decide (r.k.outMax ≤ x.v) && decide (0 < e)) || (decide (x.v ≤ r.k.outMin) && decide (e < 0)) ||
      (r.headPos && decide (0 < e)) || (r.headNeg && decide (e < 0)))

/-- Common end of a run: clamp and slew of v, status bits, monitored values. -/
def finish (x : LCtx) (r : RunIn) (e p i d f : Int) (n : Nat) (iAct : Bool) : LCtx :=
  let v := accSum [p, i, d, f, r.c]
  let vq := q15 v.1
  let t := slewTo r.step x.u (clampI r.k.outMin r.k.outMax vq * 65536)
  { x with
    i := i, d := d, u := t.1, y := r.y, v := vq, f := f,
    mon := [r.w, r.y, e, q15 p, q15 i, q15 d, vq, q15 t.1], satCount := add32 x.satCount (n + v.2),
    handLim := x.handLim && iAct, intLim := i == r.k.intMin * 65536 || i == r.k.intMax * 65536,
    outLim := decide (vq < r.k.outMin) || decide (r.k.outMax < vq), slewLim := t.2, tracking := false, faultAct := false }

/-- A run of the law (R128). -/
def runLaw (x : LCtx) (r : RunIn) : LCtx :=
  let e := sat15 (r.w - r.y)
  let p := pTerm r
  let d1 := gainAcc r.k.ad 0 x.d
  let d2 := gainAcc r.k.kd r.k.kdS ((x.y - r.y) * 65536)
  let d := accSat (d1.1 + d2.1)
  let gi := gainAcc r.k.ki r.k.kiS (e * 65536)
  let isum := accSat (x.i + gi.1)
  let may := mayIntegrate r x e
  let i := if may then clampI (r.k.intMin * 65536) (r.k.intMax * 65536) isum.1 else x.i
  let f := fTerm r
  finish x r e p.1 i d.1 f.1 (p.2 + d1.2 + d2.2 + d.2 + f.2 + (if may then gi.2 + isum.2 else 0)) (may && decide (i ≠ isum.1))

/-- The back-calculation of R140: the integrator, whether the clamp on it acted, and the saturations; u_applied is the command now standing. -/
def backCalc (x : LCtx) (r : RunIn) : Int × Bool × Nat :=
  let p := pTerm r
  let f := fTerm r
  let sum := accSum [p.1, f.1, r.c]
  let raw := accSat (x.u - sum.1)
  let i := clampI (r.k.intMin * 65536) (r.k.intMax * 65536) raw.1
  (i, decide (i ≠ raw.1), p.2 + f.2 + sum.2 + raw.2)

/-- INT_AT_LIMIT and OUT_AT_LIMIT of what stands (Table 05-13). -/
def limitBits (k : Coef) (x : LCtx) : LCtx :=
  { x with intLim := x.i == k.intMin * 65536 || x.i == k.intMax * 65536, outLim := decide (x.v < k.outMin) || decide (k.outMax < x.v) }

/-- A swap in a run that the law does not make takes only the integrator of the back-calculation over (R140). -/
def takeBack (b : Int × Bool × Nat) (x : LCtx) : LCtx :=
  { x with i := b.1, handLim := b.2.1, satCount := add32 x.satCount b.2.2, mon := updAt x.mon 4 fun _ => q15 b.1 }

/-- A run in which a swap or hand-over takes effect (R140). -/
def runBack (x : LCtx) (r : RunIn) : LCtx :=
  let b := backCalc x r
  { (finish { x with handLim := true } r (sat15 (r.w - r.y)) (pTerm r).1 b.1 0 (fTerm r).1 b.2.2 true) with handLim := b.2.1 }

/-- Input-fault actions 0x00 and 0x02 (Table 05-6). -/
def runFault (x : LCtx) (r : RunIn) (action : Nat) : LCtx :=
  let e := sat15 (r.w - r.y)
  let x := { x with faultAct := true, tracking := false, handLim := false }
  if action = 2 then
    let f := fTerm r
    let sum := accSum [f.1, r.c]
    let v := q15 sum.1
    let t := slewTo r.step x.u (clampI r.k.outMin r.k.outMax v * 65536)
    { x with u := t.1, v := v, f := f.1, mon := [r.w, r.y, e, 0, q15 x.i, q15 x.d, v, q15 t.1], slewLim := t.2,
             satCount := add32 x.satCount (f.2 + sum.2) }
  else { x with mon := [r.w, r.y, e, 0, q15 x.i, q15 x.d, x.v, q15 x.u] }

/-- Outside Auto and Probe (R142, R143): ManualCommand within OutputSlew; frozen in Hold, at the safe command and while forced; the safe command
in Start and Shutdown (R154); or the y of the context that names this one. -/
def runTrack (s : State) (n f : Nat) (fn : Fn) (x : LCtx) (r : RunIn) : LCtx :=
  let inner := (indices 128 fun m => (s.ctxAt m).enabled && outerOf s m == some n).head?
  let t := if physical s n then
      (if s.pw.dev = .start ∨ s.pw.dev = .shutdown then ((safeOut s f x).u, false)
       else if fn.mode = 1 && !fn.forced && !fn.atSafe && !fn.still then slewTo r.step x.u (fn.manual * 65536) else (x.u, false))
    else match inner with
      | some m => ((s.ctxAt m).y * 65536, false)
      | none => (x.u, false)
  { x with u := t.1, y := r.y, v := q15 t.1, d := 0, slewLim := t.2, tracking := true, faultAct := false,
           handLim := false, mon := [r.w, r.y, sat15 (r.w - r.y), 0, q15 x.i, 0, q15 t.1, q15 t.1] }

/-- The pending swap takes effect (R140): the active set changes, and the record carries both identifiers. -/
def swapCtx (s : State) (n : Nat) (x : LCtx) : LCtx × FlowEv :=
  let old := activeCoef s n x.active
  let new := activeCoef s n (1 - x.active)
  ({ x with active := 1 - x.active, swap := false, swapCount := inc32 x.swapCount,
            swapSat := decide (x.v < old.outMin) || decide (old.outMax < x.v) || x.i == old.intMin * 65536 || x.i == old.intMax * 65536 },
   ⟨0x2003, n, 0x04, leBytes 2 old.setId ++ leBytes 2 new.setId, [], 0xFFFFFFFF, 0xF⟩)

/-- Set-point input of a context (R135). -/
def setpointIn (s : State) (n : Nat) : Int :=
  match outerOf s n with
  | some m => q15 (s.ctxAt m).u
  | none =>
    let x := s.fnOf (s.nat (ctxObj n) 2)
    toQ15 (if s.flag (ctxObj n) 8 then x.rampW else x.rampC) (s.int (ctxObj n) 5) (s.int (ctxObj n) 6)

/-- OutputSlew × Ts at accumulator precision; none for no limit. -/
def slewStep (s : State) (n : Nat) : Option Int :=
  let v := s.nat (fnObj (s.nat (ctxObj n) 2)) 7
  if v = 0 then none else some (divHalfUp ((v * 65536 * periodOf s n : Nat) : Int) 10000)

/-- The record of a context's input fault. -/
def inputRecord (s : State) (n : Nat) (raised : Bool) : FlowEv :=
  ⟨if raised then 0x2004 else 0x2005, n, 0x04, leBytes 1 (s.nat (ctxObj n) 4), [], 0xFFFFFFFF, 0xF⟩

/-- The mapping that a run takes from the objects (R122). -/
def mapOf (s : State) (n : Nat) : OutMap := ⟨s.int (ctxObj n) 0xB, s.int (ctxObj n) 0xC, s.int (ctxObj n) 0xD⟩

/-- Run one context. The second result says that its function goes to its safe state by input-fault action 0x01. -/
def runContext (s : State) (n : Nat) : State × Bool :=
  let x0 := s.ctxAt n
  let f := s.nat (ctxObj n) 2
  let fn := s.fnOf f
  let own := sourceValue s (s.nat (ctxObj n) 4)
  let auto := isAuto fn.mode
  let was := isAuto x0.mode
  let swapped := x0.swap
  let sw := if swapped then swapCtx s n x0 else (x0, inputRecord s n false)
  let x := sw.1
  let headPos := s.headroomAt (s.nat (ctxObj n) 9)
  let headNeg := s.headroomAt (s.nat (ctxObj n) 0xA)
  let k := activeCoef s n x.active
  let w := setpointIn s n
  let y := toQ15 own.1 (s.int (ctxObj n) 5) (s.int (ctxObj n) 6)
  let hand := auto && (!was || (x.faultAct && own.2))
  let ok := (fn.mode == 2 || (fn.mode == 4 && !s.flag (compObj n) 0xA)) && own.2 && !hand && !swapped && !x.outLim && !x.headroom &&
    fn.lv == 0 && !fn.forced
  let cr := compRun s n x.comp (sat15 (w - y)) own ok
  let r : RunIn := ⟨k, w, y, cr.1, slewStep s n, headPos, headNeg⟩
  let action := s.nat (ctxObj n) 0xE
  let other := fun (t : LCtx) => limitBits k (if swapped then takeBack (backCalc x r) t else t)
  let x1 := if auto then
      (if !own.2 then other (if action = 1 then x else runFault x r action) else if hand || swapped then runBack x r else runLaw x r)
    else other (runTrack s n f fn x r)
  let map := if fn.atSafe ∧ s.nat (fnObj f) 0xC = 1 then x.map else mapOf s n
  let x2 := { x1 with comp := { cr.2 with save := false }, mode := fn.mode, inFault := !own.2, headroom := headPos || headNeg, raw := own.1,
                      ranAt := s.tm.now, satAt := if x1.satCount ≠ x0.satCount then some s.tm.mono else x1.satAt, map := map }
  let x2 := if cr.2.save then { x2 with comp := { x2.comp with saved := some cr.2.mem, saving := true } } else x2
  let s1 := s.updCtx n fun _ => x2
  let s1 := if swapped then s1.record sw.2 else s1
  let s1 := if x0.inFault == own.2 then s1.record (inputRecord s n (!own.2)) else s1
  (s1, auto && !own.2 && action == 1)

/-- Run all contexts due in this frame, then apply input-fault action 0x01 to the functions it concerns (R133). -/
def runContexts (s : State) : State :=
  let r := (dueOrder s).foldl (fun (a : State × List Nat) n =>
    let b := runContext a.1 n
    (b.1, if b.2 then a.2 ++ [s.nat (ctxObj n) 2] else a.2)) (s, [])
  r.2.foldl (fun s f => if (s.fnOf f).mode = 1 then s else applySafe f s) r.1

/-! ## The latch (R130) -/

/-- Current of a PV destination in mA. -/
def pvCommand (u fs : Int) : Nat := (clampI 0 3500 (divHalfUp (max u 0 * fs) 32768)).toNat

/-- The contexts' on/off commands from their present outputs. -/
def onOff (s : State) (n : Nat) (x : LCtx) : LCtx :=
  if !x.enabled then x
  else if (s.fnOf (s.nat (ctxObj n) 2)).safeOff then { x with posOn := false, negOn := false }
  else
    let u := q15 x.u
    { x with posOn := onCommand u x.map.thr x.map.hyst x.posOn, negOn := onCommand (-u) x.map.thr x.map.hyst x.negOn }

/-- Write one destination (R130). -/
def latchDest (dest : Nat) (u fs : Int) (on : Bool) (l : Latch) : Latch :=
  if 1 ≤ dest ∧ dest ≤ 0x10 then { l with pv := updAt l.pv (dest - 1) fun _ => pvCommand u fs }
  else if 0x11 ≤ dest ∧ dest ≤ 0x20 then { l with sv := updAt l.sv (dest - 0x11) fun _ => on }
  else if 0x30 ≤ dest ∧ dest ≤ 0x5F then { l with fo := updAt l.fo (dest - 0x30) fun _ => on }
  else l

/-- Latch the destinations of one context. -/
def latchCtx (s : State) (l : Latch) (n : Nat) : Latch :=
  let x := s.ctxAt n
  let u := q15 x.u
  let fs := x.map.fs
  latchDest (s.nat (ctxObj n) 0xA) (-u) fs x.negOn (latchDest (s.nat (ctxObj n) 9) u fs x.posOn l)

/-- What is latched of a context stands as its output of the last agreeing frame. -/
def latched (x : LCtx) : LCtx := { x with last := ⟨x.u, x.posOn, x.negOn⟩ }

/-- The latch at 80 µs over the named contexts; nothing reaches a stage in Start (R24, R154). -/
def latchAll (s : State) (ns : List Nat) : State :=
  let s := s.updLoop fun l => { l with ctx := l.ctx.mapIdx fun n x => if ns.contains n then latched (onOff s n x) else x }
  if s.pw.dev = .start then s
  else s.updLoop fun l => { l with lat := { (ns.foldl (latchCtx s) l.lat) with stamp := s.tm.now + 80000 } }

/-- Destinations of a context receive 0 mA or off (R122). -/
def clearDests (s : State) (n : Nat) : State :=
  s.updLoop fun l => { l with
    lat := latchDest (s.nat (ctxObj n) 0xA) 0 0 false (latchDest (s.nat (ctxObj n) 9) 0 0 false l.lat) }

/-! ## The two sequencers (R147–R149) -/

/-- State signature of a context (R147). -/
def signature (x : LCtx) : Nat := crc32 (Config.sigBytes x.i x.d x.u x.y x.v x.active x.comp.k)

/-- Contexts that ran and differ, as (context, sequencer B). -/
def differing (s : State) (x : FrameIn) : List SeqDiff :=
  x.seqB.filter fun d => ctxDue s d.ctx && (decide (d.uB ≠ q15 (s.ctxAt d.ctx).u) || d.sigB != signature (s.ctxAt d.ctx))

/-- Functions affected by a mismatch, lowest first. -/
def affected (s : State) (x : FrameIn) : List Nat :=
  let ds := differing s x
  indices 48 fun f => ds.any (fun d => s.nat (ctxObj d.ctx) 2 == f) || x.wB.any fun p => p.1 == f && decide (p.2 ≠ (s.fnOf f).w)

/-- The mismatch record of a function (16 R452). -/
def mismatchRecord (s : State) (x : FrameIn) (f : Nat) : FlowEv :=
  let ds := (differing s x).filter fun d => s.nat (ctxObj d.ctx) 2 == f
  let wB := ((x.wB.find? fun p => p.1 == f).map (·.2)).getD (s.fnOf f).w
  let hide := (s.slotOf f).isSome
  let mask := b2n (ds.any fun d => decide (d.uB ≠ q15 (s.ctxAt d.ctx).u)) + 2 * b2n (ds.any fun d => d.sigB != signature (s.ctxAt d.ctx)) +
    4 * b2n (decide (wB ≠ (s.fnOf f).w)) + 8 * b2n hide
  let entry := fun (d : SeqDiff) =>
    leBytes 1 d.ctx ++ leBytes 4 (signature (s.ctxAt d.ctx)) ++ leBytes 4 d.sigB ++ leInt 2 (if hide then 0 else q15 (s.ctxAt d.ctx).u) ++
      leInt 2 (if hide then 0 else d.uB)
  ⟨0x2001, f, 0x03, leBytes 8 s.tm.frame,
   leBytes 1 ds.length ++ leBytes 1 (min ds.length 7) ++ leBytes 1 mask ++ [0] ++ (ds.take 7).flatMap entry ++
     leInt 4 (if hide then 0 else (s.fnOf f).w) ++ leInt 4 (if hide then 0 else wB), 0xFFFFFFFF, 0xF⟩

/-- Re-initialise a context of an affected function: integrator back-calculated to the safe command, d 0, memory cleared; it then tracks
(R148). The monitored values are those of the re-initialised context (06 R171). -/
def reinit (s : State) (f : Nat) (bad : List Nat) (n : Nat) (x : LCtx) : LCtx :=
  if s.nat (ctxObj n) 2 != f then x
  else
    let k := activeCoef s n x.active
    let y := toQ15 (sourceValue s (s.nat (ctxObj n) 4)).1 (s.int (ctxObj n) 5) (s.int (ctxObj n) 6)
    let r : RunIn := ⟨k, y, y, 0, none, false, false⟩
    let b := backCalc x r
    let v := q15 x.u
    limitBits k { x with
      i := b.1, d := 0, y := y, v := v, f := (fTerm r).1, mon := [y, y, 0, q15 (pTerm r).1, q15 b.1, 0, v, v], handLim := b.2.1,
      tracking := x.enabled, mismatch := x.mismatch || bad.contains n, satCount := add32 x.satCount b.2.2,
      satAt := if b.2.2 = 0 then x.satAt else some s.tm.mono,
      comp := { x.comp with mem := List.replicate 512 0, eSum := 0, runs := 0, terms := [0, 0, 0] } }

/-- Column-B forces one affected function safe (R148). -/
def forceFn (x : FrameIn) (s : State) (f : Nat) : State :=
  let bad := (differing s x).map (·.ctx)
  let m := match outermost s f with | some n => (sourceValue s (s.nat (ctxObj n) 4)).1 | none => (s.fnOf f).c
  let s := s.record (mismatchRecord s x f)
  let s := columnForce f s
  let s := s.updLoop fun l => { l with ctx := l.ctx.mapIdx fun n c => reinit s f bad n c }
  let s := s.updFn f fun y => { y with mismatches := inc32 y.mismatches, rampW := m, rampC := m }
  s.updLoop fun l => { l with lat := ((enabledOf s f).filter (physical s)).foldl (latchCtx s) l.lat }

/-- R149: three mismatch frames within 10 s. -/
def engineFault (s : State) : State :=
  match s.loop.mismatches with
  | a :: b :: c :: _ =>
    if a.1 ≤ c.1 + 10000000000 ∧ !s.loop.engineFault then
      let s := applySafeAll s
      let s := s.updLoop fun l => { l with engineFault := true, fn := l.fn.map fun f => { f with forced := true, engineFault := true } }
      let s := s.updLoop fun l => { l with lat := ((indices 128 fun n => (s.ctxAt n).enabled && physical s n)).foldl (latchCtx s) l.lat }
      s.record ⟨0x2002, 0, 0x03, leBytes 8 c.2, leBytes 8 b.2 ++ leBytes 8 a.2, 0xFFFFFFFF, 0xF⟩
    else s
  | _ => s

/-- The envelope check of 03 R79: W against C ± the wider envelope in force. -/
def envelopeBad (s : State) : List (Nat × Nat) :=
  (List.range 8).filterMap fun j => match s.slotFn j with
    | some f =>
      let e := max (envelopeOf s j) (s.lead.wide.getD j 0)
      if ((s.fnOf f).w - (s.fnOf f).c).natAbs ≤ e.natAbs then none else some (j, f)
    | none => none

/-- The compare at 75 µs and the latch at 80 µs (R148, R79, Table 05-2). -/
def compareAndLatch (x : FrameIn) (s : State) : State :=
  let bad := affected s x
  let out := envelopeBad s
  let s := out.foldl (fun s p => columnForce p.2 (s.record ⟨0x3011, p.2, 0x03, leBytes 1 p.1, [], 0xFFFFFFFF, 0xF⟩)) s
  let s := s.updLoop fun l => { l with fn := l.fn.mapIdx fun f y => if bad.contains f then y else { y with agreed := y.agreed + 1 } }
  if bad = [] then latchAll s (indices 128 fun n => (s.ctxAt n).enabled && physical s n)
  else
    let s := bad.foldl (forceFn x) s
    engineFault (s.updLoop fun l => { l with mismatches := ((s.tm.now, s.tm.frame) :: l.mismatches).take 3 })

/-! ## The static schedule check (R122–R125) -/

/-- Cycles of a run (Table 05-3). -/
def runCost (s : State) (n : Nat) : Nat :=
  let o := ctxObj n
  let sel := s.nat o 0xF
  128 + (if 0x80 ≤ s.nat o 7 then 16 else 0) + (if s.flag o 8 then 16 else 0) + (if s.nat o 0xA ≠ 0 then 8 else 0) +
    160 * b2n (sel.testBit 0) + 48 * b2n (sel.testBit 1) + 48 * b2n (sel.testBit 2)

/-- Cycles of a lane in each of the 1,000 frames, from the contexts placed there: period, phase, cost. -/
def laneLoads (l : List (Nat × Nat × Nat)) : List Nat :=
  (List.range 1000).map fun t => l.foldl (fun a x => if t % x.1 = x.2.1 then a + x.2.2 else a) 0

/-- Contexts placed in a lane. -/
def placed (s : State) (lane : Nat) : List (Nat × Nat × Nat) :=
  (indices 128 fun n => (s.ctxAt n).enabled && (s.ctxAt n).lane == lane).map fun n => (periodOf s n, (s.ctxAt n).phase, (s.ctxAt n).cost)

/-- Greatest of a list. -/
def greatest (l : List Nat) : Nat := l.foldl max 0

/-- The best phase on a lane's loads and the greatest load it gives (R125 step 2). -/
def bestPhase (loads : List Nat) (per cost : Nat) : Nat × Nat :=
  let top := greatest loads
  let at_ := fun p => max top (greatest (((List.range (1000 / per)).map fun j => loads.getD (p + j * per) 0)) + cost)
  (List.range per).foldl (fun (b : Nat × Nat) p => if at_ p < b.2 then (p, at_ p) else b) (0, at_ 0)

/-- Lanes in order of least greatest load, the lowest lane on ties. -/
def laneOrder (s : State) : List Nat :=
  let tops := (List.range 4).map fun l => (greatest (laneLoads (placed s l)), l)
  let ins := fun (x : Nat × Nat) (l : List (Nat × Nat)) => l.takeWhile (fun y => y.1 ≤ x.1) ++ [x] ++ l.dropWhile fun y => y.1 ≤ x.1
  (tops.foldl (fun acc x => ins x acc) []).map (·.2)

/-- The placement of R125: lane and phase. -/
def placement (s : State) (n : Nat) : Option (Nat × Nat) :=
  let lanes := match outerOf s n with | some m => [(s.ctxAt m).lane] | none => laneOrder s
  (lanes.map fun l => (l, bestPhase (laneLoads (placed s l)) (periodOf s n) (runCost s n))).findSome? fun p =>
    if p.2.2 ≤ 19600 then some (p.1, p.2.1) else none

/-- Destinations of the other enabled contexts. -/
def drivenByOthers (s : State) (n : Nat) : List Nat :=
  (indices 128 fun m => m != n && (s.ctxAt m).enabled).flatMap fun m => [s.nat (ctxObj m) 9, s.nat (ctxObj m) 0xA]

/-- A destination that cannot be driven (0x06). -/
def destBad (s : State) (n d : Nat) : Bool :=
  d != 0 && ((drivenByOthers s n).contains d || (0x30 ≤ d && decide (d ≤ 0x5F) && s.nat (0x4400 + (d - 0x30)) 1 != 3) ||
    ((d == 1 || d == 2) && s.nat (ctxObj n) 2 != s.nat 0x3C00 1))

/-- Length of the cascade chain upward, stopping at a loop. -/
def chainUp (s : State) : Nat → Nat → Nat
  | 0, _ => 100
  | fuel + 1, n => match outerOf s n with | some m => chainUp s fuel m + 1 | none => 1

/-- Contexts share one MeasSource, one MeasOffset and one MeasFullScale (R132). -/
def alike (s : State) (l : List Nat) : Bool :=
  match l with
  | [] => true
  | a :: t => t.all fun m => s.nat (ctxObj m) 4 == s.nat (ctxObj a) 4 && s.int (ctxObj m) 5 == s.int (ctxObj a) 5 &&
      s.int (ctxObj m) 6 == s.int (ctxObj a) 6

/-- The first refusing condition of Table 05-4 but 0x09, or 0 with the placement. -/
def scheduleCheck (s : State) (n : Nat) : Nat × (Nat × Nat) :=
  let o := ctxObj n
  let f := s.nat o 2
  let outer := outerOf s n
  let peers := ((enabledOf s f).filter fun m => m != n && (outerOf s m).isNone) ++ (if outer.isNone then [n] else [])
  if s.nat o 4 = 0 ∨ sourceOff s (s.nat o 4) then (7, (0, 0))
  else if destBad s n (s.nat o 9) ∨ destBad s n (s.nat o 0xA) then (6, (0, 0))
  else if outer.any (fun m => !(s.ctxAt m).enabled || s.nat (ctxObj m) 2 != f) then (5, (0, 0))
  else if !alike s peers then (8, (0, 0))
  else if 4 < chainUp s 6 n then (4, (0, 0))
  else if outer.any (fun m => s.nat (ctxObj m) 3 < s.nat o 3) then (3, (0, 0))
  else if s.nat o 3 = 1 ∧ 64 ≤ ((indices 128 fun m => (s.ctxAt m).enabled && s.nat (ctxObj m) 3 == 1)).length then (1, (0, 0))
  else match placement s n with
    | some p => (0, p)
    | none => (2, (0, 0))

/-- Objects a function depends on through its contexts' inputs and destinations (15 R354). -/
def sourceIndex (c : Nat) : List Nat :=
  if 1 ≤ c ∧ c ≤ 0xC then [0x4860 + (c - 1)] else if c = 0x21 ∨ c = 0x22 then [0x4860 + (c - 0x21)]
  else if 0x40 ≤ c ∧ c < 0x58 then [0x4840 + (c - 0x40)] else if 0x60 ≤ c ∧ c < 0x70 then [0x48A0 + (c - 0x60)]
  else if 0x70 ≤ c ∧ c < 0x80 then [0x4000 + (c - 0x70)] else if 0x88 ≤ c ∧ c ≤ 0x8A then [0x4890] else []
def destIndex (d : Nat) : List Nat :=
  if 1 ≤ d ∧ d ≤ 0x20 then [0x4000 + (d - 1)] else if 0x30 ≤ d ∧ d ≤ 0x5F then [0x4400 + (d - 0x30)] else []

/-- The indices on which a function depends (15 R354). -/
def dependsOn (s : State) (f : Nat) : List Nat :=
  [fnObj f] ++ ((s.ctxOfFn f).flatMap fun n => [ctxObj n, compObj n] ++ sourceIndex (s.nat (ctxObj n) 4) ++
    destIndex (s.nat (ctxObj n) 9) ++ destIndex (s.nat (ctxObj n) 0xA)) ++
    ((List.range 8).flatMap fun j => (if s.nat (0x3A10 + j) 1 = f then [0x3A10 + j] else []) ++
      (if s.nat (slotObj j) 1 = f then [slotObj j] else []))

/-- A target in disagreement or lost on which the function depends (15 R354). -/
def disagreeing (s : State) (f : Nat) : Bool :=
  (s.per.targets.filter fun t => t.state == 2 || t.state == 6).any fun t => (dependsOn s f).contains (t.key / 256)

/-- The state condition of R122. -/
def ctxConfigurable (s : State) (n : Nat) : Bool :=
  let m := (s.fnOf (s.nat (ctxObj n) 2)).mode
  s.configurable || m == 1 || m == 3

/-- ContextEnable 1 (R122, R125): the answer's abort code (0 accepted) and the state, whose ScheduleResult tells the check's result. -/
def enableContext (n : Nat) (s : State) : Nat × State :=
  let f := s.nat (ctxObj n) 2
  if f = 0xFF then (Abort.range, s.updCtx n fun x => { x with result := 9 })
  else if !ctxConfigurable s n ∨ disagreeing s f then (Abort.state, s)
  else if (s.ctxAt n).enabled then (0, s)
  else
    let r := scheduleCheck s n
    if r.1 ≠ 0 then (Abort.range, s.updCtx n fun x => { x with result := r.1 })
    else (0, s.updCtx n fun x =>
      { x with enabled := true, lane := r.2.1, phase := r.2.2, cost := runCost s n, result := 0, mode := 1, tracking := true, faultAct := false,
               u := 0, posOn := false, negOn := false, d := 0, map := mapOf s n, last := {},
               comp := { x.comp with total := 0, runs := 0, eSum := 0, xPrev := none } })

/-- ContextEnable 0 (R122, R140). -/
def disableContext (n : Nat) (s : State) : Nat × State :=
  let x := s.ctxAt n
  if !ctxConfigurable s n then (Abort.state, s)
  else if !x.enabled then (0, s)
  else if (indices 128 fun m => (s.ctxAt m).enabled && outerOf s m == some n) ≠ [] then (Abort.state, s)
  else
    let sw := if x.swap then swapCtx s n x else (x, inputRecord s n false)
    let t := (clearDests s n).updCtx n fun _ =>
      { sw.1 with enabled := false, lane := 0xFF, phase := 0, cost := 0, tracking := false, posOn := false, negOn := false }
    (0, if x.swap then t.record sw.2 else t)

/-- A write of ContextEnable by a session. -/
def writeEnable (w : Ctx) (n : Nat) (v : Int) (s : State) : Nat × State :=
  let c := preCheck w (ctxObj n) 1 (.int v)
  if c ≠ 0 then (c, s) else if v = 1 then enableContext n s else disableContext n s

/-- The same as a session's command, with its answer. -/
def sessionEnable (sess n : Nat) (v : Int) (s : State) : Out :=
  withUnit (decide (sess < 16) && decide (n < 128))
    (if (s.sessOf sess).opened && s.reaches (ctxObj n) then
      let r := writeEnable (s.ctxOf sess) n v (s.touch sess)
      r.2.updSess sess fun x => { x with answer := r.1 }
    else s)

def execContextEnable (sess n : Nat) (s : State) : Out := sessionEnable sess n 1 s
def execContextDisable (sess n : Nat) (s : State) : Out := sessionEnable sess n 0 s

/-! ## Steering disengagement (08 R192, R196) -/

/-- The steering function (08 R191); 0xFF none. -/
def State.steerFn (s : State) : Nat := s.nat 0x3C00 1

/-- Measured wheel angle of source 1 or 2 and its validity (08 R197). -/
def wheelAngle (s : State) (k : Nat) : Int × Bool :=
  if s.nat 0x3C00 (1 + k) = 0xFF then (0, false) else sourceValue s (s.nat 0x3C00 (1 + k))

/-- The record of a disengagement: C, both wheel angles, the pose (08 R196). -/
def disengageRecord (s : State) (reason engine : Nat) : FlowEv :=
  let p := s.sky.pose
  ⟨0x6001, reason, engine,
   leInt 4 (halfUp s.steer.c) ++ leInt 2 (clampI (-32768) 32767 (wheelAngle s 1).1) ++ leInt 2 (clampI (-32768) 32767 (wheelAngle s 2).1),
   leInt 4 p.lat ++ leInt 4 p.lon ++ leInt 4 p.height ++ leBytes 2 p.heading ++ leInt 2 (clampI (-32768) 32767 p.speed), 0xFFFFFFFF, 0xF⟩

/-- A function goes to Manual with ManualCommand 0, without OutputSlew (08 R196). -/
def manualZero (f : Nat) (s : State) : State :=
  (s.updFn f fun x => { x with mode := 1, next := none, manual := 0 }).updLoop fun l =>
    { l with ctx := l.ctx.mapIdx fun n (x : LCtx) =>
        if s.nat (ctxObj n) 2 = f ∧ x.enabled ∧ physical s n then { x with u := 0, posOn := false, negOn := false } else x }

/-- Steering disengages with a reason of Table 08-3; `engine` is its checker's Table 16-1 code. -/
def disengage (reason engine : Nat) (s : State) : State :=
  if !s.steer.engaged then s
  else
    let s := s.record (disengageRecord s reason engine)
    (manualZero s.steerFn s).updSteer fun x =>
      { x with engaged := false, enable := false, mode := 0, goal := 0, alpha := 0, integ := [0, 0, 0], reason := reason, coast := none,
               conds := x.conds.filter fun c => c != 5 && c != 7,
               guide := { x.guide with turn := if x.guide.turn = 3 then 3 else 0, turnPath := [], heldAt := none } }

/-! ## Writes (R122, R136–R141, R148) -/

/-- SwapRequest (R140). -/
def swapRequest (n : Nat) (s : State) : Except Nat State :=
  let x := s.ctxAt n
  if x.swap then .error Abort.state
  else if x.enabled then .ok (s.updCtx n fun x => { x with swap := true })
  else
    let sw := swapCtx s n x
    .ok ((s.updCtx n fun _ => sw.1).record sw.2)

/-- Writes to 0x3000 + n but ContextEnable (R122, R139, R140). -/
def ctxWrite (w : Ctx) (i sub : Nat) (v : Val) (s : State) : Except Nat State :=
  checked w i sub v s fun s =>
    let n := i - 0x3000
    let x := s.ctxAt n
    let num := valNum v
    if sub = 0x10 ∨ sub = 0x11 then
      if !coefOk (valRaw v) then .error Abort.range
      else if x.enabled ∧ (x.swap ∨ x.active + 0x10 = sub) then .error Abort.state
      else .ok (s.put i sub v)
    else if sub = 0x13 then swapRequest n s
    else if sub = 4 ∧ !measCode num then .error Abort.range
    else if sub = 6 ∧ num = 0 then .error Abort.range
    else if (sub = 8 ∧ num = 1 ∧ s.nat i 7 ≠ 0) ∨ (sub = 7 ∧ num ≠ 0 ∧ s.flag i 8) then .error Abort.range
    else if [2, 3, 4, 7, 8, 9, 0xA, 0xF].contains sub ∧ x.enabled then .error Abort.state
    else .ok (s.put i sub v)

def execCoefSetWrite (sess n set : Nat) (rec : Bytes) (s : State) : Out :=
  if n < 128 ∧ set < 2 then s.asSession sess (ctxObj n) fun w => ctxWrite w (ctxObj n) (0x10 + set) (.bytes rec) else withUnit false s
def execSwapRequest (sess n : Nat) (v : Int) (s : State) : Out :=
  if n < 128 then s.asSession sess (ctxObj n) fun w => ctxWrite w (ctxObj n) 0x13 (.int v) else withUnit false s

/-- SourceInput matches the kind of source (R136). -/
def sourceFits (src inp : Int) : Bool :=
  if src = 2 then inp == 0xFF || inRanges [(0x40, 0x57)] inp else if src = 3 then inp == 0xFF || inRanges [(1, 12)] inp else true

/-- A write of FunctionMode (R141). -/
def writeMode (f : Nat) (m : Int) (s : State) : Except Nat State :=
  if s.pw.dev ≠ .run ∧ s.pw.dev ≠ .service then .error Abort.state
  else if m ≠ 1 ∧ f = s.steerFn then .error Abort.state
  else if m = 2 ∧ autoRefused s f then .error Abort.state
  else if f = s.steerFn ∧ s.steer.engaged then .ok (disengage 2 4 s)
  else .ok ((s.optChange f false true).updFn f fun x =>
    { x with next := some m.toNat, safe := false, atSafe := x.atSafe && x.forced, safeOff := x.safeOff && x.forced, still := false })

/-- FunctionCommand 0x01 (R148, R149). -/
def clearForced (f : Nat) (s : State) : Except Nat State :=
  let x := s.fnOf f
  if x.engineFault then .error Abort.state
  else if !x.forced then .ok s
  else if x.agreed < 1000 then .error Abort.state
  else .ok ((s.updFn f fun y => { y with forced := false, atSafe := y.atSafe && y.safe, safeOff := y.safeOff && y.safe }).updLoop fun l =>
    { l with ctx := l.ctx.mapIdx fun n c => if s.nat (ctxObj n) 2 = f then { c with mismatch := false } else c })

/-- Writes to 0x2800 + f. -/
def fnWrite (w : Ctx) (i sub : Nat) (v : Val) (s : State) : Except Nat State :=
  checked w i sub v s fun s =>
    let f := i - 0x2800
    let num := valNum v
    let quiet := s.configurable || (s.fnOf f).mode == 1 || (s.fnOf f).mode == 3
    if sub = 1 then writeMode f num s
    else if sub = 2 ∧ f = s.steerFn ∧ num ≠ 1 then .error Abort.range
    else if (sub = 3 ∨ sub = 8) ∧ f = s.steerFn ∧ s.steer.engaged then .error Abort.state
    else if sub = 3 then
      if num < s.int i 4 ∨ s.int i 5 < num then .error Abort.range
      else if 2 ≤ s.nat i 8 then .error Abort.state
      else
        let t := if num = (s.fnOf f).c then s.optForeign f else s.optChange f false false
        .ok (t.updFn f fun x => { x with c := num })
    else if (sub = 4 ∧ s.int i 5 ≤ num) ∨ (sub = 5 ∧ num ≤ s.int i 4) then .error Abort.range
    else if (sub = 8 ∧ !sourceFits num (s.int i 9)) ∨ (sub = 9 ∧ !sourceFits (s.int i 8) num) then .error Abort.range
    else if (sub = 8 ∨ sub = 9) ∧ !quiet then .error Abort.state
    else if sub = 0xB then
      let hold := fun (x : Fn) => x.forced || !(s.pw.dev == .run || s.pw.dev == .service)
      .ok (s.updFn f fun x => { x with manual := num, atSafe := x.atSafe && hold x, safeOff := x.safeOff && hold x, still := false })
    else if sub = 0x13 then clearForced f s
    else .ok (s.put i sub v)

/-- A session's write to a function object. -/
def fnCommand (sess f sub : Nat) (v : Int) (s : State) : Out :=
  if f < 48 then s.asSession sess (fnObj f) fun w => fnWrite w (fnObj f) sub (.int v) else withUnit false s

def execFunctionModeManual (sess f : Nat) (s : State) : Out := fnCommand sess f 1 1 s
def execFunctionModeAuto (sess f : Nat) (s : State) : Out := fnCommand sess f 1 2 s
def execFunctionModeHold (sess f : Nat) (s : State) : Out := fnCommand sess f 1 3 s
def execCommittedSetpointWrite (sess f : Nat) (v : Int) (s : State) : Out := fnCommand sess f 3 v s
def execSetpointLimitsWrite (sess f sub : Nat) (v : Int) (s : State) : Out := fnCommand sess f sub v s
def execSetpointSourceWrite (sess f sub : Nat) (v : Int) (s : State) : Out := fnCommand sess f sub v s
def execManualCommandWrite (sess f : Nat) (v : Int) (s : State) : Out := fnCommand sess f 0xB v s
def execFunctionCommand (sess f : Nat) (v : Int) (s : State) : Out := fnCommand sess f 0x13 v s

/-- In Shutdown every output stands at its safe command, so that sensing may stop (04 R120). -/
def outputsSafe (s : State) : Bool :=
  (List.range 128).all fun n =>
    let x := s.ctxAt n
    !x.enabled || !physical s n || x.u == (safeOut s (s.nat (ctxObj n) 2) x).u

/-- R150: the LPE hand-over at a frame boundary. `costs` are the new microcode's cycles of each context; with a lane beyond 19,600 cycles in
a frame it is refused and nothing changes. -/
def lpeFits (costs : List Nat) (s : State) : Bool :=
  (List.range 4).all fun lane =>
    (laneLoads ((indices 128 fun n => (s.ctxAt n).enabled && (s.ctxAt n).lane == lane).map fun n =>
      (periodOf s n, (s.ctxAt n).phase, costs.getD n (s.ctxAt n).cost))).all fun c => decide (c ≤ 19600)

/-! ## What the objects read -/

/-- FunctionStatus (Table 05-11). -/
def fnStatus (s : State) (f : Nat) : Nat :=
  let x := s.fnOf f
  let cs := (enabledOf s f).map s.ctxAt
  b2n (!cs.isEmpty) + 2 * b2n (x.next.isSome || cs.any fun c => isAuto c.mode != isAuto x.mode || c.mode != x.mode) +
    4 * b2n (cs.any (·.slewLim)) + 8 * b2n (x.rampW != x.w || x.rampC != x.c) + 16 * b2n (cs.any (·.inFault)) + 32 * b2n x.limited +
    64 * b2n x.spFault + 128 * b2n (x.lv != 0) + 256 * b2n x.safe + 512 * b2n x.forced + 1024 * b2n x.engineFault

/-- ContextStatus (Table 05-13). -/
def ctxStatus (s : State) (n : Nat) : Nat :=
  let x := s.ctxAt n
  b2n (x.enabled && decide (x.lane < 4)) + 2 * b2n x.tracking + 4 * b2n x.inFault + 8 * b2n x.slewLim + 16 * b2n x.outLim +
    32 * b2n x.intLim + 64 * b2n x.headroom + 128 * b2n x.handLim + 256 * b2n x.swapSat + 512 * b2n x.swap +
    1024 * b2n (match x.satAt with | some t => decide (s.tm.mono < t + 1000000000) | none => false) + 2048 * b2n x.mismatch

/-- A reading of the feed-forward input is withheld on `E1` (R151): of a function that a lead slot names, or the Monitor of a lead-fed context
(00 R15, 06 R167). -/
def loopWithheld (s : State) (i sub : Nat) : Bool :=
  (decide (0x2800 ≤ i) && decide (i < 0x2830) && [0xF, 0x10, 0x12].contains sub && (s.slotOf (i - 0x2800)).isSome) ||
    (decide (0x3000 ≤ i) && decide (i < 0x3080) && sub == 0x19 && leadFed s 128 (i - 0x3000))

/-- Values that 0x2800 + f and 0x3000 + n read. -/
def loopRead (s : State) (i sub : Nat) : Option Val :=
  if i < 0x3000 then
    let x := s.fnOf (i - 0x2800)
    match sub with
    | 1 => some (.int x.mode) | 3 => some (.int x.c) | 0xB => some (.int x.manual) | 0xE => some (.int (fnStatus s (i - 0x2800)))
    | 0xF => some (.int x.w) | 0x10 => some (.int (ratRound x.rampW)) | 0x11 => some (.int (ratRound x.rampC)) | 0x12 => some (.int x.lv)
    | 0x14 => some (.int x.mismatches) | _ => none
  else
    let x := s.ctxAt (i - 0x3000)
    match sub with
    | 1 => some (.int (b2n x.enabled)) | 0x12 => some (.int x.active) | 0x14 => some (.int (ctxStatus s (i - 0x3000)))
    | 0x15 => some (.int x.lane) | 0x16 => some (.int x.phase) | 0x17 => some (.int x.cost) | 0x18 => some (.int x.result)
    | 0x19 => some (.bytes (x.mon.flatMap (leInt 2) ++ leBytes 8 x.ranAt)) | 0x1A => some (.int x.satCount)
    | 0x1B => some (.int x.swapCount) | _ => none

end Sys2Proof.Machine
end

