-- ==== Sys2Proof/Machine/Steering.lean ====
section
/-! DEFINITION. Steering (chapter 08, R191–R206): configuration, Column-A's enable and withdrawal conditions, the steering stage, lines,
headland turns and the grain cart. Angles are in 0.01°. The geometry of guidance is in Guide.lean. -/

namespace Sys2Proof.Machine

/-! ## Inputs (R197, R198, R200) -/

/-- S0 travel in mm. -/
def groundMm (s : State) : Int := (s.stOf 0).travel / 65536

/-- Row sources that are valid, in mm. -/
def rowValues (s : State) : List Int :=
  [6, 7].filterMap fun sub => if s.nat 0x3C38 sub = 0xFF then none
    else let v := sourceValue s (s.nat 0x3C38 sub); if v.2 then some v.1 else none

/-- Heading error of the crop edge and row modes in degrees, from the last ten runs (Table 08-4). -/
def headingSlope (l : List (Rat × Int)) : Rat :=
  match l, l.getLast? with
  | a :: _ :: _, some z => Config.atanDeg (a.1 - z.1) (((a.2 - z.2 : Int) : Rat) / 65536)
  | _, _ => 0

/-- The guided point against the guidance window, which is all that the stage reads of the line (R199). -/
def windowSpot (s : State) : Option Spot := locate s.steer.guide.window (guidedPoint s)

/-- An edge frame of good quality has come within EdgeTimeout (Table 08-4). -/
def edgeGood (s : State) : Bool := s.steer.edgeValid && decide (s.tm.mono < s.steer.edgeAt + s.nat 0x3C38 4 * 1000000)

/-- Error inputs of a mode: ex in mm, epsi in degrees, kappa in 1/mm; none while the mode's input is not valid (Table 08-4). -/
def modeInput (s : State) (m : Nat) : Option (Rat × Rat × Rat) :=
  match m with
  | 1 =>
    if gnssGood s || s.steer.coast.isSome then
      (windowSpot s).map fun x => (x.ex, wrap180 ((poseNow s).heading - x.heading), x.kappa)
    else none
  | 2 => if edgeGood s then some (s.int 0x3C38 3 - s.steer.edgeOffset, headingSlope s.steer.edgeEx, 0) else none
  | 3 => match rowValues s with
    | [] => none
    | l => some ((l.foldl (· + ·) 0 : Int) / (l.length : Rat), headingSlope s.steer.rowEx, 0)
  | _ => none

/-- LOW_SPEED (Table 08-3). -/
def lowSpeed (s : State) : Bool := decide (groundKmh s < s.nat 0x3C00 0xD)

/-- Integrator of mode m. -/
def integOf (x : Steer) (m : Nat) : Rat := x.integ.getD (m - 1) 0

/-- demand(m) with integrator i (R198). -/
def demandWith (s : State) (e : Rat × Rat × Rat) (i : Rat) : Rat :=
  let v := max (groundKmh s) (s.nat 0x3C00 0xD)
  let g := clampQ (1 / 2) 2 ((s.nat 0x3C00 0x19 : Rat) / v)
  100 * Config.atanDeg (s.nat 0x3C00 0x14 * e.2.2) 1 - s.nat 0x3C00 0x16 * e.2.1 - g * s.nat 0x3C00 0x15 * (e.1 / 10) - i

/-- The integrator after one run: CrossIntGain is in 0.001° per cm·s. -/
def integNext (s : State) (e : Rat × Rat × Rat) (i : Rat) : Rat :=
  let lim : Rat := s.nat 0x3C00 0x18
  if lowSpeed s then i else clampQ (-lim) lim (i + (s.nat 0x3C00 0x17 : Rat) / 10 * (e.1 / 10) / 100)

/-- Integrate mode m and give its demand. -/
def runMode (s : State) (m : Nat) (e : Rat × Rat × Rat) : Rat × State :=
  let i := integNext s e (integOf s.steer m)
  (demandWith s e i, s.updSteer fun x => { x with integ := updAt x.integ (m - 1) fun _ => i })

/-- C moved toward a demand (R198, R202). -/
def steerTo (s : State) (d : Rat) (c : Rat) : Rat :=
  let mx : Rat := s.nat 0x3C00 5
  let st : Rat := (s.nat 0x3C00 6 : Rat) / 100
  c + clampQ (-st) st (clampQ (-mx) mx d - c)

/-! ## The stage (R193, R198–R205) -/

/-- Write C of the steering function in the present frame; the real C is rounded half up to the set-point unit (log 26). -/
def putC (c : Rat) (s : State) : State := (s.updSteer fun x => { x with c := c }).updFn s.steerFn fun f => { f with c := halfUp c }

/-- The turn's target pass holds its limits of R205 now. -/
def onTarget (s : State) : Bool :=
  match windowSpot s with
  | some x => x.pass == some s.steer.guide.turnTarget && decide (x.ex.abs ≤ 200) && decide ((wrap180 ((poseNow s).heading - x.heading)).abs ≤ 3)
  | none => false

/-- Take the pose, keep the last ten error values of the crop edge and row modes, the flags of R197 and R198, and since when a turn's target pass
has held its limits. -/
def stageInputs (s : State) : State :=
  let t := (s.stOf 0).travel
  let o := poseNow s
  let s := s.updSteer fun x => { x with pose := o, edgeValid := edgeGood s }
  let e2 := (modeInput s 2).map (·.1)
  let e3 := (modeInput s 3).map (·.1)
  let held := if s.steer.guide.turn = 2 ∧ onTarget s then some (s.steer.guide.heldAt.getD s.tm.mono) else none
  s.updSteer fun x =>
    { x with
      edgeEx := match e2 with | some e => ((e, t) :: x.edgeEx).take 11 | none => []
      rowEx := match e3 with | some e => ((e, t) :: x.rowEx).take 11 | none => []
      lowSpeed := lowSpeed s, uncompensated := !s.sens.imu.valid, rowSingle := (rowValues s).length == 1,
      fromCourse := !headingGood s && decide (20 ≤ groundKmh s), guide := { x.guide with heldAt := held } }

/-- CoastTime or CoastDistance is used up (R203). -/
def coastUsed (s : State) : Bool :=
  s.steer.coast.any fun c =>
    decide (c.1 + s.nat 0x3C00 0x1B * 1000000 ≤ s.tm.mono) || decide (s.nat 0x3C00 0x1C * 100 * 65536 ≤ ((s.stOf 0).travel - c.2).natAbs)

/-- Lateral distance of the guided point from where the coasted pose put it, measured across the path (R204). -/
def rejoinStep (s : State) (was : Int × Int) : Rat :=
  match windowSpot s, locate s.steer.guide.window was with
  | some a, some b => (a.ex - b.ex).abs
  | _, _ => 0

/-- Coasting and rejoin in GNSS guidance (R203, R204): the state, and a reason to disengage. `was` is the coasted guided point. -/
def coastStage (was : Int × Int) (s : State) : State × Option Nat :=
  if gnssGood s then
    if s.steer.coast.isSome then
      (s.updSteer fun x => { x with coast := none }, if (s.nat 0x3C00 0x1D : Rat) < rejoinStep s was then some 9 else none)
    else (s, none)
  else if s.steer.guide.turn = 2 then (s, some 0xF)
  else if (s.steer.coast.isNone ∧ s.nat 0x3C00 0x1B = 0) ∨ coastUsed s then (s, some 8)
  else if !s.sens.imu.valid then (s, some 0xA)
  else if s.pctl.groundLost then (s, some 8)
  else if s.steer.coast.isNone then (s.updSteer fun x => { x with coast := some (s.tm.mono, (s.stOf 0).travel) }, none)
  else (s, none)

/-- The guidance path has ended: no window, or less than 5 m of it ahead (R199); or the turn's speed is exceeded (R205). -/
def pathEnds (s : State) : Bool :=
  (match windowSpot s with | some x => decide (x.ahead < 5000) | none => true) ||
    (s.steer.guide.turn == 2 && decide ((s.nat 0x3C30 6 : Rat) < groundKmh s))

/-- GNSS guidance holds C below 2 km/h without a valid heading (R197). -/
def headingHeld (s : State) : Bool := !headingGood s && decide (groundKmh s < 20)

/-- The demand of the running modes: during a transfer the cross-fade of R202. -/
def stageDemand (s : State) : Option (Rat × State) :=
  let x := s.steer
  if x.goal ≠ 0 then
    match modeInput s x.goal with
    | none => none
    | some eb =>
      let tt := s.nat 0x3C00 0x12
      let a : Rat := if tt = 0 then 1 else min 1 (x.alpha + 10 / (tt : Rat))
      let (dOld, s) := match (if x.mode = 0 then none else modeInput s x.mode) with
        | some eo => runMode s x.mode eo
        | none => (x.dOld, s)
      let (db, s) := runMode s x.goal eb
      let s := s.updSteer fun y =>
        { y with alpha := a, dOld := dOld, ex := eb.1, epsi := eb.2.1, mode := if a = 1 then x.goal else y.mode,
                 goal := if a = 1 then 0 else y.goal,
                 integ := if a = 1 ∧ x.mode ≠ 0 then updAt y.integ (x.mode - 1) fun _ => 0 else y.integ }
      some ((1 - a) * dOld + a * db, s)
  else
    (modeInput s x.mode).map fun e =>
      let (d, s) := runMode s x.mode e
      (d, s.updSteer fun y => { y with ex := e.1, epsi := e.2.1 })

/-- One run while engaged. -/
def stageRun (was : Int × Int) (s : State) : State :=
  let x := s.steer
  let gnss := x.mode == 1 || x.goal == 1
  let (s, why) := if gnss then coastStage was s else (s, none)
  match why with
  | some r => disengage r 4 s
  | none =>
    if gnss && pathEnds s then disengage 0xE 4 s
    else if x.goal ≠ 0 ∧ (modeInput s x.goal).isNone then
      if x.mode = 0 then disengage 8 4 s
      else s.updSteer fun y => { y with goal := 0, alpha := 0, result := 0x13 }
    else if x.goal = 0 ∧ (modeInput s x.mode).isNone then disengage 8 4 s
    else if lowSpeed s || (gnss && headingHeld s) then s
    else match stageDemand s with
      | some (d, t) => putC (steerTo t d t.steer.c) t
      | none => s

/-- The steering stage of a frame with N mod 100 = 0 (R193). -/
def stageFrame (s : State) : State :=
  let was := guidedOf s (carriedPose s)
  let s := stageInputs s
  if s.steer.engaged then stageRun was s else s

/-- While steering is not engaged, C is held at the measured wheel angle (R193). -/
def holdC (s : State) : State :=
  if !s.steer.engaged ∧ s.steerFn < 48 ∧ (wheelAngle s 1).2 then putC (wheelAngle s 1).1 s else s

/-! ## Column-A (R194–R196) -/

/-- A channel fault in the sense of reason 0x0C on PV1 or PV2, or the bank switched off (10 R244). -/
def driveFault (s : State) : Bool :=
  let bad := fun (c : VCh) => c.trip || c.openLoad || c.uncommanded || c.shorted || c.overtemp || c.latched
  bad (s.valve.ch.getD 0 {}) || bad (s.valve.ch.getD 1 {}) || !(s.valve.sup.getD 0 {}).present || (s.valve.bank.getD 0 {}).latched ||
    (s.valve.bank.getD 0 {}).hsTrip

/-- Validity of a field pin as an input (11 R256). -/
def pinValid (s : State) (n : Nat) : Bool :=
  let g := s.fio.grp.getD (n / 12) {}
  let m := s.nat (0x4400 + n) 1
  (m == 1 || m == 2) && !g.missing && !g.overV && decide (g.leftAt + s.nat (0x4400 + n) 2 * 100000 ≤ s.tm.mono)

/-- The operator is seated (Table 08-1, 11 R256). -/
def seated (s : State) : Bool :=
  let p := s.nat 0x3C00 0xA
  p != 0xFF && pinValid s p && s.pinLevel p

/-- The takeover input, a field pin or an AI input, is at its takeover level now (R195, 11 R256). -/
def takeoverHigh (s : State) : Bool :=
  let t := s.nat 0x3C00 7
  if t < 0x30 then !pinValid s t || s.pinLevel t
  else if 0x40 ≤ t ∧ t < 0x58 then
    let v := aiConsumer s (t - 0x40)
    !v.2 || decide (s.int 0x3C00 8 ≤ v.1)
  else false

/-- Edges of the takeover input counted within the last TakeoverWindow (R195). -/
def takeoverEdges (s : State) : Nat :=
  ((s.shOf (s.nat 0x3C00 7 - 0x81)).edges.filter fun e => decide (s.tm.mono < e.1 + s.nat 0x3C00 9 * 1000000)).length

/-- Both wheel angles are valid and agree. -/
def anglesAgree (s : State) : Bool :=
  let a := wheelAngle s 1
  let b := wheelAngle s 2
  a.2 && b.2 && decide ((a.1 - b.1).natAbs ≤ s.nat 0x3C00 4)

/-- A condition of Column-A is present now (Table 08-3, R195). -/
def present (s : State) (c : Nat) : Bool :=
  match c with
  | 1 => takeoverHigh s
  | 3 => !seated s
  | 4 => !anglesAgree s
  | 5 => s.steer.engaged && s.steer.goal == 0 && decide (s.nat 0x3C00 0xF < ((wheelAngle s 1).1 - (s.fnOf s.steerFn).w).natAbs)
  | 6 => decide ((s.nat 0x3C00 0xE : Rat) < groundKmh s)
  | _ => s.steer.engaged && decide ((s.stOf 0).travel + 32768000 ≤ s.steer.farthest)

/-- Milliseconds for which a condition lasts before Column-A acts on it. -/
def lastsMs (s : State) (c : Nat) : Nat :=
  match c with
  | 1 => s.nat 0x3C00 9
  | 3 => 500
  | 4 => 100
  | 5 => s.nat 0x3C00 0x10
  | 6 => 1000
  | _ => 0

/-- A condition of Column-A has been present for its time. An invalid wheel-angle source and reverse travel act at once; edges of a shaft input
are counted (R195). -/
def condMet (s : State) (c : Nat) : Bool :=
  if c = 1 ∧ 0x81 ≤ s.nat 0x3C00 7 ∧ s.nat 0x3C00 7 ≤ 0x8C then decide (s.int 0x3C00 8 ≤ takeoverEdges s)
  else present s c &&
    (c == 7 || (c == 4 && !((wheelAngle s 1).2 && (wheelAngle s 2).2)) ||
      s.steer.lasting.any fun e => e.1 == c && decide (e.2 + lastsMs s c * 1000000 ≤ s.tm.mono))

/-- The conditions present now, with the MonotonicNs since which each has been. -/
def lastingNow (s : State) : List (Nat × Nat) :=
  [1, 3, 4, 5, 6].filterMap fun c =>
    if present s c then some (c, ((s.steer.lasting.find? fun e => e.1 == c).map (·.2)).getD s.tm.mono) else none

/-- Column-A notes since when each condition has been present, and the farthest point of ground travel while engaged. -/
def watchConds (s : State) : State :=
  s.updSteer fun x =>
    { x with lasting := lastingNow s, farthest := if x.engaged then max x.farthest (s.stOf 0).travel else (s.stOf 0).travel }

/-- A fault on the steering function (reason 0x0B). -/
def steerFnFault (s : State) : Bool :=
  let f := s.fnOf s.steerFn
  f.forced || f.safe || f.engineFault || (enabledOf s s.steerFn).any fun n => (s.ctxAt n).inFault

/-- An unresolved safety parameter withholds the steering enable (15 R356). -/
def steerHeld (s : State) : Bool := s.safetyHeld fun i => i == 0x3C00 || i == fnObj s.steerFn

/-- The conditions of the Service enable (R194). -/
def serviceEnable (s : State) : Bool :=
  s.pw.dev == .service && s.pw.ign && (s.fnOf s.steerFn).mode == 1 && decide (s.steerFn < 48) && decide (groundKmh s < 5) &&
    decide (-5 < groundKmh s) && seated s && !takeoverHigh s && anglesAgree s && !driveFault s && !steerHeld s

/-- R195: the takeover condition is met. Column-A withdraws the enable and refuses engagement for 1 s. -/
def takeover (s : State) : State :=
  (disengage 1 2 s).updSteer fun x =>
    { x with takeoverCount := inc32 x.takeoverCount, takeoverBar := true, takeoverAt := s.tm.mono, takeoverMet := true, enable := false }

/-- The takeover condition is met, and has not been acted on since it last was not. -/
def takeoverNow (s : State) : Bool := s.nat 0x3C00 7 != 0xFF && !s.steer.takeoverMet && condMet s 1

def execOperatorTakeover (_stamp : Nat) (s : State) : Out :=
  .next (if s.reachable ∧ takeoverNow s then takeover s else s)

/-- One second since the takeover has passed. -/
def takeoverOver (s : State) : Bool := decide (s.steer.takeoverAt + 1000000000 ≤ s.tm.mono)

/-- R195: one second after the takeover. -/
def execTakeoverRefusalEnd (s : State) : Out :=
  .next (if takeoverOver s then s.updSteer fun x => { x with takeoverBar := false } else s)

/-- A withdrawal condition that Column-A finds: it is held against new engagements, and steering disengages. -/
def withdraw (reason : Nat) (s : State) : State :=
  (disengage reason 2 s).updSteer fun x =>
    { x with conds := if reason = 5 ∨ reason = 7 then x.conds else reason :: x.conds.filter (· ≠ reason), enable := false }

/-- Column-A checks one condition. -/
def checkCond (s : State) (c : Nat) : State := if s.reachable ∧ condMet s c then withdraw c s else s

/-- Column-A's evaluation every 1 ms, and the loop engine's check of the steering function (Table 08-3). -/
def columnA (s : State) : State :=
  let s := if s.steer.engaged && steerFnFault s then disengage 0xB 4 s else s
  if s.tm.frame % 10 ≠ 0 then s
  else
    let s := watchConds s
    let s := s.updSteer fun x => { x with conds := x.conds.filter (condMet s), takeoverMet := x.takeoverMet && condMet s 1,
                                          takeoverBar := x.takeoverBar && !takeoverOver s }
    let s := if takeoverNow s then takeover s else s
    let s := [3, 4, 5, 6, 7].foldl checkCond s
    let s := if driveFault s then disengage 0xC 2 s else s
    let s := if s.pw.dev ≠ .run ∨ !s.pw.ign then disengage 0xD 2 s else s
    s.updSteer fun x => { x with enable := if s.pw.dev = .run then x.enable && x.engaged else serviceEnable s }

/-- R196: a withdrawal condition of Table 08-3; the stage checks 0x02, 0x08–0x0A, 0x0E and 0x0F, the loop engine 0x0B, Column-A the rest. -/
def execSteerDisengage (reason : Nat) (s : State) : Out :=
  withUnit (decide (1 ≤ reason) && decide (reason ≤ 0xF))
    (disengage reason (if [2, 8, 9, 0xA, 0xB, 0xE, 0xF].contains reason then 4 else 2) s)

def execSeatLowExpiry (s : State) : Out := .next (checkCond s 3)

def execWheelAngleDisagree (s : State) : Out := .next (checkCond s 4)

def execRunawayExpiry (s : State) : Out := .next (checkCond s 5)

def execSteerOverspeedExpiry (s : State) : Out := .next (checkCond s 6)

def execSteerReverseTravel (s : State) : Out := .next (checkCond s 7)

/-- R203: CoastTime or CoastDistance is used up. -/
def execCoastExhausted (s : State) : Out := .next (if coastUsed s then disengage 8 4 s else s)

/-! ## Engagement (R191, R201) -/

/-- The configuration that engagement needs (R191). -/
def steerConfigOk (s : State) : Bool :=
  let f := s.steerFn
  let o := fnObj f
  let cs := enabledOf s f
  let outer := cs.filter fun n => (outerOf s n).isNone
  let mx := s.int 0x3C00 5
  let tk := s.nat 0x3C00 7
  decide (f < 48) && s.nat o 8 == 0 && s.nat o 0xC == 0 && s.nat o 2 == 1 && !outer.isEmpty &&
    outer.all (fun n => s.nat (ctxObj n) 4 == s.nat 0x3C00 2) &&
    (cs.filter fun n => s.nat (ctxObj n) 9 == 1 && s.nat (ctxObj n) 0xA == 2).length == 1 &&
    decide (s.int o 4 ≤ -mx) && decide (mx ≤ s.int o 5) && tk != 0xFF && s.nat 0x3C00 0xA != 0xFF &&
    (decide (0x30 ≤ tk) || decide (s.nat (0x4400 + tk) 2 + 10 * s.nat 0x3C00 9 ≤ 400))

/-- The first refusal code that applies to a request for mode b but 0x10; the order is log 27's. -/
def refusal (s : State) (b : Nat) : Option Nat :=
  if s.steer.goal ≠ 0 ∨ s.steer.guide.turn = 2 then some 0x11
  else if !steerConfigOk s ∨ steerHeld s then some 0x12
  else if s.pw.dev ≠ .run then some 0x15
  else if condMet s 1 then some 1
  else match s.steer.conds.head? with
    | some c => some c
    | none =>
      if steerFnFault s then some 0xB
      else if driveFault s then some 0xC
      else if !s.pw.ign then some 0xD
      else if s.steer.takeoverBar then some 0x14
      else if (modeInput s b).isNone ∨ (b = 1 ∧ pathEnds s) then some 0x13
      else none

/-- Accept a request for mode b (R201). -/
def accept (s : State) (b : Nat) (d0 cur : Rat) : State :=
  let lim : Rat := s.nat 0x3C00 0x18
  let old := s.steer.mode
  let s := s.updSteer fun x =>
    { x with integ := updAt x.integ (b - 1) fun _ => clampQ (-lim) lim (d0 - cur), alpha := 0, goal := b, result := 0 }
  if old ≠ 0 then s
  else
    let f := s.steerFn
    let s := s.updSteer fun x => { x with engaged := true, enable := true, c := cur, dOld := cur, coast := none, farthest := (s.stOf 0).travel }
    let s := s.updFn f fun x => { x with next := some 2, safe := false, atSafe := false, safeOff := false, still := false }
    s.updLoop fun l =>
      { l with ctx := l.ctx.mapIdx fun n (x : LCtx) =>
                 if s.nat (ctxObj n) 2 = f ∧ x.enabled ∧ physical s n then { x with u := 0 } else x }

/-- What the Gallery gives a request for mode b: for GNSS guidance the nearest pass becomes the active one, in the window (R199). -/
def forRequest (s : State) (b : Nat) : State :=
  if b = 1 ∧ s.steer.mode ≠ 1 then
    fillWindow (s.updSteer fun x => { x with guide := { x.guide with activePass := nearestPass s (guidedPoint s) } })
  else s

/-- A request for SelectedMode (R201). -/
def steerRequest (s : State) : State :=
  let b := s.nat 0x3C10 1
  if s.steer.engaged ∧ s.steer.mode = b ∧ s.steer.goal = 0 then s.updSteer fun x => { x with result := 0 }
  else
    let r := forRequest s b
    let cur : Rat := if s.steer.engaged then s.steer.c else (wheelAngle s 1).1
    let d0 := match modeInput r b with | some e => demandWith r e 0 | none => 0
    let code := (refusal r b).or (if (s.nat 0x3C00 0x11 : Rat) < (d0 - cur).abs then some 0x10 else none)
    match code with
    | none => accept r b d0 cur
    | some c =>
      (s.record ⟨0x6002, c, 0x04, leInt 4 (halfUp d0) ++ leInt 4 (halfUp cur), [], 0xFFFFFFFF, 0xF⟩).updSteer fun x =>
        { x with result := c }

/-- SteerCommand (R201). -/
def steerCommand (v : Int) (s : State) : State := if v = 1 then steerRequest s else (disengage 2 4 s).updSteer fun x => { x with result := 0 }

/-! ## Lines and turns (R199, R205) -/

/-- Points lie 0.5 m apart or more. -/
def curveOk : List (Int × Int) → Bool
  | a :: b :: t =>
    let d := Config.geoOffset a.1 a.2 b.1 b.2
    decide (250000 ≤ d.1 * d.1 + d.2 * d.2) && curveOk (b :: t)
  | _ => true

/-- Set the pose's guided point as a point of the line. -/
def setPoint (s : State) (sub : Nat) : State :=
  let p := guidedPoint s
  (s.put 0x3C20 sub (.int p.1)).put 0x3C20 (sub + 1) (.int p.2)

/-- LineCommand (R199). -/
def lineCommand (v : Int) (s : State) : Except Nat State :=
  match v with
  | 1 => .ok (setPoint s 2)
  | 2 => .ok (setPoint s 4)
  | 3 => .ok (s.updSteer fun x => { x with guide := { x.guide with record := some ([guidedPoint s], (s.stOf 0).travel) } })
  | 4 => match s.steer.guide.record with
    | some r => .ok ((s.put 0x3C20 9 (.bytes (r.1.flatMap fun p => leInt 4 p.1 ++ leInt 4 p.2))).updSteer fun x =>
        { x with guide := { x.guide with record := none } })
    | none => .ok s
  | _ =>
    if inGnss s ∧ (s.steer.goal ≠ 0 ∨ s.steer.guide.turn = 2) then .error Abort.state
    else .ok (s.updSteer fun x => { x with guide := { x.guide with activePass := nearestPass s (guidedPoint s) } })

/-- Recording takes the guided point every 1 m of travel. -/
def recordCurve (s : State) : State :=
  match s.steer.guide.record with
  | some (l, t) =>
    if t + 65536000 ≤ (s.stOf 0).travel ∧ l.length < 4096 then
      s.updSteer fun x => { x with guide := { x.guide with record := some (l ++ [guidedPoint s], (s.stOf 0).travel) } }
    else s
  | none => s

/-- Side of the next turn: 1 left, 2 right (R205). -/
def turnSide (s : State) : Nat := if s.nat 0x3C30 4 = 0 then (if s.steer.guide.turnSide = 1 then 2 else 1) else s.nat 0x3C30 4

/-- The pass n passes away on a side of the machine, which may run the passes against their base line. -/
def passBeside (g : Guide) (side : Nat) (n : Int) : Int := if (side = 2) ≠ g.reversed then g.activePass + n else g.activePass - n

/-- Arm a turn: the target pass lies 1 + SkipPasses away on its side. -/
def armTurn (s : State) : State :=
  let side := turnSide s
  s.updSteer fun x =>
    { x with guide := { x.guide with turn := 1, turnSide := side, turnTarget := passBeside x.guide side (1 + s.nat 0x3C30 3) } }

/-- Turning begins (R205). -/
def beginTurn (s : State) : State :=
  s.updSteer fun x => { x with guide := { x.guide with turn := 2, turnPath := turnNowPath s, heldAt := none } }

/-- GNSS guidance with TurnEnable 1. -/
def turnAllowed (s : State) : Bool := s.steer.engaged && s.steer.mode == 1 && s.flag 0x3C30 1

/-- TurnCommand (R205). -/
def turnCommand (v : Int) (s : State) : Except Nat State :=
  if s.steer.guide.turn = 2 then .error Abort.state
  else if v = 1 then .ok (if turnAllowed s then beginTurn (armTurn s) else s)
  else .ok (if s.steer.guide.turn = 1 then s.updSteer fun x => { x with guide := { x.guide with turn := 0 } } else s)

/-- Arming and beginning of a turn at the task boundary, in an application frame (R205). -/
def turnFrame (b : Option Nat) (s : State) : State :=
  let s := s.updSteer fun x => { x with guide := { x.guide with boundary := b } }
  if !turnAllowed s then s
  else if s.steer.guide.turn ≠ 1 ∧ s.steer.guide.turn ≠ 2 ∧ s.nat 0x3C30 2 = 1 ∧ b.any (fun d => decide (0 < d) && decide (d ≤ 60000)) then armTurn s
  else if s.steer.guide.turn = 1 ∧ b = some 0 then beginTurn s
  else s

/-- R205: the target pass has held its limits for 2 s. -/
def execTurnComplete (s : State) : Out :=
  .next <| if s.steer.guide.turn = 2 ∧ s.steer.guide.heldAt.any (fun t => decide (t + 2000000000 ≤ s.tm.mono)) then
    s.updSteer fun x => { x with guide := { x.guide with
      turn := 3, activePass := x.guide.turnTarget, turnsDone := inc32 x.guide.turnsDone, turnPath := [], heldAt := none } }
  else s

/-! ## The crop edge (R200) -/

/-- R200: a frame on EdgeChannel with EdgeCanId; a repeated counter is ignored. The offset used is that of the last frame with quality at or above
EdgeMinQuality (Table 08-4). -/
def edgeFrame (ch id : Nat) (data : Bytes) (s : State) : State :=
  let cnt := fieldLe data 3 1
  let q := fieldLe data 2 1
  if ch ≠ s.nat 0x3C38 1 ∨ id ≠ s.nat 0x3C38 2 ∨ data.length ≠ 8 ∨ s.steer.edgeCounter = some cnt then s
  else
    let s := s.updSteer fun x => { x with edgeQuality := q, edgeCounter := some cnt }
    if s.nat 0x3C38 5 ≤ q then s.updSteer fun x => { x with edgeOffset := fieldInt data 0 2, edgeValid := true, edgeAt := s.tm.mono } else s

def execEdgeFrame (ch id _stamp : Nat) (data : Bytes) (s : State) : Out :=
  withUnit (decide (1 ≤ ch) && decide (ch ≤ 8)) (if s.senses then edgeFrame ch id data s else s)

/-- R198: no frame of good quality within EdgeTimeout. -/
def execEdgeTimeout (s : State) : Out := .next (s.updSteer fun x => { x with edgeValid := edgeGood s })

/-! ## The grain cart (R206, R207) -/

/-- Spout angle in 0.01°. -/
def spoutAngle (s : State) : Int := if s.nat 0x3C40 6 = 0xFF then 0 else (sourceValue s (s.nat 0x3C40 6)).1

/-- The relative position of the cart in one application frame (R206), with STALE and LOW_ACCURACY (R207). -/
def cartFrame (s : State) : State :=
  match s.steer.cart.report with
  | none => s
  | some r =>
    if !s.flag 0x3C40 1 then s
    else
      let age := (s.tm.now - r.stamp) / 1000000
      let stale := decide (s.nat 0x3C40 7 < age)
      let low := !(r.fix == 3 || r.fix == 4) || !(s.sky.fix == 3 || s.sky.fix == 4)
      let p := guidedPoint s
      let d := Config.geoOffset p.1 p.2 r.lat r.lon
      let h := (poseNow s).heading
      let hc : Rat := (r.heading : Rat) / 100
      let a := spoutAngle s
      let ad : Rat := (a : Rat) / 100
      let run : Rat := (r.speed : Rat) * ((s.tm.now - r.stamp : Nat) : Rat) / 1000000000 + s.int 0x3C40 8
      let east := d.1 + run * Config.sinDeg hc
      let north := d.2 + run * Config.cosDeg hc
      let tipF : Rat := s.int 0x3C40 3 + s.nat 0x3C40 5 * Config.sinDeg ad
      let tipL : Rat := s.int 0x3C40 4 - s.nat 0x3C40 5 * Config.cosDeg ad
      let rel := halfUp (r.speed * Config.cosDeg (hc - h) - s.sky.pose.speed)
      let fwd := halfUp (east * Config.sinDeg h + north * Config.cosDeg h - tipF)
      let lat := halfUp (east * Config.cosDeg h - north * Config.sinDeg h - tipL)
      let near : Cart := { s.steer.cart with age := age, stale := stale, lowAccuracy := low }
      let far : Cart := { near with angle := a, relSpeed := rel, relForward := fwd, relLateral := lat }
      s.updSteer fun x => { x with cart := if stale then near else far }

/-! ## Writes and reads -/

/-- An enabled context drives a field pin. -/
def pinDriven (s : State) (n : Nat) : Bool :=
  (indices 128 fun m => (s.ctxAt m).enabled && (s.nat (ctxObj m) 9 == 0x30 + n || s.nat (ctxObj m) 0xA == 0x30 + n)) != []

/-- Writes to 0x3C00 (R191, 11 R258). -/
def steerConfigWrite (sub : Nat) (v : Val) (s : State) : Except Nat State :=
  let x := valNum v
  if sub = 3 ∧ x ≠ 0xFF ∧ x = s.int 0x3C00 2 then .error Abort.range
  else if sub = 0xB ∧ x ≠ 0xFF ∧ (s.nat (0x4400 + x.toNat) 1 ≠ 3 ∨ pinDriven s x.toNat) then .error Abort.range
  else if s.steer.engaged then .error Abort.state
  else if sub = 1 ∧ (!s.configurable ∨ (x ≠ 0xFF ∧ (s.fnOf x.toNat).mode ≠ 1)) then .error Abort.state
  else .ok (s.put 0x3C00 sub v)

/-- Writes to 0x3C20. -/
def lineWrite (sub : Nat) (v : Val) (s : State) : Except Nat State :=
  if sub = 0xB then lineCommand (valNum v) s
  else if sub = 9 ∧ (8 * 4096 < (valRaw v).length ∨ (valRaw v).length % 8 ≠ 0 ∨ !curveOk (curveOf (valRaw v))) then .error Abort.range
  else if inGnss s then .error Abort.state
  else .ok (s.put 0x3C20 sub v)

/-- Writes to 0x3C00–0x3C4F. -/
def steerWrite (w : Ctx) (i sub : Nat) (v : Val) (s : State) : Except Nat State :=
  checked w i sub v s fun s =>
    if i = 0x3C00 then steerConfigWrite sub v s
    else if i = 0x3C10 ∧ sub = 2 then .ok (steerCommand (valNum v) s)
    else if i = 0x3C20 then lineWrite sub v s
    else if i = 0x3C30 ∧ sub = 7 then turnCommand (valNum v) s
    else .ok (s.put i sub v)

/-- R201: SteerCommand 0x01 by a session, or an edge on EngagePin. -/
def execSteerEngage (sess : Option Nat) (s : State) : Out :=
  match sess with
  | some n => s.asSession n 0x3C10 fun w => steerWrite w 0x3C10 2 (.int 1)
  | none =>
    .next <| if s.reachable ∧ s.nat 0x3C00 0xC ≠ 0xFF ∧ pinValid s (s.nat 0x3C00 0xC) then steerRequest s else s

def execSteerDisengageCommand (sess : Nat) (s : State) : Out := s.asSession sess 0x3C10 fun w => steerWrite w 0x3C10 2 (.int 0)
def execTurnNow (sess : Nat) (s : State) : Out := s.asSession sess 0x3C30 fun w => steerWrite w 0x3C30 7 (.int 1)
def execTurnCancel (sess : Nat) (s : State) : Out := s.asSession sess 0x3C30 fun w => steerWrite w 0x3C30 7 (.int 2)
def execLineSetA (sess : Nat) (s : State) : Out := s.asSession sess 0x3C20 fun w => steerWrite w 0x3C20 0xB (.int 1)
def execLineSetB (sess : Nat) (s : State) : Out := s.asSession sess 0x3C20 fun w => steerWrite w 0x3C20 0xB (.int 2)
def execCurveRecordStart (sess : Nat) (s : State) : Out := s.asSession sess 0x3C20 fun w => steerWrite w 0x3C20 0xB (.int 3)
def execCurveRecordEnd (sess : Nat) (s : State) : Out := s.asSession sess 0x3C20 fun w => steerWrite w 0x3C20 0xB (.int 4)

/-- R199: LineCommand 0x05. -/
def execNearestPass (sess : Nat) (v : Int) (s : State) : Out :=
  if v = 5 then s.asSession sess 0x3C20 fun w => steerWrite w 0x3C20 0xB (.int v) else withUnit false s

/-- SteerState (Table 08-9). -/
def steerState (s : State) : Nat :=
  let x := s.steer
  if !x.engaged then 0 else if x.guide.turn = 2 then 4 else if x.coast.isSome then 3 else if x.goal ≠ 0 then 2 else 1

/-- SteerFlags. -/
def steerFlags (s : State) : Nat :=
  let x := s.steer
  b2n x.enable + 2 * b2n (x.guide.turn == 2) + 4 * b2n x.coast.isSome + 8 * b2n (s.headroomAt 1 || s.headroomAt 2) + 16 * b2n x.rowSingle +
    32 * b2n x.uncompensated + 64 * b2n x.fromCourse + 128 * b2n x.lowSpeed +
    256 * b2n (s.flag 0x3C40 1 && x.cart.report.isSome && !x.cart.stale && !x.cart.lowAccuracy)

/-- Values that 0x3C10–0x3C40 read. -/
def steerRead (s : State) (i sub : Nat) : Option Val :=
  let x := s.steer
  let i16 := fun (v : Int) => clampI (-32768) 32767 v
  if i = 0x3C10 then
    match sub with
    | 3 => some (.int (steerState s)) | 4 => some (.int x.mode) | 5 => some (.int x.reason) | 6 => some (.int x.result)
    | 7 => some (.int (steerFlags s)) | 8 => some (.int (i16 (halfUp x.c))) | 9 => some (.int (i16 (wheelAngle s 1).1))
    | 0xA => some (.int (i16 (wheelAngle s 2).1)) | 0xB => some (.int (halfUp x.ex)) | 0xC => some (.int (i16 (halfUp (100 * x.epsi))))
    | 0xD => some (.int (min 32768 (halfUp (32768 * x.alpha)))) | 0xE => some (.int x.takeoverCount) | _ => none
  else if i = 0x3C20 then (if sub = 0xA then some (.int x.guide.activePass) else none)
  else if i = 0x3C30 then (match sub with | 8 => some (.int x.guide.turn) | 9 => some (.int x.guide.turnsDone) | _ => none)
  else if i = 0x3C40 then
    match sub with
    | 9 => some (.int x.cart.relForward) | 0xA => some (.int x.cart.relLateral) | 0xB => some (.int (i16 x.cart.relSpeed))
    | 0xC => some (.int (min x.cart.age 65535))
    | 0xD => some (.int (b2n (s.flag 0x3C40 1) + 2 * b2n x.cart.report.isSome + 4 * b2n x.cart.stale + 8 * b2n x.cart.lowAccuracy))
    | _ => none
  else none

end Sys2Proof.Machine
end

