-- ==== Sys2Proof/Machine/Optimiser.lean ====
section
/-! DEFINITION. The harvest optimiser (chapter 07, R173–R190): reports, damage samples, probe cycles, judging, evaluation, moves,
suggestions, voids and objects. -/

namespace Sys2Proof.Machine

abbrev optObj (j : Nat) : Nat := 0x3A10 + j

/-- Slot j's results. -/
def State.oslot (s : State) (j : Nat) : OSlot := s.opt.slots.getD j {}

/-- Update of slot j's results. -/
def State.updOslot (s : State) (j : Nat) (f : OSlot → OSlot) : State := s.updOpt fun o => { o with slots := updAt o.slots j f }

/-- Function of slot j. -/
def optFn (s : State) (j : Nat) : Option Nat := if s.nat (optObj j) 1 < 48 then some (s.nat (optObj j) 1) else none

/-! ## Reports (R173, R176, R182) -/

/-- Parcels from first to last. -/
def inBlock (b : PBlk) (n : Nat) : Bool := !pbefore n b.first && !pbefore b.last n

/-- Number of parcels of a block. -/
def blockSize (b : PBlk) : Nat := pdist b.first b.last + 1

/-- A field of the parcel window. -/
def fieldOf (l : List (Nat × Val)) (k : Nat) : Int := match l.find? fun e => e.1 == k with | some e => valNum e.2 | none => 0

/-- The measured share of quantity j (04 R118). -/
def shareOf (a : Attr) (j : Nat) : Rat :=
  let w := a.seen.getD j 0
  if w = 0 then 0 else (w - a.lost.getD j 0) / w

/-- The report of a parcel as it stands. -/
def repOf (s : State) (q : Parcel) : OptRep :=
  let f := parcelFields s q
  ⟨q.num, q.flags, q.leadState, fieldOf f 0x13, fieldOf f 0x14, fieldOf f 0x15, fieldOf f 0x16, fieldOf f 9,
   (List.range 6).map (shareOf q.attr), q.cutEnd - q.cutStart,
   q.has pfLossFinal && !s.pas.ring.any fun r => r.num == q.num && r.pass != 1⟩

/-- Put a report in the place of the parcel's older one. -/
def putRep (l : List OptRep) (r : OptRep) : List OptRep := r :: l.filter fun x => x.num != r.num

/-- The reports of the parcels of the running cycle's blocks, and the crossings of S6, in one loop frame. -/
def noteReports (crossed : List (Nat × Nat)) (s : State) : State :=
  let s := s.updOpt fun o => { o with s6 := (crossed.reverse ++ o.s6).take 4096 }
  match s.opt.cycle with
  | none => s
  | some c =>
    let l := s.pas.ring.filter fun q => q.pass == 1 && c.blocks.any fun b => inBlock b q.num
    s.updOpt fun o => { o with reps := l.foldl (fun a q => putRep a (repOf s q)) o.reps }

/-- Loss and mass reports released so far are taken by the Gallery (02 R51). -/
def takeReports (s : State) : State :=
  s.updPas fun p => { p with ring := p.ring.map fun q =>
    { q with lossTaken := q.lossTaken || q.has pfLossFinal, massTaken := q.massTaken || q.has pfMassFinal,
             addendum := false, addenda := if q.addendum then q.addenda + 1 else q.addenda } }

/-- Damage samples of a parcel: sum in 0.01 % and number. -/
def damageOf (s : State) (n : Nat) : Nat × Nat := ((s.opt.damage.find? fun d => d.1 == n).map (·.2)).getD (0, 0)

/-- Add a sample to a parcel. -/
def addDamage (l : List (Nat × Nat × Nat)) (n v : Nat) : List (Nat × Nat × Nat) :=
  if l.any fun d => d.1 == n then l.map fun d => if d.1 = n then (n, d.2.1 + v, d.2.2 + 1) else d else ((n, v, 1) :: l).take 4096

/-- R176: a damage record is accepted and assigned, or counted. -/
def damageRecord (rec : Bytes) (s : State) : State :=
  let stamp := fieldLe rec 0 8
  let hub := fieldLe rec 14 1
  if rec.length = 16 ∧ hub.testBit 0 ∧ !hub.testBit 1 ∧ stamp ≤ s.tm.now ∧ s.tm.now ≤ stamp + 2000000000 then
    let at_ : Int := (stamp : Int) - s.nat 0x3A00 0x1A * 1000000
    let s := s.updOpt fun o => { o with stale := false, damageAt := s.tm.mono, hubSeq := fieldLe rec 12 2 }
    match s.opt.s6.find? fun e => decide ((e.1 : Int) ≤ at_) with
    | some e => s.updOpt fun o => { o with damage := addDamage o.damage e.2 (fieldLe rec 8 2)
                                           foreign := addDamage o.foreign e.2 (fieldLe rec 10 2) }
    | none => s
  else s.updOpt fun o => { o with rejected := inc32 o.rejected }

def execDamageDatagram (iface : Transport) (rec : Bytes) (s : State) : Out :=
  .next (if s.reachable ∧ iface = .e2 then damageRecord rec s else s)

/-- R176: no record accepted for 2 s. -/
def execDamageStaleExpiry (s : State) : Out :=
  .next (if s.opt.damageAt + 2000000000 ≤ s.tm.mono then s.updOpt fun o => { o with stale := true } else s)

/-! ## The objective (R173) -/

/-- Weights of the terms sep, shoe, tail, damage, over, throughput as numbers; over only with a target. -/
def optWeights (s : State) : List Rat :=
  let w := fun (sub : Nat) => (s.nat 0x3A00 sub : Rat) / 256
  [w 3, w 4, w 5, w 6, if 0 < s.nat 0x3A00 8 then w 9 else 0, w 7]

/-- Terms of a judged parcel, in the same order. -/
def optTerms (s : State) (x : OptJudged) : List Rat :=
  let r := x.rep
  let loss := fun (v : Int) (j sub : Nat) => divQ (divQ ((v : Rat) / 256) (r.share.getD j 0) * s.nat 0x3A00 sub) r.area * 100
  let sep := loss r.sep 0 0xA
  let shoe := loss r.shoe 1 0xB
  let tgt : Rat := (s.nat 0x3A00 8 : Rat) / 10
  [sep, shoe, (r.tail : Rat) * 100 / 32768, divQ x.dmgSum x.dmgN / 100, if 0 < tgt then max 0 (sep + shoe - tgt) else 0, (r.feed : Rat) / 100]

/-- J; a term of weight 0 is not computed. -/
def objective (s : State) (x : OptJudged) : Rat :=
  let w := optWeights s
  let t := optTerms s x
  let part := fun (j : Nat) => if w.getD j 0 = 0 then 0 else w.getD j 0 * t.getD j 0
  part 0 + part 1 + part 2 + part 3 + part 4 - part 5

/-- Measured share of each term. -/
def termShares (x : OptJudged) : List Rat :=
  let g := fun (j : Nat) => x.rep.share.getD j 0
  [g 0, g 1, g 2, if x.dmgN = 0 then 0 else 1, min (g 0) (g 1), g 4]

/-! ## Judging (R182) -/

/-- Cycle setting 0x3A00.sub as taken at the cycle start. -/
def OptCycle.set (c : OptCycle) (sub : Nat) : Nat := c.cfg.getD (sub - 0xC) 0

/-- Whether a reported parcel of a block is judged. -/
def mayJudge (s : State) (c : OptCycle) (b : PBlk) (x : OptJudged) : Bool :=
  let i := pdist b.first x.rep.num
  let edge := c.set 0xD
  let lim : Rat := 1 - (s.nat 0x3A00 0x15 : Rat) / 32768
  let bad := [pfSlug, pfMerged, pfCompressed, pfShort, pfReversed].any fun k => x.rep.flags.testBit k
  x.rep.final && decide (edge ≤ i) && decide (i + edge < blockSize b) && !bad && x.rep.leadState != 2 &&
    (List.range 6).all fun j => (optWeights s).getD j 0 == 0 || decide (lim ≤ (termShares x).getD j 0)

/-- Reported parcels of a block. -/
def repsIn (s : State) (b : PBlk) : List OptRep := s.opt.reps.filter fun r => inBlock b r.num

/-- The judged parcels of a block. -/
def judgeBlock (s : State) (c : OptCycle) (b : PBlk) : List OptJudged :=
  ((repsIn s b).map fun r => (⟨r, (damageOf s r.num).1, (damageOf s r.num).2⟩ : OptJudged)).filter (mayJudge s c b)

/-- A block can be judged: all of its parcels are loss-final with no sub-parcel outstanding, or 30 s have passed. -/
def blockReady (s : State) (b : PBlk) : Bool :=
  match b.ended with
  | none => false
  | some t => ((repsIn s b).filter (·.final)).length == blockSize b || decide (t + 30000000000 ≤ s.tm.mono)

/-! ## Block records (R188) -/

/-- Variance with n − 1 in the denominator. -/
def variance (l : List Rat) : Rat :=
  let m := meanQ l
  divQ (l.foldl (fun a x => a + (x - m) * (x - m)) 0) ((l.length : Rat) - 1)

/-- The 32-byte record of a block (Table 07-8). -/
def blockRecord (s : State) (slot : Nat) (b : PBlk) (res : Nat) (l : List OptJudged) : Bytes :=
  let u16 := fun (q : Rat) => leInt 2 (clampI 0 65535 (halfUp q))
  let term := fun (j : Nat) (k : Rat) => u16 (k * meanQ (l.map fun x => (optTerms s x).getD j 0))
  let js := l.map (objective s)
  let dm := l.filter fun x => x.dmgN != 0
  leBytes 2 0 ++ leInt 2 (min 65535 (sqrtRound (10000 * variance js))) ++ leInt 4 (clampI (-2147483648) 2147483647 (halfUp (65536 * meanQ js))) ++
    (if dm = [] then leBytes 2 0xFFFF else u16 (100 * meanQ (dm.map fun x => (optTerms s x).getD 3 0))) ++ term 2 100 ++ term 1 10 ++ term 0 10 ++
    u16 (meanQ (l.map fun x => (x.rep.feed : Rat))) ++ leBytes 2 l.length ++ leBytes 4 b.first ++ leInt 4 b.value ++ leBytes 1 res ++
    leBytes 1 slot ++ leBytes 2 b.id

/-- A Gallery record about a slot. -/
def optEvent (code slot : Nat) (pay more : Bytes) : FlowEv := ⟨code, slot, 0x0E, pay, more, 0xFFFFFFFF, 0xF⟩

/-- The cycle ends: its blocks are reported and recorded, and its result stands in the slot. -/
def endCycle (c : OptCycle) (res : Nat) (recs : List Bytes) (s : State) : State :=
  let s := s.records (recs.map fun r => optEvent 0x5003 c.slot [] r)
  (s.updOslot c.slot fun x => { x with result := res }).updOpt fun o =>
    { o with cycle := none, void := none, reps := [], lastBlocks := (recs.take 16).flatten }

/-! ## Voids (R187) -/

/-- Cancel every unreleased event of a cycle. -/
def cancelBlocks (l : List PBlk) (s : State) : State :=
  l.foldl (fun s b => [b.beginEv, b.endEv].foldl (fun s e => match e with | some id => (cancelEvent id s).2 | none => s) s) s

/-- The probe blocks of a void cycle end with the parcel cut last. -/
def closeProbes (l : List PBlk) (s : State) : State :=
  let newest := (s.pas.nextParcel + 2 ^ 32 - 1) % 2 ^ 32
  let one := fun (p : Nat × Nat × Nat × Option Nat) =>
    let last := p.2.2.2.getD newest
    if l.any (fun b => b.id == p.2.1) then (p.1, p.2.1, p.2.2.1, some (if pbefore last newest then last else newest)) else p
  s.updPctl fun c => { c with probes := c.probes.map one }

/-- Void the running cycle. -/
def voidCycle (code : Nat) (s : State) : State :=
  match s.opt.cycle with
  | none => s.updOpt fun o => { o with void := none }
  | some c =>
    let s := closeProbes c.blocks (cancelBlocks c.blocks s)
    let s := if (s.fnOf c.fn).mode = 4 ∧ s.pw.dev ≠ .shutdown ∧ s.pw.dev ≠ .service ∧ code ≠ 0x10 then
        s.updFn c.fn fun f => { f with next := some 2 } else s
    let s := if !c.foreign ∧ (s.fnOf c.fn).c ≠ c.c0 then s.updFn c.fn fun f => { f with c := c.c0 } else s
    let s := s.updOslot c.slot fun x => { x with significant := false, moved := false, moveEv := none }
    let s := endCycle c code (c.blocks.map fun b => blockRecord s c.slot b 3 []) s
    let pid := (c.blocks.getLast?.map (·.id)).getD 0
    let s := s.record (optEvent 0x5007 c.slot (leBytes 1 code ++ [0] ++ leBytes 2 pid) [])
    s.optSettle.updOpt fun o => { o with voids := inc32 o.voids }

/-! ## Evaluation (R183–R185) -/

/-- One pair: differences of the means, the sum of variances over numbers; none when it is rejected, with the results of its blocks. -/
def evalPair (s : State) (c : OptCycle) (a z : PBlk) : Option (Rat × Rat) × Nat × Nat :=
  let la := a.judged.getD []
  let lz := z.judged.getD []
  let few := fun (l : List OptJudged) => decide (l.length < c.set 0x10)
  if few la || few lz then (none, b2n (few la), b2n (few lz))
  else
    let up := if a.up then la else lz
    let dn := if a.up then lz else la
    let feed := fun (l : List OptJudged) => meanQ (l.map fun x => (x.rep.feed : Rat))
    if (s.nat 0x3A00 0x14 : Rat) / 32768 * (feed up + feed dn) / 2 < (feed up - feed dn).abs then (none, 2, 2)
    else
      let ju := up.map (objective s)
      let jd := dn.map (objective s)
      (some (meanQ ju - meanQ jd, divQ (variance ju) ju.length + divQ (variance jd) jd.length), 0, 0)

/-- Blocks in pairs. -/
def pairsOf : List PBlk → List (PBlk × PBlk)
  | a :: z :: t => (a, z) :: pairsOf t
  | _ => []

/-- A block shows that the cycle is void: a SHORT parcel (0x12), or a begin event released late (0x17). -/
def blockVoid (s : State) (c : OptCycle) (b : PBlk) : Option Nat :=
  let l := repsIn s b
  let per := meanQ (l.map fun r => (r.period : Rat))
  if l.any (fun r => r.flags.testBit pfShort) then some 0x12
  else if b.late || (b.err != 0 && decide ((c.set 0xD : Rat) * per < (b.err.natAbs : Rat))) then some 0x17
  else none

/-- The value C1 of a move (R184). -/
def moveTo (s : State) (c : OptCycle) (g : Rat) : Int :=
  let mx : Int := s.nat (optObj c.slot) 6
  let m := clampI (-mx) mx (halfUp (-((s.nat (optObj c.slot) 7 : Rat) / 65536) * g))
  clampI (s.int (optObj c.slot) 3) (s.int (optObj c.slot) 4) (c.c0 + m)

/-- The result of a significant cycle, by mode (R184, R185). -/
def actOn (c : OptCycle) (g : Rat) (s : State) : Nat × State :=
  let c1 := moveTo s c g
  let tag := (c.blocks.getLast?.map (·.id)).getD 0
  if c1 = c.c0 then (2, s)
  else if s.nat 0x3A00 1 = 1 then
    (3, (s.updOslot c.slot fun x => { x with suggestion := c1, sugState := 1, sugTag := tag, accepted := false, sugAt := s.tm.mono }).record
      (optEvent 0x5006 c.slot (leInt 4 c.c0 ++ leInt 4 c1) []))
  else if (s.oslot c.slot).held then (0x11, s)
  else if s.nat 0x3A00 1 ≠ 2 then (2, s)
  else (0, s.updOpt fun o => { o with moves := o.moves ++ [⟨c.slot, c.fn, c.c0, c1, 2, tag⟩] })

/-- Evaluate a cycle whose blocks are all judged. -/
def evaluate (c : OptCycle) (s : State) : State :=
  match c.blocks.findSome? (blockVoid s c) with
  | some code => voidCycle code s
  | none =>
    let ev := (pairsOf c.blocks).map fun p => (p, evalPair s c p.1 p.2)
    let acc := ev.filterMap fun e => e.2.1
    let recs := ev.flatMap fun e =>
      [blockRecord s c.slot e.1.1 e.2.2.1 (e.1.1.judged.getD []), blockRecord s c.slot e.1.2 e.2.2.2 (e.1.2.judged.getD [])]
    let s := s.updOslot c.slot fun x => if x.sugState = 1 then { x with sugState := 5, accepted := false } else x
    let k : Rat := acc.length
    let sumD := acc.foldl (fun a x => a + x.1) 0
    let sumS := acc.foldl (fun a x => a + x.2) 0
    let g := divQ sumD (k * (c.vUp - c.vDown : Int))
    let q := divQ (10000 * sumD * sumD) sumS
    let sig := !acc.isEmpty && (sumS == 0 || decide ((s.nat 0x3A00 0x13 : Rat) * s.nat 0x3A00 0x13 ≤ q))
    let s := if acc = [] then s else s.updOslot c.slot fun x =>
      { x with gradient := clampI (-2147483648) 2147483647 (halfUp (65536 * g)), t := if sumS = 0 then 65535 else min 65535 (sqrtRound q) }
    let (res, s) := if acc = [] then (0x18, s) else if !sig then (1, s) else actOn c g s
    let s := s.updOslot c.slot fun x => { x with significant := sig, moved := false, moveEv := none }
    let s := endCycle c res recs s
    (s.record (optEvent 0x5004 c.slot (leBytes 4 s.opt.cycleId ++ leBytes 1 res ++ leBytes 3 0) [])).updOpt fun o => { o with done := inc32 o.done }

/-! ## Cycle start and blocks (R179–R181) -/

/-- PROBE share of the last 2,000 parcels cut, in parcels. -/
def probeCount (s : State) : Nat :=
  let newest := (s.pas.nextParcel + 2 ^ 32 - 1) % 2 ^ 32
  s.pctl.probes.foldl (fun a p =>
    let last := p.2.2.2.getD newest
    let last := if pbefore newest last then newest else last
    let back := pdist last newest
    if pbefore newest p.2.2.1 ∨ 2000 ≤ back then a
    else a + (min (pdist p.2.2.1 newest + 1) 2000 - back)) 0

/-- ProbeShare, Q15. -/
def probeShare (s : State) : Nat := min 65535 (probeCount s * 32768 / 2000)

/-- FUNCTION_FAULT of a slot (Table 07-4). -/
def optFault (s : State) (f : Nat) : Bool :=
  let x := s.fnOf f
  x.forced || x.engineFault || x.spFault || (enabledOf s f).any fun n => (s.ctxAt n).inFault

/-- SlotStatus (Table 07-4). -/
def slotStatus (s : State) (j : Nat) : Nat :=
  let x := s.oslot j
  match optFn s j with
  | none => 4 * b2n x.significant + 8 * b2n x.moved + 16 * b2n (x.sugState == 1)
  | some f =>
    let c := (s.fnOf f).c
    let outside := decide (c < s.int (optObj j) 3) || decide (s.int (optObj j) 4 < c)
    let notAuto := !isAuto (s.fnOf f).mode
    let badCfg := s.nat (optObj j) 5 == 0 || s.nat (fnObj f) 8 != 1
    let fault := optFault s f
    b2n (s.flag (optObj j) 9 && !(outside || x.held || fault || notAuto || badCfg)) +
      2 * b2n (match s.opt.cycle with | some c => c.slot == j | none => false) + 4 * b2n x.significant + 8 * b2n x.moved +
      16 * b2n (x.sugState == 1) + 32 * b2n badCfg + 64 * b2n notAuto + 128 * b2n fault + 256 * b2n x.held + 512 * b2n outside

/-- ELIGIBLE. -/
def eligible (s : State) (j : Nat) : Bool := (slotStatus s j).testBit 0

/-- Slots in the order in which they are probed. -/
def slotOrder (s : State) : List Nat := (List.range 8).map fun k => (s.opt.lastSlot + 1 + k) % 8

/-- LOSS_UNMEASURED: a weighted loss term has no healthy channel. -/
def lossMissing (s : State) : Bool :=
  let w := optWeights s
  let on := fun (j : Nat) => w.getD j 0 != 0 || w.getD 4 0 != 0
  (on 0 && weightOf s 3 false == 0) || (on 1 && weightOf s 4 false == 0)

/-- The inputs of the weighted terms are there (R179). -/
def inputsReady (s : State) : Bool :=
  let w := optWeights s
  !lossMissing s && (w.getD 2 0 == 0 || (flowInput s (s.nat 0x4880 1)).isSome) && (w.getD 3 0 == 0 || !s.opt.stale)

/-- INTERVAL_WAIT, ALLOWANCE_REACHED, SETTLING. -/
def intervalWait (s : State) : Bool :=
  match s.opt.startedAt with | some t => decide (s.tm.mono < t + s.nat 0x3A00 0x11 * 1000000000) | none => false
def allowanceReached (s : State) : Bool := decide (s.nat 0x3A00 0x12 < probeShare s)
def settling (s : State) : Bool := decide (pdist s.opt.settleAt s.pas.nextParcel < s.nat 0x3A00 0x16)

/-- OptFlags (Table 07-7). -/
def optFlags (s : State) : Nat :=
  b2n (s.nat 0x3A00 1 != 0) + 2 * b2n (!(List.range 8).any (eligible s)) + 4 * b2n (intervalWait s) + 8 * b2n (allowanceReached s) +
    16 * b2n (settling s) + 32 * b2n (s.steer.guide.turn == 2) + 64 * b2n s.pw.episode + 128 * b2n (lossMissing s) + 256 * b2n s.opt.stale

/-- The conditions of a cycle start (R179). -/
def cycleMayStart (s : State) : Bool :=
  s.nat 0x3A00 1 != 0 && s.pw.dev == .run && s.cutting && !s.pw.episode && !intervalWait s && !allowanceReached s && !settling s &&
    s.steer.guide.turn != 2 && inputsReady s && (List.range 8).any (eligible s)

/-- The lowest parcel from `n` on whose head is predicted to cross into the station no earlier than `lim` s from now (R180). -/
def findParcel (s : State) (station : Nat) (lim : Rat) : Nat → Nat → Option Nat
  | 0, _ => none
  | fuel + 1, n =>
    if pbefore n s.pas.nextParcel && !s.pas.ring.any (fun q => q.num == n && q.pass == 1) then findParcel s station lim fuel ((n + 1) % 2 ^ 32)
    else match predictCrossing s n station 1 with
      | none => none
      | some t => if lim ≤ t then some n else findParcel s station lim fuel ((n + 1) % 2 ^ 32)

/-- The first parcel of a block, or of a move (R180, R184). -/
def placeAt (s : State) (station advance : Nat) (after : Option Nat) : Option Nat :=
  let oldest := (s.pas.ring.head?.map (·.num)).getD s.pas.nextParcel
  let start := match after with | some n => if pbefore n oldest then oldest else n | none => oldest
  findParcel s station ((advance + 100 : Nat) / (1000 : Rat)) (4096 + s.pas.ring.length) start

/-- Result with which a refused event voids the cycle; none when it is tried again (R181, log 28). -/
def refusedVoid (s : State) (r : Nat) : Option Nat :=
  if r = 1 ∨ r = 3 then none else if r = 7 then some 0x13 else if r = 5 ∧ s.pw.dev ≠ .run then some 0x15 else some 0x17

/-- The begin event of a block, and its end event. -/
def beginEvent (c : OptCycle) (b : PBlk) : Event := ⟨0, b.first, c.station, 1, 0, c.fn, c.advance, b.value, 2, 3, b.id, 0⟩
def endEvent (c : OptCycle) (b : PBlk) : Event := ⟨0, b.last, c.station, 2, 1, c.fn, 0, c.c0, 3, 3, b.id, 0⟩

/-- Insert one event that is not in yet: its identifier, and a void result when it is refused for good. -/
def tryInsert (e : Event) (had : Option Nat) (s : State) : Option Nat × Option Nat × State :=
  if had.isSome then (had, none, s)
  else
    let id := s.pctl.nextEvent
    let r := insertOwn e s
    if r.1 = 0 then (some id, none, r.2) else (none, refusedVoid s r.1, s)

/-- Insert the events of one block that are not in yet. -/
def insertBlock (c : OptCycle) (b : PBlk) (s : State) : State :=
  let (x, v1, s) := tryInsert (beginEvent c b) b.beginEv s
  let (y, v2, s) := if v1.isSome then (b.endEv, none, s) else tryInsert (endEvent c b) b.endEv s
  let s := s.updBlocks fun p => if p.id = b.id then { p with beginEv := x, endEv := y } else p
  match v1, v2 with
  | some v, _ => s.optVoid v
  | none, some v => s.optVoid v
  | none, none => s

/-- Place the next block of the running cycle. -/
def placeBlock (s : State) : State :=
  match s.opt.cycle with
  | none => s
  | some c =>
    let k := c.blocks.length
    let after := c.blocks.getLast?.map fun b => (b.last + c.set 0xE + 1) % 2 ^ 32
    match placeAt s c.station c.advance after with
    | none => s
    | some n =>
      let up := (k / 2 % 2 == 0) == (k % 2 == 0)
      let id := s.opt.probeId % 65535 + 1
      let b : PBlk := { id := id, up := up, value := if up then c.vUp else c.vDown, first := n, last := (n + c.set 0xC - 1) % 2 ^ 32 }
      let c := { c with blocks := c.blocks ++ [b] }
      insertBlock c b (s.updOpt fun o => { o with cycle := some c, probeId := id })

/-- Start a cycle on the next eligible slot. -/
def startCycle (s : State) : State :=
  match (slotOrder s).find? (eligible s) with
  | none => s
  | some j =>
    let f := (optFn s j).getD 0
    let c0 := (s.fnOf f).c
    let d : Int := s.nat (optObj j) 5
    let c : OptCycle := { slot := j, fn := f, c0 := c0, vUp := min (c0 + d) (s.int (optObj j) 4), vDown := max (c0 - d) (s.int (optObj j) 3),
                          station := s.nat (optObj j) 2, advance := s.nat (optObj j) 8, cfg := (rangeFrom 0xC 7).map (s.nat 0x3A00) }
    placeBlock (s.updOpt fun o =>
      { o with cycle := some c, void := none, lastSlot := j, cycleId := (o.cycleId + 1) % 2 ^ 32, startedAt := some s.tm.mono, reps := [] })

/-- A state of the machine that voids the running cycle (Table 07-5). -/
def stateVoid (s : State) (c : OptCycle) : Option Nat :=
  if s.pw.dev ≠ .run then some 0x15
  else if optFault s c.fn || (s.fnOf c.fn).safe then some 0x14
  else if !isAuto (s.fnOf c.fn).mode then some 0x10
  else if c.blocks.any (·.late) then some 0x17
  else none

/-- Insert a move (R184, R185): whether it is done with, and the state. LATE_POLICY is 0b00 (log 28). The bounds limit the value also when they
have been written since (R178). An Adaptive move of a slot that is held, that names another function by now, or under another OptMode, is not
made. -/
def tryMove (m : OMove) (s : State) : Bool × State :=
  let o := optObj m.slot
  if m.source = 2 ∧ ((s.oslot m.slot).held ∨ optFn s m.slot ≠ some m.fn ∨ s.nat 0x3A00 1 ≠ 2 ∨ s.pw.dev ≠ .run) then (true, s)
  else match placeAt s (s.nat o 2) (s.nat o 8) none with
  | none => (false, s)
  | some n =>
    let c1 := clampI (s.int o 3) (s.int o 4) m.c1
    let id := s.pctl.nextEvent
    let r := insertOwn ⟨0, n, s.nat o 2, 1, 0, m.fn, s.nat o 8, c1, 1, m.source, m.tag, 0⟩ s
    if r.1 = 0 then
      (true, (r.2.updOslot m.slot fun x => if m.source = 1 then { x with sugState := 2, accepted := false } else { x with moveEv := some id }).record
        (optEvent 0x5005 m.slot (leInt 4 m.c0 ++ leInt 4 c1) []))
    else (r.1 ≠ 1 ∧ r.1 ≠ 3 ∧ r.1 ≠ 7, s)

/-- Accepted suggestions become moves of SOURCE 0x01. -/
def acceptedMoves (s : State) : List OMove :=
  (List.range 8).filterMap fun j =>
    let x := s.oslot j
    match optFn s j with
    | some f => if x.accepted && x.sugState == 1 then some ⟨j, f, (s.fnOf f).c, x.suggestion, 1, x.sugTag⟩ else none
    | none => none

/-- The moves of one application frame. -/
def doMoves (s : State) : State :=
  let l := s.opt.moves ++ acceptedMoves s
  let r := l.foldl (fun (a : List OMove × State) m =>
    let t := tryMove m a.2
    (if t.1 ∨ m.source = 1 then a.1 else a.1 ++ [m], t.2)) ([], s)
  r.2.updOpt fun o => { o with moves := r.1 }

/-- The happening of Table 07-5 that voids the running cycle now. -/
def voidNow (s : State) : Option Nat :=
  match s.opt.void, s.opt.cycle with
  | some v, _ => some v
  | none, some c => stateVoid s c
  | none, none => none

/-- R182: the first block whose reports are in, or whose 30 s have passed, is judged; with the last block the cycle is evaluated. A void found
by then comes first (R187). -/
def execBlockJudged (s : State) : Out :=
  .next <| match s.opt.cycle, voidNow s with
  | none, _ => s
  | some _, some v => voidCycle v s
  | some c, none =>
    match c.blocks.find? fun b => b.judged.isNone && blockReady s b with
    | none => s
    | some b =>
      let l := judgeBlock s c b
      let c := { c with blocks := c.blocks.map fun x => if x.id = b.id then { x with judged := some l } else x }
      let s := s.updOpt fun o => { o with cycle := some c }
      if c.blocks.length = 2 * c.set 0xF ∧ c.blocks.all fun x => x.judged.isSome then doMoves (evaluate c s) else s

/-- The optimiser's part of an application frame (R179–R187). -/
def optFrame (s : State) : State :=
  let s := match voidNow s with | some v => voidCycle v s | none => s
  let s := doMoves s
  match s.opt.cycle with
  | none => if cycleMayStart s then startCycle s else s
  | some c =>
    let s := c.blocks.foldl (fun s b => if b.beginEv.isNone ∨ b.endEv.isNone then insertBlock c b s else s) s
    if c.blocks.length < 2 * c.set 0xF ∧ c.blocks.all fun b => b.ended.isSome then placeBlock s else s

/-! ## Commands, writes and reads -/

/-- SuggestionCommand (Table 07-3). -/
def suggestionCommand (j : Nat) (v : Int) (s : State) : Except Nat State :=
  if (s.oslot j).sugState ≠ 1 then .error Abort.state
  else .ok (s.updOslot j fun x => if v = 1 then { x with accepted := true } else { x with sugState := 4, accepted := false })

/-- Writes to 0x3A00 (R175). -/
def optConfigWrite (w : Ctx) (i sub : Nat) (v : Val) (s : State) : Except Nat State :=
  checked w i sub v s fun s =>
    let n := valNum v
    let t := s.put i sub v
    if sub = 1 then
      if n = 2 ∧ !s.flag i 2 then .error Abort.state
      else .ok ((t.optVoid 0x1B).updOpt fun o =>
        { o with slots := o.slots.map fun (x : OSlot) => if x.sugState = 1 then { x with sugState := 5, accepted := false } else x })
    else if (sub = 0xC ∨ sub = 0xD ∨ sub = 0x10) ∧ t.nat i 0xC < t.nat i 0x10 + 2 * t.nat i 0xD then .error Abort.range
    else if sub = 0x19 then .ok (t.optVoid 0x16).optSettle
    else .ok t

/-- Writes to 0x3A10 + j (R177). -/
def optSlotWrite (w : Ctx) (i sub : Nat) (v : Val) (s : State) : Except Nat State :=
  checked w i sub v s fun s =>
    let j := i - 0x3A10
    let n := valNum v
    let f := s.nat i 1
    let t := s.put i sub v
    let running : Bool := match s.opt.cycle with | some c => c.slot == j | none => false
    if sub = 0xF then suggestionCommand j n s
    else if sub = 1 ∧ n ≠ 0xFF ∧ (s.nat (fnObj n.toNat) 8 ≠ 1 ∨ n = s.steerFn ∨ (List.range 8).any fun k => k != j && s.int (optObj k) 1 == n) then
      .error Abort.range
    else if (sub = 3 ∨ sub = 4) ∧ f < 48 ∧ (n < s.int (fnObj f) 4 ∨ s.int (fnObj f) 5 < n) then .error Abort.range
    else if (sub = 3 ∨ sub = 4 ∨ sub = 5) ∧ t.int i 4 - t.int i 3 < 2 * t.int i 5 then .error Abort.range
    else if sub ≤ 8 ∧ running = true then .error Abort.state
    else if sub = 9 ∧ n = 0 ∧ running = true then .ok (t.optVoid 0x1B)
    else .ok t

def execOptConfigWrite (sess sub : Nat) (v : Int) (s : State) : Out := s.asSession sess 0x3A00 fun w => optConfigWrite w 0x3A00 sub (.int v)
def execOptSlotWrite (sess j sub : Nat) (v : Int) (s : State) : Out :=
  if j < 8 then s.asSession sess (optObj j) fun w => optSlotWrite w (optObj j) sub (.int v) else withUnit false s
def execSuggestionAccept (sess j : Nat) (s : State) : Out :=
  if j < 8 then s.asSession sess (optObj j) fun w => optSlotWrite w (optObj j) 0xF (.int 1) else withUnit false s
def execSuggestionReject (sess j : Nat) (s : State) : Out :=
  if j < 8 then s.asSession sess (optObj j) fun w => optSlotWrite w (optObj j) 0xF (.int 2) else withUnit false s

/-- R185: not answered within SuggestionLife. -/
def execSuggestionExpiry (j : Nat) (s : State) : Out :=
  withUnit (decide (j < 8)) (s.updOslot j fun x =>
    if x.sugState = 1 ∧ !x.accepted ∧ x.sugAt + s.nat 0x3A00 0x18 * 1000000000 ≤ s.tm.mono then { x with sugState := 3 } else x)

/-- R186: OperatorHold has passed since the last outside change. -/
def execOperatorHoldExpiry (j : Nat) (s : State) : Out :=
  withUnit (decide (j < 8)) (s.updOslot j fun x =>
    if x.heldAt + s.nat 0x3A00 0x17 * 1000000000 ≤ s.tm.mono then { x with held := false } else x)

/-- OptState (Table 07-7). -/
def optState (s : State) : Nat :=
  match s.opt.cycle with
  | some c => if c.blocks.length = 2 * c.set 0xF ∧ c.blocks.all (fun b => b.ended.isSome) then 3 else 2
  | none => if s.nat 0x3A00 1 = 0 then 0 else 1

/-- Values that 0x3A01 and 0x3A10 + j read. -/
def optRead (s : State) (i sub : Nat) : Option Val :=
  let o := s.opt
  if i = 0x3A01 then
    match sub with
    | 1 => some (.int (optState s)) | 2 => some (.int (o.cycle.elim 0xFF (·.slot))) | 3 => some (.int o.cycleId)
    | 4 => some (.int (probeShare s)) | 5 => some (.int (optFlags s)) | 6 => some (.int o.done) | 7 => some (.int o.voids)
    | 8 => some (.bytes o.lastBlocks) | 9 => some (.int o.rejected) | _ => none
  else if 0x3A10 ≤ i ∧ i < 0x3A18 then
    let x := s.oslot (i - 0x3A10)
    match sub with
    | 0xA => some (.int (slotStatus s (i - 0x3A10))) | 0xB => some (.int x.gradient) | 0xC => some (.int x.t)
    | 0xD => some (.int x.suggestion) | 0xE => some (.int x.sugState) | 0x10 => some (.int x.result) | _ => none
  else none

end Sys2Proof.Machine
end

