-- ==== Sys2Proof/Machine/Yield.lean ====
section
/-! DEFINITION. Yield maps and the fleet link (chapter 09, R209–R222): mass per parcel, load calibration, the map and its tiles,
documentation, messages and topics. -/

namespace Sys2Proof.Machine

/-! ## Mass per parcel (R209–R211) -/

/-- What a mass report gives: share of mass measured, wet and dry mass in g, moisture in 0.01 %, and the flags MASS_MISSING,
MASS_SCALED, MOISTURE_SUBSTITUTED and MOISTURE_ASSUMED. -/
structure MassRep where
  share : Rat
  wet : Rat
  dry : Rat
  moisture : Rat
  missing : Bool
  scaled : Bool
  substituted : Bool
  assumed : Bool
  deriving DecidableEq, Repr

/-- The moisture of a parcel, and whether it is measured, substituted or assumed (R211). -/
def parcelMoisture (s : State) (q : Parcel) : Rat × Nat :=
  if q.attr.lost.getD 5 0 < q.attr.seen.getD 5 0 then (divQ q.attr.moistSum q.attr.moistMass, 0)
  else match s.yield.lastMoist with
    | some (n, m) => if pdist n q.num ≤ s.nat 0x3E00 4 then (m, 1) else (s.nat 0x3E00 2, 2)
    | none => (s.nat 0x3E00 2, 2)

/-- Wet and dry mass of a parcel (R210, R211). -/
def massReport (s : State) (q : Parcel) : MassRep :=
  let ms := shareOf q.attr 3
  let ok := decide ((s.nat 0x3E00 3 : Rat) ≤ ms * 32768)
  let wet := if ok then q.attr.mass / ms else 0
  let m := parcelMoisture s q
  ⟨ms, wet, wet * (10000 - m.1) / (10000 - s.nat 0x3E00 2), m.1, !ok, ok && decide (ms < 1), m.2 == 1, m.2 == 2⟩

/-! ## The plane and the footprint (R213, R214) -/

/-- East and north in mm of a position about an origin, both in 1e-7 degree (R213). -/
def planeOf (oLat oLon lat lon : Int) : Rat × Rat :=
  let k : Rat := Config.pi / 180 * 6378137 * 1000 / 10000000
  ((lon - oLon : Int) * k * Config.cosDeg ((oLat : Rat) / 10000000), (lat - oLat : Int) * k)

/-- ⌈√z⌉ for z ≥ 0. -/
def ceilSqrt (z : Rat) : Nat :=
  let r := isqrt z.floor.toNat
  if z ≤ ((r : Rat) * r) then r else r + 1

/-- ⌊x + √z⌋, or with `neg` ⌊x − √z⌋, for z ≥ 0. -/
def floorSqrt (x z : Rat) (neg : Bool) : Int :=
  let r : Rat := isqrt z.floor.toNat
  if neg then
    let f := (x - r).floor
    if z ≤ (x - f) * (x - f) then f else f - 1
  else
    let f := (x + r).floor + 1
    if (f : Rat) ≤ x ∨ (f - x) * (f - x) ≤ z then f else f - 1

/-- Column and row of the cells that the centres of a footprint's sub-rectangles lie in, for cells of `cell` mm. -/
def footprintCells (a b : Rat × Rat) (heading : Nat) (width : Nat) (cell : Rat) : List (Int × Int) :=
  let dx := b.1 - a.1
  let dy := b.2 - a.2
  let d2 := dx * dx + dy * dy
  let nA := max 1 (ceilSqrt (d2 / 62500))
  let nW := max 1 ((width + 249) / 250)
  let h : Rat := (heading : Rat) / 100
  (List.range nA).flatMap fun i =>
    let t : Rat := (2 * i + 1 : Nat) / (2 * nA : Nat)
    let x := (a.1 + dx * t) / cell
    let y := (a.2 + dy * t) / cell
    (List.range nW).map fun j =>
      let c : Rat := width * ((2 * j + 1 : Nat) / (2 * nW : Nat) - 1 / 2) / cell
      if d2 = 0 then ((x + c * Config.cosDeg h).floor, (y - c * Config.sinDeg h).floor)
      else (floorSqrt x (c * c * dy * dy / d2) (decide (c * dy < 0)), floorSqrt y (c * c * dx * dx / d2) (decide (0 < c * dx)))

/-! ## Cells and tiles (R214, R215) -/

/-- Tile and cell index of a column and row. -/
def tileOf (p : Int × Int) : Int × Int × Nat := (p.1 / 64, p.2 / 64, (p.2 % 64).toNat * 64 + (p.1 % 64).toNat)

/-- Add an amount to a cell. -/
def addCell (l : List (Nat × CellAcc)) (j : Nat) (f : CellAcc → CellAcc) : List (Nat × CellAcc) :=
  if l.any fun c => c.1 == j then l.map fun c => if c.1 = j then (j, f c.2) else c else l ++ [(j, f {})]

/-- Add an amount to the cell of a tile. -/
def addTile (l : List MapTile) (now : Nat) (p : Int × Int) (f : CellAcc → CellAcc) : List MapTile :=
  let (e, n, j) := tileOf p
  let put := fun (t : MapTile) => { t with cells := addCell t.cells j f, updated := now, dirty := true }
  if l.any fun t => t.e == e && t.n == n then l.map fun t => if t.e = e ∧ t.n = n then put t else t
  else l ++ [put { e := e, n := n }]

/-- Place a parcel on the map of the open field (R210, R213, R214). -/
def placeParcel (q : Parcel) (r : MassRep) (s : State) : State :=
  match s.yield.field with
  | none => s
  | some _ =>
    let s := if s.yield.originSet then s else
      s.updYield fun y => { y with originSet := true, originLat := q.startLat, originLon := q.startLon }
    let y := s.yield
    let width := (fieldOf (parcelFields s q) 8).toNat
    let cells := footprintCells (planeOf y.originLat y.originLon q.startLat q.startLon)
      (planeOf y.originLat y.originLon q.endLat q.endLon) q.heading width (s.nat 0x3E00 1 * 10 : Nat)
    let k : Rat := 1 / (cells.length : Nat)
    let area := if r.missing then 0 else q.area
    let moist := !r.assumed
    let add := fun (c : CellAcc) =>
      { c with area := c.area + area * k, wet := c.wet + r.wet * k, dry := c.dry + r.dry * k,
               moistSum := if moist then c.moistSum + r.moisture * r.wet * k else c.moistSum,
               moistMass := if moist then c.moistMass + r.wet * k else c.moistMass,
               flags := Nat.lor c.flags (b2n r.scaled + 2 * b2n (q.has pfSlug) + 4 * b2n (q.has pfUncertain) + 8 * b2n r.missing) }
    s.updYield fun y =>
      { y with tiles := cells.foldl (fun l c => addTile l (s.tm.now / 1000000000) c add) y.tiles,
               wet := y.wet + r.wet, dry := y.dry + r.dry, area := y.area + area,
               missing := if r.missing then inc32 y.missing else y.missing }

/-- Stored number of a quantity: its floor, held at the field's bound (log 29), and whether it was held. -/
def satCell (q : Rat) : Nat × Bool := (min q.floor.toNat 65535, decide (65535 < q.floor))

/-- The eight bytes of a cell (Table 09-2). -/
def cellBytes (c : CellAcc) : Bytes :=
  let a := satCell (c.area / 10000)
  let w := satCell (c.wet / 10)
  let d := satCell (c.dry / 10)
  let m := if c.moistMass = 0 then 255 else min (c.moistSum / c.moistMass / 20).floor.toNat 254
  let f := setBit c.flags 4 (a.2 || w.2 || d.2)
  leBytes 1 f ++ leBytes 1 m ++ leBytes 2 d.1 ++ leBytes 2 w.1 ++ leBytes 2 a.1

/-- A tile's record of 32,800 bytes (Table 09-1). -/
def tileRecord (s : State) (t : MapTile) : Bytes :=
  let body := leBytes 4 (t.updated % 2 ^ 32) ++ leBytes 4 t.gen ++ leBytes 2 s.yield.crop ++ leBytes 2 (s.nat 0x3E00 1) ++
    leInt 4 s.yield.originLon ++ leInt 4 s.yield.originLat ++ leInt 2 t.n ++ leInt 2 t.e ++ leBytes 4 (s.yield.field.getD 0) ++
    (List.range 4096).flatMap fun j => cellBytes (((t.cells.find? fun c => c.1 == j).map (·.2)).getD {})
  leBytes 4 (crc32 (nats body)) ++ body

/-! ## Messages and topics (R218–R221) -/

/-- Upper-case hexadecimal digits of an identifier. -/
def hex8 (n : Nat) : Bytes :=
  (List.range 8).map fun i => let d := n / 16 ^ (7 - i) % 16; byteOf (if d < 10 then 48 + d else 55 + d)

/-- Topics: 0 up/pose, 1 up/parcels, 2 up/tile, 3 up/state, 4 up/opt, 5 up/doc, 6 the cart's in/unload. -/
def topicSuffix (k : Nat) : String :=
  (["up/pose", "up/parcels", "up/tile", "up/state", "up/opt", "up/doc", "in/unload"]).getD k ""

/-- FleetId in force. -/
def fleetId (s : State) : Nat := (valNum (s.fleet.cfg.getD 2 (.int 0))).toNat

/-- A topic's string. -/
def topicName (s : State) (k : Nat) : Bytes :=
  valRaw (s.fleet.cfg.getD 3 (.bytes [])) ++ ascii "/" ++ hex8 (if k = 6 then s.nat 0x3C40 2 else fleetId s) ++ ascii "/" ++
    ascii (topicSuffix k)

/-- The header of Table 09-5. -/
def fleetHeader (type len seq stamp : Nat) : Bytes := leBytes 8 stamp ++ leBytes 4 seq ++ leBytes 2 len ++ leBytes 1 type ++ leBytes 1 1

/-- MSG_TYPE of a topic (R219). -/
def msgType (k : Nat) : Nat := ([1, 2, 3, 4, 4, 5, 6]).getD k 0

/-- Bytes of a queue. -/
def queueBytes (l : List FleetMsg) : Nat := (l.map fun m => m.data.length).sum

/-- QueueLimit in force, bytes. -/
def queueLimit (s : State) : Nat := (valNum (s.fleet.cfg.getD 5 (.int 256))).toNat * 1048576

/-- Take out the oldest parcel batches while the queue is above its limit (R221); with the number taken out. -/
def dropBatches (limit : Nat) : Nat → List FleetMsg → List FleetMsg × Nat
  | 0, l => (l, 0)
  | n + 1, l =>
    if queueBytes l ≤ limit then (l, 0)
    else if l.any fun m => m.topic == 1 then
      let r := dropBatches limit n (l.eraseP fun m => m.topic == 1)
      (r.1, r.2 + 1)
    else (l, 0)

/-- Put a QoS 1 message into the queue (R221). -/
def enqueue (m : FleetMsg) (s : State) : State :=
  s.updFleet fun f =>
    let l := if m.topic = 2 then f.queue.filter fun x => !(x.topic == 2 && x.tile == m.tile)
      else if m.topic = 3 ∨ m.topic = 4 then f.queue.filter fun x => x.topic != m.topic else f.queue
    let q := l ++ [m]
    let r := if m.topic = 1 then dropBatches (queueLimit s) q.length q else (q, 0)
    { f with queue := r.1, dropped := add32 f.dropped r.2 }

/-- Send on a topic: at once while connected, where the broker's acknowledgement is taken as given (log 29); a QoS 1 message waits in the
queue while the link is down; a link that is off carries nothing. -/
def fleetSend (k : Nat) (tile : Option (Int × Int)) (payload : Bytes) (stamp : Nat) (s : State) : State :=
  let seq := s.fleet.seqs.getD k 0
  let msg := fleetHeader (msgType k) (if k = 5 then 0 else payload.length) seq stamp ++ payload
  let t := s.updFleet fun f => { f with seqs := f.seqs.set k (seqAdd seq 1) }
  if s.fleet.link = 2 then t.updFleet fun f => { f with last := f.last.set k (topicName s k, msg) }
  else if s.fleet.link = 0 ∨ k = 0 ∨ k = 6 then s
  else enqueue ⟨k, tile, msg⟩ t

/-- The states in which every topic is active (Table 09-11). -/
def publishing (s : State) : Bool := s.pw.dev = .run || s.pw.dev = .service

/-- FIX of a pose record. -/
def fixCode (s : State) : Nat := if s.sky.status = 2 then 5 else s.sky.fix

/-- A pose record (Table 09-6). -/
def poseRecord (lat lon height speed : Int) (heading fix point : Nat) : Bytes :=
  leBytes 2 0 ++ leBytes 1 point ++ leBytes 1 fix ++ leBytes 2 heading ++ leInt 2 (clampI (-32768) 32767 speed) ++ leInt 4 height ++
    leInt 4 lon ++ leInt 4 lat

def execPosePublish (s : State) : Out :=
  let p := s.sky.pose
  .next (if publishing s ∧ s.fleet.link = 2 then
    fleetSend 0 none (poseRecord p.lat p.lon p.height p.speed p.heading (fixCode s) 1) p.stamp s else s)

/-- A parcel record (Table 09-7). -/
def parcelRecord (s : State) (q : Parcel) (r : MassRep) : Bytes :=
  leBytes 2 (min (r.share * 32768).floor.toNat 65535) ++
  leBytes 2 (b2n r.missing + 2 * b2n r.scaled + 4 * b2n r.substituted + 8 * b2n (q.has pfUncertain) + 16 * b2n (q.has pfShort) +
    32 * b2n (q.has pfMerged) + 64 * b2n (q.has pfSlug) + 128 * b2n r.assumed) ++
  leInt 2 (fieldOf (parcelFields s q) 8) ++ leBytes 2 (if r.assumed then 0xFFFF else min r.moisture.floor.toNat 0xFFFE) ++
  leInt 4 (sat32 r.dry) ++ leInt 4 (sat32 r.wet) ++ leInt 4 (sat32 (q.area / 100)) ++ leInt 4 q.endLon ++ leInt 4 q.endLat ++
  leInt 4 q.startLon ++ leInt 4 q.startLat ++ leBytes 4 q.num

/-- Publish the waiting parcel records, at most 256 in a message. -/
def publishBatches : Nat → State → State
  | 0, s => s
  | n + 1, s =>
    if s.fleet.batch = [] then s
    else publishBatches n ((fleetSend 1 none (s.fleet.batch.take 256).flatten s.tm.now s).updFleet fun f => { f with batch := f.batch.drop 256 })

def execParcelBatchPublish (s : State) : Out := .next (if publishing s then publishBatches s.fleet.batch.length s else s)

/-- Publish a tile: its GENERATION grows by one (R215). A link that is off publishes nothing. -/
def publishTile (t : MapTile) (s : State) : State :=
  if s.fleet.link = 0 then s else
  let g := { t with gen := (t.gen + 1) % 2 ^ 32, dirty := false, sentAt := some s.tm.mono }
  (fleetSend 2 (some (t.e, t.n)) (tileRecord s g) s.tm.now s).updYield fun y =>
    { y with tiles := y.tiles.map fun x => if x.e = t.e ∧ x.n = t.n then g else x }

def execTilePublish (e n : Int) (s : State) : Out :=
  .next (match s.yield.tiles.find? fun t => t.e == e && t.n == n with
    | some t =>
      let due : Bool := match t.sentAt with | some a => decide (a + s.nat 0x3E00 9 * 1000000000 ≤ s.tm.mono) | none => true
      if publishing s && t.dirty && due && s.yield.field.isSome then publishTile t s else s
    | none => s)

/-- The unload record to the cart (R207, Table 09-8). -/
def execUnloadMessage (s : State) : Out :=
  let c := s.steer.cart
  .next (if publishing s ∧ s.fleet.link = 2 ∧ s.flag 0x3C40 1 ∧ c.report.isSome ∧ !c.stale ∧ !c.lowAccuracy then
    fleetSend 6 none (leInt 2 (clampI (-32768) 32767 c.angle) ++ leInt 2 (clampI (-32768) 32767 c.relSpeed) ++ leInt 4 c.relLateral ++
      leInt 4 c.relForward ++ leBytes 4 (fleetId s)) s.tm.now s
    else s)

/-! ## Documentation (R217) -/

/-- PositionStatus of a parcel; a fix of which the rule says nothing gives a free number. -/
def positionStatus (s : State) (q : Parcel) : Nat × State :=
  if q.has pfUncertain then (6, s)
  else match q.fix with
    | 4 => (4, s) | 3 => (5, s) | 2 => (2, s) | 1 => (1, s)
    | _ => let (v, s) := s.freeInt; (v.toNat, s)

/-- The time-log entry of a parcel of the active task. -/
def logParcel (q : Parcel) (r : MassRep) (s : State) : State :=
  if s.yield.task then
    let (st, s) := positionStatus s q
    let e : LogEntry :=
      { parcel := q.num, stamp := ((q.cutEnd : Int) - s.tm.utcOffset * 1000000000).toNat, lat := (q.startLat + q.endLat) / 2,
        lon := (q.startLon + q.endLon) / 2, yield := if r.missing then none else some (divQ (r.wet * 1000000) q.area),
        moisture := if r.missing || r.assumed then none else some r.moisture.floor.toNat,
        width := (fieldOf (parcelFields s q) 8).toNat, total := s.yield.wet, status := st }
    s.updYield fun y => { y with log := y.log ++ [e] }
  else s

/-- Documentation of an ended task: the file set that the TC server has composed. -/
def execDocPublish (file : Bytes) (s : State) : Out :=
  .next (if s.yield.docDue then
    (fleetSend 5 none file s.tm.now s).updYield fun y => { y with docDue := false, log := [] } else s)

/-! ## The mass reports of one application frame (R209) -/

/-- One released mass report. -/
def yieldReport (q : Parcel) (s : State) : State :=
  let r := massReport s q
  let s := logParcel q r (placeParcel q r s)
  let s := if s.fleet.link = 0 then s else s.updFleet fun f => { f with batch := f.batch ++ [parcelRecord s q r] }
  if !r.substituted ∧ !r.assumed then s.updYield fun y => { y with lastMoist := some (q.num, r.moisture) } else s

/-- Mass reports released and not yet taken; parcels are placed in Run, Service and Shutdown (Table 09-11). -/
def yieldFrame (s : State) : State :=
  if publishing s ∨ s.pw.dev = .shutdown then
    (s.pas.ring.filter fun q => q.pass == 1 && q.has pfMassFinal && !q.massTaken).foldl (fun s q => yieldReport q s) s
  else s

/-! ## Prior tiles and the map strip (R216) -/

/-- Fields of a tile record. -/
def tileCheckOk (b : Bytes) : Bool := b.length == 32800 && crc32 (nats (b.drop 4)) == fieldLe b 0 4
def tileKey (b : Bytes) : Nat × Nat × Nat := (fieldLe b 28 4, fieldLe b 26 2, fieldLe b 24 2)

/-- A tile arrives on in/map. -/
def storePrior (b : Bytes) (s : State) : State :=
  if tileCheckOk b then
    match s.yield.prior.find? fun p => tileKey p == tileKey b with
    | some old => if fieldLe old 8 4 < fieldLe b 8 4 then
        s.updYield fun y => { y with prior := y.prior.map fun p => if tileKey p = tileKey b then b else p } else s
    | none => s.updYield fun y => { y with prior := y.prior ++ [b] }
  else s

def execPriorTile (tile : Bytes) (s : State) : Out := .next (if publishing s ∧ s.fleet.link = 2 then storePrior tile s else s)

/-- y and c of the prior cell of a tile that contains a position. -/
def priorCell (b : Bytes) (lat lon : Int) : Option (Rat × Rat) :=
  let size := fieldLe b 14 2
  let p := planeOf (fieldInt b 20 4) (fieldInt b 16 4) lat lon
  let c := tileOf ((p.1 / (size * 10 : Nat)).floor, (p.2 / (size * 10 : Nat)).floor)
  if size = 0 ∨ c.1 ≠ fieldInt b 26 2 ∨ c.2.1 ≠ fieldInt b 24 2 then none
  else
    let o := 32 + 8 * c.2.2
    let area := fieldLe b (o + 6) 2
    let fl := fieldLe b o 1
    let conf : Rat := min 1 ((area * 100 : Nat) / (size * size : Nat))
    if area = 0 then some (0, 0)
    else some ((fieldLe b (o + 2) 2 : Rat) / area, if fl.testBit 2 || fl.testBit 3 then conf / 2 else conf)

/-- The map strip (03 R73): each footprint with the y and c that the prior tiles loaded for the open field give it. -/
def mapStrip (l : List StripCell) (s : State) : List StripVal :=
  let crop := s.nat 0x3A00 0x19
  let use := s.yield.loaded.filter fun b => fieldLe b 12 2 == crop || fieldLe b 12 2 == 0 || crop == 0
  l.map fun f => match (use.filterMap fun b => priorCell b f.lat f.lon).head? with
    | some (y, c) => ⟨f.parcel, y, c, f.lat, f.lon⟩
    | none => ⟨f.parcel, 0, 0, f.lat, f.lon⟩

/-! ## Opening and closing a field (R213) -/

/-- The open field closes: every changed tile is published; a task's documentation becomes due. -/
def closeField (s : State) : State :=
  let s := (s.yield.tiles.filter (·.dirty)).foldl (fun s t => publishTile t s) s
  s.updYield fun y => { y with field := none, docDue := y.docDue || y.task, task := false, loaded := [] }

/-- A field opens with its prior tiles (R213, R216); an open one is closed first (log 29). -/
def openField (id : Nat) (task : Bool) (s : State) : State :=
  let s := if s.yield.field.isSome then closeField s else s
  s.updYield fun y =>
    { y with field := some id, task := task, originSet := false, originLat := 0, originLon := 0, crop := s.nat 0x3A00 0x19,
             wet := 0, dry := 0, area := 0, missing := 0, tiles := [], log := if task then [] else y.log,
             loaded := y.prior.filter fun b => fieldLe b 28 4 == id }

/-- MapCommand. -/
def mapCommand (v : Int) (s : State) : Except Nat State :=
  if s.yield.task then .error Abort.state
  else if v = 1 then .ok ((openField (0x80000000 + s.yield.opened) false s).updYield fun y => { y with opened := y.opened + 1 })
  else .ok (if s.yield.field.isSome then closeField s else s)

/-! ## Load calibration (R212) -/

/-- Each loop frame of counting and emptying adds the mass of the frame. -/
def loadFrame (s : State) : State :=
  if s.yield.loadState = 1 ∨ s.yield.loadState = 2 then
    s.updYield fun y => { y with loadMass := y.loadMass + s.sens.massFlow / 10000 } else s

/-- LoadCommand. -/
def loadCommand (v : Int) (s : State) : Except Nat State :=
  let st := s.yield.loadState
  if v = 1 then
    if st = 0 ∨ st = 4 ∨ st = 5 then .ok (s.updYield fun y => { y with loadState := 1, loadMass := 0 }) else .error Abort.state
  else if v = 2 then
    if st = 1 then .ok (s.updYield fun y => { y with loadState := 2, emptyAt := s.tm.mono }) else .error Abort.state
  else if v = 3 then
    if st = 4 then
      .ok (((s.put 0x4880 7 (.int s.yield.proposed)).commit 2 (keyOf 0x4880 7) (.int s.yield.proposed)).updYield fun y =>
        { y with loadState := 0 })
    else .error Abort.state
  else if v = 4 then .ok (s.updYield fun y => { y with loadState := 0 })
  else .error Abort.range

/-- WeighedMass written in state 0x03 computes the proposal (R212). -/
def weigh (g : Nat) (s : State) : State :=
  if s.yield.loadState = 3 then
    let m := s.yield.loadMass
    let p := divQ (s.nat 0x4880 7 * g : Nat) m
    let ok := decide (1000000 ≤ m) && decide (800 ≤ p) && decide (p ≤ 1250)
    s.updYield fun y => { y with loadState := if ok then 4 else 5, proposed := if ok then (halfUp p).toNat else y.proposed }
  else s

/-- Writes to 0x3E00. -/
def yieldWrite (w : Ctx) (i sub : Nat) (v : Val) (s : State) : Except Nat State :=
  checked w i sub v s fun s =>
    if sub = 1 then if s.yield.field.isSome then .error Abort.state else .ok (s.put i sub v)
    else if sub = 8 then mapCommand (valNum v) s
    else if sub = 0x10 then loadCommand (valNum v) s
    else if sub = 0x13 then .ok (weigh (valNum v).toNat (s.put i sub v))
    else .ok (s.put i sub v)

def execLoadStart (sess : Nat) (s : State) : Out := s.asSession sess 0x3E00 fun w => yieldWrite w 0x3E00 0x10 (.int 1)
def execLoadEmpty (sess : Nat) (s : State) : Out := s.asSession sess 0x3E00 fun w => yieldWrite w 0x3E00 0x10 (.int 2)
def execLoadAccept (sess : Nat) (s : State) : Out := s.asSession sess 0x3E00 fun w => yieldWrite w 0x3E00 0x10 (.int 3)
def execLoadDiscard (sess : Nat) (s : State) : Out := s.asSession sess 0x3E00 fun w => yieldWrite w 0x3E00 0x10 (.int 4)
def execWeighedMassWrite (sess : Nat) (g : Int) (s : State) : Out := s.asSession sess 0x3E00 fun w => yieldWrite w 0x3E00 0x13 (.int g)

/-- S5 and S6 are empty or 30 s have passed. -/
def execLoadEmptied (s : State) : Out :=
  .next (if s.yield.loadState = 2 ∧ ((inStation s.pas.ring 5 = [] ∧ inStation s.pas.ring 6 = []) ∨ s.yield.emptyAt + 30000000000 ≤ s.tm.mono)
    then s.updYield fun y => { y with loadState := 3 } else s)

def execMapOpen (by_ : MapBy) (s : State) : Out :=
  match by_ with
  | .session n => s.asSession n 0x3E00 fun w => yieldWrite w 0x3E00 8 (.int 1)
  | .task f => .next (if publishing s then ((openField f true s).optVoid 0x16).optSettle else s)

def execMapClose (by_ : MapBy) (s : State) : Out :=
  match by_ with
  | .session n => s.asSession n 0x3E00 fun w => yieldWrite w 0x3E00 8 (.int 2)
  | .task f => .next (if s.yield.task ∧ s.yield.field = some f then closeField s else s)

/-- Values that 0x3E00 reads. -/
def yieldRead (s : State) (sub : Nat) : Option Val :=
  let y := s.yield
  match sub with
  | 5 => some (.int (y.field.getD 0))
  | 6 => some (.int y.originLat) | 7 => some (.int y.originLon)
  | 0xA => some (.int (sat32 (y.wet / 100))) | 0xB => some (.int (sat32 (y.dry / 100)))
  | 0xC => some (.int (sat32 (y.area / 10000))) | 0xD => some (.int y.missing)
  | 0xE => some (.int (b2n y.field.isSome + 2 * b2n (y.loaded != [])))
  | 0x11 => some (.int y.loadState) | 0x12 => some (.int (sat32 y.loadMass)) | 0x14 => some (.int y.proposed)
  | _ => none

/-! ## The connection (R218, R221) -/

/-- FleetEnable is set and FleetId is not 0. -/
def fleetWanted (s : State) : Bool := s.reachable && s.flag 0x3E20 1 && decide (s.nat 0x3E20 4 ≠ 0)

/-- The connection stands: the written values come into force and the queue is sent again. -/
def connect (s : State) : State :=
  let s := s.updFleet fun f => { f with link := 2, wait := 1, cfg := (rangeFrom 2 6).map (s.val 0x3E20) }
  s.fleet.queue.foldl (fun s m => s.updFleet fun f => { f with last := f.last.set m.topic (topicName s m.topic, m.data), queue := f.queue.drop 1 }) s

def execFleetConnect (s : State) : Out := .next (if fleetWanted s ∧ s.fleet.link ≤ 1 then connect s else s)

/-- The wait is over: connected, or the wait doubles up to 60 s; after an authentication refusal it stays at 300 s. -/
def execFleetReconnectExpiry (connected : Bool) (s : State) : Out :=
  .next (if fleetWanted s ∧ 3 ≤ s.fleet.link then
    if connected then connect s
    else if s.fleet.link = 4 then s
    else s.updFleet fun f => { f with wait := min 60 (2 * f.wait) }
  else s)

def execFleetLinkLost (authRefused : Bool) (s : State) : Out :=
  .next (if s.fleet.link = 0 then s
    else s.updFleet fun f => { f with link := if authRefused then 4 else 3, wait := if authRefused then 300 else 1 })

/-- Writes to 0x3E20: FleetEnable acts at once, .02–.07 at the next connection. -/
def fleetWrite (w : Ctx) (i sub : Nat) (v : Val) (s : State) : Except Nat State :=
  checked w i sub v s fun s =>
    let t := s.put i sub v
    .ok (if sub = 1 then t.updFleet fun f => { f with link := if fleetWanted t then max f.link 1 else 0 } else t)

/-- Values that 0x3E20 reads. -/
def fleetRead (s : State) (sub : Nat) : Option Val :=
  match sub with
  | 0xA => some (.int s.fleet.link) | 0xB => some (.int (queueBytes s.fleet.queue / 1024))
  | 0xC => some (.int s.fleet.dropped) | 0xD => some (.int s.fleet.rejected)
  | _ => none

/-- The link as a Start begins it, and as a Shutdown closes it (R221, Table 09-11). -/
def fleetStart (s : State) : State :=
  { s with fleet := { link := b2n (s.flag 0x3E20 1 && decide (s.nat 0x3E20 4 ≠ 0)), queue := s.fleet.queue, seqs := s.fleet.seqs } }
def fleetShutdown (s : State) : State := s.updFleet fun f => { f with link := 0 }

/-! ## Object sets (R220) -/

/-- DeviceState 0x2000.01 (01 Table 01-8). -/
def devCode : Dev → Nat
  | .dormant => 1 | .park => 2 | .start => 3 | .run => 4 | .service => 5 | .ladder => 6 | .shutdown => 7

/-- An object of the two sets as it reads. -/
def setValue (s : State) (i sub : Nat) : Val :=
  let live := if i = 0x2000 then some (Val.int (devCode s.pw.dev))
    else if i = 0x3811 then passageRead s 0 i sub
    else if i = 0x3C10 then steerRead s i sub
    else if i = 0x3E00 then yieldRead s sub
    else if i = 0x3E20 then fleetRead s sub
    else optRead s i sub
  live.getD (s.val i sub)

/-- One entry of an object set. -/
def setEntry (s : State) (i : Nat) (r : ObjRow) : Bytes :=
  let d := encodeVal r.ty (setValue s i r.sub)
  leBytes 2 i ++ leBytes 1 r.sub ++ leBytes 1 0 ++ leBytes 2 d.length ++ d

/-- The objects of the state set (0) and of the optimiser set (1). -/
def setRows (k : Nat) : List (Nat × ObjRow) :=
  if k = 0 then
    [(0x2000, 1), (0x3811, 4), (0x3C10, 3), (0x3C10, 4), (0x3C10, 5), (0x3E00, 5), (0x3E00, 0xA), (0x3E00, 0xB), (0x3E00, 0xC),
     (0x3E00, 0xD), (0x3E00, 0xE), (0x3E20, 0xA)].filterMap fun p => (objRow? p.1 p.2).map fun r => (p.1, r)
  else (rangeFrom 0x3A00 24).flatMap fun i =>
    (objPage 0x3A).filterMap fun r => if r.lo ≤ i ∧ i < r.lo + r.count ∧ r.acc ≠ .wo then some (i, r) else none

/-- An object set's bytes. -/
def setBytes (k : Nat) (s : State) : Bytes := (setRows k).flatMap fun p => setEntry s p.1 p.2

/-- Published on change, at most once a second. -/
def execStatePublish (opt : Bool) (s : State) : Out :=
  let k := b2n opt
  let b := setBytes k s
  let due : Bool := match s.fleet.setAt.getD k none with | some a => decide (a + 1000000000 ≤ s.tm.mono) | none => true
  .next (if publishing s ∧ s.fleet.link ≠ 0 ∧ due ∧ b ≠ s.fleet.sets.getD k [] then
    (fleetSend (3 + k) none b s.tm.now s).updFleet fun f => { f with sets := f.sets.set k b, setAt := f.setAt.set k (some s.tm.mono) }
  else s)

/-! ## Messages received (R219) -/

/-- The header of an incoming message fits its topic. -/
def headerOk (topic : InTopic) (msg : Bytes) : Bool :=
  let type := match topic with | .map => 3 | .cartPose => 1 | _ => 4
  decide (16 ≤ msg.length) && fieldLe msg 15 1 == 1 && fieldLe msg 12 2 == msg.length - 16 && fieldLe msg 14 1 == type

/-- A cart's pose (R206, Table 09-6). -/
def cartReport (msg : Bytes) : CartPose :=
  let p := msg.drop 16
  ⟨fieldLe msg 0 8, fieldInt p 16 4, fieldInt p 12 4, fieldInt p 6 2, fieldLe p 4 2, fieldLe p 3 1⟩

end Sys2Proof.Machine
end

