-- ==== Sys2Proof/Machine/Valve.lean ====
section
/-! DEFINITION. Valve and solenoid drive (chapter 10, R223–R252): banks, supplies, PV regulation, SV profiles, coil temperature, SENT
inputs, faults, guard, tests and objects. Channels 0–15 are PV1–PV16, 16–31 are SV1–SV16. -/

namespace Sys2Proof.Machine

/-! ## Channels, banks and supplies (R223) -/

abbrev vObj (n : Nat) : Nat := 0x4000 + n

/-- Channel n, bank b, supply k. -/
def State.vch (s : State) (n : Nat) : VCh := s.valve.ch.getD n {}
def State.vbank (s : State) (b : Nat) : VBank := s.valve.bank.getD b {}
def State.vsup (s : State) (k : Nat) : VSup := s.valve.sup.getD k {}

/-- Updates of one of them. -/
def State.updCh (s : State) (n : Nat) (f : VCh → VCh) : State := s.updValve fun v => { v with ch := updAt v.ch n f }
def State.updBank (s : State) (b : Nat) (f : VBank → VBank) : State := s.updValve fun v => { v with bank := updAt v.bank b f }
def State.updSup (s : State) (k : Nat) (f : VSup → VSup) : State := s.updValve fun v => { v with sup := updAt v.sup k f }

/-- Bank of a channel and channels of a bank (Table 10-1). -/
def bankOf (n : Nat) : Nat := if n < 8 then 0 else if n < 16 then 1 else 2 + (n - 16) / 4
def bankChans (b : Nat) : List Nat := if b < 2 then rangeFrom (8 * b) 8 else rangeFrom (16 + 4 * (b - 2)) 4

/-- Drive supply of a bank: 0 VBA, 1 VBB. -/
def bankSupply (b : Nat) : Nat := if b < 2 then 0 else 1

/-- ENGINE of a channel's records: TE1–TE4 (Table 10-1). -/
def teOf (n : Nat) : Nat := let b := bankOf n; if b < 2 then 6 + b else 8 + (b - 2) / 2

/-- The command a channel follows: the guard's, a test's or the latched one (R245, R247). -/
def VCh.eff (c : VCh) : Nat :=
  match c.guardCmd with
  | some g => g
  | none => match c.test with | some t => t.1 | none => c.cmd

/-- The steering function has a context on the channel, PV1 or PV2 (R224). -/
def steersChannel (s : State) (n : Nat) : Bool :=
  decide (n < 2) && (s.ctxOfFn s.steerFn).any fun m => (s.ctxAt m).enabled && (s.nat (ctxObj m) 9 == n + 1 || s.nat (ctxObj m) 0xA == n + 1)

/-- A fault holds the channel off (Table 10-7). -/
def chanHeld (s : State) (n : Nat) : Bool :=
  let c := s.vch n
  let b := s.vbank (bankOf n)
  c.trip || c.latched || c.overtemp || b.hsTrip || b.latched || decide (s.tm.mono < c.resumeAt)

/-- The stage may drive the channel. -/
def chanPowered (s : State) (n : Nat) : Bool :=
  let b := bankOf n
  (s.vbank b).enable && (s.vsup (bankSupply b)).present && (s.vch n).live && !chanHeld s n && (!steersChannel s n || s.steer.enable)

/-- Functions with an enabled context on one of the destinations. -/
def driversOf (s : State) (p : Nat → Bool) : List Nat :=
  indices 48 fun f => (s.ctxOfFn f).any fun n => (s.ctxAt n).enabled && (p (s.nat (ctxObj n) 9) || p (s.nat (ctxObj n) 0xA))

/-- An unresolved safety parameter withholds the bank's enable (15 R356). -/
def bankHeld (s : State) (b : Nat) : Bool :=
  let on := fun d => decide (1 ≤ d) && decide (d ≤ 32) && bankOf (d - 1) == b
  s.safetyHeld fun i => i == 0x4040 + b || (decide (0x4000 ≤ i) && decide (i < 0x4020) && bankOf (i - 0x4000) == b) ||
    (decide (0x2800 ≤ i) && decide (i < 0x2830) && (driversOf s on).contains (i - 0x2800))

/-- The conditions of a bank enable (R224, 15 R356). -/
def bankMay (s : State) (b : Nat) : Bool :=
  (s.pw.dev = .run || s.pw.dev = .service) && s.pw.ign && (s.vsup (bankSupply b)).present && !(s.vbank b).latched &&
    !bankHeld s b

/-- ChannelStatus (Table 10-10). -/
def channelStatus (s : State) (n : Nat) : Nat :=
  let c := s.vch n
  let b := bankOf n
  let drive := if n < 16 then chanPowered s n && decide (0 < c.eff) else decide (2 ≤ c.phase) && decide (c.phase ≤ 4)
  b2n drive + 2 * b2n (!(s.vsup (bankSupply b)).present) + 4 * b2n (s.vbank b).guard + 8 * b2n c.headroom + 16 * b2n c.clipped +
    32 * b2n (s.nat (vObj n) 5 == 0) + 64 * b2n c.rejected + 128 * b2n c.distorted + 256 * b2n c.thermal +
    512 * b2n (c.stuck && (decide (n < 16) || s.flag (vObj n) 0x24)) +
    1024 * b2n c.trip + 2048 * b2n c.openLoad + 4096 * b2n c.shorted + 8192 * b2n c.overtemp + 16384 * b2n c.uncommanded + 32768 * b2n c.latched

/-- A channel fault is raised or cleared, with its record (R244). -/
def chanFault (n : Nat) (raised : Bool) (f : VCh → VCh) (s : State) : State :=
  let t := s.updCh n f
  t.record ⟨if raised then 0x7001 else 0x7002, n, teOf n, leBytes 2 (channelStatus t n), [], 0xFFFFFFFF, 0xF⟩

/-- Column-B forces the functions on the destinations to their safe states; steering among them disengages (R225, R244). -/
def forceSafe (p : Nat → Bool) (s : State) : State :=
  let l := driversOf s p
  let s := l.foldl (fun s f => applySafe f s) s
  if l.contains s.steerFn then disengage 0xC 2 s else s

/-- The same for one channel and for a bank. -/
def forceChan (n : Nat) (s : State) : State := forceSafe (fun d => d == n + 1) s
def forceBank (b : Nat) (s : State) : State := forceSafe (fun d => decide (1 ≤ d) && decide (d ≤ 32) && bankOf (d - 1) == b) s

/-! ## Profiles of switching channels (R232–R238) -/

/-- HEADROOM of an SV channel (R237, R238, Table 10-7). -/
def svHeadroom (s : State) (n : Nat) : Bool :=
  let c := s.vch n
  c.rejected || (c.distorted && c.lowMean) || c.openLoad || (chanHeld s n && c.eff != 0)

/-- HEADROOM of SV channel n is formed anew. -/
def refreshHead (n : Nat) (s : State) : State := if n < 16 then s else s.updCh n fun c => { c with headroom := svHeadroom s n }

/-- Coil-temperature band: 0 Cold, 1 Normal, 2 Warm, 3 Hot (R235). -/
def bandOf (t : Int) : Nat := if t < 0 then 0 else if t < 600 then 1 else if t ≤ 1100 then 2 else 3

/-- PEAK_CURRENT, HOLD_CURRENT, PEAK_TIME, BOOST_TIME_MAX of a band of a ProfileTable (Table 10-4). -/
def profOf (b : Bytes) (band : Nat) : List Nat :=
  [fieldLe b (8 * band + 6) 2, fieldLe b (8 * band + 4) 2, fieldLe b (8 * band + 2) 2, fieldLe b (8 * band) 2]

/-- A ProfileTable that R235 accepts. -/
def profileOk (b : Bytes) : Bool :=
  b.length == 32 && (List.range 4).all fun k => match profOf b k with
    | [p, h, t, m] => decide (500 ≤ p) && decide (p ≤ 12000) && decide (200 ≤ h) && decide (h ≤ 3000) && decide (h ≤ p) && decide (t ≤ 10000) &&
        decide (50 ≤ m) && decide (m ≤ 5000)
    | _ => false

/-- Hold target: HOLD_CURRENT, after the thermal limit at most ThermalHold (R236). -/
def holdTarget (s : State) (n : Nat) : Nat :=
  let c := s.vch n
  if c.cut then min (s.nat (vObj n) 0x23) (c.prof.getD 1 0) else c.prof.getD 1 0

/-- Enter a phase; a window in which the phase changes is not checked for overlap (R237). -/
def enterPhase (n p time : Nat) (s : State) : State :=
  s.updCh n fun c => { c with phase := p, phaseAt := time, distorted := false, lowMean := false }

/-- A command in Waiting is rejected (R238). -/
def rejectBoost (n time : Nat) (s : State) : State :=
  let c := s.vch n
  let b := bankOf n
  let boosting := ((bankChans b).find? fun m => (s.vch m).phase == 2).getD 0xFF
  let delay := (time - c.startAt) / 1000
  let s := (s.updCh n fun c => { c with phase := 0, phaseAt := time, rejected := true, blocked := true, boostDelay := min delay 65535 }).updBank b
    fun x => { x with rejects := inc32 x.rejects }
  refreshHead n (s.record ⟨0x7006, n, teOf n, leBytes 2 boosting ++ leBytes 4 delay, [], 0xFFFFFFFF, 0xF⟩)

/-- A profile starts (R232, R235, R236, R238). Whether the rail reads 40.0 V is no input of the model: a free value (log 30). -/
def svStart (n : Nat) (s : State) : State :=
  let c := s.vch n
  let now := s.tm.now
  let band := bandOf c.coilTemp
  let hot := c.thermal && decide ((s.int (vObj n) 7 - 10) * 10 ≤ c.coilTemp)
  let s := if c.thermal && !hot then chanFault n false (fun c => { c with thermal := false }) s else s
  let (v, s) := s.freeInt
  let low := decide (v < 40000)
  let s := s.updSup 2 fun r => { r with below := low }
  let busy := (bankChans (bankOf n)).any fun m => m != n && (s.vch m).phase == 2
  let wait := busy || low || (s.vsup 2).fault
  let s := s.updCh n fun c =>
    { c with phase := if wait then 1 else 2, phaseAt := now, startAt := now, edgeAt := now, band := band,
             prof := profOf (s.raw (vObj n) 0x22) band, cut := hot, noted := false, rejected := false, blocked := false, distorted := false,
             lowMean := false, boostDelay := if wait then c.boostDelay else 0 }
  if (s.vsup 2).fault then rejectBoost n now s else refreshHead n s

/-- Profiles end and requests are dropped (R224, R225, Table 10-8). -/
def svStop (n : Nat) (s : State) : State :=
  let p := (s.vch n).phase
  if p = 1 then enterPhase n 0 s.tm.now s else if 2 ≤ p ∧ p ≤ 4 then enterPhase n 5 s.tm.now s else s

/-- A safe state 0x00 of the channel's function stands (R233). -/
def safeOffOn (s : State) (n : Nat) : Bool :=
  (driversOf s fun d => d == n + 1).any fun f => (s.fnOf f).atSafe && (s.fnOf f).safeOff

/-- A safe state 0x01 of the channel's function stands: a pulse stays in Hold (Table 10-8). -/
def safeHoldOn (s : State) (n : Nat) : Bool :=
  (driversOf s fun d => d == n + 1).any fun f => (s.fnOf f).atSafe && s.nat (fnObj f) 0xC == 1

/-- What stops a pulse before its hold end: while the guard acts GuardState 0x00, else a safe state 0x00 (R233, R245). -/
def pulseStopped (s : State) (n : Nat) : Bool :=
  match (s.vch n).guardCmd with
  | some _ => s.nat (vObj n) 8 == 0
  | none => safeOffOn s n

/-- The channel follows its command (R233, R234); `rise` tells a rising edge of it. -/
def svFollow (rise : Bool) (n : Nat) (s : State) : State :=
  let c := s.vch n
  let on := c.eff != 0
  let s := if on then s else s.updCh n fun c => { c with blocked := false }
  let s :=
    if !chanPowered s n then svStop n s
    else if s.nat (vObj n) 0x20 = 1 then
      if rise then
        let s := s.updCh n fun c => { c with edgeAt := s.tm.now }
        if c.phase = 0 then svStart n s else if c.phase = 5 then enterPhase n 4 s.tm.now s else s
      else if !on && pulseStopped s n then svStop n s
      else s
    else if on then
      if c.phase = 0 then (if c.blocked then s else svStart n s) else if c.phase = 5 then enterPhase n 4 s.tm.now s else s
    else svStop n s
  refreshHead n s

/-- A command rises from off to on, or the guard imposes on (GuardState 0x01: a profile start, R245). -/
def rises (s : State) (n : Nat) (old new : VCh) : Bool :=
  new.eff != 0 && (old.eff == 0 || (old.guardCmd.isNone && new.guardCmd.isSome && s.nat (vObj n) 8 == 1))

/-- Change what a channel is commanded and let an SV channel follow it. -/
def setCommand (n : Nat) (f : VCh → VCh) (s : State) : State :=
  let t := s.updCh n f
  if n < 16 then t else svFollow (rises s n (s.vch n) (t.vch n)) n t

/-! ## Banks (R224–R227) -/

/-- The bank's high side is open: PV coils decay fast, profiles end, no resume runs, the guard timer stands still. -/
def bankOff (b : Nat) (s : State) : State :=
  let s := s.updBank b fun x => { x with enable := false, resume := none, guardDue := none }
  (bankChans b).foldl (fun s n =>
    let s := s.updCh n fun c => { c with live := false, duty := 0, acc := 0 }
    if n < 16 then s else svFollow false n s) s

/-- MonotonicNs at which a bank's guard timer that restarts now reaches GuardTimeout (R245). -/
def guardTime (s : State) (b : Nat) : Nat := s.tm.mono + s.nat (0x4040 + b) 2 * 1000000

/-- An enable is granted: the resume begins with the bank's first channel (R226), and the guard timer runs (R245). -/
def bankGrant (b : Nat) (s : State) : State :=
  s.updBank b fun x => { x with enable := true, resume := some 0, guardDue := some (x.guardDue.getD (guardTime s b)) }

/-- The enable falls with the supply: the guard timer runs on (R245). -/
def bankUnfed (b : Nat) (s : State) : State := (bankOff b s).updBank b fun x => { x with guardDue := (s.vbank b).guardDue }

def execBankEnable (b : Nat) (grant : Bool) (s : State) : Out :=
  withUnit (decide (b < 6))
    (if grant then if bankMay s b && !(s.vbank b).enable then bankGrant b s else s
     else if (s.vbank b).enable then bankOff b s else s)

/-- The next channel of the bank resumes its latched command. -/
def execBankResumeSlot (b : Nat) (s : State) : Out :=
  withUnit (decide (b < 6)) (match (s.vbank b).resume with
    | some k =>
      match (bankChans b)[k]? with
      | some n =>
        let s := s.updBank b fun x => { x with resume := if k + 1 < (bankChans b).length then some (k + 1) else none }
        let s := s.updCh n fun c => { c with live := true }
        if n < 16 then s else svFollow false n s
      | none => s.updBank b fun x => { x with resume := none }
    | none => s)

/-- Banks of a supply. -/
def supplyBanks (k : Nat) : List Nat := if k = 0 then [0, 1] else [2, 3, 4, 5]

/-- The stages and supplies are supervised. -/
def valveOn (s : State) : Bool := s.reachable

def execDriveSupplyNotPresent (k : Nat) (high : Bool) (mV : Nat) (s : State) : Out :=
  let p := s.vsup k
  withUnit (decide (k < 2))
    (if !valveOn s then s
     else
       let s := s.updSup k fun x =>
         { x with present := false, low := !high, overV := x.overV || high, condAt := s.tm.mono, mV := mV, minMv := min x.minMv mV }
       if !p.present then s.updSup k fun x => { x with offMin := min x.offMin mV }
       else
         let s := s.updSup k fun x => { x with offCount := inc32 x.offCount, offAt := s.tm.mono, offMin := mV }
         let s := (supplyBanks k).foldl (fun s b => forceBank b (bankUnfed b s)) s
         let s := if k = 1 then s.updSup 2 fun x => { x with present := false } else s
         s.record ⟨0x7003, k, 3, [], [], 0xFFFFFFFF, 0xF⟩)

/-- Record of a supply's return (16 Table 16-3). -/
def supplyBack (k minMv ns : Nat) : FlowEv := ⟨0x7004, k, 3, leBytes 2 (min minMv 65535) ++ leBytes 4 (ns / 1000000), [], 0xFFFFFFFF, 0xF⟩

/-- A supply is present again 20 ms after the last report that it was not; what it reads from then on is no input of the model (log 30). -/
def execDriveSupplyPresent (k : Nat) (s : State) : Out :=
  let p := s.vsup k
  withUnit (decide (k < 2))
    (if !valveOn s ∨ p.present ∨ s.tm.mono < p.condAt + 20000000 then s
     else
       let (v, s) := s.freeInt
       let s := s.updSup k fun x => { x with present := true, low := false, overV := false, seen := true, mV := v.toNat }
       let s := if k = 1 then s.updSup 2 fun x => { x with present := true } else s
       if p.seen then s.record (supplyBack k p.offMin (s.tm.mono - p.offAt)) else s)

/-- RAIL_FAULT: waiting requests are rejected at once (R227). -/
def execRailFault (s : State) : Out :=
  .next (if !valveOn s ∨ (s.vsup 2).fault then s
    else
      let s := s.updSup 2 fun x => { x with fault := true, offAt := s.tm.mono, offCount := inc32 x.offCount }
      let s := s.record ⟨0x7003, 2, 3, [], [], 0xFFFFFFFF, 0xF⟩
      (rangeFrom 16 16).foldl (fun s n => if (s.vch n).phase = 1 then rejectBoost n s.tm.now s else s) s)

/-- RAIL_FAULT clears; the lowest rail voltage of the fault is no input of the model: free (log 30). -/
def execRailFaultClear (s : State) : Out :=
  .next (if (s.vsup 2).fault then
    let (v, s) := s.freeInt
    (s.updSup 2 fun x => { x with fault := false, offMin := v.toNat }).record (supplyBack 2 v.toNat (s.tm.mono - (s.vsup 2).offAt))
  else s)

/-! ## Proportional channels (R228–R231) -/

/-- Dither of a channel in the period that starts at a machine time, mA (R230). -/
def dither (s : State) (n time : Nat) : Int :=
  let o := vObj n
  let freq := s.nat o 0x11
  if freq = 0 then 0
  else
    let p := (2 * 20000 + freq) / (2 * freq)
    let phi := time / 50000 % p
    let a : Int := s.int o 0x12
    match s.nat o 0x13 with
    | 1 => if 2 * phi < p then a else -a
    | 2 => let d : Rat := (phi : Rat) / p - 1 / 2
           halfUp (a * (4 * (if d < 0 then -d else d) - 1))
    | _ => halfUp (a * Config.sinDeg (360 * (phi : Rat) / p))

/-- Target before dither: the command after CurrentLimit and the thermal limit. -/
def pvTarget (s : State) (n : Nat) : Nat :=
  let c := s.vch n
  let t := min c.eff (s.nat (vObj n) 0x10)
  if c.thermal then min t (s.nat (vObj n) 0x16) else t

/-- One regulation period of a PV channel (R228, R229). -/
def pvPeriod (x : PvIn) (s : State) (n : Nat) (c : VCh) : VCh :=
  let o := vObj n
  let im := ((x.imeas.find? fun p => p.1 == n).map (·.2)).getD c.imeas
  let t0 := pvTarget s n
  let raw : Int := t0 + dither s n x.time
  let t : Int := if t0 = 0 then 0 else clampI 0 (s.int o 0x10) raw
  let on := chanPowered s n && decide (0 < t)
  let e := t - im
  let acc := if on then clampQ 0 (98 / 100) (c.acc + (s.nat o 0x15 : Rat) / 65536 * e) else 0
  let res := if c.coilRes ≠ 0 then c.coilRes else s.nat o 5
  let ff := divQ ((t : Rat) * res / 1000) x.vbank
  let duty := if on then clampQ 0 (98 / 100) (ff + (s.nat o 0x14 : Rat) / 65536 * e + acc) else 0
  let slow := on && decide (duty = 98 / 100) && decide ((im : Rat) < t - max 20 ((t : Rat) / 50))
  let low := if slow then min (c.lowRun + 1) 4 else 0
  let cause := low == 4 || decide (t0 < c.eff) || (chanHeld s n && c.eff != 0) || c.openLoad
  let ok := if cause then 0 else min (c.okRun + 1) 4
  let hist := (im :: c.hist).take 20
  { c with imeas := im, target := t0, acc := acc, duty := duty, lowRun := low, okRun := ok, hist := hist, mA := hist.sum / hist.length,
           headroom := cause || (c.headroom && ok != 4), clipped := decide (0 < t0) && t != raw }

def execPvRegulationPeriod (x : PvIn) (s : State) : Out :=
  .next (if valveOn s then s.updValve fun v => { v with ch := v.ch.mapIdx fun n c => if n < 16 then pvPeriod x s n c else c } else s)

/-! ## Events of a profile (R232–R239) -/

/-- An SV channel in a phase. -/
def svIn (s : State) (n p : Nat) : Bool := decide (16 ≤ n) && (s.vch n).phase == p

/-- The unit of an SV or PV command exists. -/
def isSv (n : Nat) : Bool := decide (16 ≤ n) && decide (n < 32)
def isPv (n : Nat) : Bool := decide (n < 16)
def isChan (n : Nat) : Bool := decide (n < 32)

/-- After Boost: Peak, or Hold when PEAK_TIME is 0. -/
def afterBoost (n time : Nat) (s : State) : State := enterPhase n (if (s.vch n).prof.getD 2 0 = 0 then 4 else 3) time s

def execSvBoostEnd (n time : Nat) (s : State) : Out :=
  withUnit (isSv n) (if svIn s n 2 then
    afterBoost n time (s.updCh n fun c => { c with boostTime := min ((time - c.phaseAt) / 1000) 65535 }) else s)

/-- A time of a phase in ns has passed by the end of this frame. -/
def phaseOver (s : State) (n ns : Nat) : Bool := decide ((s.vch n).phaseAt + ns ≤ s.tm.now + 100000)

/-- BOOST_TIMEOUT with the current reached. -/
def execBoostTimeout (n mA : Nat) (s : State) : Out :=
  withUnit (isSv n) (if svIn s n 2 ∧ phaseOver s n ((s.vch n).prof.getD 3 0 * 1000) then
    let c := s.vch n
    let lim := c.prof.getD 3 0
    let s := s.updCh n fun c => { c with boostTime := lim }
    (afterBoost n (c.phaseAt + lim * 1000) s).record ⟨0x700A, n, teOf n, leBytes 2 mA ++ leBytes 2 lim, [], 0xFFFFFFFF, 0xF⟩
  else s)

def execSvPeakEnd (n : Nat) (s : State) : Out :=
  withUnit (isSv n) (if svIn s n 3 ∧ phaseOver s n ((s.vch n).prof.getD 2 0 * 10000) then
    enterPhase n 4 ((s.vch n).phaseAt + (s.vch n).prof.getD 2 0 * 10000) s else s)

def execSvPulseHoldExpiry (n : Nat) (s : State) : Out :=
  let end_ := (s.vch n).edgeAt + s.nat (vObj n) 0x21 * 1000000
  withUnit (isSv n) (if svIn s n 4 ∧ s.nat (vObj n) 0x20 = 1 ∧ (s.vch n).guardCmd.isNone ∧ !safeHoldOn s n ∧ end_ ≤ s.tm.now + 100000 then
    enterPhase n 5 end_ s else s)

def execSvQuenchEnd (n : Nat) (s : State) : Out :=
  withUnit (isSv n) (if svIn s n 5 then enterPhase n 0 s.tm.now s else s)

/-- The waiting channel of a bank that boosts next: the earliest profile start, the lower number on ties (R238). -/
def nextWaiting (s : State) (b : Nat) : Option Nat :=
  ((bankChans b).filter fun n => (s.vch n).phase == 1).foldl (fun m n => match m with
    | none => some n
    | some k => if (s.vch n).startAt < (s.vch k).startAt then some n else some k) none

/-- The first 50 µs period boundary at or after a machine time (R238). -/
def toPeriod (t : Nat) : Nat := (t + 49999) / 50000 * 50000

def execSvBoostGranted (b time : Nat) (s : State) : Out :=
  withUnit (decide (2 ≤ b) && decide (b < 6)) (match nextWaiting s b with
    | some n =>
      if (bankChans b).any (fun m => (s.vch m).phase == 2) ∨ (s.vsup 2).fault then s
      else (enterPhase n 2 (toPeriod time) (s.updSup 2 fun x => { x with below := false })).updCh n fun c =>
        { c with boostDelay := min ((toPeriod time - c.startAt) / 1000) 65535 }
    | none => s)

def execBoostRejected (n time : Nat) (s : State) : Out :=
  withUnit (isSv n) (if svIn s n 1 ∧ ((s.vsup 2).fault ∨ (s.vch n).startAt + s.nat (0x4040 + bankOf n) 3 * 1000 ≤ time) then
    rejectBoost n time s else s)

def execSvThermalLimit (n : Nat) (s : State) : Out :=
  withUnit (isSv n) (if (s.vch n).phase = 0 ∨ ((s.vch n).thermal ∧ (s.vch n).cut) ∨ (s.vch n).coilTemp < s.int (vObj n) 7 * 10 then s
    else chanFault n true (fun c => { c with thermal := true, cut := true }) s)

/-- The source of a bank: its highest phase among Boost, Peak and Hold as 1, 2, 3, or 0 (R237). -/
def bankSource (s : State) (b : Nat) : Nat :=
  let has := fun p => (bankChans b).any fun n => (s.vch n).phase == p
  if has 2 then 1 else if has 3 then 2 else if has 4 then 3 else 0

/-- The leading channel (R237). -/
def leading (s : State) (b : Nat) : Option Nat :=
  let src := bankSource s b
  if src = 0 then none
  else ((bankChans b).filter fun n => (s.vch n).phase == src + 1).foldl (fun m n => match m with
    | none => some n
    | some k => if (s.vch n).phaseAt < (s.vch k).phaseAt then some n else some k) none

/-- The channel has been in its phase throughout the last window of 1 ms (R237). -/
def windowWhole (s : State) (n : Nat) : Bool := decide ((s.vch n).phaseAt + 1000000 ≤ s.tm.now / 1000000 * 1000000)

def execOverlapCheck (n mean : Nat) (s : State) : Out :=
  withUnit (isSv n)
    (let c := s.vch n
     let b := bankOf n
     if (c.phase = 3 ∨ c.phase = 4) ∧ leading s b ≠ some n ∧ windowWhole s n then
       let t := if c.phase = 3 then c.prof.getD 0 0 else holdTarget s n
       let diff : Int := (mean : Int) - t
       let bad := decide (max ((s.nat (0x4040 + b) 4 : Rat) * t / 32768) 50 < diff.natAbs)
       let s := s.updCh n fun c => { c with mA := mean, distorted := bad, lowMean := bad && decide (diff < 0), noted := c.noted || bad }
       let s := if bad then s.updBank b fun x => { x with distortions := inc32 x.distortions } else s
       refreshHead n (if bad ∧ !c.noted then s.record ⟨0x7007, n, teOf n, [], [], 0xFFFFFFFF, 0xF⟩ else s)
     else refreshHead n (s.updCh n fun c => { c with distorted := false, lowMean := false }))

def execMoveDetect (n : Nat) (moveTime : Option Nat) (s : State) : Out :=
  withUnit (isSv n)
    (if !s.flag (vObj n) 0x24 then s
     else match moveTime with
       | some t =>
         let was := (s.vch n).stuck
         let s := s.updCh n fun c => { c with moveTime := t, stuck := false }
         if was then s.record ⟨0x700C, n, teOf n, [], [], 0xFFFFFFFF, 0xF⟩ else s
       | none =>
         (s.updCh n fun c => { c with moveTime := 0xFFFF, stuck := true }).record
           ⟨0x700B, n, teOf n, leBytes 2 (s.vch n).boostTime, [], 0xFFFFFFFF, 0xF⟩)

/-! ## Coil temperature (R240) -/

/-- CoilTemp in 0.1 °C of a measured resistance. -/
def coilTempOf (res ref : Nat) : Int := halfUp (200 + (divQ res ref - 1) * 1000000 / 393)

/-- THERMAL_LIMIT of a PV channel from its CoilTemp. -/
def pvThermal (n : Nat) (s : State) : State :=
  let c := s.vch n
  let lim := s.int (vObj n) 7 * 10
  if !isPv n then s
  else if !c.thermal ∧ lim ≤ c.coilTemp then chanFault n true (fun c => { c with thermal := true }) s
  else if c.thermal ∧ c.coilTemp < lim - 100 then chanFault n false (fun c => { c with thermal := false }) s
  else s

/-- The channel carries less than 200 mA: a switching channel in Off or Waiting. -/
def coilCold (c : VCh) (n : Nat) : Bool := if n < 16 then decide (c.mA < 200) else decide (c.phase ≤ 1)

/-- CoilTemp after `ns` of relaxing toward `board` with time constant `tau` in s. -/
def relaxed (from_ board : Int) (ns tau : Nat) : Int :=
  halfUp (board + (from_ - board : Int) * Config.expNeg ((ns : Rat) / ((tau * 1000000000 : Nat) : Rat)))

/-- CoilTemp is set: it relaxes from there, toward `board`. -/
def VCh.setTemp (c : VCh) (t board : Int) (mono : Nat) : VCh := { c with coilTemp := t, tempFrom := t, tempAt := mono, tempBoard := board }

/-- A channel's estimate with BoardTemp `board` and a measured CoilRes, if there is one (R240): it follows BoardTemp without CoilRefRes, relaxes
below 200 mA, is measured from 200 mA on, and else holds. -/
def coilUpdate (n ref tau mono : Nat) (res : Option Nat) (board : Int) (c : VCh) : VCh :=
  if ref = 0 then c.setTemp board board mono
  else if coilCold c n then
    let t := relaxed c.tempFrom c.tempBoard (mono - c.tempAt) tau
    if board = c.tempBoard then { c with coilTemp := t } else c.setTemp t board mono
  else match res with
    | some r => { c with coilRes := r }.setTemp (coilTempOf r ref) board mono
    | none => c.setTemp c.coilTemp board mono

def execCoilTempUpdate (n : Nat) (res : Option Nat) (board : Int) (s : State) : Out :=
  withUnit (isChan n)
    (if !valveOn s then s
     else
       pvThermal n ((s.updBank (bankOf n) fun b => { b with boardTemp := board }).updCh n
         (coilUpdate n (s.nat (vObj n) 5) (s.nat (vObj n) 6) s.tm.mono res board)))

/-! ## SENT inputs (R241–R243) -/

/-- SAE J2716 four-bit CRC table (log 31). -/
def sentTable (n : Nat) : Nat := ([0, 13, 7, 10, 14, 3, 9, 4, 1, 12, 6, 11, 15, 2, 8, 5]).getD n 0

/-- CRC nibble of the data nibbles in the legacy or recommended form. -/
def sentCrc (recommended : Bool) (data : List Nat) : Nat :=
  let c := data.foldl (fun c d => Nat.xor (sentTable c) d) 5
  if recommended then sentTable c else c

/-- Update of SENT input i. -/
def State.updSent (s : State) (i : Nat) (f : Sent → Sent) : State := s.updSens fun z => { z with sent := updAt z.sent i f }

/-- Nibbles as a number, most significant first. -/
def nibbleNum (l : List Nat) : Nat := l.foldl (fun a d => a * 16 + d % 16) 0

/-- A frame passes the checks of R241 and R242. -/
def sentOk (s : State) (i : Nat) (f : SentFrame) : Bool :=
  let o := 0x48A0 + i
  let k := s.nat o 3
  let nom := s.nat o 2 * 10
  let data := (f.nibbles.drop 1).take k
  f.nibbles.length == k + 2 && (f.pulses.all fun p => decide (12 ≤ p) && decide (p ≤ 27)) &&
    decide (3 * nom ≤ 4 * f.tick) && decide (4 * f.tick ≤ 5 * nom) &&
    (f.prevTick == 0 || decide (64 * ((f.tick : Int) - f.prevTick).natAbs ≤ f.prevTick)) &&
    f.nibbles.getD (k + 1) 16 == sentCrc (s.nat o 4 == 1) data

def execSentFrame (i : Nat) (frame : SentFrame) (s : State) : Out :=
  let o := 0x48A0 + i
  withUnit (decide (i < 16))
    (if !valveOn s ∨ !s.flag o 1 then s
     else if sentOk s i frame then
       let data := (frame.nibbles.drop 1).take (s.nat o 3)
       let hi := data.drop 3
       let sig1 := nibbleNum (data.take 3)
       s.updSent i fun x =>
         let good := min (x.good + 1) 5
         let ok := x.ok || good == 5
         { x with sig1 := sig1, sig2 := nibbleNum (if s.flag o 5 then hi.reverse else hi), nibble := frame.nibbles.getD 0 0, stamp := frame.stamp,
                  tick := frame.tick, bad := 0, good := good, ok := ok, timeout := x.timeout && !ok, frameErrors := x.frameErrors && !ok,
                  diag := s.flag o 6 && (sig1 == 0 || decide (4089 ≤ sig1)),
                  serial := match frame.serial with | some p => p :: x.serial.filter fun q => q.1 != p.1 | none => x.serial }
     else s.updSent i fun x =>
       { x with errors := inc32 x.errors, good := 0, bad := min (x.bad + 1) 3, ok := x.ok && decide (x.bad + 1 < 3),
                frameErrors := x.frameErrors || decide (3 ≤ x.bad + 1) })

def execSentTimeout (i : Nat) (s : State) : Out :=
  withUnit (decide (i < 16)) (if valveOn s ∧ s.flag (0x48A0 + i) 1 ∧
      (s.sens.sent.getD i {}).stamp + s.nat (0x48A0 + i) 7 * 1000000 ≤ s.tm.now + 100000 then
    s.updSent i fun x => { x with ok := false, good := 0, timeout := true } else s)

def execStuck (n targetChange travel : Nat) (s : State) : Out :=
  withUnit (isPv n)
    (let c := s.vch n
     let pay := leBytes 2 targetChange ++ leBytes 2 travel
     if s.nat (vObj n) 0x18 = 0xFF then s
     else if !c.stuck ∧ s.nat (vObj n) 0x19 ≤ targetChange ∧ travel < s.nat (vObj n) 0x1A then
       (s.updCh n fun c => { c with stuck := true }).record ⟨0x7008, n, teOf n, pay, [], 0xFFFFFFFF, 0xF⟩
     else if c.stuck ∧ s.nat (vObj n) 0x1A ≤ travel then
       (s.updCh n fun c => { c with stuck := false }).record ⟨0x7009, n, teOf n, pay, [], 0xFFFFFFFF, 0xF⟩
     else s)

/-! ## Stage faults (R244) -/

/-- Trips within 10 s with one more. -/
def addTrip (l : List Nat) (mono : Nat) : List Nat := mono :: l.filter fun t => decide (mono ≤ t + 10000000000)

/-- A channel whose PV regulation or profile a fault has stopped. -/
def chanStop (n : Nat) (s : State) : State :=
  if n < 16 then s.updCh n fun c => { c with duty := 0, acc := 0, headroom := c.headroom || c.eff != 0, okRun := 0 } else svFollow false n s

def execValveOvercurrent (n : Nat) (s : State) : Out :=
  withUnit (isChan n)
    (if !chanPowered s n then s
     else
       let trips := addTrip (s.vch n).trips s.tm.mono
       let latch := decide (3 ≤ trips.length)
       let s := chanFault n true (fun c => { c with trip := true, trips := trips, tripCount := inc32 c.tripCount, latched := c.latched || latch }) s
       let s := chanStop n s
       if latch then forceChan n s else if steersChannel s n then disengage 0xC 2 s else s)

/-- 100 ms have passed since the newest trip. -/
def tripOver (s : State) (trips : List Nat) : Bool := decide (trips.headD 0 + 100000000 ≤ s.tm.mono)

/-- Record of a bank's fault, under its first channel. -/
def bankRecord (b : Nat) (raised : Bool) (s : State) : State :=
  let n := (bankChans b).headD 0
  s.record ⟨if raised then 0x7001 else 0x7002, n, teOf n, leBytes 2 (channelStatus s n), [], 0xFFFFFFFF, 0xF⟩

/-- 100 ms after a trip, the channel or its bank follows the commands again. -/
def execValveTripRetry (n : Nat) (s : State) : Out :=
  withUnit (isChan n)
    (let b := bankOf n
     if (s.vch n).trip ∧ !(s.vch n).latched ∧ tripOver s (s.vch n).trips then
       let s := chanFault n false (fun c => { c with trip := false }) s
       if n < 16 then s else svFollow false n s
     else if (s.vbank b).hsTrip ∧ !(s.vbank b).latched ∧ tripOver s (s.vbank b).trips then
       let s := bankRecord b false (s.updBank b fun x => { x with hsTrip := false })
       (bankChans b).foldl (fun s m => if m < 16 then s else svFollow false m s) s
     else s)

/-- A bank is latched: its enable goes and its functions are forced safe. -/
def latchBank (b : Nat) (s : State) : State := forceBank b (bankOff b (s.updBank b fun x => { x with latched := true }))

def execHighSideTrip (b : Nat) (s : State) : Out :=
  withUnit (decide (b < 6))
    (if b < 2 ∨ !(s.vbank b).enable ∨ (s.vbank b).hsTrip then s
     else
       let trips := addTrip (s.vbank b).trips s.tm.mono
       let s := s.updBank b fun x => { x with hsTrip := true, trips := trips }
       let s := (bankChans b).foldl (fun s n => chanStop n s) s
       let s := bankRecord b true s
       if 3 ≤ trips.length then latchBank b s else s)

/-- A channel in Off or Waiting, or a PV channel without a target. -/
def chanIdle (s : State) (n : Nat) : Bool :=
  if n < 16 then !chanPowered s n || (s.vch n).eff == 0 else decide ((s.vch n).phase ≤ 1)

/-- A channel in Off: the off-state test reaches it. -/
def chanOff (s : State) (n : Nat) : Bool := if n < 16 then chanIdle s n else (s.vch n).phase == 0

/-- Current flows in an idle channel, or its low side is at ground. -/
def uncommand (n : Nat) (s : State) : State :=
  latchBank (bankOf n) (chanFault n true (fun c => { c with uncommanded := true, offOk := false }) s)

def execUncommandedCurrent (n : Nat) (s : State) : Out :=
  withUnit (isChan n) (if valveOn s ∧ (s.vbank (bankOf n)).enable ∧ chanIdle s n then uncommand n s else s)

def execOffStateTest (n : Nat) (result : OffTest) (s : State) : Out :=
  withUnit (isChan n)
    (if !valveOn s ∨ !chanOff s n then s
     else match result with
       | .pass =>
         let s := s.updCh n fun c => { c with offOk := true }
         if (s.vch n).openLoad then refreshHead n (chanFault n false (fun c => { c with openLoad := false }) s) else s
       | .openLoad =>
         let s := s.updCh n fun c => { c with offOk := true }
         if (s.vch n).openLoad then s else refreshHead n (chanFault n true (fun c => { c with openLoad := true }) s)
       | .lowSideAtGround => if (s.vch n).uncommanded then s.updCh n fun c => { c with offOk := false } else uncommand n s)

def execOpenLoadDriven (n : Nat) (set : Bool) (s : State) : Out :=
  withUnit (isChan n)
    (if (s.vch n).openLoad = set then s
     else if set then
       if chanPowered s n && (if n < 16 then decide (0 < (s.vch n).eff) else (s.vch n).phase == 4) then
         let s := refreshHead n (chanFault n true (fun c => { c with openLoad := true, headroom := true, okRun := 0 }) s)
         if steersChannel s n then disengage 0xC 2 s else s
       else s
     else refreshHead n (chanFault n false (fun c => { c with openLoad := false }) s))

/-- CoilRes below 0.5 × CoilRefRes, or the boost just ended in under 50 µs (Table 10-7). -/
def coilShort (s : State) (n : Nat) : Bool :=
  let c := s.vch n
  (c.coilRes != 0 && decide (2 * c.coilRes < s.nat (vObj n) 5)) ||
    (decide (16 ≤ n) && (c.phase == 3 || c.phase == 4) && decide (c.boostTime < 50))

def execShortedCoil (n : Nat) (s : State) : Out :=
  withUnit (isChan n)
    (if !valveOn s ∨ (s.vch n).shorted ∨ !coilShort s n then s
     else forceChan n (chanStop n (chanFault n true (fun c => { c with shorted := true, latched := true }) s)))

def execValveOvertempStage (n : Nat) (high : Bool) (s : State) : Out :=
  withUnit (isChan n)
    (if !valveOn s ∨ (s.vch n).overtemp = high then s
     else
       let s := chanFault n high (fun c => { c with overtemp := high }) s
       let s := if high then chanStop n s else if n < 16 then s else svFollow false n s
       if high && steersChannel s n then disengage 0xC 2 s else s)

/-- FaultCommand 0x01 (R244): the cleared channel follows its command from 1 ms after the clear. -/
def faultCommand (n : Nat) (s : State) : Except Nat State :=
  let c := s.vch n
  if !c.latched then .ok s
  else if c.cmd ≠ 0 then .error Abort.state
  else .ok (refreshHead n (chanFault n false (fun c =>
    { c with latched := false, trip := false, trips := [], shorted := false, resumeAt := s.tm.mono + 1000000 }) s))

/-- BankCommand 0x01 (R244): a latched uncommanded current needs a passing off-state test; the bank resumes. -/
def bankCommand (b : Nat) (s : State) : Except Nat State :=
  if !(s.vbank b).latched then .ok s
  else if (bankChans b).any (fun n => (s.vch n).cmd != 0) ∨ (bankChans b).any (fun n => (s.vch n).uncommanded && !(s.vch n).offOk) then
    .error Abort.state
  else
    let s := s.updBank b fun x => { x with latched := false, hsTrip := false, trips := [] }
    let s := (bankChans b).foldl (fun s n =>
      if (s.vch n).uncommanded then chanFault n false (fun c => { c with uncommanded := false }) s else s) s
    .ok (if bankMay s b then bankGrant b s else s)

/-! ## Guard (R245) -/

/-- The guard of a bank acts on a channel. -/
def guardChannel (s : State) (n : Nat) : Nat :=
  match s.nat (vObj n) 8 with
  | 0 => 0
  | 1 => if n < 16 then s.nat (vObj n) 0x17 else 1
  | _ => (s.vch n).cmd

/-- The guard timer of a bank runs: its enable stands, or is withdrawn only because the supply is not present. -/
def guardRuns (s : State) (b : Nat) : Bool :=
  (s.vbank b).enable ||
    (!(s.vsup (bankSupply b)).present && (s.pw.dev = .run || s.pw.dev = .service) && s.pw.ign && !(s.vbank b).latched && !bankHeld s b)

/-- The timer reaches its time by the end of this frame. -/
def guardOver (s : State) (due : Option Nat) : Bool := match due with | some d => decide (d ≤ s.tm.mono + 100000) | none => false

def execValveGuardExpiry (b : Nat) (s : State) : Out :=
  withUnit (decide (b < 6))
    (if (s.vbank b).guard ∨ !guardRuns s b ∨ !guardOver s (s.vbank b).guardDue ∨ !valveOn s then s
     else
       let s := s.updBank b fun x => { x with guard := true, latches := 0, guardCount := inc32 x.guardCount }
       let s := (bankChans b).foldl (fun s n => setCommand n (fun c => { c with guardCmd := some (guardChannel s n) }) s) s
       forceBank b (s.record ⟨0x7005, b, 3, [], [], 0xFFFFFFFF, 0xF⟩))

def execValveGuardEnd (b : Nat) (s : State) : Out :=
  withUnit (decide (b < 6))
    (if (s.vbank b).guard ∧ 10 ≤ (s.vbank b).latches then
       let s := s.updBank b fun x => { x with guard := false, latches := 0 }
       (bankChans b).foldl (fun s n => setCommand n (fun c => { c with guardCmd := none }) s) s
     else s)

/-! ## The command of a frame (R123, R245) -/

/-- Command of a channel in the loop engine's latch. -/
def latchedCmd (s : State) (n : Nat) : Nat := if n < 16 then s.loop.lat.pv.getD n 0 else b2n (s.loop.lat.sv.getD (n - 16) false)

/-- An overvoltage that a low supply followed clears 20 ms later, the supply staying not present (R225). -/
def supplyFrame (s : State) : State :=
  s.updValve fun v => { v with sup := v.sup.map fun (x : VSup) =>
    if x.overV && x.low && decide (x.condAt + 20000000 ≤ s.tm.mono) then { x with overV := false } else x }

/-- At 100 µs of a frame, the start of the next, the stages take the latched commands. -/
def valveFrame (s : State) : State :=
  let s := supplyFrame s
  let s := (List.range 32).foldl (fun s n => setCommand n (fun c => { c with cmd := latchedCmd s n }) s) s
  let one := fun (b : Nat) (x : VBank) =>
    if s.valve.fresh then
      { x with latches := if x.guard then x.latches + 1 else x.latches, guardDue := x.guardDue.map fun _ => guardTime s b }
    else { x with latches := 0 }
  s.updValve fun v => { v with bank := v.bank.mapIdx one }

/-! ## Tests and configuration (R247, R248) -/

/-- An enabled context names the channel. -/
def chanNamed (s : State) (n : Nat) : Bool := driversOf s (fun d => d == n + 1) != [] ||
  (indices 128 fun m => (s.ctxAt m).enabled && (s.nat (ctxObj m) 9 == n + 1 || s.nat (ctxObj m) 0xA == n + 1)) != []

/-- TestCommand of a session (R247). -/
def testCommand (w : Ctx) (n : Nat) (v : Nat) (s : State) : Except Nat State :=
  if 16 ≤ n ∧ 1 < v then .error Abort.range
  else if s.pw.dev ≠ .service ∨ chanNamed s n then .error Abort.state
  else match w.sess with
    | some k => .ok (setCommand n (fun c => { c with test := some (v, k) }) s)
    | none => .error Abort.state

def execTestCommandTimeout (n : Nat) (s : State) : Out :=
  withUnit (isChan n) (if (s.vch n).test.isSome then setCommand n (fun c => { c with test := none }) s else s)

/-- The tests with a property end. -/
def endTests (p : Nat × Nat → Bool) (s : State) : State :=
  (List.range 32).foldl (fun s n => match (s.vch n).test with
    | some t => if p t then setCommand n (fun c => { c with test := none }) s else s
    | none => s) s

/-- A session's tests end with it. -/
def testsEnd (sess : Nat) (s : State) : State := endTests (fun t => t.2 == sess) s

/-- Every test ends on entry to Shutdown (01 R31). -/
def allTestsEnd (s : State) : State := endTests (fun _ => true) s

/-- Something that R248 names selects a SENT input. -/
def sentSelected (s : State) (i : Nat) : Bool :=
  let c := 0x60 + i
  s.ctxSelects c || s.nat 0x3C00 2 == c || s.nat 0x3C00 3 == c || (List.range 16).any fun n => s.nat (vObj n) 0x18 == i

/-- Writes to 0x4000–0x404A and 0x48A0–0x48AF. -/
def valveWrite (w : Ctx) (i sub : Nat) (v : Val) (s : State) : Except Nat State :=
  checked w i sub v s fun s =>
    let x := (valNum v).toNat
    let n := i - 0x4000
    if i < 0x4020 then
      if sub = 9 then faultCommand n s
      else if sub = 0xA then testCommand w n x s
      else if sub = 0x20 ∧ (s.vch n).phase ≠ 0 then .error Abort.state
      else if sub = 0x22 ∧ !profileOk (valRaw v) then .error Abort.range
      else if sub = 0x18 ∧ !s.configurable ∧ ((s.nat i 0x18 < 16 ∧ sentSelected s (s.nat i 0x18)) ∨ (x < 16 ∧ sentSelected s x)) then
        .error Abort.state
      else .ok (s.put i sub v)
    else if i < 0x4048 then if sub = 9 then bankCommand (i - 0x4040) s else .ok (s.put i sub v)
    else if 0x48A0 ≤ i then
      if sub ≤ 7 ∧ !s.configurable ∧ sentSelected s (i - 0x48A0) then .error Abort.state
      else
        let t := s.put i sub v
        .ok (if sub = 1 then t.updSent (i - 0x48A0) fun y => { y with ok := false, good := 0, bad := 0 } else t)
    else .ok (s.put i sub v)

/-- Objects of VALVE_CONFIG_WRITE (R248). -/
def valveIndex (i : Nat) : Bool := (decide (0x4000 ≤ i) && decide (i ≤ 0x404A)) || (decide (0x48A0 ≤ i) && decide (i ≤ 0x48AF))

def execValveFaultCommand (sess n : Nat) (v : Int) (s : State) : Out :=
  if n < 32 then s.asSession sess (vObj n) fun w => valveWrite w (vObj n) 9 (.int v) else withUnit false s
def execBankCommand (sess b : Nat) (v : Int) (s : State) : Out :=
  if b < 6 then s.asSession sess (0x4040 + b) fun w => valveWrite w (0x4040 + b) 9 (.int v) else withUnit false s
def execTestCommand (sess n : Nat) (v : Int) (s : State) : Out :=
  if n < 32 then s.asSession sess (vObj n) fun w => valveWrite w (vObj n) 0xA (.int v) else withUnit false s
def execValveConfigWrite (sess index sub : Nat) (v : Val) (s : State) : Out :=
  if valveIndex index then s.asSession sess index fun w => valveWrite w index sub v else withUnit false s

/-! ## Reads (Tables 10-6, 10-9, 10-11, 10-12) -/

/-- BankStatus. -/
def bankStatus (s : State) (b : Nat) : Nat :=
  let x := s.vbank b
  b2n x.enable + 2 * b2n (!(s.vsup (bankSupply b)).present) + 4 * b2n x.guard + 8 * b2n x.hsTrip + 16 * b2n x.latched +
    32 * b2n (decide (2 ≤ b) && (s.vsup 2).below && (bankChans b).any fun n => (s.vch n).phase == 1)

/-- SentStatus. -/
def sentStatus (s : State) (i : Nat) : Nat :=
  let x := s.sens.sent.getD i {}
  b2n (sentConsumer s i).2 + 2 * b2n x.frameErrors + 4 * b2n x.timeout + 8 * b2n x.diag

/-- Values of the live objects. -/
def valveRead (s : State) (i sub : Nat) : Option Val :=
  if i < 0x4020 then
    let n := i - 0x4000
    let c := s.vch n
    match sub with
    | 1 => some (.int (channelStatus s n)) | 2 => some (.int c.mA) | 3 => some (.int c.coilTemp) | 4 => some (.int c.coilRes)
    | 0xB => some (.int c.tripCount) | 0x1C => some (.int c.target) | 0x26 => some (.int c.phase) | 0x27 => some (.int c.band)
    | 0x28 => some (.int (if s.flag i 0x24 then c.moveTime else 0xFFFF)) | 0x29 => some (.int c.boostTime) | 0x2A => some (.int c.boostDelay)
    | _ => none
  else if i < 0x4048 then
    let b := i - 0x4040
    let x := s.vbank b
    match sub with
    | 1 => some (.int (bankStatus s b)) | 5 => some (.int (min ((bankChans b).map fun n => (s.vch n).mA).sum 65535))
    | 6 => some (.int (bankSource s b)) | 7 => some (.int ((leading s b).getD 0xFF)) | 8 => some (.int x.boardTemp)
    | 0xA => some (.int x.rejects) | 0xB => some (.int x.distortions) | 0xC => some (.int x.guardCount)
    | _ => none
  else if i < 0x404B then
    let p := s.vsup (i - 0x4048)
    match sub with
    | 1 => some (.int (min p.mV 65535)) | 2 => some (.int (b2n p.present + 2 * b2n p.overV + 4 * b2n p.fault))
    | 3 => some (.int (min p.minMv 65535)) | 4 => some (.int p.offCount)
    | _ => none
  else
    let k := i - 0x48A0
    let x := s.sens.sent.getD k {}
    match sub with
    | 8 => some (.int x.sig1) | 9 => some (.int x.sig2) | 0xA => some (.int x.nibble) | 0xB => some (.int x.stamp) | 0xC => some (.int x.tick)
    | 0xD => some (.int (sentStatus s k)) | 0xE => some (.int x.errors)
    | 0x10 => some (.int (match x.serial.find? fun p => p.1 == s.nat i 0xF with | some p => p.2 % 65536 | none => 0x80000000))
    | _ => none

/-- At Start CoilTemp is BoardTemp (R240). -/
def valveStart (s : State) : State :=
  s.updValve fun v => { v with ch := v.ch.mapIdx fun n (c : VCh) =>
                                  (let t := (v.bank.getD (bankOf n) {}).boardTemp
                                   c.setTemp t t s.tm.mono) }

/-- Every enable is withdrawn and the rail is off. -/
def valveOff (s : State) : State :=
  ((List.range 6).foldl (fun s b => bankOff b s) s).updSup 2 fun x => { x with present := false }

end Sys2Proof.Machine
end

