-- ==== Sys2Proof/Machine/FieldIo.lean ====
section
/-! DEFINITION. The 24 V field inputs and outputs (chapter 11, R253–R273): pins, groups, restore, faults, guard and objects. -/

namespace Sys2Proof.Machine

abbrev pinObj (n : Nat) : Nat := 0x4400 + n

/-- Pin n and group g. -/
def State.fpin (s : State) (n : Nat) : FPin := s.fio.pins.getD n {}
def State.fgrp (s : State) (g : Nat) : FGrp := s.fio.grp.getD g {}

/-- Updates of one of them. -/
def State.updPin (s : State) (n : Nat) (f : FPin → FPin) : State := s.updFio fun x => { x with pins := updAt x.pins n f }
def State.updGrp (s : State) (g : Nat) (f : FGrp → FGrp) : State := s.updFio fun x => { x with grp := updAt x.grp g f }

/-- Group of a pin, pins of a group, and those of them in mode 0x03 (R253). -/
def grpOf (n : Nat) : Nat := n / 12
def grpPins (g : Nat) : List Nat := rangeFrom (12 * g) 12
def outPins (s : State) (g : Nat) : List Nat := (grpPins g).filter fun n => s.nat (pinObj n) 1 == 3

/-- The group supply is missing or in overvoltage. -/
def FGrp.absent (g : FGrp) : Bool := g.missing || g.overV

/-- Command of an output pin: the steering enable, the guard's or the latched one (R258, R268). -/
def pinCmd (s : State) (n : Nat) : Bool :=
  if s.nat 0x3C00 0xB = n then s.steer.enable else ((s.fpin n).guardCmd).getD (s.fpin n).cmd

/-- The output stage is on. -/
def pinOut (s : State) (n : Nat) : Bool :=
  let p := s.fpin n
  let g := s.fgrp (grpOf n)
  s.nat (pinObj n) 1 == 3 && g.enable && !g.absent && !g.latched && !g.overload && p.slotted && !p.trip && !p.latched && !p.overtemp &&
    pinCmd s n

/-- PinStatus (Table 11-6). -/
def pinStatus (s : State) (n : Nat) : Nat :=
  let p := s.fpin n
  let g := s.fgrp (grpOf n)
  let out := s.nat (pinObj n) 1 == 3
  let on := pinOut s n
  b2n (if out then !g.absent else pinValid s n) + 2 * b2n (if out then on || p.extDrive else p.level && s.nat (pinObj n) 1 != 0) +
    4 * b2n on + 8 * b2n (out && g.guard) + 16 * b2n (s.nat (pinObj n) 1 != 0 && g.absent) + 32 * b2n (on && g.low) + 64 * b2n p.noLoad +
    128 * b2n p.extDrive + 256 * b2n p.joined + 512 * b2n p.overtemp + 1024 * b2n p.trip + 2048 * b2n p.latched

/-- A pin fault is raised or cleared, with its record (Table 11-3). -/
def pinFault (n : Nat) (raised : Bool) (f : FPin → FPin) (s : State) : State :=
  let t := s.updPin n f
  t.record ⟨if raised then 0x8001 else 0x8002, n, 0x10, leBytes 2 (pinStatus t n), [], 0xFFFFFFFF, 0xF⟩

/-- Functions that drive a pin, or a pin of a group, are forced to their safe states (R263, R264, R268). -/
def forcePin (n : Nat) (s : State) : State := forceSafe (fun d => d == 0x30 + n) s
def forceGroup (g : Nat) (s : State) : State := forceSafe (fun d => decide (0x30 ≤ d) && decide (d < 0x60) && grpOf (d - 0x30) == g) s

/-! ## Inputs (R255, R256) -/

/-- What an input of a PinMode reads at a voltage in mV; between the thresholds it keeps its level (Table 11-1). -/
def inputReads (mode : Nat) (mV : Int) (old : Bool) : Bool :=
  let rise : Int := if mode = 1 then 11000 else 9000
  if rise ≤ mV then true else if mV < rise - 2000 then false else old

/-- The first sample instant at or after a machine time (R255). -/
def sampleAt (t : Nat) : Nat := (t + 9999) / 10000 * 10000

/-- R254, R255: the pin has stood at `mV` since `stamp`. Its state changes once a new level has held for InputFilter, by the end of this frame, and
the stamp is that of the first sample at the new level. -/
def execFieldInputChange (n : Nat) (mV : Int) (stamp : Nat) (s : State) : Out :=
  withUnit (decide (n < 48)) <|
    if !s.reachable then s
    else
      let s := s.updPin n fun p => { p with mV := (clampI 0 65535 mV).toNat }
      let level := inputReads (s.nat (pinObj n) 1) mV (s.fpin n).level
      if pinValid s n ∧ level ≠ (s.fpin n).level ∧ sampleAt stamp + s.nat (pinObj n) 2 * 100000 ≤ s.tm.now + 100000 then
        s.updPin n fun p => { p with level := level, stamp := sampleAt stamp }
      else s

/-! ## Enables and supplies (R259–R262) -/

/-- An unresolved safety parameter withholds the group's enable (15 R356). -/
def grpHeld (s : State) (g : Nat) : Bool :=
  let on := fun d => decide (0x30 ≤ d) && decide (d < 0x60) && grpOf (d - 0x30) == g
  s.safetyHeld fun i => i == 0x4480 + g || (decide (0x4400 ≤ i) && decide (i < 0x4430) && grpOf (i - 0x4400) == g) ||
    (decide (0x2800 ≤ i) && decide (i < 0x2830) && (driversOf s on).contains (i - 0x2800))

/-- The conditions of a group enable (R259, 15 R356). -/
def grpMay (s : State) (g : Nat) : Bool :=
  (s.pw.dev = .run || s.pw.dev = .service) && s.pw.ign && !(s.fgrp g).absent && !(s.fgrp g).latched && !grpHeld s g

/-- The restore sequence starts afresh (R262). -/
def restart (g : Nat) (s : State) : State :=
  s.updFio fun x => { x with
    grp := updAt x.grp g fun (y : FGrp) => { y with restoring := true, slot := 0 }
    pins := x.pins.mapIdx fun n (p : FPin) => if grpOf n = g then { p with slotted := false } else p }

/-- Outputs of a group are off, no restore runs and the guard timer stands still. -/
def grpOff (g : Nat) (s : State) : State :=
  s.updFio fun x => { x with
    grp := updAt x.grp g fun (y : FGrp) => { y with enable := false, restoring := false, slot := 0, guardDue := none }
    pins := x.pins.mapIdx fun n (p : FPin) => if grpOf n = g then { p with slotted := false } else p }

/-- MonotonicNs at which a group's guard timer that restarts now reaches GuardTimeout (R268). -/
def grpGuardTime (s : State) (g : Nat) : Nat := s.tm.mono + s.nat (0x4480 + g) 2 * 1000000

/-- The enable stands and the guard timer runs. -/
def grpOn (g : Nat) (s : State) : State :=
  s.updGrp g fun y => { y with enable := true, guardDue := some (y.guardDue.getD (grpGuardTime s g)) }

/-- An enable is granted. -/
def grpGrant (g : Nat) (s : State) : State := restart g (grpOn g s)

/-- The enable falls with the supply: the guard timer runs on (R268). -/
def grpUnfed (g : Nat) (s : State) : State := (grpOff g s).updGrp g fun y => { y with guardDue := (s.fgrp g).guardDue }

def execGroupEnable (g : Nat) (grant : Bool) (s : State) : Out :=
  withUnit (decide (g < 4))
    (if grant then if grpMay s g && !(s.fgrp g).enable then grpGrant g s else s
     else if (s.fgrp g).enable then grpOff g s else s)

/-- Payload of a supply record: the extreme voltage and the duration. -/
def grpSpan (mV ns : Nat) : Bytes := leBytes 2 (min mV 65535) ++ leBytes 4 (ns / 1000000)

/-- Record of a group (R261: ENGINE 0x10). -/
def grpRecord (code g : Nat) (pay : Bytes) : FlowEv := ⟨code, g, 0x10, pay, [], 0xFFFFFFFF, 0xF⟩

/-- The supply is low from now on. -/
def enterLow (g mV : Nat) (s : State) : State :=
  (s.updGrp g fun y => { y with low := true, lowAt := s.tm.mono, lowMin := mV, mV := mV, minMv := min y.minMv mV, lowFirst := false }).record
    (grpRecord 0x8003 g [])

/-- Below 18.0 V or above 19.0 V; judged from the group's first departure from the missing condition on (R260): what comes before it is
remembered. -/
def execGroupSupplyLow (g : Nat) (low : Bool) (mV : Nat) (s : State) : Out :=
  withUnit (decide (g < 4))
    (let x := s.fgrp g
     if !s.reachable ∨ x.low = low ∧ x.seen then s
     else if !x.seen then s.updGrp g fun y => { y with lowFirst := low, mV := mV }
     else if low then enterLow g mV s
     else
       (s.updGrp g fun y => { y with low := false, mV := mV }).record (grpRecord 0x8004 g (grpSpan x.lowMin (s.tm.mono - x.lowAt))))

/-- Below 10.0 V, or with `high` above 38.0 V for 1 ms (R261): the stages are disabled, the inputs are not valid, and a field pin named as
TakeoverSource counts as a takeover (R256). -/
def execGroupSupplyMissing (g : Nat) (high : Bool) (mV : Nat) (s : State) : Out :=
  withUnit (decide (g < 4))
    (let x := s.fgrp g
     let t := s.nat 0x3C00 7
     if !s.reachable then s
     else
       let s := s.updGrp g fun y => { y with lastHigh := high, condAt := s.tm.mono }
       let s := if high then
           (if x.overV then s.updGrp g fun y => { y with mV := mV, overMax := max y.overMax mV }
            else (s.updGrp g fun y => { y with overV := true, overAt := s.tm.mono, overMax := mV, mV := mV }).record (grpRecord 0x8009 g []))
         else
           (let s := s.updGrp g fun y => { y with mV := mV, minMv := min y.minMv mV, lowMin := min y.lowMin mV, missMin := min y.missMin mV }
            if x.missing then s
            else (s.updGrp g fun y => { y with missing := true, missAt := s.tm.mono, missMin := mV, missingCount := inc32 y.missingCount }).record
              (grpRecord 0x8005 g []))
       let s := grpUnfed g s
       if !x.absent ∧ t < 48 ∧ grpOf t = g ∧ (s.nat (pinObj t) 1 = 1 ∨ s.nat (pinObj t) 1 = 2) then takeover s else s)

/-- The group leaves the missing condition (R262); the first departure writes no record, but a supply that is low then is low with its record
(R260). -/
def leaveMissing (g : Nat) (s : State) : State :=
  let x := s.fgrp g
  let s := s.updGrp g fun y => { y with missing := false, seen := true, leftAt := s.tm.mono }
  if x.missing && x.seen then s.record (grpRecord 0x8006 g (grpSpan x.missMin (s.tm.mono - x.missAt)))
  else if x.missing && x.lowFirst then enterLow g x.mV s
  else s

/-- The group leaves overvoltage (R261). -/
def leaveOver (g : Nat) (s : State) : State :=
  let x := s.fgrp g
  let s := s.updGrp g fun y => { y with overV := false, leftAt := s.tm.mono }
  if x.overV then s.record (grpRecord 0x800A g (grpSpan x.overMax (s.tm.mono - x.overAt))) else s

/-- Of two conditions that followed one another, the earlier ends 20 ms after the later began (R261). -/
def condFrame (g : Nat) (s : State) : State :=
  let x := s.fgrp g
  if x.missing && x.overV && decide (x.condAt + 20000000 ≤ s.tm.mono) then
    (if x.lastHigh then leaveMissing g s else leaveOver g s)
  else s

/-- Neither condition holds any more, 20 ms after the last report of one: RESTORING is set, and the enable stands again where its conditions hold (R262). -/
def execGroupRestoreStart (g : Nat) (s : State) : Out :=
  withUnit (decide (g < 4))
    (let x := s.fgrp g
     if !s.reachable ∨ !x.absent ∨ s.tm.mono < x.condAt + 20000000 then s
     else
       let s := leaveOver g (leaveMissing g s)
       restart g (if grpMay s g then grpOn g s else s))

/-- The next pin in mode 0x03 takes its slot (R262). -/
def execGroupRestoreSlot (g : Nat) (s : State) : Out :=
  withUnit (decide (g < 4))
    (let x := s.fgrp g
     if !x.restoring then s
     else match (outPins s g)[x.slot]? with
       | some n =>
         (s.updPin n fun p => { p with slotted := true }).updGrp g fun y =>
           { y with slot := y.slot + 1, restoring := decide (y.slot + 1 < (outPins s g).length) }
       | none => s.updGrp g fun y => { y with restoring := false })

/-! ## Faults (R263–R267) -/

def execFieldOvercurrent (n : Nat) (s : State) : Out :=
  withUnit (decide (n < 48))
    (if !pinOut s n then s
     else
       let trips := addTrip (s.fpin n).trips s.tm.mono
       let latch := decide (3 ≤ trips.length)
       let s := pinFault n true (fun p =>
         { p with trip := true, tripEnd := s.tm.mono + 100000000, trips := trips, tripCount := inc32 p.tripCount, latched := p.latched || latch }) s
       if latch then forcePin n s else s)

def execFieldOvertempStage (n : Nat) (high : Bool) (s : State) : Out :=
  withUnit (decide (n < 48)) (if !s.reachable ∨ (s.fpin n).overtemp = high then s
    else pinFault n high (fun p => { p with overtemp := high }) s)

def execGroupOverload (g : Nat) (s : State) : Out :=
  withUnit (decide (g < 4))
    (if !(s.fgrp g).enable ∨ (s.fgrp g).overload then s
     else
       let trips := addTrip (s.fgrp g).trips s.tm.mono
       let s := s.updGrp g fun y => { y with overload := true, overEnd := s.tm.mono + 100000000, trips := trips }
       if 3 ≤ trips.length then forceGroup g (grpOff g (s.updGrp g fun y => { y with latched := true })) else s)

def execNoLoadCurrent (n : Nat) (set : Bool) (s : State) : Out :=
  withUnit (decide (n < 48)) (if (s.fpin n).noLoad = set ∨ (set ∧ !pinOut s n) then s
    else pinFault n set (fun p => { p with noLoad := set }) s)

def execExternalDrive (n : Nat) (set : Bool) (s : State) : Out :=
  withUnit (decide (n < 48))
    (if (s.fpin n).extDrive = set ∨ (s.fgrp (grpOf n)).absent ∨ s.nat (pinObj n) 1 ≠ 3 ∨ (set ∧ pinCmd s n) then s
     else pinFault n set (fun p => { p with extDrive := set }) s)

/-- Counts of a watched pair after one more transition. -/
def pairCount (l : List (Nat × Nat × Nat × Nat)) (m n : Nat) : Nat × Nat :=
  ((l.find? fun p => p.1 == m && p.2.1 == n).map (·.2.2)).getD (0, 0)

/-- A transition of output n counts for the pair with m as followed or as missed (R267). -/
def execPinsJoined (m n : Nat) (followed : Bool) (s : State) : Out :=
  withUnit (decide (m < 48) && decide (n < 48) && decide (m ≠ n))
    (if s.nat (pinObj m) 1 ≠ 3 ∨ s.nat (pinObj n) 1 ≠ 3 ∨ (s.fgrp (grpOf m)).absent ∨ (s.fgrp (grpOf n)).absent ∨ pinCmd s m then s
     else
       let c := pairCount s.fio.pairs m n
       let c := if followed then (min (c.1 + 1) 3, 0) else (0, min (c.2 + 1) 3)
       let s := s.updFio fun x => { x with pairs := (m, n, c.1, c.2) :: x.pairs.filter fun p => !(p.1 == m && p.2.1 == n) }
       if c.1 = 3 ∧ !((s.fpin n).joined ∧ (s.fpin n).joinedWith = m) then
         ((s.updPin m fun p => { p with joined := true, joinedWith := n }).updPin n fun p => { p with joined := true, joinedWith := m }).record
           ⟨0x8008, m, 0x10, leBytes 1 n, [], 0xFFFFFFFF, 0xF⟩
       else if c.2 = 3 ∧ (s.fpin n).joined ∧ (s.fpin n).joinedWith = m then
         (s.updPin m fun p => { p with joined := false, joinedWith := 0xFF }).updPin n fun p => { p with joined := false, joinedWith := 0xFF }
       else s)

/-- A pin's mode changes: its joined flag and that of its partner clear (R267). -/
def unjoin (n : Nat) (s : State) : State :=
  s.updFio fun x => { x with
    pairs := x.pairs.filter fun p => p.1 != n && p.2.1 != n
    pins := x.pins.mapIdx fun m (p : FPin) => if p.joined ∧ (m = n ∨ p.joinedWith = n) then { p with joined := false, joinedWith := 0xFF } else p }

/-! ## Guard (R268) -/

/-- Change every pin of a group. -/
def mapGrpPins (g : Nat) (f : Nat → FPin → FPin) (s : State) : State :=
  let one := fun (n : Nat) (p : FPin) => if grpOf n = g then f n p else p
  s.updFio fun x => { x with pins := x.pins.mapIdx one }

/-- The guard timer of a group runs: its enable stands, or is withdrawn only because of the supply. -/
def grpGuardRuns (s : State) (g : Nat) : Bool :=
  (s.fgrp g).enable ||
    ((s.fgrp g).absent && (s.pw.dev = .run || s.pw.dev = .service) && s.pw.ign && !(s.fgrp g).latched && !grpHeld s g)

def execFieldGuardExpiry (g : Nat) (s : State) : Out :=
  withUnit (decide (g < 4))
    (let x := s.fgrp g
     if x.guard ∨ !grpGuardRuns s g ∨ !guardOver s x.guardDue ∨ !s.reachable then s
     else
       let s := s.updGrp g fun y => { y with guard := true, latches := 0, guardCount := inc32 y.guardCount }
       let take := fun (n : Nat) (p : FPin) => match s.nat (pinObj n) 4 with | 0 => false | 1 => true | _ => p.cmd
       let s := mapGrpPins g (fun n p => { p with guardCmd := some (take n p) }) s
       forceGroup g (s.record (grpRecord 0x8007 g [])))

def execFieldGuardEnd (g : Nat) (s : State) : Out :=
  withUnit (decide (g < 4))
    (if (s.fgrp g).guard ∧ 10 ≤ (s.fgrp g).latches then
       mapGrpPins g (fun _ p => { p with guardCmd := none }) (s.updGrp g fun y => { y with guard := false, latches := 0 })
     else s)

/-! ## The part of a loop frame (R258, R263, R264) -/

/-- At the frame start the latched commands come into force, and the off times of trips and overloads that have passed end. -/
def fieldFrame (s : State) : State :=
  let s := s.updFio fun x => { x with pins := x.pins.map fun (p : FPin) => { p with cmd := p.next } }
  let one := fun (g : Nat) (y : FGrp) =>
    if s.valve.fresh then
      { y with latches := if y.guard then y.latches + 1 else y.latches, guardDue := y.guardDue.map fun _ => grpGuardTime s g }
    else { y with latches := 0 }
  let s := s.updFio fun x => { x with grp := x.grp.mapIdx one }
  let s := (List.range 48).foldl (fun s n =>
    let p := s.fpin n
    if p.trip && !p.latched && decide (p.tripEnd ≤ s.tm.mono) then pinFault n false (fun p => { p with trip := false }) s else s) s
  (List.range 4).foldl (fun s g =>
    let s := condFrame g s
    let y := s.fgrp g
    if y.overload && decide (y.overEnd ≤ s.tm.mono) then
      let s := s.updGrp g fun y => { y with overload := false }
      if y.enable then restart g s else s
    else s) s

/-- Source 2 of R258 drives the pin. -/
def fieldLatch (latched : Bool) (s : State) : State :=
  let one := fun (n : Nat) (p : FPin) =>
    if pinDriven s n then { p with next := s.loop.lat.fo.getD n false }
    else if latched then { p with next := s.flag (pinObj n) 3 } else p
  (s.updFio fun x => { x with pins := x.pins.mapIdx one }).updValve fun v => { v with fresh := latched }

/-! ## Writes (R258, R263, R264, R269) -/

/-- Something selects the pin (R269). -/
def pinSelected (s : State) (n : Nat) : Bool :=
  pinDriven s n || s.nat 0x3810 3 == n || ((List.range 10).any fun k => s.nat (stObj k) 0x1A == n) ||
    [7, 0xA, 0xB, 0xC].any fun j => s.nat 0x3C00 j == n

/-- The base command of a pin: what source 1, 2 or 3 commands it. -/
def baseCmd (s : State) (n : Nat) : Bool := if s.nat 0x3C00 0xB = n then s.steer.enable else (s.fpin n).cmd

/-- The slot of a pin that becomes an output has passed: no restore of its enabled group runs, or it has come to a later pin (R262). -/
def slotPassed (s : State) (n : Nat) : Bool :=
  let y := s.fgrp (grpOf n)
  y.enable && !y.overload && (!y.restoring || decide (((outPins s (grpOf n)).filter (· < n)).length < y.slot))

/-- Slots that have passed, after a PinMode write that makes pin n an output or takes it out of the outputs. -/
def slotAfter (s : State) (n : Nat) (out : Bool) (y : FGrp) : FGrp :=
  let was := s.nat (pinObj n) 1 == 3
  if !y.restoring || was == out then y
  else if out then { y with slot := if slotPassed s n then y.slot + 1 else y.slot }
  else { y with slot := if (s.fpin n).slotted then y.slot - 1 else y.slot }

/-- A PinMode write: a new output follows its command at once where its slot has passed. -/
def setPinMode (n sub : Nat) (v : Val) (s : State) : State :=
  let out := valNum v == 3
  let slotted := out && (if s.nat (pinObj n) 1 == 3 then (s.fpin n).slotted else slotPassed s n)
  let t := ((unjoin n s).put (pinObj n) sub v).updGrp (grpOf n) (slotAfter s n out)
  t.updPin n fun p => { p with slotted := slotted, next := p.next && out, cmd := p.cmd && out }

/-- Writes to 0x4400 + n and 0x4480 + g. -/
def fioWrite (w : Ctx) (i sub : Nat) (v : Val) (s : State) : Except Nat State :=
  checked w i sub v s fun s =>
    let n := i - 0x4400
    let g := i - 0x4480
    if 0x4480 ≤ i then
      if sub = 7 then
        if !(s.fgrp g).latched then .ok s
        else if (outPins s g).any (baseCmd s) then .error Abort.state
        else
          let t := s.updGrp g fun y => { y with latched := false, trips := [] }
          .ok (if grpMay t g then grpGrant g t else t)
      else .ok (s.put i sub v)
    else if sub = 1 then
      if !s.configurable ∧ pinSelected s n then .error Abort.state
      else .ok (setPinMode n sub v s)
    else if sub = 2 then
      if s.steer.engaged ∧ ([7, 0xA, 0xB, 0xC].any fun j => s.nat 0x3C00 j == n) then .error Abort.state else .ok (s.put i sub v)
    else if sub = 3 then
      if s.nat 0x3C00 0xB = n ∨ pinDriven s n ∨ !(s.pw.dev = .run ∨ s.pw.dev = .service) then .error Abort.state else .ok (s.put i sub v)
    else if sub = 5 then
      if !(s.fpin n).latched then .ok s
      else if baseCmd s n then .error Abort.state
      else .ok (pinFault n false (fun p => { p with latched := false, trip := false, trips := [] }) s)
    else .ok (s.put i sub v)

def execOutputCommandWrite (sess n : Nat) (v : Int) (s : State) : Out :=
  if n < 48 then s.asSession sess (pinObj n) fun w => fioWrite w (pinObj n) 3 (.int v) else withUnit false s
def execFieldFaultCommand (sess n : Nat) (v : Int) (s : State) : Out :=
  if n < 48 then s.asSession sess (pinObj n) fun w => fioWrite w (pinObj n) 5 (.int v) else withUnit false s
def execPinModeWrite (sess n : Nat) (v : Int) (s : State) : Out :=
  if n < 48 then s.asSession sess (pinObj n) fun w => fioWrite w (pinObj n) 1 (.int v) else withUnit false s
def execGroupCommand (sess g : Nat) (v : Int) (s : State) : Out :=
  if g < 4 then s.asSession sess (0x4480 + g) fun w => fioWrite w (0x4480 + g) 7 (.int v) else withUnit false s

/-! ## Reads (Tables 11-5, 11-7) -/

/-- GroupStatus. -/
def groupStatus (s : State) (g : Nat) : Nat :=
  let y := s.fgrp g
  b2n y.low + 2 * b2n y.missing + 4 * b2n y.overV + 8 * b2n y.guard + 16 * b2n y.overload + 32 * b2n y.latched + 64 * b2n y.restoring +
    128 * b2n y.enable

/-- Values of the live objects. -/
def fioRead (s : State) (i sub : Nat) : Option Val :=
  if i < 0x4480 then
    let p := s.fpin (i - 0x4400)
    match sub with
    | 6 => some (.int (pinStatus s (i - 0x4400))) | 7 => some (.int p.mV) | 8 => some (.int p.mA) | 9 => some (.int p.stamp)
    | 0xA => some (.int p.joinedWith) | 0xB => some (.int p.tripCount)
    | _ => none
  else
    let y := s.fgrp (i - 0x4480)
    match sub with
    | 1 => some (.int (groupStatus s (i - 0x4480))) | 3 => some (.int (min y.mV 65535)) | 4 => some (.int y.mA)
    | 5 => some (.int (min y.minMv 65535)) | 6 => some (.int y.missingCount) | 8 => some (.int y.guardCount)
    | _ => none

/-- The stage as a Start finds it (R260), and every enable withdrawn. -/
def fioStart (s : State) : State := { s with fio := {} }
def fioOff (s : State) : State := (List.range 4).foldl (fun s g => grpOff g s) s

end Sys2Proof.Machine
end

