-- ==== Sys2Proof/Machine/CanBus.lean ====
section
/-! DEFINITION. The CAN channels (chapter 14, R312–R333): timing checks, transmit objects, receive FIFOs, cancels, identifier conflicts,
session frames, the time master and address claims. -/

namespace Sys2Proof.Machine

abbrev canObjIx (c : Nat) : Nat := 0x5400 + c

/-- Channel c and its object j. -/
def State.cch (s : State) (c : Nat) : CanCh := s.can.ch.getD c {}
def State.cobj (s : State) (c j : Nat) : CanObj := (s.cch c).objs.getD j {}

/-- Updates of one of them. -/
def State.updCch (s : State) (c : Nat) (f : CanCh → CanCh) : State := s.updCan fun x => { x with ch := updAt x.ch c f }
def State.updCobj (s : State) (c j : Nat) (f : CanObj → CanObj) : State := s.updCch c fun x => { x with objs := updAt x.objs j f }

/-- The channel takes part in its bus. -/
def CanCh.up (x : CanCh) : Bool := x.state == 1 || x.state == 2 || x.state == 3

/-- Error state of a participating channel (ISO 11898-1). -/
def CanCh.confine (x : CanCh) : CanCh := { x with state := if 128 ≤ x.tec ∨ 128 ≤ x.rec_ then 3 else 2 }

/-! ## Bit timing (R314, R315) -/

/-- The nominal bit rate of a stored timing as (80 MHz / rate): time quanta × prescaler. -/
def nomDiv (s : State) (c : Nat) : Nat := s.nat (canObjIx c) 2 * (1 + s.nat (canObjIx c) 3 + s.nat (canObjIx c) 4)
def dataDiv (s : State) (c : Nat) : Nat := s.nat (canObjIx c) 7 * (1 + s.nat (canObjIx c) 8 + s.nat (canObjIx c) 9)

/-- Sample point from 50 % to 95 %. -/
def sampleOk (t1 t2 : Nat) : Bool := decide (1 + t1 + t2 ≤ 2 * (1 + t1)) && decide (100 * (1 + t1) ≤ 95 * (1 + t1 + t2))

/-- The limits of R314. -/
def timingOk (s : State) (c : Nat) : Bool :=
  let g := s.nat (canObjIx c)
  let n := nomDiv s c
  let d := dataDiv s c
  let nq := 1 + g 3 + g 4
  let dq := 1 + g 8 + g 9
  let nominal := decide (80 ≤ n) && decide (n ≤ 1600) && decide (8 ≤ nq) && decide (nq ≤ 385) && sampleOk (g 3) (g 4) && decide (g 5 ≤ g 4)
  let fd := decide (d ≤ n) && decide (10 ≤ d) && decide (5 ≤ dq) && decide (dq ≤ 49) && decide (g 7 ≤ g 2) && sampleOk (g 8) (g 9) &&
    decide (g 0xA ≤ g 9) && (g 0xB != 0 || decide (80 ≤ d))
  nominal && (decide (c < 2) || fd)

/-! ## Transmit objects (R319) -/

/-- Rank of an identifier in the arbitration. -/
def rankOf (f : CanFrame) : Nat := if f.ext then f.id else f.id * 2 ^ 18 + (2 ^ 18 - 1)

/-- The object offered to the next arbitration: lowest identifier of objects 0–47 and of the FIFO's head, the lower number on ties. -/
def nextObject (s : State) (c : Nat) : Option (Nat × CanFrame) :=
  let ready := fun (j : Nat) => if (s.cobj c j).suspended then none else ((s.cobj c j).pending).map fun f => (j, f)
  let head := ((rangeFrom 48 16).filterMap ready).head?
  ((List.range 48).filterMap ready ++ head.toList).foldl (fun m p => match m with
    | none => some p
    | some q => if rankOf p.2 < rankOf q.2 then some p else some q) none

/-- A session's window takes the result of its object. -/
def tellOwner (c j : Nat) (stamp : Option Nat) (s : State) : State :=
  match (s.cobj c j).owner with
  | some n => s.updWin n fun w => { w with frameResult := (s.cobj c j).result, frameStamp := stamp.getD w.frameStamp }
  | none => s

/-- A request ends with a result. -/
def endRequest (c j result : Nat) (stamp : Option Nat) (s : State) : State :=
  tellOwner c j stamp (s.updCobj c j fun o => { o with pending := none, cancel := false, result := result })

/-- Every pending request of a channel is discarded (R318, R327, Table 14-8). -/
def discardAll (c : Nat) (s : State) : State :=
  (List.range 64).foldl (fun s j =>
    let o := s.cobj c j
    if o.pending.isSome then endRequest c j (if o.cancel then 4 else 9) none s else s) s

/-- An object is suspended after an identifier conflict (R323). -/
def suspend (c j id : Nat) (s : State) : State :=
  let s := endRequest c j 8 none (s.updCobj c j fun o => { o with suspended := true })
  (s.updCch c fun x => { x with idConflict := true, conflictCount := inc32 x.conflictCount }).record
    ⟨0xA002, c + 1, 0xC, leBytes 1 j ++ leBytes 4 id, [], 0xFFFFFFFF, 0xF⟩

/-- A transmit error raises the transmit error count (ISO 11898-1). -/
def txError (c : Nat) (s : State) : State := s.updCch c fun x => CanCh.confine { x with tec := min (x.tec + 8) 255 }

/-- Cycle count of a reference due now (Table 14-6). -/
def refCycle (s : State) : Nat := s.tm.now / (s.nat 0x5410 4 * 1000000) % 64

/-- The reference object has no request of its own: its conflict suspends the time master (R323, R325). -/
def refConflict (c : Nat) (s : State) : State :=
  let s := (txError c s).updCan fun x => { x with cycle := refCycle s, refSuspended := true, refSkipped := inc32 x.refSkipped, lastSkipped := true }
  (s.updCch c fun x => { x with idConflict := true, conflictCount := inc32 x.conflictCount }).record
    ⟨0xA002, c + 1, 0xC, leBytes 1 8 ++ leBytes 4 (s.nat 0x5410 3), [], 0xFFFFFFFF, 0xF⟩

/-- Object number by which records name the time master's object (log 32). -/
abbrev refObject : Nat := 8

/-- RefChannel is this channel and its reference may be sent. -/
def refHere (s : State) (c : Nat) : Bool := s.flag 0x5410 1 && s.nat 0x5410 2 == c + 1 && !s.can.refSuspended

/-- The object that enters the arbitration, and what becomes of its frame (R319–R323). -/
def canTransmit (c : Nat) (outcome : CanTxOutcome) (stamp tdc : Nat) (s : State) : State :=
  match nextObject s c with
  | none => if outcome = .errorConflict ∧ refHere s c then refConflict c s else s
  | some (j, f) =>
    let o := s.cobj c j
    match outcome with
    | .completed =>
      let s := s.updCch c fun x => CanCh.confine { x with tec := x.tec - 1 }
      let s := if f.fd ∧ f.brs then s.updCch c fun x => { x with tdc := min tdc 127, tdcFault := x.tdcFault || decide (127 < tdc) } else s
      endRequest c j (if o.cancel then 5 else 1) (some stamp) (s.updCobj c j fun o => { o with conflicts := 0 })
    | .arbitrationLost =>
      if o.cancel then endRequest c j 3 (some stamp) s
      else if o.oneShot then endRequest c j 6 (some stamp) s
      else tellOwner c j (some stamp) s
    | .errorConflict =>
      let s := (txError c s).updCobj c j fun o => { o with conflicts := o.conflicts + 1 }
      if 1 ≤ o.conflicts ∨ o.oneShot then suspend c j f.id (tellOwner c j (some stamp) s)
      else if o.cancel then endRequest c j 4 (some stamp) s
      else tellOwner c j (some stamp) s
    | .errorOther =>
      let s := txError c s
      if o.cancel then endRequest c j 4 (some stamp) s
      else if o.oneShot then endRequest c j 7 (some stamp) s
      else tellOwner c j (some stamp) s

def execCanFrameTransmit (c : Nat) (outcome : CanTxOutcome) (stamp tdc : Nat) (s : State) : Out :=
  withUnit (decide (c < 8)) (if (s.cch c).up then canTransmit c outcome (tick stamp) tdc s else s)

/-! ## Reception (R320) -/

/-- Parameter group number of a 29-bit identifier (ISO 11783-3). -/
def pgnOf (id : Nat) : Nat := let p := id / 256 % 2 ^ 18; if p / 256 % 256 < 240 then p / 256 * 256 else p

/-- The receive FIFO that the filters give a frame: 0 for the steering stage's edge sensor and the aiding, 1 for the services (Table 14-7). -/
def filterOf (s : State) (c : Nat) (f : CanFrame) : Option Nat :=
  let edge := s.nat 0x3C38 2
  let aid := s.nat 0x5000 0x16 % 2 ^ 31
  if s.nat 0x3C38 1 = c + 1 ∧ f.id = edge % 2 ^ 31 ∧ f.ext = decide (2 ^ 31 ≤ edge) then some 0
  else if s.flag 0x5000 0x14 ∧ s.nat 0x5000 0x15 = c + 1 ∧ f.ext ∧ aid ≤ f.id ∧ f.id < aid + 3 then some 0
  else if c = 0 then (if f.ext then some 1 else none)
  else if c = 1 then
    (if f.ext ∧ [61444, 61443, 65265, 65262, 65263, 60928, 59904, 60416, 60160, 65226].contains (pgnOf f.id) then some 1 else none)
  else if c = 7 then (if !f.ext ∧ f.id = 0x600 + s.serv.nodeId then some 1 else none)
  else none

/-- A frame's form fits the channel. -/
def formOk (c : Nat) (f : CanFrame) : Bool :=
  (!f.fd || decide (2 ≤ c)) && (!f.brs || f.fd) && decide (f.data.length ≤ if f.fd then 64 else 8) && decide (f.id < if f.ext then 2 ^ 29 else 2 ^ 11)

/-- A frame is queued, or dropped on overflow. -/
def canReceive (c : Nat) (f : CanFrame) (stamp : Nat) (s : State) : State :=
  let s := s.updCch c fun x => CanCh.confine { x with rec_ := if 127 < x.rec_ then 127 else x.rec_ - 1 }
  match filterOf s c f with
  | none => s
  | some k =>
    let q := if k = 0 then (s.cch c).fifo0 else (s.cch c).fifo1
    if 128 ≤ q.length then
      s.updCch c fun x => { x with overAt := some s.tm.mono, overflow := updAt x.overflow k inc32 }
    else s.updCch c fun x => if k = 0 then { x with fifo0 := x.fifo0 ++ [(f, stamp)] } else { x with fifo1 := x.fifo1 ++ [(f, stamp)] }

def execCanFrameReceive (c : Nat) (frame : CanFrame) (stamp : Nat) (s : State) : Out :=
  withUnit (decide (c < 8)) (if (s.cch c).up && formOk c frame then canReceive c frame (tick stamp) s else s)

/-- The consumers of a FIFO take its frames: FIFO 0 in every loop frame, FIFO 1 in every application frame (log 32). -/
def drainFifo (k : Nat) (s : State) : State :=
  s.updCan fun x => { x with ch := x.ch.map fun (y : CanCh) => if k = 0 then { y with fifo0 := [] } else { y with fifo1 := [] } }

/-! ## Fault confinement (R313, R317, R318) -/

/-- A channel goes bus-off. -/
def goBusOff (c : Nat) (s : State) : State :=
  if (s.cch c).up then
    (discardAll c (s.updCch c fun x => { x with state := 4, tec := 255, busOffCount := inc32 x.busOffCount })).record
      ⟨0xA001, c + 1, 0xC, [], [], 0xFFFFFFFF, 0xF⟩
  else s

/-- The channel rejoins with its counts at 0. -/
def rejoin (c : Nat) (s : State) : State := s.updCch c fun x => { x with state := 2, tec := 0, rec_ := 0 }

def execBusOffRecovery (c : Nat) (s : State) : Out :=
  withUnit (decide (c < 8)) (if (s.cch c).state = 4 ∧ s.nat (canObjIx c) 0xE = 0 then rejoin c s else s)

def execTxdTimeout (c : Nat) (s : State) : Out :=
  withUnit (decide (c < 8)) (if (s.cch c).up then s.updCch c fun x => { x with txdTimeout := true, state := 1 } else s)

/-- Only FD channels take a recessive res bit as a protocol exception. -/
def execProtocolException (c : Nat) (s : State) : Out :=
  withUnit (decide (c < 8)) (if (s.cch c).up ∧ 2 ≤ c then
    s.updCch c fun x => { x with protoExc := true, state := 1, errorFrames := inc32 x.errorFrames } else s)

/-- ObjectCommand (R318, R323). -/
def objectCommand (c v : Nat) (s : State) : Except Nat State :=
  let j := v % 64
  if v / 64 % 4 ≠ 0 then .error Abort.range
  else if v / 256 = 1 then .ok (s.updCobj c j fun o => if o.suspended then { o with suspended := false, conflicts := 0 } else o)
  else if v / 256 = 2 then .ok (if (s.cch c).state = 4 then rejoin c s else s)
  else .error Abort.range

/-! ## Frames of a session (R322, R324) -/

/-- Payload lengths that a format admits. -/
def lengthOk (fd : Bool) (n : Nat) : Bool := if fd then decide (n ≤ 8) || [12, 16, 20, 24, 32, 48, 64].contains n else decide (n ≤ 8)

/-- The frame of a send record (Table 14-5), when it fits channel c; with its ONE_SHOT flag. -/
def frameOfRecord (c : Nat) (r : Bytes) : Option (CanFrame × Bool) :=
  let fl := fieldLe r 71 1
  let len := fieldLe r 70 1
  let id := fieldLe r 64 4
  let ext := fl.testBit 0
  let fd := fl.testBit 1
  let brs := fl.testBit 2
  if r.length = 72 ∧ fl < 16 ∧ fieldLe r 68 2 = 0 ∧ lengthOk fd len ∧ (!fd ∨ 2 ≤ c) ∧ (!brs ∨ fd) ∧ (id < if ext then 2 ^ 29 else 2 ^ 11) then
    some (⟨ext, id, fd, brs, r.take len⟩, fl.testBit 3)
  else none

/-- The object among 40–47 that serves a session on a channel: its own or a free one. -/
def sessionObject (s : State) (c n : Nat) : Option Nat :=
  match (rangeFrom 40 8).find? fun j => (s.cobj c j).owner == some n with
  | some j => some j
  | none => (rangeFrom 40 8).find? fun j => (s.cobj c j).owner.isNone

/-- Where a session's frame is pending. -/
def sessionPending (s : State) (n : Nat) : Option (Nat × Nat) :=
  ((List.range 8).flatMap fun c => ((rangeFrom 40 8).filter fun j => (s.cobj c j).owner == some n && (s.cobj c j).pending.isSome).map fun j =>
    (c, j)).head?

/-- FrameSend (R324). -/
def frameSend (n : Nat) (r : Bytes) (s : State) : Except Nat State :=
  let c := (s.sessOf n).win.frameChannel - 1
  match frameOfRecord c r with
  | none => .error Abort.range
  | some (f, one) =>
    if !(s.pw.dev = .run ∨ s.pw.dev = .service) ∨ (sessionPending s n).isSome then .error Abort.state
    else match sessionObject s c n with
      | none => .error Abort.state
      | some j =>
        let up := (s.cch c).up
        let s := s.updCobj c j fun o =>
          { o with owner := some n, pending := if up then some f else none, oneShot := one, cancel := false, result := if up then 0 else 9 }
        .ok (tellOwner c j none s)

/-- FrameCancel (R322). Whether the frame has passed its decision point is no input of the model: a free value (log 32). -/
def frameCancel (n : Nat) (s : State) : State :=
  match sessionPending s n with
  | none => s
  | some (c, j) =>
    let (v, s) := s.freeInt
    if v = 0 then endRequest c j 2 none s else s.updCobj c j fun o => { o with cancel := true }

/-- A session ends: its object is free again, and a waiting frame goes with it. -/
def canSessionEnd (n : Nat) (s : State) : State :=
  s.updCan fun x => { x with ch := x.ch.map fun (y : CanCh) => { y with objs := y.objs.map fun (o : CanObj) =>
                                                                          if o.owner = some n then { conflicts := o.conflicts, suspended := o.suspended } else o } }

/-! ## The time master (R325) -/

/-- Reference message (Table 14-6). -/
def refBytes (s : State) (cycle : Nat) : Bytes := leBytes 1 cycle ++ leBytes 1 s.tm.source ++ leBytes 6 (s.can.lastRef % 2 ^ 48)

def execReferenceMessage (sent : Bool) (stamp : Nat) (s : State) : Out :=
  let c := s.nat 0x5410 2 - 1
  .next (if s.reachable ∧ s.flag 0x5410 1 then
    if sent && (s.cch c).up && !s.can.refSuspended then
      s.updCan fun x => { x with cycle := refCycle s, refSent := inc32 x.refSent, lastRef := tick stamp, lastSkipped := false,
                                 refMsg := refBytes s (refCycle s) }
    else s.updCan fun x => { x with cycle := refCycle s, refSkipped := inc32 x.refSkipped, lastSkipped := true }
  else s)

/-! ## Address claims (R329, R330) -/

/-- Channel of a control function; it claims through the object of its own number (log 32). -/
def cfChannel (k : Nat) : Nat := if k = 3 then 1 else 0

/-- An Address Claimed frame from an address (ISO 11783-5, log 32). -/
def claimFrame (s : State) (k addr : Nat) : CanFrame :=
  ⟨true, 0x18EEFF00 + addr, false, false, leBytes 8 (s.nat (0x5430 + k) 1)⟩

/-- Queue the claim of an address. -/
def sendClaim (k addr : Nat) (s : State) : State :=
  let c := cfChannel k
  if (s.cch c).up then s.updCobj c k fun o => { o with pending := some (claimFrame s k addr), oneShot := false, cancel := false, result := 0 } else s

/-- Update of control function k. -/
def State.updCf (s : State) (k : Nat) (f : CanCf → CanCf) : State := s.updCan fun x => { x with cf := updAt x.cf k f }

/-- The function may hold the address: its preferred one, or any when its NAME is self-configurable. -/
def mayClaim (s : State) (k addr : Nat) : Bool :=
  decide (addr < 254) && (s.nat (0x5430 + k) 2 == addr || (s.nat (0x5430 + k) 1).testBit 63)

def execAddressClaim (k : Nat) (outcome : ClaimOutcome) (s : State) : Out :=
  withUnit (decide (k < 4))
    (if !s.reachable ∨ s.nat (0x5430 + k) 1 = 0 then s
     else match outcome with
       | .claimed a => if mayClaim s k a then s.updCf k fun x => { x with claimed := a } else s
       | .cannotClaim => sendClaim k 254 (s.updCf k fun x => { x with claimed := 0xFE, holdAt := none }))

/-- R330: a new Address Claimed, the record, and the objects resume once the claim has held for 250 ms. -/
def execAddressReclaim (k new : Nat) (s : State) : Out :=
  withUnit (decide (k < 4))
    (let c := cfChannel k
     if !s.reachable ∨ !(s.cobj c k).suspended ∨ !mayClaim s k new then s
     else
       let old := (s.can.cf.getD k {}).claimed
       let s := s.updCf k fun _ => { claimed := new, holdAt := some (s.tm.mono + 250000000) }
       let s := s.updCobj c k fun o => { o with pending := some (claimFrame s k new), result := 0 }
       s.record ⟨0xA003, k, 0xE, leBytes 1 (c + 1) ++ leBytes 1 old ++ leBytes 1 new ++ leBytes 1 0, [], 0xFFFFFFFF, 0xF⟩)

/-- Claims that have held for 250 ms, looked at in every application frame. -/
def claimFrameEnd (s : State) : State :=
  (List.range 4).foldl (fun s k => match (s.can.cf.getD k {}).holdAt with
    | some t => if t ≤ s.tm.mono then
        (s.updCf k fun x => { x with holdAt := none }).updCobj (cfChannel k) k fun o => { o with suspended := false, conflicts := 0 } else s
    | none => s) s

/-! ## Writes and reads (R332) -/

/-- ChannelEnable. -/
def channelEnable (w : Ctx) (c : Nat) (on : Bool) (s : State) : Except Nat State :=
  let t := s.put (canObjIx c) 1 (.int (b2n on))
  let own : Bool := match w.sess with | some n => (s.sessOf n).transport == .c8 && c == 7 | none => false
  if on then
    if !timingOk s c then .error Abort.range
    else .ok (if (s.cch c).state = 0 then t.updCch c fun x => { x with state := 2, tec := 0, rec_ := 0 } else t)
  else if own then .error Abort.state
  else .ok ((discardAll c t).updCch c fun x => { x with state := 0 })

/-- Writes to 0x5400–0x5433. -/
def canWrite (w : Ctx) (i sub : Nat) (v : Val) (s : State) : Except Nat State :=
  checked w i sub v s fun s =>
    let x := (valNum v).toNat
    let c := i - 0x5400
    if i < 0x5408 then
      if sub = 1 then channelEnable w c (x == 1) s
      else if sub = 0x19 then objectCommand c x s
      else if sub = 6 ∧ (2 ≤ c ∨ (x = 1 ∧ nomDiv s c < 160)) then .error Abort.range
      else if 2 ≤ sub ∧ sub ≤ 0xC ∧ s.flag i 1 then .error Abort.state
      else .ok (s.put i sub v)
    else if i = 0x5410 then
      if sub = 0xA then .ok (s.updCan fun y => { y with refSuspended := false }) else .ok (s.put i sub v)
    else if i = 0x5420 then match w.sess with
      | none => .error Abort.noRight
      | some n =>
        if sub = 1 then .ok (s.updWin n fun y => { y with frameChannel := x })
        else if sub = 2 then frameSend n (valRaw v) s
        else .ok (frameCancel n s)
    else if 0x5430 ≤ i ∧ sub = 1 then
      let t := s.put i sub v
      .ok (if x = 0 then t.updCf (i - 0x5430) fun y => { y with claimed := 0xFF } else sendClaim (i - 0x5430) (t.nat i 2) t)
    else .ok (s.put i sub v)

def execResumeObject (sess c obj : Nat) (s : State) : Out :=
  if c < 8 ∧ obj < 64 then s.asSession sess (canObjIx c) fun w => canWrite w (canObjIx c) 0x19 (.int (256 + obj : Nat)) else withUnit false s
def execLeaveBusOff (sess c : Nat) (s : State) : Out :=
  if c < 8 then s.asSession sess (canObjIx c) fun w => canWrite w (canObjIx c) 0x19 (.int 512) else withUnit false s
def execFrameSend (sess : Nat) (rec : Bytes) (s : State) : Out := s.asSession sess 0x5420 fun w => canWrite w 0x5420 2 (.bytes rec)
def execFrameCancel (sess : Nat) (v : Int) (s : State) : Out := s.asSession sess 0x5420 fun w => canWrite w 0x5420 3 (.int v)
def execRefResume (sess : Nat) (v : Int) (s : State) : Out := s.asSession sess 0x5410 fun w => canWrite w 0x5410 0xA (.int v)

/-- ChannelFlags. -/
def channelFlags (s : State) (c : Nat) : Nat :=
  let x := s.cch c
  let late : Bool := match x.overAt with | some t => decide (s.tm.mono < t + 1000000000) | none => false
  b2n (x.state == 3) + 2 * b2n (x.state == 4) + 4 * b2n (x.state == 5) + 8 * b2n late + 16 * b2n x.idConflict + 32 * b2n x.protoExc +
    64 * b2n x.tdcFault + 128 * b2n x.txdTimeout

/-- Values of the live objects; 0x5420 reads the session's own. -/
def canRead (s : State) (sess i sub : Nat) : Option Val :=
  if i < 0x5408 then
    let x := s.cch (i - 0x5400)
    match sub with
    | 0x10 => some (.int x.state) | 0x11 => some (.int x.tec) | 0x12 => some (.int x.rec_) | 0x13 => some (.int (channelFlags s (i - 0x5400)))
    | 0x14 => some (.int x.busOffCount) | 0x15 => some (.bytes (x.overflow.flatMap (leBytes 4))) | 0x16 => some (.int x.conflictCount)
    | 0x17 => some (.int x.tdc) | 0x18 => some (.bytes (x.objs.map fun o => byteOf o.result)) | 0x1A => some (.int x.load)
    | 0x1B => some (.int x.errorFrames)
    | _ => none
  else if i = 0x5410 then
    let x := s.can
    match sub with
    | 5 => some (.int x.cycle) | 6 => some (.int x.refSent) | 7 => some (.int x.refSkipped) | 8 => some (.int x.lastRef)
    | 9 => some (.int (b2n (s.flag 0x5410 1 && !x.refSuspended && (s.cch (s.nat 0x5410 2 - 1)).up) + 2 * b2n x.lastSkipped + 4 * b2n x.refSuspended))
    | _ => none
  else if i = 0x5418 ∨ i = 0x5419 then
    let w := s.can.wakes.getD (i - 0x5418) (0, 0)
    match sub with | 8 => some (.int w.1) | 9 => some (.int w.2) | _ => none
  else if i = 0x5420 then
    let w := (s.sessOf sess).win
    match sub with | 1 => some (.int w.frameChannel) | 4 => some (.int w.frameResult) | 5 => some (.int w.frameStamp) | _ => none
  else if 0x5430 ≤ i ∧ i < 0x5434 ∧ sub = 3 then some (.int (s.can.cf.getD (i - 0x5430) {}).claimed)
  else none

/-- The bus engine as a Start brings it up (R327, R329, Table 14-12): enabled channels error active, each named function claiming. -/
def canStart (s : State) : State :=
  let s := { s with can := { wakes := s.can.wakes, vt := { stored := s.can.vt.stored } } }
  let s := (List.range 8).foldl (fun s c => if s.flag (canObjIx c) 1 then s.updCch c fun x => { x with state := 2 } else s) s
  (List.range 4).foldl (fun s k => if s.nat (0x5430 + k) 1 = 0 then s else sendClaim k (s.nat (0x5430 + k) 2) s) s

/-- Ladder runs C8 alone (R312). -/
def canLadder (s : State) : State := { s with can := { wakes := s.can.wakes, vt := { stored := s.can.vt.stored }, ch := (List.replicate 8 {}).set 7 { state := 2 } } }

/-- The end of Shutdown: requests are discarded; in Park C1 and C8 sleep when their WakeMode is not 0 (R326, R327). -/
def canStop (park : Bool) (s : State) : State :=
  (List.range 8).foldl (fun s c =>
    let sleep := park && ((c == 0 && s.nat 0x5418 1 != 0) || (c == 7 && s.nat 0x5419 1 != 0))
    (discardAll c s).updCch c fun x => { x with state := if sleep then 5 else 0, fifo0 := [], fifo1 := [] }) s

end Sys2Proof.Machine
end

