-- ==== Sys2Proof/Machine/Flowstone.lean ====
section
/-! DEFINITION. Flowstone's commands (chapter 16, R361–R372): records, flushes, the read window, first occurrences and clears. The
record operation itself stands in Ops. -/

namespace Sys2Proof.Machine

/-- Codes of Table 16-3 that a writer may use; continuation and Flowstone's own codes are not among them. -/
def writerCode (c : Nat) : Bool :=
  [0x1001, 0x1002, 0x1003, 0x1004, 0x1005, 0x1006, 0x1007, 0x1008, 0x2001, 0x2002, 0x2003, 0x2004, 0x2005, 0x3001, 0x3002, 0x3003, 0x3010,
   0x3011, 0x4001, 0x4002, 0x5001, 0x5002, 0x5003, 0x5004, 0x5005, 0x5006, 0x5007, 0x6001, 0x6002, 0x7001, 0x7002, 0x7003, 0x7004, 0x7005,
   0x7006, 0x7007, 0x7008, 0x7009, 0x700A, 0x700B, 0x700C, 0x8001, 0x8002, 0x8003, 0x8004, 0x8005, 0x8006, 0x8007, 0x8008, 0x8009, 0x800A,
   0x9001, 0x9002, 0x9003, 0x9004, 0x9005, 0xA001, 0xA002, 0xA003, 0xB001, 0xB002, 0xB003, 0xB004, 0xC001, 0xD001].contains c

/-- A writer's record group is written (R362): a listed code, and at most seven continuations. -/
def execFlowstoneRecord (ev : FlowEv) (s : State) : Out :=
  .next (if writerCode ev.code ∧ ev.more.length ≤ 112 ∧ ev.payload.length ≤ 8 then s.record ev else s)

/-- The device records at all (Table 16-8). -/
def recording (s : State) : Bool := s.pw.dev != .dormant && s.pw.dev != .park

def execSuppressionSummary (s : State) : Out := .next (if recording s then s.rollSecond else s)

/-! ## Flushes (R364, R365) -/

/-- A flush begins, or a running one is extended to what is written now. -/
def beginFlush (s : State) : State := s.updFlow fun f => if f.wait = [] then f else { f with flushUntil := some f.nextSeq }

def execFlush (s : State) : Out := .next (if recording s then beginFlush s else s)

/-- Sequence a lies before b, modulo 2^32 (R362). -/
def seqBefore (a b : Nat) : Bool := pbefore a b

/-- Keep the newest groups that fit 1,048,576 records (R367). -/
def trimRing (l : List FlowRec) : List FlowRec :=
  (l.foldr (fun r (a : List FlowRec × Nat × Bool) =>
    if a.2.2 && decide (a.2.1 + r.size ≤ 1048576) then (r :: a.1, a.2.1 + r.size, true) else (a.1, a.2.1, false)) ([], 0, true)).1

/-- One 0x0003 record for what has been lost, when room has returned (R367). -/
def reportLost (s : State) : State :=
  if s.flow.lostPending = 0 then s
  else
    let n := s.flow.lostPending
    let first := s.flow.lostFirst
    (s.updFlow fun f => { f with lostPending := 0 }).record ⟨0x0003, 0, 0, leBytes 4 n ++ leBytes 4 first, [], 0xFFFFFFFF, 0xF⟩

/-- The flush has copied every group written before its last trigger. -/
def completeFlush (s : State) : State :=
  match s.flow.flushUntil with
  | none => s
  | some u =>
    let done := s.flow.wait.filter fun r => seqBefore r.seq u
    let rest := s.flow.wait.filter fun r => !seqBefore r.seq u
    let was := s.flow.flushFailed
    let s := s.updFlow fun f =>
      { f with wait := rest, ring := trimRing (f.ring ++ done), flushUntil := none, flushFailed := false,
               flushedSeq := match done.getLast? with | some r => seqAdd r.seq (r.size - 1) | none => f.flushedSeq }
    let s := if was then s.record ⟨0x0006, 0, 0, [], [], 0xFFFFFFFF, 0xF⟩ else s
    reportLost s

def execFlushComplete (s : State) : Out := .next (if recording s then completeFlush s else s)

/-- An eMMC write of the running flush fails; the retry goes on every second. -/
def execFlushFailed (error : Nat) (s : State) : Out :=
  .next (if recording s ∧ s.flow.flushUntil.isSome ∧ !s.flow.flushFailed then
    (s.updFlow fun f => { f with flushFailed := true }).record ⟨0x0005, 0, 0, leBytes 4 error, [], 0xFFFFFFFF, 0xF⟩ else s)

/-- At Start the newest group of the ring, torn by a power loss, is discarded and its `count` records reported as lost. -/
def execTornGroupDiscard (count : Nat) (s : State) : Out :=
  .next (if s.pw.dev = .start then
    match s.flow.ring.getLast? with
    | some r =>
      reportLost (s.updFlow fun f =>
        { f with ring := f.ring.dropLast, lostRecords := add32 f.lostRecords count, lostPending := f.lostPending + count,
                 lostFirst := if f.lostPending = 0 then r.seq else f.lostFirst })
    | none => s
  else s)

/-! ## Reading (R369, R370) -/

/-- All groups held, oldest first. -/
def Flow.held (f : Flow) : List FlowRec := f.ring ++ f.wait

/-- OldestSeq. -/
def Flow.oldest (f : Flow) : Nat := match f.held with | r :: _ => r.seq | [] => f.nextSeq

/-- A record hidden from a role (R371). -/
def hidden (f : Flow) (role : Nat) (r : FlowRec) : Bool := decide (role ≤ 2) && r.code != 4 && seqBefore r.seq f.clearSeq

/-- Take groups while they fit 8 records: those returned, and whether the window ends with 8 records or before a group that does not fit. -/
def takeWindow : List FlowRec → Nat → List FlowRec × Bool
  | [], _ => ([], false)
  | r :: t, used =>
    if 8 < used + r.size then ([], true)
    else if used + r.size = 8 then ([r], true)
    else let p := takeWindow t (used + r.size); (r :: p.1, p.2)

/-- A read of ReadWindow copies the window and moves the cursor. -/
def readWindow (n : Nat) (s : State) : State :=
  let f := s.flow
  let w := (s.sessOf n).win
  let role := (s.sessOf n).role
  let overrun := seqBefore w.readCursor f.oldest
  let start := if overrun then f.oldest else w.readCursor
  let from_ := f.held.filter fun r => !seqBefore r.seq start
  let seen := from_.filter fun r => !hidden f role r && decide (w.minSeverity ≤ severityOf r.code)
  let p := takeWindow seen 0
  let next := match p.2, p.1.getLast? with | true, some r => seqAdd r.seq r.size | _, _ => f.nextSeq
  let next := if w.readCursor = f.nextSeq ∨ seqBefore f.nextSeq w.readCursor then w.readCursor else next
  let hid := from_.any fun r => hidden f role r && seqBefore r.seq next
  let unfl := p.1.any fun r => f.wait.any fun x => x.seq == r.seq
  let bytes := p.1.flatMap fun r => (List.range r.size).flatMap fun j => r.bytes j
  s.updSess n fun x =>
    { x with answer := 0, answerData := bytes,
             win := { w with window := p.1, readCursor := next, windowStatus := b2n overrun + 2 * b2n hid + 4 * b2n unfl,
                             skipped := if overrun then pdist w.readCursor f.oldest else 0 } }

def execReadWindow (sess : Nat) (s : State) : Out :=
  withUnit (decide (sess < 16)) (if (s.sessOf sess).opened && s.reaches 0x5810 then readWindow sess (s.touch sess) else s)

/-! ## Clears and first occurrences (R368, R371) -/

/-- The record of an accepted clear. -/
def clearRecord (w : Ctx) (v : Nat) : FlowEv :=
  ⟨0x0004, w.sess.getD 0xFF, 0, leBytes 1 v ++ leBytes 1 w.role ++ List.replicate 6 0#8, [], 0xFFFFFFFF, 0xF⟩

/-- ClearCommand. -/
def clearCommand (w : Ctx) (v : Nat) (s : State) : Except Nat State :=
  let done := fun (t : State) => Except.ok (t.record (clearRecord w v))
  match v with
  | 1 => done (s.updFlow fun f => { f with clearSeq := f.nextSeq })
  | 2 => done (s.updFlow fun f => { f with fot := [], fotFull := false })
  | 3 => done (s.updFlow fun f => { f with lostRecords := 0, suppressed := 0 })
  | _ =>
    if w.role ≠ 4 then .error Abort.noRight
    else if s.per.fuse then .error Abort.state
    else done (s.updFlow fun f => { f with ring := [], fot := [], fotFull := false })

/-- Writes to 0x5800, 0x5810 and 0x5820. -/
def flowWrite (w : Ctx) (i sub : Nat) (v : Val) (s : State) : Except Nat State :=
  checked w i sub v s fun s =>
    let x := (valNum v).toNat
    if i = 0x5800 then if sub = 0xA then clearCommand w x s else .ok (s.put i sub v)
    else match w.sess with
      | none => .ok s
      | some n =>
        if i = 0x5810 then .ok (s.updWin n fun y => if sub = 1 then { y with readCursor := x } else { y with minSeverity := x })
        else if sub = 1 then .ok (s.updWin n fun y => { y with fotIndex := x })
        else match s.flow.fot.findIdx? fun e => e.first.code == x with
          | some k => .ok (s.updWin n fun y => { y with fotIndex := k })
          | none => .error Abort.state

def execClearHide (sess : Nat) (s : State) : Out := s.asSession sess 0x5800 fun w => flowWrite w 0x5800 0xA (.int 1)
def execClearFot (sess : Nat) (s : State) : Out := s.asSession sess 0x5800 fun w => flowWrite w 0x5800 0xA (.int 2)
def execClearCounters (sess : Nat) (s : State) : Out := s.asSession sess 0x5800 fun w => flowWrite w 0x5800 0xA (.int 3)
def execEraseRing (sess : Nat) (s : State) : Out := s.asSession sess 0x5800 fun w => flowWrite w 0x5800 0xA (.int 4)
def execFotLookup (sess : Nat) (code : Int) (s : State) : Out := s.asSession sess 0x5820 fun w => flowWrite w 0x5820 3 (.int code)

/-- A first-occurrence entry's 48 bytes (Table 16-5). -/
def fotBytes (e : FotEntry) : Bytes := e.first.bytes 0 ++ leBytes 4 e.count ++ leBytes 8 e.lastStamp ++ leBytes 4 e.lastSeq

/-- Values of the live objects. -/
def flowRead (s : State) (sess i sub : Nat) : Option Val :=
  let f := s.flow
  let w := (s.sessOf sess).win
  if i = 0x5800 then
    match sub with
    | 1 => some (.int (seqAdd f.nextSeq (2 ^ 32 - 1))) | 2 => some (.int f.oldest) | 3 => some (.int f.flushedSeq) | 4 => some (.int f.clearSeq)
    | 5 => some (.int f.lostRecords) | 6 => some (.int f.suppressed)
    | 0xB => some (.int (b2n (decide (8192 ≤ flowSize f.wait)) + 2 * b2n f.flushUntil.isSome + 4 * b2n f.flushFailed + 8 * b2n f.fotFull))
    | 0xC => some (.int f.fot.length)
    | _ => none
  else if i = 0x5810 then
    match sub with
    | 1 => some (.int w.readCursor)
    | 2 => some (.bytes (w.window.flatMap fun r => (List.range r.size).flatMap fun j => r.bytes j))
    | 3 => some (.int (flowSize w.window)) | 4 => some (.int w.windowStatus) | 5 => some (.int w.skipped) | 6 => some (.int w.minSeverity)
    | _ => none
  else
    match sub with
    | 1 => some (.int w.fotIndex)
    | 2 => some (.bytes (match f.fot[w.fotIndex]? with | some e => fotBytes e | none => []))
    | _ => none

end Sys2Proof.Machine
end

