-- ==== Sys2Proof/Machine/Lantern.lean ====
section
/-! DEFINITION. The panel drive Lantern (chapter 17, R373–R395): frame timing, column link, gate lines, inversion, overdrive, the safety
overlay and its check, power sequencing and objects. -/

namespace Sys2Proof.Machine

/-! ## Settings (R375, R392) -/

/-- A little-endian list of signed bytes. -/
def signedBytes (b : Bytes) : List Int := b.map fun x => toSigned 1 x.toNat

/-- The settings a blanking loads, as they are written now. -/
def lanLoad (s : State) : LanCfg :=
  let g := s.nat 0x5C00
  { inversion := g 9, overdrive := g 0xA == 1, bands := signedBytes (s.raw 0x5C00 0xB), faultBand := g 0xC, gamma := s.raw 0x5C00 0xD,
    vcom := g 0xE, driver := s.raw 0x5C00 0xF, black := g 0x10, blackFrames := g 0x12, discharge := g 0x14, backDelay := g 0x13,
    od := (List.range 4).map fun b => s.raw (0x5C20 + b) 1,
    gates := (List.range 8).map fun k => (List.range 7).map fun j => s.nat (0x5C10 + k) (j + 1) }

/-- Timing and link as they are written now. -/
def lanTime (s : State) : LanTime :=
  let g := s.nat 0x5C00
  ⟨g 2, g 3, g 4, g 5, g 6, g 7, g 8⟩

/-- The overlay settings that Column-B loads at Start. -/
def lanOver (s : State) : LanOver :=
  let g := s.nat 0x5C40
  { on := g 1 == 1, x := g 2, y := g 3, w := g 4, h := g 5, bg := g 6, failFrames := g 7, glyphs := s.raw 0x5C40 8, slots := s.raw 0x5C40 9 }

/-- R374: the frame rate lies in 50–62 Hz and the blankings are long enough. -/
def timingFits (t : LanTime) : Bool :=
  decide (50 * t.htotal * t.vtotal ≤ 1000 * t.clock) && decide (1000 * t.clock ≤ 62 * t.htotal * t.vtotal) &&
    decide (t.width + 80 ≤ t.htotal) && decide (t.height + 6 ≤ t.vtotal) && decide (t.width % t.drivers = 0)

/-- R378: a line packet fits 0.9 of a line at LinkRate (0.6 Gbit/s a step). -/
def linkFits (t : LanTime) : Bool :=
  decide (100 * (3 * t.width + 8 * t.drivers) * t.clock ≤ 9 * 600000 * t.rate * t.htotal * t.drivers)

/-- Duration of the vertical blanking in ns (R374). -/
def blankNs (t : LanTime) : Nat := (t.vtotal - t.height) * t.htotal * 1000000 / t.clock

/-! ## Gate lines (R379) -/

/-- Level of a gate line at pixel clock `pix` of line `n`. -/
def gateHigh (k : List Nat) (vtotal n pix : Nat) : Bool :=
  let g := fun j => k.getD j 0
  match g 0 with
  | 0 => false
  | 1 => true
  | 2 => decide ((n + g 3) % g 4 < g 5) && decide (g 1 ≤ pix) && decide (pix < g 2)
  | _ =>
    let d := (n + vtotal - g 3) % vtotal
    decide (d < g 5) && (d != 0 || decide (g 1 ≤ pix)) && (d + 1 != g 5 || decide (pix < g 2))

/-- Level of `GC`k in the panel's present state: low while off, GcDischarge in the discharge step. -/
def gateLevel (s : State) (k n pix : Nat) : Bool :=
  let x := s.lan
  if x.down = 3 then (x.cfg.gates.getD k []).getD 6 0 == 1
  else if x.state = 3 ∨ x.state = 4 ∨ x.state = 5 then gateHigh (x.cfg.gates.getD k []) x.time.vtotal n pix
  else false

/-- R379's write rules for one line. -/
def gateFits (s : State) (i : Nat) : Bool :=
  let g := s.nat i
  let t := lanTime s
  decide (g 2 < g 3) && decide (g 2 < t.htotal) && decide (g 3 < t.htotal) && (g 1 != 2 || decide (g 6 ≤ g 5)) && decide (g 4 < t.vtotal) &&
    decide (1 ≤ g 6) && decide (g 6 ≤ t.vtotal)

/-! ## Inversion and overdrive (R382–R384) -/

/-- P of subpixel column x on line y of frame f. -/
def polarity (mode f x y : Nat) : Bool :=
  (match mode with
   | 1 => f | 2 => f + y | 3 => f + y / 2 | 4 => f + x + y | _ => f + x + y / 2) % 2 == 1

/-- The band without hysteresis, for the first sample after power-up. -/
def bandPlain (l : List Int) (t : Int) : Nat :=
  if t < 10 * l.getD 0 0 then 0 else if t < 10 * l.getD 1 0 then 1 else if t ≤ 10 * l.getD 2 0 then 2 else 3

/-- Higher bands are entered at the threshold + 1 °C. -/
def bandUp (l : List Int) (t : Int) : Nat → Nat → Nat
  | 0, b => b
  | n + 1, b => if b < 3 ∧ 10 * l.getD b 0 + 10 ≤ t then bandUp l t n (b + 1) else b

/-- Lower bands are entered below the threshold − 1 °C. -/
def bandDown (l : List Int) (t : Int) : Nat → Nat → Nat
  | 0, b => b
  | n + 1, b => if 0 < b ∧ t < 10 * l.getD (b - 1) 0 - 10 then bandDown l t n (b - 1) else b

/-- The band of the next frame. -/
def bandNext (l : List Int) (t : Int) (old : Option Nat) : Nat :=
  match old with
  | none => bandPlain l t
  | some b => bandDown l t 3 (bandUp l t 3 b)

/-- Overdrive of one subpixel: previous value a, target b, table T (R384). -/
def overdrive (tab : Bytes) (a b : Nat) : Nat :=
  let p := fun k => min (16 * k) 255
  let at_ := fun (i j : Nat) => (((tab.getD (17 * i + j) 0#8).toNat : Int) : Rat)
  let i := min (a / 16) 15
  let j := min (b / 16) 15
  let fa : Rat := ((a - p i : Nat) : Rat) / ((p (i + 1) - p i : Nat) : Rat)
  let fb : Rat := ((b - p j : Nat) : Rat) / ((p (j + 1) - p j : Nat) : Rat)
  (halfUp ((1 - fa) * (1 - fb) * at_ i j + (1 - fa) * fb * at_ i (j + 1) + fa * (1 - fb) * at_ (i + 1) j + fa * fb * at_ (i + 1) (j + 1))).toNat % 256

/-! ## The overlay (R386, R387) -/

/-- The three bytes of a 24-bit colour, R first. -/
def rgb (c : Nat) : Bytes := [byteOf (c / 65536), byteOf (c / 256), byteOf c]

/-- The fields of an indicator slot: POS_Y, POS_X, GLYPH, CONDITION, ARG, COLOUR (Table 17-4). -/
def slotOf (b : Bytes) (k : Nat) : List Nat :=
  (List.range 5).map (fun j => fieldLe b (8 * k + j) 1) ++ [fieldLe b (8 * k + 5) 3]

/-- Bit of a glyph at row r and column c. -/
def glyphBit (b : Bytes) (g r c : Nat) : Bool := (fieldLe b (128 * g + 4 * r + c / 8) 1).testBit (7 - c % 8)

/-- Colour of the overlay's pixel (x, y), both from the rectangle's corner, in frame f. -/
def coverPixel (o : LanOver) (f x y : Nat) : Nat :=
  let base := if x < 4 ∧ y < 4 ∧ f % 2 = 1 then 0xFFFFFF - o.bg % 2 ^ 24 else o.bg % 2 ^ 24
  (List.range 16).foldl (fun c k =>
    let z := slotOf o.slots k
    let g := fun j => z.getD j 0
    if g 2 ≠ 0xFF ∧ g 1 ≤ x ∧ x < g 1 + 32 ∧ g 0 ≤ y ∧ y < g 0 + 32 then
      (if o.shown.getD k false && glyphBit o.glyphs (g 2) (y - g 0) (x - g 1) then g 5 else o.bg % 2 ^ 24)
    else c) base

/-- The overlay's pixels in raster order, as R, G, B bytes. -/
def coverBytes (o : LanOver) (f : Nat) : Bytes :=
  (List.range o.h).flatMap fun y => (List.range o.w).flatMap fun x => rgb (coverPixel o f x y)

/-- CRC-32 that Column-B computes over the overlay it rendered in frame f. -/
def coverCrc (o : LanOver) (f : Nat) : Nat := crc32 (nats (coverBytes o f))

/-- An indicator condition (Table 17-5). -/
def slotHolds (s : State) (c a : Nat) : Bool :=
  match c with
  | 1 => s.steer.enable
  | 2 => steerState s != 0
  | 3 => s.loop.fn.any fun f => f.forced || f.engineFault
  | 4 => s.valve.bank.any (·.guard) || s.fio.grp.any (·.guard)
  | 5 => (List.range 6).any (fun b => !(s.vsup (bankSupply b)).present) || s.fio.grp.any (·.missing)
  | 6 => isAuto (s.fnOf a).mode
  | 7 => s.pw.episode
  | 8 => s.sky.status == 2
  | _ => false

/-- Column-B evaluates every slot's condition. -/
def coverShown (s : State) : List Bool :=
  (List.range 16).map fun k => let z := slotOf s.lan.cover.slots k; slotHolds s (z.getD 3 0) (z.getD 4 0)

/-- R392's rules for the rectangle and the glyph cells. -/
def coverFits (s : State) : Bool :=
  let o := lanOver s
  let t := lanTime s
  decide (o.x + o.w ≤ t.width) && decide (o.y + o.h ≤ t.height) && (List.range 16).all fun k =>
    let z := slotOf o.slots k
    let g := fun j => z.getD j 0
    g 2 == 0xFF || (decide (g 2 < 16) && decide (g 1 + 32 ≤ o.w) && decide (g 0 + 32 ≤ o.h) && !(decide (g 1 < 4) && decide (g 0 < 4)))

/-- Every slot's fields are ones that Tables 17-4 and 17-5 list. -/
def slotsFit (b : Bytes) : Bool :=
  (List.range 16).all fun k =>
    let z := slotOf b k
    let g := fun j => z.getD j 0
    (g 2 == 0xFF || decide (g 2 < 16)) && decide (g 3 ≤ 8) && (g 3 != 6 || decide (g 4 < 48))

/-! ## Power sequencing (R389–R391) -/

/-- The panel may be powered. -/
def lanMay (s : State) : Bool := s.reachable && s.flag 0x5C00 1

/-- VPNL goes on; PanelT1 runs. -/
def lanUp (s : State) : State :=
  s.updLan fun x => { x with
    state := 1, time := lanTime s, cfg := lanLoad s, stepEnd := s.tm.mono + s.nat 0x5C00 0x11 * 1000000, down := 0, again := false, locked := false,
    retraining := false, linkFault := false, supplyFault := false, broken := false, blackNow := false, blackDone := 0, blen := false,
    backAt := none, frameCount := 0, band := none, prev := [], packets := [] }

/-- VPNL is off. -/
def Lantern.off (x : Lantern) : Lantern :=
  { x with state := if 3 ≤ x.faults.length then 6 else 0, down := 0, locked := false, retraining := false, blen := false, backAt := none,
           vcomMeas := 0, vcomFault := false, broken := false, blackNow := false, packets := [] }

/-- The discharge step begins. -/
def lanDischarge (ms : Nat) (s : State) : State :=
  s.updLan fun x => { x with state := 5, down := 3, stepEnd := s.tm.mono + ms * 1000000, locked := false, retraining := false }

/-- A normal power-down begins; with no frame being sent it goes at once to the discharge. -/
def lanDown (s : State) : State :=
  let x := s.lan
  if x.state = 0 ∨ x.state = 5 ∨ x.state = 6 then s
  else
    let s := s.updLan fun x => { x with blen := false, backAt := none }
    if (x.state = 3 ∨ x.state = 4) ∧ !x.retraining then s.updLan fun x => { x with state := 5, down := 1 }
    else lanDischarge x.cfg.discharge s

/-- A fast power-down (R390). -/
def lanFast (s : State) : State :=
  let x := s.lan
  if x.state = 0 ∨ x.state = 6 then s
  else
    let running := (decide (x.state = 3) || decide (x.state = 4) || (decide (x.state = 5) && decide (x.down ≤ 2))) && !x.retraining
    lanDischarge 5 (s.updLan fun x => { x with blen := false, backAt := none, lost := if running then inc32 x.lost else x.lost })

/-- The times of Table 17-6 and R390 that have passed. -/
def lanFrame (s : State) : State :=
  let x := s.lan
  if x.state = 1 ∧ x.stepEnd ≤ s.tm.mono then s.updLan fun x => { x with state := 2, vcomMeas := x.cfg.vcom }
  else if x.state = 5 ∧ x.down = 3 ∧ x.stepEnd ≤ s.tm.mono then
    let s := s.updLan fun x => x.off
    if x.again && s.lan.state == 0 && lanMay s then lanUp s else s
  else match x.backAt with
    | some t => if t ≤ s.tm.mono then s.updLan fun x => { x with blen := true, backAt := none } else s
    | none => s

def execPanelPowerUp (s : State) : Out := .next (if lanMay s ∧ s.lan.state = 0 then lanUp s else s)
def execPanelPowerDown (s : State) : Out := .next (if s.pw.dev = .shutdown ∨ !s.flag 0x5C00 1 then lanDown s else s)
def execFastPowerDown (s : State) : Out := .next (lanFast s)

/-- VPNL above 2.5 A for 1 ms; the third fault within 60 s latches (R391). -/
def execVpnlFault (s : State) : Out :=
  .next (if 1 ≤ s.lan.state ∧ s.lan.state ≤ 5 then
    lanFast (s.updLan fun x => { x with
      supplyFault := true, again := false, failAt := s.tm.mono
      faults := s.tm.mono :: x.faults.filter fun t => decide (s.tm.mono < t + 60000000000) })
  else s)

/-- 1 s after a supply or link fault the power-up is retried. -/
def execPanelRetry (s : State) : Out :=
  .next (if lanMay s ∧ s.lan.state = 0 ∧ (s.lan.supplyFault ∨ s.lan.linkFault) ∧ s.lan.failAt + 1000000000 ≤ s.tm.mono then lanUp s else s)

/-! ## The column link (R376, R377) -/

/-- `LOCKN` high for 100 µs, or not high within 50 ms of training. -/
def execLinkTraining (locked : Bool) (s : State) : Out :=
  .next (let x := s.lan
    if !(x.state = 2 ∨ x.retraining) ∨ x.locked then s
    else if locked then s.updLan fun x => { x with locked := true }
    else lanDown (s.updLan fun x => { x with linkFault := true, failAt := s.tm.mono }))

/-- `LOCKN` low for 10 µs in operation. -/
def execLocknLow (s : State) : Out :=
  .next (let x := s.lan
    if (x.state = 3 ∨ x.state = 4 ∨ (x.state = 5 ∧ x.down ≤ 2)) ∧ !x.retraining then
      (let s := s.updLan fun x => { x with retraining := true, locked := false, broken := true, retrains := inc32 x.retrains }
       if x.state = 5 then lanDischarge x.cfg.discharge (s.updLan fun x => { x with lost := inc32 x.lost }) else s)
    else s)

/-- A packet: header of Table 17-2, payload, CRC-16 least significant byte first. -/
def packet (type pat start line frame : Nat) (payload : Bytes) : Bytes :=
  let b := leBytes 4 (type * 2 ^ 30 + pat * 2 ^ 27 + start * 2 ^ 26 + line % 2 ^ 12 * 2 ^ 12 + frame % 2 ^ 12) ++ payload
  b ++ leBytes 2 (crc16 (nats b))

/-- The configuration packet, on every pair. -/
def configPackets (x : Lantern) : List Bytes :=
  List.replicate x.time.drivers (packet 1 0 0 0xFFF x.frameCount (x.cfg.gamma ++ x.cfg.driver))

/-- Targets of a line: the VT pixels, black until the VT server's first swap (Table 17-12), and the overlay over them. -/
def lineTarget (x : Lantern) (pixels : Bytes) : Bytes :=
  if x.swapped then pixels else List.replicate (3 * x.time.width) (byteOf x.cfg.black)

/-- Subpixel column i of line n lies in the overlay. -/
def inCover (x : Lantern) (n i : Nat) : Bool :=
  let o := x.cover
  o.on && decide (o.y ≤ n) && decide (n < o.y + o.h) && decide (o.x ≤ i / 3) && decide (i / 3 < o.x + o.w)

/-- What is sent for subpixel i of line n with previous targets `old`. -/
def sentSub (x : Lantern) (n : Nat) (old : Option Bytes) (i : Nat) (b : Byte) : Byte :=
  if inCover x n i then (rgb (coverPixel x.cover x.frameCount (i / 3 - x.cover.x) (n - x.cover.y))).getD (i % 3) 0#8
  else match old with
    | some l => if x.cfg.overdrive then byteOf (overdrive (x.cfg.od.getD (x.band.getD 0) []) (l.getD i 0#8).toNat b.toNat) else b
    | none => b

/-- The line packets of line n, one for each driver. -/
def linePackets (x : Lantern) (n : Nat) (data : Bytes) : List Bytes :=
  let per := 3 * x.time.width / x.time.drivers
  let pat := if 4 ≤ x.cfg.inversion then 1 else 0
  (List.range x.time.drivers).map fun d =>
    packet 0 pat (b2n (polarity x.cfg.inversion x.frameCount (d * per) n)) n x.frameCount ((data.drop (d * per)).take per)

/-- One active line is sent. -/
def sendLine (n : Nat) (pixels : Bytes) (x : Lantern) : Lantern :=
  let target := if x.blackNow then List.replicate (3 * x.time.width) (byteOf x.cfg.black) else lineTarget x pixels
  let old := (x.prev.find? fun p => p.1 == n).map (·.2)
  let data := if x.blackNow then target else target.mapIdx fun i b => sentSub x n old i b
  { x with packets := linePackets x n data, prev := (n, target) :: x.prev.filter fun p => p.1 != n }

/-- Line packet of line n; `pixels` is that line of the VT front buffer. -/
def execLinePacket (n : Nat) (pixels : Bytes) (s : State) : Out :=
  .next (let x := s.lan
    if (x.state = 3 ∨ x.state = 4 ∨ (x.state = 5 ∧ x.down ≤ 2)) ∧ !x.retraining ∧ 0 < x.frameCount ∧ n < x.time.height ∧
        pixels.length = 3 * x.time.width then s.updLan (sendLine n pixels)
    else s)

/-! ## The vertical blanking (R375, R383, R385–R388) -/

/-- The overlay check of the frame that has ended. -/
def checkFrame (passed : Bool) (expected read : Nat) (s : State) : State :=
  let c := s.lan.check
  if passed then
    s.updLan fun x => { x with check := { c with fails := 0, passes := c.passes + 1, fault := c.fault && decide (c.passes + 1 < 60) } }
  else
    let raise := !c.fault && decide (s.lan.cover.failFrames ≤ c.fails + 1)
    let s := s.updLan fun x => { x with check :=
      { fails := c.fails + 1, passes := 0, failCount := inc32 c.failCount, fault := c.fault || raise } }
    if raise then s.record ⟨0xD001, 0, 3, leBytes 4 expected ++ leBytes 4 read, [], 0xFFFFFFFF, 0xF⟩ else s

/-- Steps 1 to 3 of R375 with the conditions of the overlay. -/
def blankLoad (x : BlankIn) (s : State) : State :=
  let cfg := lanLoad s
  let shown := coverShown s
  s.updLan fun y => { y with
    temp := x.temp.getD y.temp
    ptempFault := x.temp.isNone
    band := match x.temp with | some t => some (bandNext y.cfg.bands t y.band) | none => some y.cfg.faultBand
    front := if y.swap then !y.front else y.front
    swapped := y.swapped || y.swap
    swap := false
    prev := if cfg.overdrive && !y.cfg.overdrive then [] else y.prev
    vcomMeas := if y.vcomFault then y.vcomMeas else cfg.vcom
    cfg := cfg
    cover := { y.cover with shown := shown } }

/-- The frame that the blanking opens: its count and stamp, the configuration packet, and the step of Table 17-6. -/
def openFrame (stamp mono : Nat) (y : Lantern) : Lantern :=
  let black := y.state == 3 || y.down == 2
  let z := { y with frameCount := (y.frameCount + 1) % 2 ^ 32, frameStamp := stamp + blankNs y.time, broken := false, blackNow := black }
  let z := if y.state = 4 ∧ !y.blen ∧ y.blackNow ∧ y.backAt.isNone then { z with backAt := some (mono + blankNs y.time + y.cfg.backDelay * 1000000) } else z
  { z with packets := configPackets z }

/-- The panel's state after the frame that has ended: black frames count, a retrained link resumes, a power-down goes on. -/
def endFrame (whole : Bool) (y : Lantern) : Lantern :=
  let y := if whole ∨ y.frameCount = 0 then y else { y with lost := inc32 y.lost }
  let y := if y.retraining ∧ y.locked then { y with retraining := false } else y
  if y.state = 2 ∧ y.locked then { y with state := 3, blackDone := 0 }
  else if y.state = 3 ∧ whole ∧ 0 < y.frameCount then
    (if y.cfg.blackFrames ≤ y.blackDone + 1 then { y with state := 4, blackDone := 0 } else { y with blackDone := y.blackDone + 1 })
  else if y.state = 5 ∧ y.down = 1 then { y with down := 2 }
  else y

/-- The vertical blanking: the check of the frame that ended, then R375. -/
def blanking (x : BlankIn) (s : State) : State :=
  let y := s.lan
  let whole := x.whole && !y.broken && !y.retraining
  let s := if y.state = 4 ∧ y.cover.on ∧ !y.blackNow then
      let e := coverCrc y.cover y.frameCount
      checkFrame (whole && x.crcRead == e) e x.crcRead s
    else s
  if y.state = 5 ∧ y.down = 2 then lanDischarge y.cfg.discharge (s.updLan fun z => if whole then z else { z with lost := inc32 z.lost })
  else
    let s := s.updLan (endFrame whole)
    let s := blankLoad x s
    if s.lan.retraining then s.updLan fun z => { z with frameCount := (z.frameCount + 1) % 2 ^ 32, frameStamp := x.stamp + blankNs z.time }
    else s.updLan (openFrame x.stamp s.tm.mono)

def execVerticalBlanking (x : BlankIn) (s : State) : Out :=
  .next (let y := s.lan
    if (y.state = 2 ∧ y.locked) ∨ y.state = 3 ∨ y.state = 4 ∨ (y.state = 5 ∧ y.down ≤ 2) then blanking x s else s)

/-- The VT server has drawn its back buffer (R385). -/
def execVtSwapRequest (s : State) : Out := .next (if s.reachable then s.updLan fun x => { x with swap := true } else s)

/-- R381; the voltage read during a fault is a free value. -/
def execVcomFault (set : Bool) (s : State) : Out :=
  .next (let x := s.lan
    if x.state < 2 ∨ x.state = 6 ∨ x.vcomFault = set then s
    else if set then (let p := s.freeInt; p.2.updLan fun x => { x with vcomFault := true, vcomMeas := (p.1 % 65536).toNat })
    else s.updLan fun x => { x with vcomFault := false, vcomMeas := x.cfg.vcom })

/-! ## Objects (R392) -/

/-- Codes fall strictly, bits [15:10] 0 (R380). -/
def gammaFits (b : Bytes) : Bool :=
  let c := (List.range 14).map fun k => fieldLe b (2 * k) 2
  c.all (fun v => decide (v < 1024)) && (List.range 13).all fun k => decide (c.getD (k + 1) 0 < c.getD k 0)

/-- Strictly ascending thresholds. -/
def bandsFit (b : Bytes) : Bool :=
  let l := signedBytes b
  decide (l.getD 0 0 < l.getD 1 0) && decide (l.getD 1 0 < l.getD 2 0)

/-- Writes to 0x5C00–0x5C40. -/
def lanWrite (w : Ctx) (i sub : Nat) (v : Val) (s : State) : Except Nat State :=
  checked w i sub v s fun s =>
    let t := s.put i sub v
    if i = 0x5C00 then
      if sub = 1 then
        if valNum v = 1 then
          .ok (if s.flag 0x5C00 1 then t
               else if t.lan.state = 5 then t.updLan fun x => { x with again := true }
               else if lanMay t ∧ t.lan.state = 0 then lanUp t else t)
        else .ok (lanDown (t.updLan fun x => { x with again := false }))
      else if sub = 0x17 then
        .ok (s.updLan fun x => if x.state = 6 then { x with state := 0, faults := [] } else x)
      else if 2 ≤ sub ∧ sub ≤ 8 then
        if (sub ≤ 7 ∧ !timingFits (lanTime t)) ∨ ((sub = 2 ∨ sub = 7 ∨ sub = 8) ∧ !linkFits (lanTime t)) then .error Abort.range
        else if s.pw.dev ≠ .service ∧ s.lan.state ≠ 0 then .error Abort.state
        else .ok t
      else if (sub = 0xB ∧ !bandsFit (valRaw v)) ∨ (sub = 0xD ∧ !gammaFits (valRaw v)) then .error Abort.range
      else .ok t
    else if 0x5C10 ≤ i ∧ i < 0x5C18 ∧ !gateFits t i then .error Abort.range
    else if i = 0x5C40 ∧ ((2 ≤ sub ∧ sub ≤ 5) ∨ sub = 9) ∧ !(coverFits t && slotsFit (t.raw 0x5C40 9)) then .error Abort.range
    else .ok t

def execPanelCommand (sess : Nat) (v : Int) (s : State) : Out := s.asSession sess 0x5C00 fun w => lanWrite w 0x5C00 0x17 (.int v)
def execPanelEnableWrite (sess : Nat) (v : Int) (s : State) : Out := s.asSession sess 0x5C00 fun w => lanWrite w 0x5C00 1 (.int v)

/-- LanternFlags (Table 17-9). -/
def lanternFlags (x : Lantern) : Nat :=
  b2n (x.state == 4) + 2 * b2n (x.blen && !x.check.fault) + 4 * b2n x.retraining + 8 * b2n x.linkFault + 16 * b2n x.supplyFault +
    32 * b2n x.vcomFault + 64 * b2n x.ptempFault + 128 * b2n x.check.fault + 256 * b2n x.check.fault

/-- Values of 0x5C01. -/
def lanRead (s : State) (sub : Nat) : Option Val :=
  let x := s.lan
  match sub with
  | 1 => some (.int x.state) | 2 => some (.int (lanternFlags x)) | 3 => some (.int x.frameCount) | 4 => some (.int x.frameStamp)
  | 5 => some (.int x.temp) | 6 => some (.int (x.band.getD 0)) | 7 => some (.int x.vcomMeas) | 8 => some (.int x.retrains)
  | 9 => some (.int x.lost) | 0xA => some (.int x.check.failCount)
  | _ => none

/-- Entry to Start: counters at 0, the overlay loaded, the panel powered up (R389, R392). -/
def lanStart (s : State) : State :=
  let o := lanOver s
  let s := { s with lan := { cover := o } }
  if lanMay s then lanUp s else s

/-- The panel is off when the module leaves the states that power it. -/
def lanOff (s : State) : State := s.updLan fun x => { x.off with state := 0, again := false, swap := false }

end Sys2Proof.Machine
end

