-- ==== Sys2Proof/Machine/Sky.lean ====
section
/-! DEFINITION. Skylight satellite navigation (chapter 12): antennas, search, tracking, solutions, corrections, aiding, holdover and return,
PPS and the time message. The measurements and the solve are inputs (log 12); the checks and their effects are here. -/

namespace Sys2Proof.Machine

/-- Skylight runs in Start, Run and Service (R294, Table 12-11). -/
def State.skyRuns (s : State) : Bool := s.pw.dev = .start || s.pw.dev = .run || s.pw.dev = .service

/-- Skylight's flag bits (Table 12-9). -/
abbrev skyValid : Nat := 0
abbrev skyHeadingValid : Nat := 5
abbrev skyHeadingBad : Nat := 6
abbrev skyClockBad : Nat := 7
abbrev skyBaseChanged : Nat := 11
abbrev skyStale : Nat := 12
abbrev skyRange : Nat := 13
abbrev skyAidBad : Nat := 14
abbrev skyAided : Nat := 15

/-- Set or clear a bit of SkyFlags. -/
def Sky.flag (k : Sky) (i : Nat) (b : Bool) : Sky := { k with flags := setBit k.flags i b }

/-! ## Antennas, search and tracking -/

/-- R274: an open feed sets ANTn_OPEN; a short folds the feed back and sets ANTn_SHORT. -/
def execAntennaFeedFault (a : Nat) (short : Bool) (s : State) : Out :=
  withUnit (decide (a < 2))
    (if s.skyRuns && (s.nat 0x5000 4).testBit a then
      if short then
        (s.updSky fun k => k.flag (2 + 2 * a) true).updSkyio fun o => { o with foldedAnt := a :: o.foldedAnt.filter (· ≠ a) }
      else s.updSky fun k => k.flag (1 + 2 * a) true
    else s)

/-- R274: the folded-back feed retries; when the current is in range its flag clears (log 13). -/
def execAntennaFeedRetry (a : Nat) (ok : Bool) (s : State) : Out :=
  withUnit (decide (a < 2))
    (if s.skyio.foldedAnt.contains a && ok then
      (s.updSky fun k => k.flag (2 + 2 * a) false).updSkyio fun o => { o with foldedAnt := o.foldedAnt.filter (· ≠ a) }
    else s)

/-- Signals that are searched (Table 12-1). -/
def acquisition (sig : Nat) : Bool := sig == 0 || sig == 4 || sig == 7 || sig == 10 || sig == 12

/-- The acquisition signal a signal is handed over from (Table 12-1). -/
def handOverFrom (sig : Nat) : Nat := if sig < 4 then 0 else if sig < 7 then 4 else if sig < 10 then 7 else if sig < 12 then 10 else 12

/-- Span of a block in Hz (Table 12-2). -/
def blockSpan (sig : Nat) : Nat := if sig = 4 then 1000 else if sig = 7 then 8000 else if sig = 10 then 32000 else 16000

/-- Half of the Doppler window in Hz: hot, warm or cold (R277). -/
def halfWindow (k : Sky) : Nat :=
  let t := match k.knownTime with | some (_, u) => u | none => 1000000000
  let p := match k.knownPos with | some (_, _, u) => u | none => 1000000000
  if k.ephemeris ∧ t ≤ 10 ∧ p ≤ 1000 then 250 else if k.almanac ∧ t ≤ 2000 ∧ p ≤ 100000 then 1000 else 8000

/-- Blocks of a satellite's window. -/
def windowBlocks (k : Sky) (sig : Nat) : Nat := (2 * halfWindow k + blockSpan sig - 1) / blockSpan sig

/-- First idle channel. -/
def freeChannel (l : List Chan) : Option Nat := l.findIdx? fun c => c.state == 0

/-- Blocks of a satellite done so far. -/
def blocksDone (l : List (Nat × Nat × Nat)) (sv sig : Nat) : Nat :=
  match l.find? fun e => e.1 == sv && e.2.1 == sig with
  | some e => e.2.2
  | none => 0

/-- R276–R278: a block ends its dwell; `peak` is its peak above its noise floor in 0.1 dB. At 14.0 dB the cell goes to a free
channel; otherwise the search moves on, and after the window's last block the satellite is marked not found. -/
def execSearchBlock (svid sig : Nat) (peak : Int) (s : State) : Out :=
  withUnit (acquisition sig)
    (if s.skyRuns && (s.nat 0x5000 1).testBit sig then
      s.updSky fun k =>
        let rest := k.search.filter fun e => !(e.1 == svid && e.2.1 == sig)
        match freeChannel k.channels with
        | none => k
        | some ch =>
          if 140 ≤ peak then
            { k with channels := updAt k.channels ch fun _ => { svid := svid, signal := sig, state := 1 }, search := rest,
                     notFound := k.notFound.filter (· ≠ (svid, sig)), skips := k.skips.filter (· ≠ (svid, sig)) }
          else
            let n := blocksDone k.search svid sig + 1
            if windowBlocks k sig ≤ n then
              { k with search := rest, notFound := (svid, sig) :: k.notFound.filter (· ≠ (svid, sig)) }
            else { k with search := (svid, sig, n) :: rest }
    else s)

/-- R278: the channel reaches code lock within 100 ms, or is released and its cell skipped on the satellite's next pass. -/
def execDetectionVerify (ch : Nat) (locked : Bool) (s : State) : Out :=
  withUnit (decide (ch < 384))
    (s.updSky fun k =>
      let c := k.channels.getD ch {}
      if c.state ≠ 1 then k
      else if locked then
        { k with channels := updAt k.channels ch fun c => { c with state := 3 }, state := if k.state = 1 then 2 else k.state }
      else { k with channels := updAt k.channels ch fun _ => {}, skips := (c.svid, c.signal) :: k.skips })

/-- Whether a channel still qualifies under the masks (R281); a constellation with no acquisition signal is disabled (R275). -/
def qualifies (s : State) (view : List SatView) (c : Chan) : Bool :=
  (s.nat 0x5000 1).testBit c.signal && (s.nat 0x5000 1).testBit (handOverFrom c.signal) && (c.antenna == 0 || decide (s.nat 0x5000 6 > 0)) &&
  (match view.find? fun v => v.svid == c.svid && v.signals.any (fun g => handOverFrom g.1 == handOverFrom c.signal) with
   | some v => decide (s.int 0x5000 2 ≤ v.elevation)
   | none => true) &&
  (match c.lowSince with
   | some t => decide (s.tm.mono < t + 1000000000)
   | none => true)

/-- A channel's measured values from the view. -/
def measure (s : State) (view : List SatView) (c : Chan) : Chan :=
  match view.find? fun v => v.svid == c.svid && v.signals.any (fun g => g.1 == c.signal) with
  | some v =>
    let cno := (v.signals.find? fun g => g.1 == c.signal).elim 0 (·.2)
    { c with cno := cno, elevation := v.elevation, azimuth := v.azimuth,
             lowSince := if cno < s.nat 0x5000 3 then some (c.lowSince.getD s.tm.mono) else none }
  | none => c

/-- Put a signal on the first idle channel unless it has one. -/
def assign (l : List Chan) (svid sig ant st : Nat) : List Chan :=
  if l.any fun c => c.state != 0 && c.svid == svid && c.signal == sig && c.antenna == ant then l
  else match freeChannel l with
    | some ch => updAt l ch fun _ => { svid := svid, signal := sig, antenna := ant, state := st }
    | none => l

/-- R281: unqualified channels are released; free channels go to acquisition signals on ANT1, then hand-over signals of tracked
satellites on ANT1, then, with a baseline set, to the same signals on ANT2. -/
def execChannelAllocation (view : List SatView) (s : State) : Out :=
  .next <| if s.skyRuns then
    s.updSky fun k =>
      let kept := k.channels.map fun c =>
        if c.state = 0 then c else let c := measure s view c; if qualifies s view c then c else {}
      let mask := s.nat 0x5000 1
      let up := view.filter fun v => decide (s.int 0x5000 2 ≤ v.elevation)
      let acq := up.foldl (fun l v => v.signals.foldl (fun l g =>
        if acquisition g.1 && mask.testBit g.1 then assign l v.svid g.1 0 1 else l) l) kept
      let hand := up.foldl (fun l v => v.signals.foldl (fun l g =>
        if !acquisition g.1 && mask.testBit g.1 &&
            l.any (fun c => decide (3 ≤ c.state) && c.svid == v.svid && c.signal == handOverFrom g.1 && c.antenna == 0)
        then assign l v.svid g.1 0 2 else l) l) acq
      let all := if s.nat 0x5000 6 > 0 then
          hand.foldl (fun l c => if decide (3 ≤ c.state) && c.antenna == 0 then assign l c.svid c.signal 1 2 else l) hand
        else hand
      { k with channels := all.map (measure s view) }
  else s

/-- R282: after a slip the carrier phase is not used until it has held carrier lock for 1 s. -/
def execCycleSlip (ch : Nat) (s : State) : Out :=
  withUnit (decide (ch < 384))
    (s.updSky fun k => { k with channels := updAt k.channels ch fun c =>
      if c.state = 4 then { c with state := 3, lockTime := 0, slipped := true } else c })

/-- Channels after one more epoch: pull-in becomes code lock and code lock carrier lock (log 14); a slip ends after 1 s of carrier lock. -/
def epochChannels (l : List Chan) : List Chan :=
  l.map fun c => match c.state with
    | 2 => { c with state := 3 }
    | 3 => { c with state := 4, lockTime := 0 }
    | 4 | 5 => { c with state := 4, lockTime := c.lockTime + 1, slipped := c.slipped && decide (c.lockTime + 1 < 20) }
    | _ => c

/-- The constellations barred at MonotonicNs `mono`: each of `jump` from now on for 60 s (R287). -/
def barredAfter (mono : Nat) (jump : List Nat) (l : List (Nat × Nat)) : List (Nat × Nat) :=
  jump.map (·, mono + 60000000000) ++ l.filter fun e => decide (mono < e.2) && !jump.contains e.1

/-- A locked channel whose measurement this epoch excludes, itself or with its constellation, is in state 5 (R287, Table 12-4). -/
def exclude (excluded : List (Nat × Nat)) (barred : List (Nat × Nat)) (c : Chan) : Chan :=
  if decide (3 ≤ c.state) && (excluded.contains (c.svid, c.signal) || barred.any fun e => e.1 == handOverFrom c.signal) then
    { c with state := 5 } else c

/-! ## Uncertainty, holdover and return -/

/-- Rational ceiling as a natural number. -/
def ceilNat (q : Rat) : Nat := (-((-q).floor)).toNat

/-- u(t) of R292 in ns at machine time `now`. -/
def holdoverUnc (s : State) : Nat :=
  let t : Rat := ((s.tm.now - s.sky.holdAt : Nat) : Rat) / 1000000000
  let f : Rat := (s.nat 0x5000 0x13 : Rat) / 100
  let dT : Rat := ((s.sky.temp - s.sky.t0).natAbs : Rat) / 10
  ceilNat ((s.sky.u0 : Rat) + f * t + (1 / 2) * (1 / 86400) * t * t + (1 / 2) * dT * t)

/-- UNCERTAINTY (0x5001.0C), none for unbounded: the network client's while locked, u(t) in holdover, otherwise that of the last valid
epoch (R290, R292, 13 R306). -/
def State.uncertainty (s : State) : Option Nat :=
  if s.net.clientLocked then some s.net.clientUnc
  else if s.sky.status = 2 then some (holdoverUnc s)
  else s.sky.unc

/-- An offset rounded to whole 4 ns ticks (13 R302). -/
def wholeTicks (d : Int) : Int := 4 * divRound d 4

/-- Entry to holdover at machine time `at` (R291, R293): the slew stops and what remains of it is added to u0. -/
def enterHoldover (s : State) (at_ : Nat) : State :=
  let u := (s.uncertainty.getD 0) + s.tm.slew.natAbs
  (s.updSky fun k => { k with status := 2, fix := 5, holdAt := at_, u0 := u, t0 := k.temp }).updTm fun t =>
    { t with source := 3, slew := 0, slewAcc := 0 }

/-- The network client's role ends because GNSS takes over (13 R307). -/
def endClient (n : Net) : Net :=
  { n with lockRun := 0, clientLocked := false, stepRefused := false, freqHeld := false, refused := [], refusedStep := 0, goodRun := 0,
           ptp := n.ptp.map fun p => if p.state = 4 then { p with state := 5, foreignGm := true } else p }

/-- The whole second after time t. -/
def nextSecond (t : Int) : Int := (t / 1000000000 + 1) * 1000000000

/-- Machine time of the next whole second of a time that is d ahead of machine time (R291, R293). -/
def secondAhead (now : Nat) (d : Int) : Nat := (nextSecond ((now : Int) + d) - d).toNat

/-- R293: holdover is left with offset Δ. -/
def leaveHoldover (s : State) (d : Int) : State :=
  let s := (s.record ⟨0x9002, 0, 0x0B, leBytes 8 (ofSigned 8 d), [], 0xFFFFFFFF, 0xF⟩).updNet endClient
  let s := s.updSky fun k => { k with lastOffset := d }
  if d.natAbs < 4 then (s.updSky fun k => { k with status := 1 }).updTm fun t => { t with source := 1 }
  else if d.natAbs ≤ 1000000 then
    (s.updSky fun k => { k with status := 3 }).updTm fun t => { t with source := 1, slew := d, slewAcc := 0 }
  else s.updTm fun t => { t with source := 1, step := some d, stepCause := 1, stepAt := secondAhead s.tm.now d }

/-- Age of corrections in 0.1 s at an epoch; 0xFFFF when there are none. -/
def corrAgeAt (s : State) (epoch : Nat) : Nat :=
  match s.skyio.corrStamp with
  | some t => min ((epoch - t) / 100000000) 0xFFFE
  | none => 0xFFFF

/-- Fix type of an epoch (R284). -/
def fixOf (s : State) (x : Solution) (age : Nat) : Nat :=
  let usable := s.skyio.base.isSome && decide (age ≠ 0xFFFF)
  if usable && decide (age ≤ 10 * s.nat 0x5000 0xA) && decide (x.baseRange ≤ 1000 * s.nat 0x5000 0xC) then
    if s.nat 0x5000 0xD ≤ x.ratio then 4 else 3
  else if usable && decide (age ≤ 10 * s.nat 0x5000 0xB) then 2
  else 1

/-- The clock check of Table 12-6: the offset lies within ClockJumpLimit + TimeUncertainty of the value predicted from machine time. -/
def clockPasses (s : State) (offset : Int) : Bool :=
  match s.uncertainty with
  | none => true
  | some u => decide ((offset - s.tm.slew).natAbs ≤ s.nat 0x5000 0xE + u)

/-- The UTC parameters of the navigation message, once it has been read (Table 12-7). -/
def takeUtc (u : Option UtcInfo) (s : State) : State :=
  match u with
  | some u => s.updTm fun t => { t with utcOffset := u.offset, utcValid := true, leapPending := u.pending, leapNegative := u.negative }
  | none => s

/-- Whether the dual-antenna heading is valid (R286). -/
def dualHeadingOk (s : State) (x : Solution) : Bool :=
  decide (s.nat 0x5000 6 > 0) && x.headingValid && !x.headingInconsistent &&
    decide (((x.baseline : Int) - s.nat 0x5000 6).natAbs ≤ s.nat 0x5000 8)

/-- The solution as it is reported: the phase centre moved down by Ant1PcoUp (R274), the azimuth less AntBaselineAz (R286). -/
def poseOf (s : State) (x : Solution) : Pose :=
  ⟨x.epoch, x.lat, x.lon, x.height - s.int 0x5000 5, x.velN, x.velE, x.velU, x.speed,
   (((x.heading : Int) - s.nat 0x5000 7) % 36000).toNat, x.tilt, x.accuracy, x.sats⟩

/-- A valid epoch: pose, fix, flags, uncertainty, the discipline servo and, after 20 of them, the return from holdover
(R283–R287, R290, R291). -/
def validEpoch (s : State) (x : Solution) : State :=
  let age := corrAgeAt s x.epoch
  let fix := fixOf s x age
  let (fr, s) := s.freeInt
  let s := s.updSky fun k =>
    let k := ((k.flag skyValid true).flag skyClockBad false).flag skyHeadingValid (dualHeadingOk s x)
    let k := (k.flag skyStale (decide (age ≠ 0xFFFF) && decide (10 * s.nat 0x5000 0xA < age))).flag skyRange
      (decide (1000 * s.nat 0x5000 0xC < x.baseRange))
    { k with state := 3, pose := poseOf s x,
             fix := if k.status = 2 then 5 else fix, validRun := k.validRun + 1, corrAge := age,
             ambiguities := decide (fix = 4), almanac := true, ephemeris := true,
             knownPos := some (x.lat, x.lon, x.accuracy / 1000), temp := x.tempC,
             unc := if k.status = 1 ∨ k.status = 2 then some (x.timeSpread + 4)
                    else if k.status = 3 then some (x.timeSpread + 4 + s.tm.slew.natAbs) else k.unc }
  let s := if s.sky.status = 1 then s.updTm fun t => { t with freqCorr := clampI (-200000) 200000 fr } else s
  let s := takeUtc x.utc s
  if s.sky.status = 2 ∧ 20 ≤ s.sky.validRun ∧ s.tm.step.isNone then
    let s := leaveHoldover s x.offset
    if s.sky.status ≠ 2 then
      s.updSky fun k => { k with fix := fix, unc := some (x.timeSpread + 4 + s.tm.slew.natAbs) }
    else s
  else s

/-- An epoch without a valid solution (R287, R291): from locked or returning Skylight enters holdover. -/
def invalidEpoch (s : State) (x : Solution) : State :=
  let s := s.updSky fun k =>
    { (k.flag skyValid false).flag skyHeadingValid false with
      validRun := 0, temp := x.tempC, state := if k.channels.any (fun c => decide (3 ≤ c.state)) then 2 else 1,
      fix := if k.status = 0 then 0 else k.fix }
  if s.sky.status = 1 ∨ s.sky.status = 3 then
    (enterHoldover s x.epoch).record ⟨0x9001, 0, 0x0B, [], [], 0xFFFFFFFF, 0xF⟩
  else s

/-- R283–R287, R291: the solution of one epoch is checked, delivered and fed to the discipline servo. `x.valid` says that the signal
checks passed, of which more than 4 exclusions are a failure whatever it says; the clock check is made here. -/
def epochStep (x : Solution) (s : State) : State :=
  let s := s.updSky fun k =>
    let k := (k.flag 8 (x.jammed.testBit 0)).flag 9 (x.jammed.testBit 1)
    let k := (k.flag 10 (x.jammed.testBit 2)).flag skyHeadingBad x.headingInconsistent
    let k := k.flag skyBaseChanged (match s.skyio.baseChangedAt with
      | some t => decide (x.epoch < t + 10000000000)
      | none => false)
    let bar := barredAfter s.tm.mono x.biasJump k.barred
    let l := (epochChannels k.channels).map (exclude x.excluded bar)
    { k with channels := l, barred := bar, snap := l }
  if !x.valid || decide (4 < x.excluded.length) then invalidEpoch s x
  else if !clockPasses s x.offset then invalidEpoch (s.updSky fun k => k.flag skyClockBad true) x
  else validEpoch s x

/-- R291, 13 R297: after the first valid solution machine time is set once, at the next whole second of GNSS time, by a step, and
TimeStatus becomes locked. -/
def execFirstFixTimeSet (gnssTime : Nat) (s : State) : Out :=
  .next <| if s.skyRuns && decide (s.sky.status = 0) && s.sky.flags.testBit skyValid && s.tm.step.isNone then
    let d := wholeTicks ((gnssTime : Int) - s.tm.now)
    ((s.updSky fun k => { k with status := 1, fix := if k.fix = 5 then 1 else k.fix }).updNet endClient).updTm fun t =>
      { t with source := 1, step := if d = 0 then none else some d, stepCause := 0, stepAt := secondAhead s.tm.now d }
  else s

/-- R293: the slew has removed the offset, to less than one tick; returning becomes locked. -/
def execSlewEnd (s : State) : Out :=
  .next <| if s.tm.slew.natAbs < 4 then
    (s.updTm fun t => { t with slew := 0, slewAcc := 0 }).updSky fun k => { k with status := if k.status = 3 then 1 else k.status }
  else s

/-- R294: at entry to Shutdown tracking stops; locked and returning become holdover without a record. -/
def execSkylightStop (s : State) : Out :=
  .next <| if s.pw.dev = .shutdown ∧ s.sky.state ≠ 0 then
    let s := if s.sky.status = 1 ∨ s.sky.status = 3 then enterHoldover s s.tm.now else s
    s.updSky fun k =>
      { (k.flag skyValid false).flag skyHeadingValid false with
        state := 0, validRun := 0, channels := List.replicate 384 {}, search := [], notFound := []
        store := ⟨k.almanac, k.ephemeris, k.knownPos, if s.tm.utcValid then some s.tm.utcOffset else none,
                  if k.flags.testBit skyValid then some s.tm.now else k.store.fixAt⟩ }
  else s

/-- What Skylight takes from eMMC at Start (R277). -/
def SkyStore.load (m : SkyStore) : Sky := { almanac := m.almanac, ephemeris := m.ephemeris, knownPos := m.pos, store := m }

/-- Time knowledge at Start: UTC in s from Belay's clock, within 20 ppm of the time since the last Shutdown with a fix, in ms rounded up
(R277). -/
def rtcKnown (s : State) : Option (Nat × Nat) :=
  match s.sky.store.fixAt with
  | some t =>
    if s.belay.rtcValid then
      some (((s.tm.now / 1000000000 : Nat) - s.tm.utcOffset).toNat, ((s.tm.now - t) * 20 + 999999999999) / 1000000000000)
    else none
  | none => none

/-! ## Corrections and aiding -/

/-- n bits of a big-endian byte string from bit position p. -/
def beBits (b : Bytes) (p n : Nat) : Nat := beNat b / 2 ^ (8 * b.length - p - n) % 2 ^ n

/-- The same, signed. -/
def beBitsInt (b : Bytes) (p n : Nat) : Int :=
  let v := beBits b p n
  if v < 2 ^ (n - 1) then v else (v : Int) - 2 ^ n

/-- A well-framed RTCM 3 frame: preamble, length and CRC-24Q (R285). -/
def rtcmOk (f : Bytes) : Bool :=
  decide (6 ≤ f.length) && beNat (f.take 1) == 0xD3 && decide (f.length = 6 + beNat ((f.drop 1).take 2) % 1024) &&
    crc24q (nats (f.take (f.length - 3))) == beNat (f.drop (f.length - 3))

/-- Antenna reference point of message 1005 or 1006 in 0.1 mm, at the bit places of RTCM 10403 (log 15). -/
def basePoint (p : Bytes) : Int × Int × Int := (beBitsInt p 34 38, beBitsInt p 74 38, beBitsInt p 114 38)

/-- Whether two base points differ by more than 0.5 m. -/
def baseMoved (a b : Int × Int × Int) : Bool :=
  decide ((a.1 - b.1) ^ 2 + (a.2.1 - b.2.1) ^ 2 + (a.2.2 - b.2.2) ^ 2 > 5000 ^ 2)

/-- A correction message's effect (Table 12-5, R284). -/
def rtcmApply (s : State) (p : Bytes) : State :=
  let m := beBits p 0 12
  if m = 1005 ∨ m = 1006 then
    let b := basePoint p
    let moved := match s.skyio.base with
      | some old => baseMoved old b
      | none => false
    let s := s.updSkyio fun o => { o with base := some b, baseChangedAt := if moved then some s.tm.now else o.baseChangedAt }
    if moved then s.updSky fun k => { k.flag skyBaseChanged true with ambiguities := false } else s
  else if m = 1033 then s.updSkyio fun o => { o with descriptor := p }
  else if m = 1230 then s.updSkyio fun o => { o with glonassBias := p }
  else if [1077, 1087, 1097, 1117, 1127].contains m then
    s.updSkyio fun o =>
      { o with
        lastMsm7 := (m / 10, beBits p 24 30) :: o.lastMsm7.filter (fun e => e.1 ≠ m / 10)
        corrStamp := some s.tm.now }
  else if [1074, 1084, 1094, 1114, 1124].contains m then
    if s.skyio.lastMsm7.contains (m / 10, beBits p 24 30) then s
    else s.updSkyio fun o => { o with corrStamp := some s.tm.now }
  else s.updSkyio fun o => { o with rtcmIgnored := inc32 o.rtcmIgnored }

/-- R285: a frame from the selected source is checked and handled; a failing CRC counts in RtcmErrors. -/
def rtcmStep (fromFleet : Bool) (f : Bytes) (s : State) : State :=
  if s.skyRuns && decide (s.nat 0x5000 9 = if fromFleet then 1 else 2) then
    if rtcmOk f then rtcmApply s ((f.drop 3).take (f.length - 6))
    else s.updSkyio fun o => { o with rtcmErrors := inc32 o.rtcmErrors }
  else s

def execRtcmFrame (fromFleet : Bool) (frame : Bytes) (s : State) : Out := .next (rtcmStep fromFleet frame s)

/-- Plane distance in mm between two positions (log 7). -/
def geoDist (lat0 lon0 lat1 lon1 : Int) : Nat :=
  let d := Config.geoOffset lat0 lon0 lat1 lon1
  isqrt (d.1 ^ 2 + d.2 ^ 2).toNat

/-- R279, R280: a set of three aiding frames. -/
def execAidingSet (f0 f1 f2 : Bytes) (t0 t1 t2 : Nat) (s : State) : Out :=
  .next <| if !(s.skyRuns && s.flag 0x5000 0x14) then s else
    let s := s.updSkyio fun o => { o with aid := [] }
    let reject := s.updSkyio fun o => { o with aidRejected := inc32 o.aidRejected }
    if !(f0.length == 8 && f1.length == 8 && f2.length == 8 && decide (t0 ≤ t1) && decide (t1 ≤ t2) &&
        decide (t2 ≤ t0 + 100000000) && fieldLe f0 0 1 == fieldLe f2 0 1) then reject
    else
      let unc := bits (fieldLe f0 0 4) 8 14
      let ms := bits (fieldLe f0 0 4) 22 10
      let utc := fieldLe f0 4 4
      let lat := fieldInt f1 4 4
      let lon := fieldInt f1 0 4
      let pu := fieldLe f2 4 2
      let hd := fieldLe f2 2 2
      if s.sky.flags.testBit skyValid then
        let tai : Int := ((utc : Int) + s.tm.utcOffset) * 1000 + ms
        let dt := (tai - (s.tm.now / 1000000 : Nat)).natAbs
        let bad := (decide (pu ≠ 65535) && decide (geoDist s.sky.pose.lat s.sky.pose.lon lat lon > pu * 1000 + 1000000)) ||
          (decide (unc ≠ 16383) && decide (dt > unc + 1000))
        if bad then reject.updSky fun k => k.flag skyAidBad true
        else (s.updSky fun k => k.flag skyAidBad false).updSkyio fun o => { o with aidCount := inc32 o.aidCount }
      else
        let tOld := match s.sky.knownTime with | some (_, u) => u | none => 16383
        let pOld := match s.sky.knownPos with | some (_, _, u) => u | none => 65535
        (s.updSky fun k => { k.flag skyAided (k.flags.testBit skyAided || decide (unc < tOld) || decide (pu < pOld)) with
          knownTime := if unc < tOld then some (utc, unc) else k.knownTime,
          knownPos := if pu < pOld then some (lat, lon, pu) else k.knownPos }).updSkyio fun o =>
            { o with aidCount := inc32 o.aidCount, aidHeading := if hd = 0xFFFF then o.aidHeading else some hd }

/-! ## PPS and the time message -/

/-- Whether an edge is emitted (R288). -/
def ppsEmits (s : State) : Bool :=
  let m := s.nat 0x5000 0xF
  s.skyRuns && (m == 2 || (m == 1 && decide (s.sky.status ≠ 0)))

/-- R288, R289: an edge at a whole second of TAI with its placement error in ps. -/
def execPpsEdge (second : Nat) (qerr : Int) (s : State) : Out :=
  withUnit (second % 1000000000 == 0 && decide (-2000 ≤ qerr) && decide (qerr ≤ 2000))
    (if ppsEmits s then
      s.updSkyio fun o => { o with edgeTime := some second, qerr := qerr, stepped := o.stepSince, stepSince := false }
    else s)

/-- HoldoverAge in s. -/
def State.holdoverAge (s : State) : Nat := if s.sky.status = 2 then (s.tm.now - s.sky.holdAt) / 1000000000 else 0

/-- The first 30 bytes of the time message for an edge (Table 12-7). -/
def timeBody (s : State) (edge : Nat) : Bytes :=
  let fl := b2n s.tm.utcValid + 2 * b2n (decide (s.tm.slew ≠ 0)) + 4 * b2n s.skyio.stepped + 8 * b2n s.tm.leapPending +
    16 * b2n s.tm.leapNegative
  leBytes 2 0x484C ++ leBytes 1 1 ++ leBytes 1 s.sky.status ++ leBytes 1 fl ++ leBytes 1 s.sky.fix ++ leBytes 2 s.skyio.msgSeq ++
    leBytes 8 edge ++ leInt 2 s.tm.utcOffset ++ leInt 2 s.skyio.qerr ++ leBytes 4 (s.uncertainty.getD 0xFFFFFFFF) ++
    leInt 2 (clampI (-32768) 32767 s.tm.freqCorr) ++ leBytes 2 (min s.holdoverAge 65535) ++ leBytes 1 s.sky.pose.sats ++ leBytes 1 0

/-- R290: the message that labels the last edge. -/
def execTimeMessage (s : State) : Out :=
  .next <| match s.skyio.edgeTime with
    | none => s
    | some e =>
      let b := timeBody s e
      s.updSkyio fun o => { o with message := b ++ leBytes 2 (crc16 (nats b)), msgSeq := (o.msgSeq + 1) % 65536, edgeTime := none }

/-! ## Objects -/

/-- R277: SkyCommand 0x01 discards what is stored and searches cold; 0x02 drops the RTK ambiguities. -/
def skyCommand (v : Int) (s : State) : State :=
  if v = 1 then s.updSky fun k =>
    { k with almanac := false, ephemeris := false, knownTime := none, knownPos := none, search := [], notFound := [], skips := [],
             store := { k.store with almanac := false, ephemeris := false, pos := none } }
  else s.updSky fun k => { k with ambiguities := false }

/-- Writes to 0x5000 and 0x5002 (R295). -/
def skyWrite (c : Ctx) (i sub : Nat) (v : Val) (s : State) : Except Nat State :=
  checked c i sub v s fun s =>
    if i = 0x5002 then match c.sess with
      | some n => .ok (s.updWin n fun w => { w with channelSelect := (valNum v).toNat })
      | none => .ok s
    else if sub = 0x17 then .ok (skyCommand (valNum v) s)
    else if (sub = 6 ∨ sub = 7) ∧ s.steerEngaged then .error Abort.state
    else if sub = 0x16 ∧ ¬(2 ^ 31 ≤ valNum v ∧ valNum v + 2 < 2 ^ 31 + 2 ^ 29) then .error Abort.range
    else if sub = 4 then
      .ok ((s.put i sub v).updSkyio fun o => { o with foldedAnt := o.foldedAnt.filter fun a => (valNum v).toNat.testBit a })
    else .ok (s.put i sub v)

def execSkyColdStart (sess : Nat) (s : State) : Out := s.asSession sess 0x5000 fun c => skyWrite c 0x5000 0x17 (.int 1)
def execSkyDropAmbiguities (sess : Nat) (s : State) : Out := s.asSession sess 0x5000 fun c => skyWrite c 0x5000 0x17 (.int 2)

/-- A channel's record (Table 12-4). -/
def chanRecord (c : Chan) : Bytes :=
  leInt 2 c.doppler ++ leBytes 2 (min (c.lockTime / 20) 127 + c.azimuth % 512 * 2 ^ 7) ++ leInt 1 c.elevation ++ leBytes 1 c.cno ++
    leBytes 1 (c.state + c.antenna * 8 + c.signal * 16) ++ leBytes 1 c.svid

/-- Values that 0x5001 and 0x5002 read (Tables 12-9, 12-10). -/
def skyRead (s : State) (sess i sub : Nat) : Option Val :=
  if i = 0x5002 then
    if sub = 1 then some (.int (s.sessOf sess).win.channelSelect)
    else some (.bytes (chanRecord (s.sky.snap.getD (s.sessOf sess).win.channelSelect {})))
  else
    let k := s.sky
    let p := k.pose
    match sub with
    | 1 => some (.int k.state) | 2 => some (.int k.status) | 3 => some (.int k.fix) | 4 => some (.int p.stamp)
    | 5 => some (.int p.lat) | 6 => some (.int p.lon) | 7 => some (.int p.height)
    | 8 => some (.bytes (leInt 4 p.velN ++ leInt 4 p.velE ++ leInt 4 p.velU))
    | 9 => some (.int p.heading) | 0xA => some (.int p.tilt) | 0xB => some (.int p.accuracy)
    | 0xC => some (.int (s.uncertainty.getD 0xFFFFFFFF)) | 0xD => some (.int k.corrAge) | 0xE => some (.int p.sats)
    | 0xF => some (.int (k.channels.filter fun c => decide (3 ≤ c.state)).length)
    | 0x10 => some (.int k.flags) | 0x11 => some (.int s.holdoverAge) | 0x12 => some (.int k.lastOffset)
    | 0x13 => some (.int s.skyio.aidCount) | 0x14 => some (.int s.skyio.aidRejected) | 0x15 => some (.int s.skyio.rtcmErrors)
    | 0x16 => some (.int s.skyio.rtcmIgnored) | 0x17 => some (.bytes s.skyio.message)
    | _ => none

end Sys2Proof.Machine
end

