-- ==== Sys2Proof/Machine/Net.lean ====
section
/-! DEFINITION. Time protocol, network client and Ethernet ports (chapter 13, R303–R310), and Belay's real-time clock (R300). -/

namespace Sys2Proof.Machine

/-- PTP port p. -/
def State.ptpOf (s : State) (p : Nat) : Ptp := s.net.ptp.getD p {}

/-- Update of PTP port p. -/
def Net.updPtp (n : Net) (p : Nat) (f : Ptp → Ptp) : Net := { n with ptp := updAt n.ptp p f }

/-- The OCXO, the ports and the protocol run in Start, Run, Service and Shutdown (Table 13-7). -/
def State.netRuns (s : State) : Bool := s.reachable

/-- Machine time in 1/32,768 s, the resolution of Belay's clock (R297). -/
def rtcTicks (ns : Nat) : Nat := ns * 32768 / 1000000000 * 1000000000 / 32768

/-- Belay's clock written from machine time (R300). -/
def writeRtc (s : State) : State := s.updBelay fun b => { b with rtc := rtcTicks s.tm.now, rtcValid := true }

/-- R300: once every 600 s and at the end of Shutdown. -/
def execRtcWrite (s : State) : Out := .next <| if s.netRuns then writeRtc s else s

/-- Network discipline ends (R306): holdover growth restarts from the last network UNCERTAINTY. -/
def endDiscipline (s : State) : State :=
  if s.net.clientLocked then
    (((s.updSky fun k => { k with u0 := s.net.clientUnc, holdAt := s.tm.now, t0 := k.temp }).updTm fun t =>
      { t with source := if s.sky.status = 2 then 3 else 0 })).updNet fun n => { n with clientLocked := false, lockRun := 0 }
  else s.updNet fun n => { n with lockRun := 0 }

/-- Whether Skylight cannot discipline (R306). -/
def State.skyCannot (s : State) : Bool := s.sky.status == 0 || s.sky.status == 2

/-- Whether the module takes time from this port (R306). -/
def State.takesTime (s : State) (p : Nat) : Bool :=
  decide (s.nat 0x5200 4 = 1) && s.skyCannot && decide (p = s.nat 0x5200 5) && decide ((s.ptpOf p).state = 4)

/-- Rounded-up half of MeanLinkDelay, the largest asymmetry the path can hide (R306). -/
def halfDelay (p : Ptp) : Nat := (p.meanDelay.natAbs + 1) / 2

/-- A Sync within JumpThreshold: during a refusal the eighth in a row clears it; otherwise the offset is slewed out and the servo
steers (R299, R306). -/
def syncWithin (port : Nat) (o : Int) (accuracy : Nat) (s : State) : State :=
  if s.net.stepRefused then
    if s.net.goodRun + 1 < 8 then s.updNet fun n => { n with goodRun := n.goodRun + 1 }
    else s.updNet fun n => { n with stepRefused := false, freqHeld := false, refused := [], refusedStep := 0, goodRun := 0 }
  else
    let (fr, s) := s.freeInt
    let run := if o.natAbs ≤ 100 then s.net.lockRun + 1 else 0
    let locked := s.net.clientLocked || decide (16 ≤ run)
    (s.updTm fun t => { t with slew := -o, slewAcc := 0, freqCorr := clampI (-200000) 200000 fr,
                               source := if locked then 2 else t.source }).updNet fun n =>
      { n with lockRun := run, clientLocked := locked,
               clientUnc := if locked then accuracy + halfDelay (s.ptpOf port) else n.clientUnc }

/-- A Sync beyond JumpThreshold: the step is refused (R306). -/
def syncRefused (port : Nat) (o : Int) (s : State) : State :=
  let first := !s.net.stepRefused
  let s := endDiscipline s
  let s := s.updNet fun n =>
    let r := (o :: n.refused).take 8
    { n with stepRefused := true, freqHeld := true, refused := r, refusedStep := medianI r, goodRun := 0 }
  if first then s.record ⟨0x9004, port, 0x0E, leInt 4 (clampI (-(2 ^ 31)) (2 ^ 31 - 1) o), [], 0xFFFFFFFF, 0xF⟩ else s

/-- R306: a Sync gives the offset o, computed machine time minus the grandmaster's. -/
def execPtpSyncReceive (port : Nat) (offset : Int) (accuracy : Nat) (s : State) : Out :=
  withUnit (decide (port < 3))
    (if s.netRuns && s.takesTime port then
      let s := s.updNet fun n => { n with clientOffset := clampI (-(2 ^ 31)) (2 ^ 31 - 1) offset }
      if offset.natAbs ≤ s.nat 0x5200 6 then syncWithin port offset accuracy s else syncRefused port offset s
    else s)

/-- A port's Sync interval 2^LogSyncInterval s in ns (Table 13-6). -/
def syncInterval (s : State) (port : Nat) : Nat := 1000000000 / 2 ^ (s.int (0x5610 + port) 3).natAbs

/-- The first Sync instant at or after the frame's start (R301). -/
def syncInstant (s : State) (port : Nat) : Nat :=
  (s.tm.now + syncInterval s port - 1) / syncInterval s port * syncInterval s port

/-- R301, R305, R309: at a multiple of its interval a Sync departs from a master port; its one-step stamp is the instant at the connector,
EgressLatency included. -/
def execPtpSyncDepart (port : Nat) (s : State) : Out :=
  withUnit (decide (port < 3))
    (if s.netRuns && decide ((s.ptpOf port).state = 3) && (s.net.ports.getD port {}).link && decide (s.nat (0x5610 + port) 1 ≠ 0) &&
        decide (syncInstant s port < s.tm.now + 100000) then
      s.updNet fun n => { n.updPtp port fun p => { p with syncs := p.syncs + 1, lastSync := syncInstant s port + Config.egressLatency port } with
        ports := updAt n.ports port fun q => { q with txFrames := inc32 q.txFrames } }
    else s)

/-- R308: one Pdelay exchange of a port: the mean delay, the median, and path-change detection. -/
def pdelay (thr : Nat) (d : Int) (p : Ptp) : Ptp × Bool :=
  let far := !p.delays.isEmpty && decide ((d - medianI p.delays).natAbs > thr)
  if far && !p.outliers.isEmpty then
    ({ p with meanDelay := d, delays := d :: p.outliers, outliers := [], within := 0, pathChange := true,
              pathCount := inc32 p.pathCount }, true)
  else
    let run := if p.pathChange && !far then p.within + 1 else 0
    ({ p with meanDelay := d, delays := (d :: p.delays).take 16, outliers := if far then [d] else [],
              within := if run = 16 then 0 else run, pathChange := p.pathChange && decide (run ≠ 16) }, false)

def execPdelayExchange (port : Nat) (delay : Int) (s : State) : Out :=
  withUnit (decide (port < 3))
    (if s.netRuns && (s.net.ports.getD port {}).link && decide (s.nat (0x5610 + port) 1 ≠ 0) then
      let r := pdelay (s.nat 0x5200 7) delay (s.ptpOf port)
      let s := s.updNet fun n => n.updPtp port fun _ => r.1
      if r.2 then s.record ⟨0x9005, port, 0x0E, leInt 4 delay, [], 0xFFFFFFFF, 0xF⟩ else s
    else s)

/-- R304, R306, R307: the best-master algorithm's answer to an Announce: a winning foreign clock makes ClientPort slave when Skylight cannot
discipline, and any other port passive with FOREIGN_GM. -/
def execAnnounceReceive (port : Nat) (better : Bool) (accuracy : Nat) (s : State) : Out :=
  withUnit (decide (port < 3))
    (if s.netRuns && (s.net.ports.getD port {}).link && decide (s.nat (0x5610 + port) 1 ≠ 0) then
      if better then
        if decide (port = s.nat 0x5200 5) && decide (s.nat 0x5200 4 = 1) && s.skyCannot then
          s.updNet fun n => { n.updPtp port fun p => { p with state := 4, foreignGm := false } with gmAccuracy := accuracy }
        else s.updNet fun n => n.updPtp port fun p => { p with state := 5, foreignGm := true }
      else
        let s := if (s.ptpOf port).state = 4 then endDiscipline s else s
        s.updNet fun n => n.updPtp port fun p => { p with state := 3, foreignGm := false }
    else s)

/-- R306: the grandmaster is lost for 3 Announce intervals and network discipline ends. -/
def execAnnounceTimeout (s : State) : Out :=
  .next <|
    let p := s.nat 0x5200 5
    if (s.ptpOf p).state = 4 then
      (endDiscipline s).updNet fun n => n.updPtp p fun q => { q with state := 3 }
    else s

/-- A link comes up or goes down (R303); a port's protocol listens from link up (log 16). -/
def linkChange (p : Nat) (up : Bool) (s : State) : State :=
  let old := (s.net.ports.getD p {}).link
  if old = up then s
  else
    let s := if !up && (s.ptpOf p).state == 4 then endDiscipline s else s
    s.updNet fun n =>
      { n.updPtp p fun q => { q with state := if up && decide (s.nat (0x5610 + p) 1 ≠ 0) then 2 else 1 } with
        ports := updAt n.ports p fun q =>
          if up then { q with link := true } else { q with link := false, downCount := inc32 q.downCount, downAt := s.tm.mono } }

def execEthLinkChange (p : Nat) (up : Bool) (s : State) : Out :=
  withUnit (decide (p < 3))
    (if s.netRuns && (!up || s.flag (0x5600 + p) 1) then linkChange p up s else s)

/-- R306: TimeCommand 0x01 applies RefusedStep as a step that removes the refused offset (log 17); 0x02 discards it. -/
def timeCommand (v : Int) (s : State) : Except Nat State :=
  if !s.net.stepRefused then .error Abort.state
  else
    let clear := fun (n : Net) => { n with stepRefused := false, freqHeld := false, refused := [], refusedStep := 0, goodRun := 0 }
    if v = 1 then
      .ok ((s.updNet clear).updTm fun t =>
        { t with step := some (-s.net.refusedStep), stepCause := 2, stepAt := (nextSecond t.now).toNat })
    else .ok (s.updNet clear)

/-- The interface of an index of 0x5600–0x5603 or 0x5610–0x5612. -/
def portOf (i : Nat) : Nat := if i < 0x5610 then i - 0x5600 else i - 0x5610

/-- R310: the written interface or PTP port restarts at once; its link and port state drop. -/
def restartPort (p : Nat) (s : State) : State := linkChange p false s

/-- Writes to 0x5200, 0x5600 + p and 0x5610 + p (R310). -/
def netWrite (c : Ctx) (i sub : Nat) (v : Val) (s : State) : Except Nat State :=
  checked c i sub v s fun s =>
    if i = 0x5200 then
      if sub = 8 then timeCommand (valNum v) s
      else if sub = 4 ∨ sub = 5 then
        if s.net.stepRefused then .error Abort.state
        else .ok (((endDiscipline s).updNet fun n => n.updPtp (s.nat 0x5200 5) fun p =>
          { p with state := if p.state = 4 then 2 else p.state }).put i sub v)
      else .ok (s.put i sub v)
    else .ok (restartPort (portOf i) (s.put i sub v))

def execAcceptRefusedStep (sess : Nat) (s : State) : Out := s.asSession sess 0x5200 fun c => netWrite c 0x5200 8 (.int 1)
def execDiscardRefusedStep (sess : Nat) (s : State) : Out := s.asSession sess 0x5200 fun c => netWrite c 0x5200 8 (.int 2)

/-- Whether an index is one of this chapter's. -/
def netIndex (i : Nat) : Bool :=
  i == 0x5200 || (decide (0x5600 ≤ i) && decide (i < 0x5604)) || (decide (0x5610 ≤ i) && decide (i < 0x5613))

def execNetConfigWrite (sess index sub : Nat) (v : Val) (s : State) : Out :=
  if netIndex index then s.asSession sess index fun c => netWrite c index sub v else withUnit false s

/-- TimeFlags (Table 13-5). -/
def timeFlags (s : State) : Nat :=
  b2n (s.net.ptp.any fun p => p.state == 3) + 2 * b2n (decide (s.tm.slew ≠ 0)) + 4 * b2n s.net.clientLocked +
  8 * b2n (match s.tm.stretchedAt with | some t => decide (s.tm.mono < t + 1000000000) | none => false) +
  16 * b2n s.net.stepRefused + 32 * b2n s.net.freqHeld

/-- Values that 0x5200, 0x5600 + p and 0x5610 + p read. -/
def netRead (s : State) (i sub : Nat) : Option Val :=
  let t := s.tm
  if i = 0x5200 then match sub with
    | 1 => some (.int t.now) | 2 => some (.int t.utcOffset) | 3 => some (.int t.source) | 9 => some (.int s.net.refusedStep)
    | 0xA => some (.int t.lastStep) | 0xB => some (.int t.lastStepFrame) | 0xC => some (.int t.frame) | 0xD => some (.int t.mono)
    | 0xE => some (.int (timeFlags s)) | 0x13 => some (.int s.net.clientOffset) | 0x14 => some (.int t.stepCount)
    | _ => none
  else
    let p := portOf i
    if i < 0x5610 then
      let q := s.net.ports.getD p {}
      match sub with
      | 3 => some (.bytes (Config.macAddress p)) | 7 => some (.int (b2n q.link)) | 8 => some (.int q.rxFrames)
      | 9 => some (.int q.txFrames) | 0xA => some (.int q.rxDropped) | 0xB => some (.int q.downCount) | 0xC => some (.int q.quality)
      | _ => none
    else
      let q := s.ptpOf p
      match sub with
      | 6 => some (.int (Config.egressLatency p)) | 7 => some (.int (Config.ingressLatency p)) | 8 => some (.int q.state)
      | 9 => some (.int q.meanDelay)
      | 0xA => some (.int (b2n q.pathChange + 2 * b2n (!(s.net.ports.getD p {}).link) + 4 * b2n q.notCapable + 8 * b2n q.foreignGm))
      | 0xB => some (.int (medianI q.delays)) | 0xC => some (.int q.pathCount)
      | _ => none

/-! ## Machine time through a frame (R297, R301, R302) -/

/-- One frame of 100 µs: the pulse clock counts 25,000 ticks, one more or less when a slew adds or withholds one (R301). -/
def frameTime (rate : Nat) (t : Tm) : Tm :=
  let acc := t.slewAcc + rate
  let tick : Int := if t.slew.natAbs < 4 ∨ acc < 40 then 0 else if 0 < t.slew then 4 else -4
  { t with now := t.now + 100000, frame := t.frame + 1, mono := ((t.mono : Int) + 100000 - tick).toNat,
           slew := t.slew - tick, slewAcc := if t.slew = 0 then 0 else if acc < 40 then acc else acc - 40 }

/-- The extension r = (−Δ) mod 100 µs of a stepped frame (R302). -/
def stepExtension (d : Int) : Nat := ((-d) % 100000).toNat

end Sys2Proof.Machine
end

