-- ==== Sys2Proof/Machine/Trace.lean ====
section
/-! DEFINITION. The trace unit (chapter 06, R165–R171). -/

namespace Sys2Proof.Machine

/-! ## Nodes (R165–R167) -/

/-- A node code of Table 06-3. -/
def nodeCode (c : Int) : Bool := inRanges [(0, 0xD), (0x20, 0x24), (0x40, 0x44)] c

/-- Greatest NodeIndex of a node. -/
def nodeMax (c : Nat) : Nat :=
  if c = 0 then 255 else if c < 0x20 then 127 else if c < 0x40 then 47
  else match c with | 0x40 => 23 | 0x41 => 11 | 0x42 => 1 | _ => 15

/-- sat16(value >> shift) and whether it saturated. -/
def traceSat (v : Int) (shift : Nat) : Int × Bool :=
  let x := v / 2 ^ shift
  (sat15 x, decide (sat15 x ≠ x))

/-- Value of a context node: what Monitor reports, from the chosen sequencer (R165). Sequencer B's u is its own where it differs. -/
def ctxNode (s : State) (x : FrameIn) (seqB : Bool) (code n : Nat) : Int :=
  let c := s.ctxAt n
  if code ≤ 8 then
    match (if seqB && code == 8 && ctxDue s n then x.seqB.find? fun d => d.ctx == n else none) with
    | some d => d.uB
    | none => c.mon.getD (code - 1) 0
  else match code with
    | 9 => q15 c.f | 0xA => c.comp.terms.getD 0 0 | 0xB => c.comp.terms.getD 1 0 | 0xC => c.comp.terms.getD 2 0 | _ => c.comp.k

/-- Value of a function or input node, formed or read at 20 µs (R165). -/
def plainNode (s : State) (x : FrameIn) (seqB : Bool) (code n : Nat) : Int :=
  let f := s.fnOf n
  match code with
  | 0x20 => f.c
  | 0x21 => match (if seqB then x.wB.find? fun p => p.1 == n else none) with | some p => p.2 | none => f.w
  | 0x22 => ratRound f.rampW | 0x23 => ratRound f.rampC | 0x24 => f.lv
  | 0x40 => (aiConsumer s n).1 | 0x41 => shaftRate s n | 0x42 => shaftAngle s n
  | 0x43 => s.loop.lat.imeas.getD n 0 | _ => (sentConsumer s n).1

/-- One sample of channel t: value, absent, saturated. -/
def traceNode (s : State) (x : FrameIn) (t : Nat) : Int × Bool × Bool :=
  let code := s.nat (0x3610 + t) 1
  let n := s.nat (0x3610 + t) 2
  let seqB := s.flag 0x3600 0xA
  if code < 0x20 then
    if (s.ctxAt n).enabled then
      (ctxNode s x seqB code n, false, decide (code = 9) && decide (((s.ctxAt n).f + 0x8000) / 65536 ≠ q15 (s.ctxAt n).f))
    else (0, true, false)
  else
    let r := traceSat (plainNode s x seqB code n) (s.nat (0x3610 + t) 3)
    (r.1, false, r.2)

/-- The channel's node is a feed-forward node (R167). -/
def speculative (s : State) (t : Nat) : Bool :=
  let code := s.nat (0x3610 + t) 1
  let n := s.nat (0x3610 + t) 2
  if [1, 3, 4, 5, 7, 8, 9].contains code then leadFed s 128 n
  else [0x21, 0x22, 0x24].contains code && (s.slotOf n).isSome

/-- A channel is not off. -/
def traceOn (s : State) (t : Nat) : Bool := s.nat (0x3610 + t) 1 != 0

/-- Marks with bits ored in. -/
def orMark (m : Nat) (absent sat spec : Bool) : Nat :=
  setBit (setBit (setBit m 0 (m.testBit 0 || absent)) 1 (m.testBit 1 || sat)) 2 (m.testBit 2 || spec)

/-! ## Triggers (Table 06-6) -/

/-- CompStatus, ContextStatus and FunctionStatus bit that a source watches, or the function's mode. -/
def watched (s : State) : Nat :=
  let arg := s.nat 0x3600 7
  let hi := arg / 256 % 256
  let bit := fun (w : Nat) => b2n (w.testBit (arg % 16))
  match s.nat 0x3600 6 with
  | 2 => bit (ctxStatus s hi) | 3 => bit (fnStatus s hi) | 4 => bit (compStatus (s.ctxAt hi).comp)
  | 5 => s.flow.nextSeq | 7 => (s.fnOf (arg % 256)).mode | _ => 0

/-- The condition of the trigger source arises in this frame, but for the level of source 0x01. -/
def arises (s : State) (crossed : Nat → Nat → Bool) : Bool :=
  let arg := s.nat 0x3600 7
  let now := watched s
  match s.nat 0x3600 6 with
  | 0 => true
  | 2 | 3 | 4 => s.trace.last == 0 && now == 1
  | 5 => (s.flow.ring ++ s.flow.wait).any fun r => r.code == arg % 65536 && decide (pdist s.trace.last r.seq < pdist s.trace.last now)
  | 6 => crossed arg (s.nat 0x3600 8)
  | 7 => s.trace.last != now
  | _ => false

/-- A sample crosses the level by the edge (source 0x01). -/
def crosses (edge : Nat) (level : Int) (prev : Option Int) (v : Int) : Bool :=
  match prev with
  | none => false
  | some p => (edge != 2 && decide (p < level) && decide (level ≤ v)) || (edge != 1 && decide (level < p) && decide (v ≤ level))

/-! ## Sampling (R165, R169) -/

/-- A capture runs. -/
def capturing (s : State) : Bool := s.trace.state = 1 || s.trace.state = 2 || s.trace.state = 3 || s.trace.state = 5

/-- Keep the newest `n` of a list. -/
def newest {α : Type} (n : Nat) (l : List α) : List α := l.drop (l.length - n)

/-- Append a sample of every channel, keeping the newest `room` samples. -/
def pushSample (s : State) (x : FrameIn) (room : Nat) (t : Trace) : Trace :=
  let vals := (List.range 8).map fun c => if traceOn s c then some (traceNode s x c) else none
  { t with
    taken := t.taken + 1
    bufs := (List.range 8).map fun c => match vals.getD c none with
      | some v => newest room (t.bufs.getD c [] ++ [v.1])
      | none => []
    times := newest room (t.times ++ [s.tm.now])
    marks := (List.range 8).map fun c => match vals.getD c none with
      | some v => orMark (t.marks.getD c 0) v.2.1 v.2.2 (speculative s c)
      | none => 0 }

/-- Frame number and machine time of sample 0. -/
def stampFirst (s : State) (t : Trace) : Trace :=
  { t with firstTime := t.times.headD 0, firstFrame := t.armFrame + (t.taken - t.times.length) * s.nat 0x3600 4 }

/-- One sample in its state. -/
def takeSample (s : State) (x : FrameIn) (t : Trace) : Trace :=
  let pre := s.nat 0x3600 5
  let p := pushSample s x 8192 t
  let v := ((p.bufs.getD (s.nat 0x3600 7) []).getLast?)
  let level := s.nat 0x3600 6 == 1 && (match v with | some v => crosses (s.nat 0x3600 9) (s.int 0x3600 8) t.prev v | none => false)
  let p := { p with prev := v }
  if t.state = 5 then stampFirst s p
  else if t.state = 3 then
    stampFirst s (if 8192 ≤ p.times.length then { p with state := 4 } else p)
  else if t.force || (t.state = 2 && (t.cond || level)) then
    let p := { p with state := if 8192 ≤ p.times.length then 4 else 3, trigIndex := p.times.length - 1, trigTime := s.tm.now, force := false,
                      cond := false }
    stampFirst s p
  else
    let p := { p with bufs := p.bufs.map (newest pre), times := newest pre p.times, state := if pre ≤ p.taken then 2 else 1 }
    stampFirst s p

/-- The trace of a frame: the samples are those of 70 µs, where `s70` stood, and the conditions those of the whole frame, the compare and the
latch included (R169, R171). `crossed` tells which parcel's centre crossed into which station in this frame. -/
def traceFrame (x : FrameIn) (crossed : Nat → Nat → Bool) (s70 s : State) : State :=
  if !capturing s then s
  else
    let t := s.trace
    let t := { t with cond := t.cond || (t.state = 2 && arises s crossed), last := watched s }
    let due := decide (t.armFrame ≤ s.tm.frame) && (s.tm.frame - t.armFrame) % s.nat 0x3600 4 == 0
    { s with trace := if due then takeSample s70 x t else t }

/-! ## Commands and writes (R166–R170) -/

/-- Arm (R168). -/
def traceArm (w : Ctx) (s : State) : Except Nat State :=
  if !((s.trace.state = 0 ∨ s.trace.state = 4) ∧ (List.range 8).any (traceOn s)) then .error Abort.state
  else .ok { s with trace := {
    state := if s.flag 0x3600 3 then 5 else if s.nat 0x3600 5 = 0 then 2 else 1
    owner := w.sess.getD 0xFF
    armFrame := s.tm.frame + 1
    last := watched s
    marks := (List.range 8).map fun c => 4 * b2n (traceOn s c && speculative s c) } }

/-- End of a continuous capture (R169). -/
def stopContinuous (t : Trace) : Trace :=
  if t.state = 5 then { t with state := 4, trigIndex := 8191, trigTime := t.times.getLast?.getD 0 } else t

/-- Command 0x02 (R169). -/
def traceForce (t : Trace) : Trace := if t.state = 1 ∨ t.state = 2 then { t with force := true } else stopContinuous t

/-- Disarm: idle, buffers discarded; the owner stays, and SPECULATIVE until the next arming (R167–R169). -/
def traceDisarm (t : Trace) : Trace := { owner := t.owner, marks := t.marks.map fun m => 4 * b2n (m.testBit 2) }

/-- Release of ownership, by command 0x04 or by the end of the session (R168). -/
def traceRelease (t : Trace) : Trace := { stopContinuous t with owner := 0xFF }

/-- The owning session ends. -/
def traceSessionEnd (n : Nat) (s : State) : State := if s.trace.owner = n then s.updTrace traceRelease else s

/-- TraceCommand. -/
def traceCommand (w : Ctx) (v : Int) (s : State) : Except Nat State :=
  match v with
  | 1 => traceArm w s
  | 2 => .ok (s.updTrace traceForce)
  | 3 => .ok (s.updTrace traceDisarm)
  | _ => .ok (s.updTrace traceRelease)

/-- TriggerArg and TriggerLevel fit the present source. -/
def trigFits (s : State) (sub : Nat) (v : Int) : Bool :=
  let hi := v / 256 % 256
  match s.nat 0x3600 6 with
  | 1 => sub != 7 || decide (v ≤ 7)
  | 2 | 4 => sub != 7 || decide (hi ≤ 127)
  | 3 => sub != 7 || decide (hi ≤ 47)
  | 6 => sub != 8 || (decide (1 ≤ v) && decide (v ≤ 8))
  | 7 => sub != 7 || decide (v % 256 ≤ 47)
  | _ => true

/-- Writes to 0x3600 and 0x3610–0x3617, and to the session's own 0x3620. -/
def traceWrite (w : Ctx) (i sub : Nat) (v : Val) (s : State) : Except Nat State :=
  checked w i sub v s fun s =>
    let n := valNum v
    if i = 0x3620 then
      match w.sess with
      | some k => .ok (s.updWin k fun x => if sub = 1 then { x with readChannel := n.toNat } else { x with readOffset := n.toNat })
      | none => .ok s
    else if i = 0x3600 ∧ sub = 6 ∧ 7 < n then .error Abort.range
    else if i = 0x3600 ∧ (sub = 7 ∨ sub = 8) ∧ !trigFits s sub n then .error Abort.range
    else if 0x3610 ≤ i ∧ sub = 1 ∧ !nodeCode n then .error Abort.range
    else if 0x3610 ≤ i ∧ sub = 2 ∧ nodeMax (s.nat i 1) < n then .error Abort.range
    else if s.trace.owner ≠ 0xFF ∧ w.sess ≠ some s.trace.owner then .error Abort.state
    else if i = 0x3600 ∧ sub = 1 then traceCommand w n s
    else if capturing s then .error Abort.state
    else .ok (s.put i sub v)

def execTraceArm (sess : Nat) (s : State) : Out := s.asSession sess 0x3600 fun w => traceWrite w 0x3600 1 (.int 1)
def execTraceForceTrigger (sess : Nat) (s : State) : Out := s.asSession sess 0x3600 fun w => traceWrite w 0x3600 1 (.int 2)
def execTraceDisarm (sess : Nat) (s : State) : Out := s.asSession sess 0x3600 fun w => traceWrite w 0x3600 1 (.int 3)
def execTraceRelease (sess : Nat) (s : State) : Out := s.asSession sess 0x3600 fun w => traceWrite w 0x3600 1 (.int 4)

/-- Why a session may not read a channel out, 0 when it may (R167, R170). -/
def readoutRefused (s : State) (sess : Nat) : Nat :=
  let x := s.sessOf sess
  if x.transport = .e1 ∧ (s.trace.marks.getD x.win.readChannel 0).testBit 2 then Abort.noRight
  else if s.trace.state ≠ 4 then Abort.state else 0

/-- Samples of the session's channel. -/
def readBuf (s : State) (sess : Nat) : List Int := s.trace.bufs.getD (s.sessOf sess).win.readChannel []

/-- Bytes that ReadBlock returns. -/
def readBlockBytes (s : State) (sess : Nat) : Bytes :=
  (((readBuf s sess).drop (s.sessOf sess).win.readOffset).take 256).flatMap (leInt 2)

/-- A read of ReadBlock: its answer, and ReadOffset advanced (R170). -/
def readBlock (sess : Nat) (s : State) : State :=
  let e := readoutRefused s sess
  if e ≠ 0 then s.updSess sess fun x => { x with answer := e, answerData := [] }
  else
    let b := readBlockBytes s sess
    s.updSess sess fun x =>
      { x with answer := 0, answerData := b, win := { x.win with readOffset := x.win.readOffset + b.length / 2 } }

def execReadBlock (sess : Nat) (s : State) : Out :=
  withUnit (decide (sess < 16)) (if (s.sessOf sess).opened && s.reaches 0x3620 then readBlock sess (s.touch sess) else s)

/-- Status byte of channel t (Table 06-5). -/
def traceChStatus (s : State) (t : Nat) : Nat :=
  let m := s.trace.marks.getD t 0
  b2n (traceOn s t) + 2 * b2n (m.testBit 2) + 4 * b2n (m.testBit 1) + 8 * b2n (m.testBit 0)

/-- Values that 0x3600, 0x3610 + t and 0x3620 read. -/
def traceRead (s : State) (sess : Option Nat) (i sub : Nat) : Option Val :=
  let t := s.trace
  if i = 0x3600 then
    match sub with
    | 2 => some (.int t.state) | 0xB => some (.int t.trigIndex) | 0xC => some (.int t.firstTime) | 0xD => some (.int t.firstFrame)
    | 0xE => some (.int t.trigTime) | 0xF => some (.int t.owner) | 0x10 => some (.int t.times.length) | _ => none
  else if i = 0x3620 then
    match sess with
    | some k =>
      let w := (s.sessOf k).win
      match sub with
      | 1 => some (.int w.readChannel) | 2 => some (.int w.readOffset) | 3 => some (.bytes (readBlockBytes s k))
      | 4 => some (.int (crc32 (nats ((readBuf s k).flatMap (leInt 2))))) | _ => none
    | none => none
  else if sub = 4 then some (.int (traceChStatus s (i - 0x3610))) else none

end Sys2Proof.Machine
end

