-- ==== Sys2Proof/Machine/Dict.lean ====
section
/-! DEFINITION. The dictionary as a whole (chapter 15, R334–R356): which chapter writes and reads an object, the three copies of a
persistent value, the layers at Start, the machine description package, Store, RestoreDefaults and the persistence window. -/

namespace Sys2Proof.Machine

/-! ## Dispatch to the chapters (R335, R346) -/

/-- A chapter's answer as an abort code (0: carried out) and a state. -/
def answered (s : State) (r : Except Nat State) : Nat × State :=
  match r with
  | .ok t => (0, t)
  | .error a => (a, s)

/-- The part of the Passage's and the Leads' indices. -/
def cropWrites (w : Ctx) (i sub : Nat) (v : Val) (s : State) : Except Nat State :=
  if i < 0x380A then stationWrite w i sub v s
  else if i = 0x3810 then passageWrite w i sub v s
  else if i = 0x3812 then calWrite w i sub v s
  else if i = 0x3820 then eventWrite w i sub v s
  else if i = 0x3880 then parcelWrite w i sub v s
  else if i = 0x38A0 then leadWrite w i sub v s
  else if 0x38A8 ≤ i ∧ i < 0x38B0 then slotWrite w i sub v s
  else if i = 0x38C0 then leadWindowWrite w i sub v s
  else plainWrite w i sub v s

/-- The part of the sensing indices. -/
def senseWrites (w : Ctx) (i sub : Nat) (v : Val) (s : State) : Except Nat State :=
  if i < 0x4820 then lossWrite w i sub v s
  else if i < 0x4858 then aiWrite w i sub v s
  else if i < 0x486C then shWrite w i sub v s
  else if i = 0x4880 then cropWrite w i sub v s
  else if i = 0x4890 then imuWrite w i sub v s
  else valveWrite w i sub v s

/-- The chapter that an index belongs to carries out a write; an object of none of them is stored. -/
def chapterWrite (w : Ctx) (i sub : Nat) (v : Val) (s : State) : Except Nat State :=
  match i / 256 with
  | 0x28 => fnWrite w i sub v s
  | 0x30 => ctxWrite w i sub v s
  | 0x34 => compWrite w i sub v s
  | 0x36 => traceWrite w i sub v s
  | 0x38 => cropWrites w i sub v s
  | 0x3A => if i < 0x3A10 then optConfigWrite w i sub v s else optSlotWrite w i sub v s
  | 0x3C => steerWrite w i sub v s
  | 0x3E => if i = 0x3E00 then yieldWrite w i sub v s else fleetWrite w i sub v s
  | 0x40 => valveWrite w i sub v s
  | 0x44 => fioWrite w i sub v s
  | 0x48 => senseWrites w i sub v s
  | 0x50 => skyWrite w i sub v s
  | 0x52 => netWrite w i sub v s
  | 0x54 => canWrite w i sub v s
  | 0x56 => netWrite w i sub v s
  | 0x58 => flowWrite w i sub v s
  | 0x5C => lanWrite w i sub v s
  | _ => plainWrite w i sub v s

/-- The same with ContextEnable, whose refusal leaves a ScheduleResult. -/
def baseWrite (w : Ctx) (i sub : Nat) (v : Val) (s : State) : Nat × State :=
  if objRow? i sub = none then (Abort.noObject, s)
  else if i / 256 = 0x30 ∧ sub = 1 then
    (match v with
     | .int x => writeEnable w (i - 0x3000) x s
     | .bytes _ => (Abort.length, s))
  else answered s (chapterWrite w i sub v s)

/-- The live value of an object that an engine holds. -/
def chapterRead (s : State) (sess i sub : Nat) : Option Val :=
  match i / 256 with
  | 0x28 => loopRead s i sub
  | 0x30 => loopRead s i sub
  | 0x34 => compRead s i sub
  | 0x36 => traceRead s (some sess) i sub
  | 0x38 => if i = 0x3820 then eventRead s sess sub else if 0x38A0 ≤ i then leadRead s sess i sub else passageRead s sess i sub
  | 0x3A => optRead s i sub
  | 0x3C => steerRead s i sub
  | 0x3E => if i = 0x3E00 then yieldRead s sub else fleetRead s sub
  | 0x40 => valveRead s i sub
  | 0x44 => fioRead s i sub
  | 0x48 => if 0x48A0 ≤ i then valveRead s i sub else senseRead s i sub
  | 0x50 => skyRead s sess i sub
  | 0x52 => netRead s i sub
  | 0x54 => canRead s sess i sub
  | 0x56 => netRead s i sub
  | 0x58 => flowRead s sess i sub
  | 0x5C => if i = 0x5C01 then lanRead s sub else none
  | _ => none

/-- The value of an object now. -/
def State.objValue (s : State) (i sub : Nat) : Val := (chapterRead s 16 i sub).getD (s.val i sub)

/-! ## Three copies (R352, R353) -/

/-- A copy whose CRC holds. -/
def goodCopy (c : Option Copy) : Option Copy := c.bind fun x => if x.ok then some x else none

/-- Put one copy into all three places. -/
def Target.all (t : Target) (c : Copy) (state : Nat) : Target := { t with a := some c, b := some c, c := some c, state := state }

/-- Table 15-11. -/
def resolveCopies (t : Target) : Target :=
  let same := fun (x y : Copy) => decide (x.gen = y.gen) && decide (x.value = y.value)
  match [t.a, t.b, t.c].filterMap goodCopy with
  | [x, y, z] =>
    if same x y ∧ same y z then { t with state := 0 }
    else if same x y ∨ same x z then t.all x 1
    else if same y z then t.all y 1
    else { t with state := 2 }
  | [x, y] => if same x y then t.all x 1 else if y.gen < x.gen then t.all y 4 else t.all x 4
  | [x] => t.all x 5
  | _ => { t with state := 6 }

/-- The record of a calibration disagreement (R354). -/
def disagreeRecord (t : Target) : FlowEv :=
  let g := fun (c : Option Copy) => leBytes 4 ((c.map (·.gen)).getD 0)
  ⟨0xB003, t.layer, 0xE, leBytes 4 t.key, g t.a ++ g t.b ++ g t.c, 0xFFFFFFFF, 0xF⟩

/-- Every target resolved, the unresolved ones recorded. -/
def resolveAll (s : State) : State :=
  let l := s.per.targets.map resolveCopies
  (s.updPer fun p => { p with targets := l }).records ((l.filter fun t => t.state == 2 || t.state == 6).map disagreeRecord)

/-- Take a target off the list. -/
def dropTarget (l : List Target) (layer key : Nat) : List Target := l.filter fun t => !(t.layer == layer && t.key == key)

/-! ## What Store saves (R349, R351, Table 15-4) -/

/-- Run-time and per-session objects. -/
def runtimeObject (i sub : Nat) : Bool :=
  (decide (0x2800 ≤ i) && decide (i < 0x2830) && (sub == 1 || sub == 3 || sub == 0xB)) ||
    (decide (0x3600 ≤ i) && decide (i < 0x3700)) || (i == 0x3E00 && sub == 0x13) || (decide (0x4400 ≤ i) && decide (i < 0x4430) && sub == 3) ||
    [0x3880, 0x38C0, 0x5002, 0x5420, 0x5810, 0x5820, 0x5A10].contains i

/-- An object whose value Store commits. -/
def storable (i : Nat) (r : ObjRow) : Bool :=
  r.acc = .rw && ((i == 0x2000 && (r.sub == 3 || r.sub == 4)) || i == 0x2010 ||
    (decide (0x2800 ≤ i) && decide (i < 0x5E00) && !runtimeObject i r.sub))

/-- Every pair of an index and its row on the pages that hold stored objects, indices rising within a row. -/
def allObjects : List (Nat × ObjRow) :=
  (0x20 :: rangeFrom 0x28 0x36).flatMap fun p => (objPage p).flatMap fun r => (rangeFrom r.lo r.count).filterMap fun i =>
    if i / 256 = p then some (i, r) else none

/-- An object's package layer: its last entry in the package in use, else the default. -/
def packageValue (s : State) (i : Nat) (r : ObjRow) : Val :=
  match s.per.package with
  | none => r.default i
  | some p =>
    match if s.per.mdpState = 1 then (p.entries.filter fun e => e.index == i && e.sub == r.sub).getLast? else none with
    | some e => (decodeVal r.ty e.data).toOption.getD (r.default i)
    | none => r.default i

/-- Insertion by rising key. -/
def insertKey {α : Type} (x : Nat × α) : List (Nat × α) → List (Nat × α)
  | [] => [x]
  | y :: t => if x.1 ≤ y.1 then x :: y :: t else y :: insertKey x t

/-- TransitHi and KernelStep that have not been written follow TransitLo, and are no values of their own to store (02 R40). -/
def followsLo (s : State) (i sub : Nat) : Bool :=
  decide (0x3800 ≤ i) && decide (i < 0x380A) && ((sub == 4 && !(s.stOf (i - 0x3800)).hiSet) || (sub == 7 && !(s.stOf (i - 0x3800)).stepSet))

/-- The values that a Store by a role saves, in ascending order of index and sub-index. -/
def storeList (role : Nat) (s : State) : List (Nat × Val) :=
  (allObjects.filterMap fun p =>
    let v := s.objValue p.1 p.2.sub
    if storable p.1 p.2 && !followsLo s p.1 p.2.sub && p.2.right.met role && v != packageValue s p.1 p.2 then some (keyOf p.1 p.2.sub, v) else none).foldr insertKey []

/-- One persistent write with the outcome of each copy; Column's own copies of a safety parameter are written with it (R356). -/
def commitWith (layer key : Nat) (v : Val) (okA okB okC : Bool) (s : State) : State :=
  let one := fun (layer : Nat) (l : List Target) =>
    putTarget l (writeCopies ((findTarget l layer key).getD ⟨layer, key, none, none, none, 0⟩) v okA okB okC)
  s.updPer fun p =>
    { p with targets := if layer = 1 ∧ safetyKey (key / 256) (key % 256) then one 3 (one 1 p.targets) else one layer p.targets }

/-- Writes of 0x1010.01 and 0x1011.01. -/
def storeWrite (w : Ctx) (i sub : Nat) (v : Val) (s : State) : Except Nat State :=
  checked w i sub v s fun s =>
    if i = 0x1010 then
      if valNum v ≠ 0x65766173 then .error Abort.order
      else if s.per.store.isSome then .error Abort.state
      else .ok (s.updPer fun p => { p with store := some (w.sess.getD 16, storeList w.role s) })
    else if valNum v ≠ 0x64616F6C then .error Abort.order
    else .ok (s.updPer fun p => { p with restore := true })

def execStore (sess : Nat) (v : Int) (s : State) : Out := s.asSession sess 0x1010 fun w => storeWrite w 0x1010 1 (.int v)
def execRestoreDefaults (sess : Nat) (v : Int) (s : State) : Out := s.asSession sess 0x1011 fun w => storeWrite w 0x1011 1 (.int v)

/-- The rest of a running Store is committed. -/
def finishStore (s : State) : State :=
  match s.per.store with
  | none => s
  | some (_, l) => (l.foldl (fun s e => commitWith 1 e.1 e.2 true true true s) s).updPer fun p => { p with store := none }

def execStoreComplete (s : State) : Out := .next (if s.reachable then finishStore s else s)

/-- A persistent value is written; a running Store has one object less to commit, and is refused where two copies fail. -/
def execPersistentWrite (layer key : Nat) (v : Val) (okA okB okC : Bool) (s : State) : Out :=
  withUnit (decide (1 ≤ layer) && decide (layer ≤ 3))
    (if !s.reachable then s
     else
       let s := commitWith layer key v okA okB okC s
       match s.per.store with
       | some (n, l) =>
         if layer = 1 ∧ l.any (fun e => e.1 == key) then
           (if twoOf okA okB okC then s else s.updSess n fun x => { x with answer := Abort.notCommitted }).updPer fun p =>
             { p with store := some (n, l.filter fun e => e.1 != key) }
         else s
       | none => s)

/-! ## The machine description package (R345, R346) -/

/-- The entries of a package's body. -/
def parseEntries : Nat → Bytes → Option (List ObjEntry)
  | 0, b => if b = [] then some [] else none
  | n + 1, b =>
    if b = [] then some []
    else if b.length < 6 ∨ b.length < 6 + fieldLe b 4 2 ∨ fieldLe b 3 1 ≠ 0 then none
    else (parseEntries n (b.drop (6 + fieldLe b 4 2))).map fun t =>
      ⟨fieldLe b 0 2, fieldLe b 2 1, (b.drop 6).take (fieldLe b 4 2)⟩ :: t

/-- FORMAT_MAJOR of 0x1018.03 (00 R3). -/
abbrev formatMajor : Nat := 3

/-- The keys of Table 15-5: as an OEM session wrote them, else as at end of line. -/
def State.mdpKey (s : State) : Bytes := if s.serv.mdpKey = [] then Config.mdpPublicKey else s.serv.mdpKey
def State.serviceKey (s : State) : Bytes := if s.serv.serviceKey = [] then Config.serviceKey else s.serv.serviceKey
def State.oemKey (s : State) : Bytes := if s.serv.oemKey = [] then Config.oemKey else s.serv.oemKey

/-- The fields of a package header (Table 15-7) are ones it may hold. -/
def packageHeaderOk (h : Bytes) : Bool :=
  h.length == 32 && fieldLe h 0 2 == 0x444D && fieldLe h 2 1 == 1 && decide (1 ≤ fieldLe h 12 4) && decide (fieldLe h 12 4 ≤ 65535) &&
    fieldLe h 28 4 == 0

/-- A package from its header, its entries' bytes and its signature (R345); none when it is refused whole. -/
def packageOf (s : State) (header body sig : Bytes) : Option Package :=
  if packageHeaderOk header ∧ fieldLe header 3 1 = formatMajor ∧ fieldLe header 16 4 = body.length ∧
      Config.ecdsaP384 s.mdpKey (sha384 (header ++ body)) sig = true then
    match parseEntries body.length body with
    | some l => if l.length = fieldLe header 12 4 then some ⟨fieldLe header 4 4, fieldLe header 8 4, fieldLe header 3 1, l⟩ else none
    | none => none
  else none

/-- One entry as a write by an OEM-role session. -/
def entryWrite (e : ObjEntry) (s : State) : Nat × State :=
  match objRow? e.index e.sub with
  | none => (Abort.noObject, s)
  | some r =>
    if r.acc = .wo ∨ (0x2000 ≤ e.index ∧ e.index < 0x2300) ∨ (0x5A00 ≤ e.index ∧ e.index < 0x5C00) ∨ (0x6000 ≤ e.index ∧ e.index < 0x8000) then
      (Abort.noRight, s)
    else match decodeVal r.ty e.data with
      | .error a => (a, s)
      | .ok v => baseWrite ⟨3, none, true⟩ e.index e.sub v s

/-- Entries applied in order up to the first that is refused: its number and code. -/
def applyEntries : List ObjEntry → Nat → State → Option (Nat × Nat) × State
  | [], _, s => (none, s)
  | e :: t, n, s =>
    let r := entryWrite e s
    if r.1 = 0 then applyEntries t (n + 1) r.2 else (some (n, r.1), s)

/-- The first entry that would be refused in the present state. -/
def checkEntries : List ObjEntry → Nat → State → Option (Nat × Nat)
  | [], _, _ => none
  | e :: t, n, s => if (entryWrite e s).1 = 0 then checkEntries t (n + 1) s else some (n, (entryWrite e s).1)

/-- A package new by its identifier or version clears the persistent values of the objects it writes. -/
def clearForPackage (p : Package) (s : State) : State :=
  if s.per.appliedId = some (p.id, p.version) then s
  else s.updPer fun x => { x with
    appliedId := some (p.id, p.version)
    targets := x.targets.filter fun t => !(t.layer != 2 && p.entries.any fun e => keyOf e.index e.sub == t.key) }

/-- A live application: nothing when an entry would be refused. -/
def applyLive (p : Package) (s : State) : Option (Nat × Nat) × State :=
  match checkEntries p.entries 1 s with
  | some r => (some r, s)
  | none =>
    let t := p.entries.foldl (fun s e => (entryWrite e s).2) (clearForPackage p s)
    (none, (t.optVoid 0x1A).updPer fun x => { x with package := some p, mdpState := 1, mdpEntry := 0, mdpAbort := 0, built := true })

/-! ## The layers at Start (R347) -/

/-- The writer of the persistent layers: no right is short. -/
def layerCtx : Ctx := ⟨4, none, false⟩

/-- Whether the persistent value is tried at all: ContextEnable of a function with an unresolved target is not (R354), and the repetitive
memory is loaded by its own rule (06 R162). -/
def layerTried (s : State) (key : Nat) : Bool :=
  let i := key / 256
  !(i / 256 == 0x30 && key % 256 == 1 && disagreeing s (s.nat i 2)) && !(i / 256 == 0x34 && key % 256 == 0xD)

/-- Values in order; those refused, with their codes. -/
def tryValues (l : List (Nat × Val)) (s : State) : List (Nat × Val × Nat) × State :=
  l.foldl (fun p e =>
    if !layerTried p.2 e.1 then p
    else
      let r := baseWrite layerCtx (e.1 / 256) (e.1 % 256) e.2 p.2
      if r.1 = 0 then (p.1, r.2) else (p.1 ++ [(e.1, e.2, r.1)], p.2)) ([], s)

/-- One persistent layer: what is refused is tried once more, then skipped. -/
def applyLayer (layer : Nat) (s : State) : State :=
  let vals := (s.per.targets.filterMap fun t => if t.layer = layer then t.used.map fun v => (t.key, v) else none).foldr insertKey []
  let p := tryValues vals s
  let q := tryValues (p.1.map fun e => (e.1, e.2.1)) p.2
  q.1.foldl (fun s e =>
    let s := s.record ⟨0xB004, layer, 0xE, leBytes 4 e.1 ++ leBytes 4 e.2.2, [], 0xFFFFFFFF, 0xF⟩
    if layer = 1 then s.updPer fun x => { x with targets := dropTarget x.targets 1 e.1 } else s) q.2

/-- Objects that Belay's retention memory keeps (01 Table 01-2). -/
def retained (l : List (Nat × Val)) : List (Nat × Val) := l.filter fun e => e.1 / 256 == 0x2013 || e.1 / 256 == 0x2103

/-- The layers of Table 15-9. -/
def buildLayers (s : State) : State :=
  let s := { s with dict := retained s.dict }
  let s := if s.per.restore then s.updPer fun x => { x with restore := false, targets := x.targets.filter fun t => t.layer == 2 } else s
  let s := resolveAll s
  match s.per.package with
  | none => (applyLayer 2 (applyLayer 1 s)).updPer fun x => { x with built := true, mdpState := 0 }
  | some p =>
    let r := applyEntries p.entries 1 s
    match r.1 with
    | some (n, a) => s.updPer fun x => { x with mdpState := 2, mdpEntry := n, mdpAbort := a }
    | none =>
      let s := (clearForPackage p r.2).updPer fun x => { x with mdpState := 1, mdpEntry := 0, mdpAbort := 0, built := true }
      applyLayer 2 (applyLayer 1 s)

/-! ## The persistence window (R355, Table 15-12) -/

/-- Whether a target of a layer can be persistent. -/
def mayPersist (layer key : Nat) : Bool :=
  match objRow? (key / 256) (key % 256) with
  | none => false
  | some r => match layer with
    | 1 => storable (key / 256) r
    | 2 => r.acc = .rw
    | _ => safetyKey (key / 256) (key % 256)

/-- The bytes of a value in the window. -/
def targetBytes (key : Nat) (c : Option Copy) : Bytes :=
  match objRow? (key / 256) (key % 256), c with
  | some r, some x => encodeVal r.ty x.value
  | _, _ => []

/-- CopyState of one copy. -/
def copyState (c : Option Copy) : Nat := match c with | none => 2 | some x => if x.ok then 0 else 1

/-- PersistSnapshot: the three copies of the session's target. -/
def persistSnapshot (n : Nat) (s : State) : State :=
  let w := (s.sessOf n).win
  let key := w.persistTarget
  match findTarget s.per.targets w.persistLayer key with
  | none => s.updWin n fun y => { y with persistResult := if mayPersist w.persistLayer key then 1 else 2, persistCopy := [] }
  | some t =>
    let gen := fun (c : Option Copy) => leBytes 4 ((c.map (·.gen)).getD 0)
    let st := fun (c : Option Copy) => leBytes 1 (copyState c)
    s.updWin n fun y => { y with
      persistResult := 0
      persistCopy := [(5, .bytes (gen t.a ++ gen t.b ++ gen t.c)), (6, .bytes (st t.a ++ st t.b ++ st t.c)),
                      (7, .bytes (targetBytes key t.a)), (8, .bytes (targetBytes key t.b)), (9, .bytes (targetBytes key t.c)),
                      (0xA, .int t.state)] }

/-- ConfirmCommand. -/
def confirm (n v : Nat) (s : State) : Except Nat State :=
  let w := (s.sessOf n).win
  match findTarget s.per.targets w.persistLayer w.persistTarget with
  | none => .error Abort.state
  | some t =>
    if t.state ≠ 2 ∧ t.state ≠ 6 then .error Abort.state
    else
      let key := w.persistTarget
      let chosen := match v with
        | 1 => (goodCopy t.a).map (·.value)
        | 2 => (goodCopy t.b).map (·.value)
        | 3 => (goodCopy t.c).map (·.value)
        | _ => some (s.objValue (key / 256) (key % 256))
      match chosen with
      | none => .error Abort.state
      | some x =>
        let s := s.updPer fun p => { p with targets := putTarget p.targets { writeCopies t x true true true with state := 3 } }
        .ok (if w.persistLayer = 3 then s else (baseWrite layerCtx (key / 256) (key % 256) x s).2)

/-- Writes to 0x2140. -/
def windowWrite (w : Ctx) (i sub : Nat) (v : Val) (s : State) : Except Nat State :=
  checked w i sub v s fun s =>
    match w.sess with
    | none => .error Abort.noRight
    | some n =>
      let x := (valNum v).toNat
      match sub with
      | 1 => .ok (s.updWin n fun y => { y with persistLayer := x })
      | 2 => .ok (s.updWin n fun y => { y with persistTarget := x })
      | 3 => .ok (persistSnapshot n s)
      | _ => confirm n x s

def execPersistSnapshot (sess : Nat) (v : Int) (s : State) : Out := s.asSession sess 0x2140 fun w => windowWrite w 0x2140 3 (.int v)
def execConfirmCommand (sess : Nat) (v : Int) (s : State) : Out := s.asSession sess 0x2140 fun w => windowWrite w 0x2140 0xB (.int v)

/-- Values of 0x2110, 0x2140 and 0x2141. -/
def persistRead (s : State) (sess i sub : Nat) : Option Val :=
  let w := (s.sessOf sess).win
  let bad := s.per.targets.filter fun t => t.state == 2 || t.state == 6
  if i = 0x2110 then
    match sub with
    | 1 => some (.int (match s.per.package with | some p => if s.per.mdpState = 1 then p.id else 0 | none => 0))
    | 2 => some (.int (match s.per.package with | some p => if s.per.mdpState = 1 then p.version else 0 | none => 0))
    | 3 => some (.int s.per.mdpState) | 4 => some (.int s.per.mdpEntry) | 5 => some (.int s.per.mdpAbort)
    | _ => none
  else if i = 0x2140 then
    match sub with
    | 1 => some (.int w.persistLayer) | 2 => some (.int w.persistTarget) | 4 => some (.int w.persistResult)
    | k => (w.persistCopy.find? fun e => e.1 == k).map (·.2)
  else
    match sub with
    | 1 => some (.int bad.length)
    | _ => some (.bytes ((bad.take 64).flatMap fun t => leBytes 4 (t.layer * 2 ^ 24 + t.key)))

/-! ## Factory and user calibration (R348, R350) -/

/-- Writes to 0x6000–0x6FFF. -/
def factoryWrite (w : Ctx) (i sub : Nat) (v : Val) (s : State) : Except Nat State :=
  if s.per.fuse ∧ (objRow? i sub).isSome then .error Abort.readOnly
  else checked w i sub v s fun s =>
    if i = 0x6000 ∧ sub = 1 then .ok (s.updPer fun p => { p with fuse := true })
    else if i = 0x6000 then .ok (s.updPer fun p => { p with calDate := (valNum v).toNat })
    else .ok (s.updPer fun p => { p with areas := (i, valRaw v) :: p.areas.filter fun e => e.1 != i })

def execEolFuse (sess : Nat) (v : Int) (s : State) : Out := s.asSession sess 0x6000 fun w => factoryWrite w 0x6000 1 (.int v)

/-- Values of 0x6000–0x7FFF. -/
def calibrationRead (s : State) (i sub : Nat) : Option Val :=
  if i = 0x6000 then
    match sub with
    | 2 => some (.int (b2n s.per.fuse)) | 3 => some (.int s.per.calDate)
    | 4 => some (.int ((s.per.areaBad.map fun k => 2 ^ k).sum)) | _ => none
  else if i < 0x7000 then (s.per.areas.find? fun e => e.1 == i).map fun e => .bytes e.2
  else
    let l := s.per.targets.filter fun t => t.layer == 2
    if i = 0x7000 then some (.int l.length)
    else (l[i - 0x7001]?).map fun t =>
      match sub with
      | 1 => .int t.key
      | 2 => .bytes (match t.used with | some v => targetBytes t.key (some ⟨0, v, true⟩) | none => [])
      | _ => .int t.gen

end Sys2Proof.Machine
end

