-- ==== Sys2Proof/Machine/Update.lean ====
section
/-! DEFINITION. Updates: offers, blocks, commit, hand-overs, staging, probation and fall-back (chapter 19, R417–R433), and the
fleet-link messages that feed them. A source is a session's number, or 16 for the fleet link. -/

namespace Sys2Proof.Machine

/-! ## Regions and records -/

/-- Region code 1–8. -/
def State.region (s : State) (c : Nat) : Region := s.upd.regions.getD (c - 1) {}
def State.updRegion (s : State) (c : Nat) (f : Region → Region) : State :=
  s.updUpd fun u => { u with regions := updAt u.regions (c - 1) f }

/-- Flowstone code 0xC001 (R430). -/
def updRecord (region id event result : Nat) (s : State) : State :=
  s.record ⟨0xC001, region, 0xE, leBytes 4 id ++ leBytes 1 event ++ leBytes 1 result ++ [0#8, 0#8], [], 0xFFFFFFFF, 0xF⟩

/-- UpdateResult of a session, or FleetUpdateResult. -/
def setResult (src code : Nat) (s : State) : State :=
  if src = 16 then s.updUpd fun u => { u with fleetResult := code } else s.updSess src fun x => { x with updResult := code }

/-- UpdateId of a session, or FleetUpdateId. -/
def setId (src id : Nat) (s : State) : State :=
  if src = 16 then s.updUpd fun u => { u with fleetId := id } else s.updSess src fun x => { x with updId := id }

/-- Transport code of Table 15-5. -/
def transportCode : Transport → Nat
  | .c8 => 1 | .e1 => 2 | .e2 => 3 | .e3 => 4 | .usb => 5

/-- Transport and source of a source; transport 0 is the fleet link (R424). -/
def sourceOf (s : State) (src : Nat) : Nat × Nat :=
  if src = 16 then (0, 0) else (transportCode (s.sessOf src).transport, (s.sessOf src).source)

/-! ## The image header (R419, Table 19-2) -/

/-- All bytes are zero. -/
def zeros (b : Bytes) : Bool := b.all fun x => x == 0#8

/-- The header of a package carried in an offer: MAGIC 0x444D. -/
def isPackage (hdr : Bytes) : Bool := fieldLe hdr 0 2 == 0x444D

/-- Region code of a header. -/
def headerRegion (hdr : Bytes) : Nat := if isPackage hdr then 4 else fieldLe hdr 20 1

/-- MAGIC, HDR_FORMAT, REGION, the reserved fields and the length hold allowed values. -/
def imageHeaderOk (hdr : Bytes) : Bool :=
  hdr.length == 96 && fieldLe hdr 0 2 == 0x494C && fieldLe hdr 2 1 == 0 && fieldLe hdr 3 1 == 1 && zeros ((hdr.drop 4).take 14) &&
    decide (fieldLe hdr 18 1 < 2) && [1, 2, 3, 5, 6, 7, 8].contains (fieldLe hdr 20 1) && decide (1 ≤ fieldLe hdr 36 4) &&
    decide (fieldLe hdr 36 4 ≤ 536870912)

/-- The image's own signature (R419). -/
def imageSigned (hdr sig : Bytes) : Bool :=
  decide (fieldLe hdr 19 1 < 4) && Config.ecdsaP384 (Config.turyelKey (fieldLe hdr 19 1)) (sha384 hdr) sig

/-- What a slot keeps of an image. -/
def imgOf (hdr : Bytes) : Img := ⟨fieldLe hdr 28 4, fieldLe hdr 26 2, fieldLe hdr 24 2⟩

/-- The settings of the active image can be converted for the incoming one (R426). -/
def settingsFit (active : Img) (hdr : Bytes) (converted : Bool) : Bool :=
  fieldLe hdr 24 2 == active.format || (decide (fieldLe hdr 22 2 ≤ active.format) && converted)

/-! ## Freeing the Antechamber -/

/-- The Antechamber becomes free; a region that was receiving returns to its earlier state. -/
def freeAnte (restore : Bool) (s : State) : State :=
  let s := match s.upd.cur with
    | some o => if restore then s.updRegion o.region fun r => { r with state := r.before } else s
    | none => s
  s.updUpd fun u => { u with state := 0, owner := none, cur := none, body := [], last := none, committed := false }

/-- The running update ends with a result, which its owner, its region and the record tell. -/
def endUpdate (event code : Nat) (s : State) : State :=
  match s.upd.cur with
  | none => s
  | some o =>
    let s := match s.upd.owner with | some n => setResult n code s | none => s
    let s := s.updRegion o.region fun r => { r with lastResult := code }
    updRecord o.region o.id event code (freeAnte true s)

/-! ## Offers (R420, R423, Table 19-4) -/

/-- The first result of Table 19-4 from 0x0D to 0x08, 0 when none holds. -/
def offerFault (rec_ : Bytes) (s : State) : Nat :=
  let hdr := rec_.take 96
  let sig := (rec_.drop 96).take 96
  if ¬ (s.pw.dev = .run ∨ s.pw.dev = .service ∨ (s.pw.dev = .start ∧ s.per.mdpState = 2 ∧ isPackage hdr)) then 0x0D
  else if isPackage hdr then
    if !(packageHeaderOk (hdr.take 32) && zeros (hdr.drop 32) && zeros sig && zeros ((rec_.drop 192).take 7)) then 7
    else if fieldLe hdr 3 1 ≠ formatMajor then 9
    else 0
  else if !(imageHeaderOk hdr && zeros ((rec_.drop 192).take 7)) then 7
  else if fieldLe hdr 21 1 ≠ formatMajor then 9
  else if !imageSigned hdr sig then 6
  else if fieldLe hdr 26 2 < (s.region (headerRegion hdr)).fuse then 8
  else 0

/-- Bytes that an offered update's blocks carry: the image's body, or the entries and the package's signature. -/
def offerTotal (hdr : Bytes) : Nat := if isPackage hdr then fieldLe hdr 16 4 + 96 else fieldLe hdr 36 4

/-- A region is busy: receiving, staged, in probation, or with a committed update not yet in effect. -/
def regionBusy (s : State) (c : Nat) : Bool := [1, 2, 3].contains (s.region c).state

/-- 0x01 or 0x02 by who holds the Antechamber. -/
def busyCode (s : State) : Nat := if s.upd.ownTransport = 0 then 1 else 2

/-- The offer of a source is judged on the rows from 0x01 on. -/
def judgeOffer (src : Nat) (rec_ : Bytes) (s : State) : State :=
  let hdr := rec_.take 96
  let c := headerRegion hdr
  let busy : Option Offer := match s.upd.cur with | some o => if s.upd.owner = some src then none else some o | none => none
  match busy with
  | some o => updRecord c o.id 1 (busyCode s) (setId src o.id (setResult src (busyCode s) s))
  | none =>
    if regionBusy s c then updRecord c (s.region c).lastId 1 4 (setId src (s.region c).lastId (setResult src 4 s))
    else
      let id := s.upd.count + 1
      let o : Offer := ⟨id, c, hdr, (rec_.drop 96).take 96, sha384 hdr, offerTotal hdr⟩
      let s := s.updUpd fun u => { u with count := id, offers := (src, o) :: u.offers.filter fun p => p.1 != src }
      updRecord c id 1 0 (setId src id (setResult src 0 s))

/-- A local Service session pre-empts an uncommitted fleet-link update (Table 19-4, 0x05). -/
def preempts (src : Nat) (s : State) : Bool :=
  src != 16 && Right.svc.met (s.sessOf src).role && ((s.sessOf src).transport == .c8 || (s.sessOf src).transport == .usb) &&
    s.upd.owner == some 16 && !s.upd.committed

/-- An offer of 232 bytes whose source may make it. -/
def offer (src : Nat) (rec_ : Bytes) (s : State) : State :=
  let hdr := rec_.take 96
  let c := headerRegion hdr
  let f := offerFault rec_ s
  if f ≠ 0 then updRecord c 0 1 f (setResult src f s)
  else
    let same : Option Offer := match s.upd.cur with | some o => if o.digest = sha384 hdr then some o else none | none => none
    match same with
    | some o =>
      let s := if s.upd.state = 4 ∧ (s.upd.ownTransport, s.upd.ownSource) = sourceOf s src then
          s.updUpd fun u => { u with state := 1, owner := some src } else s
      updRecord c o.id 1 3 (setId src o.id (setResult src 3 s))
    | none =>
      let s := if preempts src s then endUpdate 9 5 s else s
      judgeOffer src rec_ s

/-- The checks of a fleet-link offer (R420). -/
def fleetOfferOk (stamp : Nat) (rec_ : Bytes) (s : State) : Bool :=
  let role := fieldLe rec_ 199 1
  rec_.length == 232 && (role == 2 || role == 3) &&
    hmac256 (if role = 2 then s.serviceKey else s.oemKey) (rec_.take 200 ++ leBytes 8 stamp) == rec_.drop 200 &&
    decide (((stamp : Int) - s.tm.now).natAbs ≤ 60000000000) && decide (s.upd.fleetStamp < stamp)

/-- An offer on the fleet link: discarded and counted when a check fails. -/
def fleetOffer (stamp : Nat) (rec_ : Bytes) (s : State) : State :=
  if fleetOfferOk stamp rec_ s then
    let t := offer 16 rec_ s
    if t.upd.fleetResult = 0 ∨ t.upd.fleetResult = 3 then t.updUpd fun u => { u with fleetStamp := stamp } else t
  else s.updFleet fun f => { f with rejected := f.rejected + 1 }

/-! ## Blocks (R420) -/

/-- A block at an offset from a source, answered with its result. -/
def block (src off : Nat) (data : Bytes) (s : State) : State :=
  if s.upd.owner = some src ∧ s.upd.state = 1 then
    if s.upd.last = some (off, data) then setResult src 0 s
    else if off = s.upd.body.length then
      setResult src 0 (s.updUpd fun u => { u with body := u.body ++ data, last := some (off, data) })
    else setResult src 0xB s
  else match s.upd.cur with
    | some o => if s.upd.owner = some src then setResult src 0xB s else setId src o.id (setResult src (busyCode s) s)
    | none =>
      match s.upd.offers.find? fun p => p.1 == src with
      | none => setResult src 0xB s
      | some (_, o) =>
        if off ≠ 0 then setResult src 0xB s
        else if regionBusy s o.region then setId src (s.region o.region).lastId (setResult src 4 s)
        else
          let t := sourceOf s src
          let s := s.updUpd fun u =>
            { u with offers := u.offers.filter fun p => p.1 != src
                     state := 1, owner := some src, ownTransport := t.1, ownSource := t.2, cur := some o, body := data
                     last := some (0, data), committed := false }
          let s := s.updRegion o.region fun r => { r with before := r.state, state := 1, lastId := o.id }
          updRecord o.region o.id 2 0 (setId src o.id (setResult src 0 s))

/-! ## Commit and abort (R420, R425) -/

/-- The blocks are the whole update: BODY_LENGTH and BODY_DIGEST, or the package's own checks. -/
def bodyOk (o : Offer) (s : State) : Bool :=
  s.upd.body.length == o.total &&
    (if o.region = 4 then
      (packageOf s (o.header.take 32) (s.upd.body.take (o.total - 96)) (s.upd.body.drop (o.total - 96))).isSome
     else sha384 s.upd.body == o.header.drop 48)

/-- UpdateCommand 0x01 from the owner. -/
def commitUpdate (src : Nat) (s : State) : Except Nat State :=
  if s.upd.owner = some src ∧ s.upd.state = 1 then
    match s.upd.cur with
    | none => .error Abort.state
    | some o =>
      if bodyOk o s then
        .ok (updRecord o.region o.id 3 0 (setResult src 0 (s.updUpd fun u => { u with committed := true, state := 3 })))
      else .ok (endUpdate 3 0xC s)
  else .error Abort.state

/-- UpdateCommand 0x02 from the owner. -/
def abortUpdateBy (src : Nat) (s : State) : Except Nat State :=
  if s.upd.owner = some src ∧ s.upd.cur.isSome then .ok (endUpdate 0xA 0x11 s) else .error Abort.state

/-! ## Regions: withdraw, confirm, fall back (R423, R427) -/

/-- UpdateCommand 0x03. -/
def withdrawRegion (c : Nat) (s : State) : Except Nat State :=
  if (s.region c).state = 2 then .ok (s.updRegion c fun r => { r with staged := none, state := r.before }) else .error Abort.state

/-- The region's image is confirmed. -/
def confirmed (c : Nat) (s : State) : State :=
  let s := s.updRegion c fun r => { r with state := 4, prev := none, left := 0, fall := false, fuse := max r.fuse (min r.active.rollback 63) }
  updRecord c (s.region c).lastId 7 0 s

/-- The region runs its previous image again. -/
def fallBackNow (c : Nat) (s : State) : State :=
  let s := s.updRegion c fun r =>
    { r with active := r.prev.getD r.active, prev := none, state := 0, left := 0, restarts := 0, fall := false }
  updRecord c (s.region c).lastId 8 0 s

/-- Regions whose image takes effect live (Table 19-1). -/
def liveRegion (c : Nat) : Bool := c == 1 || c == 2 || c == 3

/-- UpdateCommand 0x04 and 0x05: only in probation; the fall-back of a staged region waits for the next Start. -/
def confirmCommand (c : Nat) (s : State) : Except Nat State :=
  if (s.region c).state = 3 then .ok (confirmed c s) else .error Abort.state
def fallBackCommand (c : Nat) (s : State) : Except Nat State :=
  if (s.region c).state ≠ 3 ∨ (s.region c).fall then .error Abort.state
  else .ok (if liveRegion c then fallBackNow c s else s.updRegion c fun r => { r with fall := true })

/-- The fall-backs that wait for Start. -/
def startFallBacks (s : State) : State :=
  (rangeFrom 1 8).foldl (fun s c => if (s.region c).fall then fallBackNow c s else s) s

/-- UpdateCommand without leave Ladder, from a session (with its role) or from the fleet link. -/
def regionCommand (src role cmd c : Nat) (s : State) : Except Nat State :=
  match cmd with
  | 1 => commitUpdate src s
  | 2 => abortUpdateBy src s
  | k =>
    if k < 3 ∨ 5 < k then .error Abort.range
    else if src ≠ 16 ∧ !Right.os.met role then .error Abort.noRight
    else if c < 1 ∨ 8 < c then .error Abort.range
    else if k = 3 then withdrawRegion c s
    else if k = 4 then confirmCommand c s
    else fallBackCommand c s

/-! ## Ladder (R429) -/

/-- The result of an image offered in Ladder. -/
def ladderFault (hdr sig : Bytes) (s : State) : Nat :=
  if !(imageHeaderOk hdr && fieldLe hdr 18 1 == 1) then 7
  else if fieldLe hdr 21 1 ≠ formatMajor then 9
  else if !imageSigned hdr sig then 6
  else if fieldLe hdr 26 2 < (s.region (headerRegion hdr)).fuse then 8
  else 0

/-- An offer in Ladder. -/
def ladderOffer (n : Nat) (rec_ : Bytes) (s : State) : State :=
  let hdr := rec_.take 96
  let sig := (rec_.drop 96).take 96
  let f := if zeros ((rec_.drop 192).take 7) then ladderFault hdr sig s else 7
  let c := headerRegion hdr
  if f ≠ 0 then updRecord c 0 1 f (setResult n f s)
  else
    let id := s.upd.count + 1
    let s := s.updUpd fun u => { u with count := id, slot := some (n, ⟨id, c, hdr, sig, sha384 hdr, offerTotal hdr⟩, []) }
    updRecord c id 1 0 (setId n id (setResult n 0 s))

/-- A block written to the slot. -/
def ladderBlock (n off : Nat) (data : Bytes) (s : State) : State :=
  match s.upd.slot with
  | some (m, o, b) =>
    if m = n ∧ off = b.length then setResult n 0 (s.updUpd fun u => { u with slot := some (m, o, b ++ data) }) else setResult n 0xB s
  | none => setResult n 0xB s

/-- LadderReason after a region has a valid image again. -/
def ladderReasonAfter (c reason : Nat) : Nat := if c = 5 then setBit reason 0 false else if c = 1 then setBit reason 1 false else reason

/-- Commit in Ladder: the slot is verified and made active; no probation. -/
def ladderCommit (n : Nat) (s : State) : Except Nat State :=
  match s.upd.slot with
  | some (m, o, b) =>
    if m ≠ n then .error Abort.state
    else
      let s := s.updUpd fun u => { u with slot := none }
      let code := if b.length = o.total ∧ sha384 b = o.header.drop 48 then 0 else 0xC
      let s := if code ≠ 0 then s else
        (s.updRegion o.region fun r => { r with prev := some r.active, active := imgOf o.header, state := 0, left := 0, fall := false }).updUpd
          fun u => { u with ladderReason := ladderReasonAfter o.region u.ladderReason }
      let s := s.updRegion o.region fun r => { r with lastId := o.id, lastResult := code }
      .ok (updRecord o.region o.id 3 code (setResult n code s))
  | none => .error Abort.state

/-- The whole recovery of one image. -/
def ladderImage (n : Nat) (hdr sig body : Bytes) (s : State) : Except Nat State :=
  let t := ladderOffer n (hdr ++ sig ++ List.replicate 40 0#8) s
  if (t.sessOf n).updResult ≠ 0 then .ok t else ladderCommit n (ladderBlock n 0 body t)

def execLadderImageWrite (sess : Nat) (hdr sig body : Bytes) (s : State) : Out :=
  s.asSession sess 0x5A10 fun w s =>
    if !Right.svc.met w.role then .error Abort.noRight
    else if s.pw.dev ≠ .ladder then .error Abort.state
    else if hdr.length ≠ 96 ∨ sig.length ≠ 96 then .error Abort.range
    else ladderImage sess hdr sig body s

/-! ## Writes of 0x5A10 by a session, and the same on the fleet link -/

/-- Writes to 0x5A01 and 0x5A10, but for the command that leaves Ladder. -/
def updWrite (w : Ctx) (i sub : Nat) (v : Val) (s : State) : Except Nat State :=
  checked w i sub v s fun s =>
    if i ≠ 0x5A10 then .ok (s.put i sub v)
    else match w.sess with
      | none => .error Abort.noRight
      | some n =>
        let b := valRaw v
        let ladder : Bool := decide (s.pw.dev = .ladder)
        match sub with
        | 1 => .ok (if ladder then ladderOffer n b s else if zeros (b.drop 199) then offer n b s else setResult n 7 s)
        | 2 => .ok ((if ladder then ladderBlock else block) n (fieldLe b 0 4) (b.drop 4) s)
        | _ =>
          let x := (valNum v).toNat
          if ladder ∧ x / 256 = 1 then ladderCommit n s else regionCommand n w.role (x / 256) (x % 256) s

/-- A session's command, or the fleet link's, whose refusal nobody is told (R420). -/
def updateCommand (src : UpSource) (cmd c : Nat) (s : State) : Out :=
  match src with
  | .session n => s.asSession n 0x5A10 fun w => updWrite w 0x5A10 3 (.int (cmd * 256 + c : Nat))
  | .fleet _ => .next (if publishing s then (answered s (regionCommand 16 0 cmd c s)).2 else s)

def execUpdateOffer (src : UpSource) (rec_ : Bytes) (s : State) : Out :=
  match src with
  | .session n => s.asSession n 0x5A10 fun w => updWrite w 0x5A10 1 (.bytes rec_)
  | .fleet t => .next (if s.reachable then fleetOffer t rec_ s else s)

def execUpdateBlock (src : UpSource) (offset : Nat) (data : Bytes) (s : State) : Out :=
  match src with
  | .session n => s.asSession n 0x5A10 fun w => updWrite w 0x5A10 2 (.bytes (leBytes 4 offset ++ data))
  | .fleet _ => .next (if s.reachable ∧ 1 ≤ data.length ∧ data.length ≤ 32764 then block 16 offset data s else s)

def execUpdateCommit (src : UpSource) (s : State) : Out := updateCommand src 1 0 s
def execUpdateAbort (src : UpSource) (s : State) : Out := updateCommand src 2 0 s
def execWithdrawStaged (src : UpSource) (region : Nat) (s : State) : Out := updateCommand src 3 (region % 256) s
def execConfirmRegion (src : UpSource) (region : Nat) (s : State) : Out := updateCommand src 4 (region % 256) s
def execFallBack (src : UpSource) (region : Nat) (s : State) : Out := updateCommand src 5 (region % 256) s

/-- One entry of an in/update message. -/
def fleetEntry (stamp : Nat) (e : ObjEntry) (s : State) : State :=
  if e.index ≠ 0x5A10 then s
  else if e.sub = 1 then fleetOffer stamp e.data s
  else if e.sub = 2 ∧ 5 ≤ e.data.length ∧ e.data.length ≤ 32768 then block 16 (fieldLe e.data 0 4) (e.data.drop 4) s
  else if e.sub = 3 ∧ e.data.length = 2 then (answered s (regionCommand 16 0 (fieldLe e.data 1 1) (fieldLe e.data 0 1) s)).2
  else s

/-- The entries of an in/update message, in order. -/
def fleetUpdate (stamp : Nat) (l : List ObjEntry) (s : State) : State := l.foldl (fun s e => fleetEntry stamp e s) s

def execFleetUpdateMessage (stamp : Nat) (entries : List ObjEntry) (s : State) : Out :=
  .next (if publishing s ∧ s.fleet.link = 2 then fleetUpdate stamp entries s else s)

/-- An incoming message that is discarded (09 R219). -/
def rejectMessage (s : State) : State := s.updFleet fun f => { f with rejected := f.rejected + 1 }

/-- An incoming message is routed by topic and header (09 R219). -/
def fleetMessage (topic : InTopic) (msg : Bytes) (s : State) : State :=
  if topic = .rtcm then rtcmStep true msg s
  else if !headerOk topic msg then rejectMessage s
  else match topic with
    | .map => storePrior (msg.drop 16) s
    | .cartPose =>
      if msg.length ≠ 36 ∨ fieldLe msg 18 1 ≠ 3 then rejectMessage s
      else s.updSteer fun x => { x with cart := { x.cart with report := some (cartReport msg) } }
    | _ =>
      match parseEntries msg.length (msg.drop 16) with
      | some l => fleetUpdate (fieldLe msg 0 8) l s
      | none => rejectMessage s

def execFleetMessageReceive (topic : InTopic) (msg : Bytes) (s : State) : Out :=
  .next (if publishing s ∧ s.fleet.link = 2 then fleetMessage topic msg s else s)

/-! ## Taking effect (R421, R422, 05 R150, 15 R346, 17 R394) -/

/-- A committed live update may be applied now. -/
def liveMay (s : State) : Bool := (s.pw.dev = .run || s.pw.dev = .service) && !s.pw.episode

/-- The committed update of a region. -/
def committedFor (c : Nat) (s : State) : Option Offer :=
  match s.upd.cur with
  | some o => if s.upd.committed ∧ o.region = c then some o else none
  | none => none

/-- The incoming image runs and stands in probation (R427). In the application frame of a Gallery hand-over no Lead is placed (03 R90). -/
def inEffect (o : Offer) (s : State) : State :=
  let s := s.updRegion o.region fun r =>
    { r with state := 3, prev := some r.active, active := imgOf o.header, left := probationNs, restarts := 0, fall := false, lastResult := 0 }
  let s := if o.region = 1 then s.updLead fun x => { x with pause := true } else s
  let s := match s.upd.owner with | some n => setResult n 0 s | none => s
  updRecord o.region o.id 4 0 (freeAnte false s)

/-- A live image is applied, or the update ends with the result of what refuses it. -/
def applyImage (c code : Nat) (converted fits : Bool) (s : State) : State :=
  match committedFor c s with
  | none => s
  | some o =>
    if !liveMay s then s
    else if !settingsFit (s.region c).active o.header converted then endUpdate 4 0x12 s
    else if !fits then endUpdate 4 code s
    else inEffect o s

def execGalHandover (accepted converted : Bool) (s : State) : Out := .next (applyImage 1 0xF converted accepted s)
def execLpeHandover (costs : List Nat) (s : State) : Out := .next (applyImage 2 0xE true (lpeFits costs s) s)
def execLanHandover (s : State) : Out := .next (applyImage 3 0 true true s)

/-- A committed package is applied live, or refused with its entry (15 R346). -/
def applyPackage (s : State) : State :=
  match committedFor 4 s with
  | none => s
  | some o =>
    if !(liveMay s || (s.pw.dev = .start && s.per.mdpState == 2 && !s.pw.episode)) then s
    else match packageOf s (o.header.take 32) (s.upd.body.take (o.total - 96)) (s.upd.body.drop (o.total - 96)) with
      | none => endUpdate 4 0xC s
      | some p =>
        let r := applyLive p s
        match r.1 with
        | some (n, a) => endUpdate 4 0x10 (s.updPer fun x => { x with mdpEntry := n, mdpAbort := a })
        | none =>
          let s := r.2.updRegion 4 fun x => { x with lastResult := 0 }
          let s := match s.upd.owner with | some n => setResult n 0 s | none => s
          updRecord 4 o.id 4 0 (freeAnte true s)

def execMdpLiveApply (s : State) : Out := .next (applyPackage s)

/-- Regions whose image is staged. -/
def stagedRegion (c : Nat) : Bool := c == 5 || c == 6 || c == 7 || c == 8

/-- The committed image is moved to its staging area; the Antechamber is free (R422). -/
def stageImage (s : State) : State :=
  match s.upd.cur with
  | none => s
  | some o =>
    if s.upd.committed ∧ stagedRegion o.region then
      let s := s.updRegion o.region fun r => { r with state := 2, staged := some (imgOf o.header), stagedMin := fieldLe o.header 22 2, lastResult := 0 }
      let s := match s.upd.owner with | some n => setResult n 0 s | none => s
      updRecord o.region o.id 5 0 (freeAnte false s)
    else s

def execImageStaged (s : State) : Out := .next (if s.reachable then stageImage s else s)

/-- The copy of a staged image at Start (R422, R426). -/
def copyStaged (c : Nat) (verified selfTest converted : Bool) (s : State) : State :=
  let r := s.region c
  match r.staged with
  | none => s
  | some x =>
    let fits := decide (x.format = r.active.format) || (decide (r.stagedMin ≤ r.active.format) && converted)
    let code := if !verified then 0x13 else if !fits then 0x12 else 0
    let s := s.updRegion c fun r =>
      if code = 0 then
        { r with staged := none, state := 3, prev := some r.active, active := x, left := probationNs, restarts := 0, fall := false, lastResult := 0 }
      else { r with staged := none, state := r.before, lastResult := code }
    let s := updRecord c r.lastId 6 code s
    if code = 0 ∧ !selfTest then fallBackNow c s else s

def execStagedCopy (region : Nat) (verified selfTest converted : Bool) (s : State) : Out :=
  withUnit (stagedRegion region) (if s.pw.dev = .start then copyStaged region verified selfTest converted s else s)

/-! ## Time (R424, R427) -/

/-- The owning session has ended (R424). -/
def orphan (s : State) : State :=
  if s.upd.state = 1 then s.updUpd fun u => { u with state := 4, owner := none, orphanAt := s.tm.mono }
  else s.updUpd fun u => { u with owner := none }

/-- R424: OrphanHold has passed. -/
def execOrphanHoldExpiry (s : State) : Out :=
  .next (if s.upd.state = 4 ∧ s.waited s.upd.orphanAt (s.nat 0x5A01 0xA * 1000000000) then freeAnte true s else s)

def execProbationEnd (region : Nat) (s : State) : Out :=
  withUnit (decide (1 ≤ region) && decide (region ≤ 8))
    (if s.pw.dev = .run ∧ (s.region region).state = 3 ∧ (s.region region).left = 0 then confirmed region s else s)

def execEngineRestartFallBack (region : Nat) (s : State) : Out :=
  withUnit (liveRegion region)
    (if s.reachable ∧ (s.region region).state = 3 then fallBackNow region s else s)

/-- Each loop frame in Run takes 100 µs off the regions in probation. -/
def probationFrame (s : State) : State :=
  if s.pw.dev = .run then
    s.updUpd fun u => { u with regions := u.regions.map fun r => if r.state = 3 then { r with left := r.left - 100000 } else r }
  else s

/-- At the entry to Shutdown an uncommitted update is aborted, and offers without blocks are gone. -/
def updShutdown (s : State) : State :=
  let s := if s.upd.committed then s else endUpdate 0xA 0x11 s
  s.updUpd fun u => { u with offers := [] }

/-! ## What the objects read (R431) -/

/-- Values of 0x5A01, 0x5A10, 0x5A20–0x5A27 and 0x5A40. -/
def updRead (s : State) (sess i sub : Nat) : Option Val :=
  let u := s.upd
  if i = 0x5A01 then
    match sub with
    | 1 => some (.int u.state)
    | 2 => some (.int (if u.state = 0 then 0 else if u.ownTransport = 0 then 1 else 2))
    | 3 => some (.int (match u.owner with | some n => if n < 16 then n else 0xFF | none => 0xFF))
    | 4 => some (.int (match u.cur with | some o => o.id | none => 0))
    | 5 => some (.int (match u.cur with | some o => o.region | none => 0))
    | 6 => some (.int u.body.length)
    | 7 => some (.int (match u.cur with | some o => o.total | none => 0))
    | 8 => some (.int u.fleetResult) | 9 => some (.int u.fleetId) | 0xB => some (.int u.count)
    | _ => none
  else if i = 0x5A10 then
    match sub with
    | 4 => some (.int (s.sessOf sess).updResult) | 5 => some (.int (s.sessOf sess).updId) | _ => none
  else if i = 0x5A40 then some (.int u.ladderReason)
  else
    let c := i - 0x5A20 + 1
    let r := s.region c
    match sub with
    | 1 => some (.int r.state)
    | 2 => some (if c = 4 then (persistRead s sess 0x2110 2).getD (.int 0) else .int r.active.version)
    | 3 => some (.int (match r.prev with | some x => x.version | none => 0))
    | 4 => some (.int (match r.staged with | some x => x.version | none => 0))
    | 5 => some (.int r.fuse) | 6 => some (.int r.active.format)
    | 7 => some (.int ((r.left + 999999999) / 1000000000 : Nat)) | 8 => some (.int r.lastId) | _ => some (.int r.lastResult)

end Sys2Proof.Machine
end

