-- ==== Sys2Proof/Machine/Session.lean ====
section
/-! DEFINITION. Device state changes as they are recorded (01 R29, 18 R451), and the dictionary's sessions: opening, roles, lockouts and
their end (15 R337–R341). -/

namespace Sys2Proof.Machine

/-! ## Device state changes -/

/-- Flowstone code 0x1002: new state, old state, cause (16 Table 16-3). -/
def devRecord (old new cause : Nat) (s : State) : State :=
  s.record ⟨0x1002, new, 1, leBytes 1 old ++ leBytes 1 cause ++ List.replicate 6 0#8, [], 0xFFFFFFFF, 0xF⟩

/-- PowerHistory takes an entry (18 Table 18-8). -/
def noteHistory (state cause : Nat) (s : State) : State :=
  s.updBelay fun b => { b with history := (⟨s.tm.now / 1000000000, state, cause⟩ :: b.history).take 16 }

/-- The device state changes: history entry and record; in Park and Dormant nothing is recorded, so an entry to them is recorded before
it. -/
def changeDev (d : Dev) (cause : Nat) (s : State) : State :=
  let old := devCode s.pw.dev
  let sleep : Bool := d = .park || d = .dormant
  let s := if sleep then devRecord old (devCode d) cause s else s
  let s := noteHistory (devCode d) cause (s.updPw fun p => { p with dev := d })
  if sleep then s else devRecord old (devCode d) cause s

/-- Service returns to Run (Table 01-9); each function keeps its mode (05 R141). -/
def serviceToRun (cause : Nat) (s : State) : State := changeDev .run cause (s.updPw fun p => { p with reqSess := none })

/-! ## The end of a session (R341) -/

/-- Everything that a session held is released. -/
def endSession (n : Nat) (s : State) : State :=
  if !(s.sessOf n).opened then s
  else
    let s := canSessionEnd n (testsEnd n (traceSessionEnd n s))
    let s := if s.upd.owner = some n then orphan s else s
    let s := s.updUpd fun u =>
      { u with offers := u.offers.filter fun p => p.1 != n, slot := match u.slot with | some (m, o, b) => if m = n then none else some (m, o, b) | none => none }
    let s := s.updPctl fun c => { c with resetSess := if c.resetSess = some n then none else c.resetSess }
    let s := s.updServ fun v => { v with sess := v.sess.set n {} }
    if s.pw.reqSess = some n then
      if s.pw.dev = .service then serviceToRun 0xA s else s.updPw fun p => { p with reqSess := none }
    else s

/-- Every session with a property ends. -/
def endSessions (p : Sess → Bool) (s : State) : State :=
  (List.range 16).foldl (fun s n => if p (s.sessOf n) then endSession n s else s) s

/-- Sessions on C8 end with its bus-off or disabling. -/
def c8Gone (s : State) : State :=
  if (s.cch 7).state = 0 ∨ (s.cch 7).state = 4 then endSessions (fun x => x.opened && x.transport == .c8) s else s

/-- A change of the next state. -/
def thenNext (f : State → State) (o : Out) : Out :=
  match o with
  | .next s => .next (f s)
  | o => o

def execBusOff (c : Nat) (s : State) : Out := withUnit (decide (c < 8)) (c8Gone (goBusOff c s))

def execCanChannelConfigWrite (sess c sub : Nat) (v : Int) (s : State) : Out :=
  if c < 8 then thenNext c8Gone (s.asSession sess (canObjIx c) fun w => canWrite w (canObjIx c) sub (.int v)) else withUnit false s

/-! ## Opening (R339, R342, R343) -/

/-- A transport carries sessions now (15 Table 15-5, 19 R429). -/
def transportServes (s : State) (tr : Transport) : Bool :=
  if s.pw.dev = .ladder then tr = .c8 || tr = .usb
  else match tr with
    | .c8 => (s.cch 7).up
    | .e1 => (s.nat 0x2103 2).testBit 0 | .e2 => (s.nat 0x2103 2).testBit 1 | .e3 => (s.nat 0x2103 2).testBit 2
    | .usb => (s.nat 0x2103 2).testBit 3

/-- New sessions are accepted: in Start not while staged images wait to be copied (Table 15-15). -/
def sessionsOpen (s : State) : Bool :=
  (s.reachable || s.pw.dev = .ladder && !s.belay.resetWait) && !(s.pw.dev = .start && s.upd.regions.any fun r => r.staged.isSome)

/-- The first number free. -/
def freeSession (s : State) : Option Nat := (indices 16 fun n => !(s.sessOf n).opened).head?

/-- A session on C8 of a client node-ID. -/
def clientSession (s : State) (source : Nat) : Option Nat :=
  (indices 16 fun n => (s.sessOf n).opened && (s.sessOf n).transport == .c8 && (s.sessOf n).source == source).head?

/-- Open a session; none when there are 16 (R339). -/
def openSession (tr : Transport) (source : Nat) (s : State) : Option (Nat × State) :=
  (freeSession s).map fun n => (n, s.updSess n fun _ => { opened := true, transport := tr, source := source, lastReq := s.tm.mono })

def execSessionOpen (tr : Transport) (source : Nat) (s : State) : Out :=
  .next (if !sessionsOpen s || !transportServes s tr || (tr = .c8 && (clientSession s source).isSome) then s
    else match openSession tr source s with | some p => p.2 | none => s)

/-! ## Roles (R339, R340) -/

/-- A role may be asked for on a transport, and in Ladder (Table 15-3, 19 R429). -/
def roleAllowed (s : State) (tr : Transport) (r : Nat) : Bool :=
  (r != 4 || tr = .c8 || tr = .usb) && (s.pw.dev ≠ .ladder || r == 2 || r == 4)

/-- The key of a role. -/
def State.roleKey (s : State) (r : Nat) : Bytes :=
  match r with
  | 1 => sha256 (leBytes 4 Config.serialNumber ++ s.serv.password)
  | 2 => s.serviceKey
  | 3 => s.oemKey
  | _ => Config.factoryKey

/-- The write of RoleRequest. -/
def requestRole (n r : Nat) (s : State) : Except Nat State :=
  if !roleAllowed s (s.sessOf n).transport r then .error Abort.noRight
  else if s.serv.lockouts.any (·.1 == (s.sessOf n).source) then .error Abort.state
  else .ok (s.updSess n fun x => { x with roleReq := some r, chal := none })

/-- A read of Challenge: 16 bytes, new for each request. -/
def takeChallenge (n : Nat) (random : Bytes) (s : State) : State :=
  s.updSess n fun x => { x with chal := some ⟨random, s.tm.mono, false⟩, answer := 0, answerData := random }

/-- The 22-byte message of a response. -/
def responseMessage (c : Chal) (n r : Nat) : Bytes := c.value ++ leBytes 4 Config.serialNumber ++ leBytes 1 n ++ leBytes 1 r

/-- Flowstone codes 0xB001 and 0xB002: role and source. -/
def roleRecord (code n r source : Nat) (s : State) : State :=
  s.record ⟨code, n, 0xE, leBytes 1 r ++ leBytes 4 source ++ List.replicate 3 0#8, [], 0xFFFFFFFF, 0xF⟩

/-- A failed response counts, and the fifth from its source within 10 minutes refuses further requests (R340). -/
def failResponse (n r : Nat) (s : State) : State :=
  let src := (s.sessOf n).source
  let fails := (src, s.tm.mono) :: s.serv.fails
  let recent := fails.filter fun f => f.1 == src && decide (s.tm.mono ≤ f.2 + 600000000000)
  let s := s.updServ fun v =>
    { v with failedAttempts := inc32 v.failedAttempts, fails := fails
             lockouts := if 5 ≤ recent.length ∧ !v.lockouts.any (·.1 == src) then (src, s.tm.mono) :: v.lockouts else v.lockouts }
  roleRecord 0xB002 n r src s

/-- The write of Response. -/
def checkResponse (n : Nat) (r : Bytes) (s : State) : Except Nat State :=
  let x := s.sessOf n
  match x.chal, x.roleReq with
  | some c, some role =>
    if c.used ∨ c.time + 10000000000 < s.tm.mono then .error Abort.state
    else
      let s := s.updSess n fun x => { x with chal := some { c with used := true } }
      if hmac256 (s.roleKey role) (responseMessage c n role) = r then
        .ok (roleRecord 0xB001 n role x.source
          (s.updSess n fun x => { x with role := role, key := s.roleKey role, response := r }))
      else .ok (failResponse n role s)
  | _, _ => .error Abort.state

/-- Writes to 0x2100. -/
def sessionWrite (w : Ctx) (i sub : Nat) (v : Val) (s : State) : Except Nat State :=
  checked w i sub v s fun s =>
    match w.sess with
    | none => .error Abort.noRight
    | some n =>
      match sub with
      | 2 => requestRole n (valNum v).toNat s
      | 4 => checkResponse n (valRaw v) s
      | 6 => .ok (s.updSess n fun x => { x with timeout := (valNum v).toNat })
      | _ => .ok (endSession n s)

def execRoleRequest (sess : Nat) (v : Int) (s : State) : Out := s.asSession sess 0x2100 fun w => sessionWrite w 0x2100 2 (.int v)
def execResponse (sess : Nat) (r : Bytes) (s : State) : Out := s.asSession sess 0x2100 fun w => sessionWrite w 0x2100 4 (.bytes r)
def execSessionClose (sess : Nat) (v : Int) (s : State) : Out := s.asSession sess 0x2100 fun w => sessionWrite w 0x2100 7 (.int v)

/-- The random bytes are the module's own: those beyond 16 are not taken, missing ones are 0. -/
def execChallenge (sess : Nat) (random : Bytes) (s : State) : Out :=
  withUnit (decide (sess < 16))
    (if (s.sessOf sess).opened && s.reaches 0x2100 then takeChallenge sess ((random ++ List.replicate 16 0#8).take 16) (s.touch sess) else s)

/-- R340: 5 minutes after it began a lockout ends. -/
def execRoleLockoutEnd (source : Nat) (s : State) : Out :=
  .next (s.updServ fun v => { v with lockouts := v.lockouts.filter fun e => !(e.1 == source && s.waited e.2 300000000000) })

def execSessionTimeout (sess : Nat) (s : State) : Out :=
  withUnit (decide (sess < 16))
    (if s.reaches 0x2100 && s.waited (s.sessOf sess).lastReq ((s.sessOf sess).timeout * 1000000000) then endSession sess s else s)

/-- No segment has come for 1 s: the transfer ends with abort 0x0504_0000 (Table 15-2). -/
def execTransferTimeout (sess : Nat) (s : State) : Out :=
  withUnit (decide (sess < 16))
    (match (s.sessOf sess).transfer with
     | some t =>
       if s.waited t.segAt 1000000000 then s.updSess sess fun x => { x with transfer := none, answer := Abort.timedOut } else s
     | none => s)

/-! ## Transports that go (R341) -/

/-- The Ethernet interface of a number 0–2. -/
def portTransport (p : Nat) : Transport := match p with | 0 => .e1 | 1 => .e2 | _ => .e3

def execSessionLinkDownExpiry (p : Nat) (s : State) : Out :=
  withUnit (decide (p < 3))
    (if (s.net.ports.getD p {}).link || !s.waited (s.net.ports.getD p {}).downAt 2000000000 then s else endSessions (fun x => x.opened && x.transport == portTransport p) s)

/-- VBUS appears or is lost; with it the sessions on USB end. -/
def execUsbVbusChange (present : Bool) (s : State) : Out :=
  .next (
    let s := s.updNet fun n => { n with vbus := present }
    if present then s else endSessions (fun x => x.opened && x.transport == .usb) s)

/-- Credentials of 0x2102, which persist on write (Table 15-4). -/
def credentialWrite (w : Ctx) (i sub : Nat) (v : Val) (s : State) : Except Nat State :=
  checked w i sub v s fun s =>
    let b := valRaw v
    .ok (s.updServ fun x => match sub with
      | 1 => { x with password := b } | 2 => { x with serviceKey := b } | 3 => { x with oemKey := b } | _ => { x with mdpKey := b })

/-- The bytes of SessionTable. -/
def sessionRow (s : State) (x : Sess) : Bytes :=
  if x.opened then
    leBytes 1 x.role ++ leBytes 1 (transportCode x.transport) ++ leBytes 2 (min ((s.tm.mono - x.lastReq) / 1000000000) 65535) ++ leBytes 4 x.source
  else leBytes 1 0xFF ++ List.replicate 7 0#8

/-- Values of 0x2100–0x2103. -/
def sessionRead (s : State) (sess i sub : Nat) : Option Val :=
  let x := s.sessOf sess
  if i = 0x2100 then
    match sub with
    | 1 => some (.int sess) | 5 => some (.int x.role) | 6 => some (.int x.timeout) | 8 => some (.int (transportCode x.transport)) | _ => none
  else if i = 0x2101 then
    match sub with
    | 1 => some (.int (s.serv.sess.countP (·.opened)))
    | 2 => some (.bytes (s.serv.sess.flatMap (sessionRow s)))
    | _ => some (.int s.serv.rejected)
  else if i = 0x2102 then
    match sub with | 4 => some (.bytes s.mdpKey) | 5 => some (.int s.serv.failedAttempts) | _ => none
  else none

end Sys2Proof.Machine
end

