-- ==== Sys2Proof/Machine/Power.lean ====
section
/-! DEFINITION. Power states and wake, Start, Shutdown, Ladder, hold-up and brownout (01 R21, R28–R30; 18 R396–R416, R451), with
LAYER_BUILD, which brings the engines up from their configuration. -/

namespace Sys2Proof.Machine

/-! ## Levels (18 Table 18-2) -/

/-- The 24 V column applies: SystemVoltage, or with auto the detected system (R398). -/
def column24 (s : State) : Bool := if s.pw.systemVoltage = 0 then s.pw.detected = 2 else s.pw.systemVoltage = 2

/-- Falling warning and reset levels in mV; the rising warning and the start-allowed level are one. -/
def warnLevel (s : State) : Nat := if column24 s then 17000 else 8500
def resetLevel (s : State) : Nat := if column24 s then 12000 else 6000
def startLevel (s : State) : Nat := if column24 s then 17500 else 9000

/-! ## What a power-down loses -/

/-- The engines' volatile state is lost; what eMMC, NOR and the retention memory hold stays (01 Table 01-2, 00 R13, 16 R368). -/
def loseVolatile (s : State) : State :=
  { s with
    net := { vbus := s.net.vbus }
    sky := s.sky.store.load
    skyio := {}
    sens := {}
    pas := { nextParcel := s.pas.nextParcel, nextParcelNor := s.pas.nextParcelNor }
    pctl := {}
    lead := {}
    dict := retained s.dict
    steer := {}
    opt := { cycleId := s.opt.cycleId, probeId := s.opt.probeId }
    yield := { s.yield with loadState := 0, loadMass := 0, lastMoist := none, tiles := s.yield.tiles.map fun t => { t with sentAt := none } }
    fleet := { queue := s.fleet.queue, seqs := s.fleet.seqs }
    loop := {}
    trace := {}
    fio := {}
    valve := { bank := s.valve.bank.map fun (b : VBank) => { boardTemp := b.boardTemp } }
    can := { wakes := s.can.wakes, vt := { stored := s.can.vt.stored } }
    lan := {}
    per := { s.per with store := none, built := false, mdpState := 0, mdpEntry := 0, mdpAbort := 0 }
    flow := { s.flow with second := 0, perCode := [], flushUntil := none, flushFailed := false } }

/-- Sessions do not outlive the processor; credentials and FailedAttempts do. -/
def loseSessions (s : State) : State :=
  (s.updServ fun v => { v with sess := List.replicate 16 {}, fails := [], lockouts := [], rejected := 0, reply := [] }).updUpd fun u =>
    { u with offers := [], slot := none }

/-! ## Machine time at a wake (13 R300, 18 R409) -/

/-- Ticks of the 32.768 kHz clock in ns. -/
def rtcNs (t : Nat) : Nat := t * 1000000000 / 32768

/-- A machine time rounded up to a frame start. -/
def toFrame (t : Nat) : Nat := (t + 99999) / 100000 * 100000

/-- Machine time is loaded from the real-time clock, which has counted on (a free value), or from NOR when the clock was lost. The
UTC offset is the one Skylight saved at the last Shutdown (12 R277). -/
def loadTime (s : State) : State :=
  let p : Nat × State := if s.belay.rtcValid then
      let q := s.freeInt
      (rtcNs s.belay.rtc + q.1.toNat, q.2)
    else (s.belay.norTime, s)
  { p.2 with tm := { now := toFrame p.1, utcOffset := s.sky.store.utc.getD 0, utcValid := s.sky.store.utc.isSome } }

/-- The parcel numbering goes on (00 R13). -/
def loadParcel (s : State) : State :=
  (s.updPas fun p =>
    if !s.belay.memLost ∨ (p.nextParcel = 0 ∧ p.nextParcelNor = 0) then p
    else { p with nextParcel := (p.nextParcelNor + 1048576) % 2 ^ 32 }).updBelay fun b => { b with memLost := false }

/-! ## Start -/

/-- The eight bytes of a PowerHistory entry. -/
def historyBytes (e : PowerEntry) : Bytes := leBytes 4 e.tai ++ leBytes 1 e.state ++ leBytes 1 e.cause ++ [0#8, 0#8]

/-- PowerHistory 0x2013.06: 16 entries, newest first. -/
def powerHistory (s : State) : Bytes := ((s.belay.history ++ List.replicate 16 (PowerEntry.mk 0 0 0)).take 16).flatMap historyBytes

/-- Common to Start and Ladder: volatile state gone, time loaded. -/
def wakeUp (s : State) : State :=
  let s := loadParcel (loadTime (loseSessions (loseVolatile s)))
  let s := (if s.upd.state = 1 then orphan s else s).updOpt fun o => { o with settleAt := s.pas.nextParcel }
  ((s.updUpd fun u => { u with orphanAt := 0 }).updPw fun p => { p with wakeLadder := false }).updBelay fun b =>
    { b with onHoldup := false, restartWait := false, resetWait := false, critical := false, throttleTime := 0, throttleAt := 0 }

/-- The records and the passage reset of an entry to Start (02 R69, 15 R348, 16 Table 16-3). -/
def startRecords (s : State) : State :=
  let s := s.record ⟨0x1001, s.pw.wakeSource, 1, [], (powerHistory s).take 16, 0xFFFFFFFF, 0xF⟩
  let s := if s.per.fuse then s else s.record ⟨0x1008, 0, 0, [], [], 0xFFFFFFFF, 0xF⟩
  startFallBacks (beginReset none s)

/-- Entry to Start with a cause of R451; after a reset without hold-up the history entry has been made already (R405). -/
def enterStart (cause src : Nat) (s : State) : State :=
  let restart : Bool := s.belay.resetWait
  let s := wakeUp (s.updPw fun p =>
    { p with wake := none, wakeSource := src, keyHold := false, reqSess := none, episode := false, batMin := p.batMv, episodeCount := 0,
             lastEpisodeMin := 0, lastEpisodeDuration := 0, storeCut := s.belay.cut })
  let s := s.updBelay fun b => { b with holdup := .charging, holdupEnergy := 0, cut := false }
  let s := s.updSky fun k => { k with state := 1, knownTime := rtcKnown s }
  let s := if restart then devRecord s.belay.resetFrom 3 6 (s.updPw fun p => { p with dev := .start }) else changeDev .start cause s
  startRecords s

/-- Entry to Ladder: no output, C8 alone (19 R429). -/
def enterLadder (cause reason : Nat) (s : State) : State :=
  let restart : Bool := s.belay.resetWait
  let s := wakeUp (s.updPw fun p => { p with wake := none, keyHold := false, reqSess := none, episode := false })
  let s := (canLadder s).updBelay fun b => { b with holdup := .off }
  let s := s.updUpd fun u => { u with ladderReason := reason }
  if restart then devRecord s.belay.resetFrom 6 6 (s.updPw fun p => { p with dev := .ladder }) else changeDev .ladder cause s

/-! ## Wake (18 R407, R408; 14 R326) -/

/-- Belay starts the module, or waits with the wake latched while BAT+ is below the start-allowed level. -/
def startFrom (src : Nat) (s : State) : State :=
  if s.pw.belowWarning then s.updPw fun p => { p with wake := some src, keyHold := false } else enterStart 1 src s

/-- Park or Dormant, from which a wake starts the module. -/
def asleep (s : State) : Bool := (s.pw.dev = .park || s.pw.dev = .dormant) && !s.belay.restartWait

/-- R407: the filtered IGN rise. -/
def ignRise (s : State) : State :=
  let was := s.pw.ign
  let s := s.updPw fun p => { p with ign := true }
  if asleep s then
    let s := if s.belay.ignSeenLow then s.updBelay fun b => { b with criticalLock := false } else s
    if s.belay.criticalLock then s
    else if s.pw.keysvc then
      if s.pw.belowWarning then s.updPw fun p => { p with wake := some 1, wakeLadder := true, keyHold := false } else enterLadder 9 4 s
    else startFrom 1 s
  else if s.pw.dev = .ladder ∧ !was ∧ !s.belay.resetWait then enterStart 0xE 1 s
  else if s.pw.dev = .shutdown then s.updPw fun p => { p with wake := some (p.wake.getD 1) }
  else s

def execIgnWake (s : State) : Out := .next (ignRise s)

/-- R407: the filtered KEYSVC rise; Belay holds the wake for 1 s. -/
def keyRise (s : State) : State :=
  let s := s.updPw fun p => { p with keysvc := true }
  if asleep s ∧ !s.belay.criticalLock then s.updPw fun p => { p with keyHold := true, wake := some 2 }
  else if s.pw.dev = .shutdown then s.updPw fun p => { p with wake := some (p.wake.getD 2) }
  else s

def execKeysvcWake (s : State) : Out := .next (keyRise s)
def execKeysvcHoldExpiry (s : State) : Out := .next (if asleep s ∧ s.pw.keyHold then startFrom 2 s else s)

/-- AlarmTime advances by AlarmPeriod, or is cleared (R408). -/
def advanceAlarm (s : State) : State :=
  let t := s.nat 0x2013 1
  let p := s.nat 0x2013 2
  if t = 0 then s else s.put 0x2013 1 (.int (if p = 0 then 0 else (t + p * 1000000000) % 2 ^ 64 : Nat))

def execAlarmWake (s : State) : Out :=
  .next (if (s.pw.dev = .park ∨ s.pw.dev = .dormant) ∧ s.nat 0x2013 1 ≠ 0 then
      let s := advanceAlarm s
      if asleep s ∧ !s.belay.criticalLock then startFrom 3 s else s
    else s)

def execAlarmPassedAwake (s : State) : Out :=
  .next (if s.pw.dev = .park ∨ s.pw.dev = .dormant then s else advanceAlarm s)

/-- What woke a transceiver is what its WakeMode waits for; 0 when it is not, else LastWake (14 R326). -/
def wakeMatch (s : State) (w : Nat) (how : CanWake) : Nat :=
  let o := 0x5418 + w
  match how with
  | .pattern => if s.nat o 1 = 1 then 1 else 0
  | .errorCount => if s.nat o 1 = 2 then 3 else 0
  | .frame ext id dlc data =>
    let wid := s.nat o 2
    let mask := s.nat o 3 % 2 ^ 29
    if s.nat o 1 = 2 ∧ ext = wid.testBit 31 ∧ Nat.land id mask = Nat.land (wid % 2 ^ 29) mask ∧ dlc = s.nat o 4 ∧
        (s.nat o 4 = 0 ∨ Nat.land data (s.nat o 6) ≠ 0) then 2 else 0

def execCanWake (w : Nat) (how : CanWake) (s : State) : Out :=
  withUnit (decide (w < 2))
    (let m := wakeMatch s w how
     if s.pw.dev = .park ∧ asleep s ∧ !s.belay.criticalLock ∧ (s.cch (7 * w)).state = 5 ∧ m ≠ 0 then
       startFrom (4 + w) (s.updCan fun c => { c with wakes := updAt c.wakes w fun x => (inc32 x.1, m) })
     else if s.pw.dev = .shutdown ∧ m ≠ 0 then
       (s.updCan fun c => { c with wakes := updAt c.wakes w fun x => (inc32 x.1, m) }).updPw fun p => { p with wake := some (p.wake.getD (4 + w)) }
     else s)

/-- BAT+ reaches the start-allowed level: a latched wake, or a reset without hold-up, goes on (R405, R407). -/
def execStartAllowedWaitEnd (s : State) : Out :=
  .next (
    let s := s.updPw fun p => { p with belowWarning := false, batMv := max p.batMv (startLevel s) }
    if s.belay.resetWait then
      if s.pw.dev = .ladder then enterLadder 6 s.upd.ladderReason s else enterStart 6 s.pw.wakeSource s
    else match s.pw.wake with
      | some src =>
        if asleep s ∧ !s.pw.keyHold then (if s.pw.wakeLadder then enterLadder 9 4 s else enterStart 1 src s) else s
      | none => s)

/-! ## Layers and the engines' configuration (15 R347, Table 18-5) -/

/-- What sensing takes from the objects at Start: Egrain from EnergyStart, Tare from TareReference (04 R98, R114). -/
def senseStart (s : State) : State :=
  s.updSens fun z => { z with
    ls := z.ls.mapIdx fun c (x : Ls) => { x with egrain := s.nat (0x4810 + c) 0xA, gain := s.nat (0x4810 + c) 3 }
    tare := s.int 0x4880 9 }

/-- The engines come up with the values built: panel, stages, channels, link. -/
def bringUp (s : State) : State :=
  let s := senseStart (s.updPw fun p => { p with systemVoltage := s.nat 0x2010 1, shutdownLimit := s.nat 0x2010 3 })
  let s := s.updServ fun v => { v with nodeId := s.nat 0x2103 1 }
  fleetStart (canStart (lanStart (valveStart (s.updFlow fun f => { f with limit := s.nat 0x5800 7 }))))

def execLayerBuild (s : State) : Out :=
  .next (if s.pw.dev = .start ∧ s.reachable ∧ !s.per.built ∧ s.per.mdpState ≠ 2 then bringUp (buildLayers s) else s)

/-! ## Start to Run and Ladder (01 R29) -/

/-- The start conditions are met: functions enter their start modes. -/
def execStartToRun (s : State) : Out :=
  .next (if s.pw.dev = .start ∧ s.reachable ∧ s.per.built then startModes (changeDev .run 7 s) else s)

def execStartToLadder (noCol noGal : Bool) (s : State) : Out :=
  .next (if s.pw.dev = .start ∧ s.reachable ∧ (noCol ∨ noGal) then
    enterLadder 8 (b2n noCol + 2 * b2n noGal) (endSessions (fun x => x.opened) s) else s)

/-! ## Shutdown (01 R29; 18 R402, R404, R411) -/

/-- Entry to Shutdown: test commands end, every function is safe, steering and Leads ended, the queue discarded, an uncommitted update
aborted (01 R31). -/
def enterShutdown (cause : Nat) (s : State) : State :=
  let s := (changeDev .shutdown cause s).updPw fun p => { p with reqSess := none }
  let s := s.updBelay fun b => { b with shutdownAt := s.tm.now }
  let s := emptyLeads 7 (applySafeAll (allTestsEnd (disengage 0xD 2 s)))
  updShutdown (discardEvents (s.optVoid 0x15))

/-- A running Store at the end of Shutdown is finished, or cut off when the time is over (R404). -/
def endStore (cut : Bool) (s : State) : State :=
  if cut ∧ s.per.store.isSome then (s.updPer fun p => { p with store := none }).updBelay fun b => { b with cut := true }
  else finishStore s

/-- Parcel batches that were not written are lost and counted; the other messages are lost with them (R404). -/
def loseQueue (s : State) : State :=
  s.updFleet fun f => { f with queue := [], dropped := add32 f.dropped (f.queue.countP fun m => m.topic == 1) }

/-- The outputs, the panel and the transports close. -/
def closeOutputs (s : State) : State :=
  let s := (fioOff (valveOff s)).updSteer fun x => { x with enable := false }
  fleetShutdown (lanOff (endSessions (fun x => x.opened) s))

/-- What is saved at the end of Shutdown: clock, parcel number (00 R13, 13 R300, 18 R409). -/
def saveAll (s : State) : State :=
  let s := writeRtc (s.updPas fun p => { p with nextParcelNor := p.nextParcel })
  s.updBelay fun b =>
    { b with norTime := s.tm.now, holdup := .off, lastHoldupTime := if b.onHoldup then (s.tm.now - b.shutdownAt) / 1000000 else b.lastHoldupTime }

/-- Park or Dormant by ParkDwell (R411). -/
def restState (s : State) : Dev := if s.nat 0x2000 4 ≠ 0 then .park else .dormant

/-- What the end of Shutdown does before the state `d` is entered: the Store ends, everything closes and is saved, and the last record is
written. -/
def closeDown (cut : Bool) (d : Dev) (s : State) : State :=
  let s := endStore (cut || s.belay.onHoldup) s
  let s := (saveAll (closeOutputs (if cut then loseQueue s else s))).updTrace fun _ => {}
  completeFlush (beginFlush (devRecord 7 (devCode d) 0xB (canStop (d == .park) s)))

/-- Park or Dormant is entered, or Start when a wake is latched; after hold-up Belay waits (R405, R411). -/
def goToRest (hold : Bool) (d : Dev) (s : State) : State :=
  let s := noteHistory (devCode d) 0xB (s.updPw fun p => { p with dev := d, episode := false })
  let s := s.updBelay fun b => { b with onHoldup := false, restartWait := hold }
  if hold then s
  else match s.pw.wake with
    | some src => if s.belay.criticalLock then s.updPw fun p => { p with wake := none } else startFrom src s
    | none => s

/-- The end of Shutdown. -/
def endShutdown (cut : Bool) (s : State) : State := goToRest s.belay.onHoldup (restState s) (closeDown cut (restState s) s)

def execShutdownComplete (s : State) : Out := .next (if s.pw.dev = .shutdown ∧ s.reachable then endShutdown false s else s)
def execShutdownLimitExpiry (s : State) : Out :=
  .next (if s.pw.dev = .shutdown ∧ s.reachable ∧ !s.belay.onHoldup ∧ s.belay.shutdownAt + s.pw.shutdownLimit * 1000000 ≤ s.tm.now then
    endShutdown true s else s)

/-- R29: IGN, KEYSVC and every session have been absent for IgnOffDelay. -/
def execIgnOffDelayExpiry (s : State) : Out :=
  .next (if (s.pw.dev = .run ∨ s.pw.dev = .service) ∧ !s.pw.ign ∧ !s.pw.keysvc ∧ s.serv.sess.all (fun x => !x.opened) then
    enterShutdown 2 s else s)

def execLadderIgnOffExpiry (s : State) : Out :=
  .next (if s.pw.dev = .ladder ∧ !s.pw.ign ∧ !s.pw.keysvc ∧ !s.belay.resetWait then
    changeDev .dormant 2 (canStop false (endSessions (fun x => x.opened) s)) else s)

def execParkDwellExpiry (s : State) : Out :=
  .next (if s.pw.dev = .park then canStop false (changeDev .dormant 0xC s) else s)

/-- Every enable that stands is withdrawn. -/
def withdrawEnables (s : State) : State :=
  let s := (List.range 6).foldl (fun s b => if (s.vbank b).enable then bankOff b s else s) s
  let s := (List.range 4).foldl (fun s g => if (s.fgrp g).enable then grpOff g s else s) s
  s.updSteer fun x => { x with enable := false }

/-- IGN or KEYSVC falls: without IGN Column-A withdraws every enable (01 R24). -/
def ignFall (ign keysvc : Bool) (s : State) : State :=
  let s := s.updPw fun p => { p with ign := p.ign && !ign, keysvc := p.keysvc && !keysvc }
  if ign then withdrawEnables (disengage 0xD 2 (s.updBelay fun b => { b with ignSeenLow := true })) else s

def execIgnKeysvcFall (ign keysvc : Bool) (s : State) : Out := .next (ignFall ign keysvc s)

/-! ## Requests (01 R28, R29) -/

/-- Run to Service: Leads die, a probe is void and Probe becomes Auto (01 Table 01-10). -/
def toService (sess : Option Nat) (s : State) : State :=
  let s := (emptyLeads 7 s).optVoid 0x15
  let s := s.updLoop fun l => { l with fn := l.fn.map fun f => if f.mode = 4 then { f with next := some 2 } else f }
  changeDev .service 3 (s.updPw fun p => { p with reqSess := sess })

/-- The condition of Table 01-9 for Service: ground speed below 0.5 km/h and steering in Manual. -/
def serviceAllowed (s : State) : Bool :=
  decide (groundKmh s < 5) && decide (-5 < groundKmh s) && !s.steer.engaged && (decide (48 ≤ s.steerFn) || (s.fnOf s.steerFn).mode == 1)

/-- An accepted DeviceStateRequest reads back as written (Table 01-8). -/
def State.requested (s : State) (v : Int) : State := s.put 0x2000 2 (.int v)

/-- A write of DeviceStateRequest. -/
def deviceRequest (w : Ctx) (v : Val) (s : State) : Except Nat State :=
  match v with
  | .bytes _ => .error Abort.length
  | .int 4 =>
    if !Right.op.met w.role then .error Abort.noRight
    else match s.pw.dev with
      | .run => .ok (s.requested 4)
      | .service => .ok ((serviceToRun 3 s).requested 4)
      | _ => .error Abort.state
  | .int 5 =>
    if !Right.svc.met w.role then .error Abort.noRight
    else match s.pw.dev with
      | .service => .ok (s.requested 5)
      | .run => if serviceAllowed s then .ok ((toService w.sess s).requested 5) else .error Abort.state
      | _ => .error Abort.state
  | .int 7 =>
    if !Right.os.met w.role then .error Abort.noRight
    else match s.pw.dev with
      | .shutdown => .ok (s.requested 7)
      | .run | .service => .ok ((enterShutdown 3 s).requested 7)
      | _ => .error Abort.state
  | .int _ => if w.role = 0 then .error Abort.noRight else .error Abort.range

def execDeviceStateRequestRun (sess : Nat) (s : State) : Out := s.asSession sess 0x2000 fun w => deviceRequest w (.int 4)
def execDeviceStateRequestService (sess : Nat) (s : State) : Out := s.asSession sess 0x2000 fun w => deviceRequest w (.int 5)
def execDeviceStateRequestShutdown (sess : Nat) (s : State) : Out := s.asSession sess 0x2000 fun w => deviceRequest w (.int 7)

/-- Writes to 0x2000 and 0x2010–0x2013 (R28, R415). -/
def powerWrite (w : Ctx) (i sub : Nat) (v : Val) (s : State) : Except Nat State :=
  if i = 0x2000 ∧ sub = 2 then deviceRequest w v s
  else checked w i sub v s fun s =>
    if i = 0x2013 ∧ sub = 1 then .ok (s.put i sub (.int (valNum v / 1000000000 * 1000000000))) else .ok (s.put i sub v)

/-- UpdateCommand 0x06 (19 R429). -/
def leaveLadder (w : Ctx) (s : State) : Except Nat State :=
  if s.pw.dev ≠ .ladder then .error Abort.state
  else if !Right.svc.met w.role then .error Abort.noRight
  else if s.upd.ladderReason % 4 ≠ 0 then .error Abort.state
  else .ok (enterStart 0xD s.pw.wakeSource s)

def execLeaveLadder (sess : Nat) (s : State) : Out := s.asSession sess 0x5A10 leaveLadder

/-! ## Brownout and the reset level (18 R400–R405) -/

/-- States in which episodes are opened. -/
def supervised (s : State) : Bool := s.reachable

/-- R400: BAT+ crosses the falling warning level. -/
def execBrownoutOpen (mV : Nat) (s : State) : Out :=
  .next (
    if warnLevel s < mV then s
    else
      let s := s.updPw fun p => { p with batMv := mV, batMin := min p.batMin mV, belowWarning := true }
      if supervised s ∧ !s.pw.episode then
        let s := s.updPw fun p => { p with episode := true, episodeMin := mV, episodeCount := inc32 p.episodeCount }
        beginFlush (s.record ⟨0x1003, 0, 1, [], [], 0xFFFFFFFF, 0xF⟩)
      else s)

/-- R401: the episode closes. -/
def execBrownoutClose (minMv duration : Nat) (s : State) : Out :=
  .next (
    let s := s.updPw fun p => { p with belowWarning := false, batMv := max p.batMv (startLevel s) }
    if s.pw.episode then
      (s.updPw fun p => { p with episode := false, episodeMin := minMv, lastEpisodeMin := minMv, lastEpisodeDuration := duration,
                                 batMin := min p.batMin minMv }).record
        ⟨0x1004, 0, 1, leBytes 2 minMv ++ leBytes 4 duration, [], 0xFFFFFFFF, 0xF⟩
    else s)

/-- Load shedding: Ethernet, USB and C2–C7 stop (R402). -/
def shedLoad (s : State) : State :=
  let s := (List.range 4).foldl (fun s p => linkChange p false s) s
  (rangeFrom 1 6).foldl (fun s c => (discardAll c s).updCch c fun x => { x with state := 0 }) s

/-- R402: the reset level with the bank armed. -/
def execResetLevelHoldup (mV : Nat) (s : State) : Out :=
  .next (
    if !supervised s ∨ s.belay.holdup ≠ .armed ∨ resetLevel s < mV then s
    else
      let s := s.updPw fun p => { p with batMv := mV, batMin := min p.batMin mV, belowWarning := true }
      let s := s.updBelay fun b => { b with holdup := .supplying, onHoldup := true, holdupCount := inc32 b.holdupCount }
      let s := if s.pw.dev = .shutdown then s
        else
          let s := (s.record ⟨0x1005, 0, 1, leBytes 2 mV, [], 0xFFFFFFFF, 0xF⟩).updPw fun p => { p with episode := false }
          beginFlush (enterShutdown 5 s)
      shedLoad (s.updBelay fun b => { b with shutdownAt := s.tm.now }))

/-- R405: the reset level without an armed bank: Kilxus is held in reset until BAT+ allows a start. -/
def execResetLevelNoHoldup (s : State) : Out :=
  .next (
    let ladder : Bool := s.pw.dev = .ladder
    if s.belay.resetWait ∨ !(ladder ∨ supervised s) ∨ s.belay.holdup = .armed ∨ s.belay.holdup = .supplying then s
    else
      let old := devCode s.pw.dev
      let s := noteHistory (if ladder then 6 else 3) 6 s
      let s := loseSessions (loseVolatile (if s.upd.state = 1 then orphan s else s))
      let s := s.updFlow fun f => { f with wait := [] }
      let s := s.updFleet fun f => { f with queue := [] }
      let s := s.updPw fun p => { p with dev := if ladder then .ladder else .start, belowWarning := true, episode := false, reqSess := none }
      s.updBelay fun b => { b with holdup := .off, onHoldup := false, resetWait := true, resetFrom := old })

/-- R403: the bank reaches 32.0 V. -/
def execHoldupArmed (energy : Nat) (enough : Bool) (s : State) : Out :=
  .next (if s.belay.holdup = .charging ∧ s.reachable then
    s.updBelay fun b => if enough then { b with holdup := .armed, holdupMv := 32000, holdupEnergy := energy } else { b with holdup := .fault }
  else s)

/-- R405: BAT+ has held the start-allowed level for 500 ms after a shutdown on hold-up. -/
def execHoldupRestartWaitEnd (s : State) : Out :=
  .next (if s.belay.restartWait then
      let s := (s.updBelay fun b => { b with restartWait := false }).updPw fun p =>
        { p with belowWarning := false, batMv := max p.batMv (startLevel s), wake := none }
      if s.belay.criticalLock then s
      else if s.pw.ign then enterStart 1 1 s
      else if s.pw.keysvc then enterStart 1 2 s
      else s
    else s)

def execBatteryOvervoltage (above : Bool) (s : State) : Out := .next (s.updPw fun p => { p with overvoltage := above })

/-- R398: the system is detected once. -/
def execSystemVoltageDetect (meanMv : Nat) (s : State) : Out :=
  .next (if s.pw.dev = .start ∧ s.pw.systemVoltage = 0 ∧ s.pw.detected = 0 then
    s.updPw fun p => { p with detected := if 18000 ≤ meanMv then 2 else 1 } else s)

/-- R409: Belay stops; the clock and the retention memory are lost. -/
def execBelayPowerLoss (s : State) : Out :=
  .next (
    let s := loseSessions (loseVolatile (if s.upd.state = 1 then orphan s else s))
    let s := { s with dict := s.dict.filter fun e => e.1 / 256 != 0x2013 }
    let s := s.updFlow fun f => { f with wait := [] }
    let s := s.updPw fun p =>
      { p with dev := .dormant, wake := none, wakeLadder := false, keyHold := false, reqSess := none, episode := false, belowWarning := true, batMv := 0 }
    s.updBelay fun b =>
      { b with holdup := .off, onHoldup := false, restartWait := false, resetWait := false, rtc := 0, rtcValid := false, memLost := true, history := [],
               criticalLock := false, ignSeenLow := false })

/-! ## Temperature and memory (01 R21, 18 R412) -/

/-- R412: the throttle begins or ends; the time it ran is added up when it ends. -/
def execThermalThrottle (on : Bool) (s : State) : Out :=
  .next (s.updBelay fun b =>
    if on = b.throttled then b
    else if on then { b with throttled := true, throttleAt := s.tm.mono }
    else { b with throttled := false, throttleTime := b.throttleTime + (s.tm.mono - b.throttleAt) })

def execThermalCritical (s : State) : Out :=
  .next (if s.pw.dev = .run ∨ s.pw.dev = .service then
    (enterShutdown 4 s).updBelay fun b => { b with critical := true, criticalLock := true, ignSeenLow := !s.pw.ign } else s)

/-- A count by number. -/
def bump (l : List (Nat × Nat)) (k : Nat) : List (Nat × Nat) :=
  if l.any (fun p => p.1 == k) then l.map fun p => if p.1 = k then (k, inc32 p.2) else p else l ++ [(k, 1)]

def execEccCorrected (mem : Nat) (s : State) : Out :=
  .next (
    let s := s.updBelay fun b => { b with eccCount := bump b.eccCount mem }
    let n := ((s.belay.eccCount.find? fun p => p.1 == mem).map (·.2)).getD 0
    s.record ⟨0x1006, mem, 0, leBytes 4 n, [], 0xFFFFFFFF, 0xF⟩)

/-- An engine restarts (01 R21): what it holds in volatile memory stands as at Start, and it comes up with the configuration in force.
DESIGN CHOICE (log 61): Table 01-2 names what an engine's memory holds, and R21 no further effect of the restart. -/
def restartEngine (e : Nat) (s : State) : State :=
  let l := loseVolatile s
  match e with
  | 0 => s.updFlow fun f => { f with wait := [], second := 0, perCode := [], flushUntil := none, flushFailed := false }
  | 5 => beginReset none { s with pas := l.pas, pctl := l.pctl, lead := l.lead }
  | 6 | 7 | 8 | 9 => s.updValve fun v =>
      { v with ch := v.ch.mapIdx fun n c => if teOf n = e then 
          (let t := (v.bank.getD (bankOf n) {}).boardTemp; VCh.setTemp {} t t s.tm.mono) else c }
  | 0xA => s.updSens fun z => { z with ls := (senseStart l).sens.ls, impacts := [], testQueue := 0 }
  | 0xB => { s with sky := { l.sky with state := 1 }, skyio := l.skyio }
  | 0xC => canStart s
  | 0xD => lanStart s
  | 0xE => fleetStart (loseSessions { s with opt := l.opt, yield := l.yield })
  | 0xF => s.updSens fun z => { (senseStart l).sens with ls := z.ls, impacts := z.impacts, testQueue := z.testQueue, off := z.off }
  | 0x10 => { s with fio := l.fio }
  | _ => s

/-- An uncorrectable error: functions safe, or the owning engine restarts; recorded. -/
def execEccUncorrectable (mem : Nat) (area : EccArea) (address : Nat) (s : State) : Out :=
  .next (
    let s := s.record ⟨0x1007, mem, 2, leBytes 8 address, [], 0xFFFFFFFF, 0xF⟩
    match area with
    | .columnOrLoop l => (l.filter (· < 48)).foldl (fun s f => columnForce f s) s
    | .other e =>
      ((restartEngine e s).updBelay fun b => { b with engineRestarts := bump b.engineRestarts e }).updUpd fun u =>
        { u with regions := u.regions.mapIdx fun r (x : Region) =>
            if x.state = 3 ∧ regionEngine (r + 1) e then { x with restarts := x.restarts + 1 } else x })

def execNextParcelNorWrite (s : State) : Out :=
  .next (if s.reachable ∧ s.pw.dev ≠ .shutdown then s.updPas fun p => { p with nextParcelNor := p.nextParcel } else s)

/-! ## What the objects read (R28, R415) -/

/-- ThrottleTime in s (Table 18-9). -/
def throttleSeconds (s : State) : Nat :=
  (s.belay.throttleTime + if s.belay.throttled then s.tm.mono - s.belay.throttleAt else 0) / 1000000000

/-- HoldupState. -/
def holdupCode : Holdup → Nat
  | .off => 0 | .charging => 1 | .armed => 2 | .supplying => 3 | .fault => 4

/-- Values of 0x2000–0x2014. -/
def powerRead (s : State) (i sub : Nat) : Option Val :=
  let p := s.pw
  let b := s.belay
  match i, sub with
  | 0x2000, 1 => some (.int (devCode p.dev))
  | 0x2010, 2 => some (.int p.detected)
  | 0x2011, 1 => some (.int p.batMv)
  | 0x2011, 2 => some (.int (b2n p.belowWarning + 2 * b2n p.episode + 4 * b2n p.overvoltage + 8 * b2n p.storeCut))
  | 0x2011, 3 => some (.int p.batMin) | 0x2011, 4 => some (.int p.episodeCount) | 0x2011, 5 => some (.int p.lastEpisodeMin)
  | 0x2011, 6 => some (.int p.lastEpisodeDuration) | 0x2011, 7 => some (.int b.modulePower)
  | 0x2012, 1 => some (.int (holdupCode b.holdup)) | 0x2012, 2 => some (.int b.holdupMv) | 0x2012, 3 => some (.int b.holdupEnergy)
  | 0x2012, 4 => some (.int b.lastHoldupTime) | 0x2012, 5 => some (.int b.holdupCount)
  | 0x2013, 3 => some (.int p.wakeSource) | 0x2013, 4 => some (.int (b2n p.ign + 2 * b2n p.keysvc)) | 0x2013, 5 => some (.int (b2n b.rtcValid))
  | 0x2013, 6 => some (.bytes (powerHistory s))
  | 0x2014, 1 => some (.int b.dieTemp) | 0x2014, 2 => some (.int b.boardTemp)
  | 0x2014, 3 => some (.int (b2n b.above70 + 2 * b2n b.throttled + 4 * b2n b.critical)) | 0x2014, 4 => some (.int (throttleSeconds s))
  | _, _ => none

end Sys2Proof.Machine
end

