-- ==== Sys2Proof/Machine/Server.lean ====
section
/-! DEFINITION. The dictionary server: every write and read of a session, the abort commands and the datagram transport (15 R334–R344,
R357–R359). -/

namespace Sys2Proof.Machine

/-! ## Aborts (R357–R359) -/

/-- A session's AbortResult, with the times of acceptance and completion. -/
def abortDone (n result : Nat) (s : State) : State :=
  s.updSess n fun x => { x with abortResult := result, abortAccepted := s.tm.now, abortCompleted := s.tm.now, aborting := none }

/-- An abort accepted and in progress; `k` is the function, 48 for all, or none for a passage reset. -/
def abortBegin (n : Nat) (k : Option Nat) (s : State) : State :=
  s.updSess n fun x => { x with abortResult := 1, abortAccepted := s.tm.now, abortCompleted := 0, aborting := k }

/-- KIND 0x01: the unfinished transfer of a session ends, its client answered 0x0800_0000. -/
def abortTransfer (n target role : Nat) (s : State) : Except Nat State :=
  if n ≠ target ∧ !Right.svc.met role then .error Abort.noRight
  else if (s.sessOf target).transfer.isNone then .ok (abortDone n 2 s)
  else .ok (abortDone n 0 (s.updSess target fun x => { x with transfer := none, answer := Abort.general }))

/-- KIND 0x02 and 0x03: applied at the next frame start (05 R146). -/
def abortFunctions (n : Nat) (k : Nat) (s : State) : State :=
  if s.pw.dev = .shutdown then abortDone n 2 s
  else
    let s := s.updLoop fun l => { l with fn := l.fn.mapIdx fun f x => if k = 48 ∨ f = k then { x with abort := true } else x }
    abortBegin n (some k) s

/-- KIND 0x05: the update that owns or holds the Antechamber (19 R425). -/
def abortUpdateKind (n role : Nat) (s : State) : Except Nat State :=
  if s.upd.cur.isNone then .ok (abortDone n 2 s)
  else if s.upd.owner ≠ some n ∧ !Right.svc.met role then .error Abort.noRight
  else .ok (abortDone n 0 (endUpdate 0xA 0x11 s))

/-- A write of AbortCommand. -/
def abortWrite (w : Ctx) (i sub : Nat) (v : Val) (s : State) : Except Nat State :=
  checked w i sub v s fun s =>
    match w.sess with
    | none => .error Abort.noRight
    | some n =>
      let x := (valNum v).toNat
      let kind := x / 2 ^ 24
      let target := x / 2 ^ 16 % 256
      if x % 2 ^ 16 ≠ 0 then .error Abort.range
      else if kind = 1 ∧ target < 16 then abortTransfer n target w.role s
      else if kind = 2 ∧ target < 48 then .ok (abortFunctions n target s)
      else if kind = 3 ∧ target = 0 then .ok (abortFunctions n 48 s)
      else if kind = 4 ∧ target = 0 then
        if Right.os.met w.role then .ok (abortBegin n none (beginReset (some n) s)) else .error Abort.noRight
      else if kind = 5 ∧ target = 0 then abortUpdateKind n w.role s
      else .error Abort.range

/-- AbortCommand with a KIND and TARGET. -/
def abortCommand (sess kind target : Nat) (s : State) : Out :=
  s.asSession sess 0x2200 fun w => abortWrite w 0x2200 1 (.int (kind * 2 ^ 24 + target % 256 * 2 ^ 16 : Nat))

def execAbortTransfer (sess target : Nat) (s : State) : Out := abortCommand sess 1 target s
def execAbortFunction (sess f : Nat) (s : State) : Out := abortCommand sess 2 f s
def execAbortAllFunctions (sess : Nat) (s : State) : Out := abortCommand sess 3 0 s
def execAbortPassageReset (sess : Nat) (s : State) : Out := abortCommand sess 4 0 s
def execAbortUpdate (sess : Nat) (s : State) : Out := abortCommand sess 5 0 s

/-- Once a frame: the function aborts whose functions have their safe command latched are complete (R358). -/
def abortFrame (s : State) : State :=
  s.updServ fun v => { v with sess := v.sess.map fun x => match x.aborting with
    | some k =>
      let left : Bool := if k < 48 then (s.fnOf k).abort else s.loop.fn.any (·.abort)
      if left then x else { x with abortResult := 0, abortCompleted := s.tm.now, aborting := none }
    | none => x }

/-- AbortResult, AbortAccepted and AbortCompleted. -/
def abortRead (s : State) (sess sub : Nat) : Option Val :=
  let x := s.sessOf sess
  match sub with
  | 2 => some (.int x.abortResult) | 3 => some (.int x.abortAccepted) | 4 => some (.int x.abortCompleted) | _ => none

/-! ## Writes (R335–R338) -/

/-- The chapter of the index carries out a write: 0 or the abort code, and the state. -/
def objWrite (w : Ctx) (i sub : Nat) (v : Val) (s : State) : Nat × State :=
  match objRow? i sub with
  | none => (Abort.noObject, s)
  | some _ =>
    let p := i / 256
    if p = 0x10 then answered s (if i = 0x1010 ∨ i = 0x1011 then storeWrite w i sub v s else plainWrite w i sub v s)
    else if p = 0x20 then answered s (powerWrite w i sub v s)
    else if p = 0x21 then
      answered s (if i = 0x2100 then sessionWrite w i sub v s else if i = 0x2102 then credentialWrite w i sub v s
        else if i = 0x2140 then windowWrite w i sub v s else plainWrite w i sub v s)
    else if p = 0x22 then answered s (abortWrite w i sub v s)
    else if p = 0x5A then
      answered s (if i = 0x5A10 ∧ sub = 3 ∧ 0x600 ≤ valNum v ∧ valNum v < 0x700 then checked w i sub v s (leaveLadder w)
        else updWrite w i sub v s)
    else if 0x60 ≤ p ∧ p < 0x70 then answered s (factoryWrite w i sub v s)
    else if 0x70 ≤ p then answered s (plainWrite w i sub v s)
    else let r := baseWrite w i sub v s; (r.1, c8Gone r.2)

/-- Bytes written by session n to an object, when its last byte has arrived (R335). -/
def writeBytes (n i sub : Nat) (data : Bytes) (s : State) : State :=
  let w := s.ctxOf n
  let r : Nat × State := match objRow? i sub with
    | none => (Abort.noObject, s)
    | some r =>
      match decodeVal r.ty data with
      | .ok v => objWrite w i sub v s
      | .error a =>
        (if r.acc = .ro then Abort.readOnly else if !r.right.met w.role && !(i == 0x2000 && sub == 2) then Abort.noRight else a, s)
  r.2.updSess n fun x => if x.opened then { x with answer := r.1 } else x

def execObjectWrite (sess index sub : Nat) (data : Bytes) (s : State) : Out :=
  withUnit (decide (sess < 16))
    (if !(s.sessOf sess).opened then s
     else if s.reaches index then writeBytes sess index sub data (s.touch sess)
     else s.unreached sess)

/-! ## Reads (R335, R338) -/

/-- ManufacturerHardwareVersion: the board issue, "B2" for issue 2 of letter B (00 R2, R3). -/
def boardName : Bytes := Config.boardLetter :: decimal (Config.boardIssue % 256)

/-- ManufacturerSoftwareVersion of a VERSION: major, minor and patch with points between them (00 R2, 19 Table 19-2). -/
def versionName (v : Nat) : Bytes := decimal (v / 2 ^ 24) ++ ascii "." ++ decimal (v / 2 ^ 16 % 256) ++ ascii "." ++ decimal (v % 2 ^ 16)

/-- The identity objects (00 R2, R3). -/
def identityRead (s : State) (i sub : Nat) : Option Val :=
  match i, sub with
  | 0x1000, _ => some (.int 0)
  | 0x1008, _ => some (.bytes (ascii "LH960-M24"))
  | 0x1009, _ => some (.bytes boardName)
  | 0x100A, _ => some (.bytes (versionName (s.region 1).active.version))
  | 0x1018, 0 => some (.int 4)
  | 0x1018, 1 => some (.int 0x3A6)
  | 0x1018, 2 => some (.int 0x960024)
  | 0x1018, 3 => some (.int (0x03020000 + Config.boardIssue % 256 * 256 : Nat))
  | 0x1018, 4 => some (.int Config.serialNumber)
  | _, _ => none

/-- The live value of an object, as session n reads it. -/
def liveRead (s : State) (n i sub : Nat) : Option Val :=
  let p := i / 256
  if p = 0x10 then identityRead s i sub
  else if p = 0x20 then powerRead s i sub
  else if p = 0x21 then if i < 0x2110 then sessionRead s n i sub else persistRead s n i sub
  else if p = 0x22 then abortRead s n sub
  else if p = 0x5A then updRead s n i sub
  else if 0x60 ≤ p then calibrationRead s i sub
  else chapterRead s n i sub

/-- The abort code that a read meets, 0 when it is carried out (R336, R338, 03 R85, 05 R151, 06 R167). -/
def readRefused (s : State) (n i sub : Nat) : Nat :=
  let x := s.sessOf n
  match objRow? i sub with
  | none => Abort.noObject
  | some r =>
    if r.acc = .wo then Abort.writeOnly
    else if x.role = 0 ∧ ¬ ((0x1000 ≤ i ∧ i ≤ 0x1018) ∨ i = 0x2100) then Abort.noRight
    else if x.transport = .e1 ∧ (i = 0x38C0 ∨ loopWithheld s i sub) then Abort.noRight
    else if i = 0x3620 ∧ sub = 3 then readoutRefused s n
    else 0

/-- A read of session n: its bytes, and the state after what the read itself does (a challenge, a trace block, a record window). -/
def readBytes (n i sub : Nat) (s : State) : Except Nat Bytes × State :=
  let e := readRefused s n i sub
  if e ≠ 0 then (.error e, s)
  else if i = 0x2100 ∧ sub = 3 then
    let b := (List.range 16).map fun k => Config.freeByte (s.free + k)
    (.ok b, takeChallenge n b { s with free := s.free + 16 })
  else if i = 0x3620 ∧ sub = 3 then
    let t := readBlock n s
    (.ok (t.sessOf n).answerData, t)
  else if i = 0x5810 ∧ sub = 2 then
    let t := readWindow n s
    (.ok (t.sessOf n).answerData, t)
  else match objRow? i sub with
    | some r => (.ok (encodeVal r.ty ((liveRead s n i sub).getD (s.val i sub))), s)
    | none => (.error Abort.noObject, s)

/-! ## Datagrams (R343, R344) -/

/-- A request's fields (Table 15-6). -/
structure Request where
  opcode : Nat
  session : Nat
  flags : Nat
  seq : Nat
  index : Nat
  sub : Nat
  offset : Nat
  status : Nat
  data : Bytes
  tag : Bytes
  deriving DecidableEq, Repr

/-- A datagram of the right MAGIC, VERSION and length. -/
def requestOf (b : Bytes) : Option Request :=
  let n := fieldLe b 16 2
  let mac := (fieldLe b 5 1).testBit 2
  if b.length < 24 ∨ fieldLe b 0 2 ≠ 0x444C ∨ fieldLe b 2 1 ≠ 1 ∨ 1024 < n ∨ b.length ≠ 24 + n + (if mac then 16 else 0) then none
  else some ⟨fieldLe b 3 1, fieldLe b 4 1, fieldLe b 5 1, fieldLe b 6 2, fieldLe b 8 2, fieldLe b 10 1, fieldLe b 12 4, fieldLe b 20 4,
    (b.drop 24).take n, b.drop (24 + n)⟩

/-- The tag of a session that holds a role: 16 bytes over header and data, keyed with SK. -/
def tagOf (x : Sess) (b : Bytes) : Bytes := (hmac256 (hmac256 x.key x.response) b).take 16

/-- The response datagram. -/
def respond (s : State) (q : Request) (n status : Nat) (data : Bytes) (last : Bool) : Bytes :=
  let x := s.sessOf n
  let mac : Bool := decide (n < 16) && x.role != 0
  let b := leBytes 2 0x444C ++ leBytes 1 1 ++ leBytes 1 q.opcode ++ leBytes 1 n ++ leBytes 1 (b2n last + 2 + 4 * b2n mac) ++ leBytes 2 q.seq ++
    leBytes 2 q.index ++ leBytes 1 q.sub ++ leBytes 1 0 ++ leBytes 4 q.offset ++ leBytes 2 data.length ++ leBytes 2 0 ++ leBytes 4 status ++ data
  if mac then b ++ tagOf x b else b

/-- Send a response and keep it as the session's last. -/
def reply (n : Nat) (b : Bytes) (s : State) : State :=
  (s.updServ fun v => { v with reply := b }).updSess n fun x => if x.opened then { x with lastAnswer := b } else x

/-- A read step: offset 0 takes the copy, later offsets are served from it. -/
def serveRead (n : Nat) (q : Request) (idle : Bool) (s : State) : State :=
  if q.offset = 0 then
    let r := readBytes n q.index q.sub s
    match r.1 with
    | .error a => reply n (respond r.2 q n a [] true) r.2
    | .ok b =>
      let t := r.2.updSess n fun x => { x with readCopy := some (q.index, q.sub, b), readAt := s.tm.mono }
      reply n (respond t q n 0 (b.take 1024) (b.length ≤ 1024)) t
  else match (s.sessOf n).readCopy with
    | some (i, k, b) =>
      if i = q.index ∧ k = q.sub ∧ q.offset ≤ b.length ∧ !idle then
        reply n (respond s q n 0 ((b.drop q.offset).take 1024) (b.length ≤ q.offset + 1024)) s
      else reply n (respond s q n Abort.order [] true) s
    | none => reply n (respond s q n Abort.order [] true) s

/-- A whole write, answered with its abort code. -/
def serveWhole (n : Nat) (q : Request) (data : Bytes) (s : State) : State :=
  if !s.reaches q.index then reply n (respond s q n Abort.noObject [] true) s
  else
    let x := s.sessOf n
    let t := writeBytes n q.index q.sub data s
    let y := t.sessOf n
    let b := if y.opened then respond t q n y.answer [] true else respond (t.updSess n fun _ => x) q n 0 [] true
    reply n b t

/-- A write segment (R344). -/
def serveWrite (n : Nat) (q : Request) (s : State) : State :=
  let last := q.flags.testBit 0
  let fail := fun (s : State) => reply n (respond s q n Abort.order [] true) (s.updSess n fun x => { x with transfer := none })
  if q.offset = 0 then
    if last then
      if q.status = 0 ∨ q.status = q.data.length then serveWhole n q q.data (s.updSess n fun x => { x with transfer := none }) else fail s
    else
      let t := s.updSess n fun x => { x with transfer := some ⟨q.index, q.sub, q.status, q.data, s.tm.mono⟩ }
      reply n (respond t q n 0 [] false) t
  else match (s.sessOf n).transfer with
    | none => fail s
    | some t =>
      let d := t.data ++ q.data
      if t.index ≠ q.index ∨ t.sub ≠ q.sub ∨ q.offset ≠ t.data.length ∨ t.total < d.length ∨ (last ∧ d.length ≠ t.total) then fail s
      else if last then serveWhole n q d (s.updSess n fun x => { x with transfer := none })
      else
        let u := s.updSess n fun x => { x with transfer := some { t with data := d, segAt := s.tm.mono } }
        reply n (respond u q n 0 [] false) u

/-- A datagram of an open session whose SEQ and tag are right. -/
def serve (n : Nat) (q : Request) (s : State) : State :=
  let idle : Bool := decide ((s.sessOf n).lastReq + 2000000000 ≤ s.tm.mono)
  let s := (s.touch n).updSess n fun x => { x with lastSeq := some q.seq }
  match q.opcode with
  | 2 => if s.reaches q.index then serveRead n q idle s else reply n (respond s q n Abort.noObject [] true) s
  | 3 => serveWrite n q s
  | 4 => let t := s.updSess n fun x => { x with transfer := none }; reply n (respond t q n 0 [] true) t
  | 5 => reply n (respond s q n 0 [] true) s
  | _ => reply n (respond s q n Abort.unknownOp [] true) s

/-- A dropped datagram that is counted. -/
def dropCounted (s : State) : State := s.updServ fun v => { v with rejected := inc32 v.rejected }

/-- The distance of a SEQ ahead of the last accepted one. -/
def seqAhead (x : Sess) (seq : Nat) : Nat := match x.lastSeq with | some l => (seq + 65536 - l) % 65536 | none => 1

/-- A datagram that asks for something of session n. -/
def receiveFor (n : Nat) (q : Request) (b : Bytes) (s : State) : State :=
  let x := s.sessOf n
  let tagGood : Bool := x.role == 0 || (q.flags.testBit 2 && tagOf x (b.take (24 + q.data.length)) == q.tag)
  let d := seqAhead x q.seq
  if !tagGood then dropCounted s
  else if d = 0 then (s.touch n).updServ fun v => { v with reply := x.lastAnswer }
  else if 1024 < d then dropCounted s
  else serve n q s

/-- An open request. -/
def receiveOpen (tr : Transport) (ip : Nat) (q : Request) (s : State) : State :=
  if !sessionsOpen s then s.updServ fun v => { v with reply := respond s q 0xFF Abort.state [] true }
  else match openSession tr ip s with
    | none => s.updServ fun v => { v with reply := respond s q 0xFF Abort.state [] true }
    | some (n, t) =>
      let t := t.updSess n fun x => { x with lastSeq := some q.seq }
      reply n (respond t q n 0 [] true) t

/-- R343, R344: a datagram on UDP port 41200 of an interface. -/
def receiveDatagram (tr : Transport) (ip : Nat) (b : Bytes) (s : State) : State :=
  match requestOf b with
  | none => s
  | some q =>
    if q.opcode = 1 then receiveOpen tr ip q s
    else
      let x := s.sessOf q.session
      if q.session < 16 ∧ x.opened ∧ x.transport = tr ∧ x.source = ip then receiveFor q.session q b s else s

def execDatagram (tr : Transport) (ip : Nat) (data : Bytes) (s : State) : Out :=
  withUnit (tr ≠ .c8)
    (if (s.reachable || (s.pw.dev = .ladder && !s.belay.resetWait)) && transportServes s tr then receiveDatagram tr ip data s else s)

end Sys2Proof.Machine
end

