-- ==== Sys2Proof/Machine/Terminal.lean ====
section
/-! DEFINITION. The VT server on `C1` (17 R393, Table 17-10): working sets, object pools, stored versions and the answers about its limits.
Message and function codes are ISO 11783-6's and -3's (PRESUMED, log 70). -/

namespace Sys2Proof.Machine

/-- Update of the VT server. -/
def State.updVt (s : State) (f : Vt → Vt) : State := s.updCan fun x => { x with vt := f x.vt }

/-- The VT server's own address (14 R329). -/
def vtAddress (s : State) : Nat := (s.can.cf.getD 1 {}).claimed

/-! ## Limits (Table 17-10) -/

/-- Side of the data mask in pixels. -/
def vtMask (s : State) : Nat := min s.lan.time.height 1200

/-- Physical soft keys. -/
def vtKeys (s : State) : Nat := 2 * (s.lan.time.height / 160)

/-- Bytes that a working set holds: announced, or transferred where that is more. -/
def VtSet.size (x : VtSet) : Nat := max x.need (x.pool.foldl (fun a b => a + b.length) 0)

/-- A working set may hold this many bytes: 32 MiB, and 192 MiB of all. -/
def vtFits (s : State) (src n : Nat) : Bool :=
  decide (n ≤ 0x2000000) &&
    decide (((s.can.vt.sets.filter fun x => x.addr != src).foldl (fun a x => a + x.size) 0) + n ≤ 0xC000000)

/-- Types of the objects that are not supported: Auxiliary Function Type 1, Auxiliary Input Type 1, External Object Definition, External
Reference NAME, External Object Pointer. -/
def vtUnsupported : List Nat := [29, 30, 41, 42, 43]

/-- The object types that a transfer shows: the type follows the object identifier (log 70: the first object of each transfer). -/
def vtTypes (b : Bytes) : List Nat := (b.drop 2).take 1 |>.map (·.toNat)

/-! ## Answers -/

/-- Queue a frame from the VT server to an address. -/
def vtSend (pf dst : Nat) (b : Bytes) (s : State) : State :=
  s.updVt fun v => { v with out := v.out ++ [⟨true, 0x1C000000 + pf * 65536 + dst * 256 + vtAddress s, false, false, (b ++ List.replicate 8 0xFF).take 8⟩] }

/-- A VT answer (PGN 0xE600). -/
def vtReply (dst : Nat) (b : Bytes) (s : State) : State := vtSend 0xE6 dst b s

/-- Update of a working set. -/
def vtPut (src : Nat) (f : VtSet → VtSet) (s : State) : State :=
  s.updVt fun v => { v with sets := v.sets.map fun (x : VtSet) => if x.addr = src then f x else x }

/-- The error byte of an answer: 0, or the standard's code for what went wrong. -/
def vtCode (bad : Option Nat) : Byte := match bad with | some k => Config.vtError k | none => 0

/-- Object pool transfer: memory and object types are held to Table 17-10. -/
def vtTransfer (src : Nat) (x : VtSet) (b : Bytes) (s : State) : State :=
  let y := { x with pool := x.pool ++ [b] }
  if !vtFits s src y.size then vtPut src (fun x => { x with bad := some 1 }) s
  else if (vtTypes b).any vtUnsupported.contains then vtPut src (fun x => { x with bad := some 2 }) s
  else vtPut src (fun _ => y) s

/-- Store a version: 64 pools. -/
def vtStore (src : Nat) (label : Bytes) (x : VtSet) (s : State) : State :=
  let rest := s.can.vt.stored.filter fun e => !(e.1 == src && e.2.1 == label)
  if 64 ≤ rest.length then vtReply src [0xD0, 0xFF, 0xFF, 0xFF, 0xFF, Config.vtError 3] s
  else vtReply src [0xD0, 0xFF, 0xFF, 0xFF, 0xFF, 0] (s.updVt fun v => { v with stored := rest ++ [(src, label, x.pool)] })

/-- Load a stored version. -/
def vtLoad (src : Nat) (label : Bytes) (s : State) : State :=
  match s.can.vt.stored.find? fun e => e.1 == src && e.2.1 == label with
  | some e => vtReply src [0xD1, 0xFF, 0xFF, 0xFF, 0xFF, 0] (vtPut src (fun x => { x with pool := e.2.2, active := true, bad := none }) s)
  | none => vtReply src [0xD1, 0xFF, 0xFF, 0xFF, 0xFF, Config.vtError 4] s

/-- Delete a stored version. -/
def vtDelete (src : Nat) (label : Bytes) (s : State) : State :=
  if s.can.vt.stored.any fun e => e.1 == src && e.2.1 == label then
    vtReply src [0xD2, 0xFF, 0xFF, 0xFF, 0xFF, 0]
      (s.updVt fun v => { v with stored := v.stored.filter fun e => !(e.1 == src && e.2.1 == label) })
  else vtReply src [0xD2, 0xFF, 0xFF, 0xFF, 0xFF, Config.vtError 4] s

/-! ## Messages -/

/-- Working set maintenance: a working set logs in while fewer than eight are. -/
def vtLogin (src : Nat) (s : State) : State :=
  if s.can.vt.sets.any fun x => x.addr == src then s
  else if 8 ≤ s.can.vt.sets.length then s
  else s.updVt fun v => { v with sets := v.sets ++ [{ addr := src }] }

/-- A message of a working set that is logged in. -/
def vtCommand (src : Nat) (x : VtSet) (b : Bytes) (s : State) : State :=
  match fieldLe b 0 1 with
  | 0x11 => vtTransfer src x (b.drop 1) s
  | 0x12 => vtReply src [0x12, vtCode x.bad] (vtPut src (fun x => { x with active := x.bad.isNone }) s)
  | 0xA3 => vtReply src [0xA3, Config.vtError 0] s
  | 0xC0 =>
    let n := fieldLe b 2 4
    if vtFits s src n then vtReply src [0xC0, 6, 0] (vtPut src (fun x => { x with need := n, pool := [], active := false, bad := none }) s)
    else vtReply src [0xC0, 6, 1] s
  | 0xC2 => vtReply src [0xC2, Config.vtHardware 2, 0xFF, 0xFF, 160, 160, 64, byteOf (vtKeys s)] s
  | 0xC3 => vtReply src [0xC3, 0xFF, 0xFF, 0xFF, 0xFF, 0x7F, 0xFF, 0xFF] s
  | 0xC7 => vtReply src ([0xC7, Config.vtHardware 0, 2, Config.vtHardware 1] ++ leBytes 2 (vtMask s) ++ leBytes 2 (vtMask s)) s
  | 0xD0 => vtStore src ((b.drop 1).take 7) x s
  | 0xD1 => vtLoad src ((b.drop 1).take 7) s
  | 0xD2 => vtDelete src ((b.drop 1).take 7) s
  | _ => s

/-- A message to the VT server. -/
def vtMessage (src : Nat) (b : Bytes) (s : State) : State :=
  if fieldLe b 0 1 = 0xFF then vtLogin src s
  else match s.can.vt.sets.find? fun x => x.addr == src with
    | some x => vtCommand src x b s
    | none => s

/-! ## Transport protocol, connection mode (14 Table 14-7) -/

/-- Packets of a message. -/
def tpPackets (n : Nat) : Nat := (n + 6) / 7

/-- Clear to send: all packets, or of an extended transfer up to 255 more. -/
def tpClear (x : VtTp) (s : State) : State :=
  let done := tpPackets x.got.length
  if x.ext then
    vtSend 0xC8 x.src ([21, byteOf (min 255 (tpPackets x.total - done))] ++ leBytes 3 (done + 1) ++ leBytes 3 0xE700) s
  else vtSend 0xEC x.src ([17, byteOf (tpPackets x.total), 1, 0xFF, 0xFF] ++ leBytes 3 0xE700) s

/-- The connection of an address is gone. -/
def tpDrop (src : Nat) (s : State) : State := s.updVt fun v => { v with tp := v.tp.filter fun x => x.src != src }

/-- Request to send of an ECU-to-VT message. -/
def tpOpen (x : VtTp) (b : Bytes) (s : State) : State :=
  if fieldLe b 5 3 ≠ 0xE700 ∨ (if x.ext then 0x1000000 else 1785) < x.total then s
  else tpClear x ((tpDrop x.src s).updVt fun v => { v with tp := v.tp ++ [x] })

/-- A data packet. -/
def tpData (src : Nat) (b : Bytes) (s : State) : State :=
  match s.can.vt.tp.find? fun x => x.src == src with
  | none => s
  | some x =>
    let y := { x with got := x.got ++ b.drop 1 }
    if y.total ≤ y.got.length then
      let s := vtSend (if x.ext then 0xC8 else 0xEC) src
        ((if x.ext then 23 :: leBytes 4 x.total else [19] ++ leBytes 2 x.total ++ [byteOf (tpPackets x.total), 0xFF]) ++ leBytes 3 0xE700) (tpDrop src s)
      vtMessage src (y.got.take y.total) s
    else
      let s := s.updVt fun v => { v with tp := v.tp.map fun (z : VtTp) => if z.src = src then y else z }
      if x.ext ∧ tpPackets y.got.length % 255 = 0 then tpClear y s else s

/-- One frame of `C1` that the VT server takes. -/
def vtFrame (s : State) (f : CanFrame) : State :=
  let src := f.id % 256
  let b := f.data
  if f.id / 256 % 256 ≠ vtAddress s ∨ 254 ≤ vtAddress s then s
  else match f.id / 65536 % 256, fieldLe b 0 1 with
    | 0xE7, _ => vtMessage src b s
    | 0xEC, 16 => tpOpen ⟨src, fieldLe b 1 2, [], false⟩ b s
    | 0xC8, 20 => tpOpen ⟨src, fieldLe b 1 4, [], true⟩ b s
    | 0xEC, 255 => tpDrop src s
    | 0xC8, 255 => tpDrop src s
    | 0xEB, _ => tpData src b s
    | 0xC7, _ => tpData src b s
    | _, _ => s

/-- The oldest answer goes to the VT server's object on `C1` while that is free. -/
def vtSendNext (s : State) : State :=
  match s.can.vt.out with
  | f :: t =>
    if (s.cch 0).up ∧ (s.cobj 0 1).pending.isNone then
      (s.updVt fun v => { v with out := t }).updCobj 0 1 fun o => { o with pending := some f, oneShot := false, cancel := false, result := 0 }
    else s
  | [] => s

/-- The VT server's part of an application frame: it takes the frames of FIFO 1. -/
def vtServe (s : State) : State := vtSendNext (((s.cch 0).fifo1.map (·.1)).foldl vtFrame s)

end Sys2Proof.Machine
end

