-- ==== Sys2Proof/Machine/Frames.lean ====
section
/-! DEFINITION. What the clock does: the 100 µs loop frame (01 Table 01-4, 05 Table 05-2), the Gallery's 10 ms application frame
(01 R18), Skylight's 50 ms epoch (12 R283) and the step of machine time (13 R302). -/

namespace Sys2Proof.Machine

/-! ## The loop frame -/

/-- 0 µs: the stages take up what the last frame latched, the converters start, the closed stamps are taken. -/
def frameStart (x : FrameIn) (s : State) : State :=
  let s := s.updTm (frameTime (s.nat 0x5000 0x12))
  let s := senseFrame x (modeFrame (fieldFrame (valveFrame s)))
  s.updLoop fun l => { l with lat := { l.lat with imeas := l.lat.imeas.mapIdx fun k m =>
    ((x.pv.find? fun p => p.1 == k).map (·.2)).getD m } }

/-- Every station clocked by a shaft takes this frame's travel (02 R46). -/
def stationFrame (s : State) : State :=
  s.updPas fun p => { p with stations := p.stations.mapIdx fun k t => if k = 0 then t else stationTravel s k t }

/-- The FIFO of edge stamps is empty again (04 R110). -/
def closeStamps (s : State) : State :=
  s.updSens fun z => { z with sh := z.sh.map fun (h : Sh) => { h with fifo := 0, fresh := 0 } }

/-- 0–20 µs: the Passage advances, attributes and settles; what it made happen, the crossings and the parcels final now. The reports are
noted after the last sub-parcel has been freed (07 R182). -/
def passageFrame (sections : Nat) (s : State) : State × PasEv × List Nat :=
  let g := groundFrame (s.updPas fun p => { p with sectionWidth := sections })
  let a := advance (stationFrame g.1)
  let r := settle (tareFrame (loadFrame (attributeFlows (attributeImpacts a.1))))
  let crossed := a.2.filterMap fun c => if c.station = 7 ∧ c.pass = 1 then some (c.time, c.num) else none
  let s := noteReports crossed (freeEntriesNow (calCount r.1 r.2))
  (orderCheck (closeStamps (s.records g.2.recs)), { g.2 with crossings := a.2 }, r.2)

/-- 20–80 µs: set-points, the contexts due, the trace at 70 µs, the compare at 75 µs and the latch at 80 µs; in Shutdown sensing stops once every
output is safe (04 R120). -/
def loopPhase (x : FrameIn) (crossed : Nat → Nat → Bool) (s : State) : State :=
  let s70 := runContexts (setpointStage s)
  let latched := decide (affected s70 x = [])
  let s := traceFrame x crossed s70 (fieldLatch (latched && decide (s70.pw.dev ≠ .start)) (compareAndLatch x s70))
  if s.pw.dev = .shutdown ∧ outputsSafe s then s.updSens fun z => { z with off := true } else s

/-- R23: one loop frame. -/
def loopFrame (x : FrameIn) (s : State) : State :=
  let s := (frameStart x s).updLoop fun l => { l with beat := s.tm.now + 100000 }
  let p := passageFrame x.sections s
  let s := columnA (leadFrame p.2.1 p.2.2 p.1)
  let s := holdC (if s.tm.frame % 100 = 0 then stageFrame s else s)
  let s := completeReset (releaseEvents s)
  let s := loopPhase x (fun n k => p.2.1.crossings.any fun c => c.num == n && c.station == k && c.pass == 1) s
  probationFrame (lanFrame (drainFifo 0 (abortFrame s)))

/-- In Ladder no engine runs its part of a frame and machine time goes on counting (13 Table 13-7; log 34). -/
def execLoopFrame (x : FrameIn) (s : State) : Out :=
  .next (if s.reachable then loopFrame x s
    else if s.pw.dev = .ladder ∧ !s.belay.resetWait then s.updTm (frameTime (s.nat 0x5000 0x12)) else s)

/-! ## The application frame -/

/-- The repetitive memories whose save a run has taken are written to user calibration (06 R162; DESIGN CHOICE, log 42: in the next application
frame). -/
def saveMemories (s : State) : State :=
  (List.range 128).foldl (fun s n =>
    let c := (s.ctxAt n).comp
    if c.saving then
      (s.commit 2 (keyOf (compObj n) 0xD) (.bytes ((c.saved.getD []).flatMap (leInt 2)))).updComp n fun c => { c with saving := false }
    else s) s

/-- R18: the Gallery's frame: yield mapping takes the mass reports, the optimiser runs, guidance and the cart follow, the map strip goes
to the Passage. -/
def applicationFrame (x : AppIn) (s : State) : State :=
  let s := s.updLoop fun l => { l with galBeat := s.tm.now }
  let s := freeEntriesNow (takeReports (yieldFrame (saveMemories s)))
  let s := optFrame s
  let s := cartFrame (recordCurve (fillWindow (turnFrame x.boundary s)))
  claimFrameEnd (drainFifo 1 (vtServe (leadAppFrame (mapStrip x.strip s) s)))

def execApplicationFrame (x : AppIn) (s : State) : Out := .next (if s.reachable then applicationFrame x s else s)

/-! ## Skylight's epoch -/

/-- R283–R291: the solution of one epoch. -/
def execEpochSolution (x : Solution) (s : State) : Out :=
  .next (if s.skyRuns && x.epoch % 50000000 == 0 then epochStep x s else s)

/-! ## The step of machine time (R302) -/

/-- A held stamp moved by Δ; 0 stands for none. -/
def moved (d : Int) (t : Nat) : Nat := if t = 0 then 0 else ((t : Int) + d).toNat

/-- Stamps held by sensing: last samples, last edges, windows of impacts. -/
def Sense.moved (d : Int) (z : Sense) : Sense :=
  { z with
    ai := z.ai.map fun (y : Ai) => { y with stamp := Machine.moved d y.stamp }
    sh := z.sh.map fun (y : Sh) => { y with lastStamp := Machine.moved d y.lastStamp }
    sent := z.sent.map fun (y : Sent) => { y with stamp := Machine.moved d y.stamp }
    imu := { z.imu with stamp := Machine.moved d z.imu.stamp }
    impacts := z.impacts.map fun e => (e.1, Machine.moved d e.2.1, e.2.2) }

/-- Stamps held by the Passage: the slice in progress, the parcels' cut and crossing times, the frames whose weights are kept. -/
def Pas.moved (d : Int) (p : Pas) : Pas :=
  { p with
    sliceStart := Machine.moved d p.sliceStart
    ring := p.ring.map fun (q : Parcel) => { q with
      cutStart := Machine.moved d q.cutStart, cutEnd := Machine.moved d q.cutEnd
      visits := q.visits.map fun (v : Visit) => { v with crossAt := Machine.moved d v.crossAt } }
    taps := p.taps.map fun (t : Taps) => { t with start := Machine.moved d t.start } }

/-- Stamps held by the event queue: insertions, and crossings predicted or passed. -/
def PasCtl.moved (d : Int) (c : PasCtl) : PasCtl :=
  let one := fun (e : Event) => { e with stamp := Machine.moved d e.stamp }
  { c with events := c.events.map one
           watch := c.watch.map fun w => (one w.1, Machine.moved d w.2)
           probeWait := c.probeWait.map fun w => (one w.1, w.2.1, Machine.moved d w.2.2) }

/-- Stamps held by the loop engine: runs and mismatches. -/
def LoopSt.moved (d : Int) (l : LoopSt) : LoopSt :=
  { l with ctx := l.ctx.map (fun (c : LCtx) => { c with ranAt := Machine.moved d c.ranAt })
           mismatches := l.mismatches.map fun m => (Machine.moved d m.1, m.2)
           lat := { l.lat with stamp := Machine.moved d l.lat.stamp }
           beat := Machine.moved d l.beat
           galBeat := Machine.moved d l.galBeat }

/-- Stamps held by the trace. -/
def Trace.moved (d : Int) (t : Trace) : Trace :=
  { t with firstTime := Machine.moved d t.firstTime, trigTime := Machine.moved d t.trigTime, times := t.times.map (Machine.moved d) }

/-- Stamps held by the valve stages. -/
def Valve.moved (d : Int) (v : Valve) : Valve :=
  { v with ch := v.ch.map fun (c : VCh) =>
      { c with phaseAt := Machine.moved d c.phaseAt, startAt := Machine.moved d c.startAt, edgeAt := Machine.moved d c.edgeAt } }

/-- Stamps held by the bus engine. -/
def Can.moved (d : Int) (x : Can) : Can :=
  { x with
    ch := x.ch.map (fun (c : CanCh) =>
      { c with fifo0 := c.fifo0.map (fun e => (e.1, Machine.moved d e.2)), fifo1 := c.fifo1.map fun e => (e.1, Machine.moved d e.2) })
    lastRef := Machine.moved d x.lastRef }

/-- Stamps held by Skylight. -/
def SkyIo.moved (d : Int) (o : SkyIo) : SkyIo :=
  { o with
    aid := o.aid.map fun a => (a.1, a.2.1, Machine.moved d a.2.2)
    baseChangedAt := o.baseChangedAt.map (Machine.moved d)
    corrStamp := o.corrStamp.map (Machine.moved d) }

/-- Stamps held for the sessions' commands. -/
def Sess.moved (d : Int) (x : Sess) : Sess :=
  { x with abortAccepted := Machine.moved d x.abortAccepted, abortCompleted := Machine.moved d x.abortCompleted }

/-- Every stamp held in engine state moves by Δ; Flowstone's records and messages already formed keep theirs (R302). -/
def shiftStamps (d : Int) (s : State) : State :=
  { s with
    sens := s.sens.moved d
    pas := s.pas.moved d
    pctl := s.pctl.moved d
    lead := { s.lead with pubStamp := moved d s.lead.pubStamp }
    loop := s.loop.moved d
    trace := s.trace.moved d
    valve := s.valve.moved d
    can := s.can.moved d
    sky := { s.sky with pose := { s.sky.pose with stamp := moved d s.sky.pose.stamp }, holdAt := moved d s.sky.holdAt }
    skyio := s.skyio.moved d
    net := { s.net with ptp := s.net.ptp.map fun (p : Ptp) => { p with lastSync := moved d p.lastSync } }
    opt := { s.opt with s6 := s.opt.s6.map fun e => (moved d e.1, e.2) }
    steer := { s.steer with cart := { s.steer.cart with report := s.steer.cart.report.map fun (r : CartPose) => { r with stamp := moved d r.stamp } } }
    yield := { s.yield with log := s.yield.log.map fun (e : LogEntry) => { e with stamp := moved d e.stamp } }
    fio := { s.fio with pins := s.fio.pins.map fun (p : FPin) => { p with stamp := moved d p.stamp } }
    lan := { s.lan with frameStamp := moved d s.lan.frameStamp }
    belay := { s.belay with shutdownAt := moved d s.belay.shutdownAt }
    serv := { s.serv with sess := s.serv.sess.map (Sess.moved d) } }

/-- The step of Δ at the end of the present frame, which r stretches; the record stands in the stepped time. -/
def stepTime (d : Int) (s : State) : State :=
  let old := s.tm.now
  let r := stepExtension d
  let cause := s.tm.stepCause
  let s := (shiftStamps d s).updTm fun t =>
    { t with now := ((t.now : Int) + d + r).toNat, mono := t.mono + r, step := none, stretchedAt := some (t.mono + r), lastStep := d,
             lastStepFrame := t.frame, stepCount := inc32 t.stepCount }
  let s := s.updSkyio fun o => { o with stepSince := true }
  let s := if s.sky.status = 2 ∧ cause = 1 then s.updSky fun k => { k with status := 1 } else s
  s.record ⟨0x9003, Config.stepCause cause, 0x0B, [], leBytes 8 (old + 100000) ++ leInt 8 ((old : Int) + 100000 + d), 0xFFFFFFFF, 0xF⟩

/-- R302: a waiting step is applied at the end of the frame that its second falls in, unless a slew is in progress. -/
def execTimeStep (s : State) : Out :=
  .next (match s.tm.step with
    | some d => if s.reachable ∧ s.tm.slew = 0 ∧ s.tm.stepAt ≤ s.tm.now + 100000 then stepTime (wholeTicks d) s else s
    | none => s)

end Sys2Proof.Machine
end

