-- ==== Sys2Proof/Machine/Dispatch.lean ====
section
/-! DEFINITION. One arm for each command: the call of its meaning. -/

namespace Sys2Proof.Machine

def exec (i : Instr) (s : State) : Host.Outcome State Fault Refusal :=
  match i with
  | .loopFrame x => Sys2Proof.Machine.execLoopFrame x s
  | .applicationFrame x => Sys2Proof.Machine.execApplicationFrame x s
  | .ignWake => Sys2Proof.Machine.execIgnWake s
  | .keysvcWake => Sys2Proof.Machine.execKeysvcWake s
  | .keysvcHoldExpiry => Sys2Proof.Machine.execKeysvcHoldExpiry s
  | .alarmWake => Sys2Proof.Machine.execAlarmWake s
  | .alarmPassedAwake => Sys2Proof.Machine.execAlarmPassedAwake s
  | .canWake w how => Sys2Proof.Machine.execCanWake w how s
  | .startAllowedWaitEnd => Sys2Proof.Machine.execStartAllowedWaitEnd s
  | .startToRun => Sys2Proof.Machine.execStartToRun s
  | .startToLadder noCol noGal => Sys2Proof.Machine.execStartToLadder noCol noGal s
  | .deviceStateRequestRun sess => Sys2Proof.Machine.execDeviceStateRequestRun sess s
  | .deviceStateRequestService sess => Sys2Proof.Machine.execDeviceStateRequestService sess s
  | .deviceStateRequestShutdown sess => Sys2Proof.Machine.execDeviceStateRequestShutdown sess s
  | .ignOffDelayExpiry => Sys2Proof.Machine.execIgnOffDelayExpiry s
  | .ladderIgnOffExpiry => Sys2Proof.Machine.execLadderIgnOffExpiry s
  | .shutdownComplete => Sys2Proof.Machine.execShutdownComplete s
  | .shutdownLimitExpiry => Sys2Proof.Machine.execShutdownLimitExpiry s
  | .parkDwellExpiry => Sys2Proof.Machine.execParkDwellExpiry s
  | .operatorTakeover stamp => Sys2Proof.Machine.execOperatorTakeover stamp s
  | .eccCorrected mem => Sys2Proof.Machine.execEccCorrected mem s
  | .eccUncorrectable mem area address => Sys2Proof.Machine.execEccUncorrectable mem area address s
  | .headerEntersWork => Sys2Proof.Machine.execHeaderEntersWork s
  | .headerLeavesWork => Sys2Proof.Machine.execHeaderLeavesWork s
  | .stationStopTimeout k => Sys2Proof.Machine.execStationStopTimeout k s
  | .groundSourceLossExpiry => Sys2Proof.Machine.execGroundSourceLossExpiry s
  | .eventRecord sess rec => Sys2Proof.Machine.execEventRecord sess rec s
  | .eventCancel sess id => Sys2Proof.Machine.execEventCancel sess id s
  | .snapshot sess v => Sys2Proof.Machine.execSnapshot sess v s
  | .stationConfigWrite sess k sub v => Sys2Proof.Machine.execStationConfigWrite sess k sub v s
  | .kernelWrite sess k sub v => Sys2Proof.Machine.execKernelWrite sess k sub v s
  | .sliceLengthWrite sess sub v => Sys2Proof.Machine.execSliceLengthWrite sess sub v s
  | .calStart sess => Sys2Proof.Machine.execCalStart sess s
  | .calStop sess => Sys2Proof.Machine.execCalStop sess s
  | .calAccept sess => Sys2Proof.Machine.execCalAccept sess s
  | .calDiscard sess => Sys2Proof.Machine.execCalDiscard sess s
  | .calProposalReady transit step kernel quality => Sys2Proof.Machine.execCalProposalReady transit step kernel quality s
  | .transitTrim trims => Sys2Proof.Machine.execTransitTrim trims s
  | .passageReset outOfOrder => Sys2Proof.Machine.execPassageReset outOfOrder s
  | .leadSuspendEnd => Sys2Proof.Machine.execLeadSuspendEnd s
  | .leadEnable sess v => Sys2Proof.Machine.execLeadEnable sess v s
  | .leadSlotWrite sess j sub v => Sys2Proof.Machine.execLeadSlotWrite sess j sub v s
  | .leadSnapshot sess v => Sys2Proof.Machine.execLeadSnapshot sess v s
  | .leadCountRecord => Sys2Proof.Machine.execLeadCountRecord s
  | .sensorSupplyFoldback u => Sys2Proof.Machine.execSensorSupplyFoldback u s
  | .sensorSupplyRetry u within => Sys2Proof.Machine.execSensorSupplyRetry u within s
  | .pulseWindowClose c stamp samples => Sys2Proof.Machine.execPulseWindowClose c stamp samples s
  | .lsChannelTest c cap lowResistance => Sys2Proof.Machine.execLsChannelTest c cap lowResistance s
  | .lsTestNow sess mask => Sys2Proof.Machine.execLsTestNow sess mask s
  | .lsNoisyExpiry c above => Sys2Proof.Machine.execLsNoisyExpiry c above s
  | .lossChannelWrite sess c sub v => Sys2Proof.Machine.execLossChannelWrite sess c sub v s
  | .aiRangeFault a raw => Sys2Proof.Machine.execAiRangeFault a raw s
  | .aiRangeHoldExpiry a => Sys2Proof.Machine.execAiRangeHoldExpiry a s
  | .shuntOpen a => Sys2Proof.Machine.execShuntOpen a s
  | .shuntRetest a microamp => Sys2Proof.Machine.execShuntRetest a microamp s
  | .aiConfigWrite sess a sub v => Sys2Proof.Machine.execAiConfigWrite sess a sub v s
  | .shaftEdge sh stamp lines held => Sys2Proof.Machine.execShaftEdge sh stamp lines held s
  | .indexEdge sh stamp => Sys2Proof.Machine.execIndexEdge sh stamp s
  | .shaftZeroTimeout sh => Sys2Proof.Machine.execShaftZeroTimeout sh s
  | .shaftFaultClearExpiry sh => Sys2Proof.Machine.execShaftFaultClearExpiry sh s
  | .tareLearn => Sys2Proof.Machine.execTareLearn s
  | .imuSample stamp ax ay az rx ry rz biasX biasY => Sys2Proof.Machine.execImuSample stamp ax ay az rx ry rz biasX biasY s
  | .imuSelfTest pass => Sys2Proof.Machine.execImuSelfTest pass s
  | .contextEnable sess n => Sys2Proof.Machine.execContextEnable sess n s
  | .contextDisable sess n => Sys2Proof.Machine.execContextDisable sess n s
  | .coefSetWrite sess n set rec => Sys2Proof.Machine.execCoefSetWrite sess n set rec s
  | .swapRequest sess n v => Sys2Proof.Machine.execSwapRequest sess n v s
  | .functionModeManual sess f => Sys2Proof.Machine.execFunctionModeManual sess f s
  | .functionModeAuto sess f => Sys2Proof.Machine.execFunctionModeAuto sess f s
  | .functionModeHold sess f => Sys2Proof.Machine.execFunctionModeHold sess f s
  | .committedSetpointWrite sess f v => Sys2Proof.Machine.execCommittedSetpointWrite sess f v s
  | .setpointLimitsWrite sess f sub v => Sys2Proof.Machine.execSetpointLimitsWrite sess f sub v s
  | .setpointSourceWrite sess f sub v => Sys2Proof.Machine.execSetpointSourceWrite sess f sub v s
  | .manualCommandWrite sess f v => Sys2Proof.Machine.execManualCommandWrite sess f v s
  | .functionCommand sess f v => Sys2Proof.Machine.execFunctionCommand sess f v s
  | .lpeHandover costs => Sys2Proof.Machine.execLpeHandover costs s
  | .repClear sess n => Sys2Proof.Machine.execRepClear sess n s
  | .repHold sess n => Sys2Proof.Machine.execRepHold sess n s
  | .repResume sess n => Sys2Proof.Machine.execRepResume sess n s
  | .repSave sess n => Sys2Proof.Machine.execRepSave sess n s
  | .repMemoryLoad n => Sys2Proof.Machine.execRepMemoryLoad n s
  | .compTableWrite sess n sub data => Sys2Proof.Machine.execCompTableWrite sess n sub data s
  | .traceArm sess => Sys2Proof.Machine.execTraceArm sess s
  | .traceForceTrigger sess => Sys2Proof.Machine.execTraceForceTrigger sess s
  | .traceDisarm sess => Sys2Proof.Machine.execTraceDisarm sess s
  | .traceRelease sess => Sys2Proof.Machine.execTraceRelease sess s
  | .readBlock sess => Sys2Proof.Machine.execReadBlock sess s
  | .blockJudged => Sys2Proof.Machine.execBlockJudged s
  | .suggestionAccept sess j => Sys2Proof.Machine.execSuggestionAccept sess j s
  | .suggestionReject sess j => Sys2Proof.Machine.execSuggestionReject sess j s
  | .suggestionExpiry j => Sys2Proof.Machine.execSuggestionExpiry j s
  | .operatorHoldExpiry j => Sys2Proof.Machine.execOperatorHoldExpiry j s
  | .damageDatagram iface rec => Sys2Proof.Machine.execDamageDatagram iface rec s
  | .damageStaleExpiry => Sys2Proof.Machine.execDamageStaleExpiry s
  | .optConfigWrite sess sub v => Sys2Proof.Machine.execOptConfigWrite sess sub v s
  | .optSlotWrite sess j sub v => Sys2Proof.Machine.execOptSlotWrite sess j sub v s
  | .steerEngage sess => Sys2Proof.Machine.execSteerEngage sess s
  | .steerDisengageCommand sess => Sys2Proof.Machine.execSteerDisengageCommand sess s
  | .steerDisengage reason => Sys2Proof.Machine.execSteerDisengage reason s
  | .seatLowExpiry => Sys2Proof.Machine.execSeatLowExpiry s
  | .wheelAngleDisagree => Sys2Proof.Machine.execWheelAngleDisagree s
  | .runawayExpiry => Sys2Proof.Machine.execRunawayExpiry s
  | .steerOverspeedExpiry => Sys2Proof.Machine.execSteerOverspeedExpiry s
  | .steerReverseTravel => Sys2Proof.Machine.execSteerReverseTravel s
  | .takeoverRefusalEnd => Sys2Proof.Machine.execTakeoverRefusalEnd s
  | .coastExhausted => Sys2Proof.Machine.execCoastExhausted s
  | .turnNow sess => Sys2Proof.Machine.execTurnNow sess s
  | .turnCancel sess => Sys2Proof.Machine.execTurnCancel sess s
  | .turnComplete => Sys2Proof.Machine.execTurnComplete s
  | .lineSetA sess => Sys2Proof.Machine.execLineSetA sess s
  | .lineSetB sess => Sys2Proof.Machine.execLineSetB sess s
  | .curveRecordStart sess => Sys2Proof.Machine.execCurveRecordStart sess s
  | .curveRecordEnd sess => Sys2Proof.Machine.execCurveRecordEnd sess s
  | .nearestPass sess v => Sys2Proof.Machine.execNearestPass sess v s
  | .edgeFrame ch id stamp data => Sys2Proof.Machine.execEdgeFrame ch id stamp data s
  | .edgeTimeout => Sys2Proof.Machine.execEdgeTimeout s
  | .unloadMessage => Sys2Proof.Machine.execUnloadMessage s
  | .loadStart sess => Sys2Proof.Machine.execLoadStart sess s
  | .loadEmpty sess => Sys2Proof.Machine.execLoadEmpty sess s
  | .loadEmptied => Sys2Proof.Machine.execLoadEmptied s
  | .weighedMassWrite sess g => Sys2Proof.Machine.execWeighedMassWrite sess g s
  | .loadAccept sess => Sys2Proof.Machine.execLoadAccept sess s
  | .loadDiscard sess => Sys2Proof.Machine.execLoadDiscard sess s
  | .mapOpen by_ => Sys2Proof.Machine.execMapOpen by_ s
  | .mapClose by_ => Sys2Proof.Machine.execMapClose by_ s
  | .priorTile tile => Sys2Proof.Machine.execPriorTile tile s
  | .fleetConnect => Sys2Proof.Machine.execFleetConnect s
  | .fleetReconnectExpiry connected => Sys2Proof.Machine.execFleetReconnectExpiry connected s
  | .fleetLinkLost authRefused => Sys2Proof.Machine.execFleetLinkLost authRefused s
  | .posePublish => Sys2Proof.Machine.execPosePublish s
  | .parcelBatchPublish => Sys2Proof.Machine.execParcelBatchPublish s
  | .tilePublish e n => Sys2Proof.Machine.execTilePublish e n s
  | .statePublish opt => Sys2Proof.Machine.execStatePublish opt s
  | .docPublish file => Sys2Proof.Machine.execDocPublish file s
  | .fleetMessageReceive topic msg => Sys2Proof.Machine.execFleetMessageReceive topic msg s
  | .bankEnable b grant => Sys2Proof.Machine.execBankEnable b grant s
  | .driveSupplyNotPresent sup high mV => Sys2Proof.Machine.execDriveSupplyNotPresent sup high mV s
  | .driveSupplyPresent sup => Sys2Proof.Machine.execDriveSupplyPresent sup s
  | .bankResumeSlot b => Sys2Proof.Machine.execBankResumeSlot b s
  | .railFault => Sys2Proof.Machine.execRailFault s
  | .railFaultClear => Sys2Proof.Machine.execRailFaultClear s
  | .pvRegulationPeriod x => Sys2Proof.Machine.execPvRegulationPeriod x s
  | .svBoostEnd n time => Sys2Proof.Machine.execSvBoostEnd n time s
  | .boostTimeout n mA => Sys2Proof.Machine.execBoostTimeout n mA s
  | .svPeakEnd n => Sys2Proof.Machine.execSvPeakEnd n s
  | .svPulseHoldExpiry n => Sys2Proof.Machine.execSvPulseHoldExpiry n s
  | .svQuenchEnd n => Sys2Proof.Machine.execSvQuenchEnd n s
  | .svBoostGranted b time => Sys2Proof.Machine.execSvBoostGranted b time s
  | .boostRejected n time => Sys2Proof.Machine.execBoostRejected n time s
  | .svThermalLimit n => Sys2Proof.Machine.execSvThermalLimit n s
  | .overlapCheck n mean => Sys2Proof.Machine.execOverlapCheck n mean s
  | .moveDetect n moveTime => Sys2Proof.Machine.execMoveDetect n moveTime s
  | .coilTempUpdate n res relaxed => Sys2Proof.Machine.execCoilTempUpdate n res relaxed s
  | .sentFrame u frame => Sys2Proof.Machine.execSentFrame u frame s
  | .sentTimeout u => Sys2Proof.Machine.execSentTimeout u s
  | .stuck n targetChange travel => Sys2Proof.Machine.execStuck n targetChange travel s
  | .valveOvercurrent n => Sys2Proof.Machine.execValveOvercurrent n s
  | .valveTripRetry n => Sys2Proof.Machine.execValveTripRetry n s
  | .highSideTrip b => Sys2Proof.Machine.execHighSideTrip b s
  | .uncommandedCurrent n => Sys2Proof.Machine.execUncommandedCurrent n s
  | .offStateTest n result => Sys2Proof.Machine.execOffStateTest n result s
  | .openLoadDriven n set => Sys2Proof.Machine.execOpenLoadDriven n set s
  | .shortedCoil n => Sys2Proof.Machine.execShortedCoil n s
  | .valveOvertempStage n high => Sys2Proof.Machine.execValveOvertempStage n high s
  | .valveFaultCommand sess n v => Sys2Proof.Machine.execValveFaultCommand sess n v s
  | .bankCommand sess b v => Sys2Proof.Machine.execBankCommand sess b v s
  | .valveGuardExpiry b => Sys2Proof.Machine.execValveGuardExpiry b s
  | .valveGuardEnd b => Sys2Proof.Machine.execValveGuardEnd b s
  | .testCommand sess n v => Sys2Proof.Machine.execTestCommand sess n v s
  | .testCommandTimeout n => Sys2Proof.Machine.execTestCommandTimeout n s
  | .valveConfigWrite sess index sub v => Sys2Proof.Machine.execValveConfigWrite sess index sub v s
  | .fieldInputChange n mV stamp => Sys2Proof.Machine.execFieldInputChange n mV stamp s
  | .outputCommandWrite sess n v => Sys2Proof.Machine.execOutputCommandWrite sess n v s
  | .groupEnable g grant => Sys2Proof.Machine.execGroupEnable g grant s
  | .groupSupplyLow g low mV => Sys2Proof.Machine.execGroupSupplyLow g low mV s
  | .groupSupplyMissing g high mV => Sys2Proof.Machine.execGroupSupplyMissing g high mV s
  | .groupRestoreStart g => Sys2Proof.Machine.execGroupRestoreStart g s
  | .groupRestoreSlot g => Sys2Proof.Machine.execGroupRestoreSlot g s
  | .fieldOvercurrent n => Sys2Proof.Machine.execFieldOvercurrent n s
  | .fieldOvertempStage n high => Sys2Proof.Machine.execFieldOvertempStage n high s
  | .groupOverload g => Sys2Proof.Machine.execGroupOverload g s
  | .noLoadCurrent n set => Sys2Proof.Machine.execNoLoadCurrent n set s
  | .externalDrive n set => Sys2Proof.Machine.execExternalDrive n set s
  | .pinsJoined m n followed => Sys2Proof.Machine.execPinsJoined m n followed s
  | .fieldGuardExpiry g => Sys2Proof.Machine.execFieldGuardExpiry g s
  | .fieldGuardEnd g => Sys2Proof.Machine.execFieldGuardEnd g s
  | .fieldFaultCommand sess n v => Sys2Proof.Machine.execFieldFaultCommand sess n v s
  | .groupCommand sess g v => Sys2Proof.Machine.execGroupCommand sess g v s
  | .pinModeWrite sess n v => Sys2Proof.Machine.execPinModeWrite sess n v s
  | .antennaFeedFault a short => Sys2Proof.Machine.execAntennaFeedFault a short s
  | .antennaFeedRetry a ok => Sys2Proof.Machine.execAntennaFeedRetry a ok s
  | .searchBlock svid sig peak => Sys2Proof.Machine.execSearchBlock svid sig peak s
  | .detectionVerify ch locked => Sys2Proof.Machine.execDetectionVerify ch locked s
  | .aidingSet f0 f1 f2 t0 t1 t2 => Sys2Proof.Machine.execAidingSet f0 f1 f2 t0 t1 t2 s
  | .channelAllocation view => Sys2Proof.Machine.execChannelAllocation view s
  | .cycleSlip ch => Sys2Proof.Machine.execCycleSlip ch s
  | .epochSolution sol => Sys2Proof.Machine.execEpochSolution sol s
  | .rtcmFrame fromFleet frame => Sys2Proof.Machine.execRtcmFrame fromFleet frame s
  | .firstFixTimeSet gnssTime => Sys2Proof.Machine.execFirstFixTimeSet gnssTime s
  | .slewEnd => Sys2Proof.Machine.execSlewEnd s
  | .timeStep => Sys2Proof.Machine.execTimeStep s
  | .ppsEdge second qerr => Sys2Proof.Machine.execPpsEdge second qerr s
  | .timeMessage => Sys2Proof.Machine.execTimeMessage s
  | .skyColdStart sess => Sys2Proof.Machine.execSkyColdStart sess s
  | .skyDropAmbiguities sess => Sys2Proof.Machine.execSkyDropAmbiguities sess s
  | .skylightStop => Sys2Proof.Machine.execSkylightStop s
  | .rtcWrite => Sys2Proof.Machine.execRtcWrite s
  | .ptpSyncReceive port offset accuracy => Sys2Proof.Machine.execPtpSyncReceive port offset accuracy s
  | .ptpSyncDepart port => Sys2Proof.Machine.execPtpSyncDepart port s
  | .pdelayExchange port delay => Sys2Proof.Machine.execPdelayExchange port delay s
  | .announceTimeout => Sys2Proof.Machine.execAnnounceTimeout s
  | .acceptRefusedStep sess => Sys2Proof.Machine.execAcceptRefusedStep sess s
  | .discardRefusedStep sess => Sys2Proof.Machine.execDiscardRefusedStep sess s
  | .ethLinkChange p up => Sys2Proof.Machine.execEthLinkChange p up s
  | .netConfigWrite sess index sub v => Sys2Proof.Machine.execNetConfigWrite sess index sub v s
  | .canFrameTransmit c outcome stamp tdc => Sys2Proof.Machine.execCanFrameTransmit c outcome stamp tdc s
  | .canFrameReceive c frame stamp => Sys2Proof.Machine.execCanFrameReceive c frame stamp s
  | .busOff c => Sys2Proof.Machine.execBusOff c s
  | .busOffRecovery c => Sys2Proof.Machine.execBusOffRecovery c s
  | .resumeObject sess c obj => Sys2Proof.Machine.execResumeObject sess c obj s
  | .leaveBusOff sess c => Sys2Proof.Machine.execLeaveBusOff sess c s
  | .txdTimeout c => Sys2Proof.Machine.execTxdTimeout c s
  | .protocolException c => Sys2Proof.Machine.execProtocolException c s
  | .frameSend sess rec => Sys2Proof.Machine.execFrameSend sess rec s
  | .frameCancel sess v => Sys2Proof.Machine.execFrameCancel sess v s
  | .referenceMessage sent stamp => Sys2Proof.Machine.execReferenceMessage sent stamp s
  | .refResume sess v => Sys2Proof.Machine.execRefResume sess v s
  | .addressClaim k outcome => Sys2Proof.Machine.execAddressClaim k outcome s
  | .addressReclaim k new => Sys2Proof.Machine.execAddressReclaim k new s
  | .canChannelConfigWrite sess c sub v => Sys2Proof.Machine.execCanChannelConfigWrite sess c sub v s
  | .sessionOpen tr source => Sys2Proof.Machine.execSessionOpen tr source s
  | .roleRequest sess v => Sys2Proof.Machine.execRoleRequest sess v s
  | .challenge sess random => Sys2Proof.Machine.execChallenge sess random s
  | .response sess r => Sys2Proof.Machine.execResponse sess r s
  | .roleLockoutEnd source => Sys2Proof.Machine.execRoleLockoutEnd source s
  | .sessionTimeout sess => Sys2Proof.Machine.execSessionTimeout sess s
  | .sessionClose sess v => Sys2Proof.Machine.execSessionClose sess v s
  | .datagram tr ip data => Sys2Proof.Machine.execDatagram tr ip data s
  | .transferTimeout sess => Sys2Proof.Machine.execTransferTimeout sess s
  | .store sess v => Sys2Proof.Machine.execStore sess v s
  | .storeComplete => Sys2Proof.Machine.execStoreComplete s
  | .restoreDefaults sess v => Sys2Proof.Machine.execRestoreDefaults sess v s
  | .persistentWrite layer key v okA okB okC => Sys2Proof.Machine.execPersistentWrite layer key v okA okB okC s
  | .layerBuild => Sys2Proof.Machine.execLayerBuild s
  | .persistSnapshot sess v => Sys2Proof.Machine.execPersistSnapshot sess v s
  | .confirmCommand sess v => Sys2Proof.Machine.execConfirmCommand sess v s
  | .eolFuse sess v => Sys2Proof.Machine.execEolFuse sess v s
  | .abortTransfer sess target => Sys2Proof.Machine.execAbortTransfer sess target s
  | .abortFunction sess f => Sys2Proof.Machine.execAbortFunction sess f s
  | .abortAllFunctions sess => Sys2Proof.Machine.execAbortAllFunctions sess s
  | .abortPassageReset sess => Sys2Proof.Machine.execAbortPassageReset sess s
  | .abortUpdate sess => Sys2Proof.Machine.execAbortUpdate sess s
  | .objectWrite sess index sub data => Sys2Proof.Machine.execObjectWrite sess index sub data s
  | .flowstoneRecord ev => Sys2Proof.Machine.execFlowstoneRecord ev s
  | .suppressionSummary => Sys2Proof.Machine.execSuppressionSummary s
  | .flush => Sys2Proof.Machine.execFlush s
  | .flushComplete => Sys2Proof.Machine.execFlushComplete s
  | .flushFailed error => Sys2Proof.Machine.execFlushFailed error s
  | .tornGroupDiscard count => Sys2Proof.Machine.execTornGroupDiscard count s
  | .readWindow sess => Sys2Proof.Machine.execReadWindow sess s
  | .clearHide sess => Sys2Proof.Machine.execClearHide sess s
  | .clearFot sess => Sys2Proof.Machine.execClearFot sess s
  | .clearCounters sess => Sys2Proof.Machine.execClearCounters sess s
  | .eraseRing sess => Sys2Proof.Machine.execEraseRing sess s
  | .fotLookup sess code => Sys2Proof.Machine.execFotLookup sess code s
  | .verticalBlanking x => Sys2Proof.Machine.execVerticalBlanking x s
  | .linePacket n pixels => Sys2Proof.Machine.execLinePacket n pixels s
  | .linkTraining locked => Sys2Proof.Machine.execLinkTraining locked s
  | .locknLow => Sys2Proof.Machine.execLocknLow s
  | .panelPowerUp => Sys2Proof.Machine.execPanelPowerUp s
  | .panelPowerDown => Sys2Proof.Machine.execPanelPowerDown s
  | .fastPowerDown => Sys2Proof.Machine.execFastPowerDown s
  | .vpnlFault => Sys2Proof.Machine.execVpnlFault s
  | .panelRetry => Sys2Proof.Machine.execPanelRetry s
  | .panelCommand sess v => Sys2Proof.Machine.execPanelCommand sess v s
  | .panelEnableWrite sess v => Sys2Proof.Machine.execPanelEnableWrite sess v s
  | .vcomFault set => Sys2Proof.Machine.execVcomFault set s
  | .vtSwapRequest => Sys2Proof.Machine.execVtSwapRequest s
  | .brownoutOpen mV => Sys2Proof.Machine.execBrownoutOpen mV s
  | .brownoutClose minMv duration => Sys2Proof.Machine.execBrownoutClose minMv duration s
  | .resetLevelHoldup mV => Sys2Proof.Machine.execResetLevelHoldup mV s
  | .resetLevelNoHoldup => Sys2Proof.Machine.execResetLevelNoHoldup s
  | .holdupArmed energy enough => Sys2Proof.Machine.execHoldupArmed energy enough s
  | .holdupRestartWaitEnd => Sys2Proof.Machine.execHoldupRestartWaitEnd s
  | .batteryOvervoltage above => Sys2Proof.Machine.execBatteryOvervoltage above s
  | .systemVoltageDetect meanMv => Sys2Proof.Machine.execSystemVoltageDetect meanMv s
  | .belayPowerLoss => Sys2Proof.Machine.execBelayPowerLoss s
  | .thermalThrottle on => Sys2Proof.Machine.execThermalThrottle on s
  | .thermalCritical => Sys2Proof.Machine.execThermalCritical s
  | .updateOffer src rec => Sys2Proof.Machine.execUpdateOffer src rec s
  | .updateBlock src offset data => Sys2Proof.Machine.execUpdateBlock src offset data s
  | .fleetUpdateMessage stamp entries => Sys2Proof.Machine.execFleetUpdateMessage stamp entries s
  | .updateCommit src => Sys2Proof.Machine.execUpdateCommit src s
  | .updateAbort src => Sys2Proof.Machine.execUpdateAbort src s
  | .withdrawStaged src region => Sys2Proof.Machine.execWithdrawStaged src region s
  | .confirmRegion src region => Sys2Proof.Machine.execConfirmRegion src region s
  | .fallBack src region => Sys2Proof.Machine.execFallBack src region s
  | .leaveLadder sess => Sys2Proof.Machine.execLeaveLadder sess s
  | .galHandover accepted converted => Sys2Proof.Machine.execGalHandover accepted converted s
  | .mdpLiveApply => Sys2Proof.Machine.execMdpLiveApply s
  | .lanHandover => Sys2Proof.Machine.execLanHandover s
  | .imageStaged => Sys2Proof.Machine.execImageStaged s
  | .stagedCopy region verified selfTest converted => Sys2Proof.Machine.execStagedCopy region verified selfTest converted s
  | .orphanHoldExpiry => Sys2Proof.Machine.execOrphanHoldExpiry s
  | .probationEnd region => Sys2Proof.Machine.execProbationEnd region s
  | .engineRestartFallBack region => Sys2Proof.Machine.execEngineRestartFallBack region s
  | .ladderImageWrite sess hdr sig body => Sys2Proof.Machine.execLadderImageWrite sess hdr sig body s
  | .ignKeysvcFall ign keysvc => Sys2Proof.Machine.execIgnKeysvcFall ign keysvc s
  | .announceReceive port better accuracy => Sys2Proof.Machine.execAnnounceReceive port better accuracy s
  | .nextParcelNorWrite => Sys2Proof.Machine.execNextParcelNorWrite s
  | .usbVbusChange present => Sys2Proof.Machine.execUsbVbusChange present s
  | .sessionLinkDownExpiry p => Sys2Proof.Machine.execSessionLinkDownExpiry p s

end Sys2Proof.Machine
end

