-- ==== Sys2Proof/WellFormed.lean ====
section
/-! DEFINITION. Which commands are well formed: those whose operands name a session, channel, bank, pin or other unit that the
module has, and values that the event can carry. An ill-formed command cannot be sent, and exec refuses it by name. -/

namespace Sys2Proof

/-- One of the 16 sessions (15 R339). -/
def sessionOk (n : Nat) : Bool := decide (n < 16)

/-- The sender of an update command (19 R420). -/
def UpSource.ok : UpSource → Bool
  | .session n => sessionOk n
  | .fleet _ => true

/-- Who opens or closes a field (09 R213). -/
def byOk : MapBy → Bool
  | .session n => sessionOk n
  | .task _ => true

/-- A valve channel, an SV channel, a PV channel: PV1–PV16 are 0–15 and SV1–SV16 are 16–31 (chapter 10). -/
def chanUnit (n : Nat) : Bool := decide (n < 32)
def svUnit (n : Nat) : Bool := decide (16 ≤ n) && decide (n < 32)
def pvUnit (n : Nat) : Bool := decide (n < 16)

/-- The five acquisition signals (12 R276). -/
def acquisitionSignal (sig : Nat) : Bool := sig == 0 || sig == 4 || sig == 7 || sig == 10 || sig == 12

/-- Regions whose images are staged, and regions replaced live (19 R422). -/
def staged (c : Nat) : Bool := c == 5 || c == 6 || c == 7 || c == 8
def live (c : Nat) : Bool := c == 1 || c == 2 || c == 3

/-- Objects of the network and time chapters, and of the valve chapter. -/
def netObject (i : Nat) : Bool :=
  i == 0x5200 || (decide (0x5600 ≤ i) && decide (i < 0x5604)) || (decide (0x5610 ≤ i) && decide (i < 0x5613))
def valveObject (i : Nat) : Bool := (decide (0x4000 ≤ i) && decide (i ≤ 0x404A)) || (decide (0x48A0 ≤ i) && decide (i ≤ 0x48AF))

/-- A well-formed command. -/
def Instr.wf : Instr → Bool
  | .canWake u _ | .driveSupplyNotPresent u _ _ | .driveSupplyPresent u | .antennaFeedFault u _ | .antennaFeedRetry u _ => decide (u < 2)
  | .deviceStateRequestRun s | .deviceStateRequestService s | .deviceStateRequestShutdown s | .eventRecord s _
    | .eventCancel s _ | .snapshot s _ | .sliceLengthWrite s _ _ | .calStart s | .calStop s | .calAccept s | .calDiscard s
    | .leadEnable s _ | .leadSnapshot s _ | .lsTestNow s _ | .traceArm s | .traceForceTrigger s | .traceDisarm s
    | .traceRelease s | .readBlock s | .optConfigWrite s _ _ | .steerDisengageCommand s | .turnNow s | .turnCancel s
    | .lineSetA s | .lineSetB s | .curveRecordStart s | .curveRecordEnd s | .loadStart s | .loadEmpty s
    | .weighedMassWrite s _ | .loadAccept s | .loadDiscard s | .skyColdStart s | .skyDropAmbiguities s | .acceptRefusedStep s
    | .discardRefusedStep s | .frameSend s _ | .frameCancel s _ | .refResume s _ | .roleRequest s _ | .challenge s _
    | .response s _ | .sessionTimeout s | .sessionClose s _ | .transferTimeout s | .store s _ | .restoreDefaults s _
    | .persistSnapshot s _ | .confirmCommand s _ | .eolFuse s _ | .abortTransfer s _ | .abortFunction s _
    | .abortAllFunctions s | .abortPassageReset s | .abortUpdate s | .objectWrite s _ _ _ | .readWindow s | .clearHide s
    | .clearFot s | .clearCounters s | .eraseRing s | .fotLookup s _ | .panelCommand s _ | .panelEnableWrite s _
    | .leaveLadder s | .ladderImageWrite s _ _ _ => sessionOk s
  | .stationStopTimeout u => decide (u < 10)
  | .stationConfigWrite s u _ _ | .kernelWrite s u _ _ => sessionOk s && decide (u < 10)
  | .calProposalReady _ _ u _ => u.length == 16
  | .transitTrim u => u.all fun t => t.1 == 3 || t.1 == 4 || t.1 == 6
  | .leadSlotWrite s u _ _ | .suggestionAccept s u | .suggestionReject s u | .optSlotWrite s u _ _ | .leaveBusOff s u
    | .canChannelConfigWrite s u _ _ => sessionOk s && decide (u < 8)
  | .sensorSupplyFoldback u | .sensorSupplyRetry u _ | .ptpSyncReceive u _ _ | .ptpSyncDepart u | .pdelayExchange u _
    | .ethLinkChange u _ | .announceReceive u _ _ | .sessionLinkDownExpiry u => decide (u < 3)
  | .pulseWindowClose u _ _ | .lsChannelTest u _ _ | .lsNoisyExpiry u _ | .sentFrame u _ | .sentTimeout u => decide (u < 16)
  | .lossChannelWrite s u _ _ => sessionOk s && decide (u < 16)
  | .aiRangeFault u _ | .aiRangeHoldExpiry u | .shuntOpen u | .shuntRetest u _ => decide (u < 24)
  | .aiConfigWrite s u _ _ => sessionOk s && decide (u < 24)
  | .shaftEdge u _ _ _ | .indexEdge u _ | .shaftZeroTimeout u | .shaftFaultClearExpiry u => decide (u < 12)
  | .contextEnable s u | .contextDisable s u | .swapRequest s u _ | .repClear s u | .repHold s u | .repResume s u
    | .repSave s u | .compTableWrite s u _ _ => sessionOk s && decide (u < 128)
  | .coefSetWrite s n set _ => sessionOk s && decide (n < 128) && decide (set < 2)
  | .functionModeManual s u | .functionModeAuto s u | .functionModeHold s u | .committedSetpointWrite s u _
    | .setpointLimitsWrite s u _ _ | .setpointSourceWrite s u _ _ | .manualCommandWrite s u _ | .functionCommand s u _
    | .outputCommandWrite s u _ | .fieldFaultCommand s u _ | .pinModeWrite s u _ => sessionOk s && decide (u < 48)
  | .repMemoryLoad u => decide (u < 128)
  | .suggestionExpiry u | .operatorHoldExpiry u | .canFrameTransmit u _ _ _ | .canFrameReceive u _ _ | .busOff u
    | .busOffRecovery u | .txdTimeout u | .protocolException u => decide (u < 8)
  | .nearestPass s v => sessionOk s && decide (v = 5)
  | .steerEngage o => match o with | none => true | some s => sessionOk s
  | .steerDisengage reason => decide (1 ≤ reason) && decide (reason ≤ 0xF)
  | .edgeFrame ch _ _ _ => decide (1 ≤ ch) && decide (ch ≤ 8)
  | .mapOpen b | .mapClose b => byOk b
  | .bankEnable u _ | .bankResumeSlot u | .highSideTrip u | .valveGuardExpiry u | .valveGuardEnd u => decide (u < 6)
  | .svBoostEnd u _ | .boostTimeout u _ | .svPeakEnd u | .svPulseHoldExpiry u | .svQuenchEnd u | .boostRejected u _
    | .svThermalLimit u | .overlapCheck u _ | .moveDetect u _ => svUnit u
  | .svBoostGranted b _ => decide (2 ≤ b) && decide (b < 6)
  | .coilTempUpdate u _ _ | .valveOvercurrent u | .valveTripRetry u | .uncommandedCurrent u | .offStateTest u _
    | .openLoadDriven u _ | .shortedCoil u | .valveOvertempStage u _ | .testCommandTimeout u => chanUnit u
  | .stuck u _ _ => pvUnit u
  | .valveFaultCommand s u _ | .testCommand s u _ => sessionOk s && decide (u < 32)
  | .bankCommand s u _ => sessionOk s && decide (u < 6)
  | .valveConfigWrite s u _ _ => sessionOk s && valveObject u
  | .fieldInputChange u _ _ | .fieldOvercurrent u | .fieldOvertempStage u _ | .noLoadCurrent u _ | .externalDrive u _ => decide (u < 48)
  | .groupEnable u _ | .groupSupplyLow u _ _ | .groupSupplyMissing u _ _ | .groupRestoreStart u | .groupRestoreSlot u
    | .groupOverload u | .fieldGuardExpiry u | .fieldGuardEnd u | .addressClaim u _ | .addressReclaim u _ => decide (u < 4)
  | .pinsJoined m n _ => decide (m < 48) && decide (n < 48) && decide (m ≠ n)
  | .groupCommand s u _ => sessionOk s && decide (u < 4)
  | .searchBlock _ u _ => acquisitionSignal u
  | .detectionVerify u _ | .cycleSlip u => decide (u < 384)
  | .ppsEdge second qerr => second % 1000000000 == 0 && decide (-2000 ≤ qerr) && decide (qerr ≤ 2000)
  | .netConfigWrite s u _ _ => sessionOk s && netObject u
  | .resumeObject s c obj => sessionOk s && decide (c < 8) && decide (obj < 64)
  | .datagram u _ _ => decide (u ≠ .c8)
  | .persistentWrite layer _ _ _ _ _ => decide (1 ≤ layer) && decide (layer ≤ 3)
  | .updateOffer src _ | .updateBlock src _ _ | .updateCommit src | .updateAbort src | .withdrawStaged src _
    | .confirmRegion src _ | .fallBack src _ => src.ok
  | .stagedCopy u _ _ _ => staged u
  | .probationEnd region => decide (1 ≤ region) && decide (region ≤ 8)
  | .engineRestartFallBack u => live u
  | .loopFrame _ | .applicationFrame _ | .ignWake | .keysvcWake | .keysvcHoldExpiry | .alarmWake | .alarmPassedAwake
    | .startAllowedWaitEnd | .startToRun | .startToLadder _ _ | .ignOffDelayExpiry | .ladderIgnOffExpiry | .shutdownComplete
    | .shutdownLimitExpiry | .parkDwellExpiry | .operatorTakeover _ | .eccCorrected _ | .eccUncorrectable _ _ _
    | .headerEntersWork | .headerLeavesWork | .groundSourceLossExpiry | .passageReset _ | .leadSuspendEnd | .leadCountRecord
    | .tareLearn | .imuSample _ _ _ _ _ _ _ _ _ | .imuSelfTest _ | .lpeHandover _ | .blockJudged | .damageDatagram _ _
    | .damageStaleExpiry | .seatLowExpiry | .wheelAngleDisagree | .runawayExpiry | .steerOverspeedExpiry | .steerReverseTravel
    | .takeoverRefusalEnd | .coastExhausted | .turnComplete | .edgeTimeout | .unloadMessage | .loadEmptied | .priorTile _
    | .fleetConnect | .fleetReconnectExpiry _ | .fleetLinkLost _ | .posePublish | .parcelBatchPublish | .tilePublish _ _
    | .statePublish _ | .docPublish _ | .fleetMessageReceive _ _ | .railFault | .railFaultClear | .pvRegulationPeriod _
    | .aidingSet _ _ _ _ _ _ | .channelAllocation _ | .epochSolution _ | .rtcmFrame _ _ | .firstFixTimeSet _ | .slewEnd
    | .timeStep | .timeMessage | .skylightStop | .rtcWrite | .announceTimeout | .referenceMessage _ _ | .sessionOpen _ _
    | .roleLockoutEnd _ | .storeComplete | .layerBuild | .flowstoneRecord _ | .suppressionSummary | .flush | .flushComplete
    | .flushFailed _ | .tornGroupDiscard _ | .verticalBlanking _ | .linePacket _ _ | .linkTraining _ | .locknLow
    | .panelPowerUp | .panelPowerDown | .fastPowerDown | .vpnlFault | .panelRetry | .vcomFault _ | .vtSwapRequest
    | .brownoutOpen _ | .brownoutClose _ _ | .resetLevelHoldup _ | .resetLevelNoHoldup | .holdupArmed _ _
    | .holdupRestartWaitEnd | .batteryOvervoltage _ | .systemVoltageDetect _ | .belayPowerLoss | .thermalThrottle _
    | .thermalCritical | .fleetUpdateMessage _ _ | .galHandover _ _ | .mdpLiveApply | .lanHandover | .imageStaged
    | .orphanHoldExpiry | .ignKeysvcFall _ _ | .nextParcelNorWrite | .usbVbusChange _ => true

end Sys2Proof
end

