-- ==== Sys2Proof/Safety.lean ====
section
/-! DEFINITION. What counts as a safe run, in the terms the statements use: the invariant of a state, what no command may undo, and
the run of a number of steps. -/

namespace Sys2Proof.Machine

/-- No bank of valve channels, no group of field outputs and no steering enable is granted. -/
def State.noEnable (s : State) : Bool :=
  (List.range 6).all (fun b => !(s.vbank b).enable) && ((List.range 4).all (fun g => !(s.fgrp g).enable) && !s.steer.enable)

/-- The device states in which an enable may stand: Run, Service, and Shutdown until it ends (01 R24, 18 R402). -/
def Dev.drives : Dev → Bool
  | .run | .service | .shutdown => true
  | .dormant | .park | .start | .ladder => false

/-- The invariant of the machine's state:
- the dictionary is in its canonical form;
- the first-occurrence table has at most 1,024 entries (16 R368);
- PowerHistory has at most 16 entries (18 R415);
- there are 16 sessions (15 R339);
- no RollbackFuse stands beyond 63 (19 R428);
- outside Run, Service and Shutdown, or while IGN is low, no enable is granted (01 R24);
- steering is engaged in Run alone (08 R208). -/
structure State.Inv (s : State) : Prop where
  dict : dictWf s.dict = true
  fot : s.flow.fot.length ≤ 1024
  history : s.belay.history.length ≤ 16
  sessions : s.serv.sess.length = 16
  fuses : ∀ c, (s.region c).fuse ≤ 63
  enables : (s.pw.dev.drives && s.pw.ign) = true ∨ s.noEnable = true
  engaged : s.steer.engaged = true → s.pw.dev = .run

/-- An outcome that is a next state. -/
def Answers (o : Out) : Prop := ∃ t, o = .next t

/-- The state after n steps, if each answers a next state. -/
def steps : Nat → State → Option State
  | 0, s => some s
  | n + 1, s =>
    match step s with
    | .next t => steps n t
    | _ => none

/-- A safe run: as long as the queue holds well-formed commands, every step answers a next state that satisfies the invariant. -/
def SafeRun (s : State) : Prop := ∀ n, ∃ t, steps n s = some t ∧ t.Inv

/-! ## What the statements say of one command -/

/-- The parts of a state. -/
inductive Part where
  | tm | pw | belay | flow | serv | per | net | sky | skyio | sens | pas | pctl | lead | dict | steer | opt | yield | fleet | loop | trace
  | fio | valve | can | lan | upd | free | pending
  deriving DecidableEq, Repr

/-- A part stands in t as in s. -/
def Part.same (p : Part) (s t : State) : Prop :=
  match p with
  | .tm => t.tm = s.tm | .pw => t.pw = s.pw | .belay => t.belay = s.belay | .flow => t.flow = s.flow | .serv => t.serv = s.serv
  | .per => t.per = s.per | .net => t.net = s.net | .sky => t.sky = s.sky | .skyio => t.skyio = s.skyio | .sens => t.sens = s.sens
  | .pas => t.pas = s.pas | .pctl => t.pctl = s.pctl | .lead => t.lead = s.lead | .dict => t.dict = s.dict | .steer => t.steer = s.steer
  | .opt => t.opt = s.opt | .yield => t.yield = s.yield | .fleet => t.fleet = s.fleet | .loop => t.loop = s.loop
  | .trace => t.trace = s.trace | .fio => t.fio = s.fio | .valve => t.valve = s.valve | .can => t.can = s.can | .lan => t.lan = s.lan
  | .upd => t.upd = s.upd | .free => t.free = s.free | .pending => t.pending = s.pending

/-- t differs from s in the named parts at most: the frame of a command. -/
def Only (ps : List Part) (s t : State) : Prop := ∀ p, p ∈ ps ∨ p.same s t

/-- Carried out on s, command c answers a next state that satisfies P and differs from s in the named parts at most. -/
def Runs (c : Instr) (s : State) (ps : List Part) (P : State → Prop) : Prop := ∃ t, exec c s = .next t ∧ Only ps s t ∧ P t

/-- Session n is open and can reach object i (15 R339, 01 R28). -/
def State.serves (s : State) (n i : Nat) : Prop := n < 16 ∧ (s.sessOf n).opened = true ∧ s.reaches i = true

/-- Session n is served, and a write of v to sub-index sub of object i passes the common checks: the object exists and can be written,
the session's role has the right, and the value has the type's length and lies in range (15 R334–R338). -/
def State.admits (s : State) (n i sub : Nat) (v : Val) : Prop := s.serves n i ∧ preCheck (s.ctxOf n) i sub v = 0

/-- The write is answered as carried out, or with an abort code (15 R336). -/
def State.ack (s : State) (n : Nat) : State := s.updSess n fun x => { x with answer := 0 }
def State.deny (s : State) (n a : Nat) : State := s.updSess n fun x => { x with answer := a }

/-- Carried out on s, command c of session n is answered as carried out: beside the session's answer and the time of its last request, the
next state satisfies P and differs from s in the named parts at most. -/
def Written (c : Instr) (s : State) (n : Nat) (ps : List Part) (P : State → Prop) : Prop :=
  ∃ t, exec c s = .next (t.ack n) ∧ Only ps (s.touch n) t ∧ P t

/-- Flowstone stands in t as after one record of ev made in s, stamped with the time source of that moment (16 R361). -/
def Recorded (ev : FlowEv) (s t : State) : Prop := ∃ src, t.flow = ((s.updTm fun x => { x with source := src }).record ev).flow

/-- Steering, engaged in s, stands disengaged in t with a reason of Table 08-3: the enable is withdrawn, mode, goal, integrators, coasting and
an armed or begun turn end, the steering function is in Manual with ManualCommand 0, and Flowstone holds the record (08 R196). -/
def Disengaged (reason engine : Nat) (s t : State) : Prop :=
  t.steer.engaged = false ∧ t.steer.enable = false ∧ t.steer.mode = 0 ∧ t.steer.goal = 0 ∧ t.steer.reason = reason ∧
  t.steer.coast = none ∧ t.steer.integ = [0, 0, 0] ∧ t.steer.guide.turn ≠ 1 ∧ t.steer.guide.turn ≠ 2 ∧
  (s.steerFn < s.loop.fn.length → (t.fnOf s.steerFn).mode = 1 ∧ (t.fnOf s.steerFn).manual = 0) ∧
  Recorded (disengageRecord s reason engine) s t

/-- Start has been entered from s for a cause of 18 R451, woken by a source: no session and no package value stands, no latched wake, the
dictionary is down to what the retention memory keeps, the parcel ring is empty, the bank charges, and PowerHistory has the entry, which a
reset without hold-up has made already (01 R29, 18 R403, R405, R407). -/
def Started (cause src : Nat) (s t : State) : Prop :=
  t.pw.dev = .start ∧ t.pw.wakeSource = src ∧ t.pw.wake = none ∧ t.pw.keyHold = false ∧ t.serv.sess = List.replicate 16 {} ∧
  t.dict = retained s.dict ∧ t.per.built = false ∧ t.per.targets = s.per.targets ∧ t.belay.holdup = .charging ∧ t.pas.ring = [] ∧
  (s.belay.resetWait = false → ∃ tai, t.belay.history = (⟨tai, 3, cause⟩ :: s.belay.history).take 16)

/-- Ladder has been entered with a LadderReason: no session stands, no output is granted, and C8 alone runs (19 R429). -/
def Laddered (cause reason : Nat) (s t : State) : Prop :=
  t.pw.dev = .ladder ∧ t.upd.ladderReason = reason ∧ t.serv.sess = List.replicate 16 {} ∧ t.pw.wake = none ∧ t.noEnable = true ∧
  t.belay.holdup = .off ∧ (t.cch 7).state = 2 ∧ (∀ c, c < 7 → (t.cch c).state = 0) ∧
  (s.belay.resetWait = false → ∃ tai, t.belay.history = (⟨tai, 6, cause⟩ :: s.belay.history).take 16)

/-- Shutdown has been entered for a cause: nothing waits in the event queue, steering is off, the rings of Leads are empty, and an uncommitted
update is gone (01 R29, 18 R402). -/
def ShutDown (cause : Nat) (s t : State) : Prop :=
  t.pw = { s.pw with dev := .shutdown, reqSess := none } ∧ t.belay.shutdownAt = s.tm.now ∧
  t.belay.history = (⟨s.tm.now / 1000000000, 7, cause⟩ :: s.belay.history).take 16 ∧ t.pctl.events = [] ∧ t.steer.engaged = false ∧
  t.lead.ring = [] ∧ t.upd.offers = [] ∧ (s.upd.committed = false → t.upd.cur = none)

/-- Park or Dormant, as ParkDwell says, has been entered at the end of a Shutdown that began in s: no output and no session stands, the channels
and the fleet link are down, nothing waits to be stored, the trace is gone, and clock and parcel number are saved; after a Shutdown on
hold-up the restart waits (18 R404, R405, R409, R411). -/
def Rested (s t : State) : Prop :=
  t.pw.dev = (if s.nat 0x2000 4 ≠ 0 then .park else .dormant) ∧ t.noEnable = true ∧ t.belay.holdup = .off ∧ t.belay.rtcValid = true ∧
  t.belay.norTime = s.tm.now ∧ t.belay.restartWait = s.belay.onHoldup ∧ t.pas.nextParcelNor = s.pas.nextParcel ∧ t.per.store = none ∧
  t.trace = {} ∧ t.fleet.link = 0 ∧ (∀ m, m < 16 → (t.sessOf m).opened = false) ∧
  (s.can.ch.length = 8 → ∀ c, c < 8 → (t.cch c).state = 0 ∨ (t.cch c).state = 5) ∧
  t.belay.history = (⟨s.tm.now / 1000000000, devCode t.pw.dev, 0xB⟩ :: s.belay.history).take 16

/-- The datagram b is a request with the fields of q for a session that it may speak for: the session is open on this interface to this address,
and where it holds a role its tag is right (15 R343, R344). -/
def State.asks (s : State) (tr : Transport) (ip : Nat) (b : Bytes) (q : Request) : Prop :=
  tr ≠ .c8 ∧ s.reachable = true ∧ transportServes s tr = true ∧ requestOf b = some q ∧ q.opcode ≠ 1 ∧ q.session < 16 ∧
  (s.sessOf q.session).opened = true ∧ (s.sessOf q.session).transport = tr ∧ (s.sessOf q.session).source = ip ∧
  ((s.sessOf q.session).role = 0 ∨ (q.flags.testBit 2 = true ∧
    (hmac256 (hmac256 (s.sessOf q.session).key (s.sessOf q.session).response) (b.take (24 + q.data.length))).take 16 = q.tag))

/-- The SEQ of q lies 1 to 1,024 ahead of the last accepted one of its session, or is its first (15 R344). -/
def State.seqNew (s : State) (q : Request) : Prop :=
  (s.sessOf q.session).lastSeq = none ∨ ∃ l k, (s.sessOf q.session).lastSeq = some l ∧ l < 65536 ∧ 1 ≤ k ∧ k ≤ 1024 ∧ q.seq = (l + k) % 65536

/-- The datagram that t answers with is the response to q for session n, with a status and data (15 Table 15-6). -/
def Replied (q : Request) (n status : Nat) (data : Bytes) (t : State) : Prop :=
  fieldLe t.serv.reply 0 2 = 0x444C ∧ fieldLe t.serv.reply 2 1 = 1 ∧ fieldLe t.serv.reply 3 1 = q.opcode ∧ fieldLe t.serv.reply 4 1 = n ∧
  fieldLe t.serv.reply 6 2 = q.seq ∧ fieldLe t.serv.reply 8 2 = q.index ∧ fieldLe t.serv.reply 10 1 = q.sub ∧
  fieldLe t.serv.reply 12 4 = q.offset ∧ fieldLe t.serv.reply 16 2 = data.length ∧ fieldLe t.serv.reply 20 4 = status ∧
  (t.serv.reply.drop 24).take data.length = data

end Sys2Proof.Machine
end

