-- ==== Sys2Proof/Certificates/Slice0/Obligations.lean ====
section
/-! DEFINITION. The statements about the model, for the provers: what every step keeps, and what the commands of each chapter do. Where a
clause names a next state whole, it is also the frame of the command; where it names parts, the parts not listed stand as before. -/

open Sys2Proof Sys2Proof.Machine

/-! ## Every command and every step -/

/-- A step carries out the command at the front of the queue on the state whose queue is the rest. -/
def Obligations.StepRunsTheFront : Prop :=
  ∀ s c rest, s.pending = c :: rest → step s = exec c { s with pending := rest }

/-- A step on an empty queue leaves the state as it is: the module idles (the model's choice, log 1). -/
def Obligations.StepIdles : Prop := ∀ s, s.pending = [] → step s = .next s

/-- Which commands the model answers (its own choice, log 9): a well-formed command answers a next state in every state; one whose
operands name a unit that the module does not have is refused by name. -/
def Obligations.WellFormedAnswers : Prop :=
  ∀ c s, (c.wf = true → Answers (exec c s)) ∧ (c.wf = false → exec c s = .refused .noSuchUnit)

/-- No command touches the queue: the commands are carried out in the order in which they were sent (logs 1 and 2). -/
def Obligations.QueueIsTheSenders : Prop := ∀ c s t, exec c s = .next t → t.pending = s.pending

/-- A free value is never used again by a later one: its counter does not fall (log 6). -/
def Obligations.FreeValuesAreFresh : Prop := ∀ c s t, exec c s = .next t → s.free ≤ t.free

/-- 15 R348: once blown, the end-of-line fuse stays blown, whatever is commanded. -/
def Obligations.EolFuseStays : Prop := ∀ c s t, exec c s = .next t → s.per.fuse = true → t.per.fuse = true

/-- 19 R428: whatever is commanded, no RollbackFuse falls, and none that stands at most at 63 rises beyond it. -/
def Obligations.RollbackFuseOnlyRises : Prop :=
  ∀ c s t, s.Inv → exec c s = .next t → ∀ r, (s.region r).fuse ≤ (t.region r).fuse ∧ (t.region r).fuse ≤ 63

/-- The state after reset satisfies the invariant `State.Inv`. -/
def Obligations.ResetInv : Prop := State.reset.Inv

/-- Every step from any state that satisfies the invariant `State.Inv` leads to one that satisfies it: the dictionary stays in canonical
form, the first-occurrence table within 1,024 entries (16 R368), PowerHistory within 16 (18 R415), the sessions are 16 (15 R339), no
RollbackFuse passes 63 (19 R428), no enable stands outside Run, Service and Shutdown or while IGN is low (01 R24), and steering is
engaged in Run alone (08 R208). -/
def Obligations.StepKeepsInv : Prop := ∀ s t, s.Inv → step s = .next t → t.Inv

/-- From any state that satisfies the invariant, with well-formed commands waiting, any number of steps can be taken, and every state on
the way satisfies the invariant: no data, mode or order of commands stops the module. -/
def Obligations.RunsAreSafe : Prop := ∀ s, s.Inv → (∀ c ∈ s.pending, c.wf = true) → SafeRun s

/-- While the device is outside Run, Service and Shutdown, or IGN is low, no step leaves a bank, a group or the steering enabled unless it
also leads into a state that allows it with IGN high (01 R24, 18 R402). -/
def Obligations.EnablesNeedTheDevice : Prop :=
  ∀ s t, s.Inv → step s = .next t → (t.pw.dev.drives && t.pw.ign) = false →
    (∀ b, b < 6 → (t.vbank b).enable = false) ∧ (∀ g, g < 4 → (t.fgrp g).enable = false) ∧ t.steer.enable = false

/-- 15 R334: a dictionary in canonical form stays so after a write; the object written reads as written and every other one as before. -/
def Obligations.DictionaryWrites : Prop :=
  ∀ (s : State) i sub (v : Val), dictWf s.dict = true → sub < 256 →
    dictWf (s.put i sub v).dict = true ∧ (s.put i sub v).val i sub = v ∧
    ∀ j t, t < 256 → (j ≠ i ∨ t ≠ sub) → (s.put i sub v).val j t = s.val j t

/-! ## Skylight, machine time and Ethernet (chapters 12 and 13) -/

/-- 12 R274, R276–R278, R281, R282: what the supervision of the antenna feeds, a search block, a verification, a slip and an allocation do.
Every clause names the whole next state. -/
def Obligations.SkylightTracking : Prop :=
  (∀ s a, a < 2 → s.skyRuns = true → (s.nat 0x5000 4).testBit a = true →
    exec (.antennaFeedFault a false) s = .next (s.updSky fun k => { k with flags := setBit k.flags (1 + 2 * a) true }) ∧
    exec (.antennaFeedFault a true) s =
      .next ((s.updSky fun k => { k with flags := setBit k.flags (2 + 2 * a) true }).updSkyio fun o =>
        { o with foldedAnt := a :: o.foldedAnt.filter (· ≠ a) })) ∧
  (∀ s a, a < 2 → s.skyio.foldedAnt.contains a = true →
    exec (.antennaFeedRetry a true) s =
      .next ((s.updSky fun k => { k with flags := setBit k.flags (2 + 2 * a) false }).updSkyio fun o =>
        { o with foldedAnt := o.foldedAnt.filter (· ≠ a) })) ∧
  (∀ s sv sig peak ch, acquisition sig = true → s.skyRuns = true → (s.nat 0x5000 1).testBit sig = true →
    freeChannel s.sky.channels = some ch → 140 ≤ peak →
    exec (.searchBlock sv sig peak) s = .next (s.updSky fun k =>
      { k with channels := k.channels.modify ch fun _ => { svid := sv, signal := sig, state := 1 }
               search := k.search.filter fun e => !(e.1 == sv && e.2.1 == sig)
               notFound := k.notFound.filter (· ≠ (sv, sig)), skips := k.skips.filter (· ≠ (sv, sig)) })) ∧
  (∀ s sv sig peak ch, acquisition sig = true → s.skyRuns = true → (s.nat 0x5000 1).testBit sig = true →
    freeChannel s.sky.channels = some ch → peak < 140 →
    windowBlocks s.sky sig ≤ blocksDone s.sky.search sv sig + 1 →
    exec (.searchBlock sv sig peak) s = .next (s.updSky fun k =>
      { k with search := k.search.filter fun e => !(e.1 == sv && e.2.1 == sig)
               notFound := (sv, sig) :: k.notFound.filter (· ≠ (sv, sig)) })) ∧
  (∀ s ch, ch < 384 → (s.sky.channels.getD ch {}).state = 1 →
    exec (.detectionVerify ch true) s = .next (s.updSky fun k =>
      { k with channels := k.channels.modify ch fun c => { c with state := 3 }, state := if k.state = 1 then 2 else k.state }) ∧
    exec (.detectionVerify ch false) s = .next (s.updSky fun k =>
      { k with channels := k.channels.modify ch fun _ => {}
               skips := ((k.channels.getD ch {}).svid, (k.channels.getD ch {}).signal) :: k.skips })) ∧
  (∀ s ch, ch < 384 → (s.sky.channels.getD ch {}).state = 4 →
    Runs (.cycleSlip ch) s [.sky] fun t =>
      (t.sky.channels.getD ch {}).slipped = true ∧ (t.sky.channels.getD ch {}).state = 3 ∧
        ∀ m, m ≠ ch → t.sky.channels[m]? = s.sky.channels[m]?) ∧
  (∀ s view, s.skyRuns = true →
    Runs (.channelAllocation view) s [.sky] fun t => t.sky.channels.length = s.sky.channels.length ∧
      ∀ m, (s.sky.channels.getD m {}).state ≠ 0 → qualifies s view (measure s view (s.sky.channels.getD m {})) = true →
        (t.sky.channels.getD m {}).svid = (s.sky.channels.getD m {}).svid ∧
        (t.sky.channels.getD m {}).signal = (s.sky.channels.getD m {}).signal)

/-- 12 R283–R287, R291–R294: an epoch without a valid solution clears VALID and takes locked time into holdover with a record of code 0x9001
(0x9001 is severity 1 of 16 Table 16-3); a valid one delivers the pose with the epoch as its stamp, the phase centre
moved down by Ant1PcoUp and the azimuth less AntBaselineAz; the first fix sets machine time by
a step and locks; a finished slew returns to locked; entry to Shutdown stops tracking without a record and saves what R277 names. -/
def Obligations.SkylightEpochs : Prop :=
  (∀ s x, s.skyRuns = true → x.epoch % 50000000 = 0 → x.valid = false ∨ 4 < x.excluded.length →
    Runs (.epochSolution x) s [.sky, .tm, .flow, .upd] fun t => t.sky.flags.testBit 0 = false ∧ t.sky.flags.testBit 5 = false ∧
      t.sky.validRun = 0 ∧ (s.sky.status = 1 ∨ s.sky.status = 3 → t.sky.status = 2 ∧ t.sky.fix = 5 ∧ t.tm.source = 3 ∧ t.tm.slew = 0 ∧
        t.sky.holdAt = x.epoch ∧ Recorded ⟨0x9001, 0, 0x0B, [], [], 0xFFFFFFFF, 0xF⟩ s t) ∧
      (s.sky.status = 0 ∨ s.sky.status = 2 → t.sky.status = s.sky.status ∧ t.tm = s.tm ∧ t.flow = s.flow)) ∧
  (∀ s x, s.skyRuns = true → x.epoch % 50000000 = 0 → x.valid = true → x.excluded.length ≤ 4 → clockPasses s x.offset = true → s.sky.status ≠ 2 →
    Runs (.epochSolution x) s [.sky, .tm, .free] fun t => t.sky.flags.testBit 0 = true ∧ t.sky.state = 3 ∧
      t.sky.validRun = s.sky.validRun + 1 ∧ t.sky.status = s.sky.status ∧ t.sky.fix = fixOf s x (corrAgeAt s x.epoch) ∧
      t.sky.pose = ⟨x.epoch, x.lat, x.lon, x.height - s.int 0x5000 5, x.velN, x.velE, x.velU, x.speed,
        (((x.heading : Int) - s.nat 0x5000 7) % 36000).toNat, x.tilt, x.accuracy, x.sats⟩ ∧
      (t.sky.flags.testBit 5 = true ↔ 0 < s.nat 0x5000 6 ∧ x.headingValid = true ∧ x.headingInconsistent = false ∧
        ((x.baseline : Int) - s.nat 0x5000 6).natAbs ≤ s.nat 0x5000 8) ∧
      t.sky.snap = t.sky.channels) ∧
  (∀ s g, s.skyRuns = true → s.sky.status = 0 → s.sky.flags.testBit 0 = true → s.tm.step = none →
    Runs (.firstFixTimeSet g) s [.sky, .net, .tm] fun t => t.sky.status = 1 ∧ t.tm.source = 1 ∧ t.net.clientLocked = false ∧
      t.net.stepRefused = false ∧
      t.tm.step = (if wholeTicks ((g : Int) - s.tm.now) = 0 then none else some (wholeTicks ((g : Int) - s.tm.now))) ∧
      t.tm.stepAt = secondAhead s.tm.now (wholeTicks ((g : Int) - s.tm.now))) ∧
  (∀ s, s.tm.slew.natAbs < 4 →
    exec .slewEnd s = .next ((s.updTm fun t => { t with slew := 0, slewAcc := 0 }).updSky fun k =>
      { k with status := if k.status = 3 then 1 else k.status })) ∧
  (∀ s, s.pw.dev = .shutdown → s.sky.state ≠ 0 →
    Runs .skylightStop s [.sky, .tm] fun t => t.sky.state = 0 ∧ t.sky.channels = List.replicate 384 {} ∧ t.sky.flags.testBit 0 = false ∧
      t.sky.store = ⟨s.sky.almanac, s.sky.ephemeris, s.sky.knownPos, if s.tm.utcValid then some s.tm.utcOffset else none,
        if s.sky.flags.testBit 0 then some s.tm.now else s.sky.store.fixAt⟩ ∧
      (s.sky.status = 1 ∨ s.sky.status = 3 → t.sky.status = 2 ∧ t.tm.source = 3) ∧ (s.sky.status = 0 → t.sky.status = 0 ∧ t.tm = s.tm))

/-- 12 R277, R279, R280, R284, R285, R288–R290: corrections, aiding, the PPS edge, the time message and SkyCommand. -/
def Obligations.SkylightInterfaces : Prop :=
  (∀ s fl f, s.skyRuns = true → s.nat 0x5000 9 = (if fl then 1 else 2) → rtcmOk f = false →
    exec (.rtcmFrame fl f) s = .next (s.updSkyio fun o => { o with rtcmErrors := inc32 o.rtcmErrors })) ∧
  (∀ s fl f, s.skyRuns = true → s.nat 0x5000 9 = (if fl then 1 else 2) → rtcmOk f = true → beBits ((f.drop 3).take (f.length - 6)) 0 12 = 1077 →
    Runs (.rtcmFrame fl f) s [.skyio] fun t => t.skyio.corrStamp = some s.tm.now ∧ t.skyio.rtcmErrors = s.skyio.rtcmErrors ∧
      t.skyio.rtcmIgnored = s.skyio.rtcmIgnored) ∧
  (∀ s f0 f1 f2 t0 t1 t2, s.skyRuns = true → s.flag 0x5000 0x14 = true → f0.length = 8 → f1.length = 8 → f2.length = 8 → t0 ≤ t1 → t1 ≤ t2 →
    t2 ≤ t0 + 100000000 → fieldLe f0 0 1 = fieldLe f2 0 1 → s.sky.flags.testBit 0 = false →
    Runs (.aidingSet f0 f1 f2 t0 t1 t2) s [.sky, .skyio] fun t => t.skyio.aidCount = inc32 s.skyio.aidCount ∧
      t.skyio.aidRejected = s.skyio.aidRejected ∧ t.skyio.aid = [] ∧
      (t.sky.flags.testBit 15 = true ↔ s.sky.flags.testBit 15 = true ∨
        bits (fieldLe f0 0 4) 8 14 < (s.sky.knownTime.map (·.2)).getD 16383 ∨ fieldLe f2 4 2 < (s.sky.knownPos.map (·.2.2)).getD 65535)) ∧
  (∀ s f0 f1 f2 t0 t1 t2, s.skyRuns = true → s.flag 0x5000 0x14 = true → t0 + 100000000 < t2 →
    exec (.aidingSet f0 f1 f2 t0 t1 t2) s =
      .next (s.updSkyio fun o => { o with aid := [], aidRejected := inc32 o.aidRejected })) ∧
  (∀ s sec q, sec % 1000000000 = 0 → -2000 ≤ q → q ≤ 2000 → ppsEmits s = true →
    exec (.ppsEdge sec q) s =
      .next (s.updSkyio fun o => { o with edgeTime := some sec, qerr := q, stepped := o.stepSince, stepSince := false })) ∧
  (∀ s e, s.skyio.edgeTime = some e →
    Runs .timeMessage s [.skyio] fun t => t.skyio.message.length = 32 ∧ t.skyio.message.take 2 = [0x4C#8, 0x48#8] ∧
      t.skyio.message.drop 30 = leBytes 2 (crc16 (nats (t.skyio.message.take 30))) ∧ t.skyio.edgeTime = none ∧
      t.skyio.msgSeq = (s.skyio.msgSeq + 1) % 65536) ∧
  (∀ s n, s.admits n 0x5000 0x17 (.int 1) →
    exec (.skyColdStart n) s = .next (((s.touch n).updSky fun k =>
      { k with almanac := false, ephemeris := false, knownTime := none, knownPos := none, search := [], notFound := [],
               skips := [], store := { k.store with almanac := false, ephemeris := false, pos := none } }).ack n)) ∧
  (∀ s n, s.admits n 0x5000 0x17 (.int 2) →
    exec (.skyDropAmbiguities n) s = .next (((s.touch n).updSky fun k => { k with ambiguities := false }).ack n))

/-- 13 R299–R302, R305–R308: Belay's clock, the network client, peer delay, Announce, and the commands for a refused step. The sign of
the step that 0x01 applies is the model's (log 17); the servo's frequency is a free value (log 6). -/
def Obligations.NetworkTime : Prop :=
  (∀ s, s.reachable = true →
    exec .rtcWrite s = .next (s.updBelay fun b => { b with rtc := rtcTicks s.tm.now, rtcValid := true })) ∧
  (∀ s p o a, p < 3 → s.reachable = true → s.takesTime p = true → o.natAbs ≤ s.nat 0x5200 6 → s.net.stepRefused = false →
    Runs (.ptpSyncReceive p o a) s [.net, .tm, .free] fun t => t.tm.slew = -o ∧ t.tm.step = s.tm.step ∧ t.tm.now = s.tm.now ∧
      t.net.lockRun = (if o.natAbs ≤ 100 then s.net.lockRun + 1 else 0) ∧
      t.net.clientLocked = (s.net.clientLocked || decide (16 ≤ t.net.lockRun))) ∧
  (∀ s p o a, p < 3 → s.reachable = true → s.takesTime p = true → s.nat 0x5200 6 < o.natAbs →
    Runs (.ptpSyncReceive p o a) s [.net, .tm, .sky, .flow, .upd] fun t => t.net.stepRefused = true ∧ t.net.clientLocked = false ∧
      t.net.refused = (o :: s.net.refused).take 8 ∧ t.net.refusedStep = medianI t.net.refused ∧ t.tm.now = s.tm.now ∧ t.tm.step = s.tm.step ∧
      (if s.net.stepRefused then t.flow = s.flow else
        Recorded ⟨0x9004, p, 0x0E, leInt 4 (clampI (-(2 ^ 31)) (2 ^ 31 - 1) o), [], 0xFFFFFFFF, 0xF⟩ s t)) ∧
  (∀ s p, p < 3 → s.reachable = true → (s.ptpOf p).state = 3 → (s.net.ports.getD p {}).link = true → s.nat (0x5610 + p) 1 ≠ 0 →
    syncInstant s p < s.tm.now + 100000 →
    Runs (.ptpSyncDepart p) s [.net] fun t => (t.ptpOf p).lastSync = syncInstant s p + Config.egressLatency p ∧
      syncInstant s p % (1000000000 / 2 ^ (s.int (0x5610 + p) 3).natAbs) = 0 ∧
      (t.ptpOf p).syncs = (s.ptpOf p).syncs + 1) ∧
  (∀ s p d, p < 3 → s.reachable = true → (s.net.ports.getD p {}).link = true → s.nat (0x5610 + p) 1 ≠ 0 → p < s.net.ptp.length →
    (s.ptpOf p).delays = [] → (s.ptpOf p).pathChange = false →
    Runs (.pdelayExchange p d) s [.net] fun t => (t.ptpOf p).meanDelay = d ∧ (t.ptpOf p).delays = [d] ∧ (t.ptpOf p).pathChange = false) ∧
  (∀ s p d e, p < 3 → s.reachable = true → (s.net.ports.getD p {}).link = true → s.nat (0x5610 + p) 1 ≠ 0 → p < s.net.ptp.length →
    (s.ptpOf p).delays ≠ [] → (s.ptpOf p).outliers = [e] → s.nat 0x5200 7 < (d - medianI (s.ptpOf p).delays).natAbs →
    Runs (.pdelayExchange p d) s [.net, .flow, .upd] fun t => (t.ptpOf p).pathChange = true ∧ (t.ptpOf p).delays = [d, e] ∧
      (t.ptpOf p).pathCount = inc32 (s.ptpOf p).pathCount ∧
        Recorded ⟨0x9005, p, 0x0E, leInt 4 d, [], 0xFFFFFFFF, 0xF⟩ s t) ∧
  (∀ s p a, p < 3 → s.reachable = true → (s.net.ports.getD p {}).link = true → s.nat (0x5610 + p) 1 ≠ 0 → p < s.net.ptp.length →
    p = s.nat 0x5200 5 → s.nat 0x5200 4 = 1 → s.skyCannot = true →
    Runs (.announceReceive p true a) s [.net] fun t => (t.ptpOf p).state = 4 ∧ (t.ptpOf p).foreignGm = false ∧ t.net.gmAccuracy = a) ∧
  (∀ s p a, p < 3 → s.reachable = true → (s.net.ports.getD p {}).link = true → s.nat (0x5610 + p) 1 ≠ 0 → p < s.net.ptp.length →
    s.skyCannot = false →
    Runs (.announceReceive p true a) s [.net] fun t => (t.ptpOf p).state = 5 ∧ (t.ptpOf p).foreignGm = true) ∧
  (∀ s, (s.ptpOf (s.nat 0x5200 5)).state = 4 →
    Runs .announceTimeout s [.net, .sky, .tm] fun t => (t.ptpOf (s.nat 0x5200 5)).state = 3 ∧ t.net.clientLocked = false ∧ t.net.lockRun = 0 ∧
      (s.net.clientLocked = true → t.sky.u0 = s.net.clientUnc ∧ t.sky.holdAt = s.tm.now)) ∧
  (∀ s n, s.admits n 0x5200 8 (.int 1) → s.net.stepRefused = true →
    exec (.acceptRefusedStep n) s = .next ((((s.touch n).updNet fun x =>
      { x with stepRefused := false, freqHeld := false, refused := [], refusedStep := 0, goodRun := 0 }).updTm fun t =>
      { t with step := some (-s.net.refusedStep), stepCause := 2, stepAt := (s.tm.now / 1000000000 + 1) * 1000000000 }).ack n)) ∧
  (∀ s n, s.admits n 0x5200 8 (.int 2) → s.net.stepRefused = true →
    exec (.discardRefusedStep n) s = .next (((s.touch n).updNet fun x =>
      { x with stepRefused := false, freqHeld := false, refused := [], refusedStep := 0, goodRun := 0 }).ack n)) ∧
  (∀ s n, s.admits n 0x5200 8 (.int 1) → s.net.stepRefused = false →
    exec (.acceptRefusedStep n) s = .next ((s.touch n).deny n 0x08000022))

/-- 13 R297, R298, R302, R303, R310: a waiting step moves machine time by its whole ticks and by the extension r of the stretched frame, and
MonotonicNs by r alone; a link change and a write to the network objects. That a port listens from link up is the model's (log 16). -/
def Obligations.StepsAndPorts : Prop :=
  (∀ d : Int, wholeTicks d % 4 = 0 ∧ (wholeTicks d - d).natAbs ≤ 2) ∧
  (∀ s d, s.tm.step = some d → s.reachable = true → s.tm.slew = 0 → s.tm.stepAt ≤ s.tm.now + 100000 →
    Runs .timeStep s [.tm, .sens, .pas, .pctl, .lead, .loop, .trace, .valve, .can, .sky, .skyio, .net, .opt, .steer, .yield, .fio, .lan,
        .belay, .serv, .flow, .upd] fun t =>
      t.tm.mono = s.tm.mono + stepExtension (wholeTicks d) ∧ stepExtension (wholeTicks d) < 100000 ∧
      t.tm.now = ((s.tm.now : Int) + wholeTicks d + stepExtension (wholeTicks d)).toNat ∧
      (s.tm.now % 100000 = 0 → t.tm.now % 100000 = 0) ∧ t.tm.step = none ∧ t.tm.lastStep = wholeTicks d ∧
      t.tm.lastStepFrame = s.tm.frame ∧ t.tm.stepCount = inc32 s.tm.stepCount ∧ t.tm.frame = s.tm.frame ∧ t.skyio.stepSince = true) ∧
  (∀ s p, p < 3 → s.reachable = true → (s.net.ports.getD p {}).link = true → p < s.net.ports.length → p < s.net.ptp.length →
    Runs (.ethLinkChange p false) s [.net, .sky, .tm] fun t => (t.net.ports.getD p {}).link = false ∧ (t.ptpOf p).state = 1 ∧
      (t.net.ports.getD p {}).downCount = inc32 (s.net.ports.getD p {}).downCount ∧ (t.net.ports.getD p {}).downAt = s.tm.mono ∧
      ((s.ptpOf p).state ≠ 4 → t.sky = s.sky ∧ t.tm = s.tm)) ∧
  (∀ s p, p < 3 → s.reachable = true → s.flag (0x5600 + p) 1 = true → (s.net.ports.getD p {}).link = false → p < s.net.ports.length →
    p < s.net.ptp.length → s.nat (0x5610 + p) 1 ≠ 0 →
    Runs (.ethLinkChange p true) s [.net] fun t => (t.net.ports.getD p {}).link = true ∧ (t.ptpOf p).state = 2 ∧
      (t.net.ports.getD p {}).downCount = (s.net.ports.getD p {}).downCount) ∧
  (∀ s n sub v, s.admits n 0x5200 sub v → sub ≠ 4 → sub ≠ 5 → sub ≠ 8 →
    exec (.netConfigWrite n 0x5200 sub v) s = .next (((s.touch n).put 0x5200 sub v).ack n)) ∧
  (∀ s n p sub v, p < 3 → s.admits n (0x5600 + p) sub v →
    Written (.netConfigWrite n (0x5600 + p) sub v) s n [.dict, .net, .sky, .tm] fun t => t.dict = dictPut s.dict (0x5600 + p) sub v ∧
      (t.net.ports.getD p {}).link = false)

/-! ## Sensing (chapter 04) -/

/-- 04 R95, R104, R106, R107, R114, R119 and Table 04-10: the sensor supplies, the range checks and shunts of the analogue inputs, their
configuration and the tare. An input in fault gives no valid value, and one named as FeedRateSource kills every unresolved Lead. -/
def Obligations.AnalogueInputs : Prop :=
  (∀ s i, i < 3 → s.senses = true → s.sens.supplyFault.testBit i = false →
    Runs (.sensorSupplyFoldback i) s [.sens, .lead, .pas, .flow, .upd] fun t =>
      t.sens.supplyFault = setBit s.sens.supplyFault i true ∧
      (∀ a, a < 24 → s.nat (0x4840 + a) 7 = i + 1 → s.nat (0x4840 + a) 1 ≠ 0 → (t.aiOf a).valid = false) ∧
      (∀ a, s.nat (0x4840 + a) 7 ≠ i + 1 → t.aiOf a = s.aiOf a) ∧
      Recorded ⟨0x4001, 0xA1 + i, 0x0F, leBytes 4 (setBit s.sens.supplyFault i true), [], 0xFFFFFFFF, 0xF⟩ s t) ∧
  (∀ s i, i < 3 → s.senses = true → s.sens.supplyFault.testBit i = true →
    Runs (.sensorSupplyRetry i true) s [.sens, .flow, .upd] fun t =>
      t.sens = { s.sens with supplyFault := setBit s.sens.supplyFault i false } ∧
      Recorded ⟨0x4002, 0xA1 + i, 0x0F, leBytes 4 (setBit s.sens.supplyFault i false), [], 0xFFFFFFFF, 0xF⟩ s t) ∧
  (∀ s a raw, a < 24 → s.senses = true → s.nat (0x4840 + a) 1 = 3 → raw < 3600 → (s.aiOf a).shuntOpen = false →
    a < s.sens.ai.length → s.feedSource a = false →
    Runs (.aiRangeFault a raw) s [.sens, .flow, .upd] fun t => (t.aiOf a).valid = false ∧ (t.aiOf a).low = true ∧ (t.aiOf a).high = false ∧
      (t.aiOf a).faulted = true ∧ (∀ b, b ≠ a → t.sens.ai[b]? = s.sens.ai[b]?) ∧ ((s.aiOf a).faulted = true → t.flow = s.flow)) ∧
  (∀ s a, a < 24 → s.senses = true → s.nat (0x4840 + a) 1 ≠ 0 → (s.aiOf a).valid = false → (s.aiOf a).shuntOpen = false →
    s.supplyBad (s.nat (0x4840 + a) 7) = false → a < s.sens.ai.length →
    Runs (.aiRangeHoldExpiry a) s [.sens, .flow, .upd] fun t =>
      (t.aiOf a) = { s.aiOf a with valid := true, low := false, high := false, faulted := false } ∧
      ((s.aiOf a).faulted = false → t.flow = s.flow)) ∧
  (∀ s a, a < 24 → s.senses = true → s.nat (0x4840 + a) 1 = 3 → (s.aiOf a).shuntOpen = false → a < s.sens.ai.length →
    Runs (.shuntOpen a) s [.sens, .lead, .pas, .flow, .upd] fun t => (t.aiOf a).shuntOpen = true ∧ (t.aiOf a).valid = false ∧
      (s.feedSource a = true → ∀ l ∈ t.lead.ring, l.state ≠ 1)) ∧
  (∀ s a ua, a < 24 → s.senses = true → (s.aiOf a).shuntOpen = true → ua ≤ 30000 →
    exec (.shuntRetest a ua) s = .next (s.updAi a fun x => { x with shuntOpen := false })) ∧
  (∀ s n a v, a < 24 → s.admits n (0x4840 + a) 6 (.int v) →
    exec (.aiConfigWrite n a 6 v) s = .next (((s.touch n).put (0x4840 + a) 6 (.int v)).ack n)) ∧
  (∀ s n a v, a < 24 → s.admits n (0x4840 + a) 1 (.int v) → s.configurable = false → s.aiSelected a = true →
    exec (.aiConfigWrite n a 1 v) s = .next ((s.touch n).deny n 0x08000022)) ∧
  (∀ s, s.senses = true → (s.nat 0x4880 0xB : Int) * 65536 ≤ s.sens.tarePaddles → s.sens.tareN ≠ 0 →
    Runs .tareLearn s [.sens, .flow, .upd] fun t => t.sens.tareN = 0 ∧ t.sens.tareSum = 0 ∧ t.sens.tarePaddles = 0 ∧
      (t.sens.tareRefused = true ↔ (s.nat 0x4880 0xA : Rat) < (s.sens.tareSum / s.sens.tareN - s.int 0x4880 9).abs) ∧
      t.sens.tare = if t.sens.tareRefused then s.sens.tare else ratRound (s.sens.tareSum / s.sens.tareN))

/-- 04 R97–R102: samples that reach no trigger level open no window; a window of a channel under the limit of R99 is classified and counted, one
beyond it counts in RateLimited; the capacitance test begins or waits for its station, and its judgement sets OPEN below CapMin and SHORTED above
CapMax; NOISY after 5 s; and the writes to the loss channels. -/
def Obligations.ImpactChannels : Prop :=
  (∀ s c stamp x, c < 16 → pulseWindow (trigLevel s c ((s.lsOf c).regain (s.nat (0x4810 + c) 3))) x = [] →
    exec (.pulseWindowClose c stamp x) s = .next s) ∧
  (∀ s c stamp x, c < 16 → s.senses = true → c < s.sens.ls.length → (s.lsOf c).ms = stamp / 1000000 → 40 ≤ (s.lsOf c).inMs →
    pulseWindow (trigLevel s c ((s.lsOf c).regain (s.nat (0x4810 + c) 3))) x ≠ [] →
    Runs (.pulseWindowClose c stamp x) s [.sens, .flow, .upd] fun t => (t.lsOf c).rateLimited = inc32 (s.lsOf c).rateLimited ∧
      (t.lsOf c).limitedAt = some (s.monoOf (stamp / 1000 * 1000)) ∧ (t.lsOf c).straws = (s.lsOf c).straws ∧
      (t.lsOf c).pileUps = (s.lsOf c).pileUps ∧ ((s.lsOf c).grains < 0xFFFFFFFF → (s.lsOf c).grains < (t.lsOf c).grains)) ∧
  (∀ s c stamp x w e, c < 16 → s.senses = true → c < s.sens.ls.length → (s.lsOf c).gain = s.nat (0x4810 + c) 3 →
    (s.lsOf c).ms = stamp / 1000000 → (s.lsOf c).inMs < 40 → (s.lsOf c).healthy = true → ((s.lsOf c).station = 3 ∨ (s.lsOf c).station = 4) →
    pulseWindow (trigLevel s c (s.lsOf c)) x = w → w ≠ [] → classify s c (s.lsOf c).egrain w = (e, .grain, 1) →
    Runs (.pulseWindowClose c stamp x) s [.sens] fun t => (t.lsOf c).grains = add32 (s.lsOf c).grains 1 ∧
      (t.lsOf c).straws = (s.lsOf c).straws ∧ (t.lsOf c).egrain = (s.lsOf c).egrain + ((e : Rat) - (s.lsOf c).egrain) / 256 ∧
      t.sens.impacts = s.sens.impacts ++ [((s.lsOf c).station, stamp / 100000 * 100000, (s.lsOf c).weight)]) ∧
  (∀ s c stamp x w e, c < 16 → s.senses = true → c < s.sens.ls.length → (s.lsOf c).gain = s.nat (0x4810 + c) 3 →
    (s.lsOf c).ms = stamp / 1000000 → (s.lsOf c).inMs < 40 →
    pulseWindow (trigLevel s c (s.lsOf c)) x = w → w ≠ [] → classify s c (s.lsOf c).egrain w = (e, .straw, 0) →
    Runs (.pulseWindowClose c stamp x) s [.sens] fun t => (t.lsOf c).straws = inc32 (s.lsOf c).straws ∧ (t.lsOf c).grains = (s.lsOf c).grains ∧
      t.sens.impacts = s.sens.impacts) ∧
  (∀ s c r, c < 16 → s.senses = true → c < s.sens.ls.length →
    Runs (.lsChannelTest c none r) s [.sens] fun t => (t.lsOf c).testing = true ∨ t.sens.testQueue.testBit c = true) ∧
  (∀ s c cap r, c < 16 → s.senses = true → c < s.sens.ls.length → s.sens.testQueue = 0 →
    Runs (.lsChannelTest c (some cap) r) s [.sens, .flow, .upd] fun t => (t.lsOf c).testing = false ∧ (t.lsOf c).cap = min cap 0xFFFF ∧
      (t.lsOf c).opened = decide (cap < s.nat (0x4810 + c) 0xB) ∧
      (t.lsOf c).shorted = (decide (s.nat (0x4810 + c) 0xC < cap) || r)) ∧
  (∀ s c, c < 16 → s.senses = true → c < s.sens.ls.length → (s.lsOf c).noisy ≠ (s.lsOf c).loud → (s.lsOf c).loudAt + 5000000000 ≤ s.tm.mono →
    Runs (.lsNoisyExpiry c (s.lsOf c).loud) s [.sens, .flow, .upd] fun t => t.lsOf c = { s.lsOf c with noisy := (s.lsOf c).loud } ∧
      (if (s.lsOf c).loud then Recorded ⟨0x4001, 0x90 + c, 0x0A, leBytes 4 (lsStatus (t.lsOf c)), [], 0xFFFFFFFF, 0xF⟩ s t
       else Recorded ⟨0x4002, 0x90 + c, 0x0A, leBytes 4 (lsStatus (t.lsOf c)), [], 0xFFFFFFFF, 0xF⟩ s t)) ∧
  (∀ s n m, s.admits n 0x4800 4 (.int m) →
    Written (.lsTestNow n m) s n [.sens] fun t => ∀ c, c < 16 → c < s.sens.ls.length → m.toNat.testBit c = true →
      (t.lsOf c).testing = true ∨ t.sens.testQueue.testBit c = true) ∧
  (∀ s n c v, c < 16 → s.admits n (0x4810 + c) 6 (.int v) →
    exec (.lossChannelWrite n c 6 v) s = .next (((s.touch n).put (0x4810 + c) 6 (.int v)).ack n)) ∧
  (∀ s n c v, c < 16 → s.admits n (0x4810 + c) 1 (.int v) → s.configurable = false → s.cutting = true →
    exec (.lossChannelWrite n c 1 v) s = .next ((s.touch n).deny n 0x08000022))

/-- 04 R108–R111, R116, R117, R119: a crossing that has not held for MinPulse is no edge; a selected edge counts up, and in quadrature every
crossing counts by the phase order, while both signals at once are an error; an index edge marks zero; no edge for ZeroTimeout reads zero; a
cleared fault; the samples and the self-test of the IMU. -/
def Obligations.ShaftsAndImu : Prop :=
  (∀ s h stamp a q held, h < 12 → held < s.nat (0x4860 + h) 4 * 100 → exec (.shaftEdge h stamp ⟨a, q⟩ held) s = .next s) ∧
  (∀ s h stamp a q held, h < 12 → s.senses = true → h < s.sens.sh.length → s.nat (0x4860 + h) 1 ≠ 0 → s.flag (0x4860 + h) 5 = false →
    s.nat (0x4860 + h) 4 * 100 ≤ held → shaftLevel (s.nat (0x4860 + h) 1) a (s.shOf h).high = !(s.shOf h).high →
    edgeCounts (s.nat (0x4860 + h) 3) (!(s.shOf h).high) = true →
    Runs (.shaftEdge h stamp ⟨a, q⟩ held) s [.sens, .flow, .upd] fun t => (t.shOf h).count = (s.shOf h).count + 1 ∧
      (t.shOf h).lastStamp = tick stamp ∧ (t.shOf h).zero = false ∧ (t.shOf h).reverse = false ∧ (t.shOf h).high = !(s.shOf h).high ∧
      (t.shOf h).quadErrors = (s.shOf h).quadErrors) ∧
  (∀ s h stamp a q held, h < 12 → s.senses = true → h < s.sens.sh.length → s.nat (0x4860 + h) 1 ≠ 0 → s.flag (0x4860 + h) 5 = true →
    s.nat (0x4860 + h) 4 * 100 ≤ held → shaftLevel (s.nat (0x4860 + h) 1) a (s.shOf h).high = !(s.shOf h).high →
    shaftLevel (s.nat (0x4860 + h) 1) q (s.shOf h).highQ = (s.shOf h).highQ →
    Runs (.shaftEdge h stamp ⟨a, q⟩ held) s [.sens, .flow, .upd] fun t => (t.shOf h).highQ = (s.shOf h).highQ ∧
      (t.shOf h).count = (s.shOf h).count + (if ((!(s.shOf h).high) != (s.shOf h).highQ) = Config.phaseForward then 1 else -1) ∧
      (t.shOf h).quadErrors = (s.shOf h).quadErrors) ∧
  (∀ s h stamp a q held, h < 12 → s.senses = true → h < s.sens.sh.length → s.nat (0x4860 + h) 1 ≠ 0 → s.flag (0x4860 + h) 5 = true →
    s.nat (0x4860 + h) 4 * 100 ≤ held → shaftLevel (s.nat (0x4860 + h) 1) a (s.shOf h).high = !(s.shOf h).high →
    shaftLevel (s.nat (0x4860 + h) 1) q (s.shOf h).highQ = !(s.shOf h).highQ →
    Runs (.shaftEdge h stamp ⟨a, q⟩ held) s [.sens, .flow, .upd] fun t => (t.shOf h).count = (s.shOf h).count ∧
      (t.shOf h).quadErrors = inc32 (s.shOf h).quadErrors) ∧
  (∀ s h stamp, h < 12 → s.senses = true → h < s.sens.sh.length → s.nat (0x4860 + h) 1 ≠ 0 → s.nat (0x4860 + h) 7 ≠ 0xFF →
    s.nat (0x4860 + h) 6 ≠ 0 →
    Runs (.indexEdge h stamp) s [.sens, .loop, .flow, .upd] fun t => (t.shOf h).indexAt = some (s.shOf h).count ∧
      (t.shOf h).count = (s.shOf h).count ∧ ((s.shOf h).indexAt = none → (t.shOf h).indexError = false)) ∧
  (∀ s h e l, h < 12 → s.senses = true → (s.shOf h).edges = e :: l → e.1 + s.nat (0x4860 + h) 8 * 1000000 ≤ s.tm.mono →
    exec (.shaftZeroTimeout h) s = .next (s.updShaft h fun x => { x with zero := true })) ∧
  (∀ s h e l, h < 12 → (s.shOf h).edges = e :: l → s.tm.mono < e.1 + s.nat (0x4860 + h) 8 * 1000000 →
    exec (.shaftZeroTimeout h) s = .next s) ∧
  (∀ s h, h < 12 → s.senses = true → (s.shOf h).bad = true → (s.shOf h).condAt + 100000000 ≤ s.tm.mono →
    ((s.shOf h).quadFault = true → (s.shOf h).errs.headD 0 + 1000 ≤ (s.shOf h).counted) →
    Runs (.shaftFaultClearExpiry h) s [.sens, .flow, .upd] fun t => (t.shOf h).bad = false ∧ (t.shOf h).count = (s.shOf h).count ∧
      Recorded ⟨0x4002, h + 1, 0x0F, leBytes 4 (shStatus (t.shOf h)), [], 0xFFFFFFFF, 0xF⟩ s t) ∧
  (∀ s stamp ax ay az rx ry rz bx b, s.senses = true →
    Runs (.imuSample stamp ax ay az rx ry rz bx b) s [.sens, .free, .flow, .upd] fun t => t.sens.imu.accel = imuAxes s 8000 ax ay az ∧
      t.sens.imu.rate = imuAxes s 25000 rx ry rz ∧ t.sens.imu.stamp = stamp / 1000000 * 1000000 ∧
      t.sens.imu.attitude = s.sens.imu.turn (s.nat 0x4890 4) t.sens.imu.accel t.sens.imu.rate ∧
      t.sens.imu.delivered = true ∧
      (s.still = true → 4999 ≤ s.sens.imu.stillRun → t.sens.imu.bias.take 2 = [(bx : Rat), (b : Rat)]) ∧
      (s.still = false → t.sens.imu.bias = s.sens.imu.bias ∧ t.free = s.free)) ∧
  (∀ s pass, s.pw.dev = .start →
    Runs (.imuSelfTest pass) s [.sens, .flow, .upd] fun t => t.sens.imu = { s.sens.imu with selfFail := !pass } ∧
      (s.sens.imu.selfFail = !pass → t.flow = s.flow))

/-! ## The Passage (chapter 02) -/

/-- 02 R32, R37, R57, R58, R69: header entry and departure, the stop and ground-source timers and the reset. A header departure while cutting closes a
slice of 10 mm (655,360 in Q16.16) or more as one parcel and discards a shorter one, and cuts nothing otherwise; a reset empties the parcel ring, the Leads and
the event queue and leaves the next parcel number. -/
def Obligations.PassageControl : Prop :=
  (∀ s k, k < 10 → s.senses = true →
    exec (.stationStopTimeout k) s = .next (s.updPas fun p =>
      { p with stations := p.stations.modify k fun t => { t with stopped := true, step := 0, speed := 0, reversing := false } })) ∧
  (∀ s, s.pctl.ground = 3 → s.skyGood = false →
    exec .groundSourceLossExpiry s = .next (s.updPctl fun c => { c with ground := 0, groundLost := true })) ∧
  (∀ s, s.senses = true → s.nat 0x3810 3 ≠ 0xFE → s.pas.headerInWork = false →
    Runs .headerEntersWork s [.pas, .opt] fun t =>
      t.pas = { s.pas with headerInWork := true, acc := 0, sliceArea := 0, headSum := 0, headN := 0, sliceUncertain := false, sliceWheel := false } ∧
      t.opt.settleAt = s.pas.nextParcel) ∧
  (∀ s, s.senses = true → s.cutting = true →
    Runs .headerLeavesWork s [.pas, .pctl, .lead, .opt, .flow, .upd] fun t => t.pas.headerInWork = false ∧ t.pas.acc = 0 ∧
      t.pas.nextParcel = (if 655360 ≤ s.pas.acc ∧ freeEntries s.pas ≠ 0 then (s.pas.nextParcel + 1) % 2 ^ 32 else s.pas.nextParcel) ∧
      t.pas.ring.length = (if 655360 ≤ s.pas.acc ∧ freeEntries s.pas ≠ 0 then s.pas.ring.length + 1 else s.pas.ring.length) ∧
      ∀ l ∈ t.lead.ring, l.state = 1 → pbefore l.parcel t.pas.nextParcel = true) ∧
  (∀ s, s.senses = true → s.pas.headerInWork = true → s.cutting = false →
    Runs .headerLeavesWork s [.pas, .lead, .opt] fun t => t.pas = { s.pas with headerInWork := false, ring := t.pas.ring } ∧
      t.pas.ring.length = s.pas.ring.length ∧ ∀ l ∈ t.lead.ring, l.state = 1 → pbefore l.parcel t.pas.nextParcel = true) ∧
  (∀ s, s.reachable = true → s.pw.dev ≠ .shutdown →
    exec .nextParcelNorWrite s = .next (s.updPas fun p => { p with nextParcelNor := p.nextParcel })) ∧
  (∀ s, s.reachable = true →
    Runs (.passageReset none) s [.pas, .pctl, .lead, .opt, .flow, .upd, .free] fun t => t.pas.ring = [] ∧ t.pas.acc = 0 ∧
      t.pas.nextParcel = s.pas.nextParcel ∧ t.lead.ring = [] ∧ t.pctl.events = [] ∧ t.pctl.resetActive = true ∧
      t.pctl.resetCount = inc32 s.pctl.resetCount ∧ t.pctl.discarded = add32 s.pctl.discarded s.pctl.events.length) ∧
  (∀ s a b, s.reachable = true →
    Runs (.passageReset (some (a, b))) s [.pas, .pctl, .lead, .opt, .flow, .upd, .free] fun t => t.pas.ring = [] ∧
      t.pctl.resetActive = true ∧
      ∃ u, exec (.passageReset none) s = .next u ∧ t.flow = (u.record ⟨0x3001, 0, 0x05, leBytes 4 a ++ leBytes 4 b, [], 0xFFFFFFFF, 0xF⟩).flow)

/-- 02 R40–R42, R53, R60, R61, R65, Table 02-11: events, the parcel window and the station and slice configuration. -/
def Obligations.PassageObjects : Prop :=
  (∀ s n b, s.admits n 0x3820 1 (.bytes b) → s.pctl.resetActive = false → b.length = 24 → eventFieldsOk b (eventOf b) = true →
    eventResult s true (eventOf b) = 0 →
    Written (.eventRecord n b) s n [.pctl, .serv] fun t =>
      t.pctl.events = s.pctl.events ++ [{ eventOf b with id := s.pctl.nextEvent, stamp := s.tm.now }] ∧
      t.pctl.nextEvent = (s.pctl.nextEvent + 1) % 2 ^ 32 ∧
      (t.sessOf n).win.eventResult = 0 ∧ (t.sessOf n).win.eventId = s.pctl.nextEvent) ∧
  (∀ s n b, s.admits n 0x3820 1 (.bytes b) → s.pctl.resetActive = true →
    exec (.eventRecord n b) s = .next (((s.touch n).updWin n fun x => { x with eventResult := 7 }).ack n)) ∧
  (∀ s n id, s.admits n 0x3820 4 (.int id) → (∃ e ∈ s.pctl.events, e.id = id) →
    Written (.eventCancel n id) s n [.pctl, .serv] fun t => (t.sessOf n).win.cancelResult = 0 ∧
      t.pctl.events = s.pctl.events.filter (fun e => e.id != id) ∧ t.pctl.nextEvent = s.pctl.nextEvent) ∧
  (∀ s n id, s.admits n 0x3820 4 (.int id) → (∀ e ∈ s.pctl.events, e.id ≠ id) → s.pctl.released.contains id = true →
    exec (.eventCancel n id) s = .next (((s.touch n).updWin n fun x => { x with cancelResult := 1 }).ack n)) ∧
  (∀ s n v, s.admits n 0x3880 2 (.int v) →
    Written (.snapshot n v) s n [.serv] fun t => (t.sessOf n).win.parcelResult = selectResult s (s.sessOf n).win.parcelSelect ∧
      (t.sessOf n).win.parcelSelect = (s.sessOf n).win.parcelSelect) ∧
  (∀ s n k v, k < 10 → s.admits n (0x3800 + k) 2 (.int v) → (s.configurable || s.stIdle k) = true →
    exec (.stationConfigWrite n k 2 v) s = .next (((s.touch n).put (0x3800 + k) 2 (.int v)).ack n)) ∧
  (∀ s n k v, k < 10 → s.admits n (0x3800 + k) 2 (.int v) → (s.configurable || s.stIdle k) = false →
    exec (.stationConfigWrite n k 2 v) s = .next ((s.touch n).deny n 0x08000022)) ∧
  (∀ s n k j v, k < 10 → j < 16 → s.admits n (0x3800 + k) (8 + j) (.int v) → kernelAfter s k j v = none →
    exec (.kernelWrite n k (8 + j) v) s = .next ((s.touch n).deny n 0x06090030)) ∧
  (∀ s n k j v ts, k < 10 → j < 16 → s.admits n (0x3800 + k) (8 + j) (.int v) → kernelAfter s k j v = some ts →
    exec (.kernelWrite n k (8 + j) v) s = .next ((putTaps (s.touch n) k ts).ack n)) ∧
  (∀ s n v, s.admits n 0x3810 6 (.int v) →
    exec (.sliceLengthWrite n 6 v) s = .next (((s.touch n).put 0x3810 6 (.int v)).ack n))

/-- 02 R66–R68: a calibration run starts, stops, offers or withholds its proposal, and the proposal is accepted or discarded; trims are held
within ±10 %. -/
def Obligations.TransitCalibration : Prop :=
  (∀ s n, s.admits n 0x3812 1 (.int 1) → s.pctl.cal.state ≠ 1 → s.nat 0x3812 2 ∉ [2, 5, 7] →
    exec (.calStart n) s = .next (((s.touch n).updPctl fun p => { p with cal := { state := 1, station := s.nat 0x3812 2 } }).ack n)) ∧
  (∀ s n, s.admits n 0x3812 1 (.int 2) → s.pctl.cal.state = 1 →
    exec (.calStop n) s = .next (((s.touch n).updPctl fun p => { p with cal := { p.cal with state := 5 } }).ack n)) ∧
  (∀ s n u, s.admits n 0x3812 1 (.int 3) → s.pctl.cal.state = 2 → acceptCal (s.touch n) = .ok u →
    exec (.calAccept n) s = .next (u.ack n)) ∧
  (∀ s u, acceptCal s = .ok u → u.pctl.cal.state = 3 ∧ (u.stOf s.pctl.cal.station).trim = 0 ∧ u.tm = s.tm ∧ u.pas.ring = s.pas.ring ∧
    31130 ≤ s.pctl.cal.kernel.foldl (· + ·) 0 ∧ s.pctl.cal.kernel.foldl (· + ·) 0 ≤ 34404) ∧
  (∀ s n a, s.admits n 0x3812 1 (.int 3) → s.pctl.cal.state = 2 → acceptCal (s.touch n) = .error a →
    a = 0x06090030 ∧ exec (.calAccept n) s = .next ((s.touch n).deny n a)) ∧
  (∀ s n, s.admits n 0x3812 1 (.int 4) → s.pctl.cal.state = 2 →
    exec (.calDiscard n) s = .next (((s.touch n).updPctl fun p => { p with cal := { p.cal with state := 0 } }).ack n)) ∧
  (∀ s n, s.admits n 0x3812 1 (.int 2) → s.pctl.cal.state ≠ 1 →
    exec (.calStop n) s = .next ((s.touch n).deny n 0x08000022)) ∧
  (∀ s tr st ker q, ker.length = 16 → s.pctl.cal.state = 1 → s.pctl.cal.enough = true → q < 19661 →
    exec (.calProposalReady tr st ker q) s = .next (s.updPctl fun p => { p with cal := { p.cal with state := 4, quality := q } })) ∧
  (∀ s tr st ker q, ker.length = 16 → s.pctl.cal.state = 1 → s.pctl.cal.enough = true → 19661 ≤ q →
    exec (.calProposalReady tr st ker q) s = .next (s.updPctl fun p =>
      { p with cal := { p.cal with state := 2, transit := tr, step := st, kernel := ker, quality := q } })) ∧
  (∀ s x, s.flag 0x3812 8 = true → 200 ≤ s.pctl.trimCount → 3 < s.pas.stations.length →
    Runs (.transitTrim [(3, x)]) s [.pas, .pctl] fun t => t.pctl.trimCount = 0 ∧ (t.stOf 3).trim = clampI (-3276) 3276 x ∧
      (∀ k, k ≠ 3 → t.stOf k = s.stOf k) ∧ t.pas.ring = s.pas.ring)

/-! ## Leads, compensation and the trace (chapters 03 and 06) -/

/-- 03 R75, R79, R81, R82, R85, R91: the lead engine's commands. Switching it off kills every unresolved Lead with reason 0x08; a suspension ends after
SuspendParcels; a session on E1 reads no lead window. -/
def Obligations.LeadCommands : Prop :=
  (∀ s n, s.admits n 0x38A0 1 (.int 0) →
    exec (.leadEnable n 0) s = .next ((killUnresolved 8 ((s.touch n).put 0x38A0 1 (.int 0))).ack n)) ∧
  (∀ s r, (∀ l ∈ (killUnresolved r s).lead.ring, l.state ≠ 1) ∧
    (killUnresolved r s).lead.died = add32 s.lead.died (s.lead.ring.filter fun l => l.state == 1).length ∧
    (killUnresolved r s).lead.went = s.lead.went ∧ Only [.lead, .pas] s (killUnresolved r s)) ∧
  (∀ s n, s.admits n 0x38A0 1 (.int 1) → s.nat 0x3810 0xA ≠ 0xFF → (∃ j < 8, (s.slotFn j).isSome = true) →
    exec (.leadEnable n 1) s = .next (((s.touch n).put 0x38A0 1 (.int 1)).ack n)) ∧
  (∀ s n, s.admits n 0x38A0 1 (.int 1) → s.nat 0x3810 0xA = 0xFF → exec (.leadEnable n 1) s = .next ((s.touch n).deny n 0x08000022)) ∧
  (∀ s n j v, j < 8 → s.admits n (0x38A8 + j) 3 (.int v) →
    exec (.leadSlotWrite n j 3 v) s = .next (((s.touch n).put (0x38A8 + j) 3 (.int v)).ack n)) ∧
  (∀ s n j v, j < 8 → s.admits n (0x38A8 + j) 2 (.int v) → s.leadOn = true →
    exec (.leadSlotWrite n j 2 v) s = .next ((s.touch n).deny n 0x08000022)) ∧
  (∀ s, s.lead.suspended = true → s.nat 0x38A0 0xC ≤ s.lead.sinceSuspend →
    exec .leadSuspendEnd s = .next (s.updLead fun x => { x with suspended := false })) ∧
  (∀ s, s.lead.periodWent + s.lead.periodDied ≠ 0 →
    Runs .leadCountRecord s [.lead, .flow, .upd] fun t => t.lead = { s.lead with periodWent := 0, periodDied := 0 } ∧
      Recorded ⟨0x3010, 0, 0x05, leBytes 4 s.lead.periodWent ++ leBytes 4 s.lead.periodDied, [], 0xFFFFFFFF, 0xF⟩ s t) ∧
  (∀ s n v, s.admits n 0x38C0 2 (.int v) → (s.sessOf n).transport ≠ .e1 →
    exec (.leadSnapshot n v) s = .next ((leadSnapshot n (s.touch n)).ack n) ∧ Only [.serv] s (leadSnapshot n s)) ∧
  (∀ s n v, s.serves n 0x38C0 → (s.sessOf n).transport = .e1 → exec (.leadSnapshot n v) s = .next ((s.touch n).deny n 0x06010000))

/-- 06 R157, R161, R162: the commands of a repetitive memory, its load at Start, and the writes of its tables. -/
def Obligations.CompensationCommands : Prop :=
  (∀ s n c, c < 128 → s.admits n (0x3400 + c) 0xC (.int 1) →
    exec (.repClear n c) s = .next (((s.touch n).updComp c fun x => { x with clear := true }).ack n)) ∧
  (∀ s n c, c < 128 → s.admits n (0x3400 + c) 0xC (.int 2) →
    exec (.repHold n c) s = .next (((s.touch n).updComp c fun x => { x with held := true }).ack n)) ∧
  (∀ s n c, c < 128 → s.admits n (0x3400 + c) 0xC (.int 3) →
    exec (.repResume n c) s = .next (((s.touch n).updComp c fun x => { x with held := false }).ack n)) ∧
  (∀ s n c, c < 128 → s.admits n (0x3400 + c) 0xC (.int 4) → 2 ≤ (s.sessOf n).role → (s.ctxAt c).comp.save = false →
    (s.ctxAt c).comp.saving = false →
    exec (.repSave n c) s = .next (((s.touch n).updComp c fun x => { x with save := true }).ack n)) ∧
  (∀ s n c, c < 128 → s.serves n (0x3400 + c) → (s.sessOf n).role < 2 →
    exec (.repSave n c) s = .next ((s.touch n).deny n 0x06010000)) ∧
  (∀ s c, c < 128 → s.pw.dev = .start → (findTarget s.per.targets 2 (keyOf (0x3400 + c) 0xD)) = none →
    exec (.repMemoryLoad c) s = .next (s.updComp c fun x =>
      { x with mem := List.replicate 512 0, loaded := false, waitIndex := false })) ∧
  (∀ s n c b, c < 128 → s.admits n (0x3400 + c) 0xD (.bytes b) → (s.ctxAt c).enabled = false →
    exec (.compTableWrite n c 0xD b) s = .next (((s.touch n).updComp c fun x => { x with mem := cellsOf b }).ack n)) ∧
  (∀ s n c b, c < 128 → s.admits n (0x3400 + c) 0xD (.bytes b) → (s.ctxAt c).enabled = true → (s.ctxAt c).comp.held = false →
    exec (.compTableWrite n c 0xD b) s = .next ((s.touch n).deny n 0x08000022))

/-- 06 R168–R170: the trace belongs to the session that armed it; arming is refused without a channel; a force, a disarm, a release and a
block of a read-out. -/
def Obligations.TraceCommands : Prop :=
  (∀ s n, s.admits n 0x3600 1 (.int 1) → s.trace.owner = 0xFF → (s.trace.state = 0 ∨ s.trace.state = 4) →
    (∃ c < 8, traceOn s c = true) →
    Written (.traceArm n) s n [.trace] fun t => t.trace.owner = n ∧ t.trace.armFrame = s.tm.frame + 1 ∧ t.trace.times = [] ∧
      t.trace.state = (if s.flag 0x3600 3 then 5 else if s.nat 0x3600 5 = 0 then 2 else 1)) ∧
  (∀ s n, s.admits n 0x3600 1 (.int 1) → s.trace.owner = 0xFF → (∀ c < 8, traceOn s c = false) →
    exec (.traceArm n) s = .next ((s.touch n).deny n 0x08000022)) ∧
  (∀ s n, s.admits n 0x3600 1 (.int 1) → s.trace.owner ≠ 0xFF → s.trace.owner ≠ n →
    exec (.traceArm n) s = .next ((s.touch n).deny n 0x08000022)) ∧
  (∀ s n, s.admits n 0x3600 1 (.int 2) → s.trace.owner = n → (s.trace.state = 1 ∨ s.trace.state = 2) →
    exec (.traceForceTrigger n) s = .next (((s.touch n).updTrace fun t => { t with force := true }).ack n)) ∧
  (∀ s n, s.admits n 0x3600 1 (.int 3) → s.trace.owner = n →
    Written (.traceDisarm n) s n [.trace] fun t => t.trace.state = 0 ∧ t.trace.owner = n ∧ t.trace.times = []) ∧
  (∀ s n, s.admits n 0x3600 1 (.int 4) → s.trace.owner = n →
    Written (.traceRelease n) s n [.trace] fun t => t.trace.owner = 0xFF ∧ (s.trace.state ≠ 5 → t.trace = { s.trace with owner := 0xFF })) ∧
  (∀ s n, s.serves n 0x3620 → readoutRefused s n = 0 →
    Runs (.readBlock n) s [.serv] fun t => (t.sessOf n).answer = 0 ∧ (t.sessOf n).answerData = readBlockBytes s n ∧
      (t.sessOf n).win.readOffset = (s.sessOf n).win.readOffset + (readBlockBytes s n).length / 2) ∧
  (∀ s n, s.serves n 0x3620 → s.trace.state ≠ 4 → (s.sessOf n).transport ≠ .e1 →
    exec (.readBlock n) s = .next ((s.touch n).updSess n fun x => { x with answer := 0x08000022, answerData := [] }))

/-! ## The loop engine (chapter 05) -/

/-- 05 R122, R125, R140: ContextEnable 1 takes the schedule check's answer: placed, the context runs from the placement's lane and phase;
a failed check is answered with its code in ScheduleResult. ContextEnable 0 takes a context out of its lane and answers a context on which
an inner one depends with a state fault. A coefficient set may be written when it is not the active one or the context is stopped. -/
def Obligations.ContextCommands : Prop :=
  (∀ s k n, n < 128 → s.admits k (0x3000 + n) 1 (.int 1) → (s.ctxAt n).enabled = false → s.nat (0x3000 + n) 2 ≠ 0xFF →
    ctxConfigurable s n = true → disagreeing s (s.nat (0x3000 + n) 2) = false →
    ((scheduleCheck s n).1 = 0 → exec (.contextEnable k n) s = .next (((s.touch k).updCtx n fun x =>
      { x with enabled := true, lane := (scheduleCheck s n).2.1, phase := (scheduleCheck s n).2.2, cost := runCost s n, result := 0, mode := 1,
               tracking := true, faultAct := false, u := 0, posOn := false, negOn := false, d := 0, map := mapOf s n, last := {},
               comp := { x.comp with total := 0, runs := 0, eSum := 0, xPrev := none } }).ack k)) ∧
    ((scheduleCheck s n).1 ≠ 0 → exec (.contextEnable k n) s =
      .next (((s.touch k).updCtx n fun x => { x with result := (scheduleCheck s n).1 }).deny k 0x06090030))) ∧
  (∀ s k n, n < 128 → s.admits k (0x3000 + n) 1 (.int 1) → (s.ctxAt n).enabled = true → s.nat (0x3000 + n) 2 ≠ 0xFF →
    ctxConfigurable s n = true → disagreeing s (s.nat (0x3000 + n) 2) = false → exec (.contextEnable k n) s = .next ((s.touch k).ack k)) ∧
  (∀ s k n, n < 128 → s.admits k (0x3000 + n) 1 (.int 1) → s.nat (0x3000 + n) 2 = 0xFF →
    exec (.contextEnable k n) s = .next (((s.touch k).updCtx n fun x => { x with result := 9 }).deny k 0x06090030)) ∧
  (∀ s k n, n < 128 → s.admits k (0x3000 + n) 1 (.int 1) → s.nat (0x3000 + n) 2 ≠ 0xFF →
    ctxConfigurable s n = false → exec (.contextEnable k n) s = .next ((s.touch k).deny k 0x08000022)) ∧
  (∀ s k n, n < 128 → s.admits k (0x3000 + n) 1 (.int 0) → (s.ctxAt n).enabled = true → ctxConfigurable s n = true →
    (∀ m < 128, (s.ctxAt m).enabled = true → outerOf s m ≠ some n) → (s.ctxAt n).swap = false →
    Written (.contextDisable k n) s k [.loop] fun t => t.ctxAt n =
      { s.ctxAt n with enabled := false, lane := 0xFF, phase := 0, cost := 0, tracking := false, posOn := false, negOn := false }) ∧
  (∀ s k n, n < 128 → s.admits k (0x3000 + n) 1 (.int 0) → (s.ctxAt n).enabled = true →
    (∃ m < 128, (s.ctxAt m).enabled = true ∧ outerOf s m = some n) → exec (.contextDisable k n) s = .next ((s.touch k).deny k 0x08000022)) ∧
  (∀ s k n set b, n < 128 → set < 2 → s.admits k (0x3000 + n) (0x10 + set) (.bytes b) → coefOk b = true →
    ((s.ctxAt n).enabled = false ∨ ((s.ctxAt n).swap = false ∧ (s.ctxAt n).active ≠ set)) →
    exec (.coefSetWrite k n set b) s = .next (((s.touch k).put (0x3000 + n) (0x10 + set) (.bytes b)).ack k)) ∧
  (∀ s k n set b, n < 128 → set < 2 → s.admits k (0x3000 + n) (0x10 + set) (.bytes b) → coefOk b = true → (s.ctxAt n).enabled = true →
    (s.ctxAt n).active = set → exec (.coefSetWrite k n set b) s = .next ((s.touch k).deny k 0x08000022)) ∧
  (∀ s k n, n < 128 → s.admits k (0x3000 + n) 0x13 (.int 1) → (s.ctxAt n).swap = false → (s.ctxAt n).enabled = true →
    exec (.swapRequest k n 1) s = .next (((s.touch k).updCtx n fun x => { x with swap := true }).ack k)) ∧
  (∀ s k n, n < 128 → s.admits k (0x3000 + n) 0x13 (.int 1) → (s.ctxAt n).swap = true →
    exec (.swapRequest k n 1) s = .next ((s.touch k).deny k 0x08000022))

/-- 05 R124, R125: a placement that the schedule check takes keeps its lane within 19,600 cycles in each of the 1,000 frames, the new context's
runs counted; the phase lies below the context's period, and no context already placed is moved. -/
def Obligations.PlacementFits : Prop :=
  ∀ s n lane phase, placement s n = some (lane, phase) → phase < periodOf s n ∧
    ∀ f < 1000, (laneLoads (placed s lane)).getD f 0 + (if f % periodOf s n = phase then runCost s n else 0) ≤ 19600

/-- 05 R136, R141, R148: the commands of a control function: FunctionMode, its committed set-point, its limits and sources, its manual
command and FunctionCommand. -/
def Obligations.FunctionCommands : Prop :=
  (∀ s k f, f < 48 → s.admits k (0x2800 + f) 1 (.int 1) → (s.pw.dev = .run ∨ s.pw.dev = .service) → f ≠ s.steerFn →
    exec (.functionModeManual k f) s = .next ((((s.touch k).optChange f false true).updFn f fun x =>
      { x with next := some 1, safe := false, atSafe := x.atSafe && x.forced, safeOff := x.safeOff && x.forced, still := false }).ack k)) ∧
  (∀ s k f, f < 48 → s.admits k (0x2800 + f) 1 (.int 1) → (s.pw.dev = .run ∨ s.pw.dev = .service) → f = s.steerFn → s.steer.engaged = true →
    exec (.functionModeManual k f) s = .next ((disengage 2 4 (s.touch k)).ack k)) ∧
  (∀ s k f, f < 48 → s.admits k (0x2800 + f) 1 (.int 2) → (s.pw.dev = .run ∨ s.pw.dev = .service) → f ≠ s.steerFn → autoRefused s f = false →
    exec (.functionModeAuto k f) s = .next ((((s.touch k).optChange f false true).updFn f fun x =>
      { x with next := some 2, safe := false, atSafe := x.atSafe && x.forced, safeOff := x.safeOff && x.forced, still := false }).ack k)) ∧
  (∀ s k f, f < 48 → s.admits k (0x2800 + f) 1 (.int 2) → (f = s.steerFn ∨ autoRefused s f = true) →
    exec (.functionModeAuto k f) s = .next ((s.touch k).deny k 0x08000022)) ∧
  (∀ s k f, f < 48 → s.admits k (0x2800 + f) 1 (.int 3) → (s.pw.dev = .run ∨ s.pw.dev = .service) → f ≠ s.steerFn →
    exec (.functionModeHold k f) s = .next ((((s.touch k).optChange f false true).updFn f fun x =>
      { x with next := some 3, safe := false, atSafe := x.atSafe && x.forced, safeOff := x.safeOff && x.forced, still := false }).ack k)) ∧
  (∀ s k f v, f < 48 → s.admits k (0x2800 + f) 3 (.int v) → f ≠ s.steerFn → s.int (0x2800 + f) 4 ≤ v → v ≤ s.int (0x2800 + f) 5 →
    s.nat (0x2800 + f) 8 < 2 → exec (.committedSetpointWrite k f v) s =
      .next (((if v = (s.fnOf f).c then (s.touch k).optForeign f else (s.touch k).optChange f false false).updFn f fun x => { x with c := v }).ack k)) ∧
  (∀ s k f v, f < 48 → s.admits k (0x2800 + f) 3 (.int v) → f ≠ s.steerFn → (v < s.int (0x2800 + f) 4 ∨ s.int (0x2800 + f) 5 < v) →
    exec (.committedSetpointWrite k f v) s = .next ((s.touch k).deny k 0x06090030)) ∧
  (∀ s k f v, f < 48 → s.admits k (0x2800 + f) 4 (.int v) → v < s.int (0x2800 + f) 5 →
    exec (.setpointLimitsWrite k f 4 v) s = .next (((s.touch k).put (0x2800 + f) 4 (.int v)).ack k)) ∧
  (∀ s k f v, f < 48 → s.admits k (0x2800 + f) 5 (.int v) → s.int (0x2800 + f) 4 < v →
    exec (.setpointLimitsWrite k f 5 v) s = .next (((s.touch k).put (0x2800 + f) 5 (.int v)).ack k)) ∧
  (∀ s k f v, f < 48 → s.admits k (0x2800 + f) 8 (.int v) → f ≠ s.steerFn → sourceFits v (s.int (0x2800 + f) 9) = true → s.configurable = true →
    exec (.setpointSourceWrite k f 8 v) s = .next (((s.touch k).put (0x2800 + f) 8 (.int v)).ack k)) ∧
  (∀ s k f v, f < 48 → s.admits k (0x2800 + f) 9 (.int v) → sourceFits (s.int (0x2800 + f) 8) v = true → s.configurable = false →
    (s.fnOf f).mode = 2 → exec (.setpointSourceWrite k f 9 v) s = .next ((s.touch k).deny k 0x08000022)) ∧
  (∀ s k f v, f < 48 → s.admits k (0x2800 + f) 0xB (.int v) → (s.pw.dev = .run ∨ s.pw.dev = .service) →
    exec (.manualCommandWrite k f v) s = .next (((s.touch k).updFn f fun x =>
      { x with manual := v, atSafe := x.atSafe && x.forced, safeOff := x.safeOff && x.forced, still := false }).ack k)) ∧
  (∀ s k f v, f < 48 → s.admits k (0x2800 + f) 0xB (.int v) → s.pw.dev ≠ .run → s.pw.dev ≠ .service →
    exec (.manualCommandWrite k f v) s = .next (((s.touch k).updFn f fun x => { x with manual := v, still := false }).ack k)) ∧
  (∀ s k f, f < 48 → s.admits k (0x2800 + f) 0x13 (.int 1) → (s.fnOf f).forced = true → (s.fnOf f).engineFault = false →
    (1000 ≤ (s.fnOf f).agreed → Written (.functionCommand k f 1) s k [.loop] fun t => (t.fnOf f).forced = false ∧
      ∀ n < 128, s.nat (0x3000 + n) 2 = f → (t.ctxAt n).mismatch = false) ∧
    ((s.fnOf f).agreed < 1000 → exec (.functionCommand k f 1) s = .next ((s.touch k).deny k 0x08000022)))

/-- 01 R18, R23, 05 R123, R150, 19 R425: the two frames run their engines in the order of Tables 01-4 and 05-2 while the device can be
reached, and leave the receive FIFO that they read empty (14 R320); an abort of functions stays in progress only while one of them ramps; the hand-over of new microcode starts probation, or is refused with result 0x0E when a lane would pass 19,600 cycles. -/
def Obligations.FramesAndHandover : Prop :=
  (∀ s x, s.reachable = true → exec (.loopFrame x) s = .next (loopFrame x s)) ∧
  (∀ s x, s.pw.dev = .ladder → s.reachable = false → s.belay.resetWait = false →
    Runs (.loopFrame x) s [.tm] fun t => t.tm = frameTime (s.nat 0x5000 0x12) s.tm) ∧
  (∀ s x, s.reachable = true → ∃ t, exec (.loopFrame x) s = .next t ∧ (∀ c ∈ t.can.ch, c.fifo0 = []) ∧ t.pending = s.pending ∧
    ∀ y ∈ t.serv.sess, ∀ f, y.aborting = some f → f < 48 → (t.fnOf f).abort = true) ∧
  (∀ s x, s.reachable = true → exec (.applicationFrame x) s = .next (applicationFrame x s)) ∧
  (∀ s x, s.reachable = true → ∃ t, exec (.applicationFrame x) s = .next t ∧ (∀ c ∈ t.can.ch, c.fifo1 = []) ∧ t.pending = s.pending) ∧
  (∀ s costs o, committedFor 2 s = some o → liveMay s = true → settingsFit (s.region 2).active o.header true = true →
    (lpeFits costs s = true → exec (.lpeHandover costs) s = .next (inEffect o s)) ∧
    (lpeFits costs s = false → exec (.lpeHandover costs) s = .next (endUpdate 4 0xE s))) ∧
  (∀ s costs, lpeFits costs s = true ↔ ∀ lane < 4, ∀ c ∈ laneLoads ((indices 128 fun n =>
      (s.ctxAt n).enabled && (s.ctxAt n).lane == lane).map fun n => (periodOf s n, (s.ctxAt n).phase, costs.getD n (s.ctxAt n).cost)), c ≤ 19600)

/-! ## Steering (chapter 08) -/

/-- 08 R195, R196, R203, Table 08-3: what ends an engagement. The takeover condition counts, bars engagement for 1 s and withdraws the enable; a
condition of Column-A that has lasted its time withdraws it and is held against new engagements; a row without its condition changes nothing. -/
def Obligations.SteeringWithdrawal : Prop :=
  (∀ s r, 1 ≤ r → r ≤ 0xF → s.steer.engaged = true → Runs (.steerDisengage r) s [.flow, .upd, .loop, .steer] fun t =>
    Disengaged r (if [2, 8, 9, 0xA, 0xB, 0xE, 0xF].contains r then 4 else 2) s t) ∧
  (∀ s r, 1 ≤ r → r ≤ 0xF → s.steer.engaged = false → exec (.steerDisengage r) s = .next s) ∧
  (∀ s stamp, s.reachable = true → takeoverNow s = true →
    Runs (.operatorTakeover stamp) s [.flow, .upd, .loop, .steer] fun t => t.steer.engaged = false ∧ t.steer.enable = false ∧
      t.steer.takeoverBar = true ∧ t.steer.takeoverAt = s.tm.mono ∧ t.steer.takeoverCount = inc32 s.steer.takeoverCount ∧
      (s.steer.engaged = true → Disengaged 1 2 s t)) ∧
  (∀ s stamp, takeoverNow s = false → exec (.operatorTakeover stamp) s = .next s) ∧
  (∀ s, s.steer.takeoverAt + 1000000000 ≤ s.tm.mono → Runs .takeoverRefusalEnd s [.steer] fun t => t.steer = { s.steer with takeoverBar := false }) ∧
  (∀ s, s.tm.mono < s.steer.takeoverAt + 1000000000 → exec .takeoverRefusalEnd s = .next s) ∧
  (∀ s, s.reachable = true → condMet s 3 = true →
    Runs .seatLowExpiry s [.flow, .upd, .loop, .steer] fun t => t.steer.engaged = false ∧ t.steer.enable = false ∧ 3 ∈ t.steer.conds ∧
      (s.steer.engaged = true → Disengaged 3 2 s t)) ∧
  (∀ s, s.reachable = true → condMet s 4 = true →
    Runs .wheelAngleDisagree s [.flow, .upd, .loop, .steer] fun t => t.steer.engaged = false ∧ t.steer.enable = false ∧ 4 ∈ t.steer.conds ∧
      (s.steer.engaged = true → Disengaged 4 2 s t)) ∧
  (∀ s, s.reachable = true → condMet s 5 = true → Runs .runawayExpiry s [.flow, .upd, .loop, .steer] (Disengaged 5 2 s)) ∧
  (∀ s, s.reachable = true → condMet s 6 = true →
    Runs .steerOverspeedExpiry s [.flow, .upd, .loop, .steer] fun t => t.steer.engaged = false ∧ t.steer.enable = false ∧ 6 ∈ t.steer.conds ∧
      (s.steer.engaged = true → Disengaged 6 2 s t)) ∧
  (∀ s, s.reachable = true → condMet s 7 = true → Runs .steerReverseTravel s [.flow, .upd, .loop, .steer] (Disengaged 7 2 s)) ∧
  (∀ s, (condMet s 3 = false → exec .seatLowExpiry s = .next s) ∧ (condMet s 4 = false → exec .wheelAngleDisagree s = .next s) ∧
    (condMet s 5 = false → exec .runawayExpiry s = .next s) ∧ (condMet s 6 = false → exec .steerOverspeedExpiry s = .next s) ∧
    (condMet s 7 = false → exec .steerReverseTravel s = .next s)) ∧
  (∀ s c, s.reachable = true → s.steer.engaged = true → s.steer.coast = some c →
    (c.1 + s.nat 0x3C00 0x1B * 1000000 ≤ s.tm.mono ∨ s.nat 0x3C00 0x1C * 100 * 65536 ≤ ((s.stOf 0).travel - c.2).natAbs) →
    Runs .coastExhausted s [.flow, .upd, .loop, .steer] (Disengaged 8 4 s))

/-- 08 R201: a request for SelectedMode is accepted when no refusal applies and the demand lies within the capture limit of the present angle:
steering is engaged, the function goes to Auto; otherwise RequestResult tells the refusal and Flowstone holds its record. A request for the
mode that runs changes nothing. The order of the refusals is the model's (log 27). -/
def Obligations.SteeringEngagement : Prop :=
  (∀ s k b, b = s.nat 0x3C10 1 → s.admits k 0x3C10 2 (.int 1) → s.steer.engaged = false → s.steer.mode = 0 → refusal (forRequest s b) b = none →
    ∀ e, modeInput (forRequest s b) b = some e →
      (demandWith (forRequest s b) e 0 - ((wheelAngle s 1).1 : Rat)).abs ≤ (s.nat 0x3C00 0x11 : Rat) →
    Written (.steerEngage (some k)) s k [.steer, .loop] fun t => t.steer.engaged = true ∧ t.steer.enable = true ∧ t.steer.goal = b ∧
      t.steer.alpha = 0 ∧ t.steer.result = 0 ∧ t.steer.c = ((wheelAngle s 1).1 : Rat) ∧
      (s.steerFn < s.loop.fn.length → (t.fnOf s.steerFn).next = some 2)) ∧
  (∀ s k b c, b = s.nat 0x3C10 1 → s.admits k 0x3C10 2 (.int 1) → s.steer.engaged = false → refusal (forRequest s b) b = some c →
    Written (.steerEngage (some k)) s k [.flow, .upd, .steer] fun t => t.steer = { s.steer with result := c } ∧
      Recorded ⟨0x6002, c, 0x04, leInt 4 (halfUp (match modeInput (forRequest s b) b with | some e => demandWith (forRequest s b) e 0 | none => 0)) ++
        leInt 4 (wheelAngle s 1).1, [], 0xFFFFFFFF, 0xF⟩ s t) ∧
  (∀ s k b e, b = s.nat 0x3C10 1 → s.admits k 0x3C10 2 (.int 1) → s.steer.engaged = false → refusal (forRequest s b) b = none →
    modeInput (forRequest s b) b = some e → (s.nat 0x3C00 0x11 : Rat) < (demandWith (forRequest s b) e 0 - ((wheelAngle s 1).1 : Rat)).abs →
    Written (.steerEngage (some k)) s k [.flow, .upd, .steer] fun t => t.steer = { s.steer with result := 0x10 }) ∧
  (∀ s, forRequest s 2 = s ∧ forRequest s 3 = s ∧
    (s.steer.mode ≠ 1 → s.steer.guide.turn ≠ 2 → (forRequest s 1).steer.guide.activePass = nearestPass s (guidedPoint s))) ∧
  (∀ s k, s.admits k 0x3C10 2 (.int 1) → s.steer.engaged = true → s.steer.mode = s.nat 0x3C10 1 → s.steer.goal = 0 →
    exec (.steerEngage (some k)) s = .next (((s.touch k).updSteer fun x => { x with result := 0 }).ack k)) ∧
  (∀ s, s.reachable = true → s.nat 0x3C00 0xC ≠ 0xFF → pinValid s (s.nat 0x3C00 0xC) = true →
    exec (.steerEngage none) s = .next (steerRequest s)) ∧
  (∀ s, (s.reachable = false ∨ s.nat 0x3C00 0xC = 0xFF ∨ pinValid s (s.nat 0x3C00 0xC) = false) → exec (.steerEngage none) s = .next s) ∧
  (∀ s k, s.admits k 0x3C10 2 (.int 0) → s.steer.engaged = true →
    Written (.steerDisengageCommand k) s k [.flow, .upd, .loop, .steer] fun t => t.steer.result = 0 ∧ t.steer.engaged = false ∧
      t.steer.enable = false ∧ t.steer.reason = 2) ∧
  (∀ s k, s.admits k 0x3C10 2 (.int 0) → s.steer.engaged = false →
    exec (.steerDisengageCommand k) s = .next (((s.touch k).updSteer fun x => { x with result := 0 }).ack k))

/-- 08 R199, R200, R205: lines, headland turns and the crop edge. -/
def Obligations.LinesTurnsAndEdge : Prop :=
  (∀ s k, s.admits k 0x3C20 0xB (.int 1) → exec (.lineSetA k) s = .next ((((s.touch k).put 0x3C20 2 (.int (guidedPoint s).1)).put 0x3C20 3
    (.int (guidedPoint s).2)).ack k)) ∧
  (∀ s k, s.admits k 0x3C20 0xB (.int 2) → exec (.lineSetB k) s = .next ((((s.touch k).put 0x3C20 4 (.int (guidedPoint s).1)).put 0x3C20 5
    (.int (guidedPoint s).2)).ack k)) ∧
  (∀ s k, s.admits k 0x3C20 0xB (.int 3) → exec (.curveRecordStart k) s = .next (((s.touch k).updSteer fun x =>
    { x with guide := { x.guide with record := some ([guidedPoint s], (s.stOf 0).travel) } }).ack k)) ∧
  (∀ s k l t, s.admits k 0x3C20 0xB (.int 4) → s.steer.guide.record = some (l, t) → exec (.curveRecordEnd k) s =
    .next ((((s.touch k).put 0x3C20 9 (.bytes (l.flatMap fun p => leInt 4 p.1 ++ leInt 4 p.2))).updSteer fun x =>
      { x with guide := { x.guide with record := none } }).ack k)) ∧
  (∀ s k, s.admits k 0x3C20 0xB (.int 5) → (inGnss s = false ∨ (s.steer.goal = 0 ∧ s.steer.guide.turn ≠ 2)) →
    exec (.nearestPass k 5) s = .next (((s.touch k).updSteer fun x =>
      { x with guide := { x.guide with activePass := nearestPass s (guidedPoint s) } }).ack k)) ∧
  (∀ s k, s.admits k 0x3C20 0xB (.int 5) → inGnss s = true → (s.steer.goal ≠ 0 ∨ s.steer.guide.turn = 2) →
    exec (.nearestPass k 5) s = .next ((s.touch k).deny k 0x08000022)) ∧
  (∀ s k, s.admits k 0x3C30 7 (.int 1) → s.steer.guide.turn ≠ 2 → turnAllowed s = true →
    Written (.turnNow k) s k [.steer] fun t => t.steer = { s.steer with guide := { s.steer.guide with
      turn := 2, turnSide := turnSide s, turnTarget := passBeside s.steer.guide (turnSide s) (1 + s.nat 0x3C30 3),
      turnPath := t.steer.guide.turnPath, heldAt := none } }) ∧
  (∀ s k, s.admits k 0x3C30 7 (.int 1) → s.steer.guide.turn = 2 → exec (.turnNow k) s = .next ((s.touch k).deny k 0x08000022)) ∧
  (∀ s k, s.admits k 0x3C30 7 (.int 2) → s.steer.guide.turn = 1 →
    exec (.turnCancel k) s = .next (((s.touch k).updSteer fun x => { x with guide := { x.guide with turn := 0 } }).ack k)) ∧
  (∀ s h, s.steer.guide.turn = 2 → s.steer.guide.heldAt = some h → h + 2000000000 ≤ s.tm.mono →
    Runs .turnComplete s [.steer] fun t => t.steer = { s.steer with guide := { s.steer.guide with
      turn := 3, activePass := s.steer.guide.turnTarget, turnsDone := inc32 s.steer.guide.turnsDone, turnPath := [], heldAt := none } }) ∧
  (∀ s, (s.steer.guide.turn ≠ 2 ∨ s.steer.guide.heldAt = none) → exec .turnComplete s = .next s) ∧
  (∀ s ch id stamp data, 1 ≤ ch → ch ≤ 8 → s.senses = true → ch = s.nat 0x3C38 1 → id = s.nat 0x3C38 2 → data.length = 8 →
    s.steer.edgeCounter ≠ some (fieldLe data 3 1) → s.nat 0x3C38 5 ≤ fieldLe data 2 1 → Runs (.edgeFrame ch id stamp data) s [.steer] fun t =>
      t.steer = { s.steer with edgeOffset := fieldInt data 0 2, edgeQuality := fieldLe data 2 1, edgeCounter := some (fieldLe data 3 1),
                               edgeValid := true, edgeAt := s.tm.mono }) ∧
  (∀ s ch id stamp data, 1 ≤ ch → ch ≤ 8 → s.senses = true → ch = s.nat 0x3C38 1 → id = s.nat 0x3C38 2 → data.length = 8 →
    s.steer.edgeCounter ≠ some (fieldLe data 3 1) → fieldLe data 2 1 < s.nat 0x3C38 5 → Runs (.edgeFrame ch id stamp data) s [.steer] fun t =>
      t.steer = { s.steer with edgeQuality := fieldLe data 2 1, edgeCounter := some (fieldLe data 3 1) }) ∧
  (∀ s ch id stamp data, 1 ≤ ch → ch ≤ 8 → s.senses = true → s.steer.edgeCounter = some (fieldLe data 3 1) →
    exec (.edgeFrame ch id stamp data) s = .next s) ∧
  (∀ s, Runs .edgeTimeout s [.steer] fun t => t.steer =
    { s.steer with edgeValid := s.steer.edgeValid && decide (s.tm.mono < s.steer.edgeAt + s.nat 0x3C38 4 * 1000000) })

/-! ## The optimiser (chapter 07) -/

/-- 07 R175–R177, R182, R185–R187: a block is judged when its reports are in, and with the last block the cycle is evaluated and ends, the
optimiser holding none; a suggestion is accepted, rejected or expires; a hold ends; a damage record is taken and assigned to the parcel
that crossed out of S6 before it, or counted as rejected; the writes of the configuration. A cycle that ends by a change of configuration
is the model's reading (log 28). -/
def Obligations.OptimiserCommands : Prop :=
  (∀ s c b, s.opt.cycle = some c → voidNow s = none → c.blocks.find? (fun b => b.judged.isNone && blockReady s b) = some b →
    (c.blocks.length ≠ 2 * c.set 0xF ∨ ∃ x ∈ c.blocks, x.id ≠ b.id ∧ x.judged = none) →
    Runs .blockJudged s [.opt] fun t => t.opt = { s.opt with cycle := some { c with blocks := c.blocks.map fun x =>
      if x.id = b.id then { x with judged := some (judgeBlock s c b) } else x } }) ∧
  (∀ s c b, s.opt.cycle = some c → voidNow s = none → c.blocks.find? (fun b => b.judged.isNone && blockReady s b) = some b →
    c.blocks.length = 2 * c.set 0xF → (∀ x ∈ c.blocks, x.id = b.id ∨ x.judged.isSome = true) →
    ∃ t, exec .blockJudged s = .next t ∧ t.opt.cycle = none ∧ t.opt.void = none ∧ t.opt.reps = []) ∧
  (∀ s c v, s.opt.cycle = some c → voidNow s = some v →
    ∃ t, exec .blockJudged s = .next t ∧ t.opt.cycle = none ∧ t.opt.void = none ∧ t.opt.voids = inc32 s.opt.voids) ∧
  (∀ s k j, j < 8 → s.admits k (0x3A10 + j) 0xF (.int 1) → (s.oslot j).sugState = 1 →
    exec (.suggestionAccept k j) s = .next (((s.touch k).updOslot j fun x => { x with accepted := true }).ack k)) ∧
  (∀ s k j, j < 8 → s.admits k (0x3A10 + j) 0xF (.int 1) → (s.oslot j).sugState ≠ 1 →
    exec (.suggestionAccept k j) s = .next ((s.touch k).deny k 0x08000022)) ∧
  (∀ s k j, j < 8 → s.admits k (0x3A10 + j) 0xF (.int 2) → (s.oslot j).sugState = 1 →
    exec (.suggestionReject k j) s = .next (((s.touch k).updOslot j fun x => { x with sugState := 4, accepted := false }).ack k)) ∧
  (∀ s j, j < 8 → (s.oslot j).sugState = 1 → (s.oslot j).accepted = false → (s.oslot j).sugAt + s.nat 0x3A00 0x18 * 1000000000 ≤ s.tm.mono →
    Runs (.suggestionExpiry j) s [.opt] fun t => t.oslot j = { s.oslot j with sugState := 3 } ∧ ∀ i, i ≠ j → t.oslot i = s.oslot i) ∧
  (∀ s j, j < 8 → s.tm.mono < (s.oslot j).sugAt + s.nat 0x3A00 0x18 * 1000000000 →
    Runs (.suggestionExpiry j) s [.opt] fun t => ∀ i, t.oslot i = s.oslot i) ∧
  (∀ s j, j < 8 → (s.oslot j).heldAt + s.nat 0x3A00 0x17 * 1000000000 ≤ s.tm.mono →
    Runs (.operatorHoldExpiry j) s [.opt] fun t => t.oslot j = { s.oslot j with held := false } ∧ ∀ i, i ≠ j → t.oslot i = s.oslot i) ∧
  (∀ s j, j < 8 → s.tm.mono < (s.oslot j).heldAt + s.nat 0x3A00 0x17 * 1000000000 →
    Runs (.operatorHoldExpiry j) s [.opt] fun t => ∀ i, t.oslot i = s.oslot i) ∧
  (∀ s d, s.reachable = true → d.length = 16 → (fieldLe d 14 1).testBit 0 = true → (fieldLe d 14 1).testBit 1 = false →
    fieldLe d 0 8 ≤ s.tm.now → s.tm.now ≤ fieldLe d 0 8 + 2000000000 → Runs (.damageDatagram .e2 d) s [.opt] fun t =>
      t.opt.stale = false ∧ t.opt.damageAt = s.tm.mono ∧ t.opt.hubSeq = fieldLe d 12 2 ∧ t.opt.rejected = s.opt.rejected ∧
      match s.opt.s6.find? (fun e => decide ((e.1 : Int) ≤ (fieldLe d 0 8 : Int) - s.nat 0x3A00 0x1A * 1000000)) with
        | some e => t.opt.damage = addDamage s.opt.damage e.2 (fieldLe d 8 2) ∧ t.opt.foreign = addDamage s.opt.foreign e.2 (fieldLe d 10 2)
        | none => t.opt.damage = s.opt.damage ∧ t.opt.foreign = s.opt.foreign) ∧
  (∀ s d, s.reachable = true → (d.length ≠ 16 ∨ (fieldLe d 14 1).testBit 0 = false ∨ (fieldLe d 14 1).testBit 1 = true) →
    Runs (.damageDatagram .e2 d) s [.opt] fun t => t.opt = { s.opt with rejected := inc32 s.opt.rejected }) ∧
  (∀ s d, exec (.damageDatagram .e1 d) s = .next s) ∧
  (∀ s, s.opt.damageAt + 2000000000 ≤ s.tm.mono → Runs .damageStaleExpiry s [.opt] fun t => t.opt = { s.opt with stale := true }) ∧
  (∀ s k v, s.admits k 0x3A00 3 (.int v) → exec (.optConfigWrite k 3 v) s = .next (((s.touch k).put 0x3A00 3 (.int v)).ack k)) ∧
  (∀ s k, s.admits k 0x3A00 1 (.int 2) → s.flag 0x3A00 2 = false → exec (.optConfigWrite k 1 2) s = .next ((s.touch k).deny k 0x08000022)) ∧
  (∀ s k v, s.admits k 0x3A00 0x19 (.int v) →
    exec (.optConfigWrite k 0x19 v) s = .next (((((s.touch k).put 0x3A00 0x19 (.int v)).optVoid 0x16).optSettle).ack k)) ∧
  (∀ s k j v, j < 8 → s.admits k (0x3A10 + j) 8 (.int v) → (∀ c, s.opt.cycle = some c → c.slot ≠ j) →
    exec (.optSlotWrite k j 8 v) s = .next (((s.touch k).put (0x3A10 + j) 8 (.int v)).ack k)) ∧
  (∀ s k j v c, j < 8 → s.admits k (0x3A10 + j) 8 (.int v) → s.opt.cycle = some c → c.slot = j →
    exec (.optSlotWrite k j 8 v) s = .next ((s.touch k).deny k 0x08000022))

/-! ## Yield maps and the fleet link (chapter 09) -/

/-- 09 R212: the calibration of the mass flow by a weighed load: counting, emptying, weighing, the proposal and its answer. -/
def Obligations.LoadCalibration : Prop :=
  (∀ s k, s.admits k 0x3E00 0x10 (.int 1) → (s.yield.loadState = 0 ∨ s.yield.loadState = 4 ∨ s.yield.loadState = 5) →
    exec (.loadStart k) s = .next (((s.touch k).updYield fun y => { y with loadState := 1, loadMass := 0 }).ack k)) ∧
  (∀ s k, s.admits k 0x3E00 0x10 (.int 1) → (s.yield.loadState = 1 ∨ s.yield.loadState = 2 ∨ s.yield.loadState = 3) →
    exec (.loadStart k) s = .next ((s.touch k).deny k 0x08000022)) ∧
  (∀ s k, s.admits k 0x3E00 0x10 (.int 2) → s.yield.loadState = 1 →
    exec (.loadEmpty k) s = .next (((s.touch k).updYield fun y => { y with loadState := 2, emptyAt := s.tm.mono }).ack k)) ∧
  (∀ s, s.yield.loadState = 2 → (inStation s.pas.ring 5 = [] ∧ inStation s.pas.ring 6 = []) ∨ s.yield.emptyAt + 30000000000 ≤ s.tm.mono →
    Runs .loadEmptied s [.yield] fun t => t.yield = { s.yield with loadState := 3 }) ∧
  (∀ s, s.yield.loadState = 2 → inStation s.pas.ring 5 ≠ [] → s.tm.mono < s.yield.emptyAt + 30000000000 → exec .loadEmptied s = .next s) ∧
  (∀ s k g p, dictWf s.dict = true → s.admits k 0x3E00 0x13 (.int g) → s.yield.loadState = 3 → p = divQ (s.nat 0x4880 7 * g.toNat : Nat) s.yield.loadMass →
    (1000000 ≤ s.yield.loadMass ∧ 800 ≤ p ∧ p ≤ 1250 → Written (.weighedMassWrite k g) s k [.yield, .dict] fun t =>
      t.dict = ((s.touch k).put 0x3E00 0x13 (.int g)).dict ∧ t.yield = { s.yield with loadState := 4, proposed := (halfUp p).toNat }) ∧
    (s.yield.loadMass < 1000000 ∨ p < 800 ∨ 1250 < p → Written (.weighedMassWrite k g) s k [.yield, .dict] fun t =>
      t.yield = { s.yield with loadState := 5 })) ∧
  (∀ s k, s.admits k 0x3E00 0x10 (.int 3) → s.yield.loadState = 4 →
    exec (.loadAccept k) s = .next (((((s.touch k).put 0x4880 7 (.int s.yield.proposed)).commit 2 (keyOf 0x4880 7) (.int s.yield.proposed)).updYield
      fun y => { y with loadState := 0 }).ack k)) ∧
  (∀ s k, s.admits k 0x3E00 0x10 (.int 3) → s.yield.loadState ≠ 4 → exec (.loadAccept k) s = .next ((s.touch k).deny k 0x08000022)) ∧
  (∀ s k, s.admits k 0x3E00 0x10 (.int 4) → exec (.loadDiscard k) s = .next (((s.touch k).updYield fun y => { y with loadState := 0 }).ack k))

/-- 09 R213, R216, R217: a field opens with an empty map, its totals 0 and its origin not yet set, and closes; a prior tile is kept when its
check value holds and it is newer than the one held; documentation of an ended task is published once. -/
def Obligations.FieldsAndTiles : Prop :=
  (∀ s k, s.admits k 0x3E00 8 (.int 1) → s.yield.task = false → s.yield.field = none → Written (.mapOpen (.session k)) s k [.yield] fun t =>
    t.yield.field = some (0x80000000 + s.yield.opened) ∧ t.yield.opened = s.yield.opened + 1 ∧ t.yield.tiles = [] ∧ t.yield.originSet = false ∧
    t.yield.wet = 0 ∧ t.yield.dry = 0 ∧ t.yield.area = 0 ∧ t.yield.missing = 0) ∧
  (∀ s k, s.admits k 0x3E00 8 (.int 1) → s.yield.task = true → exec (.mapOpen (.session k)) s = .next ((s.touch k).deny k 0x08000022)) ∧
  (∀ s f, publishing s = true → s.yield.field = none → Runs (.mapOpen (.task f)) s [.yield, .opt] fun t => t.yield.field = some f ∧
    t.yield.task = true ∧ t.yield.tiles = [] ∧ t.yield.log = [] ∧ t.yield.wet = 0 ∧ t.opt.settleAt = s.pas.nextParcel) ∧
  (∀ s k, s.admits k 0x3E00 8 (.int 2) → s.yield.task = false → Written (.mapClose (.session k)) s k [.yield, .fleet] fun t =>
    t.yield.field = none ∧ t.yield.docDue = s.yield.docDue) ∧
  (∀ s f, s.yield.task = true → s.yield.field = some f → Runs (.mapClose (.task f)) s [.yield, .fleet] fun t => t.yield.field = none ∧
    t.yield.task = false ∧ t.yield.docDue = true) ∧
  (∀ s b, publishing s = true → s.fleet.link = 2 → tileCheckOk b = true → s.yield.prior.find? (fun p => tileKey p == tileKey b) = none →
    Runs (.priorTile b) s [.yield] fun t => t.yield = { s.yield with prior := s.yield.prior ++ [b] }) ∧
  (∀ s b p, publishing s = true → s.fleet.link = 2 → tileCheckOk b = true → s.yield.prior.find? (fun p => tileKey p == tileKey b) = some p →
    fieldLe p 8 4 < fieldLe b 8 4 → Runs (.priorTile b) s [.yield] fun t =>
      t.yield = { s.yield with prior := s.yield.prior.map fun p => if tileKey p = tileKey b then b else p }) ∧
  (∀ s b, tileCheckOk b = false → exec (.priorTile b) s = .next s) ∧
  (∀ s f, s.yield.docDue = true → Runs (.docPublish f) s [.yield, .fleet] fun t => t.yield = { s.yield with docDue := false, log := [] } ∧
    t.fleet = (fleetSend 5 none f s.tm.now s).fleet)

/-- 09 R218–R221: the link's connection, loss and reconnection, and what is published: at once while connected, where the message carries
the header of Table 09-5; a message that must arrive waits in the queue while the link is down; a link that is off carries nothing. That
the broker acknowledges at once is the model's (log 29). -/
def Obligations.FleetLink : Prop :=
  (∀ s, fleetWanted s = true → s.fleet.link ≤ 1 → Runs .fleetConnect s [.fleet] fun t => t.fleet.link = 2 ∧ t.fleet.wait = 1 ∧
    t.fleet.queue = [] ∧ t.fleet.cfg = (rangeFrom 2 6).map (s.val 0x3E20)) ∧
  (∀ s, fleetWanted s = true → 3 ≤ s.fleet.link → Runs (.fleetReconnectExpiry true) s [.fleet] fun t => t.fleet.link = 2 ∧ t.fleet.queue = []) ∧
  (∀ s, fleetWanted s = true → s.fleet.link = 3 → Runs (.fleetReconnectExpiry false) s [.fleet] fun t =>
    t.fleet = { s.fleet with wait := min 60 (2 * s.fleet.wait) }) ∧
  (∀ s a, s.fleet.link ≠ 0 → Runs (.fleetLinkLost a) s [.fleet] fun t =>
    t.fleet = { s.fleet with link := if a then 4 else 3, wait := if a then 300 else 1 }) ∧
  (∀ k tile p stamp s, s.fleet.link = 2 → Only [.fleet] s (fleetSend k tile p stamp s) ∧ (fleetSend k tile p stamp s).fleet =
    { s.fleet with seqs := s.fleet.seqs.set k (seqAdd (s.fleet.seqs.getD k 0) 1),
                   last := s.fleet.last.set k (topicName s k, fleetHeader (msgType k) (if k = 5 then 0 else p.length) (s.fleet.seqs.getD k 0) stamp ++ p) }) ∧
  (∀ k tile p stamp s, s.fleet.link = 0 → fleetSend k tile p stamp s = s) ∧
  (∀ k tile p stamp s, s.fleet.link ≠ 0 → s.fleet.link ≠ 2 → 2 ≤ k → k ≤ 5 →
    Only [.fleet] s (fleetSend k tile p stamp s) ∧ ∃ m ∈ (fleetSend k tile p stamp s).fleet.queue, m.topic = k ∧
      m.data = fleetHeader (msgType k) (if k = 5 then 0 else p.length) (s.fleet.seqs.getD k 0) stamp ++ p) ∧
  (∀ s, publishing s = true → s.fleet.link = 2 → exec .posePublish s = .next (fleetSend 0 none (poseRecord s.sky.pose.lat s.sky.pose.lon
    s.sky.pose.height s.sky.pose.speed s.sky.pose.heading (fixCode s) 1) s.sky.pose.stamp s)) ∧
  (∀ s, publishing s = true → s.fleet.batch ≠ [] → s.fleet.batch.length ≤ 256 → exec .parcelBatchPublish s =
    .next ((fleetSend 1 none s.fleet.batch.flatten s.tm.now s).updFleet fun f => { f with batch := f.batch.drop 256 })) ∧
  (∀ s e n x, publishing s = true → s.yield.field.isSome = true → s.yield.tiles.find? (fun t => t.e == e && t.n == n) = some x →
    x.dirty = true → x.sentAt = none → exec (.tilePublish e n) s = .next (publishTile x s)) ∧
  (∀ s o, publishing s = true → s.fleet.link ≠ 0 → s.fleet.setAt.getD (b2n o) none = none → setBytes (b2n o) s ≠ s.fleet.sets.getD (b2n o) [] →
    exec (.statePublish o) s = .next ((fleetSend (3 + b2n o) none (setBytes (b2n o) s) s.tm.now s).updFleet fun f =>
      { f with sets := f.sets.set (b2n o) (setBytes (b2n o) s), setAt := f.setAt.set (b2n o) (some s.tm.mono) })) ∧
  (∀ s, publishing s = true → s.fleet.link = 2 → s.flag 0x3C40 1 = true → s.steer.cart.report.isSome = true → s.steer.cart.stale = false →
    s.steer.cart.lowAccuracy = false → exec .unloadMessage s = .next (fleetSend 6 none (leInt 2 (clampI (-32768) 32767 s.steer.cart.angle) ++
      leInt 2 (clampI (-32768) 32767 s.steer.cart.relSpeed) ++ leInt 4 s.steer.cart.relLateral ++ leInt 4 s.steer.cart.relForward ++
      leBytes 4 (fleetId s)) s.tm.now s))

/-! ## Valve and solenoid drive (chapter 10) -/

/-- 10 R224–R227, R244: a bank's enable is granted where its conditions hold and starts the resume with the bank's first channel; withdrawing it
takes every channel of the bank out of drive; a guard timer runs from the grant, ends with the enable and runs on through a loss
of the supply; the supplies come 20 ms after the last report of a condition, go and fault. What a supply read during a rail fault and after
its return is no input of the model (log 30). -/
def Obligations.BanksAndSupplies : Prop :=
  (∀ s b, b < 6 → bankMay s b = true → (s.vbank b).enable = false →
    exec (.bankEnable b true) s = .next (s.updBank b fun x =>
      { x with enable := true, resume := some 0, guardDue := some (x.guardDue.getD (s.tm.mono + s.nat (0x4040 + b) 2 * 1000000)) })) ∧
  (∀ s b, b < 6 → bankMay s b = false → exec (.bankEnable b true) s = .next s) ∧
  (∀ s b, b < 6 → (s.vbank b).enable = true → Runs (.bankEnable b false) s [.valve] fun t => (t.vbank b).enable = false ∧
    (t.vbank b).resume = none ∧ (t.vbank b).guardDue = none ∧ (∀ n ∈ bankChans b, (t.vch n).live = false ∧ (t.vch n).duty = 0) ∧
    ∀ n, n ∉ bankChans b → t.vch n = s.vch n) ∧
  (∀ s b k n, b < 6 → (s.vbank b).resume = some k → (bankChans b)[k]? = some n → n < s.valve.ch.length →
    Runs (.bankResumeSlot b) s [.valve, .free, .flow, .upd] fun t => (t.vch n).live = true ∧
      (t.vbank b).resume = (if k + 1 < (bankChans b).length then some (k + 1) else none) ∧ ∀ m, m ≠ n → t.vch m = s.vch m) ∧
  (∀ s b, b < 6 → (s.vbank b).resume = none → exec (.bankResumeSlot b) s = .next s) ∧
  (∀ s k high mV, k < 2 → s.reachable = true → (s.vsup k).present = true →
    Runs (.driveSupplyNotPresent k high mV) s [.valve, .loop, .lead, .steer, .flow, .upd] fun t => (t.vsup k).present = false ∧
      (t.vsup k).low = !high ∧ (t.vsup k).mV = mV ∧ (t.vsup k).offAt = s.tm.mono ∧ (t.vsup k).offCount = inc32 (s.vsup k).offCount ∧
      (∀ b ∈ supplyBanks k, (t.vbank b).enable = false ∧ (t.vbank b).guardDue = (s.vbank b).guardDue) ∧ (k = 1 → (t.vsup 2).present = false)) ∧
  (∀ s k, k < 2 → s.reachable = true → (s.vsup k).present = false → (s.vsup k).condAt + 20000000 ≤ s.tm.mono →
    k < s.valve.sup.length → Runs (.driveSupplyPresent k) s [.valve, .free, .flow, .upd] fun t => (t.vsup k).present = true ∧ (t.vsup k).low = false ∧
      (t.vsup k).overV = false ∧ t.valve.bank = s.valve.bank ∧ t.valve.ch = s.valve.ch ∧
      ((s.vsup k).seen = true → Recorded (supplyBack k (s.vsup k).offMin (s.tm.mono - (s.vsup k).offAt)) s t)) ∧
  (∀ s k, k < 2 → s.tm.mono < (s.vsup k).condAt + 20000000 → exec (.driveSupplyPresent k) s = .next s) ∧
  (∀ s, s.reachable = true → (s.vsup 2).fault = false → 2 < s.valve.sup.length →
    Runs .railFault s [.valve, .flow, .upd] fun t => (t.vsup 2).fault = true ∧ (t.vsup 2).offCount = inc32 (s.vsup 2).offCount ∧
      ∀ n, 16 ≤ n → n < 32 → (t.vch n).phase ≠ 1 ∧ ((s.vch n).phase = 1 → (t.vch n).rejected = true ∧ (t.vch n).blocked = true)) ∧
  (∀ s, (s.vsup 2).fault = true → Runs .railFaultClear s [.valve, .free, .flow, .upd] fun t => (t.vsup 2).fault = false ∧
    t.valve.ch = s.valve.ch ∧ t.valve.bank = s.valve.bank) ∧
  (∀ s k b, b < 6 → s.admits k (0x4040 + b) 9 (.int 1) → (s.vbank b).latched = true → (∀ n ∈ bankChans b, (s.vch n).cmd = 0) →
    (∀ n ∈ bankChans b, (s.vch n).uncommanded = true → (s.vch n).offOk = true) → Written (.bankCommand k b 1) s k [.valve, .flow, .upd] fun t =>
      (t.vbank b).latched = false ∧ (t.vbank b).hsTrip = false ∧ ∀ n ∈ bankChans b, (t.vch n).uncommanded = false) ∧
  (∀ s k b, b < 6 → s.admits k (0x4040 + b) 9 (.int 1) → (s.vbank b).latched = true → (∃ n ∈ bankChans b, (s.vch n).cmd ≠ 0) →
    exec (.bankCommand k b 1) s = .next ((s.touch k).deny k 0x08000022))

/-- 10 R228, R229, R231, R236, R240: one regulation period drives no channel that may not be driven, keeps the duty between 0 and 0.98 and the
target at CurrentLimit at most; the thermal limit of a switching channel cuts its hold; CoilTemp is BoardTemp without CoilRefRes, relaxes
toward BoardTemp below 200 mA, which a switching channel carries in Off and Waiting (log 72), follows a measurement above it and else holds
(log 72), and a proportional channel is limited while its coil is hot; STUCK follows the sensed travel. -/
def Obligations.PvAndCoils : Prop :=
  (∀ s x, s.reachable = true → Runs (.pvRegulationPeriod x) s [.valve] fun t => t.valve.bank = s.valve.bank ∧ t.valve.sup = s.valve.sup ∧
    (∀ n, 16 ≤ n → t.vch n = s.vch n) ∧ ∀ n < 16, n < s.valve.ch.length → t.vch n = pvPeriod x s n (s.vch n) ∧
      0 ≤ (t.vch n).duty ∧ (t.vch n).duty ≤ 98 / 100 ∧ (t.vch n).target ≤ s.nat (0x4000 + n) 0x10 ∧
      (chanPowered s n = false → (t.vch n).duty = 0 ∧ (t.vch n).acc = 0)) ∧
  (∀ s n, 16 ≤ n → n < 32 → (s.vch n).phase ≠ 0 → ((s.vch n).thermal = false ∨ (s.vch n).cut = false) →
    s.int (0x4000 + n) 7 * 10 ≤ (s.vch n).coilTemp →
    Runs (.svThermalLimit n) s [.valve, .flow, .upd] fun t => t.vch n = { s.vch n with thermal := true, cut := true } ∧
      (∀ m, m ≠ n → t.vch m = s.vch m) ∧ Recorded ⟨0x7001, n, teOf n, leBytes 2 (channelStatus t n), [], 0xFFFFFFFF, 0xF⟩ s t) ∧
  (∀ s n, 16 ≤ n → n < 32 → (s.vch n).phase = 0 ∨ (s.vch n).coilTemp < s.int (0x4000 + n) 7 * 10 → exec (.svThermalLimit n) s = .next s) ∧
  (∀ s n r x, n < 32 → n < s.valve.ch.length → s.reachable = true → s.nat (0x4000 + n) 5 ≠ 0 → coilCold (s.vch n) n = false →
    Runs (.coilTempUpdate n (some r) x) s [.valve, .flow, .upd] fun t => (t.vch n).coilTemp = coilTempOf r (s.nat (0x4000 + n) 5) ∧
      (t.vch n).coilRes = r ∧ (n < 16 → s.int (0x4000 + n) 7 * 10 ≤ (t.vch n).coilTemp → (t.vch n).thermal = true) ∧
      (n < 16 → (t.vch n).coilTemp < s.int (0x4000 + n) 7 * 10 - 100 → (t.vch n).thermal = false)) ∧
  (∀ s n r x, n < 32 → n < s.valve.ch.length → s.reachable = true →
    Runs (.coilTempUpdate n r x) s [.valve, .flow, .upd] fun t =>
      (bankOf n < s.valve.bank.length → (t.vbank (bankOf n)).boardTemp = x) ∧
      (s.nat (0x4000 + n) 5 = 0 → (t.vch n).coilTemp = x ∧ (t.vch n).coilRes = (s.vch n).coilRes) ∧
      (s.nat (0x4000 + n) 5 ≠ 0 → coilCold (s.vch n) n = true → (t.vch n).coilRes = (s.vch n).coilRes ∧ (t.vch n).coilTemp =
        relaxed (s.vch n).tempFrom (s.vch n).tempBoard (s.tm.mono - (s.vch n).tempAt) (s.nat (0x4000 + n) 6)) ∧
      (s.nat (0x4000 + n) 5 ≠ 0 → coilCold (s.vch n) n = false → r = none →
        (t.vch n).coilTemp = (s.vch n).coilTemp ∧ (t.vch n).coilRes = (s.vch n).coilRes)) ∧
  (∀ s n c d, n < 16 → n < s.valve.ch.length → s.nat (0x4000 + n) 0x18 ≠ 0xFF → (s.vch n).stuck = false → s.nat (0x4000 + n) 0x19 ≤ c →
    d < s.nat (0x4000 + n) 0x1A → Runs (.stuck n c d) s [.valve, .flow, .upd] fun t => t.vch n = { s.vch n with stuck := true } ∧
      (∀ m, m ≠ n → t.vch m = s.vch m) ∧ Recorded ⟨0x7008, n, teOf n, leBytes 2 c ++ leBytes 2 d, [], 0xFFFFFFFF, 0xF⟩ s t) ∧
  (∀ s n c d, n < 16 → s.nat (0x4000 + n) 0x18 ≠ 0xFF → (s.vch n).stuck = true → s.nat (0x4000 + n) 0x1A ≤ d →
    Runs (.stuck n c d) s [.valve, .flow, .upd] fun t => t.vch n = { s.vch n with stuck := false } ∧
      (∀ m, m ≠ n → t.vch m = s.vch m) ∧ Recorded ⟨0x7009, n, teOf n, leBytes 2 c ++ leBytes 2 d, [], 0xFFFFFFFF, 0xF⟩ s t) ∧
  (∀ s n c d, n < 16 → s.nat (0x4000 + n) 0x18 = 0xFF → exec (.stuck n c d) s = .next s)

/-- 10 R232–R239: the phases of a switching channel's profile: Boost ends in Peak, or in Hold with PEAK_TIME 0, also at BOOST_TIME_MAX; Peak ends
in Hold, a pulse in Quench, Quench in Off; the bank's boost goes to the profile that has waited longest; a request that waited too long is
rejected; an overlap with the mean current away from its target is distorted; a movement is measured or missed. -/
def Obligations.SvProfiles : Prop :=
  (∀ s n time, 16 ≤ n → n < 32 → (s.vch n).phase = 2 → Runs (.svBoostEnd n time) s [.valve] fun t => t.vch n =
    { s.vch n with boostTime := min ((time - (s.vch n).phaseAt) / 1000) 65535, phase := if (s.vch n).prof.getD 2 0 = 0 then 4 else 3,
                   phaseAt := time, distorted := false, lowMean := false } ∧ ∀ m, m ≠ n → t.vch m = s.vch m) ∧
  (∀ s n mA, 16 ≤ n → n < 32 → (s.vch n).phase = 2 → (s.vch n).phaseAt + (s.vch n).prof.getD 3 0 * 1000 ≤ s.tm.now + 100000 →
    Runs (.boostTimeout n mA) s [.valve, .flow, .upd] fun t => t.vch n =
    { s.vch n with boostTime := (s.vch n).prof.getD 3 0, phase := if (s.vch n).prof.getD 2 0 = 0 then 4 else 3,
                   phaseAt := (s.vch n).phaseAt + (s.vch n).prof.getD 3 0 * 1000, distorted := false, lowMean := false } ∧ (∀ m, m ≠ n → t.vch m = s.vch m) ∧
    Recorded ⟨0x700A, n, teOf n, leBytes 2 mA ++ leBytes 2 ((s.vch n).prof.getD 3 0), [], 0xFFFFFFFF, 0xF⟩ s t) ∧
  (∀ s n, 16 ≤ n → n < 32 → (s.vch n).phase = 3 → (s.vch n).phaseAt + (s.vch n).prof.getD 2 0 * 10000 ≤ s.tm.now + 100000 → Runs (.svPeakEnd n) s [.valve] fun t => t.vch n =
    { s.vch n with phase := 4, phaseAt := (s.vch n).phaseAt + (s.vch n).prof.getD 2 0 * 10000, distorted := false, lowMean := false } ∧ ∀ m, m ≠ n → t.vch m = s.vch m) ∧
  (∀ s n, 16 ≤ n → n < 32 → (s.vch n).phase = 4 → s.nat (0x4000 + n) 0x20 = 1 → (s.vch n).guardCmd = none →
    safeHoldOn s n = false → (s.vch n).edgeAt + s.nat (0x4000 + n) 0x21 * 1000000 ≤ s.tm.now + 100000 → Runs (.svPulseHoldExpiry n) s [.valve] fun t => t.vch n =
      { s.vch n with phase := 5, phaseAt := (s.vch n).edgeAt + s.nat (0x4000 + n) 0x21 * 1000000, distorted := false, lowMean := false } ∧ ∀ m, m ≠ n → t.vch m = s.vch m) ∧
  (∀ s n, 16 ≤ n → n < 32 → (s.vch n).phase = 5 → Runs (.svQuenchEnd n) s [.valve] fun t => t.vch n =
    { s.vch n with phase := 0, phaseAt := s.tm.now, distorted := false, lowMean := false } ∧ ∀ m, m ≠ n → t.vch m = s.vch m) ∧
  (∀ s b n time, 2 ≤ b → b < 6 → nextWaiting s b = some n → (∀ m ∈ bankChans b, (s.vch m).phase ≠ 2) → (s.vsup 2).fault = false →
    n < s.valve.ch.length → Runs (.svBoostGranted b time) s [.valve] fun t => t.vch n =
      { s.vch n with phase := 2, phaseAt := (time + 49999) / 50000 * 50000, distorted := false, lowMean := false,
                     boostDelay := min (((time + 49999) / 50000 * 50000 - (s.vch n).startAt) / 1000) 65535 } ∧
      (t.vsup 2).below = false ∧ ∀ m, m ≠ n → t.vch m = s.vch m) ∧
  (∀ s b n, nextWaiting s b = some n → n ∈ bankChans b ∧ (s.vch n).phase = 1 ∧
    ∀ m ∈ bankChans b, (s.vch m).phase = 1 → (s.vch n).startAt ≤ (s.vch m).startAt) ∧
  (∀ s n time, 16 ≤ n → n < 32 → (s.vch n).phase = 1 → ((s.vsup 2).fault = true ∨
      (s.vch n).startAt + s.nat (0x4040 + bankOf n) 3 * 1000 ≤ time) →
    Runs (.boostRejected n time) s [.valve, .flow, .upd] fun t => (t.vch n).phase = 0 ∧ (t.vch n).rejected = true ∧
      (t.vch n).headroom = true ∧ (t.vch n).blocked = true ∧ (∀ m, m ≠ n → t.vch m = s.vch m) ∧
      (bankOf n < s.valve.bank.length → (t.vbank (bankOf n)).rejects = inc32 (s.vbank (bankOf n)).rejects)) ∧
  (∀ s n mean tgt, 16 ≤ n → n < 32 → ((s.vch n).phase = 3 ∧ tgt = (s.vch n).prof.getD 0 0 ∨ (s.vch n).phase = 4 ∧ tgt = holdTarget s n) →
    leading s (bankOf n) ≠ some n → (s.vch n).phaseAt + 1000000 ≤ s.tm.now / 1000000 * 1000000 → Runs (.overlapCheck n mean) s [.valve, .flow, .upd] fun t => (t.vch n).mA = mean ∧
      (t.vch n).distorted = decide (max ((s.nat (0x4040 + bankOf n) 4 : Rat) * tgt / 32768) 50 < (((mean : Int) - tgt).natAbs : Rat)) ∧
      ∀ m, m ≠ n → t.vch m = s.vch m) ∧
  (∀ s n mean, 16 ≤ n → n < 32 → n < s.valve.ch.length → ((s.vch n).phase ≠ 3 ∧ (s.vch n).phase ≠ 4 ∨ leading s (bankOf n) = some n ∨
      s.tm.now / 1000000 * 1000000 < (s.vch n).phaseAt + 1000000) → Runs (.overlapCheck n mean) s [.valve] fun t =>
    (t.vch n).distorted = false ∧ (t.vch n).lowMean = false ∧ (t.vch n).mA = (s.vch n).mA ∧ ∀ m, m ≠ n → t.vch m = s.vch m) ∧
  (∀ s n t0, 16 ≤ n → n < 32 → n < s.valve.ch.length → s.flag (0x4000 + n) 0x24 = true → (s.vch n).stuck = false →
    Runs (.moveDetect n (some t0)) s [.valve] fun t => t.vch n = { s.vch n with moveTime := t0, stuck := false } ∧ ∀ m, m ≠ n → t.vch m = s.vch m) ∧
  (∀ s n, 16 ≤ n → n < 32 → n < s.valve.ch.length → s.flag (0x4000 + n) 0x24 = true →
    Runs (.moveDetect n none) s [.valve, .flow, .upd] fun t => t.vch n = { s.vch n with moveTime := 0xFFFF, stuck := true } ∧
      (∀ m, m ≠ n → t.vch m = s.vch m) ∧ Recorded ⟨0x700B, n, teOf n, leBytes 2 (s.vch n).boostTime, [], 0xFFFFFFFF, 0xF⟩ s t)

/-- 10 R244, Table 10-7: a stage fault takes its channel out of drive: a proportional channel's duty is 0, a switching channel leaves
Waiting, Boost, Peak and Hold; the third trip within 10 s latches; a latched bank loses its enable; a fault that clears leaves the other
channels as they stand; and FaultCommand clears a latched channel whose command is off. -/
def Obligations.StageFaults : Prop :=
  (∀ s n, n < 32 → n < s.valve.ch.length → chanPowered s n = true →
    Runs (.valveOvercurrent n) s [.valve, .loop, .lead, .steer, .flow, .upd] fun t => (t.vch n).trip = true ∧
      (t.vch n).tripCount = inc32 (s.vch n).tripCount ∧
      (t.vch n).latched = ((s.vch n).latched || decide (3 ≤ (addTrip (s.vch n).trips s.tm.mono).length)) ∧
      (n < 16 → (t.vch n).duty = 0) ∧ (16 ≤ n → (t.vch n).phase ≠ 1 ∧ (t.vch n).phase ≠ 2 ∧ (t.vch n).phase ≠ 3 ∧ (t.vch n).phase ≠ 4) ∧
      ∀ m, m ≠ n → t.vch m = s.vch m) ∧
  (∀ s n, n < 32 → chanPowered s n = false → exec (.valveOvercurrent n) s = .next s) ∧
  (∀ s n, n < 32 → (s.vch n).trip = true → (s.vch n).latched = false → (s.vch n).trips.headD 0 + 100000000 ≤ s.tm.mono →
    Runs (.valveTripRetry n) s [.valve, .free, .flow, .upd] fun t => (t.vch n).trip = false ∧ ∀ m, m ≠ n → t.vch m = s.vch m) ∧
  (∀ s n, n < 32 → (s.vch n).trip = false ∨ s.tm.mono < (s.vch n).trips.headD 0 + 100000000 →
    (s.vbank (bankOf n)).hsTrip = false ∨ s.tm.mono < (s.vbank (bankOf n)).trips.headD 0 + 100000000 → exec (.valveTripRetry n) s = .next s) ∧
  (∀ s b, b < 2 → exec (.highSideTrip b) s = .next s) ∧
  (∀ s b, 2 ≤ b → b < 6 → (s.vbank b).enable = true → (s.vbank b).hsTrip = false →
    Runs (.highSideTrip b) s [.valve, .loop, .lead, .steer, .flow, .upd] fun t => (t.vbank b).hsTrip = true ∧
      ((addTrip (s.vbank b).trips s.tm.mono).length < 3 → (t.vbank b).enable = true ∧ (t.vbank b).latched = (s.vbank b).latched) ∧
      (3 ≤ (addTrip (s.vbank b).trips s.tm.mono).length → (t.vbank b).enable = false ∧ (t.vbank b).latched = true)) ∧
  (∀ s n, n < 32 → n < s.valve.ch.length → s.reachable = true → (s.vbank (bankOf n)).enable = true → chanIdle s n = true →
    Runs (.uncommandedCurrent n) s [.valve, .loop, .lead, .steer, .flow, .upd] fun t => (t.vch n).uncommanded = true ∧ (t.vch n).offOk = false ∧
      (t.vbank (bankOf n)).latched = true ∧ (t.vbank (bankOf n)).enable = false) ∧
  (∀ s n, n < 32 → n < s.valve.ch.length → s.reachable = true → chanOff s n = true → (s.vch n).openLoad = false →
    Runs (.offStateTest n .pass) s [.valve] fun t => t.vch n = { s.vch n with offOk := true } ∧ ∀ m, m ≠ n → t.vch m = s.vch m) ∧
  (∀ s n, n < 32 → n < s.valve.ch.length → s.reachable = true → chanOff s n = true → (s.vch n).openLoad = false →
    Runs (.offStateTest n .openLoad) s [.valve, .flow, .upd] fun t => (t.vch n).offOk = true ∧ (t.vch n).openLoad = true ∧
      ∀ m, m ≠ n → t.vch m = s.vch m) ∧
  (∀ s n, n < 32 → n < s.valve.ch.length → (s.vch n).openLoad = false → chanPowered s n = true →
    (n < 16 ∧ 0 < (s.vch n).eff ∨ 16 ≤ n ∧ (s.vch n).phase = 4) →
    Runs (.openLoadDriven n true) s [.valve, .loop, .lead, .steer, .flow, .upd] fun t => (t.vch n).openLoad = true ∧ (t.vch n).headroom = true ∧
      ∀ m, m ≠ n → t.vch m = s.vch m) ∧
  (∀ s n, n < 32 → (s.vch n).openLoad = true → Runs (.openLoadDriven n false) s [.valve, .flow, .upd] fun t => (t.vch n).openLoad = false ∧
    ∀ m, m ≠ n → t.vch m = s.vch m) ∧
  (∀ s n, n < 32 → n < s.valve.ch.length → s.reachable = true → (s.vch n).shorted = false →
    ((s.vch n).coilRes ≠ 0 ∧ 2 * (s.vch n).coilRes < s.nat (0x4000 + n) 5 ∨
      16 ≤ n ∧ ((s.vch n).phase = 3 ∨ (s.vch n).phase = 4) ∧ (s.vch n).boostTime < 50) →
    Runs (.shortedCoil n) s [.valve, .loop, .lead, .steer, .flow, .upd] fun t => (t.vch n).shorted = true ∧ (t.vch n).latched = true ∧
      (n < 16 → (t.vch n).duty = 0) ∧ ∀ m, m ≠ n → t.vch m = s.vch m) ∧
  (∀ s n, n < 32 → n < s.valve.ch.length → s.reachable = true → (s.vch n).overtemp = false →
    Runs (.valveOvertempStage n true) s [.valve, .loop, .lead, .steer, .flow, .upd] fun t => (t.vch n).overtemp = true ∧
      (n < 16 → (t.vch n).duty = 0) ∧ ∀ m, m ≠ n → t.vch m = s.vch m) ∧
  (∀ s n k, n < 32 → s.admits k (0x4000 + n) 9 (.int 1) → (s.vch n).latched = true → (s.vch n).cmd = 0 →
    Written (.valveFaultCommand k n 1) s k [.valve, .flow, .upd] fun t => (t.vch n).latched = false ∧ (t.vch n).trip = false ∧
      (t.vch n).shorted = false ∧ (t.vch n).resumeAt = s.tm.mono + 1000000 ∧ ∀ m, m ≠ n → t.vch m = s.vch m) ∧
  (∀ s n k, n < 32 → s.admits k (0x4000 + n) 9 (.int 1) → (s.vch n).latched = true → (s.vch n).cmd ≠ 0 →
    exec (.valveFaultCommand k n 1) s = .next ((s.touch k).deny k 0x08000022))

/-- 10 R241–R243, R245, R247, R248: the guard imposes its commands on the channels of its bank and is lifted by ten latches; a test command
runs in Service on a channel that no context names, and ends at its timeout; the configuration is written; a good SENT frame gives its
signals, a bad one counts, and silence makes the input invalid. -/
def Obligations.GuardTestsAndSent : Prop :=
  (∀ s b, b < 6 → s.reachable = true → (s.vbank b).enable = true → (s.vbank b).guard = false →
    (∃ d, (s.vbank b).guardDue = some d ∧ d ≤ s.tm.mono + 100000) → Runs (.valveGuardExpiry b) s [.valve, .loop, .lead, .steer, .free, .flow, .upd] fun t => (t.vbank b).guard = true ∧ (t.vbank b).latches = 0 ∧
      (t.vbank b).guardCount = inc32 (s.vbank b).guardCount ∧
      (∀ n ∈ bankChans b, n < s.valve.ch.length → (t.vch n).guardCmd = some (guardChannel s n)) ∧ ∀ n, n ∉ bankChans b → t.vch n = s.vch n) ∧
  (∀ s b, b < 6 → (s.vbank b).guardDue = none → exec (.valveGuardExpiry b) s = .next s) ∧
  (∀ s b, b < 6 → (s.vbank b).guard = true → 10 ≤ (s.vbank b).latches →
    Runs (.valveGuardEnd b) s [.valve, .free, .flow, .upd] fun t => (t.vbank b).guard = false ∧ (t.vbank b).latches = 0 ∧
      (∀ n ∈ bankChans b, (t.vch n).guardCmd = none) ∧ ∀ n, n ∉ bankChans b → t.vch n = s.vch n) ∧
  (∀ s b, b < 6 → (s.vbank b).latches < 10 → exec (.valveGuardEnd b) s = .next s) ∧
  (∀ s n k v, n < 32 → n < s.valve.ch.length → s.admits k (0x4000 + n) 0xA (.int v) → (n < 16 ∨ v.toNat ≤ 1) → s.pw.dev = .service →
    chanNamed s n = false → Written (.testCommand k n v) s k [.valve, .free, .flow, .upd] fun t =>
      (t.vch n).test = some (v.toNat, k) ∧ ∀ m, m ≠ n → t.vch m = s.vch m) ∧
  (∀ s n k v, n < 32 → s.admits k (0x4000 + n) 0xA (.int v) → (n < 16 ∨ v.toNat ≤ 1) → (s.pw.dev ≠ .service ∨ chanNamed s n = true) →
    exec (.testCommand k n v) s = .next ((s.touch k).deny k 0x08000022)) ∧
  (∀ s n k v, 16 ≤ n → n < 32 → s.admits k (0x4000 + n) 0xA (.int v) → 1 < v.toNat →
    exec (.testCommand k n v) s = .next ((s.touch k).deny k 0x06090030)) ∧
  (∀ s n, n < 32 → (s.vch n).test.isSome = true → Runs (.testCommandTimeout n) s [.valve, .free, .flow, .upd] fun t =>
    (t.vch n).test = none ∧ ∀ m, m ≠ n → t.vch m = s.vch m) ∧
  (∀ s n k sub v, n < 32 → s.admits k (0x4000 + n) sub v → sub ≠ 9 → sub ≠ 0xA → sub ≠ 0x18 → sub ≠ 0x20 → sub ≠ 0x22 →
    exec (.valveConfigWrite k (0x4000 + n) sub v) s = .next (((s.touch k).put (0x4000 + n) sub v).ack k)) ∧
  (∀ s n k b, n < 32 → s.admits k (0x4000 + n) 0x22 (.bytes b) →
    exec (.valveConfigWrite k (0x4000 + n) 0x22 (.bytes b)) s = .next (if profileOk b then ((s.touch k).put (0x4000 + n) 0x22 (.bytes b)).ack k
      else (s.touch k).deny k 0x06090030)) ∧
  (∀ s n k v, n < 32 → s.admits k (0x4000 + n) 0x20 v → (s.vch n).phase ≠ 0 →
    exec (.valveConfigWrite k (0x4000 + n) 0x20 v) s = .next ((s.touch k).deny k 0x08000022)) ∧
  (∀ s i f, i < 16 → i < s.sens.sent.length → s.reachable = true → s.flag (0x48A0 + i) 1 = true → sentOk s i f = true →
    Runs (.sentFrame i f) s [.sens] fun t => (t.sens.sent.getD i {}).sig1 = nibbleNum (((f.nibbles.drop 1).take (s.nat (0x48A0 + i) 3)).take 3) ∧
      (t.sens.sent.getD i {}).nibble = f.nibbles.getD 0 0 ∧ (t.sens.sent.getD i {}).stamp = f.stamp ∧
      (t.sens.sent.getD i {}).good = min ((s.sens.sent.getD i {}).good + 1) 5 ∧ (t.sens.sent.getD i {}).bad = 0 ∧
      ∀ j, j ≠ i → t.sens.sent.getD j {} = s.sens.sent.getD j {}) ∧
  (∀ s i f, i < 16 → i < s.sens.sent.length → s.reachable = true → s.flag (0x48A0 + i) 1 = true → sentOk s i f = false →
    Runs (.sentFrame i f) s [.sens] fun t => (t.sens.sent.getD i {}).errors = inc32 (s.sens.sent.getD i {}).errors ∧
      (t.sens.sent.getD i {}).good = 0 ∧ (t.sens.sent.getD i {}).sig1 = (s.sens.sent.getD i {}).sig1 ∧
      (2 ≤ (s.sens.sent.getD i {}).bad → (t.sens.sent.getD i {}).ok = false ∧ (t.sens.sent.getD i {}).frameErrors = true) ∧
      ∀ j, j ≠ i → t.sens.sent.getD j {} = s.sens.sent.getD j {}) ∧
  (∀ s i, i < 16 → s.reachable = true → s.flag (0x48A0 + i) 1 = true →
    (s.sens.sent.getD i {}).stamp + s.nat (0x48A0 + i) 7 * 1000000 ≤ s.tm.now + 100000 →
    exec (.sentTimeout i) s = .next (s.updSent i fun x => { x with ok := false, good := 0, timeout := true }))

/-! ## 24 V field inputs and outputs (chapter 11) -/

/-- 11 R259–R262, R264, R268: a group's enable is granted where its conditions hold and starts the restore; withdrawn or with its supply
missing no pin of the group is on; the restore gives the output pins their slots one after the other; the third overload within 10 s latches
the group; the guard imposes what each pin's GuardState says. -/
def Obligations.FieldGroups : Prop :=
  (∀ s g, g < 4 → g < s.fio.grp.length → grpMay s g = true → (s.fgrp g).enable = false →
    Runs (.groupEnable g true) s [.fio] fun t => t.fgrp g = { s.fgrp g with
      enable := true, restoring := true, slot := 0, guardDue := some ((s.fgrp g).guardDue.getD (s.tm.mono + s.nat (0x4480 + g) 2 * 1000000)) } ∧
      (∀ n, grpOf n = g → pinOut t n = false) ∧ (∀ n, grpOf n ≠ g → t.fpin n = s.fpin n) ∧ ∀ h, h ≠ g → t.fgrp h = s.fgrp h) ∧
  (∀ s g, g < 4 → grpMay s g = false → exec (.groupEnable g true) s = .next s) ∧
  (∀ s g, g < 4 → (s.fgrp g).enable = true → Runs (.groupEnable g false) s [.fio] fun t =>
    t.fgrp g = { s.fgrp g with enable := false, restoring := false, slot := 0, guardDue := none } ∧ (∀ n, grpOf n = g → pinOut t n = false) ∧
      (∀ n, grpOf n ≠ g → t.fpin n = s.fpin n) ∧ ∀ h, h ≠ g → t.fgrp h = s.fgrp h) ∧
  (∀ s g low mV, g < 4 → s.reachable = true → (s.fgrp g).seen = false →
    exec (.groupSupplyLow g low mV) s = .next (s.updGrp g fun y => { y with lowFirst := low, mV := mV })) ∧
  (∀ s g mV, g < 4 → s.reachable = true → (s.fgrp g).seen = true → (s.fgrp g).low = false →
    Runs (.groupSupplyLow g true mV) s [.fio, .flow, .upd] fun t => t.fgrp g =
      { s.fgrp g with low := true, lowAt := s.tm.mono, lowMin := mV, mV := mV, minMv := min (s.fgrp g).minMv mV, lowFirst := false } ∧
      t.fio.pins = s.fio.pins ∧ (∀ h, h ≠ g → t.fgrp h = s.fgrp h) ∧ Recorded ⟨0x8003, g, 0x10, [], [], 0xFFFFFFFF, 0xF⟩ s t) ∧
  (∀ s g mV, g < 4 → s.reachable = true → (s.fgrp g).seen = true → (s.fgrp g).low = true →
    Runs (.groupSupplyLow g false mV) s [.fio, .flow, .upd] fun t => t.fgrp g = { s.fgrp g with low := false, mV := mV } ∧
      t.fio.pins = s.fio.pins ∧ (∀ h, h ≠ g → t.fgrp h = s.fgrp h) ∧
      Recorded ⟨0x8004, g, 0x10, leBytes 2 (min (s.fgrp g).lowMin 65535) ++ leBytes 4 ((s.tm.mono - (s.fgrp g).lowAt) / 1000000), [], 0xFFFFFFFF, 0xF⟩ s t) ∧
  (∀ s g mV, g < 4 → g < s.fio.grp.length → s.reachable = true → (s.fgrp g).missing = false →
      (48 ≤ s.nat 0x3C00 7 ∨ grpOf (s.nat 0x3C00 7) ≠ g) →
    Runs (.groupSupplyMissing g false mV) s [.fio, .flow, .upd] fun t => (t.fgrp g).missing = true ∧ (t.fgrp g).missAt = s.tm.mono ∧
      (t.fgrp g).missingCount = inc32 (s.fgrp g).missingCount ∧ (t.fgrp g).enable = false ∧ (t.fgrp g).restoring = false ∧ (t.fgrp g).guardDue = (s.fgrp g).guardDue ∧
      (∀ n, grpOf n = g → pinOut t n = false) ∧ (∀ n, grpOf n ≠ g → t.fpin n = s.fpin n) ∧ (∀ h, h ≠ g → t.fgrp h = s.fgrp h) ∧
      Recorded ⟨0x8005, g, 0x10, [], [], 0xFFFFFFFF, 0xF⟩ s t) ∧
  (∀ s g mV, g < 4 → g < s.fio.grp.length → s.reachable = true → (s.fgrp g).overV = false →
      (48 ≤ s.nat 0x3C00 7 ∨ grpOf (s.nat 0x3C00 7) ≠ g) →
    Runs (.groupSupplyMissing g true mV) s [.fio, .flow, .upd] fun t => (t.fgrp g).overV = true ∧ (t.fgrp g).overAt = s.tm.mono ∧
      (t.fgrp g).overMax = mV ∧ (t.fgrp g).enable = false ∧ (t.fgrp g).missing = (s.fgrp g).missing ∧
      (∀ n, grpOf n = g → pinOut t n = false) ∧ (∀ h, h ≠ g → t.fgrp h = s.fgrp h) ∧ Recorded ⟨0x8009, g, 0x10, [], [], 0xFFFFFFFF, 0xF⟩ s t) ∧
  (∀ s g, g < 4 → s.tm.mono < (s.fgrp g).condAt + 20000000 → exec (.groupRestoreStart g) s = .next s) ∧
  (∀ s g, g < 4 → g < s.fio.grp.length → s.reachable = true → (s.fgrp g).absent = true → (s.fgrp g).condAt + 20000000 ≤ s.tm.mono →
    Runs (.groupRestoreStart g) s [.fio, .flow, .upd] fun t => (t.fgrp g).absent = false ∧ (t.fgrp g).seen = true ∧ (t.fgrp g).restoring = true ∧
      (t.fgrp g).slot = 0 ∧ ((s.fgrp g).seen = false → (s.fgrp g).missing = true → (s.fgrp g).lowFirst = true → (t.fgrp g).low = true) ∧
      (grpMay t g = true → (t.fgrp g).enable = true) ∧ (∀ n, grpOf n = g → pinOut t n = false) ∧ ∀ h, h ≠ g → t.fgrp h = s.fgrp h) ∧
  (∀ s g n, g < 4 → (s.fgrp g).restoring = true → (outPins s g)[(s.fgrp g).slot]? = some n → n < s.fio.pins.length →
    Runs (.groupRestoreSlot g) s [.fio] fun t => t.fpin n = { s.fpin n with slotted := true } ∧ (∀ m, m ≠ n → t.fpin m = s.fpin m) ∧
      t.fgrp g = { s.fgrp g with slot := (s.fgrp g).slot + 1, restoring := decide ((s.fgrp g).slot + 1 < (outPins s g).length) }) ∧
  (∀ s g, g < 4 → (s.fgrp g).restoring = false → exec (.groupRestoreSlot g) s = .next s) ∧
  (∀ s g, g < 4 → (s.fgrp g).enable = true → (s.fgrp g).overload = false →
    Runs (.groupOverload g) s [.fio, .loop, .lead, .steer, .flow, .upd] fun t => (t.fgrp g).overload = true ∧ (t.fgrp g).overEnd = s.tm.mono + 100000000 ∧
      ((addTrip (s.fgrp g).trips s.tm.mono).length < 3 → (t.fgrp g).enable = true ∧ (t.fgrp g).latched = (s.fgrp g).latched) ∧
      (3 ≤ (addTrip (s.fgrp g).trips s.tm.mono).length → (t.fgrp g).enable = false ∧ (t.fgrp g).latched = true) ∧
      ∀ n, grpOf n = g → pinOut t n = false) ∧
  (∀ s g, g < 4 → (s.fgrp g).guardDue = none → exec (.fieldGuardExpiry g) s = .next s) ∧
  (∀ s g, g < 4 → s.reachable = true → (s.fgrp g).guard = false → (s.fgrp g).enable = true →
    (∃ d, (s.fgrp g).guardDue = some d ∧ d ≤ s.tm.mono + 100000) → Runs (.fieldGuardExpiry g) s [.fio, .loop, .lead, .steer, .flow, .upd] fun t =>
      t.fgrp g = { s.fgrp g with guard := true, latches := 0, guardCount := inc32 (s.fgrp g).guardCount } ∧
      (∀ n, n < s.fio.pins.length → grpOf n = g → (t.fpin n).guardCmd = some (match s.nat (pinObj n) 4 with | 0 => false | 1 => true | _ => (s.fpin n).cmd)) ∧
      ∀ n, grpOf n ≠ g → t.fpin n = s.fpin n) ∧
  (∀ s g, g < 4 → (s.fgrp g).guard = true → 10 ≤ (s.fgrp g).latches →
    Runs (.fieldGuardEnd g) s [.fio] fun t => t.fgrp g = { s.fgrp g with guard := false, latches := 0 } ∧
      (∀ n, grpOf n = g → t.fpin n = { s.fpin n with guardCmd := none }) ∧ ∀ n, grpOf n ≠ g → t.fpin n = s.fpin n) ∧
  (∀ s k g, g < 4 → s.admits k (0x4480 + g) 7 (.int 1) → (s.fgrp g).latched = true → (outPins s g).any (baseCmd s) = false →
    Written (.groupCommand k g 1) s k [.fio] fun t => (t.fgrp g).latched = false ∧ (t.fgrp g).trips = [] ∧ ∀ h, h ≠ g → t.fgrp h = s.fgrp h) ∧
  (∀ s k g, g < 4 → s.admits k (0x4480 + g) 7 (.int 1) → (s.fgrp g).latched = true → (outPins s g).any (baseCmd s) = true →
    exec (.groupCommand k g 1) s = .next ((s.touch k).deny k 0x08000022))

/-- 11 R254, R255, R257, R258, R263, R265–R267, R269: an input pin reads high and low at the thresholds of Table 11-1 and takes its new level
and stamp once it has held for InputFilter; an output pin is commanded by a session only where no
other source commands it; an overcurrent switches the pin off and the third within 10 s latches it; the warnings; two pins that follow one
another three times are joined; and a mode change takes the pin's partner out of the pair. -/
def Obligations.FieldPins : Prop :=
  (∀ mV old, inputReads 1 mV old = (if 11000 ≤ mV then true else if mV < 9000 then false else old) ∧
    inputReads 2 mV old = (if 9000 ≤ mV then true else if mV < 7000 then false else old)) ∧
  (∀ s n mV stamp, n < 48 → n < s.fio.pins.length → s.reachable = true → pinValid s n = true →
    inputReads (s.nat (0x4400 + n) 1) mV (s.fpin n).level ≠ (s.fpin n).level → sampleAt stamp + s.nat (0x4400 + n) 2 * 100000 ≤ s.tm.now + 100000 →
    Runs (.fieldInputChange n mV stamp) s [.fio] fun t => t.fpin n = { s.fpin n with
      mV := (clampI 0 65535 mV).toNat, level := inputReads (s.nat (0x4400 + n) 1) mV (s.fpin n).level, stamp := sampleAt stamp } ∧
      (∀ m, m ≠ n → t.fpin m = s.fpin m) ∧ t.fio.grp = s.fio.grp) ∧
  (∀ s n mV stamp, n < 48 → n < s.fio.pins.length → s.reachable = true → pinValid s n = false →
    Runs (.fieldInputChange n mV stamp) s [.fio] fun t => t.fpin n = { s.fpin n with mV := (clampI 0 65535 mV).toNat } ∧
      (∀ m, m ≠ n → t.fpin m = s.fpin m) ∧ t.fio.grp = s.fio.grp) ∧
  (∀ s k n v, n < 48 → s.admits k (0x4400 + n) 3 (.int v) → s.nat 0x3C00 0xB ≠ n → pinDriven s n = false → (s.pw.dev = .run ∨ s.pw.dev = .service) →
    exec (.outputCommandWrite k n v) s = .next (((s.touch k).put (0x4400 + n) 3 (.int v)).ack k)) ∧
  (∀ s k n v, n < 48 → s.admits k (0x4400 + n) 3 (.int v) → (s.nat 0x3C00 0xB = n ∨ pinDriven s n = true ∨ s.pw.dev = .start) →
    exec (.outputCommandWrite k n v) s = .next ((s.touch k).deny k 0x08000022)) ∧
  (∀ s n, n < 48 → n < s.fio.pins.length → pinOut s n = true → Runs (.fieldOvercurrent n) s [.fio, .loop, .lead, .steer, .flow, .upd] fun t =>
    (t.fpin n).trip = true ∧ (t.fpin n).tripEnd = s.tm.mono + 100000000 ∧ (t.fpin n).tripCount = inc32 (s.fpin n).tripCount ∧
    (t.fpin n).latched = ((s.fpin n).latched || decide (3 ≤ (addTrip (s.fpin n).trips s.tm.mono).length)) ∧ pinOut t n = false ∧
    (∀ m, m ≠ n → t.fpin m = s.fpin m) ∧ t.fio.grp = s.fio.grp) ∧
  (∀ s n high, n < 48 → n < s.fio.pins.length → s.reachable = true → (s.fpin n).overtemp ≠ high →
    Runs (.fieldOvertempStage n high) s [.fio, .flow, .upd] fun t => t.fpin n = { s.fpin n with overtemp := high } ∧
      (high = true → pinOut t n = false) ∧ ∀ m, m ≠ n → t.fpin m = s.fpin m) ∧
  (∀ s n, n < 48 → n < s.fio.pins.length → (s.fpin n).noLoad = false → pinOut s n = true →
    Runs (.noLoadCurrent n true) s [.fio, .flow, .upd] fun t => t.fpin n = { s.fpin n with noLoad := true } ∧ ∀ m, m ≠ n → t.fpin m = s.fpin m) ∧
  (∀ s n, n < 48 → (s.fpin n).noLoad = true → Runs (.noLoadCurrent n false) s [.fio, .flow, .upd] fun t =>
    t.fpin n = { s.fpin n with noLoad := false } ∧ ∀ m, m ≠ n → t.fpin m = s.fpin m) ∧
  (∀ s n, n < 48 → n < s.fio.pins.length → (s.fpin n).extDrive = false → (s.fgrp (grpOf n)).absent = false → s.nat (0x4400 + n) 1 = 3 →
    pinCmd s n = false → Runs (.externalDrive n true) s [.fio, .flow, .upd] fun t => t.fpin n = { s.fpin n with extDrive := true } ∧
      ∀ m, m ≠ n → t.fpin m = s.fpin m) ∧
  (∀ s m n, m < 48 → n < 48 → m ≠ n → m < s.fio.pins.length → n < s.fio.pins.length → s.nat (0x4400 + m) 1 = 3 → s.nat (0x4400 + n) 1 = 3 →
    (s.fgrp (grpOf m)).absent = false → (s.fgrp (grpOf n)).absent = false → pinCmd s m = false → 2 ≤ (pairCount s.fio.pairs m n).1 →
    (s.fpin n).joined = false → Runs (.pinsJoined m n true) s [.fio, .flow, .upd] fun t => (t.fpin m).joined = true ∧ (t.fpin m).joinedWith = n ∧
      (t.fpin n).joined = true ∧ (t.fpin n).joinedWith = m ∧ Recorded ⟨0x8008, m, 0x10, leBytes 1 n, [], 0xFFFFFFFF, 0xF⟩ s t) ∧
  (∀ s m n, m < 48 → n < 48 → m ≠ n → n < s.fio.pins.length → s.nat (0x4400 + m) 1 = 3 → s.nat (0x4400 + n) 1 = 3 →
    (s.fgrp (grpOf m)).absent = false → (s.fgrp (grpOf n)).absent = false → pinCmd s m = false → 2 ≤ (pairCount s.fio.pairs m n).2 →
    (s.fpin n).joined = true → (s.fpin n).joinedWith = m → Runs (.pinsJoined m n false) s [.fio] fun t => (t.fpin n).joined = false ∧
      (t.fpin m).joined = false) ∧
  (∀ s k n, n < 48 → s.admits k (0x4400 + n) 5 (.int 1) → (s.fpin n).latched = true → baseCmd s n = false →
    Written (.fieldFaultCommand k n 1) s k [.fio, .flow, .upd] fun t => t.fpin n = { s.fpin n with latched := false, trip := false, trips := [] } ∧
      ∀ m, m ≠ n → t.fpin m = s.fpin m) ∧
  (∀ s k n, n < 48 → s.admits k (0x4400 + n) 5 (.int 1) → (s.fpin n).latched = true → baseCmd s n = true →
    exec (.fieldFaultCommand k n 1) s = .next ((s.touch k).deny k 0x08000022)) ∧
  (∀ s k n v, n < 48 → s.admits k (0x4400 + n) 1 (.int v) → s.configurable = true → v ≠ 3 →
    Written (.pinModeWrite k n v) s k [.fio, .dict] fun t => t.dict = ((s.touch k).put (0x4400 + n) 1 (.int v)).dict ∧
      (t.fpin n).slotted = false ∧ (t.fpin n).cmd = false ∧ ((s.fpin n).joined = true → (t.fpin n).joined = false)) ∧
  (∀ s k n v, n < 48 → s.admits k (0x4400 + n) 1 (.int v) → s.configurable = false → pinSelected s n = true →
    exec (.pinModeWrite k n v) s = .next ((s.touch k).deny k 0x08000022))

/-! ## Rules stated whole -/

/-- 14 R321: a one-shot object makes one attempt. The object that enters the arbitration is one with a pending request; a lost arbitration ends
a one-shot request with result 0x06, an error with result 0x07 (an identifier conflict is rule R323's and suspends instead), and the
request is gone, so that no later arbitration is offered it. Every other object of every channel stands as before. -/
def Obligations.OneShotFrames : Prop :=
  (∀ s c j f, nextObject s c = some (j, f) → j < 64 ∧ (s.cobj c j).pending = some f ∧ (s.cobj c j).suspended = false) ∧
  (∀ s c j f stamp tdc, c < 8 → (s.cch c).up = true → nextObject s c = some (j, f) → (s.cobj c j).oneShot = true → (s.cobj c j).cancel = false →
    Runs (.canFrameTransmit c .arbitrationLost stamp tdc) s [.can, .serv] fun t => (t.cobj c j).result = 6 ∧ (t.cobj c j).pending = none ∧
      (∀ g, nextObject t c ≠ some (j, g)) ∧ (∀ m, m ≠ j → t.cobj c m = s.cobj c m) ∧ ∀ d, d ≠ c → t.cch d = s.cch d) ∧
  (∀ s c j f stamp tdc, c < 8 → (s.cch c).up = true → nextObject s c = some (j, f) → (s.cobj c j).oneShot = true → (s.cobj c j).cancel = false →
    Runs (.canFrameTransmit c .errorOther stamp tdc) s [.can, .serv] fun t => (t.cobj c j).result = 7 ∧ (t.cobj c j).pending = none ∧
      (∀ g, nextObject t c ≠ some (j, g)) ∧ (∀ m, m ≠ j → t.cobj c m = s.cobj c m) ∧ ∀ d, d ≠ c → t.cch d = s.cch d)

/-- 02 R53: a write of SliceLength (0x3810.01, mm) or MaxCutSpeed (0x3810.02, 0.1 km/h) is refused with abort 0x0609_0030 when 2,048 ×
SliceLength is less than the ground travel in 30 s at MaxCutSpeed, V × 0.1 km/h × 30 s = V × 2500 / 3 mm; a write of either that leaves the
pair within this is stored, and nothing else changes. -/
def Obligations.SlicePairRefusal : Prop :=
  (∀ (s : State) (n v : Nat), dictWf s.dict = true → s.admits n 0x3810 1 (.int v) → (2048 * v : Rat) < (s.nat 0x3810 2 : Rat) * 2500 / 3 →
    exec (.sliceLengthWrite n 1 v) s = .next ((s.touch n).deny n 0x06090030)) ∧
  (∀ (s : State) (n v : Nat), dictWf s.dict = true → s.admits n 0x3810 2 (.int v) → (2048 * s.nat 0x3810 1 : Rat) < (v : Rat) * 2500 / 3 →
    exec (.sliceLengthWrite n 2 v) s = .next ((s.touch n).deny n 0x06090030)) ∧
  (∀ (s : State) (n v : Nat), dictWf s.dict = true → s.admits n 0x3810 1 (.int v) → (s.nat 0x3810 2 : Rat) * 2500 / 3 ≤ (2048 * v : Rat) →
    exec (.sliceLengthWrite n 1 v) s = .next (((s.touch n).put 0x3810 1 (.int v)).ack n)) ∧
  (∀ (s : State) (n v : Nat), dictWf s.dict = true → s.admits n 0x3810 2 (.int v) → (v : Rat) * 2500 / 3 ≤ (2048 * s.nat 0x3810 1 : Rat) →
    exec (.sliceLengthWrite n 2 v) s = .next (((s.touch n).put 0x3810 2 (.int v)).ack n))

/-- 02 R65: writing an EVENT_ID to 0x3820.04 cancels that event if it has not been released, with CancelResult 0x00; an event already released
reads 0x01 and an unknown identifier 0x02, and neither changes the event queue: a released event is never withdrawn. -/
def Obligations.EventCancelResults : Prop :=
  (∀ s n id, s.admits n 0x3820 4 (.int id) → (∃ e ∈ s.pctl.events, e.id = id) →
    Written (.eventCancel n id) s n [.pctl, .serv] fun t => (t.sessOf n).win.cancelResult = 0 ∧
      t.pctl.events = s.pctl.events.filter (fun e => e.id != id) ∧ t.pctl.probeWait = s.pctl.probeWait.filter (fun e => e.1.id != id) ∧
      t.pctl.released = s.pctl.released) ∧
  (∀ s n id, s.admits n 0x3820 4 (.int id) → (∀ e ∈ s.pctl.events, e.id ≠ id) → s.pctl.released.contains id = true →
    exec (.eventCancel n id) s = .next (((s.touch n).updWin n fun x => { x with cancelResult := 1 }).ack n)) ∧
  (∀ s n id, s.admits n 0x3820 4 (.int id) → (∀ e ∈ s.pctl.events, e.id ≠ id) → s.pctl.released.contains id = false →
    exec (.eventCancel n id) s = .next (((s.touch n).updWin n fun x => { x with cancelResult := 2 }).ack n))

/-! ## CAN channels (chapter 14) -/

/-- 14 R318–R324: what becomes of the object in the arbitration: sent (0x01, or 0x05 where a cancel came too late), cancelled (0x03, 0x04),
offered again, or suspended at the second identifier conflict in a row; a received frame is queued, stamped in 4 ns ticks, in the FIFO that its filter names, dropped
when no filter matches or the FIFO holds 128; the sends and cancels of a session; ObjectCommand resumes an object. Which FIFO takes which
frames, and whether a cancel comes in time, are the model's (log 32). -/
def Obligations.CanRequests : Prop :=
  (∀ s c j f stamp tdc, c < 8 → (s.cch c).up = true → nextObject s c = some (j, f) → (f.fd = false ∨ f.brs = false) →
    Runs (.canFrameTransmit c .completed stamp tdc) s [.can, .serv] fun t => t.cobj c j =
      { s.cobj c j with pending := none, cancel := false, result := if (s.cobj c j).cancel then 5 else 1, conflicts := 0 } ∧
      (t.cch c).tec = (s.cch c).tec - 1 ∧ (∀ m, m ≠ j → t.cobj c m = s.cobj c m) ∧ ∀ d, d ≠ c → t.cch d = s.cch d) ∧
  (∀ s c j f out stamp tdc, c < 8 → (s.cch c).up = true → nextObject s c = some (j, f) → (s.cobj c j).cancel = true →
    (out = .arbitrationLost ∨ out = .errorOther) → Runs (.canFrameTransmit c out stamp tdc) s [.can, .serv] fun t => t.cobj c j =
      { s.cobj c j with pending := none, cancel := false, result := if out = .arbitrationLost then 3 else 4 } ∧
      (∀ m, m ≠ j → t.cobj c m = s.cobj c m) ∧ ∀ d, d ≠ c → t.cch d = s.cch d) ∧
  (∀ s c j f stamp tdc, c < 8 → (s.cch c).up = true → nextObject s c = some (j, f) → (s.cobj c j).cancel = false →
    (s.cobj c j).oneShot = false → Runs (.canFrameTransmit c .arbitrationLost stamp tdc) s [.serv] fun t => nextObject t c = some (j, f)) ∧
  (∀ s c j f stamp tdc, c < 8 → (s.cch c).up = true → nextObject s c = some (j, f) → (s.cobj c j).cancel = false →
    (s.cobj c j).oneShot = false → (s.cobj c j).conflicts = 0 → Runs (.canFrameTransmit c .errorConflict stamp tdc) s [.can, .serv] fun t =>
      t.cobj c j = { s.cobj c j with conflicts := 1 } ∧ (∀ m, m ≠ j → t.cobj c m = s.cobj c m) ∧ ∀ d, d ≠ c → t.cch d = s.cch d) ∧
  (∀ s c j f stamp tdc, c < 8 → (s.cch c).up = true → nextObject s c = some (j, f) → (1 ≤ (s.cobj c j).conflicts ∨ (s.cobj c j).oneShot = true) →
    Runs (.canFrameTransmit c .errorConflict stamp tdc) s [.can, .serv, .flow, .upd] fun t => (t.cobj c j).suspended = true ∧
      (t.cobj c j).result = 8 ∧ (t.cobj c j).pending = none ∧ (t.cch c).idConflict = true ∧
      (t.cch c).conflictCount = inc32 (s.cch c).conflictCount ∧ (∀ m, m ≠ j → t.cobj c m = s.cobj c m) ∧ (∀ d, d ≠ c → t.cch d = s.cch d) ∧
      Recorded ⟨0xA002, c + 1, 0xC, leBytes 1 j ++ leBytes 4 f.id, [], 0xFFFFFFFF, 0xF⟩ s t) ∧
  (∀ s c f stamp, c < 8 → (s.cch c).up = true → formOk c f = true → filterOf s c f = none → Runs (.canFrameReceive c f stamp) s [.can] fun t =>
    (t.cch c).fifo0 = (s.cch c).fifo0 ∧ (t.cch c).fifo1 = (s.cch c).fifo1 ∧ (t.cch c).overflow = (s.cch c).overflow ∧
      (t.cch c).objs = (s.cch c).objs ∧ ∀ d, d ≠ c → t.cch d = s.cch d) ∧
  (∀ s c f stamp, c < 8 → (s.cch c).up = true → formOk c f = true → filterOf s c f = some 0 → (s.cch c).fifo0.length < 128 →
    Runs (.canFrameReceive c f stamp) s [.can] fun t => (t.cch c).fifo0 = (s.cch c).fifo0 ++ [(f, tick stamp)] ∧
      (t.cch c).fifo1 = (s.cch c).fifo1 ∧ (t.cch c).objs = (s.cch c).objs ∧ ∀ d, d ≠ c → t.cch d = s.cch d) ∧
  (∀ s c f stamp, c < 8 → (s.cch c).up = true → formOk c f = true → filterOf s c f = some 1 → 128 ≤ (s.cch c).fifo1.length →
    Runs (.canFrameReceive c f stamp) s [.can] fun t => (t.cch c).fifo1 = (s.cch c).fifo1 ∧ (t.cch c).fifo0 = (s.cch c).fifo0 ∧
      (t.cch c).overAt = some s.tm.mono ∧ (t.cch c).overflow = updAt (s.cch c).overflow 1 inc32 ∧ ∀ d, d ≠ c → t.cch d = s.cch d) ∧
  (∀ s n c r f one j, s.admits n 0x5420 2 (.bytes r) → (s.sessOf n).win.frameChannel = c + 1 → frameOfRecord c r = some (f, one) →
    (s.pw.dev = .run ∨ s.pw.dev = .service) → sessionPending s n = none → sessionObject s c n = some j → (s.cch c).up = true →
    j < (s.cch c).objs.length → Written (.frameSend n r) s n [.can, .serv] fun t =>
      t.cobj c j = { s.cobj c j with owner := some n, pending := some f, oneShot := one, cancel := false, result := 0 } ∧
      (t.sessOf n).win.frameResult = 0 ∧ (∀ m, m ≠ j → t.cobj c m = s.cobj c m) ∧ ∀ d, d ≠ c → t.cch d = s.cch d) ∧
  (∀ s n c r x, s.admits n 0x5420 2 (.bytes r) → (s.sessOf n).win.frameChannel = c + 1 → frameOfRecord c r = some x →
    ((sessionPending s n).isSome = true ∨ sessionObject s c n = none) → exec (.frameSend n r) s = .next ((s.touch n).deny n 0x08000022)) ∧
  (∀ s n c r, s.admits n 0x5420 2 (.bytes r) → (s.sessOf n).win.frameChannel = c + 1 → frameOfRecord c r = none →
    exec (.frameSend n r) s = .next ((s.touch n).deny n 0x06090030)) ∧
  (∀ s n v c j, s.admits n 0x5420 3 (.int v) → sessionPending s n = some (c, j) → Written (.frameCancel n v) s n [.can, .serv, .free] fun t =>
    ((t.cobj c j).pending = none ∧ (t.cobj c j).result = 2 ∨ t.cobj c j = { s.cobj c j with cancel := true }) ∧
      (∀ m, m ≠ j → t.cobj c m = s.cobj c m) ∧ ∀ d, d ≠ c → t.cch d = s.cch d) ∧
  (∀ s n v, s.admits n 0x5420 3 (.int v) → sessionPending s n = none → exec (.frameCancel n v) s = .next ((s.touch n).ack n)) ∧
  (∀ s n c j, c < 8 → j < 64 → s.admits n (0x5400 + c) 0x19 (.int (256 + j : Nat)) → (s.cobj c j).suspended = true →
    Written (.resumeObject n c j) s n [.can] fun t => t.cobj c j = { s.cobj c j with suspended := false, conflicts := 0 } ∧
      (∀ m, m ≠ j → t.cobj c m = s.cobj c m) ∧ ∀ d, d ≠ c → t.cch d = s.cch d)

/-- 14 R314, R315, R317, R318, R325, R329, R330: bus-off discards every request and is left by itself or on ObjectCommand 0x02; a dominant
transmit input and a recessive res bit send the channel to integration; writes of the channel's configuration; the reference message; address
claims, and the new claim after an identifier conflict. -/
def Obligations.CanChannels : Prop :=
  (∀ s c, c < 8 → (s.cch c).up = true → (∀ m, (s.sessOf m).opened = true → (s.sessOf m).transport ≠ .c8) →
    Runs (.busOff c) s [.can, .serv, .flow, .upd] fun t => (t.cch c).state = 4 ∧ (t.cch c).tec = 255 ∧
      (t.cch c).busOffCount = inc32 (s.cch c).busOffCount ∧ (∀ j, j < 64 → (t.cobj c j).pending = none ∧
        ((s.cobj c j).pending.isSome = true → (t.cobj c j).result = if (s.cobj c j).cancel then 4 else 9)) ∧
      (∀ d, d ≠ c → t.cch d = s.cch d) ∧ Recorded ⟨0xA001, c + 1, 0xC, [], [], 0xFFFFFFFF, 0xF⟩ s t) ∧
  (∀ s c, c < 8 → (s.cch c).state = 4 → s.nat (0x5400 + c) 0xE = 0 → Runs (.busOffRecovery c) s [.can] fun t =>
    t.cch c = { s.cch c with state := 2, tec := 0, rec_ := 0 } ∧ ∀ d, d ≠ c → t.cch d = s.cch d) ∧
  (∀ s c, c < 8 → s.nat (0x5400 + c) 0xE ≠ 0 → exec (.busOffRecovery c) s = .next s) ∧
  (∀ s n c, c < 8 → s.admits n (0x5400 + c) 0x19 (.int 512) → (s.cch c).state = 4 → Written (.leaveBusOff n c) s n [.can] fun t =>
    t.cch c = { s.cch c with state := 2, tec := 0, rec_ := 0 } ∧ ∀ d, d ≠ c → t.cch d = s.cch d) ∧
  (∀ s c, c < 8 → (s.cch c).up = true → Runs (.txdTimeout c) s [.can] fun t => t.cch c = { s.cch c with txdTimeout := true, state := 1 } ∧
    ∀ d, d ≠ c → t.cch d = s.cch d) ∧
  (∀ s c, 2 ≤ c → c < 8 → (s.cch c).up = true → Runs (.protocolException c) s [.can] fun t =>
    t.cch c = { s.cch c with protoExc := true, state := 1, errorFrames := inc32 (s.cch c).errorFrames } ∧ ∀ d, d ≠ c → t.cch d = s.cch d) ∧
  (∀ s c, c < 2 → exec (.protocolException c) s = .next s) ∧
  (∀ s n c v, c < 8 → s.admits n (0x5400 + c) 2 (.int v) → s.flag (0x5400 + c) 1 = false →
    (∀ m, (s.sessOf m).opened = true → (s.sessOf m).transport ≠ .c8) →
    exec (.canChannelConfigWrite n c 2 v) s = .next (((s.touch n).put (0x5400 + c) 2 (.int v)).ack n)) ∧
  (∀ s n c, c < 8 → s.admits n (0x5400 + c) 1 (.int 1) → timingOk s c = false →
    (∀ m, (s.sessOf m).opened = true → (s.sessOf m).transport ≠ .c8) →
    exec (.canChannelConfigWrite n c 1 1) s = .next ((s.touch n).deny n 0x06090030)) ∧
  (∀ s n c, c < 8 → s.admits n (0x5400 + c) 1 (.int 1) → timingOk s c = true → (s.cch c).state = 0 → c < s.can.ch.length →
    (∀ m, (s.sessOf m).opened = true → (s.sessOf m).transport ≠ .c8) →
    Written (.canChannelConfigWrite n c 1 1) s n [.can, .dict] fun t => t.cch c = { s.cch c with state := 2, tec := 0, rec_ := 0 } ∧
      (∀ d, d ≠ c → t.cch d = s.cch d) ∧ t.dict = (s.put (0x5400 + c) 1 (.int 1)).dict) ∧
  (∀ s stamp, s.reachable = true → s.flag 0x5410 1 = true → (s.cch (s.nat 0x5410 2 - 1)).up = true → s.can.refSuspended = false →
    Runs (.referenceMessage true stamp) s [.can] fun t => t.can =
      { s.can with cycle := s.tm.now / (s.nat 0x5410 4 * 1000000) % 64, refSent := inc32 s.can.refSent, lastRef := tick stamp, lastSkipped := false,
                   refMsg := leBytes 1 (s.tm.now / (s.nat 0x5410 4 * 1000000) % 64) ++ leBytes 1 s.tm.source ++ leBytes 6 (s.can.lastRef % 2 ^ 48) }) ∧
  (∀ s stamp, s.reachable = true → s.flag 0x5410 1 = true → Runs (.referenceMessage false stamp) s [.can] fun t => t.can =
    { s.can with cycle := s.tm.now / (s.nat 0x5410 4 * 1000000) % 64, refSkipped := inc32 s.can.refSkipped, lastSkipped := true }) ∧
  (∀ s n v, s.admits n 0x5410 0xA (.int v) → Written (.refResume n v) s n [.can] fun t => t.can = { s.can with refSuspended := false }) ∧
  (∀ s k a, k < 4 → k < s.can.cf.length → s.reachable = true → s.nat (0x5430 + k) 1 ≠ 0 → mayClaim s k a = true →
    Runs (.addressClaim k (.claimed a)) s [.can] fun t => (t.can.cf.getD k {}).claimed = a ∧ t.can.ch = s.can.ch) ∧
  (∀ s k, k < 4 → k < s.can.cf.length → s.reachable = true → s.nat (0x5430 + k) 1 ≠ 0 →
    Runs (.addressClaim k .cannotClaim) s [.can] fun t => (t.can.cf.getD k {}).claimed = 0xFE ∧ (t.can.cf.getD k {}).holdAt = none) ∧
  (∀ s k a, k < 4 → k < s.can.cf.length → s.reachable = true → (s.cobj (cfChannel k) k).suspended = true → mayClaim s k a = true →
    Runs (.addressReclaim k a) s [.can, .flow, .upd] fun t => t.can.cf.getD k {} = { claimed := a, holdAt := some (s.tm.mono + 250000000) } ∧
      (t.cobj (cfChannel k) k).pending = some (claimFrame s k a) ∧ (t.cobj (cfChannel k) k).suspended = true ∧
      Recorded ⟨0xA003, k, 0xE, leBytes 1 (cfChannel k + 1) ++ leBytes 1 (s.can.cf.getD k {}).claimed ++ leBytes 1 a ++ leBytes 1 0, [],
        0xFFFFFFFF, 0xF⟩ s t)

/-! ## Flowstone (chapter 16) -/

/-- 16 R361–R371: a writer's group takes the next SEQ values, or is suppressed beyond SuppressLimit in its second, and no safety record is
suppressed; flushes, their failure and completion; a torn group; the read window; the four clears, each leaving its own record; the
first-occurrence look-up. The clause on a group that is written while a flush runs is the model's (log 10). -/
def Obligations.FlowstoneCommands : Prop :=
  (∀ s ev, recording s = true → writerCode ev.code = true → ev.more.length ≤ 112 → ev.payload.length ≤ 8 →
    Runs (.flowstoneRecord ev) s [.flow, .upd] fun t => Recorded ev s t) ∧
  (∀ (f : Flow) r, (severityOf r.code = 3 ∨ (codeCount f.perCode r.code).1 < f.limit) → flowSize f.wait + r.size ≤ 8192 →
    (f.write r).nextSeq = seqAdd f.nextSeq r.size ∧ (f.write r).wait = f.wait ++ [{ r with seq := f.nextSeq }] ∧
      (f.write r).suppressed = f.suppressed ∧ (f.write r).lostRecords = f.lostRecords ∧ (f.write r).ring = f.ring) ∧
  (∀ (f : Flow) r, severityOf r.code ≠ 3 → f.limit ≤ (codeCount f.perCode r.code).1 →
    (f.write r).nextSeq = f.nextSeq ∧ (f.write r).wait = f.wait ∧ (f.write r).ring = f.ring ∧ (f.write r).suppressed = f.suppressed + 1) ∧
  (∀ s, recording s = true → s.flow.second ≠ s.tm.mono / 1000000000 → (∀ e ∈ s.flow.perCode, e.2.2 = 0) →
    Runs .suppressionSummary s [.flow] fun t => t.flow =
      { s.flow with second := s.tm.mono / 1000000000, perCode := [], limit := s.nat 0x5800 7 }) ∧
  (∀ s, recording s = true → s.flow.wait ≠ [] → Runs .flush s [.flow] fun t => t.flow = { s.flow with flushUntil := some s.flow.nextSeq }) ∧
  (∀ s, recording s = true → s.flow.wait = [] → exec .flush s = .next s) ∧
  (∀ s u, recording s = true → s.flow.flushUntil = some u → s.flow.flushFailed = false → s.flow.lostPending = 0 →
    Runs .flushComplete s [.flow] fun t => t.flow.wait = s.flow.wait.filter (fun r => !seqBefore r.seq u) ∧
      t.flow.ring = trimRing (s.flow.ring ++ s.flow.wait.filter (fun r => seqBefore r.seq u)) ∧ t.flow.flushUntil = none ∧
      t.flow.nextSeq = s.flow.nextSeq ∧ t.flow.fot = s.flow.fot) ∧
  (∀ l, flowSize (trimRing l) ≤ 1048576 ∧ trimRing l <:+ l) ∧
  (∀ s e, recording s = true → s.flow.flushUntil.isSome = true → s.flow.flushFailed = false → Runs (.flushFailed e) s [.flow, .upd] fun t =>
    t.flow.flushFailed = true ∧ t.flow.ring = s.flow.ring ∧
      Recorded ⟨0x0005, 0, 0, leBytes 4 e, [], 0xFFFFFFFF, 0xF⟩ (s.updFlow fun f => { f with flushFailed := true }) t) ∧
  (∀ s k l r, s.pw.dev = .start → s.flow.ring = l ++ [r] → k ≠ 0 → s.flow.lostPending = 0 →
    Runs (.tornGroupDiscard k) s [.flow, .upd] fun t => t.flow.ring = l ∧ Recorded ⟨0x0003, 0, 0, leBytes 4 k ++ leBytes 4 r.seq, [], 0xFFFFFFFF, 0xF⟩
      (s.updFlow fun f => { f with ring := l, lostRecords := add32 f.lostRecords k, lostPending := 0, lostFirst := r.seq }) t) ∧
  (∀ s n, s.serves n 0x5810 → Runs (.readWindow n) s [.serv] fun t => flowSize (t.sessOf n).win.window ≤ 8 ∧ (t.sessOf n).answer = 0 ∧
    (t.sessOf n).answerData = ((t.sessOf n).win.window.flatMap fun r => (List.range r.size).flatMap fun j => r.bytes j) ∧
    ∀ r ∈ (t.sessOf n).win.window, r ∈ s.flow.held ∧ hidden s.flow (s.sessOf n).role r = false ∧
      (s.sessOf n).win.minSeverity ≤ severityOf r.code ∧ (seqBefore (s.sessOf n).win.readCursor s.flow.oldest = false →
        seqBefore r.seq (s.sessOf n).win.readCursor = false)) ∧
  (∀ s n, s.admits n 0x5800 0xA (.int 1) → Written (.clearHide n) s n [.flow, .upd] fun t =>
    Recorded (clearRecord (s.ctxOf n) 1) (s.updFlow fun f => { f with clearSeq := f.nextSeq }) t) ∧
  (∀ s n, s.admits n 0x5800 0xA (.int 2) → Written (.clearFot n) s n [.flow, .upd] fun t =>
    Recorded (clearRecord (s.ctxOf n) 2) (s.updFlow fun f => { f with fot := [], fotFull := false }) t) ∧
  (∀ s n, s.admits n 0x5800 0xA (.int 3) → Written (.clearCounters n) s n [.flow, .upd] fun t =>
    Recorded (clearRecord (s.ctxOf n) 3) (s.updFlow fun f => { f with lostRecords := 0, suppressed := 0 }) t) ∧
  (∀ s n, s.admits n 0x5800 0xA (.int 4) → (s.sessOf n).role = 4 → s.per.fuse = false → Written (.eraseRing n) s n [.flow, .upd] fun t =>
    Recorded (clearRecord (s.ctxOf n) 4) (s.updFlow fun f => { f with ring := [], fot := [], fotFull := false }) t) ∧
  (∀ s n, s.admits n 0x5800 0xA (.int 4) → (s.sessOf n).role = 4 → s.per.fuse = true →
    exec (.eraseRing n) s = .next ((s.touch n).deny n 0x08000022)) ∧
  (∀ s n (c k : Nat), s.admits n 0x5820 3 (.int c) → s.flow.fot.findIdx? (fun e => e.first.code == c) = some k →
    exec (.fotLookup n c) s = .next (((s.touch n).updWin n fun y => { y with fotIndex := k }).ack n)) ∧
  (∀ s n (c : Nat), s.admits n 0x5820 3 (.int c) → (∀ e ∈ s.flow.fot, e.first.code ≠ c) →
    exec (.fotLookup n c) s = .next ((s.touch n).deny n 0x08000022))

/-! ## Lantern (chapter 17) -/

/-- 17 R376, R381, R385, R389–R391: the panel's power-up, the normal and the fast power-down, a supply fault and the retry 1 s after it, PanelEnable and
PanelCommand, training, loss of lock and VCOM. What VCOMFB reads during a fault is a free value (log 6); the times of Table 17-6 are
looked at in the loop frames (log 48). -/
def Obligations.PanelPower : Prop :=
  (∀ s, s.reachable = true → s.flag 0x5C00 1 = true → s.lan.state = 0 → Runs .panelPowerUp s [.lan] fun t => t.lan.state = 1 ∧
    t.lan.stepEnd = s.tm.mono + s.nat 0x5C00 0x11 * 1000000 ∧ t.lan.time = lanTime s ∧ t.lan.cfg = lanLoad s ∧ t.lan.frameCount = 0 ∧
    t.lan.blen = false ∧ t.lan.linkFault = false ∧ t.lan.supplyFault = false ∧ t.lan.cover = s.lan.cover) ∧
  (∀ s, s.lan.state ≠ 0 → exec .panelPowerUp s = .next s) ∧
  (∀ s, (s.pw.dev = .shutdown ∨ s.flag 0x5C00 1 = false) → (s.lan.state = 3 ∨ s.lan.state = 4) → s.lan.retraining = false →
    Runs .panelPowerDown s [.lan] fun t => t.lan = { s.lan with state := 5, down := 1, blen := false, backAt := none }) ∧
  (∀ s, (s.pw.dev = .shutdown ∨ s.flag 0x5C00 1 = false) → (s.lan.state = 1 ∨ s.lan.state = 2) →
    Runs .panelPowerDown s [.lan] fun t => t.lan = { s.lan with
      state := 5, down := 3, blen := false, backAt := none, stepEnd := s.tm.mono + s.lan.cfg.discharge * 1000000, locked := false
      retraining := false }) ∧
  (∀ s, s.lan.state ≠ 0 → s.lan.state ≠ 6 → Runs .fastPowerDown s [.lan] fun t => t.lan.state = 5 ∧ t.lan.down = 3 ∧ t.lan.blen = false ∧
    t.lan.stepEnd = s.tm.mono + 5000000 ∧
    (t.lan.lost = if (s.lan.state = 3 ∨ s.lan.state = 4 ∨ s.lan.state = 5 ∧ s.lan.down ≤ 2) ∧ s.lan.retraining = false then inc32 s.lan.lost
      else s.lan.lost)) ∧
  (∀ s, (s.lan.state = 0 ∨ s.lan.state = 6) → exec .fastPowerDown s = .next s) ∧
  (∀ s, 1 ≤ s.lan.state → s.lan.state ≤ 5 → Runs .vpnlFault s [.lan] fun t => t.lan.supplyFault = true ∧ t.lan.state = 5 ∧ t.lan.down = 3 ∧
    t.lan.again = false ∧ t.lan.failAt = s.tm.mono ∧ t.lan.faults = s.tm.mono :: s.lan.faults.filter (fun x => decide (s.tm.mono < x + 60000000000))) ∧
  (∀ s, s.reachable = true → s.flag 0x5C00 1 = true → s.lan.state = 0 → (s.lan.supplyFault = true ∨ s.lan.linkFault = true) →
    s.lan.failAt + 1000000000 ≤ s.tm.mono → Runs .panelRetry s [.lan] fun t => t.lan.state = 1 ∧ t.lan.time = lanTime s ∧ t.lan.faults = s.lan.faults) ∧
  (∀ s, s.tm.mono < s.lan.failAt + 1000000000 → exec .panelRetry s = .next s) ∧
  (∀ s n v, s.admits n 0x5C00 0x17 (.int v) → s.lan.state = 6 → Written (.panelCommand n v) s n [.lan] fun t =>
    t.lan = { s.lan with state := 0, faults := [] }) ∧
  (∀ s n v, s.admits n 0x5C00 0x17 (.int v) → s.lan.state ≠ 6 → exec (.panelCommand n v) s = .next ((s.touch n).ack n)) ∧
  (∀ s n, dictWf s.dict = true → s.admits n 0x5C00 1 (.int 1) → s.reachable = true → s.flag 0x5C00 1 = false → s.lan.state = 0 →
    Written (.panelEnableWrite n 1) s n [.dict, .lan] fun t => t.dict = (s.put 0x5C00 1 (.int 1)).dict ∧ t.lan.state = 1 ∧ t.lan.time = lanTime s) ∧
  (∀ s n, s.admits n 0x5C00 1 (.int 0) → s.lan.state = 4 → s.lan.retraining = false → Written (.panelEnableWrite n 0) s n [.dict, .lan] fun t =>
    t.dict = (s.put 0x5C00 1 (.int 0)).dict ∧ t.lan = { s.lan with state := 5, down := 1, blen := false, backAt := none, again := false }) ∧
  (∀ s, (s.lan.state = 2 ∨ s.lan.retraining = true) → s.lan.locked = false →
    Runs (.linkTraining true) s [.lan] fun t => t.lan = { s.lan with locked := true }) ∧
  (∀ s, s.lan.state = 2 → s.lan.locked = false → Runs (.linkTraining false) s [.lan] fun t => t.lan.linkFault = true ∧ t.lan.state = 5 ∧
    t.lan.down = 3 ∧ t.lan.blen = false ∧ t.lan.failAt = s.tm.mono) ∧
  (∀ s, (s.lan.state = 3 ∨ s.lan.state = 4) → s.lan.retraining = false → Runs .locknLow s [.lan] fun t => t.lan = { s.lan with
    retraining := true, locked := false, broken := true, retrains := inc32 s.lan.retrains }) ∧
  (∀ s, 2 ≤ s.lan.state → s.lan.state ≠ 6 → s.lan.vcomFault = false → Runs (.vcomFault true) s [.lan, .free] fun t =>
    t.lan = { s.lan with vcomFault := true, vcomMeas := t.lan.vcomMeas } ∧ t.lan.vcomMeas < 65536) ∧
  (∀ s, 2 ≤ s.lan.state → s.lan.state ≠ 6 → s.lan.vcomFault = true → Runs (.vcomFault false) s [.lan] fun t =>
    t.lan = { s.lan with vcomFault := false, vcomMeas := s.lan.cfg.vcom }) ∧
  (∀ s, s.reachable = true → Runs .vtSwapRequest s [.lan] fun t => t.lan = { s.lan with swap := true })

/-- 17 R375, R377, R382–R388: the lines of a frame, the polarity, the temperature band and the vertical blanking: the step from training to
black frames and to showing, the swap and the load of the settings, the overlay check with its record and its end after 60 passing frames,
and the black frame of a power-down. -/
def Obligations.PanelFrames : Prop :=
  (∀ s n px, (s.lan.state = 3 ∨ s.lan.state = 4) → s.lan.retraining = false → 0 < s.lan.frameCount → n < s.lan.time.height →
    px.length = 3 * s.lan.time.width → Runs (.linePacket n px) s [.lan] fun t => t.lan.packets.length = s.lan.time.drivers ∧
      t.lan = { s.lan with packets := t.lan.packets, prev := t.lan.prev } ∧ ∃ target, t.lan.prev.head? = some (n, target) ∧
      (s.lan.blackNow = false → s.lan.swapped = true → target = px) ∧
      (s.lan.blackNow = true → target = List.replicate (3 * s.lan.time.width) (byteOf s.lan.cfg.black))) ∧
  (∀ s n px, (s.lan.state < 3 ∨ s.lan.state = 6 ∨ s.lan.retraining = true) → exec (.linePacket n px) s = .next s) ∧
  (∀ x n i old old' b b', inCover x n i = true → sentSub x n old i b = sentSub x n old' i b') ∧
  (∀ x n i b, inCover x n i = false → (x.cfg.overdrive = false ∨ x.prev = []) →
    sentSub x n ((x.prev.find? fun p => p.1 == n).map (·.2)) i b = b) ∧
  (∀ m f x y, polarity m (f + 1) x y = !polarity m f x y) ∧
  (∀ T1 T2 T3 t : Int, ∀ b, b ≤ 3 → (0 < b → 10 * [T1, T2, T3].getD (b - 1) 0 - 10 ≤ t) → (b < 3 → t < 10 * [T1, T2, T3].getD b 0 + 10) →
    bandNext [T1, T2, T3] t (some b) = b) ∧
  (∀ s x, (s.lan.state < 2 ∨ s.lan.state = 6) → exec (.verticalBlanking x) s = .next s) ∧
  (∀ s x, s.lan.state = 2 → s.lan.locked = true → s.lan.retraining = false → Runs (.verticalBlanking x) s [.lan] fun t =>
    t.lan.state = 3 ∧ t.lan.blackDone = 0 ∧ t.lan.blackNow = true ∧ t.lan.frameCount = (s.lan.frameCount + 1) % 2 ^ 32) ∧
  (∀ s x, s.lan.state = 3 → s.lan.retraining = false → s.lan.broken = false → x.whole = true → 0 < s.lan.frameCount →
    Runs (.verticalBlanking x) s [.lan] fun t => t.lan.state = (if s.lan.cfg.blackFrames ≤ s.lan.blackDone + 1 then 4 else 3) ∧
      t.lan.frameCount = (s.lan.frameCount + 1) % 2 ^ 32) ∧
  (∀ s x, s.lan.state = 4 → s.lan.retraining = false → s.lan.cover.on = false → Runs (.verticalBlanking x) s [.lan] fun t =>
    t.lan.state = 4 ∧ t.lan.frameCount = (s.lan.frameCount + 1) % 2 ^ 32 ∧ t.lan.frameStamp = x.stamp + blankNs s.lan.time ∧
      t.lan.cfg = lanLoad s ∧ t.lan.swap = false ∧ t.lan.front = (if s.lan.swap then !s.lan.front else s.lan.front) ∧
      t.lan.swapped = (s.lan.swapped || s.lan.swap) ∧ t.lan.ptempFault = x.temp.isNone ∧
      (∀ c, x.temp = some c → t.lan.temp = c ∧ t.lan.band = some (bandNext s.lan.cfg.bands c s.lan.band)) ∧
      (x.temp = none → t.lan.band = some s.lan.cfg.faultBand) ∧ t.lan.check = s.lan.check) ∧
  (∀ s x, s.lan.state = 4 → s.lan.retraining = false → s.lan.broken = false → s.lan.cover.on = true → s.lan.blackNow = false →
    x.whole = true → x.crcRead = coverCrc s.lan.cover s.lan.frameCount → Runs (.verticalBlanking x) s [.lan] fun t =>
      t.lan.check.fails = 0 ∧ t.lan.check.passes = s.lan.check.passes + 1 ∧ t.lan.check.failCount = s.lan.check.failCount ∧
      t.lan.check.fault = (s.lan.check.fault && decide (s.lan.check.passes + 1 < 60))) ∧
  (∀ s x, s.lan.state = 4 → s.lan.retraining = false → s.lan.cover.on = true → s.lan.blackNow = false →
    (x.whole = false ∨ s.lan.broken = true ∨ x.crcRead ≠ coverCrc s.lan.cover s.lan.frameCount) → s.lan.check.fault = false →
    s.lan.cover.failFrames ≤ s.lan.check.fails + 1 → Runs (.verticalBlanking x) s [.lan, .flow, .upd] fun t =>
      t.lan.check = { fails := s.lan.check.fails + 1, passes := 0, failCount := inc32 s.lan.check.failCount, fault := true } ∧
      Recorded ⟨0xD001, 0, 3, leBytes 4 (coverCrc s.lan.cover s.lan.frameCount) ++ leBytes 4 x.crcRead, [], 0xFFFFFFFF, 0xF⟩ s t) ∧
  (∀ s x, s.lan.state = 4 → s.lan.retraining = false → s.lan.cover.on = true → s.lan.blackNow = false →
    (x.whole = false ∨ s.lan.broken = true ∨ x.crcRead ≠ coverCrc s.lan.cover s.lan.frameCount) →
    (s.lan.check.fault = true ∨ s.lan.check.fails + 1 < s.lan.cover.failFrames) → Runs (.verticalBlanking x) s [.lan] fun t =>
      t.lan.check = { s.lan.check with fails := s.lan.check.fails + 1, passes := 0, failCount := inc32 s.lan.check.failCount }) ∧
  (∀ s x, s.lan.state = 5 → s.lan.down = 2 → Runs (.verticalBlanking x) s [.lan] fun t => t.lan.state = 5 ∧ t.lan.down = 3 ∧
    t.lan.stepEnd = s.tm.mono + s.lan.cfg.discharge * 1000000)

/-! ## The dictionary (chapter 15) -/

/-- 15 R347, R349, R351–R356: Store and RestoreDefaults, persistent writes with the outcome of each copy (refused where two copies fail: log
50), the resolution of Table 15-11, PersistSnapshot, ConfirmCommand and EOLFuse. Steering and safety parameters stand in layer 3 too. -/
def Obligations.Persistence : Prop :=
  (∀ s n, s.admits n 0x1010 1 (.int 0x65766173) → s.per.store = none → Written (.store n 0x65766173) s n [.per] fun t =>
    t.per = { s.per with store := some (n, storeList (s.sessOf n).role (s.touch n)) }) ∧
  (∀ s n, s.admits n 0x1010 1 (.int 0x65766173) → s.per.store.isSome = true → exec (.store n 0x65766173) s = .next ((s.touch n).deny n 0x08000022)) ∧
  (∀ s n v, s.admits n 0x1010 1 (.int v) → v ≠ 0x65766173 → exec (.store n v) s = .next ((s.touch n).deny n 0x08000020)) ∧
  (∀ s n key x, s.reachable = true → s.per.store = some (n, [(key, x)]) → safetyKey (key / 256) (key % 256) = false →
    (∀ t ∈ s.per.targets, ¬ (t.layer = 1 ∧ t.key = key)) → Runs .storeComplete s [.per] fun t => t.per.store = none ∧
    findTarget t.per.targets 1 key = some ⟨1, key, some ⟨1, x, true⟩, some ⟨1, x, true⟩, some ⟨1, x, true⟩, 0⟩) ∧
  (∀ s, s.reachable = true → Runs .storeComplete s [.per] fun t => t.per.store = none ∧ (s.per.store = none → t = s)) ∧
  (∀ s, s.reachable = false → exec .storeComplete s = .next s) ∧
  (∀ s n, s.admits n 0x1011 1 (.int 0x64616F6C) → Written (.restoreDefaults n 0x64616F6C) s n [.per] fun t => t.per = { s.per with restore := true }) ∧
  (∀ s n v, s.admits n 0x1011 1 (.int v) → v ≠ 0x64616F6C → exec (.restoreDefaults n v) s = .next ((s.touch n).deny n 0x08000020)) ∧
  (∀ s layer key v a b c, 1 ≤ layer → layer ≤ 3 → s.reachable = true → s.per.store = none → (layer = 1 → safetyKey (key / 256) (key % 256) = false) →
    Runs (.persistentWrite layer key v a b c) s [.per] fun t => t.per.store = none ∧ findTarget t.per.targets layer key =
      some (writeCopies ((findTarget s.per.targets layer key).getD ⟨layer, key, none, none, none, 0⟩) v a b c) ∧
      ∀ l k, ¬ (l = layer ∧ k = key) → findTarget t.per.targets l k = findTarget s.per.targets l k) ∧
  (∀ s key v, s.reachable = true → s.per.store = none → safetyKey (key / 256) (key % 256) = true →
    Runs (.persistentWrite 1 key v true true true) s [.per] fun t => ∃ x y, findTarget t.per.targets 1 key = some x ∧
      findTarget t.per.targets 3 key = some y ∧ x.used = some v ∧ y.used = some v) ∧
  (∀ s n key x v, s.reachable = true → s.per.store = some (n, [(key, x)]) →
    Runs (.persistentWrite 1 key v false false true) s [.per, .serv] fun t => t.per.store = some (n, []) ∧
      t.serv = (s.updSess n fun y => { y with answer := 0x06060000 }).serv) ∧
  (∀ s layer key v a b c, 1 ≤ layer → layer ≤ 3 → s.reachable = false → exec (.persistentWrite layer key v a b c) s = .next s) ∧
  (∀ s n, s.admits n 0x2140 3 (.int 1) → Written (.persistSnapshot n 1) s n [.serv] fun t => (t.sessOf n).win.persistResult =
    (match findTarget s.per.targets (s.sessOf n).win.persistLayer (s.sessOf n).win.persistTarget with
     | some _ => 0
     | none => if mayPersist (s.sessOf n).win.persistLayer (s.sessOf n).win.persistTarget then 1 else 2)) ∧
  (∀ s n x u, s.admits n 0x2140 0xB (.int 1) → (s.sessOf n).win.persistLayer = 3 → findTarget s.per.targets 3 (s.sessOf n).win.persistTarget = some x →
    (x.state = 2 ∨ x.state = 6) → x.a = some u → u.ok = true → Written (.confirmCommand n 1) s n [.per] fun t =>
    findTarget t.per.targets 3 (s.sessOf n).win.persistTarget = some { writeCopies x u.value true true true with state := 3 }) ∧
  (∀ s n v x, s.admits n 0x2140 0xB (.int v) → findTarget s.per.targets (s.sessOf n).win.persistLayer (s.sessOf n).win.persistTarget = some x →
    x.state ≠ 2 → x.state ≠ 6 → exec (.confirmCommand n v) s = .next ((s.touch n).deny n 0x08000022)) ∧
  (∀ s n v, s.admits n 0x6000 1 (.int v) → s.per.fuse = false → Written (.eolFuse n v) s n [.per] fun t => t.per = { s.per with fuse := true }) ∧
  (∀ s n v, s.serves n 0x6000 → s.per.fuse = true → exec (.eolFuse n v) s = .next ((s.touch n).deny n 0x06010002)) ∧
  (∀ t x, t.a = some x → t.b = some x → t.c = some x → x.ok = true → (resolveCopies t).state = 0 ∧ (resolveCopies t).used = some x.value) ∧
  (∀ t x y z, t.a = some x → t.b = some y → t.c = some z → x.ok = true → y.ok = true → z.ok = true → x.gen ≠ y.gen → y.gen ≠ z.gen →
    x.gen ≠ z.gen → (resolveCopies t).state = 2 ∧ (resolveCopies t).used = none) ∧
  (∀ t x y, t.a = some x → t.b = some y → t.c = none → x.ok = true → y.ok = true → y.gen < x.gen →
    (resolveCopies t).state = 4 ∧ (resolveCopies t).used = some y.value)

/-- 15 R337, R339–R341, R343: opening of a session, requests for a role, challenge and response, lockouts, and the ends of sessions and of
transfers, once their times have run (State.waited; in Ladder, where no frame counts time, the command is taken at its word, log 4). What a session held goes with it (log 5); its number is free again. -/
def Obligations.SessionsAndRoles : Prop :=
  (∀ s tr n x, sessionsOpen s = true → transportServes s tr = true → (tr = .c8 → clientSession s x = none) → freeSession s = some n →
    s.serv.sess.length = 16 → Runs (.sessionOpen tr x) s [.serv] fun t => n < 16 ∧ (s.sessOf n).opened = false ∧
    t.sessOf n = { opened := true, transport := tr, source := x, lastReq := s.tm.mono } ∧ (t.sessOf n).role = 0 ∧ ∀ m, m ≠ n → t.sessOf m = s.sessOf m) ∧
  (∀ s tr x, (sessionsOpen s = false ∨ transportServes s tr = false ∨ freeSession s = none) → exec (.sessionOpen tr x) s = .next s) ∧
  (∀ s n v, s.admits n 0x2100 2 (.int v) → roleAllowed s (s.sessOf n).transport v.toNat = true → s.serv.lockouts.any (·.1 == (s.sessOf n).source) = false →
    Written (.roleRequest n v) s n [.serv] fun t => (t.sessOf n).roleReq = some v.toNat ∧ (t.sessOf n).chal = none ∧ (t.sessOf n).role = (s.sessOf n).role) ∧
  (∀ s n v, s.admits n 0x2100 2 (.int v) → roleAllowed s (s.sessOf n).transport v.toNat = true → s.serv.lockouts.any (·.1 == (s.sessOf n).source) = true →
    exec (.roleRequest n v) s = .next ((s.touch n).deny n 0x08000022)) ∧
  (∀ s n, s.admits n 0x2100 2 (.int 4) → (s.sessOf n).transport ≠ .c8 → (s.sessOf n).transport ≠ .usb →
    exec (.roleRequest n 4) s = .next ((s.touch n).deny n 0x06010000)) ∧
  (∀ s n b, s.serves n 0x2100 → b.length = 16 → Runs (.challenge n b) s [.serv] fun t => (t.sessOf n).chal = some ⟨b, s.tm.mono, false⟩ ∧
    (t.sessOf n).answerData = b ∧ (t.sessOf n).answer = 0 ∧ (t.sessOf n).lastReq = s.tm.mono) ∧
  (∀ s n c r, s.admits n 0x2100 4 (.bytes (hmac256 (s.roleKey r) (responseMessage c n r))) → (s.sessOf n).chal = some c → (s.sessOf n).roleReq = some r →
    c.used = false → s.tm.mono ≤ c.time + 10000000000 → Written (.response n (hmac256 (s.roleKey r) (responseMessage c n r))) s n [.serv, .flow, .upd] fun t =>
    (t.sessOf n).role = r ∧ (t.sessOf n).chal = some { c with used := true } ∧ (t.sessOf n).key = s.roleKey r) ∧
  (∀ s n c r b, s.admits n 0x2100 4 (.bytes b) → (s.sessOf n).chal = some c → (s.sessOf n).roleReq = some r → c.used = false →
    s.tm.mono ≤ c.time + 10000000000 → hmac256 (s.roleKey r) (responseMessage c n r) ≠ b → Written (.response n b) s n [.serv, .flow, .upd] fun t =>
    (t.sessOf n).role = (s.sessOf n).role ∧ (t.sessOf n).chal = some { c with used := true } ∧ t.serv.failedAttempts = inc32 s.serv.failedAttempts ∧
    t.serv.lockouts = (if 4 ≤ (s.serv.fails.filter fun f => f.1 == (s.sessOf n).source && decide (s.tm.mono ≤ f.2 + 600000000000)).length ∧
      s.serv.lockouts.any (·.1 == (s.sessOf n).source) = false then ((s.sessOf n).source, s.tm.mono) :: s.serv.lockouts else s.serv.lockouts)) ∧
  (∀ s n c b, s.admits n 0x2100 4 (.bytes b) → (s.sessOf n).chal = some c → (c.used = true ∨ c.time + 10000000000 < s.tm.mono) →
    exec (.response n b) s = .next ((s.touch n).deny n 0x08000022)) ∧
  (∀ s n b, s.admits n 0x2100 4 (.bytes b) → (s.sessOf n).chal = none → exec (.response n b) s = .next ((s.touch n).deny n 0x08000022)) ∧
  (∀ s x, Runs (.roleLockoutEnd x) s [.serv] fun t => 
    t.serv = { s.serv with lockouts := t.serv.lockouts } ∧
      ∀ e, e ∈ t.serv.lockouts ↔ e ∈ s.serv.lockouts ∧ (e.1 ≠ x ∨ s.waited e.2 300000000000 = false)) ∧
  (∀ s n, n < 16 → (s.sessOf n).opened = true → s.reaches 0x2100 = true →
    s.waited (s.sessOf n).lastReq ((s.sessOf n).timeout * 1000000000) = true →
    ∃ t, exec (.sessionTimeout n) s = .next t ∧ t.sessOf n = {} ∧ ∀ m, m ≠ n → t.sessOf m = s.sessOf m) ∧
  (∀ s n, n < 16 → s.waited (s.sessOf n).lastReq ((s.sessOf n).timeout * 1000000000) = false → exec (.sessionTimeout n) s = .next s) ∧
  (∀ s n v, s.admits n 0x2100 7 (.int v) → s.serv.sess.length = 16 → ∃ t, exec (.sessionClose n v) s = .next t ∧ t.sessOf n = {} ∧
    ∀ m, m ≠ n → t.sessOf m = s.sessOf m) ∧
  (∀ s n x, n < 16 → (s.sessOf n).transfer = some x → s.waited x.segAt 1000000000 = true → Runs (.transferTimeout n) s [.serv] fun t =>
    (t.sessOf n).transfer = none ∧ (t.sessOf n).answer = 0x05040000 ∧ (t.sessOf n).opened = (s.sessOf n).opened) ∧
  (∀ s n, n < 16 → (∀ x, (s.sessOf n).transfer = some x → s.waited x.segAt 1000000000 = false) → exec (.transferTimeout n) s = .next s) ∧
  (∀ s, Runs (.usbVbusChange true) s [.net] fun t => t.net = { s.net with vbus := true }) ∧
  (∀ s, s.serv.sess.length = 16 → ∃ t, exec (.usbVbusChange false) s = .next t ∧ t.net.vbus = false ∧ ∀ m, m < 16 → t.sessOf m =
    if (s.sessOf m).opened = true ∧ (s.sessOf m).transport = .usb then {} else s.sessOf m) ∧
  (∀ s p, p < 3 → s.serv.sess.length = 16 → (s.net.ports.getD p {}).link = false →
    s.waited (s.net.ports.getD p {}).downAt 2000000000 = true → ∃ t, exec (.sessionLinkDownExpiry p) s = .next t ∧
    ∀ m, m < 16 → t.sessOf m = if (s.sessOf m).opened = true ∧ (s.sessOf m).transport = portTransport p then {} else s.sessOf m) ∧
  (∀ s p, p < 3 → ((s.net.ports.getD p {}).link = true ∨ s.waited (s.net.ports.getD p {}).downAt 2000000000 = false) → exec (.sessionLinkDownExpiry p) s = .next s)

/-! ## Updates (chapter 19) -/

/-- 19 R417–R420, R423–R425, 09 R219: offers of a session and of the fleet link, blocks in order with their repetition, the busy results,
commit and abort by the owner, the messages of the fleet link, and the end of an orphan's hold. Results as in Table 19-4. -/
def Obligations.UpdateTransfers : Prop :=
  (∀ s n r, s.admits n 0x5A10 1 (.bytes r) → s.pw.dev ≠ .ladder → zeros (r.drop 199) = true → offerFault r s ≠ 0 →
    Written (.updateOffer (.session n) r) s n [.serv, .flow] fun t => (t.sessOf n).updResult = offerFault r s) ∧
  (∀ s n r, s.admits n 0x5A10 1 (.bytes r) → s.pw.dev ≠ .ladder → zeros (r.drop 199) = true → offerFault r s = 0 → s.upd.cur = none → s.upd.owner = none →
    regionBusy s (headerRegion (r.take 96)) = false → Written (.updateOffer (.session n) r) s n [.serv, .upd, .flow] fun t =>
    (t.sessOf n).updResult = 0 ∧ (t.sessOf n).updId = s.upd.count + 1 ∧ t.upd = { s.upd with
      count := s.upd.count + 1
      offers := (n, ⟨s.upd.count + 1, headerRegion (r.take 96), r.take 96, (r.drop 96).take 96, sha384 (r.take 96), offerTotal (r.take 96)⟩) ::
        s.upd.offers.filter fun p => p.1 != n }) ∧
  (∀ s n r, s.admits n 0x5A10 1 (.bytes r) → s.pw.dev ≠ .ladder → zeros (r.drop 199) = true → offerFault r s = 0 → s.upd.cur = none → s.upd.owner = none →
    regionBusy s (headerRegion (r.take 96)) = true → Written (.updateOffer (.session n) r) s n [.serv, .flow] fun t =>
    (t.sessOf n).updResult = 4 ∧ (t.sessOf n).updId = (s.region (headerRegion (r.take 96))).lastId) ∧
  (∀ s st r, s.reachable = true → fleetOfferOk st r s = false → Runs (.updateOffer (.fleet st) r) s [.fleet] fun t =>
    t.fleet = { s.fleet with rejected := s.fleet.rejected + 1 }) ∧
  (∀ s n off d, s.admits n 0x5A10 2 (.bytes (leBytes 4 off ++ d)) → off < 2 ^ 32 → s.pw.dev ≠ .ladder → s.upd.owner = some n → s.upd.state = 1 →
    off = s.upd.body.length → s.upd.last ≠ some (off, d) → Written (.updateBlock (.session n) off d) s n [.serv, .upd] fun t =>
    t.upd = { s.upd with body := s.upd.body ++ d, last := some (off, d) } ∧ (t.sessOf n).updResult = 0) ∧
  (∀ s n off d, s.admits n 0x5A10 2 (.bytes (leBytes 4 off ++ d)) → off < 2 ^ 32 → s.pw.dev ≠ .ladder → s.upd.owner = some n → s.upd.state = 1 →
    s.upd.last = some (off, d) → Written (.updateBlock (.session n) off d) s n [.serv] fun t => (t.sessOf n).updResult = 0) ∧
  (∀ s n off d, s.admits n 0x5A10 2 (.bytes (leBytes 4 off ++ d)) → off < 2 ^ 32 → s.pw.dev ≠ .ladder → s.upd.owner = some n → s.upd.state = 1 →
    off ≠ s.upd.body.length → s.upd.last ≠ some (off, d) → Written (.updateBlock (.session n) off d) s n [.serv] fun t => (t.sessOf n).updResult = 0xB) ∧
  (∀ s n d o, s.admits n 0x5A10 2 (.bytes (leBytes 4 0 ++ d)) → s.pw.dev ≠ .ladder → s.upd.owner = none → s.upd.cur = none →
    (s.upd.offers.find? fun p => p.1 == n) = some (n, o) → regionBusy s o.region = false → o.region - 1 < s.upd.regions.length →
    Written (.updateBlock (.session n) 0 d) s n [.serv, .upd, .flow] fun t => t.upd.state = 1 ∧ t.upd.owner = some n ∧ t.upd.cur = some o ∧
      t.upd.body = d ∧ t.upd.committed = false ∧ (t.region o.region).state = 1 ∧ (t.region o.region).before = (s.region o.region).state ∧
      (t.region o.region).lastId = o.id ∧ (t.sessOf n).updResult = 0 ∧ (t.sessOf n).updId = o.id) ∧
  (∀ s n off d o, s.admits n 0x5A10 2 (.bytes (leBytes 4 off ++ d)) → s.pw.dev ≠ .ladder → s.upd.cur = some o → s.upd.owner ≠ some n →
    Written (.updateBlock (.session n) off d) s n [.serv] fun t => (t.sessOf n).updResult = busyCode s ∧ (t.sessOf n).updId = o.id) ∧
  (∀ s st off d, s.reachable = true → 1 ≤ d.length → d.length ≤ 32764 → s.upd.owner = some 16 → s.upd.state = 1 → off = s.upd.body.length →
    s.upd.last ≠ some (off, d) → Runs (.updateBlock (.fleet st) off d) s [.upd] fun t =>
    t.upd = { s.upd with body := s.upd.body ++ d, last := some (off, d), fleetResult := 0 }) ∧
  (∀ s n o, s.admits n 0x5A10 3 (.int 0x100) → s.pw.dev ≠ .ladder → s.upd.owner = some n → s.upd.state = 1 → s.upd.cur = some o → bodyOk o s = true →
    Written (.updateCommit (.session n)) s n [.serv, .upd, .flow] fun t => t.upd = { s.upd with committed := true, state := 3 } ∧
      (t.sessOf n).updResult = 0) ∧
  (∀ s n o, s.admits n 0x5A10 3 (.int 0x100) → s.pw.dev ≠ .ladder → s.upd.owner = some n → s.upd.state = 1 → s.upd.cur = some o → bodyOk o s = false →
    Written (.updateCommit (.session n)) s n [.serv, .upd, .flow] fun t => t.upd.state = 0 ∧ t.upd.owner = none ∧ t.upd.cur = none ∧
      (t.sessOf n).updResult = 0xC) ∧
  (∀ s n, s.admits n 0x5A10 3 (.int 0x100) → s.pw.dev ≠ .ladder → (s.upd.owner ≠ some n ∨ s.upd.state ≠ 1) →
    exec (.updateCommit (.session n)) s = .next ((s.touch n).deny n 0x08000022)) ∧
  (∀ s n o, s.admits n 0x5A10 3 (.int 0x200) → s.pw.dev ≠ .ladder → s.upd.owner = some n → s.upd.cur = some o →
    Written (.updateAbort (.session n)) s n [.serv, .upd, .flow] fun t => t.upd.state = 0 ∧ t.upd.owner = none ∧ t.upd.cur = none ∧
      (t.sessOf n).updResult = 0x11) ∧
  (∀ s n, s.admits n 0x5A10 3 (.int 0x200) → s.pw.dev ≠ .ladder → s.upd.owner ≠ some n →
    exec (.updateAbort (.session n)) s = .next ((s.touch n).deny n 0x08000022)) ∧
  (∀ s st o, publishing s = true → s.fleet.link = 2 → s.upd.owner = some 16 → s.upd.state = 1 → s.upd.cur = some o → bodyOk o s = true →
    Runs (.fleetUpdateMessage st [⟨0x5A10, 3, [0#8, 1#8]⟩]) s [.upd, .flow] fun t => t.upd = { s.upd with committed := true, state := 3, fleetResult := 0 }) ∧
  (∀ s st l, (publishing s = false ∨ s.fleet.link ≠ 2) → exec (.fleetUpdateMessage st l) s = .next s) ∧
  (∀ s m, publishing s = true → s.fleet.link = 2 → headerOk .cartPose m = true → m.length = 36 → fieldLe m 18 1 = 3 →
    Runs (.fleetMessageReceive .cartPose m) s [.steer] fun t => t.steer = { s.steer with cart := { s.steer.cart with report := some (cartReport m) } }) ∧
  (∀ s p m, publishing s = true → s.fleet.link = 2 → p ≠ .rtcm → headerOk p m = false → Runs (.fleetMessageReceive p m) s [.fleet] fun t =>
    t.fleet = { s.fleet with rejected := s.fleet.rejected + 1 }) ∧
  (∀ s, s.upd.state = 4 → s.waited s.upd.orphanAt (s.nat 0x5A01 0xA * 1000000000) = true → Runs .orphanHoldExpiry s [.upd] fun t => t.upd.state = 0 ∧ t.upd.owner = none ∧ t.upd.cur = none ∧ t.upd.committed = false) ∧
  (∀ s, (s.upd.state ≠ 4 ∨ s.waited s.upd.orphanAt (s.nat 0x5A01 0xA * 1000000000) = false) → exec .orphanHoldExpiry s = .next s)

/-- 19 R417, R419, R421–R423, R426–R429, 15 R346, 17 R394: withdrawal, confirmation and fall-back of a region, a committed image taking effect
live or being staged, the copy of a staged image at Start, the ends of a probation, and an image written in Ladder. -/
def Obligations.UpdateRegions : Prop :=
  (∀ s n (c : Nat), s.admits n 0x5A10 3 (.int ((0x300 + c : Nat) : Int)) → s.pw.dev ≠ .ladder → 2 ≤ (s.sessOf n).role → 1 ≤ c → c ≤ 8 → c - 1 < s.upd.regions.length →
    (s.region c).state = 2 → Written (.withdrawStaged (.session n) c) s n [.upd] fun t =>
    t.region c = { s.region c with staged := none, state := (s.region c).before }) ∧
  (∀ s n (c : Nat), s.admits n 0x5A10 3 (.int ((0x300 + c : Nat) : Int)) → s.pw.dev ≠ .ladder → 2 ≤ (s.sessOf n).role → 1 ≤ c → c ≤ 8 → (s.region c).state ≠ 2 →
    exec (.withdrawStaged (.session n) c) s = .next ((s.touch n).deny n 0x08000022)) ∧
  (∀ s n (c : Nat), s.admits n 0x5A10 3 (.int ((0x300 + c : Nat) : Int)) → s.pw.dev ≠ .ladder → (s.sessOf n).role = 1 → c ≤ 8 →
    exec (.withdrawStaged (.session n) c) s = .next ((s.touch n).deny n 0x06010000)) ∧
  (∀ s n (c : Nat), s.admits n 0x5A10 3 (.int ((0x400 + c : Nat) : Int)) → s.pw.dev ≠ .ladder → 2 ≤ (s.sessOf n).role → 1 ≤ c → c ≤ 8 → c - 1 < s.upd.regions.length →
    (s.region c).state = 3 → Written (.confirmRegion (.session n) c) s n [.upd, .flow] fun t => t.region c = { s.region c with
      state := 4, prev := none, left := 0, fall := false, fuse := max (s.region c).fuse (min (s.region c).active.rollback 63) }) ∧
  (∀ s n (c : Nat), s.admits n 0x5A10 3 (.int ((0x500 + c : Nat) : Int)) → s.pw.dev ≠ .ladder → 2 ≤ (s.sessOf n).role → 1 ≤ c → c ≤ 3 → c - 1 < s.upd.regions.length →
    (s.region c).state = 3 → (s.region c).fall = false → Written (.fallBack (.session n) c) s n [.upd, .flow] fun t => t.region c = { s.region c with
      active := (s.region c).prev.getD (s.region c).active, prev := none, state := 0, left := 0, restarts := 0, fall := false }) ∧
  (∀ s n (c : Nat), s.admits n 0x5A10 3 (.int ((0x500 + c : Nat) : Int)) → s.pw.dev ≠ .ladder → 2 ≤ (s.sessOf n).role → 5 ≤ c → c ≤ 8 → c - 1 < s.upd.regions.length →
    (s.region c).state = 3 → (s.region c).fall = false → Written (.fallBack (.session n) c) s n [.upd] fun t => t.region c = { s.region c with fall := true }) ∧
  (∀ s o conv, committedFor 1 s = some o → liveMay s = true → settingsFit (s.region 1).active o.header conv = true → 0 < s.upd.regions.length →
    Runs (.galHandover true conv) s [.serv, .upd, .flow, .lead] fun t => t.lead = { s.lead with pause := true } ∧ t.upd.state = 0 ∧ t.upd.cur = none ∧
      t.upd.committed = false ∧ t.region 1 = { s.region 1 with
      state := 3, prev := some (s.region 1).active, active := imgOf o.header, left := 7200000000000, restarts := 0, fall := false, lastResult := 0 }) ∧
  (∀ s o conv, committedFor 1 s = some o → liveMay s = true → settingsFit (s.region 1).active o.header conv = true → 0 < s.upd.regions.length →
    Runs (.galHandover false conv) s [.serv, .upd, .flow] fun t => t.upd.state = 0 ∧ t.upd.cur = none ∧
      t.region 1 = { s.region 1 with state := (s.region 1).before, lastResult := 0xF }) ∧
  (∀ s o, committedFor 3 s = some o → liveMay s = true → settingsFit (s.region 3).active o.header true = true → 2 < s.upd.regions.length →
    Runs .lanHandover s [.serv, .upd, .flow] fun t => t.upd.state = 0 ∧ t.region 3 = { s.region 3 with
      state := 3, prev := some (s.region 3).active, active := imgOf o.header, left := 7200000000000, restarts := 0, fall := false, lastResult := 0 }) ∧
  (∀ s, committedFor 1 s = none → exec (.galHandover true true) s = .next s) ∧
  (∀ s o p u, committedFor 4 s = some o → liveMay s = true →
    packageOf s (o.header.take 32) (s.upd.body.take (o.total - 96)) (s.upd.body.drop (o.total - 96)) = some p → applyLive p s = (none, u) →
    3 < u.upd.regions.length → ∃ t, exec .mdpLiveApply s = .next t ∧ Only [.serv, .upd, .flow] u t ∧ t.upd.state = 0 ∧ t.upd.cur = none ∧ t.upd.committed = false ∧
      (u.upd.cur = none → (t.region 4).lastResult = 0)) ∧
  (∀ s, committedFor 4 s = none → exec .mdpLiveApply s = .next s) ∧
  (∀ s o, s.reachable = true → s.upd.cur = some o → s.upd.committed = true → stagedRegion o.region = true → o.region - 1 < s.upd.regions.length →
    Runs .imageStaged s [.serv, .upd, .flow] fun t => t.upd.state = 0 ∧ t.upd.cur = none ∧ t.region o.region = { s.region o.region with
      state := 2, staged := some (imgOf o.header), stagedMin := fieldLe o.header 22 2, lastResult := 0 }) ∧
  (∀ s c x conv, s.pw.dev = .start → stagedRegion c = true → c - 1 < s.upd.regions.length → (s.region c).staged = some x →
    x.format = (s.region c).active.format → Runs (.stagedCopy c true true conv) s [.upd, .flow] fun t => t.region c = { s.region c with
      staged := none, state := 3, prev := some (s.region c).active, active := x, left := 7200000000000, restarts := 0, fall := false, lastResult := 0 }) ∧
  (∀ s c x st conv, s.pw.dev = .start → stagedRegion c = true → c - 1 < s.upd.regions.length → (s.region c).staged = some x →
    Runs (.stagedCopy c false st conv) s [.upd, .flow] fun t =>
      t.region c = { s.region c with staged := none, state := (s.region c).before, lastResult := 0x13 }) ∧
  (∀ s c x conv, s.pw.dev = .start → stagedRegion c = true → c - 1 < s.upd.regions.length → (s.region c).staged = some x →
    x.format = (s.region c).active.format → Runs (.stagedCopy c true false conv) s [.upd, .flow] fun t => (t.region c).active = (s.region c).active ∧
      (t.region c).state = 0 ∧ (t.region c).staged = none) ∧
  (∀ s c, 1 ≤ c → c ≤ 8 → c - 1 < s.upd.regions.length → s.pw.dev = .run → (s.region c).state = 3 → (s.region c).left = 0 →
    Runs (.probationEnd c) s [.upd, .flow] fun t =>
    (t.region c).state = 4 ∧ (t.region c).prev = none ∧ (t.region c).fuse = max (s.region c).fuse (min (s.region c).active.rollback 63)) ∧
  (∀ s c, 1 ≤ c → c ≤ 8 → (s.region c).left ≠ 0 → exec (.probationEnd c) s = .next s) ∧
  (∀ s c x, 1 ≤ c → c ≤ 3 → c - 1 < s.upd.regions.length → s.reachable = true → (s.region c).state = 3 → (s.region c).prev = some x →
    Runs (.engineRestartFallBack c) s [.upd, .flow] fun t => (t.region c).active = x ∧ (t.region c).state = 0 ∧ (t.region c).prev = none) ∧
  (∀ s n hdr sig body, s.serves n 0x5A10 → (s.sessOf n).role = 2 ∨ (s.sessOf n).role = 4 → s.pw.dev = .ladder → hdr.length = 96 → sig.length = 96 →
    ladderFault hdr sig s = 0 → body.length = offerTotal hdr → sha384 body = hdr.drop 48 → headerRegion hdr - 1 < s.upd.regions.length →
    Written (.ladderImageWrite n hdr sig body) s n [.serv, .upd, .flow] fun t => (t.sessOf n).updResult = 0 ∧ t.upd.slot = none ∧
      (t.region (headerRegion hdr)).active = imgOf hdr ∧ (t.region (headerRegion hdr)).state = 0 ∧
      t.upd.ladderReason = ladderReasonAfter (headerRegion hdr) s.upd.ladderReason) ∧
  (∀ s n hdr sig body, s.serves n 0x5A10 → (s.sessOf n).role ≠ 2 → (s.sessOf n).role ≠ 4 →
    exec (.ladderImageWrite n hdr sig body) s = .next ((s.touch n).deny n 0x06010000))

/-! ## Power: wake (chapter 18) -/

/-- 18 R398, R400, R405, R407, R408, R415, 19 R429, 14 R326: IGN, KEYSVC, the alarm and a CAN wake start the module with the cause and the source
of Table 18-3 and R451; below the start-allowed level the wake is latched until BAT+ rises; KEYSVC with IGN selects Ladder, below that level as soon as BAT+ allows it; an IGN rise in Ladder
ends it; a wake in Shutdown waits for its end; after a critical temperature nothing wakes the module until IGN has been low. BatteryStatus
and DetectedSystem as detected. -/
def Obligations.PowerWake : Prop :=
  (∀ s, asleep s = true → (s.belay.criticalLock = false ∨ s.belay.ignSeenLow = true) → s.pw.keysvc = false → s.pw.belowWarning = false →
    ∃ t, exec .ignWake s = .next t ∧ Started 1 1 s t ∧ t.pw.ign = true) ∧
  (∀ s, asleep s = true → (s.belay.criticalLock = false ∨ s.belay.ignSeenLow = true) → s.pw.keysvc = false → s.pw.belowWarning = true →
    Runs .ignWake s [.pw, .belay] fun t => t.pw = { s.pw with ign := true, wake := some 1, keyHold := false } ∧
      t.belay = { s.belay with criticalLock := false }) ∧
  (∀ s, asleep s = true → (s.belay.criticalLock = false ∨ s.belay.ignSeenLow = true) → s.pw.keysvc = true → s.pw.belowWarning = false →
    ∃ t, exec .ignWake s = .next t ∧ Laddered 9 4 s t) ∧
  (∀ s, asleep s = true → (s.belay.criticalLock = false ∨ s.belay.ignSeenLow = true) → s.pw.keysvc = true → s.pw.belowWarning = true →
    Runs .ignWake s [.pw, .belay] fun t => t.pw = { s.pw with ign := true, wake := some 1, wakeLadder := true, keyHold := false } ∧
      t.belay = { s.belay with criticalLock := false }) ∧
  (∀ s, asleep s = true → s.belay.criticalLock = true → s.belay.ignSeenLow = false →
    exec .ignWake s = .next (s.updPw fun p => { p with ign := true })) ∧
  (∀ s, s.pw.dev = .ladder → s.pw.ign = false → s.belay.resetWait = false → ∃ t, exec .ignWake s = .next t ∧ Started 0xE 1 s t) ∧
  (∀ s, s.pw.dev = .shutdown → exec .ignWake s = .next (s.updPw fun p => { p with ign := true, wake := some (p.wake.getD 1) })) ∧
  (∀ s, (s.pw.dev = .start ∨ s.pw.dev = .run ∨ s.pw.dev = .service) → exec .ignWake s = .next (s.updPw fun p => { p with ign := true })) ∧
  (∀ s, asleep s = true → s.belay.criticalLock = false →
    exec .keysvcWake s = .next (s.updPw fun p => { p with keysvc := true, keyHold := true, wake := some 2 })) ∧
  (∀ s, s.pw.dev = .shutdown → exec .keysvcWake s = .next (s.updPw fun p => { p with keysvc := true, wake := some (p.wake.getD 2) })) ∧
  (∀ s, (asleep s = false ∨ s.belay.criticalLock = true) → s.pw.dev ≠ .shutdown → exec .keysvcWake s = .next (s.updPw fun p => { p with keysvc := true })) ∧
  (∀ s, asleep s = true → s.pw.keyHold = true → s.pw.belowWarning = false → ∃ t, exec .keysvcHoldExpiry s = .next t ∧ Started 1 2 s t) ∧
  (∀ s, asleep s = true → s.pw.keyHold = true → s.pw.belowWarning = true →
    exec .keysvcHoldExpiry s = .next (s.updPw fun p => { p with wake := some 2, keyHold := false })) ∧
  (∀ s, (asleep s = false ∨ s.pw.keyHold = false) → exec .keysvcHoldExpiry s = .next s) ∧
  (∀ s a, (s.pw.dev = .park ∨ s.pw.dev = .dormant) → s.nat 0x2013 1 ≠ 0 →
    a = (if s.nat 0x2013 2 = 0 then 0 else (s.nat 0x2013 1 + s.nat 0x2013 2 * 1000000000) % 2 ^ 64) →
    s.belay.restartWait = false → s.belay.criticalLock = false → s.pw.belowWarning = false →
    ∃ t, exec .alarmWake s = .next t ∧ Started 1 3 (s.put 0x2013 1 (.int (a : Nat))) t) ∧
  (∀ s a, (s.pw.dev = .park ∨ s.pw.dev = .dormant) → s.nat 0x2013 1 ≠ 0 →
    a = (if s.nat 0x2013 2 = 0 then 0 else (s.nat 0x2013 1 + s.nat 0x2013 2 * 1000000000) % 2 ^ 64) →
    s.belay.restartWait = false → s.belay.criticalLock = false → s.pw.belowWarning = true →
    exec .alarmWake s = .next ((s.put 0x2013 1 (.int (a : Nat))).updPw fun p => { p with wake := some 3, keyHold := false })) ∧
  (∀ s a, (s.pw.dev = .park ∨ s.pw.dev = .dormant) → s.nat 0x2013 1 ≠ 0 →
    a = (if s.nat 0x2013 2 = 0 then 0 else (s.nat 0x2013 1 + s.nat 0x2013 2 * 1000000000) % 2 ^ 64) →
    (s.belay.restartWait = true ∨ s.belay.criticalLock = true) → exec .alarmWake s = .next (s.put 0x2013 1 (.int (a : Nat)))) ∧
  (∀ s, ((s.pw.dev ≠ .park ∧ s.pw.dev ≠ .dormant) ∨ s.nat 0x2013 1 = 0) → exec .alarmWake s = .next s) ∧
  (∀ s a, s.pw.dev ≠ .park → s.pw.dev ≠ .dormant → s.nat 0x2013 1 ≠ 0 →
    a = (if s.nat 0x2013 2 = 0 then 0 else (s.nat 0x2013 1 + s.nat 0x2013 2 * 1000000000) % 2 ^ 64) →
    exec .alarmPassedAwake s = .next (s.put 0x2013 1 (.int (a : Nat)))) ∧
  (∀ s, (s.pw.dev = .park ∨ s.pw.dev = .dormant ∨ s.nat 0x2013 1 = 0) → exec .alarmPassedAwake s = .next s) ∧
  (∀ s w how, w < 2 → s.pw.dev = .park → s.belay.restartWait = false → s.belay.criticalLock = false → (s.cch (7 * w)).state = 5 →
    wakeMatch s w how ≠ 0 → s.pw.belowWarning = false → ∃ t, exec (.canWake w how) s = .next t ∧ Started 1 (4 + w) s t) ∧
  (∀ s w how, w < 2 → s.pw.dev = .park → s.belay.restartWait = false → s.belay.criticalLock = false → (s.cch (7 * w)).state = 5 →
    wakeMatch s w how ≠ 0 → s.pw.belowWarning = true → Runs (.canWake w how) s [.pw, .can] fun t =>
    t.pw = { s.pw with wake := some (4 + w), keyHold := false } ∧
    t.can = { s.can with wakes := updAt s.can.wakes w fun x => (inc32 x.1, wakeMatch s w how) }) ∧
  (∀ s w how, w < 2 → s.pw.dev = .shutdown → wakeMatch s w how ≠ 0 → Runs (.canWake w how) s [.pw, .can] fun t =>
    t.pw = { s.pw with wake := some (s.pw.wake.getD (4 + w)) } ∧
    t.can = { s.can with wakes := updAt s.can.wakes w fun x => (inc32 x.1, wakeMatch s w how) }) ∧
  (∀ s w how, w < 2 → (s.pw.dev ≠ .park ∧ s.pw.dev ≠ .shutdown ∨ wakeMatch s w how = 0 ∨
      s.pw.dev = .park ∧ (s.belay.criticalLock = true ∨ (s.cch (7 * w)).state ≠ 5)) →
    exec (.canWake w how) s = .next s) ∧
  (∀ s w, s.nat (0x5418 + w) 1 = 1 → wakeMatch s w .pattern = 1) ∧
  (∀ s w, s.nat (0x5418 + w) 1 = 2 → wakeMatch s w .errorCount = 3) ∧
  (∀ s, s.belay.resetWait = true → s.pw.dev = .ladder → ∃ t, exec .startAllowedWaitEnd s = .next t ∧ Laddered 6 s.upd.ladderReason s t) ∧
  (∀ s, s.belay.resetWait = true → s.pw.dev ≠ .ladder → ∃ t, exec .startAllowedWaitEnd s = .next t ∧ Started 6 s.pw.wakeSource s t) ∧
  (∀ s src, s.belay.resetWait = false → s.pw.wake = some src → asleep s = true → s.pw.keyHold = false → s.pw.wakeLadder = false →
    ∃ t, exec .startAllowedWaitEnd s = .next t ∧ Started 1 src s t) ∧
  (∀ s src, s.belay.resetWait = false → s.pw.wake = some src → asleep s = true → s.pw.keyHold = false → s.pw.wakeLadder = true →
    ∃ t, exec .startAllowedWaitEnd s = .next t ∧ Laddered 9 4 s t) ∧
  (∀ s, s.belay.resetWait = false → (s.pw.wake = none ∨ asleep s = false ∨ s.pw.keyHold = true) → exec .startAllowedWaitEnd s =
    .next (s.updPw fun p => { p with belowWarning := false, batMv := max p.batMv (startLevel s) })) ∧
  (∀ s m, s.pw.dev = .start → s.pw.systemVoltage = 0 → s.pw.detected = 0 →
    exec (.systemVoltageDetect m) s = .next (s.updPw fun p => { p with detected := if 18000 ≤ m then 2 else 1 })) ∧
  (∀ s m, (s.pw.dev ≠ .start ∨ s.pw.systemVoltage ≠ 0 ∨ s.pw.detected ≠ 0) → exec (.systemVoltageDetect m) s = .next s) ∧
  (∀ s a, exec (.batteryOvervoltage a) s = .next (s.updPw fun p => { p with overvoltage := a }))

/-! ## Power: device states (chapters 01 and 18) -/

/-- 01 R24, R28, R29, R31, 15 R345–R347, 18 R402, R404, R407, R411, 19 R429: the values of a Start are built from their layers, a package that
writes an object the dictionary lacks excepted; Start ends in Run with every function in its start mode, or in Ladder; the requests for a
device state by role and state; IGN and KEYSVC off; the end of a Shutdown in Park or Dormant, or in Start when a wake is latched; and the end of
Ladder. Causes as in R451. -/
def Obligations.PowerStates : Prop :=
  (∀ s, s.pw.dev = .start → s.reachable = true → s.per.built = false → s.per.mdpState ≠ 2 → s.per.package = none →
    ∃ t, exec .layerBuild s = .next t ∧ t.per.built = true ∧ t.per.mdpState = 0 ∧ t.pw.systemVoltage = t.nat 0x2010 1 ∧
    t.pw.shutdownLimit = t.nat 0x2010 3 ∧ t.serv.nodeId = t.nat 0x2103 1 ∧ t.flow.limit = t.nat 0x5800 7 ∧ t.sens.tare = t.int 0x4880 9 ∧
    (s.per.targets = [] → t.dict = retained s.dict)) ∧
  (∀ s p e l, s.pw.dev = .start → s.reachable = true → s.per.built = false → s.per.mdpState ≠ 2 → s.per.package = some p → p.entries = e :: l →
    objRow? e.index e.sub = none → ∃ t, exec .layerBuild s = .next t ∧ t.per.built = false ∧ t.per.mdpState = 2 ∧ t.per.mdpEntry = 1 ∧
    t.per.mdpAbort = 0x06020000 ∧ t.dict = retained s.dict) ∧
  (∀ s, (s.pw.dev ≠ .start ∨ s.reachable = false ∨ s.per.built = true ∨ s.per.mdpState = 2) → exec .layerBuild s = .next s) ∧
  (∀ s, s.pw.dev = .start → s.reachable = true → s.per.built = true → Runs .startToRun s [.pw, .belay, .flow, .upd, .loop] fun t =>
    t.pw = { s.pw with dev := .run } ∧ t.belay.history = (⟨s.tm.now / 1000000000, 4, 7⟩ :: s.belay.history).take 16 ∧
    ∀ f, f < 48 → f < s.loop.fn.length → t.fnOf f = { s.fnOf f with next := some (if s.steerFn = f then 1 else
      if s.nat (fnObj f) 2 = 2 ∧ (leadCtx s f = none ∨ (s.fnOf f).forced = true) then 1 else s.nat (fnObj f) 2) }) ∧
  (∀ s, (s.pw.dev ≠ .start ∨ s.reachable = false ∨ s.per.built = false) → exec .startToRun s = .next s) ∧
  (∀ s a b, s.pw.dev = .start → s.reachable = true → (a = true ∨ b = true) → ∃ t, exec (.startToLadder a b) s = .next t ∧
    Laddered 8 ((if a then 1 else 0) + 2 * (if b then 1 else 0)) s t) ∧
  (∀ s a b, (s.pw.dev ≠ .start ∨ s.reachable = false ∨ (a = false ∧ b = false)) → exec (.startToLadder a b) s = .next s) ∧
  (∀ s n, s.serves n 0x2000 → 1 ≤ (s.sessOf n).role → s.pw.dev = .run → exec (.deviceStateRequestRun n) s =
    .next (((s.touch n).put 0x2000 2 (.int 4)).ack n)) ∧
  (∀ s n, s.serves n 0x2000 → 1 ≤ (s.sessOf n).role → s.pw.dev = .service → Written (.deviceStateRequestRun n) s n [.pw, .belay, .flow, .upd, .dict] fun t =>
    t.pw = { s.pw with dev := .run, reqSess := none } ∧ t.dict = (s.put 0x2000 2 (.int 4)).dict ∧
    t.belay.history = (⟨s.tm.now / 1000000000, 4, 3⟩ :: s.belay.history).take 16) ∧
  (∀ s n, s.serves n 0x2000 → 1 ≤ (s.sessOf n).role → s.pw.dev ≠ .run → s.pw.dev ≠ .service →
    exec (.deviceStateRequestRun n) s = .next ((s.touch n).deny n 0x08000022)) ∧
  (∀ s n, s.serves n 0x2000 → (s.sessOf n).role = 0 → exec (.deviceStateRequestRun n) s = .next ((s.touch n).deny n 0x06010000)) ∧
  (∀ s n, s.serves n 0x2000 → (s.sessOf n).role = 2 ∨ (s.sessOf n).role = 4 → s.pw.dev = .service → exec (.deviceStateRequestService n) s =
    .next (((s.touch n).put 0x2000 2 (.int 5)).ack n)) ∧
  (∀ s n, s.serves n 0x2000 → (s.sessOf n).role = 2 ∨ (s.sessOf n).role = 4 → s.pw.dev = .run → serviceAllowed s = true →
    Written (.deviceStateRequestService n) s n [.pw, .belay, .flow, .upd, .dict, .lead, .pas, .opt, .loop] fun t =>
    t.pw = { s.pw with dev := .service, reqSess := some n } ∧ t.dict = (s.put 0x2000 2 (.int 5)).dict ∧
    t.belay.history = (⟨s.tm.now / 1000000000, 5, 3⟩ :: s.belay.history).take 16 ∧ t.lead.ring = [] ∧
    (s.opt.cycle.isSome = true → s.opt.void = none → t.opt.void = some 0x15) ∧
    (∀ f, f < s.loop.fn.length → (s.fnOf f).mode = 4 → (t.fnOf f).next = some 2) ∧ ∀ f, (s.fnOf f).mode ≠ 4 → t.fnOf f = s.fnOf f) ∧
  (∀ s n, s.serves n 0x2000 → (s.sessOf n).role = 2 ∨ (s.sessOf n).role = 4 → (s.pw.dev = .run ∧ serviceAllowed s = false ∨ s.pw.dev = .start ∨
    s.pw.dev = .shutdown) → exec (.deviceStateRequestService n) s = .next ((s.touch n).deny n 0x08000022)) ∧
  (∀ s n, s.serves n 0x2000 → (s.sessOf n).role ≠ 2 → (s.sessOf n).role ≠ 4 →
    exec (.deviceStateRequestService n) s = .next ((s.touch n).deny n 0x06010000)) ∧
  (∀ s n, s.serves n 0x2000 → 2 ≤ (s.sessOf n).role → (s.pw.dev = .run ∨ s.pw.dev = .service) → Written (.deviceStateRequestShutdown n) s n
    [.pw, .belay, .flow, .upd, .serv, .pctl, .pas, .lead, .free, .opt, .loop, .steer, .valve, .dict] fun t =>
    ShutDown 3 s t ∧ t.dict = (s.put 0x2000 2 (.int 7)).dict) ∧
  (∀ s n, s.serves n 0x2000 → 2 ≤ (s.sessOf n).role → s.pw.dev = .shutdown → exec (.deviceStateRequestShutdown n) s =
    .next (((s.touch n).put 0x2000 2 (.int 7)).ack n)) ∧
  (∀ s n, s.serves n 0x2000 → 2 ≤ (s.sessOf n).role → s.pw.dev = .start →
    exec (.deviceStateRequestShutdown n) s = .next ((s.touch n).deny n 0x08000022)) ∧
  (∀ s n, s.serves n 0x2000 → (s.sessOf n).role < 2 → exec (.deviceStateRequestShutdown n) s = .next ((s.touch n).deny n 0x06010000)) ∧
  (∀ s, (s.pw.dev = .run ∨ s.pw.dev = .service) → s.pw.ign = false → s.pw.keysvc = false → (∀ x ∈ s.serv.sess, x.opened = false) →
    Runs .ignOffDelayExpiry s [.pw, .belay, .flow, .upd, .serv, .pctl, .pas, .lead, .free, .opt, .loop, .steer, .valve] fun t => ShutDown 2 s t) ∧
  (∀ s, (s.pw.dev ≠ .run ∧ s.pw.dev ≠ .service ∨ s.pw.ign = true ∨ s.pw.keysvc = true ∨ ∃ x ∈ s.serv.sess, x.opened = true) →
    exec .ignOffDelayExpiry s = .next s) ∧
  (∀ s, s.pw.dev = .ladder → s.pw.ign = false → s.pw.keysvc = false → s.belay.resetWait = false →
    ∃ t, exec .ladderIgnOffExpiry s = .next t ∧ t.pw.dev = .dormant ∧ (∀ m, m < 16 → (t.sessOf m).opened = false) ∧
    (s.can.ch.length = 8 → ∀ c, c < 8 → (t.cch c).state = 0) ∧ t.belay.history = (⟨s.tm.now / 1000000000, 1, 2⟩ :: s.belay.history).take 16) ∧
  (∀ s, (s.pw.dev ≠ .ladder ∨ s.pw.ign = true ∨ s.pw.keysvc = true) → exec .ladderIgnOffExpiry s = .next s) ∧
  (∀ s, s.pw.dev = .park → Runs .parkDwellExpiry s [.pw, .belay, .can, .serv, .flow, .upd] fun t => t.pw = { s.pw with dev := .dormant } ∧
    t.belay.history = (⟨s.tm.now / 1000000000, 1, 0xC⟩ :: s.belay.history).take 16 ∧ (s.can.ch.length = 8 → ∀ c, c < 8 → (t.cch c).state = 0)) ∧
  (∀ s, s.pw.dev ≠ .park → exec .parkDwellExpiry s = .next s) ∧
  (∀ s, s.pw.dev = .shutdown → s.belay.resetWait = false → (s.belay.onHoldup = true ∨ s.pw.wake = none ∨ s.belay.criticalLock = true) →
    ∃ t, exec .shutdownComplete s = .next t ∧ Rested s t ∧ (s.belay.onHoldup = false → t.pw.wake = none) ∧ t.fleet.queue = s.fleet.queue) ∧
  (∀ s src, s.pw.dev = .shutdown → s.belay.resetWait = false → s.belay.onHoldup = false → s.pw.wake = some src → s.belay.criticalLock = false →
    s.pw.belowWarning = true → ∃ t, exec .shutdownComplete s = .next t ∧ Rested s t ∧ t.pw.wake = some src) ∧
  (∀ s src, s.pw.dev = .shutdown → s.belay.resetWait = false → s.belay.onHoldup = false → s.pw.wake = some src → s.belay.criticalLock = false →
    s.pw.belowWarning = false → ∃ u t, exec .shutdownComplete s = .next t ∧ Rested s u ∧ Started 1 src u t) ∧
  (∀ s, s.pw.dev = .shutdown → s.belay.resetWait = false → s.belay.onHoldup = false → s.pw.wake = none →
    s.belay.shutdownAt + s.pw.shutdownLimit * 1000000 ≤ s.tm.now → ∃ t, exec .shutdownLimitExpiry s = .next t ∧ Rested s t ∧ t.fleet.queue = [] ∧
    t.fleet.dropped = add32 s.fleet.dropped (s.fleet.queue.countP fun m => m.topic == 1) ∧ (s.per.store.isSome = true → t.belay.cut = true)) ∧
  (∀ s, (s.pw.dev ≠ .shutdown ∨ s.belay.onHoldup = true ∨ s.tm.now < s.belay.shutdownAt + s.pw.shutdownLimit * 1000000) →
    exec .shutdownLimitExpiry s = .next s) ∧
  (∀ s, s.pw.dev ≠ .shutdown → exec .shutdownComplete s = .next s) ∧
  (∀ s k, Runs (.ignKeysvcFall true k) s [.pw, .belay, .flow, .upd, .loop, .steer, .valve, .fio] fun t =>
    t.pw = { s.pw with ign := false, keysvc := s.pw.keysvc && !k } ∧ t.belay = { s.belay with ignSeenLow := true } ∧ t.noEnable = true ∧
    t.steer.engaged = false) ∧
  (∀ s k, exec (.ignKeysvcFall false k) s = .next (s.updPw fun p => { p with keysvc := p.keysvc && !k })) ∧
  (∀ s n, s.serves n 0x5A10 → (s.sessOf n).role = 2 ∨ (s.sessOf n).role = 4 → s.pw.dev = .ladder → s.upd.ladderReason % 4 = 0 →
    ∃ t, exec (.leaveLadder n) s = .next (t.ack n) ∧ Started 0xD s.pw.wakeSource s t) ∧
  (∀ s n, s.serves n 0x5A10 → (s.sessOf n).role = 2 ∨ (s.sessOf n).role = 4 → s.pw.dev = .ladder → s.upd.ladderReason % 4 ≠ 0 →
    exec (.leaveLadder n) s = .next ((s.touch n).deny n 0x08000022)) ∧
  (∀ s n, s.serves n 0x5A10 → s.pw.dev ≠ .ladder → exec (.leaveLadder n) s = .next ((s.touch n).deny n 0x08000022)) ∧
  (∀ s n, s.serves n 0x5A10 → s.pw.dev = .ladder → (s.sessOf n).role ≠ 2 → (s.sessOf n).role ≠ 4 →
    exec (.leaveLadder n) s = .next ((s.touch n).deny n 0x06010000))

/-! ## Power: supply, temperature and memory (chapters 01 and 18) -/

/-- 18 R398–R405, R409, R412, R415, 01 R21, R29: an episode below the warning level opens and closes with its records; the reset level with the
bank armed goes to Shutdown on hold-up with the load shed, and without it resets Kilxus; the bank's charge and the restart after hold-up; the
loss of Belay's supply; the temperature states and the seconds of throttling; and ECC errors: the functions of the Column or the loop are forced safe, another engine starts
anew (the extent of that restart is the model's choice, log 61). -/
def Obligations.PowerSupply : Prop :=
  (∀ s m, m ≤ warnLevel s → s.reachable = true → s.pw.episode = false → Runs (.brownoutOpen m) s [.pw, .flow, .upd] fun t =>
    t.pw = { s.pw with batMv := m, batMin := min s.pw.batMin m, belowWarning := true, episode := true, episodeMin := m
                       episodeCount := inc32 s.pw.episodeCount } ∧
    t.flow = (beginFlush (s.record ⟨0x1003, 0, 1, [], [], 0xFFFFFFFF, 0xF⟩)).flow) ∧
  (∀ s m, m ≤ warnLevel s → (s.reachable = false ∨ s.pw.episode = true) → exec (.brownoutOpen m) s =
    .next (s.updPw fun p => { p with batMv := m, batMin := min p.batMin m, belowWarning := true })) ∧
  (∀ s m, warnLevel s < m → exec (.brownoutOpen m) s = .next s) ∧
  (∀ s m d, s.pw.episode = true → Runs (.brownoutClose m d) s [.pw, .flow, .upd] fun t =>
    t.pw = { s.pw with belowWarning := false, batMv := max s.pw.batMv (startLevel s), episode := false, episodeMin := m, lastEpisodeMin := m
                       lastEpisodeDuration := d, batMin := min s.pw.batMin m } ∧
    t.flow = (s.record ⟨0x1004, 0, 1, leBytes 2 m ++ leBytes 4 d, [], 0xFFFFFFFF, 0xF⟩).flow) ∧
  (∀ s m d, s.pw.episode = false → exec (.brownoutClose m d) s =
    .next (s.updPw fun p => { p with belowWarning := false, batMv := max p.batMv (startLevel s) })) ∧
  (∀ s m, s.reachable = true → s.belay.holdup = .armed → m ≤ resetLevel s → s.pw.dev ≠ .shutdown → ∃ t, exec (.resetLevelHoldup m) s = .next t ∧
    t.pw.dev = .shutdown ∧ t.pw.batMv = m ∧ t.pw.episode = false ∧ t.belay.holdup = .supplying ∧ t.belay.onHoldup = true ∧
    t.belay.holdupCount = inc32 s.belay.holdupCount ∧ t.belay.shutdownAt = s.tm.now ∧
    t.belay.history = (⟨s.tm.now / 1000000000, 7, 5⟩ :: s.belay.history).take 16 ∧ t.steer.engaged = false ∧ t.pctl.events = [] ∧ t.lead.ring = [] ∧
    (s.upd.committed = false → t.upd.cur = none) ∧ (s.net.ports.length = 4 → ∀ p, p < 4 → (t.net.ports.getD p {}).link = false) ∧
    (s.can.ch.length = 8 → ∀ c, 1 ≤ c → c ≤ 6 → (t.cch c).state = 0)) ∧
  (∀ s m, s.reachable = true → s.belay.holdup = .armed → m ≤ resetLevel s → s.pw.dev = .shutdown →
    Runs (.resetLevelHoldup m) s [.pw, .belay, .net, .tm, .sky, .can, .serv] fun t =>
    t.pw = { s.pw with batMv := m, batMin := min s.pw.batMin m, belowWarning := true } ∧
    t.belay = { s.belay with holdup := .supplying, onHoldup := true, holdupCount := inc32 s.belay.holdupCount, shutdownAt := s.tm.now }) ∧
  (∀ s m, (s.reachable = false ∨ s.belay.holdup ≠ .armed ∨ resetLevel s < m) → exec (.resetLevelHoldup m) s = .next s) ∧
  (∀ s d, s.belay.resetWait = false → (s.pw.dev = .ladder ∧ d = .ladder ∨ s.reachable = true ∧ d = .start) → s.belay.holdup ≠ .armed →
    s.belay.holdup ≠ .supplying → ∃ t, exec .resetLevelNoHoldup s = .next t ∧ t.pw.dev = d ∧ t.belay.resetWait = true ∧ t.belay.holdup = .off ∧
    t.belay.onHoldup = false ∧ t.belay.history = (⟨s.tm.now / 1000000000, devCode d, 6⟩ :: s.belay.history).take 16 ∧
    t.serv.sess = List.replicate 16 {} ∧ t.dict = retained s.dict ∧ t.flow.wait = [] ∧ t.fleet.queue = [] ∧ t.pas.ring = [] ∧
    t.noEnable = true ∧ t.steer.engaged = false ∧ (s.upd.state = 1 → t.upd.state = 4)) ∧
  (∀ s, (s.belay.resetWait = true ∨ (s.pw.dev ≠ .ladder ∧ s.reachable = false) ∨ s.belay.holdup = .armed ∨ s.belay.holdup = .supplying) →
    exec .resetLevelNoHoldup s = .next s) ∧
  (∀ s e, s.belay.holdup = .charging → s.reachable = true → exec (.holdupArmed e true) s =
    .next (s.updBelay fun b => { b with holdup := .armed, holdupMv := 32000, holdupEnergy := e })) ∧
  (∀ s e, s.belay.holdup = .charging → s.reachable = true → exec (.holdupArmed e false) s =
    .next (s.updBelay fun b => { b with holdup := .fault })) ∧
  (∀ s e k, (s.belay.holdup ≠ .charging ∨ s.reachable = false) → exec (.holdupArmed e k) s = .next s) ∧
  (∀ s, s.belay.restartWait = true → s.belay.criticalLock = false → s.pw.ign = true →
    ∃ t, exec .holdupRestartWaitEnd s = .next t ∧ Started 1 1 s t) ∧
  (∀ s, s.belay.restartWait = true → s.belay.criticalLock = false → s.pw.ign = false → s.pw.keysvc = true →
    ∃ t, exec .holdupRestartWaitEnd s = .next t ∧ Started 1 2 s t) ∧
  (∀ s, s.belay.restartWait = true → (s.belay.criticalLock = true ∨ (s.pw.ign = false ∧ s.pw.keysvc = false)) →
    Runs .holdupRestartWaitEnd s [.pw, .belay] fun t => t.belay = { s.belay with restartWait := false } ∧
    t.pw = { s.pw with belowWarning := false, batMv := max s.pw.batMv (startLevel s), wake := none }) ∧
  (∀ s, s.belay.restartWait = false → exec .holdupRestartWaitEnd s = .next s) ∧
  (∀ s, ∃ t, exec .belayPowerLoss s = .next t ∧ t.pw.dev = .dormant ∧ t.pw.wake = none ∧ t.belay.rtcValid = false ∧ t.belay.rtc = 0 ∧
    t.belay.history = [] ∧ t.belay.memLost = true ∧ t.belay.criticalLock = false ∧ t.belay.holdup = .off ∧ t.serv.sess = List.replicate 16 {} ∧
    t.dict = (retained s.dict).filter (fun e => e.1 / 256 != 0x2013) ∧ t.pas.nextParcelNor = s.pas.nextParcelNor ∧ t.noEnable = true ∧
    t.steer.engaged = false) ∧
  (∀ s, s.belay.throttled = false → exec (.thermalThrottle true) s =
    .next (s.updBelay fun b => { b with throttled := true, throttleAt := s.tm.mono })) ∧
  (∀ s, s.belay.throttled = true → exec (.thermalThrottle false) s =
    .next (s.updBelay fun b => { b with throttled := false, throttleTime := b.throttleTime + (s.tm.mono - b.throttleAt) })) ∧
  (∀ s, exec (.thermalThrottle s.belay.throttled) s = .next s) ∧
  (∀ s : State, powerRead s 0x2014 4 = some (.int ((s.belay.throttleTime + (if s.belay.throttled then s.tm.mono - s.belay.throttleAt else 0)) / 1000000000 : Nat))) ∧
  (∀ s, (s.pw.dev = .run ∨ s.pw.dev = .service) →
    Runs .thermalCritical s [.pw, .belay, .flow, .upd, .serv, .pctl, .pas, .lead, .free, .opt, .loop, .steer, .valve] fun t =>
    ShutDown 4 s t ∧ t.belay.critical = true ∧ t.belay.criticalLock = true ∧ t.belay.ignSeenLow = !s.pw.ign) ∧
  (∀ s, s.pw.dev ≠ .run → s.pw.dev ≠ .service → exec .thermalCritical s = .next s) ∧
  (∀ s m n, n = inc32 (((s.belay.eccCount.find? fun p => p.1 == m).map (·.2)).getD 0) → Runs (.eccCorrected m) s [.belay, .flow, .upd] fun t =>
    t.belay.eccCount.find? (fun p => p.1 == m) = some (m, n) ∧ (∀ k, k ≠ m → t.belay.eccCount.find? (fun p => p.1 == k) =
      s.belay.eccCount.find? fun p => p.1 == k) ∧ t.flow = (s.record ⟨0x1006, m, 0, leBytes 4 n, [], 0xFFFFFFFF, 0xF⟩).flow) ∧
  (∀ s m l a, Runs (.eccUncorrectable m (.columnOrLoop l) a) s [.flow, .upd, .loop, .lead] fun t =>
    t.flow = (s.record ⟨0x1007, m, 2, leBytes 8 a, [], 0xFFFFFFFF, 0xF⟩).flow ∧
    (∀ f, f ∈ l → f < 48 → f < s.loop.fn.length → (t.fnOf f).forced = true ∧ (t.fnOf f).mode = 1 ∧ (t.fnOf f).safe = true) ∧
    ∀ f, f ∉ l → t.fnOf f = s.fnOf f) ∧
  (∀ s m e a, ∃ t, exec (.eccUncorrectable m (.other e) a) s = .next t ∧ t.belay.engineRestarts = bump s.belay.engineRestarts e ∧
    t.pw = s.pw ∧ t.dict = s.dict ∧ t.loop = s.loop ∧ t.steer = s.steer ∧
    (e = 5 → t.pas.ring = [] ∧ t.pctl.events = [] ∧ t.lead.ring = []) ∧ (e = 0xB → t.skyio = {} ∧ t.sky.state = 1) ∧
    (e = 0xE → t.serv.sess = List.replicate 16 {}) ∧ (e = 0x10 → t.fio = {}) ∧ (e ≠ 5 → t.pas = s.pas ∧ t.pctl = s.pctl) ∧
    (e ≠ 0x10 → t.fio = s.fio))

/-! ## The dictionary server (chapter 15) -/

/-- 15 R334–R336, R341, R343, R344, R357–R359, 02 R69, 05 R146, 19 R425: writes by index, the five kinds of AbortCommand, and the datagrams of a
session: opening, sequence and tag, reads, segmented writes, cancel and keep-alive. A SEQ is judged against the last accepted one modulo
65,536 (the model's choice, log 5). -/
def Obligations.Server : Prop :=
  (∀ s n i sub d, s.serves n i → objRow? i sub = none → exec (.objectWrite n i sub d) s = .next ((s.touch n).deny n 0x06020000)) ∧
  (∀ s n i sub d r k g, s.serves n i → objRow? i sub = some r → r.acc ≠ .ro → r.right.met (s.sessOf n).role = true → r.ty.size = some (k, g) →
    d.length ≠ k → exec (.objectWrite n i sub d) s = .next ((s.touch n).deny n 0x06070010)) ∧
  (∀ s n i sub d r, s.serves n i → objRow? i sub = some r → r.acc = .ro → i / 256 = 0x10 →
    exec (.objectWrite n i sub d) s = .next ((s.touch n).deny n 0x06010002)) ∧
  (∀ s n x, s.admits n 0x2103 1 (.int (x : Nat)) → Written (.objectWrite n 0x2103 1 [byteOf x]) s n [.dict] fun t =>
    t.val 0x2103 1 = .int (x : Nat) ∧ ∀ j k, (j, k) ≠ (0x2103, 1) → t.val j k = s.val j k) ∧
  (∀ s n, s.admits n 0x6000 1 (.int 1) → s.per.fuse = false → Written (.objectWrite n 0x6000 1 [1#8]) s n [.per] fun t =>
    t.per = { s.per with fuse := true }) ∧
  (∀ s n d, s.serves n 0x6000 → s.per.fuse = true → d.length = 1 → exec (.objectWrite n 0x6000 1 d) s = .next ((s.touch n).deny n 0x06010002)) ∧
  (∀ s n i sub d, n < 16 → ((s.sessOf n).opened = false ∨ (s.reachable = false ∧ s.pw.dev ≠ .ladder)) → exec (.objectWrite n i sub d) s = .next s) ∧
  (∀ s n m, s.admits n 0x2200 1 (.int (0x1000000 + m * 0x10000 : Nat)) → m < 16 → (n = m ∨ (s.sessOf n).role = 2 ∨ (s.sessOf n).role = 4) →
    (s.sessOf m).transfer = none → Written (.abortTransfer n m) s n [.serv] fun t =>
    t.sessOf n = { (s.touch n).sessOf n with abortResult := 2, abortAccepted := s.tm.now, abortCompleted := s.tm.now, aborting := none } ∧
    ∀ k, k ≠ n → t.sessOf k = s.sessOf k) ∧
  (∀ s n m, s.admits n 0x2200 1 (.int (0x1000000 + m * 0x10000 : Nat)) → m < 16 → n ≠ m → ((s.sessOf n).role = 2 ∨ (s.sessOf n).role = 4) →
    (s.sessOf m).transfer.isSome = true → Written (.abortTransfer n m) s n [.serv] fun t => (t.sessOf n).abortResult = 0 ∧
    (t.sessOf n).abortCompleted = s.tm.now ∧ t.sessOf m = { s.sessOf m with transfer := none, answer := 0x08000000 }) ∧
  (∀ s n, s.admits n 0x2200 1 (.int (0x1000000 + n * 0x10000 : Nat)) → (s.sessOf n).transfer.isSome = true →
    Written (.abortTransfer n n) s n [.serv] fun t => (t.sessOf n).transfer = none ∧ (t.sessOf n).abortResult = 0 ∧
    (t.sessOf n).abortCompleted = s.tm.now) ∧
  (∀ s n m, s.admits n 0x2200 1 (.int (0x1000000 + m * 0x10000 : Nat)) → m < 16 → n ≠ m → (s.sessOf n).role ≠ 2 → (s.sessOf n).role ≠ 4 →
    exec (.abortTransfer n m) s = .next ((s.touch n).deny n 0x06010000)) ∧
  (∀ s n m, s.admits n 0x2200 1 (.int (0x1000000 + m * 0x10000 : Nat)) → 16 ≤ m → m < 256 →
    exec (.abortTransfer n m) s = .next ((s.touch n).deny n 0x06090030)) ∧
  (∀ s n f, s.admits n 0x2200 1 (.int (0x2000000 + f * 0x10000 : Nat)) → f < 48 → s.pw.dev ≠ .shutdown → f < s.loop.fn.length →
    Written (.abortFunction n f) s n [.serv, .loop] fun t => t.fnOf f = { s.fnOf f with abort := true } ∧ (∀ g, g ≠ f → t.fnOf g = s.fnOf g) ∧
    t.loop.ctx = s.loop.ctx ∧ (t.sessOf n).abortResult = 1 ∧ (t.sessOf n).abortAccepted = s.tm.now ∧ (t.sessOf n).abortCompleted = 0 ∧
    (t.sessOf n).aborting = some f) ∧
  (∀ s n f, s.admits n 0x2200 1 (.int (0x2000000 + f * 0x10000 : Nat)) → f < 48 → s.pw.dev = .shutdown →
    Written (.abortFunction n f) s n [.serv] fun t => (t.sessOf n).abortResult = 2 ∧ (t.sessOf n).abortCompleted = s.tm.now) ∧
  (∀ s n f, s.admits n 0x2200 1 (.int (0x2000000 + f * 0x10000 : Nat)) → 48 ≤ f → f < 256 →
    exec (.abortFunction n f) s = .next ((s.touch n).deny n 0x06090030)) ∧
  (∀ s n, s.admits n 0x2200 1 (.int 0x3000000) → s.pw.dev ≠ .shutdown → Written (.abortAllFunctions n) s n [.serv, .loop] fun t =>
    t.loop.fn = s.loop.fn.map (fun x => { x with abort := true }) ∧ t.loop.ctx = s.loop.ctx ∧ (t.sessOf n).abortResult = 1 ∧
    (t.sessOf n).abortAccepted = s.tm.now ∧ (t.sessOf n).aborting = some 48) ∧
  (∀ s n, s.admits n 0x2200 1 (.int 0x3000000) → s.pw.dev = .shutdown → Written (.abortAllFunctions n) s n [.serv] fun t =>
    (t.sessOf n).abortResult = 2 ∧ (t.sessOf n).abortCompleted = s.tm.now) ∧
  (∀ s n, s.admits n 0x2200 1 (.int 0x4000000) → 2 ≤ (s.sessOf n).role →
    Written (.abortPassageReset n) s n [.serv, .free, .flow, .upd, .pctl, .lead, .pas, .opt] fun t => t.pas.ring = [] ∧ t.pctl.events = [] ∧
      t.pctl.resetActive = true ∧ t.pctl.resetSess = some n ∧ t.lead.ring = [] ∧ (t.sessOf n).abortResult = 1 ∧ (t.sessOf n).abortAccepted = s.tm.now) ∧
  (∀ s n, s.admits n 0x2200 1 (.int 0x4000000) → (s.sessOf n).role < 2 →
    exec (.abortPassageReset n) s = .next ((s.touch n).deny n 0x06010000)) ∧
  (∀ s n, s.admits n 0x2200 1 (.int 0x5000000) → s.upd.cur = none → Written (.abortUpdate n) s n [.serv] fun t => (t.sessOf n).abortResult = 2) ∧
  (∀ s n o, s.admits n 0x2200 1 (.int 0x5000000) → s.upd.cur = some o → (s.upd.owner = some n ∨ (s.sessOf n).role = 2 ∨ (s.sessOf n).role = 4) →
    Written (.abortUpdate n) s n [.serv, .upd, .flow] fun t => t.upd.state = 0 ∧ t.upd.owner = none ∧ t.upd.cur = none ∧
      (o.region - 1 < s.upd.regions.length → (t.region o.region).lastResult = 0x11) ∧ (t.sessOf n).abortResult = 0) ∧
  (∀ s n o, s.admits n 0x2200 1 (.int 0x5000000) → s.upd.cur = some o → s.upd.owner ≠ some n → (s.sessOf n).role ≠ 2 → (s.sessOf n).role ≠ 4 →
    exec (.abortUpdate n) s = .next ((s.touch n).deny n 0x06010000)) ∧
  (∀ s tr ip b, tr ≠ .c8 → (b.length < 24 ∨ fieldLe b 0 2 ≠ 0x444C ∨ fieldLe b 2 1 ≠ 1) → exec (.datagram tr ip b) s = .next s) ∧
  (∀ s tr ip b, tr ≠ .c8 → (transportServes s tr = false ∨ (s.reachable = false ∧ s.pw.dev ≠ .ladder)) → exec (.datagram tr ip b) s = .next s) ∧
  (∀ s tr ip b q n, tr ≠ .c8 → transportServes s tr = true → sessionsOpen s = true → requestOf b = some q → q.opcode = 1 → freeSession s = some n →
    s.serv.sess.length = 16 → Runs (.datagram tr ip b) s [.serv] fun t => (t.sessOf n).opened = true ∧ (t.sessOf n).role = 0 ∧
    (t.sessOf n).transport = tr ∧ (t.sessOf n).source = ip ∧ (t.sessOf n).lastSeq = some q.seq ∧ (∀ m, m ≠ n → t.sessOf m = s.sessOf m) ∧
    Replied q n 0 [] t) ∧
  (∀ s tr ip b q, tr ≠ .c8 → transportServes s tr = true → s.reachable = true → requestOf b = some q → q.opcode = 1 → freeSession s = none →
    Runs (.datagram tr ip b) s [.serv] fun t => t.serv.sess = s.serv.sess ∧ Replied q 0xFF 0x08000022 [] t) ∧
  (∀ s tr ip b q, tr ≠ .c8 → s.reachable = true → transportServes s tr = true → requestOf b = some q → q.opcode ≠ 1 → q.session < 16 →
    (s.sessOf q.session).opened = true → (s.sessOf q.session).transport = tr → (s.sessOf q.session).source = ip → (s.sessOf q.session).role ≠ 0 →
    (q.flags.testBit 2 = false ∨ (hmac256 (hmac256 (s.sessOf q.session).key (s.sessOf q.session).response) (b.take (24 + q.data.length))).take 16 ≠
      q.tag) → Runs (.datagram tr ip b) s [.serv] fun t => t.serv = { s.serv with rejected := inc32 s.serv.rejected }) ∧
  (∀ s tr ip b q l, s.asks tr ip b q → (s.sessOf q.session).lastSeq = some l → l < 65536 → l ≠ q.seq → ¬ s.seqNew q →
    Runs (.datagram tr ip b) s [.serv] fun t => t.serv = { s.serv with rejected := inc32 s.serv.rejected }) ∧
  (∀ s tr ip b q, s.asks tr ip b q → (s.sessOf q.session).lastSeq = some q.seq → Runs (.datagram tr ip b) s [.serv] fun t =>
    t.serv.reply = (s.sessOf q.session).lastAnswer ∧ (∀ m, m ≠ q.session → t.sessOf m = s.sessOf m) ∧
    t.sessOf q.session = { s.sessOf q.session with lastReq := s.tm.mono }) ∧
  (∀ s tr ip b q, s.asks tr ip b q → s.seqNew q → q.opcode = 5 → Runs (.datagram tr ip b) s [.serv] fun t => Replied q q.session 0 [] t ∧
    t.sessOf q.session = { s.sessOf q.session with lastReq := s.tm.mono, lastSeq := some q.seq, lastAnswer := t.serv.reply } ∧
    ∀ m, m ≠ q.session → t.sessOf m = s.sessOf m) ∧
  (∀ s tr ip b q, s.asks tr ip b q → s.seqNew q → q.opcode = 4 → Runs (.datagram tr ip b) s [.serv] fun t => Replied q q.session 0 [] t ∧
    (t.sessOf q.session).transfer = none ∧ ∀ m, m ≠ q.session → t.sessOf m = s.sessOf m) ∧
  (∀ s tr ip b q, s.asks tr ip b q → s.seqNew q → (q.opcode = 0 ∨ 5 < q.opcode) → Runs (.datagram tr ip b) s [.serv] fun t =>
    Replied q q.session 0x05040001 [] t ∧ (t.sessOf q.session).transfer = (s.sessOf q.session).transfer) ∧
  (∀ s tr ip b q, s.asks tr ip b q → s.seqNew q → q.opcode = 2 → q.offset = 0 → readRefused s q.session q.index q.sub ≠ 0 →
    Runs (.datagram tr ip b) s [.serv] fun t => Replied q q.session (readRefused s q.session q.index q.sub) [] t) ∧
  (∀ s tr ip b q, s.asks tr ip b q → s.seqNew q → q.opcode = 2 → q.offset = 0 → q.index = 0x1018 → q.sub = 4 →
    Runs (.datagram tr ip b) s [.serv] fun t => Replied q q.session 0 (leInt 4 Config.serialNumber) t ∧
    (t.sessOf q.session).readCopy = some (0x1018, 4, leInt 4 Config.serialNumber)) ∧
  (∀ s tr ip b q d, s.asks tr ip b q → s.seqNew q → q.opcode = 2 → 0 < q.offset → (s.sessOf q.session).readCopy = some (q.index, q.sub, d) →
    q.offset ≤ d.length → s.tm.mono < (s.sessOf q.session).lastReq + 2000000000 →
    Runs (.datagram tr ip b) s [.serv] fun t => Replied q q.session 0 ((d.drop q.offset).take 1024) t) ∧
  (∀ s tr ip b q, s.asks tr ip b q → s.seqNew q → q.opcode = 3 → q.offset = 0 → q.flags.testBit 0 = false → Runs (.datagram tr ip b) s [.serv] fun t =>
    (t.sessOf q.session).transfer = some ⟨q.index, q.sub, q.status, q.data, s.tm.mono⟩ ∧ Replied q q.session 0 [] t) ∧
  (∀ s tr ip b q x, s.asks tr ip b q → s.seqNew q → q.opcode = 3 → (s.sessOf q.session).transfer = some x → x.index = q.index → x.sub = q.sub →
    0 < q.offset → q.offset = x.data.length → (x.data ++ q.data).length ≤ x.total → q.flags.testBit 0 = false →
    Runs (.datagram tr ip b) s [.serv] fun t => (t.sessOf q.session).transfer = some { x with data := x.data ++ q.data, segAt := s.tm.mono } ∧ Replied q q.session 0 [] t) ∧
  (∀ s tr ip b q x, s.asks tr ip b q → s.seqNew q → q.opcode = 3 → (s.sessOf q.session).transfer = some x → 0 < q.offset →
    (q.offset ≠ x.data.length ∨ (q.flags.testBit 0 = true ∧ (x.data ++ q.data).length ≠ x.total)) → Runs (.datagram tr ip b) s [.serv] fun t =>
    (t.sessOf q.session).transfer = none ∧ Replied q q.session 0x08000020 [] t) ∧
  (∀ s tr ip b q x, s.asks tr ip b q → s.seqNew q → q.opcode = 3 → (s.sessOf q.session).transfer = some x → x.index = q.index → x.sub = q.sub →
    0 < q.offset → q.offset = x.data.length → (x.data ++ q.data).length = x.total → q.flags.testBit 0 = true → objRow? x.index x.sub = none →
    Runs (.datagram tr ip b) s [.serv] fun t => (t.sessOf q.session).transfer = none ∧ Replied q q.session 0x06020000 [] t) ∧
  (∀ s tr ip b q, tr ≠ .c8 → s.reachable = true → transportServes s tr = true → requestOf b = some q → q.opcode ≠ 1 →
    (16 ≤ q.session ∨ (s.sessOf q.session).opened = false ∨ (s.sessOf q.session).transport ≠ tr ∨ (s.sessOf q.session).source ≠ ip) →
    exec (.datagram tr ip b) s = .next s)
end

