-- ==== Sys2Proof/Laws/Dict.lean ====
section
/-! SUPPORT. The dictionary's list of values: what a read gives after a write, and that every operation keeps the canonical form. -/

namespace Sys2Proof.Machine

set_option Elab.async false

theorem dictWf_iff {l : List (Nat × Val)} :
    dictWf l = true ↔ l.Pairwise (fun a b => a.1 < b.1) ∧ ∀ e ∈ l, e.2 ≠ keyDefault e.1 := by
  simp [dictWf]

theorem dictWf_filter {l : List (Nat × Val)} (p : Nat × Val → Bool) (h : dictWf l = true) : dictWf (l.filter p) = true := by
  rw [dictWf_iff] at *
  exact ⟨h.1.filter p, fun e m => h.2 e (List.mem_filter.1 m).1⟩

theorem mem_dictErase {l : List (Nat × Val)} {k : Nat} {e : Nat × Val} (h : e ∈ dictErase l k) : e ∈ l := by
  induction l with
  | nil => exact h
  | cons a t ih =>
    obtain ⟨j, w⟩ := a
    simp only [dictErase] at h
    split at h
    · exact List.mem_cons_of_mem _ h
    · split at h
      · exact h
      · rcases List.mem_cons.1 h with rfl | h
        · exact List.mem_cons_self
        · exact List.mem_cons_of_mem _ (ih h)

theorem mem_dictInsert {l : List (Nat × Val)} {k : Nat} {v : Val} {e : Nat × Val} (h : e ∈ dictInsert l k v) : e = (k, v) ∨ e ∈ l := by
  induction l with
  | nil => exact .inl (List.mem_singleton.1 h)
  | cons a t ih =>
    obtain ⟨j, w⟩ := a
    simp only [dictInsert] at h
    split at h
    · rcases List.mem_cons.1 h with h | h
      · exact .inl h
      · exact .inr (List.mem_cons_of_mem _ h)
    · split at h
      · exact List.mem_cons.1 h
      · rcases List.mem_cons.1 h with rfl | h
        · exact .inr List.mem_cons_self
        · exact (ih h).imp_right (List.mem_cons_of_mem _)

theorem dictErase_sorted {l : List (Nat × Val)} (k : Nat) (h : l.Pairwise fun a b => a.1 < b.1) :
    (dictErase l k).Pairwise fun a b => a.1 < b.1 := by
  induction l with
  | nil => exact .nil
  | cons a t ih =>
    obtain ⟨j, w⟩ := a
    rw [List.pairwise_cons] at h
    simp only [dictErase]
    split
    · exact h.2
    · split
      · exact List.pairwise_cons.2 h
      · exact List.pairwise_cons.2 ⟨fun b m => h.1 b (mem_dictErase m), ih h.2⟩

theorem dictInsert_sorted {l : List (Nat × Val)} (k : Nat) (v : Val) (h : l.Pairwise fun a b => a.1 < b.1) :
    (dictInsert l k v).Pairwise fun a b => a.1 < b.1 := by
  induction l with
  | nil => exact List.pairwise_singleton _ _
  | cons a t ih =>
    obtain ⟨j, w⟩ := a
    have h0 := h
    rw [List.pairwise_cons] at h
    simp only [dictInsert]
    split
    next e => subst e; exact List.pairwise_cons.2 ⟨h.1, h.2⟩
    next e =>
      split
      next l => exact List.pairwise_cons.2 ⟨fun b m => (List.mem_cons.1 m).elim (fun q => q ▸ l) fun m => Nat.lt_trans l (h.1 b m), h0⟩
      next g =>
        refine List.pairwise_cons.2 ⟨fun b m => ?_, ih h.2⟩
        rcases mem_dictInsert m with rfl | m
        · exact Nat.lt_of_le_of_ne (Nat.le_of_not_lt g) e
        · exact h.1 b m

/-- Every write of the dictionary keeps its canonical form. -/
theorem dictPut_wf {l : List (Nat × Val)} (i sub : Nat) (v : Val) (h : dictWf l = true) : dictWf (dictPut l i sub v) = true := by
  rw [dictWf_iff] at h
  unfold dictPut
  split
  · exact dictWf_iff.2 ⟨dictErase_sorted _ h.1, fun e m => h.2 e (mem_dictErase m)⟩
  next n =>
    refine dictWf_iff.2 ⟨dictInsert_sorted _ _ h.1, fun e m => ?_⟩
    rcases mem_dictInsert m with rfl | m
    · exact n
    · exact h.2 e m

/-! ## Reads after writes -/

theorem dictFind_insert (l : List (Nat × Val)) (k j : Nat) (v : Val) :
    dictFind (dictInsert l k v) j = if j = k then some v else dictFind l j := by
  induction l with
  | nil =>
    simp only [dictInsert, dictFind]
    split
    · next h => rw [if_pos h.symm]
    · next h => rw [if_neg (Ne.symm h)]; split <;> rfl
  | cons a t ih =>
    obtain ⟨i, w⟩ := a
    simp only [dictInsert]
    split
    · next h =>
      simp only [dictFind]
      split
      · next e => rw [if_pos e.symm]
      · next e =>
        rw [if_neg (Ne.symm e), h, if_neg e]
    · split
      · next h1 h2 =>
        simp only [dictFind]
        split
        · next e => rw [if_pos e.symm]
        · next e =>
          rw [if_neg (Ne.symm e)]
          split
          · rw [if_neg (by omega), if_pos (by omega)]
          · rfl
      · next h1 h2 =>
        simp only [dictFind]
        split
        · next e => rw [if_neg (by omega)]
        · split
          · rw [if_neg (by omega)]
          · exact ih

theorem dictFind_none_of_lt {l : List (Nat × Val)} {k : Nat} (h : ∀ e ∈ l, k < e.1) : dictFind l k = none := by
  cases l with
  | nil => rfl
  | cons a t =>
    have := h a List.mem_cons_self
    simp only [dictFind]
    rw [if_neg (by omega), if_pos this]

theorem dictFind_erase {l : List (Nat × Val)} (k j : Nat) (h : l.Pairwise fun a b => a.1 < b.1) :
    dictFind (dictErase l k) j = if j = k then none else dictFind l j := by
  induction l with
  | nil => simp [dictErase, dictFind]
  | cons a t ih =>
    obtain ⟨i, w⟩ := a
    rw [List.pairwise_cons] at h
    simp only [dictErase]
    split
    · next e =>
      subst e
      split
      · next e => rw [e]; exact dictFind_none_of_lt h.1
      · next e =>
        simp only [dictFind]
        rw [if_neg (Ne.symm e)]
        split
        · next lt => exact dictFind_none_of_lt fun b m => Nat.lt_trans lt (h.1 b m)
        · rfl
    · split
      · next h1 h2 =>
        split
        · next e =>
          rw [e]
          refine dictFind_none_of_lt fun b m => ?_
          rcases List.mem_cons.1 m with rfl | m
          · exact h2
          · exact Nat.lt_trans h2 (h.1 b m)
        · rfl
      · next h1 h2 =>
        simp only [dictFind]
        split
        · next e => rw [if_neg (by omega)]
        · split
          · split <;> rfl
          · exact ih h.2

theorem dictFind_put {l : List (Nat × Val)} (i sub j : Nat) (v : Val) (h : dictWf l = true) :
    dictFind (dictPut l i sub v) j = if j = keyOf i sub then (if v = keyDefault (keyOf i sub) then none else some v) else dictFind l j := by
  unfold dictPut
  split
  · exact dictFind_erase _ _ (dictWf_iff.1 h).1
  · exact dictFind_insert _ _ _ _

theorem keyDefault_keyOf {i sub : Nat} (h : sub < 256) : keyDefault (keyOf i sub) = defaultOf i sub := by
  unfold keyDefault keyOf
  rw [show (i * 256 + sub) / 256 = i by omega, show (i * 256 + sub) % 256 = sub by omega]

/-- Another object reads as before. -/
theorem State.put_val_ne {s : State} {i sub j t : Nat} {v : Val} (h : dictWf s.dict = true) (hs : sub < 256) (ht : t < 256)
    (hn : (j, t) ≠ (i, sub)) : (s.put i sub v).val j t = s.val j t := by
  have : keyOf j t ≠ keyOf i sub := by
    unfold keyOf
    intro e
    exact hn (by rw [show j = i by omega, show t = sub by omega])
  unfold State.val State.put
  rw [dictFind_put _ _ _ _ h, if_neg this]

end Sys2Proof.Machine
end

