-- ==== Sys2Proof/Laws/Keeps.lean ====
section
/-! SUPPORT. The relation `Keeps`: it is a preorder, and what each update of a part of the state needs to keep it. The
other files of Laws named Keeps… prove it once for every operation of a chapter; a proof about a command cites those and unfolds
nothing. -/

namespace Sys2Proof.Machine

set_option Elab.async false

/-- Which parts of the relation an operation is to keep: what holds while the device state and IGN stay, the clause on the enables, the
clause on engagement. An operation that changes the device state or IGN passes through states that keep them only at its end. -/
structure Scope where
  still : Bool
  enables : Bool
  engaged : Bool

/-- All of it, what a command keeps, and what a passing state keeps. -/
abbrev Scope.all : Scope := ⟨true, true, true⟩
abbrev Scope.top : Scope := ⟨false, true, true⟩
abbrev Scope.bare : Scope := ⟨false, false, false⟩

/-- The clauses of the invariant that every update keeps by itself. -/
structure State.Data (s : State) : Prop where
  dict : dictWf s.dict = true
  fot : s.flow.fot.length ≤ 1024
  history : s.belay.history.length ≤ 16
  sessions : s.serv.sess.length = 16
  fuses : ∀ c, (s.region c).fuse ≤ 63

/-- Run or Service with IGN high: the states in which an enable is granted. -/
def State.Grants (s : State) : Prop := (s.pw.dev = .run ∨ s.pw.dev = .service) ∧ s.pw.ign = true

theorem State.Grants.drives {s : State} (g : s.Grants) : (s.pw.dev.drives && s.pw.ign) = true := by
  obtain ⟨d | d, i⟩ := g <;> simp [d, i, Dev.drives]

/-- Nothing is granted or engaged that was not before. -/
structure Quieter (s t : State) : Prop where
  bank : ∀ b, (t.vbank b).enable = true → (s.vbank b).enable = true
  grp : ∀ g, (t.fgrp g).enable = true → (s.fgrp g).enable = true
  enable : t.steer.enable = true → s.steer.enable = true
  engaged : t.steer.engaged = true → s.steer.engaged = true

theorem Quieter.refl (s : State) : Quieter s s := ⟨fun _ => id, fun _ => id, id, id⟩

theorem Quieter.trans {u s t : State} (a : Quieter u s) (b : Quieter s t) : Quieter u t :=
  ⟨fun c => a.bank c ∘ b.bank c, fun c => a.grp c ∘ b.grp c, a.enable ∘ b.enable, a.engaged ∘ b.engaged⟩

theorem noEnable_iff {s : State} : s.noEnable = true ↔
    (∀ b < 6, (s.vbank b).enable = false) ∧ (∀ g < 4, (s.fgrp g).enable = false) ∧ s.steer.enable = false := by
  simp [State.noEnable]

theorem Quieter.noEnable {s t : State} (q : Quieter s t) (n : s.noEnable = true) : t.noEnable = true := by
  rw [noEnable_iff] at n ⊢
  exact ⟨fun b l => Bool.eq_false_iff.2 fun e => Bool.eq_false_iff.1 (n.1 b l) (q.bank b e),
    fun g l => Bool.eq_false_iff.2 fun e => Bool.eq_false_iff.1 (n.2.1 g l) (q.grp g e),
    Bool.eq_false_iff.2 fun e => Bool.eq_false_iff.1 n.2.2 (q.enable e)⟩

structure State.InvAt (κ : Scope) (s : State) : Prop where
  data : s.Data
  enables : κ.enables = true → (s.pw.dev.drives && s.pw.ign) = true ∨ s.noEnable = true
  engaged : κ.engaged = true → s.steer.engaged = true → s.pw.dev = .run

/-- What an operation keeps between the state before it and the state after it: the queue of waiting commands is not touched, no free
value is used twice, the end-of-line fuse stays blown (15 R348), no RollbackFuse falls (19 R428); outside Run and Service the device
state stays, and there or while IGN is low nothing is granted or engaged; and the invariant holds on. -/
structure Keeps (κ : Scope) (s t : State) : Prop where
  queue : t.pending = s.pending
  free : s.free ≤ t.free
  fuse : s.per.fuse = true → t.per.fuse = true
  rollback : ∀ c, (s.region c).fuse ≤ (t.region c).fuse
  dev : κ.still = true → s.pw.dev ≠ .run → s.pw.dev ≠ .service → t.pw.dev = s.pw.dev
  quiet : κ.still = true → ¬ s.Grants → ¬ t.Grants ∧ Quieter s t
  inv : s.InvAt κ → t.InvAt κ

theorem Keeps.refl {κ : Scope} (s : State) : Keeps κ s s :=
  ⟨rfl, Nat.le_refl _, id, fun _ => Nat.le_refl _, fun _ _ _ => rfl, fun _ g => ⟨g, .refl s⟩, id⟩

theorem Keeps.trans {κ : Scope} {u s t : State} (a : Keeps κ u s) (b : Keeps κ s t) : Keeps κ u t :=
  ⟨b.queue.trans a.queue, Nat.le_trans a.free b.free, b.fuse ∘ a.fuse, fun c => Nat.le_trans (a.rollback c) (b.rollback c),
    fun d r v => by
      have e := a.dev d r v
      exact (b.dev d (e ▸ r) (e ▸ v)).trans e,
    fun d g => ⟨(b.quiet d (a.quiet d g).1).1, (a.quiet d g).2.trans (b.quiet d (a.quiet d g).1).2⟩, b.inv ∘ a.inv⟩

/-- The enables and the engagement, apart from the rest. -/
structure Power (s t : State) : Prop where
  dev : t.pw.dev = s.pw.dev
  ign : t.pw.ign = s.pw.ign
  quiet : s.Grants ∨ Quieter s t
  engaged : t.steer.engaged = true → s.steer.engaged = true ∨ s.pw.dev = .run

/-- What holds at the end of an operation that passed through states which do not keep every clause. -/
theorem Keeps.upgrade {s t : State} {e : Bool} (h : Keeps ⟨false, e, false⟩ s t)
    (enables : s.InvAt .top → e = true ∨ (t.pw.dev.drives && t.pw.ign) = true ∨ t.noEnable = true)
    (engaged : s.InvAt .top → t.steer.engaged = true → t.pw.dev = .run) : Keeps .top s t := by
  refine ⟨h.queue, h.free, h.fuse, h.rollback, (fun e => by cases e), (fun e => by cases e), fun i => ?_⟩
  have j := h.inv ⟨i.data, fun _ => i.enables rfl, fun e => by cases e⟩
  exact ⟨j.data, fun _ => (enables i).elim j.enables id, fun _ => engaged i⟩

/-- Outside Run, Service and Shutdown nothing is granted or engaged. -/
theorem State.InvAt.off {s : State} (i : s.InvAt .top) (d : s.pw.dev.drives = false) : s.noEnable = true ∧ s.steer.engaged = false :=
  ⟨(i.enables rfl).resolve_left (by simp [d]), Bool.eq_false_iff.2 fun e => by simp [i.engaged rfl e, Dev.drives] at d⟩

/-- An update whose effect on each clause is known. -/
theorem Keeps.step {κ : Scope} {u s t : State} (h : Keeps κ u s) (queue : t.pending = s.pending) (free : s.free ≤ t.free)
    (fuse : s.per.fuse = true → t.per.fuse = true) (rollback : ∀ c, (s.region c).fuse ≤ (t.region c).fuse) (data : s.Data → t.Data)
    (p : Power s t) : Keeps κ u t := by
  refine h.trans ⟨queue, free, fuse, rollback, fun _ _ _ => p.dev, fun _ g => ⟨fun k => g ?_, p.quiet.resolve_left g⟩,
    fun i => ⟨data i.data, fun e => ?_, fun e g => p.dev.trans ((p.engaged g).elim (i.engaged e) id)⟩⟩
  · exact ⟨p.dev ▸ k.1, p.ign ▸ k.2⟩
  · rw [p.dev, p.ign]
    exact (i.enables e).elim .inl fun n => p.quiet.elim (fun g => .inl g.drives) fun q => .inr (q.noEnable n)

theorem Power.same {s t : State} (dev : t.pw.dev = s.pw.dev) (ign : t.pw.ign = s.pw.ign) (bank : t.valve.bank = s.valve.bank)
    (grp : t.fio.grp = s.fio.grp) (enable : t.steer.enable = s.steer.enable) (engaged : t.steer.engaged = s.steer.engaged) : Power s t :=
  ⟨dev, ign, .inr ⟨fun _ e => by rwa [State.vbank, bank] at e, fun _ e => by rwa [State.fgrp, grp] at e, fun e => enable ▸ e,
    fun e => engaged ▸ e⟩, fun e => .inl (engaged ▸ e)⟩

/-- What the relation sees of a state is the same. -/
theorem Keeps.same {κ : Scope} {u s t : State} (h : Keeps κ u s) (queue : t.pending = s.pending) (free : t.free = s.free) (fuse : t.per.fuse = s.per.fuse)
    (reg : t.upd.regions = s.upd.regions) (dict : t.dict = s.dict) (fot : t.flow.fot = s.flow.fot)
    (history : t.belay.history = s.belay.history) (sess : t.serv.sess = s.serv.sess) (dev : t.pw.dev = s.pw.dev) (ign : t.pw.ign = s.pw.ign)
    (bank : t.valve.bank = s.valve.bank) (grp : t.fio.grp = s.fio.grp) (enable : t.steer.enable = s.steer.enable)
    (engaged : t.steer.engaged = s.steer.engaged) : Keeps κ u t := by
  refine h.step queue (Nat.le_of_eq free.symm) (fun x => fuse.trans x) (fun c => Nat.le_of_eq ?_) (fun i => ⟨?_, ?_, ?_, ?_, ?_⟩)
    (.same dev ign bank grp enable engaged)
  · simp [State.region, reg]
  · rw [dict]; exact i.dict
  · rw [fot]; exact i.fot
  · rw [history]; exact i.history
  · rw [sess]; exact i.sessions
  · intro c; rw [State.region, reg]; exact i.fuses c

/-- A refused write leaves no state; one carried out keeps the relation. -/
def KeepsE (κ : Scope) (u : State) (r : Except Nat State) : Prop := ∀ t, r = .ok t → Keeps κ u t

/-- A next state keeps the relation. -/
def KeepsO (κ : Scope) (u : State) (o : Out) : Prop := ∀ t, o = .next t → Keeps κ u t

/-- The state of a pair or triple keeps the relation. -/
def Keeps1 {α : Type} (κ : Scope) (u : State) (p : State × α) : Prop := Keeps κ u p.1
def Keeps2 {α : Type} (κ : Scope) (u : State) (p : α × State) : Prop := Keeps κ u p.2
def Keeps3 {α β : Type} (κ : Scope) (u : State) (p : α × β × State) : Prop := Keeps κ u p.2.2

/-- The state of an optional pair, if there is one. -/
def KeepsP {α : Type} (κ : Scope) (u : State) (o : Option (α × State)) : Prop := ∀ p, o = some p → Keeps κ u p.2

section
variable {κ : Scope} {u s : State}

theorem Keeps1.mk {α : Type} {a : α} (h : Keeps κ u s) : Keeps1 κ u (s, a) := h
theorem Keeps2.mk {α : Type} {a : α} (h : Keeps κ u s) : Keeps2 κ u (a, s) := h
theorem Keeps3.mk {α β : Type} {a : α} {b : β} (h : Keeps κ u s) : Keeps3 κ u (a, b, s) := h
theorem KeepsP.some {α : Type} {a : α} (h : Keeps κ u s) : KeepsP κ u (some (a, s)) := fun p e => by cases e; exact h
theorem KeepsP.none {α : Type} : KeepsP (α := α) κ u none := fun _ e => by cases e
theorem Keeps1.fst {α : Type} {p : State × α} (h : Keeps1 κ u p) : Keeps κ u p.1 := h
theorem Keeps2.snd {α : Type} {p : α × State} (h : Keeps2 κ u p) : Keeps κ u p.2 := h
theorem Keeps3.last {α β : Type} {p : α × β × State} (h : Keeps3 κ u p) : Keeps κ u p.2.2 := h
theorem Keeps1.of_eq {α : Type} {p : State × α} {a : α} (e : p = (s, a)) (h : Keeps1 κ u p) : Keeps κ u s := by rw [e] at h; exact h
theorem Keeps2.of_eq {α : Type} {p : α × State} {a : α} (e : p = (a, s)) (h : Keeps2 κ u p) : Keeps κ u s := by rw [e] at h; exact h
theorem Keeps3.of_eq {α β : Type} {p : α × β × State} {a : α} {b : β} (e : p = (a, b, s)) (h : Keeps3 κ u p) : Keeps κ u s := by
  rw [e] at h; exact h
theorem KeepsP.of_eq {α : Type} {o : Option (α × State)} {a : α} (e : o = .some (a, s)) (h : KeepsP κ u o) : Keeps κ u s := h _ e
theorem KeepsE.of_eq {r : Except Nat State} (e : r = .ok s) (h : KeepsE κ u r) : Keeps κ u s := h _ e
theorem Keeps1.ite {α : Type} {c : Prop} [Decidable c] {a b : State × α} (ha : Keeps1 κ u a) (hb : Keeps1 κ u b) : Keeps1 κ u (if c then a else b) := by
  split <;> assumption
theorem Keeps2.ite {α : Type} {c : Prop} [Decidable c] {a b : α × State} (ha : Keeps2 κ u a) (hb : Keeps2 κ u b) : Keeps2 κ u (if c then a else b) := by
  split <;> assumption
theorem Keeps3.ite {α β : Type} {c : Prop} [Decidable c] {a b : α × β × State} (ha : Keeps3 κ u a) (hb : Keeps3 κ u b) :
    Keeps3 κ u (if c then a else b) := by
  split <;> assumption
theorem KeepsP.ite {α : Type} {c : Prop} [Decidable c] {a b : Option (α × State)} (ha : KeepsP κ u a) (hb : KeepsP κ u b) :
    KeepsP κ u (if c then a else b) := by
  split <;> assumption

theorem Keeps.ite {c : Prop} [Decidable c] {a b : State} (ha : Keeps κ u a) (hb : Keeps κ u b) : Keeps κ u (if c then a else b) := by
  split <;> assumption

theorem Keeps.foldl {α : Type} {f : State → α → State} {l : List α} (h : Keeps κ u s) (k : ∀ t x, Keeps κ u t → Keeps κ u (f t x)) :
    Keeps κ u (l.foldl f s) := by
  induction l generalizing s with
  | nil => exact h
  | cons a l ih => exact ih (k _ _ h)

theorem Keeps1.foldl {α β : Type} {f : State × α → β → State × α} {l : List β} {p : State × α} (h : Keeps1 κ u p)
    (k : ∀ q x, Keeps1 κ u q → Keeps1 κ u (f q x)) : Keeps1 κ u (l.foldl f p) := by
  induction l generalizing p with
  | nil => exact h
  | cons a l ih => exact ih (k _ _ h)

theorem Keeps2.foldl {α β : Type} {f : α × State → β → α × State} {l : List β} {p : α × State} (h : Keeps2 κ u p)
    (k : ∀ q x, Keeps2 κ u q → Keeps2 κ u (f q x)) : Keeps2 κ u (l.foldl f p) := by
  induction l generalizing p with
  | nil => exact h
  | cons a l ih => exact ih (k _ _ h)

theorem KeepsE.ok (h : Keeps κ u s) : KeepsE κ u (.ok s) := fun t e => by cases e; exact h
theorem KeepsE.error (a : Nat) : KeepsE κ u (.error a) := fun _ e => by cases e
theorem KeepsE.ite {c : Prop} [Decidable c] {a b : Except Nat State} (ha : KeepsE κ u a) (hb : KeepsE κ u b) : KeepsE κ u (if c then a else b) := by
  split <;> assumption
theorem KeepsO.next (h : Keeps κ u s) : KeepsO κ u (.next s) := fun t e => by cases e; exact h
theorem KeepsO.refused (r : Refusal) : KeepsO κ u (.refused r) := fun _ e => by cases e
theorem KeepsO.ite {c : Prop} [Decidable c] {a b : Out} (ha : KeepsO κ u a) (hb : KeepsO κ u b) : KeepsO κ u (if c then a else b) := by
  split <;> assumption

theorem withUnit_keeps {b : Bool} (h : Keeps κ u s) : KeepsO κ u (withUnit b s) := by
  unfold withUnit; split
  · exact .next h
  · exact .refused _

section
variable (h : Keeps κ u s)
include h

theorem updTm_keeps (f : Tm → Tm) : Keeps κ u (s.updTm f) := h.same (by rfl) (by rfl) (by rfl) (by rfl) (by rfl) (by rfl) (by rfl) (by rfl)
  (by rfl) (by rfl) (by rfl) (by rfl) (by rfl) (by rfl)
theorem updNet_keeps (f : Net → Net) : Keeps κ u (s.updNet f) := h.same (by rfl) (by rfl) (by rfl) (by rfl) (by rfl) (by rfl) (by rfl) (by rfl)
  (by rfl) (by rfl) (by rfl) (by rfl) (by rfl) (by rfl)
theorem updSky_keeps (f : Sky → Sky) : Keeps κ u (s.updSky f) := h.same (by rfl) (by rfl) (by rfl) (by rfl) (by rfl) (by rfl) (by rfl) (by rfl)
  (by rfl) (by rfl) (by rfl) (by rfl) (by rfl) (by rfl)
theorem updSkyio_keeps (f : SkyIo → SkyIo) : Keeps κ u (s.updSkyio f) := h.same (by rfl) (by rfl) (by rfl) (by rfl) (by rfl) (by rfl) (by rfl) (by rfl)
  (by rfl) (by rfl) (by rfl) (by rfl) (by rfl) (by rfl)
theorem updSens_keeps (f : Sense → Sense) : Keeps κ u (s.updSens f) := h.same (by rfl) (by rfl) (by rfl) (by rfl) (by rfl) (by rfl) (by rfl) (by rfl)
  (by rfl) (by rfl) (by rfl) (by rfl) (by rfl) (by rfl)
theorem updPas_keeps (f : Pas → Pas) : Keeps κ u (s.updPas f) := h.same (by rfl) (by rfl) (by rfl) (by rfl) (by rfl) (by rfl) (by rfl) (by rfl)
  (by rfl) (by rfl) (by rfl) (by rfl) (by rfl) (by rfl)
theorem updPctl_keeps (f : PasCtl → PasCtl) : Keeps κ u (s.updPctl f) := h.same (by rfl) (by rfl) (by rfl) (by rfl) (by rfl) (by rfl) (by rfl) (by rfl)
  (by rfl) (by rfl) (by rfl) (by rfl) (by rfl) (by rfl)
theorem updLead_keeps (f : Leads → Leads) : Keeps κ u (s.updLead f) := h.same (by rfl) (by rfl) (by rfl) (by rfl) (by rfl) (by rfl) (by rfl) (by rfl)
  (by rfl) (by rfl) (by rfl) (by rfl) (by rfl) (by rfl)
theorem updOpt_keeps (f : Opt → Opt) : Keeps κ u (s.updOpt f) := h.same (by rfl) (by rfl) (by rfl) (by rfl) (by rfl) (by rfl) (by rfl) (by rfl)
  (by rfl) (by rfl) (by rfl) (by rfl) (by rfl) (by rfl)
theorem updYield_keeps (f : Yield → Yield) : Keeps κ u (s.updYield f) := h.same (by rfl) (by rfl) (by rfl) (by rfl) (by rfl) (by rfl) (by rfl) (by rfl)
  (by rfl) (by rfl) (by rfl) (by rfl) (by rfl) (by rfl)
theorem updFleet_keeps (f : Fleet → Fleet) : Keeps κ u (s.updFleet f) := h.same (by rfl) (by rfl) (by rfl) (by rfl) (by rfl) (by rfl) (by rfl) (by rfl)
  (by rfl) (by rfl) (by rfl) (by rfl) (by rfl) (by rfl)
theorem updLoop_keeps (f : LoopSt → LoopSt) : Keeps κ u (s.updLoop f) := h.same (by rfl) (by rfl) (by rfl) (by rfl) (by rfl) (by rfl) (by rfl) (by rfl)
  (by rfl) (by rfl) (by rfl) (by rfl) (by rfl) (by rfl)
theorem updTrace_keeps (f : Trace → Trace) : Keeps κ u (s.updTrace f) := h.same (by rfl) (by rfl) (by rfl) (by rfl) (by rfl) (by rfl) (by rfl) (by rfl)
  (by rfl) (by rfl) (by rfl) (by rfl) (by rfl) (by rfl)
theorem updCan_keeps (f : Can → Can) : Keeps κ u (s.updCan f) := h.same (by rfl) (by rfl) (by rfl) (by rfl) (by rfl) (by rfl) (by rfl) (by rfl)
  (by rfl) (by rfl) (by rfl) (by rfl) (by rfl) (by rfl)
theorem updLan_keeps (f : Lantern → Lantern) : Keeps κ u (s.updLan f) := h.same (by rfl) (by rfl) (by rfl) (by rfl) (by rfl) (by rfl) (by rfl) (by rfl)
  (by rfl) (by rfl) (by rfl) (by rfl) (by rfl) (by rfl)
/-- Parts that the relation does not see may change in one update. -/
theorem engines_keeps (tm : Tm) (net : Net) (sky : Sky) (skyio : SkyIo) (sens : Sense) (pas : Pas) (pctl : PasCtl) (lead : Leads) (opt : Opt)
    (yield : Yield) (fleet : Fleet) (loop : LoopSt) (trace : Trace) (can : Can) (lan : Lantern) :
    Keeps κ u { s with
      tm := tm, net := net, sky := sky, skyio := skyio, sens := sens, pas := pas, pctl := pctl, lead := lead, opt := opt,
      yield := yield, fleet := fleet, loop := loop, trace := trace, can := can, lan := lan } :=
  h.same rfl rfl rfl rfl rfl rfl rfl rfl rfl rfl rfl rfl rfl rfl

theorem updPw_keeps (f : Pw → Pw) (dev : (f s.pw).dev = s.pw.dev) (ign : (f s.pw).ign = s.pw.ign) : Keeps κ u (s.updPw f) :=
  h.same rfl rfl rfl rfl rfl rfl rfl rfl dev ign rfl rfl rfl rfl
theorem updPer_keeps (f : Persist → Persist) (fuse : (f s.per).fuse = s.per.fuse) : Keeps κ u (s.updPer f) :=
  h.same rfl rfl fuse rfl rfl rfl rfl rfl rfl rfl rfl rfl rfl rfl
theorem updUpd_keeps (f : Upd → Upd) (reg : (f s.upd).regions = s.upd.regions) : Keeps κ u (s.updUpd f) :=
  h.same rfl rfl rfl reg rfl rfl rfl rfl rfl rfl rfl rfl rfl rfl
theorem updFlow_keeps (f : Flow → Flow) (fot : (f s.flow).fot = s.flow.fot) : Keeps κ u (s.updFlow f) :=
  h.same rfl rfl rfl rfl rfl fot rfl rfl rfl rfl rfl rfl rfl rfl
theorem updBelay_keeps (f : Belay → Belay) (history : (f s.belay).history = s.belay.history) : Keeps κ u (s.updBelay f) :=
  h.same rfl rfl rfl rfl rfl rfl history rfl rfl rfl rfl rfl rfl rfl
theorem updServ_keeps (f : Serv → Serv) (sess : (f s.serv).sess = s.serv.sess) : Keeps κ u (s.updServ f) :=
  h.same rfl rfl rfl rfl rfl rfl rfl sess rfl rfl rfl rfl rfl rfl
theorem updSteer_keeps (f : Steer → Steer) (enable : (f s.steer).enable = s.steer.enable) (engaged : (f s.steer).engaged = s.steer.engaged) :
    Keeps κ u (s.updSteer f) :=
  h.same rfl rfl rfl rfl rfl rfl rfl rfl rfl rfl rfl rfl enable engaged
theorem updFio_keeps (f : Fio → Fio) (grp : (f s.fio).grp = s.fio.grp) : Keeps κ u (s.updFio f) :=
  h.same rfl rfl rfl rfl rfl rfl rfl rfl rfl rfl rfl grp rfl rfl
theorem updValve_keeps (f : Valve → Valve) (bank : (f s.valve).bank = s.valve.bank) : Keeps κ u (s.updValve f) :=
  h.same rfl rfl rfl rfl rfl rfl rfl rfl rfl rfl bank rfl rfl rfl

/-- The dictionary keeps its canonical form. -/
theorem dict_keeps (l : List (Nat × Val)) (k : dictWf s.dict = true → dictWf l = true) : Keeps κ u { s with dict := l } :=
  h.step rfl (Nat.le_refl _) id (fun _ => Nat.le_refl _) (fun i => ⟨k i.dict, i.fot, i.history, i.sessions, i.fuses⟩) (.same rfl rfl rfl rfl rfl rfl)

theorem put_keeps (i sub : Nat) (v : Val) : Keeps κ u (s.put i sub v) := dict_keeps h _ (dictPut_wf i sub v)

/-- The first-occurrence table does not grow beyond its size. -/
theorem fot_keeps (f : Flow → Flow) (k : s.flow.fot.length ≤ 1024 → (f s.flow).fot.length ≤ 1024) : Keeps κ u (s.updFlow f) :=
  h.step rfl (Nat.le_refl _) id (fun _ => Nat.le_refl _) (fun i => ⟨i.dict, k i.fot, i.history, i.sessions, i.fuses⟩) (.same rfl rfl rfl rfl rfl rfl)

/-- PowerHistory does not grow beyond its size. -/
theorem history_keeps (f : Belay → Belay) (k : s.belay.history.length ≤ 16 → (f s.belay).history.length ≤ 16) : Keeps κ u (s.updBelay f) :=
  h.step rfl (Nat.le_refl _) id (fun _ => Nat.le_refl _) (fun i => ⟨i.dict, i.fot, k i.history, i.sessions, i.fuses⟩) (.same rfl rfl rfl rfl rfl rfl)

theorem sessions16_keeps (f : Serv → Serv) (k : (f s.serv).sess.length = 16) : Keeps κ u (s.updServ f) :=
  h.step rfl (Nat.le_refl _) id (fun _ => Nat.le_refl _) (fun i => ⟨i.dict, i.fot, i.history, k, i.fuses⟩) (.same rfl rfl rfl rfl rfl rfl)

/-- The number of sessions stays. -/
theorem sessions_keeps (f : Serv → Serv) (k : (f s.serv).sess.length = s.serv.sess.length) : Keeps κ u (s.updServ f) :=
  h.step rfl (Nat.le_refl _) id (fun _ => Nat.le_refl _) (fun i => ⟨i.dict, i.fot, i.history, k.trans i.sessions, i.fuses⟩) (.same rfl rfl rfl rfl rfl rfl)

theorem updSess_keeps (n : Nat) (f : Sess → Sess) : Keeps κ u (s.updSess n f) := sessions_keeps h _ (by simp [List.length_modify])

theorem updWin_keeps (n : Nat) (f : SessWin → SessWin) : Keeps κ u (s.updWin n f) := updSess_keeps h n _

/-- What the data clauses do not see: enables and engagement. -/
theorem power_keeps (t : State) (p : Power s t) (queue : t.pending = s.pending := by rfl) (free : t.free = s.free := by rfl)
    (fuse : t.per.fuse = s.per.fuse := by rfl) (reg : t.upd.regions = s.upd.regions := by rfl) (dict : t.dict = s.dict := by rfl)
    (fot : t.flow.fot = s.flow.fot := by rfl) (history : t.belay.history = s.belay.history := by rfl)
    (sess : t.serv.sess = s.serv.sess := by rfl) : Keeps κ u t := by
  refine h.step queue (Nat.le_of_eq free.symm) (fun x => fuse.trans x) (fun c => Nat.le_of_eq ?_) (fun i => ⟨?_, ?_, ?_, ?_, ?_⟩) p
  · simp [State.region, reg]
  · rw [dict]; exact i.dict
  · rw [fot]; exact i.fot
  · rw [history]; exact i.history
  · rw [sess]; exact i.sessions
  · intro c; rw [State.region, reg]; exact i.fuses c

/-- Steering's enable may come on where the device state and IGN permit it, and steering may engage in Run. -/
theorem drives_keeps (f : Steer → Steer) (enable : (f s.steer).enable = true → s.steer.enable = true ∨ s.Grants)
    (engaged : (f s.steer).engaged = true → s.steer.engaged = true ∨ (s.Grants ∧ s.pw.dev = .run)) : Keeps κ u (s.updSteer f) := by
  refine power_keeps h _ ⟨rfl, rfl, ?_, fun e => (engaged e).imp_right And.right⟩
  by_cases g : s.Grants
  · exact .inl g
  · exact .inr ⟨fun _ => id, fun _ => id, fun e => (enable e).resolve_right g, fun e => (engaged e).resolve_right fun k => g k.1⟩

/-- No enable is granted by the update of the steering part. -/
theorem steer_keeps (f : Steer → Steer) (enable : (f s.steer).enable = true → s.steer.enable = true)
    (engaged : (f s.steer).engaged = true → s.steer.engaged = true) : Keeps κ u (s.updSteer f) :=
  drives_keeps h f (.inl ∘ enable) (.inl ∘ engaged)

/-- No enable is granted by the update of the banks. -/
theorem bank_keeps (f : Valve → Valve) (k : ∀ b, ((f s.valve).bank.getD b {}).enable = true → (s.valve.bank.getD b {}).enable = true) :
    Keeps κ u (s.updValve f) :=
  power_keeps h _ ⟨rfl, rfl, .inr ⟨k, fun _ => id, id, id⟩, .inl⟩

/-- No enable is granted by the update of the groups. -/
theorem grp_keeps (f : Fio → Fio) (k : ∀ g, ((f s.fio).grp.getD g {}).enable = true → (s.fio.grp.getD g {}).enable = true) :
    Keeps κ u (s.updFio f) :=
  power_keeps h _ ⟨rfl, rfl, .inr ⟨fun _ => id, k, id, id⟩, .inl⟩

/-- The regions' fuses: none falls, none passes 63. -/
theorem regions_keeps (f : Upd → Upd) (k : ∀ c, (s.upd.regions.getD c {}).fuse ≤ ((f s.upd).regions.getD c {}).fuse ∧
    ((s.upd.regions.getD c {}).fuse ≤ 63 → ((f s.upd).regions.getD c {}).fuse ≤ 63)) : Keeps κ u (s.updUpd f) :=
  h.step rfl (Nat.le_refl _) id (fun c => (k (c - 1)).1)
    (fun i => ⟨i.dict, i.fot, i.history, i.sessions, fun c => (k (c - 1)).2 (i.fuses c)⟩) (.same rfl rfl rfl rfl rfl rfl)

theorem updRegion_keeps' (n : Nat) (f : Region → Region) (k : ∀ r, r.fuse ≤ (f r).fuse ∧ (r.fuse ≤ 63 → (f r).fuse ≤ 63)) :
    Keeps κ u (s.updRegion n f) := by
  refine regions_keeps h _ fun c => ?_
  simp only [updAt, List.getD_eq_getElem?_getD, List.getElem?_modify]
  cases e : s.upd.regions[c]? with
  | none => simp
  | some r =>
    by_cases q : n - 1 = c
    · simpa [q] using k r
    · simp [q]

theorem updRegion_keeps (n : Nat) (f : Region → Region) (k : ∀ r, (f r).fuse = r.fuse) : Keeps κ u (s.updRegion n f) :=
  updRegion_keeps' h n f fun r => by rw [k r]; exact ⟨Nat.le_refl _, id⟩

end

theorem free_keeps (h : Keeps κ u s) (n : Nat) : Keeps κ u { s with free := s.free + n } :=
  Keeps.step h rfl (Nat.le_add_right _ _) id (fun _ => Nat.le_refl _) (fun i => ⟨i.dict, i.fot, i.history, i.sessions, i.fuses⟩) (.same rfl rfl rfl rfl rfl rfl)

theorem freeInt_keeps (h : Keeps κ u s) : Keeps2 κ u s.freeInt :=
  Keeps.step h rfl (Nat.le_succ _) id (fun _ => Nat.le_refl _) (fun i => ⟨i.dict, i.fot, i.history, i.sessions, i.fuses⟩) (.same rfl rfl rfl rfl rfl rfl)

/-- A change of each entry by itself. -/
theorem getD_modify {α : Type} {l : List α} {d : α} {n b : Nat} {f : α → α} {p : α → Prop} (k : ∀ x, p (f x) → p x)
    (h : p ((l.modify n f).getD b d)) : p (l.getD b d) := by
  simp only [List.getD_eq_getElem?_getD, List.getElem?_modify] at h ⊢
  cases e : l[b]? with
  | none => simpa [e] using h
  | some x =>
    by_cases q : n = b
    · exact k x (by simpa [e, q] using h)
    · simpa [e, q] using h

theorem getD_map {α : Type} {l : List α} {d : α} {b : Nat} {f : α → α} {p : α → Prop} (k : ∀ x, p (f x) → p x)
    (h : p ((l.map f).getD b d)) : p (l.getD b d) := by
  simp only [List.getD_eq_getElem?_getD, List.getElem?_map] at h ⊢
  cases e : l[b]? with
  | none => simpa [e] using h
  | some x => exact k x (by simpa [e] using h)

end

end Sys2Proof.Machine
end

