-- ==== Sys2Proof/Laws/KeepsOps.lean ====
section
/-! SUPPORT. `Keeps` for the operations of Machine/Ops.lean. -/

namespace Sys2Proof.Machine

set_option Elab.async false

theorem updDict_keeps {κ : Scope} {u s : State} (h : Keeps κ u s) (f : List (Nat × Val) → List (Nat × Val)) (k : dictWf s.dict = true → dictWf (f s.dict) = true) :
    Keeps κ u (s.updDict f) := dict_keeps h _ k

theorem answer_keeps {κ : Scope} {u s : State} (h : Keeps κ u s) {n : Nat} {r : Except Nat State} (k : KeepsE κ u r) : Keeps κ u (s.answer n r) := by
  unfold State.answer; split
  · exact updSess_keeps (k _ rfl) _ _
  · exact updSess_keeps h _ _

theorem touch_keeps {κ : Scope} {u : State} (s : State) (n : Nat) (h : Keeps κ u s) : Keeps κ u (State.touch s n) := by
  unfold State.touch
  repeat' (first
      | with_reducible exact h | with_reducible assumption | with_reducible refine Keeps.ite ?_ ?_ | with_reducible apply updSess_keeps
      | with_reducible intro _ | split)

theorem unreached_keeps {κ : Scope} {u : State} (s : State) (n : Nat) (h : Keeps κ u s) : Keeps κ u (State.unreached s n) := by
  unfold State.unreached
  repeat' (first
      | with_reducible exact h | with_reducible assumption | with_reducible refine Keeps.ite ?_ ?_
      | with_reducible refine KeepsE.ite ?_ ?_ | with_reducible refine KeepsE.ok ?_ | with_reducible exact KeepsE.error _
      | with_reducible apply touch_keeps | with_reducible apply answer_keeps | with_reducible intro _ | split)

theorem asSession_keeps {κ : Scope} {u s : State} (h : Keeps κ u s) {n i : Nat} {w : Ctx → State → Except Nat State}
    (k : ∀ c t, Keeps κ u t → KeepsE κ u (w c t)) : KeepsO κ u (s.asSession n i w) := by
  unfold State.asSession
  have ht : Keeps κ u (s.touch n) := touch_keeps s n h
  exact withUnit_keeps (Keeps.ite h (Keeps.ite (answer_keeps ht (k _ _ ht)) (unreached_keeps _ _ h)))

theorem checked_keeps {κ : Scope} {u s : State} (h : Keeps κ u s) {c : Ctx} {i sub : Nat} {v : Val} {w : State → Except Nat State}
    (k : ∀ t, Keeps κ u t → KeepsE κ u (w t)) : KeepsE κ u (checked c i sub v s w) := by
  unfold checked; split
  · exact k _ h
  · exact .error _

theorem plainWrite_keeps {κ : Scope} {u : State} (c : Ctx) (i sub : Nat) (v : Val) (s : State) (h : Keeps κ u s) : KeepsE κ u (plainWrite c i sub v s) := by
  unfold plainWrite
  repeat' (first
      | with_reducible exact h | with_reducible assumption | with_reducible refine Keeps.ite ?_ ?_
      | with_reducible refine KeepsE.ite ?_ ?_ | with_reducible refine KeepsE.ok ?_ | with_reducible exact KeepsE.error _
      | with_reducible apply checked_keeps | with_reducible apply put_keeps | with_reducible refine KeepsE.of_eq (by assumption) ?_
      | with_reducible intro _ | split)

theorem fotNote_length {l : List FotEntry} {r : FlowRec} {w : Bool} (h : l.length ≤ 1024) : (fotNote l r w).length ≤ 1024 := by
  unfold fotNote; split
  · simpa using h
  · split
    · simp; omega
    · exact h

theorem place_fot (f : Flow) (r : FlowRec) : (f.place r).fot = f.fot := by
  unfold Flow.place; split
  · rfl
  · split <;> rfl

theorem write_fot (f : Flow) (r : FlowRec) (h : f.fot.length ≤ 1024) : (f.write r).fot.length ≤ 1024 := by
  unfold Flow.write
  dsimp only
  split
  · exact fotNote_length h
  · split <;> (simp only [place_fot]; exact fotNote_length h)

theorem newSecond_fot (f : Flow) (sec limit stamp src : Nat) (h : f.fot.length ≤ 1024) : (f.newSecond sec limit stamp src).fot.length ≤ 1024 := by
  unfold Flow.newSecond
  have k : ∀ (l : List (Nat × Nat × Nat)) (g : Flow), g.fot.length ≤ 1024 → (l.foldl
      (fun g e => g.write ⟨0, stamp, src, 0x0002, e.1, 0, 0xF, 0xFFFFFFFF, leBytes 4 e.2.2 ++ leBytes 4 0, []⟩) g).fot.length ≤ 1024 := by
    intro l; induction l with
    | nil => exact fun _ => id
    | cons a l ih => exact fun g q => ih _ (write_fot _ _ q)
  exact k _ _ h

theorem rollSecond_keeps {κ : Scope} {u : State} (s : State) (h : Keeps κ u s) : Keeps κ u s.rollSecond := by
  unfold State.rollSecond
  exact Keeps.ite h (fot_keeps h _ (newSecond_fot _ _ _ _ _))

theorem record_keeps {κ : Scope} {u : State} (s : State) (e : FlowEv) (h : Keeps κ u s) : Keeps κ u (s.record e) := by
  unfold State.record
  refine Keeps.ite h (Keeps.ite (regions_keeps (fot_keeps (rollSecond_keeps _ h) _ (write_fot _ _)) _ fun c => ?_)
    (fot_keeps (rollSecond_keeps _ h) _ (write_fot _ _)))
  simp only [Upd.noteFault, List.getD_eq_getElem?_getD, List.getElem?_mapIdx]
  cases State.upd _ |>.regions[c]? with
  | none => simp
  | some r => simp only [Option.map_some, Option.getD_some]; split <;> simp

theorem records_keeps {κ : Scope} {u : State} (s : State) (l : List FlowEv) (h : Keeps κ u s) : Keeps κ u (State.records s l) := by
  unfold State.records
  repeat' (first
      | with_reducible exact h | with_reducible assumption | with_reducible refine Keeps.ite ?_ ?_
      | (with_reducible refine Keeps.foldl ?_ ?_; rotate_left; intro _ _ _)
      | (with_reducible refine Keeps1.foldl ?_ ?_; rotate_left; intro _ _ _)
      | (with_reducible refine Keeps2.foldl ?_ ?_; rotate_left; intro _ _ _) | with_reducible apply record_keeps | with_reducible intro _
      | split)

theorem updFn_keeps {κ : Scope} {u : State} (s : State) (f : Nat) (g : Fn → Fn) (h : Keeps κ u s) : Keeps κ u (State.updFn s f g) := by
  unfold State.updFn
  repeat' (first
      | with_reducible exact h | with_reducible assumption | with_reducible refine Keeps.ite ?_ ?_ | with_reducible apply updLoop_keeps
      | with_reducible intro _ | split)

theorem updCtx_keeps {κ : Scope} {u : State} (s : State) (n : Nat) (g : LCtx → LCtx) (h : Keeps κ u s) : Keeps κ u (State.updCtx s n g) := by
  unfold State.updCtx
  repeat' (first
      | with_reducible exact h | with_reducible assumption | with_reducible refine Keeps.ite ?_ ?_ | with_reducible apply updLoop_keeps
      | with_reducible intro _ | split)

theorem updShaft_keeps {κ : Scope} {u : State} (s : State) (h : Nat) (g : Sh → Sh) (h₀ : Keeps κ u s) : Keeps κ u (State.updShaft s h g) := by
  unfold State.updShaft
  repeat' (first
      | with_reducible exact h₀ | with_reducible assumption | with_reducible refine Keeps.ite ?_ ?_ | with_reducible apply updSens_keeps
      | with_reducible intro _ | split)

theorem updAi_keeps {κ : Scope} {u : State} (s : State) (a : Nat) (g : Ai → Ai) (h : Keeps κ u s) : Keeps κ u (State.updAi s a g) := by
  unfold State.updAi
  repeat' (first
      | with_reducible exact h | with_reducible assumption | with_reducible refine Keeps.ite ?_ ?_ | with_reducible apply updSens_keeps
      | with_reducible intro _ | split)

theorem updLs_keeps {κ : Scope} {u : State} (s : State) (c : Nat) (g : Ls → Ls) (h : Keeps κ u s) : Keeps κ u (State.updLs s c g) := by
  unfold State.updLs
  repeat' (first
      | with_reducible exact h | with_reducible assumption | with_reducible refine Keeps.ite ?_ ?_ | with_reducible apply updSens_keeps
      | with_reducible intro _ | split)

theorem optVoid_keeps {κ : Scope} {u : State} (code : Nat) (s : State) (h : Keeps κ u s) : Keeps κ u (State.optVoid code s) := by
  unfold State.optVoid
  repeat' (first
      | with_reducible exact h | with_reducible assumption | with_reducible refine Keeps.ite ?_ ?_ | with_reducible apply updOpt_keeps
      | with_reducible intro _ | split)

theorem optSettle_keeps {κ : Scope} {u : State} (s : State) (h : Keeps κ u s) : Keeps κ u (State.optSettle s) := by
  unfold State.optSettle
  repeat' (first
      | with_reducible exact h | with_reducible assumption | with_reducible refine Keeps.ite ?_ ?_ | with_reducible apply updOpt_keeps
      | with_reducible intro _ | split)

theorem optChange_keeps {κ : Scope} {u : State} (f : Nat) (own mode : Bool) (s : State) (h : Keeps κ u s) : Keeps κ u (State.optChange f own mode s) := by
  unfold State.optChange
  repeat' (first
      | with_reducible exact h | with_reducible assumption | with_reducible refine Keeps.ite ?_ ?_ | with_reducible apply updOpt_keeps
      | with_reducible intro _ | split)

theorem optForeign_keeps {κ : Scope} {u : State} (f : Nat) (s : State) (h : Keeps κ u s) : Keeps κ u (State.optForeign f s) := by
  unfold State.optForeign
  repeat' (first
      | with_reducible exact h | with_reducible assumption | with_reducible refine Keeps.ite ?_ ?_ | with_reducible apply updOpt_keeps
      | with_reducible intro _ | split)

theorem updBlocks_keeps {κ : Scope} {u : State} (f : PBlk → PBlk) (s : State) (h : Keeps κ u s) : Keeps κ u (State.updBlocks f s) := by
  unfold State.updBlocks
  repeat' (first
      | with_reducible exact h | with_reducible assumption | with_reducible refine Keeps.ite ?_ ?_ | with_reducible apply updOpt_keeps
      | with_reducible intro _ | split)

theorem optReleased_keeps {κ : Scope} {u : State} (id : Nat) (late : Bool) (s : State) (h : Keeps κ u s) : Keeps κ u (State.optReleased id late s) := by
  unfold State.optReleased
  repeat' (first
      | with_reducible exact h | with_reducible assumption | with_reducible refine Keeps.ite ?_ ?_ | with_reducible apply updBlocks_keeps
      | with_reducible apply updOpt_keeps | with_reducible intro _ | split)

theorem optArrived_keeps {κ : Scope} {u : State} (id : Nat) (err : Int) (s : State) (h : Keeps κ u s) : Keeps κ u (State.optArrived id err s) := by
  unfold State.optArrived
  repeat' (first
      | with_reducible exact h | with_reducible assumption | with_reducible refine Keeps.ite ?_ ?_ | with_reducible apply updBlocks_keeps
      | with_reducible intro _ | split)

theorem commit_keeps {κ : Scope} {u : State} (s : State) (layer key : Nat) (v : Val) (h : Keeps κ u s) : Keeps κ u (State.commit s layer key v) := by
  unfold State.commit
  repeat' (first
      | with_reducible exact h | with_reducible assumption | with_reducible refine Keeps.ite ?_ ?_
      | with_reducible refine updPer_keeps ?_ _ (by rfl) | extract_lets | with_reducible intro _ | split)

end Sys2Proof.Machine
end

