-- ==== Sys2Proof/Laws/KeepsSky.lean ====
section
/-! SUPPORT. `Keeps` for the operations of Machine/Sky.lean. -/

namespace Sys2Proof.Machine

set_option Elab.async false

theorem execAntennaFeedFault_keeps {κ : Scope} {u : State} (a : Nat) (short : Bool) (s : State) (h : Keeps κ u s) : KeepsO κ u (execAntennaFeedFault a short s) := by
  unfold execAntennaFeedFault
  repeat' (first
      | with_reducible exact h | with_reducible assumption | with_reducible refine Keeps.ite ?_ ?_
      | with_reducible refine KeepsO.ite ?_ ?_ | with_reducible refine KeepsO.next ?_ | with_reducible exact KeepsO.refused _
      | with_reducible apply withUnit_keeps | with_reducible apply updSky_keeps | with_reducible apply updSkyio_keeps
      | with_reducible intro _ | split)

theorem execAntennaFeedRetry_keeps {κ : Scope} {u : State} (a : Nat) (ok : Bool) (s : State) (h : Keeps κ u s) : KeepsO κ u (execAntennaFeedRetry a ok s) := by
  unfold execAntennaFeedRetry
  repeat' (first
      | with_reducible exact h | with_reducible assumption | with_reducible refine Keeps.ite ?_ ?_
      | with_reducible refine KeepsO.ite ?_ ?_ | with_reducible refine KeepsO.next ?_ | with_reducible exact KeepsO.refused _
      | with_reducible apply withUnit_keeps | with_reducible apply updSky_keeps | with_reducible apply updSkyio_keeps
      | with_reducible intro _ | split)

theorem execSearchBlock_keeps {κ : Scope} {u : State} (svid sig : Nat) (peak : Int) (s : State) (h : Keeps κ u s) : KeepsO κ u (execSearchBlock svid sig peak s) := by
  unfold execSearchBlock
  repeat' (first
      | with_reducible exact h | with_reducible assumption | with_reducible refine Keeps.ite ?_ ?_
      | with_reducible refine KeepsO.ite ?_ ?_ | with_reducible refine KeepsO.next ?_ | with_reducible exact KeepsO.refused _
      | with_reducible apply withUnit_keeps | with_reducible apply updSky_keeps | extract_lets | with_reducible intro _ | split)

theorem execDetectionVerify_keeps {κ : Scope} {u : State} (ch : Nat) (locked : Bool) (s : State) (h : Keeps κ u s) : KeepsO κ u (execDetectionVerify ch locked s) := by
  unfold execDetectionVerify
  repeat' (first
      | with_reducible exact h | with_reducible assumption | with_reducible refine Keeps.ite ?_ ?_
      | with_reducible refine KeepsO.ite ?_ ?_ | with_reducible refine KeepsO.next ?_ | with_reducible exact KeepsO.refused _
      | with_reducible apply withUnit_keeps | with_reducible apply updSky_keeps | extract_lets | with_reducible intro _ | split)

theorem execChannelAllocation_keeps {κ : Scope} {u : State} (view : List SatView) (s : State) (h : Keeps κ u s) : KeepsO κ u (execChannelAllocation view s) := by
  unfold execChannelAllocation
  repeat' (first
      | with_reducible exact h | with_reducible assumption | with_reducible refine Keeps.ite ?_ ?_
      | with_reducible refine KeepsO.ite ?_ ?_ | with_reducible refine KeepsO.next ?_ | with_reducible exact KeepsO.refused _
      | (with_reducible refine Keeps.foldl ?_ ?_; rotate_left; intro _ _ _)
      | (with_reducible refine Keeps1.foldl ?_ ?_; rotate_left; intro _ _ _)
      | (with_reducible refine Keeps2.foldl ?_ ?_; rotate_left; intro _ _ _) | with_reducible apply updSky_keeps | extract_lets
      | with_reducible intro _ | split)

theorem execCycleSlip_keeps {κ : Scope} {u : State} (ch : Nat) (s : State) (h : Keeps κ u s) : KeepsO κ u (execCycleSlip ch s) := by
  unfold execCycleSlip
  repeat' (first
      | with_reducible exact h | with_reducible assumption | with_reducible refine Keeps.ite ?_ ?_
      | with_reducible refine KeepsO.ite ?_ ?_ | with_reducible refine KeepsO.next ?_ | with_reducible exact KeepsO.refused _
      | with_reducible apply withUnit_keeps | with_reducible apply updSky_keeps | with_reducible intro _ | split)

theorem enterHoldover_keeps {κ : Scope} {u : State} (s : State) (at_ : Nat) (h : Keeps κ u s) : Keeps κ u (enterHoldover s at_) := by
  unfold enterHoldover
  repeat' (first
      | with_reducible exact h | with_reducible assumption | with_reducible refine Keeps.ite ?_ ?_ | with_reducible apply updSky_keeps
      | with_reducible apply updTm_keeps | extract_lets | with_reducible intro _ | split)

theorem leaveHoldover_keeps {κ : Scope} {u : State} (s : State) (d : Int) (h : Keeps κ u s) : Keeps κ u (leaveHoldover s d) := by
  unfold leaveHoldover
  repeat' (first
      | with_reducible exact h | with_reducible assumption | with_reducible refine Keeps.ite ?_ ?_ | with_reducible apply record_keeps
      | with_reducible apply updNet_keeps | with_reducible apply updSky_keeps | with_reducible apply updTm_keeps | extract_lets
      | with_reducible intro _ | split)

theorem takeUtc_keeps {κ : Scope} {u₀ : State} (u : Option UtcInfo) (s : State) (h : Keeps κ u₀ s) : Keeps κ u₀ (takeUtc u s) := by
  unfold takeUtc
  repeat' (first
      | with_reducible exact h | with_reducible assumption | with_reducible refine Keeps.ite ?_ ?_ | with_reducible apply updTm_keeps
      | with_reducible intro _ | split)

theorem validEpoch_keeps {κ : Scope} {u : State} (s : State) (x : Solution) (h : Keeps κ u s) : Keeps κ u (validEpoch s x) := by
  unfold validEpoch
  repeat' (first
      | with_reducible exact h | with_reducible assumption | with_reducible refine Keeps.ite ?_ ?_ | with_reducible apply freeInt_keeps
      | with_reducible apply updSky_keeps | with_reducible apply updTm_keeps | with_reducible apply takeUtc_keeps
      | with_reducible apply leaveHoldover_keeps | with_reducible refine Keeps2.snd ?_
      | with_reducible refine Keeps2.of_eq (by assumption) ?_ | with_reducible refine Keeps2.ite ?_ ?_ | extract_lets
      | with_reducible intro _ | split | with_reducible refine Keeps2.mk ?_)

theorem invalidEpoch_keeps {κ : Scope} {u : State} (s : State) (x : Solution) (h : Keeps κ u s) : Keeps κ u (invalidEpoch s x) := by
  unfold invalidEpoch
  repeat' (first
      | with_reducible exact h | with_reducible assumption | with_reducible refine Keeps.ite ?_ ?_ | with_reducible apply updSky_keeps
      | with_reducible apply enterHoldover_keeps | with_reducible apply record_keeps | extract_lets | with_reducible intro _ | split)

theorem epochStep_keeps {κ : Scope} {u : State} (x : Solution) (s : State) (h : Keeps κ u s) : Keeps κ u (epochStep x s) := by
  unfold epochStep
  repeat' (first
      | with_reducible exact h | with_reducible assumption | with_reducible refine Keeps.ite ?_ ?_ | with_reducible apply updSky_keeps
      | with_reducible apply invalidEpoch_keeps | with_reducible apply validEpoch_keeps | extract_lets | with_reducible intro _ | split)

theorem execFirstFixTimeSet_keeps {κ : Scope} {u : State} (gnssTime : Nat) (s : State) (h : Keeps κ u s) : KeepsO κ u (execFirstFixTimeSet gnssTime s) := by
  unfold execFirstFixTimeSet
  repeat' (first
      | with_reducible exact h | with_reducible assumption | with_reducible refine Keeps.ite ?_ ?_
      | with_reducible refine KeepsO.ite ?_ ?_ | with_reducible refine KeepsO.next ?_ | with_reducible exact KeepsO.refused _
      | with_reducible apply updSky_keeps | with_reducible apply updNet_keeps | with_reducible apply updTm_keeps | extract_lets
      | with_reducible intro _ | split)

theorem execSlewEnd_keeps {κ : Scope} {u : State} (s : State) (h : Keeps κ u s) : KeepsO κ u (execSlewEnd s) := by
  unfold execSlewEnd
  repeat' (first
      | with_reducible exact h | with_reducible assumption | with_reducible refine Keeps.ite ?_ ?_
      | with_reducible refine KeepsO.ite ?_ ?_ | with_reducible refine KeepsO.next ?_ | with_reducible exact KeepsO.refused _
      | with_reducible apply updTm_keeps | with_reducible apply updSky_keeps | with_reducible intro _ | split)

theorem execSkylightStop_keeps {κ : Scope} {u : State} (s : State) (h : Keeps κ u s) : KeepsO κ u (execSkylightStop s) := by
  unfold execSkylightStop
  repeat' (first
      | with_reducible exact h | with_reducible assumption | with_reducible refine Keeps.ite ?_ ?_
      | with_reducible refine KeepsO.ite ?_ ?_ | with_reducible refine KeepsO.next ?_ | with_reducible exact KeepsO.refused _
      | with_reducible apply enterHoldover_keeps | with_reducible apply updSky_keeps | extract_lets | with_reducible intro _ | split)

theorem rtcmApply_keeps {κ : Scope} {u : State} (s : State) (p : Bytes) (h : Keeps κ u s) : Keeps κ u (rtcmApply s p) := by
  unfold rtcmApply
  repeat' (first
      | with_reducible exact h | with_reducible assumption | with_reducible refine Keeps.ite ?_ ?_ | with_reducible apply updSkyio_keeps
      | with_reducible apply updSky_keeps | extract_lets | with_reducible intro _ | split)

theorem rtcmStep_keeps {κ : Scope} {u : State} (fromFleet : Bool) (f : Bytes) (s : State) (h : Keeps κ u s) : Keeps κ u (rtcmStep fromFleet f s) := by
  unfold rtcmStep
  repeat' (first
      | with_reducible exact h | with_reducible assumption | with_reducible refine Keeps.ite ?_ ?_ | with_reducible apply rtcmApply_keeps
      | with_reducible apply updSkyio_keeps | with_reducible intro _ | split)

theorem execRtcmFrame_keeps {κ : Scope} {u : State} (fromFleet : Bool) (frame : Bytes) (s : State) (h : Keeps κ u s) : KeepsO κ u (execRtcmFrame fromFleet frame s) := by
  unfold execRtcmFrame
  repeat' (first
      | with_reducible exact h | with_reducible assumption | with_reducible refine Keeps.ite ?_ ?_
      | with_reducible refine KeepsO.ite ?_ ?_ | with_reducible refine KeepsO.next ?_ | with_reducible exact KeepsO.refused _
      | with_reducible apply rtcmStep_keeps | with_reducible intro _ | split)

theorem execAidingSet_keeps {κ : Scope} {u : State} (f0 f1 f2 : Bytes) (t0 t1 t2 : Nat) (s : State) (h : Keeps κ u s) : KeepsO κ u (execAidingSet f0 f1 f2 t0 t1 t2 s) := by
  unfold execAidingSet
  repeat' (first
      | with_reducible exact h | with_reducible assumption | with_reducible refine Keeps.ite ?_ ?_
      | with_reducible refine KeepsO.ite ?_ ?_ | with_reducible refine KeepsO.next ?_ | with_reducible exact KeepsO.refused _
      | with_reducible apply updSkyio_keeps | with_reducible apply updSky_keeps | extract_lets | with_reducible intro _ | split)

theorem execPpsEdge_keeps {κ : Scope} {u : State} (second : Nat) (qerr : Int) (s : State) (h : Keeps κ u s) : KeepsO κ u (execPpsEdge second qerr s) := by
  unfold execPpsEdge
  repeat' (first
      | with_reducible exact h | with_reducible assumption | with_reducible refine Keeps.ite ?_ ?_
      | with_reducible refine KeepsO.ite ?_ ?_ | with_reducible refine KeepsO.next ?_ | with_reducible exact KeepsO.refused _
      | with_reducible apply withUnit_keeps | with_reducible apply updSkyio_keeps | with_reducible intro _ | split)

theorem execTimeMessage_keeps {κ : Scope} {u : State} (s : State) (h : Keeps κ u s) : KeepsO κ u (execTimeMessage s) := by
  unfold execTimeMessage
  repeat' (first
      | with_reducible exact h | with_reducible assumption | with_reducible refine Keeps.ite ?_ ?_
      | with_reducible refine KeepsO.ite ?_ ?_ | with_reducible refine KeepsO.next ?_ | with_reducible exact KeepsO.refused _
      | with_reducible apply updSkyio_keeps | extract_lets | with_reducible intro _ | split)

theorem skyCommand_keeps {κ : Scope} {u : State} (v : Int) (s : State) (h : Keeps κ u s) : Keeps κ u (skyCommand v s) := by
  unfold skyCommand
  repeat' (first
      | with_reducible exact h | with_reducible assumption | with_reducible refine Keeps.ite ?_ ?_ | with_reducible apply updSky_keeps
      | with_reducible intro _ | split)

theorem skyWrite_keeps {κ : Scope} {u : State} (c : Ctx) (i sub : Nat) (v : Val) (s : State) (h : Keeps κ u s) : KeepsE κ u (skyWrite c i sub v s) := by
  unfold skyWrite
  repeat' (first
      | with_reducible exact h | with_reducible assumption | with_reducible refine Keeps.ite ?_ ?_
      | with_reducible refine KeepsE.ite ?_ ?_ | with_reducible refine KeepsE.ok ?_ | with_reducible exact KeepsE.error _
      | with_reducible apply checked_keeps | with_reducible apply updWin_keeps | with_reducible apply skyCommand_keeps
      | with_reducible apply put_keeps | with_reducible apply updSkyio_keeps | with_reducible refine KeepsE.of_eq (by assumption) ?_
      | with_reducible intro _ | split)

theorem execSkyColdStart_keeps {κ : Scope} {u : State} (sess : Nat) (s : State) (h : Keeps κ u s) : KeepsO κ u (execSkyColdStart sess s) := by
  unfold execSkyColdStart
  repeat' (first
      | with_reducible exact h | with_reducible assumption | with_reducible refine Keeps.ite ?_ ?_
      | with_reducible refine KeepsO.ite ?_ ?_ | with_reducible refine KeepsO.next ?_ | with_reducible exact KeepsO.refused _
      | with_reducible apply asSession_keeps | with_reducible apply skyWrite_keeps | with_reducible refine KeepsE.of_eq (by assumption) ?_
      | with_reducible intro _ | split)

theorem execSkyDropAmbiguities_keeps {κ : Scope} {u : State} (sess : Nat) (s : State) (h : Keeps κ u s) : KeepsO κ u (execSkyDropAmbiguities sess s) := by
  unfold execSkyDropAmbiguities
  repeat' (first
      | with_reducible exact h | with_reducible assumption | with_reducible refine Keeps.ite ?_ ?_
      | with_reducible refine KeepsO.ite ?_ ?_ | with_reducible refine KeepsO.next ?_ | with_reducible exact KeepsO.refused _
      | with_reducible apply asSession_keeps | with_reducible apply skyWrite_keeps | with_reducible refine KeepsE.of_eq (by assumption) ?_
      | with_reducible intro _ | split)

end Sys2Proof.Machine
end

