-- ==== Sys2Proof/Laws/KeepsNet.lean ====
section
/-! SUPPORT. `Keeps` for the operations of Machine/Net.lean. -/

namespace Sys2Proof.Machine

set_option Elab.async false

theorem writeRtc_keeps {κ : Scope} {u : State} (s : State) (h : Keeps κ u s) : Keeps κ u (writeRtc s) := by
  unfold writeRtc
  repeat' (first
      | with_reducible exact h | with_reducible assumption | with_reducible refine Keeps.ite ?_ ?_
      | with_reducible refine updBelay_keeps ?_ _ (by rfl) | with_reducible refine history_keeps ?_ _ (by intro _; simp)
      | with_reducible intro _ | split)

theorem execRtcWrite_keeps {κ : Scope} {u : State} (s : State) (h : Keeps κ u s) : KeepsO κ u (execRtcWrite s) := by
  unfold execRtcWrite
  repeat' (first
      | with_reducible exact h | with_reducible assumption | with_reducible refine Keeps.ite ?_ ?_
      | with_reducible refine KeepsO.ite ?_ ?_ | with_reducible refine KeepsO.next ?_ | with_reducible exact KeepsO.refused _
      | with_reducible apply writeRtc_keeps | with_reducible intro _ | split)

theorem endDiscipline_keeps {κ : Scope} {u : State} (s : State) (h : Keeps κ u s) : Keeps κ u (endDiscipline s) := by
  unfold endDiscipline
  repeat' (first
      | with_reducible exact h | with_reducible assumption | with_reducible refine Keeps.ite ?_ ?_ | with_reducible apply updSky_keeps
      | with_reducible apply updTm_keeps | with_reducible apply updNet_keeps | with_reducible intro _ | split)

theorem syncWithin_keeps {κ : Scope} {u : State} (port : Nat) (o : Int) (accuracy : Nat) (s : State) (h : Keeps κ u s) : Keeps κ u (syncWithin port o accuracy s) := by
  unfold syncWithin
  repeat' (first
      | with_reducible exact h | with_reducible assumption | with_reducible refine Keeps.ite ?_ ?_ | with_reducible apply updNet_keeps
      | with_reducible apply freeInt_keeps | with_reducible apply updTm_keeps | with_reducible refine Keeps2.snd ?_
      | with_reducible refine Keeps2.of_eq (by assumption) ?_ | with_reducible refine Keeps2.ite ?_ ?_ | extract_lets
      | with_reducible intro _ | split | with_reducible refine Keeps2.mk ?_)

theorem syncRefused_keeps {κ : Scope} {u : State} (port : Nat) (o : Int) (s : State) (h : Keeps κ u s) : Keeps κ u (syncRefused port o s) := by
  unfold syncRefused
  repeat' (first
      | with_reducible exact h | with_reducible assumption | with_reducible refine Keeps.ite ?_ ?_
      | with_reducible apply endDiscipline_keeps | with_reducible apply updNet_keeps | with_reducible apply record_keeps | extract_lets
      | with_reducible intro _ | split)

theorem execPtpSyncReceive_keeps {κ : Scope} {u : State} (port : Nat) (offset : Int) (accuracy : Nat) (s : State) (h : Keeps κ u s) : KeepsO κ u (execPtpSyncReceive port offset accuracy s) := by
  unfold execPtpSyncReceive
  repeat' (first
      | with_reducible exact h | with_reducible assumption | with_reducible refine Keeps.ite ?_ ?_
      | with_reducible refine KeepsO.ite ?_ ?_ | with_reducible refine KeepsO.next ?_ | with_reducible exact KeepsO.refused _
      | with_reducible apply withUnit_keeps | with_reducible apply updNet_keeps | with_reducible apply syncWithin_keeps
      | with_reducible apply syncRefused_keeps | extract_lets | with_reducible intro _ | split)

theorem execPtpSyncDepart_keeps {κ : Scope} {u : State} (port : Nat) (s : State) (h : Keeps κ u s) : KeepsO κ u (execPtpSyncDepart port s) := by
  unfold execPtpSyncDepart
  repeat' (first
      | with_reducible exact h | with_reducible assumption | with_reducible refine Keeps.ite ?_ ?_
      | with_reducible refine KeepsO.ite ?_ ?_ | with_reducible refine KeepsO.next ?_ | with_reducible exact KeepsO.refused _
      | with_reducible apply withUnit_keeps | with_reducible apply updNet_keeps | with_reducible intro _ | split)

theorem execPdelayExchange_keeps {κ : Scope} {u : State} (port : Nat) (delay : Int) (s : State) (h : Keeps κ u s) : KeepsO κ u (execPdelayExchange port delay s) := by
  unfold execPdelayExchange
  repeat' (first
      | with_reducible exact h | with_reducible assumption | with_reducible refine Keeps.ite ?_ ?_
      | with_reducible refine KeepsO.ite ?_ ?_ | with_reducible refine KeepsO.next ?_ | with_reducible exact KeepsO.refused _
      | with_reducible apply withUnit_keeps | with_reducible apply updNet_keeps | with_reducible apply record_keeps | extract_lets
      | with_reducible intro _ | split)

theorem execAnnounceReceive_keeps {κ : Scope} {u : State} (port : Nat) (better : Bool) (accuracy : Nat) (s : State) (h : Keeps κ u s) : KeepsO κ u (execAnnounceReceive port better accuracy s) := by
  unfold execAnnounceReceive
  repeat' (first
      | with_reducible exact h | with_reducible assumption | with_reducible refine Keeps.ite ?_ ?_
      | with_reducible refine KeepsO.ite ?_ ?_ | with_reducible refine KeepsO.next ?_ | with_reducible exact KeepsO.refused _
      | with_reducible apply withUnit_keeps | with_reducible apply updNet_keeps | with_reducible apply endDiscipline_keeps | extract_lets
      | with_reducible intro _ | split)

theorem execAnnounceTimeout_keeps {κ : Scope} {u : State} (s : State) (h : Keeps κ u s) : KeepsO κ u (execAnnounceTimeout s) := by
  unfold execAnnounceTimeout
  repeat' (first
      | with_reducible exact h | with_reducible assumption | with_reducible refine Keeps.ite ?_ ?_
      | with_reducible refine KeepsO.ite ?_ ?_ | with_reducible refine KeepsO.next ?_ | with_reducible exact KeepsO.refused _
      | with_reducible apply endDiscipline_keeps | with_reducible apply updNet_keeps | extract_lets | with_reducible intro _ | split)

theorem linkChange_keeps {κ : Scope} {u : State} (p : Nat) (up : Bool) (s : State) (h : Keeps κ u s) : Keeps κ u (linkChange p up s) := by
  unfold linkChange
  repeat' (first
      | with_reducible exact h | with_reducible assumption | with_reducible refine Keeps.ite ?_ ?_
      | with_reducible apply endDiscipline_keeps | with_reducible apply updNet_keeps | extract_lets | with_reducible intro _ | split)

theorem execEthLinkChange_keeps {κ : Scope} {u : State} (p : Nat) (up : Bool) (s : State) (h : Keeps κ u s) : KeepsO κ u (execEthLinkChange p up s) := by
  unfold execEthLinkChange
  repeat' (first
      | with_reducible exact h | with_reducible assumption | with_reducible refine Keeps.ite ?_ ?_
      | with_reducible refine KeepsO.ite ?_ ?_ | with_reducible refine KeepsO.next ?_ | with_reducible exact KeepsO.refused _
      | with_reducible apply withUnit_keeps | with_reducible apply linkChange_keeps | with_reducible intro _ | split)

theorem timeCommand_keeps {κ : Scope} {u : State} (v : Int) (s : State) (h : Keeps κ u s) : KeepsE κ u (timeCommand v s) := by
  unfold timeCommand
  repeat' (first
      | with_reducible exact h | with_reducible assumption | with_reducible refine Keeps.ite ?_ ?_
      | with_reducible refine KeepsE.ite ?_ ?_ | with_reducible refine KeepsE.ok ?_ | with_reducible exact KeepsE.error _
      | with_reducible apply updNet_keeps | with_reducible apply updTm_keeps | extract_lets | with_reducible intro _ | split)

theorem restartPort_keeps {κ : Scope} {u : State} (p : Nat) (s : State) (h : Keeps κ u s) : Keeps κ u (restartPort p s) := by
  unfold restartPort
  repeat' (first
      | with_reducible exact h | with_reducible assumption | with_reducible refine Keeps.ite ?_ ?_ | with_reducible apply linkChange_keeps
      | with_reducible intro _ | split)

theorem netWrite_keeps {κ : Scope} {u : State} (c : Ctx) (i sub : Nat) (v : Val) (s : State) (h : Keeps κ u s) : KeepsE κ u (netWrite c i sub v s) := by
  unfold netWrite
  repeat' (first
      | with_reducible exact h | with_reducible assumption | with_reducible refine Keeps.ite ?_ ?_
      | with_reducible refine KeepsE.ite ?_ ?_ | with_reducible refine KeepsE.ok ?_ | with_reducible exact KeepsE.error _
      | with_reducible apply checked_keeps | with_reducible apply timeCommand_keeps | with_reducible apply endDiscipline_keeps
      | with_reducible apply updNet_keeps | with_reducible apply put_keeps | with_reducible apply restartPort_keeps
      | with_reducible refine KeepsE.of_eq (by assumption) ?_ | with_reducible intro _ | split)

theorem execAcceptRefusedStep_keeps {κ : Scope} {u : State} (sess : Nat) (s : State) (h : Keeps κ u s) : KeepsO κ u (execAcceptRefusedStep sess s) := by
  unfold execAcceptRefusedStep
  repeat' (first
      | with_reducible exact h | with_reducible assumption | with_reducible refine Keeps.ite ?_ ?_
      | with_reducible refine KeepsO.ite ?_ ?_ | with_reducible refine KeepsO.next ?_ | with_reducible exact KeepsO.refused _
      | with_reducible apply asSession_keeps | with_reducible apply netWrite_keeps | with_reducible refine KeepsE.of_eq (by assumption) ?_
      | with_reducible intro _ | split)

theorem execDiscardRefusedStep_keeps {κ : Scope} {u : State} (sess : Nat) (s : State) (h : Keeps κ u s) : KeepsO κ u (execDiscardRefusedStep sess s) := by
  unfold execDiscardRefusedStep
  repeat' (first
      | with_reducible exact h | with_reducible assumption | with_reducible refine Keeps.ite ?_ ?_
      | with_reducible refine KeepsO.ite ?_ ?_ | with_reducible refine KeepsO.next ?_ | with_reducible exact KeepsO.refused _
      | with_reducible apply asSession_keeps | with_reducible apply netWrite_keeps | with_reducible refine KeepsE.of_eq (by assumption) ?_
      | with_reducible intro _ | split)

theorem execNetConfigWrite_keeps {κ : Scope} {u : State} (sess index sub : Nat) (v : Val) (s : State) (h : Keeps κ u s) : KeepsO κ u (execNetConfigWrite sess index sub v s) := by
  unfold execNetConfigWrite
  repeat' (first
      | with_reducible exact h | with_reducible assumption | with_reducible refine Keeps.ite ?_ ?_
      | with_reducible refine KeepsO.ite ?_ ?_ | with_reducible refine KeepsO.next ?_ | with_reducible exact KeepsO.refused _
      | with_reducible apply asSession_keeps | with_reducible apply netWrite_keeps | with_reducible apply withUnit_keeps
      | with_reducible refine KeepsE.of_eq (by assumption) ?_ | with_reducible intro _ | split)

end Sys2Proof.Machine
end

