-- ==== Sys2Proof/Laws/KeepsLeadOps.lean ====
section
/-! SUPPORT. `Keeps` for the operations of Machine/LeadOps.lean. -/

namespace Sys2Proof.Machine

set_option Elab.async false

theorem killLeads_keeps {κ : Scope} {u : State} (p : Lead → Bool) (reason : Nat) (s : State) (h : Keeps κ u s) : Keeps κ u (killLeads p reason s) := by
  unfold killLeads
  repeat' (first
      | with_reducible exact h | with_reducible assumption | with_reducible refine Keeps.ite ?_ ?_ | extract_lets | with_reducible intro _
      | split | with_reducible apply engines_keeps)

theorem killUnresolved_keeps {κ : Scope} {u : State} (reason : Nat) (s : State) (h : Keeps κ u s) : Keeps κ u (killUnresolved reason s) := by
  unfold killUnresolved
  repeat' (first
      | with_reducible exact h | with_reducible assumption | with_reducible refine Keeps.ite ?_ ?_ | with_reducible apply killLeads_keeps
      | with_reducible intro _ | split)

theorem killUncut_keeps {κ : Scope} {u : State} (reason : Nat) (s : State) (h : Keeps κ u s) : Keeps κ u (killUncut reason s) := by
  unfold killUncut
  repeat' (first
      | with_reducible exact h | with_reducible assumption | with_reducible refine Keeps.ite ?_ ?_ | with_reducible apply killLeads_keeps
      | with_reducible intro _ | split)

theorem emptyLeads_keeps {κ : Scope} {u : State} (reason : Nat) (s : State) (h : Keeps κ u s) : Keeps κ u (emptyLeads reason s) := by
  unfold emptyLeads
  repeat' (first
      | with_reducible exact h | with_reducible assumption | with_reducible refine Keeps.ite ?_ ?_
      | with_reducible apply killUnresolved_keeps | with_reducible apply updLead_keeps | with_reducible intro _ | split)

end Sys2Proof.Machine
end

