-- ==== Sys2Proof/Laws/KeepsSensing.lean ====
section
/-! SUPPORT. `Keeps` for the operations of Machine/Sensing.lean. -/

namespace Sys2Proof.Machine

set_option Elab.async false

theorem sensorRecord_keeps {κ : Scope} {u : State} (raised : Bool) (code engine status : Nat) (s : State) (h : Keeps κ u s) : Keeps κ u (sensorRecord raised code engine status s) := by
  unfold sensorRecord
  repeat' (first
      | with_reducible exact h | with_reducible assumption | with_reducible refine Keeps.ite ?_ ?_ | with_reducible apply record_keeps
      | with_reducible intro _ | split)

theorem aiInvalid_keeps {κ : Scope} {u : State} (a : Nat) (s : State) (h : Keeps κ u s) : Keeps κ u (aiInvalid a s) := by
  unfold aiInvalid
  repeat' (first
      | with_reducible exact h | with_reducible assumption | with_reducible refine Keeps.ite ?_ ?_ | with_reducible apply updAi_keeps
      | with_reducible apply killUnresolved_keeps | extract_lets | with_reducible intro _ | split)

theorem execSensorSupplyFoldback_keeps {κ : Scope} {u : State} (i : Nat) (s : State) (h : Keeps κ u s) : KeepsO κ u (execSensorSupplyFoldback i s) := by
  unfold execSensorSupplyFoldback
  repeat' (first
      | with_reducible exact h | with_reducible assumption | with_reducible refine Keeps.ite ?_ ?_
      | with_reducible refine KeepsO.ite ?_ ?_ | with_reducible refine KeepsO.next ?_ | with_reducible exact KeepsO.refused _
      | (with_reducible refine Keeps.foldl ?_ ?_; rotate_left; intro _ _ _)
      | (with_reducible refine Keeps1.foldl ?_ ?_; rotate_left; intro _ _ _)
      | (with_reducible refine Keeps2.foldl ?_ ?_; rotate_left; intro _ _ _) | with_reducible apply withUnit_keeps
      | with_reducible apply updSens_keeps | with_reducible apply sensorRecord_keeps | with_reducible apply aiInvalid_keeps | extract_lets
      | with_reducible intro _ | split)

theorem execSensorSupplyRetry_keeps {κ : Scope} {u : State} (i : Nat) (within : Bool) (s : State) (h : Keeps κ u s) : KeepsO κ u (execSensorSupplyRetry i within s) := by
  unfold execSensorSupplyRetry
  repeat' (first
      | with_reducible exact h | with_reducible assumption | with_reducible refine Keeps.ite ?_ ?_
      | with_reducible refine KeepsO.ite ?_ ?_ | with_reducible refine KeepsO.next ?_ | with_reducible exact KeepsO.refused _
      | with_reducible apply withUnit_keeps | with_reducible apply updSens_keeps | with_reducible apply sensorRecord_keeps | extract_lets
      | with_reducible intro _ | split)

theorem execPulseWindowClose_keeps {κ : Scope} {u : State} (c stamp : Nat) (samples : List Int) (s : State) (h : Keeps κ u s) : KeepsO κ u (execPulseWindowClose c stamp samples s) := by
  unfold execPulseWindowClose
  repeat' (first
      | with_reducible exact h | with_reducible assumption | with_reducible refine Keeps.ite ?_ ?_
      | with_reducible refine KeepsO.ite ?_ ?_ | with_reducible refine KeepsO.next ?_ | with_reducible exact KeepsO.refused _
      | with_reducible apply withUnit_keeps | with_reducible apply updLs_keeps | with_reducible apply sensorRecord_keeps
      | with_reducible apply updSens_keeps | extract_lets | with_reducible intro _ | split)

theorem startTests_keeps {κ : Scope} {u : State} (s : State) (h : Keeps κ u s) : Keeps κ u (startTests s) := by
  unfold startTests
  repeat' (first
      | with_reducible exact h | with_reducible assumption | with_reducible refine Keeps.ite ?_ ?_
      | (with_reducible refine Keeps.foldl ?_ ?_; rotate_left; intro _ _ _)
      | (with_reducible refine Keeps1.foldl ?_ ?_; rotate_left; intro _ _ _)
      | (with_reducible refine Keeps2.foldl ?_ ?_; rotate_left; intro _ _ _) | with_reducible apply updLs_keeps
      | with_reducible apply updSens_keeps | extract_lets | with_reducible intro _ | split)

theorem execLsChannelTest_keeps {κ : Scope} {u : State} (c : Nat) (cap : Option Nat) (lowResistance : Bool) (s : State) (h : Keeps κ u s) : KeepsO κ u (execLsChannelTest c cap lowResistance s) := by
  unfold execLsChannelTest
  repeat' (first
      | with_reducible exact h | with_reducible assumption | with_reducible refine Keeps.ite ?_ ?_
      | with_reducible refine KeepsO.ite ?_ ?_ | with_reducible refine KeepsO.next ?_ | with_reducible exact KeepsO.refused _
      | with_reducible apply withUnit_keeps | with_reducible apply startTests_keeps | with_reducible apply updSens_keeps
      | with_reducible apply updLs_keeps | with_reducible apply sensorRecord_keeps | extract_lets | with_reducible intro _ | split)

theorem execLsNoisyExpiry_keeps {κ : Scope} {u : State} (c : Nat) (above : Bool) (s : State) (h : Keeps κ u s) : KeepsO κ u (execLsNoisyExpiry c above s) := by
  unfold execLsNoisyExpiry
  repeat' (first
      | with_reducible exact h | with_reducible assumption | with_reducible refine Keeps.ite ?_ ?_
      | with_reducible refine KeepsO.ite ?_ ?_ | with_reducible refine KeepsO.next ?_ | with_reducible exact KeepsO.refused _
      | with_reducible apply withUnit_keeps | with_reducible apply updLs_keeps | with_reducible apply sensorRecord_keeps | extract_lets
      | with_reducible intro _ | split)

theorem lossWrite_keeps {κ : Scope} {u : State} (w : Ctx) (i sub : Nat) (v : Val) (s : State) (h : Keeps κ u s) : KeepsE κ u (lossWrite w i sub v s) := by
  unfold lossWrite
  repeat' (first
      | with_reducible exact h | with_reducible assumption | with_reducible refine Keeps.ite ?_ ?_
      | with_reducible refine KeepsE.ite ?_ ?_ | with_reducible refine KeepsE.ok ?_ | with_reducible exact KeepsE.error _
      | with_reducible apply checked_keeps | with_reducible apply startTests_keeps | with_reducible apply updSens_keeps
      | with_reducible apply put_keeps | with_reducible refine KeepsE.of_eq (by assumption) ?_ | extract_lets | with_reducible intro _
      | split)

theorem execLsTestNow_keeps {κ : Scope} {u : State} (sess : Nat) (mask : Int) (s : State) (h : Keeps κ u s) : KeepsO κ u (execLsTestNow sess mask s) := by
  unfold execLsTestNow
  repeat' (first
      | with_reducible exact h | with_reducible assumption | with_reducible refine Keeps.ite ?_ ?_
      | with_reducible refine KeepsO.ite ?_ ?_ | with_reducible refine KeepsO.next ?_ | with_reducible exact KeepsO.refused _
      | with_reducible apply asSession_keeps | with_reducible apply lossWrite_keeps
      | with_reducible refine KeepsE.of_eq (by assumption) ?_ | with_reducible intro _ | split)

theorem execLossChannelWrite_keeps {κ : Scope} {u : State} (sess c sub : Nat) (v : Int) (s : State) (h : Keeps κ u s) : KeepsO κ u (execLossChannelWrite sess c sub v s) := by
  unfold execLossChannelWrite
  repeat' (first
      | with_reducible exact h | with_reducible assumption | with_reducible refine Keeps.ite ?_ ?_
      | with_reducible refine KeepsO.ite ?_ ?_ | with_reducible refine KeepsO.next ?_ | with_reducible exact KeepsO.refused _
      | with_reducible apply asSession_keeps | with_reducible apply lossWrite_keeps | with_reducible apply withUnit_keeps
      | with_reducible refine KeepsE.of_eq (by assumption) ?_ | with_reducible intro _ | split)

theorem execAiRangeFault_keeps {κ : Scope} {u : State} (a : Nat) (raw : Int) (s : State) (h : Keeps κ u s) : KeepsO κ u (execAiRangeFault a raw s) := by
  unfold execAiRangeFault
  repeat' (first
      | with_reducible exact h | with_reducible assumption | with_reducible refine Keeps.ite ?_ ?_
      | with_reducible refine KeepsO.ite ?_ ?_ | with_reducible refine KeepsO.next ?_ | with_reducible exact KeepsO.refused _
      | with_reducible apply withUnit_keeps | with_reducible apply updAi_keeps | with_reducible apply sensorRecord_keeps
      | with_reducible apply aiInvalid_keeps | extract_lets | with_reducible intro _ | split)

theorem execAiRangeHoldExpiry_keeps {κ : Scope} {u : State} (a : Nat) (s : State) (h : Keeps κ u s) : KeepsO κ u (execAiRangeHoldExpiry a s) := by
  unfold execAiRangeHoldExpiry
  repeat' (first
      | with_reducible exact h | with_reducible assumption | with_reducible refine Keeps.ite ?_ ?_
      | with_reducible refine KeepsO.ite ?_ ?_ | with_reducible refine KeepsO.next ?_ | with_reducible exact KeepsO.refused _
      | with_reducible apply withUnit_keeps | with_reducible apply updAi_keeps | with_reducible apply sensorRecord_keeps | extract_lets
      | with_reducible intro _ | split)

theorem execShuntOpen_keeps {κ : Scope} {u : State} (a : Nat) (s : State) (h : Keeps κ u s) : KeepsO κ u (execShuntOpen a s) := by
  unfold execShuntOpen
  repeat' (first
      | with_reducible exact h | with_reducible assumption | with_reducible refine Keeps.ite ?_ ?_
      | with_reducible refine KeepsO.ite ?_ ?_ | with_reducible refine KeepsO.next ?_ | with_reducible exact KeepsO.refused _
      | with_reducible apply withUnit_keeps | with_reducible apply updAi_keeps | with_reducible apply sensorRecord_keeps
      | with_reducible apply aiInvalid_keeps | extract_lets | with_reducible intro _ | split)

theorem execShuntRetest_keeps {κ : Scope} {u : State} (a : Nat) (microamp : Int) (s : State) (h : Keeps κ u s) : KeepsO κ u (execShuntRetest a microamp s) := by
  unfold execShuntRetest
  repeat' (first
      | with_reducible exact h | with_reducible assumption | with_reducible refine Keeps.ite ?_ ?_
      | with_reducible refine KeepsO.ite ?_ ?_ | with_reducible refine KeepsO.next ?_ | with_reducible exact KeepsO.refused _
      | with_reducible apply withUnit_keeps | with_reducible apply updAi_keeps | with_reducible intro _ | split)

theorem aiWrite_keeps {κ : Scope} {u : State} (w : Ctx) (i sub : Nat) (v : Val) (s : State) (h : Keeps κ u s) : KeepsE κ u (aiWrite w i sub v s) := by
  unfold aiWrite
  repeat' (first
      | with_reducible exact h | with_reducible assumption | with_reducible refine Keeps.ite ?_ ?_
      | with_reducible refine KeepsE.ite ?_ ?_ | with_reducible refine KeepsE.ok ?_ | with_reducible exact KeepsE.error _
      | with_reducible apply checked_keeps | with_reducible apply put_keeps | with_reducible apply updAi_keeps
      | with_reducible refine KeepsE.of_eq (by assumption) ?_ | extract_lets | with_reducible intro _ | split)

theorem execAiConfigWrite_keeps {κ : Scope} {u : State} (sess a sub : Nat) (v : Int) (s : State) (h : Keeps κ u s) : KeepsO κ u (execAiConfigWrite sess a sub v s) := by
  unfold execAiConfigWrite
  repeat' (first
      | with_reducible exact h | with_reducible assumption | with_reducible refine Keeps.ite ?_ ?_
      | with_reducible refine KeepsO.ite ?_ ?_ | with_reducible refine KeepsO.next ?_ | with_reducible exact KeepsO.refused _
      | with_reducible apply asSession_keeps | with_reducible apply aiWrite_keeps | with_reducible apply withUnit_keeps
      | with_reducible refine KeepsE.of_eq (by assumption) ?_ | with_reducible intro _ | split)

theorem execShaftEdge_keeps {κ : Scope} {u : State} (sh stamp : Nat) (lines : ShaftLines) (held : Nat) (s : State) (h : Keeps κ u s) : KeepsO κ u (execShaftEdge sh stamp lines held s) := by
  unfold execShaftEdge
  repeat' (first
      | with_reducible exact h | with_reducible assumption | with_reducible refine Keeps.ite ?_ ?_
      | with_reducible refine KeepsO.ite ?_ ?_ | with_reducible refine KeepsO.next ?_ | with_reducible exact KeepsO.refused _
      | with_reducible apply withUnit_keeps | with_reducible apply updShaft_keeps | with_reducible apply sensorRecord_keeps | extract_lets
      | with_reducible intro _ | split)

theorem releaseIndex_keeps {κ : Scope} {u : State} (sh : Nat) (s : State) (h : Keeps κ u s) : Keeps κ u (releaseIndex sh s) := by
  unfold releaseIndex
  repeat' (first
      | with_reducible exact h | with_reducible assumption | with_reducible refine Keeps.ite ?_ ?_ | with_reducible apply updLoop_keeps
      | with_reducible intro _ | split)

theorem execIndexEdge_keeps {κ : Scope} {u : State} (sh _stamp : Nat) (s : State) (h : Keeps κ u s) : KeepsO κ u (execIndexEdge sh _stamp s) := by
  unfold execIndexEdge
  repeat' (first
      | with_reducible exact h | with_reducible assumption | with_reducible refine Keeps.ite ?_ ?_
      | with_reducible refine KeepsO.ite ?_ ?_ | with_reducible refine KeepsO.next ?_ | with_reducible exact KeepsO.refused _
      | with_reducible apply withUnit_keeps | with_reducible apply releaseIndex_keeps | with_reducible apply updShaft_keeps
      | with_reducible apply sensorRecord_keeps | extract_lets | with_reducible intro _ | split)

theorem execShaftZeroTimeout_keeps {κ : Scope} {u : State} (sh : Nat) (s : State) (h : Keeps κ u s) : KeepsO κ u (execShaftZeroTimeout sh s) := by
  unfold execShaftZeroTimeout
  repeat' (first
      | with_reducible exact h | with_reducible assumption | with_reducible refine Keeps.ite ?_ ?_
      | with_reducible refine KeepsO.ite ?_ ?_ | with_reducible refine KeepsO.next ?_ | with_reducible exact KeepsO.refused _
      | with_reducible apply withUnit_keeps | with_reducible apply updShaft_keeps | extract_lets | with_reducible intro _ | split)

theorem execShaftFaultClearExpiry_keeps {κ : Scope} {u : State} (sh : Nat) (s : State) (h : Keeps κ u s) : KeepsO κ u (execShaftFaultClearExpiry sh s) := by
  unfold execShaftFaultClearExpiry
  repeat' (first
      | with_reducible exact h | with_reducible assumption | with_reducible refine Keeps.ite ?_ ?_
      | with_reducible refine KeepsO.ite ?_ ?_ | with_reducible refine KeepsO.next ?_ | with_reducible exact KeepsO.refused _
      | with_reducible apply withUnit_keeps | with_reducible apply updShaft_keeps | with_reducible apply sensorRecord_keeps | extract_lets
      | with_reducible intro _ | split)

theorem shWrite_keeps {κ : Scope} {u : State} (w : Ctx) (i sub : Nat) (v : Val) (s : State) (h : Keeps κ u s) : KeepsE κ u (shWrite w i sub v s) := by
  unfold shWrite
  repeat' (first
      | with_reducible exact h | with_reducible assumption | with_reducible refine Keeps.ite ?_ ?_
      | with_reducible refine KeepsE.ite ?_ ?_ | with_reducible refine KeepsE.ok ?_ | with_reducible exact KeepsE.error _
      | with_reducible apply checked_keeps | with_reducible apply put_keeps | with_reducible refine KeepsE.of_eq (by assumption) ?_
      | extract_lets | with_reducible intro _ | split)

theorem execTareLearn_keeps {κ : Scope} {u : State} (s : State) (h : Keeps κ u s) : KeepsO κ u (execTareLearn s) := by
  unfold execTareLearn
  repeat' (first
      | with_reducible exact h | with_reducible assumption | with_reducible refine Keeps.ite ?_ ?_
      | with_reducible refine KeepsO.ite ?_ ?_ | with_reducible refine KeepsO.next ?_ | with_reducible exact KeepsO.refused _
      | with_reducible apply updSens_keeps | with_reducible apply sensorRecord_keeps | extract_lets | with_reducible intro _ | split)

theorem cropWrite_keeps {κ : Scope} {u : State} (w : Ctx) (i sub : Nat) (v : Val) (s : State) (h : Keeps κ u s) : KeepsE κ u (cropWrite w i sub v s) := by
  unfold cropWrite
  repeat' (first
      | with_reducible exact h | with_reducible assumption | with_reducible refine Keeps.ite ?_ ?_
      | with_reducible refine KeepsE.ite ?_ ?_ | with_reducible refine KeepsE.ok ?_ | with_reducible exact KeepsE.error _
      | with_reducible apply checked_keeps | with_reducible apply put_keeps | with_reducible refine KeepsE.of_eq (by assumption) ?_
      | with_reducible intro _ | split)

theorem execImuSample_keeps {κ : Scope} {u : State} (stamp : Nat) (ax ay az rx ry rz biasX biasY : Int) (s : State) (h : Keeps κ u s) :
    KeepsO κ u (execImuSample stamp ax ay az rx ry rz biasX biasY s) := by
  unfold execImuSample
  repeat' (first
      | with_reducible exact h | with_reducible assumption | with_reducible refine Keeps.ite ?_ ?_
      | with_reducible refine KeepsO.ite ?_ ?_ | with_reducible refine KeepsO.next ?_ | with_reducible exact KeepsO.refused _
      | with_reducible apply freeInt_keeps | with_reducible apply updSens_keeps | with_reducible apply sensorRecord_keeps
      | with_reducible refine Keeps2.snd ?_ | with_reducible refine Keeps2.of_eq (by assumption) ?_
      | with_reducible refine Keeps2.ite ?_ ?_ | extract_lets | with_reducible intro _ | split | with_reducible refine Keeps2.mk ?_)

theorem execImuSelfTest_keeps {κ : Scope} {u : State} (pass : Bool) (s : State) (h : Keeps κ u s) : KeepsO κ u (execImuSelfTest pass s) := by
  unfold execImuSelfTest
  repeat' (first
      | with_reducible exact h | with_reducible assumption | with_reducible refine Keeps.ite ?_ ?_
      | with_reducible refine KeepsO.ite ?_ ?_ | with_reducible refine KeepsO.next ?_ | with_reducible exact KeepsO.refused _
      | with_reducible apply updSens_keeps | with_reducible apply sensorRecord_keeps | extract_lets | with_reducible intro _ | split)

theorem imuWrite_keeps {κ : Scope} {u : State} (w : Ctx) (i sub : Nat) (v : Val) (s : State) (h : Keeps κ u s) : KeepsE κ u (imuWrite w i sub v s) := by
  unfold imuWrite
  repeat' (first
      | with_reducible exact h | with_reducible assumption | with_reducible refine Keeps.ite ?_ ?_
      | with_reducible refine KeepsE.ite ?_ ?_ | with_reducible refine KeepsE.ok ?_ | with_reducible exact KeepsE.error _
      | with_reducible apply plainWrite_keeps | with_reducible refine KeepsE.of_eq (by assumption) ?_ | with_reducible intro _ | split)

theorem limitExpiry_keeps {κ : Scope} {u : State} (s : State) (c : Nat) (h : Keeps κ u s) : Keeps κ u (limitExpiry s c) := by
  unfold limitExpiry
  repeat' (first
      | with_reducible exact h | with_reducible assumption | with_reducible refine Keeps.ite ?_ ?_ | with_reducible apply updLs_keeps
      | with_reducible apply sensorRecord_keeps | extract_lets | with_reducible intro _ | split)

theorem senseFrame_keeps {κ : Scope} {u : State} (x : FrameIn) (s : State) (h : Keeps κ u s) : Keeps κ u (senseFrame x s) := by
  unfold senseFrame
  repeat' (first
      | with_reducible exact h | with_reducible assumption | with_reducible refine Keeps.ite ?_ ?_
      | (with_reducible refine Keeps.foldl ?_ ?_; rotate_left; intro _ _ _)
      | (with_reducible refine Keeps1.foldl ?_ ?_; rotate_left; intro _ _ _)
      | (with_reducible refine Keeps2.foldl ?_ ?_; rotate_left; intro _ _ _) | with_reducible apply updSens_keeps
      | with_reducible apply sensorRecord_keeps | with_reducible apply limitExpiry_keeps | extract_lets | with_reducible intro _ | split)

end Sys2Proof.Machine
end

