-- ==== Sys2Proof/Laws/KeepsPassage.lean ====
section
/-! SUPPORT. `Keeps` for the operations of Machine/Passage.lean. -/

namespace Sys2Proof.Machine

set_option Elab.async false

theorem execStationStopTimeout_keeps {κ : Scope} {u : State} (k : Nat) (s : State) (h : Keeps κ u s) : KeepsO κ u (execStationStopTimeout k s) := by
  unfold execStationStopTimeout
  repeat' (first
      | with_reducible exact h | with_reducible assumption | with_reducible refine Keeps.ite ?_ ?_
      | with_reducible refine KeepsO.ite ?_ ?_ | with_reducible refine KeepsO.next ?_ | with_reducible exact KeepsO.refused _
      | with_reducible apply withUnit_keeps | with_reducible apply updPas_keeps | with_reducible intro _ | split)

theorem execGroundSourceLossExpiry_keeps {κ : Scope} {u : State} (s : State) (h : Keeps κ u s) : KeepsO κ u (execGroundSourceLossExpiry s) := by
  unfold execGroundSourceLossExpiry
  repeat' (first
      | with_reducible exact h | with_reducible assumption | with_reducible refine Keeps.ite ?_ ?_
      | with_reducible refine KeepsO.ite ?_ ?_ | with_reducible refine KeepsO.next ?_ | with_reducible exact KeepsO.refused _
      | with_reducible apply updPctl_keeps | with_reducible intro _ | split)

theorem closeSlice_keeps {κ : Scope} {u : State} (s : State) (len : Nat) (carry ahead : Int) (short : Bool) (h : Keeps κ u s) :
    Keeps1 κ u (closeSlice s len carry ahead short) := by
  unfold closeSlice
  extract_lets p
  split
  extract_lets past more next back ctl
  refine Keeps1.ite ?_ ?_
  · split
    · with_reducible exact Keeps1.mk (engines_keeps h ..)
    · extract_lets; with_reducible exact Keeps1.mk (engines_keeps h ..)
  · extract_lets; with_reducible exact Keeps1.mk (engines_keeps h ..)

theorem closeSlices_keeps {κ : Scope} {u : State} (ahead : Int) (n : Nat) (x : State × PasEv) (h : Keeps1 κ u x) : Keeps1 κ u (closeSlices ahead n x) := by
  induction n generalizing x with
  | zero => exact h
  | succ n ih =>
    unfold closeSlices
    refine Keeps1.ite ?_ h
    exact ih _ (Keeps1.mk (Keeps1.fst (closeSlice_keeps _ _ _ _ _ (Keeps1.fst h))))

theorem groundStep_keeps {κ : Scope} {u : State} (s : State) (h : Keeps κ u s) : Keeps κ u (groundStep s) := by
  unfold groundStep
  repeat' (first
      | with_reducible exact h | with_reducible assumption | with_reducible refine Keeps.ite ?_ ?_
      | (with_reducible refine Keeps.foldl ?_ ?_; rotate_left; intro _ _ _)
      | (with_reducible refine Keeps1.foldl ?_ ?_; rotate_left; intro _ _ _)
      | (with_reducible refine Keeps2.foldl ?_ ?_; rotate_left; intro _ _ _) | extract_lets | with_reducible intro _ | split
      | with_reducible apply engines_keeps)

theorem groundFrame_keeps {κ : Scope} {u : State} (s : State) (h : Keeps κ u s) : Keeps1 κ u (groundFrame s) := by
  unfold groundFrame
  extract_lets c
  have h1 : Keeps κ u c := groundStep_keeps _ h
  clear_value c
  refine Keeps1.ite ?_ (Keeps1.mk h1)
  exact closeSlices_keeps _ _ _ (Keeps1.mk (engines_keeps h1 ..))

theorem advance_keeps {κ : Scope} {u : State} (s : State) (h : Keeps κ u s) : Keeps1 κ u (advance s) := by
  unfold advance
  repeat' (first
      | with_reducible exact h | with_reducible assumption | with_reducible refine Keeps.ite ?_ ?_
      | with_reducible refine Keeps1.ite ?_ ?_ | (with_reducible refine Keeps.foldl ?_ ?_; rotate_left; intro _ _ _)
      | (with_reducible refine Keeps1.foldl ?_ ?_; rotate_left; intro _ _ _)
      | (with_reducible refine Keeps2.foldl ?_ ?_; rotate_left; intro _ _ _) | extract_lets | with_reducible intro _ | split
      | with_reducible refine Keeps1.mk ?_ | with_reducible apply engines_keeps)

theorem attributeImpacts_keeps {κ : Scope} {u : State} (s : State) (h : Keeps κ u s) : Keeps κ u (attributeImpacts s) := by
  unfold attributeImpacts
  repeat' (first
      | with_reducible exact h | with_reducible assumption | with_reducible refine Keeps.ite ?_ ?_
      | (with_reducible refine Keeps.foldl ?_ ?_; rotate_left; intro _ _ _)
      | (with_reducible refine Keeps1.foldl ?_ ?_; rotate_left; intro _ _ _)
      | (with_reducible refine Keeps2.foldl ?_ ?_; rotate_left; intro _ _ _) | with_reducible intro _ | split
      | with_reducible apply engines_keeps)

theorem attributeFlows_keeps {κ : Scope} {u : State} (s : State) (h : Keeps κ u s) : Keeps κ u (attributeFlows s) := by
  unfold attributeFlows
  repeat' (first
      | with_reducible exact h | with_reducible assumption | with_reducible refine Keeps.ite ?_ ?_
      | (with_reducible refine Keeps.foldl ?_ ?_; rotate_left; intro _ _ _)
      | (with_reducible refine Keeps1.foldl ?_ ?_; rotate_left; intro _ _ _)
      | (with_reducible refine Keeps2.foldl ?_ ?_; rotate_left; intro _ _ _) | extract_lets | with_reducible intro _ | split
      | with_reducible apply engines_keeps)

theorem tareFrame_keeps {κ : Scope} {u : State} (s : State) (h : Keeps κ u s) : Keeps κ u (tareFrame s) := by
  unfold tareFrame
  repeat' (first
      | with_reducible exact h | with_reducible assumption | with_reducible refine Keeps.ite ?_ ?_ | with_reducible apply free_keeps
      | with_reducible apply updSens_keeps | extract_lets | with_reducible intro _ | split)

theorem settle_keeps {κ : Scope} {u : State} (s : State) (h : Keeps κ u s) : Keeps1 κ u (settle s) := by
  unfold settle
  refine Keeps1.foldl (Keeps1.mk h) fun acc q ha => ?_
  extract_lets t out
  refine Keeps1.ite (Keeps1.ite (Keeps1.mk (engines_keeps (Keeps1.fst ha) ..)) ha) ?_
  extract_lets
  exact Keeps1.ite ha (Keeps1.mk (engines_keeps (Keeps1.fst ha) ..))

theorem freeEntriesNow_keeps {κ : Scope} {u : State} (s : State) (h : Keeps κ u s) : Keeps κ u (freeEntriesNow s) := by
  unfold freeEntriesNow
  repeat' (first
      | with_reducible exact h | with_reducible assumption | with_reducible refine Keeps.ite ?_ ?_ | extract_lets | with_reducible intro _
      | split | with_reducible apply engines_keeps)

theorem recordLost_keeps {κ : Scope} {u : State} (s : State) (h : Keeps κ u s) : Keeps κ u (recordLost s) := by
  unfold recordLost
  repeat' (first
      | with_reducible exact h | with_reducible assumption | with_reducible refine Keeps.ite ?_ ?_
      | (with_reducible refine Keeps.foldl ?_ ?_; rotate_left; intro _ _ _)
      | (with_reducible refine Keeps1.foldl ?_ ?_; rotate_left; intro _ _ _)
      | (with_reducible refine Keeps2.foldl ?_ ?_; rotate_left; intro _ _ _) | with_reducible apply freeInt_keeps
      | with_reducible apply record_keeps | with_reducible refine Keeps2.snd ?_ | with_reducible refine Keeps2.of_eq (by assumption) ?_
      | with_reducible refine Keeps2.ite ?_ ?_ | extract_lets | with_reducible intro _ | split | with_reducible refine Keeps2.mk ?_)

theorem discardEvents_keeps {κ : Scope} {u : State} (s : State) (h : Keeps κ u s) : Keeps κ u (discardEvents s) := by
  unfold discardEvents
  repeat' (first
      | with_reducible exact h | with_reducible assumption | with_reducible refine Keeps.ite ?_ ?_ | with_reducible apply recordLost_keeps
      | with_reducible apply updPctl_keeps | with_reducible intro _ | split)

theorem beginReset_keeps {κ : Scope} {u : State} (by_ : Option Nat) (s : State) (h : Keeps κ u s) : Keeps κ u (beginReset by_ s) := by
  unfold beginReset
  repeat' (first
      | with_reducible exact h | with_reducible assumption | with_reducible refine Keeps.ite ?_ ?_ | with_reducible apply emptyLeads_keeps
      | with_reducible apply discardEvents_keeps | with_reducible apply optVoid_keeps | extract_lets | with_reducible intro _ | split
      | with_reducible apply engines_keeps)

theorem selfReset_keeps {κ : Scope} {u : State} (a b : Nat) (s : State) (h : Keeps κ u s) : Keeps κ u (selfReset a b s) := by
  unfold selfReset
  repeat' (first
      | with_reducible exact h | with_reducible assumption | with_reducible refine Keeps.ite ?_ ?_ | with_reducible apply beginReset_keeps
      | with_reducible apply record_keeps | with_reducible intro _ | split)

theorem orderCheck_keeps {κ : Scope} {u : State} (s : State) (h : Keeps κ u s) : Keeps κ u (orderCheck s) := by
  unfold orderCheck
  repeat' (first
      | with_reducible exact h | with_reducible assumption | with_reducible refine Keeps.ite ?_ ?_ | with_reducible apply selfReset_keeps
      | with_reducible intro _ | split)

theorem execPassageReset_keeps {κ : Scope} {u : State} (outOfOrder : Option (Nat × Nat)) (s : State) (h : Keeps κ u s) : KeepsO κ u (execPassageReset outOfOrder s) := by
  unfold execPassageReset
  repeat' (first
      | with_reducible exact h | with_reducible assumption | with_reducible refine Keeps.ite ?_ ?_
      | with_reducible refine KeepsO.ite ?_ ?_ | with_reducible refine KeepsO.next ?_ | with_reducible exact KeepsO.refused _
      | with_reducible apply selfReset_keeps | with_reducible apply beginReset_keeps | with_reducible intro _ | split)

theorem completeReset_keeps {κ : Scope} {u : State} (s : State) (h : Keeps κ u s) : Keeps κ u (completeReset s) := by
  unfold completeReset
  repeat' (first
      | with_reducible exact h | with_reducible assumption | with_reducible refine Keeps.ite ?_ ?_ | with_reducible apply updPctl_keeps
      | with_reducible apply updSess_keeps | extract_lets | with_reducible intro _ | split)

theorem putTaps_keeps {κ : Scope} {u : State} (s : State) (k : Nat) (t : List Int) (h : Keeps κ u s) : Keeps κ u (putTaps s k t) := by
  unfold putTaps
  repeat' (first
      | with_reducible exact h | with_reducible assumption | with_reducible refine Keeps.ite ?_ ?_
      | (with_reducible refine Keeps.foldl ?_ ?_; rotate_left; intro _ _ _)
      | (with_reducible refine Keeps1.foldl ?_ ?_; rotate_left; intro _ _ _)
      | (with_reducible refine Keeps2.foldl ?_ ?_; rotate_left; intro _ _ _) | with_reducible apply put_keeps | with_reducible intro _
      | split)

theorem updStation_keeps {κ : Scope} {u : State} (s : State) (k : Nat) (f : Station → Station) (h : Keeps κ u s) : Keeps κ u (State.updStation s k f) := by
  unfold State.updStation
  repeat' (first
      | with_reducible exact h | with_reducible assumption | with_reducible refine Keeps.ite ?_ ?_ | with_reducible apply updPas_keeps
      | with_reducible intro _ | split)

theorem stationWrite_keeps {κ : Scope} {u : State} (w : Ctx) (i sub : Nat) (v : Val) (s : State) (h : Keeps κ u s) : KeepsE κ u (stationWrite w i sub v s) := by
  unfold stationWrite
  repeat' (first
      | with_reducible exact h | with_reducible assumption | with_reducible refine Keeps.ite ?_ ?_
      | with_reducible refine KeepsE.ite ?_ ?_ | with_reducible refine KeepsE.ok ?_ | with_reducible exact KeepsE.error _
      | with_reducible apply checked_keeps | with_reducible apply put_keeps | with_reducible apply putTaps_keeps
      | with_reducible apply updStation_keeps | with_reducible refine KeepsE.of_eq (by assumption) ?_ | extract_lets
      | with_reducible intro _ | split)

theorem execStationConfigWrite_keeps {κ : Scope} {u : State} (sess k sub : Nat) (v : Int) (s : State) (h : Keeps κ u s) : KeepsO κ u (execStationConfigWrite sess k sub v s) := by
  unfold execStationConfigWrite
  repeat' (first
      | with_reducible exact h | with_reducible assumption | with_reducible refine Keeps.ite ?_ ?_
      | with_reducible refine KeepsO.ite ?_ ?_ | with_reducible refine KeepsO.next ?_ | with_reducible exact KeepsO.refused _
      | with_reducible apply asSession_keeps | with_reducible apply stationWrite_keeps | with_reducible apply withUnit_keeps
      | with_reducible refine KeepsE.of_eq (by assumption) ?_ | with_reducible intro _ | split)

theorem execKernelWrite_keeps {κ : Scope} {u : State} (sess k sub : Nat) (v : Int) (s : State) (h : Keeps κ u s) : KeepsO κ u (execKernelWrite sess k sub v s) := by
  unfold execKernelWrite
  repeat' (first
      | with_reducible exact h | with_reducible assumption | with_reducible refine Keeps.ite ?_ ?_
      | with_reducible refine KeepsO.ite ?_ ?_ | with_reducible refine KeepsO.next ?_ | with_reducible exact KeepsO.refused _
      | with_reducible apply asSession_keeps | with_reducible apply stationWrite_keeps | with_reducible apply withUnit_keeps
      | with_reducible refine KeepsE.of_eq (by assumption) ?_ | with_reducible intro _ | split)

theorem passageWrite_keeps {κ : Scope} {u : State} (w : Ctx) (i sub : Nat) (v : Val) (s : State) (h : Keeps κ u s) : KeepsE κ u (passageWrite w i sub v s) := by
  unfold passageWrite
  repeat' (first
      | with_reducible exact h | with_reducible assumption | with_reducible refine Keeps.ite ?_ ?_
      | with_reducible refine KeepsE.ite ?_ ?_ | with_reducible refine KeepsE.ok ?_ | with_reducible exact KeepsE.error _
      | with_reducible apply checked_keeps | with_reducible apply put_keeps | with_reducible refine KeepsE.of_eq (by assumption) ?_
      | extract_lets | with_reducible intro _ | split)

theorem execSliceLengthWrite_keeps {κ : Scope} {u : State} (sess sub : Nat) (v : Int) (s : State) (h : Keeps κ u s) : KeepsO κ u (execSliceLengthWrite sess sub v s) := by
  unfold execSliceLengthWrite
  repeat' (first
      | with_reducible exact h | with_reducible assumption | with_reducible refine Keeps.ite ?_ ?_
      | with_reducible refine KeepsO.ite ?_ ?_ | with_reducible refine KeepsO.next ?_ | with_reducible exact KeepsO.refused _
      | with_reducible apply asSession_keeps | with_reducible apply passageWrite_keeps
      | with_reducible refine KeepsE.of_eq (by assumption) ?_ | with_reducible intro _ | split)

theorem acceptCal_keeps {κ : Scope} {u : State} (s : State) (h : Keeps κ u s) : KeepsE κ u (acceptCal s) := by
  unfold acceptCal
  repeat' (first
      | with_reducible exact h | with_reducible assumption | with_reducible refine Keeps.ite ?_ ?_
      | with_reducible refine KeepsE.ite ?_ ?_ | with_reducible refine KeepsE.ok ?_ | with_reducible exact KeepsE.error _
      | (with_reducible refine Keeps.foldl ?_ ?_; rotate_left; intro _ _ _)
      | (with_reducible refine Keeps1.foldl ?_ ?_; rotate_left; intro _ _ _)
      | (with_reducible refine Keeps2.foldl ?_ ?_; rotate_left; intro _ _ _) | with_reducible apply putTaps_keeps
      | with_reducible apply put_keeps | with_reducible apply updStation_keeps | with_reducible apply commit_keeps
      | with_reducible apply updPctl_keeps | extract_lets | with_reducible intro _ | split)

theorem calWrite_keeps {κ : Scope} {u : State} (w : Ctx) (i sub : Nat) (v : Val) (s : State) (h : Keeps κ u s) : KeepsE κ u (calWrite w i sub v s) := by
  unfold calWrite
  repeat' (first
      | with_reducible exact h | with_reducible assumption | with_reducible refine Keeps.ite ?_ ?_
      | with_reducible refine KeepsE.ite ?_ ?_ | with_reducible refine KeepsE.ok ?_ | with_reducible exact KeepsE.error _
      | with_reducible apply checked_keeps | with_reducible apply put_keeps | with_reducible apply updPctl_keeps
      | with_reducible apply acceptCal_keeps | with_reducible refine KeepsE.of_eq (by assumption) ?_ | extract_lets
      | with_reducible intro _ | split)

theorem execCalStart_keeps {κ : Scope} {u : State} (sess : Nat) (s : State) (h : Keeps κ u s) : KeepsO κ u (execCalStart sess s) := by
  unfold execCalStart
  repeat' (first
      | with_reducible exact h | with_reducible assumption | with_reducible refine Keeps.ite ?_ ?_
      | with_reducible refine KeepsO.ite ?_ ?_ | with_reducible refine KeepsO.next ?_ | with_reducible exact KeepsO.refused _
      | with_reducible apply asSession_keeps | with_reducible apply calWrite_keeps | with_reducible refine KeepsE.of_eq (by assumption) ?_
      | with_reducible intro _ | split)

theorem execCalStop_keeps {κ : Scope} {u : State} (sess : Nat) (s : State) (h : Keeps κ u s) : KeepsO κ u (execCalStop sess s) := by
  unfold execCalStop
  repeat' (first
      | with_reducible exact h | with_reducible assumption | with_reducible refine Keeps.ite ?_ ?_
      | with_reducible refine KeepsO.ite ?_ ?_ | with_reducible refine KeepsO.next ?_ | with_reducible exact KeepsO.refused _
      | with_reducible apply asSession_keeps | with_reducible apply calWrite_keeps | with_reducible refine KeepsE.of_eq (by assumption) ?_
      | with_reducible intro _ | split)

theorem execCalAccept_keeps {κ : Scope} {u : State} (sess : Nat) (s : State) (h : Keeps κ u s) : KeepsO κ u (execCalAccept sess s) := by
  unfold execCalAccept
  repeat' (first
      | with_reducible exact h | with_reducible assumption | with_reducible refine Keeps.ite ?_ ?_
      | with_reducible refine KeepsO.ite ?_ ?_ | with_reducible refine KeepsO.next ?_ | with_reducible exact KeepsO.refused _
      | with_reducible apply asSession_keeps | with_reducible apply calWrite_keeps | with_reducible refine KeepsE.of_eq (by assumption) ?_
      | with_reducible intro _ | split)

theorem execCalDiscard_keeps {κ : Scope} {u : State} (sess : Nat) (s : State) (h : Keeps κ u s) : KeepsO κ u (execCalDiscard sess s) := by
  unfold execCalDiscard
  repeat' (first
      | with_reducible exact h | with_reducible assumption | with_reducible refine Keeps.ite ?_ ?_
      | with_reducible refine KeepsO.ite ?_ ?_ | with_reducible refine KeepsO.next ?_ | with_reducible exact KeepsO.refused _
      | with_reducible apply asSession_keeps | with_reducible apply calWrite_keeps | with_reducible refine KeepsE.of_eq (by assumption) ?_
      | with_reducible intro _ | split)

theorem execCalProposalReady_keeps {κ : Scope} {u : State} (transit step : Nat) (kernel : List Int) (quality : Int) (s : State) (h : Keeps κ u s) : KeepsO κ u (execCalProposalReady transit step kernel quality s) := by
  unfold execCalProposalReady
  repeat' (first
      | with_reducible exact h | with_reducible assumption | with_reducible refine Keeps.ite ?_ ?_
      | with_reducible refine KeepsO.ite ?_ ?_ | with_reducible refine KeepsO.next ?_ | with_reducible exact KeepsO.refused _
      | with_reducible apply withUnit_keeps | with_reducible apply updPctl_keeps | with_reducible intro _ | split)

theorem calCount_keeps {κ : Scope} {u : State} (s : State) (finals : List Nat) (h : Keeps κ u s) : Keeps κ u (calCount s finals) := by
  unfold calCount
  repeat' (first
      | with_reducible exact h | with_reducible assumption | with_reducible refine Keeps.ite ?_ ?_
      | (with_reducible refine Keeps.foldl ?_ ?_; rotate_left; intro _ _ _)
      | (with_reducible refine Keeps1.foldl ?_ ?_; rotate_left; intro _ _ _)
      | (with_reducible refine Keeps2.foldl ?_ ?_; rotate_left; intro _ _ _) | with_reducible apply updPctl_keeps | extract_lets
      | with_reducible intro _ | split)

theorem execTransitTrim_keeps {κ : Scope} {u : State} (trims : List (Nat × Int)) (s : State) (h : Keeps κ u s) : KeepsO κ u (execTransitTrim trims s) := by
  unfold execTransitTrim
  repeat' (first
      | with_reducible exact h | with_reducible assumption | with_reducible refine Keeps.ite ?_ ?_
      | with_reducible refine KeepsO.ite ?_ ?_ | with_reducible refine KeepsO.next ?_ | with_reducible exact KeepsO.refused _
      | (with_reducible refine Keeps.foldl ?_ ?_; rotate_left; intro _ _ _)
      | (with_reducible refine Keeps1.foldl ?_ ?_; rotate_left; intro _ _ _)
      | (with_reducible refine Keeps2.foldl ?_ ?_; rotate_left; intro _ _ _) | with_reducible apply withUnit_keeps
      | with_reducible apply updStation_keeps | with_reducible apply updPctl_keeps | with_reducible intro _ | split)

theorem parcelSnapshot_keeps {κ : Scope} {u : State} (n : Nat) (s : State) (h : Keeps κ u s) : Keeps κ u (parcelSnapshot n s) := by
  unfold parcelSnapshot
  repeat' (first
      | with_reducible exact h | with_reducible assumption | with_reducible refine Keeps.ite ?_ ?_ | with_reducible apply updWin_keeps
      | extract_lets | with_reducible intro _ | split)

theorem parcelWrite_keeps {κ : Scope} {u : State} (w : Ctx) (i sub : Nat) (v : Val) (s : State) (h : Keeps κ u s) : KeepsE κ u (parcelWrite w i sub v s) := by
  unfold parcelWrite
  repeat' (first
      | with_reducible exact h | with_reducible assumption | with_reducible refine Keeps.ite ?_ ?_
      | with_reducible refine KeepsE.ite ?_ ?_ | with_reducible refine KeepsE.ok ?_ | with_reducible exact KeepsE.error _
      | with_reducible apply checked_keeps | with_reducible apply updWin_keeps | with_reducible apply parcelSnapshot_keeps
      | with_reducible refine KeepsE.of_eq (by assumption) ?_ | with_reducible intro _ | split)

theorem execSnapshot_keeps {κ : Scope} {u : State} (sess : Nat) (v : Int) (s : State) (h : Keeps κ u s) : KeepsO κ u (execSnapshot sess v s) := by
  unfold execSnapshot
  repeat' (first
      | with_reducible exact h | with_reducible assumption | with_reducible refine Keeps.ite ?_ ?_
      | with_reducible refine KeepsO.ite ?_ ?_ | with_reducible refine KeepsO.next ?_ | with_reducible exact KeepsO.refused _
      | with_reducible apply asSession_keeps | with_reducible apply parcelWrite_keeps
      | with_reducible refine KeepsE.of_eq (by assumption) ?_ | with_reducible intro _ | split)

end Sys2Proof.Machine
end

