-- ==== Sys2Proof/Laws/KeepsEvents.lean ====
section
/-! SUPPORT. `Keeps` for the operations of Machine/Events.lean. -/

namespace Sys2Proof.Machine

set_option Elab.async false

theorem queueEvent_keeps {κ : Scope} {u : State} (e : Event) (s : State) (h : Keeps κ u s) : Keeps κ u (queueEvent e s) := by
  unfold queueEvent
  repeat' (first
      | with_reducible exact h | with_reducible assumption | with_reducible refine Keeps.ite ?_ ?_ | with_reducible apply updPctl_keeps
      | with_reducible intro _ | split)

theorem insertEvent_keeps {κ : Scope} {u : State} (b : Bytes) (s : State) (h : Keeps κ u s) : Keeps2 κ u (insertEvent b s) := by
  unfold insertEvent
  repeat' (first
      | with_reducible exact h | with_reducible assumption | with_reducible refine Keeps.ite ?_ ?_
      | with_reducible refine Keeps2.ite ?_ ?_ | with_reducible apply queueEvent_keeps | extract_lets | with_reducible intro _ | split
      | with_reducible refine Keeps2.mk ?_)

theorem insertOwn_keeps {κ : Scope} {u : State} (e : Event) (s : State) (h : Keeps κ u s) : Keeps2 κ u (insertOwn e s) := by
  unfold insertOwn
  repeat' (first
      | with_reducible exact h | with_reducible assumption | with_reducible refine Keeps.ite ?_ ?_
      | with_reducible refine Keeps2.ite ?_ ?_ | with_reducible apply queueEvent_keeps | extract_lets | with_reducible intro _ | split
      | with_reducible refine Keeps2.mk ?_)

theorem cancelEvent_keeps {κ : Scope} {u : State} (id : Nat) (s : State) (h : Keeps κ u s) : Keeps2 κ u (cancelEvent id s) := by
  unfold cancelEvent
  repeat' (first
      | with_reducible exact h | with_reducible assumption | with_reducible refine Keeps.ite ?_ ?_
      | with_reducible refine Keeps2.ite ?_ ?_ | with_reducible apply updPctl_keeps | extract_lets | with_reducible intro _ | split
      | with_reducible refine Keeps2.mk ?_)

theorem eventWrite_keeps {κ : Scope} {u : State} (w : Ctx) (i sub : Nat) (v : Val) (s : State) (h : Keeps κ u s) : KeepsE κ u (eventWrite w i sub v s) := by
  unfold eventWrite
  repeat' (first
      | with_reducible exact h | with_reducible assumption | with_reducible refine Keeps.ite ?_ ?_
      | with_reducible refine KeepsE.ite ?_ ?_ | with_reducible refine KeepsE.ok ?_ | with_reducible exact KeepsE.error _
      | with_reducible apply checked_keeps | with_reducible apply insertEvent_keeps | with_reducible apply updWin_keeps
      | with_reducible apply cancelEvent_keeps | with_reducible refine Keeps2.snd ?_
      | with_reducible refine Keeps2.of_eq (by assumption) ?_ | with_reducible refine Keeps2.ite ?_ ?_
      | with_reducible refine KeepsE.of_eq (by assumption) ?_ | extract_lets | with_reducible intro _ | split
      | with_reducible refine Keeps2.mk ?_)

theorem execEventRecord_keeps {κ : Scope} {u : State} (sess : Nat) (rec : Bytes) (s : State) (h : Keeps κ u s) : KeepsO κ u (execEventRecord sess rec s) := by
  unfold execEventRecord
  repeat' (first
      | with_reducible exact h | with_reducible assumption | with_reducible refine Keeps.ite ?_ ?_
      | with_reducible refine KeepsO.ite ?_ ?_ | with_reducible refine KeepsO.next ?_ | with_reducible exact KeepsO.refused _
      | with_reducible apply asSession_keeps | with_reducible apply eventWrite_keeps
      | with_reducible refine KeepsE.of_eq (by assumption) ?_ | with_reducible intro _ | split)

theorem execEventCancel_keeps {κ : Scope} {u : State} (sess id : Nat) (s : State) (h : Keeps κ u s) : KeepsO κ u (execEventCancel sess id s) := by
  unfold execEventCancel
  repeat' (first
      | with_reducible exact h | with_reducible assumption | with_reducible refine Keeps.ite ?_ ?_
      | with_reducible refine KeepsO.ite ?_ ?_ | with_reducible refine KeepsO.next ?_ | with_reducible exact KeepsO.refused _
      | with_reducible apply asSession_keeps | with_reducible apply eventWrite_keeps
      | with_reducible refine KeepsE.of_eq (by assumption) ?_ | with_reducible intro _ | split)

theorem applyEvent_keeps {κ : Scope} {u : State} (e : Event) (s : State) (h : Keeps κ u s) : Keeps κ u (applyEvent e s) := by
  unfold applyEvent
  repeat' (first
      | with_reducible exact h | with_reducible assumption | with_reducible refine Keeps.ite ?_ ?_ | with_reducible apply updFn_keeps
      | with_reducible apply optForeign_keeps | with_reducible apply optChange_keeps | with_reducible apply updPctl_keeps
      | with_reducible apply updPas_keeps | with_reducible apply record_keeps | extract_lets | with_reducible intro _ | split)

theorem releaseEvent_keeps {κ : Scope} {u : State} (s : State) (e : Event) (crossed : Bool) (time : Nat) (h : Keeps κ u s) : Keeps κ u (releaseEvent s e crossed time) := by
  unfold releaseEvent
  repeat' (first
      | with_reducible exact h | with_reducible assumption | with_reducible refine Keeps.ite ?_ ?_ | with_reducible apply advance_keeps
      | with_reducible apply updPas_keeps | with_reducible apply applyEvent_keeps | with_reducible apply optReleased_keeps
      | with_reducible apply record_keeps | with_reducible apply updPctl_keeps | with_reducible refine Keeps1.fst ?_
      | with_reducible refine Keeps1.of_eq (by assumption) ?_ | with_reducible refine Keeps1.ite ?_ ?_ | extract_lets
      | with_reducible intro _ | split | with_reducible refine Keeps1.mk ?_)

theorem watchCrossings_keeps {κ : Scope} {u : State} (s : State) (h : Keeps κ u s) : Keeps κ u (watchCrossings s) := by
  unfold watchCrossings
  repeat' (first
      | with_reducible exact h | with_reducible assumption | with_reducible refine Keeps.ite ?_ ?_
      | (with_reducible refine Keeps.foldl ?_ ?_; rotate_left; intro _ _ _)
      | (with_reducible refine Keeps1.foldl ?_ ?_; rotate_left; intro _ _ _)
      | (with_reducible refine Keeps2.foldl ?_ ?_; rotate_left; intro _ _ _) | with_reducible apply record_keeps
      | with_reducible apply optArrived_keeps | with_reducible apply updPctl_keeps | extract_lets | with_reducible intro _ | split)

theorem releaseEvents_keeps {κ : Scope} {u : State} (s : State) (h : Keeps κ u s) : Keeps κ u (releaseEvents s) := by
  unfold releaseEvents
  repeat' (first
      | with_reducible exact h | with_reducible assumption | with_reducible refine Keeps.ite ?_ ?_
      | (with_reducible refine Keeps.foldl ?_ ?_; rotate_left; intro _ _ _)
      | (with_reducible refine Keeps1.foldl ?_ ?_; rotate_left; intro _ _ _)
      | (with_reducible refine Keeps2.foldl ?_ ?_; rotate_left; intro _ _ _) | with_reducible apply watchCrossings_keeps
      | with_reducible apply updPctl_keeps | with_reducible apply releaseEvent_keeps | extract_lets | with_reducible intro _ | split)

end Sys2Proof.Machine
end

