-- ==== Sys2Proof/Laws/KeepsGuide.lean ====
section
/-! SUPPORT. `Keeps` for the operations of Machine/Guide.lean. -/

namespace Sys2Proof.Machine

set_option Elab.async false

theorem fillWindow_keeps {κ : Scope} {u : State} (s : State) (h : Keeps κ u s) : Keeps κ u (fillWindow s) := by
  unfold fillWindow
  extract_lets o p s1
  have h1 : Keeps κ u s1 := updSteer_keeps h _ (by rfl) (by rfl)
  clear_value s1
  exact Keeps.ite (updSteer_keeps h _ (by rfl) (by rfl)) (updSteer_keeps h1 _ (by rfl) (by rfl))

end Sys2Proof.Machine
end

