-- ==== Sys2Proof/Laws/KeepsLeadEngine.lean ====
section
/-! SUPPORT. `Keeps` for the operations of Machine/LeadEngine.lean. -/

namespace Sys2Proof.Machine

set_option Elab.async false

theorem learnRatio_keeps {κ : Scope} {u : State} (finals : List Nat) (s : State) (h : Keeps κ u s) : Keeps κ u (learnRatio finals s) := by
  unfold learnRatio
  repeat' (first
      | with_reducible exact h | with_reducible assumption | with_reducible refine Keeps.ite ?_ ?_
      | (with_reducible refine Keeps.foldl ?_ ?_; rotate_left; intro _ _ _)
      | (with_reducible refine Keeps1.foldl ?_ ?_; rotate_left; intro _ _ _)
      | (with_reducible refine Keeps2.foldl ?_ ?_; rotate_left; intro _ _ _) | with_reducible apply updLead_keeps | extract_lets
      | with_reducible intro _ | split)

theorem placeFrom_keeps {κ : Scope} {u : State} (strip : List StripVal) (n num : Nat) (s : State) (h : Keeps κ u s) : Keeps κ u (placeFrom strip n num s) := by
  induction n generalizing num s with
  | zero => exact h
  | succ n ih =>
    unfold placeFrom
    exact Keeps.ite h (Keeps.ite (ih _ _ h) (Keeps.ite (updLead_keeps h _) (ih _ _ (updLead_keeps h _))))

theorem takeStrip_keeps {κ : Scope} {u : State} (strip : List StripVal) (s : State) (h : Keeps κ u s) : Keeps κ u (takeStrip strip s) := by
  unfold takeStrip
  repeat' (first
      | with_reducible exact h | with_reducible assumption | with_reducible refine Keeps.ite ?_ ?_ | with_reducible apply updLead_keeps
      | with_reducible intro _ | split)

theorem leadAppFrame_keeps {κ : Scope} {u : State} (strip : List StripVal) (s : State) (h : Keeps κ u s) : Keeps κ u (leadAppFrame strip s) := by
  unfold leadAppFrame
  repeat' (first
      | with_reducible exact h | with_reducible assumption | with_reducible refine Keeps.ite ?_ ?_ | with_reducible apply takeStrip_keeps
      | with_reducible apply updLead_keeps | with_reducible apply placeFrom_keeps | extract_lets | with_reducible intro _ | split)

theorem leadClose_keeps {κ : Scope} {u : State} (s : State) (c : Nat × Bool) (h : Keeps κ u s) : Keeps κ u (leadClose s c) := by
  unfold leadClose
  repeat' (first
      | with_reducible exact h | with_reducible assumption | with_reducible refine Keeps.ite ?_ ?_ | with_reducible apply killLeads_keeps
      | with_reducible apply updLead_keeps | extract_lets | with_reducible intro _ | split)

theorem actFrame_keeps {κ : Scope} {u : State} (s : State) (h : Keeps κ u s) : Keeps κ u (actFrame s) := by
  unfold actFrame
  repeat' (first
      | with_reducible exact h | with_reducible assumption | with_reducible refine Keeps.ite ?_ ?_ | with_reducible apply updLead_keeps
      | extract_lets | with_reducible intro _ | split)

theorem resolveLead_keeps {κ : Scope} {u : State} (s : State) (num : Nat) (h : Keeps κ u s) : Keeps κ u (resolveLead s num) := by
  unfold resolveLead
  repeat' (first
      | with_reducible exact h | with_reducible assumption | with_reducible refine Keeps.ite ?_ ?_ | with_reducible apply updLead_keeps
      | with_reducible apply killLeads_keeps | with_reducible apply killUnresolved_keeps | extract_lets | with_reducible intro _ | split
      | with_reducible apply engines_keeps)

theorem leadFrame_keeps {κ : Scope} {u : State} (ev : PasEv) (finals : List Nat) (s : State) (h : Keeps κ u s) : Keeps κ u (leadFrame ev finals s) := by
  unfold leadFrame
  repeat' (first
      | with_reducible exact h | with_reducible assumption | with_reducible refine Keeps.ite ?_ ?_
      | (with_reducible refine Keeps.foldl ?_ ?_; rotate_left; intro _ _ _)
      | (with_reducible refine Keeps1.foldl ?_ ?_; rotate_left; intro _ _ _)
      | (with_reducible refine Keeps2.foldl ?_ ?_; rotate_left; intro _ _ _) | with_reducible apply leadClose_keeps
      | with_reducible apply killUncut_keeps | with_reducible apply updLead_keeps | with_reducible apply resolveLead_keeps
      | with_reducible apply learnRatio_keeps | with_reducible apply killLeads_keeps | with_reducible apply actFrame_keeps | extract_lets
      | with_reducible intro _ | split)

theorem execLeadSuspendEnd_keeps {κ : Scope} {u : State} (s : State) (h : Keeps κ u s) : KeepsO κ u (execLeadSuspendEnd s) := by
  unfold execLeadSuspendEnd
  repeat' (first
      | with_reducible exact h | with_reducible assumption | with_reducible refine Keeps.ite ?_ ?_
      | with_reducible refine KeepsO.ite ?_ ?_ | with_reducible refine KeepsO.next ?_ | with_reducible exact KeepsO.refused _
      | with_reducible apply updLead_keeps | with_reducible intro _ | split)

theorem execLeadCountRecord_keeps {κ : Scope} {u : State} (s : State) (h : Keeps κ u s) : KeepsO κ u (execLeadCountRecord s) := by
  unfold execLeadCountRecord
  repeat' (first
      | with_reducible exact h | with_reducible assumption | with_reducible refine Keeps.ite ?_ ?_
      | with_reducible refine KeepsO.ite ?_ ?_ | with_reducible refine KeepsO.next ?_ | with_reducible exact KeepsO.refused _
      | with_reducible apply record_keeps | with_reducible apply updLead_keeps | with_reducible intro _ | split)

theorem execHeaderEntersWork_keeps {κ : Scope} {u : State} (s : State) (h : Keeps κ u s) : KeepsO κ u (execHeaderEntersWork s) := by
  unfold execHeaderEntersWork
  repeat' (first
      | with_reducible exact h | with_reducible assumption | with_reducible refine Keeps.ite ?_ ?_
      | with_reducible refine KeepsO.ite ?_ ?_ | with_reducible refine KeepsO.next ?_ | with_reducible exact KeepsO.refused _
      | with_reducible apply optSettle_keeps | with_reducible apply updPas_keeps | with_reducible intro _ | split)

theorem execHeaderLeavesWork_keeps {κ : Scope} {u : State} (s : State) (h : Keeps κ u s) : KeepsO κ u (execHeaderLeavesWork s) := by
  unfold execHeaderLeavesWork
  refine KeepsO.next (Keeps.ite ?_ h)
  extract_lets cut
  split
  next t ev e =>
  have ht : Keeps κ u t := Keeps1.of_eq e (Keeps1.ite (closeSlice_keeps _ _ _ _ _ h) (Keeps1.mk h))
  extract_lets s2
  have h2 : Keeps κ u s2 := updPas_keeps (optVoid_keeps _ _ ht) _
  clear_value s2
  exact killUncut_keeps _ _ (Keeps.foldl (records_keeps _ _ h2) fun _ _ k => leadClose_keeps _ _ k)

theorem leadWrite_keeps {κ : Scope} {u : State} (w : Ctx) (i sub : Nat) (v : Val) (s : State) (h : Keeps κ u s) : KeepsE κ u (leadWrite w i sub v s) := by
  unfold leadWrite
  repeat' (first
      | with_reducible exact h | with_reducible assumption | with_reducible refine Keeps.ite ?_ ?_
      | with_reducible refine KeepsE.ite ?_ ?_ | with_reducible refine KeepsE.ok ?_ | with_reducible exact KeepsE.error _
      | with_reducible apply checked_keeps | with_reducible apply killUnresolved_keeps | with_reducible apply put_keeps
      | with_reducible refine KeepsE.of_eq (by assumption) ?_ | with_reducible intro _ | split)

theorem slotWrite_keeps {κ : Scope} {u : State} (w : Ctx) (i sub : Nat) (v : Val) (s : State) (h : Keeps κ u s) : KeepsE κ u (slotWrite w i sub v s) := by
  unfold slotWrite
  repeat' (first
      | with_reducible exact h | with_reducible assumption | with_reducible refine Keeps.ite ?_ ?_
      | with_reducible refine KeepsE.ite ?_ ?_ | with_reducible refine KeepsE.ok ?_ | with_reducible exact KeepsE.error _
      | with_reducible apply checked_keeps | with_reducible apply put_keeps | with_reducible apply updLead_keeps
      | with_reducible refine KeepsE.of_eq (by assumption) ?_ | extract_lets | with_reducible intro _ | split)

theorem execLeadEnable_keeps {κ : Scope} {u : State} (sess : Nat) (v : Int) (s : State) (h : Keeps κ u s) : KeepsO κ u (execLeadEnable sess v s) := by
  unfold execLeadEnable
  repeat' (first
      | with_reducible exact h | with_reducible assumption | with_reducible refine Keeps.ite ?_ ?_
      | with_reducible refine KeepsO.ite ?_ ?_ | with_reducible refine KeepsO.next ?_ | with_reducible exact KeepsO.refused _
      | with_reducible apply asSession_keeps | with_reducible apply leadWrite_keeps
      | with_reducible refine KeepsE.of_eq (by assumption) ?_ | with_reducible intro _ | split)

theorem execLeadSlotWrite_keeps {κ : Scope} {u : State} (sess j sub : Nat) (v : Int) (s : State) (h : Keeps κ u s) : KeepsO κ u (execLeadSlotWrite sess j sub v s) := by
  unfold execLeadSlotWrite
  repeat' (first
      | with_reducible exact h | with_reducible assumption | with_reducible refine Keeps.ite ?_ ?_
      | with_reducible refine KeepsO.ite ?_ ?_ | with_reducible refine KeepsO.next ?_ | with_reducible exact KeepsO.refused _
      | with_reducible apply asSession_keeps | with_reducible apply slotWrite_keeps | with_reducible apply withUnit_keeps
      | with_reducible refine KeepsE.of_eq (by assumption) ?_ | with_reducible intro _ | split)

theorem leadSnapshot_keeps {κ : Scope} {u : State} (n : Nat) (s : State) (h : Keeps κ u s) : Keeps κ u (leadSnapshot n s) := by
  unfold leadSnapshot
  repeat' (first
      | with_reducible exact h | with_reducible assumption | with_reducible refine Keeps.ite ?_ ?_ | with_reducible apply updWin_keeps
      | extract_lets | with_reducible intro _ | split)

theorem leadWindowWrite_keeps {κ : Scope} {u : State} (w : Ctx) (i sub : Nat) (v : Val) (s : State) (h : Keeps κ u s) : KeepsE κ u (leadWindowWrite w i sub v s) := by
  unfold leadWindowWrite
  repeat' (first
      | with_reducible exact h | with_reducible assumption | with_reducible refine Keeps.ite ?_ ?_
      | with_reducible refine KeepsE.ite ?_ ?_ | with_reducible refine KeepsE.ok ?_ | with_reducible exact KeepsE.error _
      | with_reducible apply checked_keeps | with_reducible apply updWin_keeps | with_reducible apply leadSnapshot_keeps
      | with_reducible refine KeepsE.of_eq (by assumption) ?_ | with_reducible intro _ | split)

theorem execLeadSnapshot_keeps {κ : Scope} {u : State} (sess : Nat) (v : Int) (s : State) (h : Keeps κ u s) : KeepsO κ u (execLeadSnapshot sess v s) := by
  unfold execLeadSnapshot
  repeat' (first
      | with_reducible exact h | with_reducible assumption | with_reducible refine Keeps.ite ?_ ?_
      | with_reducible refine KeepsO.ite ?_ ?_ | with_reducible refine KeepsO.next ?_ | with_reducible exact KeepsO.refused _
      | with_reducible apply asSession_keeps | with_reducible apply leadWindowWrite_keeps
      | with_reducible refine KeepsE.of_eq (by assumption) ?_ | with_reducible intro _ | split)

end Sys2Proof.Machine
end

