-- ==== Sys2Proof/Laws/KeepsComp.lean ====
section
/-! SUPPORT. `Keeps` for the operations of Machine/Comp.lean. -/

namespace Sys2Proof.Machine

set_option Elab.async false

theorem updComp_keeps {κ : Scope} {u : State} (s : State) (n : Nat) (f : Comp → Comp) (h : Keeps κ u s) : Keeps κ u (State.updComp s n f) := by
  unfold State.updComp
  repeat' (first
      | with_reducible exact h | with_reducible assumption | with_reducible refine Keeps.ite ?_ ?_ | with_reducible apply updCtx_keeps
      | with_reducible intro _ | split)

theorem repCommand_keeps {κ : Scope} {u : State} (w : Ctx) (n : Nat) (v : Int) (s : State) (h : Keeps κ u s) : KeepsE κ u (repCommand w n v s) := by
  unfold repCommand
  repeat' (first
      | with_reducible exact h | with_reducible assumption | with_reducible refine Keeps.ite ?_ ?_
      | with_reducible refine KeepsE.ite ?_ ?_ | with_reducible refine KeepsE.ok ?_ | with_reducible exact KeepsE.error _
      | with_reducible apply updComp_keeps | with_reducible intro _ | split)

theorem compWrite_keeps {κ : Scope} {u : State} (w : Ctx) (i sub : Nat) (v : Val) (s : State) (h : Keeps κ u s) : KeepsE κ u (compWrite w i sub v s) := by
  unfold compWrite
  repeat' (first
      | with_reducible exact h | with_reducible assumption | with_reducible refine Keeps.ite ?_ ?_
      | with_reducible refine KeepsE.ite ?_ ?_ | with_reducible refine KeepsE.ok ?_ | with_reducible exact KeepsE.error _
      | with_reducible apply checked_keeps | with_reducible apply repCommand_keeps | with_reducible apply updComp_keeps
      | with_reducible apply put_keeps | with_reducible refine KeepsE.of_eq (by assumption) ?_ | extract_lets | with_reducible intro _
      | split)

theorem execRepClear_keeps {κ : Scope} {u : State} (sess n : Nat) (s : State) (h : Keeps κ u s) : KeepsO κ u (execRepClear sess n s) := by
  unfold execRepClear
  repeat' (first
      | with_reducible exact h | with_reducible assumption | with_reducible refine Keeps.ite ?_ ?_
      | with_reducible refine KeepsO.ite ?_ ?_ | with_reducible refine KeepsO.next ?_ | with_reducible exact KeepsO.refused _
      | with_reducible apply asSession_keeps | with_reducible apply compWrite_keeps | with_reducible apply withUnit_keeps
      | with_reducible refine KeepsE.of_eq (by assumption) ?_ | with_reducible intro _ | split)

theorem execRepHold_keeps {κ : Scope} {u : State} (sess n : Nat) (s : State) (h : Keeps κ u s) : KeepsO κ u (execRepHold sess n s) := by
  unfold execRepHold
  repeat' (first
      | with_reducible exact h | with_reducible assumption | with_reducible refine Keeps.ite ?_ ?_
      | with_reducible refine KeepsO.ite ?_ ?_ | with_reducible refine KeepsO.next ?_ | with_reducible exact KeepsO.refused _
      | with_reducible apply asSession_keeps | with_reducible apply compWrite_keeps | with_reducible apply withUnit_keeps
      | with_reducible refine KeepsE.of_eq (by assumption) ?_ | with_reducible intro _ | split)

theorem execRepResume_keeps {κ : Scope} {u : State} (sess n : Nat) (s : State) (h : Keeps κ u s) : KeepsO κ u (execRepResume sess n s) := by
  unfold execRepResume
  repeat' (first
      | with_reducible exact h | with_reducible assumption | with_reducible refine Keeps.ite ?_ ?_
      | with_reducible refine KeepsO.ite ?_ ?_ | with_reducible refine KeepsO.next ?_ | with_reducible exact KeepsO.refused _
      | with_reducible apply asSession_keeps | with_reducible apply compWrite_keeps | with_reducible apply withUnit_keeps
      | with_reducible refine KeepsE.of_eq (by assumption) ?_ | with_reducible intro _ | split)

theorem execRepSave_keeps {κ : Scope} {u : State} (sess n : Nat) (s : State) (h : Keeps κ u s) : KeepsO κ u (execRepSave sess n s) := by
  unfold execRepSave
  repeat' (first
      | with_reducible exact h | with_reducible assumption | with_reducible refine Keeps.ite ?_ ?_
      | with_reducible refine KeepsO.ite ?_ ?_ | with_reducible refine KeepsO.next ?_ | with_reducible exact KeepsO.refused _
      | with_reducible apply asSession_keeps | with_reducible apply compWrite_keeps | with_reducible apply withUnit_keeps
      | with_reducible refine KeepsE.of_eq (by assumption) ?_ | with_reducible intro _ | split)

theorem execCompTableWrite_keeps {κ : Scope} {u : State} (sess n sub : Nat) (data : Bytes) (s : State) (h : Keeps κ u s) : KeepsO κ u (execCompTableWrite sess n sub data s) := by
  unfold execCompTableWrite
  repeat' (first
      | with_reducible exact h | with_reducible assumption | with_reducible refine Keeps.ite ?_ ?_
      | with_reducible refine KeepsO.ite ?_ ?_ | with_reducible refine KeepsO.next ?_ | with_reducible exact KeepsO.refused _
      | with_reducible apply asSession_keeps | with_reducible apply compWrite_keeps | with_reducible apply withUnit_keeps
      | with_reducible refine KeepsE.of_eq (by assumption) ?_ | with_reducible intro _ | split)

theorem loadMemory_keeps {κ : Scope} {u : State} (s : State) (n : Nat) (h : Keeps κ u s) : Keeps κ u (loadMemory s n) := by
  unfold loadMemory; extract_lets v; clear_value v
  repeat' (first
      | with_reducible exact h | with_reducible assumption | with_reducible refine Keeps.ite ?_ ?_ | with_reducible apply updComp_keeps
      | extract_lets | with_reducible intro _ | split)

theorem execRepMemoryLoad_keeps {κ : Scope} {u : State} (n : Nat) (s : State) (h : Keeps κ u s) : KeepsO κ u (execRepMemoryLoad n s) := by
  unfold execRepMemoryLoad
  repeat' (first
      | with_reducible exact h | with_reducible assumption | with_reducible refine Keeps.ite ?_ ?_
      | with_reducible refine KeepsO.ite ?_ ?_ | with_reducible refine KeepsO.next ?_ | with_reducible exact KeepsO.refused _
      | with_reducible apply withUnit_keeps | with_reducible apply loadMemory_keeps | with_reducible intro _ | split)

end Sys2Proof.Machine
end

