-- ==== Sys2Proof/Laws/KeepsLoop.lean ====
section
/-! SUPPORT. `Keeps` for the operations of Machine/Loop.lean. -/

namespace Sys2Proof.Machine

set_option Elab.async false

theorem dropLead_keeps {κ : Scope} {u : State} (f : Nat) (s : State) (h : Keeps κ u s) : Keeps κ u (dropLead f s) := by
  unfold dropLead
  repeat' (first
      | with_reducible exact h | with_reducible assumption | with_reducible refine Keeps.ite ?_ ?_ | with_reducible apply updLead_keeps
      | with_reducible intro _ | split)

theorem applySafe_keeps {κ : Scope} {u : State} (f : Nat) (s : State) (h : Keeps κ u s) : Keeps κ u (applySafe f s) := by
  unfold applySafe
  repeat' (first
      | with_reducible exact h | with_reducible assumption | with_reducible refine Keeps.ite ?_ ?_ | with_reducible apply dropLead_keeps
      | with_reducible apply updLoop_keeps | with_reducible apply updFn_keeps | extract_lets | with_reducible intro _ | split)

theorem columnForce_keeps {κ : Scope} {u : State} (f : Nat) (s : State) (h : Keeps κ u s) : Keeps κ u (columnForce f s) := by
  unfold columnForce
  repeat' (first
      | with_reducible exact h | with_reducible assumption | with_reducible refine Keeps.ite ?_ ?_ | with_reducible apply applySafe_keeps
      | with_reducible apply updFn_keeps | with_reducible intro _ | split)

theorem applySafeAll_keeps {κ : Scope} {u : State} (s : State) (h : Keeps κ u s) : Keeps κ u (applySafeAll s) := by
  unfold applySafeAll
  repeat' (first
      | with_reducible exact h | with_reducible assumption | with_reducible refine Keeps.ite ?_ ?_
      | (with_reducible refine Keeps.foldl ?_ ?_; rotate_left; intro _ _ _)
      | (with_reducible refine Keeps1.foldl ?_ ?_; rotate_left; intro _ _ _)
      | (with_reducible refine Keeps2.foldl ?_ ?_; rotate_left; intro _ _ _) | with_reducible apply applySafe_keeps
      | with_reducible intro _ | split)

theorem takeMode_keeps {κ : Scope} {u : State} (s : State) (f m : Nat) (h : Keeps κ u s) : Keeps κ u (takeMode s f m) := by
  unfold takeMode
  repeat' (first
      | with_reducible exact h | with_reducible assumption | with_reducible refine Keeps.ite ?_ ?_ | with_reducible apply updFn_keeps
      | extract_lets | with_reducible intro _ | split)

theorem modeFrame_keeps {κ : Scope} {u : State} (s : State) (h : Keeps κ u s) : Keeps κ u (modeFrame s) := by
  unfold modeFrame
  repeat' (first
      | with_reducible exact h | with_reducible assumption | with_reducible refine Keeps.ite ?_ ?_
      | (with_reducible refine Keeps.foldl ?_ ?_; rotate_left; intro _ _ _)
      | (with_reducible refine Keeps1.foldl ?_ ?_; rotate_left; intro _ _ _)
      | (with_reducible refine Keeps2.foldl ?_ ?_; rotate_left; intro _ _ _) | with_reducible apply applySafe_keeps
      | with_reducible apply takeMode_keeps | extract_lets | with_reducible intro _ | split)

theorem startModes_keeps {κ : Scope} {u : State} (s : State) (h : Keeps κ u s) : Keeps κ u (startModes s) := by
  unfold startModes
  repeat' (first
      | with_reducible exact h | with_reducible assumption | with_reducible refine Keeps.ite ?_ ?_
      | (with_reducible refine Keeps.foldl ?_ ?_; rotate_left; intro _ _ _)
      | (with_reducible refine Keeps1.foldl ?_ ?_; rotate_left; intro _ _ _)
      | (with_reducible refine Keeps2.foldl ?_ ?_; rotate_left; intro _ _ _) | with_reducible apply updFn_keeps | extract_lets
      | with_reducible intro _ | split)

theorem setpointStage_keeps {κ : Scope} {u : State} (s : State) (h : Keeps κ u s) : Keeps κ u (setpointStage s) := by
  unfold setpointStage
  repeat' (first
      | with_reducible exact h | with_reducible assumption | with_reducible refine Keeps.ite ?_ ?_
      | (with_reducible refine Keeps.foldl ?_ ?_; rotate_left; intro _ _ _)
      | (with_reducible refine Keeps1.foldl ?_ ?_; rotate_left; intro _ _ _)
      | (with_reducible refine Keeps2.foldl ?_ ?_; rotate_left; intro _ _ _) | with_reducible apply updLoop_keeps
      | with_reducible apply optChange_keeps | extract_lets | with_reducible intro _ | split)

theorem runContext_keeps {κ : Scope} {u : State} (s : State) (n : Nat) (h : Keeps κ u s) : Keeps1 κ u (runContext s n) := by
  unfold runContext
  repeat' (first
      | with_reducible exact h | with_reducible assumption | with_reducible refine Keeps.ite ?_ ?_
      | with_reducible refine Keeps1.ite ?_ ?_ | with_reducible apply updCtx_keeps | with_reducible apply record_keeps | extract_lets
      | with_reducible intro _ | split | with_reducible refine Keeps1.mk ?_)

theorem runContexts_keeps {κ : Scope} {u : State} (s : State) (h : Keeps κ u s) : Keeps κ u (runContexts s) := by
  unfold runContexts
  repeat' (first
      | with_reducible exact h | with_reducible assumption | with_reducible refine Keeps.ite ?_ ?_
      | (with_reducible refine Keeps.foldl ?_ ?_; rotate_left; intro _ _ _)
      | (with_reducible refine Keeps1.foldl ?_ ?_; rotate_left; intro _ _ _)
      | (with_reducible refine Keeps2.foldl ?_ ?_; rotate_left; intro _ _ _) | with_reducible apply runContext_keeps
      | with_reducible apply applySafe_keeps | with_reducible refine Keeps1.fst ?_ | with_reducible refine Keeps1.of_eq (by assumption) ?_
      | with_reducible refine Keeps1.ite ?_ ?_ | extract_lets | with_reducible intro _ | split | with_reducible refine Keeps1.mk ?_)

theorem latchAll_keeps {κ : Scope} {u : State} (s : State) (ns : List Nat) (h : Keeps κ u s) : Keeps κ u (latchAll s ns) := by
  unfold latchAll
  repeat' (first
      | with_reducible exact h | with_reducible assumption | with_reducible refine Keeps.ite ?_ ?_
      | (with_reducible refine Keeps.foldl ?_ ?_; rotate_left; intro _ _ _)
      | (with_reducible refine Keeps1.foldl ?_ ?_; rotate_left; intro _ _ _)
      | (with_reducible refine Keeps2.foldl ?_ ?_; rotate_left; intro _ _ _) | with_reducible apply updLoop_keeps | extract_lets
      | with_reducible intro _ | split)

theorem clearDests_keeps {κ : Scope} {u : State} (s : State) (n : Nat) (h : Keeps κ u s) : Keeps κ u (clearDests s n) := by
  unfold clearDests
  repeat' (first
      | with_reducible exact h | with_reducible assumption | with_reducible refine Keeps.ite ?_ ?_ | with_reducible apply updLoop_keeps
      | with_reducible intro _ | split)

theorem forceFn_keeps {κ : Scope} {u : State} (x : FrameIn) (s : State) (f : Nat) (h : Keeps κ u s) : Keeps κ u (forceFn x s f) := by
  unfold forceFn
  repeat' (first
      | with_reducible exact h | with_reducible assumption | with_reducible refine Keeps.ite ?_ ?_
      | (with_reducible refine Keeps.foldl ?_ ?_; rotate_left; intro _ _ _)
      | (with_reducible refine Keeps1.foldl ?_ ?_; rotate_left; intro _ _ _)
      | (with_reducible refine Keeps2.foldl ?_ ?_; rotate_left; intro _ _ _) | with_reducible apply record_keeps
      | with_reducible apply columnForce_keeps | with_reducible apply updLoop_keeps | with_reducible apply updFn_keeps | extract_lets
      | with_reducible intro _ | split)

theorem engineFault_keeps {κ : Scope} {u : State} (s : State) (h : Keeps κ u s) : Keeps κ u (engineFault s) := by
  unfold engineFault
  repeat' (first
      | with_reducible exact h | with_reducible assumption | with_reducible refine Keeps.ite ?_ ?_
      | (with_reducible refine Keeps.foldl ?_ ?_; rotate_left; intro _ _ _)
      | (with_reducible refine Keeps1.foldl ?_ ?_; rotate_left; intro _ _ _)
      | (with_reducible refine Keeps2.foldl ?_ ?_; rotate_left; intro _ _ _) | with_reducible apply applySafeAll_keeps
      | with_reducible apply updLoop_keeps | with_reducible apply record_keeps | extract_lets | with_reducible intro _ | split)

theorem compareAndLatch_keeps {κ : Scope} {u : State} (x : FrameIn) (s : State) (h : Keeps κ u s) : Keeps κ u (compareAndLatch x s) := by
  unfold compareAndLatch
  repeat' (first
      | with_reducible exact h | with_reducible assumption | with_reducible refine Keeps.ite ?_ ?_
      | (with_reducible refine Keeps.foldl ?_ ?_; rotate_left; intro _ _ _)
      | (with_reducible refine Keeps1.foldl ?_ ?_; rotate_left; intro _ _ _)
      | (with_reducible refine Keeps2.foldl ?_ ?_; rotate_left; intro _ _ _) | with_reducible apply columnForce_keeps
      | with_reducible apply record_keeps | with_reducible apply updLoop_keeps | with_reducible apply latchAll_keeps
      | with_reducible apply forceFn_keeps | with_reducible apply engineFault_keeps | extract_lets | with_reducible intro _ | split)

theorem enableContext_keeps {κ : Scope} {u : State} (n : Nat) (s : State) (h : Keeps κ u s) : Keeps2 κ u (enableContext n s) := by
  unfold enableContext
  repeat' (first
      | with_reducible exact h | with_reducible assumption | with_reducible refine Keeps.ite ?_ ?_
      | with_reducible refine Keeps2.ite ?_ ?_ | with_reducible apply updCtx_keeps | extract_lets | with_reducible intro _ | split
      | with_reducible refine Keeps2.mk ?_)

theorem disableContext_keeps {κ : Scope} {u : State} (n : Nat) (s : State) (h : Keeps κ u s) : Keeps2 κ u (disableContext n s) := by
  unfold disableContext
  repeat' (first
      | with_reducible exact h | with_reducible assumption | with_reducible refine Keeps.ite ?_ ?_
      | with_reducible refine Keeps2.ite ?_ ?_ | with_reducible apply clearDests_keeps | with_reducible apply updCtx_keeps
      | with_reducible apply record_keeps | extract_lets | with_reducible intro _ | split | with_reducible refine Keeps2.mk ?_)

theorem writeEnable_keeps {κ : Scope} {u : State} (w : Ctx) (n : Nat) (v : Int) (s : State) (h : Keeps κ u s) : Keeps2 κ u (writeEnable w n v s) := by
  unfold writeEnable
  repeat' (first
      | with_reducible exact h | with_reducible assumption | with_reducible refine Keeps.ite ?_ ?_
      | with_reducible refine Keeps2.ite ?_ ?_ | with_reducible apply enableContext_keeps | with_reducible apply disableContext_keeps
      | with_reducible refine Keeps2.snd ?_ | with_reducible refine Keeps2.of_eq (by assumption) ?_ | extract_lets
      | with_reducible intro _ | split | with_reducible refine Keeps2.mk ?_)

theorem sessionEnable_keeps {κ : Scope} {u : State} (sess n : Nat) (v : Int) (s : State) (h : Keeps κ u s) : KeepsO κ u (sessionEnable sess n v s) := by
  unfold sessionEnable
  repeat' (first
      | with_reducible exact h | with_reducible assumption | with_reducible refine Keeps.ite ?_ ?_
      | with_reducible refine KeepsO.ite ?_ ?_ | with_reducible refine KeepsO.next ?_ | with_reducible exact KeepsO.refused _
      | with_reducible apply withUnit_keeps | with_reducible apply writeEnable_keeps | with_reducible apply touch_keeps
      | with_reducible apply updSess_keeps | with_reducible apply answer_keeps | with_reducible refine Keeps2.snd ?_
      | with_reducible refine Keeps2.of_eq (by assumption) ?_ | with_reducible refine Keeps2.ite ?_ ?_ | extract_lets
      | with_reducible intro _ | split | with_reducible refine Keeps2.mk ?_)

theorem execContextEnable_keeps {κ : Scope} {u : State} (sess n : Nat) (s : State) (h : Keeps κ u s) : KeepsO κ u (execContextEnable sess n s) := by
  unfold execContextEnable
  repeat' (first
      | with_reducible exact h | with_reducible assumption | with_reducible refine Keeps.ite ?_ ?_
      | with_reducible refine KeepsO.ite ?_ ?_ | with_reducible refine KeepsO.next ?_ | with_reducible exact KeepsO.refused _
      | with_reducible apply sessionEnable_keeps | with_reducible intro _ | split)

theorem execContextDisable_keeps {κ : Scope} {u : State} (sess n : Nat) (s : State) (h : Keeps κ u s) : KeepsO κ u (execContextDisable sess n s) := by
  unfold execContextDisable
  repeat' (first
      | with_reducible exact h | with_reducible assumption | with_reducible refine Keeps.ite ?_ ?_
      | with_reducible refine KeepsO.ite ?_ ?_ | with_reducible refine KeepsO.next ?_ | with_reducible exact KeepsO.refused _
      | with_reducible apply sessionEnable_keeps | with_reducible intro _ | split)

theorem manualZero_keeps {κ : Scope} {u : State} (f : Nat) (s : State) (h : Keeps κ u s) : Keeps κ u (manualZero f s) := by
  unfold manualZero
  repeat' (first
      | with_reducible exact h | with_reducible assumption | with_reducible refine Keeps.ite ?_ ?_ | with_reducible apply updFn_keeps
      | with_reducible apply updLoop_keeps | with_reducible intro _ | split)

theorem disengage_keeps {κ : Scope} {u : State} (reason engine : Nat) (s : State) (h : Keeps κ u s) : Keeps κ u (disengage reason engine s) := by
  unfold disengage
  repeat' (first
      | with_reducible exact h | with_reducible assumption | with_reducible refine Keeps.ite ?_ ?_ | with_reducible apply record_keeps
      | with_reducible apply manualZero_keeps
      | with_reducible refine updSteer_keeps ?_ _ (by rfl) (by rfl) | with_reducible refine steer_keeps ?_ _ (by first | exact id | (intro e; cases e)) (by first | exact id | (intro e; cases e))
      | extract_lets | with_reducible intro _ | split)

theorem swapRequest_keeps {κ : Scope} {u : State} (n : Nat) (s : State) (h : Keeps κ u s) : KeepsE κ u (swapRequest n s) := by
  unfold swapRequest
  repeat' (first
      | with_reducible exact h | with_reducible assumption | with_reducible refine Keeps.ite ?_ ?_
      | with_reducible refine KeepsE.ite ?_ ?_ | with_reducible refine KeepsE.ok ?_ | with_reducible exact KeepsE.error _
      | with_reducible apply updCtx_keeps | with_reducible apply record_keeps | extract_lets | with_reducible intro _ | split)

theorem ctxWrite_keeps {κ : Scope} {u : State} (w : Ctx) (i sub : Nat) (v : Val) (s : State) (h : Keeps κ u s) : KeepsE κ u (ctxWrite w i sub v s) := by
  unfold ctxWrite
  repeat' (first
      | with_reducible exact h | with_reducible assumption | with_reducible refine Keeps.ite ?_ ?_
      | with_reducible refine KeepsE.ite ?_ ?_ | with_reducible refine KeepsE.ok ?_ | with_reducible exact KeepsE.error _
      | with_reducible apply checked_keeps | with_reducible apply put_keeps | with_reducible apply swapRequest_keeps
      | with_reducible refine KeepsE.of_eq (by assumption) ?_ | extract_lets | with_reducible intro _ | split)

theorem execCoefSetWrite_keeps {κ : Scope} {u : State} (sess n set : Nat) (rec : Bytes) (s : State) (h : Keeps κ u s) : KeepsO κ u (execCoefSetWrite sess n set rec s) := by
  unfold execCoefSetWrite
  repeat' (first
      | with_reducible exact h | with_reducible assumption | with_reducible refine Keeps.ite ?_ ?_
      | with_reducible refine KeepsO.ite ?_ ?_ | with_reducible refine KeepsO.next ?_ | with_reducible exact KeepsO.refused _
      | with_reducible apply asSession_keeps | with_reducible apply ctxWrite_keeps | with_reducible apply withUnit_keeps
      | with_reducible refine KeepsE.of_eq (by assumption) ?_ | with_reducible intro _ | split)

theorem execSwapRequest_keeps {κ : Scope} {u : State} (sess n : Nat) (v : Int) (s : State) (h : Keeps κ u s) : KeepsO κ u (execSwapRequest sess n v s) := by
  unfold execSwapRequest
  repeat' (first
      | with_reducible exact h | with_reducible assumption | with_reducible refine Keeps.ite ?_ ?_
      | with_reducible refine KeepsO.ite ?_ ?_ | with_reducible refine KeepsO.next ?_ | with_reducible exact KeepsO.refused _
      | with_reducible apply asSession_keeps | with_reducible apply ctxWrite_keeps | with_reducible apply withUnit_keeps
      | with_reducible refine KeepsE.of_eq (by assumption) ?_ | with_reducible intro _ | split)

theorem writeMode_keeps {κ : Scope} {u : State} (f : Nat) (m : Int) (s : State) (h : Keeps κ u s) : KeepsE κ u (writeMode f m s) := by
  unfold writeMode
  repeat' (first
      | with_reducible exact h | with_reducible assumption | with_reducible refine Keeps.ite ?_ ?_
      | with_reducible refine KeepsE.ite ?_ ?_ | with_reducible refine KeepsE.ok ?_ | with_reducible exact KeepsE.error _
      | with_reducible apply disengage_keeps | with_reducible apply optChange_keeps | with_reducible apply updFn_keeps
      | with_reducible intro _ | split)

theorem clearForced_keeps {κ : Scope} {u : State} (f : Nat) (s : State) (h : Keeps κ u s) : KeepsE κ u (clearForced f s) := by
  unfold clearForced
  repeat' (first
      | with_reducible exact h | with_reducible assumption | with_reducible refine Keeps.ite ?_ ?_
      | with_reducible refine KeepsE.ite ?_ ?_ | with_reducible refine KeepsE.ok ?_ | with_reducible exact KeepsE.error _
      | with_reducible apply engineFault_keeps | with_reducible apply updFn_keeps | with_reducible apply updLoop_keeps | extract_lets
      | with_reducible intro _ | split)

theorem fnWrite_keeps {κ : Scope} {u : State} (w : Ctx) (i sub : Nat) (v : Val) (s : State) (h : Keeps κ u s) : KeepsE κ u (fnWrite w i sub v s) := by
  unfold fnWrite
  repeat' (first
      | with_reducible exact h | with_reducible assumption | with_reducible refine Keeps.ite ?_ ?_
      | with_reducible refine KeepsE.ite ?_ ?_ | with_reducible refine KeepsE.ok ?_ | with_reducible exact KeepsE.error _
      | with_reducible apply checked_keeps | with_reducible apply writeMode_keeps | with_reducible apply optForeign_keeps
      | with_reducible apply optChange_keeps | with_reducible apply updFn_keeps | with_reducible apply clearForced_keeps
      | with_reducible apply put_keeps | with_reducible refine KeepsE.of_eq (by assumption) ?_ | extract_lets | with_reducible intro _
      | split)

theorem fnCommand_keeps {κ : Scope} {u : State} (sess f sub : Nat) (v : Int) (s : State) (h : Keeps κ u s) : KeepsO κ u (fnCommand sess f sub v s) := by
  unfold fnCommand
  repeat' (first
      | with_reducible exact h | with_reducible assumption | with_reducible refine Keeps.ite ?_ ?_
      | with_reducible refine KeepsO.ite ?_ ?_ | with_reducible refine KeepsO.next ?_ | with_reducible exact KeepsO.refused _
      | with_reducible apply asSession_keeps | with_reducible apply fnWrite_keeps | with_reducible apply withUnit_keeps
      | with_reducible refine KeepsE.of_eq (by assumption) ?_ | with_reducible intro _ | split)

theorem execFunctionModeManual_keeps {κ : Scope} {u : State} (sess f : Nat) (s : State) (h : Keeps κ u s) : KeepsO κ u (execFunctionModeManual sess f s) := by
  unfold execFunctionModeManual
  repeat' (first
      | with_reducible exact h | with_reducible assumption | with_reducible refine Keeps.ite ?_ ?_
      | with_reducible refine KeepsO.ite ?_ ?_ | with_reducible refine KeepsO.next ?_ | with_reducible exact KeepsO.refused _
      | with_reducible apply fnCommand_keeps | with_reducible intro _ | split)

theorem execFunctionModeAuto_keeps {κ : Scope} {u : State} (sess f : Nat) (s : State) (h : Keeps κ u s) : KeepsO κ u (execFunctionModeAuto sess f s) := by
  unfold execFunctionModeAuto
  repeat' (first
      | with_reducible exact h | with_reducible assumption | with_reducible refine Keeps.ite ?_ ?_
      | with_reducible refine KeepsO.ite ?_ ?_ | with_reducible refine KeepsO.next ?_ | with_reducible exact KeepsO.refused _
      | with_reducible apply fnCommand_keeps | with_reducible intro _ | split)

theorem execFunctionModeHold_keeps {κ : Scope} {u : State} (sess f : Nat) (s : State) (h : Keeps κ u s) : KeepsO κ u (execFunctionModeHold sess f s) := by
  unfold execFunctionModeHold
  repeat' (first
      | with_reducible exact h | with_reducible assumption | with_reducible refine Keeps.ite ?_ ?_
      | with_reducible refine KeepsO.ite ?_ ?_ | with_reducible refine KeepsO.next ?_ | with_reducible exact KeepsO.refused _
      | with_reducible apply fnCommand_keeps | with_reducible intro _ | split)

theorem execCommittedSetpointWrite_keeps {κ : Scope} {u : State} (sess f : Nat) (v : Int) (s : State) (h : Keeps κ u s) : KeepsO κ u (execCommittedSetpointWrite sess f v s) := by
  unfold execCommittedSetpointWrite
  repeat' (first
      | with_reducible exact h | with_reducible assumption | with_reducible refine Keeps.ite ?_ ?_
      | with_reducible refine KeepsO.ite ?_ ?_ | with_reducible refine KeepsO.next ?_ | with_reducible exact KeepsO.refused _
      | with_reducible apply fnCommand_keeps | with_reducible intro _ | split)

theorem execSetpointLimitsWrite_keeps {κ : Scope} {u : State} (sess f sub : Nat) (v : Int) (s : State) (h : Keeps κ u s) : KeepsO κ u (execSetpointLimitsWrite sess f sub v s) := by
  unfold execSetpointLimitsWrite
  repeat' (first
      | with_reducible exact h | with_reducible assumption | with_reducible refine Keeps.ite ?_ ?_
      | with_reducible refine KeepsO.ite ?_ ?_ | with_reducible refine KeepsO.next ?_ | with_reducible exact KeepsO.refused _
      | with_reducible apply fnCommand_keeps | with_reducible intro _ | split)

theorem execSetpointSourceWrite_keeps {κ : Scope} {u : State} (sess f sub : Nat) (v : Int) (s : State) (h : Keeps κ u s) : KeepsO κ u (execSetpointSourceWrite sess f sub v s) := by
  unfold execSetpointSourceWrite
  repeat' (first
      | with_reducible exact h | with_reducible assumption | with_reducible refine Keeps.ite ?_ ?_
      | with_reducible refine KeepsO.ite ?_ ?_ | with_reducible refine KeepsO.next ?_ | with_reducible exact KeepsO.refused _
      | with_reducible apply fnCommand_keeps | with_reducible intro _ | split)

theorem execManualCommandWrite_keeps {κ : Scope} {u : State} (sess f : Nat) (v : Int) (s : State) (h : Keeps κ u s) : KeepsO κ u (execManualCommandWrite sess f v s) := by
  unfold execManualCommandWrite
  repeat' (first
      | with_reducible exact h | with_reducible assumption | with_reducible refine Keeps.ite ?_ ?_
      | with_reducible refine KeepsO.ite ?_ ?_ | with_reducible refine KeepsO.next ?_ | with_reducible exact KeepsO.refused _
      | with_reducible apply fnCommand_keeps | with_reducible intro _ | split)

theorem execFunctionCommand_keeps {κ : Scope} {u : State} (sess f : Nat) (v : Int) (s : State) (h : Keeps κ u s) : KeepsO κ u (execFunctionCommand sess f v s) := by
  unfold execFunctionCommand
  repeat' (first
      | with_reducible exact h | with_reducible assumption | with_reducible refine Keeps.ite ?_ ?_
      | with_reducible refine KeepsO.ite ?_ ?_ | with_reducible refine KeepsO.next ?_ | with_reducible exact KeepsO.refused _
      | with_reducible apply fnCommand_keeps | with_reducible intro _ | split)

end Sys2Proof.Machine
end

