-- ==== Sys2Proof/Laws/KeepsTrace.lean ====
section
/-! SUPPORT. `Keeps` for the operations of Machine/Trace.lean. -/

namespace Sys2Proof.Machine

set_option Elab.async false

theorem traceFrame_keeps {κ : Scope} {u : State} (x : FrameIn) (crossed : Nat → Nat → Bool) (s70 s : State) (h : Keeps κ u s) : Keeps κ u (traceFrame x crossed s70 s) := by
  unfold traceFrame
  repeat' (first
      | with_reducible exact h | with_reducible assumption | with_reducible refine Keeps.ite ?_ ?_ | extract_lets | with_reducible intro _
      | split | with_reducible apply engines_keeps)

theorem traceArm_keeps {κ : Scope} {u : State} (w : Ctx) (s : State) (h : Keeps κ u s) : KeepsE κ u (traceArm w s) := by
  unfold traceArm
  repeat' (first
      | with_reducible exact h | with_reducible assumption | with_reducible refine Keeps.ite ?_ ?_
      | with_reducible refine KeepsE.ite ?_ ?_ | with_reducible refine KeepsE.ok ?_ | with_reducible exact KeepsE.error _
      | with_reducible intro _ | split | with_reducible apply engines_keeps)

theorem traceSessionEnd_keeps {κ : Scope} {u : State} (n : Nat) (s : State) (h : Keeps κ u s) : Keeps κ u (traceSessionEnd n s) := by
  unfold traceSessionEnd
  repeat' (first
      | with_reducible exact h | with_reducible assumption | with_reducible refine Keeps.ite ?_ ?_ | with_reducible apply updTrace_keeps
      | with_reducible intro _ | split)

theorem traceCommand_keeps {κ : Scope} {u : State} (w : Ctx) (v : Int) (s : State) (h : Keeps κ u s) : KeepsE κ u (traceCommand w v s) := by
  unfold traceCommand
  repeat' (first
      | with_reducible exact h | with_reducible assumption | with_reducible refine Keeps.ite ?_ ?_
      | with_reducible refine KeepsE.ite ?_ ?_ | with_reducible refine KeepsE.ok ?_ | with_reducible exact KeepsE.error _
      | with_reducible apply traceArm_keeps | with_reducible apply updTrace_keeps | with_reducible refine KeepsE.of_eq (by assumption) ?_
      | with_reducible intro _ | split)

theorem traceWrite_keeps {κ : Scope} {u : State} (w : Ctx) (i sub : Nat) (v : Val) (s : State) (h : Keeps κ u s) : KeepsE κ u (traceWrite w i sub v s) := by
  unfold traceWrite
  repeat' (first
      | with_reducible exact h | with_reducible assumption | with_reducible refine Keeps.ite ?_ ?_
      | with_reducible refine KeepsE.ite ?_ ?_ | with_reducible refine KeepsE.ok ?_ | with_reducible exact KeepsE.error _
      | with_reducible apply checked_keeps | with_reducible apply updWin_keeps | with_reducible apply traceCommand_keeps
      | with_reducible apply put_keeps | with_reducible refine KeepsE.of_eq (by assumption) ?_ | extract_lets | with_reducible intro _
      | split)

theorem execTraceArm_keeps {κ : Scope} {u : State} (sess : Nat) (s : State) (h : Keeps κ u s) : KeepsO κ u (execTraceArm sess s) := by
  unfold execTraceArm
  repeat' (first
      | with_reducible exact h | with_reducible assumption | with_reducible refine Keeps.ite ?_ ?_
      | with_reducible refine KeepsO.ite ?_ ?_ | with_reducible refine KeepsO.next ?_ | with_reducible exact KeepsO.refused _
      | with_reducible apply asSession_keeps | with_reducible apply traceWrite_keeps
      | with_reducible refine KeepsE.of_eq (by assumption) ?_ | with_reducible intro _ | split)

theorem execTraceForceTrigger_keeps {κ : Scope} {u : State} (sess : Nat) (s : State) (h : Keeps κ u s) : KeepsO κ u (execTraceForceTrigger sess s) := by
  unfold execTraceForceTrigger
  repeat' (first
      | with_reducible exact h | with_reducible assumption | with_reducible refine Keeps.ite ?_ ?_
      | with_reducible refine KeepsO.ite ?_ ?_ | with_reducible refine KeepsO.next ?_ | with_reducible exact KeepsO.refused _
      | with_reducible apply asSession_keeps | with_reducible apply traceWrite_keeps
      | with_reducible refine KeepsE.of_eq (by assumption) ?_ | with_reducible intro _ | split)

theorem execTraceDisarm_keeps {κ : Scope} {u : State} (sess : Nat) (s : State) (h : Keeps κ u s) : KeepsO κ u (execTraceDisarm sess s) := by
  unfold execTraceDisarm
  repeat' (first
      | with_reducible exact h | with_reducible assumption | with_reducible refine Keeps.ite ?_ ?_
      | with_reducible refine KeepsO.ite ?_ ?_ | with_reducible refine KeepsO.next ?_ | with_reducible exact KeepsO.refused _
      | with_reducible apply asSession_keeps | with_reducible apply traceWrite_keeps
      | with_reducible refine KeepsE.of_eq (by assumption) ?_ | with_reducible intro _ | split)

theorem execTraceRelease_keeps {κ : Scope} {u : State} (sess : Nat) (s : State) (h : Keeps κ u s) : KeepsO κ u (execTraceRelease sess s) := by
  unfold execTraceRelease
  repeat' (first
      | with_reducible exact h | with_reducible assumption | with_reducible refine Keeps.ite ?_ ?_
      | with_reducible refine KeepsO.ite ?_ ?_ | with_reducible refine KeepsO.next ?_ | with_reducible exact KeepsO.refused _
      | with_reducible apply asSession_keeps | with_reducible apply traceWrite_keeps
      | with_reducible refine KeepsE.of_eq (by assumption) ?_ | with_reducible intro _ | split)

theorem readBlock_keeps {κ : Scope} {u : State} (sess : Nat) (s : State) (h : Keeps κ u s) : Keeps κ u (readBlock sess s) := by
  unfold readBlock
  repeat' (first
      | with_reducible exact h | with_reducible assumption | with_reducible refine Keeps.ite ?_ ?_ | with_reducible apply updSess_keeps
      | with_reducible apply answer_keeps | extract_lets | with_reducible intro _ | split)

theorem execReadBlock_keeps {κ : Scope} {u : State} (sess : Nat) (s : State) (h : Keeps κ u s) : KeepsO κ u (execReadBlock sess s) := by
  unfold execReadBlock
  repeat' (first
      | with_reducible exact h | with_reducible assumption | with_reducible refine Keeps.ite ?_ ?_
      | with_reducible refine KeepsO.ite ?_ ?_ | with_reducible refine KeepsO.next ?_ | with_reducible exact KeepsO.refused _
      | with_reducible apply withUnit_keeps | with_reducible apply readBlock_keeps | with_reducible apply touch_keeps
      | with_reducible intro _ | split)

end Sys2Proof.Machine
end

