-- ==== Sys2Proof/Laws/KeepsSteering.lean ====
section
/-! SUPPORT. `Keeps` for the operations of Machine/Steering.lean. -/

namespace Sys2Proof.Machine

set_option Elab.async false

theorem runMode_keeps {κ : Scope} {u : State} (s : State) (m : Nat) (e : Rat × Rat × Rat) (h : Keeps κ u s) : Keeps2 κ u (runMode s m e) := by
  unfold runMode
  repeat' (first
      | with_reducible exact h | with_reducible assumption | with_reducible refine Keeps.ite ?_ ?_
      | with_reducible refine Keeps2.ite ?_ ?_
      | with_reducible refine updSteer_keeps ?_ _ (by rfl) (by rfl) | with_reducible refine steer_keeps ?_ _ (by first | exact id | (intro e; cases e)) (by first | exact id | (intro e; cases e))
      | extract_lets | with_reducible intro _ | split | with_reducible refine Keeps2.mk ?_)

theorem putC_keeps {κ : Scope} {u : State} (c : Rat) (s : State) (h : Keeps κ u s) : Keeps κ u (putC c s) := by
  unfold putC
  repeat' (first
      | with_reducible exact h | with_reducible assumption | with_reducible refine Keeps.ite ?_ ?_
      | with_reducible refine updSteer_keeps ?_ _ (by rfl) (by rfl) | with_reducible refine steer_keeps ?_ _ (by first | exact id | (intro e; cases e)) (by first | exact id | (intro e; cases e))
      | with_reducible apply updFn_keeps | with_reducible intro _ | split)

theorem stageInputs_keeps {κ : Scope} {u : State} (s : State) (h : Keeps κ u s) : Keeps κ u (stageInputs s) := by
  unfold stageInputs
  repeat' (first
      | with_reducible exact h | with_reducible assumption | with_reducible refine Keeps.ite ?_ ?_
      | with_reducible refine updSteer_keeps ?_ _ (by rfl) (by rfl) | with_reducible refine steer_keeps ?_ _ (by first | exact id | (intro e; cases e)) (by first | exact id | (intro e; cases e))
      | extract_lets | with_reducible intro _ | split)

theorem coastStage_keeps {κ : Scope} {u : State} (was : Int × Int) (s : State) (h : Keeps κ u s) : Keeps1 κ u (coastStage was s) := by
  unfold coastStage
  repeat' (first
      | with_reducible exact h | with_reducible assumption | with_reducible refine Keeps.ite ?_ ?_
      | with_reducible refine Keeps1.ite ?_ ?_
      | with_reducible refine updSteer_keeps ?_ _ (by rfl) (by rfl) | with_reducible refine steer_keeps ?_ _ (by first | exact id | (intro e; cases e)) (by first | exact id | (intro e; cases e))
      | with_reducible intro _ | split | with_reducible refine Keeps1.mk ?_)

theorem stageDemand_keeps {κ : Scope} {u : State} (s : State) (h : Keeps κ u s) : KeepsP κ u (stageDemand s) := by
  unfold stageDemand
  extract_lets x
  refine KeepsP.ite ?_ ?_
  · split
    · exact KeepsP.none
    · split
      rename_i d₁ t₁ e₁
      have h₁ : Keeps κ u t₁ := by
        split at e₁
        · exact Keeps2.of_eq e₁ (runMode_keeps _ _ _ h)
        · cases e₁; exact h
      split
      rename_i d₂ t₂ e₂
      exact KeepsP.some (updSteer_keeps (Keeps2.of_eq e₂ (runMode_keeps _ _ _ h₁)) _ (by rfl) (by rfl))
  · intro p e
    obtain ⟨a, -, rfl⟩ := Option.map_eq_some_iff.1 e
    have k := Keeps2.snd (runMode_keeps s x.mode a h)
    split
    next d t e =>
      rw [e] at k
      dsimp only at k ⊢
      exact updSteer_keeps k _ (by rfl) (by rfl)

theorem stageRun_keeps {κ : Scope} {u : State} (was : Int × Int) (s : State) (h : Keeps κ u s) : Keeps κ u (stageRun was s) := by
  unfold stageRun
  repeat' (first
      | with_reducible exact h | with_reducible assumption | with_reducible refine Keeps.ite ?_ ?_ | with_reducible apply coastStage_keeps
      | with_reducible apply disengage_keeps
      | with_reducible refine updSteer_keeps ?_ _ (by rfl) (by rfl) | with_reducible refine steer_keeps ?_ _ (by first | exact id | (intro e; cases e)) (by first | exact id | (intro e; cases e))
      | with_reducible apply stageDemand_keeps | with_reducible apply putC_keeps | with_reducible refine Keeps1.fst ?_
      | with_reducible refine Keeps1.of_eq (by assumption) ?_ | with_reducible refine Keeps1.ite ?_ ?_
      | with_reducible refine KeepsP.of_eq (by assumption) ?_ | extract_lets | with_reducible intro _ | split
      | with_reducible refine Keeps1.mk ?_)

theorem stageFrame_keeps {κ : Scope} {u : State} (s : State) (h : Keeps κ u s) : Keeps κ u (stageFrame s) := by
  unfold stageFrame
  repeat' (first
      | with_reducible exact h | with_reducible assumption | with_reducible refine Keeps.ite ?_ ?_
      | with_reducible apply stageInputs_keeps | with_reducible apply stageRun_keeps | extract_lets | with_reducible intro _ | split)

theorem holdC_keeps {κ : Scope} {u : State} (s : State) (h : Keeps κ u s) : Keeps κ u (holdC s) := by
  unfold holdC
  repeat' (first
      | with_reducible exact h | with_reducible assumption | with_reducible refine Keeps.ite ?_ ?_ | with_reducible apply putC_keeps
      | with_reducible intro _ | split)

theorem watchConds_keeps {κ : Scope} {u : State} (s : State) (h : Keeps κ u s) : Keeps κ u (watchConds s) := by
  unfold watchConds
  repeat' (first
      | with_reducible exact h | with_reducible assumption | with_reducible refine Keeps.ite ?_ ?_
      | with_reducible refine updSteer_keeps ?_ _ (by rfl) (by rfl) | with_reducible refine steer_keeps ?_ _ (by first | exact id | (intro e; cases e)) (by first | exact id | (intro e; cases e))
      | with_reducible intro _ | split)

theorem takeover_keeps {κ : Scope} {u : State} (s : State) (h : Keeps κ u s) : Keeps κ u (takeover s) := by
  unfold takeover
  repeat' (first
      | with_reducible exact h | with_reducible assumption | with_reducible refine Keeps.ite ?_ ?_ | with_reducible apply disengage_keeps
      | with_reducible refine updSteer_keeps ?_ _ (by rfl) (by rfl) | with_reducible refine steer_keeps ?_ _ (by first | exact id | (intro e; cases e)) (by first | exact id | (intro e; cases e))
      | with_reducible intro _ | split)

theorem execOperatorTakeover_keeps {κ : Scope} {u : State} (_stamp : Nat) (s : State) (h : Keeps κ u s) : KeepsO κ u (execOperatorTakeover _stamp s) := by
  unfold execOperatorTakeover
  repeat' (first
      | with_reducible exact h | with_reducible assumption | with_reducible refine Keeps.ite ?_ ?_
      | with_reducible refine KeepsO.ite ?_ ?_ | with_reducible refine KeepsO.next ?_ | with_reducible exact KeepsO.refused _
      | with_reducible apply takeover_keeps | with_reducible intro _ | split)

theorem execTakeoverRefusalEnd_keeps {κ : Scope} {u : State} (s : State) (h : Keeps κ u s) : KeepsO κ u (execTakeoverRefusalEnd s) := by
  unfold execTakeoverRefusalEnd
  repeat' (first
      | with_reducible exact h | with_reducible assumption | with_reducible refine Keeps.ite ?_ ?_
      | with_reducible refine KeepsO.ite ?_ ?_ | with_reducible refine KeepsO.next ?_ | with_reducible exact KeepsO.refused _
      | with_reducible refine updSteer_keeps ?_ _ (by rfl) (by rfl) | with_reducible refine steer_keeps ?_ _ (by first | exact id | (intro e; cases e)) (by first | exact id | (intro e; cases e))
      | with_reducible intro _ | split)

theorem withdraw_keeps {κ : Scope} {u : State} (reason : Nat) (s : State) (h : Keeps κ u s) : Keeps κ u (withdraw reason s) := by
  unfold withdraw
  repeat' (first
      | with_reducible exact h | with_reducible assumption | with_reducible refine Keeps.ite ?_ ?_ | with_reducible apply disengage_keeps
      | with_reducible refine updSteer_keeps ?_ _ (by rfl) (by rfl) | with_reducible refine steer_keeps ?_ _ (by first | exact id | (intro e; cases e)) (by first | exact id | (intro e; cases e))
      | with_reducible intro _ | split)

theorem checkCond_keeps {κ : Scope} {u : State} (s : State) (c : Nat) (h : Keeps κ u s) : Keeps κ u (checkCond s c) := by
  unfold checkCond
  repeat' (first
      | with_reducible exact h | with_reducible assumption | with_reducible refine Keeps.ite ?_ ?_ | with_reducible apply withdraw_keeps
      | with_reducible intro _ | split)

theorem serviceEnable_grants {s : State} (h : serviceEnable s = true) : s.Grants := by
  simp only [serviceEnable, Bool.and_eq_true, beq_iff_eq] at h
  exact ⟨.inr h.1.1.1.1.1.1.1.1.1.1, h.1.1.1.1.1.1.1.1.1.2⟩

theorem columnA_keeps {κ : Scope} {u : State} (s : State) (h : Keeps κ u s) : Keeps κ u (columnA s) := by
  unfold columnA
  extract_lets s1 s2 s3 s4 s5 s6 s7
  have h1 : Keeps κ u s1 := Keeps.ite (disengage_keeps _ _ _ h) h
  refine Keeps.ite h1 ?_
  have h2 : Keeps κ u s2 := watchConds_keeps _ h1
  clear_value s2
  have h3 : Keeps κ u s3 := updSteer_keeps h2 _ (by rfl) (by rfl)
  clear_value s3
  have h4 : Keeps κ u s4 := Keeps.ite (takeover_keeps _ h3) h3
  clear_value s4
  have h5 : Keeps κ u s5 := Keeps.foldl h4 fun _ _ k => checkCond_keeps _ _ k
  clear_value s5
  have h6 : Keeps κ u s6 := Keeps.ite (disengage_keeps _ _ _ h5) h5
  have h7 : Keeps κ u s7 := Keeps.ite (disengage_keeps _ _ _ h6) h6
  clear_value s7
  refine drives_keeps h7 _ (fun e => ?_) .inl
  dsimp only at e
  split at e
  · exact .inl (by simp only [Bool.and_eq_true] at e; exact e.1)
  · exact .inr (serviceEnable_grants e)

theorem execSteerDisengage_keeps {κ : Scope} {u : State} (reason : Nat) (s : State) (h : Keeps κ u s) : KeepsO κ u (execSteerDisengage reason s) := by
  unfold execSteerDisengage
  repeat' (first
      | with_reducible exact h | with_reducible assumption | with_reducible refine Keeps.ite ?_ ?_
      | with_reducible refine KeepsO.ite ?_ ?_ | with_reducible refine KeepsO.next ?_ | with_reducible exact KeepsO.refused _
      | with_reducible apply withUnit_keeps | with_reducible apply disengage_keeps | with_reducible intro _ | split)

theorem execSeatLowExpiry_keeps {κ : Scope} {u : State} (s : State) (h : Keeps κ u s) : KeepsO κ u (execSeatLowExpiry s) := by
  unfold execSeatLowExpiry
  repeat' (first
      | with_reducible exact h | with_reducible assumption | with_reducible refine Keeps.ite ?_ ?_
      | with_reducible refine KeepsO.ite ?_ ?_ | with_reducible refine KeepsO.next ?_ | with_reducible exact KeepsO.refused _
      | with_reducible apply checkCond_keeps | with_reducible intro _ | split)

theorem execWheelAngleDisagree_keeps {κ : Scope} {u : State} (s : State) (h : Keeps κ u s) : KeepsO κ u (execWheelAngleDisagree s) := by
  unfold execWheelAngleDisagree
  repeat' (first
      | with_reducible exact h | with_reducible assumption | with_reducible refine Keeps.ite ?_ ?_
      | with_reducible refine KeepsO.ite ?_ ?_ | with_reducible refine KeepsO.next ?_ | with_reducible exact KeepsO.refused _
      | with_reducible apply checkCond_keeps | with_reducible intro _ | split)

theorem execRunawayExpiry_keeps {κ : Scope} {u : State} (s : State) (h : Keeps κ u s) : KeepsO κ u (execRunawayExpiry s) := by
  unfold execRunawayExpiry
  repeat' (first
      | with_reducible exact h | with_reducible assumption | with_reducible refine Keeps.ite ?_ ?_
      | with_reducible refine KeepsO.ite ?_ ?_ | with_reducible refine KeepsO.next ?_ | with_reducible exact KeepsO.refused _
      | with_reducible apply checkCond_keeps | with_reducible intro _ | split)

theorem execSteerOverspeedExpiry_keeps {κ : Scope} {u : State} (s : State) (h : Keeps κ u s) : KeepsO κ u (execSteerOverspeedExpiry s) := by
  unfold execSteerOverspeedExpiry
  repeat' (first
      | with_reducible exact h | with_reducible assumption | with_reducible refine Keeps.ite ?_ ?_
      | with_reducible refine KeepsO.ite ?_ ?_ | with_reducible refine KeepsO.next ?_ | with_reducible exact KeepsO.refused _
      | with_reducible apply checkCond_keeps | with_reducible intro _ | split)

theorem execSteerReverseTravel_keeps {κ : Scope} {u : State} (s : State) (h : Keeps κ u s) : KeepsO κ u (execSteerReverseTravel s) := by
  unfold execSteerReverseTravel
  repeat' (first
      | with_reducible exact h | with_reducible assumption | with_reducible refine Keeps.ite ?_ ?_
      | with_reducible refine KeepsO.ite ?_ ?_ | with_reducible refine KeepsO.next ?_ | with_reducible exact KeepsO.refused _
      | with_reducible apply checkCond_keeps | with_reducible intro _ | split)

theorem execCoastExhausted_keeps {κ : Scope} {u : State} (s : State) (h : Keeps κ u s) : KeepsO κ u (execCoastExhausted s) := by
  unfold execCoastExhausted
  repeat' (first
      | with_reducible exact h | with_reducible assumption | with_reducible refine Keeps.ite ?_ ?_
      | with_reducible refine KeepsO.ite ?_ ?_ | with_reducible refine KeepsO.next ?_ | with_reducible exact KeepsO.refused _
      | with_reducible apply disengage_keeps | with_reducible intro _ | split)

theorem accept_keeps {κ : Scope} {u : State} (s : State) (b : Nat) (d0 cur : Rat) (dev : s.pw.dev = .run) (ign : s.pw.ign = true) (h : Keeps κ u s) :
    Keeps κ u (accept s b d0 cur) := by
  unfold accept
  extract_lets lim old s1 f s2 s3
  have h1 : Keeps κ u s1 := updSteer_keeps h _ (by rfl) (by rfl)
  refine Keeps.ite h1 ?_
  have h2 : Keeps κ u s2 := drives_keeps h1 _ (fun _ => .inr ⟨.inl dev, ign⟩)
    fun _ => .inr ⟨⟨.inl dev, ign⟩, dev⟩
  exact updLoop_keeps (updFn_keeps _ _ _ h2) _

theorem forRequest_keeps {κ : Scope} {u : State} (s : State) (b : Nat) (h : Keeps κ u s) : Keeps κ u (forRequest s b) := by
  unfold forRequest
  exact Keeps.ite (fillWindow_keeps _ (updSteer_keeps h _ (by rfl) (by rfl))) h

theorem fillWindow_pw (s : State) : (fillWindow s).pw = s.pw := by
  unfold fillWindow; extract_lets; split <;> rfl

theorem forRequest_pw (s : State) (b : Nat) : (forRequest s b).pw = s.pw := by
  unfold forRequest; split
  · exact fillWindow_pw _
  · rfl

theorem refusal_none {s : State} {b : Nat} (h : refusal s b = none) : s.pw.dev = .run ∧ s.pw.ign = true := by
  unfold refusal at h
  iterate 4 (split at h; · cases h)
  split at h
  · cases h
  · iterate 3 (split at h; · cases h)
    simp_all

theorem steerRequest_keeps {κ : Scope} {u : State} (s : State) (h : Keeps κ u s) : Keeps κ u (steerRequest s) := by
  unfold steerRequest
  extract_lets b r cur d0 code
  refine Keeps.ite (updSteer_keeps h _ (by rfl) (by rfl)) ?_
  have e : code = (refusal r b).or _ := rfl
  clear_value code
  cases code with
  | none =>
    have z := refusal_none (Option.or_eq_none_iff.1 e.symm).1
    rw [show r.pw = s.pw from forRequest_pw s b] at z
    exact accept_keeps _ _ _ _ (by rw [show r.pw = s.pw from forRequest_pw s b]; exact z.1)
      (by rw [show r.pw = s.pw from forRequest_pw s b]; exact z.2) (forRequest_keeps _ _ h)
  | some c => exact updSteer_keeps (record_keeps _ _ h) _ (by rfl) (by rfl)

theorem steerCommand_keeps {κ : Scope} {u : State} (v : Int) (s : State) (h : Keeps κ u s) : Keeps κ u (steerCommand v s) := by
  unfold steerCommand
  repeat' (first
      | with_reducible exact h | with_reducible assumption | with_reducible refine Keeps.ite ?_ ?_
      | with_reducible apply steerRequest_keeps | with_reducible apply disengage_keeps
      | with_reducible refine updSteer_keeps ?_ _ (by rfl) (by rfl) | with_reducible refine steer_keeps ?_ _ (by first | exact id | (intro e; cases e)) (by first | exact id | (intro e; cases e))
      | with_reducible intro _ | split)

theorem setPoint_keeps {κ : Scope} {u : State} (s : State) (sub : Nat) (h : Keeps κ u s) : Keeps κ u (setPoint s sub) := by
  unfold setPoint
  repeat' (first
      | with_reducible exact h | with_reducible assumption | with_reducible refine Keeps.ite ?_ ?_ | with_reducible apply put_keeps
      | extract_lets | with_reducible intro _ | split)

theorem lineCommand_keeps {κ : Scope} {u : State} (v : Int) (s : State) (h : Keeps κ u s) : KeepsE κ u (lineCommand v s) := by
  unfold lineCommand
  repeat' (first
      | with_reducible exact h | with_reducible assumption | with_reducible refine Keeps.ite ?_ ?_
      | with_reducible refine KeepsE.ite ?_ ?_ | with_reducible refine KeepsE.ok ?_ | with_reducible exact KeepsE.error _
      | with_reducible apply setPoint_keeps
      | with_reducible refine updSteer_keeps ?_ _ (by rfl) (by rfl) | with_reducible refine steer_keeps ?_ _ (by first | exact id | (intro e; cases e)) (by first | exact id | (intro e; cases e))
      | with_reducible apply record_keeps | with_reducible apply put_keeps | with_reducible intro _ | split)

theorem recordCurve_keeps {κ : Scope} {u : State} (s : State) (h : Keeps κ u s) : Keeps κ u (recordCurve s) := by
  unfold recordCurve
  repeat' (first
      | with_reducible exact h | with_reducible assumption | with_reducible refine Keeps.ite ?_ ?_ | with_reducible apply record_keeps
      | with_reducible refine updSteer_keeps ?_ _ (by rfl) (by rfl) | with_reducible refine steer_keeps ?_ _ (by first | exact id | (intro e; cases e)) (by first | exact id | (intro e; cases e))
      | with_reducible intro _ | split)

theorem armTurn_keeps {κ : Scope} {u : State} (s : State) (h : Keeps κ u s) : Keeps κ u (armTurn s) := by
  unfold armTurn
  repeat' (first
      | with_reducible exact h | with_reducible assumption | with_reducible refine Keeps.ite ?_ ?_
      | with_reducible refine updSteer_keeps ?_ _ (by rfl) (by rfl) | with_reducible refine steer_keeps ?_ _ (by first | exact id | (intro e; cases e)) (by first | exact id | (intro e; cases e))
      | extract_lets | with_reducible intro _ | split)

theorem beginTurn_keeps {κ : Scope} {u : State} (s : State) (h : Keeps κ u s) : Keeps κ u (beginTurn s) := by
  unfold beginTurn
  repeat' (first
      | with_reducible exact h | with_reducible assumption | with_reducible refine Keeps.ite ?_ ?_
      | with_reducible refine updSteer_keeps ?_ _ (by rfl) (by rfl) | with_reducible refine steer_keeps ?_ _ (by first | exact id | (intro e; cases e)) (by first | exact id | (intro e; cases e))
      | with_reducible intro _ | split)

theorem turnCommand_keeps {κ : Scope} {u : State} (v : Int) (s : State) (h : Keeps κ u s) : KeepsE κ u (turnCommand v s) := by
  unfold turnCommand
  repeat' (first
      | with_reducible exact h | with_reducible assumption | with_reducible refine Keeps.ite ?_ ?_
      | with_reducible refine KeepsE.ite ?_ ?_ | with_reducible refine KeepsE.ok ?_ | with_reducible exact KeepsE.error _
      | with_reducible apply beginTurn_keeps | with_reducible apply armTurn_keeps
      | with_reducible refine updSteer_keeps ?_ _ (by rfl) (by rfl) | with_reducible refine steer_keeps ?_ _ (by first | exact id | (intro e; cases e)) (by first | exact id | (intro e; cases e))
      | with_reducible intro _ | split)

theorem turnFrame_keeps {κ : Scope} {u : State} (b : Option Nat) (s : State) (h : Keeps κ u s) : Keeps κ u (turnFrame b s) := by
  unfold turnFrame
  repeat' (first
      | with_reducible exact h | with_reducible assumption | with_reducible refine Keeps.ite ?_ ?_
      | with_reducible refine updSteer_keeps ?_ _ (by rfl) (by rfl) | with_reducible refine steer_keeps ?_ _ (by first | exact id | (intro e; cases e)) (by first | exact id | (intro e; cases e))
      | with_reducible apply armTurn_keeps | with_reducible apply beginTurn_keeps | extract_lets | with_reducible intro _ | split)

theorem execTurnComplete_keeps {κ : Scope} {u : State} (s : State) (h : Keeps κ u s) : KeepsO κ u (execTurnComplete s) := by
  unfold execTurnComplete
  repeat' (first
      | with_reducible exact h | with_reducible assumption | with_reducible refine Keeps.ite ?_ ?_
      | with_reducible refine KeepsO.ite ?_ ?_ | with_reducible refine KeepsO.next ?_ | with_reducible exact KeepsO.refused _
      | with_reducible refine updSteer_keeps ?_ _ (by rfl) (by rfl) | with_reducible refine steer_keeps ?_ _ (by first | exact id | (intro e; cases e)) (by first | exact id | (intro e; cases e))
      | with_reducible intro _ | split)

theorem edgeFrame_keeps {κ : Scope} {u : State} (ch id : Nat) (data : Bytes) (s : State) (h : Keeps κ u s) : Keeps κ u (edgeFrame ch id data s) := by
  unfold edgeFrame
  repeat' (first
      | with_reducible exact h | with_reducible assumption | with_reducible refine Keeps.ite ?_ ?_
      | with_reducible refine updSteer_keeps ?_ _ (by rfl) (by rfl) | with_reducible refine steer_keeps ?_ _ (by first | exact id | (intro e; cases e)) (by first | exact id | (intro e; cases e))
      | extract_lets | with_reducible intro _ | split)

theorem execEdgeFrame_keeps {κ : Scope} {u : State} (ch id _stamp : Nat) (data : Bytes) (s : State) (h : Keeps κ u s) : KeepsO κ u (execEdgeFrame ch id _stamp data s) := by
  unfold execEdgeFrame
  repeat' (first
      | with_reducible exact h | with_reducible assumption | with_reducible refine Keeps.ite ?_ ?_
      | with_reducible refine KeepsO.ite ?_ ?_ | with_reducible refine KeepsO.next ?_ | with_reducible exact KeepsO.refused _
      | with_reducible apply withUnit_keeps | with_reducible apply edgeFrame_keeps | with_reducible intro _ | split)

theorem execEdgeTimeout_keeps {κ : Scope} {u : State} (s : State) (h : Keeps κ u s) : KeepsO κ u (execEdgeTimeout s) := by
  unfold execEdgeTimeout
  repeat' (first
      | with_reducible exact h | with_reducible assumption | with_reducible refine Keeps.ite ?_ ?_
      | with_reducible refine KeepsO.ite ?_ ?_ | with_reducible refine KeepsO.next ?_ | with_reducible exact KeepsO.refused _
      | with_reducible refine updSteer_keeps ?_ _ (by rfl) (by rfl) | with_reducible refine steer_keeps ?_ _ (by first | exact id | (intro e; cases e)) (by first | exact id | (intro e; cases e))
      | with_reducible intro _ | split)

theorem cartFrame_keeps {κ : Scope} {u : State} (s : State) (h : Keeps κ u s) : Keeps κ u (cartFrame s) := by
  unfold cartFrame
  repeat' (first
      | with_reducible exact h | with_reducible assumption | with_reducible refine Keeps.ite ?_ ?_
      | with_reducible refine updSteer_keeps ?_ _ (by rfl) (by rfl) | with_reducible refine steer_keeps ?_ _ (by first | exact id | (intro e; cases e)) (by first | exact id | (intro e; cases e))
      | extract_lets | with_reducible intro _ | split)

theorem steerConfigWrite_keeps {κ : Scope} {u : State} (sub : Nat) (v : Val) (s : State) (h : Keeps κ u s) : KeepsE κ u (steerConfigWrite sub v s) := by
  unfold steerConfigWrite
  repeat' (first
      | with_reducible exact h | with_reducible assumption | with_reducible refine Keeps.ite ?_ ?_
      | with_reducible refine KeepsE.ite ?_ ?_ | with_reducible refine KeepsE.ok ?_ | with_reducible exact KeepsE.error _
      | with_reducible apply put_keeps | extract_lets | with_reducible intro _ | split)

theorem lineWrite_keeps {κ : Scope} {u : State} (sub : Nat) (v : Val) (s : State) (h : Keeps κ u s) : KeepsE κ u (lineWrite sub v s) := by
  unfold lineWrite
  repeat' (first
      | with_reducible exact h | with_reducible assumption | with_reducible refine Keeps.ite ?_ ?_
      | with_reducible refine KeepsE.ite ?_ ?_ | with_reducible refine KeepsE.ok ?_ | with_reducible exact KeepsE.error _
      | with_reducible apply lineCommand_keeps | with_reducible apply put_keeps | with_reducible refine KeepsE.of_eq (by assumption) ?_
      | with_reducible intro _ | split)

theorem steerWrite_keeps {κ : Scope} {u : State} (w : Ctx) (i sub : Nat) (v : Val) (s : State) (h : Keeps κ u s) : KeepsE κ u (steerWrite w i sub v s) := by
  unfold steerWrite
  repeat' (first
      | with_reducible exact h | with_reducible assumption | with_reducible refine Keeps.ite ?_ ?_
      | with_reducible refine KeepsE.ite ?_ ?_ | with_reducible refine KeepsE.ok ?_ | with_reducible exact KeepsE.error _
      | with_reducible apply checked_keeps | with_reducible apply steerConfigWrite_keeps | with_reducible apply steerCommand_keeps
      | with_reducible apply lineWrite_keeps | with_reducible apply turnCommand_keeps | with_reducible apply put_keeps
      | with_reducible refine KeepsE.of_eq (by assumption) ?_ | with_reducible intro _ | split)

theorem execSteerEngage_keeps {κ : Scope} {u : State} (sess : Option Nat) (s : State) (h : Keeps κ u s) : KeepsO κ u (execSteerEngage sess s) := by
  unfold execSteerEngage
  repeat' (first
      | with_reducible exact h | with_reducible assumption | with_reducible refine Keeps.ite ?_ ?_
      | with_reducible refine KeepsO.ite ?_ ?_ | with_reducible refine KeepsO.next ?_ | with_reducible exact KeepsO.refused _
      | with_reducible apply asSession_keeps | with_reducible apply steerWrite_keeps | with_reducible apply steerRequest_keeps
      | with_reducible refine KeepsE.of_eq (by assumption) ?_ | with_reducible intro _ | split)

theorem execSteerDisengageCommand_keeps {κ : Scope} {u : State} (sess : Nat) (s : State) (h : Keeps κ u s) : KeepsO κ u (execSteerDisengageCommand sess s) := by
  unfold execSteerDisengageCommand
  repeat' (first
      | with_reducible exact h | with_reducible assumption | with_reducible refine Keeps.ite ?_ ?_
      | with_reducible refine KeepsO.ite ?_ ?_ | with_reducible refine KeepsO.next ?_ | with_reducible exact KeepsO.refused _
      | with_reducible apply asSession_keeps | with_reducible apply steerWrite_keeps
      | with_reducible refine KeepsE.of_eq (by assumption) ?_ | with_reducible intro _ | split)

theorem execTurnNow_keeps {κ : Scope} {u : State} (sess : Nat) (s : State) (h : Keeps κ u s) : KeepsO κ u (execTurnNow sess s) := by
  unfold execTurnNow
  repeat' (first
      | with_reducible exact h | with_reducible assumption | with_reducible refine Keeps.ite ?_ ?_
      | with_reducible refine KeepsO.ite ?_ ?_ | with_reducible refine KeepsO.next ?_ | with_reducible exact KeepsO.refused _
      | with_reducible apply asSession_keeps | with_reducible apply steerWrite_keeps
      | with_reducible refine KeepsE.of_eq (by assumption) ?_ | with_reducible intro _ | split)

theorem execTurnCancel_keeps {κ : Scope} {u : State} (sess : Nat) (s : State) (h : Keeps κ u s) : KeepsO κ u (execTurnCancel sess s) := by
  unfold execTurnCancel
  repeat' (first
      | with_reducible exact h | with_reducible assumption | with_reducible refine Keeps.ite ?_ ?_
      | with_reducible refine KeepsO.ite ?_ ?_ | with_reducible refine KeepsO.next ?_ | with_reducible exact KeepsO.refused _
      | with_reducible apply asSession_keeps | with_reducible apply steerWrite_keeps
      | with_reducible refine KeepsE.of_eq (by assumption) ?_ | with_reducible intro _ | split)

theorem execLineSetA_keeps {κ : Scope} {u : State} (sess : Nat) (s : State) (h : Keeps κ u s) : KeepsO κ u (execLineSetA sess s) := by
  unfold execLineSetA
  repeat' (first
      | with_reducible exact h | with_reducible assumption | with_reducible refine Keeps.ite ?_ ?_
      | with_reducible refine KeepsO.ite ?_ ?_ | with_reducible refine KeepsO.next ?_ | with_reducible exact KeepsO.refused _
      | with_reducible apply asSession_keeps | with_reducible apply steerWrite_keeps
      | with_reducible refine KeepsE.of_eq (by assumption) ?_ | with_reducible intro _ | split)

theorem execLineSetB_keeps {κ : Scope} {u : State} (sess : Nat) (s : State) (h : Keeps κ u s) : KeepsO κ u (execLineSetB sess s) := by
  unfold execLineSetB
  repeat' (first
      | with_reducible exact h | with_reducible assumption | with_reducible refine Keeps.ite ?_ ?_
      | with_reducible refine KeepsO.ite ?_ ?_ | with_reducible refine KeepsO.next ?_ | with_reducible exact KeepsO.refused _
      | with_reducible apply asSession_keeps | with_reducible apply steerWrite_keeps
      | with_reducible refine KeepsE.of_eq (by assumption) ?_ | with_reducible intro _ | split)

theorem execCurveRecordStart_keeps {κ : Scope} {u : State} (sess : Nat) (s : State) (h : Keeps κ u s) : KeepsO κ u (execCurveRecordStart sess s) := by
  unfold execCurveRecordStart
  repeat' (first
      | with_reducible exact h | with_reducible assumption | with_reducible refine Keeps.ite ?_ ?_
      | with_reducible refine KeepsO.ite ?_ ?_ | with_reducible refine KeepsO.next ?_ | with_reducible exact KeepsO.refused _
      | with_reducible apply asSession_keeps | with_reducible apply steerWrite_keeps
      | with_reducible refine KeepsE.of_eq (by assumption) ?_ | with_reducible intro _ | split)

theorem execCurveRecordEnd_keeps {κ : Scope} {u : State} (sess : Nat) (s : State) (h : Keeps κ u s) : KeepsO κ u (execCurveRecordEnd sess s) := by
  unfold execCurveRecordEnd
  repeat' (first
      | with_reducible exact h | with_reducible assumption | with_reducible refine Keeps.ite ?_ ?_
      | with_reducible refine KeepsO.ite ?_ ?_ | with_reducible refine KeepsO.next ?_ | with_reducible exact KeepsO.refused _
      | with_reducible apply asSession_keeps | with_reducible apply steerWrite_keeps
      | with_reducible refine KeepsE.of_eq (by assumption) ?_ | with_reducible intro _ | split)

theorem execNearestPass_keeps {κ : Scope} {u : State} (sess : Nat) (v : Int) (s : State) (h : Keeps κ u s) : KeepsO κ u (execNearestPass sess v s) := by
  unfold execNearestPass
  repeat' (first
      | with_reducible apply withUnit_keeps
      | with_reducible exact h | with_reducible assumption | with_reducible refine Keeps.ite ?_ ?_
      | with_reducible refine KeepsO.ite ?_ ?_ | with_reducible refine KeepsO.next ?_ | with_reducible exact KeepsO.refused _
      | with_reducible apply asSession_keeps | with_reducible apply steerWrite_keeps
      | with_reducible refine KeepsE.of_eq (by assumption) ?_ | with_reducible intro _ | split)

end Sys2Proof.Machine
end

