-- ==== Sys2Proof/Laws/KeepsOptimiser.lean ====
section
/-! SUPPORT. `Keeps` for the operations of Machine/Optimiser.lean. -/

namespace Sys2Proof.Machine

set_option Elab.async false

theorem updOslot_keeps {κ : Scope} {u : State} (s : State) (j : Nat) (f : OSlot → OSlot) (h : Keeps κ u s) : Keeps κ u (State.updOslot s j f) := by
  unfold State.updOslot
  repeat' (first
      | with_reducible exact h | with_reducible assumption | with_reducible refine Keeps.ite ?_ ?_ | with_reducible apply updOpt_keeps
      | with_reducible intro _ | split)

theorem noteReports_keeps {κ : Scope} {u : State} (crossed : List (Nat × Nat)) (s : State) (h : Keeps κ u s) : Keeps κ u (noteReports crossed s) := by
  unfold noteReports
  repeat' (first
      | with_reducible exact h | with_reducible assumption | with_reducible refine Keeps.ite ?_ ?_
      | (with_reducible refine Keeps.foldl ?_ ?_; rotate_left; intro _ _ _)
      | (with_reducible refine Keeps1.foldl ?_ ?_; rotate_left; intro _ _ _)
      | (with_reducible refine Keeps2.foldl ?_ ?_; rotate_left; intro _ _ _) | with_reducible apply updOpt_keeps | extract_lets
      | with_reducible intro _ | split)

theorem takeReports_keeps {κ : Scope} {u : State} (s : State) (h : Keeps κ u s) : Keeps κ u (takeReports s) := by
  unfold takeReports
  repeat' (first
      | with_reducible exact h | with_reducible assumption | with_reducible refine Keeps.ite ?_ ?_ | with_reducible apply updPas_keeps
      | with_reducible intro _ | split)

theorem damageRecord_keeps {κ : Scope} {u : State} (rec : Bytes) (s : State) (h : Keeps κ u s) : Keeps κ u (damageRecord rec s) := by
  unfold damageRecord
  repeat' (first
      | with_reducible exact h | with_reducible assumption | with_reducible refine Keeps.ite ?_ ?_ | with_reducible apply updOpt_keeps
      | extract_lets | with_reducible intro _ | split)

theorem execDamageDatagram_keeps {κ : Scope} {u : State} (iface : Transport) (rec : Bytes) (s : State) (h : Keeps κ u s) : KeepsO κ u (execDamageDatagram iface rec s) := by
  unfold execDamageDatagram
  repeat' (first
      | with_reducible exact h | with_reducible assumption | with_reducible refine Keeps.ite ?_ ?_
      | with_reducible refine KeepsO.ite ?_ ?_ | with_reducible refine KeepsO.next ?_ | with_reducible exact KeepsO.refused _
      | with_reducible apply damageRecord_keeps | with_reducible intro _ | split)

theorem execDamageStaleExpiry_keeps {κ : Scope} {u : State} (s : State) (h : Keeps κ u s) : KeepsO κ u (execDamageStaleExpiry s) := by
  unfold execDamageStaleExpiry
  repeat' (first
      | with_reducible exact h | with_reducible assumption | with_reducible refine Keeps.ite ?_ ?_
      | with_reducible refine KeepsO.ite ?_ ?_ | with_reducible refine KeepsO.next ?_ | with_reducible exact KeepsO.refused _
      | with_reducible apply updOpt_keeps | with_reducible intro _ | split)

theorem endCycle_keeps {κ : Scope} {u : State} (c : OptCycle) (res : Nat) (recs : List Bytes) (s : State) (h : Keeps κ u s) : Keeps κ u (endCycle c res recs s) := by
  unfold endCycle
  repeat' (first
      | with_reducible exact h | with_reducible assumption | with_reducible refine Keeps.ite ?_ ?_ | with_reducible apply records_keeps
      | with_reducible apply updOslot_keeps | with_reducible apply updOpt_keeps | extract_lets | with_reducible intro _ | split)

theorem cancelBlocks_keeps {κ : Scope} {u : State} (l : List PBlk) (s : State) (h : Keeps κ u s) : Keeps κ u (cancelBlocks l s) := by
  unfold cancelBlocks
  repeat' (first
      | with_reducible exact h | with_reducible assumption | with_reducible refine Keeps.ite ?_ ?_
      | (with_reducible refine Keeps.foldl ?_ ?_; rotate_left; intro _ _ _)
      | (with_reducible refine Keeps1.foldl ?_ ?_; rotate_left; intro _ _ _)
      | (with_reducible refine Keeps2.foldl ?_ ?_; rotate_left; intro _ _ _) | with_reducible apply cancelEvent_keeps
      | with_reducible refine Keeps2.snd ?_ | with_reducible refine Keeps2.of_eq (by assumption) ?_
      | with_reducible refine Keeps2.ite ?_ ?_ | with_reducible intro _ | split | with_reducible refine Keeps2.mk ?_)

theorem closeProbes_keeps {κ : Scope} {u : State} (l : List PBlk) (s : State) (h : Keeps κ u s) : Keeps κ u (closeProbes l s) := by
  unfold closeProbes
  repeat' (first
      | with_reducible exact h | with_reducible assumption | with_reducible refine Keeps.ite ?_ ?_ | with_reducible apply updPctl_keeps
      | extract_lets | with_reducible intro _ | split)

theorem voidCycle_keeps {κ : Scope} {u : State} (code : Nat) (s : State) (h : Keeps κ u s) : Keeps κ u (voidCycle code s) := by
  unfold voidCycle
  repeat' (first
      | with_reducible exact h | with_reducible assumption | with_reducible refine Keeps.ite ?_ ?_ | with_reducible apply updOpt_keeps
      | with_reducible apply closeProbes_keeps | with_reducible apply cancelBlocks_keeps | with_reducible apply updFn_keeps
      | with_reducible apply updOslot_keeps | with_reducible apply endCycle_keeps | with_reducible apply record_keeps
      | with_reducible apply optSettle_keeps | extract_lets | with_reducible intro _ | split)

theorem actOn_keeps {κ : Scope} {u : State} (c : OptCycle) (g : Rat) (s : State) (h : Keeps κ u s) : Keeps2 κ u (actOn c g s) := by
  unfold actOn
  repeat' (first
      | with_reducible exact h | with_reducible assumption | with_reducible refine Keeps.ite ?_ ?_
      | with_reducible refine Keeps2.ite ?_ ?_ | with_reducible apply updOslot_keeps | with_reducible apply record_keeps
      | with_reducible apply updOpt_keeps | extract_lets | with_reducible intro _ | split | with_reducible refine Keeps2.mk ?_)

theorem evaluate_keeps {κ : Scope} {u : State} (c : OptCycle) (s : State) (h : Keeps κ u s) : Keeps κ u (evaluate c s) := by
  unfold evaluate
  repeat' (first
      | with_reducible exact h | with_reducible assumption | with_reducible refine Keeps.ite ?_ ?_
      | (with_reducible refine Keeps.foldl ?_ ?_; rotate_left; intro _ _ _)
      | (with_reducible refine Keeps1.foldl ?_ ?_; rotate_left; intro _ _ _)
      | (with_reducible refine Keeps2.foldl ?_ ?_; rotate_left; intro _ _ _) | with_reducible apply voidCycle_keeps
      | with_reducible apply updOslot_keeps | with_reducible apply actOn_keeps | with_reducible apply endCycle_keeps
      | with_reducible apply record_keeps | with_reducible apply updOpt_keeps | with_reducible refine Keeps2.snd ?_
      | with_reducible refine Keeps2.of_eq (by assumption) ?_ | with_reducible refine Keeps2.ite ?_ ?_ | extract_lets
      | with_reducible intro _ | split | with_reducible refine Keeps2.mk ?_)

theorem tryInsert_keeps {κ : Scope} {u : State} (e : Event) (had : Option Nat) (s : State) (h : Keeps κ u s) : Keeps3 κ u (tryInsert e had s) := by
  unfold tryInsert
  repeat' (first
      | with_reducible exact h | with_reducible assumption | with_reducible refine Keeps.ite ?_ ?_
      | with_reducible refine Keeps3.ite ?_ ?_ | with_reducible apply insertOwn_keeps | with_reducible refine Keeps2.snd ?_
      | with_reducible refine Keeps2.of_eq (by assumption) ?_ | with_reducible refine Keeps2.ite ?_ ?_ | extract_lets
      | with_reducible intro _ | split | with_reducible refine Keeps2.mk ?_ | with_reducible refine Keeps3.mk ?_)

theorem insertBlock_keeps {κ : Scope} {u : State} (c : OptCycle) (b : PBlk) (s : State) (h : Keeps κ u s) : Keeps κ u (insertBlock c b s) := by
  unfold insertBlock
  repeat' (first
      | with_reducible exact h | with_reducible assumption | with_reducible refine Keeps.ite ?_ ?_ | with_reducible apply tryInsert_keeps
      | with_reducible apply updBlocks_keeps | with_reducible apply optVoid_keeps | with_reducible refine Keeps3.last ?_
      | with_reducible refine Keeps3.of_eq (by assumption) ?_ | with_reducible refine Keeps3.ite ?_ ?_ | extract_lets
      | with_reducible intro _ | split | with_reducible refine Keeps3.mk ?_)

theorem placeBlock_keeps {κ : Scope} {u : State} (s : State) (h : Keeps κ u s) : Keeps κ u (placeBlock s) := by
  unfold placeBlock
  split
  · exact h
  · extract_lets k after
    clear_value after k
    split
    · exact h
    · exact insertBlock_keeps _ _ _ (updOpt_keeps h _)

theorem startCycle_keeps {κ : Scope} {u : State} (s : State) (h : Keeps κ u s) : Keeps κ u (startCycle s) := by
  unfold startCycle
  repeat' (first
      | with_reducible exact h | with_reducible assumption | with_reducible refine Keeps.ite ?_ ?_ | with_reducible apply advance_keeps
      | with_reducible apply placeBlock_keeps | with_reducible apply updOpt_keeps | with_reducible refine Keeps1.fst ?_
      | with_reducible refine Keeps1.of_eq (by assumption) ?_ | with_reducible refine Keeps1.ite ?_ ?_ | extract_lets
      | with_reducible intro _ | split | with_reducible refine Keeps1.mk ?_)

theorem tryMove_keeps {κ : Scope} {u : State} (m : OMove) (s : State) (h : Keeps κ u s) : Keeps2 κ u (tryMove m s) := by
  unfold tryMove
  extract_lets o c1 id
  clear_value o c1 id
  refine Keeps2.ite (Keeps2.mk h) ?_
  split
  · exact Keeps2.mk h
  · extract_lets r
    have k : Keeps κ u r.2 := Keeps2.snd (insertOwn_keeps _ _ h)
    clear_value r
    exact Keeps2.ite (Keeps2.mk (record_keeps _ _ (updOslot_keeps _ _ _ k))) (Keeps2.mk h)

theorem doMoves_keeps {κ : Scope} {u : State} (s : State) (h : Keeps κ u s) : Keeps κ u (doMoves s) := by
  unfold doMoves
  repeat' (first
      | with_reducible exact h | with_reducible assumption | with_reducible refine Keeps.ite ?_ ?_
      | (with_reducible refine Keeps.foldl ?_ ?_; rotate_left; intro _ _ _)
      | (with_reducible refine Keeps1.foldl ?_ ?_; rotate_left; intro _ _ _)
      | (with_reducible refine Keeps2.foldl ?_ ?_; rotate_left; intro _ _ _) | with_reducible apply tryMove_keeps
      | with_reducible apply updOpt_keeps | with_reducible refine Keeps2.snd ?_ | with_reducible refine Keeps2.of_eq (by assumption) ?_
      | with_reducible refine Keeps2.ite ?_ ?_ | extract_lets | with_reducible intro _ | split | with_reducible refine Keeps2.mk ?_)

theorem execBlockJudged_keeps {κ : Scope} {u : State} (s : State) (h : Keeps κ u s) : KeepsO κ u (execBlockJudged s) := by
  unfold execBlockJudged
  repeat' (first
      | with_reducible exact h | with_reducible assumption | with_reducible refine Keeps.ite ?_ ?_
      | with_reducible refine KeepsO.ite ?_ ?_ | with_reducible refine KeepsO.next ?_ | with_reducible exact KeepsO.refused _
      | with_reducible apply voidCycle_keeps | with_reducible apply updOpt_keeps | with_reducible apply doMoves_keeps
      | with_reducible apply evaluate_keeps | extract_lets | with_reducible intro _ | split)

theorem optFrame_keeps {κ : Scope} {u : State} (s : State) (h : Keeps κ u s) : Keeps κ u (optFrame s) := by
  unfold optFrame
  repeat' (first
      | with_reducible exact h | with_reducible assumption | with_reducible refine Keeps.ite ?_ ?_
      | (with_reducible refine Keeps.foldl ?_ ?_; rotate_left; intro _ _ _)
      | (with_reducible refine Keeps1.foldl ?_ ?_; rotate_left; intro _ _ _)
      | (with_reducible refine Keeps2.foldl ?_ ?_; rotate_left; intro _ _ _) | with_reducible apply voidCycle_keeps
      | with_reducible apply doMoves_keeps | with_reducible apply startCycle_keeps | with_reducible apply insertBlock_keeps
      | with_reducible apply placeBlock_keeps | dsimp only | with_reducible intro _ | split)

theorem suggestionCommand_keeps {κ : Scope} {u : State} (j : Nat) (v : Int) (s : State) (h : Keeps κ u s) : KeepsE κ u (suggestionCommand j v s) := by
  unfold suggestionCommand
  repeat' (first
      | with_reducible exact h | with_reducible assumption | with_reducible refine Keeps.ite ?_ ?_
      | with_reducible refine KeepsE.ite ?_ ?_ | with_reducible refine KeepsE.ok ?_ | with_reducible exact KeepsE.error _
      | with_reducible apply updOslot_keeps | with_reducible intro _ | split)

theorem optConfigWrite_keeps {κ : Scope} {u : State} (w : Ctx) (i sub : Nat) (v : Val) (s : State) (h : Keeps κ u s) : KeepsE κ u (optConfigWrite w i sub v s) := by
  unfold optConfigWrite
  repeat' (first
      | with_reducible exact h | with_reducible assumption | with_reducible refine Keeps.ite ?_ ?_
      | with_reducible refine KeepsE.ite ?_ ?_ | with_reducible refine KeepsE.ok ?_ | with_reducible exact KeepsE.error _
      | with_reducible apply checked_keeps | with_reducible apply put_keeps | with_reducible apply optVoid_keeps
      | with_reducible apply updOpt_keeps | with_reducible apply optSettle_keeps | with_reducible refine KeepsE.of_eq (by assumption) ?_
      | extract_lets | with_reducible intro _ | split)

theorem optSlotWrite_keeps {κ : Scope} {u : State} (w : Ctx) (i sub : Nat) (v : Val) (s : State) (h : Keeps κ u s) : KeepsE κ u (optSlotWrite w i sub v s) := by
  unfold optSlotWrite
  repeat' (first
      | with_reducible exact h | with_reducible assumption | with_reducible refine Keeps.ite ?_ ?_
      | with_reducible refine KeepsE.ite ?_ ?_ | with_reducible refine KeepsE.ok ?_ | with_reducible exact KeepsE.error _
      | with_reducible apply checked_keeps | with_reducible apply put_keeps | with_reducible apply suggestionCommand_keeps
      | with_reducible apply optVoid_keeps | with_reducible refine KeepsE.of_eq (by assumption) ?_ | extract_lets | with_reducible intro _
      | split)

theorem execOptConfigWrite_keeps {κ : Scope} {u : State} (sess sub : Nat) (v : Int) (s : State) (h : Keeps κ u s) : KeepsO κ u (execOptConfigWrite sess sub v s) := by
  unfold execOptConfigWrite
  repeat' (first
      | with_reducible exact h | with_reducible assumption | with_reducible refine Keeps.ite ?_ ?_
      | with_reducible refine KeepsO.ite ?_ ?_ | with_reducible refine KeepsO.next ?_ | with_reducible exact KeepsO.refused _
      | with_reducible apply asSession_keeps | with_reducible apply optConfigWrite_keeps
      | with_reducible refine KeepsE.of_eq (by assumption) ?_ | with_reducible intro _ | split)

theorem execOptSlotWrite_keeps {κ : Scope} {u : State} (sess j sub : Nat) (v : Int) (s : State) (h : Keeps κ u s) : KeepsO κ u (execOptSlotWrite sess j sub v s) := by
  unfold execOptSlotWrite
  repeat' (first
      | with_reducible exact h | with_reducible assumption | with_reducible refine Keeps.ite ?_ ?_
      | with_reducible refine KeepsO.ite ?_ ?_ | with_reducible refine KeepsO.next ?_ | with_reducible exact KeepsO.refused _
      | with_reducible apply asSession_keeps | with_reducible apply optSlotWrite_keeps | with_reducible apply withUnit_keeps
      | with_reducible refine KeepsE.of_eq (by assumption) ?_ | with_reducible intro _ | split)

theorem execSuggestionAccept_keeps {κ : Scope} {u : State} (sess j : Nat) (s : State) (h : Keeps κ u s) : KeepsO κ u (execSuggestionAccept sess j s) := by
  unfold execSuggestionAccept
  repeat' (first
      | with_reducible exact h | with_reducible assumption | with_reducible refine Keeps.ite ?_ ?_
      | with_reducible refine KeepsO.ite ?_ ?_ | with_reducible refine KeepsO.next ?_ | with_reducible exact KeepsO.refused _
      | with_reducible apply asSession_keeps | with_reducible apply optSlotWrite_keeps | with_reducible apply withUnit_keeps
      | with_reducible refine KeepsE.of_eq (by assumption) ?_ | with_reducible intro _ | split)

theorem execSuggestionReject_keeps {κ : Scope} {u : State} (sess j : Nat) (s : State) (h : Keeps κ u s) : KeepsO κ u (execSuggestionReject sess j s) := by
  unfold execSuggestionReject
  repeat' (first
      | with_reducible exact h | with_reducible assumption | with_reducible refine Keeps.ite ?_ ?_
      | with_reducible refine KeepsO.ite ?_ ?_ | with_reducible refine KeepsO.next ?_ | with_reducible exact KeepsO.refused _
      | with_reducible apply asSession_keeps | with_reducible apply optSlotWrite_keeps | with_reducible apply withUnit_keeps
      | with_reducible refine KeepsE.of_eq (by assumption) ?_ | with_reducible intro _ | split)

theorem execSuggestionExpiry_keeps {κ : Scope} {u : State} (j : Nat) (s : State) (h : Keeps κ u s) : KeepsO κ u (execSuggestionExpiry j s) := by
  unfold execSuggestionExpiry
  repeat' (first
      | with_reducible exact h | with_reducible assumption | with_reducible refine Keeps.ite ?_ ?_
      | with_reducible refine KeepsO.ite ?_ ?_ | with_reducible refine KeepsO.next ?_ | with_reducible exact KeepsO.refused _
      | with_reducible apply withUnit_keeps | with_reducible apply updOslot_keeps | with_reducible intro _ | split)

theorem execOperatorHoldExpiry_keeps {κ : Scope} {u : State} (j : Nat) (s : State) (h : Keeps κ u s) : KeepsO κ u (execOperatorHoldExpiry j s) := by
  unfold execOperatorHoldExpiry
  repeat' (first
      | with_reducible exact h | with_reducible assumption | with_reducible refine Keeps.ite ?_ ?_
      | with_reducible refine KeepsO.ite ?_ ?_ | with_reducible refine KeepsO.next ?_ | with_reducible exact KeepsO.refused _
      | with_reducible apply withUnit_keeps | with_reducible apply updOslot_keeps | with_reducible intro _ | split)

end Sys2Proof.Machine
end

