-- ==== Sys2Proof/Laws/KeepsYield.lean ====
section
/-! SUPPORT. `Keeps` for the operations of Machine/Yield.lean. -/

namespace Sys2Proof.Machine

set_option Elab.async false

theorem placeParcel_keeps {κ : Scope} {u : State} (q : Parcel) (r : MassRep) (s : State) (h : Keeps κ u s) : Keeps κ u (placeParcel q r s) := by
  unfold placeParcel
  repeat' (first
      | with_reducible exact h | with_reducible assumption | with_reducible refine Keeps.ite ?_ ?_
      | (with_reducible refine Keeps.foldl ?_ ?_; rotate_left; intro _ _ _)
      | (with_reducible refine Keeps1.foldl ?_ ?_; rotate_left; intro _ _ _)
      | (with_reducible refine Keeps2.foldl ?_ ?_; rotate_left; intro _ _ _) | with_reducible apply updYield_keeps | extract_lets
      | with_reducible intro _ | split)

theorem enqueue_keeps {κ : Scope} {u : State} (m : FleetMsg) (s : State) (h : Keeps κ u s) : Keeps κ u (enqueue m s) := by
  unfold enqueue
  repeat' (first
      | with_reducible exact h | with_reducible assumption | with_reducible refine Keeps.ite ?_ ?_ | with_reducible apply updFleet_keeps
      | extract_lets | with_reducible intro _ | split)

theorem fleetSend_keeps {κ : Scope} {u : State} (k : Nat) (tile : Option (Int × Int)) (payload : Bytes) (stamp : Nat) (s : State) (h : Keeps κ u s) : Keeps κ u (fleetSend k tile payload stamp s) := by
  unfold fleetSend
  repeat' (first
      | with_reducible exact h | with_reducible assumption | with_reducible refine Keeps.ite ?_ ?_ | with_reducible apply updFleet_keeps
      | with_reducible apply enqueue_keeps | extract_lets | with_reducible intro _ | split)

theorem execPosePublish_keeps {κ : Scope} {u : State} (s : State) (h : Keeps κ u s) : KeepsO κ u (execPosePublish s) := by
  unfold execPosePublish
  repeat' (first
      | with_reducible exact h | with_reducible assumption | with_reducible refine Keeps.ite ?_ ?_
      | with_reducible refine KeepsO.ite ?_ ?_ | with_reducible refine KeepsO.next ?_ | with_reducible exact KeepsO.refused _
      | with_reducible apply fleetSend_keeps | extract_lets | with_reducible intro _ | split)

theorem publishBatches_keeps {κ : Scope} {u : State} (n : Nat) (s : State) (h : Keeps κ u s) : Keeps κ u (publishBatches n s) := by
  induction n generalizing s with
  | zero => exact h
  | succ n ih =>
    unfold publishBatches
    exact Keeps.ite h (ih _ (updFleet_keeps (fleetSend_keeps _ _ _ _ _ h) _))

theorem execParcelBatchPublish_keeps {κ : Scope} {u : State} (s : State) (h : Keeps κ u s) : KeepsO κ u (execParcelBatchPublish s) := by
  unfold execParcelBatchPublish
  repeat' (first
      | with_reducible exact h | with_reducible assumption | with_reducible refine Keeps.ite ?_ ?_
      | with_reducible refine KeepsO.ite ?_ ?_ | with_reducible refine KeepsO.next ?_ | with_reducible exact KeepsO.refused _
      | with_reducible apply publishBatches_keeps | with_reducible intro _ | split)

theorem publishTile_keeps {κ : Scope} {u : State} (t : MapTile) (s : State) (h : Keeps κ u s) : Keeps κ u (publishTile t s) := by
  unfold publishTile
  repeat' (first
      | with_reducible exact h | with_reducible assumption | with_reducible refine Keeps.ite ?_ ?_ | with_reducible apply fleetSend_keeps
      | with_reducible apply updYield_keeps | extract_lets | with_reducible intro _ | split)

theorem execTilePublish_keeps {κ : Scope} {u : State} (e n : Int) (s : State) (h : Keeps κ u s) : KeepsO κ u (execTilePublish e n s) := by
  unfold execTilePublish
  repeat' (first
      | with_reducible exact h | with_reducible assumption | with_reducible refine Keeps.ite ?_ ?_
      | with_reducible refine KeepsO.ite ?_ ?_ | with_reducible refine KeepsO.next ?_ | with_reducible exact KeepsO.refused _
      | with_reducible apply publishTile_keeps | extract_lets | with_reducible intro _ | split)

theorem execUnloadMessage_keeps {κ : Scope} {u : State} (s : State) (h : Keeps κ u s) : KeepsO κ u (execUnloadMessage s) := by
  unfold execUnloadMessage
  repeat' (first
      | with_reducible exact h | with_reducible assumption | with_reducible refine Keeps.ite ?_ ?_
      | with_reducible refine KeepsO.ite ?_ ?_ | with_reducible refine KeepsO.next ?_ | with_reducible exact KeepsO.refused _
      | with_reducible apply fleetSend_keeps | extract_lets | with_reducible intro _ | split)

theorem positionStatus_keeps {κ : Scope} {u : State} (s : State) (q : Parcel) (h : Keeps κ u s) : Keeps2 κ u (positionStatus s q) := by
  unfold positionStatus
  repeat' (first
      | with_reducible exact h | with_reducible assumption | with_reducible refine Keeps.ite ?_ ?_
      | with_reducible refine Keeps2.ite ?_ ?_ | with_reducible apply freeInt_keeps | with_reducible refine Keeps2.snd ?_
      | with_reducible refine Keeps2.of_eq (by assumption) ?_ | extract_lets | with_reducible intro _ | split
      | with_reducible refine Keeps2.mk ?_)

theorem logParcel_keeps {κ : Scope} {u : State} (q : Parcel) (r : MassRep) (s : State) (h : Keeps κ u s) : Keeps κ u (logParcel q r s) := by
  unfold logParcel
  repeat' (first
      | with_reducible exact h | with_reducible assumption | with_reducible refine Keeps.ite ?_ ?_
      | with_reducible apply positionStatus_keeps | with_reducible apply updYield_keeps | with_reducible refine Keeps2.snd ?_
      | with_reducible refine Keeps2.of_eq (by assumption) ?_ | with_reducible refine Keeps2.ite ?_ ?_ | extract_lets
      | with_reducible intro _ | split | with_reducible refine Keeps2.mk ?_)

theorem execDocPublish_keeps {κ : Scope} {u : State} (file : Bytes) (s : State) (h : Keeps κ u s) : KeepsO κ u (execDocPublish file s) := by
  unfold execDocPublish
  repeat' (first
      | with_reducible exact h | with_reducible assumption | with_reducible refine Keeps.ite ?_ ?_
      | with_reducible refine KeepsO.ite ?_ ?_ | with_reducible refine KeepsO.next ?_ | with_reducible exact KeepsO.refused _
      | with_reducible apply fleetSend_keeps | with_reducible apply updYield_keeps | with_reducible intro _ | split)

theorem yieldReport_keeps {κ : Scope} {u : State} (q : Parcel) (s : State) (h : Keeps κ u s) : Keeps κ u (yieldReport q s) := by
  unfold yieldReport
  repeat' (first
      | with_reducible exact h | with_reducible assumption | with_reducible refine Keeps.ite ?_ ?_ | with_reducible apply logParcel_keeps
      | with_reducible apply placeParcel_keeps | with_reducible apply updFleet_keeps | with_reducible apply updYield_keeps | extract_lets
      | with_reducible intro _ | split)

theorem yieldFrame_keeps {κ : Scope} {u : State} (s : State) (h : Keeps κ u s) : Keeps κ u (yieldFrame s) := by
  unfold yieldFrame
  repeat' (first
      | with_reducible exact h | with_reducible assumption | with_reducible refine Keeps.ite ?_ ?_
      | (with_reducible refine Keeps.foldl ?_ ?_; rotate_left; intro _ _ _)
      | (with_reducible refine Keeps1.foldl ?_ ?_; rotate_left; intro _ _ _)
      | (with_reducible refine Keeps2.foldl ?_ ?_; rotate_left; intro _ _ _) | with_reducible apply yieldReport_keeps
      | with_reducible intro _ | split)

theorem storePrior_keeps {κ : Scope} {u : State} (b : Bytes) (s : State) (h : Keeps κ u s) : Keeps κ u (storePrior b s) := by
  unfold storePrior
  repeat' (first
      | with_reducible exact h | with_reducible assumption | with_reducible refine Keeps.ite ?_ ?_ | with_reducible apply updYield_keeps
      | with_reducible intro _ | split)

theorem execPriorTile_keeps {κ : Scope} {u : State} (tile : Bytes) (s : State) (h : Keeps κ u s) : KeepsO κ u (execPriorTile tile s) := by
  unfold execPriorTile
  repeat' (first
      | with_reducible exact h | with_reducible assumption | with_reducible refine Keeps.ite ?_ ?_
      | with_reducible refine KeepsO.ite ?_ ?_ | with_reducible refine KeepsO.next ?_ | with_reducible exact KeepsO.refused _
      | with_reducible apply storePrior_keeps | with_reducible intro _ | split)

theorem closeField_keeps {κ : Scope} {u : State} (s : State) (h : Keeps κ u s) : Keeps κ u (closeField s) := by
  unfold closeField
  repeat' (first
      | with_reducible exact h | with_reducible assumption | with_reducible refine Keeps.ite ?_ ?_
      | (with_reducible refine Keeps.foldl ?_ ?_; rotate_left; intro _ _ _)
      | (with_reducible refine Keeps1.foldl ?_ ?_; rotate_left; intro _ _ _)
      | (with_reducible refine Keeps2.foldl ?_ ?_; rotate_left; intro _ _ _) | with_reducible apply publishTile_keeps
      | with_reducible apply updYield_keeps | extract_lets | with_reducible intro _ | split)

theorem openField_keeps {κ : Scope} {u : State} (id : Nat) (task : Bool) (s : State) (h : Keeps κ u s) : Keeps κ u (openField id task s) := by
  unfold openField
  repeat' (first
      | with_reducible exact h | with_reducible assumption | with_reducible refine Keeps.ite ?_ ?_ | with_reducible apply closeField_keeps
      | with_reducible apply updYield_keeps | extract_lets | with_reducible intro _ | split)

theorem mapCommand_keeps {κ : Scope} {u : State} (v : Int) (s : State) (h : Keeps κ u s) : KeepsE κ u (mapCommand v s) := by
  unfold mapCommand
  repeat' (first
      | with_reducible exact h | with_reducible assumption | with_reducible refine Keeps.ite ?_ ?_
      | with_reducible refine KeepsE.ite ?_ ?_ | with_reducible refine KeepsE.ok ?_ | with_reducible exact KeepsE.error _
      | with_reducible apply openField_keeps | with_reducible apply updYield_keeps | with_reducible apply closeField_keeps
      | with_reducible intro _ | split)

theorem loadFrame_keeps {κ : Scope} {u : State} (s : State) (h : Keeps κ u s) : Keeps κ u (loadFrame s) := by
  unfold loadFrame
  repeat' (first
      | with_reducible exact h | with_reducible assumption | with_reducible refine Keeps.ite ?_ ?_ | with_reducible apply updYield_keeps
      | with_reducible intro _ | split)

theorem loadCommand_keeps {κ : Scope} {u : State} (v : Int) (s : State) (h : Keeps κ u s) : KeepsE κ u (loadCommand v s) := by
  unfold loadCommand
  repeat' (first
      | with_reducible exact h | with_reducible assumption | with_reducible refine Keeps.ite ?_ ?_
      | with_reducible refine KeepsE.ite ?_ ?_ | with_reducible refine KeepsE.ok ?_ | with_reducible exact KeepsE.error _
      | with_reducible apply updYield_keeps | with_reducible apply put_keeps | with_reducible apply commit_keeps | extract_lets
      | with_reducible intro _ | split)

theorem weigh_keeps {κ : Scope} {u : State} (g : Nat) (s : State) (h : Keeps κ u s) : Keeps κ u (weigh g s) := by
  unfold weigh
  repeat' (first
      | with_reducible exact h | with_reducible assumption | with_reducible refine Keeps.ite ?_ ?_ | with_reducible apply updYield_keeps
      | extract_lets | with_reducible intro _ | split)

theorem yieldWrite_keeps {κ : Scope} {u : State} (w : Ctx) (i sub : Nat) (v : Val) (s : State) (h : Keeps κ u s) : KeepsE κ u (yieldWrite w i sub v s) := by
  unfold yieldWrite
  repeat' (first
      | with_reducible exact h | with_reducible assumption | with_reducible refine Keeps.ite ?_ ?_
      | with_reducible refine KeepsE.ite ?_ ?_ | with_reducible refine KeepsE.ok ?_ | with_reducible exact KeepsE.error _
      | with_reducible apply checked_keeps | with_reducible apply put_keeps | with_reducible apply mapCommand_keeps
      | with_reducible apply loadCommand_keeps | with_reducible apply weigh_keeps | with_reducible refine KeepsE.of_eq (by assumption) ?_
      | with_reducible intro _ | split)

theorem execLoadStart_keeps {κ : Scope} {u : State} (sess : Nat) (s : State) (h : Keeps κ u s) : KeepsO κ u (execLoadStart sess s) := by
  unfold execLoadStart
  repeat' (first
      | with_reducible exact h | with_reducible assumption | with_reducible refine Keeps.ite ?_ ?_
      | with_reducible refine KeepsO.ite ?_ ?_ | with_reducible refine KeepsO.next ?_ | with_reducible exact KeepsO.refused _
      | with_reducible apply asSession_keeps | with_reducible apply yieldWrite_keeps
      | with_reducible refine KeepsE.of_eq (by assumption) ?_ | with_reducible intro _ | split)

theorem execLoadEmpty_keeps {κ : Scope} {u : State} (sess : Nat) (s : State) (h : Keeps κ u s) : KeepsO κ u (execLoadEmpty sess s) := by
  unfold execLoadEmpty
  repeat' (first
      | with_reducible exact h | with_reducible assumption | with_reducible refine Keeps.ite ?_ ?_
      | with_reducible refine KeepsO.ite ?_ ?_ | with_reducible refine KeepsO.next ?_ | with_reducible exact KeepsO.refused _
      | with_reducible apply asSession_keeps | with_reducible apply yieldWrite_keeps
      | with_reducible refine KeepsE.of_eq (by assumption) ?_ | with_reducible intro _ | split)

theorem execLoadAccept_keeps {κ : Scope} {u : State} (sess : Nat) (s : State) (h : Keeps κ u s) : KeepsO κ u (execLoadAccept sess s) := by
  unfold execLoadAccept
  repeat' (first
      | with_reducible exact h | with_reducible assumption | with_reducible refine Keeps.ite ?_ ?_
      | with_reducible refine KeepsO.ite ?_ ?_ | with_reducible refine KeepsO.next ?_ | with_reducible exact KeepsO.refused _
      | with_reducible apply asSession_keeps | with_reducible apply yieldWrite_keeps
      | with_reducible refine KeepsE.of_eq (by assumption) ?_ | with_reducible intro _ | split)

theorem execLoadDiscard_keeps {κ : Scope} {u : State} (sess : Nat) (s : State) (h : Keeps κ u s) : KeepsO κ u (execLoadDiscard sess s) := by
  unfold execLoadDiscard
  repeat' (first
      | with_reducible exact h | with_reducible assumption | with_reducible refine Keeps.ite ?_ ?_
      | with_reducible refine KeepsO.ite ?_ ?_ | with_reducible refine KeepsO.next ?_ | with_reducible exact KeepsO.refused _
      | with_reducible apply asSession_keeps | with_reducible apply yieldWrite_keeps
      | with_reducible refine KeepsE.of_eq (by assumption) ?_ | with_reducible intro _ | split)

theorem execWeighedMassWrite_keeps {κ : Scope} {u : State} (sess : Nat) (g : Int) (s : State) (h : Keeps κ u s) : KeepsO κ u (execWeighedMassWrite sess g s) := by
  unfold execWeighedMassWrite
  repeat' (first
      | with_reducible exact h | with_reducible assumption | with_reducible refine Keeps.ite ?_ ?_
      | with_reducible refine KeepsO.ite ?_ ?_ | with_reducible refine KeepsO.next ?_ | with_reducible exact KeepsO.refused _
      | with_reducible apply asSession_keeps | with_reducible apply yieldWrite_keeps
      | with_reducible refine KeepsE.of_eq (by assumption) ?_ | with_reducible intro _ | split)

theorem execLoadEmptied_keeps {κ : Scope} {u : State} (s : State) (h : Keeps κ u s) : KeepsO κ u (execLoadEmptied s) := by
  unfold execLoadEmptied
  repeat' (first
      | with_reducible exact h | with_reducible assumption | with_reducible refine Keeps.ite ?_ ?_
      | with_reducible refine KeepsO.ite ?_ ?_ | with_reducible refine KeepsO.next ?_ | with_reducible exact KeepsO.refused _
      | with_reducible apply updYield_keeps | with_reducible intro _ | split)

theorem execMapOpen_keeps {κ : Scope} {u : State} (by_ : MapBy) (s : State) (h : Keeps κ u s) : KeepsO κ u (execMapOpen by_ s) := by
  unfold execMapOpen
  repeat' (first
      | with_reducible exact h | with_reducible assumption | with_reducible refine Keeps.ite ?_ ?_
      | with_reducible refine KeepsO.ite ?_ ?_ | with_reducible refine KeepsO.next ?_ | with_reducible exact KeepsO.refused _
      | with_reducible apply asSession_keeps | with_reducible apply yieldWrite_keeps | with_reducible apply openField_keeps
      | with_reducible apply optVoid_keeps | with_reducible apply optSettle_keeps | with_reducible refine KeepsE.of_eq (by assumption) ?_
      | with_reducible intro _ | split)

theorem execMapClose_keeps {κ : Scope} {u : State} (by_ : MapBy) (s : State) (h : Keeps κ u s) : KeepsO κ u (execMapClose by_ s) := by
  unfold execMapClose
  repeat' (first
      | with_reducible exact h | with_reducible assumption | with_reducible refine Keeps.ite ?_ ?_
      | with_reducible refine KeepsO.ite ?_ ?_ | with_reducible refine KeepsO.next ?_ | with_reducible exact KeepsO.refused _
      | with_reducible apply asSession_keeps | with_reducible apply yieldWrite_keeps | with_reducible apply closeField_keeps
      | with_reducible refine KeepsE.of_eq (by assumption) ?_ | with_reducible intro _ | split)

theorem connect_keeps {κ : Scope} {u : State} (s : State) (h : Keeps κ u s) : Keeps κ u (connect s) := by
  unfold connect
  repeat' (first
      | with_reducible exact h | with_reducible assumption | with_reducible refine Keeps.ite ?_ ?_
      | (with_reducible refine Keeps.foldl ?_ ?_; rotate_left; intro _ _ _)
      | (with_reducible refine Keeps1.foldl ?_ ?_; rotate_left; intro _ _ _)
      | (with_reducible refine Keeps2.foldl ?_ ?_; rotate_left; intro _ _ _) | with_reducible apply updFleet_keeps | extract_lets
      | with_reducible intro _ | split)

theorem execFleetConnect_keeps {κ : Scope} {u : State} (s : State) (h : Keeps κ u s) : KeepsO κ u (execFleetConnect s) := by
  unfold execFleetConnect
  repeat' (first
      | with_reducible exact h | with_reducible assumption | with_reducible refine Keeps.ite ?_ ?_
      | with_reducible refine KeepsO.ite ?_ ?_ | with_reducible refine KeepsO.next ?_ | with_reducible exact KeepsO.refused _
      | with_reducible apply connect_keeps | with_reducible intro _ | split)

theorem execFleetReconnectExpiry_keeps {κ : Scope} {u : State} (connected : Bool) (s : State) (h : Keeps κ u s) : KeepsO κ u (execFleetReconnectExpiry connected s) := by
  unfold execFleetReconnectExpiry
  repeat' (first
      | with_reducible exact h | with_reducible assumption | with_reducible refine Keeps.ite ?_ ?_
      | with_reducible refine KeepsO.ite ?_ ?_ | with_reducible refine KeepsO.next ?_ | with_reducible exact KeepsO.refused _
      | with_reducible apply connect_keeps | with_reducible apply updFleet_keeps | with_reducible intro _ | split)

theorem execFleetLinkLost_keeps {κ : Scope} {u : State} (authRefused : Bool) (s : State) (h : Keeps κ u s) : KeepsO κ u (execFleetLinkLost authRefused s) := by
  unfold execFleetLinkLost
  repeat' (first
      | with_reducible exact h | with_reducible assumption | with_reducible refine Keeps.ite ?_ ?_
      | with_reducible refine KeepsO.ite ?_ ?_ | with_reducible refine KeepsO.next ?_ | with_reducible exact KeepsO.refused _
      | with_reducible apply updFleet_keeps | with_reducible intro _ | split)

theorem fleetWrite_keeps {κ : Scope} {u : State} (w : Ctx) (i sub : Nat) (v : Val) (s : State) (h : Keeps κ u s) : KeepsE κ u (fleetWrite w i sub v s) := by
  unfold fleetWrite
  repeat' (first
      | with_reducible exact h | with_reducible assumption | with_reducible refine Keeps.ite ?_ ?_
      | with_reducible refine KeepsE.ite ?_ ?_ | with_reducible refine KeepsE.ok ?_ | with_reducible exact KeepsE.error _
      | with_reducible apply checked_keeps | with_reducible apply put_keeps | with_reducible apply updFleet_keeps
      | with_reducible refine KeepsE.of_eq (by assumption) ?_ | extract_lets | with_reducible intro _ | split)

theorem fleetStart_keeps {κ : Scope} {u : State} (s : State) (h : Keeps κ u s) : Keeps κ u (fleetStart s) := by
  unfold fleetStart
  repeat' (first
      | with_reducible exact h | with_reducible assumption | with_reducible refine Keeps.ite ?_ ?_ | with_reducible intro _ | split
      | with_reducible apply engines_keeps)

theorem fleetShutdown_keeps {κ : Scope} {u : State} (s : State) (h : Keeps κ u s) : Keeps κ u (fleetShutdown s) := by
  unfold fleetShutdown
  repeat' (first
      | with_reducible exact h | with_reducible assumption | with_reducible refine Keeps.ite ?_ ?_ | with_reducible apply updFleet_keeps
      | with_reducible intro _ | split)

theorem execStatePublish_keeps {κ : Scope} {u : State} (opt : Bool) (s : State) (h : Keeps κ u s) : KeepsO κ u (execStatePublish opt s) := by
  unfold execStatePublish
  repeat' (first
      | with_reducible exact h | with_reducible assumption | with_reducible refine Keeps.ite ?_ ?_
      | with_reducible refine KeepsO.ite ?_ ?_ | with_reducible refine KeepsO.next ?_ | with_reducible exact KeepsO.refused _
      | with_reducible apply fleetSend_keeps | with_reducible apply updFleet_keeps | extract_lets | with_reducible intro _ | split)

end Sys2Proof.Machine
end

