-- ==== Sys2Proof/Laws/KeepsValve.lean ====
section
/-! SUPPORT. `Keeps` for the operations of Machine/Valve.lean. -/

namespace Sys2Proof.Machine

set_option Elab.async false

theorem updCh_keeps {κ : Scope} {u : State} (s : State) (n : Nat) (f : VCh → VCh) (h : Keeps κ u s) : Keeps κ u (State.updCh s n f) := by
  unfold State.updCh
  repeat' (first
      | with_reducible exact h | with_reducible assumption | with_reducible refine Keeps.ite ?_ ?_
      | with_reducible refine updValve_keeps ?_ _ (by rfl) | with_reducible intro _ | split)

/-- An update of a bank that grants no enable. -/
theorem updBank_keeps {κ : Scope} {u : State} (s : State) (b : Nat) (f : VBank → VBank) (h : Keeps κ u s)
    (k : ∀ x, (f x).enable = true → x.enable = true := by exact fun _ e => by first | exact e | cases e) : Keeps κ u (s.updBank b f) := by
  exact bank_keeps h _ fun _ e => getD_modify (p := fun x : VBank => x.enable = true) k e

theorem updSup_keeps {κ : Scope} {u : State} (s : State) (k : Nat) (f : VSup → VSup) (h : Keeps κ u s) : Keeps κ u (State.updSup s k f) := by
  unfold State.updSup
  repeat' (first
      | with_reducible exact h | with_reducible assumption | with_reducible refine Keeps.ite ?_ ?_
      | with_reducible refine updValve_keeps ?_ _ (by rfl) | with_reducible intro _ | split)

theorem chanFault_keeps {κ : Scope} {u : State} (n : Nat) (raised : Bool) (f : VCh → VCh) (s : State) (h : Keeps κ u s) : Keeps κ u (chanFault n raised f s) := by
  unfold chanFault
  repeat' (first
      | with_reducible exact h | with_reducible assumption | with_reducible refine Keeps.ite ?_ ?_ | with_reducible apply updCh_keeps
      | with_reducible apply record_keeps | extract_lets | with_reducible intro _ | split)

theorem forceSafe_keeps {κ : Scope} {u : State} (p : Nat → Bool) (s : State) (h : Keeps κ u s) : Keeps κ u (forceSafe p s) := by
  unfold forceSafe
  repeat' (first
      | with_reducible exact h | with_reducible assumption | with_reducible refine Keeps.ite ?_ ?_
      | (with_reducible refine Keeps.foldl ?_ ?_; rotate_left; intro _ _ _)
      | (with_reducible refine Keeps1.foldl ?_ ?_; rotate_left; intro _ _ _)
      | (with_reducible refine Keeps2.foldl ?_ ?_; rotate_left; intro _ _ _) | with_reducible apply applySafe_keeps
      | with_reducible apply disengage_keeps | extract_lets | with_reducible intro _ | split)

theorem forceChan_keeps {κ : Scope} {u : State} (n : Nat) (s : State) (h : Keeps κ u s) : Keeps κ u (forceChan n s) := by
  unfold forceChan
  repeat' (first
      | with_reducible exact h | with_reducible assumption | with_reducible refine Keeps.ite ?_ ?_ | with_reducible apply forceSafe_keeps
      | with_reducible intro _ | split)

theorem forceBank_keeps {κ : Scope} {u : State} (b : Nat) (s : State) (h : Keeps κ u s) : Keeps κ u (forceBank b s) := by
  unfold forceBank
  repeat' (first
      | with_reducible exact h | with_reducible assumption | with_reducible refine Keeps.ite ?_ ?_ | with_reducible apply forceSafe_keeps
      | with_reducible intro _ | split)

theorem refreshHead_keeps {κ : Scope} {u : State} (n : Nat) (s : State) (h : Keeps κ u s) : Keeps κ u (refreshHead n s) := by
  unfold refreshHead
  repeat' (first
      | with_reducible exact h | with_reducible assumption | with_reducible refine Keeps.ite ?_ ?_ | with_reducible apply updCh_keeps
      | with_reducible intro _ | split)

theorem enterPhase_keeps {κ : Scope} {u : State} (n p time : Nat) (s : State) (h : Keeps κ u s) : Keeps κ u (enterPhase n p time s) := by
  unfold enterPhase
  repeat' (first
      | with_reducible exact h | with_reducible assumption | with_reducible refine Keeps.ite ?_ ?_ | with_reducible apply updCh_keeps
      | with_reducible intro _ | split)

theorem rejectBoost_keeps {κ : Scope} {u : State} (n time : Nat) (s : State) (h : Keeps κ u s) : Keeps κ u (rejectBoost n time s) := by
  unfold rejectBoost
  repeat' (first
      | with_reducible exact h | with_reducible assumption | with_reducible refine Keeps.ite ?_ ?_ | with_reducible apply updCh_keeps
      | with_reducible refine updBank_keeps _ _ _ ?_ | with_reducible apply refreshHead_keeps | with_reducible apply record_keeps
      | extract_lets | with_reducible intro _ | split)

theorem svStart_keeps {κ : Scope} {u : State} (n : Nat) (s : State) (h : Keeps κ u s) : Keeps κ u (svStart n s) := by
  unfold svStart
  repeat' (first
      | with_reducible exact h | with_reducible assumption | with_reducible refine Keeps.ite ?_ ?_ | with_reducible apply chanFault_keeps
      | with_reducible apply freeInt_keeps | with_reducible apply updSup_keeps | with_reducible apply updCh_keeps
      | with_reducible apply rejectBoost_keeps | with_reducible apply refreshHead_keeps | with_reducible refine Keeps2.snd ?_
      | with_reducible refine Keeps2.of_eq (by assumption) ?_ | with_reducible refine Keeps2.ite ?_ ?_ | extract_lets
      | with_reducible intro _ | split | with_reducible refine Keeps2.mk ?_)

theorem svStop_keeps {κ : Scope} {u : State} (n : Nat) (s : State) (h : Keeps κ u s) : Keeps κ u (svStop n s) := by
  unfold svStop
  repeat' (first
      | with_reducible exact h | with_reducible assumption | with_reducible refine Keeps.ite ?_ ?_ | with_reducible apply enterPhase_keeps
      | extract_lets | with_reducible intro _ | split)

theorem svFollow_keeps {κ : Scope} {u : State} (rise : Bool) (n : Nat) (s : State) (h : Keeps κ u s) : Keeps κ u (svFollow rise n s) := by
  unfold svFollow
  repeat' (first
      | with_reducible exact h | with_reducible assumption | with_reducible refine Keeps.ite ?_ ?_ | with_reducible apply updCh_keeps
      | with_reducible apply svStop_keeps | with_reducible apply svStart_keeps | with_reducible apply enterPhase_keeps
      | with_reducible apply refreshHead_keeps | extract_lets | with_reducible intro _ | split)

theorem setCommand_keeps {κ : Scope} {u : State} (n : Nat) (f : VCh → VCh) (s : State) (h : Keeps κ u s) : Keeps κ u (setCommand n f s) := by
  unfold setCommand
  repeat' (first
      | with_reducible exact h | with_reducible assumption | with_reducible refine Keeps.ite ?_ ?_ | with_reducible apply updCh_keeps
      | with_reducible apply svFollow_keeps | extract_lets | with_reducible intro _ | split)

theorem bankOff_keeps {κ : Scope} {u : State} (b : Nat) (s : State) (h : Keeps κ u s) : Keeps κ u (bankOff b s) := by
  unfold bankOff
  repeat' (first
      | with_reducible exact h | with_reducible assumption | with_reducible refine Keeps.ite ?_ ?_
      | (with_reducible refine Keeps.foldl ?_ ?_; rotate_left; intro _ _ _)
      | (with_reducible refine Keeps1.foldl ?_ ?_; rotate_left; intro _ _ _)
      | (with_reducible refine Keeps2.foldl ?_ ?_; rotate_left; intro _ _ _) | with_reducible refine updBank_keeps _ _ _ ?_
      | with_reducible apply updCh_keeps | with_reducible apply svFollow_keeps | extract_lets | with_reducible intro _ | split)

theorem bankUnfed_keeps {κ : Scope} {u : State} (b : Nat) (s : State) (h : Keeps κ u s) : Keeps κ u (bankUnfed b s) :=
  updBank_keeps _ _ _ (bankOff_keeps _ _ h)

theorem bankGrant_keeps {κ : Scope} {u : State} (b : Nat) (s : State) (may : bankMay s b = true) (h : Keeps κ u s) : Keeps κ u (bankGrant b s) := by
  refine power_keeps h _ ⟨rfl, rfl, .inl ?_, .inl⟩
  simp only [bankMay, Bool.and_eq_true, Bool.or_eq_true, decide_eq_true_eq] at may
  exact ⟨may.1.1.1.1, may.1.1.1.2⟩

theorem execBankEnable_keeps {κ : Scope} {u : State} (b : Nat) (grant : Bool) (s : State) (h : Keeps κ u s) : KeepsO κ u (execBankEnable b grant s) := by
  refine withUnit_keeps (Keeps.ite ?_ (Keeps.ite (bankOff_keeps _ _ h) h))
  split
  · rename_i e
    exact bankGrant_keeps _ _ (by simp only [Bool.and_eq_true] at e; exact e.1) h
  · exact h

theorem execBankResumeSlot_keeps {κ : Scope} {u : State} (b : Nat) (s : State) (h : Keeps κ u s) : KeepsO κ u (execBankResumeSlot b s) := by
  unfold execBankResumeSlot
  repeat' (first
      | with_reducible exact h | with_reducible assumption | with_reducible refine Keeps.ite ?_ ?_
      | with_reducible refine KeepsO.ite ?_ ?_ | with_reducible refine KeepsO.next ?_ | with_reducible exact KeepsO.refused _
      | with_reducible apply withUnit_keeps | with_reducible refine updBank_keeps _ _ _ ?_ | with_reducible apply updCh_keeps
      | with_reducible apply svFollow_keeps | extract_lets | with_reducible intro _ | split)

theorem execDriveSupplyNotPresent_keeps {κ : Scope} {u : State} (k : Nat) (high : Bool) (mV : Nat) (s : State) (h : Keeps κ u s) : KeepsO κ u (execDriveSupplyNotPresent k high mV s) := by
  unfold execDriveSupplyNotPresent
  repeat' (first
      | with_reducible exact h | with_reducible assumption | with_reducible refine Keeps.ite ?_ ?_
      | with_reducible refine KeepsO.ite ?_ ?_ | with_reducible refine KeepsO.next ?_ | with_reducible exact KeepsO.refused _
      | (with_reducible refine Keeps.foldl ?_ ?_; rotate_left; intro _ _ _)
      | (with_reducible refine Keeps1.foldl ?_ ?_; rotate_left; intro _ _ _)
      | (with_reducible refine Keeps2.foldl ?_ ?_; rotate_left; intro _ _ _) | with_reducible apply withUnit_keeps
      | with_reducible apply updSup_keeps | with_reducible apply forceBank_keeps | with_reducible apply bankUnfed_keeps
      | with_reducible apply record_keeps | extract_lets | with_reducible intro _ | split)

theorem execDriveSupplyPresent_keeps {κ : Scope} {u : State} (k : Nat) (s : State) (h : Keeps κ u s) : KeepsO κ u (execDriveSupplyPresent k s) := by
  unfold execDriveSupplyPresent
  repeat' (first
      | with_reducible exact h | with_reducible assumption | with_reducible refine Keeps.ite ?_ ?_
      | with_reducible refine KeepsO.ite ?_ ?_ | with_reducible refine KeepsO.next ?_ | with_reducible exact KeepsO.refused _
      | with_reducible apply withUnit_keeps | with_reducible apply freeInt_keeps | with_reducible apply updSup_keeps
      | with_reducible apply record_keeps | with_reducible refine Keeps2.snd ?_ | with_reducible refine Keeps2.of_eq (by assumption) ?_
      | with_reducible refine Keeps2.ite ?_ ?_ | extract_lets | with_reducible intro _ | split | with_reducible refine Keeps2.mk ?_)

theorem execRailFault_keeps {κ : Scope} {u : State} (s : State) (h : Keeps κ u s) : KeepsO κ u (execRailFault s) := by
  unfold execRailFault
  repeat' (first
      | with_reducible exact h | with_reducible assumption | with_reducible refine Keeps.ite ?_ ?_
      | with_reducible refine KeepsO.ite ?_ ?_ | with_reducible refine KeepsO.next ?_ | with_reducible exact KeepsO.refused _
      | (with_reducible refine Keeps.foldl ?_ ?_; rotate_left; intro _ _ _)
      | (with_reducible refine Keeps1.foldl ?_ ?_; rotate_left; intro _ _ _)
      | (with_reducible refine Keeps2.foldl ?_ ?_; rotate_left; intro _ _ _) | with_reducible apply updSup_keeps
      | with_reducible apply record_keeps | with_reducible apply rejectBoost_keeps | extract_lets | with_reducible intro _ | split)

theorem execRailFaultClear_keeps {κ : Scope} {u : State} (s : State) (h : Keeps κ u s) : KeepsO κ u (execRailFaultClear s) := by
  unfold execRailFaultClear
  repeat' (first
      | with_reducible exact h | with_reducible assumption | with_reducible refine Keeps.ite ?_ ?_
      | with_reducible refine KeepsO.ite ?_ ?_ | with_reducible refine KeepsO.next ?_ | with_reducible exact KeepsO.refused _
      | with_reducible apply freeInt_keeps | with_reducible apply updSup_keeps | with_reducible apply record_keeps
      | with_reducible refine Keeps2.snd ?_ | with_reducible refine Keeps2.of_eq (by assumption) ?_
      | with_reducible refine Keeps2.ite ?_ ?_ | extract_lets | with_reducible intro _ | split | with_reducible refine Keeps2.mk ?_)

theorem execPvRegulationPeriod_keeps {κ : Scope} {u : State} (x : PvIn) (s : State) (h : Keeps κ u s) : KeepsO κ u (execPvRegulationPeriod x s) := by
  unfold execPvRegulationPeriod
  repeat' (first
      | with_reducible exact h | with_reducible assumption | with_reducible refine Keeps.ite ?_ ?_
      | with_reducible refine KeepsO.ite ?_ ?_ | with_reducible refine KeepsO.next ?_ | with_reducible exact KeepsO.refused _
      | with_reducible refine updValve_keeps ?_ _ (by rfl) | with_reducible intro _ | split)

theorem afterBoost_keeps {κ : Scope} {u : State} (n time : Nat) (s : State) (h : Keeps κ u s) : Keeps κ u (afterBoost n time s) := by
  unfold afterBoost
  repeat' (first
      | with_reducible exact h | with_reducible assumption | with_reducible refine Keeps.ite ?_ ?_ | with_reducible apply enterPhase_keeps
      | with_reducible intro _ | split)

theorem execSvBoostEnd_keeps {κ : Scope} {u : State} (n time : Nat) (s : State) (h : Keeps κ u s) : KeepsO κ u (execSvBoostEnd n time s) := by
  unfold execSvBoostEnd
  repeat' (first
      | with_reducible exact h | with_reducible assumption | with_reducible refine Keeps.ite ?_ ?_
      | with_reducible refine KeepsO.ite ?_ ?_ | with_reducible refine KeepsO.next ?_ | with_reducible exact KeepsO.refused _
      | with_reducible apply withUnit_keeps | with_reducible apply afterBoost_keeps | with_reducible apply updCh_keeps
      | with_reducible intro _ | split)

theorem execBoostTimeout_keeps {κ : Scope} {u : State} (n mA : Nat) (s : State) (h : Keeps κ u s) : KeepsO κ u (execBoostTimeout n mA s) := by
  unfold execBoostTimeout
  repeat' (first
      | with_reducible exact h | with_reducible assumption | with_reducible refine Keeps.ite ?_ ?_
      | with_reducible refine KeepsO.ite ?_ ?_ | with_reducible refine KeepsO.next ?_ | with_reducible exact KeepsO.refused _
      | with_reducible apply withUnit_keeps | with_reducible apply updCh_keeps | with_reducible apply afterBoost_keeps
      | with_reducible apply record_keeps | extract_lets | with_reducible intro _ | split)

theorem execSvPeakEnd_keeps {κ : Scope} {u : State} (n : Nat) (s : State) (h : Keeps κ u s) : KeepsO κ u (execSvPeakEnd n s) := by
  unfold execSvPeakEnd
  repeat' (first
      | with_reducible exact h | with_reducible assumption | with_reducible refine Keeps.ite ?_ ?_
      | with_reducible refine KeepsO.ite ?_ ?_ | with_reducible refine KeepsO.next ?_ | with_reducible exact KeepsO.refused _
      | with_reducible apply withUnit_keeps | with_reducible apply enterPhase_keeps | with_reducible intro _ | split)

theorem execSvPulseHoldExpiry_keeps {κ : Scope} {u : State} (n : Nat) (s : State) (h : Keeps κ u s) : KeepsO κ u (execSvPulseHoldExpiry n s) := by
  unfold execSvPulseHoldExpiry
  repeat' (first
      | with_reducible exact h | with_reducible assumption | with_reducible refine Keeps.ite ?_ ?_
      | with_reducible refine KeepsO.ite ?_ ?_ | with_reducible refine KeepsO.next ?_ | with_reducible exact KeepsO.refused _
      | with_reducible apply withUnit_keeps | with_reducible apply enterPhase_keeps | with_reducible intro _ | split)

theorem execSvQuenchEnd_keeps {κ : Scope} {u : State} (n : Nat) (s : State) (h : Keeps κ u s) : KeepsO κ u (execSvQuenchEnd n s) := by
  unfold execSvQuenchEnd
  repeat' (first
      | with_reducible exact h | with_reducible assumption | with_reducible refine Keeps.ite ?_ ?_
      | with_reducible refine KeepsO.ite ?_ ?_ | with_reducible refine KeepsO.next ?_ | with_reducible exact KeepsO.refused _
      | with_reducible apply withUnit_keeps | with_reducible apply enterPhase_keeps | with_reducible intro _ | split)

theorem execSvBoostGranted_keeps {κ : Scope} {u : State} (b time : Nat) (s : State) (h : Keeps κ u s) : KeepsO κ u (execSvBoostGranted b time s) := by
  unfold execSvBoostGranted
  repeat' (first
      | with_reducible exact h | with_reducible assumption | with_reducible refine Keeps.ite ?_ ?_
      | with_reducible refine KeepsO.ite ?_ ?_ | with_reducible refine KeepsO.next ?_ | with_reducible exact KeepsO.refused _
      | with_reducible apply withUnit_keeps | with_reducible apply enterPhase_keeps | with_reducible apply updSup_keeps
      | with_reducible apply updCh_keeps | with_reducible intro _ | split)

theorem execBoostRejected_keeps {κ : Scope} {u : State} (n time : Nat) (s : State) (h : Keeps κ u s) : KeepsO κ u (execBoostRejected n time s) := by
  unfold execBoostRejected
  repeat' (first
      | with_reducible exact h | with_reducible assumption | with_reducible refine Keeps.ite ?_ ?_
      | with_reducible refine KeepsO.ite ?_ ?_ | with_reducible refine KeepsO.next ?_ | with_reducible exact KeepsO.refused _
      | with_reducible apply withUnit_keeps | with_reducible apply rejectBoost_keeps | with_reducible intro _ | split)

theorem execSvThermalLimit_keeps {κ : Scope} {u : State} (n : Nat) (s : State) (h : Keeps κ u s) : KeepsO κ u (execSvThermalLimit n s) := by
  unfold execSvThermalLimit
  repeat' (first
      | with_reducible exact h | with_reducible assumption | with_reducible refine Keeps.ite ?_ ?_
      | with_reducible refine KeepsO.ite ?_ ?_ | with_reducible refine KeepsO.next ?_ | with_reducible exact KeepsO.refused _
      | with_reducible apply withUnit_keeps | with_reducible apply chanFault_keeps | with_reducible intro _ | split)

theorem execOverlapCheck_keeps {κ : Scope} {u : State} (n mean : Nat) (s : State) (h : Keeps κ u s) : KeepsO κ u (execOverlapCheck n mean s) := by
  unfold execOverlapCheck
  repeat' (first
      | with_reducible exact h | with_reducible assumption | with_reducible refine Keeps.ite ?_ ?_
      | with_reducible refine KeepsO.ite ?_ ?_ | with_reducible refine KeepsO.next ?_ | with_reducible exact KeepsO.refused _
      | with_reducible apply withUnit_keeps | with_reducible apply updCh_keeps | with_reducible refine updBank_keeps _ _ _ ?_
      | with_reducible apply refreshHead_keeps | with_reducible apply record_keeps | extract_lets | with_reducible intro _ | split)

theorem execMoveDetect_keeps {κ : Scope} {u : State} (n : Nat) (moveTime : Option Nat) (s : State) (h : Keeps κ u s) : KeepsO κ u (execMoveDetect n moveTime s) := by
  unfold execMoveDetect
  repeat' (first
      | with_reducible exact h | with_reducible assumption | with_reducible refine Keeps.ite ?_ ?_
      | with_reducible refine KeepsO.ite ?_ ?_ | with_reducible refine KeepsO.next ?_ | with_reducible exact KeepsO.refused _
      | with_reducible apply withUnit_keeps | with_reducible apply updCh_keeps | with_reducible apply record_keeps | extract_lets
      | with_reducible intro _ | split)

theorem pvThermal_keeps {κ : Scope} {u : State} (n : Nat) (s : State) (h : Keeps κ u s) : Keeps κ u (pvThermal n s) := by
  unfold pvThermal
  repeat' (first
      | with_reducible exact h | with_reducible assumption | with_reducible refine Keeps.ite ?_ ?_ | with_reducible apply chanFault_keeps
      | extract_lets | with_reducible intro _ | split)

theorem execCoilTempUpdate_keeps {κ : Scope} {u : State} (n : Nat) (res : Option Nat) (relaxed : Int) (s : State) (h : Keeps κ u s) : KeepsO κ u (execCoilTempUpdate n res relaxed s) := by
  unfold execCoilTempUpdate
  repeat' (first
      | with_reducible exact h | with_reducible assumption | with_reducible refine Keeps.ite ?_ ?_
      | with_reducible refine KeepsO.ite ?_ ?_ | with_reducible refine KeepsO.next ?_ | with_reducible exact KeepsO.refused _
      | with_reducible apply withUnit_keeps | with_reducible apply pvThermal_keeps | with_reducible apply updCh_keeps
      | with_reducible refine updBank_keeps _ _ _ ?_ | extract_lets | with_reducible intro _ | split)

theorem updSent_keeps {κ : Scope} {u : State} (s : State) (i : Nat) (f : Sent → Sent) (h : Keeps κ u s) : Keeps κ u (State.updSent s i f) := by
  unfold State.updSent
  repeat' (first
      | with_reducible exact h | with_reducible assumption | with_reducible refine Keeps.ite ?_ ?_ | with_reducible apply updSens_keeps
      | with_reducible intro _ | split)

theorem execSentFrame_keeps {κ : Scope} {u : State} (i : Nat) (frame : SentFrame) (s : State) (h : Keeps κ u s) : KeepsO κ u (execSentFrame i frame s) := by
  unfold execSentFrame
  repeat' (first
      | with_reducible exact h | with_reducible assumption | with_reducible refine Keeps.ite ?_ ?_
      | with_reducible refine KeepsE.ite ?_ ?_ | with_reducible refine KeepsE.ok ?_ | with_reducible exact KeepsE.error _
      | with_reducible refine KeepsO.ite ?_ ?_ | with_reducible refine KeepsO.next ?_ | with_reducible exact KeepsO.refused _
      | with_reducible apply withUnit_keeps | with_reducible apply updSent_keeps | extract_lets | with_reducible intro _ | split)

theorem execSentTimeout_keeps {κ : Scope} {u : State} (i : Nat) (s : State) (h : Keeps κ u s) : KeepsO κ u (execSentTimeout i s) := by
  unfold execSentTimeout
  repeat' (first
      | with_reducible exact h | with_reducible assumption | with_reducible refine Keeps.ite ?_ ?_
      | with_reducible refine KeepsO.ite ?_ ?_ | with_reducible refine KeepsO.next ?_ | with_reducible exact KeepsO.refused _
      | with_reducible apply withUnit_keeps | with_reducible apply updSent_keeps | with_reducible intro _ | split)

theorem execStuck_keeps {κ : Scope} {u : State} (n targetChange travel : Nat) (s : State) (h : Keeps κ u s) : KeepsO κ u (execStuck n targetChange travel s) := by
  unfold execStuck
  repeat' (first
      | with_reducible exact h | with_reducible assumption | with_reducible refine Keeps.ite ?_ ?_
      | with_reducible refine KeepsO.ite ?_ ?_ | with_reducible refine KeepsO.next ?_ | with_reducible exact KeepsO.refused _
      | with_reducible apply withUnit_keeps | with_reducible apply updCh_keeps | with_reducible apply record_keeps | extract_lets
      | with_reducible intro _ | split)

theorem chanStop_keeps {κ : Scope} {u : State} (n : Nat) (s : State) (h : Keeps κ u s) : Keeps κ u (chanStop n s) := by
  unfold chanStop
  repeat' (first
      | with_reducible exact h | with_reducible assumption | with_reducible refine Keeps.ite ?_ ?_ | with_reducible apply updCh_keeps
      | with_reducible apply svFollow_keeps | with_reducible intro _ | split)

theorem execValveOvercurrent_keeps {κ : Scope} {u : State} (n : Nat) (s : State) (h : Keeps κ u s) : KeepsO κ u (execValveOvercurrent n s) := by
  unfold execValveOvercurrent
  repeat' (first
      | with_reducible exact h | with_reducible assumption | with_reducible refine Keeps.ite ?_ ?_
      | with_reducible refine KeepsO.ite ?_ ?_ | with_reducible refine KeepsO.next ?_ | with_reducible exact KeepsO.refused _
      | with_reducible apply withUnit_keeps | with_reducible apply chanFault_keeps | with_reducible apply chanStop_keeps
      | with_reducible apply forceChan_keeps | with_reducible apply disengage_keeps | extract_lets | with_reducible intro _ | split)

theorem bankRecord_keeps {κ : Scope} {u : State} (b : Nat) (raised : Bool) (s : State) (h : Keeps κ u s) : Keeps κ u (bankRecord b raised s) :=
  record_keeps _ _ h

theorem execValveTripRetry_keeps {κ : Scope} {u : State} (n : Nat) (s : State) (h : Keeps κ u s) : KeepsO κ u (execValveTripRetry n s) := by
  unfold execValveTripRetry
  repeat' (first
      | with_reducible exact h | with_reducible assumption | with_reducible refine Keeps.ite ?_ ?_
      | with_reducible refine KeepsO.ite ?_ ?_ | with_reducible refine KeepsO.next ?_ | with_reducible exact KeepsO.refused _
      | (with_reducible refine Keeps.foldl ?_ ?_; rotate_left; intro _ _ _)
      | (with_reducible refine Keeps1.foldl ?_ ?_; rotate_left; intro _ _ _)
      | (with_reducible refine Keeps2.foldl ?_ ?_; rotate_left; intro _ _ _) | with_reducible apply withUnit_keeps
      | with_reducible apply chanFault_keeps | with_reducible apply bankRecord_keeps | with_reducible apply svFollow_keeps | with_reducible refine updBank_keeps _ _ _ ?_
      | extract_lets | with_reducible intro _ | split)

theorem latchBank_keeps {κ : Scope} {u : State} (b : Nat) (s : State) (h : Keeps κ u s) : Keeps κ u (latchBank b s) := by
  unfold latchBank
  repeat' (first
      | with_reducible exact h | with_reducible assumption | with_reducible refine Keeps.ite ?_ ?_ | with_reducible apply forceBank_keeps
      | with_reducible apply bankOff_keeps | with_reducible refine updBank_keeps _ _ _ ?_ | with_reducible intro _ | split)

theorem execHighSideTrip_keeps {κ : Scope} {u : State} (b : Nat) (s : State) (h : Keeps κ u s) : KeepsO κ u (execHighSideTrip b s) := by
  unfold execHighSideTrip
  repeat' (first
      | with_reducible exact h | with_reducible assumption | with_reducible refine Keeps.ite ?_ ?_
      | with_reducible refine KeepsO.ite ?_ ?_ | with_reducible refine KeepsO.next ?_ | with_reducible exact KeepsO.refused _
      | (with_reducible refine Keeps.foldl ?_ ?_; rotate_left; intro _ _ _)
      | (with_reducible refine Keeps1.foldl ?_ ?_; rotate_left; intro _ _ _)
      | (with_reducible refine Keeps2.foldl ?_ ?_; rotate_left; intro _ _ _) | with_reducible apply withUnit_keeps
      | with_reducible refine updBank_keeps _ _ _ ?_ | with_reducible apply chanStop_keeps | with_reducible apply bankRecord_keeps
      | with_reducible apply latchBank_keeps | extract_lets | with_reducible intro _ | split)

theorem uncommand_keeps {κ : Scope} {u : State} (n : Nat) (s : State) (h : Keeps κ u s) : Keeps κ u (uncommand n s) := by
  unfold uncommand
  repeat' (first
      | with_reducible exact h | with_reducible assumption | with_reducible refine Keeps.ite ?_ ?_ | with_reducible apply latchBank_keeps
      | with_reducible apply chanFault_keeps | with_reducible intro _ | split)

theorem execUncommandedCurrent_keeps {κ : Scope} {u : State} (n : Nat) (s : State) (h : Keeps κ u s) : KeepsO κ u (execUncommandedCurrent n s) := by
  unfold execUncommandedCurrent
  repeat' (first
      | with_reducible exact h | with_reducible assumption | with_reducible refine Keeps.ite ?_ ?_
      | with_reducible refine KeepsO.ite ?_ ?_ | with_reducible refine KeepsO.next ?_ | with_reducible exact KeepsO.refused _
      | with_reducible apply withUnit_keeps | with_reducible apply uncommand_keeps | with_reducible intro _ | split)

theorem execOffStateTest_keeps {κ : Scope} {u : State} (n : Nat) (result : OffTest) (s : State) (h : Keeps κ u s) : KeepsO κ u (execOffStateTest n result s) := by
  unfold execOffStateTest
  repeat' (first
      | with_reducible exact h | with_reducible assumption | with_reducible refine Keeps.ite ?_ ?_
      | with_reducible refine KeepsO.ite ?_ ?_ | with_reducible refine KeepsO.next ?_ | with_reducible exact KeepsO.refused _
      | with_reducible apply withUnit_keeps | with_reducible apply updCh_keeps | with_reducible apply refreshHead_keeps
      | with_reducible apply chanFault_keeps | with_reducible apply uncommand_keeps | extract_lets | with_reducible intro _ | split)

theorem execOpenLoadDriven_keeps {κ : Scope} {u : State} (n : Nat) (set : Bool) (s : State) (h : Keeps κ u s) : KeepsO κ u (execOpenLoadDriven n set s) := by
  unfold execOpenLoadDriven
  repeat' (first
      | with_reducible exact h | with_reducible assumption | with_reducible refine Keeps.ite ?_ ?_
      | with_reducible refine KeepsO.ite ?_ ?_ | with_reducible refine KeepsO.next ?_ | with_reducible exact KeepsO.refused _
      | with_reducible apply withUnit_keeps | with_reducible apply refreshHead_keeps | with_reducible apply chanFault_keeps
      | with_reducible apply disengage_keeps | extract_lets | with_reducible intro _ | split)

theorem execShortedCoil_keeps {κ : Scope} {u : State} (n : Nat) (s : State) (h : Keeps κ u s) : KeepsO κ u (execShortedCoil n s) := by
  unfold execShortedCoil
  repeat' (first
      | with_reducible exact h | with_reducible assumption | with_reducible refine Keeps.ite ?_ ?_
      | with_reducible refine KeepsO.ite ?_ ?_ | with_reducible refine KeepsO.next ?_ | with_reducible exact KeepsO.refused _
      | with_reducible apply withUnit_keeps | with_reducible apply forceChan_keeps | with_reducible apply chanStop_keeps
      | with_reducible apply chanFault_keeps | with_reducible intro _ | split)

theorem execValveOvertempStage_keeps {κ : Scope} {u : State} (n : Nat) (high : Bool) (s : State) (h : Keeps κ u s) : KeepsO κ u (execValveOvertempStage n high s) := by
  unfold execValveOvertempStage
  repeat' (first
      | with_reducible exact h | with_reducible assumption | with_reducible refine Keeps.ite ?_ ?_
      | with_reducible refine KeepsO.ite ?_ ?_ | with_reducible refine KeepsO.next ?_ | with_reducible exact KeepsO.refused _
      | with_reducible apply withUnit_keeps | with_reducible apply chanFault_keeps | with_reducible apply chanStop_keeps
      | with_reducible apply svFollow_keeps | with_reducible apply disengage_keeps | extract_lets | with_reducible intro _ | split)

theorem faultCommand_keeps {κ : Scope} {u : State} (n : Nat) (s : State) (h : Keeps κ u s) : KeepsE κ u (faultCommand n s) := by
  unfold faultCommand
  repeat' (first
      | with_reducible exact h | with_reducible assumption | with_reducible refine Keeps.ite ?_ ?_
      | with_reducible refine KeepsE.ite ?_ ?_ | with_reducible refine KeepsE.ok ?_ | with_reducible exact KeepsE.error _
      | with_reducible apply refreshHead_keeps | with_reducible apply chanFault_keeps | extract_lets | with_reducible intro _ | split)

theorem bankCommand_keeps {κ : Scope} {u : State} (b : Nat) (s : State) (h : Keeps κ u s) : KeepsE κ u (bankCommand b s) := by
  unfold bankCommand
  refine KeepsE.ite (KeepsE.ok h) (KeepsE.ite (KeepsE.error _) ?_)
  extract_lets s1 s2
  have h2 : Keeps κ u s2 := Keeps.foldl (updBank_keeps _ _ _ h) fun t n k => Keeps.ite (chanFault_keeps _ _ _ _ k) k
  clear_value s2
  refine KeepsE.ok ?_
  split
  · exact bankGrant_keeps _ _ (by assumption) h2
  · exact h2

theorem execValveGuardExpiry_keeps {κ : Scope} {u : State} (b : Nat) (s : State) (h : Keeps κ u s) : KeepsO κ u (execValveGuardExpiry b s) := by
  unfold execValveGuardExpiry
  repeat' (first
      | with_reducible exact h | with_reducible assumption | with_reducible refine Keeps.ite ?_ ?_
      | with_reducible refine KeepsO.ite ?_ ?_ | with_reducible refine KeepsO.next ?_ | with_reducible exact KeepsO.refused _
      | (with_reducible refine Keeps.foldl ?_ ?_; rotate_left; intro _ _ _)
      | (with_reducible refine Keeps1.foldl ?_ ?_; rotate_left; intro _ _ _)
      | (with_reducible refine Keeps2.foldl ?_ ?_; rotate_left; intro _ _ _) | with_reducible apply withUnit_keeps
      | with_reducible refine updBank_keeps _ _ _ ?_ | with_reducible apply setCommand_keeps | with_reducible apply forceBank_keeps
      | with_reducible apply record_keeps | extract_lets | with_reducible intro _ | split)

theorem execValveGuardEnd_keeps {κ : Scope} {u : State} (b : Nat) (s : State) (h : Keeps κ u s) : KeepsO κ u (execValveGuardEnd b s) := by
  unfold execValveGuardEnd
  repeat' (first
      | with_reducible exact h | with_reducible assumption | with_reducible refine Keeps.ite ?_ ?_
      | with_reducible refine KeepsO.ite ?_ ?_ | with_reducible refine KeepsO.next ?_ | with_reducible exact KeepsO.refused _
      | (with_reducible refine Keeps.foldl ?_ ?_; rotate_left; intro _ _ _)
      | (with_reducible refine Keeps1.foldl ?_ ?_; rotate_left; intro _ _ _)
      | (with_reducible refine Keeps2.foldl ?_ ?_; rotate_left; intro _ _ _) | with_reducible apply withUnit_keeps
      | with_reducible refine updBank_keeps _ _ _ ?_ | with_reducible apply setCommand_keeps | extract_lets | with_reducible intro _
      | split)

theorem supplyFrame_keeps {κ : Scope} {u : State} (s : State) (h : Keeps κ u s) : Keeps κ u (supplyFrame s) := by
  unfold supplyFrame
  repeat' (first
      | with_reducible exact h | with_reducible assumption | with_reducible refine Keeps.ite ?_ ?_
      | with_reducible refine updValve_keeps ?_ _ (by rfl) | with_reducible intro _ | split)

theorem getD_mapIdx {α : Type} {l : List α} {d : α} {b : Nat} {f : Nat → α → α} {p : α → Prop} (k : ∀ i x, p (f i x) → p x)
    (h : p ((l.mapIdx f).getD b d)) : p (l.getD b d) := by
  simp only [List.getD_eq_getElem?_getD, List.getElem?_mapIdx] at h ⊢
  cases e : l[b]? with
  | none => simpa [e] using h
  | some x => exact k b x (by simpa [e] using h)

theorem valveFrame_keeps {κ : Scope} {u : State} (s : State) (h : Keeps κ u s) : Keeps κ u (valveFrame s) := by
  unfold valveFrame
  extract_lets s1 s2 one
  have h2 : Keeps κ u s2 := Keeps.foldl (supplyFrame_keeps _ h) fun t n k => setCommand_keeps _ _ _ k
  have k : ∀ i x, (one i x).enable = true → x.enable = true := fun i x e => by
    simp only [one] at e
    split at e <;> exact e
  clear_value one s2
  exact bank_keeps h2 _ fun b e => getD_mapIdx (p := fun x : VBank => x.enable = true) k e

theorem testCommand_keeps {κ : Scope} {u : State} (w : Ctx) (n : Nat) (v : Nat) (s : State) (h : Keeps κ u s) : KeepsE κ u (testCommand w n v s) := by
  unfold testCommand
  repeat' (first
      | with_reducible exact h | with_reducible assumption | with_reducible refine Keeps.ite ?_ ?_
      | with_reducible refine KeepsE.ite ?_ ?_ | with_reducible refine KeepsE.ok ?_ | with_reducible exact KeepsE.error _
      | with_reducible apply setCommand_keeps | with_reducible intro _ | split)

theorem execTestCommandTimeout_keeps {κ : Scope} {u : State} (n : Nat) (s : State) (h : Keeps κ u s) : KeepsO κ u (execTestCommandTimeout n s) := by
  unfold execTestCommandTimeout
  repeat' (first
      | with_reducible exact h | with_reducible assumption | with_reducible refine Keeps.ite ?_ ?_
      | with_reducible refine KeepsO.ite ?_ ?_ | with_reducible refine KeepsO.next ?_ | with_reducible exact KeepsO.refused _
      | with_reducible apply withUnit_keeps | with_reducible apply setCommand_keeps | with_reducible intro _ | split)

theorem endTests_keeps {κ : Scope} {u : State} (p : Nat × Nat → Bool) (s : State) (h : Keeps κ u s) : Keeps κ u (endTests p s) := by
  unfold endTests
  repeat' (first
      | with_reducible exact h | with_reducible assumption | with_reducible refine Keeps.ite ?_ ?_
      | (with_reducible refine Keeps.foldl ?_ ?_; rotate_left; intro _ _ _)
      | (with_reducible refine Keeps1.foldl ?_ ?_; rotate_left; intro _ _ _)
      | (with_reducible refine Keeps2.foldl ?_ ?_; rotate_left; intro _ _ _) | with_reducible apply setCommand_keeps
      | with_reducible intro _ | split)

theorem testsEnd_keeps {κ : Scope} {u : State} (sess : Nat) (s : State) (h : Keeps κ u s) : Keeps κ u (testsEnd sess s) := by
  unfold testsEnd
  repeat' (first
      | with_reducible exact h | with_reducible assumption | with_reducible refine Keeps.ite ?_ ?_ | with_reducible apply endTests_keeps
      | with_reducible intro _ | split)

theorem allTestsEnd_keeps {κ : Scope} {u : State} (s : State) (h : Keeps κ u s) : Keeps κ u (allTestsEnd s) := by
  unfold allTestsEnd
  repeat' (first
      | with_reducible exact h | with_reducible assumption | with_reducible refine Keeps.ite ?_ ?_ | with_reducible apply endTests_keeps
      | with_reducible intro _ | split)

theorem valveWrite_keeps {κ : Scope} {u : State} (w : Ctx) (i sub : Nat) (v : Val) (s : State) (h : Keeps κ u s) : KeepsE κ u (valveWrite w i sub v s) := by
  unfold valveWrite
  repeat' (first
      | with_reducible exact h | with_reducible assumption | with_reducible refine Keeps.ite ?_ ?_
      | with_reducible refine KeepsE.ite ?_ ?_ | with_reducible refine KeepsE.ok ?_ | with_reducible exact KeepsE.error _
      | with_reducible apply checked_keeps | with_reducible apply faultCommand_keeps | with_reducible apply testCommand_keeps
      | with_reducible apply put_keeps | with_reducible apply bankCommand_keeps | with_reducible apply updSent_keeps
      | with_reducible refine KeepsE.of_eq (by assumption) ?_ | extract_lets | with_reducible intro _ | split)

theorem execValveFaultCommand_keeps {κ : Scope} {u : State} (sess n : Nat) (v : Int) (s : State) (h : Keeps κ u s) : KeepsO κ u (execValveFaultCommand sess n v s) := by
  unfold execValveFaultCommand
  repeat' (first
      | with_reducible exact h | with_reducible assumption | with_reducible refine Keeps.ite ?_ ?_
      | with_reducible refine KeepsO.ite ?_ ?_ | with_reducible refine KeepsO.next ?_ | with_reducible exact KeepsO.refused _
      | with_reducible apply asSession_keeps | with_reducible apply valveWrite_keeps | with_reducible apply withUnit_keeps
      | with_reducible refine KeepsE.of_eq (by assumption) ?_ | with_reducible intro _ | split)

theorem execBankCommand_keeps {κ : Scope} {u : State} (sess b : Nat) (v : Int) (s : State) (h : Keeps κ u s) : KeepsO κ u (execBankCommand sess b v s) := by
  unfold execBankCommand
  repeat' (first
      | with_reducible exact h | with_reducible assumption | with_reducible refine Keeps.ite ?_ ?_
      | with_reducible refine KeepsO.ite ?_ ?_ | with_reducible refine KeepsO.next ?_ | with_reducible exact KeepsO.refused _
      | with_reducible apply asSession_keeps | with_reducible apply valveWrite_keeps | with_reducible apply withUnit_keeps
      | with_reducible refine KeepsE.of_eq (by assumption) ?_ | with_reducible intro _ | split)

theorem execTestCommand_keeps {κ : Scope} {u : State} (sess n : Nat) (v : Int) (s : State) (h : Keeps κ u s) : KeepsO κ u (execTestCommand sess n v s) := by
  unfold execTestCommand
  repeat' (first
      | with_reducible exact h | with_reducible assumption | with_reducible refine Keeps.ite ?_ ?_
      | with_reducible refine KeepsO.ite ?_ ?_ | with_reducible refine KeepsO.next ?_ | with_reducible exact KeepsO.refused _
      | with_reducible apply asSession_keeps | with_reducible apply valveWrite_keeps | with_reducible apply withUnit_keeps
      | with_reducible refine KeepsE.of_eq (by assumption) ?_ | with_reducible intro _ | split)

theorem execValveConfigWrite_keeps {κ : Scope} {u : State} (sess index sub : Nat) (v : Val) (s : State) (h : Keeps κ u s) : KeepsO κ u (execValveConfigWrite sess index sub v s) := by
  unfold execValveConfigWrite
  repeat' (first
      | with_reducible exact h | with_reducible assumption | with_reducible refine Keeps.ite ?_ ?_
      | with_reducible refine KeepsO.ite ?_ ?_ | with_reducible refine KeepsO.next ?_ | with_reducible exact KeepsO.refused _
      | with_reducible apply asSession_keeps | with_reducible apply valveWrite_keeps | with_reducible apply withUnit_keeps
      | with_reducible refine KeepsE.of_eq (by assumption) ?_ | with_reducible intro _ | split)

theorem valveStart_keeps {κ : Scope} {u : State} (s : State) (h : Keeps κ u s) : Keeps κ u (valveStart s) :=
  updValve_keeps h _ rfl

theorem valveOff_keeps {κ : Scope} {u : State} (s : State) (h : Keeps κ u s) : Keeps κ u (valveOff s) := by
  unfold valveOff
  repeat' (first
      | with_reducible exact h | with_reducible assumption | with_reducible refine Keeps.ite ?_ ?_
      | (with_reducible refine Keeps.foldl ?_ ?_; rotate_left; intro _ _ _)
      | (with_reducible refine Keeps1.foldl ?_ ?_; rotate_left; intro _ _ _)
      | (with_reducible refine Keeps2.foldl ?_ ?_; rotate_left; intro _ _ _) | with_reducible apply bankOff_keeps
      | with_reducible apply updSup_keeps | with_reducible intro _ | split)

end Sys2Proof.Machine
end

