-- ==== Sys2Proof/Laws/KeepsFieldIo.lean ====
section
/-! SUPPORT. `Keeps` for the operations of Machine/FieldIo.lean. -/

namespace Sys2Proof.Machine

set_option Elab.async false

theorem updPin_keeps {κ : Scope} {u : State} (s : State) (n : Nat) (f : FPin → FPin) (h : Keeps κ u s) : Keeps κ u (State.updPin s n f) := by
  unfold State.updPin
  repeat' (first
      | with_reducible exact h | with_reducible assumption | with_reducible refine Keeps.ite ?_ ?_
      | with_reducible refine updFio_keeps ?_ _ (by rfl) | with_reducible intro _ | split)

theorem grpAt_keeps {κ : Scope} {u s : State} (g : Nat) (f : FGrp → FGrp) (F : Fio → Fio) (h : Keeps κ u s)
    (e : (F s.fio).grp = updAt s.fio.grp g f) (k : ∀ x, (f x).enable = true → x.enable = true) : Keeps κ u (s.updFio F) := by
  refine grp_keeps h _ fun b n => ?_
  rw [e] at n
  exact getD_modify (p := fun x : FGrp => x.enable = true) k n

/-- An update of a group that grants no enable. -/
theorem updGrp_keeps {κ : Scope} {u : State} (s : State) (g : Nat) (f : FGrp → FGrp) (h : Keeps κ u s)
    (k : ∀ x, (f x).enable = true → x.enable = true := by exact fun _ e => by first | exact e | cases e) : Keeps κ u (s.updGrp g f) :=
  grpAt_keeps g f _ h rfl k

theorem pinFault_keeps {κ : Scope} {u : State} (n : Nat) (raised : Bool) (f : FPin → FPin) (s : State) (h : Keeps κ u s) : Keeps κ u (pinFault n raised f s) := by
  unfold pinFault
  repeat' (first
      | with_reducible exact h | with_reducible assumption | with_reducible refine Keeps.ite ?_ ?_ | with_reducible apply updPin_keeps
      | with_reducible apply record_keeps | extract_lets | with_reducible intro _ | split)

theorem forcePin_keeps {κ : Scope} {u : State} (n : Nat) (s : State) (h : Keeps κ u s) : Keeps κ u (forcePin n s) := by
  unfold forcePin
  repeat' (first
      | with_reducible exact h | with_reducible assumption | with_reducible refine Keeps.ite ?_ ?_ | with_reducible apply forceSafe_keeps
      | with_reducible intro _ | split)

theorem forceGroup_keeps {κ : Scope} {u : State} (g : Nat) (s : State) (h : Keeps κ u s) : Keeps κ u (forceGroup g s) := by
  unfold forceGroup
  repeat' (first
      | with_reducible exact h | with_reducible assumption | with_reducible refine Keeps.ite ?_ ?_ | with_reducible apply forceSafe_keeps
      | with_reducible intro _ | split)

theorem execFieldInputChange_keeps {κ : Scope} {u : State} (n : Nat) (mV : Int) (stamp : Nat) (s : State) (h : Keeps κ u s) : KeepsO κ u (execFieldInputChange n mV stamp s) := by
  unfold execFieldInputChange
  repeat' (first
      | with_reducible exact h | with_reducible assumption | with_reducible refine Keeps.ite ?_ ?_
      | with_reducible refine KeepsO.ite ?_ ?_ | with_reducible refine KeepsO.next ?_ | with_reducible exact KeepsO.refused _
      | with_reducible apply withUnit_keeps | with_reducible apply updPin_keeps | extract_lets | with_reducible intro _ | split)

theorem restart_keeps {κ : Scope} {u : State} (g : Nat) (s : State) (h : Keeps κ u s) : Keeps κ u (restart g s) :=
  grpAt_keeps g _ _ h rfl fun _ e => e

theorem grpOff_keeps {κ : Scope} {u : State} (g : Nat) (s : State) (h : Keeps κ u s) : Keeps κ u (grpOff g s) :=
  grpAt_keeps g _ _ h rfl fun _ e => by cases e

theorem grpEnable_keeps {κ : Scope} {u : State} (g : Nat) (s : State) (may : grpMay s g = true) (h : Keeps κ u s) :
    Keeps κ u (grpOn g s) := by
  refine power_keeps h _ ⟨rfl, rfl, .inl ?_, .inl⟩
  simp only [grpMay, Bool.and_eq_true, Bool.or_eq_true, decide_eq_true_eq] at may
  exact ⟨may.1.1.1.1, may.1.1.1.2⟩

theorem grpGrant_keeps {κ : Scope} {u : State} (g : Nat) (s : State) (may : grpMay s g = true) (h : Keeps κ u s) : Keeps κ u (grpGrant g s) :=
  restart_keeps _ _ (grpEnable_keeps _ _ may h)

theorem execGroupEnable_keeps {κ : Scope} {u : State} (g : Nat) (grant : Bool) (s : State) (h : Keeps κ u s) : KeepsO κ u (execGroupEnable g grant s) := by
  refine withUnit_keeps (Keeps.ite ?_ (Keeps.ite (grpOff_keeps _ _ h) h))
  split
  · rename_i e
    exact grpGrant_keeps _ _ (by simp only [Bool.and_eq_true] at e; exact e.1) h
  · exact h

theorem grpUnfed_keeps {κ : Scope} {u : State} (g : Nat) (s : State) (h : Keeps κ u s) : Keeps κ u (grpUnfed g s) :=
  updGrp_keeps _ _ _ (grpOff_keeps _ _ h)

theorem enterLow_keeps {κ : Scope} {u : State} (g mV : Nat) (s : State) (h : Keeps κ u s) : Keeps κ u (enterLow g mV s) :=
  record_keeps _ _ (updGrp_keeps _ _ _ h)

theorem execGroupSupplyLow_keeps {κ : Scope} {u : State} (g : Nat) (low : Bool) (mV : Nat) (s : State) (h : Keeps κ u s) : KeepsO κ u (execGroupSupplyLow g low mV s) := by
  unfold execGroupSupplyLow
  repeat' (first
      | with_reducible exact h | with_reducible assumption | with_reducible refine Keeps.ite ?_ ?_
      | with_reducible refine KeepsO.ite ?_ ?_ | with_reducible refine KeepsO.next ?_ | with_reducible exact KeepsO.refused _
      | with_reducible apply withUnit_keeps | with_reducible refine updGrp_keeps _ _ _ ?_ | with_reducible apply record_keeps | with_reducible apply enterLow_keeps
      | extract_lets | with_reducible intro _ | split)

theorem execGroupSupplyMissing_keeps {κ : Scope} {u : State} (g : Nat) (high : Bool) (mV : Nat) (s : State) (h : Keeps κ u s) : KeepsO κ u (execGroupSupplyMissing g high mV s) := by
  unfold execGroupSupplyMissing
  repeat' (first
      | with_reducible exact h | with_reducible assumption | with_reducible refine Keeps.ite ?_ ?_
      | with_reducible refine KeepsO.ite ?_ ?_ | with_reducible refine KeepsO.next ?_ | with_reducible exact KeepsO.refused _
      | with_reducible apply withUnit_keeps | with_reducible refine updGrp_keeps _ _ _ ?_ | with_reducible apply record_keeps
      | with_reducible apply grpUnfed_keeps | with_reducible apply takeover_keeps | extract_lets | with_reducible intro _ | split)

theorem leaveMissing_keeps {κ : Scope} {u : State} (g : Nat) (s : State) (h : Keeps κ u s) : Keeps κ u (leaveMissing g s) := by
  unfold leaveMissing
  repeat' (first
      | with_reducible exact h | with_reducible assumption | with_reducible refine Keeps.ite ?_ ?_
      | with_reducible refine updGrp_keeps _ _ _ ?_ | with_reducible apply record_keeps | with_reducible apply enterLow_keeps | extract_lets | with_reducible intro _ | split)

theorem leaveOver_keeps {κ : Scope} {u : State} (g : Nat) (s : State) (h : Keeps κ u s) : Keeps κ u (leaveOver g s) := by
  unfold leaveOver
  repeat' (first
      | with_reducible exact h | with_reducible assumption | with_reducible refine Keeps.ite ?_ ?_
      | with_reducible refine updGrp_keeps _ _ _ ?_ | with_reducible apply record_keeps | extract_lets | with_reducible intro _ | split)

theorem condFrame_keeps {κ : Scope} {u : State} (g : Nat) (s : State) (h : Keeps κ u s) : Keeps κ u (condFrame g s) := by
  unfold condFrame
  repeat' (first
      | with_reducible exact h | with_reducible assumption | with_reducible refine Keeps.ite ?_ ?_
      | with_reducible apply leaveMissing_keeps | with_reducible apply leaveOver_keeps | extract_lets | with_reducible intro _ | split)

theorem execGroupRestoreStart_keeps {κ : Scope} {u : State} (g : Nat) (s : State) (h : Keeps κ u s) : KeepsO κ u (execGroupRestoreStart g s) := by
  refine withUnit_keeps (Keeps.ite h (restart_keeps _ _ ?_))
  have k := leaveOver_keeps g _ (leaveMissing_keeps g s h)
  split
  · exact grpEnable_keeps _ _ (by assumption) k
  · exact k

theorem execGroupRestoreSlot_keeps {κ : Scope} {u : State} (g : Nat) (s : State) (h : Keeps κ u s) : KeepsO κ u (execGroupRestoreSlot g s) := by
  unfold execGroupRestoreSlot
  repeat' (first
      | with_reducible exact h | with_reducible assumption | with_reducible refine Keeps.ite ?_ ?_
      | with_reducible refine KeepsO.ite ?_ ?_ | with_reducible refine KeepsO.next ?_ | with_reducible exact KeepsO.refused _
      | with_reducible apply withUnit_keeps | with_reducible apply updPin_keeps | with_reducible refine updGrp_keeps _ _ _ ?_
      | extract_lets | with_reducible intro _ | split)

theorem execFieldOvercurrent_keeps {κ : Scope} {u : State} (n : Nat) (s : State) (h : Keeps κ u s) : KeepsO κ u (execFieldOvercurrent n s) := by
  unfold execFieldOvercurrent
  repeat' (first
      | with_reducible exact h | with_reducible assumption | with_reducible refine Keeps.ite ?_ ?_
      | with_reducible refine KeepsO.ite ?_ ?_ | with_reducible refine KeepsO.next ?_ | with_reducible exact KeepsO.refused _
      | with_reducible apply withUnit_keeps | with_reducible apply pinFault_keeps | with_reducible apply forcePin_keeps | extract_lets
      | with_reducible intro _ | split)

theorem execFieldOvertempStage_keeps {κ : Scope} {u : State} (n : Nat) (high : Bool) (s : State) (h : Keeps κ u s) : KeepsO κ u (execFieldOvertempStage n high s) := by
  unfold execFieldOvertempStage
  repeat' (first
      | with_reducible exact h | with_reducible assumption | with_reducible refine Keeps.ite ?_ ?_
      | with_reducible refine KeepsO.ite ?_ ?_ | with_reducible refine KeepsO.next ?_ | with_reducible exact KeepsO.refused _
      | with_reducible apply withUnit_keeps | with_reducible apply pinFault_keeps | with_reducible intro _ | split)

theorem execGroupOverload_keeps {κ : Scope} {u : State} (g : Nat) (s : State) (h : Keeps κ u s) : KeepsO κ u (execGroupOverload g s) := by
  unfold execGroupOverload
  repeat' (first
      | with_reducible exact h | with_reducible assumption | with_reducible refine Keeps.ite ?_ ?_
      | with_reducible refine KeepsO.ite ?_ ?_ | with_reducible refine KeepsO.next ?_ | with_reducible exact KeepsO.refused _
      | with_reducible apply withUnit_keeps | with_reducible refine updGrp_keeps _ _ _ ?_ | with_reducible apply forceGroup_keeps
      | with_reducible apply grpOff_keeps | extract_lets | with_reducible intro _ | split)

theorem execNoLoadCurrent_keeps {κ : Scope} {u : State} (n : Nat) (set : Bool) (s : State) (h : Keeps κ u s) : KeepsO κ u (execNoLoadCurrent n set s) := by
  unfold execNoLoadCurrent
  repeat' (first
      | with_reducible exact h | with_reducible assumption | with_reducible refine Keeps.ite ?_ ?_
      | with_reducible refine KeepsO.ite ?_ ?_ | with_reducible refine KeepsO.next ?_ | with_reducible exact KeepsO.refused _
      | with_reducible apply withUnit_keeps | with_reducible apply pinFault_keeps | with_reducible intro _ | split)

theorem execExternalDrive_keeps {κ : Scope} {u : State} (n : Nat) (set : Bool) (s : State) (h : Keeps κ u s) : KeepsO κ u (execExternalDrive n set s) := by
  unfold execExternalDrive
  repeat' (first
      | with_reducible exact h | with_reducible assumption | with_reducible refine Keeps.ite ?_ ?_
      | with_reducible refine KeepsO.ite ?_ ?_ | with_reducible refine KeepsO.next ?_ | with_reducible exact KeepsO.refused _
      | with_reducible apply withUnit_keeps | with_reducible apply pinFault_keeps | with_reducible intro _ | split)

theorem execPinsJoined_keeps {κ : Scope} {u : State} (m n : Nat) (followed : Bool) (s : State) (h : Keeps κ u s) : KeepsO κ u (execPinsJoined m n followed s) := by
  unfold execPinsJoined
  repeat' (first
      | with_reducible exact h | with_reducible assumption | with_reducible refine Keeps.ite ?_ ?_
      | with_reducible refine KeepsO.ite ?_ ?_ | with_reducible refine KeepsO.next ?_ | with_reducible exact KeepsO.refused _
      | with_reducible apply withUnit_keeps | with_reducible refine updFio_keeps ?_ _ (by rfl) | with_reducible apply updPin_keeps
      | with_reducible apply record_keeps | extract_lets | with_reducible intro _ | split)

theorem unjoin_keeps {κ : Scope} {u : State} (n : Nat) (s : State) (h : Keeps κ u s) : Keeps κ u (unjoin n s) := by
  unfold unjoin
  repeat' (first
      | with_reducible exact h | with_reducible assumption | with_reducible refine Keeps.ite ?_ ?_
      | with_reducible refine updFio_keeps ?_ _ (by rfl) | with_reducible intro _ | split)

theorem mapGrpPins_keeps {κ : Scope} {u : State} (g : Nat) (f : Nat → FPin → FPin) (s : State) (h : Keeps κ u s) : Keeps κ u (mapGrpPins g f s) := by
  unfold mapGrpPins
  repeat' (first
      | with_reducible exact h | with_reducible assumption | with_reducible refine Keeps.ite ?_ ?_
      | with_reducible refine updFio_keeps ?_ _ (by rfl) | extract_lets | with_reducible intro _ | split)

theorem execFieldGuardExpiry_keeps {κ : Scope} {u : State} (g : Nat) (s : State) (h : Keeps κ u s) : KeepsO κ u (execFieldGuardExpiry g s) := by
  unfold execFieldGuardExpiry
  repeat' (first
      | with_reducible exact h | with_reducible assumption | with_reducible refine Keeps.ite ?_ ?_
      | with_reducible refine KeepsO.ite ?_ ?_ | with_reducible refine KeepsO.next ?_ | with_reducible exact KeepsO.refused _
      | with_reducible apply withUnit_keeps | with_reducible refine updGrp_keeps _ _ _ ?_ | with_reducible apply mapGrpPins_keeps
      | with_reducible apply forceGroup_keeps | with_reducible apply record_keeps | extract_lets | with_reducible intro _ | split)

theorem execFieldGuardEnd_keeps {κ : Scope} {u : State} (g : Nat) (s : State) (h : Keeps κ u s) : KeepsO κ u (execFieldGuardEnd g s) := by
  unfold execFieldGuardEnd
  repeat' (first
      | with_reducible exact h | with_reducible assumption | with_reducible refine Keeps.ite ?_ ?_
      | with_reducible refine KeepsO.ite ?_ ?_ | with_reducible refine KeepsO.next ?_ | with_reducible exact KeepsO.refused _
      | with_reducible apply withUnit_keeps | with_reducible apply mapGrpPins_keeps | with_reducible refine updGrp_keeps _ _ _ ?_
      | with_reducible intro _ | split)

theorem fieldFrame_keeps {κ : Scope} {u : State} (s : State) (h : Keeps κ u s) : Keeps κ u (fieldFrame s) := by
  unfold fieldFrame
  extract_lets s1 one s2 s3
  have h1 : Keeps κ u s1 := updFio_keeps h _ rfl
  have k : ∀ i x, (one i x).enable = true → x.enable = true := fun i x e => by
    simp only [one] at e
    split at e <;> exact e
  have h2 : Keeps κ u s2 := by
    simp only [s2]
    clear_value one s1
    exact grp_keeps h1 _ fun g e => getD_mapIdx (p := fun x : FGrp => x.enable = true) k e
  clear_value s2
  have h3 : Keeps κ u s3 := Keeps.foldl h2 fun t n k => Keeps.ite (pinFault_keeps _ _ _ _ k) k
  clear_value s3
  refine Keeps.foldl h3 fun t g k => ?_
  have c := condFrame_keeps g t k
  refine Keeps.ite ?_ c
  have d : Keeps κ u ((condFrame g t).updGrp g fun y => { y with overload := false }) := updGrp_keeps _ _ _ c
  exact Keeps.ite (restart_keeps _ _ d) d

theorem fieldLatch_keeps {κ : Scope} {u : State} (latched : Bool) (s : State) (h : Keeps κ u s) : Keeps κ u (fieldLatch latched s) := by
  unfold fieldLatch
  repeat' (first
      | with_reducible exact h | with_reducible assumption | with_reducible refine Keeps.ite ?_ ?_
      | with_reducible refine updFio_keeps ?_ _ (by rfl) | with_reducible refine updValve_keeps ?_ _ (by rfl) | extract_lets
      | with_reducible intro _ | split)

theorem setPinMode_keeps {κ : Scope} {u : State} (n sub : Nat) (v : Val) (s : State) (h : Keeps κ u s) :
    Keeps κ u (setPinMode n sub v s) := by
  refine updPin_keeps _ _ _ (updGrp_keeps _ _ _ (put_keeps (unjoin_keeps _ _ h) _ _ _) fun x e => ?_)
  unfold slotAfter at e
  dsimp only at e
  repeat' (first | exact e | split at e)

theorem fioWrite_keeps {κ : Scope} {u : State} (w : Ctx) (i sub : Nat) (v : Val) (s : State) (h : Keeps κ u s) : KeepsE κ u (fioWrite w i sub v s) := by
  unfold fioWrite
  repeat' (first
      | with_reducible exact h | with_reducible assumption | with_reducible refine KeepsE.ite ?_ ?_ | with_reducible refine KeepsE.ok ?_
      | with_reducible exact KeepsE.error _ | with_reducible apply checked_keeps | with_reducible refine updGrp_keeps _ _ _ ?_
      | with_reducible apply grpGrant_keeps | with_reducible apply setPinMode_keeps | with_reducible apply put_keeps | with_reducible apply unjoin_keeps
      | with_reducible apply updPin_keeps | with_reducible apply pinFault_keeps | with_reducible refine KeepsE.of_eq (by assumption) ?_
      | extract_lets | with_reducible intro _ | split)

theorem execOutputCommandWrite_keeps {κ : Scope} {u : State} (sess n : Nat) (v : Int) (s : State) (h : Keeps κ u s) : KeepsO κ u (execOutputCommandWrite sess n v s) := by
  unfold execOutputCommandWrite
  repeat' (first
      | with_reducible exact h | with_reducible assumption | with_reducible refine Keeps.ite ?_ ?_
      | with_reducible refine KeepsO.ite ?_ ?_ | with_reducible refine KeepsO.next ?_ | with_reducible exact KeepsO.refused _
      | with_reducible apply asSession_keeps | with_reducible apply fioWrite_keeps | with_reducible apply withUnit_keeps
      | with_reducible refine KeepsE.of_eq (by assumption) ?_ | with_reducible intro _ | split)

theorem execFieldFaultCommand_keeps {κ : Scope} {u : State} (sess n : Nat) (v : Int) (s : State) (h : Keeps κ u s) : KeepsO κ u (execFieldFaultCommand sess n v s) := by
  unfold execFieldFaultCommand
  repeat' (first
      | with_reducible exact h | with_reducible assumption | with_reducible refine Keeps.ite ?_ ?_
      | with_reducible refine KeepsO.ite ?_ ?_ | with_reducible refine KeepsO.next ?_ | with_reducible exact KeepsO.refused _
      | with_reducible apply asSession_keeps | with_reducible apply fioWrite_keeps | with_reducible apply withUnit_keeps
      | with_reducible refine KeepsE.of_eq (by assumption) ?_ | with_reducible intro _ | split)

theorem execPinModeWrite_keeps {κ : Scope} {u : State} (sess n : Nat) (v : Int) (s : State) (h : Keeps κ u s) : KeepsO κ u (execPinModeWrite sess n v s) := by
  unfold execPinModeWrite
  repeat' (first
      | with_reducible exact h | with_reducible assumption | with_reducible refine Keeps.ite ?_ ?_
      | with_reducible refine KeepsO.ite ?_ ?_ | with_reducible refine KeepsO.next ?_ | with_reducible exact KeepsO.refused _
      | with_reducible apply asSession_keeps | with_reducible apply fioWrite_keeps | with_reducible apply withUnit_keeps
      | with_reducible refine KeepsE.of_eq (by assumption) ?_ | with_reducible intro _ | split)

theorem execGroupCommand_keeps {κ : Scope} {u : State} (sess g : Nat) (v : Int) (s : State) (h : Keeps κ u s) : KeepsO κ u (execGroupCommand sess g v s) := by
  unfold execGroupCommand
  repeat' (first
      | with_reducible exact h | with_reducible assumption | with_reducible refine Keeps.ite ?_ ?_
      | with_reducible refine KeepsO.ite ?_ ?_ | with_reducible refine KeepsO.next ?_ | with_reducible exact KeepsO.refused _
      | with_reducible apply asSession_keeps | with_reducible apply fioWrite_keeps | with_reducible apply withUnit_keeps
      | with_reducible refine KeepsE.of_eq (by assumption) ?_ | with_reducible intro _ | split)

theorem fioStart_keeps {κ : Scope} {u : State} (s : State) (h : Keeps κ u s) : Keeps κ u (fioStart s) :=
  grp_keeps h (fun _ => {}) fun g e => by
    rcases g with _ | _ | _ | _ | g <;> simp at e

theorem fioOff_keeps {κ : Scope} {u : State} (s : State) (h : Keeps κ u s) : Keeps κ u (fioOff s) := by
  unfold fioOff
  repeat' (first
      | with_reducible exact h | with_reducible assumption | with_reducible refine Keeps.ite ?_ ?_
      | (with_reducible refine Keeps.foldl ?_ ?_; rotate_left; intro _ _ _)
      | (with_reducible refine Keeps1.foldl ?_ ?_; rotate_left; intro _ _ _)
      | (with_reducible refine Keeps2.foldl ?_ ?_; rotate_left; intro _ _ _) | with_reducible apply grpOff_keeps | with_reducible intro _
      | split)

end Sys2Proof.Machine
end

