-- ==== Sys2Proof/Laws/KeepsCanBus.lean ====
section
/-! SUPPORT. `Keeps` for the operations of Machine/CanBus.lean. -/

namespace Sys2Proof.Machine

set_option Elab.async false

theorem updCch_keeps {κ : Scope} {u : State} (s : State) (c : Nat) (f : CanCh → CanCh) (h : Keeps κ u s) : Keeps κ u (State.updCch s c f) := by
  unfold State.updCch
  repeat' (first
      | with_reducible exact h | with_reducible assumption | with_reducible refine Keeps.ite ?_ ?_ | with_reducible apply updCan_keeps
      | with_reducible intro _ | split)

theorem updCobj_keeps {κ : Scope} {u : State} (s : State) (c j : Nat) (f : CanObj → CanObj) (h : Keeps κ u s) : Keeps κ u (State.updCobj s c j f) := by
  unfold State.updCobj
  repeat' (first
      | with_reducible exact h | with_reducible assumption | with_reducible refine Keeps.ite ?_ ?_ | with_reducible apply updCch_keeps
      | with_reducible intro _ | split)

theorem tellOwner_keeps {κ : Scope} {u : State} (c j : Nat) (stamp : Option Nat) (s : State) (h : Keeps κ u s) : Keeps κ u (tellOwner c j stamp s) := by
  unfold tellOwner
  repeat' (first
      | with_reducible exact h | with_reducible assumption | with_reducible refine Keeps.ite ?_ ?_ | with_reducible apply updWin_keeps
      | with_reducible intro _ | split)

theorem endRequest_keeps {κ : Scope} {u : State} (c j result : Nat) (stamp : Option Nat) (s : State) (h : Keeps κ u s) : Keeps κ u (endRequest c j result stamp s) := by
  unfold endRequest
  repeat' (first
      | with_reducible exact h | with_reducible assumption | with_reducible refine Keeps.ite ?_ ?_ | with_reducible apply tellOwner_keeps
      | with_reducible apply updCobj_keeps | with_reducible intro _ | split)

theorem discardAll_keeps {κ : Scope} {u : State} (c : Nat) (s : State) (h : Keeps κ u s) : Keeps κ u (discardAll c s) := by
  unfold discardAll
  repeat' (first
      | with_reducible exact h | with_reducible assumption | with_reducible refine Keeps.ite ?_ ?_
      | (with_reducible refine Keeps.foldl ?_ ?_; rotate_left; intro _ _ _)
      | (with_reducible refine Keeps1.foldl ?_ ?_; rotate_left; intro _ _ _)
      | (with_reducible refine Keeps2.foldl ?_ ?_; rotate_left; intro _ _ _) | with_reducible apply endRequest_keeps | extract_lets
      | with_reducible intro _ | split)

theorem suspend_keeps {κ : Scope} {u : State} (c j id : Nat) (s : State) (h : Keeps κ u s) : Keeps κ u (suspend c j id s) := by
  unfold suspend
  repeat' (first
      | with_reducible exact h | with_reducible assumption | with_reducible refine Keeps.ite ?_ ?_ | with_reducible apply endRequest_keeps
      | with_reducible apply updCobj_keeps | with_reducible apply updCch_keeps | with_reducible apply record_keeps | extract_lets
      | with_reducible intro _ | split)

theorem txError_keeps {κ : Scope} {u : State} (c : Nat) (s : State) (h : Keeps κ u s) : Keeps κ u (txError c s) := by
  unfold txError
  repeat' (first
      | with_reducible exact h | with_reducible assumption | with_reducible refine Keeps.ite ?_ ?_ | with_reducible apply updCch_keeps
      | with_reducible intro _ | split)

theorem refConflict_keeps {κ : Scope} {u : State} (c : Nat) (s : State) (h : Keeps κ u s) : Keeps κ u (refConflict c s) := by
  unfold refConflict
  repeat' (first
      | with_reducible exact h | with_reducible assumption | with_reducible refine Keeps.ite ?_ ?_ | with_reducible apply txError_keeps
      | with_reducible apply updCan_keeps | with_reducible apply updCch_keeps | with_reducible apply record_keeps | extract_lets
      | with_reducible intro _ | split)

theorem canTransmit_keeps {κ : Scope} {u : State} (c : Nat) (outcome : CanTxOutcome) (stamp tdc : Nat) (s : State) (h : Keeps κ u s) : Keeps κ u (canTransmit c outcome stamp tdc s) := by
  unfold canTransmit
  repeat' (first
      | with_reducible exact h | with_reducible assumption | with_reducible refine Keeps.ite ?_ ?_
      | with_reducible apply refConflict_keeps | with_reducible apply updCch_keeps | with_reducible apply endRequest_keeps
      | with_reducible apply updCobj_keeps | with_reducible apply tellOwner_keeps | with_reducible apply txError_keeps
      | with_reducible apply suspend_keeps | extract_lets | with_reducible intro _ | split)

theorem execCanFrameTransmit_keeps {κ : Scope} {u : State} (c : Nat) (outcome : CanTxOutcome) (stamp tdc : Nat) (s : State) (h : Keeps κ u s) : KeepsO κ u (execCanFrameTransmit c outcome stamp tdc s) := by
  unfold execCanFrameTransmit
  repeat' (first
      | with_reducible exact h | with_reducible assumption | with_reducible refine Keeps.ite ?_ ?_
      | with_reducible refine KeepsO.ite ?_ ?_ | with_reducible refine KeepsO.next ?_ | with_reducible exact KeepsO.refused _
      | with_reducible apply withUnit_keeps | with_reducible apply canTransmit_keeps | with_reducible intro _ | split)

theorem canReceive_keeps {κ : Scope} {u : State} (c : Nat) (f : CanFrame) (stamp : Nat) (s : State) (h : Keeps κ u s) : Keeps κ u (canReceive c f stamp s) := by
  unfold canReceive
  repeat' (first
      | with_reducible exact h | with_reducible assumption | with_reducible refine Keeps.ite ?_ ?_ | with_reducible apply updCch_keeps
      | extract_lets | with_reducible intro _ | split)

theorem execCanFrameReceive_keeps {κ : Scope} {u : State} (c : Nat) (frame : CanFrame) (stamp : Nat) (s : State) (h : Keeps κ u s) : KeepsO κ u (execCanFrameReceive c frame stamp s) := by
  unfold execCanFrameReceive
  repeat' (first
      | with_reducible exact h | with_reducible assumption | with_reducible refine Keeps.ite ?_ ?_
      | with_reducible refine KeepsO.ite ?_ ?_ | with_reducible refine KeepsO.next ?_ | with_reducible exact KeepsO.refused _
      | with_reducible apply withUnit_keeps | with_reducible apply canReceive_keeps | with_reducible intro _ | split)

theorem drainFifo_keeps {κ : Scope} {u : State} (k : Nat) (s : State) (h : Keeps κ u s) : Keeps κ u (drainFifo k s) := by
  unfold drainFifo
  repeat' (first
      | with_reducible exact h | with_reducible assumption | with_reducible refine Keeps.ite ?_ ?_ | with_reducible apply updCan_keeps
      | with_reducible intro _ | split)

theorem goBusOff_keeps {κ : Scope} {u : State} (c : Nat) (s : State) (h : Keeps κ u s) : Keeps κ u (goBusOff c s) := by
  unfold goBusOff
  repeat' (first
      | with_reducible exact h | with_reducible assumption | with_reducible refine Keeps.ite ?_ ?_ | with_reducible apply discardAll_keeps
      | with_reducible apply updCch_keeps | with_reducible apply record_keeps | with_reducible intro _ | split)

theorem rejoin_keeps {κ : Scope} {u : State} (c : Nat) (s : State) (h : Keeps κ u s) : Keeps κ u (rejoin c s) := by
  unfold rejoin
  repeat' (first
      | with_reducible exact h | with_reducible assumption | with_reducible refine Keeps.ite ?_ ?_ | with_reducible apply updCch_keeps
      | with_reducible intro _ | split)

theorem execBusOffRecovery_keeps {κ : Scope} {u : State} (c : Nat) (s : State) (h : Keeps κ u s) : KeepsO κ u (execBusOffRecovery c s) := by
  unfold execBusOffRecovery
  repeat' (first
      | with_reducible exact h | with_reducible assumption | with_reducible refine Keeps.ite ?_ ?_
      | with_reducible refine KeepsO.ite ?_ ?_ | with_reducible refine KeepsO.next ?_ | with_reducible exact KeepsO.refused _
      | with_reducible apply withUnit_keeps | with_reducible apply rejoin_keeps | with_reducible intro _ | split)

theorem execTxdTimeout_keeps {κ : Scope} {u : State} (c : Nat) (s : State) (h : Keeps κ u s) : KeepsO κ u (execTxdTimeout c s) := by
  unfold execTxdTimeout
  repeat' (first
      | with_reducible exact h | with_reducible assumption | with_reducible refine Keeps.ite ?_ ?_
      | with_reducible refine KeepsO.ite ?_ ?_ | with_reducible refine KeepsO.next ?_ | with_reducible exact KeepsO.refused _
      | with_reducible apply withUnit_keeps | with_reducible apply updCch_keeps | with_reducible intro _ | split)

theorem execProtocolException_keeps {κ : Scope} {u : State} (c : Nat) (s : State) (h : Keeps κ u s) : KeepsO κ u (execProtocolException c s) := by
  unfold execProtocolException
  repeat' (first
      | with_reducible exact h | with_reducible assumption | with_reducible refine Keeps.ite ?_ ?_
      | with_reducible refine KeepsO.ite ?_ ?_ | with_reducible refine KeepsO.next ?_ | with_reducible exact KeepsO.refused _
      | with_reducible apply withUnit_keeps | with_reducible apply updCch_keeps | with_reducible intro _ | split)

theorem objectCommand_keeps {κ : Scope} {u : State} (c v : Nat) (s : State) (h : Keeps κ u s) : KeepsE κ u (objectCommand c v s) := by
  unfold objectCommand
  repeat' (first
      | with_reducible exact h | with_reducible assumption | with_reducible refine Keeps.ite ?_ ?_
      | with_reducible refine KeepsE.ite ?_ ?_ | with_reducible refine KeepsE.ok ?_ | with_reducible exact KeepsE.error _
      | with_reducible apply updCobj_keeps | with_reducible apply rejoin_keeps | extract_lets | with_reducible intro _ | split)

theorem frameSend_keeps {κ : Scope} {u : State} (n : Nat) (r : Bytes) (s : State) (h : Keeps κ u s) : KeepsE κ u (frameSend n r s) := by
  unfold frameSend
  repeat' (first
      | with_reducible exact h | with_reducible assumption | with_reducible refine Keeps.ite ?_ ?_
      | with_reducible refine KeepsE.ite ?_ ?_ | with_reducible refine KeepsE.ok ?_ | with_reducible exact KeepsE.error _
      | with_reducible apply updCobj_keeps | with_reducible apply tellOwner_keeps | extract_lets | with_reducible intro _ | split)

theorem frameCancel_keeps {κ : Scope} {u : State} (n : Nat) (s : State) (h : Keeps κ u s) : Keeps κ u (frameCancel n s) := by
  unfold frameCancel
  repeat' (first
      | with_reducible exact h | with_reducible assumption | with_reducible refine Keeps.ite ?_ ?_ | with_reducible apply freeInt_keeps
      | with_reducible apply endRequest_keeps | with_reducible apply updCobj_keeps | with_reducible refine Keeps2.snd ?_
      | with_reducible refine Keeps2.of_eq (by assumption) ?_ | with_reducible refine Keeps2.ite ?_ ?_ | extract_lets
      | with_reducible intro _ | split | with_reducible refine Keeps2.mk ?_)

theorem canSessionEnd_keeps {κ : Scope} {u : State} (n : Nat) (s : State) (h : Keeps κ u s) : Keeps κ u (canSessionEnd n s) := by
  unfold canSessionEnd
  repeat' (first
      | with_reducible exact h | with_reducible assumption | with_reducible refine Keeps.ite ?_ ?_ | with_reducible apply updCan_keeps
      | with_reducible intro _ | split)

theorem execReferenceMessage_keeps {κ : Scope} {u : State} (sent : Bool) (stamp : Nat) (s : State) (h : Keeps κ u s) : KeepsO κ u (execReferenceMessage sent stamp s) := by
  unfold execReferenceMessage
  repeat' (first
      | with_reducible exact h | with_reducible assumption | with_reducible refine Keeps.ite ?_ ?_
      | with_reducible refine KeepsO.ite ?_ ?_ | with_reducible refine KeepsO.next ?_ | with_reducible exact KeepsO.refused _
      | with_reducible apply updCan_keeps | extract_lets | with_reducible intro _ | split)

theorem sendClaim_keeps {κ : Scope} {u : State} (k addr : Nat) (s : State) (h : Keeps κ u s) : Keeps κ u (sendClaim k addr s) := by
  unfold sendClaim
  repeat' (first
      | with_reducible exact h | with_reducible assumption | with_reducible refine Keeps.ite ?_ ?_ | with_reducible apply updCobj_keeps
      | extract_lets | with_reducible intro _ | split)

theorem updCf_keeps {κ : Scope} {u : State} (s : State) (k : Nat) (f : CanCf → CanCf) (h : Keeps κ u s) : Keeps κ u (State.updCf s k f) := by
  unfold State.updCf
  repeat' (first
      | with_reducible exact h | with_reducible assumption | with_reducible refine Keeps.ite ?_ ?_ | with_reducible apply updCan_keeps
      | with_reducible intro _ | split)

theorem execAddressClaim_keeps {κ : Scope} {u : State} (k : Nat) (outcome : ClaimOutcome) (s : State) (h : Keeps κ u s) : KeepsO κ u (execAddressClaim k outcome s) := by
  unfold execAddressClaim
  repeat' (first
      | with_reducible exact h | with_reducible assumption | with_reducible refine Keeps.ite ?_ ?_
      | with_reducible refine KeepsO.ite ?_ ?_ | with_reducible refine KeepsO.next ?_ | with_reducible exact KeepsO.refused _
      | with_reducible apply withUnit_keeps | with_reducible apply updCf_keeps | with_reducible apply sendClaim_keeps
      | with_reducible intro _ | split)

theorem execAddressReclaim_keeps {κ : Scope} {u : State} (k new : Nat) (s : State) (h : Keeps κ u s) : KeepsO κ u (execAddressReclaim k new s) := by
  unfold execAddressReclaim
  repeat' (first
      | with_reducible exact h | with_reducible assumption | with_reducible refine Keeps.ite ?_ ?_
      | with_reducible refine KeepsO.ite ?_ ?_ | with_reducible refine KeepsO.next ?_ | with_reducible exact KeepsO.refused _
      | with_reducible apply withUnit_keeps | with_reducible apply updCf_keeps | with_reducible apply updCobj_keeps
      | with_reducible apply record_keeps | extract_lets | with_reducible intro _ | split)

theorem claimFrameEnd_keeps {κ : Scope} {u : State} (s : State) (h : Keeps κ u s) : Keeps κ u (claimFrameEnd s) := by
  unfold claimFrameEnd
  repeat' (first
      | with_reducible exact h | with_reducible assumption | with_reducible refine Keeps.ite ?_ ?_
      | (with_reducible refine Keeps.foldl ?_ ?_; rotate_left; intro _ _ _)
      | (with_reducible refine Keeps1.foldl ?_ ?_; rotate_left; intro _ _ _)
      | (with_reducible refine Keeps2.foldl ?_ ?_; rotate_left; intro _ _ _) | with_reducible apply updCf_keeps
      | with_reducible apply updCobj_keeps | with_reducible intro _ | split)

theorem channelEnable_keeps {κ : Scope} {u : State} (w : Ctx) (c : Nat) (on : Bool) (s : State) (h : Keeps κ u s) : KeepsE κ u (channelEnable w c on s) := by
  unfold channelEnable
  repeat' (first
      | with_reducible exact h | with_reducible assumption | with_reducible refine Keeps.ite ?_ ?_
      | with_reducible refine KeepsE.ite ?_ ?_ | with_reducible refine KeepsE.ok ?_ | with_reducible exact KeepsE.error _
      | with_reducible apply put_keeps | with_reducible apply updCch_keeps | with_reducible apply discardAll_keeps | extract_lets
      | with_reducible intro _ | split)

theorem canWrite_keeps {κ : Scope} {u : State} (w : Ctx) (i sub : Nat) (v : Val) (s : State) (h : Keeps κ u s) : KeepsE κ u (canWrite w i sub v s) := by
  unfold canWrite
  repeat' (first
      | with_reducible exact h | with_reducible assumption | with_reducible refine Keeps.ite ?_ ?_
      | with_reducible refine KeepsE.ite ?_ ?_ | with_reducible refine KeepsE.ok ?_ | with_reducible exact KeepsE.error _
      | with_reducible apply checked_keeps | with_reducible apply channelEnable_keeps | with_reducible apply objectCommand_keeps
      | with_reducible apply put_keeps | with_reducible apply updCan_keeps | with_reducible apply updWin_keeps
      | with_reducible apply frameSend_keeps | with_reducible apply frameCancel_keeps | with_reducible apply updCf_keeps
      | with_reducible apply sendClaim_keeps | with_reducible refine KeepsE.of_eq (by assumption) ?_ | extract_lets
      | with_reducible intro _ | split)

theorem execResumeObject_keeps {κ : Scope} {u : State} (sess c obj : Nat) (s : State) (h : Keeps κ u s) : KeepsO κ u (execResumeObject sess c obj s) := by
  unfold execResumeObject
  repeat' (first
      | with_reducible exact h | with_reducible assumption | with_reducible refine Keeps.ite ?_ ?_
      | with_reducible refine KeepsO.ite ?_ ?_ | with_reducible refine KeepsO.next ?_ | with_reducible exact KeepsO.refused _
      | with_reducible apply asSession_keeps | with_reducible apply canWrite_keeps | with_reducible apply withUnit_keeps
      | with_reducible refine KeepsE.of_eq (by assumption) ?_ | with_reducible intro _ | split)

theorem execLeaveBusOff_keeps {κ : Scope} {u : State} (sess c : Nat) (s : State) (h : Keeps κ u s) : KeepsO κ u (execLeaveBusOff sess c s) := by
  unfold execLeaveBusOff
  repeat' (first
      | with_reducible exact h | with_reducible assumption | with_reducible refine Keeps.ite ?_ ?_
      | with_reducible refine KeepsO.ite ?_ ?_ | with_reducible refine KeepsO.next ?_ | with_reducible exact KeepsO.refused _
      | with_reducible apply asSession_keeps | with_reducible apply canWrite_keeps | with_reducible apply withUnit_keeps
      | with_reducible refine KeepsE.of_eq (by assumption) ?_ | with_reducible intro _ | split)

theorem execFrameSend_keeps {κ : Scope} {u : State} (sess : Nat) (rec : Bytes) (s : State) (h : Keeps κ u s) : KeepsO κ u (execFrameSend sess rec s) := by
  unfold execFrameSend
  repeat' (first
      | with_reducible exact h | with_reducible assumption | with_reducible refine Keeps.ite ?_ ?_
      | with_reducible refine KeepsO.ite ?_ ?_ | with_reducible refine KeepsO.next ?_ | with_reducible exact KeepsO.refused _
      | with_reducible apply asSession_keeps | with_reducible apply canWrite_keeps | with_reducible refine KeepsE.of_eq (by assumption) ?_
      | with_reducible intro _ | split)

theorem execFrameCancel_keeps {κ : Scope} {u : State} (sess : Nat) (v : Int) (s : State) (h : Keeps κ u s) : KeepsO κ u (execFrameCancel sess v s) := by
  unfold execFrameCancel
  repeat' (first
      | with_reducible exact h | with_reducible assumption | with_reducible refine Keeps.ite ?_ ?_
      | with_reducible refine KeepsO.ite ?_ ?_ | with_reducible refine KeepsO.next ?_ | with_reducible exact KeepsO.refused _
      | with_reducible apply asSession_keeps | with_reducible apply canWrite_keeps | with_reducible refine KeepsE.of_eq (by assumption) ?_
      | with_reducible intro _ | split)

theorem execRefResume_keeps {κ : Scope} {u : State} (sess : Nat) (v : Int) (s : State) (h : Keeps κ u s) : KeepsO κ u (execRefResume sess v s) := by
  unfold execRefResume
  repeat' (first
      | with_reducible exact h | with_reducible assumption | with_reducible refine Keeps.ite ?_ ?_
      | with_reducible refine KeepsO.ite ?_ ?_ | with_reducible refine KeepsO.next ?_ | with_reducible exact KeepsO.refused _
      | with_reducible apply asSession_keeps | with_reducible apply canWrite_keeps | with_reducible refine KeepsE.of_eq (by assumption) ?_
      | with_reducible intro _ | split)

theorem canStart_keeps {κ : Scope} {u : State} (s : State) (h : Keeps κ u s) : Keeps κ u (canStart s) := by
  unfold canStart
  repeat' (first
      | with_reducible exact h | with_reducible assumption | with_reducible refine Keeps.ite ?_ ?_
      | (with_reducible refine Keeps.foldl ?_ ?_; rotate_left; intro _ _ _)
      | (with_reducible refine Keeps1.foldl ?_ ?_; rotate_left; intro _ _ _)
      | (with_reducible refine Keeps2.foldl ?_ ?_; rotate_left; intro _ _ _) | with_reducible apply updCch_keeps
      | with_reducible apply sendClaim_keeps | extract_lets | with_reducible intro _ | split | with_reducible apply engines_keeps)

theorem canLadder_keeps {κ : Scope} {u : State} (s : State) (h : Keeps κ u s) : Keeps κ u (canLadder s) := by
  unfold canLadder
  repeat' (first
      | with_reducible exact h | with_reducible assumption | with_reducible refine Keeps.ite ?_ ?_ | with_reducible intro _ | split
      | with_reducible apply engines_keeps)

theorem canStop_keeps {κ : Scope} {u : State} (park : Bool) (s : State) (h : Keeps κ u s) : Keeps κ u (canStop park s) := by
  unfold canStop
  repeat' (first
      | with_reducible exact h | with_reducible assumption | with_reducible refine Keeps.ite ?_ ?_
      | (with_reducible refine Keeps.foldl ?_ ?_; rotate_left; intro _ _ _)
      | (with_reducible refine Keeps1.foldl ?_ ?_; rotate_left; intro _ _ _)
      | (with_reducible refine Keeps2.foldl ?_ ?_; rotate_left; intro _ _ _) | with_reducible apply discardAll_keeps
      | with_reducible apply updCch_keeps | extract_lets | with_reducible intro _ | split)

end Sys2Proof.Machine
end

