-- ==== Sys2Proof/Laws/KeepsFlowstone.lean ====
section
/-! SUPPORT. `Keeps` for the operations of Machine/Flowstone.lean. -/

namespace Sys2Proof.Machine

set_option Elab.async false

theorem execFlowstoneRecord_keeps {κ : Scope} {u : State} (ev : FlowEv) (s : State) (h : Keeps κ u s) : KeepsO κ u (execFlowstoneRecord ev s) := by
  unfold execFlowstoneRecord
  repeat' (first
      | with_reducible exact h | with_reducible assumption | with_reducible refine Keeps.ite ?_ ?_
      | with_reducible refine KeepsO.ite ?_ ?_ | with_reducible refine KeepsO.next ?_ | with_reducible exact KeepsO.refused _
      | with_reducible apply record_keeps | with_reducible intro _ | split)

theorem execSuppressionSummary_keeps {κ : Scope} {u : State} (s : State) (h : Keeps κ u s) : KeepsO κ u (execSuppressionSummary s) := by
  unfold execSuppressionSummary
  repeat' (first
      | with_reducible exact h | with_reducible assumption | with_reducible refine Keeps.ite ?_ ?_
      | with_reducible refine KeepsO.ite ?_ ?_ | with_reducible refine KeepsO.next ?_ | with_reducible exact KeepsO.refused _
      | with_reducible apply rollSecond_keeps | with_reducible intro _ | split)

theorem beginFlush_keeps {κ : Scope} {u : State} (s : State) (h : Keeps κ u s) : Keeps κ u (beginFlush s) := by
  unfold beginFlush
  exact updFlow_keeps h _ (by split <;> rfl)

theorem execFlush_keeps {κ : Scope} {u : State} (s : State) (h : Keeps κ u s) : KeepsO κ u (execFlush s) := by
  unfold execFlush
  repeat' (first
      | with_reducible exact h | with_reducible assumption | with_reducible refine Keeps.ite ?_ ?_
      | with_reducible refine KeepsO.ite ?_ ?_ | with_reducible refine KeepsO.next ?_ | with_reducible exact KeepsO.refused _
      | with_reducible apply beginFlush_keeps | with_reducible intro _ | split)

theorem reportLost_keeps {κ : Scope} {u : State} (s : State) (h : Keeps κ u s) : Keeps κ u (reportLost s) := by
  unfold reportLost
  repeat' (first
      | with_reducible exact h | with_reducible assumption | with_reducible refine Keeps.ite ?_ ?_
      | with_reducible refine updFlow_keeps ?_ _ (by rfl) | with_reducible refine fot_keeps ?_ _ (by intro _; simp)
      | with_reducible apply record_keeps | extract_lets | with_reducible intro _ | split)

theorem completeFlush_keeps {κ : Scope} {u : State} (s : State) (h : Keeps κ u s) : Keeps κ u (completeFlush s) := by
  unfold completeFlush
  repeat' (first
      | with_reducible exact h | with_reducible assumption | with_reducible refine Keeps.ite ?_ ?_
      | with_reducible refine updFlow_keeps ?_ _ (by rfl) | with_reducible refine fot_keeps ?_ _ (by intro _; simp)
      | with_reducible apply record_keeps | with_reducible apply reportLost_keeps | extract_lets | with_reducible intro _ | split)

theorem execFlushComplete_keeps {κ : Scope} {u : State} (s : State) (h : Keeps κ u s) : KeepsO κ u (execFlushComplete s) := by
  unfold execFlushComplete
  repeat' (first
      | with_reducible exact h | with_reducible assumption | with_reducible refine Keeps.ite ?_ ?_
      | with_reducible refine KeepsO.ite ?_ ?_ | with_reducible refine KeepsO.next ?_ | with_reducible exact KeepsO.refused _
      | with_reducible apply completeFlush_keeps | with_reducible intro _ | split)

theorem execFlushFailed_keeps {κ : Scope} {u : State} (error : Nat) (s : State) (h : Keeps κ u s) : KeepsO κ u (execFlushFailed error s) := by
  unfold execFlushFailed
  repeat' (first
      | with_reducible exact h | with_reducible assumption | with_reducible refine Keeps.ite ?_ ?_
      | with_reducible refine KeepsO.ite ?_ ?_ | with_reducible refine KeepsO.next ?_ | with_reducible exact KeepsO.refused _
      | with_reducible refine updFlow_keeps ?_ _ (by rfl) | with_reducible refine fot_keeps ?_ _ (by intro _; simp)
      | with_reducible apply record_keeps | with_reducible intro _ | split)

theorem execTornGroupDiscard_keeps {κ : Scope} {u : State} (count : Nat) (s : State) (h : Keeps κ u s) : KeepsO κ u (execTornGroupDiscard count s) := by
  unfold execTornGroupDiscard
  repeat' (first
      | with_reducible exact h | with_reducible assumption | with_reducible refine Keeps.ite ?_ ?_
      | with_reducible refine KeepsO.ite ?_ ?_ | with_reducible refine KeepsO.next ?_ | with_reducible exact KeepsO.refused _
      | with_reducible apply reportLost_keeps
      | with_reducible refine updFlow_keeps ?_ _ (by rfl) | with_reducible refine fot_keeps ?_ _ (by intro _; simp)
      | with_reducible intro _ | split)

theorem readWindow_keeps {κ : Scope} {u : State} (n : Nat) (s : State) (h : Keeps κ u s) : Keeps κ u (readWindow n s) := by
  unfold readWindow
  repeat' (first
      | with_reducible exact h | with_reducible assumption | with_reducible refine Keeps.ite ?_ ?_ | with_reducible apply updSess_keeps
      | with_reducible apply answer_keeps | extract_lets | with_reducible intro _ | split)

theorem execReadWindow_keeps {κ : Scope} {u : State} (sess : Nat) (s : State) (h : Keeps κ u s) : KeepsO κ u (execReadWindow sess s) := by
  unfold execReadWindow
  repeat' (first
      | with_reducible exact h | with_reducible assumption | with_reducible refine Keeps.ite ?_ ?_
      | with_reducible refine KeepsO.ite ?_ ?_ | with_reducible refine KeepsO.next ?_ | with_reducible exact KeepsO.refused _
      | with_reducible apply withUnit_keeps | with_reducible apply readWindow_keeps | with_reducible apply touch_keeps
      | with_reducible intro _ | split)

theorem clearCommand_keeps {κ : Scope} {u : State} (w : Ctx) (v : Nat) (s : State) (h : Keeps κ u s) : KeepsE κ u (clearCommand w v s) := by
  unfold clearCommand
  repeat' (first
      | with_reducible exact h | with_reducible assumption | with_reducible refine Keeps.ite ?_ ?_
      | with_reducible refine KeepsE.ite ?_ ?_ | with_reducible refine KeepsE.ok ?_ | with_reducible exact KeepsE.error _
      | with_reducible apply record_keeps
      | with_reducible refine updFlow_keeps ?_ _ (by rfl) | with_reducible refine fot_keeps ?_ _ (by intro _; simp) | extract_lets
      | with_reducible intro _ | split)

theorem flowWrite_keeps {κ : Scope} {u : State} (w : Ctx) (i sub : Nat) (v : Val) (s : State) (h : Keeps κ u s) : KeepsE κ u (flowWrite w i sub v s) := by
  unfold flowWrite
  repeat' (first
      | with_reducible exact h | with_reducible assumption | with_reducible refine Keeps.ite ?_ ?_
      | with_reducible refine KeepsE.ite ?_ ?_ | with_reducible refine KeepsE.ok ?_ | with_reducible exact KeepsE.error _
      | with_reducible apply checked_keeps | with_reducible apply clearCommand_keeps | with_reducible apply put_keeps
      | with_reducible apply updWin_keeps | with_reducible refine KeepsE.of_eq (by assumption) ?_ | extract_lets | with_reducible intro _
      | split)

theorem execClearHide_keeps {κ : Scope} {u : State} (sess : Nat) (s : State) (h : Keeps κ u s) : KeepsO κ u (execClearHide sess s) := by
  unfold execClearHide
  repeat' (first
      | with_reducible exact h | with_reducible assumption | with_reducible refine Keeps.ite ?_ ?_
      | with_reducible refine KeepsO.ite ?_ ?_ | with_reducible refine KeepsO.next ?_ | with_reducible exact KeepsO.refused _
      | with_reducible apply asSession_keeps | with_reducible apply flowWrite_keeps
      | with_reducible refine KeepsE.of_eq (by assumption) ?_ | with_reducible intro _ | split)

theorem execClearFot_keeps {κ : Scope} {u : State} (sess : Nat) (s : State) (h : Keeps κ u s) : KeepsO κ u (execClearFot sess s) := by
  unfold execClearFot
  repeat' (first
      | with_reducible exact h | with_reducible assumption | with_reducible refine Keeps.ite ?_ ?_
      | with_reducible refine KeepsO.ite ?_ ?_ | with_reducible refine KeepsO.next ?_ | with_reducible exact KeepsO.refused _
      | with_reducible apply asSession_keeps | with_reducible apply flowWrite_keeps
      | with_reducible refine KeepsE.of_eq (by assumption) ?_ | with_reducible intro _ | split)

theorem execClearCounters_keeps {κ : Scope} {u : State} (sess : Nat) (s : State) (h : Keeps κ u s) : KeepsO κ u (execClearCounters sess s) := by
  unfold execClearCounters
  repeat' (first
      | with_reducible exact h | with_reducible assumption | with_reducible refine Keeps.ite ?_ ?_
      | with_reducible refine KeepsO.ite ?_ ?_ | with_reducible refine KeepsO.next ?_ | with_reducible exact KeepsO.refused _
      | with_reducible apply asSession_keeps | with_reducible apply flowWrite_keeps
      | with_reducible refine KeepsE.of_eq (by assumption) ?_ | with_reducible intro _ | split)

theorem execEraseRing_keeps {κ : Scope} {u : State} (sess : Nat) (s : State) (h : Keeps κ u s) : KeepsO κ u (execEraseRing sess s) := by
  unfold execEraseRing
  repeat' (first
      | with_reducible exact h | with_reducible assumption | with_reducible refine Keeps.ite ?_ ?_
      | with_reducible refine KeepsO.ite ?_ ?_ | with_reducible refine KeepsO.next ?_ | with_reducible exact KeepsO.refused _
      | with_reducible apply asSession_keeps | with_reducible apply flowWrite_keeps
      | with_reducible refine KeepsE.of_eq (by assumption) ?_ | with_reducible intro _ | split)

theorem execFotLookup_keeps {κ : Scope} {u : State} (sess : Nat) (code : Int) (s : State) (h : Keeps κ u s) : KeepsO κ u (execFotLookup sess code s) := by
  unfold execFotLookup
  repeat' (first
      | with_reducible exact h | with_reducible assumption | with_reducible refine Keeps.ite ?_ ?_
      | with_reducible refine KeepsO.ite ?_ ?_ | with_reducible refine KeepsO.next ?_ | with_reducible exact KeepsO.refused _
      | with_reducible apply asSession_keeps | with_reducible apply flowWrite_keeps
      | with_reducible refine KeepsE.of_eq (by assumption) ?_ | with_reducible intro _ | split)

end Sys2Proof.Machine
end

