-- ==== Sys2Proof/Laws/KeepsLantern.lean ====
section
/-! SUPPORT. `Keeps` for the operations of Machine/Lantern.lean. -/

namespace Sys2Proof.Machine

set_option Elab.async false

theorem lanUp_keeps {κ : Scope} {u : State} (s : State) (h : Keeps κ u s) : Keeps κ u (lanUp s) := by
  unfold lanUp
  repeat' (first
      | with_reducible exact h | with_reducible assumption | with_reducible refine Keeps.ite ?_ ?_ | with_reducible apply updLan_keeps
      | with_reducible intro _ | split)

theorem lanDischarge_keeps {κ : Scope} {u : State} (ms : Nat) (s : State) (h : Keeps κ u s) : Keeps κ u (lanDischarge ms s) := by
  unfold lanDischarge
  repeat' (first
      | with_reducible exact h | with_reducible assumption | with_reducible refine Keeps.ite ?_ ?_ | with_reducible apply updLan_keeps
      | with_reducible intro _ | split)

theorem lanDown_keeps {κ : Scope} {u : State} (s : State) (h : Keeps κ u s) : Keeps κ u (lanDown s) := by
  unfold lanDown
  repeat' (first
      | with_reducible exact h | with_reducible assumption | with_reducible refine Keeps.ite ?_ ?_ | with_reducible apply updLan_keeps
      | with_reducible apply lanDischarge_keeps | extract_lets | with_reducible intro _ | split)

theorem lanFast_keeps {κ : Scope} {u : State} (s : State) (h : Keeps κ u s) : Keeps κ u (lanFast s) := by
  unfold lanFast
  repeat' (first
      | with_reducible exact h | with_reducible assumption | with_reducible refine Keeps.ite ?_ ?_
      | with_reducible apply lanDischarge_keeps | with_reducible apply updLan_keeps | extract_lets | with_reducible intro _ | split)

theorem lanFrame_keeps {κ : Scope} {u : State} (s : State) (h : Keeps κ u s) : Keeps κ u (lanFrame s) := by
  unfold lanFrame
  repeat' (first
      | with_reducible exact h | with_reducible assumption | with_reducible refine Keeps.ite ?_ ?_ | with_reducible apply updLan_keeps
      | with_reducible apply lanUp_keeps | extract_lets | with_reducible intro _ | split)

theorem execPanelPowerUp_keeps {κ : Scope} {u : State} (s : State) (h : Keeps κ u s) : KeepsO κ u (execPanelPowerUp s) := by
  unfold execPanelPowerUp
  repeat' (first
      | with_reducible exact h | with_reducible assumption | with_reducible refine Keeps.ite ?_ ?_
      | with_reducible refine KeepsO.ite ?_ ?_ | with_reducible refine KeepsO.next ?_ | with_reducible exact KeepsO.refused _
      | with_reducible apply lanUp_keeps | with_reducible intro _ | split)

theorem execPanelPowerDown_keeps {κ : Scope} {u : State} (s : State) (h : Keeps κ u s) : KeepsO κ u (execPanelPowerDown s) := by
  unfold execPanelPowerDown
  repeat' (first
      | with_reducible exact h | with_reducible assumption | with_reducible refine Keeps.ite ?_ ?_
      | with_reducible refine KeepsO.ite ?_ ?_ | with_reducible refine KeepsO.next ?_ | with_reducible exact KeepsO.refused _
      | with_reducible apply lanDown_keeps | with_reducible intro _ | split)

theorem execFastPowerDown_keeps {κ : Scope} {u : State} (s : State) (h : Keeps κ u s) : KeepsO κ u (execFastPowerDown s) := by
  unfold execFastPowerDown
  repeat' (first
      | with_reducible exact h | with_reducible assumption | with_reducible refine Keeps.ite ?_ ?_
      | with_reducible refine KeepsO.ite ?_ ?_ | with_reducible refine KeepsO.next ?_ | with_reducible exact KeepsO.refused _
      | with_reducible apply lanFast_keeps | with_reducible intro _ | split)

theorem execVpnlFault_keeps {κ : Scope} {u : State} (s : State) (h : Keeps κ u s) : KeepsO κ u (execVpnlFault s) := by
  unfold execVpnlFault
  repeat' (first
      | with_reducible exact h | with_reducible assumption | with_reducible refine Keeps.ite ?_ ?_
      | with_reducible refine KeepsO.ite ?_ ?_ | with_reducible refine KeepsO.next ?_ | with_reducible exact KeepsO.refused _
      | with_reducible apply lanFast_keeps | with_reducible apply updLan_keeps | with_reducible intro _ | split)

theorem execPanelRetry_keeps {κ : Scope} {u : State} (s : State) (h : Keeps κ u s) : KeepsO κ u (execPanelRetry s) := by
  unfold execPanelRetry
  repeat' (first
      | with_reducible exact h | with_reducible assumption | with_reducible refine Keeps.ite ?_ ?_
      | with_reducible refine KeepsO.ite ?_ ?_ | with_reducible refine KeepsO.next ?_ | with_reducible exact KeepsO.refused _
      | with_reducible apply lanUp_keeps | with_reducible intro _ | split)

theorem execLinkTraining_keeps {κ : Scope} {u : State} (locked : Bool) (s : State) (h : Keeps κ u s) : KeepsO κ u (execLinkTraining locked s) := by
  unfold execLinkTraining
  repeat' (first
      | with_reducible exact h | with_reducible assumption | with_reducible refine Keeps.ite ?_ ?_
      | with_reducible refine KeepsO.ite ?_ ?_ | with_reducible refine KeepsO.next ?_ | with_reducible exact KeepsO.refused _
      | with_reducible apply updLan_keeps | with_reducible apply lanDown_keeps | extract_lets | with_reducible intro _ | split)

theorem execLocknLow_keeps {κ : Scope} {u : State} (s : State) (h : Keeps κ u s) : KeepsO κ u (execLocknLow s) := by
  unfold execLocknLow
  repeat' (first
      | with_reducible exact h | with_reducible assumption | with_reducible refine Keeps.ite ?_ ?_
      | with_reducible refine KeepsO.ite ?_ ?_ | with_reducible refine KeepsO.next ?_ | with_reducible exact KeepsO.refused _
      | with_reducible apply updLan_keeps | with_reducible apply lanDischarge_keeps | extract_lets | with_reducible intro _ | split)

theorem execLinePacket_keeps {κ : Scope} {u : State} (n : Nat) (pixels : Bytes) (s : State) (h : Keeps κ u s) : KeepsO κ u (execLinePacket n pixels s) := by
  unfold execLinePacket
  repeat' (first
      | with_reducible exact h | with_reducible assumption | with_reducible refine Keeps.ite ?_ ?_
      | with_reducible refine KeepsO.ite ?_ ?_ | with_reducible refine KeepsO.next ?_ | with_reducible exact KeepsO.refused _
      | with_reducible apply updLan_keeps | extract_lets | with_reducible intro _ | split)

theorem checkFrame_keeps {κ : Scope} {u : State} (passed : Bool) (expected read : Nat) (s : State) (h : Keeps κ u s) : Keeps κ u (checkFrame passed expected read s) := by
  unfold checkFrame
  repeat' (first
      | with_reducible exact h | with_reducible assumption | with_reducible refine Keeps.ite ?_ ?_ | with_reducible apply updLan_keeps
      | with_reducible apply record_keeps | extract_lets | with_reducible intro _ | split)

theorem blankLoad_keeps {κ : Scope} {u : State} (x : BlankIn) (s : State) (h : Keeps κ u s) : Keeps κ u (blankLoad x s) := by
  unfold blankLoad
  repeat' (first
      | with_reducible exact h | with_reducible assumption | with_reducible refine Keeps.ite ?_ ?_ | with_reducible apply updLan_keeps
      | extract_lets | with_reducible intro _ | split)

theorem blanking_keeps {κ : Scope} {u : State} (x : BlankIn) (s : State) (h : Keeps κ u s) : Keeps κ u (blanking x s) := by
  unfold blanking
  repeat' (first
      | with_reducible exact h | with_reducible assumption | with_reducible refine Keeps.ite ?_ ?_ | with_reducible apply checkFrame_keeps
      | with_reducible apply lanDischarge_keeps | with_reducible apply updLan_keeps | with_reducible apply blankLoad_keeps | extract_lets
      | with_reducible intro _ | split)

theorem execVerticalBlanking_keeps {κ : Scope} {u : State} (x : BlankIn) (s : State) (h : Keeps κ u s) : KeepsO κ u (execVerticalBlanking x s) := by
  unfold execVerticalBlanking
  repeat' (first
      | with_reducible exact h | with_reducible assumption | with_reducible refine Keeps.ite ?_ ?_
      | with_reducible refine KeepsO.ite ?_ ?_ | with_reducible refine KeepsO.next ?_ | with_reducible exact KeepsO.refused _
      | with_reducible apply blanking_keeps | extract_lets | with_reducible intro _ | split)

theorem execVtSwapRequest_keeps {κ : Scope} {u : State} (s : State) (h : Keeps κ u s) : KeepsO κ u (execVtSwapRequest s) := by
  unfold execVtSwapRequest
  repeat' (first
      | with_reducible exact h | with_reducible assumption | with_reducible refine Keeps.ite ?_ ?_
      | with_reducible refine KeepsO.ite ?_ ?_ | with_reducible refine KeepsO.next ?_ | with_reducible exact KeepsO.refused _
      | with_reducible apply updLan_keeps | with_reducible intro _ | split)

theorem execVcomFault_keeps {κ : Scope} {u : State} (set : Bool) (s : State) (h : Keeps κ u s) : KeepsO κ u (execVcomFault set s) := by
  unfold execVcomFault
  repeat' (first
      | with_reducible exact h | with_reducible assumption | with_reducible refine Keeps.ite ?_ ?_
      | with_reducible refine KeepsO.ite ?_ ?_ | with_reducible refine KeepsO.next ?_ | with_reducible exact KeepsO.refused _
      | with_reducible apply freeInt_keeps | with_reducible apply updLan_keeps | with_reducible refine Keeps2.snd ?_
      | with_reducible refine Keeps2.of_eq (by assumption) ?_ | with_reducible refine Keeps2.ite ?_ ?_ | extract_lets
      | with_reducible intro _ | split | with_reducible refine Keeps2.mk ?_)

theorem lanWrite_keeps {κ : Scope} {u : State} (w : Ctx) (i sub : Nat) (v : Val) (s : State) (h : Keeps κ u s) : KeepsE κ u (lanWrite w i sub v s) := by
  unfold lanWrite
  repeat' (first
      | with_reducible exact h | with_reducible assumption | with_reducible refine Keeps.ite ?_ ?_
      | with_reducible refine KeepsE.ite ?_ ?_ | with_reducible refine KeepsE.ok ?_ | with_reducible exact KeepsE.error _
      | with_reducible apply checked_keeps | with_reducible apply put_keeps | with_reducible apply updLan_keeps
      | with_reducible apply lanUp_keeps | with_reducible apply lanDown_keeps | with_reducible refine KeepsE.of_eq (by assumption) ?_
      | extract_lets | with_reducible intro _ | split)

theorem execPanelCommand_keeps {κ : Scope} {u : State} (sess : Nat) (v : Int) (s : State) (h : Keeps κ u s) : KeepsO κ u (execPanelCommand sess v s) := by
  unfold execPanelCommand
  repeat' (first
      | with_reducible exact h | with_reducible assumption | with_reducible refine Keeps.ite ?_ ?_
      | with_reducible refine KeepsO.ite ?_ ?_ | with_reducible refine KeepsO.next ?_ | with_reducible exact KeepsO.refused _
      | with_reducible apply asSession_keeps | with_reducible apply lanWrite_keeps | with_reducible refine KeepsE.of_eq (by assumption) ?_
      | with_reducible intro _ | split)

theorem execPanelEnableWrite_keeps {κ : Scope} {u : State} (sess : Nat) (v : Int) (s : State) (h : Keeps κ u s) : KeepsO κ u (execPanelEnableWrite sess v s) := by
  unfold execPanelEnableWrite
  repeat' (first
      | with_reducible exact h | with_reducible assumption | with_reducible refine Keeps.ite ?_ ?_
      | with_reducible refine KeepsO.ite ?_ ?_ | with_reducible refine KeepsO.next ?_ | with_reducible exact KeepsO.refused _
      | with_reducible apply asSession_keeps | with_reducible apply lanWrite_keeps | with_reducible refine KeepsE.of_eq (by assumption) ?_
      | with_reducible intro _ | split)

theorem lanStart_keeps {κ : Scope} {u : State} (s : State) (h : Keeps κ u s) : Keeps κ u (lanStart s) := by
  unfold lanStart
  repeat' (first
      | with_reducible exact h | with_reducible assumption | with_reducible refine Keeps.ite ?_ ?_ | with_reducible apply lanUp_keeps
      | extract_lets | with_reducible intro _ | split | with_reducible apply engines_keeps)

theorem lanOff_keeps {κ : Scope} {u : State} (s : State) (h : Keeps κ u s) : Keeps κ u (lanOff s) := by
  unfold lanOff
  repeat' (first
      | with_reducible exact h | with_reducible assumption | with_reducible refine Keeps.ite ?_ ?_ | with_reducible apply updLan_keeps
      | with_reducible intro _ | split)

end Sys2Proof.Machine
end

