-- ==== Sys2Proof/Laws/KeepsTerminal.lean ====
section
/-! SUPPORT. `Keeps` for the operations of Machine/Terminal.lean. -/

namespace Sys2Proof.Machine

set_option Elab.async false

theorem updVt_keeps {κ : Scope} {u : State} (s : State) (f : Vt → Vt) (h : Keeps κ u s) : Keeps κ u (State.updVt s f) := by
  unfold State.updVt
  repeat' (first
      | with_reducible exact h | with_reducible assumption | with_reducible refine Keeps.ite ?_ ?_ | with_reducible apply updCan_keeps
      | with_reducible intro _ | split)

theorem vtSend_keeps {κ : Scope} {u : State} (pf dst : Nat) (b : Bytes) (s : State) (h : Keeps κ u s) : Keeps κ u (vtSend pf dst b s) := by
  unfold vtSend
  repeat' (first
      | with_reducible exact h | with_reducible assumption | with_reducible refine Keeps.ite ?_ ?_ | with_reducible apply updVt_keeps
      | with_reducible intro _ | split)

theorem vtReply_keeps {κ : Scope} {u : State} (dst : Nat) (b : Bytes) (s : State) (h : Keeps κ u s) : Keeps κ u (vtReply dst b s) := by
  unfold vtReply
  repeat' (first
      | with_reducible exact h | with_reducible assumption | with_reducible refine Keeps.ite ?_ ?_ | with_reducible apply vtSend_keeps
      | with_reducible intro _ | split)

theorem vtPut_keeps {κ : Scope} {u : State} (src : Nat) (f : VtSet → VtSet) (s : State) (h : Keeps κ u s) : Keeps κ u (vtPut src f s) := by
  unfold vtPut
  repeat' (first
      | with_reducible exact h | with_reducible assumption | with_reducible refine Keeps.ite ?_ ?_ | with_reducible apply updVt_keeps
      | with_reducible intro _ | split)

theorem vtTransfer_keeps {κ : Scope} {u : State} (src : Nat) (x : VtSet) (b : Bytes) (s : State) (h : Keeps κ u s) : Keeps κ u (vtTransfer src x b s) := by
  unfold vtTransfer
  repeat' (first
      | with_reducible exact h | with_reducible assumption | with_reducible refine Keeps.ite ?_ ?_ | with_reducible apply vtPut_keeps
      | extract_lets | with_reducible intro _ | split)

theorem vtStore_keeps {κ : Scope} {u : State} (src : Nat) (label : Bytes) (x : VtSet) (s : State) (h : Keeps κ u s) : Keeps κ u (vtStore src label x s) := by
  unfold vtStore
  repeat' (first
      | with_reducible exact h | with_reducible assumption | with_reducible refine Keeps.ite ?_ ?_ | with_reducible apply vtReply_keeps
      | with_reducible apply updVt_keeps | extract_lets | with_reducible intro _ | split)

theorem vtLoad_keeps {κ : Scope} {u : State} (src : Nat) (label : Bytes) (s : State) (h : Keeps κ u s) : Keeps κ u (vtLoad src label s) := by
  unfold vtLoad
  repeat' (first
      | with_reducible exact h | with_reducible assumption | with_reducible refine Keeps.ite ?_ ?_ | with_reducible apply vtReply_keeps
      | with_reducible apply vtPut_keeps | with_reducible intro _ | split)

theorem vtDelete_keeps {κ : Scope} {u : State} (src : Nat) (label : Bytes) (s : State) (h : Keeps κ u s) : Keeps κ u (vtDelete src label s) := by
  unfold vtDelete
  repeat' (first
      | with_reducible exact h | with_reducible assumption | with_reducible refine Keeps.ite ?_ ?_ | with_reducible apply vtReply_keeps
      | with_reducible apply updVt_keeps | with_reducible intro _ | split)

theorem vtLogin_keeps {κ : Scope} {u : State} (src : Nat) (s : State) (h : Keeps κ u s) : Keeps κ u (vtLogin src s) := by
  unfold vtLogin
  repeat' (first
      | with_reducible exact h | with_reducible assumption | with_reducible refine Keeps.ite ?_ ?_ | with_reducible apply updVt_keeps
      | with_reducible intro _ | split)

theorem vtCommand_keeps {κ : Scope} {u : State} (src : Nat) (x : VtSet) (b : Bytes) (s : State) (h : Keeps κ u s) : Keeps κ u (vtCommand src x b s) := by
  unfold vtCommand
  repeat' (first
      | with_reducible exact h | with_reducible assumption | with_reducible refine Keeps.ite ?_ ?_ | with_reducible apply vtTransfer_keeps
      | with_reducible apply vtReply_keeps | with_reducible apply vtPut_keeps | with_reducible apply vtStore_keeps
      | with_reducible apply vtLoad_keeps | with_reducible apply vtDelete_keeps | extract_lets | with_reducible intro _ | split)

theorem vtMessage_keeps {κ : Scope} {u : State} (src : Nat) (b : Bytes) (s : State) (h : Keeps κ u s) : Keeps κ u (vtMessage src b s) := by
  unfold vtMessage
  repeat' (first
      | with_reducible exact h | with_reducible assumption | with_reducible refine Keeps.ite ?_ ?_ | with_reducible apply vtLogin_keeps
      | with_reducible apply vtCommand_keeps | with_reducible intro _ | split)

theorem tpClear_keeps {κ : Scope} {u : State} (x : VtTp) (s : State) (h : Keeps κ u s) : Keeps κ u (tpClear x s) := by
  unfold tpClear
  repeat' (first
      | with_reducible exact h | with_reducible assumption | with_reducible refine Keeps.ite ?_ ?_ | with_reducible apply vtSend_keeps
      | extract_lets | with_reducible intro _ | split)

theorem tpDrop_keeps {κ : Scope} {u : State} (src : Nat) (s : State) (h : Keeps κ u s) : Keeps κ u (tpDrop src s) := by
  unfold tpDrop
  repeat' (first
      | with_reducible exact h | with_reducible assumption | with_reducible refine Keeps.ite ?_ ?_ | with_reducible apply updVt_keeps
      | with_reducible intro _ | split)

theorem tpOpen_keeps {κ : Scope} {u : State} (x : VtTp) (b : Bytes) (s : State) (h : Keeps κ u s) : Keeps κ u (tpOpen x b s) := by
  unfold tpOpen
  repeat' (first
      | with_reducible exact h | with_reducible assumption | with_reducible refine Keeps.ite ?_ ?_ | with_reducible apply tpClear_keeps
      | with_reducible apply tpDrop_keeps | with_reducible apply updVt_keeps | with_reducible intro _ | split)

theorem tpData_keeps {κ : Scope} {u : State} (src : Nat) (b : Bytes) (s : State) (h : Keeps κ u s) : Keeps κ u (tpData src b s) := by
  unfold tpData
  repeat' (first
      | with_reducible exact h | with_reducible assumption | with_reducible refine Keeps.ite ?_ ?_ | with_reducible apply vtSend_keeps
      | with_reducible apply tpDrop_keeps | with_reducible apply vtMessage_keeps | with_reducible apply updVt_keeps
      | with_reducible apply tpClear_keeps | extract_lets | with_reducible intro _ | split)

theorem vtFrame_keeps {κ : Scope} {u : State} (s : State) (f : CanFrame) (h : Keeps κ u s) : Keeps κ u (vtFrame s f) := by
  unfold vtFrame
  repeat' (first
      | with_reducible exact h | with_reducible assumption | with_reducible refine Keeps.ite ?_ ?_ | with_reducible apply vtMessage_keeps
      | with_reducible apply tpOpen_keeps | with_reducible apply tpDrop_keeps | with_reducible apply tpData_keeps | extract_lets
      | with_reducible intro _ | split)

theorem vtSendNext_keeps {κ : Scope} {u : State} (s : State) (h : Keeps κ u s) : Keeps κ u (vtSendNext s) := by
  unfold vtSendNext
  repeat' (first
      | with_reducible exact h | with_reducible assumption | with_reducible refine Keeps.ite ?_ ?_ | with_reducible apply updVt_keeps
      | with_reducible apply updCobj_keeps | with_reducible intro _ | split)

theorem vtServe_keeps {κ : Scope} {u : State} (s : State) (h : Keeps κ u s) : Keeps κ u (vtServe s) := by
  unfold vtServe
  repeat' (first
      | with_reducible exact h | with_reducible assumption | with_reducible refine Keeps.ite ?_ ?_
      | (with_reducible refine Keeps.foldl ?_ ?_; rotate_left; intro _ _ _)
      | (with_reducible refine Keeps1.foldl ?_ ?_; rotate_left; intro _ _ _)
      | (with_reducible refine Keeps2.foldl ?_ ?_; rotate_left; intro _ _ _) | with_reducible apply vtSendNext_keeps
      | with_reducible apply vtFrame_keeps | with_reducible intro _ | split)

end Sys2Proof.Machine
end

