-- ==== Sys2Proof/Laws/KeepsDict.lean ====
section
/-! SUPPORT. `Keeps` for the operations of Machine/Dict.lean. -/

namespace Sys2Proof.Machine

set_option Elab.async false

theorem answered_keeps {κ : Scope} {u s : State} (h : Keeps κ u s) {r : Except Nat State} (k : KeepsE κ u r) : Keeps2 κ u (answered s r) := by
  unfold answered
  split
  · exact Keeps2.mk (k _ rfl)
  · exact Keeps2.mk h

theorem cropWrites_keeps {κ : Scope} {u : State} (w : Ctx) (i sub : Nat) (v : Val) (s : State) (h : Keeps κ u s) : KeepsE κ u (cropWrites w i sub v s) := by
  unfold cropWrites
  repeat' (first
      | with_reducible exact h | with_reducible assumption | with_reducible refine Keeps.ite ?_ ?_
      | with_reducible refine KeepsE.ite ?_ ?_ | with_reducible refine KeepsE.ok ?_ | with_reducible exact KeepsE.error _
      | with_reducible apply stationWrite_keeps | with_reducible apply passageWrite_keeps | with_reducible apply calWrite_keeps
      | with_reducible apply eventWrite_keeps | with_reducible apply parcelWrite_keeps | with_reducible apply leadWrite_keeps
      | with_reducible apply slotWrite_keeps | with_reducible apply leadWindowWrite_keeps | with_reducible apply plainWrite_keeps
      | with_reducible refine KeepsE.of_eq (by assumption) ?_ | with_reducible intro _ | split)

theorem senseWrites_keeps {κ : Scope} {u : State} (w : Ctx) (i sub : Nat) (v : Val) (s : State) (h : Keeps κ u s) : KeepsE κ u (senseWrites w i sub v s) := by
  unfold senseWrites
  repeat' (first
      | with_reducible exact h | with_reducible assumption | with_reducible refine Keeps.ite ?_ ?_
      | with_reducible refine KeepsE.ite ?_ ?_ | with_reducible refine KeepsE.ok ?_ | with_reducible exact KeepsE.error _
      | with_reducible apply lossWrite_keeps | with_reducible apply aiWrite_keeps | with_reducible apply shWrite_keeps
      | with_reducible apply cropWrite_keeps | with_reducible apply imuWrite_keeps | with_reducible apply valveWrite_keeps
      | with_reducible refine KeepsE.of_eq (by assumption) ?_ | with_reducible intro _ | split)

theorem chapterWrite_keeps {κ : Scope} {u : State} (w : Ctx) (i sub : Nat) (v : Val) (s : State) (h : Keeps κ u s) : KeepsE κ u (chapterWrite w i sub v s) := by
  unfold chapterWrite
  repeat' (first
      | with_reducible exact h | with_reducible assumption | with_reducible refine Keeps.ite ?_ ?_
      | with_reducible refine KeepsE.ite ?_ ?_ | with_reducible refine KeepsE.ok ?_ | with_reducible exact KeepsE.error _
      | with_reducible apply fnWrite_keeps | with_reducible apply ctxWrite_keeps | with_reducible apply compWrite_keeps
      | with_reducible apply traceWrite_keeps | with_reducible apply cropWrites_keeps | with_reducible apply optConfigWrite_keeps
      | with_reducible apply optSlotWrite_keeps | with_reducible apply steerWrite_keeps | with_reducible apply yieldWrite_keeps
      | with_reducible apply fleetWrite_keeps | with_reducible apply valveWrite_keeps | with_reducible apply fioWrite_keeps
      | with_reducible apply senseWrites_keeps | with_reducible apply skyWrite_keeps | with_reducible apply netWrite_keeps
      | with_reducible apply canWrite_keeps | with_reducible apply flowWrite_keeps | with_reducible apply lanWrite_keeps
      | with_reducible apply plainWrite_keeps | with_reducible refine KeepsE.of_eq (by assumption) ?_ | with_reducible intro _ | split)

theorem baseWrite_keeps {κ : Scope} {u : State} (w : Ctx) (i sub : Nat) (v : Val) (s : State) (h : Keeps κ u s) : Keeps2 κ u (baseWrite w i sub v s) := by
  unfold baseWrite
  repeat' (first
      | with_reducible exact h | with_reducible assumption | with_reducible refine Keeps.ite ?_ ?_
      | with_reducible refine Keeps2.ite ?_ ?_ | with_reducible apply writeEnable_keeps | with_reducible apply answered_keeps
      | with_reducible apply chapterWrite_keeps | with_reducible refine Keeps2.snd ?_
      | with_reducible refine Keeps2.of_eq (by assumption) ?_ | with_reducible refine KeepsE.of_eq (by assumption) ?_
      | with_reducible intro _ | split | with_reducible refine Keeps2.mk ?_)

theorem resolveAll_keeps {κ : Scope} {u : State} (s : State) (h : Keeps κ u s) : Keeps κ u (resolveAll s) := by
  unfold resolveAll
  repeat' (first
      | with_reducible exact h | with_reducible assumption | with_reducible refine Keeps.ite ?_ ?_
      | with_reducible refine updPer_keeps ?_ _ (by rfl) | with_reducible apply records_keeps | extract_lets | with_reducible intro _
      | split)

theorem commitWith_keeps {κ : Scope} {u : State} (layer key : Nat) (v : Val) (okA okB okC : Bool) (s : State) (h : Keeps κ u s) : Keeps κ u (commitWith layer key v okA okB okC s) := by
  unfold commitWith
  repeat' (first
      | with_reducible exact h | with_reducible assumption | with_reducible refine Keeps.ite ?_ ?_
      | with_reducible refine updPer_keeps ?_ _ (by rfl) | extract_lets | with_reducible intro _ | split)

theorem storeWrite_keeps {κ : Scope} {u : State} (w : Ctx) (i sub : Nat) (v : Val) (s : State) (h : Keeps κ u s) : KeepsE κ u (storeWrite w i sub v s) := by
  unfold storeWrite
  repeat' (first
      | with_reducible exact h | with_reducible assumption | with_reducible refine Keeps.ite ?_ ?_
      | with_reducible refine KeepsE.ite ?_ ?_ | with_reducible refine KeepsE.ok ?_ | with_reducible exact KeepsE.error _
      | with_reducible apply checked_keeps | with_reducible refine updPer_keeps ?_ _ (by rfl)
      | with_reducible refine KeepsE.of_eq (by assumption) ?_ | with_reducible intro _ | split)

theorem execStore_keeps {κ : Scope} {u : State} (sess : Nat) (v : Int) (s : State) (h : Keeps κ u s) : KeepsO κ u (execStore sess v s) := by
  unfold execStore
  repeat' (first
      | with_reducible exact h | with_reducible assumption | with_reducible refine Keeps.ite ?_ ?_
      | with_reducible refine KeepsO.ite ?_ ?_ | with_reducible refine KeepsO.next ?_ | with_reducible exact KeepsO.refused _
      | with_reducible apply asSession_keeps | with_reducible apply storeWrite_keeps
      | with_reducible refine KeepsE.of_eq (by assumption) ?_ | with_reducible intro _ | split)

theorem execRestoreDefaults_keeps {κ : Scope} {u : State} (sess : Nat) (v : Int) (s : State) (h : Keeps κ u s) : KeepsO κ u (execRestoreDefaults sess v s) := by
  unfold execRestoreDefaults
  repeat' (first
      | with_reducible exact h | with_reducible assumption | with_reducible refine Keeps.ite ?_ ?_
      | with_reducible refine KeepsO.ite ?_ ?_ | with_reducible refine KeepsO.next ?_ | with_reducible exact KeepsO.refused _
      | with_reducible apply asSession_keeps | with_reducible apply storeWrite_keeps
      | with_reducible refine KeepsE.of_eq (by assumption) ?_ | with_reducible intro _ | split)

theorem finishStore_keeps {κ : Scope} {u : State} (s : State) (h : Keeps κ u s) : Keeps κ u (finishStore s) := by
  unfold finishStore
  repeat' (first
      | with_reducible exact h | with_reducible assumption | with_reducible refine Keeps.ite ?_ ?_
      | (with_reducible refine Keeps.foldl ?_ ?_; rotate_left; intro _ _ _)
      | (with_reducible refine Keeps1.foldl ?_ ?_; rotate_left; intro _ _ _)
      | (with_reducible refine Keeps2.foldl ?_ ?_; rotate_left; intro _ _ _) | with_reducible apply commitWith_keeps
      | with_reducible refine updPer_keeps ?_ _ (by rfl) | with_reducible intro _ | split)

theorem execStoreComplete_keeps {κ : Scope} {u : State} (s : State) (h : Keeps κ u s) : KeepsO κ u (execStoreComplete s) := by
  unfold execStoreComplete
  repeat' (first
      | with_reducible exact h | with_reducible assumption | with_reducible refine Keeps.ite ?_ ?_
      | with_reducible refine KeepsO.ite ?_ ?_ | with_reducible refine KeepsO.next ?_ | with_reducible exact KeepsO.refused _
      | with_reducible apply finishStore_keeps | with_reducible intro _ | split)

theorem execPersistentWrite_keeps {κ : Scope} {u : State} (layer key : Nat) (v : Val) (okA okB okC : Bool) (s : State) (h : Keeps κ u s) : KeepsO κ u (execPersistentWrite layer key v okA okB okC s) := by
  unfold execPersistentWrite
  repeat' (first
      | with_reducible exact h | with_reducible assumption | with_reducible refine Keeps.ite ?_ ?_
      | with_reducible refine KeepsO.ite ?_ ?_ | with_reducible refine KeepsO.next ?_ | with_reducible exact KeepsO.refused _
      | with_reducible apply withUnit_keeps | with_reducible apply commitWith_keeps | with_reducible apply updSess_keeps
      | with_reducible apply answer_keeps | with_reducible refine updPer_keeps ?_ _ (by rfl) | extract_lets | with_reducible intro _
      | split)

theorem entryWrite_keeps {κ : Scope} {u : State} (e : ObjEntry) (s : State) (h : Keeps κ u s) : Keeps2 κ u (entryWrite e s) := by
  unfold entryWrite
  repeat' (first
      | with_reducible exact h | with_reducible assumption | with_reducible refine Keeps.ite ?_ ?_
      | with_reducible refine KeepsE.ite ?_ ?_ | with_reducible refine KeepsE.ok ?_ | with_reducible exact KeepsE.error _
      | with_reducible refine Keeps2.ite ?_ ?_ | with_reducible apply baseWrite_keeps | with_reducible refine Keeps2.snd ?_
      | with_reducible refine Keeps2.of_eq (by assumption) ?_ | with_reducible intro _ | split | with_reducible refine Keeps2.mk ?_)

theorem applyEntries_keeps {κ : Scope} {u : State} (l : List ObjEntry) (n : Nat) (s : State) (h : Keeps κ u s) : Keeps2 κ u (applyEntries l n s) := by
  induction l generalizing n s with
  | nil => exact h
  | cons e t ih =>
    unfold applyEntries
    extract_lets r
    have k : Keeps κ u r.2 := Keeps2.snd (entryWrite_keeps e s h)
    clear_value r
    exact Keeps2.ite (ih _ _ k) (Keeps2.mk h)

theorem clearForPackage_keeps {κ : Scope} {u : State} (p : Package) (s : State) (h : Keeps κ u s) : Keeps κ u (clearForPackage p s) := by
  unfold clearForPackage
  repeat' (first
      | with_reducible exact h | with_reducible assumption | with_reducible refine Keeps.ite ?_ ?_
      | with_reducible refine updPer_keeps ?_ _ (by rfl) | with_reducible intro _ | split)

theorem applyLive_keeps {κ : Scope} {u : State} (p : Package) (s : State) (h : Keeps κ u s) : Keeps2 κ u (applyLive p s) := by
  unfold applyLive
  split
  · exact Keeps2.mk h
  · exact Keeps2.mk (updPer_keeps (optVoid_keeps _ _
      (Keeps.foldl (clearForPackage_keeps _ _ h) fun t e k => Keeps2.snd (entryWrite_keeps e t k))) _ rfl)

theorem tryValues_keeps {κ : Scope} {u : State} (l : List (Nat × Val)) (s : State) (h : Keeps κ u s) : Keeps2 κ u (tryValues l s) := by
  unfold tryValues
  repeat' (first
      | with_reducible exact h | with_reducible assumption | with_reducible refine Keeps.ite ?_ ?_
      | with_reducible refine Keeps2.ite ?_ ?_ | (with_reducible refine Keeps.foldl ?_ ?_; rotate_left; intro _ _ _)
      | (with_reducible refine Keeps1.foldl ?_ ?_; rotate_left; intro _ _ _)
      | (with_reducible refine Keeps2.foldl ?_ ?_; rotate_left; intro _ _ _) | with_reducible apply baseWrite_keeps
      | with_reducible refine Keeps2.snd ?_ | with_reducible refine Keeps2.of_eq (by assumption) ?_ | extract_lets
      | with_reducible intro _ | split | with_reducible refine Keeps2.mk ?_)

theorem applyLayer_keeps {κ : Scope} {u : State} (layer : Nat) (s : State) (h : Keeps κ u s) : Keeps κ u (applyLayer layer s) := by
  unfold applyLayer
  repeat' (first
      | with_reducible exact h | with_reducible assumption | with_reducible refine Keeps.ite ?_ ?_
      | (with_reducible refine Keeps.foldl ?_ ?_; rotate_left; intro _ _ _)
      | (with_reducible refine Keeps1.foldl ?_ ?_; rotate_left; intro _ _ _)
      | (with_reducible refine Keeps2.foldl ?_ ?_; rotate_left; intro _ _ _) | with_reducible apply tryValues_keeps
      | with_reducible apply record_keeps | with_reducible refine updPer_keeps ?_ _ (by rfl) | with_reducible refine Keeps2.snd ?_
      | with_reducible refine Keeps2.of_eq (by assumption) ?_ | with_reducible refine Keeps2.ite ?_ ?_ | extract_lets
      | with_reducible intro _ | split | with_reducible refine Keeps2.mk ?_)

theorem buildLayers_keeps {κ : Scope} {u : State} (s : State) (h : Keeps κ u s) : Keeps κ u (buildLayers s) := by
  unfold buildLayers
  extract_lets s1 s2 s3
  have h1 : Keeps κ u s1 := dict_keeps h _ (dictWf_filter _)
  have h2 : Keeps κ u s2 := Keeps.ite (updPer_keeps h1 _ rfl) h1
  have h3 : Keeps κ u s3 := resolveAll_keeps _ h2
  clear_value s3
  split
  · exact updPer_keeps (applyLayer_keeps _ _ (applyLayer_keeps _ _ h3)) _ rfl
  · extract_lets r
    have k : Keeps κ u r.2 := Keeps2.snd (applyEntries_keeps _ _ _ h3)
    clear_value r
    split
    · exact updPer_keeps h3 _ rfl
    · exact applyLayer_keeps _ _ (applyLayer_keeps _ _ (updPer_keeps (clearForPackage_keeps _ _ k) _ rfl))

theorem persistSnapshot_keeps {κ : Scope} {u : State} (n : Nat) (s : State) (h : Keeps κ u s) : Keeps κ u (persistSnapshot n s) := by
  unfold persistSnapshot
  repeat' (first
      | with_reducible exact h | with_reducible assumption | with_reducible refine Keeps.ite ?_ ?_ | with_reducible apply updWin_keeps
      | extract_lets | with_reducible intro _ | split)

theorem confirm_keeps {κ : Scope} {u : State} (n v : Nat) (s : State) (h : Keeps κ u s) : KeepsE κ u (confirm n v s) := by
  unfold confirm
  extract_lets w
  split
  · exact KeepsE.error _
  · refine KeepsE.ite (KeepsE.error _) ?_
    split <;> dsimp only <;> split
    all_goals first
      | exact KeepsE.error _
      | exact KeepsE.ok (Keeps.ite (updPer_keeps h _ rfl) (Keeps2.snd (baseWrite_keeps _ _ _ _ _ (updPer_keeps h _ rfl))))
      | exact KeepsE.ok (updPer_keeps h _ rfl)
      | exact KeepsE.ok (Keeps2.snd (baseWrite_keeps _ _ _ _ _ (updPer_keeps h _ rfl)))

theorem windowWrite_keeps {κ : Scope} {u : State} (w : Ctx) (i sub : Nat) (v : Val) (s : State) (h : Keeps κ u s) : KeepsE κ u (windowWrite w i sub v s) := by
  unfold windowWrite
  repeat' (first
      | with_reducible exact h | with_reducible assumption | with_reducible refine Keeps.ite ?_ ?_
      | with_reducible refine KeepsE.ite ?_ ?_ | with_reducible refine KeepsE.ok ?_ | with_reducible exact KeepsE.error _
      | with_reducible apply checked_keeps | with_reducible apply updWin_keeps | with_reducible apply persistSnapshot_keeps
      | with_reducible apply confirm_keeps | with_reducible refine KeepsE.of_eq (by assumption) ?_ | extract_lets | with_reducible intro _
      | split)

theorem execPersistSnapshot_keeps {κ : Scope} {u : State} (sess : Nat) (v : Int) (s : State) (h : Keeps κ u s) : KeepsO κ u (execPersistSnapshot sess v s) := by
  unfold execPersistSnapshot
  repeat' (first
      | with_reducible exact h | with_reducible assumption | with_reducible refine Keeps.ite ?_ ?_
      | with_reducible refine KeepsO.ite ?_ ?_ | with_reducible refine KeepsO.next ?_ | with_reducible exact KeepsO.refused _
      | with_reducible apply asSession_keeps | with_reducible apply windowWrite_keeps
      | with_reducible refine KeepsE.of_eq (by assumption) ?_ | with_reducible intro _ | split)

theorem execConfirmCommand_keeps {κ : Scope} {u : State} (sess : Nat) (v : Int) (s : State) (h : Keeps κ u s) : KeepsO κ u (execConfirmCommand sess v s) := by
  unfold execConfirmCommand
  repeat' (first
      | with_reducible exact h | with_reducible assumption | with_reducible refine Keeps.ite ?_ ?_
      | with_reducible refine KeepsO.ite ?_ ?_ | with_reducible refine KeepsO.next ?_ | with_reducible exact KeepsO.refused _
      | with_reducible apply asSession_keeps | with_reducible apply windowWrite_keeps
      | with_reducible refine KeepsE.of_eq (by assumption) ?_ | with_reducible intro _ | split)

theorem factoryWrite_keeps {κ : Scope} {u : State} (w : Ctx) (i sub : Nat) (v : Val) (s : State) (h : Keeps κ u s) : KeepsE κ u (factoryWrite w i sub v s) := by
  refine KeepsE.ite (KeepsE.error _) (checked_keeps h fun t k => ?_)
  refine KeepsE.ite (KeepsE.ok ?_) (KeepsE.ite (KeepsE.ok (updPer_keeps k _ rfl)) (KeepsE.ok (updPer_keeps k _ rfl)))
  exact Keeps.step k rfl (Nat.le_refl _) (fun _ => rfl) (fun _ => Nat.le_refl _) (fun i => ⟨i.dict, i.fot, i.history, i.sessions, i.fuses⟩)
    (.same rfl rfl rfl rfl rfl rfl)

theorem execEolFuse_keeps {κ : Scope} {u : State} (sess : Nat) (v : Int) (s : State) (h : Keeps κ u s) : KeepsO κ u (execEolFuse sess v s) := by
  unfold execEolFuse
  repeat' (first
      | with_reducible exact h | with_reducible assumption | with_reducible refine Keeps.ite ?_ ?_
      | with_reducible refine KeepsO.ite ?_ ?_ | with_reducible refine KeepsO.next ?_ | with_reducible exact KeepsO.refused _
      | with_reducible apply asSession_keeps | with_reducible apply factoryWrite_keeps
      | with_reducible refine KeepsE.of_eq (by assumption) ?_ | with_reducible intro _ | split)

end Sys2Proof.Machine
end

