-- ==== Sys2Proof/Laws/KeepsUpdate.lean ====
section
/-! SUPPORT. `Keeps` for the operations of Machine/Update.lean. -/

namespace Sys2Proof.Machine

set_option Elab.async false

theorem updRecord_keeps {κ : Scope} {u : State} (region id event result : Nat) (s : State) (h : Keeps κ u s) : Keeps κ u (updRecord region id event result s) := by
  unfold updRecord
  repeat' (first
      | with_reducible exact h | with_reducible assumption | with_reducible refine Keeps.ite ?_ ?_ | with_reducible apply record_keeps
      | with_reducible intro _ | split)

theorem setResult_keeps {κ : Scope} {u : State} (src code : Nat) (s : State) (h : Keeps κ u s) : Keeps κ u (setResult src code s) := by
  unfold setResult
  repeat' (first
      | with_reducible exact h | with_reducible assumption | with_reducible refine Keeps.ite ?_ ?_
      | with_reducible refine updUpd_keeps ?_ _ (by rfl) | with_reducible apply updSess_keeps | with_reducible intro _ | split)

theorem setId_keeps {κ : Scope} {u : State} (src id : Nat) (s : State) (h : Keeps κ u s) : Keeps κ u (setId src id s) := by
  unfold setId
  repeat' (first
      | with_reducible exact h | with_reducible assumption | with_reducible refine Keeps.ite ?_ ?_
      | with_reducible refine updUpd_keeps ?_ _ (by rfl) | with_reducible apply updSess_keeps | with_reducible intro _ | split)

theorem freeAnte_keeps {κ : Scope} {u : State} (restore : Bool) (s : State) (h : Keeps κ u s) : Keeps κ u (freeAnte restore s) := by
  unfold freeAnte
  repeat' (first
      | with_reducible exact h | with_reducible assumption | with_reducible refine Keeps.ite ?_ ?_
      | with_reducible refine updRegion_keeps ?_ _ _ (fun _ => by first | rfl | ((repeat' split) <;> rfl))
      | with_reducible refine updUpd_keeps ?_ _ (by rfl) | extract_lets | with_reducible intro _ | split)

theorem endUpdate_keeps {κ : Scope} {u : State} (event code : Nat) (s : State) (h : Keeps κ u s) : Keeps κ u (endUpdate event code s) := by
  unfold endUpdate
  repeat' (first
      | with_reducible exact h | with_reducible assumption | with_reducible refine Keeps.ite ?_ ?_ | with_reducible apply setResult_keeps
      | with_reducible refine updRegion_keeps ?_ _ _ (fun _ => by first | rfl | ((repeat' split) <;> rfl))
      | with_reducible apply updRecord_keeps | with_reducible apply freeAnte_keeps | dsimp only | with_reducible intro _ | split)

theorem judgeOffer_keeps {κ : Scope} {u : State} (src : Nat) (rec_ : Bytes) (s : State) (h : Keeps κ u s) : Keeps κ u (judgeOffer src rec_ s) := by
  unfold judgeOffer
  repeat' (first
      | with_reducible exact h | with_reducible assumption | with_reducible refine Keeps.ite ?_ ?_ | with_reducible apply updRecord_keeps
      | with_reducible apply setId_keeps | with_reducible apply setResult_keeps | with_reducible refine updUpd_keeps ?_ _ (by rfl)
      | dsimp only | with_reducible intro _ | split)

theorem offer_keeps {κ : Scope} {u : State} (src : Nat) (rec_ : Bytes) (s : State) (h : Keeps κ u s) : Keeps κ u (offer src rec_ s) := by
  unfold offer
  repeat' (first
      | with_reducible exact h | with_reducible assumption | with_reducible refine Keeps.ite ?_ ?_ | with_reducible apply updRecord_keeps
      | with_reducible apply setResult_keeps | with_reducible refine updUpd_keeps ?_ _ (by rfl) | with_reducible apply setId_keeps
      | with_reducible apply endUpdate_keeps | with_reducible apply judgeOffer_keeps | dsimp only | with_reducible intro _ | split)

theorem fleetOffer_keeps {κ : Scope} {u : State} (stamp : Nat) (rec_ : Bytes) (s : State) (h : Keeps κ u s) : Keeps κ u (fleetOffer stamp rec_ s) := by
  unfold fleetOffer
  repeat' (first
      | with_reducible exact h | with_reducible assumption | with_reducible refine Keeps.ite ?_ ?_ | with_reducible apply offer_keeps
      | with_reducible refine updUpd_keeps ?_ _ (by rfl) | with_reducible apply updFleet_keeps | extract_lets | with_reducible intro _
      | split)

theorem block_keeps {κ : Scope} {u : State} (src off : Nat) (data : Bytes) (s : State) (h : Keeps κ u s) : Keeps κ u (block src off data s) := by
  unfold block
  repeat' (first
      | with_reducible exact h | with_reducible assumption | with_reducible refine Keeps.ite ?_ ?_ | with_reducible apply setResult_keeps
      | with_reducible refine updUpd_keeps ?_ _ (by rfl) | with_reducible apply setId_keeps
      | with_reducible refine updRegion_keeps ?_ _ _ (fun _ => by first | rfl | ((repeat' split) <;> rfl))
      | with_reducible apply updRecord_keeps | extract_lets | with_reducible intro _ | split)

theorem commitUpdate_keeps {κ : Scope} {u : State} (src : Nat) (s : State) (h : Keeps κ u s) : KeepsE κ u (commitUpdate src s) := by
  unfold commitUpdate
  repeat' (first
      | with_reducible exact h | with_reducible assumption | with_reducible refine Keeps.ite ?_ ?_
      | with_reducible refine KeepsE.ite ?_ ?_ | with_reducible refine KeepsE.ok ?_ | with_reducible exact KeepsE.error _
      | with_reducible apply updRecord_keeps | with_reducible apply setResult_keeps | with_reducible refine updUpd_keeps ?_ _ (by rfl)
      | with_reducible apply endUpdate_keeps | with_reducible intro _ | split)

theorem abortUpdateBy_keeps {κ : Scope} {u : State} (src : Nat) (s : State) (h : Keeps κ u s) : KeepsE κ u (abortUpdateBy src s) := by
  unfold abortUpdateBy
  repeat' (first
      | with_reducible exact h | with_reducible assumption | with_reducible refine Keeps.ite ?_ ?_
      | with_reducible refine KeepsE.ite ?_ ?_ | with_reducible refine KeepsE.ok ?_ | with_reducible exact KeepsE.error _
      | with_reducible apply endUpdate_keeps | with_reducible intro _ | split)

theorem withdrawRegion_keeps {κ : Scope} {u : State} (c : Nat) (s : State) (h : Keeps κ u s) : KeepsE κ u (withdrawRegion c s) := by
  unfold withdrawRegion
  repeat' (first
      | with_reducible exact h | with_reducible assumption | with_reducible refine Keeps.ite ?_ ?_
      | with_reducible refine KeepsE.ite ?_ ?_ | with_reducible refine KeepsE.ok ?_ | with_reducible exact KeepsE.error _
      | with_reducible refine updRegion_keeps ?_ _ _ (fun _ => by first | rfl | ((repeat' split) <;> rfl)) | with_reducible intro _
      | split)

theorem confirmed_keeps {κ : Scope} {u : State} (c : Nat) (s : State) (h : Keeps κ u s) : Keeps κ u (confirmed c s) := by
  refine updRecord_keeps _ _ _ _ _ (updRegion_keeps' h _ _ fun r => ⟨Nat.le_max_left _ _, fun k => ?_⟩)
  exact Nat.max_le.2 ⟨k, Nat.min_le_right _ _⟩

theorem fallBackNow_keeps {κ : Scope} {u : State} (c : Nat) (s : State) (h : Keeps κ u s) : Keeps κ u (fallBackNow c s) := by
  unfold fallBackNow
  repeat' (first
      | with_reducible exact h | with_reducible assumption | with_reducible refine Keeps.ite ?_ ?_
      | with_reducible refine updRegion_keeps ?_ _ _ (fun _ => by first | rfl | ((repeat' split) <;> rfl))
      | with_reducible apply updRecord_keeps | extract_lets | with_reducible intro _ | split)

theorem confirmCommand_keeps {κ : Scope} {u : State} (c : Nat) (s : State) (h : Keeps κ u s) : KeepsE κ u (confirmCommand c s) := by
  unfold confirmCommand
  repeat' (first
      | with_reducible exact h | with_reducible assumption | with_reducible refine Keeps.ite ?_ ?_
      | with_reducible refine KeepsE.ite ?_ ?_ | with_reducible refine KeepsE.ok ?_ | with_reducible exact KeepsE.error _
      | with_reducible apply confirmed_keeps | with_reducible intro _ | split)

theorem fallBackCommand_keeps {κ : Scope} {u : State} (c : Nat) (s : State) (h : Keeps κ u s) : KeepsE κ u (fallBackCommand c s) := by
  unfold fallBackCommand
  repeat' (first
      | with_reducible exact h | with_reducible assumption | with_reducible refine Keeps.ite ?_ ?_
      | with_reducible refine KeepsE.ite ?_ ?_ | with_reducible refine KeepsE.ok ?_ | with_reducible exact KeepsE.error _
      | with_reducible apply fallBackNow_keeps
      | with_reducible refine updRegion_keeps ?_ _ _ (fun _ => by first | rfl | ((repeat' split) <;> rfl)) | with_reducible intro _
      | split)

theorem startFallBacks_keeps {κ : Scope} {u : State} (s : State) (h : Keeps κ u s) : Keeps κ u (startFallBacks s) := by
  unfold startFallBacks
  repeat' (first
      | with_reducible exact h | with_reducible assumption | with_reducible refine Keeps.ite ?_ ?_
      | (with_reducible refine Keeps.foldl ?_ ?_; rotate_left; intro _ _ _)
      | (with_reducible refine Keeps1.foldl ?_ ?_; rotate_left; intro _ _ _)
      | (with_reducible refine Keeps2.foldl ?_ ?_; rotate_left; intro _ _ _) | with_reducible apply fallBackNow_keeps
      | with_reducible intro _ | split)

theorem regionCommand_keeps {κ : Scope} {u : State} (src role cmd c : Nat) (s : State) (h : Keeps κ u s) : KeepsE κ u (regionCommand src role cmd c s) := by
  unfold regionCommand
  repeat' (first
      | with_reducible exact h | with_reducible assumption | with_reducible refine Keeps.ite ?_ ?_
      | with_reducible refine KeepsE.ite ?_ ?_ | with_reducible refine KeepsE.ok ?_ | with_reducible exact KeepsE.error _
      | with_reducible apply commitUpdate_keeps | with_reducible apply abortUpdateBy_keeps | with_reducible apply withdrawRegion_keeps
      | with_reducible apply confirmCommand_keeps | with_reducible apply fallBackCommand_keeps
      | with_reducible refine KeepsE.of_eq (by assumption) ?_ | with_reducible intro _ | split)

theorem ladderOffer_keeps {κ : Scope} {u : State} (n : Nat) (rec_ : Bytes) (s : State) (h : Keeps κ u s) : Keeps κ u (ladderOffer n rec_ s) := by
  unfold ladderOffer
  repeat' (first
      | with_reducible exact h | with_reducible assumption | with_reducible refine Keeps.ite ?_ ?_ | with_reducible apply updRecord_keeps
      | with_reducible apply setResult_keeps | with_reducible refine updUpd_keeps ?_ _ (by rfl) | with_reducible apply setId_keeps
      | extract_lets | with_reducible intro _ | split)

theorem ladderBlock_keeps {κ : Scope} {u : State} (n off : Nat) (data : Bytes) (s : State) (h : Keeps κ u s) : Keeps κ u (ladderBlock n off data s) := by
  unfold ladderBlock
  repeat' (first
      | with_reducible exact h | with_reducible assumption | with_reducible refine Keeps.ite ?_ ?_ | with_reducible apply setResult_keeps
      | with_reducible refine updUpd_keeps ?_ _ (by rfl) | with_reducible intro _ | split)

theorem ladderCommit_keeps {κ : Scope} {u : State} (n : Nat) (s : State) (h : Keeps κ u s) : KeepsE κ u (ladderCommit n s) := by
  unfold ladderCommit
  repeat' (first
      | with_reducible exact h | with_reducible assumption | with_reducible refine Keeps.ite ?_ ?_
      | with_reducible refine KeepsE.ite ?_ ?_ | with_reducible refine KeepsE.ok ?_ | with_reducible exact KeepsE.error _
      | with_reducible refine updUpd_keeps ?_ _ (by rfl)
      | with_reducible refine updRegion_keeps ?_ _ _ (fun _ => by first | rfl | ((repeat' split) <;> rfl))
      | with_reducible apply updRecord_keeps | with_reducible apply setResult_keeps | dsimp only | with_reducible intro _ | split)

theorem ladderImage_keeps {κ : Scope} {u : State} (n : Nat) (hdr sig body : Bytes) (s : State) (h : Keeps κ u s) : KeepsE κ u (ladderImage n hdr sig body s) := by
  unfold ladderImage
  repeat' (first
      | with_reducible exact h | with_reducible assumption | with_reducible refine Keeps.ite ?_ ?_
      | with_reducible refine KeepsE.ite ?_ ?_ | with_reducible refine KeepsE.ok ?_ | with_reducible exact KeepsE.error _
      | with_reducible apply ladderOffer_keeps | with_reducible apply ladderCommit_keeps | with_reducible apply ladderBlock_keeps
      | with_reducible refine KeepsE.of_eq (by assumption) ?_ | extract_lets | with_reducible intro _ | split)

theorem execLadderImageWrite_keeps {κ : Scope} {u : State} (sess : Nat) (hdr sig body : Bytes) (s : State) (h : Keeps κ u s) : KeepsO κ u (execLadderImageWrite sess hdr sig body s) := by
  unfold execLadderImageWrite
  repeat' (first
      | with_reducible exact h | with_reducible assumption | with_reducible refine Keeps.ite ?_ ?_
      | with_reducible refine KeepsE.ite ?_ ?_ | with_reducible refine KeepsE.ok ?_ | with_reducible exact KeepsE.error _
      | with_reducible refine KeepsO.ite ?_ ?_ | with_reducible refine KeepsO.next ?_ | with_reducible exact KeepsO.refused _
      | with_reducible apply asSession_keeps | with_reducible apply ladderImage_keeps
      | with_reducible refine KeepsE.of_eq (by assumption) ?_ | with_reducible intro _ | split)

theorem updWrite_keeps {κ : Scope} {u : State} (w : Ctx) (i sub : Nat) (v : Val) (s : State) (h : Keeps κ u s) : KeepsE κ u (updWrite w i sub v s) := by
  unfold updWrite
  repeat' (first
      | with_reducible exact h | with_reducible assumption | with_reducible refine Keeps.ite ?_ ?_
      | with_reducible refine KeepsE.ite ?_ ?_ | with_reducible refine KeepsE.ok ?_ | with_reducible exact KeepsE.error _
      | with_reducible apply checked_keeps | with_reducible apply put_keeps | with_reducible apply ladderOffer_keeps
      | with_reducible apply offer_keeps | with_reducible apply setResult_keeps | with_reducible apply ladderBlock_keeps
      | with_reducible apply block_keeps | with_reducible apply ladderCommit_keeps | with_reducible apply regionCommand_keeps
      | with_reducible refine KeepsE.of_eq (by assumption) ?_ | extract_lets | with_reducible intro _ | split)

theorem updateCommand_keeps {κ : Scope} {u : State} (src : UpSource) (cmd c : Nat) (s : State) (h : Keeps κ u s) : KeepsO κ u (updateCommand src cmd c s) := by
  unfold updateCommand
  repeat' (first
      | with_reducible exact h | with_reducible assumption | with_reducible refine Keeps.ite ?_ ?_
      | with_reducible refine KeepsO.ite ?_ ?_ | with_reducible refine KeepsO.next ?_ | with_reducible exact KeepsO.refused _
      | with_reducible apply asSession_keeps | with_reducible apply updWrite_keeps | with_reducible apply answered_keeps
      | with_reducible apply regionCommand_keeps | with_reducible refine Keeps2.snd ?_
      | with_reducible refine Keeps2.of_eq (by assumption) ?_ | with_reducible refine Keeps2.ite ?_ ?_
      | with_reducible refine KeepsE.of_eq (by assumption) ?_ | with_reducible intro _ | split | with_reducible refine Keeps2.mk ?_)

theorem execUpdateOffer_keeps {κ : Scope} {u : State} (src : UpSource) (rec_ : Bytes) (s : State) (h : Keeps κ u s) : KeepsO κ u (execUpdateOffer src rec_ s) := by
  unfold execUpdateOffer
  repeat' (first
      | with_reducible exact h | with_reducible assumption | with_reducible refine Keeps.ite ?_ ?_
      | with_reducible refine KeepsO.ite ?_ ?_ | with_reducible refine KeepsO.next ?_ | with_reducible exact KeepsO.refused _
      | with_reducible apply asSession_keeps | with_reducible apply updWrite_keeps | with_reducible apply fleetOffer_keeps
      | with_reducible refine KeepsE.of_eq (by assumption) ?_ | with_reducible intro _ | split)

theorem execUpdateBlock_keeps {κ : Scope} {u : State} (src : UpSource) (offset : Nat) (data : Bytes) (s : State) (h : Keeps κ u s) : KeepsO κ u (execUpdateBlock src offset data s) := by
  unfold execUpdateBlock
  repeat' (first
      | with_reducible exact h | with_reducible assumption | with_reducible refine Keeps.ite ?_ ?_
      | with_reducible refine KeepsO.ite ?_ ?_ | with_reducible refine KeepsO.next ?_ | with_reducible exact KeepsO.refused _
      | with_reducible apply asSession_keeps | with_reducible apply updWrite_keeps | with_reducible apply block_keeps
      | with_reducible refine KeepsE.of_eq (by assumption) ?_ | with_reducible intro _ | split)

theorem execUpdateCommit_keeps {κ : Scope} {u : State} (src : UpSource) (s : State) (h : Keeps κ u s) : KeepsO κ u (execUpdateCommit src s) := by
  unfold execUpdateCommit
  repeat' (first
      | with_reducible exact h | with_reducible assumption | with_reducible refine Keeps.ite ?_ ?_
      | with_reducible refine KeepsO.ite ?_ ?_ | with_reducible refine KeepsO.next ?_ | with_reducible exact KeepsO.refused _
      | with_reducible apply updateCommand_keeps | with_reducible intro _ | split)

theorem execUpdateAbort_keeps {κ : Scope} {u : State} (src : UpSource) (s : State) (h : Keeps κ u s) : KeepsO κ u (execUpdateAbort src s) := by
  unfold execUpdateAbort
  repeat' (first
      | with_reducible exact h | with_reducible assumption | with_reducible refine Keeps.ite ?_ ?_
      | with_reducible refine KeepsO.ite ?_ ?_ | with_reducible refine KeepsO.next ?_ | with_reducible exact KeepsO.refused _
      | with_reducible apply updateCommand_keeps | with_reducible intro _ | split)

theorem execWithdrawStaged_keeps {κ : Scope} {u : State} (src : UpSource) (region : Nat) (s : State) (h : Keeps κ u s) : KeepsO κ u (execWithdrawStaged src region s) := by
  unfold execWithdrawStaged
  repeat' (first
      | with_reducible exact h | with_reducible assumption | with_reducible refine Keeps.ite ?_ ?_
      | with_reducible refine KeepsO.ite ?_ ?_ | with_reducible refine KeepsO.next ?_ | with_reducible exact KeepsO.refused _
      | with_reducible apply updateCommand_keeps | with_reducible intro _ | split)

theorem execConfirmRegion_keeps {κ : Scope} {u : State} (src : UpSource) (region : Nat) (s : State) (h : Keeps κ u s) : KeepsO κ u (execConfirmRegion src region s) := by
  unfold execConfirmRegion
  repeat' (first
      | with_reducible exact h | with_reducible assumption | with_reducible refine Keeps.ite ?_ ?_
      | with_reducible refine KeepsO.ite ?_ ?_ | with_reducible refine KeepsO.next ?_ | with_reducible exact KeepsO.refused _
      | with_reducible apply updateCommand_keeps | with_reducible intro _ | split)

theorem execFallBack_keeps {κ : Scope} {u : State} (src : UpSource) (region : Nat) (s : State) (h : Keeps κ u s) : KeepsO κ u (execFallBack src region s) := by
  unfold execFallBack
  repeat' (first
      | with_reducible exact h | with_reducible assumption | with_reducible refine Keeps.ite ?_ ?_
      | with_reducible refine KeepsO.ite ?_ ?_ | with_reducible refine KeepsO.next ?_ | with_reducible exact KeepsO.refused _
      | with_reducible apply updateCommand_keeps | with_reducible intro _ | split)

theorem fleetEntry_keeps {κ : Scope} {u : State} (stamp : Nat) (e : ObjEntry) (s : State) (h : Keeps κ u s) : Keeps κ u (fleetEntry stamp e s) := by
  unfold fleetEntry
  repeat' (first
      | with_reducible exact h | with_reducible assumption | with_reducible refine Keeps.ite ?_ ?_ | with_reducible apply fleetOffer_keeps
      | with_reducible apply block_keeps | with_reducible apply answered_keeps | with_reducible apply regionCommand_keeps
      | with_reducible refine Keeps2.snd ?_ | with_reducible refine Keeps2.of_eq (by assumption) ?_
      | with_reducible refine Keeps2.ite ?_ ?_ | with_reducible refine KeepsE.of_eq (by assumption) ?_ | with_reducible intro _ | split
      | with_reducible refine Keeps2.mk ?_)

theorem fleetUpdate_keeps {κ : Scope} {u : State} (stamp : Nat) (l : List ObjEntry) (s : State) (h : Keeps κ u s) : Keeps κ u (fleetUpdate stamp l s) := by
  unfold fleetUpdate
  repeat' (first
      | with_reducible exact h | with_reducible assumption | with_reducible refine Keeps.ite ?_ ?_
      | (with_reducible refine Keeps.foldl ?_ ?_; rotate_left; intro _ _ _)
      | (with_reducible refine Keeps1.foldl ?_ ?_; rotate_left; intro _ _ _)
      | (with_reducible refine Keeps2.foldl ?_ ?_; rotate_left; intro _ _ _) | with_reducible apply fleetEntry_keeps
      | with_reducible intro _ | split)

theorem execFleetUpdateMessage_keeps {κ : Scope} {u : State} (stamp : Nat) (entries : List ObjEntry) (s : State) (h : Keeps κ u s) : KeepsO κ u (execFleetUpdateMessage stamp entries s) := by
  unfold execFleetUpdateMessage
  repeat' (first
      | with_reducible exact h | with_reducible assumption | with_reducible refine Keeps.ite ?_ ?_
      | with_reducible refine KeepsO.ite ?_ ?_ | with_reducible refine KeepsO.next ?_ | with_reducible exact KeepsO.refused _
      | with_reducible apply fleetUpdate_keeps | with_reducible intro _ | split)

theorem rejectMessage_keeps {κ : Scope} {u : State} (s : State) (h : Keeps κ u s) : Keeps κ u (rejectMessage s) := by
  unfold rejectMessage
  repeat' (first
      | with_reducible exact h | with_reducible assumption | with_reducible refine Keeps.ite ?_ ?_ | with_reducible apply updFleet_keeps
      | with_reducible intro _ | split)

theorem fleetMessage_keeps {κ : Scope} {u : State} (topic : InTopic) (msg : Bytes) (s : State) (h : Keeps κ u s) : Keeps κ u (fleetMessage topic msg s) := by
  unfold fleetMessage
  repeat' (first
      | with_reducible exact h | with_reducible assumption | with_reducible refine Keeps.ite ?_ ?_ | with_reducible apply rtcmStep_keeps
      | with_reducible apply rejectMessage_keeps | with_reducible apply storePrior_keeps
      | with_reducible refine updSteer_keeps ?_ _ (by rfl) (by rfl) | with_reducible refine steer_keeps ?_ _ (by first | exact id | (intro e; cases e)) (by first | exact id | (intro e; cases e))
      | with_reducible apply fleetUpdate_keeps | with_reducible intro _ | split)

theorem execFleetMessageReceive_keeps {κ : Scope} {u : State} (topic : InTopic) (msg : Bytes) (s : State) (h : Keeps κ u s) : KeepsO κ u (execFleetMessageReceive topic msg s) := by
  unfold execFleetMessageReceive
  repeat' (first
      | with_reducible exact h | with_reducible assumption | with_reducible refine Keeps.ite ?_ ?_
      | with_reducible refine KeepsO.ite ?_ ?_ | with_reducible refine KeepsO.next ?_ | with_reducible exact KeepsO.refused _
      | with_reducible apply fleetMessage_keeps | with_reducible intro _ | split)

theorem inEffect_keeps {κ : Scope} {u : State} (o : Offer) (s : State) (h : Keeps κ u s) : Keeps κ u (inEffect o s) := by
  unfold inEffect
  repeat' (first
      | with_reducible exact h | with_reducible assumption | with_reducible refine Keeps.ite ?_ ?_
      | with_reducible refine updRegion_keeps ?_ _ _ (fun _ => by first | rfl | ((repeat' split) <;> rfl))
      | with_reducible apply updLead_keeps | with_reducible apply setResult_keeps | with_reducible apply updRecord_keeps
      | with_reducible apply freeAnte_keeps | extract_lets | with_reducible intro _ | split)

theorem applyImage_keeps {κ : Scope} {u : State} (c code : Nat) (converted fits : Bool) (s : State) (h : Keeps κ u s) : Keeps κ u (applyImage c code converted fits s) := by
  unfold applyImage
  repeat' (first
      | with_reducible exact h | with_reducible assumption | with_reducible refine Keeps.ite ?_ ?_ | with_reducible apply endUpdate_keeps
      | with_reducible apply inEffect_keeps | with_reducible intro _ | split)

theorem execGalHandover_keeps {κ : Scope} {u : State} (accepted converted : Bool) (s : State) (h : Keeps κ u s) : KeepsO κ u (execGalHandover accepted converted s) := by
  unfold execGalHandover
  repeat' (first
      | with_reducible exact h | with_reducible assumption | with_reducible refine Keeps.ite ?_ ?_
      | with_reducible refine KeepsO.ite ?_ ?_ | with_reducible refine KeepsO.next ?_ | with_reducible exact KeepsO.refused _
      | with_reducible apply applyImage_keeps | with_reducible intro _ | split)

theorem execLpeHandover_keeps {κ : Scope} {u : State} (costs : List Nat) (s : State) (h : Keeps κ u s) : KeepsO κ u (execLpeHandover costs s) := by
  unfold execLpeHandover
  repeat' (first
      | with_reducible exact h | with_reducible assumption | with_reducible refine Keeps.ite ?_ ?_
      | with_reducible refine KeepsO.ite ?_ ?_ | with_reducible refine KeepsO.next ?_ | with_reducible exact KeepsO.refused _
      | with_reducible apply applyImage_keeps | with_reducible intro _ | split)

theorem execLanHandover_keeps {κ : Scope} {u : State} (s : State) (h : Keeps κ u s) : KeepsO κ u (execLanHandover s) := by
  unfold execLanHandover
  repeat' (first
      | with_reducible exact h | with_reducible assumption | with_reducible refine Keeps.ite ?_ ?_
      | with_reducible refine KeepsO.ite ?_ ?_ | with_reducible refine KeepsO.next ?_ | with_reducible exact KeepsO.refused _
      | with_reducible apply applyImage_keeps | with_reducible intro _ | split)

theorem applyPackage_keeps {κ : Scope} {u : State} (s : State) (h : Keeps κ u s) : Keeps κ u (applyPackage s) := by
  unfold applyPackage
  repeat' (first
      | with_reducible exact h | with_reducible assumption | with_reducible refine Keeps.ite ?_ ?_ | with_reducible apply endUpdate_keeps
      | with_reducible apply applyLive_keeps | with_reducible refine updPer_keeps ?_ _ (by rfl)
      | with_reducible refine updRegion_keeps ?_ _ _ (fun _ => by first | rfl | ((repeat' split) <;> rfl))
      | with_reducible apply setResult_keeps | with_reducible apply updRecord_keeps | with_reducible apply freeAnte_keeps
      | with_reducible refine Keeps2.snd ?_ | with_reducible refine Keeps2.of_eq (by assumption) ?_
      | with_reducible refine Keeps2.ite ?_ ?_ | dsimp only | with_reducible intro _ | split | with_reducible refine Keeps2.mk ?_)

theorem execMdpLiveApply_keeps {κ : Scope} {u : State} (s : State) (h : Keeps κ u s) : KeepsO κ u (execMdpLiveApply s) := by
  unfold execMdpLiveApply
  repeat' (first
      | with_reducible exact h | with_reducible assumption | with_reducible refine Keeps.ite ?_ ?_
      | with_reducible refine KeepsO.ite ?_ ?_ | with_reducible refine KeepsO.next ?_ | with_reducible exact KeepsO.refused _
      | with_reducible apply applyPackage_keeps | with_reducible intro _ | split)

theorem stageImage_keeps {κ : Scope} {u : State} (s : State) (h : Keeps κ u s) : Keeps κ u (stageImage s) := by
  unfold stageImage
  repeat' (first
      | with_reducible exact h | with_reducible assumption | with_reducible refine Keeps.ite ?_ ?_
      | with_reducible refine updRegion_keeps ?_ _ _ (fun _ => by first | rfl | ((repeat' split) <;> rfl))
      | with_reducible apply setResult_keeps | with_reducible apply updRecord_keeps | with_reducible apply freeAnte_keeps | extract_lets
      | with_reducible intro _ | split)

theorem execImageStaged_keeps {κ : Scope} {u : State} (s : State) (h : Keeps κ u s) : KeepsO κ u (execImageStaged s) := by
  unfold execImageStaged
  repeat' (first
      | with_reducible exact h | with_reducible assumption | with_reducible refine Keeps.ite ?_ ?_
      | with_reducible refine KeepsO.ite ?_ ?_ | with_reducible refine KeepsO.next ?_ | with_reducible exact KeepsO.refused _
      | with_reducible apply stageImage_keeps | with_reducible intro _ | split)

theorem copyStaged_keeps {κ : Scope} {u : State} (c : Nat) (verified selfTest converted : Bool) (s : State) (h : Keeps κ u s) : Keeps κ u (copyStaged c verified selfTest converted s) := by
  unfold copyStaged
  repeat' (first
      | with_reducible exact h | with_reducible assumption | with_reducible refine Keeps.ite ?_ ?_
      | with_reducible refine updRegion_keeps ?_ _ _ (fun _ => by first | rfl | ((repeat' split) <;> rfl))
      | with_reducible apply updRecord_keeps | with_reducible apply fallBackNow_keeps | extract_lets | with_reducible intro _ | split)

theorem execStagedCopy_keeps {κ : Scope} {u : State} (region : Nat) (verified selfTest converted : Bool) (s : State) (h : Keeps κ u s) : KeepsO κ u (execStagedCopy region verified selfTest converted s) := by
  unfold execStagedCopy
  repeat' (first
      | with_reducible exact h | with_reducible assumption | with_reducible refine Keeps.ite ?_ ?_
      | with_reducible refine KeepsO.ite ?_ ?_ | with_reducible refine KeepsO.next ?_ | with_reducible exact KeepsO.refused _
      | with_reducible apply withUnit_keeps | with_reducible apply copyStaged_keeps | with_reducible intro _ | split)

theorem orphan_keeps {κ : Scope} {u : State} (s : State) (h : Keeps κ u s) : Keeps κ u (orphan s) := by
  unfold orphan
  repeat' (first
      | with_reducible exact h | with_reducible assumption | with_reducible refine Keeps.ite ?_ ?_
      | with_reducible refine updUpd_keeps ?_ _ (by rfl) | with_reducible intro _ | split)

theorem execOrphanHoldExpiry_keeps {κ : Scope} {u : State} (s : State) (h : Keeps κ u s) : KeepsO κ u (execOrphanHoldExpiry s) := by
  unfold execOrphanHoldExpiry
  repeat' (first
      | with_reducible exact h | with_reducible assumption | with_reducible refine Keeps.ite ?_ ?_
      | with_reducible refine KeepsO.ite ?_ ?_ | with_reducible refine KeepsO.next ?_ | with_reducible exact KeepsO.refused _
      | with_reducible apply freeAnte_keeps | with_reducible intro _ | split)

theorem execProbationEnd_keeps {κ : Scope} {u : State} (region : Nat) (s : State) (h : Keeps κ u s) : KeepsO κ u (execProbationEnd region s) := by
  unfold execProbationEnd
  repeat' (first
      | with_reducible exact h | with_reducible assumption | with_reducible refine Keeps.ite ?_ ?_
      | with_reducible refine KeepsO.ite ?_ ?_ | with_reducible refine KeepsO.next ?_ | with_reducible exact KeepsO.refused _
      | with_reducible apply withUnit_keeps | with_reducible apply confirmed_keeps | with_reducible intro _ | split)

theorem execEngineRestartFallBack_keeps {κ : Scope} {u : State} (region : Nat) (s : State) (h : Keeps κ u s) : KeepsO κ u (execEngineRestartFallBack region s) := by
  unfold execEngineRestartFallBack
  repeat' (first
      | with_reducible exact h | with_reducible assumption | with_reducible refine Keeps.ite ?_ ?_
      | with_reducible refine KeepsO.ite ?_ ?_ | with_reducible refine KeepsO.next ?_ | with_reducible exact KeepsO.refused _
      | with_reducible apply withUnit_keeps | with_reducible apply fallBackNow_keeps | with_reducible intro _ | split)

theorem probationFrame_keeps {κ : Scope} {u : State} (s : State) (h : Keeps κ u s) : Keeps κ u (probationFrame s) := by
  refine Keeps.ite (regions_keeps h _ fun c => ?_) h
  have e : ∀ r : Region, (if r.state = 3 then { r with left := r.left - 100000 } else r).fuse = r.fuse := fun r => by split <;> rfl
  simp only [List.getD_eq_getElem?_getD, List.getElem?_map]
  cases s.upd.regions[c]? with
  | none => simp
  | some r => simp [e]

theorem updShutdown_keeps {κ : Scope} {u : State} (s : State) (h : Keeps κ u s) : Keeps κ u (updShutdown s) := by
  unfold updShutdown
  repeat' (first
      | with_reducible exact h | with_reducible assumption | with_reducible refine Keeps.ite ?_ ?_ | with_reducible apply endUpdate_keeps
      | with_reducible refine updUpd_keeps ?_ _ (by rfl) | extract_lets | with_reducible intro _ | split)

end Sys2Proof.Machine
end

