-- ==== Sys2Proof/Laws/KeepsSession.lean ====
section
/-! SUPPORT. `Keeps` for the operations of Machine/Session.lean. -/

namespace Sys2Proof.Machine

set_option Elab.async false

theorem devRecord_keeps {κ : Scope} {u : State} (old new cause : Nat) (s : State) (h : Keeps κ u s) : Keeps κ u (devRecord old new cause s) :=
  record_keeps _ _ h

theorem record_power (s : State) (e : FlowEv) : (s.record e).pw = s.pw ∧ (s.record e).steer = s.steer ∧ (s.record e).valve = s.valve ∧
    (s.record e).fio = s.fio := by
  unfold State.record State.rollSecond
  repeat' split
  all_goals exact ⟨rfl, rfl, rfl, rfl⟩

theorem noEnable_congr {s t : State} (valve : t.valve = s.valve) (fio : t.fio = s.fio) (steer : t.steer = s.steer) : t.noEnable = s.noEnable := by
  unfold State.noEnable State.vbank State.fgrp; rw [valve, fio, steer]

/-- A change of the device state. -/
theorem dev_keeps {κ : Scope} {u s : State} (h : Keeps κ u s) (f : Pw → Pw) (ign : (f s.pw).ign = s.pw.ign)
    (still : κ.still = true → s.pw.dev = .run ∨ s.pw.dev = .service)
    (enables : u.InvAt κ → κ.enables = true → (f s.pw).dev.drives = true ∨ s.noEnable = true)
    (engaged : u.InvAt κ → κ.engaged = true → s.steer.engaged = true → (f s.pw).dev = .run) : Keeps κ u (s.updPw f) := by
  refine ⟨h.queue, h.free, h.fuse, h.rollback, fun k r v => ?_, fun k g => ?_, fun i => ?_⟩
  · have e := h.dev k r v
    exact ((still k).elim (e ▸ r) (e ▸ v)).elim
  · have e := h.quiet k g
    exact ⟨fun c => e.1 ⟨still k, ign ▸ c.2⟩, e.2.trans ⟨fun _ => id, fun _ => id, id, id⟩⟩
  · have j := h.inv i
    refine ⟨⟨j.data.dict, j.data.fot, j.data.history, j.data.sessions, j.data.fuses⟩, fun k => ?_, engaged i⟩
    refine (enables i k).elim (fun d => (j.enables k).imp_left fun e => ?_) .inr
    simp only [Bool.and_eq_true] at e ⊢
    exact ⟨d, ign.trans e.2⟩

theorem noteHistory_keeps {κ : Scope} {u : State} (state cause : Nat) (s : State) (h : Keeps κ u s) : Keeps κ u (noteHistory state cause s) := by
  unfold noteHistory
  repeat' (first
      | with_reducible exact h | with_reducible assumption | with_reducible refine Keeps.ite ?_ ?_
      | with_reducible refine updBelay_keeps ?_ _ (by rfl) | with_reducible refine history_keeps ?_ _ (by intro _; simp)
      | with_reducible intro _ | split)

theorem changeDev_keeps {κ : Scope} {u : State} (d : Dev) (cause : Nat) (s : State)
    (still : κ.still = true → s.pw.dev = .run ∨ s.pw.dev = .service)
    (enables : u.InvAt κ → κ.enables = true → d.drives = true ∨ s.noEnable = true)
    (engaged : u.InvAt κ → κ.engaged = true → s.steer.engaged = true → d = .run) (h : Keeps κ u s) : Keeps κ u (changeDev d cause s) := by
  unfold changeDev
  extract_lets old sleep s1 s2
  have h2 : Keeps κ u s2 := by
    refine noteHistory_keeps _ _ _ ?_
    by_cases q : sleep = true
    · have e : s1 = devRecord old (devCode d) cause s := if_pos q
      obtain ⟨p, k, v, f⟩ := record_power s ⟨0x1002, devCode d, 1, leBytes 1 old ++ leBytes 1 cause ++ List.replicate 6 0#8, [], 0xFFFFFFFF, 0xF⟩
      rw [e]
      exact dev_keeps (devRecord_keeps _ _ _ _ h) _ rfl (fun z => (congrArg Pw.dev p) ▸ still z)
        (fun i z => (noEnable_congr v f k : (devRecord old (devCode d) cause s).noEnable = _) ▸ enables i z) (fun i z g => engaged i z (k ▸ g))
    · have e : s1 = s := if_neg q
      rw [e]
      exact dev_keeps h _ rfl still enables engaged
  exact Keeps.ite h2 (devRecord_keeps _ _ _ _ h2)

theorem serviceToRun_keeps {κ : Scope} {u : State} (cause : Nat) (s : State) (service : s.pw.dev = .service) (h : Keeps κ u s) :
    Keeps κ u (serviceToRun cause s) :=
  changeDev_keeps _ _ _ (fun _ => .inr service) (fun _ _ => .inl rfl) (fun _ _ _ => rfl) (updPw_keeps h _ rfl rfl)

theorem endSession_keeps {κ : Scope} {u : State} (n : Nat) (s : State) (h : Keeps κ u s) : Keeps κ u (endSession n s) := by
  unfold endSession
  refine Keeps.ite h ?_
  extract_lets s1 s2 s3 s4 s5
  have h1 : Keeps κ u s1 := canSessionEnd_keeps _ _ (testsEnd_keeps _ _ (traceSessionEnd_keeps _ _ h))
  have h2 : Keeps κ u s2 := Keeps.ite (orphan_keeps _ h1) h1
  clear_value s2
  have h3 : Keeps κ u s3 := updUpd_keeps h2 _ rfl
  have h4 : Keeps κ u s4 := updPctl_keeps h3 _
  have h5 : Keeps κ u s5 := sessions_keeps h4 _ (by simp)
  clear_value s5
  refine Keeps.ite ?_ h5
  split
  · exact serviceToRun_keeps _ _ (by assumption) h5
  · exact updPw_keeps h5 _ rfl rfl

theorem endSessions_keeps {κ : Scope} {u : State} (p : Sess → Bool) (s : State) (h : Keeps κ u s) : Keeps κ u (endSessions p s) := by
  unfold endSessions
  repeat' (first
      | with_reducible exact h | with_reducible assumption | with_reducible refine Keeps.ite ?_ ?_
      | (with_reducible refine Keeps.foldl ?_ ?_; rotate_left; intro _ _ _)
      | (with_reducible refine Keeps1.foldl ?_ ?_; rotate_left; intro _ _ _)
      | (with_reducible refine Keeps2.foldl ?_ ?_; rotate_left; intro _ _ _) | with_reducible apply endSession_keeps
      | with_reducible intro _ | split)

theorem c8Gone_keeps {κ : Scope} {u : State} (s : State) (h : Keeps κ u s) : Keeps κ u (c8Gone s) := by
  unfold c8Gone
  repeat' (first
      | with_reducible exact h | with_reducible assumption | with_reducible refine Keeps.ite ?_ ?_
      | with_reducible apply endSessions_keeps | with_reducible intro _ | split)

theorem thenNext_keeps {κ : Scope} {u : State} {f : State → State} {o : Out} (k : ∀ t, Keeps κ u t → Keeps κ u (f t)) (h : KeepsO κ u o) :
    KeepsO κ u (thenNext f o) := by
  unfold thenNext
  split
  · exact .next (k _ (h _ rfl))
  · exact h

theorem execBusOff_keeps {κ : Scope} {u : State} (c : Nat) (s : State) (h : Keeps κ u s) : KeepsO κ u (execBusOff c s) := by
  unfold execBusOff
  repeat' (first
      | with_reducible exact h | with_reducible assumption | with_reducible refine Keeps.ite ?_ ?_
      | with_reducible refine KeepsO.ite ?_ ?_ | with_reducible refine KeepsO.next ?_ | with_reducible exact KeepsO.refused _
      | with_reducible apply withUnit_keeps | with_reducible apply c8Gone_keeps | with_reducible apply goBusOff_keeps
      | with_reducible intro _ | split)

theorem execCanChannelConfigWrite_keeps {κ : Scope} {u : State} (sess c sub : Nat) (v : Int) (s : State) (h : Keeps κ u s) :
    KeepsO κ u (execCanChannelConfigWrite sess c sub v s) :=
  KeepsO.ite (thenNext_keeps c8Gone_keeps (asSession_keeps h fun _ _ k => canWrite_keeps _ _ _ _ _ k)) (withUnit_keeps h)

theorem openSession_keeps {κ : Scope} {u : State} (tr : Transport) (source : Nat) (s : State) (h : Keeps κ u s) :
    KeepsP κ u (openSession tr source s) := by
  intro p e
  obtain ⟨n, -, rfl⟩ := Option.map_eq_some_iff.1 e
  exact updSess_keeps h _ _

theorem execSessionOpen_keeps {κ : Scope} {u : State} (tr : Transport) (source : Nat) (s : State) (h : Keeps κ u s) : KeepsO κ u (execSessionOpen tr source s) := by
  unfold execSessionOpen
  repeat' (first
      | with_reducible exact h | with_reducible assumption | with_reducible refine Keeps.ite ?_ ?_
      | with_reducible refine KeepsO.ite ?_ ?_ | with_reducible refine KeepsO.next ?_ | with_reducible exact KeepsO.refused _
      | with_reducible apply openSession_keeps | with_reducible refine KeepsP.of_eq (by assumption) ?_ | with_reducible intro _ | split)

theorem requestRole_keeps {κ : Scope} {u : State} (n r : Nat) (s : State) (h : Keeps κ u s) : KeepsE κ u (requestRole n r s) := by
  unfold requestRole
  repeat' (first
      | with_reducible exact h | with_reducible assumption | with_reducible refine Keeps.ite ?_ ?_
      | with_reducible refine KeepsE.ite ?_ ?_ | with_reducible refine KeepsE.ok ?_ | with_reducible exact KeepsE.error _
      | with_reducible apply updSess_keeps | with_reducible intro _ | split)

theorem takeChallenge_keeps {κ : Scope} {u : State} (n : Nat) (random : Bytes) (s : State) (h : Keeps κ u s) : Keeps κ u (takeChallenge n random s) := by
  unfold takeChallenge
  repeat' (first
      | with_reducible exact h | with_reducible assumption | with_reducible refine Keeps.ite ?_ ?_ | with_reducible apply updSess_keeps
      | with_reducible apply answer_keeps | with_reducible intro _ | split)

theorem roleRecord_keeps {κ : Scope} {u : State} (code n r source : Nat) (s : State) (h : Keeps κ u s) : Keeps κ u (roleRecord code n r source s) := by
  unfold roleRecord
  repeat' (first
      | with_reducible exact h | with_reducible assumption | with_reducible refine Keeps.ite ?_ ?_ | with_reducible apply record_keeps
      | with_reducible intro _ | split)

theorem failResponse_keeps {κ : Scope} {u : State} (n r : Nat) (s : State) (h : Keeps κ u s) : Keeps κ u (failResponse n r s) := by
  unfold failResponse
  repeat' (first
      | with_reducible exact h | with_reducible assumption | with_reducible refine Keeps.ite ?_ ?_
      | with_reducible refine updServ_keeps ?_ _ (by rfl) | with_reducible refine sessions_keeps ?_ _ (by simp)
      | with_reducible apply roleRecord_keeps | extract_lets | with_reducible intro _ | split)

theorem checkResponse_keeps {κ : Scope} {u : State} (n : Nat) (r : Bytes) (s : State) (h : Keeps κ u s) : KeepsE κ u (checkResponse n r s) := by
  unfold checkResponse
  repeat' (first
      | with_reducible exact h | with_reducible assumption | with_reducible refine Keeps.ite ?_ ?_
      | with_reducible refine KeepsE.ite ?_ ?_ | with_reducible refine KeepsE.ok ?_ | with_reducible exact KeepsE.error _
      | with_reducible apply updSess_keeps | with_reducible apply roleRecord_keeps | with_reducible apply failResponse_keeps
      | extract_lets | with_reducible intro _ | split)

theorem sessionWrite_keeps {κ : Scope} {u : State} (w : Ctx) (i sub : Nat) (v : Val) (s : State) (h : Keeps κ u s) : KeepsE κ u (sessionWrite w i sub v s) := by
  unfold sessionWrite
  repeat' (first
      | with_reducible exact h | with_reducible assumption | with_reducible refine Keeps.ite ?_ ?_
      | with_reducible refine KeepsE.ite ?_ ?_ | with_reducible refine KeepsE.ok ?_ | with_reducible exact KeepsE.error _
      | with_reducible apply checked_keeps | with_reducible apply requestRole_keeps | with_reducible apply checkResponse_keeps
      | with_reducible apply updSess_keeps | with_reducible apply endSession_keeps | with_reducible refine KeepsE.of_eq (by assumption) ?_
      | with_reducible intro _ | split)

theorem execRoleRequest_keeps {κ : Scope} {u : State} (sess : Nat) (v : Int) (s : State) (h : Keeps κ u s) : KeepsO κ u (execRoleRequest sess v s) := by
  unfold execRoleRequest
  repeat' (first
      | with_reducible exact h | with_reducible assumption | with_reducible refine Keeps.ite ?_ ?_
      | with_reducible refine KeepsO.ite ?_ ?_ | with_reducible refine KeepsO.next ?_ | with_reducible exact KeepsO.refused _
      | with_reducible apply asSession_keeps | with_reducible apply sessionWrite_keeps
      | with_reducible refine KeepsE.of_eq (by assumption) ?_ | with_reducible intro _ | split)

theorem execResponse_keeps {κ : Scope} {u : State} (sess : Nat) (r : Bytes) (s : State) (h : Keeps κ u s) : KeepsO κ u (execResponse sess r s) := by
  unfold execResponse
  repeat' (first
      | with_reducible exact h | with_reducible assumption | with_reducible refine Keeps.ite ?_ ?_
      | with_reducible refine KeepsO.ite ?_ ?_ | with_reducible refine KeepsO.next ?_ | with_reducible exact KeepsO.refused _
      | with_reducible apply asSession_keeps | with_reducible apply sessionWrite_keeps
      | with_reducible refine KeepsE.of_eq (by assumption) ?_ | with_reducible intro _ | split)

theorem execSessionClose_keeps {κ : Scope} {u : State} (sess : Nat) (v : Int) (s : State) (h : Keeps κ u s) : KeepsO κ u (execSessionClose sess v s) := by
  unfold execSessionClose
  repeat' (first
      | with_reducible exact h | with_reducible assumption | with_reducible refine Keeps.ite ?_ ?_
      | with_reducible refine KeepsO.ite ?_ ?_ | with_reducible refine KeepsO.next ?_ | with_reducible exact KeepsO.refused _
      | with_reducible apply asSession_keeps | with_reducible apply sessionWrite_keeps
      | with_reducible refine KeepsE.of_eq (by assumption) ?_ | with_reducible intro _ | split)

theorem execChallenge_keeps {κ : Scope} {u : State} (sess : Nat) (random : Bytes) (s : State) (h : Keeps κ u s) : KeepsO κ u (execChallenge sess random s) := by
  unfold execChallenge
  repeat' (first
      | with_reducible exact h | with_reducible assumption | with_reducible refine Keeps.ite ?_ ?_
      | with_reducible refine KeepsO.ite ?_ ?_ | with_reducible refine KeepsO.next ?_ | with_reducible exact KeepsO.refused _
      | with_reducible apply withUnit_keeps | with_reducible apply takeChallenge_keeps | with_reducible apply touch_keeps
      | with_reducible intro _ | split)

theorem execRoleLockoutEnd_keeps {κ : Scope} {u : State} (source : Nat) (s : State) (h : Keeps κ u s) : KeepsO κ u (execRoleLockoutEnd source s) := by
  unfold execRoleLockoutEnd
  repeat' (first
      | with_reducible exact h | with_reducible assumption | with_reducible refine Keeps.ite ?_ ?_
      | with_reducible refine KeepsO.ite ?_ ?_ | with_reducible refine KeepsO.next ?_ | with_reducible exact KeepsO.refused _
      | with_reducible refine updServ_keeps ?_ _ (by rfl) | with_reducible refine sessions_keeps ?_ _ (by simp) | with_reducible intro _
      | split)

theorem execSessionTimeout_keeps {κ : Scope} {u : State} (sess : Nat) (s : State) (h : Keeps κ u s) : KeepsO κ u (execSessionTimeout sess s) := by
  unfold execSessionTimeout
  repeat' (first
      | with_reducible exact h | with_reducible assumption | with_reducible refine Keeps.ite ?_ ?_
      | with_reducible refine KeepsO.ite ?_ ?_ | with_reducible refine KeepsO.next ?_ | with_reducible exact KeepsO.refused _
      | with_reducible apply withUnit_keeps | with_reducible apply endSession_keeps | with_reducible intro _ | split)

theorem execTransferTimeout_keeps {κ : Scope} {u : State} (sess : Nat) (s : State) (h : Keeps κ u s) : KeepsO κ u (execTransferTimeout sess s) := by
  unfold execTransferTimeout
  repeat' (first
      | with_reducible exact h | with_reducible assumption | with_reducible refine Keeps.ite ?_ ?_
      | with_reducible refine KeepsO.ite ?_ ?_ | with_reducible refine KeepsO.next ?_ | with_reducible exact KeepsO.refused _
      | with_reducible apply withUnit_keeps | with_reducible apply updSess_keeps | with_reducible apply answer_keeps
      | with_reducible intro _ | split)

theorem execSessionLinkDownExpiry_keeps {κ : Scope} {u : State} (p : Nat) (s : State) (h : Keeps κ u s) : KeepsO κ u (execSessionLinkDownExpiry p s) := by
  unfold execSessionLinkDownExpiry
  repeat' (first
      | with_reducible exact h | with_reducible assumption | with_reducible refine Keeps.ite ?_ ?_
      | with_reducible refine KeepsO.ite ?_ ?_ | with_reducible refine KeepsO.next ?_ | with_reducible exact KeepsO.refused _
      | with_reducible apply withUnit_keeps | with_reducible apply endSessions_keeps | with_reducible intro _ | split)

theorem execUsbVbusChange_keeps {κ : Scope} {u : State} (present : Bool) (s : State) (h : Keeps κ u s) : KeepsO κ u (execUsbVbusChange present s) := by
  unfold execUsbVbusChange
  repeat' (first
      | with_reducible exact h | with_reducible assumption | with_reducible refine Keeps.ite ?_ ?_
      | with_reducible refine KeepsO.ite ?_ ?_ | with_reducible refine KeepsO.next ?_ | with_reducible exact KeepsO.refused _
      | with_reducible apply updNet_keeps | with_reducible apply endSessions_keeps | extract_lets | with_reducible intro _ | split)

theorem credentialWrite_keeps {κ : Scope} {u : State} (w : Ctx) (i sub : Nat) (v : Val) (s : State) (h : Keeps κ u s) : KeepsE κ u (credentialWrite w i sub v s) := by
  unfold credentialWrite
  repeat' (first
      | with_reducible exact h | with_reducible assumption | with_reducible refine Keeps.ite ?_ ?_
      | with_reducible refine KeepsE.ite ?_ ?_ | with_reducible refine KeepsE.ok ?_ | with_reducible exact KeepsE.error _
      | with_reducible apply checked_keeps
      | with_reducible refine updServ_keeps ?_ _ (by rfl) | with_reducible refine sessions_keeps ?_ _ (by simp)
      | with_reducible refine KeepsE.of_eq (by assumption) ?_ | extract_lets | with_reducible intro _ | split)

end Sys2Proof.Machine
end

