-- ==== Sys2Proof/Laws/KeepsPower.lean ====
section
/-! SUPPORT. `Keeps` for the operations of Machine/Power.lean. -/

namespace Sys2Proof.Machine

set_option Elab.async false

theorem retained_wf (l : List (Nat × Val)) : dictWf l = true → dictWf (retained l) = true := dictWf_filter _

theorem getD_off {α : Type} {l : List α} {d : α} {b : Nat} {f : α → α} {p : α → Bool} (hd : p d = false) (k : ∀ x, p (f x) = false) :
    p ((l.map f).getD b d) = false := by
  simp only [List.getD_eq_getElem?_getD, List.getElem?_map]
  cases l[b]? with
  | none => simpa using hd
  | some x => simpa using k x

/-- After a power-down nothing is granted or engaged. -/
theorem loseVolatile_off (s : State) : (loseVolatile s).noEnable = true ∧ (loseVolatile s).steer.engaged = false := by
  refine ⟨noEnable_iff.2 ⟨fun b _ => getD_off (p := VBank.enable) rfl fun _ => rfl, fun g l => ?_, rfl⟩, rfl⟩
  show (([{}, {}, {}, {}] : List FGrp).getD g {}).enable = false
  rcases g with _ | _ | _ | _ | g <;> simp

theorem loseVolatile_keeps {κ : Scope} {u : State} (s : State) (h : Keeps κ u s) : Keeps κ u (loseVolatile s) := by
  refine h.step rfl (Nat.le_refl _) id (fun _ => Nat.le_refl _) (fun i => ⟨retained_wf _ i.dict, i.fot, i.history, i.sessions, i.fuses⟩)
    ⟨rfl, rfl, .inr ⟨fun b => ?_, fun g => ?_, ?_, ?_⟩, ?_⟩
  · exact fun e => getD_map (p := fun x : VBank => x.enable = true) (fun x e => by cases e) e
  · show (([{}, {}, {}, {}] : List FGrp).getD g {}).enable = true → _
    rcases g with _ | _ | _ | _ | g <;> simp
  all_goals exact fun e => by cases e

theorem loseSessions_keeps {κ : Scope} {u : State} (s : State) (h : Keeps κ u s) : Keeps κ u (loseSessions s) :=
  updUpd_keeps (sessions16_keeps h _ (by simp)) _ rfl

theorem loadTime_keeps {κ : Scope} {u : State} (s : State) (h : Keeps κ u s) : Keeps κ u (loadTime s) := by
  unfold loadTime
  repeat' (first
      | with_reducible exact h | with_reducible assumption | with_reducible refine Keeps.ite ?_ ?_ | with_reducible apply freeInt_keeps
      | with_reducible refine Keeps2.snd ?_ | with_reducible refine Keeps2.of_eq (by assumption) ?_
      | with_reducible refine Keeps2.ite ?_ ?_ | extract_lets | with_reducible intro _ | split | with_reducible refine Keeps2.mk ?_
      | with_reducible apply engines_keeps)

theorem loadParcel_keeps {κ : Scope} {u : State} (s : State) (h : Keeps κ u s) : Keeps κ u (loadParcel s) := by
  unfold loadParcel
  repeat' (first
      | with_reducible exact h | with_reducible assumption | with_reducible refine Keeps.ite ?_ ?_ | with_reducible apply updPas_keeps
      | with_reducible refine updBelay_keeps ?_ _ (by rfl) | with_reducible refine history_keeps ?_ _ (by intro _; simp)
      | with_reducible intro _ | split)

theorem wakeUp_keeps {κ : Scope} {u : State} (s : State) (h : Keeps κ u s) : Keeps κ u (wakeUp s) := by
  unfold wakeUp
  extract_lets s1 s2
  have h1 : Keeps κ u s1 := loadParcel_keeps _ (loadTime_keeps _ (loseSessions_keeps _ (loseVolatile_keeps _ h)))
  exact updBelay_keeps (updPw_keeps (updUpd_keeps (updOpt_keeps (Keeps.ite (orphan_keeps _ h1) h1) _) _ rfl) _ rfl rfl) _ rfl

theorem loadTime_same (s : State) : (loadTime s).valve = s.valve ∧ (loadTime s).fio = s.fio ∧ (loadTime s).steer = s.steer := by
  unfold loadTime
  dsimp only
  split <;> exact ⟨rfl, rfl, rfl⟩

theorem orphan_same (s : State) (p : Prop) [Decidable p] :
    (if p then orphan s else s).valve = s.valve ∧ (if p then orphan s else s).fio = s.fio ∧ (if p then orphan s else s).steer = s.steer := by
  unfold orphan
  repeat' split
  all_goals exact ⟨rfl, rfl, rfl⟩

/-- Nothing is granted or engaged after a wake. -/
theorem wakeUp_off (s : State) : (wakeUp s).noEnable = true ∧ (wakeUp s).steer.engaged = false := by
  obtain ⟨a, b, c⟩ := loadTime_same (loseSessions (loseVolatile s))
  obtain ⟨d, e, f⟩ := orphan_same (loadParcel (loadTime (loseSessions (loseVolatile s))))
    ((loadParcel (loadTime (loseSessions (loseVolatile s)))).upd.state = 1)
  have l := loseVolatile_off s
  have w : (wakeUp s).valve = (loseVolatile s).valve ∧ (wakeUp s).fio = (loseVolatile s).fio ∧ (wakeUp s).steer = (loseVolatile s).steer := by
    simp only [wakeUp, State.updBelay, State.updPw, State.updUpd, State.updOpt]
    exact ⟨d.trans a, e.trans b, f.trans c⟩
  exact ⟨(noEnable_congr w.1 w.2.1 w.2.2).trans l.1, by rw [w.2.2]; exact l.2⟩

theorem startRecords_keeps {κ : Scope} {u : State} (s : State) (h : Keeps κ u s) : Keeps κ u (startRecords s) := by
  unfold startRecords
  repeat' (first
      | with_reducible exact h | with_reducible assumption | with_reducible refine Keeps.ite ?_ ?_ | with_reducible apply record_keeps
      | with_reducible apply startFallBacks_keeps | with_reducible apply beginReset_keeps | extract_lets | with_reducible intro _ | split)

theorem enterStart_keeps {u : State} (cause src : Nat) (s : State) (h : Keeps .top u s) : Keeps .top u (enterStart cause src s) := by
  unfold enterStart
  extract_lets restart s1 s2 s3 s4
  have o : s1.noEnable = true ∧ s1.steer.engaged = false := wakeUp_off _
  have h1 : Keeps .top u s1 := wakeUp_keeps _ (updPw_keeps h _ rfl rfl)
  clear_value s1
  have h3 : Keeps .top u s3 := updSky_keeps (updBelay_keeps h1 _ rfl) _
  have n : s3.noEnable = true := (noEnable_congr rfl rfl rfl : s3.noEnable = s1.noEnable).trans o.1
  have g : s3.steer.engaged = false := o.2
  clear_value s3
  refine startRecords_keeps _ (Keeps.ite (devRecord_keeps _ _ _ _ ?_) ?_)
  · exact dev_keeps h3 _ rfl (fun e => by cases e) (fun _ _ => .inr n) (fun _ _ e => by simp [g] at e)
  · exact changeDev_keeps _ _ _ (fun e => by cases e) (fun _ _ => .inr n) (fun _ _ e => by simp [g] at e) h3

theorem enterLadder_keeps {u : State} (cause reason : Nat) (s : State) (h : Keeps .top u s) : Keeps .top u (enterLadder cause reason s) := by
  unfold enterLadder
  extract_lets restart s1 s2 s3
  have o : s1.noEnable = true ∧ s1.steer.engaged = false := wakeUp_off _
  have h1 : Keeps .top u s1 := wakeUp_keeps _ (updPw_keeps h _ rfl rfl)
  clear_value s1
  have h3 : Keeps .top u s3 := updUpd_keeps (updBelay_keeps (canLadder_keeps _ h1) _ rfl) _ rfl
  have n : s3.noEnable = true := (noEnable_congr rfl rfl rfl : s3.noEnable = s1.noEnable).trans o.1
  have g : s3.steer.engaged = false := o.2
  clear_value s3
  refine Keeps.ite (devRecord_keeps _ _ _ _ ?_) ?_
  · exact dev_keeps h3 _ rfl (fun e => by cases e) (fun _ _ => .inr n) (fun _ _ e => by simp [g] at e)
  · exact changeDev_keeps _ _ _ (fun e => by cases e) (fun _ _ => .inr n) (fun _ _ e => by simp [g] at e) h3

theorem startFrom_keeps {u : State} (src : Nat) (s : State) (h : Keeps .top u s) : Keeps .top u (startFrom src s) := by
  unfold startFrom
  repeat' (first
      | with_reducible exact h | with_reducible assumption | with_reducible refine Keeps.ite ?_ ?_
      | with_reducible refine updPw_keeps ?_ _ (by rfl) (by rfl) | with_reducible apply enterStart_keeps | with_reducible intro _ | split)

/-- IGN rises. -/
theorem ign_keeps {u s : State} (h : Keeps .top u s) (f : Pw → Pw) (dev : (f s.pw).dev = s.pw.dev) (ign : (f s.pw).ign = true) :
    Keeps .top u (s.updPw f) := by
  refine h.trans ⟨rfl, Nat.le_refl _, id, fun _ => Nat.le_refl _, (fun e => by cases e), (fun e => by cases e), fun i => ?_⟩
  refine ⟨⟨i.data.dict, i.data.fot, i.data.history, i.data.sessions, i.data.fuses⟩, fun e => (i.enables e).imp_left fun d => ?_,
    fun e g => dev.trans (i.engaged e g)⟩
  simp only [Bool.and_eq_true] at d ⊢
  exact ⟨dev ▸ d.1, ign⟩

theorem ignRise_keeps {u : State} (s : State) (h : Keeps .top u s) : Keeps .top u (ignRise s) := by
  unfold ignRise
  extract_lets was s1 s2
  have h1 : Keeps .top u s1 := ign_keeps h _ rfl rfl
  have h2 : Keeps .top u s2 := Keeps.ite (updBelay_keeps h1 _ rfl) h1
  clear_value s2 s1
  exact Keeps.ite (Keeps.ite h2 (Keeps.ite (Keeps.ite (updPw_keeps h2 _ rfl rfl) (enterLadder_keeps _ _ _ h2)) (startFrom_keeps _ _ h2)))
    (Keeps.ite (enterStart_keeps _ _ _ h1) (Keeps.ite (updPw_keeps h1 _ rfl rfl) h1))

theorem execIgnWake_keeps {u : State} (s : State) (h : Keeps .top u s) : KeepsO .top u (execIgnWake s) := by
  unfold execIgnWake
  repeat' (first
      | with_reducible exact h | with_reducible assumption | with_reducible refine Keeps.ite ?_ ?_
      | with_reducible refine KeepsO.ite ?_ ?_ | with_reducible refine KeepsO.next ?_ | with_reducible exact KeepsO.refused _
      | with_reducible apply ignRise_keeps | with_reducible intro _ | split)

theorem keyRise_keeps {u : State} (s : State) (h : Keeps .top u s) : Keeps .top u (keyRise s) := by
  unfold keyRise
  repeat' (first
      | with_reducible exact h | with_reducible assumption | with_reducible refine Keeps.ite ?_ ?_
      | with_reducible refine updPw_keeps ?_ _ (by rfl) (by rfl) | extract_lets | with_reducible intro _ | split)

theorem execKeysvcWake_keeps {u : State} (s : State) (h : Keeps .top u s) : KeepsO .top u (execKeysvcWake s) := by
  unfold execKeysvcWake
  repeat' (first
      | with_reducible exact h | with_reducible assumption | with_reducible refine Keeps.ite ?_ ?_
      | with_reducible refine KeepsO.ite ?_ ?_ | with_reducible refine KeepsO.next ?_ | with_reducible exact KeepsO.refused _
      | with_reducible apply keyRise_keeps | with_reducible intro _ | split)

theorem execKeysvcHoldExpiry_keeps {u : State} (s : State) (h : Keeps .top u s) : KeepsO .top u (execKeysvcHoldExpiry s) := by
  unfold execKeysvcHoldExpiry
  repeat' (first
      | with_reducible exact h | with_reducible assumption | with_reducible refine Keeps.ite ?_ ?_
      | with_reducible refine KeepsO.ite ?_ ?_ | with_reducible refine KeepsO.next ?_ | with_reducible exact KeepsO.refused _
      | with_reducible apply startFrom_keeps | with_reducible intro _ | split)

theorem advanceAlarm_keeps {u : State} (s : State) (h : Keeps .top u s) : Keeps .top u (advanceAlarm s) := by
  unfold advanceAlarm
  repeat' (first
      | with_reducible exact h | with_reducible assumption | with_reducible refine Keeps.ite ?_ ?_ | with_reducible apply put_keeps
      | extract_lets | with_reducible intro _ | split)

theorem execAlarmWake_keeps {u : State} (s : State) (h : Keeps .top u s) : KeepsO .top u (execAlarmWake s) := by
  unfold execAlarmWake
  repeat' (first
      | with_reducible exact h | with_reducible assumption | with_reducible refine Keeps.ite ?_ ?_
      | with_reducible refine KeepsO.ite ?_ ?_ | with_reducible refine KeepsO.next ?_ | with_reducible exact KeepsO.refused _
      | with_reducible apply advanceAlarm_keeps | with_reducible apply startFrom_keeps | extract_lets | with_reducible intro _ | split)

theorem execAlarmPassedAwake_keeps {u : State} (s : State) (h : Keeps .top u s) : KeepsO .top u (execAlarmPassedAwake s) := by
  unfold execAlarmPassedAwake
  repeat' (first
      | with_reducible exact h | with_reducible assumption | with_reducible refine Keeps.ite ?_ ?_
      | with_reducible refine KeepsO.ite ?_ ?_ | with_reducible refine KeepsO.next ?_ | with_reducible exact KeepsO.refused _
      | with_reducible apply advanceAlarm_keeps | with_reducible intro _ | split)

theorem execCanWake_keeps {u : State} (w : Nat) (how : CanWake) (s : State) (h : Keeps .top u s) : KeepsO .top u (execCanWake w how s) := by
  unfold execCanWake
  repeat' (first
      | with_reducible exact h | with_reducible assumption | with_reducible refine Keeps.ite ?_ ?_
      | with_reducible refine KeepsO.ite ?_ ?_ | with_reducible refine KeepsO.next ?_ | with_reducible exact KeepsO.refused _
      | with_reducible apply withUnit_keeps | with_reducible apply startFrom_keeps | with_reducible apply updCan_keeps | with_reducible refine updPw_keeps ?_ _ (by rfl) (by rfl) | extract_lets
      | with_reducible intro _ | split)

theorem execStartAllowedWaitEnd_keeps {u : State} (s : State) (h : Keeps .top u s) : KeepsO .top u (execStartAllowedWaitEnd s) := by
  unfold execStartAllowedWaitEnd
  repeat' (first
      | with_reducible exact h | with_reducible assumption | with_reducible refine Keeps.ite ?_ ?_
      | with_reducible refine KeepsO.ite ?_ ?_ | with_reducible refine KeepsO.next ?_ | with_reducible exact KeepsO.refused _
      | with_reducible refine updPw_keeps ?_ _ (by rfl) (by rfl) | with_reducible apply enterLadder_keeps
      | with_reducible apply enterStart_keeps | extract_lets | with_reducible intro _ | split)

theorem senseStart_keeps {u : State} (s : State) (h : Keeps .top u s) : Keeps .top u (senseStart s) := by
  unfold senseStart
  repeat' (first
      | with_reducible exact h | with_reducible assumption | with_reducible refine Keeps.ite ?_ ?_ | with_reducible apply updSens_keeps
      | with_reducible intro _ | split)

theorem bringUp_keeps {u : State} (s : State) (h : Keeps .top u s) : Keeps .top u (bringUp s) := by
  unfold bringUp
  repeat' (first
      | with_reducible exact h | with_reducible assumption | with_reducible refine Keeps.ite ?_ ?_ | with_reducible apply senseStart_keeps
      | with_reducible refine updPw_keeps ?_ _ (by rfl) (by rfl)
      | with_reducible refine updServ_keeps ?_ _ (by rfl) | with_reducible refine sessions_keeps ?_ _ (by simp)
      | with_reducible apply fleetStart_keeps | with_reducible apply canStart_keeps | with_reducible apply lanStart_keeps
      | with_reducible apply valveStart_keeps
      | with_reducible refine updFlow_keeps ?_ _ (by rfl) | with_reducible refine fot_keeps ?_ _ (by intro _; simp) | extract_lets
      | with_reducible intro _ | split)

theorem execLayerBuild_keeps {u : State} (s : State) (h : Keeps .top u s) : KeepsO .top u (execLayerBuild s) := by
  unfold execLayerBuild
  repeat' (first
      | with_reducible exact h | with_reducible assumption | with_reducible refine Keeps.ite ?_ ?_
      | with_reducible refine KeepsO.ite ?_ ?_ | with_reducible refine KeepsO.next ?_ | with_reducible exact KeepsO.refused _
      | with_reducible apply bringUp_keeps | with_reducible apply buildLayers_keeps | with_reducible intro _ | split)

theorem execStartToRun_keeps {u : State} (s : State) (h : Keeps .top u s) : KeepsO .top u (execStartToRun s) :=
  .next (Keeps.ite (startModes_keeps _ (changeDev_keeps _ _ _ (fun e => by cases e) (fun _ _ => .inl rfl) (fun _ _ _ => rfl) h)) h)

theorem execStartToLadder_keeps {u : State} (noCol noGal : Bool) (s : State) (h : Keeps .top u s) : KeepsO .top u (execStartToLadder noCol noGal s) := by
  unfold execStartToLadder
  repeat' (first
      | with_reducible exact h | with_reducible assumption | with_reducible refine Keeps.ite ?_ ?_
      | with_reducible refine KeepsO.ite ?_ ?_ | with_reducible refine KeepsO.next ?_ | with_reducible exact KeepsO.refused _
      | with_reducible apply enterLadder_keeps | with_reducible apply endSessions_keeps | with_reducible intro _ | split)

theorem changeDev_dev (d : Dev) (cause : Nat) (s : State) : (changeDev d cause s).pw.dev = d := by
  unfold changeDev
  dsimp only
  split
  · rfl
  · exact congrArg Pw.dev (record_power _ _).1

theorem disengage_off (reason engine : Nat) (s : State) : (disengage reason engine s).steer.engaged = false := by
  unfold disengage
  split
  · rename_i h; simpa using h
  · rfl

theorem enterShutdown_keeps {u : State} (cause : Nat) (s : State) (h : Keeps .top u s) : Keeps .top u (enterShutdown cause s) := by
  refine h.trans ?_
  have h0 : Keeps ⟨false, true, false⟩ s s := .refl s
  unfold enterShutdown
  extract_lets s1 s2 s3
  have h2 : Keeps ⟨false, true, false⟩ s s2 := updBelay_keeps (updPw_keeps (changeDev_keeps _ _ _ (fun e => by cases e) (fun _ _ => .inl rfl)
    (fun _ e => by cases e) h0) _ rfl rfl) _ rfl
  have d2 : s2.pw.dev = .shutdown := changeDev_dev _ _ _
  clear_value s2
  have up (κ : Scope) (v : State) (k : Keeps κ v (disengage 0xD 2 s2)) : Keeps κ v (updShutdown (discardEvents (s3.optVoid 0x15))) :=
    updShutdown_keeps _ (discardEvents_keeps _ (optVoid_keeps _ _ (emptyLeads_keeps _ _ (applySafeAll_keeps _ (allTestsEnd_keeps _ k)))))
  have q := up .all _ (.refl _)
  have e2 : (disengage 0xD 2 s2).pw.dev = .shutdown := (disengage_keeps (κ := .all) _ _ s2 (.refl _)).dev rfl (by simp [d2]) (by simp [d2]) |>.trans d2
  refine (up ⟨false, true, false⟩ _ (disengage_keeps _ _ _ h2)).upgrade (fun _ => .inl rfl) fun _ g => ?_
  have g' := (q.quiet rfl fun c => by simp [State.Grants, e2] at c).2.engaged g
  rw [disengage_off] at g'
  cases g'

theorem endStore_keeps {κ : Scope} {u : State} (cut : Bool) (s : State) (h : Keeps κ u s) : Keeps κ u (endStore cut s) := by
  unfold endStore
  repeat' (first
      | with_reducible exact h | with_reducible assumption | with_reducible refine Keeps.ite ?_ ?_
      | with_reducible refine updPer_keeps ?_ _ (by rfl)
      | with_reducible refine updBelay_keeps ?_ _ (by rfl) | with_reducible refine history_keeps ?_ _ (by intro _; simp)
      | with_reducible apply finishStore_keeps | with_reducible intro _ | split)

theorem loseQueue_keeps {κ : Scope} {u : State} (s : State) (h : Keeps κ u s) : Keeps κ u (loseQueue s) := by
  unfold loseQueue
  repeat' (first
      | with_reducible exact h | with_reducible assumption | with_reducible refine Keeps.ite ?_ ?_ | with_reducible apply updFleet_keeps
      | with_reducible intro _ | split)

theorem closeOutputs_keeps {κ : Scope} {u : State} (s : State) (h : Keeps κ u s) : Keeps κ u (closeOutputs s) := by
  unfold closeOutputs
  repeat' (first
      | with_reducible exact h | with_reducible assumption | with_reducible refine Keeps.ite ?_ ?_ | with_reducible apply fioOff_keeps
      | with_reducible apply valveOff_keeps
      | with_reducible refine updSteer_keeps ?_ _ (by rfl) (by rfl) | with_reducible refine steer_keeps ?_ _ (by first | exact id | (intro e; cases e)) (by first | exact id | (intro e; cases e))
      | with_reducible apply fleetShutdown_keeps | with_reducible apply lanOff_keeps | with_reducible apply endSessions_keeps
      | extract_lets | with_reducible intro _ | split)

theorem saveAll_keeps {κ : Scope} {u : State} (s : State) (h : Keeps κ u s) : Keeps κ u (saveAll s) := by
  unfold saveAll
  repeat' (first
      | with_reducible exact h | with_reducible assumption | with_reducible refine Keeps.ite ?_ ?_ | with_reducible apply writeRtc_keeps
      | with_reducible apply updPas_keeps
      | with_reducible refine updBelay_keeps ?_ _ (by rfl) | with_reducible refine history_keeps ?_ _ (by intro _; simp) | extract_lets
      | with_reducible intro _ | split)





theorem bankOff_off {s : State} (b : Nat) (g : ¬ s.Grants) : ¬ (bankOff b s).Grants ∧ Quieter s (bankOff b s) ∧
    ((bankOff b s).vbank b).enable = false := by
  have k := (bankOff_keeps (κ := .all) b s (.refl s)).quiet rfl g
  refine ⟨k.1, k.2, ?_⟩
  have k0 : Keeps .all (s.updBank b fun x => { x with enable := false, resume := none, guardDue := none }) (bankOff b s) :=
    Keeps.foldl (.refl _) fun t n h => by
      dsimp only
      exact Keeps.ite (updCh_keeps _ _ _ h) (svFollow_keeps _ _ _ (updCh_keeps _ _ _ h))
  have q := (k0.quiet rfl g).2.bank b
  refine Bool.eq_false_iff.2 fun e => ?_
  have e := q e
  simp only [State.vbank, State.updBank, State.updValve, updAt, List.getD_eq_getElem?_getD, List.getElem?_modify] at e
  cases h : s.valve.bank[b]? with
  | none => simp [h] at e
  | some x => simp [h] at e

theorem grpOff_off {s : State} (b : Nat) (g : ¬ s.Grants) : ¬ (grpOff b s).Grants ∧ Quieter s (grpOff b s) ∧
    ((grpOff b s).fgrp b).enable = false := by
  have k := (grpOff_keeps (κ := .all) b s (.refl s)).quiet rfl g
  refine ⟨k.1, k.2, Bool.eq_false_iff.2 fun e => ?_⟩
  simp only [State.fgrp, grpOff, State.updFio, updAt, List.getD_eq_getElem?_getD, List.getElem?_modify] at e
  cases h : s.fio.grp[b]? with
  | none => simp [h] at e
  | some x => simp [h] at e

/-- A fold that turns off one unit after the other leaves each of them off. -/
theorem foldl_off {s : State} {f : State → Nat → State} {off : State → Nat → Prop} {l : List Nat} (g : ¬ s.Grants)
    (k : ∀ t b, ¬ t.Grants → ¬ (f t b).Grants ∧ Quieter t (f t b) ∧ off (f t b) b) (m : ∀ t t' b, Quieter t t' → off t b → off t' b) :
    ¬ (l.foldl f s).Grants ∧ Quieter s (l.foldl f s) ∧ ∀ b ∈ l, off (l.foldl f s) b := by
  induction l generalizing s with
  | nil => exact ⟨g, .refl s, fun b h => by cases h⟩
  | cons a l ih =>
    obtain ⟨g1, q1, o1⟩ := k s a g
    obtain ⟨g2, q2, o2⟩ := ih g1
    refine ⟨g2, q1.trans q2, fun b h => ?_⟩
    rcases List.mem_cons.1 h with rfl | h
    · exact m _ _ _ q2 o1
    · exact o2 b h

theorem banks_off {s : State} {f : State → Nat → State} (g : ¬ s.Grants)
    (k : ∀ t b, ¬ t.Grants → ¬ (f t b).Grants ∧ Quieter t (f t b) ∧ ((f t b).vbank b).enable = false) :
    ¬ ((List.range 6).foldl f s).Grants ∧ Quieter s ((List.range 6).foldl f s) ∧ ∀ b < 6, (((List.range 6).foldl f s).vbank b).enable = false := by
  obtain ⟨a, q, o⟩ := foldl_off (off := fun t b => (t.vbank b).enable = false) (l := List.range 6) g k
    fun t t' b q e => Bool.eq_false_iff.2 fun e' => by simp [q.bank b e'] at e
  exact ⟨a, q, fun b l => o b (List.mem_range.2 l)⟩

theorem groups_off {s : State} {f : State → Nat → State} (g : ¬ s.Grants)
    (k : ∀ t b, ¬ t.Grants → ¬ (f t b).Grants ∧ Quieter t (f t b) ∧ ((f t b).fgrp b).enable = false) :
    ¬ ((List.range 4).foldl f s).Grants ∧ Quieter s ((List.range 4).foldl f s) ∧ ∀ b < 4, (((List.range 4).foldl f s).fgrp b).enable = false := by
  obtain ⟨a, q, o⟩ := foldl_off (off := fun t b => (t.fgrp b).enable = false) (l := List.range 4) g k
    fun t t' b q e => Bool.eq_false_iff.2 fun e' => by simp [q.grp b e'] at e
  exact ⟨a, q, fun b l => o b (List.mem_range.2 l)⟩

/-- Banks, groups and steering, each turned off. -/
theorem allOff {s : State} {f f' : State → Nat → State} (g : ¬ s.Grants)
    (k : ∀ t b, ¬ t.Grants → ¬ (f t b).Grants ∧ Quieter t (f t b) ∧ ((f t b).vbank b).enable = false)
    (k' : ∀ t b, ¬ t.Grants → ¬ (f' t b).Grants ∧ Quieter t (f' t b) ∧ ((f' t b).fgrp b).enable = false) (m : State → State)
    (hm : ∀ t, Quieter t (m t) ∧ (¬ t.Grants → ¬ (m t).Grants)) :
    let t := ((List.range 4).foldl f' (m ((List.range 6).foldl f s))).updSteer fun x => { x with enable := false }
    ¬ t.Grants ∧ Quieter s t ∧ t.noEnable = true := by
  intro t
  obtain ⟨g1, q1, o1⟩ := banks_off g k
  obtain ⟨q2, g2⟩ := hm ((List.range 6).foldl f s)
  obtain ⟨g3, q3, o3⟩ := groups_off (g2 g1) k'
  have q4 : Quieter ((List.range 4).foldl f' (m ((List.range 6).foldl f s))) t := ⟨fun _ => id, fun _ => id, (fun e => nomatch e), id⟩
  refine ⟨g3, ((q1.trans q2).trans q3).trans q4, noEnable_iff.2 ⟨fun b l => Bool.eq_false_iff.2 fun e => ?_, o3, rfl⟩⟩
  exact Bool.eq_false_iff.1 (o1 b l) (((q2.trans q3).trans q4).bank b e)

/-- What follows where nothing is granted: nothing is granted or engaged that was not before. -/
theorem still_off {s t : State} (h : Keeps .all s t) (d : s.pw.dev.drives = false ∨ s.pw.dev = .shutdown) :
    t.pw.dev = s.pw.dev ∧ Quieter s t := by
  have r : s.pw.dev ≠ .run ∧ s.pw.dev ≠ .service := by
    constructor <;> (intro e; rw [e] at d; simp [Dev.drives] at d)
  exact ⟨h.dev rfl r.1 r.2, (h.quiet rfl fun c => c.1.elim r.1 r.2).2⟩

theorem closeDown_keeps {κ : Scope} {u : State} (cut : Bool) (d : Dev) (s : State) (h : Keeps κ u s) : Keeps κ u (closeDown cut d s) := by
  unfold closeDown
  extract_lets s1 s2
  have h1 : Keeps κ u s1 := endStore_keeps _ _ h
  have h2 : Keeps κ u s2 := updTrace_keeps (saveAll_keeps _ (closeOutputs_keeps _ (Keeps.ite (loseQueue_keeps _ h1) h1))) _
  exact completeFlush_keeps _ (beginFlush_keeps _ (devRecord_keeps _ _ _ _ (canStop_keeps _ _ h2)))

/-- The outputs are off when they have closed. -/
theorem closeOutputs_off {s : State} (d : s.pw.dev = .shutdown) : (closeOutputs s).pw.dev = .shutdown ∧ Quieter s (closeOutputs s) ∧
    (closeOutputs s).noEnable = true := by
  have g : ¬ s.Grants := fun c => by simp [State.Grants, d] at c
  have off := allOff (s := s) (f := fun s b => bankOff b s) (f' := fun s g => grpOff g s) g (fun t b g => bankOff_off b g)
    (fun t b g => grpOff_off b g) (fun t => t.updSup 2 fun x => { x with present := false }) (fun t => ⟨⟨fun _ => id, fun _ => id, id, id⟩, id⟩)
  obtain ⟨-, q, n⟩ := off
  have k : Keeps .all s (fioOff (valveOff s)) := fioOff_keeps _ (valveOff_keeps _ (.refl s))
  change Quieter s ((fioOff (valveOff s)).updSteer _) at q
  change ((fioOff (valveOff s)).updSteer _).noEnable = true at n
  unfold closeOutputs
  generalize fioOff (valveOff s) = y at q n k
  have k1 : Keeps .all s (y.updSteer fun x => { x with enable := false }) := steer_keeps k _ (fun e => nomatch e) id
  have d1 := (k1.dev rfl (by simp [d]) (by simp [d])).trans d
  have e := still_off (fleetShutdown_keeps _ (lanOff_keeps _ (endSessions_keeps (fun x => x.opened) _ (.refl (y.updSteer fun x => { x with enable := false }))))) (.inr d1)
  exact ⟨e.1.trans d1, q.trans e.2, e.2.noEnable n⟩

theorem closeDown_off {s : State} (cut : Bool) (d : Dev) (h : s.pw.dev = .shutdown) : (closeDown cut d s).noEnable = true ∧
    (s.steer.engaged = false → (closeDown cut d s).steer.engaged = false) := by
  unfold closeDown
  extract_lets s1 s2
  have k1 : Keeps .all s s1 := endStore_keeps _ _ (.refl s)
  clear_value s1
  have k2 : Keeps .all s (if cut then loseQueue s1 else s1) := Keeps.ite (loseQueue_keeps _ k1) k1
  have e2 : s2 = (saveAll (closeOutputs (if cut then loseQueue s1 else s1))).updTrace (fun _ => {}) := rfl
  clear_value s2
  generalize (if cut then loseQueue s1 else s1) = x at k2 e2
  have q1 := still_off k2 (.inr h)
  obtain ⟨d2, q2, n2⟩ := closeOutputs_off (q1.1.trans h)
  generalize closeOutputs x = y at e2 d2 q2 n2
  subst e2
  have k3 : Keeps .all y ((saveAll y).updTrace fun _ => {}) := updTrace_keeps (saveAll_keeps _ (.refl y)) _
  have q3 := still_off (completeFlush_keeps _ (beginFlush_keeps _ (devRecord_keeps 7 (devCode d) 0xB _ (canStop_keeps (d == .park) _ k3)))) (.inr d2)
  exact ⟨q3.2.noEnable n2, fun e => Bool.eq_false_iff.2 fun g => Bool.eq_false_iff.1 e (q1.2.engaged (q2.engaged (q3.2.engaged g)))⟩

theorem goToRest_keeps {u : State} (hold : Bool) (d : Dev) (s : State) (n : s.noEnable = true)
    (e : u.InvAt .top → s.steer.engaged = false) (h : Keeps .top u s) : Keeps .top u (goToRest hold d s) := by
  unfold goToRest
  extract_lets s1 s2
  have h1 : Keeps .top u s1 := noteHistory_keeps _ _ _ (dev_keeps h _ rfl (fun e => by cases e) (fun _ _ => .inr n)
    fun i _ g => by simp [e i] at g)
  have h2 : Keeps .top u s2 := updBelay_keeps h1 _ rfl
  clear_value s2
  refine Keeps.ite h2 ?_
  split
  · exact Keeps.ite (updPw_keeps h2 _ rfl rfl) (startFrom_keeps _ _ h2)
  · exact h2

theorem endShutdown_keeps {u : State} (cut : Bool) (s : State) (d : s.pw.dev = .shutdown) (h : Keeps .top u s) :
    Keeps .top u (endShutdown cut s) := by
  unfold endShutdown
  generalize restState s = r
  have o := closeDown_off cut r d
  exact goToRest_keeps _ _ _ o.1 (fun i => o.2 (Bool.eq_false_iff.2 fun e => by simp [(h.inv i).engaged rfl e] at d)) (closeDown_keeps _ _ _ h)

theorem execShutdownComplete_keeps {u : State} (s : State) (h : Keeps .top u s) : KeepsO .top u (execShutdownComplete s) := by
  unfold execShutdownComplete
  refine .next ?_
  split
  · rename_i c; exact endShutdown_keeps _ _ c.1 h
  · exact h

theorem execShutdownLimitExpiry_keeps {u : State} (s : State) (h : Keeps .top u s) : KeepsO .top u (execShutdownLimitExpiry s) := by
  unfold execShutdownLimitExpiry
  refine .next ?_
  split
  · rename_i c; exact endShutdown_keeps _ _ c.1 h
  · exact h

theorem execIgnOffDelayExpiry_keeps {u : State} (s : State) (h : Keeps .top u s) : KeepsO .top u (execIgnOffDelayExpiry s) := by
  unfold execIgnOffDelayExpiry
  repeat' (first
      | with_reducible exact h | with_reducible assumption | with_reducible refine Keeps.ite ?_ ?_
      | with_reducible refine KeepsO.ite ?_ ?_ | with_reducible refine KeepsO.next ?_ | with_reducible exact KeepsO.refused _
      | with_reducible apply enterShutdown_keeps | with_reducible intro _ | split)

theorem execLadderIgnOffExpiry_keeps {u : State} (s : State) (h : Keeps .top u s) : KeepsO .top u (execLadderIgnOffExpiry s) := by
  unfold execLadderIgnOffExpiry
  refine .next ?_
  split
  · rename_i c
    have dr : s.pw.dev.drives = false := by simp [c.1, Dev.drives]
    have k (κ : Scope) (v : State) (k : Keeps κ v s) : Keeps κ v (canStop false (endSessions (fun x => x.opened) s)) :=
      canStop_keeps _ _ (endSessions_keeps _ _ k)
    have q := (still_off (k .all s (.refl s)) (.inl dr)).2
    refine changeDev_keeps _ _ _ (fun e => by cases e) (fun i _ => .inr (q.noEnable ((h.inv i).off dr).1)) (fun i _ e => ?_) (k _ _ h)
    have := q.engaged e
    simp [((h.inv i).off dr).2] at this
  · exact h

theorem execParkDwellExpiry_keeps {u : State} (s : State) (h : Keeps .top u s) : KeepsO .top u (execParkDwellExpiry s) := by
  unfold execParkDwellExpiry
  refine .next ?_
  split
  · rename_i c
    have dr : s.pw.dev.drives = false := by simp [c, Dev.drives]
    exact canStop_keeps _ _ (changeDev_keeps _ _ _ (fun e => by cases e) (fun i _ => .inr ((h.inv i).off dr).1)
      (fun i _ e => by simp [((h.inv i).off dr).2] at e) h)
  · exact h

theorem withdrawEnables_keeps {κ : Scope} {u : State} (s : State) (h : Keeps κ u s) : Keeps κ u (withdrawEnables s) := by
  unfold withdrawEnables
  extract_lets s1 s2
  have h1 : Keeps κ u s1 := Keeps.foldl h fun t b k => Keeps.ite (bankOff_keeps _ _ k) k
  clear_value s1
  have h2 : Keeps κ u s2 := Keeps.foldl h1 fun t b k => Keeps.ite (grpOff_keeps _ _ k) k
  clear_value s2
  exact steer_keeps h2 _ (fun e => nomatch e) id

theorem withdrawEnables_off {s : State} (g : ¬ s.Grants) : Quieter s (withdrawEnables s) ∧ (withdrawEnables s).noEnable = true := by
  have off := allOff (s := s) (f := fun s b => if (s.vbank b).enable then bankOff b s else s)
    (f' := fun s g => if (s.fgrp g).enable then grpOff g s else s) g
    (fun t b g => by
      split
      · exact bankOff_off b g
      · rename_i e; exact ⟨g, .refl t, Bool.eq_false_iff.2 e⟩)
    (fun t b g => by
      split
      · exact grpOff_off b g
      · rename_i e; exact ⟨g, .refl t, Bool.eq_false_iff.2 e⟩)
    id (fun t => ⟨.refl t, id⟩)
  exact off.2

theorem ignFall_keeps {u : State} (ign keysvc : Bool) (s : State) (h : Keeps .top u s) : Keeps .top u (ignFall ign keysvc s) := by
  refine h.trans ?_
  unfold ignFall
  extract_lets s1
  have k1 : Keeps .bare s s1 := ⟨rfl, Nat.le_refl _, id, fun _ => Nat.le_refl _, (fun e => by cases e), (fun e => by cases e),
    fun i => ⟨⟨i.data.dict, i.data.fot, i.data.history, i.data.sessions, i.data.fuses⟩, (fun e => by cases e), (fun e => by cases e)⟩⟩
  have d1 : s1.pw.dev = s.pw.dev := rfl
  have i1 : s1.pw.ign = (s.pw.ign && !ign) := rfl
  have n1 : s1.noEnable = s.noEnable := rfl
  have g1 : s1.steer = s.steer := rfl
  clear_value s1
  cases ign with
  | false =>
    refine k1.upgrade (fun i => .inr ?_) (fun i g => ?_)
    · rw [d1, i1, n1, Bool.not_false, Bool.and_true]; exact i.enables rfl
    · rw [d1]; exact i.engaged rfl (g1 ▸ g)
  | true =>
    have k2 : Keeps .bare s (s1.updBelay fun b => { b with ignSeenLow := true }) := updBelay_keeps k1 _ rfl
    have g2 : ¬ (s1.updBelay fun b => { b with ignSeenLow := true }).Grants := fun c => by
      have : s1.pw.ign = true := c.2
      simp [i1] at this
    have g3 := ((disengage_keeps (κ := .all) 0xD 2 _ (.refl _)).quiet rfl g2).1
    obtain ⟨q, n⟩ := withdrawEnables_off g3
    refine (withdrawEnables_keeps _ (disengage_keeps 0xD 2 _ k2)).upgrade (fun i => .inr (.inr n)) (fun i g => ?_)
    have := q.engaged g
    simp [disengage_off] at this

theorem execIgnKeysvcFall_keeps {u : State} (ign keysvc : Bool) (s : State) (h : Keeps .top u s) : KeepsO .top u (execIgnKeysvcFall ign keysvc s) := by
  unfold execIgnKeysvcFall
  repeat' (first
      | with_reducible exact h | with_reducible assumption | with_reducible refine Keeps.ite ?_ ?_
      | with_reducible refine KeepsO.ite ?_ ?_ | with_reducible refine KeepsO.next ?_ | with_reducible exact KeepsO.refused _
      | with_reducible apply ignFall_keeps | with_reducible intro _ | split)

theorem toService_keeps {u : State} (sess : Option Nat) (s : State) (g : s.steer.engaged = false) (h : Keeps .top u s) :
    Keeps .top u (toService sess s) := by
  unfold toService
  extract_lets s1 s2
  have h2 : Keeps .top u s2 := updLoop_keeps (optVoid_keeps _ _ (emptyLeads_keeps _ _ h)) _
  exact changeDev_keeps _ _ _ (fun e => by cases e) (fun _ _ => .inl rfl) (fun _ _ e => by
    have : s.steer.engaged = true := e
    simp [g] at this) (updPw_keeps h2 _ rfl rfl)

theorem requested_keeps {u : State} (s : State) (v : Int) (h : Keeps .top u s) : Keeps .top u (State.requested s v) := by
  unfold State.requested
  repeat' (first
      | with_reducible exact h | with_reducible assumption | with_reducible refine Keeps.ite ?_ ?_ | with_reducible apply put_keeps
      | with_reducible intro _ | split)

theorem requested_ok {u : State} {s : State} {v : Int} (h : Keeps .top u s) : Keeps .top u (s.requested v) := by
  unfold State.requested; exact put_keeps h _ _ _

theorem deviceRequest_keeps {u : State} (w : Ctx) (v : Val) (s : State) (h : Keeps .top u s) : KeepsE .top u (deviceRequest w v s) := by
  unfold deviceRequest
  repeat' (first
      | with_reducible exact KeepsE.error _ | with_reducible refine KeepsE.ok (requested_ok ?_) | with_reducible exact h
      | with_reducible exact enterShutdown_keeps _ _ h | with_reducible refine serviceToRun_keeps _ _ (by assumption) h
      | (with_reducible refine toService_keeps _ _ ?_ h; rename_i e; simp only [serviceAllowed, Bool.and_eq_true, Bool.not_eq_true'] at e; exact e.1.2)
      | split)

theorem execDeviceStateRequestRun_keeps {u : State} (sess : Nat) (s : State) (h : Keeps .top u s) : KeepsO .top u (execDeviceStateRequestRun sess s) := by
  unfold execDeviceStateRequestRun
  repeat' (first
      | with_reducible exact h | with_reducible assumption | with_reducible refine Keeps.ite ?_ ?_
      | with_reducible refine KeepsO.ite ?_ ?_ | with_reducible refine KeepsO.next ?_ | with_reducible exact KeepsO.refused _
      | with_reducible apply asSession_keeps | with_reducible apply deviceRequest_keeps
      | with_reducible refine KeepsE.of_eq (by assumption) ?_ | with_reducible intro _ | split)

theorem execDeviceStateRequestService_keeps {u : State} (sess : Nat) (s : State) (h : Keeps .top u s) : KeepsO .top u (execDeviceStateRequestService sess s) := by
  unfold execDeviceStateRequestService
  repeat' (first
      | with_reducible exact h | with_reducible assumption | with_reducible refine Keeps.ite ?_ ?_
      | with_reducible refine KeepsO.ite ?_ ?_ | with_reducible refine KeepsO.next ?_ | with_reducible exact KeepsO.refused _
      | with_reducible apply asSession_keeps | with_reducible apply deviceRequest_keeps
      | with_reducible refine KeepsE.of_eq (by assumption) ?_ | with_reducible intro _ | split)

theorem execDeviceStateRequestShutdown_keeps {u : State} (sess : Nat) (s : State) (h : Keeps .top u s) : KeepsO .top u (execDeviceStateRequestShutdown sess s) := by
  unfold execDeviceStateRequestShutdown
  repeat' (first
      | with_reducible exact h | with_reducible assumption | with_reducible refine Keeps.ite ?_ ?_
      | with_reducible refine KeepsO.ite ?_ ?_ | with_reducible refine KeepsO.next ?_ | with_reducible exact KeepsO.refused _
      | with_reducible apply asSession_keeps | with_reducible apply deviceRequest_keeps
      | with_reducible refine KeepsE.of_eq (by assumption) ?_ | with_reducible intro _ | split)

theorem powerWrite_keeps {u : State} (w : Ctx) (i sub : Nat) (v : Val) (s : State) (h : Keeps .top u s) : KeepsE .top u (powerWrite w i sub v s) := by
  unfold powerWrite
  repeat' (first
      | with_reducible exact h | with_reducible assumption | with_reducible refine Keeps.ite ?_ ?_
      | with_reducible refine KeepsE.ite ?_ ?_ | with_reducible refine KeepsE.ok ?_ | with_reducible exact KeepsE.error _
      | with_reducible apply deviceRequest_keeps | with_reducible apply checked_keeps | with_reducible apply put_keeps
      | with_reducible refine KeepsE.of_eq (by assumption) ?_ | with_reducible intro _ | split)

theorem leaveLadder_keeps {u : State} (w : Ctx) (s : State) (h : Keeps .top u s) : KeepsE .top u (leaveLadder w s) := by
  unfold leaveLadder
  repeat' (first
      | with_reducible exact h | with_reducible assumption | with_reducible refine Keeps.ite ?_ ?_
      | with_reducible refine KeepsE.ite ?_ ?_ | with_reducible refine KeepsE.ok ?_ | with_reducible exact KeepsE.error _
      | with_reducible apply enterStart_keeps | with_reducible intro _ | split)

theorem execLeaveLadder_keeps {u : State} (sess : Nat) (s : State) (h : Keeps .top u s) : KeepsO .top u (execLeaveLadder sess s) := by
  unfold execLeaveLadder
  repeat' (first
      | with_reducible exact h | with_reducible assumption | with_reducible refine Keeps.ite ?_ ?_
      | with_reducible refine KeepsO.ite ?_ ?_ | with_reducible refine KeepsO.next ?_ | with_reducible exact KeepsO.refused _
      | with_reducible apply asSession_keeps | with_reducible apply leaveLadder_keeps
      | with_reducible refine KeepsE.of_eq (by assumption) ?_ | with_reducible intro _ | split)

theorem execBrownoutOpen_keeps {u : State} (mV : Nat) (s : State) (h : Keeps .top u s) : KeepsO .top u (execBrownoutOpen mV s) := by
  unfold execBrownoutOpen
  repeat' (first
      | with_reducible exact h | with_reducible assumption | with_reducible refine Keeps.ite ?_ ?_
      | with_reducible refine KeepsO.ite ?_ ?_ | with_reducible refine KeepsO.next ?_ | with_reducible exact KeepsO.refused _
      | with_reducible refine updPw_keeps ?_ _ (by rfl) (by rfl) | with_reducible apply beginFlush_keeps
      | with_reducible apply record_keeps | extract_lets | with_reducible intro _ | split)

theorem execBrownoutClose_keeps {u : State} (minMv duration : Nat) (s : State) (h : Keeps .top u s) : KeepsO .top u (execBrownoutClose minMv duration s) := by
  unfold execBrownoutClose
  repeat' (first
      | with_reducible exact h | with_reducible assumption | with_reducible refine Keeps.ite ?_ ?_
      | with_reducible refine KeepsO.ite ?_ ?_ | with_reducible refine KeepsO.next ?_ | with_reducible exact KeepsO.refused _
      | with_reducible refine updPw_keeps ?_ _ (by rfl) (by rfl) | with_reducible apply record_keeps | extract_lets
      | with_reducible intro _ | split)

theorem shedLoad_keeps {u : State} (s : State) (h : Keeps .top u s) : Keeps .top u (shedLoad s) := by
  unfold shedLoad
  repeat' (first
      | with_reducible exact h | with_reducible assumption | with_reducible refine Keeps.ite ?_ ?_
      | (with_reducible refine Keeps.foldl ?_ ?_; rotate_left; intro _ _ _)
      | (with_reducible refine Keeps1.foldl ?_ ?_; rotate_left; intro _ _ _)
      | (with_reducible refine Keeps2.foldl ?_ ?_; rotate_left; intro _ _ _) | with_reducible apply linkChange_keeps
      | with_reducible apply discardAll_keeps | with_reducible apply updCch_keeps | extract_lets | with_reducible intro _ | split)

theorem execResetLevelHoldup_keeps {u : State} (mV : Nat) (s : State) (h : Keeps .top u s) : KeepsO .top u (execResetLevelHoldup mV s) := by
  unfold execResetLevelHoldup
  repeat' (first
      | with_reducible exact h | with_reducible assumption | with_reducible refine Keeps.ite ?_ ?_
      | with_reducible refine KeepsO.ite ?_ ?_ | with_reducible refine KeepsO.next ?_ | with_reducible exact KeepsO.refused _
      | with_reducible refine updPw_keeps ?_ _ (by rfl) (by rfl)
      | with_reducible refine updBelay_keeps ?_ _ (by rfl) | with_reducible refine history_keeps ?_ _ (by intro _; simp)
      | with_reducible apply record_keeps | with_reducible apply beginFlush_keeps | with_reducible apply enterShutdown_keeps
      | with_reducible apply shedLoad_keeps | extract_lets | with_reducible intro _ | split)

theorem execResetLevelNoHoldup_keeps {u : State} (s : State) (h : Keeps .top u s) : KeepsO .top u (execResetLevelNoHoldup s) := by
  unfold execResetLevelNoHoldup
  refine .next ?_
  extract_lets ladder old s1 s2 s3 s4 s5
  refine Keeps.ite h ?_
  have h1 : Keeps .top u s1 := noteHistory_keeps _ _ _ h
  have h2 : Keeps .top u s2 := loseSessions_keeps _ (loseVolatile_keeps _ (Keeps.ite (orphan_keeps _ h1) h1))
  have o := loseVolatile_off (if s1.upd.state = 1 then orphan s1 else s1)
  have n : s4.noEnable = true := o.1
  have g : s4.steer.engaged = false := o.2
  have h4 : Keeps .top u s4 := updFleet_keeps (updFlow_keeps h2 _ rfl) _
  clear_value s4
  exact updBelay_keeps (dev_keeps h4 _ rfl (fun e => by cases e) (fun _ _ => .inr n) (fun _ _ e => by simp [g] at e)) _ rfl

theorem execHoldupArmed_keeps {u : State} (energy : Nat) (enough : Bool) (s : State) (h : Keeps .top u s) : KeepsO .top u (execHoldupArmed energy enough s) := by
  unfold execHoldupArmed
  repeat' (first
      | with_reducible exact h | with_reducible assumption | with_reducible refine Keeps.ite ?_ ?_
      | with_reducible refine KeepsO.ite ?_ ?_ | with_reducible refine KeepsO.next ?_ | with_reducible exact KeepsO.refused _
      | with_reducible refine updBelay_keeps ?_ _ (by rfl) | with_reducible refine history_keeps ?_ _ (by intro _; simp)
      | with_reducible intro _ | split)

theorem execHoldupRestartWaitEnd_keeps {u : State} (s : State) (h : Keeps .top u s) : KeepsO .top u (execHoldupRestartWaitEnd s) := by
  unfold execHoldupRestartWaitEnd
  repeat' (first
      | with_reducible exact h | with_reducible assumption | with_reducible refine Keeps.ite ?_ ?_
      | with_reducible refine KeepsO.ite ?_ ?_ | with_reducible refine KeepsO.next ?_ | with_reducible exact KeepsO.refused _
      | with_reducible refine updBelay_keeps ?_ _ (by rfl) | with_reducible refine history_keeps ?_ _ (by intro _; simp)
      | with_reducible refine updPw_keeps ?_ _ (by rfl) (by rfl) | with_reducible apply enterStart_keeps | extract_lets
      | with_reducible intro _ | split)

theorem execBatteryOvervoltage_keeps {u : State} (above : Bool) (s : State) (h : Keeps .top u s) : KeepsO .top u (execBatteryOvervoltage above s) := by
  unfold execBatteryOvervoltage
  repeat' (first
      | with_reducible exact h | with_reducible assumption | with_reducible refine Keeps.ite ?_ ?_
      | with_reducible refine KeepsO.ite ?_ ?_ | with_reducible refine KeepsO.next ?_ | with_reducible exact KeepsO.refused _
      | with_reducible refine updPw_keeps ?_ _ (by rfl) (by rfl) | with_reducible intro _ | split)

theorem execSystemVoltageDetect_keeps {u : State} (meanMv : Nat) (s : State) (h : Keeps .top u s) : KeepsO .top u (execSystemVoltageDetect meanMv s) := by
  unfold execSystemVoltageDetect
  repeat' (first
      | with_reducible exact h | with_reducible assumption | with_reducible refine Keeps.ite ?_ ?_
      | with_reducible refine KeepsO.ite ?_ ?_ | with_reducible refine KeepsO.next ?_ | with_reducible exact KeepsO.refused _
      | with_reducible refine updPw_keeps ?_ _ (by rfl) (by rfl) | with_reducible intro _ | split)

theorem execBelayPowerLoss_keeps {u : State} (s : State) (h : Keeps .top u s) : KeepsO .top u (execBelayPowerLoss s) := by
  unfold execBelayPowerLoss
  refine .next ?_
  extract_lets s1 s2 s3 s4
  have h1 : Keeps .top u s1 := loseSessions_keeps _ (loseVolatile_keeps _ (Keeps.ite (orphan_keeps _ h) h))
  have o := loseVolatile_off (if s.upd.state = 1 then orphan s else s)
  have n : s3.noEnable = true := o.1
  have g : s3.steer.engaged = false := o.2
  have h3 : Keeps .top u s3 := updFlow_keeps (dict_keeps h1 _ (dictWf_filter _)) _ rfl
  clear_value s3
  exact history_keeps (dev_keeps h3 _ rfl (fun e => by cases e) (fun _ _ => .inr n) (fun _ _ e => by simp [g] at e)) _ (fun _ => Nat.zero_le _)

theorem execThermalThrottle_keeps {u : State} (on : Bool) (s : State) (h : Keeps .top u s) : KeepsO .top u (execThermalThrottle on s) := by
  unfold execThermalThrottle
  refine .next (updBelay_keeps h _ ?_)
  repeat' split
  all_goals rfl

theorem execThermalCritical_keeps {u : State} (s : State) (h : Keeps .top u s) : KeepsO .top u (execThermalCritical s) := by
  unfold execThermalCritical
  repeat' (first
      | with_reducible exact h | with_reducible assumption | with_reducible refine Keeps.ite ?_ ?_
      | with_reducible refine KeepsO.ite ?_ ?_ | with_reducible refine KeepsO.next ?_ | with_reducible exact KeepsO.refused _
      | with_reducible apply enterShutdown_keeps
      | with_reducible refine updBelay_keeps ?_ _ (by rfl) | with_reducible refine history_keeps ?_ _ (by intro _; simp)
      | with_reducible intro _ | split)

theorem execEccCorrected_keeps {u : State} (mem : Nat) (s : State) (h : Keeps .top u s) : KeepsO .top u (execEccCorrected mem s) := by
  unfold execEccCorrected
  repeat' (first
      | with_reducible exact h | with_reducible assumption | with_reducible refine Keeps.ite ?_ ?_
      | with_reducible refine KeepsO.ite ?_ ?_ | with_reducible refine KeepsO.next ?_ | with_reducible exact KeepsO.refused _
      | with_reducible refine updBelay_keeps ?_ _ (by rfl) | with_reducible refine history_keeps ?_ _ (by intro _; simp)
      | with_reducible apply record_keeps | extract_lets | with_reducible intro _ | split)

theorem fioLost_keeps {κ : Scope} {u s : State} (h : Keeps κ u s) : Keeps κ u { s with fio := {} } := by
  refine h.step rfl (Nat.le_refl _) id (fun _ => Nat.le_refl _) (fun i => ⟨i.dict, i.fot, i.history, i.sessions, i.fuses⟩)
    ⟨rfl, rfl, .inr ⟨fun _ e => e, fun k e => ?_, id, id⟩, .inl⟩
  rcases k with _ | _ | _ | _ | k <;> exact absurd (show false = true from e) Bool.false_ne_true

theorem restartEngine_keeps {u : State} (e : Nat) (s : State) (h : Keeps .top u s) : Keeps .top u (restartEngine e s) := by
  unfold restartEngine
  repeat' (first
      | with_reducible exact h | with_reducible assumption
      | with_reducible refine updFlow_keeps ?_ _ (by rfl) | with_reducible apply beginReset_keeps
      | with_reducible refine updValve_keeps ?_ _ (by rfl) | with_reducible apply updSens_keeps
      | with_reducible apply canStart_keeps | with_reducible apply lanStart_keeps
      | with_reducible apply fleetStart_keeps | with_reducible apply loseSessions_keeps | extract_lets | split
      | with_reducible apply engines_keeps | exact fioLost_keeps h)

theorem execEccUncorrectable_keeps {u : State} (mem : Nat) (area : EccArea) (address : Nat) (s : State) (h : Keeps .top u s) :
    KeepsO .top u (execEccUncorrectable mem area address s) := by
  unfold execEccUncorrectable
  refine .next ?_
  extract_lets s1
  have h1 : Keeps .top u s1 := record_keeps _ _ h
  clear_value s1
  split
  · exact Keeps.foldl h1 fun t f k => columnForce_keeps _ _ k
  · rename_i a
    have h2 := restartEngine_keeps a s1 h1
    generalize restartEngine a s1 = s2 at h2 ⊢
    refine regions_keeps (updBelay_keeps h2 _ rfl) _ fun c => ?_
    simp only [List.getD_eq_getElem?_getD, List.getElem?_mapIdx]
    show _ ≤ _ ∧ _
    cases e : (s2.updBelay _).upd.regions[c]? with
    | none => simp
    | some r =>
      simp only [Option.map_some, Option.getD_some]
      split <;> exact ⟨Nat.le_refl _, id⟩

theorem execNextParcelNorWrite_keeps {u : State} (s : State) (h : Keeps .top u s) : KeepsO .top u (execNextParcelNorWrite s) := by
  unfold execNextParcelNorWrite
  repeat' (first
      | with_reducible exact h | with_reducible assumption | with_reducible refine Keeps.ite ?_ ?_
      | with_reducible refine KeepsO.ite ?_ ?_ | with_reducible refine KeepsO.next ?_ | with_reducible exact KeepsO.refused _
      | with_reducible apply updPas_keeps | with_reducible intro _ | split)

end Sys2Proof.Machine
end

