-- ==== Sys2Proof/Laws/KeepsServer.lean ====
section
/-! SUPPORT. `Keeps` for the operations of Machine/Server.lean. -/

namespace Sys2Proof.Machine

set_option Elab.async false

theorem abortDone_keeps {u : State} (n result : Nat) (s : State) (h : Keeps .top u s) : Keeps .top u (abortDone n result s) := by
  unfold abortDone
  repeat' (first
      | with_reducible exact h | with_reducible assumption | with_reducible refine Keeps.ite ?_ ?_ | with_reducible apply updSess_keeps
      | with_reducible intro _ | split)

theorem abortBegin_keeps {u : State} (n : Nat) (k : Option Nat) (s : State) (h : Keeps .top u s) : Keeps .top u (abortBegin n k s) := by
  unfold abortBegin
  repeat' (first
      | with_reducible exact h | with_reducible assumption | with_reducible refine Keeps.ite ?_ ?_ | with_reducible apply updSess_keeps
      | with_reducible intro _ | split)

theorem abortTransfer_keeps {u : State} (n target role : Nat) (s : State) (h : Keeps .top u s) : KeepsE .top u (abortTransfer n target role s) := by
  unfold abortTransfer
  repeat' (first
      | with_reducible exact h | with_reducible assumption | with_reducible refine Keeps.ite ?_ ?_
      | with_reducible refine KeepsE.ite ?_ ?_ | with_reducible refine KeepsE.ok ?_ | with_reducible exact KeepsE.error _
      | with_reducible apply abortDone_keeps | with_reducible apply updSess_keeps | with_reducible apply answer_keeps
      | with_reducible intro _ | split)

theorem abortFunctions_keeps {u : State} (n : Nat) (k : Nat) (s : State) (h : Keeps .top u s) : Keeps .top u (abortFunctions n k s) := by
  unfold abortFunctions
  repeat' (first
      | with_reducible exact h | with_reducible assumption | with_reducible refine Keeps.ite ?_ ?_ | with_reducible apply abortDone_keeps
      | with_reducible apply updLoop_keeps | with_reducible apply abortBegin_keeps | extract_lets | with_reducible intro _ | split)

theorem abortUpdateKind_keeps {u : State} (n role : Nat) (s : State) (h : Keeps .top u s) : KeepsE .top u (abortUpdateKind n role s) := by
  unfold abortUpdateKind
  repeat' (first
      | with_reducible exact h | with_reducible assumption | with_reducible refine Keeps.ite ?_ ?_
      | with_reducible refine KeepsE.ite ?_ ?_ | with_reducible refine KeepsE.ok ?_ | with_reducible exact KeepsE.error _
      | with_reducible apply abortDone_keeps | with_reducible apply endUpdate_keeps | with_reducible intro _ | split)

theorem abortWrite_keeps {u : State} (w : Ctx) (i sub : Nat) (v : Val) (s : State) (h : Keeps .top u s) : KeepsE .top u (abortWrite w i sub v s) := by
  unfold abortWrite
  repeat' (first
      | with_reducible exact h | with_reducible assumption | with_reducible refine Keeps.ite ?_ ?_
      | with_reducible refine KeepsE.ite ?_ ?_ | with_reducible refine KeepsE.ok ?_ | with_reducible exact KeepsE.error _
      | with_reducible apply checked_keeps | with_reducible apply abortTransfer_keeps | with_reducible apply abortFunctions_keeps
      | with_reducible apply abortBegin_keeps | with_reducible apply beginReset_keeps | with_reducible apply abortUpdateKind_keeps
      | with_reducible refine KeepsE.of_eq (by assumption) ?_ | extract_lets | with_reducible intro _ | split)

theorem abortCommand_keeps {u : State} (sess kind target : Nat) (s : State) (h : Keeps .top u s) : KeepsO .top u (abortCommand sess kind target s) := by
  unfold abortCommand
  repeat' (first
      | with_reducible exact h | with_reducible assumption | with_reducible refine Keeps.ite ?_ ?_
      | with_reducible refine KeepsO.ite ?_ ?_ | with_reducible refine KeepsO.next ?_ | with_reducible exact KeepsO.refused _
      | with_reducible apply asSession_keeps | with_reducible apply abortWrite_keeps
      | with_reducible refine KeepsE.of_eq (by assumption) ?_ | with_reducible intro _ | split)

theorem execAbortTransfer_keeps {u : State} (sess target : Nat) (s : State) (h : Keeps .top u s) : KeepsO .top u (execAbortTransfer sess target s) := by
  unfold execAbortTransfer
  repeat' (first
      | with_reducible exact h | with_reducible assumption | with_reducible refine Keeps.ite ?_ ?_
      | with_reducible refine KeepsO.ite ?_ ?_ | with_reducible refine KeepsO.next ?_ | with_reducible exact KeepsO.refused _
      | with_reducible apply abortCommand_keeps | with_reducible intro _ | split)

theorem execAbortFunction_keeps {u : State} (sess f : Nat) (s : State) (h : Keeps .top u s) : KeepsO .top u (execAbortFunction sess f s) := by
  unfold execAbortFunction
  repeat' (first
      | with_reducible exact h | with_reducible assumption | with_reducible refine Keeps.ite ?_ ?_
      | with_reducible refine KeepsO.ite ?_ ?_ | with_reducible refine KeepsO.next ?_ | with_reducible exact KeepsO.refused _
      | with_reducible apply abortCommand_keeps | with_reducible intro _ | split)

theorem execAbortAllFunctions_keeps {u : State} (sess : Nat) (s : State) (h : Keeps .top u s) : KeepsO .top u (execAbortAllFunctions sess s) := by
  unfold execAbortAllFunctions
  repeat' (first
      | with_reducible exact h | with_reducible assumption | with_reducible refine Keeps.ite ?_ ?_
      | with_reducible refine KeepsO.ite ?_ ?_ | with_reducible refine KeepsO.next ?_ | with_reducible exact KeepsO.refused _
      | with_reducible apply abortCommand_keeps | with_reducible intro _ | split)

theorem execAbortPassageReset_keeps {u : State} (sess : Nat) (s : State) (h : Keeps .top u s) : KeepsO .top u (execAbortPassageReset sess s) := by
  unfold execAbortPassageReset
  repeat' (first
      | with_reducible exact h | with_reducible assumption | with_reducible refine Keeps.ite ?_ ?_
      | with_reducible refine KeepsO.ite ?_ ?_ | with_reducible refine KeepsO.next ?_ | with_reducible exact KeepsO.refused _
      | with_reducible apply abortCommand_keeps | with_reducible intro _ | split)

theorem execAbortUpdate_keeps {u : State} (sess : Nat) (s : State) (h : Keeps .top u s) : KeepsO .top u (execAbortUpdate sess s) := by
  unfold execAbortUpdate
  repeat' (first
      | with_reducible exact h | with_reducible assumption | with_reducible refine Keeps.ite ?_ ?_
      | with_reducible refine KeepsO.ite ?_ ?_ | with_reducible refine KeepsO.next ?_ | with_reducible exact KeepsO.refused _
      | with_reducible apply abortCommand_keeps | with_reducible intro _ | split)

theorem abortFrame_keeps {u : State} (s : State) (h : Keeps .top u s) : Keeps .top u (abortFrame s) := by
  unfold abortFrame
  repeat' (first
      | with_reducible exact h | with_reducible assumption | with_reducible refine Keeps.ite ?_ ?_
      | with_reducible refine updServ_keeps ?_ _ (by rfl) | with_reducible refine sessions_keeps ?_ _ (by simp) | extract_lets
      | with_reducible intro _ | split)

theorem objWrite_keeps {u : State} (w : Ctx) (i sub : Nat) (v : Val) (s : State) (h : Keeps .top u s) : Keeps2 .top u (objWrite w i sub v s) := by
  unfold objWrite
  repeat' (first
      | with_reducible exact h | with_reducible assumption | with_reducible refine Keeps.ite ?_ ?_
      | with_reducible refine Keeps2.ite ?_ ?_ | with_reducible apply answered_keeps | with_reducible apply storeWrite_keeps
      | with_reducible apply plainWrite_keeps | with_reducible apply powerWrite_keeps | with_reducible apply sessionWrite_keeps
      | with_reducible apply credentialWrite_keeps | with_reducible apply windowWrite_keeps | with_reducible apply abortWrite_keeps
      | with_reducible apply checked_keeps | with_reducible apply leaveLadder_keeps | with_reducible apply updWrite_keeps
      | with_reducible apply factoryWrite_keeps | with_reducible apply baseWrite_keeps | with_reducible apply c8Gone_keeps
      | with_reducible refine Keeps2.snd ?_ | with_reducible refine Keeps2.of_eq (by assumption) ?_
      | with_reducible refine KeepsE.of_eq (by assumption) ?_ | extract_lets | with_reducible intro _ | split
      | with_reducible refine Keeps2.mk ?_)

theorem writeBytes_keeps {u : State} (n i sub : Nat) (data : Bytes) (s : State) (h : Keeps .top u s) : Keeps .top u (writeBytes n i sub data s) := by
  unfold writeBytes
  repeat' (first
      | with_reducible exact h | with_reducible assumption | with_reducible refine Keeps.ite ?_ ?_
      | with_reducible refine KeepsE.ite ?_ ?_ | with_reducible refine KeepsE.ok ?_ | with_reducible exact KeepsE.error _
      | with_reducible apply objWrite_keeps | with_reducible apply updSess_keeps | with_reducible apply answer_keeps
      | with_reducible refine Keeps2.snd ?_ | with_reducible refine Keeps2.of_eq (by assumption) ?_
      | with_reducible refine Keeps2.ite ?_ ?_ | extract_lets | with_reducible intro _ | split | with_reducible refine Keeps2.mk ?_)

theorem execObjectWrite_keeps {u : State} (sess index sub : Nat) (data : Bytes) (s : State) (h : Keeps .top u s) : KeepsO .top u (execObjectWrite sess index sub data s) := by
  unfold execObjectWrite
  repeat' (first
      | with_reducible exact h | with_reducible assumption | with_reducible refine Keeps.ite ?_ ?_
      | with_reducible refine KeepsO.ite ?_ ?_ | with_reducible refine KeepsO.next ?_ | with_reducible exact KeepsO.refused _
      | with_reducible apply withUnit_keeps | with_reducible apply writeBytes_keeps | with_reducible apply touch_keeps
      | with_reducible apply unreached_keeps | with_reducible intro _ | split)

theorem readBytes_keeps {u : State} (n i sub : Nat) (s : State) (h : Keeps .top u s) : Keeps2 .top u (readBytes n i sub s) := by
  unfold readBytes
  repeat' (first
      | with_reducible exact h | with_reducible assumption | with_reducible refine Keeps.ite ?_ ?_
      | with_reducible refine KeepsE.ite ?_ ?_ | with_reducible refine KeepsE.ok ?_ | with_reducible exact KeepsE.error _
      | with_reducible refine Keeps2.ite ?_ ?_ | with_reducible apply free_keeps | with_reducible apply takeChallenge_keeps
      | with_reducible apply readBlock_keeps | with_reducible apply readWindow_keeps | extract_lets | with_reducible intro _ | split
      | with_reducible refine Keeps2.mk ?_)

theorem reply_keeps {u : State} (n : Nat) (b : Bytes) (s : State) (h : Keeps .top u s) : Keeps .top u (reply n b s) := by
  unfold reply
  repeat' (first
      | with_reducible exact h | with_reducible assumption | with_reducible refine Keeps.ite ?_ ?_
      | with_reducible refine updServ_keeps ?_ _ (by rfl) | with_reducible refine sessions_keeps ?_ _ (by simp)
      | with_reducible apply updSess_keeps | with_reducible intro _ | split)

theorem serveRead_keeps {u : State} (n : Nat) (q : Request) (idle : Bool) (s : State) (h : Keeps .top u s) : Keeps .top u (serveRead n q idle s) := by
  unfold serveRead
  repeat' (first
      | with_reducible exact h | with_reducible assumption | with_reducible refine Keeps.ite ?_ ?_
      | with_reducible refine KeepsE.ite ?_ ?_ | with_reducible refine KeepsE.ok ?_ | with_reducible exact KeepsE.error _
      | with_reducible apply readBytes_keeps | with_reducible apply reply_keeps | with_reducible apply updSess_keeps
      | with_reducible refine Keeps2.snd ?_ | with_reducible refine Keeps2.of_eq (by assumption) ?_
      | with_reducible refine Keeps2.ite ?_ ?_ | extract_lets | with_reducible intro _ | split | with_reducible refine Keeps2.mk ?_)

theorem serveWhole_keeps {u : State} (n : Nat) (q : Request) (data : Bytes) (s : State) (h : Keeps .top u s) : Keeps .top u (serveWhole n q data s) := by
  unfold serveWhole
  repeat' (first
      | with_reducible exact h | with_reducible assumption | with_reducible refine Keeps.ite ?_ ?_ | with_reducible apply reply_keeps
      | with_reducible apply writeBytes_keeps | with_reducible apply answer_keeps | with_reducible apply updSess_keeps | extract_lets
      | with_reducible intro _ | split)

theorem serveWrite_keeps {u : State} (n : Nat) (q : Request) (s : State) (h : Keeps .top u s) : Keeps .top u (serveWrite n q s) := by
  unfold serveWrite
  repeat' (first
      | with_reducible exact h | with_reducible assumption | with_reducible refine Keeps.ite ?_ ?_ | with_reducible apply reply_keeps
      | with_reducible apply updSess_keeps | with_reducible apply serveWhole_keeps | extract_lets | with_reducible intro _ | split)

theorem serve_keeps {u : State} (n : Nat) (q : Request) (s : State) (h : Keeps .top u s) : Keeps .top u (serve n q s) := by
  unfold serve
  repeat' (first
      | with_reducible exact h | with_reducible assumption | with_reducible refine Keeps.ite ?_ ?_ | with_reducible apply touch_keeps
      | with_reducible apply updSess_keeps | with_reducible apply serveRead_keeps | with_reducible apply reply_keeps
      | with_reducible apply serveWrite_keeps | extract_lets | with_reducible intro _ | split)

theorem dropCounted_keeps {u : State} (s : State) (h : Keeps .top u s) : Keeps .top u (dropCounted s) := by
  unfold dropCounted
  repeat' (first
      | with_reducible exact h | with_reducible assumption | with_reducible refine Keeps.ite ?_ ?_
      | with_reducible refine updServ_keeps ?_ _ (by rfl) | with_reducible refine sessions_keeps ?_ _ (by simp) | with_reducible intro _
      | split)

theorem receiveFor_keeps {u : State} (n : Nat) (q : Request) (b : Bytes) (s : State) (h : Keeps .top u s) : Keeps .top u (receiveFor n q b s) := by
  unfold receiveFor
  repeat' (first
      | with_reducible exact h | with_reducible assumption | with_reducible refine Keeps.ite ?_ ?_
      | with_reducible apply dropCounted_keeps | with_reducible apply touch_keeps
      | with_reducible refine updServ_keeps ?_ _ (by rfl) | with_reducible refine sessions_keeps ?_ _ (by simp)
      | with_reducible apply reply_keeps | with_reducible apply serve_keeps | extract_lets | with_reducible intro _ | split)

theorem receiveOpen_keeps {u : State} (tr : Transport) (ip : Nat) (q : Request) (s : State) (h : Keeps .top u s) : Keeps .top u (receiveOpen tr ip q s) := by
  unfold receiveOpen
  repeat' (first
      | with_reducible exact h | with_reducible assumption | with_reducible refine Keeps.ite ?_ ?_
      | with_reducible refine updServ_keeps ?_ _ (by rfl) | with_reducible refine sessions_keeps ?_ _ (by simp)
      | with_reducible apply reply_keeps | with_reducible apply openSession_keeps | with_reducible apply updSess_keeps
      | with_reducible refine KeepsP.of_eq (by assumption) ?_ | extract_lets | with_reducible intro _ | split)

theorem receiveDatagram_keeps {u : State} (tr : Transport) (ip : Nat) (b : Bytes) (s : State) (h : Keeps .top u s) : Keeps .top u (receiveDatagram tr ip b s) := by
  unfold receiveDatagram
  repeat' (first
      | with_reducible exact h | with_reducible assumption | with_reducible refine Keeps.ite ?_ ?_
      | with_reducible apply receiveOpen_keeps | with_reducible apply receiveFor_keeps | extract_lets | with_reducible intro _ | split)

theorem execDatagram_keeps {u : State} (tr : Transport) (ip : Nat) (data : Bytes) (s : State) (h : Keeps .top u s) : KeepsO .top u (execDatagram tr ip data s) := by
  unfold execDatagram
  repeat' (first
      | with_reducible exact h | with_reducible assumption | with_reducible refine Keeps.ite ?_ ?_
      | with_reducible refine KeepsO.ite ?_ ?_ | with_reducible refine KeepsO.next ?_ | with_reducible exact KeepsO.refused _
      | with_reducible apply withUnit_keeps | with_reducible apply receiveDatagram_keeps | with_reducible intro _ | split)

end Sys2Proof.Machine
end

