-- ==== Sys2Proof/Laws/KeepsFrames.lean ====
section
/-! SUPPORT. `Keeps` for the operations of Machine/Frames.lean. -/

namespace Sys2Proof.Machine

set_option Elab.async false

theorem frameStart_keeps {u : State} (x : FrameIn) (s : State) (h : Keeps .top u s) : Keeps .top u (frameStart x s) := by
  unfold frameStart
  repeat' (first
      | with_reducible exact h | with_reducible assumption | with_reducible refine Keeps.ite ?_ ?_ | with_reducible apply updTm_keeps
      | with_reducible apply senseFrame_keeps | with_reducible apply modeFrame_keeps | with_reducible apply fieldFrame_keeps
      | with_reducible apply valveFrame_keeps | with_reducible apply updLoop_keeps | extract_lets | with_reducible intro _ | split)

theorem stationFrame_keeps {u : State} (s : State) (h : Keeps .top u s) : Keeps .top u (stationFrame s) := by
  unfold stationFrame
  repeat' (first
      | with_reducible exact h | with_reducible assumption | with_reducible refine Keeps.ite ?_ ?_ | with_reducible apply updPas_keeps
      | with_reducible intro _ | split)

theorem closeStamps_keeps {u : State} (s : State) (h : Keeps .top u s) : Keeps .top u (closeStamps s) := by
  unfold closeStamps
  repeat' (first
      | with_reducible exact h | with_reducible assumption | with_reducible refine Keeps.ite ?_ ?_ | with_reducible apply updSens_keeps
      | with_reducible intro _ | split)

theorem passageFrame_keeps {u : State} (sections : Nat) (s : State) (h : Keeps .top u s) : Keeps1 .top u (passageFrame sections s) := by
  unfold passageFrame
  repeat' (first
      | with_reducible exact h | with_reducible assumption | with_reducible refine Keeps.ite ?_ ?_
      | with_reducible refine Keeps1.ite ?_ ?_ | with_reducible apply groundFrame_keeps | with_reducible apply updPas_keeps
      | with_reducible apply advance_keeps | with_reducible apply stationFrame_keeps | with_reducible apply settle_keeps
      | with_reducible apply tareFrame_keeps | with_reducible apply loadFrame_keeps | with_reducible apply attributeFlows_keeps
      | with_reducible apply attributeImpacts_keeps | with_reducible apply noteReports_keeps | with_reducible apply freeEntriesNow_keeps
      | with_reducible apply calCount_keeps | with_reducible apply orderCheck_keeps | with_reducible apply closeStamps_keeps
      | with_reducible apply records_keeps | with_reducible refine Keeps1.fst ?_ | with_reducible refine Keeps1.of_eq (by assumption) ?_
      | extract_lets | with_reducible intro _ | split | with_reducible refine Keeps1.mk ?_)

theorem loopPhase_keeps {u : State} (x : FrameIn) (crossed : Nat → Nat → Bool) (s : State) (h : Keeps .top u s) : Keeps .top u (loopPhase x crossed s) := by
  unfold loopPhase
  repeat' (first
      | with_reducible exact h | with_reducible assumption | with_reducible refine Keeps.ite ?_ ?_
      | with_reducible apply runContexts_keeps | with_reducible apply setpointStage_keeps | with_reducible apply traceFrame_keeps
      | with_reducible apply fieldLatch_keeps | with_reducible apply compareAndLatch_keeps | with_reducible apply updSens_keeps
      | extract_lets | with_reducible intro _ | split)

theorem loopFrame_keeps {u : State} (x : FrameIn) (s : State) (h : Keeps .top u s) : Keeps .top u (loopFrame x s) := by
  unfold loopFrame
  repeat' (first
      | with_reducible exact h | with_reducible assumption | with_reducible refine Keeps.ite ?_ ?_ | with_reducible apply frameStart_keeps
      | with_reducible apply updLoop_keeps | with_reducible apply passageFrame_keeps | with_reducible apply columnA_keeps
      | with_reducible apply leadFrame_keeps | with_reducible apply holdC_keeps | with_reducible apply stageFrame_keeps
      | with_reducible apply completeReset_keeps | with_reducible apply releaseEvents_keeps | with_reducible apply loopPhase_keeps
      | with_reducible apply probationFrame_keeps | with_reducible apply lanFrame_keeps | with_reducible apply drainFifo_keeps
      | with_reducible apply abortFrame_keeps | with_reducible refine Keeps1.fst ?_
      | with_reducible refine Keeps1.of_eq (by assumption) ?_ | with_reducible refine Keeps1.ite ?_ ?_ | extract_lets
      | with_reducible intro _ | split | with_reducible refine Keeps1.mk ?_)

theorem execLoopFrame_keeps {u : State} (x : FrameIn) (s : State) (h : Keeps .top u s) : KeepsO .top u (execLoopFrame x s) := by
  unfold execLoopFrame
  repeat' (first
      | with_reducible exact h | with_reducible assumption | with_reducible refine Keeps.ite ?_ ?_
      | with_reducible refine KeepsO.ite ?_ ?_ | with_reducible refine KeepsO.next ?_ | with_reducible exact KeepsO.refused _
      | with_reducible apply loopFrame_keeps | with_reducible apply updTm_keeps | with_reducible intro _ | split)

theorem saveMemories_keeps {u : State} (s : State) (h : Keeps .top u s) : Keeps .top u (saveMemories s) := by
  unfold saveMemories
  repeat' (first
      | with_reducible exact h | with_reducible assumption | with_reducible refine Keeps.ite ?_ ?_
      | (with_reducible refine Keeps.foldl ?_ ?_; rotate_left; intro _ _ _)
      | (with_reducible refine Keeps1.foldl ?_ ?_; rotate_left; intro _ _ _)
      | (with_reducible refine Keeps2.foldl ?_ ?_; rotate_left; intro _ _ _) | with_reducible apply commit_keeps
      | with_reducible apply updComp_keeps | extract_lets | with_reducible intro _ | split)

theorem applicationFrame_keeps {u : State} (x : AppIn) (s : State) (h : Keeps .top u s) : Keeps .top u (applicationFrame x s) := by
  unfold applicationFrame
  repeat' (first
      | with_reducible exact h | with_reducible assumption | with_reducible refine Keeps.ite ?_ ?_ | with_reducible apply updLoop_keeps
      | with_reducible apply freeEntriesNow_keeps | with_reducible apply takeReports_keeps | with_reducible apply yieldFrame_keeps
      | with_reducible apply saveMemories_keeps | with_reducible apply optFrame_keeps | with_reducible apply cartFrame_keeps
      | with_reducible apply recordCurve_keeps | with_reducible apply fillWindow_keeps | with_reducible apply turnFrame_keeps
      | with_reducible apply claimFrameEnd_keeps | with_reducible apply drainFifo_keeps | with_reducible apply vtServe_keeps
      | with_reducible apply leadAppFrame_keeps | extract_lets | with_reducible intro _ | split)

theorem execApplicationFrame_keeps {u : State} (x : AppIn) (s : State) (h : Keeps .top u s) : KeepsO .top u (execApplicationFrame x s) := by
  unfold execApplicationFrame
  repeat' (first
      | with_reducible exact h | with_reducible assumption | with_reducible refine Keeps.ite ?_ ?_
      | with_reducible refine KeepsO.ite ?_ ?_ | with_reducible refine KeepsO.next ?_ | with_reducible exact KeepsO.refused _
      | with_reducible apply applicationFrame_keeps | with_reducible intro _ | split)

theorem execEpochSolution_keeps {u : State} (x : Solution) (s : State) (h : Keeps .top u s) : KeepsO .top u (execEpochSolution x s) := by
  unfold execEpochSolution
  repeat' (first
      | with_reducible exact h | with_reducible assumption | with_reducible refine Keeps.ite ?_ ?_
      | with_reducible refine KeepsO.ite ?_ ?_ | with_reducible refine KeepsO.next ?_ | with_reducible exact KeepsO.refused _
      | with_reducible apply epochStep_keeps | with_reducible intro _ | split)

theorem shiftStamps_keeps {κ : Scope} {u : State} (d : Int) (s : State) (h : Keeps κ u s) : Keeps κ u (shiftStamps d s) :=
  h.step rfl (Nat.le_refl _) id (fun _ => Nat.le_refl _)
    (fun i => ⟨i.dict, i.fot, i.history, (List.length_map (as := s.serv.sess) (Sess.moved d)).trans i.sessions, i.fuses⟩)
    (.same rfl rfl rfl rfl rfl rfl)

theorem stepTime_keeps {u : State} (d : Int) (s : State) (h : Keeps .top u s) : Keeps .top u (stepTime d s) := by
  unfold stepTime
  repeat' (first
      | with_reducible exact h | with_reducible assumption | with_reducible refine Keeps.ite ?_ ?_
      | with_reducible apply shiftStamps_keeps | with_reducible apply updTm_keeps | with_reducible apply updSkyio_keeps
      | with_reducible apply updSky_keeps | with_reducible apply record_keeps | extract_lets | with_reducible intro _ | split)

theorem execTimeStep_keeps {u : State} (s : State) (h : Keeps .top u s) : KeepsO .top u (execTimeStep s) := by
  unfold execTimeStep
  repeat' (first
      | with_reducible exact h | with_reducible assumption | with_reducible refine Keeps.ite ?_ ?_
      | with_reducible refine KeepsO.ite ?_ ?_ | with_reducible refine KeepsO.next ?_ | with_reducible exact KeepsO.refused _
      | with_reducible apply stepTime_keeps | with_reducible intro _ | split)

end Sys2Proof.Machine
end

