-- ==== Sys2Proof/Laws/Exec.lean ====
section
/-! SUPPORT. What every command does, put together from the chapters: it keeps the relation `Keeps`. -/

namespace Sys2Proof.Machine

set_option Elab.async false

/-- Whatever a command does, its next state keeps the relation. -/
theorem exec_keeps (s : State) : ∀ c, KeepsO .top s (exec c s)
  | .loopFrame x => execLoopFrame_keeps x s (.refl s)
  | .applicationFrame x => execApplicationFrame_keeps x s (.refl s)
  | .ignWake => execIgnWake_keeps s (.refl s)
  | .keysvcWake => execKeysvcWake_keeps s (.refl s)
  | .keysvcHoldExpiry => execKeysvcHoldExpiry_keeps s (.refl s)
  | .alarmWake => execAlarmWake_keeps s (.refl s)
  | .alarmPassedAwake => execAlarmPassedAwake_keeps s (.refl s)
  | .canWake w how => execCanWake_keeps w how s (.refl s)
  | .startAllowedWaitEnd => execStartAllowedWaitEnd_keeps s (.refl s)
  | .startToRun => execStartToRun_keeps s (.refl s)
  | .startToLadder noCol noGal => execStartToLadder_keeps noCol noGal s (.refl s)
  | .deviceStateRequestRun sess => execDeviceStateRequestRun_keeps sess s (.refl s)
  | .deviceStateRequestService sess => execDeviceStateRequestService_keeps sess s (.refl s)
  | .deviceStateRequestShutdown sess => execDeviceStateRequestShutdown_keeps sess s (.refl s)
  | .ignOffDelayExpiry => execIgnOffDelayExpiry_keeps s (.refl s)
  | .ladderIgnOffExpiry => execLadderIgnOffExpiry_keeps s (.refl s)
  | .shutdownComplete => execShutdownComplete_keeps s (.refl s)
  | .shutdownLimitExpiry => execShutdownLimitExpiry_keeps s (.refl s)
  | .parkDwellExpiry => execParkDwellExpiry_keeps s (.refl s)
  | .operatorTakeover stamp => execOperatorTakeover_keeps stamp s (.refl s)
  | .eccCorrected mem => execEccCorrected_keeps mem s (.refl s)
  | .eccUncorrectable mem area address => execEccUncorrectable_keeps mem area address s (.refl s)
  | .headerEntersWork => execHeaderEntersWork_keeps s (.refl s)
  | .headerLeavesWork => execHeaderLeavesWork_keeps s (.refl s)
  | .stationStopTimeout k => execStationStopTimeout_keeps k s (.refl s)
  | .groundSourceLossExpiry => execGroundSourceLossExpiry_keeps s (.refl s)
  | .eventRecord sess rec => execEventRecord_keeps sess rec s (.refl s)
  | .eventCancel sess id => execEventCancel_keeps sess id s (.refl s)
  | .snapshot sess v => execSnapshot_keeps sess v s (.refl s)
  | .stationConfigWrite sess k sub v => execStationConfigWrite_keeps sess k sub v s (.refl s)
  | .kernelWrite sess k sub v => execKernelWrite_keeps sess k sub v s (.refl s)
  | .sliceLengthWrite sess sub v => execSliceLengthWrite_keeps sess sub v s (.refl s)
  | .calStart sess => execCalStart_keeps sess s (.refl s)
  | .calStop sess => execCalStop_keeps sess s (.refl s)
  | .calAccept sess => execCalAccept_keeps sess s (.refl s)
  | .calDiscard sess => execCalDiscard_keeps sess s (.refl s)
  | .calProposalReady transit step kernel quality => execCalProposalReady_keeps transit step kernel quality s (.refl s)
  | .transitTrim trims => execTransitTrim_keeps trims s (.refl s)
  | .passageReset outOfOrder => execPassageReset_keeps outOfOrder s (.refl s)
  | .leadSuspendEnd => execLeadSuspendEnd_keeps s (.refl s)
  | .leadEnable sess v => execLeadEnable_keeps sess v s (.refl s)
  | .leadSlotWrite sess j sub v => execLeadSlotWrite_keeps sess j sub v s (.refl s)
  | .leadSnapshot sess v => execLeadSnapshot_keeps sess v s (.refl s)
  | .leadCountRecord => execLeadCountRecord_keeps s (.refl s)
  | .sensorSupplyFoldback u => execSensorSupplyFoldback_keeps u s (.refl s)
  | .sensorSupplyRetry u within => execSensorSupplyRetry_keeps u within s (.refl s)
  | .pulseWindowClose c stamp samples => execPulseWindowClose_keeps c stamp samples s (.refl s)
  | .lsChannelTest c cap lowResistance => execLsChannelTest_keeps c cap lowResistance s (.refl s)
  | .lsTestNow sess mask => execLsTestNow_keeps sess mask s (.refl s)
  | .lsNoisyExpiry c above => execLsNoisyExpiry_keeps c above s (.refl s)
  | .lossChannelWrite sess c sub v => execLossChannelWrite_keeps sess c sub v s (.refl s)
  | .aiRangeFault a raw => execAiRangeFault_keeps a raw s (.refl s)
  | .aiRangeHoldExpiry a => execAiRangeHoldExpiry_keeps a s (.refl s)
  | .shuntOpen a => execShuntOpen_keeps a s (.refl s)
  | .shuntRetest a microamp => execShuntRetest_keeps a microamp s (.refl s)
  | .aiConfigWrite sess a sub v => execAiConfigWrite_keeps sess a sub v s (.refl s)
  | .shaftEdge sh stamp lines held => execShaftEdge_keeps sh stamp lines held s (.refl s)
  | .indexEdge sh stamp => execIndexEdge_keeps sh stamp s (.refl s)
  | .shaftZeroTimeout sh => execShaftZeroTimeout_keeps sh s (.refl s)
  | .shaftFaultClearExpiry sh => execShaftFaultClearExpiry_keeps sh s (.refl s)
  | .tareLearn => execTareLearn_keeps s (.refl s)
  | .imuSample stamp ax ay az rx ry rz biasX biasY => execImuSample_keeps stamp ax ay az rx ry rz biasX biasY s (.refl s)
  | .imuSelfTest pass => execImuSelfTest_keeps pass s (.refl s)
  | .contextEnable sess n => execContextEnable_keeps sess n s (.refl s)
  | .contextDisable sess n => execContextDisable_keeps sess n s (.refl s)
  | .coefSetWrite sess n set rec => execCoefSetWrite_keeps sess n set rec s (.refl s)
  | .swapRequest sess n v => execSwapRequest_keeps sess n v s (.refl s)
  | .functionModeManual sess f => execFunctionModeManual_keeps sess f s (.refl s)
  | .functionModeAuto sess f => execFunctionModeAuto_keeps sess f s (.refl s)
  | .functionModeHold sess f => execFunctionModeHold_keeps sess f s (.refl s)
  | .committedSetpointWrite sess f v => execCommittedSetpointWrite_keeps sess f v s (.refl s)
  | .setpointLimitsWrite sess f sub v => execSetpointLimitsWrite_keeps sess f sub v s (.refl s)
  | .setpointSourceWrite sess f sub v => execSetpointSourceWrite_keeps sess f sub v s (.refl s)
  | .manualCommandWrite sess f v => execManualCommandWrite_keeps sess f v s (.refl s)
  | .functionCommand sess f v => execFunctionCommand_keeps sess f v s (.refl s)
  | .lpeHandover costs => execLpeHandover_keeps costs s (.refl s)
  | .repClear sess n => execRepClear_keeps sess n s (.refl s)
  | .repHold sess n => execRepHold_keeps sess n s (.refl s)
  | .repResume sess n => execRepResume_keeps sess n s (.refl s)
  | .repSave sess n => execRepSave_keeps sess n s (.refl s)
  | .repMemoryLoad n => execRepMemoryLoad_keeps n s (.refl s)
  | .compTableWrite sess n sub data => execCompTableWrite_keeps sess n sub data s (.refl s)
  | .traceArm sess => execTraceArm_keeps sess s (.refl s)
  | .traceForceTrigger sess => execTraceForceTrigger_keeps sess s (.refl s)
  | .traceDisarm sess => execTraceDisarm_keeps sess s (.refl s)
  | .traceRelease sess => execTraceRelease_keeps sess s (.refl s)
  | .readBlock sess => execReadBlock_keeps sess s (.refl s)
  | .blockJudged => execBlockJudged_keeps s (.refl s)
  | .suggestionAccept sess j => execSuggestionAccept_keeps sess j s (.refl s)
  | .suggestionReject sess j => execSuggestionReject_keeps sess j s (.refl s)
  | .suggestionExpiry j => execSuggestionExpiry_keeps j s (.refl s)
  | .operatorHoldExpiry j => execOperatorHoldExpiry_keeps j s (.refl s)
  | .damageDatagram iface rec => execDamageDatagram_keeps iface rec s (.refl s)
  | .damageStaleExpiry => execDamageStaleExpiry_keeps s (.refl s)
  | .optConfigWrite sess sub v => execOptConfigWrite_keeps sess sub v s (.refl s)
  | .optSlotWrite sess j sub v => execOptSlotWrite_keeps sess j sub v s (.refl s)
  | .steerEngage sess => execSteerEngage_keeps sess s (.refl s)
  | .steerDisengageCommand sess => execSteerDisengageCommand_keeps sess s (.refl s)
  | .steerDisengage reason => execSteerDisengage_keeps reason s (.refl s)
  | .seatLowExpiry => execSeatLowExpiry_keeps s (.refl s)
  | .wheelAngleDisagree => execWheelAngleDisagree_keeps s (.refl s)
  | .runawayExpiry => execRunawayExpiry_keeps s (.refl s)
  | .steerOverspeedExpiry => execSteerOverspeedExpiry_keeps s (.refl s)
  | .steerReverseTravel => execSteerReverseTravel_keeps s (.refl s)
  | .takeoverRefusalEnd => execTakeoverRefusalEnd_keeps s (.refl s)
  | .coastExhausted => execCoastExhausted_keeps s (.refl s)
  | .turnNow sess => execTurnNow_keeps sess s (.refl s)
  | .turnCancel sess => execTurnCancel_keeps sess s (.refl s)
  | .turnComplete => execTurnComplete_keeps s (.refl s)
  | .lineSetA sess => execLineSetA_keeps sess s (.refl s)
  | .lineSetB sess => execLineSetB_keeps sess s (.refl s)
  | .curveRecordStart sess => execCurveRecordStart_keeps sess s (.refl s)
  | .curveRecordEnd sess => execCurveRecordEnd_keeps sess s (.refl s)
  | .nearestPass sess v => execNearestPass_keeps sess v s (.refl s)
  | .edgeFrame ch id stamp data => execEdgeFrame_keeps ch id stamp data s (.refl s)
  | .edgeTimeout => execEdgeTimeout_keeps s (.refl s)
  | .unloadMessage => execUnloadMessage_keeps s (.refl s)
  | .loadStart sess => execLoadStart_keeps sess s (.refl s)
  | .loadEmpty sess => execLoadEmpty_keeps sess s (.refl s)
  | .loadEmptied => execLoadEmptied_keeps s (.refl s)
  | .weighedMassWrite sess g => execWeighedMassWrite_keeps sess g s (.refl s)
  | .loadAccept sess => execLoadAccept_keeps sess s (.refl s)
  | .loadDiscard sess => execLoadDiscard_keeps sess s (.refl s)
  | .mapOpen by_ => execMapOpen_keeps by_ s (.refl s)
  | .mapClose by_ => execMapClose_keeps by_ s (.refl s)
  | .priorTile tile => execPriorTile_keeps tile s (.refl s)
  | .fleetConnect => execFleetConnect_keeps s (.refl s)
  | .fleetReconnectExpiry connected => execFleetReconnectExpiry_keeps connected s (.refl s)
  | .fleetLinkLost authRefused => execFleetLinkLost_keeps authRefused s (.refl s)
  | .posePublish => execPosePublish_keeps s (.refl s)
  | .parcelBatchPublish => execParcelBatchPublish_keeps s (.refl s)
  | .tilePublish e n => execTilePublish_keeps e n s (.refl s)
  | .statePublish opt => execStatePublish_keeps opt s (.refl s)
  | .docPublish file => execDocPublish_keeps file s (.refl s)
  | .fleetMessageReceive topic msg => execFleetMessageReceive_keeps topic msg s (.refl s)
  | .bankEnable b grant => execBankEnable_keeps b grant s (.refl s)
  | .driveSupplyNotPresent sup high mV => execDriveSupplyNotPresent_keeps sup high mV s (.refl s)
  | .driveSupplyPresent sup => execDriveSupplyPresent_keeps sup s (.refl s)
  | .bankResumeSlot b => execBankResumeSlot_keeps b s (.refl s)
  | .railFault => execRailFault_keeps s (.refl s)
  | .railFaultClear => execRailFaultClear_keeps s (.refl s)
  | .pvRegulationPeriod x => execPvRegulationPeriod_keeps x s (.refl s)
  | .svBoostEnd n time => execSvBoostEnd_keeps n time s (.refl s)
  | .boostTimeout n mA => execBoostTimeout_keeps n mA s (.refl s)
  | .svPeakEnd n => execSvPeakEnd_keeps n s (.refl s)
  | .svPulseHoldExpiry n => execSvPulseHoldExpiry_keeps n s (.refl s)
  | .svQuenchEnd n => execSvQuenchEnd_keeps n s (.refl s)
  | .svBoostGranted b time => execSvBoostGranted_keeps b time s (.refl s)
  | .boostRejected n time => execBoostRejected_keeps n time s (.refl s)
  | .svThermalLimit n => execSvThermalLimit_keeps n s (.refl s)
  | .overlapCheck n mean => execOverlapCheck_keeps n mean s (.refl s)
  | .moveDetect n moveTime => execMoveDetect_keeps n moveTime s (.refl s)
  | .coilTempUpdate n res relaxed => execCoilTempUpdate_keeps n res relaxed s (.refl s)
  | .sentFrame u frame => execSentFrame_keeps u frame s (.refl s)
  | .sentTimeout u => execSentTimeout_keeps u s (.refl s)
  | .stuck n targetChange travel => execStuck_keeps n targetChange travel s (.refl s)
  | .valveOvercurrent n => execValveOvercurrent_keeps n s (.refl s)
  | .valveTripRetry n => execValveTripRetry_keeps n s (.refl s)
  | .highSideTrip b => execHighSideTrip_keeps b s (.refl s)
  | .uncommandedCurrent n => execUncommandedCurrent_keeps n s (.refl s)
  | .offStateTest n result => execOffStateTest_keeps n result s (.refl s)
  | .openLoadDriven n set => execOpenLoadDriven_keeps n set s (.refl s)
  | .shortedCoil n => execShortedCoil_keeps n s (.refl s)
  | .valveOvertempStage n high => execValveOvertempStage_keeps n high s (.refl s)
  | .valveFaultCommand sess n v => execValveFaultCommand_keeps sess n v s (.refl s)
  | .bankCommand sess b v => execBankCommand_keeps sess b v s (.refl s)
  | .valveGuardExpiry b => execValveGuardExpiry_keeps b s (.refl s)
  | .valveGuardEnd b => execValveGuardEnd_keeps b s (.refl s)
  | .testCommand sess n v => execTestCommand_keeps sess n v s (.refl s)
  | .testCommandTimeout n => execTestCommandTimeout_keeps n s (.refl s)
  | .valveConfigWrite sess index sub v => execValveConfigWrite_keeps sess index sub v s (.refl s)
  | .fieldInputChange n mV stamp => execFieldInputChange_keeps n mV stamp s (.refl s)
  | .outputCommandWrite sess n v => execOutputCommandWrite_keeps sess n v s (.refl s)
  | .groupEnable g grant => execGroupEnable_keeps g grant s (.refl s)
  | .groupSupplyLow g low mV => execGroupSupplyLow_keeps g low mV s (.refl s)
  | .groupSupplyMissing g high mV => execGroupSupplyMissing_keeps g high mV s (.refl s)
  | .groupRestoreStart g => execGroupRestoreStart_keeps g s (.refl s)
  | .groupRestoreSlot g => execGroupRestoreSlot_keeps g s (.refl s)
  | .fieldOvercurrent n => execFieldOvercurrent_keeps n s (.refl s)
  | .fieldOvertempStage n high => execFieldOvertempStage_keeps n high s (.refl s)
  | .groupOverload g => execGroupOverload_keeps g s (.refl s)
  | .noLoadCurrent n set => execNoLoadCurrent_keeps n set s (.refl s)
  | .externalDrive n set => execExternalDrive_keeps n set s (.refl s)
  | .pinsJoined m n followed => execPinsJoined_keeps m n followed s (.refl s)
  | .fieldGuardExpiry g => execFieldGuardExpiry_keeps g s (.refl s)
  | .fieldGuardEnd g => execFieldGuardEnd_keeps g s (.refl s)
  | .fieldFaultCommand sess n v => execFieldFaultCommand_keeps sess n v s (.refl s)
  | .groupCommand sess g v => execGroupCommand_keeps sess g v s (.refl s)
  | .pinModeWrite sess n v => execPinModeWrite_keeps sess n v s (.refl s)
  | .antennaFeedFault a short => execAntennaFeedFault_keeps a short s (.refl s)
  | .antennaFeedRetry a ok => execAntennaFeedRetry_keeps a ok s (.refl s)
  | .searchBlock svid sig peak => execSearchBlock_keeps svid sig peak s (.refl s)
  | .detectionVerify ch locked => execDetectionVerify_keeps ch locked s (.refl s)
  | .aidingSet f0 f1 f2 t0 t1 t2 => execAidingSet_keeps f0 f1 f2 t0 t1 t2 s (.refl s)
  | .channelAllocation view => execChannelAllocation_keeps view s (.refl s)
  | .cycleSlip ch => execCycleSlip_keeps ch s (.refl s)
  | .epochSolution sol => execEpochSolution_keeps sol s (.refl s)
  | .rtcmFrame fromFleet frame => execRtcmFrame_keeps fromFleet frame s (.refl s)
  | .firstFixTimeSet gnssTime => execFirstFixTimeSet_keeps gnssTime s (.refl s)
  | .slewEnd => execSlewEnd_keeps s (.refl s)
  | .timeStep => execTimeStep_keeps s (.refl s)
  | .ppsEdge second qerr => execPpsEdge_keeps second qerr s (.refl s)
  | .timeMessage => execTimeMessage_keeps s (.refl s)
  | .skyColdStart sess => execSkyColdStart_keeps sess s (.refl s)
  | .skyDropAmbiguities sess => execSkyDropAmbiguities_keeps sess s (.refl s)
  | .skylightStop => execSkylightStop_keeps s (.refl s)
  | .rtcWrite => execRtcWrite_keeps s (.refl s)
  | .ptpSyncReceive port offset accuracy => execPtpSyncReceive_keeps port offset accuracy s (.refl s)
  | .ptpSyncDepart port => execPtpSyncDepart_keeps port s (.refl s)
  | .pdelayExchange port delay => execPdelayExchange_keeps port delay s (.refl s)
  | .announceTimeout => execAnnounceTimeout_keeps s (.refl s)
  | .acceptRefusedStep sess => execAcceptRefusedStep_keeps sess s (.refl s)
  | .discardRefusedStep sess => execDiscardRefusedStep_keeps sess s (.refl s)
  | .ethLinkChange p up => execEthLinkChange_keeps p up s (.refl s)
  | .netConfigWrite sess index sub v => execNetConfigWrite_keeps sess index sub v s (.refl s)
  | .canFrameTransmit c outcome stamp tdc => execCanFrameTransmit_keeps c outcome stamp tdc s (.refl s)
  | .canFrameReceive c frame stamp => execCanFrameReceive_keeps c frame stamp s (.refl s)
  | .busOff c => execBusOff_keeps c s (.refl s)
  | .busOffRecovery c => execBusOffRecovery_keeps c s (.refl s)
  | .resumeObject sess c obj => execResumeObject_keeps sess c obj s (.refl s)
  | .leaveBusOff sess c => execLeaveBusOff_keeps sess c s (.refl s)
  | .txdTimeout c => execTxdTimeout_keeps c s (.refl s)
  | .protocolException c => execProtocolException_keeps c s (.refl s)
  | .frameSend sess rec => execFrameSend_keeps sess rec s (.refl s)
  | .frameCancel sess v => execFrameCancel_keeps sess v s (.refl s)
  | .referenceMessage sent stamp => execReferenceMessage_keeps sent stamp s (.refl s)
  | .refResume sess v => execRefResume_keeps sess v s (.refl s)
  | .addressClaim k outcome => execAddressClaim_keeps k outcome s (.refl s)
  | .addressReclaim k new => execAddressReclaim_keeps k new s (.refl s)
  | .canChannelConfigWrite sess c sub v => execCanChannelConfigWrite_keeps sess c sub v s (.refl s)
  | .sessionOpen tr source => execSessionOpen_keeps tr source s (.refl s)
  | .roleRequest sess v => execRoleRequest_keeps sess v s (.refl s)
  | .challenge sess random => execChallenge_keeps sess random s (.refl s)
  | .response sess r => execResponse_keeps sess r s (.refl s)
  | .roleLockoutEnd source => execRoleLockoutEnd_keeps source s (.refl s)
  | .sessionTimeout sess => execSessionTimeout_keeps sess s (.refl s)
  | .sessionClose sess v => execSessionClose_keeps sess v s (.refl s)
  | .datagram tr ip data => execDatagram_keeps tr ip data s (.refl s)
  | .transferTimeout sess => execTransferTimeout_keeps sess s (.refl s)
  | .store sess v => execStore_keeps sess v s (.refl s)
  | .storeComplete => execStoreComplete_keeps s (.refl s)
  | .restoreDefaults sess v => execRestoreDefaults_keeps sess v s (.refl s)
  | .persistentWrite layer key v okA okB okC => execPersistentWrite_keeps layer key v okA okB okC s (.refl s)
  | .layerBuild => execLayerBuild_keeps s (.refl s)
  | .persistSnapshot sess v => execPersistSnapshot_keeps sess v s (.refl s)
  | .confirmCommand sess v => execConfirmCommand_keeps sess v s (.refl s)
  | .eolFuse sess v => execEolFuse_keeps sess v s (.refl s)
  | .abortTransfer sess target => execAbortTransfer_keeps sess target s (.refl s)
  | .abortFunction sess f => execAbortFunction_keeps sess f s (.refl s)
  | .abortAllFunctions sess => execAbortAllFunctions_keeps sess s (.refl s)
  | .abortPassageReset sess => execAbortPassageReset_keeps sess s (.refl s)
  | .abortUpdate sess => execAbortUpdate_keeps sess s (.refl s)
  | .objectWrite sess index sub data => execObjectWrite_keeps sess index sub data s (.refl s)
  | .flowstoneRecord ev => execFlowstoneRecord_keeps ev s (.refl s)
  | .suppressionSummary => execSuppressionSummary_keeps s (.refl s)
  | .flush => execFlush_keeps s (.refl s)
  | .flushComplete => execFlushComplete_keeps s (.refl s)
  | .flushFailed error => execFlushFailed_keeps error s (.refl s)
  | .tornGroupDiscard count => execTornGroupDiscard_keeps count s (.refl s)
  | .readWindow sess => execReadWindow_keeps sess s (.refl s)
  | .clearHide sess => execClearHide_keeps sess s (.refl s)
  | .clearFot sess => execClearFot_keeps sess s (.refl s)
  | .clearCounters sess => execClearCounters_keeps sess s (.refl s)
  | .eraseRing sess => execEraseRing_keeps sess s (.refl s)
  | .fotLookup sess code => execFotLookup_keeps sess code s (.refl s)
  | .verticalBlanking x => execVerticalBlanking_keeps x s (.refl s)
  | .linePacket n pixels => execLinePacket_keeps n pixels s (.refl s)
  | .linkTraining locked => execLinkTraining_keeps locked s (.refl s)
  | .locknLow => execLocknLow_keeps s (.refl s)
  | .panelPowerUp => execPanelPowerUp_keeps s (.refl s)
  | .panelPowerDown => execPanelPowerDown_keeps s (.refl s)
  | .fastPowerDown => execFastPowerDown_keeps s (.refl s)
  | .vpnlFault => execVpnlFault_keeps s (.refl s)
  | .panelRetry => execPanelRetry_keeps s (.refl s)
  | .panelCommand sess v => execPanelCommand_keeps sess v s (.refl s)
  | .panelEnableWrite sess v => execPanelEnableWrite_keeps sess v s (.refl s)
  | .vcomFault set => execVcomFault_keeps set s (.refl s)
  | .vtSwapRequest => execVtSwapRequest_keeps s (.refl s)
  | .brownoutOpen mV => execBrownoutOpen_keeps mV s (.refl s)
  | .brownoutClose minMv duration => execBrownoutClose_keeps minMv duration s (.refl s)
  | .resetLevelHoldup mV => execResetLevelHoldup_keeps mV s (.refl s)
  | .resetLevelNoHoldup => execResetLevelNoHoldup_keeps s (.refl s)
  | .holdupArmed energy enough => execHoldupArmed_keeps energy enough s (.refl s)
  | .holdupRestartWaitEnd => execHoldupRestartWaitEnd_keeps s (.refl s)
  | .batteryOvervoltage above => execBatteryOvervoltage_keeps above s (.refl s)
  | .systemVoltageDetect meanMv => execSystemVoltageDetect_keeps meanMv s (.refl s)
  | .belayPowerLoss => execBelayPowerLoss_keeps s (.refl s)
  | .thermalThrottle on => execThermalThrottle_keeps on s (.refl s)
  | .thermalCritical => execThermalCritical_keeps s (.refl s)
  | .updateOffer src rec => execUpdateOffer_keeps src rec s (.refl s)
  | .updateBlock src offset data => execUpdateBlock_keeps src offset data s (.refl s)
  | .fleetUpdateMessage stamp entries => execFleetUpdateMessage_keeps stamp entries s (.refl s)
  | .updateCommit src => execUpdateCommit_keeps src s (.refl s)
  | .updateAbort src => execUpdateAbort_keeps src s (.refl s)
  | .withdrawStaged src region => execWithdrawStaged_keeps src region s (.refl s)
  | .confirmRegion src region => execConfirmRegion_keeps src region s (.refl s)
  | .fallBack src region => execFallBack_keeps src region s (.refl s)
  | .leaveLadder sess => execLeaveLadder_keeps sess s (.refl s)
  | .galHandover accepted converted => execGalHandover_keeps accepted converted s (.refl s)
  | .mdpLiveApply => execMdpLiveApply_keeps s (.refl s)
  | .lanHandover => execLanHandover_keeps s (.refl s)
  | .imageStaged => execImageStaged_keeps s (.refl s)
  | .stagedCopy region verified selfTest converted => execStagedCopy_keeps region verified selfTest converted s (.refl s)
  | .orphanHoldExpiry => execOrphanHoldExpiry_keeps s (.refl s)
  | .probationEnd region => execProbationEnd_keeps region s (.refl s)
  | .engineRestartFallBack region => execEngineRestartFallBack_keeps region s (.refl s)
  | .ladderImageWrite sess hdr sig body => execLadderImageWrite_keeps sess hdr sig body s (.refl s)
  | .ignKeysvcFall ign keysvc => execIgnKeysvcFall_keeps ign keysvc s (.refl s)
  | .announceReceive port better accuracy => execAnnounceReceive_keeps port better accuracy s (.refl s)
  | .nextParcelNorWrite => execNextParcelNorWrite_keeps s (.refl s)
  | .usbVbusChange present => execUsbVbusChange_keeps present s (.refl s)
  | .sessionLinkDownExpiry p => execSessionLinkDownExpiry_keeps p s (.refl s)

/-- A step keeps the relation to the state without the command taken. -/
theorem step_keeps {s : State} {c : Instr} {rest : List Instr} (h : s.pending = c :: rest) : KeepsO .top { s with pending := rest } (step s) := by
  unfold step
  rw [h]
  exact exec_keeps _ c

end Sys2Proof.Machine
end

