-- ==== Sys2Proof/Laws/Parts.lean ====
section
/-! SUPPORT. The frame relation `Only` (a preorder, and monotone), what a Flowstone record touches, what an admitted write of a session
answers, and single places of a list or a word after an update. -/

namespace Sys2Proof.Machine

set_option Elab.async false

/-! ## The frame -/

theorem Only.refl (ps) (s : State) : Only ps s s := fun p => .inr (by cases p <;> rfl)

theorem Only.trans {ps s t u} (h : Only ps s t) (k : Only ps t u) : Only ps s u := fun p =>
  (h p).elim .inl fun h => (k p).elim .inl fun k => .inr (by cases p <;> exact Eq.trans k h)

theorem Only.mono {ps qs s t} (h : Only ps s t) (k : ∀ p, p ∈ ps → p ∈ qs) : Only qs s t := fun p => (h p).elim (fun m => .inl (k p m)) .inr

theorem Only.get {ps s t} (h : Only ps s t) (p : Part) (k : p ∉ ps) : p.same s t := (h p).resolve_left k

theorem Only.foldl {α} (ps) (f : State → α → State) (hf : ∀ s a, Only ps s (f s a)) (l : List α) : ∀ s, Only ps s (l.foldl f s) := by
  induction l with
  | nil => exact fun s => Only.refl _ _
  | cons a l ih => exact fun s => (hf s a).trans (ih _)

theorem Runs.intro {c s ps P t} (h : exec c s = .next t) (k : Only ps s t ∧ P t) : Runs c s ps P := ⟨t, h, k.1, k.2⟩

theorem Written.intro {c s n ps P t} (h : exec c s = .next (t.ack n)) (k : Only ps (s.touch n) t ∧ P t) : Written c s n ps P := ⟨t, h, k.1, k.2⟩

/-! ## Records -/

theorem record_only (s : State) (e : FlowEv) : Only [.flow, .upd] s (s.record e) := by
  intro p
  unfold State.record State.rollSecond
  cases p <;> first | exact .inl (by decide) | (right; show _ = _; dsimp only; split; rfl; split <;> split <;> rfl)

theorem records_only (l : List FlowEv) (s : State) : Only [.flow, .upd] s (s.records l) := Only.foldl _ _ record_only l s

/-- What a record leaves in Flowstone: nothing in Dormant and Park, else one record written, in a new second if one has begun. -/
theorem record_flow (e : FlowEv) (u : State) : (u.record e).flow = if u.pw.dev = .dormant ∨ u.pw.dev = .park then u.flow else
      (if u.flow.second = u.tm.mono / 1000000000 then u.flow else u.flow.newSecond (u.tm.mono / 1000000000) (u.nat 0x5800 7) u.tm.now u.tm.source).write
        ⟨0, u.tm.now, u.tm.source, e.code, e.arg, e.engine, e.station, e.parcel, e.payload, e.more⟩ := by
  unfold State.record State.rollSecond
  split; rfl
  dsimp only
  split <;> split <;> rfl

theorem Recorded.self (s : State) (e) : Recorded e s (s.record e) := ⟨s.tm.source, rfl⟩

/-- A record made in a state that agrees with s in what a record reads. -/
theorem Recorded.base {s s' t : State} {e} (h : Recorded e s' t) (h1 : s'.flow = s.flow) (h2 : s'.pw = s.pw) (h3 : s'.dict = s.dict)
    (h4 : s'.tm.now = s.tm.now) (h5 : s'.tm.mono = s.tm.mono) : Recorded e s t := by
  obtain ⟨src, h⟩ := h
  refine ⟨src, ?_⟩
  rw [h, record_flow, record_flow]
  have hn : ∀ a b, (s'.updTm fun x => { x with source := src }).nat a b = (s.updTm fun x => { x with source := src }).nat a b :=
    fun a b => by simp [State.nat, State.int, State.val, State.updTm, h3]
  rw [hn]
  show (if s'.pw.dev = _ ∨ s'.pw.dev = _ then s'.flow else
    (if s'.flow.second = s'.tm.mono / 1000000000 then s'.flow else s'.flow.newSecond (s'.tm.mono / 1000000000) _ s'.tm.now _).write
      ⟨0, s'.tm.now, _, _, _, _, _, _, _, _⟩) = _
  rw [h1, h2, h4, h5]; rfl

theorem Recorded.of_flow {s t t' : State} {e} (h : Recorded e s t) (h1 : t'.flow = t.flow) : Recorded e s t' :=
  h.elim fun src h => ⟨src, h1.trans h⟩

/-! ## Requests of a session -/

/-- An admitted write of a chapter that uses the common checks is carried out by the chapter's write. -/
theorem session_ok {s : State} {n i sub : Nat} {v : Val} (h : s.admits n i sub v) (w : State → Except Nat State) :
    s.asSession n i (fun c s => checked c i sub v s w) = .next ((s.touch n).answer n (w (s.touch n))) := by
  obtain ⟨⟨h1, h2, h3⟩, h4⟩ := h
  simp [State.asSession, withUnit, checked, h1, h2, h3, h4]

/-- A request of a session that is served is answered with what the chapter makes of it. -/
theorem serve_ok {s : State} {n i : Nat} {w} (h : s.serves n i) :
    s.asSession n i w = .next ((s.touch n).answer n (w (s.ctxOf n) (s.touch n))) := by
  obtain ⟨h1, h2, h3⟩ := h
  simp [State.asSession, withUnit, h1, h2, h3]

/-! ## Places of lists, bits of words -/

theorem getD_lt {α} {l : List α} {n : Nat} {d : α} {p : α → Prop} (h : p (l.getD n d)) (hd : ¬ p d) : n < l.length := by
  rcases Nat.lt_or_ge n l.length with h' | h'
  · exact h'
  · simp [List.getD, List.getElem?_eq_none h'] at h; exact absurd h hd

theorem getD_upd {α} (l : List α) (p : Nat) (f : α → α) (d : α) (h : p < l.length) : (updAt l p f).getD p d = f (l.getD p d) := by
  simp [updAt, List.getD, h]

theorem getD_upd_ne {α} (l : List α) (p q : Nat) (f : α → α) (d : α) (h : q ≠ p) : (updAt l p f).getD q d = l.getD q d := by
  simp [List.getD, updAt, List.getElem?_modify, Ne.symm h]

theorem sess_upd {s : State} {n : Nat} {f : Sess → Sess} (h : (s.sessOf n).opened = true) : (s.updSess n f).sessOf n = f (s.sessOf n) := by
  have hl : n < s.serv.sess.length := getD_lt (p := fun x : Sess => x.opened = true) h (by decide)
  simp [State.sessOf, State.updSess, State.updServ, List.getD, hl]

/-- What a request leaves of its session, but for the time of its last request. -/
theorem touch_keep {α} (s : State) (n : Nat) (f : Sess → α) (hf : ∀ x t, f { x with lastReq := t } = f x) :
    f ((s.touch n).sessOf n) = f (s.sessOf n) := by
  unfold State.touch State.updSess State.updServ State.sessOf
  simp only [List.getD, List.getElem?_modify, if_true]
  cases s.serv.sess[n]? with
  | none => rfl
  | some x => exact hf x _

theorem testBit_add_new : ∀ (i w j : Nat), w.testBit i = false → (w + 2 ^ i).testBit j = if j = i then true else w.testBit j := by
  intro i
  induction i with
  | zero =>
    intro w j h
    simp at h
    cases j with
    | zero => simp; omega
    | succ j => simp [Nat.testBit_add_one]; rw [show (w + 1) / 2 = w / 2 by omega]
  | succ i ih =>
    intro w j h
    rw [Nat.testBit_add_one] at h
    have e : (w + 2 ^ (i + 1)) / 2 = w / 2 + 2 ^ i := by rw [Nat.pow_succ]; omega
    cases j with
    | zero => simp [Nat.pow_succ]
    | succ j => simp only [Nat.testBit_add_one, e, ih _ _ h]; simp

theorem testBit_sub_old : ∀ (i w j : Nat), w.testBit i = true → (w - 2 ^ i).testBit j = if j = i then false else w.testBit j := by
  intro i
  induction i with
  | zero =>
    intro w j h
    simp at h
    cases j with
    | zero => simp; omega
    | succ j => simp [Nat.testBit_add_one]; rw [show (w - 1) / 2 = w / 2 by omega]
  | succ i ih =>
    intro w j h
    rw [Nat.testBit_add_one] at h
    have hle : 2 ^ i ≤ w / 2 := Nat.ge_two_pow_of_testBit h
    have e : (w - 2 ^ (i + 1)) / 2 = w / 2 - 2 ^ i := by rw [Nat.pow_succ]; omega
    cases j with
    | zero =>
      have : 2 ^ (i + 1) ≤ w := by rw [Nat.pow_succ]; omega
      simp [Nat.pow_succ]; rw [Nat.pow_succ] at this; omega
    | succ j => simp only [Nat.testBit_add_one, e, ih _ _ h]; simp

/-- The bits of a word after one bit is set or cleared. -/
theorem setBit_testBit (w i j : Nat) (b : Bool) : (setBit w i b).testBit j = if j = i then b else w.testBit j := by
  unfold setBit
  split
  · next h =>
    split
    · next e => rw [e, h]
    · rfl
  · next h =>
    cases b <;> simp at h <;> simp [testBit_add_new, testBit_sub_old, h]

end Sys2Proof.Machine
end

