-- ==== Sys2Proof/Laws/State.lean ====
section
/-! SUPPORT. What each part of the state reads after an update of one part, and after a write to the dictionary: the part updated, or the
part as before. -/

namespace Sys2Proof.Machine

set_option Elab.async false
section
variable (s : State) (f : Tm → Tm)
@[simp] theorem State.updTm_tm : (s.updTm f).tm = f s.tm := rfl
@[simp] theorem State.updTm_pw : (s.updTm f).pw = s.pw := rfl
@[simp] theorem State.updTm_belay : (s.updTm f).belay = s.belay := rfl
@[simp] theorem State.updTm_flow : (s.updTm f).flow = s.flow := rfl
@[simp] theorem State.updTm_serv : (s.updTm f).serv = s.serv := rfl
@[simp] theorem State.updTm_per : (s.updTm f).per = s.per := rfl
@[simp] theorem State.updTm_net : (s.updTm f).net = s.net := rfl
@[simp] theorem State.updTm_sky : (s.updTm f).sky = s.sky := rfl
@[simp] theorem State.updTm_skyio : (s.updTm f).skyio = s.skyio := rfl
@[simp] theorem State.updTm_sens : (s.updTm f).sens = s.sens := rfl
@[simp] theorem State.updTm_pas : (s.updTm f).pas = s.pas := rfl
@[simp] theorem State.updTm_pctl : (s.updTm f).pctl = s.pctl := rfl
@[simp] theorem State.updTm_lead : (s.updTm f).lead = s.lead := rfl
@[simp] theorem State.updTm_dict : (s.updTm f).dict = s.dict := rfl
@[simp] theorem State.updTm_steer : (s.updTm f).steer = s.steer := rfl
@[simp] theorem State.updTm_opt : (s.updTm f).opt = s.opt := rfl
@[simp] theorem State.updTm_yield : (s.updTm f).yield = s.yield := rfl
@[simp] theorem State.updTm_fleet : (s.updTm f).fleet = s.fleet := rfl
@[simp] theorem State.updTm_loop : (s.updTm f).loop = s.loop := rfl
@[simp] theorem State.updTm_trace : (s.updTm f).trace = s.trace := rfl
@[simp] theorem State.updTm_fio : (s.updTm f).fio = s.fio := rfl
@[simp] theorem State.updTm_valve : (s.updTm f).valve = s.valve := rfl
@[simp] theorem State.updTm_can : (s.updTm f).can = s.can := rfl
@[simp] theorem State.updTm_lan : (s.updTm f).lan = s.lan := rfl
@[simp] theorem State.updTm_upd : (s.updTm f).upd = s.upd := rfl
@[simp] theorem State.updTm_free : (s.updTm f).free = s.free := rfl
@[simp] theorem State.updTm_pending : (s.updTm f).pending = s.pending := rfl
end

section
variable (s : State) (f : Pw → Pw)
@[simp] theorem State.updPw_tm : (s.updPw f).tm = s.tm := rfl
@[simp] theorem State.updPw_pw : (s.updPw f).pw = f s.pw := rfl
@[simp] theorem State.updPw_belay : (s.updPw f).belay = s.belay := rfl
@[simp] theorem State.updPw_flow : (s.updPw f).flow = s.flow := rfl
@[simp] theorem State.updPw_serv : (s.updPw f).serv = s.serv := rfl
@[simp] theorem State.updPw_per : (s.updPw f).per = s.per := rfl
@[simp] theorem State.updPw_net : (s.updPw f).net = s.net := rfl
@[simp] theorem State.updPw_sky : (s.updPw f).sky = s.sky := rfl
@[simp] theorem State.updPw_skyio : (s.updPw f).skyio = s.skyio := rfl
@[simp] theorem State.updPw_sens : (s.updPw f).sens = s.sens := rfl
@[simp] theorem State.updPw_pas : (s.updPw f).pas = s.pas := rfl
@[simp] theorem State.updPw_pctl : (s.updPw f).pctl = s.pctl := rfl
@[simp] theorem State.updPw_lead : (s.updPw f).lead = s.lead := rfl
@[simp] theorem State.updPw_dict : (s.updPw f).dict = s.dict := rfl
@[simp] theorem State.updPw_steer : (s.updPw f).steer = s.steer := rfl
@[simp] theorem State.updPw_opt : (s.updPw f).opt = s.opt := rfl
@[simp] theorem State.updPw_yield : (s.updPw f).yield = s.yield := rfl
@[simp] theorem State.updPw_fleet : (s.updPw f).fleet = s.fleet := rfl
@[simp] theorem State.updPw_loop : (s.updPw f).loop = s.loop := rfl
@[simp] theorem State.updPw_trace : (s.updPw f).trace = s.trace := rfl
@[simp] theorem State.updPw_fio : (s.updPw f).fio = s.fio := rfl
@[simp] theorem State.updPw_valve : (s.updPw f).valve = s.valve := rfl
@[simp] theorem State.updPw_can : (s.updPw f).can = s.can := rfl
@[simp] theorem State.updPw_lan : (s.updPw f).lan = s.lan := rfl
@[simp] theorem State.updPw_upd : (s.updPw f).upd = s.upd := rfl
@[simp] theorem State.updPw_free : (s.updPw f).free = s.free := rfl
@[simp] theorem State.updPw_pending : (s.updPw f).pending = s.pending := rfl
end

section
variable (s : State) (f : Belay → Belay)
@[simp] theorem State.updBelay_tm : (s.updBelay f).tm = s.tm := rfl
@[simp] theorem State.updBelay_pw : (s.updBelay f).pw = s.pw := rfl
@[simp] theorem State.updBelay_belay : (s.updBelay f).belay = f s.belay := rfl
@[simp] theorem State.updBelay_flow : (s.updBelay f).flow = s.flow := rfl
@[simp] theorem State.updBelay_serv : (s.updBelay f).serv = s.serv := rfl
@[simp] theorem State.updBelay_per : (s.updBelay f).per = s.per := rfl
@[simp] theorem State.updBelay_net : (s.updBelay f).net = s.net := rfl
@[simp] theorem State.updBelay_sky : (s.updBelay f).sky = s.sky := rfl
@[simp] theorem State.updBelay_skyio : (s.updBelay f).skyio = s.skyio := rfl
@[simp] theorem State.updBelay_sens : (s.updBelay f).sens = s.sens := rfl
@[simp] theorem State.updBelay_pas : (s.updBelay f).pas = s.pas := rfl
@[simp] theorem State.updBelay_pctl : (s.updBelay f).pctl = s.pctl := rfl
@[simp] theorem State.updBelay_lead : (s.updBelay f).lead = s.lead := rfl
@[simp] theorem State.updBelay_dict : (s.updBelay f).dict = s.dict := rfl
@[simp] theorem State.updBelay_steer : (s.updBelay f).steer = s.steer := rfl
@[simp] theorem State.updBelay_opt : (s.updBelay f).opt = s.opt := rfl
@[simp] theorem State.updBelay_yield : (s.updBelay f).yield = s.yield := rfl
@[simp] theorem State.updBelay_fleet : (s.updBelay f).fleet = s.fleet := rfl
@[simp] theorem State.updBelay_loop : (s.updBelay f).loop = s.loop := rfl
@[simp] theorem State.updBelay_trace : (s.updBelay f).trace = s.trace := rfl
@[simp] theorem State.updBelay_fio : (s.updBelay f).fio = s.fio := rfl
@[simp] theorem State.updBelay_valve : (s.updBelay f).valve = s.valve := rfl
@[simp] theorem State.updBelay_can : (s.updBelay f).can = s.can := rfl
@[simp] theorem State.updBelay_lan : (s.updBelay f).lan = s.lan := rfl
@[simp] theorem State.updBelay_upd : (s.updBelay f).upd = s.upd := rfl
@[simp] theorem State.updBelay_free : (s.updBelay f).free = s.free := rfl
@[simp] theorem State.updBelay_pending : (s.updBelay f).pending = s.pending := rfl
end

section
variable (s : State) (f : Flow → Flow)
@[simp] theorem State.updFlow_tm : (s.updFlow f).tm = s.tm := rfl
@[simp] theorem State.updFlow_pw : (s.updFlow f).pw = s.pw := rfl
@[simp] theorem State.updFlow_belay : (s.updFlow f).belay = s.belay := rfl
@[simp] theorem State.updFlow_flow : (s.updFlow f).flow = f s.flow := rfl
@[simp] theorem State.updFlow_serv : (s.updFlow f).serv = s.serv := rfl
@[simp] theorem State.updFlow_per : (s.updFlow f).per = s.per := rfl
@[simp] theorem State.updFlow_net : (s.updFlow f).net = s.net := rfl
@[simp] theorem State.updFlow_sky : (s.updFlow f).sky = s.sky := rfl
@[simp] theorem State.updFlow_skyio : (s.updFlow f).skyio = s.skyio := rfl
@[simp] theorem State.updFlow_sens : (s.updFlow f).sens = s.sens := rfl
@[simp] theorem State.updFlow_pas : (s.updFlow f).pas = s.pas := rfl
@[simp] theorem State.updFlow_pctl : (s.updFlow f).pctl = s.pctl := rfl
@[simp] theorem State.updFlow_lead : (s.updFlow f).lead = s.lead := rfl
@[simp] theorem State.updFlow_dict : (s.updFlow f).dict = s.dict := rfl
@[simp] theorem State.updFlow_steer : (s.updFlow f).steer = s.steer := rfl
@[simp] theorem State.updFlow_opt : (s.updFlow f).opt = s.opt := rfl
@[simp] theorem State.updFlow_yield : (s.updFlow f).yield = s.yield := rfl
@[simp] theorem State.updFlow_fleet : (s.updFlow f).fleet = s.fleet := rfl
@[simp] theorem State.updFlow_loop : (s.updFlow f).loop = s.loop := rfl
@[simp] theorem State.updFlow_trace : (s.updFlow f).trace = s.trace := rfl
@[simp] theorem State.updFlow_fio : (s.updFlow f).fio = s.fio := rfl
@[simp] theorem State.updFlow_valve : (s.updFlow f).valve = s.valve := rfl
@[simp] theorem State.updFlow_can : (s.updFlow f).can = s.can := rfl
@[simp] theorem State.updFlow_lan : (s.updFlow f).lan = s.lan := rfl
@[simp] theorem State.updFlow_upd : (s.updFlow f).upd = s.upd := rfl
@[simp] theorem State.updFlow_free : (s.updFlow f).free = s.free := rfl
@[simp] theorem State.updFlow_pending : (s.updFlow f).pending = s.pending := rfl
end

section
variable (s : State) (f : Serv → Serv)
@[simp] theorem State.updServ_tm : (s.updServ f).tm = s.tm := rfl
@[simp] theorem State.updServ_pw : (s.updServ f).pw = s.pw := rfl
@[simp] theorem State.updServ_belay : (s.updServ f).belay = s.belay := rfl
@[simp] theorem State.updServ_flow : (s.updServ f).flow = s.flow := rfl
@[simp] theorem State.updServ_serv : (s.updServ f).serv = f s.serv := rfl
@[simp] theorem State.updServ_per : (s.updServ f).per = s.per := rfl
@[simp] theorem State.updServ_net : (s.updServ f).net = s.net := rfl
@[simp] theorem State.updServ_sky : (s.updServ f).sky = s.sky := rfl
@[simp] theorem State.updServ_skyio : (s.updServ f).skyio = s.skyio := rfl
@[simp] theorem State.updServ_sens : (s.updServ f).sens = s.sens := rfl
@[simp] theorem State.updServ_pas : (s.updServ f).pas = s.pas := rfl
@[simp] theorem State.updServ_pctl : (s.updServ f).pctl = s.pctl := rfl
@[simp] theorem State.updServ_lead : (s.updServ f).lead = s.lead := rfl
@[simp] theorem State.updServ_dict : (s.updServ f).dict = s.dict := rfl
@[simp] theorem State.updServ_steer : (s.updServ f).steer = s.steer := rfl
@[simp] theorem State.updServ_opt : (s.updServ f).opt = s.opt := rfl
@[simp] theorem State.updServ_yield : (s.updServ f).yield = s.yield := rfl
@[simp] theorem State.updServ_fleet : (s.updServ f).fleet = s.fleet := rfl
@[simp] theorem State.updServ_loop : (s.updServ f).loop = s.loop := rfl
@[simp] theorem State.updServ_trace : (s.updServ f).trace = s.trace := rfl
@[simp] theorem State.updServ_fio : (s.updServ f).fio = s.fio := rfl
@[simp] theorem State.updServ_valve : (s.updServ f).valve = s.valve := rfl
@[simp] theorem State.updServ_can : (s.updServ f).can = s.can := rfl
@[simp] theorem State.updServ_lan : (s.updServ f).lan = s.lan := rfl
@[simp] theorem State.updServ_upd : (s.updServ f).upd = s.upd := rfl
@[simp] theorem State.updServ_free : (s.updServ f).free = s.free := rfl
@[simp] theorem State.updServ_pending : (s.updServ f).pending = s.pending := rfl
end

section
variable (s : State) (f : Persist → Persist)
@[simp] theorem State.updPer_tm : (s.updPer f).tm = s.tm := rfl
@[simp] theorem State.updPer_pw : (s.updPer f).pw = s.pw := rfl
@[simp] theorem State.updPer_belay : (s.updPer f).belay = s.belay := rfl
@[simp] theorem State.updPer_flow : (s.updPer f).flow = s.flow := rfl
@[simp] theorem State.updPer_serv : (s.updPer f).serv = s.serv := rfl
@[simp] theorem State.updPer_per : (s.updPer f).per = f s.per := rfl
@[simp] theorem State.updPer_net : (s.updPer f).net = s.net := rfl
@[simp] theorem State.updPer_sky : (s.updPer f).sky = s.sky := rfl
@[simp] theorem State.updPer_skyio : (s.updPer f).skyio = s.skyio := rfl
@[simp] theorem State.updPer_sens : (s.updPer f).sens = s.sens := rfl
@[simp] theorem State.updPer_pas : (s.updPer f).pas = s.pas := rfl
@[simp] theorem State.updPer_pctl : (s.updPer f).pctl = s.pctl := rfl
@[simp] theorem State.updPer_lead : (s.updPer f).lead = s.lead := rfl
@[simp] theorem State.updPer_dict : (s.updPer f).dict = s.dict := rfl
@[simp] theorem State.updPer_steer : (s.updPer f).steer = s.steer := rfl
@[simp] theorem State.updPer_opt : (s.updPer f).opt = s.opt := rfl
@[simp] theorem State.updPer_yield : (s.updPer f).yield = s.yield := rfl
@[simp] theorem State.updPer_fleet : (s.updPer f).fleet = s.fleet := rfl
@[simp] theorem State.updPer_loop : (s.updPer f).loop = s.loop := rfl
@[simp] theorem State.updPer_trace : (s.updPer f).trace = s.trace := rfl
@[simp] theorem State.updPer_fio : (s.updPer f).fio = s.fio := rfl
@[simp] theorem State.updPer_valve : (s.updPer f).valve = s.valve := rfl
@[simp] theorem State.updPer_can : (s.updPer f).can = s.can := rfl
@[simp] theorem State.updPer_lan : (s.updPer f).lan = s.lan := rfl
@[simp] theorem State.updPer_upd : (s.updPer f).upd = s.upd := rfl
@[simp] theorem State.updPer_free : (s.updPer f).free = s.free := rfl
@[simp] theorem State.updPer_pending : (s.updPer f).pending = s.pending := rfl
end

section
variable (s : State) (f : Net → Net)
@[simp] theorem State.updNet_tm : (s.updNet f).tm = s.tm := rfl
@[simp] theorem State.updNet_pw : (s.updNet f).pw = s.pw := rfl
@[simp] theorem State.updNet_belay : (s.updNet f).belay = s.belay := rfl
@[simp] theorem State.updNet_flow : (s.updNet f).flow = s.flow := rfl
@[simp] theorem State.updNet_serv : (s.updNet f).serv = s.serv := rfl
@[simp] theorem State.updNet_per : (s.updNet f).per = s.per := rfl
@[simp] theorem State.updNet_net : (s.updNet f).net = f s.net := rfl
@[simp] theorem State.updNet_sky : (s.updNet f).sky = s.sky := rfl
@[simp] theorem State.updNet_skyio : (s.updNet f).skyio = s.skyio := rfl
@[simp] theorem State.updNet_sens : (s.updNet f).sens = s.sens := rfl
@[simp] theorem State.updNet_pas : (s.updNet f).pas = s.pas := rfl
@[simp] theorem State.updNet_pctl : (s.updNet f).pctl = s.pctl := rfl
@[simp] theorem State.updNet_lead : (s.updNet f).lead = s.lead := rfl
@[simp] theorem State.updNet_dict : (s.updNet f).dict = s.dict := rfl
@[simp] theorem State.updNet_steer : (s.updNet f).steer = s.steer := rfl
@[simp] theorem State.updNet_opt : (s.updNet f).opt = s.opt := rfl
@[simp] theorem State.updNet_yield : (s.updNet f).yield = s.yield := rfl
@[simp] theorem State.updNet_fleet : (s.updNet f).fleet = s.fleet := rfl
@[simp] theorem State.updNet_loop : (s.updNet f).loop = s.loop := rfl
@[simp] theorem State.updNet_trace : (s.updNet f).trace = s.trace := rfl
@[simp] theorem State.updNet_fio : (s.updNet f).fio = s.fio := rfl
@[simp] theorem State.updNet_valve : (s.updNet f).valve = s.valve := rfl
@[simp] theorem State.updNet_can : (s.updNet f).can = s.can := rfl
@[simp] theorem State.updNet_lan : (s.updNet f).lan = s.lan := rfl
@[simp] theorem State.updNet_upd : (s.updNet f).upd = s.upd := rfl
@[simp] theorem State.updNet_free : (s.updNet f).free = s.free := rfl
@[simp] theorem State.updNet_pending : (s.updNet f).pending = s.pending := rfl
end

section
variable (s : State) (f : Sky → Sky)
@[simp] theorem State.updSky_tm : (s.updSky f).tm = s.tm := rfl
@[simp] theorem State.updSky_pw : (s.updSky f).pw = s.pw := rfl
@[simp] theorem State.updSky_belay : (s.updSky f).belay = s.belay := rfl
@[simp] theorem State.updSky_flow : (s.updSky f).flow = s.flow := rfl
@[simp] theorem State.updSky_serv : (s.updSky f).serv = s.serv := rfl
@[simp] theorem State.updSky_per : (s.updSky f).per = s.per := rfl
@[simp] theorem State.updSky_net : (s.updSky f).net = s.net := rfl
@[simp] theorem State.updSky_sky : (s.updSky f).sky = f s.sky := rfl
@[simp] theorem State.updSky_skyio : (s.updSky f).skyio = s.skyio := rfl
@[simp] theorem State.updSky_sens : (s.updSky f).sens = s.sens := rfl
@[simp] theorem State.updSky_pas : (s.updSky f).pas = s.pas := rfl
@[simp] theorem State.updSky_pctl : (s.updSky f).pctl = s.pctl := rfl
@[simp] theorem State.updSky_lead : (s.updSky f).lead = s.lead := rfl
@[simp] theorem State.updSky_dict : (s.updSky f).dict = s.dict := rfl
@[simp] theorem State.updSky_steer : (s.updSky f).steer = s.steer := rfl
@[simp] theorem State.updSky_opt : (s.updSky f).opt = s.opt := rfl
@[simp] theorem State.updSky_yield : (s.updSky f).yield = s.yield := rfl
@[simp] theorem State.updSky_fleet : (s.updSky f).fleet = s.fleet := rfl
@[simp] theorem State.updSky_loop : (s.updSky f).loop = s.loop := rfl
@[simp] theorem State.updSky_trace : (s.updSky f).trace = s.trace := rfl
@[simp] theorem State.updSky_fio : (s.updSky f).fio = s.fio := rfl
@[simp] theorem State.updSky_valve : (s.updSky f).valve = s.valve := rfl
@[simp] theorem State.updSky_can : (s.updSky f).can = s.can := rfl
@[simp] theorem State.updSky_lan : (s.updSky f).lan = s.lan := rfl
@[simp] theorem State.updSky_upd : (s.updSky f).upd = s.upd := rfl
@[simp] theorem State.updSky_free : (s.updSky f).free = s.free := rfl
@[simp] theorem State.updSky_pending : (s.updSky f).pending = s.pending := rfl
end

section
variable (s : State) (f : SkyIo → SkyIo)
@[simp] theorem State.updSkyio_tm : (s.updSkyio f).tm = s.tm := rfl
@[simp] theorem State.updSkyio_pw : (s.updSkyio f).pw = s.pw := rfl
@[simp] theorem State.updSkyio_belay : (s.updSkyio f).belay = s.belay := rfl
@[simp] theorem State.updSkyio_flow : (s.updSkyio f).flow = s.flow := rfl
@[simp] theorem State.updSkyio_serv : (s.updSkyio f).serv = s.serv := rfl
@[simp] theorem State.updSkyio_per : (s.updSkyio f).per = s.per := rfl
@[simp] theorem State.updSkyio_net : (s.updSkyio f).net = s.net := rfl
@[simp] theorem State.updSkyio_sky : (s.updSkyio f).sky = s.sky := rfl
@[simp] theorem State.updSkyio_skyio : (s.updSkyio f).skyio = f s.skyio := rfl
@[simp] theorem State.updSkyio_sens : (s.updSkyio f).sens = s.sens := rfl
@[simp] theorem State.updSkyio_pas : (s.updSkyio f).pas = s.pas := rfl
@[simp] theorem State.updSkyio_pctl : (s.updSkyio f).pctl = s.pctl := rfl
@[simp] theorem State.updSkyio_lead : (s.updSkyio f).lead = s.lead := rfl
@[simp] theorem State.updSkyio_dict : (s.updSkyio f).dict = s.dict := rfl
@[simp] theorem State.updSkyio_steer : (s.updSkyio f).steer = s.steer := rfl
@[simp] theorem State.updSkyio_opt : (s.updSkyio f).opt = s.opt := rfl
@[simp] theorem State.updSkyio_yield : (s.updSkyio f).yield = s.yield := rfl
@[simp] theorem State.updSkyio_fleet : (s.updSkyio f).fleet = s.fleet := rfl
@[simp] theorem State.updSkyio_loop : (s.updSkyio f).loop = s.loop := rfl
@[simp] theorem State.updSkyio_trace : (s.updSkyio f).trace = s.trace := rfl
@[simp] theorem State.updSkyio_fio : (s.updSkyio f).fio = s.fio := rfl
@[simp] theorem State.updSkyio_valve : (s.updSkyio f).valve = s.valve := rfl
@[simp] theorem State.updSkyio_can : (s.updSkyio f).can = s.can := rfl
@[simp] theorem State.updSkyio_lan : (s.updSkyio f).lan = s.lan := rfl
@[simp] theorem State.updSkyio_upd : (s.updSkyio f).upd = s.upd := rfl
@[simp] theorem State.updSkyio_free : (s.updSkyio f).free = s.free := rfl
@[simp] theorem State.updSkyio_pending : (s.updSkyio f).pending = s.pending := rfl
end

section
variable (s : State) (f : Sense → Sense)
@[simp] theorem State.updSens_tm : (s.updSens f).tm = s.tm := rfl
@[simp] theorem State.updSens_pw : (s.updSens f).pw = s.pw := rfl
@[simp] theorem State.updSens_belay : (s.updSens f).belay = s.belay := rfl
@[simp] theorem State.updSens_flow : (s.updSens f).flow = s.flow := rfl
@[simp] theorem State.updSens_serv : (s.updSens f).serv = s.serv := rfl
@[simp] theorem State.updSens_per : (s.updSens f).per = s.per := rfl
@[simp] theorem State.updSens_net : (s.updSens f).net = s.net := rfl
@[simp] theorem State.updSens_sky : (s.updSens f).sky = s.sky := rfl
@[simp] theorem State.updSens_skyio : (s.updSens f).skyio = s.skyio := rfl
@[simp] theorem State.updSens_sens : (s.updSens f).sens = f s.sens := rfl
@[simp] theorem State.updSens_pas : (s.updSens f).pas = s.pas := rfl
@[simp] theorem State.updSens_pctl : (s.updSens f).pctl = s.pctl := rfl
@[simp] theorem State.updSens_lead : (s.updSens f).lead = s.lead := rfl
@[simp] theorem State.updSens_dict : (s.updSens f).dict = s.dict := rfl
@[simp] theorem State.updSens_steer : (s.updSens f).steer = s.steer := rfl
@[simp] theorem State.updSens_opt : (s.updSens f).opt = s.opt := rfl
@[simp] theorem State.updSens_yield : (s.updSens f).yield = s.yield := rfl
@[simp] theorem State.updSens_fleet : (s.updSens f).fleet = s.fleet := rfl
@[simp] theorem State.updSens_loop : (s.updSens f).loop = s.loop := rfl
@[simp] theorem State.updSens_trace : (s.updSens f).trace = s.trace := rfl
@[simp] theorem State.updSens_fio : (s.updSens f).fio = s.fio := rfl
@[simp] theorem State.updSens_valve : (s.updSens f).valve = s.valve := rfl
@[simp] theorem State.updSens_can : (s.updSens f).can = s.can := rfl
@[simp] theorem State.updSens_lan : (s.updSens f).lan = s.lan := rfl
@[simp] theorem State.updSens_upd : (s.updSens f).upd = s.upd := rfl
@[simp] theorem State.updSens_free : (s.updSens f).free = s.free := rfl
@[simp] theorem State.updSens_pending : (s.updSens f).pending = s.pending := rfl
end

section
variable (s : State) (f : Pas → Pas)
@[simp] theorem State.updPas_tm : (s.updPas f).tm = s.tm := rfl
@[simp] theorem State.updPas_pw : (s.updPas f).pw = s.pw := rfl
@[simp] theorem State.updPas_belay : (s.updPas f).belay = s.belay := rfl
@[simp] theorem State.updPas_flow : (s.updPas f).flow = s.flow := rfl
@[simp] theorem State.updPas_serv : (s.updPas f).serv = s.serv := rfl
@[simp] theorem State.updPas_per : (s.updPas f).per = s.per := rfl
@[simp] theorem State.updPas_net : (s.updPas f).net = s.net := rfl
@[simp] theorem State.updPas_sky : (s.updPas f).sky = s.sky := rfl
@[simp] theorem State.updPas_skyio : (s.updPas f).skyio = s.skyio := rfl
@[simp] theorem State.updPas_sens : (s.updPas f).sens = s.sens := rfl
@[simp] theorem State.updPas_pas : (s.updPas f).pas = f s.pas := rfl
@[simp] theorem State.updPas_pctl : (s.updPas f).pctl = s.pctl := rfl
@[simp] theorem State.updPas_lead : (s.updPas f).lead = s.lead := rfl
@[simp] theorem State.updPas_dict : (s.updPas f).dict = s.dict := rfl
@[simp] theorem State.updPas_steer : (s.updPas f).steer = s.steer := rfl
@[simp] theorem State.updPas_opt : (s.updPas f).opt = s.opt := rfl
@[simp] theorem State.updPas_yield : (s.updPas f).yield = s.yield := rfl
@[simp] theorem State.updPas_fleet : (s.updPas f).fleet = s.fleet := rfl
@[simp] theorem State.updPas_loop : (s.updPas f).loop = s.loop := rfl
@[simp] theorem State.updPas_trace : (s.updPas f).trace = s.trace := rfl
@[simp] theorem State.updPas_fio : (s.updPas f).fio = s.fio := rfl
@[simp] theorem State.updPas_valve : (s.updPas f).valve = s.valve := rfl
@[simp] theorem State.updPas_can : (s.updPas f).can = s.can := rfl
@[simp] theorem State.updPas_lan : (s.updPas f).lan = s.lan := rfl
@[simp] theorem State.updPas_upd : (s.updPas f).upd = s.upd := rfl
@[simp] theorem State.updPas_free : (s.updPas f).free = s.free := rfl
@[simp] theorem State.updPas_pending : (s.updPas f).pending = s.pending := rfl
end

section
variable (s : State) (f : PasCtl → PasCtl)
@[simp] theorem State.updPctl_tm : (s.updPctl f).tm = s.tm := rfl
@[simp] theorem State.updPctl_pw : (s.updPctl f).pw = s.pw := rfl
@[simp] theorem State.updPctl_belay : (s.updPctl f).belay = s.belay := rfl
@[simp] theorem State.updPctl_flow : (s.updPctl f).flow = s.flow := rfl
@[simp] theorem State.updPctl_serv : (s.updPctl f).serv = s.serv := rfl
@[simp] theorem State.updPctl_per : (s.updPctl f).per = s.per := rfl
@[simp] theorem State.updPctl_net : (s.updPctl f).net = s.net := rfl
@[simp] theorem State.updPctl_sky : (s.updPctl f).sky = s.sky := rfl
@[simp] theorem State.updPctl_skyio : (s.updPctl f).skyio = s.skyio := rfl
@[simp] theorem State.updPctl_sens : (s.updPctl f).sens = s.sens := rfl
@[simp] theorem State.updPctl_pas : (s.updPctl f).pas = s.pas := rfl
@[simp] theorem State.updPctl_pctl : (s.updPctl f).pctl = f s.pctl := rfl
@[simp] theorem State.updPctl_lead : (s.updPctl f).lead = s.lead := rfl
@[simp] theorem State.updPctl_dict : (s.updPctl f).dict = s.dict := rfl
@[simp] theorem State.updPctl_steer : (s.updPctl f).steer = s.steer := rfl
@[simp] theorem State.updPctl_opt : (s.updPctl f).opt = s.opt := rfl
@[simp] theorem State.updPctl_yield : (s.updPctl f).yield = s.yield := rfl
@[simp] theorem State.updPctl_fleet : (s.updPctl f).fleet = s.fleet := rfl
@[simp] theorem State.updPctl_loop : (s.updPctl f).loop = s.loop := rfl
@[simp] theorem State.updPctl_trace : (s.updPctl f).trace = s.trace := rfl
@[simp] theorem State.updPctl_fio : (s.updPctl f).fio = s.fio := rfl
@[simp] theorem State.updPctl_valve : (s.updPctl f).valve = s.valve := rfl
@[simp] theorem State.updPctl_can : (s.updPctl f).can = s.can := rfl
@[simp] theorem State.updPctl_lan : (s.updPctl f).lan = s.lan := rfl
@[simp] theorem State.updPctl_upd : (s.updPctl f).upd = s.upd := rfl
@[simp] theorem State.updPctl_free : (s.updPctl f).free = s.free := rfl
@[simp] theorem State.updPctl_pending : (s.updPctl f).pending = s.pending := rfl
end

section
variable (s : State) (f : Leads → Leads)
@[simp] theorem State.updLead_tm : (s.updLead f).tm = s.tm := rfl
@[simp] theorem State.updLead_pw : (s.updLead f).pw = s.pw := rfl
@[simp] theorem State.updLead_belay : (s.updLead f).belay = s.belay := rfl
@[simp] theorem State.updLead_flow : (s.updLead f).flow = s.flow := rfl
@[simp] theorem State.updLead_serv : (s.updLead f).serv = s.serv := rfl
@[simp] theorem State.updLead_per : (s.updLead f).per = s.per := rfl
@[simp] theorem State.updLead_net : (s.updLead f).net = s.net := rfl
@[simp] theorem State.updLead_sky : (s.updLead f).sky = s.sky := rfl
@[simp] theorem State.updLead_skyio : (s.updLead f).skyio = s.skyio := rfl
@[simp] theorem State.updLead_sens : (s.updLead f).sens = s.sens := rfl
@[simp] theorem State.updLead_pas : (s.updLead f).pas = s.pas := rfl
@[simp] theorem State.updLead_pctl : (s.updLead f).pctl = s.pctl := rfl
@[simp] theorem State.updLead_lead : (s.updLead f).lead = f s.lead := rfl
@[simp] theorem State.updLead_dict : (s.updLead f).dict = s.dict := rfl
@[simp] theorem State.updLead_steer : (s.updLead f).steer = s.steer := rfl
@[simp] theorem State.updLead_opt : (s.updLead f).opt = s.opt := rfl
@[simp] theorem State.updLead_yield : (s.updLead f).yield = s.yield := rfl
@[simp] theorem State.updLead_fleet : (s.updLead f).fleet = s.fleet := rfl
@[simp] theorem State.updLead_loop : (s.updLead f).loop = s.loop := rfl
@[simp] theorem State.updLead_trace : (s.updLead f).trace = s.trace := rfl
@[simp] theorem State.updLead_fio : (s.updLead f).fio = s.fio := rfl
@[simp] theorem State.updLead_valve : (s.updLead f).valve = s.valve := rfl
@[simp] theorem State.updLead_can : (s.updLead f).can = s.can := rfl
@[simp] theorem State.updLead_lan : (s.updLead f).lan = s.lan := rfl
@[simp] theorem State.updLead_upd : (s.updLead f).upd = s.upd := rfl
@[simp] theorem State.updLead_free : (s.updLead f).free = s.free := rfl
@[simp] theorem State.updLead_pending : (s.updLead f).pending = s.pending := rfl
end

section
variable (s : State) (f : List (Nat × Val) → List (Nat × Val))
@[simp] theorem State.updDict_tm : (s.updDict f).tm = s.tm := rfl
@[simp] theorem State.updDict_pw : (s.updDict f).pw = s.pw := rfl
@[simp] theorem State.updDict_belay : (s.updDict f).belay = s.belay := rfl
@[simp] theorem State.updDict_flow : (s.updDict f).flow = s.flow := rfl
@[simp] theorem State.updDict_serv : (s.updDict f).serv = s.serv := rfl
@[simp] theorem State.updDict_per : (s.updDict f).per = s.per := rfl
@[simp] theorem State.updDict_net : (s.updDict f).net = s.net := rfl
@[simp] theorem State.updDict_sky : (s.updDict f).sky = s.sky := rfl
@[simp] theorem State.updDict_skyio : (s.updDict f).skyio = s.skyio := rfl
@[simp] theorem State.updDict_sens : (s.updDict f).sens = s.sens := rfl
@[simp] theorem State.updDict_pas : (s.updDict f).pas = s.pas := rfl
@[simp] theorem State.updDict_pctl : (s.updDict f).pctl = s.pctl := rfl
@[simp] theorem State.updDict_lead : (s.updDict f).lead = s.lead := rfl
@[simp] theorem State.updDict_dict : (s.updDict f).dict = f s.dict := rfl
@[simp] theorem State.updDict_steer : (s.updDict f).steer = s.steer := rfl
@[simp] theorem State.updDict_opt : (s.updDict f).opt = s.opt := rfl
@[simp] theorem State.updDict_yield : (s.updDict f).yield = s.yield := rfl
@[simp] theorem State.updDict_fleet : (s.updDict f).fleet = s.fleet := rfl
@[simp] theorem State.updDict_loop : (s.updDict f).loop = s.loop := rfl
@[simp] theorem State.updDict_trace : (s.updDict f).trace = s.trace := rfl
@[simp] theorem State.updDict_fio : (s.updDict f).fio = s.fio := rfl
@[simp] theorem State.updDict_valve : (s.updDict f).valve = s.valve := rfl
@[simp] theorem State.updDict_can : (s.updDict f).can = s.can := rfl
@[simp] theorem State.updDict_lan : (s.updDict f).lan = s.lan := rfl
@[simp] theorem State.updDict_upd : (s.updDict f).upd = s.upd := rfl
@[simp] theorem State.updDict_free : (s.updDict f).free = s.free := rfl
@[simp] theorem State.updDict_pending : (s.updDict f).pending = s.pending := rfl
end

section
variable (s : State) (f : Steer → Steer)
@[simp] theorem State.updSteer_tm : (s.updSteer f).tm = s.tm := rfl
@[simp] theorem State.updSteer_pw : (s.updSteer f).pw = s.pw := rfl
@[simp] theorem State.updSteer_belay : (s.updSteer f).belay = s.belay := rfl
@[simp] theorem State.updSteer_flow : (s.updSteer f).flow = s.flow := rfl
@[simp] theorem State.updSteer_serv : (s.updSteer f).serv = s.serv := rfl
@[simp] theorem State.updSteer_per : (s.updSteer f).per = s.per := rfl
@[simp] theorem State.updSteer_net : (s.updSteer f).net = s.net := rfl
@[simp] theorem State.updSteer_sky : (s.updSteer f).sky = s.sky := rfl
@[simp] theorem State.updSteer_skyio : (s.updSteer f).skyio = s.skyio := rfl
@[simp] theorem State.updSteer_sens : (s.updSteer f).sens = s.sens := rfl
@[simp] theorem State.updSteer_pas : (s.updSteer f).pas = s.pas := rfl
@[simp] theorem State.updSteer_pctl : (s.updSteer f).pctl = s.pctl := rfl
@[simp] theorem State.updSteer_lead : (s.updSteer f).lead = s.lead := rfl
@[simp] theorem State.updSteer_dict : (s.updSteer f).dict = s.dict := rfl
@[simp] theorem State.updSteer_steer : (s.updSteer f).steer = f s.steer := rfl
@[simp] theorem State.updSteer_opt : (s.updSteer f).opt = s.opt := rfl
@[simp] theorem State.updSteer_yield : (s.updSteer f).yield = s.yield := rfl
@[simp] theorem State.updSteer_fleet : (s.updSteer f).fleet = s.fleet := rfl
@[simp] theorem State.updSteer_loop : (s.updSteer f).loop = s.loop := rfl
@[simp] theorem State.updSteer_trace : (s.updSteer f).trace = s.trace := rfl
@[simp] theorem State.updSteer_fio : (s.updSteer f).fio = s.fio := rfl
@[simp] theorem State.updSteer_valve : (s.updSteer f).valve = s.valve := rfl
@[simp] theorem State.updSteer_can : (s.updSteer f).can = s.can := rfl
@[simp] theorem State.updSteer_lan : (s.updSteer f).lan = s.lan := rfl
@[simp] theorem State.updSteer_upd : (s.updSteer f).upd = s.upd := rfl
@[simp] theorem State.updSteer_free : (s.updSteer f).free = s.free := rfl
@[simp] theorem State.updSteer_pending : (s.updSteer f).pending = s.pending := rfl
end

section
variable (s : State) (f : Opt → Opt)
@[simp] theorem State.updOpt_tm : (s.updOpt f).tm = s.tm := rfl
@[simp] theorem State.updOpt_pw : (s.updOpt f).pw = s.pw := rfl
@[simp] theorem State.updOpt_belay : (s.updOpt f).belay = s.belay := rfl
@[simp] theorem State.updOpt_flow : (s.updOpt f).flow = s.flow := rfl
@[simp] theorem State.updOpt_serv : (s.updOpt f).serv = s.serv := rfl
@[simp] theorem State.updOpt_per : (s.updOpt f).per = s.per := rfl
@[simp] theorem State.updOpt_net : (s.updOpt f).net = s.net := rfl
@[simp] theorem State.updOpt_sky : (s.updOpt f).sky = s.sky := rfl
@[simp] theorem State.updOpt_skyio : (s.updOpt f).skyio = s.skyio := rfl
@[simp] theorem State.updOpt_sens : (s.updOpt f).sens = s.sens := rfl
@[simp] theorem State.updOpt_pas : (s.updOpt f).pas = s.pas := rfl
@[simp] theorem State.updOpt_pctl : (s.updOpt f).pctl = s.pctl := rfl
@[simp] theorem State.updOpt_lead : (s.updOpt f).lead = s.lead := rfl
@[simp] theorem State.updOpt_dict : (s.updOpt f).dict = s.dict := rfl
@[simp] theorem State.updOpt_steer : (s.updOpt f).steer = s.steer := rfl
@[simp] theorem State.updOpt_opt : (s.updOpt f).opt = f s.opt := rfl
@[simp] theorem State.updOpt_yield : (s.updOpt f).yield = s.yield := rfl
@[simp] theorem State.updOpt_fleet : (s.updOpt f).fleet = s.fleet := rfl
@[simp] theorem State.updOpt_loop : (s.updOpt f).loop = s.loop := rfl
@[simp] theorem State.updOpt_trace : (s.updOpt f).trace = s.trace := rfl
@[simp] theorem State.updOpt_fio : (s.updOpt f).fio = s.fio := rfl
@[simp] theorem State.updOpt_valve : (s.updOpt f).valve = s.valve := rfl
@[simp] theorem State.updOpt_can : (s.updOpt f).can = s.can := rfl
@[simp] theorem State.updOpt_lan : (s.updOpt f).lan = s.lan := rfl
@[simp] theorem State.updOpt_upd : (s.updOpt f).upd = s.upd := rfl
@[simp] theorem State.updOpt_free : (s.updOpt f).free = s.free := rfl
@[simp] theorem State.updOpt_pending : (s.updOpt f).pending = s.pending := rfl
end

section
variable (s : State) (f : Yield → Yield)
@[simp] theorem State.updYield_tm : (s.updYield f).tm = s.tm := rfl
@[simp] theorem State.updYield_pw : (s.updYield f).pw = s.pw := rfl
@[simp] theorem State.updYield_belay : (s.updYield f).belay = s.belay := rfl
@[simp] theorem State.updYield_flow : (s.updYield f).flow = s.flow := rfl
@[simp] theorem State.updYield_serv : (s.updYield f).serv = s.serv := rfl
@[simp] theorem State.updYield_per : (s.updYield f).per = s.per := rfl
@[simp] theorem State.updYield_net : (s.updYield f).net = s.net := rfl
@[simp] theorem State.updYield_sky : (s.updYield f).sky = s.sky := rfl
@[simp] theorem State.updYield_skyio : (s.updYield f).skyio = s.skyio := rfl
@[simp] theorem State.updYield_sens : (s.updYield f).sens = s.sens := rfl
@[simp] theorem State.updYield_pas : (s.updYield f).pas = s.pas := rfl
@[simp] theorem State.updYield_pctl : (s.updYield f).pctl = s.pctl := rfl
@[simp] theorem State.updYield_lead : (s.updYield f).lead = s.lead := rfl
@[simp] theorem State.updYield_dict : (s.updYield f).dict = s.dict := rfl
@[simp] theorem State.updYield_steer : (s.updYield f).steer = s.steer := rfl
@[simp] theorem State.updYield_opt : (s.updYield f).opt = s.opt := rfl
@[simp] theorem State.updYield_yield : (s.updYield f).yield = f s.yield := rfl
@[simp] theorem State.updYield_fleet : (s.updYield f).fleet = s.fleet := rfl
@[simp] theorem State.updYield_loop : (s.updYield f).loop = s.loop := rfl
@[simp] theorem State.updYield_trace : (s.updYield f).trace = s.trace := rfl
@[simp] theorem State.updYield_fio : (s.updYield f).fio = s.fio := rfl
@[simp] theorem State.updYield_valve : (s.updYield f).valve = s.valve := rfl
@[simp] theorem State.updYield_can : (s.updYield f).can = s.can := rfl
@[simp] theorem State.updYield_lan : (s.updYield f).lan = s.lan := rfl
@[simp] theorem State.updYield_upd : (s.updYield f).upd = s.upd := rfl
@[simp] theorem State.updYield_free : (s.updYield f).free = s.free := rfl
@[simp] theorem State.updYield_pending : (s.updYield f).pending = s.pending := rfl
end

section
variable (s : State) (f : Fleet → Fleet)
@[simp] theorem State.updFleet_tm : (s.updFleet f).tm = s.tm := rfl
@[simp] theorem State.updFleet_pw : (s.updFleet f).pw = s.pw := rfl
@[simp] theorem State.updFleet_belay : (s.updFleet f).belay = s.belay := rfl
@[simp] theorem State.updFleet_flow : (s.updFleet f).flow = s.flow := rfl
@[simp] theorem State.updFleet_serv : (s.updFleet f).serv = s.serv := rfl
@[simp] theorem State.updFleet_per : (s.updFleet f).per = s.per := rfl
@[simp] theorem State.updFleet_net : (s.updFleet f).net = s.net := rfl
@[simp] theorem State.updFleet_sky : (s.updFleet f).sky = s.sky := rfl
@[simp] theorem State.updFleet_skyio : (s.updFleet f).skyio = s.skyio := rfl
@[simp] theorem State.updFleet_sens : (s.updFleet f).sens = s.sens := rfl
@[simp] theorem State.updFleet_pas : (s.updFleet f).pas = s.pas := rfl
@[simp] theorem State.updFleet_pctl : (s.updFleet f).pctl = s.pctl := rfl
@[simp] theorem State.updFleet_lead : (s.updFleet f).lead = s.lead := rfl
@[simp] theorem State.updFleet_dict : (s.updFleet f).dict = s.dict := rfl
@[simp] theorem State.updFleet_steer : (s.updFleet f).steer = s.steer := rfl
@[simp] theorem State.updFleet_opt : (s.updFleet f).opt = s.opt := rfl
@[simp] theorem State.updFleet_yield : (s.updFleet f).yield = s.yield := rfl
@[simp] theorem State.updFleet_fleet : (s.updFleet f).fleet = f s.fleet := rfl
@[simp] theorem State.updFleet_loop : (s.updFleet f).loop = s.loop := rfl
@[simp] theorem State.updFleet_trace : (s.updFleet f).trace = s.trace := rfl
@[simp] theorem State.updFleet_fio : (s.updFleet f).fio = s.fio := rfl
@[simp] theorem State.updFleet_valve : (s.updFleet f).valve = s.valve := rfl
@[simp] theorem State.updFleet_can : (s.updFleet f).can = s.can := rfl
@[simp] theorem State.updFleet_lan : (s.updFleet f).lan = s.lan := rfl
@[simp] theorem State.updFleet_upd : (s.updFleet f).upd = s.upd := rfl
@[simp] theorem State.updFleet_free : (s.updFleet f).free = s.free := rfl
@[simp] theorem State.updFleet_pending : (s.updFleet f).pending = s.pending := rfl
end

section
variable (s : State) (f : LoopSt → LoopSt)
@[simp] theorem State.updLoop_tm : (s.updLoop f).tm = s.tm := rfl
@[simp] theorem State.updLoop_pw : (s.updLoop f).pw = s.pw := rfl
@[simp] theorem State.updLoop_belay : (s.updLoop f).belay = s.belay := rfl
@[simp] theorem State.updLoop_flow : (s.updLoop f).flow = s.flow := rfl
@[simp] theorem State.updLoop_serv : (s.updLoop f).serv = s.serv := rfl
@[simp] theorem State.updLoop_per : (s.updLoop f).per = s.per := rfl
@[simp] theorem State.updLoop_net : (s.updLoop f).net = s.net := rfl
@[simp] theorem State.updLoop_sky : (s.updLoop f).sky = s.sky := rfl
@[simp] theorem State.updLoop_skyio : (s.updLoop f).skyio = s.skyio := rfl
@[simp] theorem State.updLoop_sens : (s.updLoop f).sens = s.sens := rfl
@[simp] theorem State.updLoop_pas : (s.updLoop f).pas = s.pas := rfl
@[simp] theorem State.updLoop_pctl : (s.updLoop f).pctl = s.pctl := rfl
@[simp] theorem State.updLoop_lead : (s.updLoop f).lead = s.lead := rfl
@[simp] theorem State.updLoop_dict : (s.updLoop f).dict = s.dict := rfl
@[simp] theorem State.updLoop_steer : (s.updLoop f).steer = s.steer := rfl
@[simp] theorem State.updLoop_opt : (s.updLoop f).opt = s.opt := rfl
@[simp] theorem State.updLoop_yield : (s.updLoop f).yield = s.yield := rfl
@[simp] theorem State.updLoop_fleet : (s.updLoop f).fleet = s.fleet := rfl
@[simp] theorem State.updLoop_loop : (s.updLoop f).loop = f s.loop := rfl
@[simp] theorem State.updLoop_trace : (s.updLoop f).trace = s.trace := rfl
@[simp] theorem State.updLoop_fio : (s.updLoop f).fio = s.fio := rfl
@[simp] theorem State.updLoop_valve : (s.updLoop f).valve = s.valve := rfl
@[simp] theorem State.updLoop_can : (s.updLoop f).can = s.can := rfl
@[simp] theorem State.updLoop_lan : (s.updLoop f).lan = s.lan := rfl
@[simp] theorem State.updLoop_upd : (s.updLoop f).upd = s.upd := rfl
@[simp] theorem State.updLoop_free : (s.updLoop f).free = s.free := rfl
@[simp] theorem State.updLoop_pending : (s.updLoop f).pending = s.pending := rfl
end

section
variable (s : State) (f : Trace → Trace)
@[simp] theorem State.updTrace_tm : (s.updTrace f).tm = s.tm := rfl
@[simp] theorem State.updTrace_pw : (s.updTrace f).pw = s.pw := rfl
@[simp] theorem State.updTrace_belay : (s.updTrace f).belay = s.belay := rfl
@[simp] theorem State.updTrace_flow : (s.updTrace f).flow = s.flow := rfl
@[simp] theorem State.updTrace_serv : (s.updTrace f).serv = s.serv := rfl
@[simp] theorem State.updTrace_per : (s.updTrace f).per = s.per := rfl
@[simp] theorem State.updTrace_net : (s.updTrace f).net = s.net := rfl
@[simp] theorem State.updTrace_sky : (s.updTrace f).sky = s.sky := rfl
@[simp] theorem State.updTrace_skyio : (s.updTrace f).skyio = s.skyio := rfl
@[simp] theorem State.updTrace_sens : (s.updTrace f).sens = s.sens := rfl
@[simp] theorem State.updTrace_pas : (s.updTrace f).pas = s.pas := rfl
@[simp] theorem State.updTrace_pctl : (s.updTrace f).pctl = s.pctl := rfl
@[simp] theorem State.updTrace_lead : (s.updTrace f).lead = s.lead := rfl
@[simp] theorem State.updTrace_dict : (s.updTrace f).dict = s.dict := rfl
@[simp] theorem State.updTrace_steer : (s.updTrace f).steer = s.steer := rfl
@[simp] theorem State.updTrace_opt : (s.updTrace f).opt = s.opt := rfl
@[simp] theorem State.updTrace_yield : (s.updTrace f).yield = s.yield := rfl
@[simp] theorem State.updTrace_fleet : (s.updTrace f).fleet = s.fleet := rfl
@[simp] theorem State.updTrace_loop : (s.updTrace f).loop = s.loop := rfl
@[simp] theorem State.updTrace_trace : (s.updTrace f).trace = f s.trace := rfl
@[simp] theorem State.updTrace_fio : (s.updTrace f).fio = s.fio := rfl
@[simp] theorem State.updTrace_valve : (s.updTrace f).valve = s.valve := rfl
@[simp] theorem State.updTrace_can : (s.updTrace f).can = s.can := rfl
@[simp] theorem State.updTrace_lan : (s.updTrace f).lan = s.lan := rfl
@[simp] theorem State.updTrace_upd : (s.updTrace f).upd = s.upd := rfl
@[simp] theorem State.updTrace_free : (s.updTrace f).free = s.free := rfl
@[simp] theorem State.updTrace_pending : (s.updTrace f).pending = s.pending := rfl
end

section
variable (s : State) (f : Fio → Fio)
@[simp] theorem State.updFio_tm : (s.updFio f).tm = s.tm := rfl
@[simp] theorem State.updFio_pw : (s.updFio f).pw = s.pw := rfl
@[simp] theorem State.updFio_belay : (s.updFio f).belay = s.belay := rfl
@[simp] theorem State.updFio_flow : (s.updFio f).flow = s.flow := rfl
@[simp] theorem State.updFio_serv : (s.updFio f).serv = s.serv := rfl
@[simp] theorem State.updFio_per : (s.updFio f).per = s.per := rfl
@[simp] theorem State.updFio_net : (s.updFio f).net = s.net := rfl
@[simp] theorem State.updFio_sky : (s.updFio f).sky = s.sky := rfl
@[simp] theorem State.updFio_skyio : (s.updFio f).skyio = s.skyio := rfl
@[simp] theorem State.updFio_sens : (s.updFio f).sens = s.sens := rfl
@[simp] theorem State.updFio_pas : (s.updFio f).pas = s.pas := rfl
@[simp] theorem State.updFio_pctl : (s.updFio f).pctl = s.pctl := rfl
@[simp] theorem State.updFio_lead : (s.updFio f).lead = s.lead := rfl
@[simp] theorem State.updFio_dict : (s.updFio f).dict = s.dict := rfl
@[simp] theorem State.updFio_steer : (s.updFio f).steer = s.steer := rfl
@[simp] theorem State.updFio_opt : (s.updFio f).opt = s.opt := rfl
@[simp] theorem State.updFio_yield : (s.updFio f).yield = s.yield := rfl
@[simp] theorem State.updFio_fleet : (s.updFio f).fleet = s.fleet := rfl
@[simp] theorem State.updFio_loop : (s.updFio f).loop = s.loop := rfl
@[simp] theorem State.updFio_trace : (s.updFio f).trace = s.trace := rfl
@[simp] theorem State.updFio_fio : (s.updFio f).fio = f s.fio := rfl
@[simp] theorem State.updFio_valve : (s.updFio f).valve = s.valve := rfl
@[simp] theorem State.updFio_can : (s.updFio f).can = s.can := rfl
@[simp] theorem State.updFio_lan : (s.updFio f).lan = s.lan := rfl
@[simp] theorem State.updFio_upd : (s.updFio f).upd = s.upd := rfl
@[simp] theorem State.updFio_free : (s.updFio f).free = s.free := rfl
@[simp] theorem State.updFio_pending : (s.updFio f).pending = s.pending := rfl
end

section
variable (s : State) (f : Valve → Valve)
@[simp] theorem State.updValve_tm : (s.updValve f).tm = s.tm := rfl
@[simp] theorem State.updValve_pw : (s.updValve f).pw = s.pw := rfl
@[simp] theorem State.updValve_belay : (s.updValve f).belay = s.belay := rfl
@[simp] theorem State.updValve_flow : (s.updValve f).flow = s.flow := rfl
@[simp] theorem State.updValve_serv : (s.updValve f).serv = s.serv := rfl
@[simp] theorem State.updValve_per : (s.updValve f).per = s.per := rfl
@[simp] theorem State.updValve_net : (s.updValve f).net = s.net := rfl
@[simp] theorem State.updValve_sky : (s.updValve f).sky = s.sky := rfl
@[simp] theorem State.updValve_skyio : (s.updValve f).skyio = s.skyio := rfl
@[simp] theorem State.updValve_sens : (s.updValve f).sens = s.sens := rfl
@[simp] theorem State.updValve_pas : (s.updValve f).pas = s.pas := rfl
@[simp] theorem State.updValve_pctl : (s.updValve f).pctl = s.pctl := rfl
@[simp] theorem State.updValve_lead : (s.updValve f).lead = s.lead := rfl
@[simp] theorem State.updValve_dict : (s.updValve f).dict = s.dict := rfl
@[simp] theorem State.updValve_steer : (s.updValve f).steer = s.steer := rfl
@[simp] theorem State.updValve_opt : (s.updValve f).opt = s.opt := rfl
@[simp] theorem State.updValve_yield : (s.updValve f).yield = s.yield := rfl
@[simp] theorem State.updValve_fleet : (s.updValve f).fleet = s.fleet := rfl
@[simp] theorem State.updValve_loop : (s.updValve f).loop = s.loop := rfl
@[simp] theorem State.updValve_trace : (s.updValve f).trace = s.trace := rfl
@[simp] theorem State.updValve_fio : (s.updValve f).fio = s.fio := rfl
@[simp] theorem State.updValve_valve : (s.updValve f).valve = f s.valve := rfl
@[simp] theorem State.updValve_can : (s.updValve f).can = s.can := rfl
@[simp] theorem State.updValve_lan : (s.updValve f).lan = s.lan := rfl
@[simp] theorem State.updValve_upd : (s.updValve f).upd = s.upd := rfl
@[simp] theorem State.updValve_free : (s.updValve f).free = s.free := rfl
@[simp] theorem State.updValve_pending : (s.updValve f).pending = s.pending := rfl
end

section
variable (s : State) (f : Can → Can)
@[simp] theorem State.updCan_tm : (s.updCan f).tm = s.tm := rfl
@[simp] theorem State.updCan_pw : (s.updCan f).pw = s.pw := rfl
@[simp] theorem State.updCan_belay : (s.updCan f).belay = s.belay := rfl
@[simp] theorem State.updCan_flow : (s.updCan f).flow = s.flow := rfl
@[simp] theorem State.updCan_serv : (s.updCan f).serv = s.serv := rfl
@[simp] theorem State.updCan_per : (s.updCan f).per = s.per := rfl
@[simp] theorem State.updCan_net : (s.updCan f).net = s.net := rfl
@[simp] theorem State.updCan_sky : (s.updCan f).sky = s.sky := rfl
@[simp] theorem State.updCan_skyio : (s.updCan f).skyio = s.skyio := rfl
@[simp] theorem State.updCan_sens : (s.updCan f).sens = s.sens := rfl
@[simp] theorem State.updCan_pas : (s.updCan f).pas = s.pas := rfl
@[simp] theorem State.updCan_pctl : (s.updCan f).pctl = s.pctl := rfl
@[simp] theorem State.updCan_lead : (s.updCan f).lead = s.lead := rfl
@[simp] theorem State.updCan_dict : (s.updCan f).dict = s.dict := rfl
@[simp] theorem State.updCan_steer : (s.updCan f).steer = s.steer := rfl
@[simp] theorem State.updCan_opt : (s.updCan f).opt = s.opt := rfl
@[simp] theorem State.updCan_yield : (s.updCan f).yield = s.yield := rfl
@[simp] theorem State.updCan_fleet : (s.updCan f).fleet = s.fleet := rfl
@[simp] theorem State.updCan_loop : (s.updCan f).loop = s.loop := rfl
@[simp] theorem State.updCan_trace : (s.updCan f).trace = s.trace := rfl
@[simp] theorem State.updCan_fio : (s.updCan f).fio = s.fio := rfl
@[simp] theorem State.updCan_valve : (s.updCan f).valve = s.valve := rfl
@[simp] theorem State.updCan_can : (s.updCan f).can = f s.can := rfl
@[simp] theorem State.updCan_lan : (s.updCan f).lan = s.lan := rfl
@[simp] theorem State.updCan_upd : (s.updCan f).upd = s.upd := rfl
@[simp] theorem State.updCan_free : (s.updCan f).free = s.free := rfl
@[simp] theorem State.updCan_pending : (s.updCan f).pending = s.pending := rfl
end

section
variable (s : State) (f : Lantern → Lantern)
@[simp] theorem State.updLan_tm : (s.updLan f).tm = s.tm := rfl
@[simp] theorem State.updLan_pw : (s.updLan f).pw = s.pw := rfl
@[simp] theorem State.updLan_belay : (s.updLan f).belay = s.belay := rfl
@[simp] theorem State.updLan_flow : (s.updLan f).flow = s.flow := rfl
@[simp] theorem State.updLan_serv : (s.updLan f).serv = s.serv := rfl
@[simp] theorem State.updLan_per : (s.updLan f).per = s.per := rfl
@[simp] theorem State.updLan_net : (s.updLan f).net = s.net := rfl
@[simp] theorem State.updLan_sky : (s.updLan f).sky = s.sky := rfl
@[simp] theorem State.updLan_skyio : (s.updLan f).skyio = s.skyio := rfl
@[simp] theorem State.updLan_sens : (s.updLan f).sens = s.sens := rfl
@[simp] theorem State.updLan_pas : (s.updLan f).pas = s.pas := rfl
@[simp] theorem State.updLan_pctl : (s.updLan f).pctl = s.pctl := rfl
@[simp] theorem State.updLan_lead : (s.updLan f).lead = s.lead := rfl
@[simp] theorem State.updLan_dict : (s.updLan f).dict = s.dict := rfl
@[simp] theorem State.updLan_steer : (s.updLan f).steer = s.steer := rfl
@[simp] theorem State.updLan_opt : (s.updLan f).opt = s.opt := rfl
@[simp] theorem State.updLan_yield : (s.updLan f).yield = s.yield := rfl
@[simp] theorem State.updLan_fleet : (s.updLan f).fleet = s.fleet := rfl
@[simp] theorem State.updLan_loop : (s.updLan f).loop = s.loop := rfl
@[simp] theorem State.updLan_trace : (s.updLan f).trace = s.trace := rfl
@[simp] theorem State.updLan_fio : (s.updLan f).fio = s.fio := rfl
@[simp] theorem State.updLan_valve : (s.updLan f).valve = s.valve := rfl
@[simp] theorem State.updLan_can : (s.updLan f).can = s.can := rfl
@[simp] theorem State.updLan_lan : (s.updLan f).lan = f s.lan := rfl
@[simp] theorem State.updLan_upd : (s.updLan f).upd = s.upd := rfl
@[simp] theorem State.updLan_free : (s.updLan f).free = s.free := rfl
@[simp] theorem State.updLan_pending : (s.updLan f).pending = s.pending := rfl
end

section
variable (s : State) (f : Upd → Upd)
@[simp] theorem State.updUpd_tm : (s.updUpd f).tm = s.tm := rfl
@[simp] theorem State.updUpd_pw : (s.updUpd f).pw = s.pw := rfl
@[simp] theorem State.updUpd_belay : (s.updUpd f).belay = s.belay := rfl
@[simp] theorem State.updUpd_flow : (s.updUpd f).flow = s.flow := rfl
@[simp] theorem State.updUpd_serv : (s.updUpd f).serv = s.serv := rfl
@[simp] theorem State.updUpd_per : (s.updUpd f).per = s.per := rfl
@[simp] theorem State.updUpd_net : (s.updUpd f).net = s.net := rfl
@[simp] theorem State.updUpd_sky : (s.updUpd f).sky = s.sky := rfl
@[simp] theorem State.updUpd_skyio : (s.updUpd f).skyio = s.skyio := rfl
@[simp] theorem State.updUpd_sens : (s.updUpd f).sens = s.sens := rfl
@[simp] theorem State.updUpd_pas : (s.updUpd f).pas = s.pas := rfl
@[simp] theorem State.updUpd_pctl : (s.updUpd f).pctl = s.pctl := rfl
@[simp] theorem State.updUpd_lead : (s.updUpd f).lead = s.lead := rfl
@[simp] theorem State.updUpd_dict : (s.updUpd f).dict = s.dict := rfl
@[simp] theorem State.updUpd_steer : (s.updUpd f).steer = s.steer := rfl
@[simp] theorem State.updUpd_opt : (s.updUpd f).opt = s.opt := rfl
@[simp] theorem State.updUpd_yield : (s.updUpd f).yield = s.yield := rfl
@[simp] theorem State.updUpd_fleet : (s.updUpd f).fleet = s.fleet := rfl
@[simp] theorem State.updUpd_loop : (s.updUpd f).loop = s.loop := rfl
@[simp] theorem State.updUpd_trace : (s.updUpd f).trace = s.trace := rfl
@[simp] theorem State.updUpd_fio : (s.updUpd f).fio = s.fio := rfl
@[simp] theorem State.updUpd_valve : (s.updUpd f).valve = s.valve := rfl
@[simp] theorem State.updUpd_can : (s.updUpd f).can = s.can := rfl
@[simp] theorem State.updUpd_lan : (s.updUpd f).lan = s.lan := rfl
@[simp] theorem State.updUpd_upd : (s.updUpd f).upd = f s.upd := rfl
@[simp] theorem State.updUpd_free : (s.updUpd f).free = s.free := rfl
@[simp] theorem State.updUpd_pending : (s.updUpd f).pending = s.pending := rfl
end

section
variable (s : State) (i sub : Nat) (v : Val)
@[simp] theorem State.put_tm : (s.put i sub v).tm = s.tm := rfl
@[simp] theorem State.put_pw : (s.put i sub v).pw = s.pw := rfl
@[simp] theorem State.put_belay : (s.put i sub v).belay = s.belay := rfl
@[simp] theorem State.put_flow : (s.put i sub v).flow = s.flow := rfl
@[simp] theorem State.put_serv : (s.put i sub v).serv = s.serv := rfl
@[simp] theorem State.put_per : (s.put i sub v).per = s.per := rfl
@[simp] theorem State.put_net : (s.put i sub v).net = s.net := rfl
@[simp] theorem State.put_sky : (s.put i sub v).sky = s.sky := rfl
@[simp] theorem State.put_skyio : (s.put i sub v).skyio = s.skyio := rfl
@[simp] theorem State.put_sens : (s.put i sub v).sens = s.sens := rfl
@[simp] theorem State.put_pas : (s.put i sub v).pas = s.pas := rfl
@[simp] theorem State.put_pctl : (s.put i sub v).pctl = s.pctl := rfl
@[simp] theorem State.put_lead : (s.put i sub v).lead = s.lead := rfl
@[simp] theorem State.put_dict : (s.put i sub v).dict = dictPut s.dict i sub v := rfl
@[simp] theorem State.put_steer : (s.put i sub v).steer = s.steer := rfl
@[simp] theorem State.put_opt : (s.put i sub v).opt = s.opt := rfl
@[simp] theorem State.put_yield : (s.put i sub v).yield = s.yield := rfl
@[simp] theorem State.put_fleet : (s.put i sub v).fleet = s.fleet := rfl
@[simp] theorem State.put_loop : (s.put i sub v).loop = s.loop := rfl
@[simp] theorem State.put_trace : (s.put i sub v).trace = s.trace := rfl
@[simp] theorem State.put_fio : (s.put i sub v).fio = s.fio := rfl
@[simp] theorem State.put_valve : (s.put i sub v).valve = s.valve := rfl
@[simp] theorem State.put_can : (s.put i sub v).can = s.can := rfl
@[simp] theorem State.put_lan : (s.put i sub v).lan = s.lan := rfl
@[simp] theorem State.put_upd : (s.put i sub v).upd = s.upd := rfl
@[simp] theorem State.put_free : (s.put i sub v).free = s.free := rfl
@[simp] theorem State.put_pending : (s.put i sub v).pending = s.pending := rfl
end

end Sys2Proof.Machine
end

