-- ==== Sys2Proof/Laws/Total.lean ====
section
/-! SUPPORT. A well-formed command always answers a next state, and an ill-formed one is refused. -/

namespace Sys2Proof.Machine

set_option Elab.async false

/-- The outcome is a next state if b, and else the refusal of a unit that does not exist. -/
def Total (b : Bool) (o : Out) : Prop := (b = true → Answers o) ∧ (b = false → o = .refused .noSuchUnit)

theorem total_next {s : State} : Total true (.next s) := ⟨fun _ => ⟨s, rfl⟩, fun e => by cases e⟩

theorem total_unit {b : Bool} {s : State} : Total b (withUnit b s) :=
  ⟨fun e => ⟨s, by rw [e]; rfl⟩, fun e => by rw [e]; rfl⟩

theorem total_session {s : State} {n i : Nat} {w : Ctx → State → Except Nat State} : Total (sessionOk n) (s.asSession n i w) := by
  unfold State.asSession; exact total_unit (b := decide (n < 16))

theorem total_guard {p : Prop} [Decidable p] {b q : Bool} {o : Out} {s : State} (h : Total b o) (e : q = decide p) :
    Total (b && q) (if p then o else withUnit false s) := by
  subst e
  by_cases c : p
  · simpa [c] using h
  · rw [if_neg c]
    exact ⟨fun e => by simp [c] at e, fun _ => rfl⟩

theorem total_then {b : Bool} {o : Out} {f : State → State} (h : Total b o) : Total b (thenNext f o) := by
  constructor
  · intro e
    obtain ⟨t, k⟩ := h.1 e
    exact ⟨f t, by rw [k]; rfl⟩
  · intro e
    rw [h.2 e]; rfl

theorem total_fn {sess f sub : Nat} {v : Int} {s : State} : Total (sessionOk sess && decide (f < 48)) (fnCommand sess f sub v s) :=
  total_guard total_session rfl

theorem total_update {src : UpSource} {cmd c : Nat} {s : State} : Total src.ok (updateCommand src cmd c s) := by
  cases src with
  | session n => unfold updateCommand; exact total_session
  | fleet _ => exact total_next

/-- A command is carried out exactly when it is well formed. -/
theorem exec_total (s : State) : ∀ c, Total c.wf (exec c s)
  | .loopFrame _ => by first | exact total_next | exact total_unit | exact total_session | exact total_guard total_session rfl
  | .applicationFrame _ => by first | exact total_next | exact total_unit | exact total_session | exact total_guard total_session rfl
  | .ignWake => by first | exact total_next | exact total_unit | exact total_session | exact total_guard total_session rfl
  | .keysvcWake => by first | exact total_next | exact total_unit | exact total_session | exact total_guard total_session rfl
  | .keysvcHoldExpiry => by first | exact total_next | exact total_unit | exact total_session | exact total_guard total_session rfl
  | .alarmWake => by first | exact total_next | exact total_unit | exact total_session | exact total_guard total_session rfl
  | .alarmPassedAwake => by first | exact total_next | exact total_unit | exact total_session | exact total_guard total_session rfl
  | .canWake _ _ => by first | exact total_next | exact total_unit | exact total_session | exact total_guard total_session rfl
  | .startAllowedWaitEnd => by first | exact total_next | exact total_unit | exact total_session | exact total_guard total_session rfl
  | .startToRun => by first | exact total_next | exact total_unit | exact total_session | exact total_guard total_session rfl
  | .startToLadder _ _ => by first | exact total_next | exact total_unit | exact total_session | exact total_guard total_session rfl
  | .deviceStateRequestRun _ => by first | exact total_next | exact total_unit | exact total_session | exact total_guard total_session rfl
  | .deviceStateRequestService _ => by first | exact total_next | exact total_unit | exact total_session | exact total_guard total_session rfl
  | .deviceStateRequestShutdown _ => by first | exact total_next | exact total_unit | exact total_session | exact total_guard total_session rfl
  | .ignOffDelayExpiry => by first | exact total_next | exact total_unit | exact total_session | exact total_guard total_session rfl
  | .ladderIgnOffExpiry => by first | exact total_next | exact total_unit | exact total_session | exact total_guard total_session rfl
  | .shutdownComplete => by first | exact total_next | exact total_unit | exact total_session | exact total_guard total_session rfl
  | .shutdownLimitExpiry => by first | exact total_next | exact total_unit | exact total_session | exact total_guard total_session rfl
  | .parkDwellExpiry => by first | exact total_next | exact total_unit | exact total_session | exact total_guard total_session rfl
  | .operatorTakeover _ => by first | exact total_next | exact total_unit | exact total_session | exact total_guard total_session rfl
  | .eccCorrected _ => by first | exact total_next | exact total_unit | exact total_session | exact total_guard total_session rfl
  | .eccUncorrectable _ _ _ => by first | exact total_next | exact total_unit | exact total_session | exact total_guard total_session rfl
  | .headerEntersWork => by first | exact total_next | exact total_unit | exact total_session | exact total_guard total_session rfl
  | .headerLeavesWork => by first | exact total_next | exact total_unit | exact total_session | exact total_guard total_session rfl
  | .stationStopTimeout _ => by first | exact total_next | exact total_unit | exact total_session | exact total_guard total_session rfl
  | .groundSourceLossExpiry => by first | exact total_next | exact total_unit | exact total_session | exact total_guard total_session rfl
  | .eventRecord _ _ => by first | exact total_next | exact total_unit | exact total_session | exact total_guard total_session rfl
  | .eventCancel _ _ => by first | exact total_next | exact total_unit | exact total_session | exact total_guard total_session rfl
  | .snapshot _ _ => by first | exact total_next | exact total_unit | exact total_session | exact total_guard total_session rfl
  | .stationConfigWrite _ _ _ _ => by first | exact total_next | exact total_unit | exact total_session | exact total_guard total_session rfl
  | .kernelWrite _ _ _ _ => by first | exact total_next | exact total_unit | exact total_session | exact total_guard total_session rfl
  | .sliceLengthWrite _ _ _ => by first | exact total_next | exact total_unit | exact total_session | exact total_guard total_session rfl
  | .calStart _ => by first | exact total_next | exact total_unit | exact total_session | exact total_guard total_session rfl
  | .calStop _ => by first | exact total_next | exact total_unit | exact total_session | exact total_guard total_session rfl
  | .calAccept _ => by first | exact total_next | exact total_unit | exact total_session | exact total_guard total_session rfl
  | .calDiscard _ => by first | exact total_next | exact total_unit | exact total_session | exact total_guard total_session rfl
  | .calProposalReady _ _ _ _ => by first | exact total_next | exact total_unit | exact total_session | exact total_guard total_session rfl
  | .transitTrim _ => by first | exact total_next | exact total_unit | exact total_session | exact total_guard total_session rfl
  | .passageReset _ => by first | exact total_next | exact total_unit | exact total_session | exact total_guard total_session rfl
  | .leadSuspendEnd => by first | exact total_next | exact total_unit | exact total_session | exact total_guard total_session rfl
  | .leadEnable _ _ => by first | exact total_next | exact total_unit | exact total_session | exact total_guard total_session rfl
  | .leadSlotWrite _ _ _ _ => by first | exact total_next | exact total_unit | exact total_session | exact total_guard total_session rfl
  | .leadSnapshot _ _ => by first | exact total_next | exact total_unit | exact total_session | exact total_guard total_session rfl
  | .leadCountRecord => by first | exact total_next | exact total_unit | exact total_session | exact total_guard total_session rfl
  | .sensorSupplyFoldback _ => by first | exact total_next | exact total_unit | exact total_session | exact total_guard total_session rfl
  | .sensorSupplyRetry _ _ => by first | exact total_next | exact total_unit | exact total_session | exact total_guard total_session rfl
  | .pulseWindowClose _ _ _ => by first | exact total_next | exact total_unit | exact total_session | exact total_guard total_session rfl
  | .lsChannelTest _ _ _ => by first | exact total_next | exact total_unit | exact total_session | exact total_guard total_session rfl
  | .lsTestNow _ _ => by first | exact total_next | exact total_unit | exact total_session | exact total_guard total_session rfl
  | .lsNoisyExpiry _ _ => by first | exact total_next | exact total_unit | exact total_session | exact total_guard total_session rfl
  | .lossChannelWrite _ _ _ _ => by first | exact total_next | exact total_unit | exact total_session | exact total_guard total_session rfl
  | .aiRangeFault _ _ => by first | exact total_next | exact total_unit | exact total_session | exact total_guard total_session rfl
  | .aiRangeHoldExpiry _ => by first | exact total_next | exact total_unit | exact total_session | exact total_guard total_session rfl
  | .shuntOpen _ => by first | exact total_next | exact total_unit | exact total_session | exact total_guard total_session rfl
  | .shuntRetest _ _ => by first | exact total_next | exact total_unit | exact total_session | exact total_guard total_session rfl
  | .aiConfigWrite _ _ _ _ => by first | exact total_next | exact total_unit | exact total_session | exact total_guard total_session rfl
  | .shaftEdge _ _ _ _ => by first | exact total_next | exact total_unit | exact total_session | exact total_guard total_session rfl
  | .indexEdge _ _ => by first | exact total_next | exact total_unit | exact total_session | exact total_guard total_session rfl
  | .shaftZeroTimeout _ => by first | exact total_next | exact total_unit | exact total_session | exact total_guard total_session rfl
  | .shaftFaultClearExpiry _ => by first | exact total_next | exact total_unit | exact total_session | exact total_guard total_session rfl
  | .tareLearn => by first | exact total_next | exact total_unit | exact total_session | exact total_guard total_session rfl
  | .imuSample _ _ _ _ _ _ _ _ _ => by first | exact total_next | exact total_unit | exact total_session | exact total_guard total_session rfl
  | .imuSelfTest _ => by first | exact total_next | exact total_unit | exact total_session | exact total_guard total_session rfl
  | .contextEnable _ _ => by first | exact total_next | exact total_unit | exact total_session | exact total_guard total_session rfl
  | .contextDisable _ _ => by first | exact total_next | exact total_unit | exact total_session | exact total_guard total_session rfl
  | .coefSetWrite n k set b => by
    show Total (sessionOk n && decide (k < 128) && decide (set < 2)) (execCoefSetWrite n k set b s)
    rw [Bool.and_assoc]
    exact total_guard (q := decide (k < 128) && decide (set < 2)) total_session (Bool.decide_and _ _).symm
  | .swapRequest _ _ _ => by first | exact total_next | exact total_unit | exact total_session | exact total_guard total_session rfl
  | .functionModeManual _ _ => total_fn
  | .functionModeAuto _ _ => total_fn
  | .functionModeHold _ _ => total_fn
  | .committedSetpointWrite _ _ _ => total_fn
  | .setpointLimitsWrite _ _ _ _ => total_fn
  | .setpointSourceWrite _ _ _ _ => total_fn
  | .manualCommandWrite _ _ _ => total_fn
  | .functionCommand _ _ _ => total_fn
  | .lpeHandover _ => by first | exact total_next | exact total_unit | exact total_session | exact total_guard total_session rfl
  | .repClear _ _ => by first | exact total_next | exact total_unit | exact total_session | exact total_guard total_session rfl
  | .repHold _ _ => by first | exact total_next | exact total_unit | exact total_session | exact total_guard total_session rfl
  | .repResume _ _ => by first | exact total_next | exact total_unit | exact total_session | exact total_guard total_session rfl
  | .repSave _ _ => by first | exact total_next | exact total_unit | exact total_session | exact total_guard total_session rfl
  | .repMemoryLoad _ => by first | exact total_next | exact total_unit | exact total_session | exact total_guard total_session rfl
  | .compTableWrite _ _ _ _ => by first | exact total_next | exact total_unit | exact total_session | exact total_guard total_session rfl
  | .traceArm _ => by first | exact total_next | exact total_unit | exact total_session | exact total_guard total_session rfl
  | .traceForceTrigger _ => by first | exact total_next | exact total_unit | exact total_session | exact total_guard total_session rfl
  | .traceDisarm _ => by first | exact total_next | exact total_unit | exact total_session | exact total_guard total_session rfl
  | .traceRelease _ => by first | exact total_next | exact total_unit | exact total_session | exact total_guard total_session rfl
  | .readBlock _ => by first | exact total_next | exact total_unit | exact total_session | exact total_guard total_session rfl
  | .blockJudged => by first | exact total_next | exact total_unit | exact total_session | exact total_guard total_session rfl
  | .suggestionAccept _ _ => by first | exact total_next | exact total_unit | exact total_session | exact total_guard total_session rfl
  | .suggestionReject _ _ => by first | exact total_next | exact total_unit | exact total_session | exact total_guard total_session rfl
  | .suggestionExpiry _ => by first | exact total_next | exact total_unit | exact total_session | exact total_guard total_session rfl
  | .operatorHoldExpiry _ => by first | exact total_next | exact total_unit | exact total_session | exact total_guard total_session rfl
  | .damageDatagram _ _ => by first | exact total_next | exact total_unit | exact total_session | exact total_guard total_session rfl
  | .damageStaleExpiry => by first | exact total_next | exact total_unit | exact total_session | exact total_guard total_session rfl
  | .optConfigWrite _ _ _ => by first | exact total_next | exact total_unit | exact total_session | exact total_guard total_session rfl
  | .optSlotWrite _ _ _ _ => by first | exact total_next | exact total_unit | exact total_session | exact total_guard total_session rfl
  | .steerEngage (some n) => by
    show Total (sessionOk n) (execSteerEngage (some n) s)
    unfold execSteerEngage; exact total_session
  | .steerEngage none => total_next
  | .steerDisengageCommand _ => by first | exact total_next | exact total_unit | exact total_session | exact total_guard total_session rfl
  | .steerDisengage _ => by first | exact total_next | exact total_unit | exact total_session | exact total_guard total_session rfl
  | .seatLowExpiry => by first | exact total_next | exact total_unit | exact total_session | exact total_guard total_session rfl
  | .wheelAngleDisagree => by first | exact total_next | exact total_unit | exact total_session | exact total_guard total_session rfl
  | .runawayExpiry => by first | exact total_next | exact total_unit | exact total_session | exact total_guard total_session rfl
  | .steerOverspeedExpiry => by first | exact total_next | exact total_unit | exact total_session | exact total_guard total_session rfl
  | .steerReverseTravel => by first | exact total_next | exact total_unit | exact total_session | exact total_guard total_session rfl
  | .takeoverRefusalEnd => by first | exact total_next | exact total_unit | exact total_session | exact total_guard total_session rfl
  | .coastExhausted => by first | exact total_next | exact total_unit | exact total_session | exact total_guard total_session rfl
  | .turnNow _ => by first | exact total_next | exact total_unit | exact total_session | exact total_guard total_session rfl
  | .turnCancel _ => by first | exact total_next | exact total_unit | exact total_session | exact total_guard total_session rfl
  | .turnComplete => by first | exact total_next | exact total_unit | exact total_session | exact total_guard total_session rfl
  | .lineSetA _ => by first | exact total_next | exact total_unit | exact total_session | exact total_guard total_session rfl
  | .lineSetB _ => by first | exact total_next | exact total_unit | exact total_session | exact total_guard total_session rfl
  | .curveRecordStart _ => by first | exact total_next | exact total_unit | exact total_session | exact total_guard total_session rfl
  | .curveRecordEnd _ => by first | exact total_next | exact total_unit | exact total_session | exact total_guard total_session rfl
  | .nearestPass _ _ => by first | exact total_next | exact total_unit | exact total_session | exact total_guard total_session rfl
  | .edgeFrame _ _ _ _ => by first | exact total_next | exact total_unit | exact total_session | exact total_guard total_session rfl
  | .edgeTimeout => by first | exact total_next | exact total_unit | exact total_session | exact total_guard total_session rfl
  | .unloadMessage => by first | exact total_next | exact total_unit | exact total_session | exact total_guard total_session rfl
  | .loadStart _ => by first | exact total_next | exact total_unit | exact total_session | exact total_guard total_session rfl
  | .loadEmpty _ => by first | exact total_next | exact total_unit | exact total_session | exact total_guard total_session rfl
  | .loadEmptied => by first | exact total_next | exact total_unit | exact total_session | exact total_guard total_session rfl
  | .weighedMassWrite _ _ => by first | exact total_next | exact total_unit | exact total_session | exact total_guard total_session rfl
  | .loadAccept _ => by first | exact total_next | exact total_unit | exact total_session | exact total_guard total_session rfl
  | .loadDiscard _ => by first | exact total_next | exact total_unit | exact total_session | exact total_guard total_session rfl
  | .mapOpen (.session n) => by
    show Total (sessionOk n) (execMapOpen (.session n) s)
    unfold execMapOpen; exact total_session
  | .mapOpen (.task _) => total_next
  | .mapClose (.session n) => by
    show Total (sessionOk n) (execMapClose (.session n) s)
    unfold execMapClose; exact total_session
  | .mapClose (.task _) => total_next
  | .priorTile _ => by first | exact total_next | exact total_unit | exact total_session | exact total_guard total_session rfl
  | .fleetConnect => by first | exact total_next | exact total_unit | exact total_session | exact total_guard total_session rfl
  | .fleetReconnectExpiry _ => by first | exact total_next | exact total_unit | exact total_session | exact total_guard total_session rfl
  | .fleetLinkLost _ => by first | exact total_next | exact total_unit | exact total_session | exact total_guard total_session rfl
  | .posePublish => by first | exact total_next | exact total_unit | exact total_session | exact total_guard total_session rfl
  | .parcelBatchPublish => by first | exact total_next | exact total_unit | exact total_session | exact total_guard total_session rfl
  | .tilePublish _ _ => by first | exact total_next | exact total_unit | exact total_session | exact total_guard total_session rfl
  | .statePublish _ => by first | exact total_next | exact total_unit | exact total_session | exact total_guard total_session rfl
  | .docPublish _ => by first | exact total_next | exact total_unit | exact total_session | exact total_guard total_session rfl
  | .fleetMessageReceive _ _ => by first | exact total_next | exact total_unit | exact total_session | exact total_guard total_session rfl
  | .bankEnable _ _ => by first | exact total_next | exact total_unit | exact total_session | exact total_guard total_session rfl
  | .driveSupplyNotPresent _ _ _ => by first | exact total_next | exact total_unit | exact total_session | exact total_guard total_session rfl
  | .driveSupplyPresent _ => by first | exact total_next | exact total_unit | exact total_session | exact total_guard total_session rfl
  | .bankResumeSlot _ => by first | exact total_next | exact total_unit | exact total_session | exact total_guard total_session rfl
  | .railFault => by first | exact total_next | exact total_unit | exact total_session | exact total_guard total_session rfl
  | .railFaultClear => by first | exact total_next | exact total_unit | exact total_session | exact total_guard total_session rfl
  | .pvRegulationPeriod _ => by first | exact total_next | exact total_unit | exact total_session | exact total_guard total_session rfl
  | .svBoostEnd _ _ => by first | exact total_next | exact total_unit | exact total_session | exact total_guard total_session rfl
  | .boostTimeout _ _ => by first | exact total_next | exact total_unit | exact total_session | exact total_guard total_session rfl
  | .svPeakEnd _ => by first | exact total_next | exact total_unit | exact total_session | exact total_guard total_session rfl
  | .svPulseHoldExpiry _ => by first | exact total_next | exact total_unit | exact total_session | exact total_guard total_session rfl
  | .svQuenchEnd _ => by first | exact total_next | exact total_unit | exact total_session | exact total_guard total_session rfl
  | .svBoostGranted _ _ => by first | exact total_next | exact total_unit | exact total_session | exact total_guard total_session rfl
  | .boostRejected _ _ => by first | exact total_next | exact total_unit | exact total_session | exact total_guard total_session rfl
  | .svThermalLimit _ => by first | exact total_next | exact total_unit | exact total_session | exact total_guard total_session rfl
  | .overlapCheck _ _ => by first | exact total_next | exact total_unit | exact total_session | exact total_guard total_session rfl
  | .moveDetect _ _ => by first | exact total_next | exact total_unit | exact total_session | exact total_guard total_session rfl
  | .coilTempUpdate _ _ _ => by first | exact total_next | exact total_unit | exact total_session | exact total_guard total_session rfl
  | .sentFrame _ _ => by first | exact total_next | exact total_unit | exact total_session | exact total_guard total_session rfl
  | .sentTimeout _ => by first | exact total_next | exact total_unit | exact total_session | exact total_guard total_session rfl
  | .stuck _ _ _ => by first | exact total_next | exact total_unit | exact total_session | exact total_guard total_session rfl
  | .valveOvercurrent _ => by first | exact total_next | exact total_unit | exact total_session | exact total_guard total_session rfl
  | .valveTripRetry _ => by first | exact total_next | exact total_unit | exact total_session | exact total_guard total_session rfl
  | .highSideTrip _ => by first | exact total_next | exact total_unit | exact total_session | exact total_guard total_session rfl
  | .uncommandedCurrent _ => by first | exact total_next | exact total_unit | exact total_session | exact total_guard total_session rfl
  | .offStateTest _ _ => by first | exact total_next | exact total_unit | exact total_session | exact total_guard total_session rfl
  | .openLoadDriven _ _ => by first | exact total_next | exact total_unit | exact total_session | exact total_guard total_session rfl
  | .shortedCoil _ => by first | exact total_next | exact total_unit | exact total_session | exact total_guard total_session rfl
  | .valveOvertempStage _ _ => by first | exact total_next | exact total_unit | exact total_session | exact total_guard total_session rfl
  | .valveFaultCommand _ _ _ => by first | exact total_next | exact total_unit | exact total_session | exact total_guard total_session rfl
  | .bankCommand _ _ _ => by first | exact total_next | exact total_unit | exact total_session | exact total_guard total_session rfl
  | .valveGuardExpiry _ => by first | exact total_next | exact total_unit | exact total_session | exact total_guard total_session rfl
  | .valveGuardEnd _ => by first | exact total_next | exact total_unit | exact total_session | exact total_guard total_session rfl
  | .testCommand _ _ _ => by first | exact total_next | exact total_unit | exact total_session | exact total_guard total_session rfl
  | .testCommandTimeout _ => by first | exact total_next | exact total_unit | exact total_session | exact total_guard total_session rfl
  | .valveConfigWrite _ _ _ _ => total_guard total_session (by simp [valveObject, valveIndex])
  | .fieldInputChange _ _ _ => by first | exact total_next | exact total_unit | exact total_session | exact total_guard total_session rfl
  | .outputCommandWrite _ _ _ => by first | exact total_next | exact total_unit | exact total_session | exact total_guard total_session rfl
  | .groupEnable _ _ => by first | exact total_next | exact total_unit | exact total_session | exact total_guard total_session rfl
  | .groupSupplyLow _ _ _ => by first | exact total_next | exact total_unit | exact total_session | exact total_guard total_session rfl
  | .groupSupplyMissing _ _ _ => by first | exact total_next | exact total_unit | exact total_session | exact total_guard total_session rfl
  | .groupRestoreStart _ => by first | exact total_next | exact total_unit | exact total_session | exact total_guard total_session rfl
  | .groupRestoreSlot _ => by first | exact total_next | exact total_unit | exact total_session | exact total_guard total_session rfl
  | .fieldOvercurrent _ => by first | exact total_next | exact total_unit | exact total_session | exact total_guard total_session rfl
  | .fieldOvertempStage _ _ => by first | exact total_next | exact total_unit | exact total_session | exact total_guard total_session rfl
  | .groupOverload _ => by first | exact total_next | exact total_unit | exact total_session | exact total_guard total_session rfl
  | .noLoadCurrent _ _ => by first | exact total_next | exact total_unit | exact total_session | exact total_guard total_session rfl
  | .externalDrive _ _ => by first | exact total_next | exact total_unit | exact total_session | exact total_guard total_session rfl
  | .pinsJoined _ _ _ => by first | exact total_next | exact total_unit | exact total_session | exact total_guard total_session rfl
  | .fieldGuardExpiry _ => by first | exact total_next | exact total_unit | exact total_session | exact total_guard total_session rfl
  | .fieldGuardEnd _ => by first | exact total_next | exact total_unit | exact total_session | exact total_guard total_session rfl
  | .fieldFaultCommand _ _ _ => by first | exact total_next | exact total_unit | exact total_session | exact total_guard total_session rfl
  | .groupCommand _ _ _ => by first | exact total_next | exact total_unit | exact total_session | exact total_guard total_session rfl
  | .pinModeWrite _ _ _ => by first | exact total_next | exact total_unit | exact total_session | exact total_guard total_session rfl
  | .antennaFeedFault _ _ => by first | exact total_next | exact total_unit | exact total_session | exact total_guard total_session rfl
  | .antennaFeedRetry _ _ => by first | exact total_next | exact total_unit | exact total_session | exact total_guard total_session rfl
  | .searchBlock _ _ _ => by first | exact total_next | exact total_unit | exact total_session | exact total_guard total_session rfl
  | .detectionVerify _ _ => by first | exact total_next | exact total_unit | exact total_session | exact total_guard total_session rfl
  | .aidingSet _ _ _ _ _ _ => by first | exact total_next | exact total_unit | exact total_session | exact total_guard total_session rfl
  | .channelAllocation _ => by first | exact total_next | exact total_unit | exact total_session | exact total_guard total_session rfl
  | .cycleSlip _ => by first | exact total_next | exact total_unit | exact total_session | exact total_guard total_session rfl
  | .epochSolution _ => by first | exact total_next | exact total_unit | exact total_session | exact total_guard total_session rfl
  | .rtcmFrame _ _ => by first | exact total_next | exact total_unit | exact total_session | exact total_guard total_session rfl
  | .firstFixTimeSet _ => by first | exact total_next | exact total_unit | exact total_session | exact total_guard total_session rfl
  | .slewEnd => by first | exact total_next | exact total_unit | exact total_session | exact total_guard total_session rfl
  | .timeStep => by first | exact total_next | exact total_unit | exact total_session | exact total_guard total_session rfl
  | .ppsEdge _ _ => by first | exact total_next | exact total_unit | exact total_session | exact total_guard total_session rfl
  | .timeMessage => by first | exact total_next | exact total_unit | exact total_session | exact total_guard total_session rfl
  | .skyColdStart _ => by first | exact total_next | exact total_unit | exact total_session | exact total_guard total_session rfl
  | .skyDropAmbiguities _ => by first | exact total_next | exact total_unit | exact total_session | exact total_guard total_session rfl
  | .skylightStop => by first | exact total_next | exact total_unit | exact total_session | exact total_guard total_session rfl
  | .rtcWrite => by first | exact total_next | exact total_unit | exact total_session | exact total_guard total_session rfl
  | .ptpSyncReceive _ _ _ => by first | exact total_next | exact total_unit | exact total_session | exact total_guard total_session rfl
  | .ptpSyncDepart _ => by first | exact total_next | exact total_unit | exact total_session | exact total_guard total_session rfl
  | .pdelayExchange _ _ => by first | exact total_next | exact total_unit | exact total_session | exact total_guard total_session rfl
  | .announceTimeout => by first | exact total_next | exact total_unit | exact total_session | exact total_guard total_session rfl
  | .acceptRefusedStep _ => by first | exact total_next | exact total_unit | exact total_session | exact total_guard total_session rfl
  | .discardRefusedStep _ => by first | exact total_next | exact total_unit | exact total_session | exact total_guard total_session rfl
  | .ethLinkChange _ _ => by first | exact total_next | exact total_unit | exact total_session | exact total_guard total_session rfl
  | .netConfigWrite _ _ _ _ => total_guard total_session (by simp [netObject, netIndex, Bool.beq_eq_decide_eq])
  | .canFrameTransmit _ _ _ _ => by first | exact total_next | exact total_unit | exact total_session | exact total_guard total_session rfl
  | .canFrameReceive _ _ _ => by first | exact total_next | exact total_unit | exact total_session | exact total_guard total_session rfl
  | .busOff _ => by first | exact total_next | exact total_unit | exact total_session | exact total_guard total_session rfl
  | .busOffRecovery _ => by first | exact total_next | exact total_unit | exact total_session | exact total_guard total_session rfl
  | .resumeObject n c obj => by
    show Total (sessionOk n && decide (c < 8) && decide (obj < 64)) (execResumeObject n c obj s)
    rw [Bool.and_assoc]
    exact total_guard (q := decide (c < 8) && decide (obj < 64)) total_session (Bool.decide_and _ _).symm
  | .leaveBusOff _ _ => by first | exact total_next | exact total_unit | exact total_session | exact total_guard total_session rfl
  | .txdTimeout _ => by first | exact total_next | exact total_unit | exact total_session | exact total_guard total_session rfl
  | .protocolException _ => by first | exact total_next | exact total_unit | exact total_session | exact total_guard total_session rfl
  | .frameSend _ _ => by first | exact total_next | exact total_unit | exact total_session | exact total_guard total_session rfl
  | .frameCancel _ _ => by first | exact total_next | exact total_unit | exact total_session | exact total_guard total_session rfl
  | .referenceMessage _ _ => by first | exact total_next | exact total_unit | exact total_session | exact total_guard total_session rfl
  | .refResume _ _ => by first | exact total_next | exact total_unit | exact total_session | exact total_guard total_session rfl
  | .addressClaim _ _ => by first | exact total_next | exact total_unit | exact total_session | exact total_guard total_session rfl
  | .addressReclaim _ _ => by first | exact total_next | exact total_unit | exact total_session | exact total_guard total_session rfl
  | .canChannelConfigWrite n c k v => by
    show Total (sessionOk n && decide (c < 8)) (execCanChannelConfigWrite n c k v s)
    unfold execCanChannelConfigWrite
    exact total_guard (total_then total_session) rfl
  | .sessionOpen _ _ => by first | exact total_next | exact total_unit | exact total_session | exact total_guard total_session rfl
  | .roleRequest _ _ => by first | exact total_next | exact total_unit | exact total_session | exact total_guard total_session rfl
  | .challenge _ _ => by first | exact total_next | exact total_unit | exact total_session | exact total_guard total_session rfl
  | .response _ _ => by first | exact total_next | exact total_unit | exact total_session | exact total_guard total_session rfl
  | .roleLockoutEnd _ => by first | exact total_next | exact total_unit | exact total_session | exact total_guard total_session rfl
  | .sessionTimeout _ => by first | exact total_next | exact total_unit | exact total_session | exact total_guard total_session rfl
  | .sessionClose _ _ => by first | exact total_next | exact total_unit | exact total_session | exact total_guard total_session rfl
  | .datagram _ _ _ => by first | exact total_next | exact total_unit | exact total_session | exact total_guard total_session rfl
  | .transferTimeout _ => by first | exact total_next | exact total_unit | exact total_session | exact total_guard total_session rfl
  | .store _ _ => by first | exact total_next | exact total_unit | exact total_session | exact total_guard total_session rfl
  | .storeComplete => by first | exact total_next | exact total_unit | exact total_session | exact total_guard total_session rfl
  | .restoreDefaults _ _ => by first | exact total_next | exact total_unit | exact total_session | exact total_guard total_session rfl
  | .persistentWrite _ _ _ _ _ _ => by first | exact total_next | exact total_unit | exact total_session | exact total_guard total_session rfl
  | .layerBuild => by first | exact total_next | exact total_unit | exact total_session | exact total_guard total_session rfl
  | .persistSnapshot _ _ => by first | exact total_next | exact total_unit | exact total_session | exact total_guard total_session rfl
  | .confirmCommand _ _ => by first | exact total_next | exact total_unit | exact total_session | exact total_guard total_session rfl
  | .eolFuse _ _ => by first | exact total_next | exact total_unit | exact total_session | exact total_guard total_session rfl
  | .abortTransfer _ _ => by first | exact total_next | exact total_unit | exact total_session | exact total_guard total_session rfl
  | .abortFunction _ _ => by first | exact total_next | exact total_unit | exact total_session | exact total_guard total_session rfl
  | .abortAllFunctions _ => by first | exact total_next | exact total_unit | exact total_session | exact total_guard total_session rfl
  | .abortPassageReset _ => by first | exact total_next | exact total_unit | exact total_session | exact total_guard total_session rfl
  | .abortUpdate _ => by first | exact total_next | exact total_unit | exact total_session | exact total_guard total_session rfl
  | .objectWrite _ _ _ _ => by first | exact total_next | exact total_unit | exact total_session | exact total_guard total_session rfl
  | .flowstoneRecord _ => by first | exact total_next | exact total_unit | exact total_session | exact total_guard total_session rfl
  | .suppressionSummary => by first | exact total_next | exact total_unit | exact total_session | exact total_guard total_session rfl
  | .flush => by first | exact total_next | exact total_unit | exact total_session | exact total_guard total_session rfl
  | .flushComplete => by first | exact total_next | exact total_unit | exact total_session | exact total_guard total_session rfl
  | .flushFailed _ => by first | exact total_next | exact total_unit | exact total_session | exact total_guard total_session rfl
  | .tornGroupDiscard _ => by first | exact total_next | exact total_unit | exact total_session | exact total_guard total_session rfl
  | .readWindow _ => by first | exact total_next | exact total_unit | exact total_session | exact total_guard total_session rfl
  | .clearHide _ => by first | exact total_next | exact total_unit | exact total_session | exact total_guard total_session rfl
  | .clearFot _ => by first | exact total_next | exact total_unit | exact total_session | exact total_guard total_session rfl
  | .clearCounters _ => by first | exact total_next | exact total_unit | exact total_session | exact total_guard total_session rfl
  | .eraseRing _ => by first | exact total_next | exact total_unit | exact total_session | exact total_guard total_session rfl
  | .fotLookup _ _ => by first | exact total_next | exact total_unit | exact total_session | exact total_guard total_session rfl
  | .verticalBlanking _ => by first | exact total_next | exact total_unit | exact total_session | exact total_guard total_session rfl
  | .linePacket _ _ => by first | exact total_next | exact total_unit | exact total_session | exact total_guard total_session rfl
  | .linkTraining _ => by first | exact total_next | exact total_unit | exact total_session | exact total_guard total_session rfl
  | .locknLow => by first | exact total_next | exact total_unit | exact total_session | exact total_guard total_session rfl
  | .panelPowerUp => by first | exact total_next | exact total_unit | exact total_session | exact total_guard total_session rfl
  | .panelPowerDown => by first | exact total_next | exact total_unit | exact total_session | exact total_guard total_session rfl
  | .fastPowerDown => by first | exact total_next | exact total_unit | exact total_session | exact total_guard total_session rfl
  | .vpnlFault => by first | exact total_next | exact total_unit | exact total_session | exact total_guard total_session rfl
  | .panelRetry => by first | exact total_next | exact total_unit | exact total_session | exact total_guard total_session rfl
  | .panelCommand _ _ => by first | exact total_next | exact total_unit | exact total_session | exact total_guard total_session rfl
  | .panelEnableWrite _ _ => by first | exact total_next | exact total_unit | exact total_session | exact total_guard total_session rfl
  | .vcomFault _ => by first | exact total_next | exact total_unit | exact total_session | exact total_guard total_session rfl
  | .vtSwapRequest => by first | exact total_next | exact total_unit | exact total_session | exact total_guard total_session rfl
  | .brownoutOpen _ => by first | exact total_next | exact total_unit | exact total_session | exact total_guard total_session rfl
  | .brownoutClose _ _ => by first | exact total_next | exact total_unit | exact total_session | exact total_guard total_session rfl
  | .resetLevelHoldup _ => by first | exact total_next | exact total_unit | exact total_session | exact total_guard total_session rfl
  | .resetLevelNoHoldup => by first | exact total_next | exact total_unit | exact total_session | exact total_guard total_session rfl
  | .holdupArmed _ _ => by first | exact total_next | exact total_unit | exact total_session | exact total_guard total_session rfl
  | .holdupRestartWaitEnd => by first | exact total_next | exact total_unit | exact total_session | exact total_guard total_session rfl
  | .batteryOvervoltage _ => by first | exact total_next | exact total_unit | exact total_session | exact total_guard total_session rfl
  | .systemVoltageDetect _ => by first | exact total_next | exact total_unit | exact total_session | exact total_guard total_session rfl
  | .belayPowerLoss => by first | exact total_next | exact total_unit | exact total_session | exact total_guard total_session rfl
  | .thermalThrottle _ => by first | exact total_next | exact total_unit | exact total_session | exact total_guard total_session rfl
  | .thermalCritical => by first | exact total_next | exact total_unit | exact total_session | exact total_guard total_session rfl
  | .updateOffer (.session n) b => by
    show Total (sessionOk n) (execUpdateOffer (.session n) b s)
    unfold execUpdateOffer; exact total_session
  | .updateOffer (.fleet _) _ => total_next
  | .updateBlock (.session n) a b => by
    show Total (sessionOk n) (execUpdateBlock (.session n) a b s)
    unfold execUpdateBlock; exact total_session
  | .updateBlock (.fleet _) _ _ => total_next
  | .fleetUpdateMessage _ _ => by first | exact total_next | exact total_unit | exact total_session | exact total_guard total_session rfl
  | .updateCommit _ => total_update
  | .updateAbort _ => total_update
  | .withdrawStaged _ _ => total_update
  | .confirmRegion _ _ => total_update
  | .fallBack _ _ => total_update
  | .leaveLadder _ => by first | exact total_next | exact total_unit | exact total_session | exact total_guard total_session rfl
  | .galHandover _ _ => by first | exact total_next | exact total_unit | exact total_session | exact total_guard total_session rfl
  | .mdpLiveApply => by first | exact total_next | exact total_unit | exact total_session | exact total_guard total_session rfl
  | .lanHandover => by first | exact total_next | exact total_unit | exact total_session | exact total_guard total_session rfl
  | .imageStaged => by first | exact total_next | exact total_unit | exact total_session | exact total_guard total_session rfl
  | .stagedCopy _ _ _ _ => by first | exact total_next | exact total_unit | exact total_session | exact total_guard total_session rfl
  | .orphanHoldExpiry => by first | exact total_next | exact total_unit | exact total_session | exact total_guard total_session rfl
  | .probationEnd _ => by first | exact total_next | exact total_unit | exact total_session | exact total_guard total_session rfl
  | .engineRestartFallBack _ => by first | exact total_next | exact total_unit | exact total_session | exact total_guard total_session rfl
  | .ladderImageWrite _ _ _ _ => by first | exact total_next | exact total_unit | exact total_session | exact total_guard total_session rfl
  | .ignKeysvcFall _ _ => by first | exact total_next | exact total_unit | exact total_session | exact total_guard total_session rfl
  | .announceReceive _ _ _ => by first | exact total_next | exact total_unit | exact total_session | exact total_guard total_session rfl
  | .nextParcelNorWrite => by first | exact total_next | exact total_unit | exact total_session | exact total_guard total_session rfl
  | .usbVbusChange _ => by first | exact total_next | exact total_unit | exact total_session | exact total_guard total_session rfl
  | .sessionLinkDownExpiry _ => by first | exact total_next | exact total_unit | exact total_session | exact total_guard total_session rfl

end Sys2Proof.Machine
end

