-- ==== Sys2Proof/Tests/Slice0.lean ====
section
/-! SUPPORT. The tests: each check of WellFormed refuses an ill-formed command, what the table's words spell, and, for each statement,
states and operands that meet its hypotheses. -/

namespace Sys2Proof.Tests
open Sys2Proof Sys2Proof.Machine

set_option Elab.async false

/-! ## States for the witnesses -/

/-- The state after reset, but in a device state, with IGN high, the C8 bus up, and session 0 open in the Factory role. -/
def dv (d : Dev) : State :=
  { State.reset with
    pw := { State.reset.pw with dev := d, ign := true }
    serv := { State.reset.serv with sess := updAt State.reset.serv.sess 0 fun x => { x with opened := true, role := 4, source := 9 } }
    can := { State.reset.can with ch := updAt State.reset.can.ch 7 fun c => { c with state := 2 } } }

/-- As `dv`, in Run. -/
def rn : State := dv .run

/-- Objects set to integers, one by one. -/
def st (s : State) (l : List (Nat × Nat × Int)) : State := l.foldl (fun s e => s.put e.1 e.2.1 (.int e.2.2)) s

/-- A second after reset. -/
def late (s : State) : State := s.updTm fun t => { t with now := 1000000000, mono := 1000000000 }

/-- A million seconds after reset. -/
def aged (s : State) : State := s.updTm fun t => { t with now := 1000000000000000, mono := 1000000000000000 }

/-- Session 0 changed. -/
def ses (s : State) (f : Sess → Sess) : State := s.updSess 0 f

/-- Session 0 with a role. -/
def ro (s : State) (r : Nat) : State := ses s fun x => { x with role := r }

/-- Session 0 on a transport. -/
def tr (s : State) (t : Transport) : State := ses s fun x => { x with transport := t }
/-! ## Ill-formed commands are refused -/

/-- None of the commands is well formed. -/
def noneWf (l : List Instr) : Bool := l.all fun c => !c.wf

theorem test_wf_two_units : noneWf [.canWake 2 .errorCount, .driveSupplyNotPresent 2 true 33000, .driveSupplyPresent 2,
  .antennaFeedFault 2 true, .antennaFeedRetry 2 true] = true := by decide
theorem test_wf_sessions : noneWf [.deviceStateRequestRun 16, .eventCancel 16 0, .calStart 16, .leadEnable 16 1, .traceArm 16, .turnNow 16,
  .loadStart 16, .skyColdStart 16, .acceptRefusedStep 16, .frameSend 16 [], .challenge 16 [], .store 16 1, .abortUpdate 16,
  .objectWrite 16 0x2100 1 [], .readWindow 16, .panelCommand 16 1, .leaveLadder 16, .ladderImageWrite 16 [] [] []] = true := by decide
theorem test_wf_stations : noneWf [.stationStopTimeout 10, .stationConfigWrite 0 10 1 0, .stationConfigWrite 16 0 1 0, .kernelWrite 0 10 1 0]
  = true := by decide
theorem test_wf_kernel_proposal : noneWf [.calProposalReady 0 0 [1, 2, 3] 0] = true := by decide
theorem test_wf_trims : noneWf [.transitTrim [(3, 0), (5, 0)]] = true := by decide
theorem test_wf_slots_of_a_session : noneWf [.leadSlotWrite 0 8 1 0, .leadSlotWrite 16 0 1 0, .suggestionAccept 0 8, .suggestionReject 0 8,
  .optSlotWrite 0 8 1 0, .leaveBusOff 0 8, .canChannelConfigWrite 0 8 1 0] = true := by decide
theorem test_wf_three_units : noneWf [.sensorSupplyFoldback 3, .sensorSupplyRetry 3 true, .ptpSyncReceive 3 0 0, .ptpSyncDepart 3,
  .pdelayExchange 3 0, .ethLinkChange 3 true, .announceReceive 3 true 0, .sessionLinkDownExpiry 3] = true := by decide
theorem test_wf_impact_channels : noneWf [.pulseWindowClose 16 0 [], .lsChannelTest 16 none false, .lsNoisyExpiry 16 true, .sentTimeout 16,
  .lossChannelWrite 0 16 1 0, .lossChannelWrite 16 0 1 0] = true := by decide
theorem test_wf_analogue_inputs : noneWf [.aiRangeFault 24 0, .aiRangeHoldExpiry 24, .shuntOpen 24, .shuntRetest 24 0, .aiConfigWrite 0 24 1 0,
  .aiConfigWrite 16 0 1 0] = true := by decide
theorem test_wf_shafts : noneWf [.shaftEdge 12 0 ⟨5000, 0⟩ 0, .indexEdge 12 0, .shaftZeroTimeout 12, .shaftFaultClearExpiry 12] = true := by decide
theorem test_wf_contexts : noneWf [.contextEnable 0 128, .contextEnable 16 0, .contextDisable 0 128, .swapRequest 0 128 1, .repClear 0 128,
  .repSave 0 128, .compTableWrite 0 128 1 [], .repMemoryLoad 128] = true := by decide
theorem test_wf_coefficient_sets : noneWf [.coefSetWrite 0 0 2 [], .coefSetWrite 0 128 0 [], .coefSetWrite 16 0 0 []] = true := by decide
theorem test_wf_functions : noneWf [.functionModeManual 0 48, .functionModeAuto 16 0, .committedSetpointWrite 0 48 0, .manualCommandWrite 0 48 0,
  .functionCommand 0 48 1, .outputCommandWrite 0 48 1, .fieldFaultCommand 0 48 1, .pinModeWrite 0 48 1] = true := by decide
theorem test_wf_eight_units : noneWf [.suggestionExpiry 8, .operatorHoldExpiry 8, .canFrameTransmit 8 .completed 0 0, .busOff 8, .busOffRecovery 8,
  .txdTimeout 8, .protocolException 8] = true := by decide
theorem test_wf_engagement : noneWf [.steerEngage (some 16)] = true := by decide
theorem test_wf_nearest_pass : noneWf [.nearestPass 0 4, .nearestPass 16 5] = true := by decide
theorem test_wf_disengagement : noneWf [.steerDisengage 0, .steerDisengage 0x10] = true := by decide
theorem test_wf_edge_channel : noneWf [.edgeFrame 0 0 0 [], .edgeFrame 9 0 0 []] = true := by decide
theorem test_wf_field : noneWf [.mapOpen (.session 16), .mapClose (.session 16)] = true := by decide
theorem test_wf_banks : noneWf [.bankEnable 6 true, .bankResumeSlot 6, .highSideTrip 6, .valveGuardExpiry 6, .valveGuardEnd 6, .bankCommand 0 6 1]
  = true := by decide
theorem test_wf_switching_channels : noneWf [.svBoostEnd 15 0, .svBoostEnd 32 0, .svPeakEnd 15, .svQuenchEnd 32, .moveDetect 15 none] = true := by decide
theorem test_wf_boost_bank : noneWf [.svBoostGranted 1 0, .svBoostGranted 6 0] = true := by decide
theorem test_wf_channels : noneWf [.coilTempUpdate 32 none 0, .valveOvercurrent 32, .shortedCoil 32, .testCommandTimeout 32, .testCommand 0 32 1,
  .valveFaultCommand 16 0 1] = true := by decide
theorem test_wf_proportional_channel : noneWf [.stuck 16 0 0] = true := by decide
theorem test_wf_valve_objects : noneWf [.valveConfigWrite 0 0x404B 1 (.int 0), .valveConfigWrite 0 0x48B0 1 (.int 0), .valveConfigWrite 16 0x4000 1 (.int 0)]
  = true := by decide
theorem test_wf_pins : noneWf [.fieldInputChange 48 12000 0, .fieldOvercurrent 48, .fieldOvertempStage 48 true, .noLoadCurrent 48 true] = true := by decide
theorem test_wf_groups : noneWf [.groupEnable 4 true, .groupRestoreSlot 4, .groupOverload 4, .fieldGuardEnd 4, .addressClaim 4 .cannotClaim,
  .groupCommand 0 4 1] = true := by decide
theorem test_wf_joined_pins : noneWf [.pinsJoined 48 0 true, .pinsJoined 0 48 true, .pinsJoined 3 3 true] = true := by decide
theorem test_wf_search : noneWf [.searchBlock 1 1 0] = true := by decide
theorem test_wf_skylight_channels : noneWf [.detectionVerify 384 true, .cycleSlip 384] = true := by decide
theorem test_wf_pps : noneWf [.ppsEdge 1 0, .ppsEdge 0 2001, .ppsEdge 0 (-2001)] = true := by decide
theorem test_wf_network_objects : noneWf [.netConfigWrite 0 0x5604 1 (.int 0), .netConfigWrite 0 0x5613 1 (.int 0), .netConfigWrite 16 0x5200 1 (.int 0)]
  = true := by decide
theorem test_wf_message_objects : noneWf [.resumeObject 0 8 0, .resumeObject 0 0 64, .resumeObject 16 0 0] = true := by decide
theorem test_wf_datagram : noneWf [.datagram .c8 0 []] = true := by decide
theorem test_wf_layers : noneWf [.persistentWrite 0 0 (.int 0) true true true, .persistentWrite 4 0 (.int 0) true true true] = true := by decide
theorem test_wf_update_source : noneWf [.updateOffer (.session 16) [], .updateCommit (.session 16), .fallBack (.session 16) 1] = true := by decide
theorem test_wf_staged_regions : noneWf [.stagedCopy 4 true true true, .stagedCopy 9 true true true] = true := by decide
theorem test_wf_probation : noneWf [.probationEnd 0, .probationEnd 9] = true := by decide
theorem test_wf_live_regions : noneWf [.engineRestartFallBack 0, .engineRestartFallBack 4] = true := by decide

/-- An ill-formed command is refused by name, a well-formed one at the end of the same range is not. -/
theorem test_refused_unit : Machine.exec (.sensorSupplyFoldback 3) Machine.State.reset = .refused .noSuchUnit := rfl
theorem test_last_unit : (Instr.sensorSupplyFoldback 2).wf = true ∧ (Instr.eventCancel 15 0).wf = true ∧ (Instr.svPeakEnd 31).wf = true ∧
  (Instr.cycleSlip 383).wf = true ∧ (Instr.ppsEdge 0 2000).wf = true := by decide

/-! ## Words -/

/-- No row of the table gives bits: no word spells a command, and putting a word in front changes nothing. -/
theorem test_no_word : decodeTableWord 16 0x1234 = none ∧ State.reset.withFetchWord 16 0x1234 = State.reset := ⟨rfl, rfl⟩

/-- An RTCM frame of type 1077 with 18 further bytes of zeros; its last three bytes are the CRC-24Q of 12 R280. -/
def rtcm1077 : Bytes := [0xD3#8, 0x00#8, 0x14#8, 0x43#8, 0x50#8, 0x00#8, 0x00#8, 0x00#8, 0x00#8, 0x00#8, 0x00#8, 0x00#8, 0x00#8, 0x00#8, 0x00#8, 0x00#8, 0x00#8, 0x00#8, 0x00#8, 0x00#8, 0x00#8, 0x00#8, 0x00#8, 0x80#8, 0x1C#8, 0xFC#8]

def zeros8 : Bytes := List.replicate 8 0#8

/-- A link is up on every port, the PTP ports are enabled and in a state, and machine time is taken from port 0. -/
def netOn (state : Nat) : State :=
  (st rn [(0x5610, 1, 1), (0x5611, 1, 1), (0x5612, 1, 1), (0x5200, 4, 1), (0x5200, 5, 0)]).updNet fun n =>
    { n with ports := List.replicate 4 { link := true }, ptp := List.replicate 3 { state := state } }

/-- LS16 in its second millisecond, on S3. -/
def lsOn : State := rn.updLs 15 fun x => { x with station := 3, gain := 1, egrain := 200000 }

/-- A pulse of a grain and one of straw, counts at 1 MSa/s. -/
def grainPulse : List Int := List.replicate 15 400 ++ List.replicate 15 (-300) ++ List.replicate 15 200 ++ List.replicate 15 (-100)
def strawPulse : List Int := List.replicate 60 300

/-- An event as in 02 Table 02-10: station S1, function 0, action and source 1. -/
def eventBytes : Bytes := List.replicate 10 0#8 ++ [1#8, 1#8, 0#8, 0#8, 0#8, 0#8, 0#8, 0#8, 0#8, 0x10#8, 0#8, 0#8, 0#8, 0#8]

/-- The kernel of S3 sums to 32,768. -/
def kern : State := rn

def goodCal : CalRun := { state := 2, station := 3, parcels := 500, transit := 2000000, step := 1000, kernel := List.replicate 16 2048, quality := 30000 }
def enoughCal : CalRun := { state := 1, parcels := 400, sum := 400, sumSq := 800 }
/-- What a calibration that can be accepted leaves. -/
def accepted (s : State) : State := match acceptCal s with | .ok t => t | .error _ => s
theorem acceptCal_ok {s : State} (h : (match acceptCal s with | .ok _ => true | .error _ => false) = true) : acceptCal s = .ok (accepted s) := by
  unfold accepted; split <;> simp_all
def solNo : Solution := ⟨0, false, 0, 0, 0, 0, 0, 0, 0, 0, false, 0, 0, 0, 0, 0, 0, 0, 0, false, 0, none, 0, [], []⟩
def solYes : Solution := { solNo with valid := true, sats := 12 }

/-- The takeover pin reads high for its window. -/
def tko : State := (st rn [(0x3C00, 7, 0)]).updTm (fun t => { t with mono := 1000000000 }) |>.updSteer fun x => { x with lasting := [(1, 0)] }
/-- A condition of Column-A has been present since time 0. -/
def condNow (c ms : Nat) : State :=
  ((st rn [(0x3C00, 1, 47)]).updTm fun t => { t with mono := ms * 1000000 }).updFn 47 (fun f => { f with w := 100000 }) |>.updSteer fun x =>
    { x with lasting := [(c, 0)] }

/-- Steering is configured for function 47, and the row sensor reads. -/
def steerOk : State :=
  (((st rn [(0x3C10, 1, 3), (0x3C00, 1, 47), (0x282F, 8, 0), (0x282F, 0xC, 0), (0x282F, 2, 1), (0x3000, 2, 47), (0x3000, 4, 0xFF), (0x3000, 9, 1),
    (0x3000, 0xA, 2), (0x282F, 4, -100000), (0x282F, 5, 100000), (0x3C00, 5, 100000), (0x3C00, 7, 0x81), (0x3C00, 8, 3), (0x3C00, 0xA, 0),
    (0x3C00, 2, 0xFF), (0x3C38, 6, 0x40)]).updCtx 0 fun x => { x with enabled := true }).updSup 0 fun x => { x with present := true }).updAi 0
    fun a => { a with valid := true }
/-- The row sensor reads far off the row. -/
def steerFar : State := steerOk.updAi 0 fun a => { a with eng := 100000, first := 100000, mean := some 100000, filtered := 100000 }

/-- A pin of a present group is an input. -/
def pinRun : State := ((st rn [(0x3C00, 0xC, 0), (0x4400, 1, 1)]).updGrp 0 fun g => { g with missing := false }).updTm fun t => { t with mono := 1000000000 }

def blk (id : Nat) : PBlk := { id := id, up := true, value := 0, first := 0, last := 9, ended := some 0 }
def done (id : Nat) : PBlk := { blk id with judged := some [] }
def cyc (l : List PBlk) : OptCycle := { slot := 0, fn := 0, c0 := 0, vUp := 1, vDown := -1, station := 3, advance := 0, cfg := [0, 0, 0, 1, 0, 0, 0], blocks := l }
/-- A cycle runs with these blocks, which ended 30 s ago. -/
def optRun (l : List PBlk) : State :=
  ((rn.updTm fun t => { t with mono := 30000000000 }).updFn 0 fun f => { f with mode := 2 }).updOpt fun o => { o with cycle := some (cyc l) }

def fleetOn (k : Nat) : State := (st rn [(0x3E20, 1, 1), (0x3E20, 4, 1)]).updFleet fun x => { x with link := k }
def link2 : State := fleetOn 2

/-- The drive supplies are present. -/
def vOn : State := (rn.updSup 0 fun x => { x with present := true }).updSup 1 fun x => { x with present := true }
/-- Channel n is powered. -/
def drive (n : Nat) : State := (vOn.updBank (bankOf n) fun b => { b with enable := true }).updCh n fun c => { c with live := true }
def sentGood : SentFrame := ⟨300, 0, List.replicate 8 12, [0, 0, 0, 0, 0, 0, 0, 5], 0, none⟩
def grpIn : State := rn.updGrp 3 fun g => { g with missing := false }

def frame1 : CanFrame := ⟨false, 0x123, false, false, [1#8]⟩
/-- C8 runs with a frame in its last object. -/
def canTx (f : CanObj → CanObj) : State := rn.updCobj 7 63 fun o => f { o with pending := some frame1 }

theorem crcRefBits_lt (n : Nat) : ∀ r, r < 2 ^ 32 → crcRefBits 0xEDB88320 n r < 2 ^ 32 := by
  induction n with
  | zero => exact fun r h => h
  | succ n ih =>
    intro r h
    refine ih _ ?_
    unfold crcRefStep
    split
    · exact Nat.xor_lt_two_pow (by omega) (by decide)
    · omega
theorem crc32_lt (l : List Nat) (h : ∀ x ∈ l, x < 256) : crc32 l < 2 ^ 32 := by
  refine Nat.xor_lt_two_pow ?_ (by decide)
  have : ∀ r, r < 2 ^ 32 → l.foldl (fun r b => crcRefBits 0xEDB88320 8 (Nat.xor r b)) r < 2 ^ 32 := by
    induction l with
    | nil => exact fun r h => h
    | cons a l ih =>
      intro r hr
      refine ih (fun x hx => h x (List.mem_cons_of_mem _ hx)) _ (crcRefBits_lt 8 _ (Nat.xor_lt_two_pow hr ?_))
      have := h a List.mem_cons_self
      omega
  exact this _ (by decide)

/-- A tile whose CRC is right. -/
def tileOf (d : Bytes) : Bytes := leBytes 4 (crc32 (nats d)) ++ d
theorem tile_ok (d : Bytes) (h : d.length = 32796) : tileCheckOk (tileOf d) = true := by
  have hn : ∀ x ∈ nats d, x < 256 := by
    intro x hx
    obtain ⟨b, -, rfl⟩ := List.mem_map.1 hx
    exact b.isLt
  have hc := crc32_lt (nats d) hn
  unfold tileCheckOk tileOf
  have h1 : (leBytes 4 (crc32 (nats d)) ++ d).length = 32800 := by rw [List.length_append, h]; simp [leBytes]
  have h2 : (leBytes 4 (crc32 (nats d)) ++ d).drop 4 = d := rfl
  have h3 : fieldLe (leBytes 4 (crc32 (nats d)) ++ d) 0 4 = crc32 (nats d) := by
    generalize crc32 (nats d) = n at *
    simp only [Machine.fieldLe, leBytes, List.drop_zero, List.cons_append, List.nil_append, List.take_succ_cons, List.take_zero, leNat, byteOf,
      BitVec.toNat_ofNat]
    omega
  rw [h1, h2, h3]; simp
theorem zeros_len : (List.replicate 32796 0#8 : Bytes).length = 32796 := List.length_replicate
theorem tile1_len : (List.replicate 4 0#8 ++ (1#8 :: List.replicate 32791 0#8) : Bytes).length = 32796 := by
  rw [List.length_append, List.length_cons, List.length_replicate, List.length_replicate]
def tile0 : Bytes := tileOf (List.replicate 32796 0#8)
/-- As tile0, with generation 1. -/
def tile1 : Bytes := tileOf (List.replicate 4 0#8 ++ (1#8 :: List.replicate 32791 0#8))

theorem steerOk_near (h : Config.atanDeg 0 1 = 0) : (demandWith (forRequest steerOk 3) (0, 0, 0) 0 - ((wheelAngle steerOk 1).1 : Rat)).abs ≤ (steerOk.nat 0x3C00 0x11 : Rat) := by
  unfold demandWith
  have : ∀ x : Rat, x = 0 → Config.atanDeg x 1 = 0 := fun x e => e ▸ h
  rw [this _ (by decide +kernel)]
  decide +kernel

theorem steerFar_far (h : Config.atanDeg 0 1 = 0) : (steerFar.nat 0x3C00 0x11 : Rat) < (demandWith (forRequest steerFar 3) (100000, 0, 0) 0 - ((wheelAngle steerFar 1).1 : Rat)).abs := by
  unfold demandWith
  have : ∀ x : Rat, x = 0 → Config.atanDeg x 1 = 0 := fun x e => e ▸ h
  rw [this _ (by decide +kernel)]
  decide +kernel

/-- A record of 0x5420.02: frame1 with a length and flags. -/
def frameRec (len flags : Nat) : Bytes :=
  (1#8 :: List.replicate 63 0#8) ++ [0x23#8, 1#8, 0#8, 0#8, 0#8, 0#8, BitVec.ofNat 8 len, BitVec.ofNat 8 flags]

theorem not_c8 {s : State} (h : s.serv.sess.all (fun x => !x.opened || x.transport != .c8) = true) :
    ∀ m, (s.sessOf m).opened = true → (s.sessOf m).transport ≠ .c8 := by
  intro m ho
  unfold State.sessOf at *
  by_cases hm : m < s.serv.sess.length
  · rw [List.getD_eq_getElem _ _ hm] at *
    have := List.all_eq_true.1 h _ (List.getElem_mem hm)
    simpa [ho] using this
  · rw [List.getD_eq_default _ _ (by omega)] at ho; cases ho

def rec1 (code : Nat) : FlowRec := ⟨0, 0, 0, code, 0, 0, 0xF, 0xFFFFFFFF, [], []⟩

/-- The panel in a state of 17 Table 17-3, switched off by 0x5C00.01. -/
def panel (k : Nat) : State := (st rn [(0x5C00, 1, 0)]).updLan fun x => { x with state := k }
def covered : State := (panel 4).updLan fun x => { x with cover := { x.cover with on := true } }
def blankIn : BlankIn := ⟨none, 0, true, 0⟩
theorem cover_crc (n : Nat) : ({ blankIn with crcRead := n } : BlankIn).crcRead = n := rfl

def tgt (k : Nat) : Target := ⟨3, 0x3C0007, some ⟨3, .int 5, true⟩, none, none, k⟩
/-- A target of the Column layer selected in the window. -/
def confirm (k : Nat) : State :=
  (ses rn fun x => { x with win := { x.win with persistLayer := 3, persistTarget := 0x3C0007 } }).updPer fun p => { p with targets := [tgt k] }

def chal0 : Chal := ⟨List.replicate 16 0#8, 0, false⟩
def challenged : State := ses (rn.updServ fun v => { v with serviceKey := List.replicate 32 0#8 }) fun x => { x with chal := some chal0, roleReq := some 2 }

def offerPkg : Bytes := [0x4D#8, 0x44#8, 1#8, 3#8] ++ List.replicate 8 0#8 ++ [1#8] ++ List.replicate 219 0#8
def offer1 : Offer := { id := 1, region := 1, header := List.replicate 48 0#8 ++ sha384 [], sig := [], digest := [], total := 0 }
/-- Source k owns the Antechamber with offer1. -/
def upOn (k : Nat) : State := rn.updUpd fun u => { u with owner := some k, state := 1, cur := some offer1 }
theorem drop_pre (x : Bytes) : (List.replicate 48 0#8 ++ x).drop 48 = x := rfl
theorem bodyOk_1 {s : State} (h : s.upd.body = []) : bodyOk offer1 s = true := by
  unfold bodyOk; rw [h, if_neg (by decide)]
  exact Bool.and_eq_true_iff.2 ⟨by decide +kernel, beq_iff_eq.2 (drop_pre _).symm⟩
def ofr (c : Nat) : Offer := { id := 1, region := c, header := List.replicate 96 0#8, sig := [], digest := [], total := 0 }
/-- A committed update of region c. -/
def committed (c : Nat) : State := rn.updUpd fun u => { u with owner := some 0, state := 3, cur := some (ofr c), committed := true }
def cartMsg : Bytes := List.replicate 12 0#8 ++ [20#8, 0#8, 1#8, 1#8, 0#8, 0#8, 3#8] ++ List.replicate 17 0#8

def c8Sleeps : State := (dv .park).updCch 7 fun x => { x with state := 5 }
def armed (d : Dev) : State := (dv d).updBelay fun b => { b with holdup := .armed }
def charging : State := rn.updBelay fun b => { b with holdup := .charging }

/-- Session n has an unfinished transfer. -/
def busy (n : Nat) : State := rn.updSess n fun x => { x with opened := true, transfer := some ⟨0x2103, 1, 1, [], 0⟩ }
def full : State := rn.updServ fun v => { v with sess := List.replicate 16 { opened := true } }
def ask (op sess flags seq index sub offset : Nat) (data : Bytes) : Request := ⟨op, sess, flags, seq, index, sub, offset, 0, data, []⟩
/-- The bytes of a request (15 Table 15-6). -/
def reqBytes (q : Request) : Bytes :=
  [0x4C#8, 0x44#8, 1#8] ++ leBytes 1 q.opcode ++ leBytes 1 q.session ++ leBytes 1 q.flags ++ leBytes 2 q.seq ++ leBytes 2 q.index ++ leBytes 1 q.sub ++
    [0#8] ++ leBytes 4 q.offset ++ leBytes 2 q.data.length ++ [0#8, 0#8] ++ leBytes 4 q.status ++ q.data
/-- Session 0 on USB without a role. -/
def usb0 : State := tr (ro rn 0) .usb
def half : State := ses usb0 fun x => { x with transfer := some ⟨0x2FFF, 1, 2, [7#8], 0⟩ }
theorem not_new {s : State} {q : Request} {l : Nat} (h : (s.sessOf q.session).lastSeq = some l)
    (hk : ∀ k, k < 1025 → 1 ≤ k → q.seq ≠ (l + k) % 65536) : ¬ s.seqNew q := by
  rintro (h' | ⟨m, k, hm, -, h1, h2, h3⟩)
  · rw [h] at h'; cases h'
  · rw [h] at hm; cases hm; exact hk k (by omega) h1 h3

/-! ## Witnesses that rest on a signature, and states that meet the invariant -/

def pkgHdr : Bytes := [0x4D#8, 0x44#8, 1#8, 3#8, 1#8, 0#8, 0#8, 0#8, 1#8, 0#8, 0#8, 0#8, 1#8, 0#8, 0#8, 0#8, 7#8] ++ List.replicate 15 0#8
def pkgBody : Bytes := [0xAF#8, 0x48#8, 1#8, 0#8, 1#8, 0#8, 1#8]
def pkg : Package := ⟨1, 1, 3, [⟨0x48AF, 1, [1#8]⟩]⟩
def pkgOffer : Offer := { id := 1, region := 4, header := pkgHdr ++ List.replicate 64 0#8, sig := [], digest := [], total := 103 }
/-- A committed package with a signature of zeros. -/
def pkgRun : State :=
  rn.updUpd fun u => { u with owner := some 0, state := 3, cur := some pkgOffer, committed := true, body := pkgBody ++ List.replicate 96 0#8 }

theorem test_hyp_package (h : Config.ecdsaP384 Config.mdpPublicKey (sha384 (pkgHdr ++ pkgBody)) (List.replicate 96 0#8) = true) :
    ∃ s o p u, committedFor 4 s = some o ∧ liveMay s = true ∧
      packageOf s (o.header.take 32) (s.upd.body.take (o.total - 96)) (s.upd.body.drop (o.total - 96)) = some p ∧
      applyLive p s = (none, u) ∧ 3 < u.upd.regions.length := by
  refine ⟨pkgRun, pkgOffer, pkg, (applyLive pkg pkgRun).2, rfl, rfl, ?_, Prod.ext ?_ rfl, by decide +kernel⟩
  · unfold packageOf
    rw [if_pos ⟨by decide +kernel, by decide +kernel, by decide +kernel, h⟩]
    decide +kernel
  · show (applyLive pkg pkgRun).1 = none
    decide +kernel

/-- A header of 19 Table 19-2 for region 1: the recovery image of one byte of zeros. -/
def imgHdr : Bytes :=
  [0x4C#8, 0x49#8, 0#8, 1#8] ++ List.replicate 14 0#8 ++ [1#8, 0#8, 1#8, 3#8] ++ List.replicate 14 0#8 ++ [1#8] ++ List.replicate 11 0#8 ++ sha384 [0#8]

theorem test_hyp_ladder_image (h : Config.ecdsaP384 (Config.turyelKey 0) (sha384 imgHdr) (List.replicate 96 0#8) = true) :
    ∃ s n hdr sig body, s.serves n 0x5A10 ∧ ((s.sessOf n).role = 2 ∨ (s.sessOf n).role = 4) ∧ s.pw.dev = .ladder ∧ hdr.length = 96 ∧
      sig.length = 96 ∧ ladderFault hdr sig s = 0 ∧ body.length = offerTotal hdr ∧ sha384 body = hdr.drop 48 ∧
      headerRegion hdr - 1 < s.upd.regions.length := by
  have e : imageSigned imgHdr (List.replicate 96 0#8) = true := by
    unfold imageSigned
    have k : fieldLe imgHdr 19 1 = 0 := by decide +kernel
    rw [k, h]; rfl
  refine ⟨dv .ladder, 0, imgHdr, List.replicate 96 0#8, [0#8], by unfold State.serves; decide +kernel, .inr rfl, rfl, by decide +kernel,
    by decide +kernel, ?_, by decide +kernel, by decide +kernel, by decide +kernel⟩
  unfold ladderFault
  rw [e]
  decide +kernel

theorem test_hyp_wrong_response : ∃ s : State, ∃ n c r b, s.admits n 0x2100 4 (.bytes b) ∧ (s.sessOf n).chal = some c ∧ (s.sessOf n).roleReq = some r ∧
    c.used = false ∧ s.tm.mono ≤ c.time + 10000000000 ∧ hmac256 (s.roleKey r) (responseMessage c n r) ≠ b := by
  by_cases h : hmac256 (challenged.roleKey 2) (responseMessage chal0 0 2) = List.replicate 32 0#8
  · exact ⟨challenged, 0, chal0, 2, List.replicate 32 1#8, by unfold State.admits State.serves; decide +kernel, rfl, rfl, rfl, Nat.zero_le _,
      by rw [h]; decide +kernel⟩
  · exact ⟨challenged, 0, chal0, 2, List.replicate 32 0#8, by unfold State.admits State.serves; decide +kernel, rfl, rfl, rfl, Nat.zero_le _, h⟩

theorem test_inv (d : Dev) (h : d ∈ [Dev.run, .start]) : (dv d).Inv := by
  have hf : ∀ c, ((dv d).region c).fuse ≤ 63 := by
    intro c
    have e : (dv d).region c = (List.replicate 8 ({} : Region)).getD (c - 1) {} := rfl
    rw [e]
    by_cases hc : c - 1 < 8
    · rw [List.getD_eq_getElem _ _ (by simpa using hc), List.getElem_replicate]; decide
    · rw [List.getD_eq_default _ _ (by simpa using hc)]; decide
  simp only [List.mem_cons, List.not_mem_nil, or_false] at h
  rcases h with rfl | rfl
  · exact ⟨rfl, by decide +kernel, by decide +kernel, by decide +kernel, hf, .inl rfl, fun _ => rfl⟩
  · exact ⟨rfl, by decide +kernel, by decide +kernel, by decide +kernel, hf, .inr (by decide +kernel), fun e => by cases e⟩
theorem test_hyp_RollbackFuseOnlyRises : ∃ (s : State) (c : Instr) (t : State), s.Inv ∧ exec c s = .next t :=
  ⟨rn, .thermalThrottle true, _, test_inv _ (by decide), rfl⟩
theorem test_hyp_EnablesNeedTheDevice : ∃ s t : State, s.Inv ∧ step s = .next t ∧ (t.pw.dev.drives && t.pw.ign) = false :=
  ⟨dv .start, dv .start, test_inv _ (by decide), rfl, rfl⟩

/-- Context 0 in function 0 at 10 kHz, no context enabled: its placement is worked out by lemmas, for the search over 1,000 frames is long. -/
def pf : State := st rn [(0x3000,2,0),(0x3000,3,1)]

theorem pf_placed (l : Nat) : placed pf l = [] := by
  have h : ∀ n < 128, (pf.ctxAt n).enabled = false := by decide +kernel
  unfold placed indices
  rw [List.map_eq_nil_iff, List.filter_eq_nil_iff]
  intro n hn
  rw [h n (List.mem_range.1 hn)]
  simp

theorem laneLoads_nil : laneLoads [] = List.replicate 1000 0 := by simp [laneLoads]

theorem greatest_zero (n : Nat) : greatest (List.replicate n 0) = 0 := by
  unfold greatest
  induction n with
  | zero => rfl
  | succ n ih => simpa [List.replicate_succ] using ih

theorem pf_order : laneOrder pf = [0, 1, 2, 3] := by
  simp only [laneOrder, pf_placed, laneLoads_nil, greatest_zero]
  decide

theorem pf_outer : outerOf pf 0 = none := by decide +kernel

theorem pf_period : periodOf pf 0 = 1 := by decide +kernel

theorem pf_cost : runCost pf 0 = 128 := by decide +kernel

theorem pf_best : bestPhase (List.replicate 1000 0) 1 128 = (0, 128) := by
  have g : ∀ p < 1, (List.range (1000 / 1)).map (fun j => (List.replicate 1000 0).getD (p + j * 1) 0) = List.replicate 1000 0 := by
    intro p hp
    rw [List.eq_replicate_iff]
    refine ⟨by rw [List.length_map, List.length_range], fun b hb => ?_⟩
    obtain ⟨j, hj, rfl⟩ := List.mem_map.1 hb
    exact List.getD_replicate _ (by have := List.mem_range.1 hj; omega)
  unfold bestPhase
  rw [List.range_one]
  simp only [List.foldl_cons, List.foldl_nil, g 0 (by omega), greatest_zero]
  rfl

theorem test_hyp_PlacementFits : ∃ (s : State), ∃ n, ∃ lane, ∃ phase, placement s n = some (lane, phase) := by
  refine ⟨pf, 0, 0, 0, ?_⟩
  simp only [placement, pf_outer, pf_order, pf_period, pf_cost, pf_placed, laneLoads_nil, pf_best]
  rfl

/-! ## Each statement's hypotheses are met: for each of its clauses a state and operands -/

theorem test_hyp_StepRunsTheFront :
    (∃ (s : State), ∃ (c : Instr), ∃ rest, s.pending = c :: rest) := by
  · exact ⟨{ rn with pending := [.thermalThrottle true] }, .thermalThrottle true, [], by decide +kernel⟩
theorem test_hyp_DictionaryWrites :
    (∃ (s : State), ∃ sub, ∃ (v : Val), dictWf s.dict = true ∧ sub < 256) := by
  · exact ⟨rn, 3, .int 5, by decide +kernel⟩
theorem test_hyp_SkylightTracking :
    (∃ (s : State), ∃ a, a < 2 ∧ s.skyRuns = true ∧ (s.nat 0x5000 4).testBit a = true) ∧
    (∃ (s : State), ∃ a, a < 2 ∧ s.skyio.foldedAnt.contains a = true) ∧
    (∃ (s : State), ∃ sig, ∃ peak, ∃ ch, acquisition sig = true ∧ s.skyRuns = true ∧ (s.nat 0x5000 1).testBit sig = true ∧ freeChannel s.sky.channels
      = some ch ∧ 140 ≤ peak) ∧
    (∃ (s : State), ∃ sv, ∃ sig, ∃ peak, ∃ ch, acquisition sig = true ∧ s.skyRuns = true ∧ (s.nat 0x5000 1).testBit sig = true ∧ freeChannel
      s.sky.channels = some ch ∧ peak < 140 ∧ windowBlocks s.sky sig ≤ blocksDone s.sky.search sv sig + 1) ∧
    (∃ (s : State), ∃ ch, ch < 384 ∧ (s.sky.channels.getD ch {}).state = 1) ∧
    (∃ (s : State), ∃ ch, ch < 384 ∧ (s.sky.channels.getD ch {}).state = 4) ∧
    (∃ (s : State), s.skyRuns = true) := by
  refine ⟨?_, ?_, ?_, ?_, ?_, ?_, ?_⟩
  · exact ⟨st rn [(0x5000,4,3)], 1, by decide +kernel⟩
  · exact ⟨rn.updSkyio fun x => { x with foldedAnt := [1] }, 1, by decide +kernel⟩
  · exact ⟨st rn [(0x5000,1,1)], 0, 140, 0, by decide +kernel⟩
  · exact ⟨st rn [(0x5000,1,1)], 5, 0, 139, 0, by decide +kernel⟩
  · exact ⟨rn.updSky fun k => { k with channels := updAt k.channels 383 fun c => { c with state := 1 } }, 383, by decide +kernel⟩
  · exact ⟨rn.updSky fun k => { k with channels := updAt k.channels 383 fun c => { c with state := 4 } }, 383, by decide +kernel⟩
  · exact ⟨rn, by decide +kernel⟩
theorem test_hyp_SkylightEpochs :
    (∃ (s : State), ∃ (x : Solution), s.skyRuns = true ∧ x.epoch % 50000000 = 0 ∧ (x.valid = false ∨ 4 < x.excluded.length)) ∧
    (∃ (s : State), ∃ (x : Solution), s.skyRuns = true ∧ x.epoch % 50000000 = 0 ∧ x.valid = true ∧ x.excluded.length ≤ 4 ∧ clockPasses s x.offset =
      true ∧ s.sky.status ≠ 2) ∧
    (∃ (s : State), s.skyRuns = true ∧ s.sky.status = 0 ∧ s.sky.flags.testBit 0 = true ∧ s.tm.step = none) ∧
    (∃ (s : State), s.tm.slew.natAbs < 4) ∧
    (∃ (s : State), s.pw.dev = .shutdown ∧ s.sky.state ≠ 0) := by
  refine ⟨?_, ?_, ?_, ?_, ?_⟩
  · exact ⟨rn, solNo, by decide +kernel⟩
  · exact ⟨rn, solYes, by decide +kernel⟩
  · exact ⟨rn.updSky fun k => { k with flags := 1 }, by decide +kernel⟩
  · exact ⟨rn.updTm fun t => { t with slew := 3 }, by decide +kernel⟩
  · exact ⟨(dv .shutdown).updSky fun k => { k with state := 3 }, by decide +kernel⟩
theorem test_hyp_SkylightInterfaces :
    (∃ (s : State), ∃ (fl : Bool), ∃ f, s.skyRuns = true ∧ s.nat 0x5000 9 = (if fl then 1 else 2) ∧ rtcmOk f = false) ∧
    (∃ (s : State), ∃ (fl : Bool), ∃ f, s.skyRuns = true ∧ s.nat 0x5000 9 = (if fl then 1 else 2) ∧ rtcmOk f = true ∧ beBits ((f.drop 3).take
      (f.length - 6)) 0 12 = 1077) ∧
    (∃ (s : State), ∃ (f0 : Bytes), ∃ (f1 : Bytes), ∃ (f2 : Bytes), ∃ t0, ∃ t1, ∃ t2, s.skyRuns = true ∧ s.flag 0x5000 0x14 = true ∧ f0.length = 8 ∧
      f1.length = 8 ∧ f2.length = 8 ∧ t0 ≤ t1 ∧ t1 ≤ t2 ∧ t2 ≤ t0 + 100000000 ∧ fieldLe f0 0 1 = fieldLe f2 0 1 ∧ s.sky.flags.testBit 0 = false) ∧
    (∃ (s : State), ∃ t0, ∃ t2, s.skyRuns = true ∧ s.flag 0x5000 0x14 = true ∧ t0 + 100000000 < t2) ∧
    (∃ (s : State), ∃ sec, ∃ q, sec % 1000000000 = 0 ∧ -2000 ≤ q ∧ q ≤ 2000 ∧ ppsEmits s = true) ∧
    (∃ (s : State), ∃ e, s.skyio.edgeTime = some e) ∧
    (∃ (s : State), ∃ n, s.admits n 0x5000 0x17 (.int 1)) ∧
    (∃ (s : State), ∃ n, s.admits n 0x5000 0x17 (.int 2)) := by
  refine ⟨?_, ?_, ?_, ?_, ?_, ?_, ?_, ?_⟩
  · exact ⟨st rn [(0x5000,9,1)], true, [0xD3#8], by decide +kernel⟩
  · exact ⟨st rn [(0x5000,9,2)], false, rtcm1077, by decide +kernel⟩
  · exact ⟨st rn [(0x5000,0x14,1)], zeros8, zeros8, zeros8, 0, 1, 100000000, by decide +kernel⟩
  · exact ⟨st rn [(0x5000,0x14,1)], 0, 100000001, by decide +kernel⟩
  · exact ⟨st rn [(0x5000,0xF,2)], 1000000000, 2000, by decide +kernel⟩
  · exact ⟨rn.updSkyio fun x => { x with edgeTime := some 1000000000 }, 1000000000, by decide +kernel⟩
  · exact ⟨rn, 0, by unfold State.admits State.serves; decide +kernel⟩
  · exact ⟨rn, 0, by unfold State.admits State.serves; decide +kernel⟩
theorem test_hyp_NetworkTime :
    (∃ (s : State), s.reachable = true) ∧
    (∃ (s : State), ∃ p, ∃ (o : Int), p < 3 ∧ s.reachable = true ∧ s.takesTime p = true ∧ o.natAbs ≤ s.nat 0x5200 6 ∧ s.net.stepRefused = false) ∧
    (∃ (s : State), ∃ p, ∃ (o : Int), p < 3 ∧ s.reachable = true ∧ s.takesTime p = true ∧ s.nat 0x5200 6 < o.natAbs) ∧
    (∃ (s : State), ∃ p, p < 3 ∧ s.reachable = true ∧ (s.ptpOf p).state = 3 ∧ (s.net.ports.getD p {}).link = true ∧ s.nat (0x5610 + p) 1 ≠ 0 ∧
      syncInstant s p < s.tm.now + 100000) ∧
    (∃ (s : State), ∃ p, p < 3 ∧ s.reachable = true ∧ (s.net.ports.getD p {}).link = true ∧ s.nat (0x5610 + p) 1 ≠ 0 ∧ p < s.net.ptp.length ∧
      (s.ptpOf p).delays = [] ∧ (s.ptpOf p).pathChange = false) ∧
    (∃ (s : State), ∃ p, ∃ d, ∃ e, p < 3 ∧ s.reachable = true ∧ (s.net.ports.getD p {}).link = true ∧ s.nat (0x5610 + p) 1 ≠ 0 ∧ p < s.net.ptp.length
      ∧ (s.ptpOf p).delays ≠ [] ∧ (s.ptpOf p).outliers = [e] ∧ s.nat 0x5200 7 < (d - medianI (s.ptpOf p).delays).natAbs) ∧
    (∃ (s : State), ∃ p, p < 3 ∧ s.reachable = true ∧ (s.net.ports.getD p {}).link = true ∧ s.nat (0x5610 + p) 1 ≠ 0 ∧ p < s.net.ptp.length ∧ p =
      s.nat 0x5200 5 ∧ s.nat 0x5200 4 = 1 ∧ s.skyCannot = true) ∧
    (∃ (s : State), ∃ p, p < 3 ∧ s.reachable = true ∧ (s.net.ports.getD p {}).link = true ∧ s.nat (0x5610 + p) 1 ≠ 0 ∧ p < s.net.ptp.length ∧
      s.skyCannot = false) ∧
    (∃ (s : State), (s.ptpOf (s.nat 0x5200 5)).state = 4) ∧
    (∃ (s : State), ∃ n, s.admits n 0x5200 8 (.int 1) ∧ s.net.stepRefused = true) ∧
    (∃ (s : State), ∃ n, s.admits n 0x5200 8 (.int 2) ∧ s.net.stepRefused = true) ∧
    (∃ (s : State), ∃ n, s.admits n 0x5200 8 (.int 1) ∧ s.net.stepRefused = false) := by
  refine ⟨?_, ?_, ?_, ?_, ?_, ?_, ?_, ?_, ?_, ?_, ?_, ?_⟩
  · exact ⟨rn, by decide +kernel⟩
  · exact ⟨netOn 4, 0, 0, by decide +kernel⟩
  · exact ⟨netOn 4, 0, 1000000000000, by decide +kernel⟩
  · exact ⟨netOn 3, 0, by decide +kernel⟩
  · exact ⟨netOn 4, 0, by decide +kernel⟩
  · exact ⟨(netOn 4).updNet fun n => { n with ptp := updAt n.ptp 0 fun p => { p with delays := [100], outliers := [9999] } }, 0, 1000000, 9999,
      by decide +kernel⟩
  · exact ⟨netOn 4, 0, by decide +kernel⟩
  · exact ⟨(netOn 4).updSky fun k => { k with status := 1 }, 0, by decide +kernel⟩
  · exact ⟨netOn 4, by decide +kernel⟩
  · exact ⟨rn.updNet fun n => { n with stepRefused := true }, 0, by unfold State.admits State.serves; decide +kernel⟩
  · exact ⟨rn.updNet fun n => { n with stepRefused := true }, 0, by unfold State.admits State.serves; decide +kernel⟩
  · exact ⟨rn, 0, by unfold State.admits State.serves; decide +kernel⟩
theorem test_hyp_StepsAndPorts :
    (∃ (s : State), ∃ d, s.tm.step = some d ∧ s.reachable = true ∧ s.tm.slew = 0 ∧ s.tm.stepAt ≤ s.tm.now + 100000) ∧
    (∃ (s : State), ∃ p, p < 3 ∧ s.reachable = true ∧ (s.net.ports.getD p {}).link = true ∧ p < s.net.ports.length ∧ p < s.net.ptp.length) ∧
    (∃ (s : State), ∃ p, p < 3 ∧ s.reachable = true ∧ s.flag (0x5600 + p) 1 = true ∧ (s.net.ports.getD p {}).link = false ∧ p < s.net.ports.length ∧
      p < s.net.ptp.length ∧ s.nat (0x5610 + p) 1 ≠ 0) ∧
    (∃ (s : State), ∃ n, ∃ sub, ∃ v, s.admits n 0x5200 sub v ∧ sub ≠ 4 ∧ sub ≠ 5 ∧ sub ≠ 8) ∧
    (∃ (s : State), ∃ n, ∃ p, ∃ sub, ∃ v, p < 3 ∧ s.admits n (0x5600 + p) sub v) := by
  refine ⟨?_, ?_, ?_, ?_, ?_⟩
  · exact ⟨rn.updTm fun t => { t with step := some 7 }, 7, by decide +kernel⟩
  · exact ⟨netOn 3, 2, by decide +kernel⟩
  · exact ⟨(st rn [(0x5600,1,1),(0x5610,1,1)]), 0, by decide +kernel⟩
  · exact ⟨rn, 0, 6, .int 5000, by unfold State.admits State.serves; decide +kernel⟩
  · exact ⟨rn, 0, 2, 1, .int 1, by unfold State.admits State.serves; decide +kernel⟩
theorem test_hyp_AnalogueInputs :
    (∃ (s : State), ∃ i, i < 3 ∧ s.senses = true ∧ s.sens.supplyFault.testBit i = false) ∧
    (∃ (s : State), ∃ i, i < 3 ∧ s.senses = true ∧ s.sens.supplyFault.testBit i = true) ∧
    (∃ (s : State), ∃ a, ∃ raw, a < 24 ∧ s.senses = true ∧ s.nat (0x4840 + a) 1 = 3 ∧ raw < 3600 ∧ (s.aiOf a).shuntOpen = false ∧ a <
      s.sens.ai.length ∧ s.feedSource a = false) ∧
    (∃ (s : State), ∃ a, a < 24 ∧ s.senses = true ∧ s.nat (0x4840 + a) 1 ≠ 0 ∧ (s.aiOf a).valid = false ∧ (s.aiOf a).shuntOpen = false ∧ s.supplyBad
      (s.nat (0x4840 + a) 7) = false ∧ a < s.sens.ai.length) ∧
    (∃ (s : State), ∃ a, a < 24 ∧ s.senses = true ∧ s.nat (0x4840 + a) 1 = 3 ∧ (s.aiOf a).shuntOpen = false ∧ a < s.sens.ai.length) ∧
    (∃ (s : State), ∃ a, ∃ ua, a < 24 ∧ s.senses = true ∧ (s.aiOf a).shuntOpen = true ∧ ua ≤ 30000) ∧
    (∃ (s : State), ∃ n, ∃ a, ∃ v, a < 24 ∧ s.admits n (0x4840 + a) 6 (.int v)) ∧
    (∃ (s : State), ∃ n, ∃ a, ∃ v, a < 24 ∧ s.admits n (0x4840 + a) 1 (.int v) ∧ s.configurable = false ∧ s.aiSelected a = true) ∧
    (∃ (s : State), s.senses = true ∧ (s.nat 0x4880 0xB : Int) * 65536 ≤ s.sens.tarePaddles ∧ s.sens.tareN ≠ 0) := by
  refine ⟨?_, ?_, ?_, ?_, ?_, ?_, ?_, ?_, ?_⟩
  · exact ⟨rn, 2, by decide +kernel⟩
  · exact ⟨rn.updSens fun z => { z with supplyFault := 4 }, 2, by decide +kernel⟩
  · exact ⟨st rn [(0x4857,1,3)], 23, 3599, by decide +kernel⟩
  · exact ⟨st rn [(0x4857,1,3)], 23, by decide +kernel⟩
  · exact ⟨st rn [(0x4857,1,3)], 23, by decide +kernel⟩
  · exact ⟨rn.updAi 23 fun a => { a with shuntOpen := true }, 23, 30000, by decide +kernel⟩
  · exact ⟨rn, 0, 23, 1, by unfold State.admits State.serves; decide +kernel⟩
  · exact ⟨st rn [(0x3810,3,0x57)], 0, 23, 3, by unfold State.admits State.serves; decide +kernel⟩
  · exact ⟨rn.updSens fun z => { z with tarePaddles := 65536 * 1000, tareN := 1 }, by decide +kernel⟩
theorem test_hyp_ImpactChannels :
    (∃ (s : State), ∃ c, ∃ x, c < 16 ∧ pulseWindow (trigLevel s c ((s.lsOf c).regain (s.nat (0x4810 + c) 3))) x = []) ∧
    (∃ (s : State), ∃ c, ∃ stamp, ∃ x, c < 16 ∧ s.senses = true ∧ c < s.sens.ls.length ∧ (s.lsOf c).ms = stamp / 1000000 ∧ 40 ≤ (s.lsOf c).inMs ∧
      pulseWindow (trigLevel s c ((s.lsOf c).regain (s.nat (0x4810 + c) 3))) x ≠ []) ∧
    (∃ (s : State), ∃ c, ∃ stamp, ∃ x, ∃ w, ∃ e, c < 16 ∧ s.senses = true ∧ c < s.sens.ls.length ∧ (s.lsOf c).gain = s.nat (0x4810 + c) 3 ∧ (s.lsOf
      c).ms = stamp / 1000000 ∧ (s.lsOf c).inMs < 40 ∧ (s.lsOf c).healthy = true ∧ ((s.lsOf c).station = 3 ∨ (s.lsOf c).station = 4) ∧ pulseWindow
      (trigLevel s c (s.lsOf c)) x = w ∧ w ≠ [] ∧ classify s c (s.lsOf c).egrain w = (e, .grain, 1)) ∧
    (∃ (s : State), ∃ c, ∃ stamp, ∃ x, ∃ w, ∃ e, c < 16 ∧ s.senses = true ∧ c < s.sens.ls.length ∧ (s.lsOf c).gain = s.nat (0x4810 + c) 3 ∧ (s.lsOf
      c).ms = stamp / 1000000 ∧ (s.lsOf c).inMs < 40 ∧ pulseWindow (trigLevel s c (s.lsOf c)) x = w ∧ w ≠ [] ∧ classify s c (s.lsOf c).egrain w =
      (e, .straw, 0)) ∧
    (∃ (s : State), ∃ c, c < 16 ∧ s.senses = true ∧ c < s.sens.ls.length) ∧
    (∃ (s : State), ∃ c, c < 16 ∧ s.senses = true ∧ c < s.sens.ls.length ∧ s.sens.testQueue = 0) ∧
    (∃ (s : State), ∃ c, c < 16 ∧ s.senses = true ∧ c < s.sens.ls.length ∧ (s.lsOf c).noisy ≠ (s.lsOf c).loud ∧ (s.lsOf c).loudAt + 5000000000 ≤
      s.tm.mono) ∧
    (∃ (s : State), ∃ n, ∃ m, s.admits n 0x4800 4 (.int m)) ∧
    (∃ (s : State), ∃ n, ∃ c, ∃ v, c < 16 ∧ s.admits n (0x4810 + c) 6 (.int v)) ∧
    (∃ (s : State), ∃ n, ∃ c, ∃ v, c < 16 ∧ s.admits n (0x4810 + c) 1 (.int v) ∧ s.configurable = false ∧ s.cutting = true) := by
  refine ⟨?_, ?_, ?_, ?_, ?_, ?_, ?_, ?_, ?_, ?_⟩
  · exact ⟨rn, 15, [0], by decide +kernel⟩
  · exact ⟨rn.updLs 15 fun x => { x with inMs := 40 }, 15, 0, [100, 0], by decide +kernel⟩
  · exact ⟨lsOn, 15, 0, grainPulse, pulseWindow (trigLevel lsOn 15 (lsOn.lsOf 15)) grainPulse, (classify lsOn 15 200000 (pulseWindow (trigLevel lsOn
      15 (lsOn.lsOf 15)) grainPulse)).1, by decide +kernel⟩
  · exact ⟨lsOn, 15, 0, strawPulse, pulseWindow (trigLevel lsOn 15 (lsOn.lsOf 15)) strawPulse, (classify lsOn 15 200000 (pulseWindow (trigLevel lsOn
      15 (lsOn.lsOf 15)) strawPulse)).1, by decide +kernel⟩
  · exact ⟨rn, 15, by decide +kernel⟩
  · exact ⟨rn, 15, by decide +kernel⟩
  · exact ⟨(rn.updTm fun t => { t with mono := 5000000000 }).updLs 15 fun x => { x with loud := true }, 15, by decide +kernel⟩
  · exact ⟨rn, 0, 1, by unfold State.admits State.serves; decide +kernel⟩
  · exact ⟨rn, 0, 15, 100, by unfold State.admits State.serves; decide +kernel⟩
  · exact ⟨{ (st rn [(0x3810,3,0)]) with pas := { rn.pas with headerInWork := true }, pctl := { rn.pctl with ground := 1 } }, 0, 15, 3,
      by unfold State.admits State.serves; decide +kernel⟩
theorem test_hyp_ShaftsAndImu :
    (∃ (s : State), ∃ h, ∃ held, h < 12 ∧ held < s.nat (0x4860 + h) 4 * 100) ∧
    (∃ (s : State), ∃ h, ∃ a, ∃ held, h < 12 ∧ s.senses = true ∧ h < s.sens.sh.length ∧ s.nat (0x4860 + h) 1 ≠ 0 ∧ s.flag (0x4860 + h) 5 = false ∧
      s.nat (0x4860 + h) 4 * 100 ≤ held ∧ shaftLevel (s.nat (0x4860 + h) 1) a (s.shOf h).high = !(s.shOf h).high ∧ edgeCounts (s.nat (0x4860 + h)
      3) (!(s.shOf h).high) = true) ∧
    (∃ (s : State), ∃ h, ∃ a, ∃ q, ∃ held, h < 12 ∧ s.senses = true ∧ h < s.sens.sh.length ∧ s.nat (0x4860 + h) 1 ≠ 0 ∧ s.flag (0x4860 + h) 5 = true
      ∧ s.nat (0x4860 + h) 4 * 100 ≤ held ∧ shaftLevel (s.nat (0x4860 + h) 1) a (s.shOf h).high = !(s.shOf h).high ∧ shaftLevel (s.nat (0x4860 + h)
      1) q (s.shOf h).highQ = (s.shOf h).highQ) ∧
    (∃ (s : State), ∃ h, ∃ a, ∃ q, ∃ held, h < 12 ∧ s.senses = true ∧ h < s.sens.sh.length ∧ s.nat (0x4860 + h) 1 ≠ 0 ∧ s.flag (0x4860 + h) 5 = true
      ∧ s.nat (0x4860 + h) 4 * 100 ≤ held ∧ shaftLevel (s.nat (0x4860 + h) 1) a (s.shOf h).high = !(s.shOf h).high ∧ shaftLevel (s.nat (0x4860 + h)
      1) q (s.shOf h).highQ = !(s.shOf h).highQ) ∧
    (∃ (s : State), ∃ h, h < 12 ∧ s.senses = true ∧ h < s.sens.sh.length ∧ s.nat (0x4860 + h) 1 ≠ 0 ∧ s.nat (0x4860 + h) 7 ≠ 0xFF ∧ s.nat (0x4860 +
      h) 6 ≠ 0) ∧
    (∃ (s : State), ∃ h, ∃ e, ∃ l, h < 12 ∧ s.senses = true ∧ (s.shOf h).edges = e :: l ∧ e.1 + s.nat (0x4860 + h) 8 * 1000000 ≤ s.tm.mono) ∧
    (∃ (s : State), ∃ h, ∃ e, ∃ l, h < 12 ∧ (s.shOf h).edges = e :: l ∧ s.tm.mono < e.1 + s.nat (0x4860 + h) 8 * 1000000) ∧
    (∃ (s : State), ∃ h, h < 12 ∧ s.senses = true ∧ (s.shOf h).bad = true ∧ (s.shOf h).condAt + 100000000 ≤ s.tm.mono ∧ ((s.shOf h).quadFault = true
      → (s.shOf h).errs.headD 0 + 1000 ≤ (s.shOf h).counted)) ∧
    (∃ (s : State), s.senses = true) ∧
    (∃ (s : State), s.pw.dev = .start) := by
  refine ⟨?_, ?_, ?_, ?_, ?_, ?_, ?_, ?_, ?_, ?_⟩
  · exact ⟨rn, 11, 199, by decide +kernel⟩
  · exact ⟨st rn [(0x486B,1,2),(0x486B,3,3)], 11, 12000, 100000, by decide +kernel⟩
  · exact ⟨st rn [(0x486B,1,2),(0x486B,5,1)], 11, 12000, 0, 100000, by decide +kernel⟩
  · exact ⟨st rn [(0x486B,1,2),(0x486B,5,1)], 11, 12000, 12000, 100000, by decide +kernel⟩
  · exact ⟨st rn [(0x486B,1,2),(0x486B,7,0),(0x486B,6,60)], 11, by decide +kernel⟩
  · exact ⟨(rn.updTm fun t => { t with mono := 100000000000 }).updShaft 11 fun x => { x with edges := [(0, 0)] }, 11, (0, 0), [], by decide +kernel⟩
  · exact ⟨rn.updShaft 11 fun x => { x with edges := [(0, 0)] }, 11, (0, 0), [], by decide +kernel⟩
  · exact ⟨(rn.updTm fun t => { t with mono := 100000000 }).updShaft 11 fun x => { x with quadFault := true, errs := [5], counted := 1005 }, 11,
      by decide +kernel⟩
  · exact ⟨rn, by decide +kernel⟩
  · exact ⟨dv .start, by decide +kernel⟩
theorem test_hyp_PassageControl :
    (∃ (s : State), ∃ k, k < 10 ∧ s.senses = true) ∧
    (∃ (s : State), s.pctl.ground = 3 ∧ s.skyGood = false) ∧
    (∃ (s : State), s.senses = true ∧ s.nat 0x3810 3 ≠ 0xFE ∧ s.pas.headerInWork = false) ∧
    (∃ (s : State), s.senses = true ∧ s.cutting = true) ∧
    (∃ (s : State), s.senses = true ∧ s.pas.headerInWork = true ∧ s.cutting = false) ∧
    (∃ (s : State), s.reachable = true ∧ s.pw.dev ≠ .shutdown) ∧
    (∃ (s : State), s.reachable = true) ∧
    (∃ (s : State), s.reachable = true) := by
  refine ⟨?_, ?_, ?_, ?_, ?_, ?_, ?_, ?_⟩
  · exact ⟨rn, 9, by decide +kernel⟩
  · exact ⟨rn.updPctl fun p => { p with ground := 3 }, by decide +kernel⟩
  · exact ⟨st rn [(0x3810,3,0)], by decide +kernel⟩
  · exact ⟨{ (st rn [(0x3810,3,0)]) with pas := { rn.pas with headerInWork := true }, pctl := { rn.pctl with ground := 1 } }, by decide +kernel⟩
  · exact ⟨{ rn with pas := { rn.pas with headerInWork := true } }, by decide +kernel⟩
  · exact ⟨rn, by decide +kernel⟩
  · exact ⟨rn, by decide +kernel⟩
  · exact ⟨rn, by decide +kernel⟩
theorem test_hyp_PassageObjects :
    (∃ (s : State), ∃ n, ∃ b, s.admits n 0x3820 1 (.bytes b) ∧ s.pctl.resetActive = false ∧ b.length = 24 ∧ eventFieldsOk b (eventOf b) = true ∧
      eventResult s true (eventOf b) = 0) ∧
    (∃ (s : State), ∃ n, ∃ b, s.admits n 0x3820 1 (.bytes b) ∧ s.pctl.resetActive = true) ∧
    (∃ (s : State), ∃ n, ∃ (id : Nat), s.admits n 0x3820 4 (.int id) ∧ (∃ e ∈ s.pctl.events, e.id = id)) ∧
    (∃ (s : State), ∃ n, ∃ (id : Nat), s.admits n 0x3820 4 (.int id) ∧ (∀ e ∈ s.pctl.events, e.id ≠ id) ∧ s.pctl.released.contains id = true) ∧
    (∃ (s : State), ∃ n, ∃ v, s.admits n 0x3880 2 (.int v)) ∧
    (∃ (s : State), ∃ n, ∃ k, ∃ v, k < 10 ∧ s.admits n (0x3800 + k) 2 (.int v) ∧ (s.configurable || s.stIdle k) = true) ∧
    (∃ (s : State), ∃ n, ∃ k, ∃ v, k < 10 ∧ s.admits n (0x3800 + k) 2 (.int v) ∧ (s.configurable || s.stIdle k) = false) ∧
    (∃ (s : State), ∃ n, ∃ k, ∃ j, ∃ v, k < 10 ∧ j < 16 ∧ s.admits n (0x3800 + k) (8 + j) (.int v) ∧ kernelAfter s k j v = none) ∧
    (∃ (s : State), ∃ n, ∃ k, ∃ j, ∃ v, ∃ ts, k < 10 ∧ j < 16 ∧ s.admits n (0x3800 + k) (8 + j) (.int v) ∧ kernelAfter s k j v = some ts) ∧
    (∃ (s : State), ∃ n, ∃ v, s.admits n 0x3810 6 (.int v)) := by
  refine ⟨?_, ?_, ?_, ?_, ?_, ?_, ?_, ?_, ?_, ?_⟩
  · exact ⟨st rn [(0x2800,8,1)], 0, eventBytes, by unfold State.admits State.serves; decide +kernel⟩
  · exact ⟨rn.updPctl fun p => { p with resetActive := true }, 0, eventBytes, by unfold State.admits State.serves; decide +kernel⟩
  · exact ⟨rn.updPctl fun p => { p with events := [⟨7, 0, 1, 0, 0, 0, 0, 0, 1, 1, 0, 0⟩] }, 0, 7, by unfold State.admits State.serves; decide +kernel⟩
  · exact ⟨rn.updPctl fun p => { p with released := [7] }, 0, 7, by unfold State.admits State.serves; decide +kernel⟩
  · exact ⟨rn, 0, 1, by unfold State.admits State.serves; decide +kernel⟩
  · exact ⟨dv .service, 0, 9, 0, by unfold State.admits State.serves; decide +kernel⟩
  · exact ⟨rn, 0, 3, 0, by unfold State.admits State.serves; decide +kernel⟩
  · exact ⟨rn, 0, 3, 0, 32767, by unfold State.admits State.serves; decide +kernel⟩
  · exact ⟨kern, 0, 3, 0, kernelTaps kern 3 |>.getD 0 0, normalise (kernelTaps kern 3), by unfold State.admits State.serves; decide +kernel⟩
  · exact ⟨rn, 0, 1, by unfold State.admits State.serves; decide +kernel⟩
theorem test_hyp_TransitCalibration :
    (∃ (s : State), ∃ n, s.admits n 0x3812 1 (.int 1) ∧ s.pctl.cal.state ≠ 1 ∧ s.nat 0x3812 2 ∉ [2, 5, 7]) ∧
    (∃ (s : State), ∃ n, s.admits n 0x3812 1 (.int 2) ∧ s.pctl.cal.state = 1) ∧
    (∃ (s : State), ∃ n, ∃ u, s.admits n 0x3812 1 (.int 3) ∧ s.pctl.cal.state = 2 ∧ acceptCal (s.touch n) = .ok u) ∧
    (∃ (s : State), ∃ u, acceptCal s = .ok u) ∧
    (∃ (s : State), ∃ n, ∃ a, s.admits n 0x3812 1 (.int 3) ∧ s.pctl.cal.state = 2 ∧ acceptCal (s.touch n) = .error a) ∧
    (∃ (s : State), ∃ n, s.admits n 0x3812 1 (.int 4) ∧ s.pctl.cal.state = 2) ∧
    (∃ (s : State), ∃ n, s.admits n 0x3812 1 (.int 2) ∧ s.pctl.cal.state ≠ 1) ∧
    (∃ (s : State), ∃ (ker : List Int), ∃ q, ker.length = 16 ∧ s.pctl.cal.state = 1 ∧ s.pctl.cal.enough = true ∧ q < 19661) ∧
    (∃ (s : State), ∃ (ker : List Int), ∃ q, ker.length = 16 ∧ s.pctl.cal.state = 1 ∧ s.pctl.cal.enough = true ∧ 19661 ≤ q) ∧
    (∃ (s : State), s.flag 0x3812 8 = true ∧ 200 ≤ s.pctl.trimCount ∧ 3 < s.pas.stations.length) := by
  refine ⟨?_, ?_, ?_, ?_, ?_, ?_, ?_, ?_, ?_, ?_⟩
  · exact ⟨st rn [(0x3812,2,3)], 0, by unfold State.admits State.serves; decide +kernel⟩
  · exact ⟨rn.updPctl fun p => { p with cal := { p.cal with state := 1 } }, 0, by unfold State.admits State.serves; decide +kernel⟩
  · exact ⟨rn.updPctl fun p => { p with cal := goodCal }, 0, _, ⟨by unfold State.admits State.serves; decide +kernel, rfl, acceptCal_ok
      (by decide +kernel)⟩⟩
  · exact ⟨rn.updPctl fun p => { p with cal := goodCal }, _, acceptCal_ok (by decide +kernel)⟩
  · exact ⟨rn.updPctl fun p => { p with cal := { p.cal with state := 2 } }, 0, 0x06090030, ⟨by unfold State.admits State.serves; decide +kernel, rfl,
      rfl⟩⟩
  · exact ⟨rn.updPctl fun p => { p with cal := { p.cal with state := 2 } }, 0, by unfold State.admits State.serves; decide +kernel⟩
  · exact ⟨rn, 0, by unfold State.admits State.serves; decide +kernel⟩
  · exact ⟨rn.updPctl fun p => { p with cal := enoughCal }, List.replicate 16 0, 19660, by decide +kernel⟩
  · exact ⟨rn.updPctl fun p => { p with cal := enoughCal }, List.replicate 16 0, 19661, by decide +kernel⟩
  · exact ⟨(st rn [(0x3812,8,1)]).updPctl fun p => { p with trimCount := 200 }, by decide +kernel⟩
theorem test_hyp_LeadCommands :
    (∃ (s : State), ∃ n, s.admits n 0x38A0 1 (.int 0)) ∧
    (∃ (s : State), ∃ n, s.admits n 0x38A0 1 (.int 1) ∧ s.nat 0x3810 0xA ≠ 0xFF ∧ (∃ j < 8, (s.slotFn j).isSome = true)) ∧
    (∃ (s : State), ∃ n, s.admits n 0x38A0 1 (.int 1) ∧ s.nat 0x3810 0xA = 0xFF) ∧
    (∃ (s : State), ∃ n, ∃ j, ∃ v, j < 8 ∧ s.admits n (0x38A8 + j) 3 (.int v)) ∧
    (∃ (s : State), ∃ n, ∃ j, ∃ v, j < 8 ∧ s.admits n (0x38A8 + j) 2 (.int v) ∧ s.leadOn = true) ∧
    (∃ (s : State), s.lead.suspended = true ∧ s.nat 0x38A0 0xC ≤ s.lead.sinceSuspend) ∧
    (∃ (s : State), s.lead.periodWent + s.lead.periodDied ≠ 0) ∧
    (∃ (s : State), ∃ n, ∃ v, s.admits n 0x38C0 2 (.int v) ∧ (s.sessOf n).transport ≠ .e1) ∧
    (∃ (s : State), ∃ n, s.serves n 0x38C0 ∧ (s.sessOf n).transport = .e1) := by
  refine ⟨?_, ?_, ?_, ?_, ?_, ?_, ?_, ?_, ?_⟩
  · exact ⟨rn, 0, by unfold State.admits State.serves; decide +kernel⟩
  · exact ⟨st rn [(0x3810,0xA,0x40),(0x38AF,1,47)], 0, by unfold State.admits State.serves; decide +kernel⟩
  · exact ⟨st rn [(0x3810,0xA,0xFF)], 0, by unfold State.admits State.serves; decide +kernel⟩
  · exact ⟨rn, 0, 7, 0, by unfold State.admits State.serves; decide +kernel⟩
  · exact ⟨st rn [(0x38A0,1,1)], 0, 7, 1, by unfold State.admits State.serves; decide +kernel⟩
  · exact ⟨rn.updLead fun l => { l with suspended := true, sinceSuspend := 1000000 }, by decide +kernel⟩
  · exact ⟨rn.updLead fun l => { l with periodWent := 1 }, by decide +kernel⟩
  · exact ⟨rn, 0, 1, by unfold State.admits State.serves; decide +kernel⟩
  · exact ⟨tr rn .e1, 0, by unfold State.serves; decide +kernel⟩
theorem test_hyp_CompensationCommands :
    (∃ (s : State), ∃ n, ∃ c, c < 128 ∧ s.admits n (0x3400 + c) 0xC (.int 1)) ∧
    (∃ (s : State), ∃ n, ∃ c, c < 128 ∧ s.admits n (0x3400 + c) 0xC (.int 2)) ∧
    (∃ (s : State), ∃ n, ∃ c, c < 128 ∧ s.admits n (0x3400 + c) 0xC (.int 3)) ∧
    (∃ (s : State), ∃ n, ∃ c, c < 128 ∧ s.admits n (0x3400 + c) 0xC (.int 4) ∧ 2 ≤ (s.sessOf n).role ∧ (s.ctxAt c).comp.save = false ∧ (s.ctxAt
      c).comp.saving = false) ∧
    (∃ (s : State), ∃ n, ∃ c, c < 128 ∧ s.serves n (0x3400 + c) ∧ (s.sessOf n).role < 2) ∧
    (∃ (s : State), ∃ c, c < 128 ∧ s.pw.dev = .start ∧ (findTarget s.per.targets 2 (keyOf (0x3400 + c) 0xD)) = none) ∧
    (∃ (s : State), ∃ n, ∃ c, ∃ b, c < 128 ∧ s.admits n (0x3400 + c) 0xD (.bytes b) ∧ (s.ctxAt c).enabled = false) ∧
    (∃ (s : State), ∃ n, ∃ c, ∃ b, c < 128 ∧ s.admits n (0x3400 + c) 0xD (.bytes b) ∧ (s.ctxAt c).enabled = true ∧ (s.ctxAt c).comp.held = false) :=
      by
  refine ⟨?_, ?_, ?_, ?_, ?_, ?_, ?_, ?_⟩
  · exact ⟨rn, 0, 127, by unfold State.admits State.serves; decide +kernel⟩
  · exact ⟨rn, 0, 127, by unfold State.admits State.serves; decide +kernel⟩
  · exact ⟨rn, 0, 127, by unfold State.admits State.serves; decide +kernel⟩
  · exact ⟨rn, 0, 127, by unfold State.admits State.serves; decide +kernel⟩
  · exact ⟨ro rn 1, 0, 127, by unfold State.serves; decide +kernel⟩
  · exact ⟨dv .start, 127, by decide +kernel⟩
  · exact ⟨rn, 0, 127, List.replicate 1024 0#8, by unfold State.admits State.serves; decide +kernel⟩
  · exact ⟨rn.updCtx 127 fun x => { x with enabled := true }, 0, 127, List.replicate 1024 0#8, by unfold State.admits State.serves; decide +kernel⟩
theorem test_hyp_TraceCommands :
    (∃ (s : State), ∃ n, s.admits n 0x3600 1 (.int 1) ∧ s.trace.owner = 0xFF ∧ (s.trace.state = 0 ∨ s.trace.state = 4) ∧ (∃ c < 8, traceOn s c =
      true)) ∧
    (∃ (s : State), ∃ n, s.admits n 0x3600 1 (.int 1) ∧ s.trace.owner = 0xFF ∧ (∀ c < 8, traceOn s c = false)) ∧
    (∃ (s : State), ∃ n, s.admits n 0x3600 1 (.int 1) ∧ s.trace.owner ≠ 0xFF ∧ s.trace.owner ≠ n) ∧
    (∃ (s : State), ∃ n, s.admits n 0x3600 1 (.int 2) ∧ s.trace.owner = n ∧ (s.trace.state = 1 ∨ s.trace.state = 2)) ∧
    (∃ (s : State), ∃ n, s.admits n 0x3600 1 (.int 3) ∧ s.trace.owner = n) ∧
    (∃ (s : State), ∃ n, s.admits n 0x3600 1 (.int 4) ∧ s.trace.owner = n) ∧
    (∃ (s : State), ∃ n, s.serves n 0x3620 ∧ readoutRefused s n = 0) ∧
    (∃ (s : State), ∃ n, s.serves n 0x3620 ∧ s.trace.state ≠ 4 ∧ (s.sessOf n).transport ≠ .e1) := by
  refine ⟨?_, ?_, ?_, ?_, ?_, ?_, ?_, ?_⟩
  · exact ⟨st rn [(0x3617,1,1)], 0, by unfold State.admits State.serves; decide +kernel⟩
  · exact ⟨rn, 0, by unfold State.admits State.serves; decide +kernel⟩
  · exact ⟨rn.updTrace fun t => { t with owner := 3 }, 0, by unfold State.admits State.serves; decide +kernel⟩
  · exact ⟨rn.updTrace fun t => { t with owner := 0, state := 1 }, 0, by unfold State.admits State.serves; decide +kernel⟩
  · exact ⟨rn.updTrace fun t => { t with owner := 0 }, 0, by unfold State.admits State.serves; decide +kernel⟩
  · exact ⟨rn.updTrace fun t => { t with owner := 0 }, 0, by unfold State.admits State.serves; decide +kernel⟩
  · exact ⟨rn.updTrace fun t => { t with state := 4 }, 0, by unfold State.serves; decide +kernel⟩
  · exact ⟨rn, 0, by unfold State.serves; decide +kernel⟩
theorem test_hyp_ContextCommands :
    (∃ (s : State), ∃ k, ∃ n, n < 128 ∧ s.admits k (0x3000 + n) 1 (.int 1) ∧ (s.ctxAt n).enabled = false ∧ s.nat (0x3000 + n) 2 ≠ 0xFF ∧
      ctxConfigurable s n = true ∧ disagreeing s (s.nat (0x3000 + n) 2) = false) ∧
    (∃ (s : State), ∃ k, ∃ n, n < 128 ∧ s.admits k (0x3000 + n) 1 (.int 1) ∧ (s.ctxAt n).enabled = true ∧ s.nat (0x3000 + n) 2 ≠ 0xFF ∧
      ctxConfigurable s n = true ∧ disagreeing s (s.nat (0x3000 + n) 2) = false) ∧
    (∃ (s : State), ∃ k, ∃ n, n < 128 ∧ s.admits k (0x3000 + n) 1 (.int 1) ∧ s.nat (0x3000 + n) 2 = 0xFF) ∧
    (∃ (s : State), ∃ k, ∃ n, n < 128 ∧ s.admits k (0x3000 + n) 1 (.int 1) ∧ s.nat (0x3000 + n) 2 ≠ 0xFF ∧ ctxConfigurable s n = false) ∧
    (∃ (s : State), ∃ k, ∃ n, n < 128 ∧ s.admits k (0x3000 + n) 1 (.int 0) ∧ (s.ctxAt n).enabled = true ∧ ctxConfigurable s n = true ∧ (∀ m < 128,
      (s.ctxAt m).enabled = true → outerOf s m ≠ some n) ∧ (s.ctxAt n).swap = false) ∧
    (∃ (s : State), ∃ k, ∃ n, n < 128 ∧ s.admits k (0x3000 + n) 1 (.int 0) ∧ (s.ctxAt n).enabled = true ∧ (∃ m < 128, (s.ctxAt m).enabled = true ∧
      outerOf s m = some n)) ∧
    (∃ (s : State), ∃ k, ∃ n, ∃ set, ∃ b, n < 128 ∧ set < 2 ∧ s.admits k (0x3000 + n) (0x10 + set) (.bytes b) ∧ coefOk b = true ∧ ((s.ctxAt
      n).enabled = false ∨ ((s.ctxAt n).swap = false ∧ (s.ctxAt n).active ≠ set))) ∧
    (∃ (s : State), ∃ k, ∃ n, ∃ set, ∃ b, n < 128 ∧ set < 2 ∧ s.admits k (0x3000 + n) (0x10 + set) (.bytes b) ∧ coefOk b = true ∧ (s.ctxAt n).enabled
      = true ∧ (s.ctxAt n).active = set) ∧
    (∃ (s : State), ∃ k, ∃ n, n < 128 ∧ s.admits k (0x3000 + n) 0x13 (.int 1) ∧ (s.ctxAt n).swap = false ∧ (s.ctxAt n).enabled = true) ∧
    (∃ (s : State), ∃ k, ∃ n, n < 128 ∧ s.admits k (0x3000 + n) 0x13 (.int 1) ∧ (s.ctxAt n).swap = true) := by
  refine ⟨?_, ?_, ?_, ?_, ?_, ?_, ?_, ?_, ?_, ?_⟩
  · exact ⟨st rn [(0x307F,2,47)], 0, 127, by unfold State.admits State.serves; decide +kernel⟩
  · exact ⟨(st rn [(0x307F,2,47)]).updCtx 127 fun x => { x with enabled := true }, 0, 127, by unfold State.admits State.serves; decide +kernel⟩
  · exact ⟨st rn [(0x307F,2,0xFF)], 0, 127, by unfold State.admits State.serves; decide +kernel⟩
  · exact ⟨(st rn [(0x307F,2,47)]).updFn 47 fun x => { x with mode := 2 }, 0, 127, by unfold State.admits State.serves; decide +kernel⟩
  · exact ⟨(st rn [(0x307F,2,47)]).updCtx 127 fun x => { x with enabled := true }, 0, 127, by unfold State.admits State.serves; decide +kernel⟩
  · exact ⟨(((st rn [(0x307F,2,47),(0x3001,7,0xFF)]).updCtx 127 fun x => { x with enabled := true })).updCtx 1 fun x => { x with enabled := true },
      0, 127, by unfold State.admits State.serves; decide +kernel⟩
  · exact ⟨rn, 0, 127, 1, valRaw (rn.val 0x307F 0x11), by unfold State.admits State.serves; decide +kernel⟩
  · exact ⟨rn.updCtx 127 fun x => { x with enabled := true, active := 1 }, 0, 127, 1, valRaw (rn.val 0x307F 0x11),
      by unfold State.admits State.serves; decide +kernel⟩
  · exact ⟨rn.updCtx 127 fun x => { x with enabled := true }, 0, 127, by unfold State.admits State.serves; decide +kernel⟩
  · exact ⟨rn.updCtx 127 fun x => { x with swap := true }, 0, 127, by unfold State.admits State.serves; decide +kernel⟩
theorem test_hyp_FunctionCommands_1 :
    (∃ (s : State), ∃ k, ∃ f, f < 48 ∧ s.admits k (0x2800 + f) 1 (.int 1) ∧ (s.pw.dev = .run ∨ s.pw.dev = .service) ∧ f ≠ s.steerFn) ∧
    (∃ (s : State), ∃ k, ∃ f, f < 48 ∧ s.admits k (0x2800 + f) 1 (.int 1) ∧ (s.pw.dev = .run ∨ s.pw.dev = .service) ∧ f = s.steerFn ∧ s.steer.engaged
      = true) ∧
    (∃ (s : State), ∃ k, ∃ f, f < 48 ∧ s.admits k (0x2800 + f) 1 (.int 2) ∧ (s.pw.dev = .run ∨ s.pw.dev = .service) ∧ f ≠ s.steerFn ∧ autoRefused s f
      = false) ∧
    (∃ (s : State), ∃ k, ∃ f, f < 48 ∧ s.admits k (0x2800 + f) 1 (.int 2) ∧ (f = s.steerFn ∨ autoRefused s f = true)) ∧
    (∃ (s : State), ∃ k, ∃ f, f < 48 ∧ s.admits k (0x2800 + f) 1 (.int 3) ∧ (s.pw.dev = .run ∨ s.pw.dev = .service) ∧ f ≠ s.steerFn) ∧
    (∃ (s : State), ∃ k, ∃ f, ∃ v, f < 48 ∧ s.admits k (0x2800 + f) 3 (.int v) ∧ f ≠ s.steerFn ∧ s.int (0x2800 + f) 4 ≤ v ∧ v ≤ s.int (0x2800 + f) 5
      ∧ s.nat (0x2800 + f) 8 < 2) ∧
    (∃ (s : State), ∃ k, ∃ f, ∃ v, f < 48 ∧ s.admits k (0x2800 + f) 3 (.int v) ∧ f ≠ s.steerFn ∧ (v < s.int (0x2800 + f) 4 ∨ s.int (0x2800 + f) 5 <
      v)) ∧
    (∃ (s : State), ∃ k, ∃ f, ∃ v, f < 48 ∧ s.admits k (0x2800 + f) 4 (.int v) ∧ v < s.int (0x2800 + f) 5) ∧
    (∃ (s : State), ∃ k, ∃ f, ∃ v, f < 48 ∧ s.admits k (0x2800 + f) 5 (.int v) ∧ s.int (0x2800 + f) 4 < v) ∧
    (∃ (s : State), ∃ k, ∃ f, ∃ v, f < 48 ∧ s.admits k (0x2800 + f) 8 (.int v) ∧ f ≠ s.steerFn ∧ sourceFits v (s.int (0x2800 + f) 9) = true ∧
      s.configurable = true) ∧
    (∃ (s : State), ∃ k, ∃ f, ∃ v, f < 48 ∧ s.admits k (0x2800 + f) 9 (.int v) ∧ sourceFits (s.int (0x2800 + f) 8) v = true ∧ s.configurable = false
      ∧ (s.fnOf f).mode = 2) ∧
    (∃ (s : State), ∃ k, ∃ f, ∃ v, f < 48 ∧ s.admits k (0x2800 + f) 0xB (.int v) ∧ (s.pw.dev = .run ∨ s.pw.dev = .service)) := by
  refine ⟨?_, ?_, ?_, ?_, ?_, ?_, ?_, ?_, ?_, ?_, ?_, ?_⟩
  · exact ⟨rn, 0, 47, by unfold State.admits State.serves; decide +kernel⟩
  · exact ⟨(st rn [(0x3C00,1,47)]).updSteer fun x => { x with engaged := true }, 0, 47, by unfold State.admits State.serves; decide +kernel⟩
  · exact ⟨(st rn [(0x3000,2,47),(0x3000,9,1)]).updCtx 0 fun x => { x with enabled := true }, 0, 47,
      by unfold State.admits State.serves; decide +kernel⟩
  · exact ⟨st rn [(0x3C00,1,47)], 0, 47, by unfold State.admits State.serves; decide +kernel⟩
  · exact ⟨rn, 0, 47, by unfold State.admits State.serves; decide +kernel⟩
  · exact ⟨rn, 0, 47, 0, by unfold State.admits State.serves; decide +kernel⟩
  · exact ⟨rn, 0, 47, 2000000000, by unfold State.admits State.serves; decide +kernel⟩
  · exact ⟨rn, 0, 47, -5, by unfold State.admits State.serves; decide +kernel⟩
  · exact ⟨rn, 0, 47, 5, by unfold State.admits State.serves; decide +kernel⟩
  · exact ⟨dv .service, 0, 47, 1, by unfold State.admits State.serves; decide +kernel⟩
  · exact ⟨rn.updFn 47 fun x => { x with mode := 2 }, 0, 47, 0xFF, by unfold State.admits State.serves; decide +kernel⟩
  · exact ⟨rn, 0, 47, 5, by unfold State.admits State.serves; decide +kernel⟩
theorem test_hyp_FunctionCommands_2 :
    (∃ (s : State), ∃ k, ∃ f, ∃ v, f < 48 ∧ s.admits k (0x2800 + f) 0xB (.int v) ∧ s.pw.dev ≠ .run ∧ s.pw.dev ≠ .service) ∧
    (∃ (s : State), ∃ k, ∃ f, f < 48 ∧ s.admits k (0x2800 + f) 0x13 (.int 1) ∧ (s.fnOf f).forced = true ∧ (s.fnOf f).engineFault = false) := by
  refine ⟨?_, ?_⟩
  · exact ⟨dv .shutdown, 0, 47, 5, by unfold State.admits State.serves; decide +kernel⟩
  · exact ⟨rn.updFn 47 fun x => { x with forced := true }, 0, 47, by unfold State.admits State.serves; decide +kernel⟩
theorem test_hyp_FramesAndHandover :
    (∃ (s : State), s.reachable = true) ∧
    (∃ (s : State), s.pw.dev = .ladder ∧ s.reachable = false ∧ s.belay.resetWait = false) ∧
    (∃ (s : State), s.reachable = true) ∧
    (∃ (s : State), s.reachable = true) ∧
    (∃ (s : State), s.reachable = true) ∧
    (∃ (s : State), ∃ o, committedFor 2 s = some o ∧ liveMay s = true ∧ settingsFit (s.region 2).active o.header true = true) := by
  refine ⟨?_, ?_, ?_, ?_, ?_, ?_⟩
  · exact ⟨rn, by decide +kernel⟩
  · exact ⟨dv .ladder, by decide +kernel⟩
  · exact ⟨rn, by decide +kernel⟩
  · exact ⟨rn, by decide +kernel⟩
  · exact ⟨rn, by decide +kernel⟩
  · exact ⟨committed 2, ofr 2, by decide +kernel⟩
theorem test_hyp_SteeringWithdrawal :
    (∃ (s : State), ∃ r, 1 ≤ r ∧ r ≤ 0xF ∧ s.steer.engaged = true) ∧
    (∃ (s : State), ∃ r, 1 ≤ r ∧ r ≤ 0xF ∧ s.steer.engaged = false) ∧
    (∃ (s : State), s.reachable = true ∧ takeoverNow s = true) ∧
    (∃ (s : State), takeoverNow s = false) ∧
    (∃ (s : State), s.steer.takeoverAt + 1000000000 ≤ s.tm.mono) ∧
    (∃ (s : State), s.tm.mono < s.steer.takeoverAt + 1000000000) ∧
    (∃ (s : State), s.reachable = true ∧ condMet s 3 = true) ∧
    (∃ (s : State), s.reachable = true ∧ condMet s 4 = true) ∧
    (∃ (s : State), s.reachable = true ∧ condMet s 5 = true) ∧
    (∃ (s : State), s.reachable = true ∧ condMet s 6 = true) ∧
    (∃ (s : State), s.reachable = true ∧ condMet s 7 = true) ∧
    (∃ (s : State), ∃ c, s.reachable = true ∧ s.steer.engaged = true ∧ s.steer.coast = some c ∧ (c.1 + s.nat 0x3C00 0x1B * 1000000 ≤ s.tm.mono ∨
      s.nat 0x3C00 0x1C * 100 * 65536 ≤ ((s.stOf 0).travel - c.2).natAbs)) := by
  refine ⟨?_, ?_, ?_, ?_, ?_, ?_, ?_, ?_, ?_, ?_, ?_, ?_⟩
  · exact ⟨rn.updSteer fun x => { x with engaged := true }, 0xF, by decide +kernel⟩
  · exact ⟨rn, 1, by decide +kernel⟩
  · exact ⟨tko, by decide +kernel⟩
  · exact ⟨rn, by decide +kernel⟩
  · exact ⟨rn.updTm fun t => { t with mono := 1000000000 }, by decide +kernel⟩
  · exact ⟨rn, by decide +kernel⟩
  · exact ⟨condNow 3 500, by decide +kernel⟩
  · exact ⟨rn, by decide +kernel⟩
  · exact ⟨(condNow 5 1000).updSteer fun x => { x with engaged := true }, by decide +kernel⟩
  · exact ⟨((condNow 6 1000).updStation 0 fun t => { t with speed := 1000000000 }).updPctl fun p => { p with ground := 2 }, by decide +kernel⟩
  · exact ⟨rn.updSteer fun x => { x with engaged := true, farthest := 32768000 }, by decide +kernel⟩
  · exact ⟨(rn.updTm fun t => { t with mono := 100000000000 }).updSteer fun x => { x with engaged := true, coast := some (0, 0) }, (0, 0),
      by decide +kernel⟩
theorem test_hyp_SteeringEngagement (h : Config.atanDeg 0 1 = 0) :
    (∃ (s : State), ∃ k, ∃ b, ∃ e, b = s.nat 0x3C10 1 ∧ s.admits k 0x3C10 2 (.int 1) ∧ s.steer.engaged = false ∧ s.steer.mode = 0 ∧ refusal
      (forRequest s b) b = none ∧ modeInput (forRequest s b) b = some e ∧ (demandWith (forRequest s b) e 0 - ((wheelAngle s 1).1 : Rat)).abs ≤
      (s.nat 0x3C00 0x11 : Rat)) ∧
    (∃ (s : State), ∃ k, ∃ b, ∃ c, b = s.nat 0x3C10 1 ∧ s.admits k 0x3C10 2 (.int 1) ∧ s.steer.engaged = false ∧ refusal (forRequest s b) b = some c)
      ∧
    (∃ (s : State), ∃ k, ∃ b, ∃ e, b = s.nat 0x3C10 1 ∧ s.admits k 0x3C10 2 (.int 1) ∧ s.steer.engaged = false ∧ refusal (forRequest s b) b = none ∧
      modeInput (forRequest s b) b = some e ∧ (s.nat 0x3C00 0x11 : Rat) < (demandWith (forRequest s b) e 0 - ((wheelAngle s 1).1 : Rat)).abs) ∧
    (∃ (s : State), ∃ k, s.admits k 0x3C10 2 (.int 1) ∧ s.steer.engaged = true ∧ s.steer.mode = s.nat 0x3C10 1 ∧ s.steer.goal = 0) ∧
    (∃ (s : State), s.reachable = true ∧ s.nat 0x3C00 0xC ≠ 0xFF ∧ pinValid s (s.nat 0x3C00 0xC) = true) ∧
    (∃ (s : State), (s.reachable = false ∨ s.nat 0x3C00 0xC = 0xFF ∨ pinValid s (s.nat 0x3C00 0xC) = false)) ∧
    (∃ (s : State), ∃ k, s.admits k 0x3C10 2 (.int 0) ∧ s.steer.engaged = true) ∧
    (∃ (s : State), ∃ k, s.admits k 0x3C10 2 (.int 0) ∧ s.steer.engaged = false) := by
  refine ⟨?_, ?_, ?_, ?_, ?_, ?_, ?_, ?_⟩
  · exact ⟨steerOk, 0, 3, (0, 0, 0), ⟨rfl, by unfold State.admits State.serves; decide +kernel, rfl, rfl, by decide +kernel, by decide +kernel,
      steerOk_near h⟩⟩
  · exact ⟨st rn [(0x3C10,1,3)], 0, 3, 0x12, by unfold State.admits State.serves; decide +kernel⟩
  · exact ⟨steerFar, 0, 3, (100000, 0, 0), ⟨rfl, by unfold State.admits State.serves; decide +kernel, rfl, by decide +kernel, by decide +kernel,
      steerFar_far h⟩⟩
  · exact ⟨(st rn [(0x3C10,1,3)]).updSteer fun x => { x with engaged := true, mode := 3 }, 0, by unfold State.admits State.serves; decide +kernel⟩
  · exact ⟨pinRun, by decide +kernel⟩
  · exact ⟨rn, by decide +kernel⟩
  · exact ⟨rn.updSteer fun x => { x with engaged := true }, 0, by unfold State.admits State.serves; decide +kernel⟩
  · exact ⟨rn, 0, by unfold State.admits State.serves; decide +kernel⟩
theorem test_hyp_LinesTurnsAndEdge_1 :
    (∃ (s : State), ∃ k, s.admits k 0x3C20 0xB (.int 1)) ∧
    (∃ (s : State), ∃ k, s.admits k 0x3C20 0xB (.int 2)) ∧
    (∃ (s : State), ∃ k, s.admits k 0x3C20 0xB (.int 3)) ∧
    (∃ (s : State), ∃ k, ∃ l, ∃ t, s.admits k 0x3C20 0xB (.int 4) ∧ s.steer.guide.record = some (l, t)) ∧
    (∃ (s : State), ∃ k, s.admits k 0x3C20 0xB (.int 5) ∧ (inGnss s = false ∨ (s.steer.goal = 0 ∧ s.steer.guide.turn ≠ 2))) ∧
    (∃ (s : State), ∃ k, s.admits k 0x3C20 0xB (.int 5) ∧ inGnss s = true ∧ (s.steer.goal ≠ 0 ∨ s.steer.guide.turn = 2)) ∧
    (∃ (s : State), ∃ k, s.admits k 0x3C30 7 (.int 1) ∧ s.steer.guide.turn ≠ 2 ∧ turnAllowed s = true) ∧
    (∃ (s : State), ∃ k, s.admits k 0x3C30 7 (.int 1) ∧ s.steer.guide.turn = 2) ∧
    (∃ (s : State), ∃ k, s.admits k 0x3C30 7 (.int 2) ∧ s.steer.guide.turn = 1) ∧
    (∃ (s : State), ∃ h, s.steer.guide.turn = 2 ∧ s.steer.guide.heldAt = some h ∧ h + 2000000000 ≤ s.tm.mono) ∧
    (∃ (s : State), (s.steer.guide.turn ≠ 2 ∨ s.steer.guide.heldAt = none)) ∧
    (∃ (s : State), ∃ ch, ∃ id, ∃ data, 1 ≤ ch ∧ ch ≤ 8 ∧ s.senses = true ∧ ch = s.nat 0x3C38 1 ∧ id = s.nat 0x3C38 2 ∧ data.length = 8 ∧
      s.steer.edgeCounter ≠ some (fieldLe data 3 1) ∧ s.nat 0x3C38 5 ≤ fieldLe data 2 1) := by
  refine ⟨?_, ?_, ?_, ?_, ?_, ?_, ?_, ?_, ?_, ?_, ?_, ?_⟩
  · exact ⟨rn, 0, by unfold State.admits State.serves; decide +kernel⟩
  · exact ⟨rn, 0, by unfold State.admits State.serves; decide +kernel⟩
  · exact ⟨rn, 0, by unfold State.admits State.serves; decide +kernel⟩
  · exact ⟨rn.updSteer fun x => { x with guide := { x.guide with record := some ([(1, 2)], 3) } }, 0, [(1, 2)], 3,
      by unfold State.admits State.serves; decide +kernel⟩
  · exact ⟨rn, 0, by unfold State.admits State.serves; decide +kernel⟩
  · exact ⟨rn.updSteer fun x => { x with engaged := true, mode := 1, goal := 2 }, 0, by unfold State.admits State.serves; decide +kernel⟩
  · exact ⟨(st rn [(0x3C30,1,1)]).updSteer fun x => { x with engaged := true, mode := 1 }, 0, by unfold State.admits State.serves; decide +kernel⟩
  · exact ⟨rn.updSteer fun x => { x with guide := { x.guide with turn := 2 } }, 0, by unfold State.admits State.serves; decide +kernel⟩
  · exact ⟨rn.updSteer fun x => { x with guide := { x.guide with turn := 1 } }, 0, by unfold State.admits State.serves; decide +kernel⟩
  · exact ⟨(rn.updTm fun t => { t with mono := 2000000000 }).updSteer fun x => { x with guide := { x.guide with turn := 2, heldAt := some 0 } }, 0,
      by decide +kernel⟩
  · exact ⟨rn, by decide +kernel⟩
  · exact ⟨st rn [(0x3C38,1,8),(0x3C38,2,0x321)], 8, 0x321, [0#8, 0#8, 200#8, 1#8, 0#8, 0#8, 0#8, 0#8], by decide +kernel⟩
theorem test_hyp_LinesTurnsAndEdge_2 :
    (∃ (s : State), ∃ ch, ∃ id, ∃ data, 1 ≤ ch ∧ ch ≤ 8 ∧ s.senses = true ∧ ch = s.nat 0x3C38 1 ∧ id = s.nat 0x3C38 2 ∧ data.length = 8 ∧
      s.steer.edgeCounter ≠ some (fieldLe data 3 1) ∧ fieldLe data 2 1 < s.nat 0x3C38 5) ∧
    (∃ (s : State), ∃ ch, ∃ data, 1 ≤ ch ∧ ch ≤ 8 ∧ s.senses = true ∧ s.steer.edgeCounter = some (fieldLe data 3 1)) := by
  refine ⟨?_, ?_⟩
  · exact ⟨st rn [(0x3C38,1,8),(0x3C38,2,0x321),(0x3C38,5,150)], 8, 0x321, [0#8, 0#8, 149#8, 1#8, 0#8, 0#8, 0#8, 0#8], by decide +kernel⟩
  · exact ⟨(st rn [(0x3C38,1,8),(0x3C38,2,0x321)]).updSteer fun x => { x with edgeCounter := some 1 }, 8, [0#8, 0#8, 149#8, 1#8, 0#8, 0#8, 0#8, 0#8],
      by decide +kernel⟩
theorem test_hyp_OptimiserCommands_1 :
    (∃ (s : State), ∃ c, ∃ b, s.opt.cycle = some c ∧ voidNow s = none ∧ c.blocks.find? (fun b => b.judged.isNone && blockReady s b) = some b ∧
      (c.blocks.length ≠ 2 * c.set 0xF ∨ ∃ x ∈ c.blocks, x.id ≠ b.id ∧ x.judged = none)) ∧
    (∃ (s : State), ∃ c, ∃ b, s.opt.cycle = some c ∧ voidNow s = none ∧ c.blocks.find? (fun b => b.judged.isNone && blockReady s b) = some b ∧
      c.blocks.length = 2 * c.set 0xF ∧ (∀ x ∈ c.blocks, x.id = b.id ∨ x.judged.isSome = true)) ∧
    (∃ (s : State), ∃ c, ∃ v, s.opt.cycle = some c ∧ voidNow s = some v) ∧
    (∃ (s : State), ∃ k, ∃ j, j < 8 ∧ s.admits k (0x3A10 + j) 0xF (.int 1) ∧ (s.oslot j).sugState = 1) ∧
    (∃ (s : State), ∃ k, ∃ j, j < 8 ∧ s.admits k (0x3A10 + j) 0xF (.int 1) ∧ (s.oslot j).sugState ≠ 1) ∧
    (∃ (s : State), ∃ k, ∃ j, j < 8 ∧ s.admits k (0x3A10 + j) 0xF (.int 2) ∧ (s.oslot j).sugState = 1) ∧
    (∃ (s : State), ∃ j, j < 8 ∧ (s.oslot j).sugState = 1 ∧ (s.oslot j).accepted = false ∧ (s.oslot j).sugAt + s.nat 0x3A00 0x18 * 1000000000 ≤
      s.tm.mono) ∧
    (∃ (s : State), ∃ j, j < 8 ∧ s.tm.mono < (s.oslot j).sugAt + s.nat 0x3A00 0x18 * 1000000000) ∧
    (∃ (s : State), ∃ j, j < 8 ∧ (s.oslot j).heldAt + s.nat 0x3A00 0x17 * 1000000000 ≤ s.tm.mono) ∧
    (∃ (s : State), ∃ j, j < 8 ∧ s.tm.mono < (s.oslot j).heldAt + s.nat 0x3A00 0x17 * 1000000000) ∧
    (∃ (s : State), ∃ d, s.reachable = true ∧ d.length = 16 ∧ (fieldLe d 14 1).testBit 0 = true ∧ (fieldLe d 14 1).testBit 1 = false ∧ fieldLe d 0 8
      ≤ s.tm.now ∧ s.tm.now ≤ fieldLe d 0 8 + 2000000000) ∧
    (∃ (s : State), ∃ d, s.reachable = true ∧ (d.length ≠ 16 ∨ (fieldLe d 14 1).testBit 0 = false ∨ (fieldLe d 14 1).testBit 1 = true)) := by
  refine ⟨?_, ?_, ?_, ?_, ?_, ?_, ?_, ?_, ?_, ?_, ?_, ?_⟩
  · exact ⟨optRun [blk 1, blk 2], cyc [blk 1, blk 2], blk 1, by decide +kernel⟩
  · exact ⟨optRun [blk 1, done 2], cyc [blk 1, done 2], blk 1, by decide +kernel⟩
  · exact ⟨(optRun [blk 1]).updOpt fun o => { o with void := some 0x11 }, cyc [blk 1], 0x11, by decide +kernel⟩
  · exact ⟨rn.updOslot 7 fun o => { o with sugState := 1 }, 0, 7, by unfold State.admits State.serves; decide +kernel⟩
  · exact ⟨rn, 0, 7, by unfold State.admits State.serves; decide +kernel⟩
  · exact ⟨rn.updOslot 7 fun o => { o with sugState := 1 }, 0, 7, by unfold State.admits State.serves; decide +kernel⟩
  · exact ⟨(rn.updTm fun t => { t with mono := 1000000000000000 }).updOslot 7 fun o => { o with sugState := 1 }, 7, by decide +kernel⟩
  · exact ⟨rn, 7, by decide +kernel⟩
  · exact ⟨rn.updTm fun t => { t with mono := 1000000000000000 }, 7, by decide +kernel⟩
  · exact ⟨rn, 7, by decide +kernel⟩
  · exact ⟨rn, List.replicate 14 0#8 ++ [1#8, 0#8], by decide +kernel⟩
  · exact ⟨rn, List.replicate 14 0#8 ++ [3#8, 0#8], by decide +kernel⟩
theorem test_hyp_OptimiserCommands_2 :
    (∃ (s : State), s.opt.damageAt + 2000000000 ≤ s.tm.mono) ∧
    (∃ (s : State), ∃ k, ∃ v, s.admits k 0x3A00 3 (.int v)) ∧
    (∃ (s : State), ∃ k, s.admits k 0x3A00 1 (.int 2) ∧ s.flag 0x3A00 2 = false) ∧
    (∃ (s : State), ∃ k, ∃ v, s.admits k 0x3A00 0x19 (.int v)) ∧
    (∃ (s : State), ∃ k, ∃ j, ∃ v, j < 8 ∧ s.admits k (0x3A10 + j) 8 (.int v) ∧ (∀ c, s.opt.cycle = some c → c.slot ≠ j)) ∧
    (∃ (s : State), ∃ k, ∃ j, ∃ v, ∃ c, j < 8 ∧ s.admits k (0x3A10 + j) 8 (.int v) ∧ s.opt.cycle = some c ∧ c.slot = j) := by
  refine ⟨?_, ?_, ?_, ?_, ?_, ?_⟩
  · exact ⟨rn.updTm fun t => { t with mono := 2000000000 }, by decide +kernel⟩
  · exact ⟨rn, 0, 100, by unfold State.admits State.serves; decide +kernel⟩
  · exact ⟨rn, 0, by unfold State.admits State.serves; decide +kernel⟩
  · exact ⟨rn, 0, 1000, by unfold State.admits State.serves; decide +kernel⟩
  · exact ⟨rn, 0, 7, 100, by unfold State.admits State.serves; decide +kernel⟩
  · exact ⟨(optRun [blk 1]).updOpt fun o => { o with cycle := o.cycle.map fun c => { c with slot := 7 } }, 0, 7, 100, { cyc [blk 1] with slot := 7 },
      by unfold State.admits State.serves; decide +kernel⟩
theorem test_hyp_LoadCalibration :
    (∃ (s : State), ∃ k, s.admits k 0x3E00 0x10 (.int 1) ∧ (s.yield.loadState = 0 ∨ s.yield.loadState = 4 ∨ s.yield.loadState = 5)) ∧
    (∃ (s : State), ∃ k, s.admits k 0x3E00 0x10 (.int 1) ∧ (s.yield.loadState = 1 ∨ s.yield.loadState = 2 ∨ s.yield.loadState = 3)) ∧
    (∃ (s : State), ∃ k, s.admits k 0x3E00 0x10 (.int 2) ∧ s.yield.loadState = 1) ∧
    (∃ (s : State), s.yield.loadState = 2 ∧ ((inStation s.pas.ring 5 = [] ∧ inStation s.pas.ring 6 = []) ∨ s.yield.emptyAt + 30000000000 ≤
      s.tm.mono)) ∧
    (∃ (s : State), s.yield.loadState = 2 ∧ inStation s.pas.ring 5 ≠ [] ∧ s.tm.mono < s.yield.emptyAt + 30000000000) ∧
    (∃ (s : State), ∃ k, ∃ (g : Int), ∃ p, dictWf s.dict = true ∧ s.admits k 0x3E00 0x13 (.int g) ∧ s.yield.loadState = 3 ∧ p = divQ (s.nat 0x4880 7
      * g.toNat : Nat) s.yield.loadMass) ∧
    (∃ (s : State), ∃ k, s.admits k 0x3E00 0x10 (.int 3) ∧ s.yield.loadState = 4) ∧
    (∃ (s : State), ∃ k, s.admits k 0x3E00 0x10 (.int 3) ∧ s.yield.loadState ≠ 4) ∧
    (∃ (s : State), ∃ k, s.admits k 0x3E00 0x10 (.int 4)) := by
  refine ⟨?_, ?_, ?_, ?_, ?_, ?_, ?_, ?_, ?_⟩
  · exact ⟨rn, 0, by unfold State.admits State.serves; decide +kernel⟩
  · exact ⟨rn.updYield fun y => { y with loadState := 1 }, 0, by unfold State.admits State.serves; decide +kernel⟩
  · exact ⟨rn.updYield fun y => { y with loadState := 1 }, 0, by unfold State.admits State.serves; decide +kernel⟩
  · exact ⟨rn.updYield fun y => { y with loadState := 2 }, by decide +kernel⟩
  · exact ⟨(rn.updYield fun y => { y with loadState := 2 }).updPas fun p => { p with ring := [{ num := 1, main := 5 }] }, by decide +kernel⟩
  · exact ⟨rn.updYield fun y => { y with loadState := 3, loadMass := 1000 }, 0, 1000, divQ (rn.nat 0x4880 7 * 1000 : Nat) 1000,
      by unfold State.admits State.serves; decide +kernel⟩
  · exact ⟨rn.updYield fun y => { y with loadState := 4 }, 0, by unfold State.admits State.serves; decide +kernel⟩
  · exact ⟨rn, 0, by unfold State.admits State.serves; decide +kernel⟩
  · exact ⟨rn, 0, by unfold State.admits State.serves; decide +kernel⟩
theorem test_hyp_FieldsAndTiles :
    (∃ (s : State), ∃ k, s.admits k 0x3E00 8 (.int 1) ∧ s.yield.task = false ∧ s.yield.field = none) ∧
    (∃ (s : State), ∃ k, s.admits k 0x3E00 8 (.int 1) ∧ s.yield.task = true) ∧
    (∃ (s : State), publishing s = true ∧ s.yield.field = none) ∧
    (∃ (s : State), ∃ k, s.admits k 0x3E00 8 (.int 2) ∧ s.yield.task = false) ∧
    (∃ (s : State), ∃ f, s.yield.task = true ∧ s.yield.field = some f) ∧
    (∃ (s : State), ∃ b, publishing s = true ∧ s.fleet.link = 2 ∧ tileCheckOk b = true ∧ s.yield.prior.find? (fun p => tileKey p == tileKey b) =
      none) ∧
    (∃ (s : State), ∃ b, ∃ p, publishing s = true ∧ s.fleet.link = 2 ∧ tileCheckOk b = true ∧ s.yield.prior.find? (fun p => tileKey p == tileKey b) =
      some p ∧ fieldLe p 8 4 < fieldLe b 8 4) ∧
    (∃ (b : Bytes), tileCheckOk b = false) ∧
    (∃ (s : State), s.yield.docDue = true) := by
  refine ⟨?_, ?_, ?_, ?_, ?_, ?_, ?_, ?_, ?_⟩
  · exact ⟨rn, 0, by unfold State.admits State.serves; decide +kernel⟩
  · exact ⟨rn.updYield fun y => { y with task := true }, 0, by unfold State.admits State.serves; decide +kernel⟩
  · exact ⟨rn, by decide +kernel⟩
  · exact ⟨rn, 0, by unfold State.admits State.serves; decide +kernel⟩
  · exact ⟨rn.updYield fun y => { y with task := true, field := some 5 }, 5, by decide +kernel⟩
  · exact ⟨link2, tile0, ⟨rfl, rfl, tile_ok _ zeros_len, rfl⟩⟩
  · exact ⟨link2.updYield fun y => { y with prior := [tile0] }, tile1, tile0, ⟨rfl, rfl, tile_ok _ tile1_len, rfl, by decide +kernel⟩⟩
  · exact ⟨[], by decide +kernel⟩
  · exact ⟨rn.updYield fun y => { y with docDue := true }, by decide +kernel⟩
theorem test_hyp_FleetLink :
    (∃ (s : State), fleetWanted s = true ∧ s.fleet.link ≤ 1) ∧
    (∃ (s : State), fleetWanted s = true ∧ 3 ≤ s.fleet.link) ∧
    (∃ (s : State), fleetWanted s = true ∧ s.fleet.link = 3) ∧
    (∃ (s : State), s.fleet.link ≠ 0) ∧
    (∃ (s : State), s.fleet.link = 2) ∧
    (∃ (s : State), s.fleet.link = 0) ∧
    (∃ (k : Nat), ∃ (s : State), s.fleet.link ≠ 0 ∧ s.fleet.link ≠ 2 ∧ 2 ≤ k ∧ k ≤ 5) ∧
    (∃ (s : State), publishing s = true ∧ s.fleet.link = 2) ∧
    (∃ (s : State), publishing s = true ∧ s.fleet.batch ≠ [] ∧ s.fleet.batch.length ≤ 256) ∧
    (∃ (s : State), ∃ e, ∃ n, ∃ x, publishing s = true ∧ s.yield.field.isSome = true ∧ s.yield.tiles.find? (fun t => t.e == e && t.n == n) = some x ∧
      x.dirty = true ∧ x.sentAt = none) ∧
    (∃ (s : State), ∃ (o : Bool), publishing s = true ∧ s.fleet.link ≠ 0 ∧ s.fleet.setAt.getD (b2n o) none = none ∧ setBytes (b2n o) s ≠
      s.fleet.sets.getD (b2n o) []) ∧
    (∃ (s : State), publishing s = true ∧ s.fleet.link = 2 ∧ s.flag 0x3C40 1 = true ∧ s.steer.cart.report.isSome = true ∧ s.steer.cart.stale = false
      ∧ s.steer.cart.lowAccuracy = false) := by
  refine ⟨?_, ?_, ?_, ?_, ?_, ?_, ?_, ?_, ?_, ?_, ?_, ?_⟩
  · exact ⟨fleetOn 1, by decide +kernel⟩
  · exact ⟨fleetOn 3, by decide +kernel⟩
  · exact ⟨fleetOn 3, by decide +kernel⟩
  · exact ⟨fleetOn 2, by decide +kernel⟩
  · exact ⟨fleetOn 2, by decide +kernel⟩
  · exact ⟨rn, by decide +kernel⟩
  · exact ⟨5, fleetOn 1, by decide +kernel⟩
  · exact ⟨fleetOn 2, by decide +kernel⟩
  · exact ⟨(fleetOn 2).updFleet fun x => { x with batch := [[1#8]] }, by decide +kernel⟩
  · exact ⟨((fleetOn 2).updYield fun y => { y with field := some 1, tiles := [{ e := -1, n := 2, dirty := true }] }), -1, 2,
      { e := -1, n := 2, dirty := true }, by decide +kernel⟩
  · exact ⟨fleetOn 2, true, by decide +kernel⟩
  · exact ⟨((fleetOn 2).put 0x3C40 1 (.int 1)).updSteer fun x => { x with cart := { x.cart with report := some ⟨0, 0, 0, 0, 0, 4⟩ } },
      by decide +kernel⟩
theorem test_hyp_BanksAndSupplies :
    (∃ (s : State), ∃ b, b < 6 ∧ bankMay s b = true ∧ (s.vbank b).enable = false) ∧
    (∃ (s : State), ∃ b, b < 6 ∧ bankMay s b = false) ∧
    (∃ (s : State), ∃ b, b < 6 ∧ (s.vbank b).enable = true) ∧
    (∃ (s : State), ∃ b, ∃ k, ∃ n, b < 6 ∧ (s.vbank b).resume = some k ∧ (bankChans b)[k]? = some n ∧ n < s.valve.ch.length) ∧
    (∃ (s : State), ∃ b, b < 6 ∧ (s.vbank b).resume = none) ∧
    (∃ (s : State), ∃ k, k < 2 ∧ s.reachable = true ∧ (s.vsup k).present = true) ∧
    (∃ (s : State), ∃ k, k < 2 ∧ s.reachable = true ∧ (s.vsup k).present = false ∧ (s.vsup k).condAt + 20000000 ≤ s.tm.mono ∧ k < s.valve.sup.length)
      ∧
    (∃ (s : State), ∃ k, k < 2 ∧ s.tm.mono < (s.vsup k).condAt + 20000000) ∧
    (∃ (s : State), s.reachable = true ∧ (s.vsup 2).fault = false ∧ 2 < s.valve.sup.length) ∧
    (∃ (s : State), (s.vsup 2).fault = true) ∧
    (∃ (s : State), ∃ k, ∃ b, b < 6 ∧ s.admits k (0x4040 + b) 9 (.int 1) ∧ (s.vbank b).latched = true ∧ (∀ n ∈ bankChans b, (s.vch n).cmd = 0) ∧ (∀ n
      ∈ bankChans b, (s.vch n).uncommanded = true → (s.vch n).offOk = true)) ∧
    (∃ (s : State), ∃ k, ∃ b, b < 6 ∧ s.admits k (0x4040 + b) 9 (.int 1) ∧ (s.vbank b).latched = true ∧ (∃ n ∈ bankChans b, (s.vch n).cmd ≠ 0)) := by
  refine ⟨?_, ?_, ?_, ?_, ?_, ?_, ?_, ?_, ?_, ?_, ?_, ?_⟩
  · exact ⟨vOn, 5, by decide +kernel⟩
  · exact ⟨rn, 5, by decide +kernel⟩
  · exact ⟨rn.updBank 5 fun b => { b with enable := true }, 5, by decide +kernel⟩
  · exact ⟨rn.updBank 5 fun b => { b with resume := some 3 }, 5, 3, 31, by decide +kernel⟩
  · exact ⟨rn, 5, by decide +kernel⟩
  · exact ⟨vOn, 1, by decide +kernel⟩
  · exact ⟨late rn, 1, by decide +kernel⟩
  · exact ⟨rn, 1, by decide +kernel⟩
  · exact ⟨rn, by decide +kernel⟩
  · exact ⟨rn.updSup 2 fun x => { x with fault := true }, by decide +kernel⟩
  · exact ⟨rn.updBank 5 fun b => { b with latched := true }, 0, 5, by unfold State.admits State.serves; decide +kernel⟩
  · exact ⟨(rn.updBank 5 fun b => { b with latched := true }).updCh 31 fun c => { c with cmd := 1 }, 0, 5,
      by unfold State.admits State.serves; decide +kernel⟩
theorem test_hyp_PvAndCoils :
    (∃ (s : State), s.reachable = true) ∧
    (∃ (s : State), ∃ n, 16 ≤ n ∧ n < 32 ∧ (s.vch n).phase ≠ 0 ∧ ((s.vch n).thermal = false ∨ (s.vch n).cut = false) ∧ s.int (0x4000 + n) 7 * 10 ≤
      (s.vch n).coilTemp) ∧
    (∃ (s : State), ∃ n, 16 ≤ n ∧ n < 32 ∧ ((s.vch n).phase = 0 ∨ (s.vch n).coilTemp < s.int (0x4000 + n) 7 * 10)) ∧
    (∃ (s : State), ∃ n, n < 32 ∧ n < s.valve.ch.length ∧ s.reachable = true ∧ s.nat (0x4000 + n) 5 ≠ 0 ∧ coilCold (s.vch n) n = false) ∧
    (∃ (s : State), ∃ n, n < 32 ∧ n < s.valve.ch.length ∧ s.reachable = true) ∧
    (∃ (s : State), ∃ n, ∃ (c : Nat), ∃ (d : Nat), n < 16 ∧ n < s.valve.ch.length ∧ s.nat (0x4000 + n) 0x18 ≠ 0xFF ∧ (s.vch n).stuck = false ∧ s.nat
      (0x4000 + n) 0x19 ≤ c ∧ d < s.nat (0x4000 + n) 0x1A) ∧
    (∃ (s : State), ∃ n, ∃ (d : Nat), n < 16 ∧ s.nat (0x4000 + n) 0x18 ≠ 0xFF ∧ (s.vch n).stuck = true ∧ s.nat (0x4000 + n) 0x1A ≤ d) ∧
    (∃ (s : State), ∃ n, n < 16 ∧ s.nat (0x4000 + n) 0x18 = 0xFF) := by
  refine ⟨?_, ?_, ?_, ?_, ?_, ?_, ?_, ?_⟩
  · exact ⟨rn, by decide +kernel⟩
  · exact ⟨rn.updCh 31 fun c => { c with phase := 4, coilTemp := 30000 }, 31, by decide +kernel⟩
  · exact ⟨rn, 31, by decide +kernel⟩
  · exact ⟨(st rn [(0x401F,5,8000)]).updCh 31 (fun c => { c with phase := 4 }), 31, by decide +kernel⟩
  · exact ⟨rn, 31, by decide +kernel⟩
  · exact ⟨st rn [(0x400F,0x18,0x40)], 15, 1000000, 0, by decide +kernel⟩
  · exact ⟨(st rn [(0x400F,0x18,0x40)]).updCh 15 fun c => { c with stuck := true }, 15, 1000000, by decide +kernel⟩
  · exact ⟨rn, 15, by decide +kernel⟩
theorem test_hyp_SvProfiles :
    (∃ (s : State), ∃ n, 16 ≤ n ∧ n < 32 ∧ (s.vch n).phase = 2) ∧
    (∃ (s : State), ∃ n, 16 ≤ n ∧ n < 32 ∧ (s.vch n).phase = 2 ∧ (s.vch n).phaseAt + (s.vch n).prof.getD 3 0 * 1000 ≤ s.tm.now + 100000) ∧
    (∃ (s : State), ∃ n, 16 ≤ n ∧ n < 32 ∧ (s.vch n).phase = 3 ∧ (s.vch n).phaseAt + (s.vch n).prof.getD 2 0 * 10000 ≤ s.tm.now + 100000) ∧
    (∃ (s : State), ∃ n, 16 ≤ n ∧ n < 32 ∧ (s.vch n).phase = 4 ∧ s.nat (0x4000 + n) 0x20 = 1 ∧ (s.vch n).guardCmd = none ∧ safeHoldOn s n = false ∧
      (s.vch n).edgeAt + s.nat (0x4000 + n) 0x21 * 1000000 ≤ s.tm.now + 100000) ∧
    (∃ (s : State), ∃ n, 16 ≤ n ∧ n < 32 ∧ (s.vch n).phase = 5) ∧
    (∃ (s : State), ∃ b, ∃ n, 2 ≤ b ∧ b < 6 ∧ nextWaiting s b = some n ∧ (∀ m ∈ bankChans b, (s.vch m).phase ≠ 2) ∧ (s.vsup 2).fault = false ∧ n <
      s.valve.ch.length) ∧
    (∃ (s : State), ∃ b, ∃ n, nextWaiting s b = some n ∧ (n ∈ bankChans b ∧ (s.vch n).phase = 1 ∧ ∀ m ∈ bankChans b, (s.vch m).phase = 1)) ∧
    (∃ (s : State), ∃ n, ∃ (time : Nat), 16 ≤ n ∧ n < 32 ∧ (s.vch n).phase = 1 ∧ ((s.vsup 2).fault = true ∨ (s.vch n).startAt + s.nat (0x4040 +
      bankOf n) 3 * 1000 ≤ time)) ∧
    (∃ (s : State), ∃ n, ∃ tgt, 16 ≤ n ∧ n < 32 ∧ ((s.vch n).phase = 3 ∧ tgt = (s.vch n).prof.getD 0 0 ∨ (s.vch n).phase = 4 ∧ tgt = holdTarget s n)
      ∧ leading s (bankOf n) ≠ some n ∧ (s.vch n).phaseAt + 1000000 ≤ s.tm.now / 1000000 * 1000000) ∧
    (∃ (s : State), ∃ n, 16 ≤ n ∧ n < 32 ∧ n < s.valve.ch.length ∧ ((s.vch n).phase ≠ 3 ∧ (s.vch n).phase ≠ 4 ∨ leading s (bankOf n) = some n ∨
      s.tm.now / 1000000 * 1000000 < (s.vch n).phaseAt + 1000000)) ∧
    (∃ (s : State), ∃ n, 16 ≤ n ∧ n < 32 ∧ n < s.valve.ch.length ∧ s.flag (0x4000 + n) 0x24 = true ∧ (s.vch n).stuck = false) ∧
    (∃ (s : State), ∃ n, 16 ≤ n ∧ n < 32 ∧ n < s.valve.ch.length ∧ s.flag (0x4000 + n) 0x24 = true) := by
  refine ⟨?_, ?_, ?_, ?_, ?_, ?_, ?_, ?_, ?_, ?_, ?_, ?_⟩
  · exact ⟨rn.updCh 31 fun c => { c with phase := 2 }, 31, by decide +kernel⟩
  · exact ⟨rn.updCh 31 fun c => { c with phase := 2 }, 31, by decide +kernel⟩
  · exact ⟨rn.updCh 16 fun c => { c with phase := 3 }, 16, by decide +kernel⟩
  · exact ⟨late ((st rn [(0x401F,0x20,1)]).updCh 31 fun c => { c with phase := 4 }), 31, by decide +kernel⟩
  · exact ⟨rn.updCh 31 fun c => { c with phase := 5 }, 31, by decide +kernel⟩
  · exact ⟨rn.updCh 31 fun c => { c with phase := 1 }, 5, 31, by decide +kernel⟩
  · exact ⟨((((rn.updCh 28 fun c => { c with phase := 1 }).updCh 29 fun c => { c with phase := 1 }).updCh 30 fun c => { c with phase := 1 }).updCh 31
      fun c => { c with phase := 1 }), 5, 28, by decide +kernel⟩
  · exact ⟨rn.updCh 31 fun c => { c with phase := 1 }, 31, 1000000000, by decide +kernel⟩
  · exact ⟨late ((rn.updCh 31 fun c => { c with phase := 3, phaseAt := 9 }).updCh 30 fun c => { c with phase := 3, phaseAt := 5 }), 31, 0,
      by decide +kernel⟩
  · exact ⟨rn, 31, by decide +kernel⟩
  · exact ⟨st rn [(0x401F,0x24,1)], 31, by decide +kernel⟩
  · exact ⟨st rn [(0x401F,0x24,1)], 31, by decide +kernel⟩
theorem test_hyp_StageFaults_1 :
    (∃ (s : State), ∃ n, n < 32 ∧ n < s.valve.ch.length ∧ chanPowered s n = true) ∧
    (∃ (s : State), ∃ n, n < 32 ∧ chanPowered s n = false) ∧
    (∃ (s : State), ∃ n, n < 32 ∧ (s.vch n).trip = true ∧ (s.vch n).latched = false ∧ (s.vch n).trips.headD 0 + 100000000 ≤ s.tm.mono) ∧
    (∃ (s : State), ∃ n, n < 32 ∧ ((s.vch n).trip = false ∨ s.tm.mono < (s.vch n).trips.headD 0 + 100000000) ∧ ((s.vbank (bankOf n)).hsTrip = false ∨
      s.tm.mono < (s.vbank (bankOf n)).trips.headD 0 + 100000000)) ∧
    (∃ b, b < 2) ∧
    (∃ (s : State), ∃ b, 2 ≤ b ∧ b < 6 ∧ (s.vbank b).enable = true ∧ (s.vbank b).hsTrip = false) ∧
    (∃ (s : State), ∃ n, n < 32 ∧ n < s.valve.ch.length ∧ s.reachable = true ∧ (s.vbank (bankOf n)).enable = true ∧ chanIdle s n = true) ∧
    (∃ (s : State), ∃ n, n < 32 ∧ n < s.valve.ch.length ∧ s.reachable = true ∧ chanOff s n = true ∧ (s.vch n).openLoad = false) ∧
    (∃ (s : State), ∃ n, n < 32 ∧ n < s.valve.ch.length ∧ s.reachable = true ∧ chanOff s n = true ∧ (s.vch n).openLoad = false) ∧
    (∃ (s : State), ∃ n, n < 32 ∧ n < s.valve.ch.length ∧ (s.vch n).openLoad = false ∧ chanPowered s n = true ∧ (n < 16 ∧ 0 < (s.vch n).eff ∨ 16 ≤ n
      ∧ (s.vch n).phase = 4)) ∧
    (∃ (s : State), ∃ n, n < 32 ∧ (s.vch n).openLoad = true) ∧
    (∃ (s : State), ∃ n, n < 32 ∧ n < s.valve.ch.length ∧ s.reachable = true ∧ (s.vch n).shorted = false ∧ ((s.vch n).coilRes ≠ 0 ∧ 2 * (s.vch
      n).coilRes < s.nat (0x4000 + n) 5 ∨ 16 ≤ n ∧ ((s.vch n).phase = 3 ∨ (s.vch n).phase = 4) ∧ (s.vch n).boostTime < 50)) := by
  refine ⟨?_, ?_, ?_, ?_, ?_, ?_, ?_, ?_, ?_, ?_, ?_, ?_⟩
  · exact ⟨drive 31, 31, by decide +kernel⟩
  · exact ⟨rn, 31, by decide +kernel⟩
  · exact ⟨late (rn.updCh 31 fun c => { c with trip := true }), 31, by decide +kernel⟩
  · exact ⟨rn, 31, by decide +kernel⟩
  · exact ⟨1, by decide +kernel⟩
  · exact ⟨drive 31, 5, by decide +kernel⟩
  · exact ⟨rn.updBank 5 fun b => { b with enable := true }, 31, by decide +kernel⟩
  · exact ⟨rn, 31, by decide +kernel⟩
  · exact ⟨rn, 31, by decide +kernel⟩
  · exact ⟨(drive 31).updCh 31 fun c => { c with phase := 4 }, 31, by decide +kernel⟩
  · exact ⟨rn.updCh 31 fun c => { c with openLoad := true }, 31, by decide +kernel⟩
  · exact ⟨(st rn [(0x401F,5,8000)]).updCh 31 (fun c => { c with coilRes := 1 }), 31, by decide +kernel⟩
theorem test_hyp_StageFaults_2 :
    (∃ (s : State), ∃ n, n < 32 ∧ n < s.valve.ch.length ∧ s.reachable = true ∧ (s.vch n).overtemp = false) ∧
    (∃ (s : State), ∃ n, ∃ k, n < 32 ∧ s.admits k (0x4000 + n) 9 (.int 1) ∧ (s.vch n).latched = true ∧ (s.vch n).cmd = 0) ∧
    (∃ (s : State), ∃ n, ∃ k, n < 32 ∧ s.admits k (0x4000 + n) 9 (.int 1) ∧ (s.vch n).latched = true ∧ (s.vch n).cmd ≠ 0) := by
  refine ⟨?_, ?_, ?_⟩
  · exact ⟨rn, 31, by decide +kernel⟩
  · exact ⟨rn.updCh 31 fun c => { c with latched := true }, 31, 0, by unfold State.admits State.serves; decide +kernel⟩
  · exact ⟨rn.updCh 31 fun c => { c with latched := true, cmd := 1 }, 31, 0, by unfold State.admits State.serves; decide +kernel⟩
theorem test_hyp_GuardTestsAndSent_1 :
    (∃ (s : State), ∃ b, b < 6 ∧ s.reachable = true ∧ (s.vbank b).enable = true ∧ (s.vbank b).guard = false ∧ (∃ d, (s.vbank b).guardDue = some d ∧ d
      ≤ s.tm.mono + 100000)) ∧
    (∃ (s : State), ∃ b, b < 6 ∧ (s.vbank b).guardDue = none) ∧
    (∃ (s : State), ∃ b, b < 6 ∧ (s.vbank b).guard = true ∧ 10 ≤ (s.vbank b).latches) ∧
    (∃ (s : State), ∃ b, b < 6 ∧ (s.vbank b).latches < 10) ∧
    (∃ (s : State), ∃ n, ∃ k, ∃ v, n < 32 ∧ n < s.valve.ch.length ∧ s.admits k (0x4000 + n) 0xA (.int v) ∧ (n < 16 ∨ v.toNat ≤ 1) ∧ s.pw.dev =
      .service ∧ chanNamed s n = false) ∧
    (∃ (s : State), ∃ n, ∃ k, ∃ v, n < 32 ∧ s.admits k (0x4000 + n) 0xA (.int v) ∧ (n < 16 ∨ v.toNat ≤ 1) ∧ (s.pw.dev ≠ .service ∨ chanNamed s n =
      true)) ∧
    (∃ (s : State), ∃ n, ∃ k, ∃ v, 16 ≤ n ∧ n < 32 ∧ s.admits k (0x4000 + n) 0xA (.int v) ∧ 1 < v.toNat) ∧
    (∃ (s : State), ∃ n, n < 32 ∧ (s.vch n).test.isSome = true) ∧
    (∃ (s : State), ∃ n, ∃ k, ∃ sub, ∃ v, n < 32 ∧ s.admits k (0x4000 + n) sub v ∧ sub ≠ 9 ∧ sub ≠ 0xA ∧ sub ≠ 0x18 ∧ sub ≠ 0x20 ∧ sub ≠ 0x22) ∧
    (∃ (s : State), ∃ n, ∃ k, ∃ b, n < 32 ∧ s.admits k (0x4000 + n) 0x22 (.bytes b)) ∧
    (∃ (s : State), ∃ n, ∃ k, ∃ v, n < 32 ∧ s.admits k (0x4000 + n) 0x20 v ∧ (s.vch n).phase ≠ 0) ∧
    (∃ (s : State), ∃ i, ∃ f, i < 16 ∧ i < s.sens.sent.length ∧ s.reachable = true ∧ s.flag (0x48A0 + i) 1 = true ∧ sentOk s i f = true) := by
  refine ⟨?_, ?_, ?_, ?_, ?_, ?_, ?_, ?_, ?_, ?_, ?_, ?_⟩
  · exact ⟨rn.updBank 5 (fun b => { b with enable := true, guardDue := some 0 }), 5, ⟨by decide +kernel, by decide +kernel, by decide +kernel,
      by decide +kernel, 0, by decide +kernel⟩⟩
  · exact ⟨rn, 5, by decide +kernel⟩
  · exact ⟨rn.updBank 5 fun b => { b with guard := true, latches := 10 }, 5, by decide +kernel⟩
  · exact ⟨rn.updBank 5 fun b => { b with guard := true, latches := 9 }, 5, by decide +kernel⟩
  · exact ⟨dv .service, 31, 0, 1, by unfold State.admits State.serves; decide +kernel⟩
  · exact ⟨rn, 31, 0, 1, by unfold State.admits State.serves; decide +kernel⟩
  · exact ⟨dv .service, 31, 0, 2, by unfold State.admits State.serves; decide +kernel⟩
  · exact ⟨rn.updCh 31 fun c => { c with test := some (1, 0) }, 31, by decide +kernel⟩
  · exact ⟨rn, 31, 0, 5, .int 8000, by unfold State.admits State.serves; decide +kernel⟩
  · exact ⟨rn, 31, 0, valRaw (rn.val 0x401F 0x22), by unfold State.admits State.serves; decide +kernel⟩
  · exact ⟨rn.updCh 31 fun c => { c with phase := 4 }, 31, 0, .int 0, by unfold State.admits State.serves; decide +kernel⟩
  · exact ⟨st rn [(0x48AF,1,1)], 15, sentGood, by decide +kernel⟩
theorem test_hyp_GuardTestsAndSent_2 :
    (∃ (s : State), ∃ i, ∃ f, i < 16 ∧ i < s.sens.sent.length ∧ s.reachable = true ∧ s.flag (0x48A0 + i) 1 = true ∧ sentOk s i f = false) ∧
    (∃ (s : State), ∃ i, i < 16 ∧ s.reachable = true ∧ s.flag (0x48A0 + i) 1 = true ∧ (s.sens.sent.getD i {}).stamp + s.nat (0x48A0 + i) 7 * 1000000
      ≤ s.tm.now + 100000) := by
  refine ⟨?_, ?_⟩
  · exact ⟨st rn [(0x48AF,1,1)], 15, { sentGood with tick := 10000 }, by decide +kernel⟩
  · exact ⟨late (st rn [(0x48AF,1,1)]), 15, by decide +kernel⟩
theorem test_hyp_FieldGroups_1 :
    (∃ (s : State), ∃ g, g < 4 ∧ g < s.fio.grp.length ∧ grpMay s g = true ∧ (s.fgrp g).enable = false) ∧
    (∃ (s : State), ∃ g, g < 4 ∧ grpMay s g = false) ∧
    (∃ (s : State), ∃ g, g < 4 ∧ (s.fgrp g).enable = true) ∧
    (∃ (s : State), ∃ g, g < 4 ∧ s.reachable = true ∧ (s.fgrp g).seen = false) ∧
    (∃ (s : State), ∃ g, g < 4 ∧ s.reachable = true ∧ (s.fgrp g).seen = true ∧ (s.fgrp g).low = false) ∧
    (∃ (s : State), ∃ g, g < 4 ∧ s.reachable = true ∧ (s.fgrp g).seen = true ∧ (s.fgrp g).low = true) ∧
    (∃ (s : State), ∃ g, g < 4 ∧ g < s.fio.grp.length ∧ s.reachable = true ∧ (s.fgrp g).missing = false ∧ (48 ≤ s.nat 0x3C00 7 ∨ grpOf (s.nat 0x3C00
      7) ≠ g)) ∧
    (∃ (s : State), ∃ g, g < 4 ∧ g < s.fio.grp.length ∧ s.reachable = true ∧ (s.fgrp g).overV = false ∧ (48 ≤ s.nat 0x3C00 7 ∨ grpOf (s.nat 0x3C00 7)
      ≠ g)) ∧
    (∃ (s : State), ∃ g, g < 4 ∧ s.tm.mono < (s.fgrp g).condAt + 20000000) ∧
    (∃ (s : State), ∃ g, g < 4 ∧ g < s.fio.grp.length ∧ s.reachable = true ∧ (s.fgrp g).absent = true ∧ (s.fgrp g).condAt + 20000000 ≤ s.tm.mono) ∧
    (∃ (s : State), ∃ g, ∃ n, g < 4 ∧ (s.fgrp g).restoring = true ∧ (outPins s g)[(s.fgrp g).slot]? = some n ∧ n < s.fio.pins.length) ∧
    (∃ (s : State), ∃ g, g < 4 ∧ (s.fgrp g).restoring = false) := by
  refine ⟨?_, ?_, ?_, ?_, ?_, ?_, ?_, ?_, ?_, ?_, ?_, ?_⟩
  · exact ⟨grpIn, 3, by decide +kernel⟩
  · exact ⟨rn, 3, by decide +kernel⟩
  · exact ⟨rn.updGrp 3 fun g => { g with enable := true }, 3, by decide +kernel⟩
  · exact ⟨rn, 3, by decide +kernel⟩
  · exact ⟨rn.updGrp 3 fun g => { g with seen := true }, 3, by decide +kernel⟩
  · exact ⟨rn.updGrp 3 fun g => { g with seen := true, low := true }, 3, by decide +kernel⟩
  · exact ⟨rn.updGrp 3 fun g => { g with missing := false }, 3, by decide +kernel⟩
  · exact ⟨rn, 3, by decide +kernel⟩
  · exact ⟨rn, 3, by decide +kernel⟩
  · exact ⟨late rn, 3, by decide +kernel⟩
  · exact ⟨(st rn [(0x442F,1,3)]).updGrp 3 fun g => { g with restoring := true }, 3, 47, by decide +kernel⟩
  · exact ⟨rn, 3, by decide +kernel⟩
theorem test_hyp_FieldGroups_2 :
    (∃ (s : State), ∃ g, g < 4 ∧ (s.fgrp g).enable = true ∧ (s.fgrp g).overload = false) ∧
    (∃ (s : State), ∃ g, g < 4 ∧ (s.fgrp g).guardDue = none) ∧
    (∃ (s : State), ∃ g, g < 4 ∧ s.reachable = true ∧ (s.fgrp g).guard = false ∧ (s.fgrp g).enable = true ∧ (∃ d, (s.fgrp g).guardDue = some d ∧ d ≤
      s.tm.mono + 100000)) ∧
    (∃ (s : State), ∃ g, g < 4 ∧ (s.fgrp g).guard = true ∧ 10 ≤ (s.fgrp g).latches) ∧
    (∃ (s : State), ∃ k, ∃ g, g < 4 ∧ s.admits k (0x4480 + g) 7 (.int 1) ∧ (s.fgrp g).latched = true ∧ (outPins s g).any (baseCmd s) = false) ∧
    (∃ (s : State), ∃ k, ∃ g, g < 4 ∧ s.admits k (0x4480 + g) 7 (.int 1) ∧ (s.fgrp g).latched = true ∧ (outPins s g).any (baseCmd s) = true) := by
  refine ⟨?_, ?_, ?_, ?_, ?_, ?_⟩
  · exact ⟨rn.updGrp 3 fun g => { g with enable := true }, 3, by decide +kernel⟩
  · exact ⟨rn, 3, by decide +kernel⟩
  · exact ⟨rn.updGrp 3 (fun g => { g with enable := true, guardDue := some 0 }), 3, ⟨by decide +kernel, by decide +kernel, by decide +kernel,
      by decide +kernel, 0, by decide +kernel⟩⟩
  · exact ⟨rn.updGrp 3 fun g => { g with guard := true, latches := 10 }, 3, by decide +kernel⟩
  · exact ⟨rn.updGrp 3 fun g => { g with latched := true }, 0, 3, by unfold State.admits State.serves; decide +kernel⟩
  · exact ⟨((st rn [(0x442F,1,3)]).updGrp 3 fun g => { g with latched := true }).updPin 47 fun p => { p with cmd := true }, 0, 3,
      by unfold State.admits State.serves; decide +kernel⟩
theorem test_hyp_FieldPins_1 :
    (∃ (s : State), ∃ n, ∃ mV, ∃ stamp, n < 48 ∧ n < s.fio.pins.length ∧ s.reachable = true ∧ pinValid s n = true ∧ inputReads (s.nat (0x4400 + n) 1)
      mV (s.fpin n).level ≠ (s.fpin n).level ∧ sampleAt stamp + s.nat (0x4400 + n) 2 * 100000 ≤ s.tm.now + 100000) ∧
    (∃ (s : State), ∃ n, n < 48 ∧ n < s.fio.pins.length ∧ s.reachable = true ∧ pinValid s n = false) ∧
    (∃ (s : State), ∃ k, ∃ n, ∃ v, n < 48 ∧ s.admits k (0x4400 + n) 3 (.int v) ∧ s.nat 0x3C00 0xB ≠ n ∧ pinDriven s n = false ∧ (s.pw.dev = .run ∨
      s.pw.dev = .service)) ∧
    (∃ (s : State), ∃ k, ∃ n, ∃ v, n < 48 ∧ s.admits k (0x4400 + n) 3 (.int v) ∧ (s.nat 0x3C00 0xB = n ∨ pinDriven s n = true ∨ s.pw.dev = .start)) ∧
    (∃ (s : State), ∃ n, n < 48 ∧ n < s.fio.pins.length ∧ pinOut s n = true) ∧
    (∃ (s : State), ∃ n, ∃ (high : Bool), n < 48 ∧ n < s.fio.pins.length ∧ s.reachable = true ∧ (s.fpin n).overtemp ≠ high) ∧
    (∃ (s : State), ∃ n, n < 48 ∧ n < s.fio.pins.length ∧ (s.fpin n).noLoad = false ∧ pinOut s n = true) ∧
    (∃ (s : State), ∃ n, n < 48 ∧ (s.fpin n).noLoad = true) ∧
    (∃ (s : State), ∃ n, n < 48 ∧ n < s.fio.pins.length ∧ (s.fpin n).extDrive = false ∧ (s.fgrp (grpOf n)).absent = false ∧ s.nat (0x4400 + n) 1 = 3
      ∧ pinCmd s n = false) ∧
    (∃ (s : State), ∃ m, ∃ n, m < 48 ∧ n < 48 ∧ m ≠ n ∧ m < s.fio.pins.length ∧ n < s.fio.pins.length ∧ s.nat (0x4400 + m) 1 = 3 ∧ s.nat (0x4400 + n)
      1 = 3 ∧ (s.fgrp (grpOf m)).absent = false ∧ (s.fgrp (grpOf n)).absent = false ∧ pinCmd s m = false ∧ 2 ≤ (pairCount s.fio.pairs m n).1 ∧
      (s.fpin n).joined = false) ∧
    (∃ (s : State), ∃ m, ∃ n, m < 48 ∧ n < 48 ∧ m ≠ n ∧ n < s.fio.pins.length ∧ s.nat (0x4400 + m) 1 = 3 ∧ s.nat (0x4400 + n) 1 = 3 ∧ (s.fgrp (grpOf
      m)).absent = false ∧ (s.fgrp (grpOf n)).absent = false ∧ pinCmd s m = false ∧ 2 ≤ (pairCount s.fio.pairs m n).2 ∧ (s.fpin n).joined = true ∧
      (s.fpin n).joinedWith = m) ∧
    (∃ (s : State), ∃ k, ∃ n, n < 48 ∧ s.admits k (0x4400 + n) 5 (.int 1) ∧ (s.fpin n).latched = true ∧ baseCmd s n = false) := by
  refine ⟨?_, ?_, ?_, ?_, ?_, ?_, ?_, ?_, ?_, ?_, ?_, ?_⟩
  · exact ⟨((st rn [(0x442F,1,1)]).updGrp 3 fun g => { g with missing := false }).updTm (fun t => { t with mono := 1000000000, now := 1000000000 }),
      47, 11000, 0, by decide +kernel⟩
  · exact ⟨rn, 47, by decide +kernel⟩
  · exact ⟨rn, 0, 47, 1, by unfold State.admits State.serves; decide +kernel⟩
  · exact ⟨dv .start, 0, 47, 1, by unfold State.admits State.serves; decide +kernel⟩
  · exact ⟨((st rn [(0x442F,1,3)]).updGrp 3 fun g => { g with enable := true, missing := false }).updPin 47 fun p =>
      { p with cmd := true, slotted := true }, 47, by decide +kernel⟩
  · exact ⟨rn, 47, true, by decide +kernel⟩
  · exact ⟨((st rn [(0x442F,1,3)]).updGrp 3 fun g => { g with enable := true, missing := false }).updPin 47 fun p =>
      { p with cmd := true, slotted := true }, 47, by decide +kernel⟩
  · exact ⟨rn.updPin 47 fun p => { p with noLoad := true }, 47, by decide +kernel⟩
  · exact ⟨(st rn [(0x442F,1,3)]).updGrp 3 fun g => { g with missing := false }, 47, by decide +kernel⟩
  · exact ⟨((st rn [(0x442F,1,3),(0x4400,1,3)]).updFio fun x => { x with grp := List.replicate 4 { missing := false }, pairs := [(47, 0, 2, 0)] }),
      47, 0, by decide +kernel⟩
  · exact ⟨((st rn [(0x442F,1,3),(0x4400,1,3)]).updFio fun x => { x with grp := List.replicate 4 { missing := false }, pairs := [(47, 0, 0, 2)]
      }).updPin 0 fun p => { p with joined := true, joinedWith := 47 }, 47, 0, by decide +kernel⟩
  · exact ⟨rn.updPin 47 fun p => { p with latched := true }, 0, 47, by unfold State.admits State.serves; decide +kernel⟩
theorem test_hyp_FieldPins_2 :
    (∃ (s : State), ∃ k, ∃ n, n < 48 ∧ s.admits k (0x4400 + n) 5 (.int 1) ∧ (s.fpin n).latched = true ∧ baseCmd s n = true) ∧
    (∃ (s : State), ∃ k, ∃ n, ∃ v, n < 48 ∧ s.admits k (0x4400 + n) 1 (.int v) ∧ s.configurable = true ∧ v ≠ 3) ∧
    (∃ (s : State), ∃ k, ∃ n, ∃ v, n < 48 ∧ s.admits k (0x4400 + n) 1 (.int v) ∧ s.configurable = false ∧ pinSelected s n = true) := by
  refine ⟨?_, ?_, ?_⟩
  · exact ⟨rn.updPin 47 fun p => { p with latched := true, cmd := true }, 0, 47, by unfold State.admits State.serves; decide +kernel⟩
  · exact ⟨dv .service, 0, 47, 1, by unfold State.admits State.serves; decide +kernel⟩
  · exact ⟨st rn [(0x3C00,7,47)], 0, 47, 1, by unfold State.admits State.serves; decide +kernel⟩
theorem test_hyp_OneShotFrames :
    (∃ (s : State), ∃ c, ∃ j, ∃ f, nextObject s c = some (j, f)) ∧
    (∃ (s : State), ∃ c, ∃ j, ∃ f, c < 8 ∧ (s.cch c).up = true ∧ nextObject s c = some (j, f) ∧ (s.cobj c j).oneShot = true ∧ (s.cobj c j).cancel =
      false) ∧
    (∃ (s : State), ∃ c, ∃ j, ∃ f, c < 8 ∧ (s.cch c).up = true ∧ nextObject s c = some (j, f) ∧ (s.cobj c j).oneShot = true ∧ (s.cobj c j).cancel =
      false) := by
  refine ⟨?_, ?_, ?_⟩
  · exact ⟨canTx fun o => o, 7, 63, frame1, by decide +kernel⟩
  · exact ⟨canTx fun o => { o with oneShot := true }, 7, 63, frame1, by decide +kernel⟩
  · exact ⟨canTx fun o => { o with oneShot := true }, 7, 63, frame1, by decide +kernel⟩
theorem test_hyp_SlicePairRefusal :
    (∃ (s : State), ∃ (n v : Nat), dictWf s.dict = true ∧ s.admits n 0x3810 1 (.int v) ∧ (2048 * v : Rat) < (s.nat 0x3810 2 : Rat) * 2500 / 3) ∧
    (∃ (s : State), ∃ (n v : Nat), dictWf s.dict = true ∧ s.admits n 0x3810 2 (.int v) ∧ (2048 * s.nat 0x3810 1 : Rat) < (v : Rat) * 2500 / 3) ∧
    (∃ (s : State), ∃ (n v : Nat), dictWf s.dict = true ∧ s.admits n 0x3810 1 (.int v) ∧ (s.nat 0x3810 2 : Rat) * 2500 / 3 ≤ (2048 * v : Rat)) ∧
    (∃ (s : State), ∃ (n v : Nat), dictWf s.dict = true ∧ s.admits n 0x3810 2 (.int v) ∧ (v : Rat) * 2500 / 3 ≤ (2048 * s.nat 0x3810 1 : Rat)) := by
  refine ⟨?_, ?_, ?_, ?_⟩
  · exact ⟨st rn [(0x3810,1,250),(0x3810,2,600)], 0, 100, by unfold State.admits State.serves; decide +kernel⟩
  · exact ⟨st rn [(0x3810,1,100)], 0, 400, by unfold State.admits State.serves; decide +kernel⟩
  · exact ⟨st rn [(0x3810,2,200)], 0, 1000, by unfold State.admits State.serves; decide +kernel⟩
  · exact ⟨st rn [(0x3810,1,1000)], 0, 200, by unfold State.admits State.serves; decide +kernel⟩
theorem test_hyp_EventCancelResults :
    (∃ (s : State), ∃ n, ∃ (id : Nat), s.admits n 0x3820 4 (.int id) ∧ (∃ e ∈ s.pctl.events, e.id = id)) ∧
    (∃ (s : State), ∃ n, ∃ (id : Nat), s.admits n 0x3820 4 (.int id) ∧ (∀ e ∈ s.pctl.events, e.id ≠ id) ∧ s.pctl.released.contains id = true) ∧
    (∃ (s : State), ∃ n, ∃ (id : Nat), s.admits n 0x3820 4 (.int id) ∧ (∀ e ∈ s.pctl.events, e.id ≠ id) ∧ s.pctl.released.contains id = false) := by
  refine ⟨?_, ?_, ?_⟩
  · exact ⟨rn.updPctl fun p => { p with events := [⟨7, 0, 1, 0, 0, 0, 0, 0, 1, 1, 0, 0⟩] }, 0, 7, by unfold State.admits State.serves; decide +kernel⟩
  · exact ⟨rn.updPctl fun p => { p with released := [7] }, 0, 7, by unfold State.admits State.serves; decide +kernel⟩
  · exact ⟨rn, 0, 7, by unfold State.admits State.serves; decide +kernel⟩
theorem test_hyp_CanRequests_1 :
    (∃ (s : State), ∃ c, ∃ j, ∃ f, c < 8 ∧ (s.cch c).up = true ∧ nextObject s c = some (j, f) ∧ (f.fd = false ∨ f.brs = false)) ∧
    (∃ (s : State), ∃ c, ∃ j, ∃ f, ∃ (out : CanTxOutcome), c < 8 ∧ (s.cch c).up = true ∧ nextObject s c = some (j, f) ∧ (s.cobj c j).cancel = true ∧
      (out = .arbitrationLost ∨ out = .errorOther)) ∧
    (∃ (s : State), ∃ c, ∃ j, ∃ f, c < 8 ∧ (s.cch c).up = true ∧ nextObject s c = some (j, f) ∧ (s.cobj c j).cancel = false ∧ (s.cobj c j).oneShot =
      false) ∧
    (∃ (s : State), ∃ c, ∃ j, ∃ f, c < 8 ∧ (s.cch c).up = true ∧ nextObject s c = some (j, f) ∧ (s.cobj c j).cancel = false ∧ (s.cobj c j).oneShot =
      false ∧ (s.cobj c j).conflicts = 0) ∧
    (∃ (s : State), ∃ c, ∃ j, ∃ f, c < 8 ∧ (s.cch c).up = true ∧ nextObject s c = some (j, f) ∧ (1 ≤ (s.cobj c j).conflicts ∨ (s.cobj c j).oneShot =
      true)) ∧
    (∃ (s : State), ∃ c, ∃ f, c < 8 ∧ (s.cch c).up = true ∧ formOk c f = true ∧ filterOf s c f = none) ∧
    (∃ (s : State), ∃ c, ∃ f, c < 8 ∧ (s.cch c).up = true ∧ formOk c f = true ∧ filterOf s c f = some 0 ∧ (s.cch c).fifo0.length < 128) ∧
    (∃ (s : State), ∃ c, ∃ f, c < 8 ∧ (s.cch c).up = true ∧ formOk c f = true ∧ filterOf s c f = some 1 ∧ 128 ≤ (s.cch c).fifo1.length) ∧
    (∃ (s : State), ∃ n, ∃ c, ∃ r, ∃ f, ∃ one, ∃ j, s.admits n 0x5420 2 (.bytes r) ∧ (s.sessOf n).win.frameChannel = c + 1 ∧ frameOfRecord c r = some
      (f, one) ∧ (s.pw.dev = .run ∨ s.pw.dev = .service) ∧ sessionPending s n = none ∧ sessionObject s c n = some j ∧ (s.cch c).up = true ∧ j <
      (s.cch c).objs.length) ∧
    (∃ (s : State), ∃ n, ∃ c, ∃ r, ∃ x, s.admits n 0x5420 2 (.bytes r) ∧ (s.sessOf n).win.frameChannel = c + 1 ∧ frameOfRecord c r = some x ∧
      ((sessionPending s n).isSome = true ∨ sessionObject s c n = none)) ∧
    (∃ (s : State), ∃ n, ∃ c, ∃ r, s.admits n 0x5420 2 (.bytes r) ∧ (s.sessOf n).win.frameChannel = c + 1 ∧ frameOfRecord c r = none) ∧
    (∃ (s : State), ∃ n, ∃ v, ∃ c, ∃ j, s.admits n 0x5420 3 (.int v) ∧ sessionPending s n = some (c, j)) := by
  refine ⟨?_, ?_, ?_, ?_, ?_, ?_, ?_, ?_, ?_, ?_, ?_, ?_⟩
  · exact ⟨canTx fun o => o, 7, 63, frame1, by decide +kernel⟩
  · exact ⟨canTx fun o => { o with cancel := true }, 7, 63, frame1, .arbitrationLost, by decide +kernel⟩
  · exact ⟨canTx fun o => o, 7, 63, frame1, by decide +kernel⟩
  · exact ⟨canTx fun o => o, 7, 63, frame1, by decide +kernel⟩
  · exact ⟨canTx fun o => { o with oneShot := true }, 7, 63, frame1, by decide +kernel⟩
  · exact ⟨rn, 7, frame1, by decide +kernel⟩
  · exact ⟨st rn [(0x3C38,1,8),(0x3C38,2,0x123)], 7, frame1, by decide +kernel⟩
  · exact ⟨rn.updCch 7 fun x => { x with fifo1 := List.replicate 128 (frame1, 0) }, 7, { frame1 with id := 0x67E }, by decide +kernel⟩
  · exact ⟨ses rn (fun x => { x with win := { x.win with frameChannel := 8 } }), 0, 7, frameRec 1 0, frame1, false, 40,
      by unfold State.admits State.serves; decide +kernel⟩
  · exact ⟨(ses rn (fun x => { x with win := { x.win with frameChannel := 8 } })).updCobj 7 47 fun o =>
      { o with owner := some 0, pending := some frame1 }, 0, 7, frameRec 1 0, (frame1, false), by unfold State.admits State.serves; decide +kernel⟩
  · exact ⟨ses rn (fun x => { x with win := { x.win with frameChannel := 8 } }), 0, 7, frameRec 9 0,
      by unfold State.admits State.serves; decide +kernel⟩
  · exact ⟨rn.updCobj 7 47 fun o => { o with owner := some 0, pending := some frame1 }, 0, 1, 7, 47,
      by unfold State.admits State.serves; decide +kernel⟩
theorem test_hyp_CanRequests_2 :
    (∃ (s : State), ∃ n, ∃ v, s.admits n 0x5420 3 (.int v) ∧ sessionPending s n = none) ∧
    (∃ (s : State), ∃ n, ∃ c, ∃ j, c < 8 ∧ j < 64 ∧ s.admits n (0x5400 + c) 0x19 (.int (256 + j : Nat)) ∧ (s.cobj c j).suspended = true) := by
  refine ⟨?_, ?_⟩
  · exact ⟨rn, 0, 1, by unfold State.admits State.serves; decide +kernel⟩
  · exact ⟨rn.updCobj 7 63 fun o => { o with suspended := true }, 0, 7, 63, by unfold State.admits State.serves; decide +kernel⟩
theorem test_hyp_CanChannels_1 :
    (∃ (s : State), ∃ c, c < 8 ∧ (s.cch c).up = true ∧ (∀ m, (s.sessOf m).opened = true → (s.sessOf m).transport ≠ .c8)) ∧
    (∃ (s : State), ∃ c, c < 8 ∧ (s.cch c).state = 4 ∧ s.nat (0x5400 + c) 0xE = 0) ∧
    (∃ (s : State), ∃ c, c < 8 ∧ s.nat (0x5400 + c) 0xE ≠ 0) ∧
    (∃ (s : State), ∃ n, ∃ c, c < 8 ∧ s.admits n (0x5400 + c) 0x19 (.int 512) ∧ (s.cch c).state = 4) ∧
    (∃ (s : State), ∃ c, c < 8 ∧ (s.cch c).up = true) ∧
    (∃ (s : State), ∃ c, 2 ≤ c ∧ c < 8 ∧ (s.cch c).up = true) ∧
    (∃ (c : Nat), c < 2) ∧
    (∃ (s : State), ∃ n, ∃ c, ∃ v, c < 8 ∧ s.admits n (0x5400 + c) 2 (.int v) ∧ s.flag (0x5400 + c) 1 = false ∧ (∀ m, (s.sessOf m).opened = true →
      (s.sessOf m).transport ≠ .c8)) ∧
    (∃ (s : State), ∃ n, ∃ c, c < 8 ∧ s.admits n (0x5400 + c) 1 (.int 1) ∧ timingOk s c = false ∧ (∀ m, (s.sessOf m).opened = true → (s.sessOf
      m).transport ≠ .c8)) ∧
    (∃ (s : State), ∃ n, ∃ c, c < 8 ∧ s.admits n (0x5400 + c) 1 (.int 1) ∧ timingOk s c = true ∧ (s.cch c).state = 0 ∧ c < s.can.ch.length ∧ (∀ m,
      (s.sessOf m).opened = true → (s.sessOf m).transport ≠ .c8)) ∧
    (∃ (s : State), s.reachable = true ∧ s.flag 0x5410 1 = true ∧ (s.cch (s.nat 0x5410 2 - 1)).up = true ∧ s.can.refSuspended = false) ∧
    (∃ (s : State), s.reachable = true ∧ s.flag 0x5410 1 = true) := by
  refine ⟨?_, ?_, ?_, ?_, ?_, ?_, ?_, ?_, ?_, ?_, ?_, ?_⟩
  · exact ⟨tr rn .usb, 7, ⟨by decide, by decide +kernel, not_c8 (by decide +kernel)⟩⟩
  · exact ⟨rn.updCch 7 fun x => { x with state := 4 }, 7, by decide +kernel⟩
  · exact ⟨st rn [(0x5407,0xE,1)], 7, by decide +kernel⟩
  · exact ⟨(tr rn .usb).updCch 7 fun x => { x with state := 4 }, 0, 7, by unfold State.admits State.serves; decide +kernel⟩
  · exact ⟨rn, 7, by decide +kernel⟩
  · exact ⟨rn, 7, by decide +kernel⟩
  · exact ⟨1, by decide +kernel⟩
  · exact ⟨(tr (st rn [(0x5407,1,0)]) .usb), 0, 7, 2, ⟨by decide, by unfold State.admits State.serves; decide +kernel, by decide +kernel, not_c8
      (by decide +kernel)⟩⟩
  · exact ⟨tr (st rn [(0x5407,3,2),(0x5407,4,2)]) .usb, 0, 7, ⟨by decide, by unfold State.admits State.serves; decide +kernel, by decide +kernel,
      not_c8 (by decide +kernel)⟩⟩
  · exact ⟨tr rn .usb, 0, 6, ⟨by decide, by unfold State.admits State.serves; decide +kernel, by decide +kernel, by decide +kernel,
      by decide +kernel, not_c8 (by decide +kernel)⟩⟩
  · exact ⟨st rn [(0x5410,2,8)], by decide +kernel⟩
  · exact ⟨rn, by decide +kernel⟩
theorem test_hyp_CanChannels_2 :
    (∃ (s : State), ∃ n, ∃ v, s.admits n 0x5410 0xA (.int v)) ∧
    (∃ (s : State), ∃ k, ∃ a, k < 4 ∧ k < s.can.cf.length ∧ s.reachable = true ∧ s.nat (0x5430 + k) 1 ≠ 0 ∧ mayClaim s k a = true) ∧
    (∃ (s : State), ∃ k, k < 4 ∧ k < s.can.cf.length ∧ s.reachable = true ∧ s.nat (0x5430 + k) 1 ≠ 0) ∧
    (∃ (s : State), ∃ k, ∃ a, k < 4 ∧ k < s.can.cf.length ∧ s.reachable = true ∧ (s.cobj (cfChannel k) k).suspended = true ∧ mayClaim s k a = true)
      := by
  refine ⟨?_, ?_, ?_, ?_⟩
  · exact ⟨rn, 0, 1, by unfold State.admits State.serves; decide +kernel⟩
  · exact ⟨st rn [(0x5433,1,5)], 3, 128, by decide +kernel⟩
  · exact ⟨st rn [(0x5433,1,5)], 3, by decide +kernel⟩
  · exact ⟨(st rn [(0x5433,1,5)]).updCobj 1 3 fun o => { o with suspended := true }, 3, 128, by decide +kernel⟩
theorem test_hyp_FlowstoneCommands_1 :
    (∃ (s : State), ∃ (ev : FlowEv), recording s = true ∧ writerCode ev.code = true ∧ ev.more.length ≤ 112 ∧ ev.payload.length ≤ 8) ∧
    (∃ (f : Flow), ∃ (r : FlowRec), (severityOf r.code = 3 ∨ (codeCount f.perCode r.code).1 < f.limit) ∧ flowSize f.wait + r.size ≤ 8192) ∧
    (∃ (f : Flow), ∃ (r : FlowRec), severityOf r.code ≠ 3 ∧ f.limit ≤ (codeCount f.perCode r.code).1) ∧
    (∃ (s : State), recording s = true ∧ s.flow.second ≠ s.tm.mono / 1000000000 ∧ (∀ e ∈ s.flow.perCode, e.2.2 = 0)) ∧
    (∃ (s : State), recording s = true ∧ s.flow.wait ≠ []) ∧
    (∃ (s : State), recording s = true ∧ s.flow.wait = []) ∧
    (∃ (s : State), ∃ u, recording s = true ∧ s.flow.flushUntil = some u ∧ s.flow.flushFailed = false ∧ s.flow.lostPending = 0) ∧
    (∃ (s : State), recording s = true ∧ s.flow.flushUntil.isSome = true ∧ s.flow.flushFailed = false) ∧
    (∃ (s : State), ∃ (k : Nat), ∃ l, ∃ r, s.pw.dev = .start ∧ s.flow.ring = l ++ [r] ∧ k ≠ 0 ∧ s.flow.lostPending = 0) ∧
    (∃ (s : State), ∃ n, s.serves n 0x5810) ∧
    (∃ (s : State), ∃ n, s.admits n 0x5800 0xA (.int 1)) ∧
    (∃ (s : State), ∃ n, s.admits n 0x5800 0xA (.int 2)) := by
  refine ⟨?_, ?_, ?_, ?_, ?_, ?_, ?_, ?_, ?_, ?_, ?_, ?_⟩
  · exact ⟨rn, ⟨0xD001, 0, 0, List.replicate 8 0#8, List.replicate 112 0#8, 0xFFFFFFFF, 0xF⟩, by decide +kernel⟩
  · exact ⟨{}, rec1 0xD001, by decide +kernel⟩
  · exact ⟨{ limit := 0 }, rec1 0x1003, by decide +kernel⟩
  · exact ⟨rn.updTm fun t => { t with mono := 1000000000 }, by decide +kernel⟩
  · exact ⟨rn.updFlow fun f => { f with wait := [rec1 0x1003] }, by decide +kernel⟩
  · exact ⟨rn, by decide +kernel⟩
  · exact ⟨rn.updFlow fun f => { f with flushUntil := some 5 }, 5, by decide +kernel⟩
  · exact ⟨rn.updFlow fun f => { f with flushUntil := some 5 }, by decide +kernel⟩
  · exact ⟨(dv .start).updFlow fun f => { f with ring := [rec1 0x1003] }, 1, [], rec1 0x1003, by decide +kernel⟩
  · exact ⟨rn, 0, by unfold State.serves; decide +kernel⟩
  · exact ⟨rn, 0, by unfold State.admits State.serves; decide +kernel⟩
  · exact ⟨rn, 0, by unfold State.admits State.serves; decide +kernel⟩
theorem test_hyp_FlowstoneCommands_2 :
    (∃ (s : State), ∃ n, s.admits n 0x5800 0xA (.int 3)) ∧
    (∃ (s : State), ∃ n, s.admits n 0x5800 0xA (.int 4) ∧ (s.sessOf n).role = 4 ∧ s.per.fuse = false) ∧
    (∃ (s : State), ∃ n, s.admits n 0x5800 0xA (.int 4) ∧ (s.sessOf n).role = 4 ∧ s.per.fuse = true) ∧
    (∃ (s : State), ∃ n, ∃ (c k : Nat), s.admits n 0x5820 3 (.int c) ∧ s.flow.fot.findIdx? (fun e => e.first.code == c) = some k) ∧
    (∃ (s : State), ∃ n, ∃ (c : Nat), s.admits n 0x5820 3 (.int c) ∧ (∀ e ∈ s.flow.fot, e.first.code ≠ c)) := by
  refine ⟨?_, ?_, ?_, ?_, ?_⟩
  · exact ⟨rn, 0, by unfold State.admits State.serves; decide +kernel⟩
  · exact ⟨rn, 0, by unfold State.admits State.serves; decide +kernel⟩
  · exact ⟨rn.updPer fun p => { p with fuse := true }, 0, by unfold State.admits State.serves; decide +kernel⟩
  · exact ⟨rn.updFlow fun f => { f with fot := [⟨rec1 0x1003, 1, 0, 0⟩] }, 0, 0x1003, 0, by unfold State.admits State.serves; decide +kernel⟩
  · exact ⟨rn, 0, 0x1003, by unfold State.admits State.serves; decide +kernel⟩
theorem test_hyp_PanelPower_1 :
    (∃ (s : State), s.reachable = true ∧ s.flag 0x5C00 1 = true ∧ s.lan.state = 0) ∧
    (∃ (s : State), s.lan.state ≠ 0) ∧
    (∃ (s : State), (s.pw.dev = .shutdown ∨ s.flag 0x5C00 1 = false) ∧ (s.lan.state = 3 ∨ s.lan.state = 4) ∧ s.lan.retraining = false) ∧
    (∃ (s : State), (s.pw.dev = .shutdown ∨ s.flag 0x5C00 1 = false) ∧ (s.lan.state = 1 ∨ s.lan.state = 2)) ∧
    (∃ (s : State), s.lan.state ≠ 0 ∧ s.lan.state ≠ 6) ∧
    (∃ (s : State), (s.lan.state = 0 ∨ s.lan.state = 6)) ∧
    (∃ (s : State), 1 ≤ s.lan.state ∧ s.lan.state ≤ 5) ∧
    (∃ (s : State), s.reachable = true ∧ s.flag 0x5C00 1 = true ∧ s.lan.state = 0 ∧ (s.lan.supplyFault = true ∨ s.lan.linkFault = true) ∧
      s.lan.failAt + 1000000000 ≤ s.tm.mono) ∧
    (∃ (s : State), s.tm.mono < s.lan.failAt + 1000000000) ∧
    (∃ (s : State), ∃ n, ∃ v, s.admits n 0x5C00 0x17 (.int v) ∧ s.lan.state = 6) ∧
    (∃ (s : State), ∃ n, ∃ v, s.admits n 0x5C00 0x17 (.int v) ∧ s.lan.state ≠ 6) ∧
    (∃ (s : State), ∃ n, dictWf s.dict = true ∧ s.admits n 0x5C00 1 (.int 1) ∧ s.reachable = true ∧ s.flag 0x5C00 1 = false ∧ s.lan.state = 0) := by
  refine ⟨?_, ?_, ?_, ?_, ?_, ?_, ?_, ?_, ?_, ?_, ?_, ?_⟩
  · exact ⟨st rn [(0x5C00,1,1)], by decide +kernel⟩
  · exact ⟨panel 6, by decide +kernel⟩
  · exact ⟨panel 3, by decide +kernel⟩
  · exact ⟨panel 2, by decide +kernel⟩
  · exact ⟨panel 5, by decide +kernel⟩
  · exact ⟨panel 6, by decide +kernel⟩
  · exact ⟨panel 5, by decide +kernel⟩
  · exact ⟨late ((st rn [(0x5C00,1,1)]).updLan fun x => { x with supplyFault := true }), by decide +kernel⟩
  · exact ⟨rn, by decide +kernel⟩
  · exact ⟨panel 6, 0, 1, by unfold State.admits State.serves; decide +kernel⟩
  · exact ⟨rn, 0, 1, by unfold State.admits State.serves; decide +kernel⟩
  · exact ⟨st rn [(0x5C00,1,0)], 0, by unfold State.admits State.serves; decide +kernel⟩
theorem test_hyp_PanelPower_2 :
    (∃ (s : State), ∃ n, s.admits n 0x5C00 1 (.int 0) ∧ s.lan.state = 4 ∧ s.lan.retraining = false) ∧
    (∃ (s : State), (s.lan.state = 2 ∨ s.lan.retraining = true) ∧ s.lan.locked = false) ∧
    (∃ (s : State), s.lan.state = 2 ∧ s.lan.locked = false) ∧
    (∃ (s : State), (s.lan.state = 3 ∨ s.lan.state = 4) ∧ s.lan.retraining = false) ∧
    (∃ (s : State), 2 ≤ s.lan.state ∧ s.lan.state ≠ 6 ∧ s.lan.vcomFault = false) ∧
    (∃ (s : State), 2 ≤ s.lan.state ∧ s.lan.state ≠ 6 ∧ s.lan.vcomFault = true) ∧
    (∃ (s : State), s.reachable = true) := by
  refine ⟨?_, ?_, ?_, ?_, ?_, ?_, ?_⟩
  · exact ⟨panel 4, 0, by unfold State.admits State.serves; decide +kernel⟩
  · exact ⟨panel 2, by decide +kernel⟩
  · exact ⟨panel 2, by decide +kernel⟩
  · exact ⟨panel 4, by decide +kernel⟩
  · exact ⟨panel 5, by decide +kernel⟩
  · exact ⟨(panel 5).updLan fun x => { x with vcomFault := true }, by decide +kernel⟩
  · exact ⟨rn, by decide +kernel⟩
theorem test_hyp_PanelFrames_1 :
    (∃ (s : State), ∃ n, ∃ (px : Bytes), (s.lan.state = 3 ∨ s.lan.state = 4) ∧ s.lan.retraining = false ∧ 0 < s.lan.frameCount ∧ n <
      s.lan.time.height ∧ px.length = 3 * s.lan.time.width) ∧
    (∃ (s : State), (s.lan.state < 3 ∨ s.lan.state = 6 ∨ s.lan.retraining = true)) ∧
    (∃ x, ∃ n, ∃ i, inCover x n i = true) ∧
    (∃ x, ∃ n, ∃ i, inCover x n i = false ∧ (x.cfg.overdrive = false ∨ x.prev = [])) ∧
    (∃ T1, ∃ T2, ∃ T3, ∃ t, ∃ b, b ≤ 3 ∧ (0 < b → 10 * [T1, T2, T3].getD (b - 1) 0 - 10 ≤ t) ∧ (b < 3 → t < 10 * [T1, T2, T3].getD b 0 + 10)) ∧
    (∃ (s : State), (s.lan.state < 2 ∨ s.lan.state = 6)) ∧
    (∃ (s : State), s.lan.state = 2 ∧ s.lan.locked = true ∧ s.lan.retraining = false) ∧
    (∃ (s : State), ∃ (x : BlankIn), s.lan.state = 3 ∧ s.lan.retraining = false ∧ s.lan.broken = false ∧ x.whole = true ∧ 0 < s.lan.frameCount) ∧
    (∃ (s : State), s.lan.state = 4 ∧ s.lan.retraining = false ∧ s.lan.cover.on = false) ∧
    (∃ (s : State), ∃ (x : BlankIn), s.lan.state = 4 ∧ s.lan.retraining = false ∧ s.lan.broken = false ∧ s.lan.cover.on = true ∧ s.lan.blackNow =
      false ∧ x.whole = true ∧ x.crcRead = coverCrc s.lan.cover s.lan.frameCount) ∧
    (∃ (s : State), ∃ (x : BlankIn), s.lan.state = 4 ∧ s.lan.retraining = false ∧ s.lan.cover.on = true ∧ s.lan.blackNow = false ∧ (x.whole = false ∨
      s.lan.broken = true ∨ x.crcRead ≠ coverCrc s.lan.cover s.lan.frameCount) ∧ s.lan.check.fault = false ∧ s.lan.cover.failFrames ≤
      s.lan.check.fails + 1) ∧
    (∃ (s : State), ∃ (x : BlankIn), s.lan.state = 4 ∧ s.lan.retraining = false ∧ s.lan.cover.on = true ∧ s.lan.blackNow = false ∧ (x.whole = false ∨
      s.lan.broken = true ∨ x.crcRead ≠ coverCrc s.lan.cover s.lan.frameCount) ∧ (s.lan.check.fault = true ∨ s.lan.check.fails + 1 <
      s.lan.cover.failFrames)) := by
  refine ⟨?_, ?_, ?_, ?_, ?_, ?_, ?_, ?_, ?_, ?_, ?_, ?_⟩
  · exact ⟨(panel 4).updLan fun x => { x with frameCount := 1, time := { x.time with width := 1 } }, 1199, [0#8, 0#8, 0#8], by decide +kernel⟩
  · exact ⟨panel 6, by decide +kernel⟩
  · exact ⟨{ cover := { on := true } }, 63, 767, by decide +kernel⟩
  · exact ⟨{ cover := { on := true } }, 64, 0, by decide +kernel⟩
  · exact ⟨0, 15, 35, 149, 1, by decide +kernel⟩
  · exact ⟨panel 6, by decide +kernel⟩
  · exact ⟨(panel 2).updLan fun x => { x with locked := true }, by decide +kernel⟩
  · exact ⟨(panel 3).updLan fun x => { x with frameCount := 1 }, { blankIn with whole := true }, by decide +kernel⟩
  · exact ⟨panel 4, by decide +kernel⟩
  · exact ⟨covered, { blankIn with whole := true, crcRead := coverCrc covered.lan.cover covered.lan.frameCount }, ⟨rfl, rfl, rfl, rfl, rfl, rfl,
      cover_crc _⟩⟩
  · exact ⟨covered.updLan fun x => { x with check := { x.check with fails := 2 } }, { blankIn with whole := false }, by decide +kernel⟩
  · exact ⟨covered, { blankIn with whole := false }, by decide +kernel⟩
theorem test_hyp_PanelFrames_2 :
    (∃ (s : State), s.lan.state = 5 ∧ s.lan.down = 2) := by
  · exact ⟨(panel 5).updLan fun x => { x with down := 2 }, by decide +kernel⟩
theorem test_hyp_Persistence_1 :
    (∃ (s : State), ∃ n, s.admits n 0x1010 1 (.int 0x65766173) ∧ s.per.store = none) ∧
    (∃ (s : State), ∃ n, s.admits n 0x1010 1 (.int 0x65766173) ∧ s.per.store.isSome = true) ∧
    (∃ (s : State), ∃ n, ∃ v, s.admits n 0x1010 1 (.int v) ∧ v ≠ 0x65766173) ∧
    (∃ (s : State), ∃ n, ∃ key, ∃ x, s.reachable = true ∧ s.per.store = some (n, [(key, x)]) ∧ safetyKey (key / 256) (key % 256) = false ∧ (∀ t ∈
      s.per.targets, ¬ (t.layer = 1 ∧ t.key = key))) ∧
    (∃ (s : State), s.reachable = true) ∧
    (∃ (s : State), s.reachable = false) ∧
    (∃ (s : State), ∃ n, s.admits n 0x1011 1 (.int 0x64616F6C)) ∧
    (∃ (s : State), ∃ n, ∃ v, s.admits n 0x1011 1 (.int v) ∧ v ≠ 0x64616F6C) ∧
    (∃ (s : State), ∃ (layer : Nat), ∃ (key : Nat), 1 ≤ layer ∧ layer ≤ 3 ∧ s.reachable = true ∧ s.per.store = none ∧ (layer = 1 → safetyKey (key /
      256) (key % 256) = false)) ∧
    (∃ (s : State), ∃ key, s.reachable = true ∧ s.per.store = none ∧ safetyKey (key / 256) (key % 256) = true) ∧
    (∃ (s : State), ∃ n, ∃ key, ∃ x, s.reachable = true ∧ s.per.store = some (n, [(key, x)])) ∧
    (∃ (s : State), ∃ layer, 1 ≤ layer ∧ layer ≤ 3 ∧ s.reachable = false) := by
  refine ⟨?_, ?_, ?_, ?_, ?_, ?_, ?_, ?_, ?_, ?_, ?_, ?_⟩
  · exact ⟨rn, 0, by unfold State.admits State.serves; decide +kernel⟩
  · exact ⟨rn.updPer fun p => { p with store := some (0, []) }, 0, by unfold State.admits State.serves; decide +kernel⟩
  · exact ⟨rn, 0, 0, by unfold State.admits State.serves; decide +kernel⟩
  · exact ⟨rn.updPer fun p => { p with store := some (0, [(0x200003, .int 5)]) }, 0, 0x200003, .int 5, by decide +kernel⟩
  · exact ⟨rn, by decide +kernel⟩
  · exact ⟨dv .park, by decide +kernel⟩
  · exact ⟨rn, 0, by unfold State.admits State.serves; decide +kernel⟩
  · exact ⟨rn, 0, 0, by unfold State.admits State.serves; decide +kernel⟩
  · exact ⟨rn, 3, 0x200003, by decide +kernel⟩
  · exact ⟨rn, 0x3C0007, by decide +kernel⟩
  · exact ⟨rn.updPer fun p => { p with store := some (0, [(0x200003, .int 5)]) }, 0, 0x200003, .int 5, by decide +kernel⟩
  · exact ⟨dv .park, 3, by decide +kernel⟩
theorem test_hyp_Persistence_2 :
    (∃ (s : State), ∃ n, s.admits n 0x2140 3 (.int 1)) ∧
    (∃ (s : State), ∃ n, ∃ x, ∃ u, s.admits n 0x2140 0xB (.int 1) ∧ (s.sessOf n).win.persistLayer = 3 ∧ findTarget s.per.targets 3 (s.sessOf
      n).win.persistTarget = some x ∧ (x.state = 2 ∨ x.state = 6) ∧ x.a = some u ∧ u.ok = true) ∧
    (∃ (s : State), ∃ n, ∃ v, ∃ x, s.admits n 0x2140 0xB (.int v) ∧ findTarget s.per.targets (s.sessOf n).win.persistLayer (s.sessOf
      n).win.persistTarget = some x ∧ x.state ≠ 2 ∧ x.state ≠ 6) ∧
    (∃ (s : State), ∃ n, ∃ v, s.admits n 0x6000 1 (.int v) ∧ s.per.fuse = false) ∧
    (∃ (s : State), ∃ n, s.serves n 0x6000 ∧ s.per.fuse = true) ∧
    (∃ (t : Target), ∃ x, t.a = some x ∧ t.b = some x ∧ t.c = some x ∧ x.ok = true) ∧
    (∃ (t : Target), ∃ x, ∃ y, ∃ z, t.a = some x ∧ t.b = some y ∧ t.c = some z ∧ x.ok = true ∧ y.ok = true ∧ z.ok = true ∧ x.gen ≠ y.gen ∧ y.gen ≠
      z.gen ∧ x.gen ≠ z.gen) ∧
    (∃ (t : Target), ∃ x, ∃ y, t.a = some x ∧ t.b = some y ∧ t.c = none ∧ x.ok = true ∧ y.ok = true ∧ y.gen < x.gen) := by
  refine ⟨?_, ?_, ?_, ?_, ?_, ?_, ?_, ?_⟩
  · exact ⟨rn, 0, by unfold State.admits State.serves; decide +kernel⟩
  · exact ⟨confirm 2, 0, tgt 2, ⟨3, .int 5, true⟩, by unfold State.admits State.serves; decide +kernel⟩
  · exact ⟨confirm 1, 0, 1, tgt 1, by unfold State.admits State.serves; decide +kernel⟩
  · exact ⟨rn, 0, 1, by unfold State.admits State.serves; decide +kernel⟩
  · exact ⟨rn.updPer fun p => { p with fuse := true }, 0, by unfold State.serves; decide +kernel⟩
  · exact ⟨⟨1, 0, some ⟨3, .int 5, true⟩, some ⟨3, .int 5, true⟩, some ⟨3, .int 5, true⟩, 0⟩, ⟨3, .int 5, true⟩, by decide +kernel⟩
  · exact ⟨⟨1, 0, some ⟨3, .int 5, true⟩, some ⟨2, .int 5, true⟩, some ⟨1, .int 5, true⟩, 0⟩, ⟨3, .int 5, true⟩, ⟨2, .int 5, true⟩, ⟨1, .int 5,
      true⟩, by decide +kernel⟩
  · exact ⟨⟨1, 0, some ⟨3, .int 5, true⟩, some ⟨2, .int 5, true⟩, none, 0⟩, ⟨3, .int 5, true⟩, ⟨2, .int 5, true⟩, by decide +kernel⟩
theorem test_hyp_SessionsAndRoles_1 :
    (∃ (s : State), ∃ tr, ∃ n, ∃ (x : Nat), sessionsOpen s = true ∧ transportServes s tr = true ∧ (tr = .c8 → clientSession s x = none) ∧ freeSession
      s = some n ∧ s.serv.sess.length = 16) ∧
    (∃ (s : State), ∃ tr, (sessionsOpen s = false ∨ transportServes s tr = false ∨ freeSession s = none)) ∧
    (∃ (s : State), ∃ n, ∃ v, s.admits n 0x2100 2 (.int v) ∧ roleAllowed s (s.sessOf n).transport v.toNat = true ∧ s.serv.lockouts.any (·.1 ==
      (s.sessOf n).source) = false) ∧
    (∃ (s : State), ∃ n, ∃ v, s.admits n 0x2100 2 (.int v) ∧ roleAllowed s (s.sessOf n).transport v.toNat = true ∧ s.serv.lockouts.any (·.1 ==
      (s.sessOf n).source) = true) ∧
    (∃ (s : State), ∃ n, s.admits n 0x2100 2 (.int 4) ∧ (s.sessOf n).transport ≠ .c8 ∧ (s.sessOf n).transport ≠ .usb) ∧
    (∃ (s : State), ∃ n, ∃ (b : Bytes), s.serves n 0x2100 ∧ b.length = 16) ∧
    (∃ (s : State), ∃ n, ∃ c, ∃ r, s.admits n 0x2100 4 (.bytes (hmac256 (s.roleKey r) (responseMessage c n r))) ∧ (s.sessOf n).chal = some c ∧
      (s.sessOf n).roleReq = some r ∧ c.used = false ∧ s.tm.mono ≤ c.time + 10000000000) ∧
    (∃ (s : State), ∃ n, ∃ c, ∃ b, s.admits n 0x2100 4 (.bytes b) ∧ (s.sessOf n).chal = some c ∧ (c.used = true ∨ c.time + 10000000000 < s.tm.mono)) ∧
    (∃ (s : State), ∃ n, ∃ b, s.admits n 0x2100 4 (.bytes b) ∧ (s.sessOf n).chal = none) ∧
    (∃ (s : State), ∃ n, n < 16 ∧ (s.sessOf n).opened = true ∧ s.reaches 0x2100 = true ∧ s.waited (s.sessOf n).lastReq ((s.sessOf n).timeout *
      1000000000) = true) ∧
    (∃ (s : State), ∃ n, n < 16 ∧ s.waited (s.sessOf n).lastReq ((s.sessOf n).timeout * 1000000000) = false) ∧
    (∃ (s : State), ∃ n, ∃ v, s.admits n 0x2100 7 (.int v) ∧ s.serv.sess.length = 16) := by
  refine ⟨?_, ?_, ?_, ?_, ?_, ?_, ?_, ?_, ?_, ?_, ?_, ?_⟩
  · exact ⟨rn, .c8, 1, 10, by decide +kernel⟩
  · exact ⟨dv .park, .usb, by decide +kernel⟩
  · exact ⟨rn, 0, 4, by unfold State.admits State.serves; decide +kernel⟩
  · exact ⟨rn.updServ fun v => { v with lockouts := [(9, 0)] }, 0, 4, by unfold State.admits State.serves; decide +kernel⟩
  · exact ⟨tr rn .e1, 0, by unfold State.admits State.serves; decide +kernel⟩
  · exact ⟨rn, 0, List.replicate 16 0#8, by unfold State.serves; decide +kernel⟩
  · exact ⟨challenged, 0, chal0, 2, ⟨by unfold State.admits State.serves; decide +kernel, rfl, rfl, rfl, by decide⟩⟩
  · exact ⟨(ses rn fun x => { x with chal := some { chal0 with used := true } }), 0, { chal0 with used := true }, List.replicate 32 0#8,
      by unfold State.admits State.serves; decide +kernel⟩
  · exact ⟨rn, 0, List.replicate 32 0#8, by unfold State.admits State.serves; decide +kernel⟩
  · exact ⟨aged rn, 0, by decide +kernel⟩
  · exact ⟨rn, 0, by decide +kernel⟩
  · exact ⟨rn, 0, 1, by unfold State.admits State.serves; decide +kernel⟩
theorem test_hyp_SessionsAndRoles_2 :
    (∃ (s : State), ∃ n, ∃ x, n < 16 ∧ (s.sessOf n).transfer = some x ∧ s.waited x.segAt 1000000000 = true) ∧
    (∃ (s : State), ∃ n, n < 16 ∧ (∀ x, (s.sessOf n).transfer = some x → s.waited x.segAt 1000000000 = false)) ∧
    (∃ (s : State), s.serv.sess.length = 16) ∧
    (∃ (s : State), ∃ p, p < 3 ∧ s.serv.sess.length = 16 ∧ (s.net.ports.getD p {}).link = false ∧ s.waited (s.net.ports.getD p {}).downAt 2000000000
      = true) ∧
    (∃ (s : State), ∃ p, p < 3 ∧ ((s.net.ports.getD p {}).link = true ∨ s.waited (s.net.ports.getD p {}).downAt 2000000000 = false)) := by
  refine ⟨?_, ?_, ?_, ?_, ?_⟩
  · exact ⟨late (ses rn fun x => { x with transfer := some ⟨0x2000, 3, 4, [], 0⟩ }), 0, ⟨0x2000, 3, 4, [], 0⟩, by decide +kernel⟩
  · exact ⟨rn, 15, ⟨by decide +kernel, fun _ h => nomatch h⟩⟩
  · exact ⟨rn, by decide +kernel⟩
  · exact ⟨rn.updTm (fun t => { t with mono := 2000000000 }), 2, by decide +kernel⟩
  · exact ⟨netOn 1, 2, by decide +kernel⟩
theorem test_hyp_UpdateTransfers_1 :
    (∃ (s : State), ∃ n, ∃ r, s.admits n 0x5A10 1 (.bytes r) ∧ s.pw.dev ≠ .ladder ∧ zeros (r.drop 199) = true ∧ offerFault r s ≠ 0) ∧
    (∃ (s : State), ∃ n, ∃ r, s.admits n 0x5A10 1 (.bytes r) ∧ s.pw.dev ≠ .ladder ∧ zeros (r.drop 199) = true ∧ offerFault r s = 0 ∧ s.upd.cur = none
      ∧ s.upd.owner = none ∧ regionBusy s (headerRegion (r.take 96)) = false) ∧
    (∃ (s : State), ∃ n, ∃ r, s.admits n 0x5A10 1 (.bytes r) ∧ s.pw.dev ≠ .ladder ∧ zeros (r.drop 199) = true ∧ offerFault r s = 0 ∧ s.upd.cur = none
      ∧ s.upd.owner = none ∧ regionBusy s (headerRegion (r.take 96)) = true) ∧
    (∃ (s : State), ∃ st, ∃ (r : Bytes), s.reachable = true ∧ fleetOfferOk st r s = false) ∧
    (∃ (s : State), ∃ n, ∃ off, ∃ d, s.admits n 0x5A10 2 (.bytes (leBytes 4 off ++ d)) ∧ off < 2 ^ 32 ∧ s.pw.dev ≠ .ladder ∧ s.upd.owner = some n ∧
      s.upd.state = 1 ∧ off = s.upd.body.length ∧ s.upd.last ≠ some (off, d)) ∧
    (∃ (s : State), ∃ n, ∃ off, ∃ d, s.admits n 0x5A10 2 (.bytes (leBytes 4 off ++ d)) ∧ off < 2 ^ 32 ∧ s.pw.dev ≠ .ladder ∧ s.upd.owner = some n ∧
      s.upd.state = 1 ∧ s.upd.last = some (off, d)) ∧
    (∃ (s : State), ∃ n, ∃ off, ∃ d, s.admits n 0x5A10 2 (.bytes (leBytes 4 off ++ d)) ∧ off < 2 ^ 32 ∧ s.pw.dev ≠ .ladder ∧ s.upd.owner = some n ∧
      s.upd.state = 1 ∧ off ≠ s.upd.body.length ∧ s.upd.last ≠ some (off, d)) ∧
    (∃ (s : State), ∃ n, ∃ d, ∃ o, s.admits n 0x5A10 2 (.bytes (leBytes 4 0 ++ d)) ∧ s.pw.dev ≠ .ladder ∧ s.upd.owner = none ∧ s.upd.cur = none ∧
      (s.upd.offers.find? fun p => p.1 == n) = some (n, o) ∧ regionBusy s o.region = false ∧ o.region - 1 < s.upd.regions.length) ∧
    (∃ (s : State), ∃ n, ∃ off, ∃ d, ∃ o, s.admits n 0x5A10 2 (.bytes (leBytes 4 off ++ d)) ∧ s.pw.dev ≠ .ladder ∧ s.upd.cur = some o ∧ s.upd.owner ≠
      some n) ∧
    (∃ (s : State), ∃ off, ∃ (d : Bytes), s.reachable = true ∧ 1 ≤ d.length ∧ d.length ≤ 32764 ∧ s.upd.owner = some 16 ∧ s.upd.state = 1 ∧ off =
      s.upd.body.length ∧ s.upd.last ≠ some (off, d)) ∧
    (∃ (s : State), ∃ n, ∃ o, s.admits n 0x5A10 3 (.int 0x100) ∧ s.pw.dev ≠ .ladder ∧ s.upd.owner = some n ∧ s.upd.state = 1 ∧ s.upd.cur = some o ∧
      bodyOk o s = true) ∧
    (∃ (s : State), ∃ n, ∃ o, s.admits n 0x5A10 3 (.int 0x100) ∧ s.pw.dev ≠ .ladder ∧ s.upd.owner = some n ∧ s.upd.state = 1 ∧ s.upd.cur = some o ∧
      bodyOk o s = false) := by
  refine ⟨?_, ?_, ?_, ?_, ?_, ?_, ?_, ?_, ?_, ?_, ?_, ?_⟩
  · exact ⟨rn, 0, List.replicate 232 0#8, by unfold State.admits State.serves; decide +kernel⟩
  · exact ⟨rn, 0, offerPkg, by unfold State.admits State.serves; decide +kernel⟩
  · exact ⟨rn.updRegion 4 fun r => { r with state := 1 }, 0, offerPkg, by unfold State.admits State.serves; decide +kernel⟩
  · exact ⟨rn, 0, [], by decide +kernel⟩
  · exact ⟨upOn 0, 0, 0, [1#8], by unfold State.admits State.serves; decide +kernel⟩
  · exact ⟨(upOn 0).updUpd fun u => { u with last := some (0, [1#8]) }, 0, 0, [1#8], by unfold State.admits State.serves; decide +kernel⟩
  · exact ⟨upOn 0, 0, 4294967295, [1#8], by unfold State.admits State.serves; decide +kernel⟩
  · exact ⟨rn.updUpd fun u => { u with offers := [(0, offer1)] }, 0, [1#8], offer1, by unfold State.admits State.serves; decide +kernel⟩
  · exact ⟨upOn 1, 0, 0, [1#8], offer1, by unfold State.admits State.serves; decide +kernel⟩
  · exact ⟨upOn 16, 0, [1#8], by decide +kernel⟩
  · exact ⟨upOn 0, 0, offer1, ⟨by unfold State.admits State.serves; decide +kernel, by decide, rfl, rfl, rfl, bodyOk_1 rfl⟩⟩
  · exact ⟨(upOn 0).updUpd fun u => { u with body := [1#8] }, 0, offer1, by unfold State.admits State.serves; decide +kernel⟩
theorem test_hyp_UpdateTransfers_2 :
    (∃ (s : State), ∃ n, s.admits n 0x5A10 3 (.int 0x100) ∧ s.pw.dev ≠ .ladder ∧ (s.upd.owner ≠ some n ∨ s.upd.state ≠ 1)) ∧
    (∃ (s : State), ∃ n, ∃ o, s.admits n 0x5A10 3 (.int 0x200) ∧ s.pw.dev ≠ .ladder ∧ s.upd.owner = some n ∧ s.upd.cur = some o) ∧
    (∃ (s : State), ∃ n, s.admits n 0x5A10 3 (.int 0x200) ∧ s.pw.dev ≠ .ladder ∧ s.upd.owner ≠ some n) ∧
    (∃ (s : State), ∃ o, publishing s = true ∧ s.fleet.link = 2 ∧ s.upd.owner = some 16 ∧ s.upd.state = 1 ∧ s.upd.cur = some o ∧ bodyOk o s = true) ∧
    (∃ (s : State), (publishing s = false ∨ s.fleet.link ≠ 2)) ∧
    (∃ (s : State), ∃ m, publishing s = true ∧ s.fleet.link = 2 ∧ headerOk .cartPose m = true ∧ m.length = 36 ∧ fieldLe m 18 1 = 3) ∧
    (∃ (s : State), ∃ p, ∃ m, publishing s = true ∧ s.fleet.link = 2 ∧ p ≠ .rtcm ∧ headerOk p m = false) ∧
    (∃ (s : State), s.upd.state = 4 ∧ s.waited s.upd.orphanAt (s.nat 0x5A01 0xA * 1000000000) = true) ∧
    (∃ (s : State), (s.upd.state ≠ 4 ∨ s.waited s.upd.orphanAt (s.nat 0x5A01 0xA * 1000000000) = false)) := by
  refine ⟨?_, ?_, ?_, ?_, ?_, ?_, ?_, ?_, ?_⟩
  · exact ⟨upOn 1, 0, by unfold State.admits State.serves; decide +kernel⟩
  · exact ⟨upOn 0, 0, offer1, by unfold State.admits State.serves; decide +kernel⟩
  · exact ⟨upOn 1, 0, by unfold State.admits State.serves; decide +kernel⟩
  · exact ⟨(upOn 16).updFleet fun x => { x with link := 2 }, offer1, ⟨rfl, rfl, rfl, rfl, rfl, bodyOk_1 rfl⟩⟩
  · exact ⟨rn, by decide +kernel⟩
  · exact ⟨fleetOn 2, cartMsg, by decide +kernel⟩
  · exact ⟨fleetOn 2, .map, [], by decide +kernel⟩
  · exact ⟨aged (rn.updUpd fun u => { u with state := 4 }), by decide +kernel⟩
  · exact ⟨rn, by decide +kernel⟩
theorem test_hyp_UpdateRegions_1 :
    (∃ (s : State), ∃ n, ∃ (c : Nat), s.admits n 0x5A10 3 (.int ((0x300 + c : Nat) : Int)) ∧ s.pw.dev ≠ .ladder ∧ 2 ≤ (s.sessOf n).role ∧ 1 ≤ c ∧ c ≤
      8 ∧ c - 1 < s.upd.regions.length ∧ (s.region c).state = 2) ∧
    (∃ (s : State), ∃ n, ∃ (c : Nat), s.admits n 0x5A10 3 (.int ((0x300 + c : Nat) : Int)) ∧ s.pw.dev ≠ .ladder ∧ 2 ≤ (s.sessOf n).role ∧ 1 ≤ c ∧ c ≤
      8 ∧ (s.region c).state ≠ 2) ∧
    (∃ (s : State), ∃ n, ∃ (c : Nat), s.admits n 0x5A10 3 (.int ((0x300 + c : Nat) : Int)) ∧ s.pw.dev ≠ .ladder ∧ (s.sessOf n).role = 1 ∧ c ≤ 8) ∧
    (∃ (s : State), ∃ n, ∃ (c : Nat), s.admits n 0x5A10 3 (.int ((0x400 + c : Nat) : Int)) ∧ s.pw.dev ≠ .ladder ∧ 2 ≤ (s.sessOf n).role ∧ 1 ≤ c ∧ c ≤
      8 ∧ c - 1 < s.upd.regions.length ∧ (s.region c).state = 3) ∧
    (∃ (s : State), ∃ n, ∃ (c : Nat), s.admits n 0x5A10 3 (.int ((0x500 + c : Nat) : Int)) ∧ s.pw.dev ≠ .ladder ∧ 2 ≤ (s.sessOf n).role ∧ 1 ≤ c ∧ c ≤
      3 ∧ c - 1 < s.upd.regions.length ∧ (s.region c).state = 3 ∧ (s.region c).fall = false) ∧
    (∃ (s : State), ∃ n, ∃ (c : Nat), s.admits n 0x5A10 3 (.int ((0x500 + c : Nat) : Int)) ∧ s.pw.dev ≠ .ladder ∧ 2 ≤ (s.sessOf n).role ∧ 5 ≤ c ∧ c ≤
      8 ∧ c - 1 < s.upd.regions.length ∧ (s.region c).state = 3 ∧ (s.region c).fall = false) ∧
    (∃ (s : State), ∃ o, ∃ conv, committedFor 1 s = some o ∧ liveMay s = true ∧ settingsFit (s.region 1).active o.header conv = true ∧ 0 <
      s.upd.regions.length) ∧
    (∃ (s : State), ∃ o, ∃ conv, committedFor 1 s = some o ∧ liveMay s = true ∧ settingsFit (s.region 1).active o.header conv = true ∧ 0 <
      s.upd.regions.length) ∧
    (∃ (s : State), ∃ o, committedFor 3 s = some o ∧ liveMay s = true ∧ settingsFit (s.region 3).active o.header true = true ∧ 2 <
      s.upd.regions.length) ∧
    (∃ (s : State), committedFor 1 s = none) ∧
    (∃ (s : State), committedFor 4 s = none) ∧
    (∃ (s : State), ∃ o, s.reachable = true ∧ s.upd.cur = some o ∧ s.upd.committed = true ∧ stagedRegion o.region = true ∧ o.region - 1 <
      s.upd.regions.length) := by
  refine ⟨?_, ?_, ?_, ?_, ?_, ?_, ?_, ?_, ?_, ?_, ?_, ?_⟩
  · exact ⟨rn.updRegion 8 fun r => { r with state := 2 }, 0, 8, by unfold State.admits State.serves; decide +kernel⟩
  · exact ⟨rn, 0, 8, by unfold State.admits State.serves; decide +kernel⟩
  · exact ⟨ro rn 1, 0, 8, by unfold State.admits State.serves; decide +kernel⟩
  · exact ⟨rn.updRegion 8 fun r => { r with state := 3 }, 0, 8, by unfold State.admits State.serves; decide +kernel⟩
  · exact ⟨rn.updRegion 3 fun r => { r with state := 3 }, 0, 3, by unfold State.admits State.serves; decide +kernel⟩
  · exact ⟨rn.updRegion 8 fun r => { r with state := 3 }, 0, 8, by unfold State.admits State.serves; decide +kernel⟩
  · exact ⟨committed 1, ofr 1, true, by decide +kernel⟩
  · exact ⟨committed 1, ofr 1, true, by decide +kernel⟩
  · exact ⟨committed 3, ofr 3, by decide +kernel⟩
  · exact ⟨rn, by decide +kernel⟩
  · exact ⟨rn, by decide +kernel⟩
  · exact ⟨committed 8, ofr 8, by decide +kernel⟩
theorem test_hyp_UpdateRegions_2 :
    (∃ (s : State), ∃ c, ∃ x, s.pw.dev = .start ∧ stagedRegion c = true ∧ c - 1 < s.upd.regions.length ∧ (s.region c).staged = some x ∧ x.format =
      (s.region c).active.format) ∧
    (∃ (s : State), ∃ c, ∃ x, s.pw.dev = .start ∧ stagedRegion c = true ∧ c - 1 < s.upd.regions.length ∧ (s.region c).staged = some x) ∧
    (∃ (s : State), ∃ c, ∃ x, s.pw.dev = .start ∧ stagedRegion c = true ∧ c - 1 < s.upd.regions.length ∧ (s.region c).staged = some x ∧ x.format =
      (s.region c).active.format) ∧
    (∃ (s : State), ∃ c, 1 ≤ c ∧ c ≤ 8 ∧ c - 1 < s.upd.regions.length ∧ s.pw.dev = .run ∧ (s.region c).state = 3 ∧ (s.region c).left = 0) ∧
    (∃ (s : State), ∃ c, 1 ≤ c ∧ c ≤ 8 ∧ (s.region c).left ≠ 0) ∧
    (∃ (s : State), ∃ c, ∃ (x : Img), 1 ≤ c ∧ c ≤ 3 ∧ c - 1 < s.upd.regions.length ∧ s.reachable = true ∧ (s.region c).state = 3 ∧ (s.region c).prev
      = some x) ∧
    (∃ (s : State), ∃ n, s.serves n 0x5A10 ∧ (s.sessOf n).role ≠ 2 ∧ (s.sessOf n).role ≠ 4) := by
  refine ⟨?_, ?_, ?_, ?_, ?_, ?_, ?_⟩
  · exact ⟨(dv .start).updRegion 8 fun r => { r with staged := some {} }, 8, {}, by decide +kernel⟩
  · exact ⟨(dv .start).updRegion 8 fun r => { r with staged := some {} }, 8, {}, by decide +kernel⟩
  · exact ⟨(dv .start).updRegion 8 fun r => { r with staged := some {} }, 8, {}, by decide +kernel⟩
  · exact ⟨rn.updRegion 8 fun r => { r with state := 3 }, 8, by decide +kernel⟩
  · exact ⟨rn.updRegion 8 fun r => { r with left := 1 }, 8, by decide +kernel⟩
  · exact ⟨rn.updRegion 3 fun r => { r with state := 3, prev := some {} }, 3, {}, by decide +kernel⟩
  · exact ⟨ro rn 3, 0, by unfold State.serves; decide +kernel⟩
theorem test_hyp_PowerWake_1 :
    (∃ (s : State), asleep s = true ∧ (s.belay.criticalLock = false ∨ s.belay.ignSeenLow = true) ∧ s.pw.keysvc = false ∧ s.pw.belowWarning = false) ∧
    (∃ (s : State), asleep s = true ∧ (s.belay.criticalLock = false ∨ s.belay.ignSeenLow = true) ∧ s.pw.keysvc = false ∧ s.pw.belowWarning = true) ∧
    (∃ (s : State), asleep s = true ∧ (s.belay.criticalLock = false ∨ s.belay.ignSeenLow = true) ∧ s.pw.keysvc = true ∧ s.pw.belowWarning = false) ∧
    (∃ (s : State), asleep s = true ∧ (s.belay.criticalLock = false ∨ s.belay.ignSeenLow = true) ∧ s.pw.keysvc = true ∧ s.pw.belowWarning = true) ∧
    (∃ (s : State), asleep s = true ∧ s.belay.criticalLock = true ∧ s.belay.ignSeenLow = false) ∧
    (∃ (s : State), s.pw.dev = .ladder ∧ s.pw.ign = false ∧ s.belay.resetWait = false) ∧
    (∃ (s : State), s.pw.dev = .shutdown) ∧
    (∃ (s : State), (s.pw.dev = .start ∨ s.pw.dev = .run ∨ s.pw.dev = .service)) ∧
    (∃ (s : State), asleep s = true ∧ s.belay.criticalLock = false) ∧
    (∃ (s : State), s.pw.dev = .shutdown) ∧
    (∃ (s : State), (asleep s = false ∨ s.belay.criticalLock = true) ∧ s.pw.dev ≠ .shutdown) ∧
    (∃ (s : State), asleep s = true ∧ s.pw.keyHold = true ∧ s.pw.belowWarning = false) := by
  refine ⟨?_, ?_, ?_, ?_, ?_, ?_, ?_, ?_, ?_, ?_, ?_, ?_⟩
  · exact ⟨dv .dormant, by decide +kernel⟩
  · exact ⟨(dv .park).updPw fun p => { p with belowWarning := true }, by decide +kernel⟩
  · exact ⟨(dv .park).updPw fun p => { p with keysvc := true }, by decide +kernel⟩
  · exact ⟨(dv .park).updPw fun p => { p with keysvc := true, belowWarning := true }, by decide +kernel⟩
  · exact ⟨(dv .park).updBelay fun b => { b with criticalLock := true }, by decide +kernel⟩
  · exact ⟨(dv .ladder).updPw fun p => { p with ign := false }, by decide +kernel⟩
  · exact ⟨dv .shutdown, by decide +kernel⟩
  · exact ⟨rn, by decide +kernel⟩
  · exact ⟨dv .park, by decide +kernel⟩
  · exact ⟨dv .shutdown, by decide +kernel⟩
  · exact ⟨rn, by decide +kernel⟩
  · exact ⟨(dv .park).updPw fun p => { p with keyHold := true }, by decide +kernel⟩
theorem test_hyp_PowerWake_2 :
    (∃ (s : State), asleep s = true ∧ s.pw.keyHold = true ∧ s.pw.belowWarning = true) ∧
    (∃ (s : State), (asleep s = false ∨ s.pw.keyHold = false)) ∧
    (∃ (s : State), ∃ a, (s.pw.dev = .park ∨ s.pw.dev = .dormant) ∧ s.nat 0x2013 1 ≠ 0 ∧ a = (if s.nat 0x2013 2 = 0 then 0 else (s.nat 0x2013 1 +
      s.nat 0x2013 2 * 1000000000) % 2 ^ 64) ∧ s.belay.restartWait = false ∧ s.belay.criticalLock = false ∧ s.pw.belowWarning = false) ∧
    (∃ (s : State), ∃ a, (s.pw.dev = .park ∨ s.pw.dev = .dormant) ∧ s.nat 0x2013 1 ≠ 0 ∧ a = (if s.nat 0x2013 2 = 0 then 0 else (s.nat 0x2013 1 +
      s.nat 0x2013 2 * 1000000000) % 2 ^ 64) ∧ s.belay.restartWait = false ∧ s.belay.criticalLock = false ∧ s.pw.belowWarning = true) ∧
    (∃ (s : State), ∃ a, (s.pw.dev = .park ∨ s.pw.dev = .dormant) ∧ s.nat 0x2013 1 ≠ 0 ∧ a = (if s.nat 0x2013 2 = 0 then 0 else (s.nat 0x2013 1 +
      s.nat 0x2013 2 * 1000000000) % 2 ^ 64) ∧ (s.belay.restartWait = true ∨ s.belay.criticalLock = true)) ∧
    (∃ (s : State), ((s.pw.dev ≠ .park ∧ s.pw.dev ≠ .dormant) ∨ s.nat 0x2013 1 = 0)) ∧
    (∃ (s : State), ∃ a, s.pw.dev ≠ .park ∧ s.pw.dev ≠ .dormant ∧ s.nat 0x2013 1 ≠ 0 ∧ a = (if s.nat 0x2013 2 = 0 then 0 else (s.nat 0x2013 1 + s.nat
      0x2013 2 * 1000000000) % 2 ^ 64)) ∧
    (∃ (s : State), (s.pw.dev = .park ∨ s.pw.dev = .dormant ∨ s.nat 0x2013 1 = 0)) ∧
    (∃ (s : State), ∃ (w : Nat), ∃ (how : CanWake), w < 2 ∧ s.pw.dev = .park ∧ s.belay.restartWait = false ∧ s.belay.criticalLock = false ∧ (s.cch (7
      * w)).state = 5 ∧ wakeMatch s w how ≠ 0 ∧ s.pw.belowWarning = false) ∧
    (∃ (s : State), ∃ (w : Nat), ∃ (how : CanWake), w < 2 ∧ s.pw.dev = .park ∧ s.belay.restartWait = false ∧ s.belay.criticalLock = false ∧ (s.cch (7
      * w)).state = 5 ∧ wakeMatch s w how ≠ 0 ∧ s.pw.belowWarning = true) ∧
    (∃ (s : State), ∃ w, ∃ how, w < 2 ∧ s.pw.dev = .shutdown ∧ wakeMatch s w how ≠ 0) ∧
    (∃ (s : State), ∃ w, ∃ how, w < 2 ∧ (s.pw.dev ≠ .park ∧ s.pw.dev ≠ .shutdown ∨ wakeMatch s w how = 0 ∨ s.pw.dev = .park ∧ (s.belay.criticalLock =
      true ∨ (s.cch (7 * w)).state ≠ 5))) := by
  refine ⟨?_, ?_, ?_, ?_, ?_, ?_, ?_, ?_, ?_, ?_, ?_, ?_⟩
  · exact ⟨(dv .park).updPw fun p => { p with keyHold := true, belowWarning := true }, by decide +kernel⟩
  · exact ⟨rn, by decide +kernel⟩
  · exact ⟨st (dv .park) [(0x2013,1,5)], 0, by decide +kernel⟩
  · exact ⟨(st (dv .park) [(0x2013,1,5),(0x2013,2,600)]).updPw fun p => { p with belowWarning := true }, 600000000005, by decide +kernel⟩
  · exact ⟨(st (dv .park) [(0x2013,1,5)]).updBelay fun b => { b with criticalLock := true }, 0, by decide +kernel⟩
  · exact ⟨rn, by decide +kernel⟩
  · exact ⟨st rn [(0x2013,1,5)], 0, by decide +kernel⟩
  · exact ⟨rn, by decide +kernel⟩
  · exact ⟨c8Sleeps, 1, .pattern, by decide +kernel⟩
  · exact ⟨c8Sleeps.updPw fun p => { p with belowWarning := true }, 1, .pattern, by decide +kernel⟩
  · exact ⟨st (dv .shutdown) [(0x5419,1,1)], 1, .pattern, by decide +kernel⟩
  · exact ⟨rn, 1, .pattern, by decide +kernel⟩
theorem test_hyp_PowerWake_3 :
    (∃ (s : State), ∃ w, s.nat (0x5418 + w) 1 = 1) ∧
    (∃ (s : State), ∃ w, s.nat (0x5418 + w) 1 = 2) ∧
    (∃ (s : State), s.belay.resetWait = true ∧ s.pw.dev = .ladder) ∧
    (∃ (s : State), s.belay.resetWait = true ∧ s.pw.dev ≠ .ladder) ∧
    (∃ (s : State), ∃ src, s.belay.resetWait = false ∧ s.pw.wake = some src ∧ asleep s = true ∧ s.pw.keyHold = false ∧ s.pw.wakeLadder = false) ∧
    (∃ (s : State), ∃ src, s.belay.resetWait = false ∧ s.pw.wake = some src ∧ asleep s = true ∧ s.pw.keyHold = false ∧ s.pw.wakeLadder = true) ∧
    (∃ (s : State), s.belay.resetWait = false ∧ (s.pw.wake = none ∨ asleep s = false ∨ s.pw.keyHold = true)) ∧
    (∃ (s : State), s.pw.dev = .start ∧ s.pw.systemVoltage = 0 ∧ s.pw.detected = 0) ∧
    (∃ (s : State), (s.pw.dev ≠ .start ∨ s.pw.systemVoltage ≠ 0 ∨ s.pw.detected ≠ 0)) := by
  refine ⟨?_, ?_, ?_, ?_, ?_, ?_, ?_, ?_, ?_⟩
  · exact ⟨rn, 1, by decide +kernel⟩
  · exact ⟨st rn [(0x5418,1,2)], 0, by decide +kernel⟩
  · exact ⟨(dv .ladder).updBelay fun b => { b with resetWait := true }, by decide +kernel⟩
  · exact ⟨rn.updBelay fun b => { b with resetWait := true }, by decide +kernel⟩
  · exact ⟨(dv .park).updPw fun p => { p with wake := some 3 }, 3, by decide +kernel⟩
  · exact ⟨(dv .park).updPw fun p => { p with wake := some 3, wakeLadder := true }, 3, by decide +kernel⟩
  · exact ⟨rn, by decide +kernel⟩
  · exact ⟨dv .start, by decide +kernel⟩
  · exact ⟨rn, by decide +kernel⟩
theorem test_hyp_PowerStates_1 :
    (∃ (s : State), s.pw.dev = .start ∧ s.reachable = true ∧ s.per.built = false ∧ s.per.mdpState ≠ 2 ∧ s.per.package = none) ∧
    (∃ (s : State), ∃ p, ∃ e, ∃ l, s.pw.dev = .start ∧ s.reachable = true ∧ s.per.built = false ∧ s.per.mdpState ≠ 2 ∧ s.per.package = some p ∧
      p.entries = e :: l ∧ objRow? e.index e.sub = none) ∧
    (∃ (s : State), (s.pw.dev ≠ .start ∨ s.reachable = false ∨ s.per.built = true ∨ s.per.mdpState = 2)) ∧
    (∃ (s : State), s.pw.dev = .start ∧ s.reachable = true ∧ s.per.built = true) ∧
    (∃ (s : State), (s.pw.dev ≠ .start ∨ s.reachable = false ∨ s.per.built = false)) ∧
    (∃ (s : State), ∃ (a : Bool), ∃ (b : Bool), s.pw.dev = .start ∧ s.reachable = true ∧ (a = true ∨ b = true)) ∧
    (∃ (s : State), ∃ (a : Bool), ∃ (b : Bool), (s.pw.dev ≠ .start ∨ s.reachable = false ∨ (a = false ∧ b = false))) ∧
    (∃ (s : State), ∃ n, s.serves n 0x2000 ∧ 1 ≤ (s.sessOf n).role ∧ s.pw.dev = .run) ∧
    (∃ (s : State), ∃ n, s.serves n 0x2000 ∧ 1 ≤ (s.sessOf n).role ∧ s.pw.dev = .service) ∧
    (∃ (s : State), ∃ n, s.serves n 0x2000 ∧ 1 ≤ (s.sessOf n).role ∧ s.pw.dev ≠ .run ∧ s.pw.dev ≠ .service) ∧
    (∃ (s : State), ∃ n, s.serves n 0x2000 ∧ (s.sessOf n).role = 0) ∧
    (∃ (s : State), ∃ n, s.serves n 0x2000 ∧ ((s.sessOf n).role = 2 ∨ (s.sessOf n).role = 4) ∧ s.pw.dev = .service) := by
  refine ⟨?_, ?_, ?_, ?_, ?_, ?_, ?_, ?_, ?_, ?_, ?_, ?_⟩
  · exact ⟨dv .start, by decide +kernel⟩
  · exact ⟨(dv .start).updPer fun p => { p with package := some ⟨1, 1, 3, [⟨0x2FFF, 9, []⟩]⟩ }, ⟨1, 1, 3, [⟨0x2FFF, 9, []⟩]⟩, ⟨0x2FFF, 9, []⟩, [],
      by decide +kernel⟩
  · exact ⟨rn, by decide +kernel⟩
  · exact ⟨(dv .start).updPer fun p => { p with built := true }, by decide +kernel⟩
  · exact ⟨dv .start, by decide +kernel⟩
  · exact ⟨dv .start, true, false, by decide +kernel⟩
  · exact ⟨dv .start, false, false, by decide +kernel⟩
  · exact ⟨ro rn 1, 0, by unfold State.serves; decide +kernel⟩
  · exact ⟨ro (dv .service) 1, 0, by unfold State.serves; decide +kernel⟩
  · exact ⟨ro (dv .start) 1, 0, by unfold State.serves; decide +kernel⟩
  · exact ⟨ro rn 0, 0, by unfold State.serves; decide +kernel⟩
  · exact ⟨dv .service, 0, by unfold State.serves; decide +kernel⟩
theorem test_hyp_PowerStates_2 :
    (∃ (s : State), ∃ n, s.serves n 0x2000 ∧ ((s.sessOf n).role = 2 ∨ (s.sessOf n).role = 4) ∧ s.pw.dev = .run ∧ serviceAllowed s = true) ∧
    (∃ (s : State), ∃ n, s.serves n 0x2000 ∧ ((s.sessOf n).role = 2 ∨ (s.sessOf n).role = 4) ∧ (s.pw.dev = .run ∧ serviceAllowed s = false ∨ s.pw.dev
      = .start ∨ s.pw.dev = .shutdown)) ∧
    (∃ (s : State), ∃ n, s.serves n 0x2000 ∧ (s.sessOf n).role ≠ 2 ∧ (s.sessOf n).role ≠ 4) ∧
    (∃ (s : State), ∃ n, s.serves n 0x2000 ∧ 2 ≤ (s.sessOf n).role ∧ (s.pw.dev = .run ∨ s.pw.dev = .service)) ∧
    (∃ (s : State), ∃ n, s.serves n 0x2000 ∧ 2 ≤ (s.sessOf n).role ∧ s.pw.dev = .shutdown) ∧
    (∃ (s : State), ∃ n, s.serves n 0x2000 ∧ 2 ≤ (s.sessOf n).role ∧ s.pw.dev = .start) ∧
    (∃ (s : State), ∃ n, s.serves n 0x2000 ∧ (s.sessOf n).role < 2) ∧
    (∃ (s : State), (s.pw.dev = .run ∨ s.pw.dev = .service) ∧ s.pw.ign = false ∧ s.pw.keysvc = false ∧ (∀ x ∈ s.serv.sess, x.opened = false)) ∧
    (∃ (s : State), (s.pw.dev ≠ .run ∧ s.pw.dev ≠ .service ∨ s.pw.ign = true ∨ s.pw.keysvc = true ∨ ∃ x ∈ s.serv.sess, x.opened = true)) ∧
    (∃ (s : State), s.pw.dev = .ladder ∧ s.pw.ign = false ∧ s.pw.keysvc = false ∧ s.belay.resetWait = false) ∧
    (∃ (s : State), (s.pw.dev ≠ .ladder ∨ s.pw.ign = true ∨ s.pw.keysvc = true)) ∧
    (∃ (s : State), s.pw.dev = .park) := by
  refine ⟨?_, ?_, ?_, ?_, ?_, ?_, ?_, ?_, ?_, ?_, ?_, ?_⟩
  · exact ⟨rn, 0, by unfold State.serves; decide +kernel⟩
  · exact ⟨dv .start, 0, by unfold State.serves; decide +kernel⟩
  · exact ⟨ro rn 3, 0, by unfold State.serves; decide +kernel⟩
  · exact ⟨rn, 0, by unfold State.serves; decide +kernel⟩
  · exact ⟨dv .shutdown, 0, by unfold State.serves; decide +kernel⟩
  · exact ⟨dv .start, 0, by unfold State.serves; decide +kernel⟩
  · exact ⟨ro rn 1, 0, by unfold State.serves; decide +kernel⟩
  · exact ⟨(rn.updPw fun p => { p with ign := false }).updServ fun v => { v with sess := List.replicate 16 {} }, by decide +kernel⟩
  · exact ⟨rn, by decide +kernel⟩
  · exact ⟨(dv .ladder).updPw fun p => { p with ign := false }, by decide +kernel⟩
  · exact ⟨rn, by decide +kernel⟩
  · exact ⟨dv .park, by decide +kernel⟩
theorem test_hyp_PowerStates_3 :
    (∃ (s : State), s.pw.dev ≠ .park) ∧
    (∃ (s : State), s.pw.dev = .shutdown ∧ s.belay.resetWait = false ∧ (s.belay.onHoldup = true ∨ s.pw.wake = none ∨ s.belay.criticalLock = true)) ∧
    (∃ (s : State), ∃ src, s.pw.dev = .shutdown ∧ s.belay.resetWait = false ∧ s.belay.onHoldup = false ∧ s.pw.wake = some src ∧ s.belay.criticalLock
      = false ∧ s.pw.belowWarning = true) ∧
    (∃ (s : State), ∃ src, s.pw.dev = .shutdown ∧ s.belay.resetWait = false ∧ s.belay.onHoldup = false ∧ s.pw.wake = some src ∧ s.belay.criticalLock
      = false ∧ s.pw.belowWarning = false) ∧
    (∃ (s : State), s.pw.dev = .shutdown ∧ s.belay.resetWait = false ∧ s.belay.onHoldup = false ∧ s.pw.wake = none ∧ s.belay.shutdownAt +
      s.pw.shutdownLimit * 1000000 ≤ s.tm.now) ∧
    (∃ (s : State), (s.pw.dev ≠ .shutdown ∨ s.belay.onHoldup = true ∨ s.tm.now < s.belay.shutdownAt + s.pw.shutdownLimit * 1000000)) ∧
    (∃ (s : State), s.pw.dev ≠ .shutdown) ∧
    (∃ (s : State), ∃ n, s.serves n 0x5A10 ∧ ((s.sessOf n).role = 2 ∨ (s.sessOf n).role = 4) ∧ s.pw.dev = .ladder ∧ s.upd.ladderReason % 4 = 0) ∧
    (∃ (s : State), ∃ n, s.serves n 0x5A10 ∧ ((s.sessOf n).role = 2 ∨ (s.sessOf n).role = 4) ∧ s.pw.dev = .ladder ∧ s.upd.ladderReason % 4 ≠ 0) ∧
    (∃ (s : State), ∃ n, s.serves n 0x5A10 ∧ s.pw.dev ≠ .ladder) ∧
    (∃ (s : State), ∃ n, s.serves n 0x5A10 ∧ s.pw.dev = .ladder ∧ (s.sessOf n).role ≠ 2 ∧ (s.sessOf n).role ≠ 4) := by
  refine ⟨?_, ?_, ?_, ?_, ?_, ?_, ?_, ?_, ?_, ?_, ?_⟩
  · exact ⟨rn, by decide +kernel⟩
  · exact ⟨dv .shutdown, by decide +kernel⟩
  · exact ⟨(dv .shutdown).updPw fun p => { p with wake := some 1, belowWarning := true }, 1, by decide +kernel⟩
  · exact ⟨(dv .shutdown).updPw fun p => { p with wake := some 1 }, 1, by decide +kernel⟩
  · exact ⟨aged (dv .shutdown), by decide +kernel⟩
  · exact ⟨rn, by decide +kernel⟩
  · exact ⟨rn, by decide +kernel⟩
  · exact ⟨dv .ladder, 0, by unfold State.serves; decide +kernel⟩
  · exact ⟨(dv .ladder).updUpd fun u => { u with ladderReason := 3 }, 0, by unfold State.serves; decide +kernel⟩
  · exact ⟨rn, 0, by unfold State.serves; decide +kernel⟩
  · exact ⟨ro (dv .ladder) 3, 0, by unfold State.serves; decide +kernel⟩
theorem test_hyp_PowerSupply_1 :
    (∃ (s : State), ∃ m, m ≤ warnLevel s ∧ s.reachable = true ∧ s.pw.episode = false) ∧
    (∃ (s : State), ∃ m, m ≤ warnLevel s ∧ (s.reachable = false ∨ s.pw.episode = true)) ∧
    (∃ (s : State), ∃ m, warnLevel s < m) ∧
    (∃ (s : State), s.pw.episode = true) ∧
    (∃ (s : State), s.pw.episode = false) ∧
    (∃ (s : State), ∃ m, s.reachable = true ∧ s.belay.holdup = .armed ∧ m ≤ resetLevel s ∧ s.pw.dev ≠ .shutdown) ∧
    (∃ (s : State), ∃ m, s.reachable = true ∧ s.belay.holdup = .armed ∧ m ≤ resetLevel s ∧ s.pw.dev = .shutdown) ∧
    (∃ (s : State), ∃ m, (s.reachable = false ∨ s.belay.holdup ≠ .armed ∨ resetLevel s < m)) ∧
    (∃ (s : State), ∃ (d : Dev), s.belay.resetWait = false ∧ (s.pw.dev = .ladder ∧ d = .ladder ∨ s.reachable = true ∧ d = .start) ∧ s.belay.holdup ≠
      .armed ∧ s.belay.holdup ≠ .supplying) ∧
    (∃ (s : State), (s.belay.resetWait = true ∨ (s.pw.dev ≠ .ladder ∧ s.reachable = false) ∨ s.belay.holdup = .armed ∨ s.belay.holdup = .supplying)) ∧
    (∃ (s : State), s.belay.holdup = .charging ∧ s.reachable = true) ∧
    (∃ (s : State), s.belay.holdup = .charging ∧ s.reachable = true) := by
  refine ⟨?_, ?_, ?_, ?_, ?_, ?_, ?_, ?_, ?_, ?_, ?_, ?_⟩
  · exact ⟨rn, 8500, by decide +kernel⟩
  · exact ⟨rn.updPw fun p => { p with episode := true }, 8500, by decide +kernel⟩
  · exact ⟨rn, 8501, by decide +kernel⟩
  · exact ⟨rn.updPw fun p => { p with episode := true }, by decide +kernel⟩
  · exact ⟨rn, by decide +kernel⟩
  · exact ⟨armed .run, 6000, by decide +kernel⟩
  · exact ⟨armed .shutdown, 6000, by decide +kernel⟩
  · exact ⟨rn, 6000, by decide +kernel⟩
  · exact ⟨dv .ladder, .ladder, by decide +kernel⟩
  · exact ⟨armed .run, by decide +kernel⟩
  · exact ⟨charging, by decide +kernel⟩
  · exact ⟨charging, by decide +kernel⟩
theorem test_hyp_PowerSupply_2 :
    (∃ (s : State), (s.belay.holdup ≠ .charging ∨ s.reachable = false)) ∧
    (∃ (s : State), s.belay.restartWait = true ∧ s.belay.criticalLock = false ∧ s.pw.ign = true) ∧
    (∃ (s : State), s.belay.restartWait = true ∧ s.belay.criticalLock = false ∧ s.pw.ign = false ∧ s.pw.keysvc = true) ∧
    (∃ (s : State), s.belay.restartWait = true ∧ (s.belay.criticalLock = true ∨ (s.pw.ign = false ∧ s.pw.keysvc = false))) ∧
    (∃ (s : State), s.belay.restartWait = false) ∧
    (∃ (s : State), s.belay.throttled = false) ∧
    (∃ (s : State), s.belay.throttled = true) ∧
    (∃ (s : State), (s.pw.dev = .run ∨ s.pw.dev = .service)) ∧
    (∃ (s : State), s.pw.dev ≠ .run ∧ s.pw.dev ≠ .service) ∧
    (∃ (s : State), ∃ m, ∃ n, n = inc32 (((s.belay.eccCount.find? fun p => p.1 == m).map (·.2)).getD 0)) := by
  refine ⟨?_, ?_, ?_, ?_, ?_, ?_, ?_, ?_, ?_, ?_⟩
  · exact ⟨rn, by decide +kernel⟩
  · exact ⟨(dv .dormant).updBelay fun b => { b with restartWait := true }, by decide +kernel⟩
  · exact ⟨((dv .dormant).updBelay fun b => { b with restartWait := true }).updPw fun p => { p with ign := false, keysvc := true }, by decide +kernel⟩
  · exact ⟨((dv .dormant).updBelay fun b => { b with restartWait := true }).updPw fun p => { p with ign := false }, by decide +kernel⟩
  · exact ⟨rn, by decide +kernel⟩
  · exact ⟨rn, by decide +kernel⟩
  · exact ⟨rn.updBelay fun b => { b with throttled := true }, by decide +kernel⟩
  · exact ⟨rn, by decide +kernel⟩
  · exact ⟨dv .start, by decide +kernel⟩
  · exact ⟨rn, 3, 1, by decide +kernel⟩
theorem test_hyp_Server_1 :
    (∃ (s : State), ∃ n, ∃ i, ∃ sub, s.serves n i ∧ objRow? i sub = none) ∧
    (∃ (s : State), ∃ n, ∃ i, ∃ sub, ∃ (d : Bytes), ∃ r, ∃ k, ∃ g, s.serves n i ∧ objRow? i sub = some r ∧ r.acc ≠ .ro ∧ r.right.met (s.sessOf
      n).role = true ∧ r.ty.size = some (k, g) ∧ d.length ≠ k) ∧
    (∃ (s : State), ∃ n, ∃ i, ∃ (sub : Nat), ∃ r, s.serves n i ∧ objRow? i sub = some r ∧ r.acc = .ro ∧ i / 256 = 0x10) ∧
    (∃ (s : State), ∃ n, ∃ x, s.admits n 0x2103 1 (.int (x : Nat))) ∧
    (∃ (s : State), ∃ n, s.admits n 0x6000 1 (.int 1) ∧ s.per.fuse = false) ∧
    (∃ (s : State), ∃ n, ∃ (d : Bytes), s.serves n 0x6000 ∧ s.per.fuse = true ∧ d.length = 1) ∧
    (∃ (s : State), ∃ n, n < 16 ∧ ((s.sessOf n).opened = false ∨ (s.reachable = false ∧ s.pw.dev ≠ .ladder))) ∧
    (∃ (s : State), ∃ n, ∃ m, s.admits n 0x2200 1 (.int (0x1000000 + m * 0x10000 : Nat)) ∧ m < 16 ∧ (n = m ∨ (s.sessOf n).role = 2 ∨ (s.sessOf
      n).role = 4) ∧ (s.sessOf m).transfer = none) ∧
    (∃ (s : State), ∃ n, ∃ m, s.admits n 0x2200 1 (.int (0x1000000 + m * 0x10000 : Nat)) ∧ m < 16 ∧ n ≠ m ∧ ((s.sessOf n).role = 2 ∨ (s.sessOf
      n).role = 4) ∧ (s.sessOf m).transfer.isSome = true) ∧
    (∃ (s : State), ∃ n, s.admits n 0x2200 1 (.int (0x1000000 + n * 0x10000 : Nat)) ∧ (s.sessOf n).transfer.isSome = true) ∧
    (∃ (s : State), ∃ n, ∃ m, s.admits n 0x2200 1 (.int (0x1000000 + m * 0x10000 : Nat)) ∧ m < 16 ∧ n ≠ m ∧ (s.sessOf n).role ≠ 2 ∧ (s.sessOf n).role
      ≠ 4) ∧
    (∃ (s : State), ∃ n, ∃ m, s.admits n 0x2200 1 (.int (0x1000000 + m * 0x10000 : Nat)) ∧ 16 ≤ m ∧ m < 256) := by
  refine ⟨?_, ?_, ?_, ?_, ?_, ?_, ?_, ?_, ?_, ?_, ?_, ?_⟩
  · exact ⟨rn, 0, 0x2FFF, 1, by unfold State.serves; decide +kernel⟩
  · exact ⟨rn, 0, 0x2103, 1, [], ⟨0x2103, 1, 0x01, .u8, .rw, .num 126, [(1, 127)], .os⟩, 1, false, by unfold State.serves; decide +kernel⟩
  · exact ⟨rn, 0, 0x1008, 0, _, ⟨by unfold State.serves; decide +kernel, rfl, by decide +kernel, rfl⟩⟩
  · exact ⟨rn, 0, 127, by unfold State.admits State.serves; decide +kernel⟩
  · exact ⟨rn, 0, by unfold State.admits State.serves; decide +kernel⟩
  · exact ⟨rn.updPer fun p => { p with fuse := true }, 0, [1#8], by unfold State.serves; decide +kernel⟩
  · exact ⟨rn, 15, by decide +kernel⟩
  · exact ⟨ro rn 1, 0, 0, by unfold State.admits State.serves; decide +kernel⟩
  · exact ⟨busy 15, 0, 15, by unfold State.admits State.serves; decide +kernel⟩
  · exact ⟨busy 0, 0, by unfold State.admits State.serves; decide +kernel⟩
  · exact ⟨ro rn 1, 0, 15, by unfold State.admits State.serves; decide +kernel⟩
  · exact ⟨rn, 0, 16, by unfold State.admits State.serves; decide +kernel⟩
theorem test_hyp_Server_2 :
    (∃ (s : State), ∃ n, ∃ f, s.admits n 0x2200 1 (.int (0x2000000 + f * 0x10000 : Nat)) ∧ f < 48 ∧ s.pw.dev ≠ .shutdown ∧ f < s.loop.fn.length) ∧
    (∃ (s : State), ∃ n, ∃ f, s.admits n 0x2200 1 (.int (0x2000000 + f * 0x10000 : Nat)) ∧ f < 48 ∧ s.pw.dev = .shutdown) ∧
    (∃ (s : State), ∃ n, ∃ f, s.admits n 0x2200 1 (.int (0x2000000 + f * 0x10000 : Nat)) ∧ 48 ≤ f ∧ f < 256) ∧
    (∃ (s : State), ∃ n, s.admits n 0x2200 1 (.int 0x3000000) ∧ s.pw.dev ≠ .shutdown) ∧
    (∃ (s : State), ∃ n, s.admits n 0x2200 1 (.int 0x3000000) ∧ s.pw.dev = .shutdown) ∧
    (∃ (s : State), ∃ n, s.admits n 0x2200 1 (.int 0x4000000) ∧ 2 ≤ (s.sessOf n).role) ∧
    (∃ (s : State), ∃ n, s.admits n 0x2200 1 (.int 0x4000000) ∧ (s.sessOf n).role < 2) ∧
    (∃ (s : State), ∃ n, s.admits n 0x2200 1 (.int 0x5000000) ∧ s.upd.cur = none) ∧
    (∃ (s : State), ∃ n, ∃ o, s.admits n 0x2200 1 (.int 0x5000000) ∧ s.upd.cur = some o ∧ (s.upd.owner = some n ∨ (s.sessOf n).role = 2 ∨ (s.sessOf
      n).role = 4)) ∧
    (∃ (s : State), ∃ n, ∃ o, s.admits n 0x2200 1 (.int 0x5000000) ∧ s.upd.cur = some o ∧ s.upd.owner ≠ some n ∧ (s.sessOf n).role ≠ 2 ∧ (s.sessOf
      n).role ≠ 4) ∧
    (∃ (tr : Transport), ∃ (b : Bytes), tr ≠ .c8 ∧ (b.length < 24 ∨ fieldLe b 0 2 ≠ 0x444C ∨ fieldLe b 2 1 ≠ 1)) ∧
    (∃ (s : State), ∃ tr, tr ≠ .c8 ∧ (transportServes s tr = false ∨ (s.reachable = false ∧ s.pw.dev ≠ .ladder))) := by
  refine ⟨?_, ?_, ?_, ?_, ?_, ?_, ?_, ?_, ?_, ?_, ?_, ?_⟩
  · exact ⟨rn, 0, 47, by unfold State.admits State.serves; decide +kernel⟩
  · exact ⟨dv .shutdown, 0, 47, by unfold State.admits State.serves; decide +kernel⟩
  · exact ⟨rn, 0, 48, by unfold State.admits State.serves; decide +kernel⟩
  · exact ⟨rn, 0, by unfold State.admits State.serves; decide +kernel⟩
  · exact ⟨dv .shutdown, 0, by unfold State.admits State.serves; decide +kernel⟩
  · exact ⟨rn, 0, by unfold State.admits State.serves; decide +kernel⟩
  · exact ⟨ro rn 1, 0, by unfold State.admits State.serves; decide +kernel⟩
  · exact ⟨rn, 0, by unfold State.admits State.serves; decide +kernel⟩
  · exact ⟨upOn 16, 0, offer1, by unfold State.admits State.serves; decide +kernel⟩
  · exact ⟨ro (upOn 16) 1, 0, offer1, by unfold State.admits State.serves; decide +kernel⟩
  · exact ⟨.usb, [], by decide +kernel⟩
  · exact ⟨dv .park, .usb, by decide +kernel⟩
theorem test_hyp_Server_3 :
    (∃ (s : State), ∃ tr, ∃ (b : Bytes), ∃ q, ∃ n, tr ≠ .c8 ∧ transportServes s tr = true ∧ sessionsOpen s = true ∧ requestOf b = some q ∧ q.opcode =
      1 ∧ freeSession s = some n ∧ s.serv.sess.length = 16) ∧
    (∃ (s : State), ∃ tr, ∃ (b : Bytes), ∃ q, tr ≠ .c8 ∧ transportServes s tr = true ∧ s.reachable = true ∧ requestOf b = some q ∧ q.opcode = 1 ∧
      freeSession s = none) ∧
    (∃ (s : State), ∃ tr, ∃ ip, ∃ b, ∃ q, tr ≠ .c8 ∧ s.reachable = true ∧ transportServes s tr = true ∧ requestOf b = some q ∧ q.opcode ≠ 1 ∧
      q.session < 16 ∧ (s.sessOf q.session).opened = true ∧ (s.sessOf q.session).transport = tr ∧ (s.sessOf q.session).source = ip ∧ (s.sessOf
      q.session).role ≠ 0 ∧ (q.flags.testBit 2 = false ∨ (hmac256 (hmac256 (s.sessOf q.session).key (s.sessOf q.session).response) (b.take (24
      + q.data.length))).take 16 ≠ q.tag)) ∧
    (∃ (s : State), ∃ tr, ∃ ip, ∃ b, ∃ q, ∃ l, s.asks tr ip b q ∧ (s.sessOf q.session).lastSeq = some l ∧ l < 65536 ∧ l ≠ q.seq ∧ ¬ s.seqNew q) ∧
    (∃ (s : State), ∃ tr, ∃ ip, ∃ b, ∃ q, s.asks tr ip b q ∧ (s.sessOf q.session).lastSeq = some q.seq) ∧
    (∃ (s : State), ∃ tr, ∃ ip, ∃ b, ∃ q, s.asks tr ip b q ∧ s.seqNew q ∧ q.opcode = 5) ∧
    (∃ (s : State), ∃ tr, ∃ ip, ∃ b, ∃ q, s.asks tr ip b q ∧ s.seqNew q ∧ q.opcode = 4) ∧
    (∃ (s : State), ∃ tr, ∃ ip, ∃ b, ∃ q, s.asks tr ip b q ∧ s.seqNew q ∧ (q.opcode = 0 ∨ 5 < q.opcode)) ∧
    (∃ (s : State), ∃ tr, ∃ ip, ∃ b, ∃ q, s.asks tr ip b q ∧ s.seqNew q ∧ q.opcode = 2 ∧ q.offset = 0 ∧ readRefused s q.session q.index q.sub ≠ 0) ∧
    (∃ (s : State), ∃ tr, ∃ ip, ∃ b, ∃ q, s.asks tr ip b q ∧ s.seqNew q ∧ q.opcode = 2 ∧ q.offset = 0 ∧ q.index = 0x1018 ∧ q.sub = 4) ∧
    (∃ (s : State), ∃ tr, ∃ ip, ∃ b, ∃ q, ∃ d, s.asks tr ip b q ∧ s.seqNew q ∧ q.opcode = 2 ∧ 0 < q.offset ∧ (s.sessOf q.session).readCopy = some
      (q.index, q.sub, d) ∧ q.offset ≤ d.length ∧ s.tm.mono < (s.sessOf q.session).lastReq + 2000000000) ∧
    (∃ (s : State), ∃ tr, ∃ ip, ∃ b, ∃ q, s.asks tr ip b q ∧ s.seqNew q ∧ q.opcode = 3 ∧ q.offset = 0 ∧ q.flags.testBit 0 = false) := by
  refine ⟨?_, ?_, ?_, ?_, ?_, ?_, ?_, ?_, ?_, ?_, ?_, ?_⟩
  · exact ⟨rn, .e3, reqBytes (ask 1 0xFF 0 0 0 0 0 []), ask 1 0xFF 0 0 0 0 0 [], 1, by decide +kernel⟩
  · exact ⟨full, .e3, reqBytes (ask 1 0xFF 0 0 0 0 0 []), ask 1 0xFF 0 0 0 0 0 [], by decide +kernel⟩
  · exact ⟨tr rn .usb, .usb, 9, reqBytes (ask 5 0 0 1 0 0 0 []), ask 5 0 0 1 0 0 0 [], by decide +kernel⟩
  · exact ⟨(ses usb0 fun x => { x with lastSeq := some 5 }), .usb, 9, reqBytes (ask 5 0 0 1030 0 0 0 []), ask 5 0 0 1030 0 0 0 [], 5,
      ⟨by unfold State.asks; decide +kernel, rfl, by decide, by decide, not_new rfl (by decide +kernel)⟩⟩
  · exact ⟨(ses usb0 fun x => { x with lastSeq := some 5 }), .usb, 9, reqBytes (ask 5 0 0 5 0 0 0 []), ask 5 0 0 5 0 0 0 [],
      by unfold State.asks; decide +kernel⟩
  · exact ⟨(ses usb0 fun x => { x with lastSeq := some 65535 }), .usb, 9, reqBytes (ask 5 0 0 1023 0 0 0 []), ask 5 0 0 1023 0 0 0 [],
      ⟨by unfold State.asks; decide +kernel, .inr ⟨65535, 1024, rfl, by decide, by decide, by decide, rfl⟩, rfl⟩⟩
  · exact ⟨usb0, .usb, 9, reqBytes (ask 4 0 0 1 0 0 0 []), ask 4 0 0 1 0 0 0 [], ⟨by unfold State.asks; decide +kernel, .inl rfl, rfl⟩⟩
  · exact ⟨usb0, .usb, 9, reqBytes (ask 6 0 0 1 0 0 0 []), ask 6 0 0 1 0 0 0 [], ⟨by unfold State.asks; decide +kernel, .inl rfl, .inr (by decide)⟩⟩
  · exact ⟨usb0, .usb, 9, reqBytes (ask 2 0 0 1 0x2800 2 0 []), ask 2 0 0 1 0x2800 2 0 [], ⟨by unfold State.asks; decide +kernel, .inl rfl, rfl, rfl,
      by decide +kernel⟩⟩
  · exact ⟨usb0, .usb, 9, reqBytes (ask 2 0 0 1 0x1018 4 0 []), ask 2 0 0 1 0x1018 4 0 [], ⟨by unfold State.asks; decide +kernel, .inl rfl, rfl, rfl,
      rfl, rfl⟩⟩
  · exact ⟨(ses usb0 fun x => { x with readCopy := some (0x5810, 2, List.replicate 8 0#8) }), .usb, 9, reqBytes (ask 2 0 0 1 0x5810 2 8 []), ask 2 0
      0 1 0x5810 2 8 [], List.replicate 8 0#8, ⟨by unfold State.asks; decide +kernel, .inl rfl, rfl, by decide, rfl, by decide, by decide +kernel⟩⟩
  · exact ⟨usb0, .usb, 9, reqBytes (ask 3 0 0 1 0x2103 1 0 [1#8]), ask 3 0 0 1 0x2103 1 0 [1#8], ⟨by unfold State.asks; decide +kernel, .inl rfl,
      rfl, rfl, by decide⟩⟩
theorem test_hyp_Server_4 :
    (∃ (s : State), ∃ tr, ∃ ip, ∃ b, ∃ q, ∃ x, s.asks tr ip b q ∧ s.seqNew q ∧ q.opcode = 3 ∧ (s.sessOf q.session).transfer = some x ∧ x.index =
      q.index ∧ x.sub = q.sub ∧ 0 < q.offset ∧ q.offset = x.data.length ∧ (x.data ++ q.data).length ≤ x.total ∧ q.flags.testBit 0 = false) ∧
    (∃ (s : State), ∃ tr, ∃ ip, ∃ b, ∃ q, ∃ x, s.asks tr ip b q ∧ s.seqNew q ∧ q.opcode = 3 ∧ (s.sessOf q.session).transfer = some x ∧ 0 < q.offset ∧
      (q.offset ≠ x.data.length ∨ (q.flags.testBit 0 = true ∧ (x.data ++ q.data).length ≠ x.total))) ∧
    (∃ (s : State), ∃ tr, ∃ ip, ∃ b, ∃ q, ∃ x, s.asks tr ip b q ∧ s.seqNew q ∧ q.opcode = 3 ∧ (s.sessOf q.session).transfer = some x ∧ x.index =
      q.index ∧ x.sub = q.sub ∧ 0 < q.offset ∧ q.offset = x.data.length ∧ (x.data ++ q.data).length = x.total ∧ q.flags.testBit 0 = true ∧ objRow?
      x.index x.sub = none) ∧
    (∃ (s : State), ∃ tr, ∃ ip, ∃ b, ∃ q, tr ≠ .c8 ∧ s.reachable = true ∧ transportServes s tr = true ∧ requestOf b = some q ∧ q.opcode ≠ 1 ∧ (16 ≤
      q.session ∨ (s.sessOf q.session).opened = false ∨ (s.sessOf q.session).transport ≠ tr ∨ (s.sessOf q.session).source ≠ ip)) := by
  refine ⟨?_, ?_, ?_, ?_⟩
  · exact ⟨half, .usb, 9, reqBytes (ask 3 0 0 1 0x2FFF 1 1 [1#8]), ask 3 0 0 1 0x2FFF 1 1 [1#8], ⟨0x2FFF, 1, 2, [7#8], 0⟩,
      ⟨by unfold State.asks; decide +kernel, .inl rfl, rfl, rfl, rfl, rfl, by decide, rfl, by decide, by decide⟩⟩
  · exact ⟨half, .usb, 9, reqBytes (ask 3 0 0 1 0x2FFF 1 2 [1#8]), ask 3 0 0 1 0x2FFF 1 2 [1#8], ⟨0x2FFF, 1, 2, [7#8], 0⟩,
      ⟨by unfold State.asks; decide +kernel, .inl rfl, rfl, rfl, by decide, .inl (by decide)⟩⟩
  · exact ⟨half, .usb, 9, reqBytes (ask 3 0 1 1 0x2FFF 1 1 [1#8]), ask 3 0 1 1 0x2FFF 1 1 [1#8], ⟨0x2FFF, 1, 2, [7#8], 0⟩,
      ⟨by unfold State.asks; decide +kernel, .inl rfl, rfl, rfl, rfl, rfl, by decide, rfl, rfl, by decide, by decide +kernel⟩⟩
  · exact ⟨rn, .usb, 0, reqBytes (ask 5 16 0 1 0 0 0 []), ask 5 16 0 1 0 0 0 [], by decide +kernel⟩

end Sys2Proof.Tests
end

/-! Proofs of the Passage's statements: the pair of SliceLength and MaxCutSpeed (02 R53) and the cancel of an event (02 R65). -/

namespace Sys2Proof.Machine

set_option Elab.async false

/-! ## Reads of the dictionary after a write -/

/-- An object reads as what was stored in it, be it listed or the default. -/
theorem State.put_val_self {s : State} {i sub : Nat} {v : Val} (h : dictWf s.dict = true) (hs : sub < 256) :
    (s.put i sub v).val i sub = v := by
  unfold State.val State.put
  rw [dictFind_put _ _ _ _ h, if_pos rfl, keyDefault_keyOf hs]
  by_cases hv : v = defaultOf i sub
  · rw [if_pos hv, hv]
  · rw [if_neg hv]

theorem State.put_nat_self {s : State} {i sub v : Nat} (h : dictWf s.dict = true) (hs : sub < 256) :
    (s.put i sub (.int v)).nat i sub = v := by
  unfold State.nat State.int
  rw [State.put_val_self h hs]
  exact Int.toNat_natCast v

theorem State.put_nat_ne {s : State} {i sub j t : Nat} {v : Val} (h : dictWf s.dict = true) (hs : sub < 256) (ht : t < 256)
    (hn : (j, t) ≠ (i, sub)) : (s.put i sub v).nat j t = s.nat j t := by
  unfold State.nat State.int
  rw [State.put_val_ne h hs ht hn]

/-! ## Sessions, and the frame of an update of the Passage's controls and of a session's windows -/

theorem State.admits.opened {s : State} {n i sub : Nat} {v : Val} (h : s.admits n i sub v) : (s.sessOf n).opened = true := by
  obtain ⟨⟨_, hopened, _⟩, _⟩ := h
  exact hopened

theorem updPctl_only (s : State) (f : PasCtl → PasCtl) : Only [.pctl] s (s.updPctl f) := by
  intro p
  cases p with
  | pctl => exact .inl (by decide)
  | _ => exact .inr rfl

theorem updWin_only (s : State) (n : Nat) (f : SessWin → SessWin) : Only [.serv] s (s.updWin n f) := by
  intro p
  cases p with
  | serv => exact .inl (by decide)
  | _ => exact .inr rfl

theorem updWin_win {s : State} {n : Nat} {f : SessWin → SessWin} (h : (s.sessOf n).opened = true) :
    ((s.updWin n f).sessOf n).win = f (s.sessOf n).win := congrArg Sess.win (sess_upd h)

/-- Outside the server's part nothing holds a session. -/
theorem Only.sessOf {ps : List Part} {s t : State} (h : Only ps s t) (hp : Part.serv ∉ ps) (n : Nat) : t.sessOf n = s.sessOf n := by
  have hserv : t.serv = s.serv := h.get .serv hp
  unfold State.sessOf
  rw [hserv]

/-! ## SliceLength and MaxCutSpeed (R53) -/

/-- The condition of R53 in whole numbers, as the model tests it: both sides of the rule times 3. -/
theorem ringSpan_lt_travel_iff (len speed : Nat) : (2048 * len : Rat) < (speed : Rat) * 2500 / 3 ↔ len * 6144 < speed * 2500 := by
  rw [lt_div_iff₀ (by norm_num), show (2048 * len : Rat) * 3 = ((len * 6144 : Nat) : Rat) by push_cast; ring,
    show (speed : Rat) * 2500 = ((speed * 2500 : Nat) : Rat) by push_cast; rfl, Nat.cast_lt]

/-- An admitted write of one of the pair is judged by the pair that would stand after it. -/
theorem exec_sliceLengthWrite {s : State} {n sub : Nat} {v : Int} (h : s.admits n 0x3810 sub (.int v)) (hsub : sub = 1 ∨ sub = 2) :
    exec (.sliceLengthWrite n sub v) s =
      if ((s.touch n).put 0x3810 sub (.int v)).nat 0x3810 1 * 6144 < ((s.touch n).put 0x3810 sub (.int v)).nat 0x3810 2 * 2500
      then .next ((s.touch n).deny n Abort.range) else .next (((s.touch n).put 0x3810 sub (.int v)).ack n) := by
  refine (session_ok h _).trans ?_
  simp only [hsub, true_and]
  split <;> rfl

section
variable {s : State} {n sub v len speed : Nat} (h : s.admits n 0x3810 sub (.int v)) (hsub : sub = 1 ∨ sub = 2)
  (hlen : ((s.touch n).put 0x3810 sub (.int v)).nat 0x3810 1 = len) (hspeed : ((s.touch n).put 0x3810 sub (.int v)).nat 0x3810 2 = speed)
include h hsub hlen hspeed

theorem sliceLengthWrite_refused (hspan : (2048 * len : Rat) < (speed : Rat) * 2500 / 3) :
    exec (.sliceLengthWrite n sub v) s = .next ((s.touch n).deny n 0x06090030) := by
  rw [exec_sliceLengthWrite h hsub, hlen, hspeed, if_pos ((ringSpan_lt_travel_iff len speed).1 hspan)]

theorem sliceLengthWrite_stored (hspan : (speed : Rat) * 2500 / 3 ≤ (2048 * len : Rat)) :
    exec (.sliceLengthWrite n sub v) s = .next (((s.touch n).put 0x3810 sub (.int v)).ack n) := by
  rw [exec_sliceLengthWrite h hsub, hlen, hspeed, if_neg (mt (ringSpan_lt_travel_iff len speed).2 (not_lt.2 hspan))]
end

section
variable {s : State} (n v : Nat) (hwf : dictWf s.dict = true)
include hwf

/-- A write of SliceLength leaves the pair of the new length and the old speed. -/
theorem pair_of_sliceLength : ((s.touch n).put 0x3810 1 (.int v)).nat 0x3810 1 = v ∧
    ((s.touch n).put 0x3810 1 (.int v)).nat 0x3810 2 = s.nat 0x3810 2 :=
  ⟨State.put_nat_self hwf (by decide), State.put_nat_ne hwf (by decide) (by decide) (by decide)⟩

/-- A write of MaxCutSpeed leaves the pair of the old length and the new speed. -/
theorem pair_of_maxCutSpeed : ((s.touch n).put 0x3810 2 (.int v)).nat 0x3810 1 = s.nat 0x3810 1 ∧
    ((s.touch n).put 0x3810 2 (.int v)).nat 0x3810 2 = v :=
  ⟨State.put_nat_ne hwf (by decide) (by decide) (by decide), State.put_nat_self hwf (by decide)⟩
end

/-- Settles O46: each write is judged by the pair that stands after it, the stored value beside the other one of the pair. -/
theorem slicePairRefusal : Obligations.SlicePairRefusal := by
  refine ⟨fun s n v hwf h hspan => ?_, fun s n v hwf h hspan => ?_, fun s n v hwf h hspan => ?_, fun s n v hwf h hspan => ?_⟩
  · obtain ⟨hlen, hspeed⟩ := pair_of_sliceLength n v hwf
    exact sliceLengthWrite_refused h (.inl rfl) hlen hspeed hspan
  · obtain ⟨hlen, hspeed⟩ := pair_of_maxCutSpeed n v hwf
    exact sliceLengthWrite_refused h (.inr rfl) hlen hspeed hspan
  · obtain ⟨hlen, hspeed⟩ := pair_of_sliceLength n v hwf
    exact sliceLengthWrite_stored h (.inl rfl) hlen hspeed hspan
  · obtain ⟨hlen, hspeed⟩ := pair_of_maxCutSpeed n v hwf
    exact sliceLengthWrite_stored h (.inr rfl) hlen hspeed hspan

/-! ## The cancel of an event (R65) -/

section
variable {id : Nat} {s : State}

/-- A waiting event is taken out of the queue and of the probes that wait; what has been released stands, and so does every other part. -/
theorem cancelEvent_waiting (h : ∃ e ∈ s.pctl.events, e.id = id) :
    (cancelEvent id s).1 = 0 ∧ Only [.pctl] s (cancelEvent id s).2 ∧
      (cancelEvent id s).2.pctl.events = s.pctl.events.filter (fun e => e.id != id) ∧
      (cancelEvent id s).2.pctl.probeWait = s.pctl.probeWait.filter (fun e => e.1.id != id) ∧
      (cancelEvent id s).2.pctl.released = s.pctl.released := by
  obtain ⟨e, he, hid⟩ := h
  have hsome : (s.pctl.events.find? fun e => e.id == id).isSome = true := List.find?_isSome.2 ⟨e, he, beq_iff_eq.2 hid⟩
  obtain ⟨hit, hf⟩ := Option.isSome_iff_exists.1 hsome
  unfold cancelEvent
  rw [hf]
  exact ⟨rfl, updPctl_only _ _, rfl, rfl, rfl⟩

/-- An event that does not wait leaves the state as it is: it has been released, or is unknown. -/
theorem cancelEvent_notWaiting (h : ∀ e ∈ s.pctl.events, e.id ≠ id) :
    cancelEvent id s = if s.pctl.released.contains id then (1, s) else (2, s) := by
  unfold cancelEvent
  rw [List.find?_eq_none.2 fun e he => mt beq_iff_eq.1 (h e he)]
end

/-- An admitted cancel carries out the cancel and puts its result in the session's window. -/
theorem exec_eventCancel {s : State} {n id : Nat} (h : s.admits n 0x3820 4 (.int id)) :
    exec (.eventCancel n id) s = .next
      (((cancelEvent id (s.touch n)).2.updWin n fun x => { x with cancelResult := (cancelEvent id (s.touch n)).1 }).ack n) :=
  session_ok h _

/-- Settles O47: the three results are the three ways the identifier can stand, waiting, released or unknown. -/
theorem eventCancelResults : Obligations.EventCancelResults := by
  refine ⟨fun s n id h hwait => ?_, fun s n id h hno hrel => ?_, fun s n id h hno hrel => ?_⟩
  · obtain ⟨hres, honly, hev, hprobe, hreleased⟩ := cancelEvent_waiting (s := s.touch n) hwait
    have hopen : ((cancelEvent id (s.touch n)).2.sessOf n).opened = true := by
      rw [honly.sessOf (by decide), touch_keep s n Sess.opened fun _ _ => rfl]
      exact h.opened
    refine .intro (exec_eventCancel h) ⟨?_, ?_, hev, hprobe, hreleased⟩
    · exact (honly.mono (by simp)).trans ((updWin_only _ _ _).mono (by simp))
    · rw [updWin_win hopen, hres]
  · have hc : cancelEvent id (s.touch n) = (1, s.touch n) := (cancelEvent_notWaiting (s := s.touch n) hno).trans (if_pos hrel)
    rw [exec_eventCancel h, hc]
  · have hc : cancelEvent id (s.touch n) = (2, s.touch n) :=
      (cancelEvent_notWaiting (s := s.touch n) hno).trans (if_neg (Bool.eq_false_iff.1 hrel))
    rw [exec_eventCancel h, hc]

end Sys2Proof.Machine

/-! Proofs of the CAN channels' statement on one-shot objects (14 R321), and the rules of the channels' updates that it rests on. -/

namespace Sys2Proof.Machine

set_option Elab.async false

/-! ## Channels and objects after an update -/

theorem updCan_only (s : State) (f : Can → Can) : Only [.can] s (s.updCan f) := by
  intro p
  cases p with
  | can => exact .inl (by decide)
  | _ => exact .inr rfl

theorem updCch_only (s : State) (c : Nat) (f : CanCh → CanCh) : Only [.can] s (s.updCch c f) := updCan_only s _

theorem updCch_cch_self {s : State} {c : Nat} (f : CanCh → CanCh) (hc : c < s.can.ch.length) : (s.updCch c f).cch c = f (s.cch c) :=
  getD_upd _ _ _ _ hc

theorem updCch_cch_ne {c d : Nat} (s : State) (f : CanCh → CanCh) (h : d ≠ c) : (s.updCch c f).cch d = s.cch d := getD_upd_ne _ _ _ _ _ h

/-- An update of a channel keeps what it keeps of every value a channel can have, also where no such channel is held. -/
theorem updCch_keep {α} (s : State) (c d : Nat) (f : CanCh → CanCh) (p : CanCh → α) (hf : ∀ x, p (f x) = p x) :
    p ((s.updCch c f).cch d) = p (s.cch d) := by
  by_cases hd : d = c
  · subst hd
    by_cases hc : d < s.can.ch.length
    · rw [updCch_cch_self f hc, hf]
    · have hsame : updAt s.can.ch d f = s.can.ch := List.modify_eq_self (Nat.le_of_not_lt hc)
      exact congrArg (fun l : List CanCh => p (l.getD d {})) hsame
  · rw [updCch_cch_ne s f hd]

theorem updCobj_only (s : State) (c j : Nat) (f : CanObj → CanObj) : Only [.can] s (s.updCobj c j f) := updCch_only s c _

theorem updCobj_cch_ne {c d : Nat} (s : State) (j : Nat) (f : CanObj → CanObj) (h : d ≠ c) : (s.updCobj c j f).cch d = s.cch d :=
  updCch_cch_ne s _ h

theorem updCobj_cobj_ne {j m : Nat} (s : State) (c : Nat) (f : CanObj → CanObj) (h : m ≠ j) : (s.updCobj c j f).cobj c m = s.cobj c m :=
  updCch_keep s c c _ (fun x => x.objs.getD m {}) fun x => getD_upd_ne x.objs j m f {} h

/-- Every object of a channel that the state does not hold is the default one. -/
theorem initialCh_obj (j : Nat) : ({} : CanCh).objs.getD j {} = {} := List.getElem?_getD_replicate_default_eq _ 64 j

/-- An object with a pending request is one that the state holds: the object read outside the lists has none. -/
theorem held_of_pending {s : State} {c j : Nat} {f : CanFrame} (h : (s.cobj c j).pending = some f) :
    c < s.can.ch.length ∧ j < (s.cch c).objs.length := by
  have hnone : ¬ (({} : CanObj).pending = some f) := fun hn => nomatch hn
  exact ⟨getD_lt (p := fun x : CanCh => (x.objs.getD j {}).pending = some f) h (by rwa [initialCh_obj]),
    getD_lt (p := fun o : CanObj => o.pending = some f) h hnone⟩

theorem updCobj_cobj_self {s : State} {c j : Nat} {f : CanFrame} (g : CanObj → CanObj) (h : (s.cobj c j).pending = some f) :
    (s.updCobj c j g).cobj c j = g (s.cobj c j) := by
  obtain ⟨hc, hj⟩ := held_of_pending h
  unfold State.cobj State.updCobj
  rw [updCch_cch_self _ hc, getD_upd _ _ _ _ hj]

/-! ## A transmit error and the end of a request -/

theorem txError_only (c : Nat) (s : State) : Only [.can] s (txError c s) := updCch_only s c _

theorem txError_cch_ne {c d : Nat} (s : State) (h : d ≠ c) : (txError c s).cch d = s.cch d := updCch_cch_ne s _ h

theorem txError_cobj (c m : Nat) (s : State) : (txError c s).cobj c m = s.cobj c m :=
  updCch_keep s c c _ (fun x => x.objs.getD m {}) fun _ => rfl

theorem tellOwner_only (c j : Nat) (stamp : Option Nat) (s : State) : Only [.serv] s (tellOwner c j stamp s) := by
  unfold tellOwner
  split
  · exact updWin_only _ _ _
  · exact .refl _ _

/-- Outside the channels' part nothing holds a channel. -/
theorem Only.cch {ps : List Part} {s t : State} (h : Only ps s t) (hp : Part.can ∉ ps) (c : Nat) : t.cch c = s.cch c := by
  have hcan : t.can = s.can := h.get .can hp
  unfold State.cch
  rw [hcan]

theorem tellOwner_cch (c j : Nat) (stamp : Option Nat) (s : State) (d : Nat) : (tellOwner c j stamp s).cch d = s.cch d :=
  (tellOwner_only c j stamp s).cch (by decide) d

theorem tellOwner_cobj (c j : Nat) (stamp : Option Nat) (s : State) (m : Nat) : (tellOwner c j stamp s).cobj c m = s.cobj c m :=
  congrArg (fun x : CanCh => x.objs.getD m {}) (tellOwner_cch c j stamp s c)

section
variable (c j result : Nat) (stamp : Option Nat) (s : State)

theorem endRequest_only : Only [.can, .serv] s (endRequest c j result stamp s) :=
  ((updCobj_only s c j _).mono (by simp)).trans ((tellOwner_only c j stamp _).mono (by simp))

theorem endRequest_cch_ne {d : Nat} (h : d ≠ c) : (endRequest c j result stamp s).cch d = s.cch d :=
  (tellOwner_cch c j stamp _ d).trans (updCobj_cch_ne s j _ h)

theorem endRequest_cobj_ne {m : Nat} (h : m ≠ j) : (endRequest c j result stamp s).cobj c m = s.cobj c m :=
  (tellOwner_cobj c j stamp _ m).trans (updCobj_cobj_ne s c _ h)

theorem endRequest_cobj_self {f : CanFrame} (h : (s.cobj c j).pending = some f) :
    (endRequest c j result stamp s).cobj c j = { s.cobj c j with pending := none, cancel := false, result := result } :=
  (tellOwner_cobj c j stamp _ j).trans (updCobj_cobj_self _ h)
end

/-! ## The arbitration (R319, R321) -/

/-- The object offered is one of the channel's 64 that has a request and is not suspended: the fold over the candidates answers one of them. -/
theorem nextObject_pending {s : State} {c j : Nat} {f : CanFrame} (h : nextObject s c = some (j, f)) :
    j < 64 ∧ (s.cobj c j).pending = some f ∧ (s.cobj c j).suspended = false := by
  unfold nextObject at h
  extract_lets ready head at h
  have hready : ∀ i < 64, ready i = some (j, f) → j < 64 ∧ (s.cobj c j).pending = some f ∧ (s.cobj c j).suspended = false := by
    intro i hi hr
    simp only [ready, Option.ite_none_left_eq_some, Bool.not_eq_true, Option.map_eq_some_iff, Prod.mk.injEq] at hr
    obtain ⟨hsus, g, hg, rfl, rfl⟩ := hr
    exact ⟨hi, hg, hsus⟩
  have hmem : (j, f) ∈ (List.range 48).filterMap ready ++ head.toList := by
    refine List.foldlRecOn (motive := fun m => m = some (j, f) → (j, f) ∈ (List.range 48).filterMap ready ++ head.toList) (b := none) _ _
      (fun hn => nomatch hn) (fun m hm p hp hq => ?_) h
    split at hq
    · exact Option.some.inj hq ▸ hp
    · split at hq
      · exact Option.some.inj hq ▸ hp
      · exact hm hq
  rcases List.mem_append.1 hmem with hbuf | hfifo
  · obtain ⟨i, hi, hr⟩ := List.mem_filterMap.1 hbuf
    exact hready i (Nat.lt_trans (List.mem_range.1 hi) (by decide)) hr
  · obtain ⟨i, hi, hr⟩ := List.mem_filterMap.1 (List.mem_of_mem_head? (Option.mem_toList.1 hfifo))
    obtain ⟨k, hk, rfl⟩ := List.mem_map.1 hi
    exact hready (k + 48) (Nat.add_lt_add_right (List.mem_range.1 hk) 48) hr

theorem nextObject_ne_of_not_pending {s : State} {c j : Nat} (h : (s.cobj c j).pending = none) (g : CanFrame) : nextObject s c ≠ some (j, g) := by
  intro hn
  obtain ⟨_, hp, _⟩ := nextObject_pending hn
  rw [h] at hp
  cases hp

/-- On a channel that takes part in its bus a transmission is carried out. -/
theorem exec_canFrameTransmit {s : State} {c : Nat} (hc : c < 8) (hup : (s.cch c).up = true) (out : CanTxOutcome) (stamp tdc : Nat) :
    exec (.canFrameTransmit c out stamp tdc) s = .next (canTransmit c out (tick stamp) tdc s) := by
  show withUnit _ _ = _
  rw [if_pos hup, decide_eq_true hc]
  rfl

section
variable {s : State} {c j : Nat} {f : CanFrame} (h : nextObject s c = some (j, f)) (hone : (s.cobj c j).oneShot = true)
  (hcan : (s.cobj c j).cancel = false)
include h hone hcan

theorem canTransmit_arbitrationLost_oneShot (stamp tdc : Nat) :
    canTransmit c .arbitrationLost stamp tdc s = endRequest c j 6 (some stamp) s := by
  unfold canTransmit
  rw [h]
  simp [hone, hcan]

theorem canTransmit_errorOther_oneShot (stamp tdc : Nat) :
    canTransmit c .errorOther stamp tdc s = endRequest c j 7 (some stamp) (txError c s) := by
  unfold canTransmit
  rw [h]
  simp [hone, hcan]
end

/-- What the end of a request leaves: the object has its result and no request, so that no arbitration is offered it, and every other object
stands. -/
theorem endRequest_ends {s : State} {c j : Nat} {f : CanFrame} (h : (s.cobj c j).pending = some f) (result : Nat) (stamp : Option Nat) :
    ((endRequest c j result stamp s).cobj c j).result = result ∧ ((endRequest c j result stamp s).cobj c j).pending = none ∧
      (∀ g, nextObject (endRequest c j result stamp s) c ≠ some (j, g)) ∧
      (∀ m, m ≠ j → (endRequest c j result stamp s).cobj c m = s.cobj c m) ∧
      ∀ d, d ≠ c → (endRequest c j result stamp s).cch d = s.cch d := by
  have hobj := endRequest_cobj_self c j result stamp s h
  have hnone : ((endRequest c j result stamp s).cobj c j).pending = none := by rw [hobj]
  exact ⟨by rw [hobj], hnone, nextObject_ne_of_not_pending hnone, fun m => endRequest_cobj_ne c j result stamp s,
    fun d => endRequest_cch_ne c j result stamp s⟩

/-- Settles O45: a lost arbitration and an error both end the request of a one-shot object, the error after it has counted in the channel,
which leaves the objects as they are. -/
theorem oneShotFrames : Obligations.OneShotFrames := by
  refine ⟨fun s c j f => nextObject_pending, fun s c j f stamp tdc hc hup hn hone hcan => ?_, fun s c j f stamp tdc hc hup hn hone hcan => ?_⟩
  · obtain ⟨_, hp, _⟩ := nextObject_pending hn
    refine .intro (exec_canFrameTransmit hc hup _ _ _) ?_
    rw [canTransmit_arbitrationLost_oneShot hn hone hcan]
    exact ⟨endRequest_only c j 6 _ s, endRequest_ends hp 6 _⟩
  · obtain ⟨_, hp, _⟩ := nextObject_pending hn
    refine .intro (exec_canFrameTransmit hc hup _ _ _) ?_
    rw [canTransmit_errorOther_oneShot hn hone hcan]
    obtain ⟨hres, hnone, hnext, hobjs, hchs⟩ := endRequest_ends ((txError_cobj c j s).symm ▸ hp) 7 (some (tick stamp))
    exact ⟨((txError_only c s).mono (by simp)).trans (endRequest_only c j 7 _ _), hres, hnone, hnext,
      fun m hm => (hobjs m hm).trans (txError_cobj c m s), fun d hd => (hchs d hd).trans (txError_cch_ne s hd)⟩

end Sys2Proof.Machine

/-! Proofs of the statements on every command and every step: what a command keeps (`exec_keeps`), when it answers (`exec_total`), and
what follows for steps and runs. -/

namespace Sys2Proof.Machine

set_option Elab.async false

/-! ## One command -/

/-- Settles O1: the front of the queue is the command of the step. -/
theorem stepRunsTheFront : Obligations.StepRunsTheFront := fun s c rest h => by
  unfold step
  rw [h]

/-- Settles O2. -/
theorem stepIdles : Obligations.StepIdles := fun s h => by
  unfold step
  rw [h]

/-- Settles O3: `Command.wf` is exactly what a command is carried out for. -/
theorem wellFormedAnswers : Obligations.WellFormedAnswers := fun c s => exec_total s c

/-- Settles O4. -/
theorem queueIsTheSenders : Obligations.QueueIsTheSenders := fun c s t h => (exec_keeps s c t h).queue

/-- Settles O5. -/
theorem freeValuesAreFresh : Obligations.FreeValuesAreFresh := fun c s t h => (exec_keeps s c t h).free

/-- Settles O6. -/
theorem eolFuseStays : Obligations.EolFuseStays := fun c s t h => (exec_keeps s c t h).fuse

/-- The invariant of the statements is the relation's invariant with the clauses on the enables and on the engagement. -/
theorem State.inv_iff {s : State} : s.Inv ↔ s.InvAt .top := by
  constructor
  · intro ⟨hdict, hfot, hhistory, hsessions, hfuses, henables, hengaged⟩
    exact ⟨⟨hdict, hfot, hhistory, hsessions, hfuses⟩, fun _ => henables, fun _ => hengaged⟩
  · intro ⟨⟨hdict, hfot, hhistory, hsessions, hfuses⟩, henables, hengaged⟩
    exact ⟨hdict, hfot, hhistory, hsessions, hfuses, henables rfl, hengaged rfl⟩

theorem Keeps.keepsInv {s t : State} (h : Keeps .top s t) (hs : s.Inv) : t.Inv := State.inv_iff.2 (h.inv (State.inv_iff.1 hs))

/-- Settles O7: the fuses rise by the relation, and the bound of 63 is a clause of the invariant. -/
theorem rollbackFuseOnlyRises : Obligations.RollbackFuseOnlyRises := fun c s t hs h r =>
  have hk := exec_keeps s c t h
  ⟨hk.rollback r, (hk.keepsInv hs).fuses r⟩

/-! ## Steps and runs -/

/-- Settles O8. -/
theorem resetInv : Obligations.ResetInv where
  dict := by decide
  fot := by decide
  history := by decide
  sessions := by decide
  fuses c := by
    have hfuse : ∀ x ∈ State.reset.upd.regions, x.fuse ≤ 63 := by decide
    unfold State.region
    rw [List.getD_eq_getElem?_getD]
    cases h : State.reset.upd.regions[c - 1]? with
    | none => exact Nat.zero_le _
    | some x => exact hfuse x (List.mem_of_getElem? h)
  enables := .inr (by decide)
  engaged h := absurd h (by decide)

/-- The queue is no part of the invariant. -/
theorem State.Inv.withPending {s : State} (h : s.Inv) (q : List Instr) : State.Inv { s with pending := q } :=
  ⟨h.dict, h.fot, h.history, h.sessions, h.fuses, h.enables, h.engaged⟩

/-- Settles O9: the command at the front keeps the invariant, and an idle step changes nothing. -/
theorem stepKeepsInv : Obligations.StepKeepsInv := fun s t hs h => by
  cases hq : s.pending with
  | nil =>
    rw [stepIdles s hq] at h
    exact Host.Outcome.next.inj h ▸ hs
  | cons c rest =>
    exact (step_keeps hq t h).keepsInv (hs.withPending rest)

/-- With well-formed commands waiting a step is answered, and well-formed commands wait after it. -/
theorem step_answers {s : State} (hq : ∀ c ∈ s.pending, c.wf = true) : ∃ t, step s = .next t ∧ ∀ c ∈ t.pending, c.wf = true := by
  cases h : s.pending with
  | nil => exact ⟨s, stepIdles s h, hq⟩
  | cons c rest =>
    rw [h] at hq
    obtain ⟨t, ht⟩ := (wellFormedAnswers c { s with pending := rest }).1 (hq c List.mem_cons_self)
    refine ⟨t, (stepRunsTheFront s c rest h).trans ht, ?_⟩
    rw [queueIsTheSenders _ _ _ ht]
    exact fun d hd => hq d (List.mem_cons_of_mem c hd)

/-- Settles O10, by induction on the number of steps: each is answered, keeps the invariant and leaves well-formed commands waiting. -/
theorem runsAreSafe : Obligations.RunsAreSafe := by
  intro s hs hq n
  induction n generalizing s with
  | zero => exact ⟨s, rfl, hs⟩
  | succ n ih =>
    obtain ⟨t, ht, hqt⟩ := step_answers hq
    obtain ⟨u, hu, hinv⟩ := ih t (stepKeepsInv s t hs ht) hqt
    refine ⟨u, ?_, hinv⟩
    rw [steps, ht]
    exact hu

/-- Settles O11: the clause on the enables of the invariant that holds after the step. -/
theorem enablesNeedTheDevice : Obligations.EnablesNeedTheDevice := fun s t hs h hoff => by
  have hnone := (stepKeepsInv s t hs h).enables.resolve_left (Bool.eq_false_iff.1 hoff)
  exact noEnable_iff.1 hnone

/-! ## The dictionary -/

/-- Settles O12. -/
theorem dictionaryWrites : Obligations.DictionaryWrites := fun s i sub v hwf hsub =>
  ⟨dictPut_wf _ _ _ hwf, State.put_val_self hwf hsub, fun j t ht hne => State.put_val_ne hwf hsub ht fun he => by
    obtain ⟨rfl, rfl⟩ := Prod.mk.inj he
    exact hne.elim (· rfl) (· rfl)⟩

end Sys2Proof.Machine

/-! Rules of the shared operations that the statements of every chapter rest on: the outcome of a command, the frame of an update of one
part, the frame of the updates of sessions and of the dictionary, and entries of lists. -/

namespace Sys2Proof.Machine

set_option Elab.async false

/-! ## The outcome of a command -/

theorem withUnit_next {ok : Bool} {s : State} (h : ok = true) : withUnit ok s = .next s := by
  rw [withUnit, if_pos h]

/-- A request of a session on a unit that exists is a request of the session. -/
theorem guarded_next {p : Prop} [Decidable p] {o : Out} {s t : State} (hp : p) (h : o = .next t) : (if p then o else withUnit false s) = .next t :=
  (if_pos hp).trans h

/-! ## The frame of an update of one part -/

theorem updTm_only (s : State) (f : Tm → Tm) : Only [.tm] s (s.updTm f) := by
  intro p
  cases p with
  | tm => exact .inl (by decide)
  | _ => exact .inr rfl

theorem updPw_only (s : State) (f : Pw → Pw) : Only [.pw] s (s.updPw f) := by
  intro p
  cases p with
  | pw => exact .inl (by decide)
  | _ => exact .inr rfl

theorem updBelay_only (s : State) (f : Belay → Belay) : Only [.belay] s (s.updBelay f) := by
  intro p
  cases p with
  | belay => exact .inl (by decide)
  | _ => exact .inr rfl

theorem updFlow_only (s : State) (f : Flow → Flow) : Only [.flow] s (s.updFlow f) := by
  intro p
  cases p with
  | flow => exact .inl (by decide)
  | _ => exact .inr rfl

theorem updServ_only (s : State) (f : Serv → Serv) : Only [.serv] s (s.updServ f) := by
  intro p
  cases p with
  | serv => exact .inl (by decide)
  | _ => exact .inr rfl

theorem updPer_only (s : State) (f : Persist → Persist) : Only [.per] s (s.updPer f) := by
  intro p
  cases p with
  | per => exact .inl (by decide)
  | _ => exact .inr rfl

theorem updNet_only (s : State) (f : Net → Net) : Only [.net] s (s.updNet f) := by
  intro p
  cases p with
  | net => exact .inl (by decide)
  | _ => exact .inr rfl

theorem updSky_only (s : State) (f : Sky → Sky) : Only [.sky] s (s.updSky f) := by
  intro p
  cases p with
  | sky => exact .inl (by decide)
  | _ => exact .inr rfl

theorem updSkyio_only (s : State) (f : SkyIo → SkyIo) : Only [.skyio] s (s.updSkyio f) := by
  intro p
  cases p with
  | skyio => exact .inl (by decide)
  | _ => exact .inr rfl

theorem updSens_only (s : State) (f : Sense → Sense) : Only [.sens] s (s.updSens f) := by
  intro p
  cases p with
  | sens => exact .inl (by decide)
  | _ => exact .inr rfl

theorem updPas_only (s : State) (f : Pas → Pas) : Only [.pas] s (s.updPas f) := by
  intro p
  cases p with
  | pas => exact .inl (by decide)
  | _ => exact .inr rfl

theorem updLead_only (s : State) (f : Leads → Leads) : Only [.lead] s (s.updLead f) := by
  intro p
  cases p with
  | lead => exact .inl (by decide)
  | _ => exact .inr rfl

theorem updSteer_only (s : State) (f : Steer → Steer) : Only [.steer] s (s.updSteer f) := by
  intro p
  cases p with
  | steer => exact .inl (by decide)
  | _ => exact .inr rfl

theorem updOpt_only (s : State) (f : Opt → Opt) : Only [.opt] s (s.updOpt f) := by
  intro p
  cases p with
  | opt => exact .inl (by decide)
  | _ => exact .inr rfl

theorem updYield_only (s : State) (f : Yield → Yield) : Only [.yield] s (s.updYield f) := by
  intro p
  cases p with
  | yield => exact .inl (by decide)
  | _ => exact .inr rfl

theorem updFleet_only (s : State) (f : Fleet → Fleet) : Only [.fleet] s (s.updFleet f) := by
  intro p
  cases p with
  | fleet => exact .inl (by decide)
  | _ => exact .inr rfl

theorem updLoop_only (s : State) (f : LoopSt → LoopSt) : Only [.loop] s (s.updLoop f) := by
  intro p
  cases p with
  | loop => exact .inl (by decide)
  | _ => exact .inr rfl

theorem updTrace_only (s : State) (f : Trace → Trace) : Only [.trace] s (s.updTrace f) := by
  intro p
  cases p with
  | trace => exact .inl (by decide)
  | _ => exact .inr rfl

theorem updFio_only (s : State) (f : Fio → Fio) : Only [.fio] s (s.updFio f) := by
  intro p
  cases p with
  | fio => exact .inl (by decide)
  | _ => exact .inr rfl

theorem updValve_only (s : State) (f : Valve → Valve) : Only [.valve] s (s.updValve f) := by
  intro p
  cases p with
  | valve => exact .inl (by decide)
  | _ => exact .inr rfl

theorem updLan_only (s : State) (f : Lantern → Lantern) : Only [.lan] s (s.updLan f) := by
  intro p
  cases p with
  | lan => exact .inl (by decide)
  | _ => exact .inr rfl

theorem updUpd_only (s : State) (f : Upd → Upd) : Only [.upd] s (s.updUpd f) := by
  intro p
  cases p with
  | upd => exact .inl (by decide)
  | _ => exact .inr rfl

theorem updSess_only (s : State) (n : Nat) (f : Sess → Sess) : Only [.serv] s (s.updSess n f) := updServ_only s _

theorem touch_only (s : State) (n : Nat) : Only [.serv] s (s.touch n) := updSess_only s n _

theorem put_only (s : State) (i sub : Nat) (v : Val) : Only [.dict] s (s.put i sub v) := by
  intro p
  cases p with
  | dict => exact .inl (by decide)
  | _ => exact .inr rfl

theorem freeInt_only (s : State) : Only [.free] s s.freeInt.2 := by
  intro p
  cases p with
  | free => exact .inl (by decide)
  | _ => exact .inr rfl

/-- One more step of a frame: an operation that touches no part outside the frame. -/
theorem Only.next {ps qs : List Part} {s t u : State} (h : Only ps s t) (k : Only qs t u) (hq : ∀ p, p ∈ qs → p ∈ ps := by decide) :
    Only ps s u := h.trans (k.mono hq)

theorem Only.ite {ps : List Part} {s t u : State} {c : Prop} [Decidable c] (ht : Only ps s t) (hu : Only ps s u) :
    Only ps s (if c then t else u) := by
  split <;> assumption

/-! ## What a frame leaves -/

section
variable {ps : List Part} {s t : State} (h : Only ps s t)
include h
theorem Only.tm (k : Part.tm ∉ ps := by decide) : t.tm = s.tm := h.get .tm k
theorem Only.pw (k : Part.pw ∉ ps := by decide) : t.pw = s.pw := h.get .pw k
theorem Only.belay (k : Part.belay ∉ ps := by decide) : t.belay = s.belay := h.get .belay k
theorem Only.flow (k : Part.flow ∉ ps := by decide) : t.flow = s.flow := h.get .flow k
theorem Only.serv (k : Part.serv ∉ ps := by decide) : t.serv = s.serv := h.get .serv k
theorem Only.per (k : Part.per ∉ ps := by decide) : t.per = s.per := h.get .per k
theorem Only.net (k : Part.net ∉ ps := by decide) : t.net = s.net := h.get .net k
theorem Only.sky (k : Part.sky ∉ ps := by decide) : t.sky = s.sky := h.get .sky k
theorem Only.skyio (k : Part.skyio ∉ ps := by decide) : t.skyio = s.skyio := h.get .skyio k
theorem Only.sens (k : Part.sens ∉ ps := by decide) : t.sens = s.sens := h.get .sens k
theorem Only.pas (k : Part.pas ∉ ps := by decide) : t.pas = s.pas := h.get .pas k
theorem Only.pctl (k : Part.pctl ∉ ps := by decide) : t.pctl = s.pctl := h.get .pctl k
theorem Only.lead (k : Part.lead ∉ ps := by decide) : t.lead = s.lead := h.get .lead k
theorem Only.dict (k : Part.dict ∉ ps := by decide) : t.dict = s.dict := h.get .dict k
theorem Only.steer (k : Part.steer ∉ ps := by decide) : t.steer = s.steer := h.get .steer k
theorem Only.opt (k : Part.opt ∉ ps := by decide) : t.opt = s.opt := h.get .opt k
theorem Only.yield (k : Part.yield ∉ ps := by decide) : t.yield = s.yield := h.get .yield k
theorem Only.fleet (k : Part.fleet ∉ ps := by decide) : t.fleet = s.fleet := h.get .fleet k
theorem Only.loop (k : Part.loop ∉ ps := by decide) : t.loop = s.loop := h.get .loop k
theorem Only.trace (k : Part.trace ∉ ps := by decide) : t.trace = s.trace := h.get .trace k
theorem Only.fio (k : Part.fio ∉ ps := by decide) : t.fio = s.fio := h.get .fio k
theorem Only.valve (k : Part.valve ∉ ps := by decide) : t.valve = s.valve := h.get .valve k
theorem Only.can (k : Part.can ∉ ps := by decide) : t.can = s.can := h.get .can k
theorem Only.lan (k : Part.lan ∉ ps := by decide) : t.lan = s.lan := h.get .lan k
theorem Only.upd (k : Part.upd ∉ ps := by decide) : t.upd = s.upd := h.get .upd k
theorem Only.free (k : Part.free ∉ ps := by decide) : t.free = s.free := h.get .free k
theorem Only.pending (k : Part.pending ∉ ps := by decide) : t.pending = s.pending := h.get .pending k

/-- Where the dictionary stands, every object reads as before. -/
theorem Only.val (k : Part.dict ∉ ps := by decide) (i sub : Nat) : t.val i sub = s.val i sub := by
  unfold State.val
  rw [h.dict k]

theorem Only.int (k : Part.dict ∉ ps := by decide) (i sub : Nat) : t.int i sub = s.int i sub := congrArg valNum (h.val k i sub)

theorem Only.nat (k : Part.dict ∉ ps := by decide) (i sub : Nat) : t.nat i sub = s.nat i sub := congrArg Int.toNat (h.int k i sub)

theorem Only.flag (k : Part.dict ∉ ps := by decide) (i sub : Nat) : t.flag i sub = s.flag i sub := by
  unfold State.flag
  rw [h.int k]
end

/-! ## What a record leaves -/

section
variable (s : State) (e : FlowEv)
@[simp] theorem State.record_tm : (s.record e).tm = s.tm := (record_only s e).tm
@[simp] theorem State.record_pw : (s.record e).pw = s.pw := (record_only s e).pw
@[simp] theorem State.record_belay : (s.record e).belay = s.belay := (record_only s e).belay
@[simp] theorem State.record_serv : (s.record e).serv = s.serv := (record_only s e).serv
@[simp] theorem State.record_per : (s.record e).per = s.per := (record_only s e).per
@[simp] theorem State.record_net : (s.record e).net = s.net := (record_only s e).net
@[simp] theorem State.record_sky : (s.record e).sky = s.sky := (record_only s e).sky
@[simp] theorem State.record_skyio : (s.record e).skyio = s.skyio := (record_only s e).skyio
@[simp] theorem State.record_sens : (s.record e).sens = s.sens := (record_only s e).sens
@[simp] theorem State.record_pas : (s.record e).pas = s.pas := (record_only s e).pas
@[simp] theorem State.record_pctl : (s.record e).pctl = s.pctl := (record_only s e).pctl
@[simp] theorem State.record_lead : (s.record e).lead = s.lead := (record_only s e).lead
@[simp] theorem State.record_dict : (s.record e).dict = s.dict := (record_only s e).dict
@[simp] theorem State.record_steer : (s.record e).steer = s.steer := (record_only s e).steer
@[simp] theorem State.record_opt : (s.record e).opt = s.opt := (record_only s e).opt
@[simp] theorem State.record_yield : (s.record e).yield = s.yield := (record_only s e).yield
@[simp] theorem State.record_fleet : (s.record e).fleet = s.fleet := (record_only s e).fleet
@[simp] theorem State.record_loop : (s.record e).loop = s.loop := (record_only s e).loop
@[simp] theorem State.record_trace : (s.record e).trace = s.trace := (record_only s e).trace
@[simp] theorem State.record_fio : (s.record e).fio = s.fio := (record_only s e).fio
@[simp] theorem State.record_valve : (s.record e).valve = s.valve := (record_only s e).valve
@[simp] theorem State.record_can : (s.record e).can = s.can := (record_only s e).can
@[simp] theorem State.record_lan : (s.record e).lan = s.lan := (record_only s e).lan
@[simp] theorem State.record_free : (s.record e).free = s.free := (record_only s e).free
@[simp] theorem State.record_pending : (s.record e).pending = s.pending := (record_only s e).pending
end

/-! ## Bytes -/

@[simp] theorem leBytes_length (n v : Nat) : (leBytes n v).length = n := by
  induction n generalizing v with
  | zero => rfl
  | succ n ih => rw [leBytes, List.length_cons, ih]

@[simp] theorem leInt_length (n : Nat) (v : Int) : (leInt n v).length = n := leBytes_length n _

/-- A number that fits into n bytes reads as it was written. -/
theorem leNat_leBytes {n v : Nat} (h : v < 256 ^ n) : leNat (leBytes n v) = v := by
  induction n generalizing v with
  | zero => rw [Nat.lt_one_iff.1 h]; rfl
  | succ n ih =>
    have hq : v / 256 < 256 ^ n := Nat.div_lt_of_lt_mul (by rwa [Nat.pow_succ, Nat.mul_comm] at h)
    have hb : (byteOf v).toNat = v % 256 := BitVec.toNat_ofNat v 8
    rw [leBytes, leNat, ih hq, hb]
    omega

/-! ## Sessions -/

/-- A served session keeps everything but the time of its last request when it is touched. -/
theorem touch_sessOf {s : State} {n : Nat} (h : (s.sessOf n).opened = true) :
    (s.touch n).sessOf n = { s.sessOf n with lastReq := s.tm.mono } := sess_upd h

section
variable (s : State) (n : Nat)
@[simp] theorem touch_tm : (s.touch n).tm = s.tm := rfl
@[simp] theorem touch_pw : (s.touch n).pw = s.pw := rfl
@[simp] theorem touch_belay : (s.touch n).belay = s.belay := rfl
@[simp] theorem touch_flow : (s.touch n).flow = s.flow := rfl
@[simp] theorem touch_per : (s.touch n).per = s.per := rfl
@[simp] theorem touch_net : (s.touch n).net = s.net := rfl
@[simp] theorem touch_sky : (s.touch n).sky = s.sky := rfl
@[simp] theorem touch_skyio : (s.touch n).skyio = s.skyio := rfl
@[simp] theorem touch_sens : (s.touch n).sens = s.sens := rfl
@[simp] theorem touch_pas : (s.touch n).pas = s.pas := rfl
@[simp] theorem touch_pctl : (s.touch n).pctl = s.pctl := rfl
@[simp] theorem touch_lead : (s.touch n).lead = s.lead := rfl
@[simp] theorem touch_dict : (s.touch n).dict = s.dict := rfl
@[simp] theorem touch_steer : (s.touch n).steer = s.steer := rfl
@[simp] theorem touch_opt : (s.touch n).opt = s.opt := rfl
@[simp] theorem touch_yield : (s.touch n).yield = s.yield := rfl
@[simp] theorem touch_fleet : (s.touch n).fleet = s.fleet := rfl
@[simp] theorem touch_loop : (s.touch n).loop = s.loop := rfl
@[simp] theorem touch_trace : (s.touch n).trace = s.trace := rfl
@[simp] theorem touch_fio : (s.touch n).fio = s.fio := rfl
@[simp] theorem touch_valve : (s.touch n).valve = s.valve := rfl
@[simp] theorem touch_can : (s.touch n).can = s.can := rfl
@[simp] theorem touch_lan : (s.touch n).lan = s.lan := rfl
@[simp] theorem touch_upd : (s.touch n).upd = s.upd := rfl
@[simp] theorem touch_free : (s.touch n).free = s.free := rfl
@[simp] theorem touch_pending : (s.touch n).pending = s.pending := rfl
end

/-- Another session's update leaves a session as it is. -/
theorem sess_upd_ne {s : State} {n m : Nat} (f : Sess → Sess) (h : m ≠ n) : (s.updSess n f).sessOf m = s.sessOf m :=
  getD_upd_ne _ _ _ _ _ h

/-- A served request whose value fails the common checks or the chapter's own is answered with the abort code. -/
theorem answer_error {s : State} {n a : Nat} {r : Except Nat State} (h : r = .error a) : s.answer n r = s.deny n a := by
  rw [h]
  rfl

theorem answer_ok {s t : State} {n : Nat} {r : Except Nat State} (h : r = .ok t) : s.answer n r = t.ack n := by
  rw [h]
  rfl

/-- An admitted write that the chapter carries out. -/
theorem admitted_ok {s t : State} {n i sub : Nat} {v : Val} {w : State → Except Nat State} (h : s.admits n i sub v) (hw : w (s.touch n) = .ok t) :
    s.asSession n i (fun c s => checked c i sub v s w) = .next (t.ack n) := by
  rw [session_ok h, answer_ok hw]

/-- An admitted write that the chapter refuses. -/
theorem admitted_error {s : State} {n i sub a : Nat} {v : Val} {w : State → Except Nat State} (h : s.admits n i sub v)
    (hw : w (s.touch n) = .error a) : s.asSession n i (fun c s => checked c i sub v s w) = .next ((s.touch n).deny n a) := by
  rw [session_ok h, answer_error hw]

/-- A served request that the chapter carries out, or refuses. -/
theorem served_ok {s t : State} {n i : Nat} {w : Ctx → State → Except Nat State} (h : s.serves n i) (hw : w (s.ctxOf n) (s.touch n) = .ok t) :
    s.asSession n i w = .next (t.ack n) := by
  rw [serve_ok h, answer_ok hw]

theorem served_error {s : State} {n i a : Nat} {w : Ctx → State → Except Nat State} (h : s.serves n i)
    (hw : w (s.ctxOf n) (s.touch n) = .error a) : s.asSession n i w = .next ((s.touch n).deny n a) := by
  rw [serve_ok h, answer_error hw]

theorem State.admits.serves {s : State} {n i sub : Nat} {v : Val} (h : s.admits n i sub v) : s.serves n i := h.1

/-- An admitted write passes the common checks of the chapter's write. -/
theorem checked_admitted {s u : State} {n i sub : Nat} {v : Val} (h : s.admits n i sub v) (w : State → Except Nat State) :
    checked (s.ctxOf n) i sub v u w = w u := if_pos h.2

end Sys2Proof.Machine

/-! Proofs of the statements on Skylight's antennas, search and tracking (12 R274–R282). -/

namespace Sys2Proof.Machine

set_option Elab.async false

/-! ## Allocation of the channels (R281) -/

/-- A list of channels in which every busy channel of the first stands. -/
def KeepsBusy (l k : List Chan) : Prop := k.length = l.length ∧ ∀ m, (l.getD m {}).state ≠ 0 → k.getD m {} = l.getD m {}

theorem KeepsBusy.refl (l : List Chan) : KeepsBusy l l := ⟨rfl, fun _ _ => rfl⟩

theorem KeepsBusy.trans {l k j : List Chan} (h : KeepsBusy l k) (g : KeepsBusy k j) : KeepsBusy l j := by
  refine ⟨g.1.trans h.1, fun m hm => ?_⟩
  have hk := h.2 m hm
  exact (g.2 m (hk ▸ hm)).trans hk

theorem KeepsBusy.foldl {α : Type} {f : List Chan → α → List Chan} (hf : ∀ l a, KeepsBusy l (f l a)) (as : List α) :
    ∀ l, KeepsBusy l (as.foldl f l) := by
  induction as with
  | nil => exact KeepsBusy.refl
  | cons a as ih => exact fun l => (hf l a).trans (ih _)

theorem KeepsBusy.ite {c : Prop} {_ : Decidable c} {l k : List Chan} (h : KeepsBusy l k) : KeepsBusy l (if c then k else l) := by
  split
  · exact h
  · exact .refl l

/-- The channel found idle is idle. -/
theorem freeChannel_idle {l : List Chan} {ch : Nat} (h : freeChannel l = some ch) : (l.getD ch {}).state = 0 := by
  obtain ⟨hlt, hidle, _⟩ := List.findIdx?_eq_some_iff_getElem.1 h
  rw [List.getD_eq_getElem _ _ hlt]
  exact beq_iff_eq.1 hidle

/-- A signal is put on an idle channel. -/
theorem assign_keepsBusy (l : List Chan) (svid sig ant st : Nat) : KeepsBusy l (assign l svid sig ant st) := by
  unfold assign
  split
  · exact .refl l
  · split
    · next ch hch =>
      refine ⟨List.length_modify .., fun m hm => getD_upd_ne _ _ _ _ _ fun he => hm ?_⟩
      rw [he, freeChannel_idle hch]
    · exact .refl l

theorem measure_svid (s : State) (view : List SatView) (c : Chan) :
    (measure s view c).svid = c.svid ∧ (measure s view c).signal = c.signal := by
  unfold measure
  split <;> exact ⟨rfl, rfl⟩

/-- A channel after the masks have been applied to it (R281): measured, and released when it no longer qualifies. -/
def masked (s : State) (view : List SatView) (c : Chan) : Chan :=
  if c.state = 0 then c else if qualifies s view (measure s view c) then measure s view c else {}

/-- A busy channel that still qualifies passes the masks measured. -/
theorem masked_of_qualifies {s : State} {view : List SatView} {c : Chan} (hbusy : c.state ≠ 0) (hq : qualifies s view (measure s view c) = true) :
    masked s view c = measure s view c := by
  rw [masked, if_neg hbusy, if_pos hq]

theorem measure_state (s : State) (view : List SatView) (c : Chan) : (measure s view c).state = c.state := by
  unfold measure
  split <;> rfl

/-- What is made of the channels that pass the masks, as long as the busy ones stand, leaves each its satellite and signal. -/
theorem allocated_keeps {s : State} {view : List SatView} {l k : List Chan} (h : KeepsBusy (l.map (masked s view)) k) :
    (k.map (measure s view)).length = l.length ∧ ∀ m, (l.getD m {}).state ≠ 0 → qualifies s view (measure s view (l.getD m {})) = true →
      ((k.map (measure s view)).getD m {}).svid = (l.getD m {}).svid ∧ ((k.map (measure s view)).getD m {}).signal = (l.getD m {}).signal := by
  have hlen : k.length = l.length := h.1.trans (List.length_map _)
  refine ⟨(List.length_map _).trans hlen, fun m hbusy hq => ?_⟩
  have hm : m < l.length := getD_lt (p := fun c : Chan => c.state ≠ 0) hbusy (by decide)
  have hmask : (l.map (masked s view)).getD m {} = measure s view (l.getD m {}) := by
    rw [← masked_of_qualifies hbusy hq]
    simp [List.getD, hm]
  have hkeep : k.getD m {} = measure s view (l.getD m {}) := by
    rw [← hmask]
    exact h.2 m (by rw [hmask, measure_state]; exact hbusy)
  have hread : (k.map (measure s view)).getD m {} = measure s view (k.getD m {}) := by
    simp [List.getD, hlen ▸ hm]
  obtain ⟨hsv, hsig⟩ := measure_svid s view (measure s view (l.getD m {}))
  obtain ⟨hsv', hsig'⟩ := measure_svid s view (l.getD m {})
  rw [hread, hkeep]
  exact ⟨hsv.trans hsv', hsig.trans hsig'⟩

/-- Allocation takes idle channels only: for acquisition signals, for hand-over signals, and with a baseline for the second antenna. -/
theorem channelAllocation_keeps {s : State} (view : List SatView) (hs : s.skyRuns = true) :
    Runs (.channelAllocation view) s [.sky] fun t => t.sky.channels.length = s.sky.channels.length ∧
      ∀ m, (s.sky.channels.getD m {}).state ≠ 0 → qualifies s view (measure s view (s.sky.channels.getD m {})) = true →
        (t.sky.channels.getD m {}).svid = (s.sky.channels.getD m {}).svid ∧
        (t.sky.channels.getD m {}).signal = (s.sky.channels.getD m {}).signal := by
  refine .intro (congrArg Host.Outcome.next (if_pos hs)) ⟨updSky_only _ _, allocated_keeps ?_⟩
  refine .trans ?_ (.ite (.foldl (fun l c => .ite (assign_keepsBusy ..)) _ _))
  refine .trans ?_ (.foldl (fun l v => .foldl (fun l g => .ite (assign_keepsBusy ..)) _ l) _ _)
  exact .foldl (fun l v => .foldl (fun l g => .ite (assign_keepsBusy ..)) _ l) _ _

/-! ## The statement -/

/-- Settles O13. -/
theorem skylightTracking : Obligations.SkylightTracking := by
  refine ⟨fun s a ha hs hmask => ⟨?_, ?_⟩, fun s a ha hfold => ?_, fun s sv sig peak ch hsig hs hmask hch hpeak => ?_,
    fun s sv sig peak ch hsig hs hmask hch hpeak hlast => ?_, fun s ch hch hst => ⟨?_, ?_⟩, fun s ch hch hst => ?_,
    fun s view hs => channelAllocation_keeps view hs⟩
  · show withUnit _ _ = _
    simp [ha, hs, hmask, withUnit, Sky.flag]
  · show withUnit _ _ = _
    simp [ha, hs, hmask, withUnit, Sky.flag]
  · show withUnit _ _ = _
    simp only [ha, hfold, withUnit]
    rfl
  · show withUnit _ _ = _
    simp [hsig, hs, hmask, hch, hpeak, withUnit, State.updSky, updAt]
  · show withUnit _ _ = _
    simp [hsig, hs, hmask, hch, hlast, not_le.2 hpeak, withUnit, State.updSky]
  · show withUnit _ _ = _
    simp only [hch, hst, withUnit, State.updSky]
    rfl
  · show withUnit _ _ = _
    simp only [hch, hst, withUnit, State.updSky]
    rfl
  · refine .intro (withUnit_next (decide_eq_true hch)) ⟨updSky_only _ _, ?_⟩
    have hlen : ch < s.sky.channels.length := getD_lt (p := fun c : Chan => c.state = 4) hst (by decide)
    have hself := getD_upd s.sky.channels ch (fun c => if c.state = 4 then { c with state := 3, lockTime := 0, slipped := true } else c) {} hlen
    rw [if_pos hst] at hself
    refine ⟨congrArg Chan.slipped hself, congrArg Chan.state hself, fun m hm => ?_⟩
    exact List.getElem?_modify_ne _ _ (Ne.symm hm)

end Sys2Proof.Machine

/-! Proofs of the statement on Skylight's epochs, the first fix, the end of a slew and the entry to Shutdown (12 R283–R294). -/

namespace Sys2Proof.Machine

set_option Elab.async false

/-! ## One epoch (R283–R287) -/

/-- The clock check does not look at what an epoch updates before it. -/
theorem clockPasses_updSky {s : State} {f : Sky → Sky} (o : Int) (hst : (f s.sky).status = s.sky.status) (hat : (f s.sky).holdAt = s.sky.holdAt)
    (hu0 : (f s.sky).u0 = s.sky.u0) (ht0 : (f s.sky).t0 = s.sky.t0) (htemp : (f s.sky).temp = s.sky.temp)
    (hunc : (f s.sky).unc = s.sky.unc) : clockPasses (s.updSky f) o = clockPasses s o := by
  have hn : ∀ i sub, (s.updSky f).nat i sub = s.nat i sub := (updSky_only s f).nat
  unfold clockPasses State.uncertainty holdoverUnc
  simp only [State.updSky_sky, State.updSky_tm, State.updSky_net, hn, hst, hat, hu0, ht0, htemp, hunc]

/-- What the signal checks of an epoch take up leaves Skylight's status, fix, run of valid epochs and entry to holdover, and the channels are
those of the snapshot. -/
theorem epochStep_eq (x : Solution) (s : State) : ∃ f : Sky → Sky,
    (epochStep x s = if !x.valid || decide (4 < x.excluded.length) then invalidEpoch (s.updSky f) x
      else if !clockPasses (s.updSky f) x.offset then invalidEpoch ((s.updSky f).updSky fun k => k.flag skyClockBad true) x
      else validEpoch (s.updSky f) x) ∧
    (f s.sky).status = s.sky.status ∧ (f s.sky).validRun = s.sky.validRun ∧ (f s.sky).snap = (f s.sky).channels ∧
    clockPasses (s.updSky f) x.offset = clockPasses s x.offset :=
by
  unfold epochStep
  refine ⟨_, rfl, ?_, ?_, ?_, clockPasses_updSky _ ?_ ?_ ?_ ?_ ?_ ?_⟩ <;> rfl

/-- An epoch on the grid of 50 ms is taken while Skylight runs. -/
theorem exec_epochSolution {s : State} {x : Solution} (hs : s.skyRuns = true) (hx : x.epoch % 50000000 = 0) :
    exec (.epochSolution x) s = .next (epochStep x s) := by
  show execEpochSolution x s = _
  simp [execEpochSolution, hs, hx]

/-- Entry to holdover: the flag of the solution stays, the slew stops. -/
theorem enterHoldover_only (s : State) (at_ : Nat) : Only [.sky, .tm] s (enterHoldover s at_) :=
  ((updSky_only s _).mono (by decide)).next (updTm_only _ _)

theorem takeUtc_only (o : Option UtcInfo) (s : State) : Only [.tm] s (takeUtc o s) := by
  unfold takeUtc
  split
  · exact updTm_only _ _
  · exact .refl _ _

theorem takeUtc_sky (o : Option UtcInfo) (s : State) : (takeUtc o s).sky = s.sky := (takeUtc_only o s).sky

section
variable (u : State) (x : Solution)

/-- Without a valid solution the two validity flags and the run of valid epochs fall. -/
theorem invalidEpoch_eq : ∃ f : Sky → Sky,
    (invalidEpoch u x = if u.sky.status = 1 ∨ u.sky.status = 3 then
      (enterHoldover (u.updSky f) x.epoch).record ⟨0x9001, 0, 0x0B, [], [], 0xFFFFFFFF, 0xF⟩ else u.updSky f) ∧
    (f u.sky).status = u.sky.status ∧ (f u.sky).flags = setBit (setBit u.sky.flags 0 false) 5 false ∧ (f u.sky).validRun = 0 :=
  ⟨_, rfl, rfl, rfl, rfl⟩

theorem invalidEpoch_unlocks :
    Only [.sky, .tm, .flow, .upd] u (invalidEpoch u x) ∧ (invalidEpoch u x).sky.flags.testBit 0 = false ∧
      (invalidEpoch u x).sky.flags.testBit 5 = false ∧ (invalidEpoch u x).sky.validRun = 0 := by
  obtain ⟨f, heq, -, hflags, hrun⟩ := invalidEpoch_eq u x
  have hsky : (invalidEpoch u x).sky.flags = (f u.sky).flags ∧ (invalidEpoch u x).sky.validRun = (f u.sky).validRun := by
    rw [heq]
    split
    · rw [State.record_sky]
      exact ⟨rfl, rfl⟩
    · exact ⟨rfl, rfl⟩
  rw [hsky.1, hsky.2, hflags]
  refine ⟨?_, by rw [setBit_testBit, if_neg (by decide), setBit_testBit, if_pos rfl], by rw [setBit_testBit, if_pos rfl], hrun⟩
  rw [heq]
  exact .ite ((((updSky_only u f).mono (by decide)).next (enterHoldover_only _ _)).next (record_only _ _)) ((updSky_only u f).mono (by decide))

theorem invalidEpoch_locked (h : u.sky.status = 1 ∨ u.sky.status = 3) :
    (invalidEpoch u x).sky.status = 2 ∧ (invalidEpoch u x).sky.fix = 5 ∧ (invalidEpoch u x).tm.source = 3 ∧ (invalidEpoch u x).tm.slew = 0 ∧
      (invalidEpoch u x).sky.holdAt = x.epoch ∧ Recorded ⟨0x9001, 0, 0x0B, [], [], 0xFFFFFFFF, 0xF⟩ u (invalidEpoch u x) := by
  obtain ⟨f, heq, -⟩ := invalidEpoch_eq u x
  rw [heq, if_pos h, State.record_sky, State.record_tm]
  exact ⟨rfl, rfl, rfl, rfl, rfl, (Recorded.self _ _).base rfl rfl rfl rfl rfl⟩

theorem invalidEpoch_unlocked (h : u.sky.status = 0 ∨ u.sky.status = 2) :
    (invalidEpoch u x).sky.status = u.sky.status ∧ (invalidEpoch u x).tm = u.tm ∧ (invalidEpoch u x).flow = u.flow := by
  obtain ⟨f, heq, hst, -⟩ := invalidEpoch_eq u x
  rw [heq, if_neg (by omega)]
  exact ⟨hst, rfl, rfl⟩

/-- A valid epoch outside holdover delivers the solution, and feeds the servo and the UTC parameters (R283–R286, R290). -/
theorem validEpoch_eq (h : u.sky.status ≠ 2) : ∃ (f : Sky → Sky) (g : Tm → Tm),
    validEpoch u x = takeUtc x.utc (if u.sky.status = 1 then (u.freeInt.2.updSky f).updTm g else u.freeInt.2.updSky f) ∧
    (f u.sky).flags = setBit (setBit (setBit (setBit (setBit u.sky.flags 0 true) 7 false) 5 (dualHeadingOk u x)) 12
      (decide (corrAgeAt u x.epoch ≠ 0xFFFF) && decide (10 * u.nat 0x5000 0xA < corrAgeAt u x.epoch))) 13 (decide (1000 * u.nat 0x5000 0xC < x.baseRange)) ∧
    (f u.sky).state = 3 ∧ (f u.sky).validRun = u.sky.validRun + 1 ∧ (f u.sky).status = u.sky.status ∧
    (f u.sky).fix = (if u.sky.status = 2 then 5 else fixOf u x (corrAgeAt u x.epoch)) ∧ (f u.sky).pose = poseOf u x ∧
    (f u.sky).snap = u.sky.snap ∧ (f u.sky).channels = u.sky.channels := by
  refine ⟨_, _, if_neg fun hc => h ?_, ?_, ?_, ?_, ?_, ?_, ?_, ?_, ?_⟩
  · obtain ⟨hst, -⟩ := hc
    rw [takeUtc_sky] at hst
    split at hst <;> exact hst
  all_goals rfl

/-- The servo and the UTC parameters leave what Skylight reports. -/
theorem validEpoch_delivers (h : u.sky.status ≠ 2) :
    Only [.sky, .tm, .free] u (validEpoch u x) ∧ (validEpoch u x).sky.flags.testBit 0 = true ∧ (validEpoch u x).sky.state = 3 ∧
      (validEpoch u x).sky.validRun = u.sky.validRun + 1 ∧ (validEpoch u x).sky.status = u.sky.status ∧
      (validEpoch u x).sky.fix = fixOf u x (corrAgeAt u x.epoch) ∧ (validEpoch u x).sky.pose = poseOf u x ∧
      ((validEpoch u x).sky.flags.testBit 5 = dualHeadingOk u x) ∧ (validEpoch u x).sky.snap = u.sky.snap ∧
      (validEpoch u x).sky.channels = u.sky.channels := by
  obtain ⟨f, g, heq, hflags, hstate, hrun, hst, hfix, hpose, hsnap, hch⟩ := validEpoch_eq u x h
  have hf : Only [.sky, .tm, .free] u (u.freeInt.2.updSky f) := ((freeInt_only u).mono (by decide)).next (updSky_only _ f)
  have hsky : (validEpoch u x).sky = f u.sky := by
    rw [heq, takeUtc_sky]
    split <;> rfl
  rw [hsky, hflags, hfix, if_neg h]
  refine ⟨?_, ?_, hstate, hrun, hst, rfl, hpose, ?_, hsnap, hch⟩
  · rw [heq]
    exact (Only.ite (hf.next (updTm_only _ g)) hf).next (takeUtc_only _ _)
  · simp only [setBit_testBit]
    rfl
  · simp only [setBit_testBit]
    rfl
end

/-! ## The statement -/

/-- Settles O14. -/
theorem skylightEpochs : Obligations.SkylightEpochs := by
  refine ⟨fun s x hs hx hbad => ?_, fun s x hs hx hvalid hexcl hclock hst => ?_, fun s g hs hst hflag hstep => ?_, fun s hslew => ?_,
    fun s hdev hstate => ?_⟩
  · obtain ⟨f, heq, hst, -⟩ := epochStep_eq x s
    have hinv : epochStep x s = invalidEpoch (s.updSky f) x := by
      rw [heq, if_pos (by simpa using hbad)]
    obtain ⟨honly, hvalid, hheading, hrun⟩ := invalidEpoch_unlocks (s.updSky f) x
    refine .intro (exec_epochSolution hs hx) ?_
    rw [hinv]
    refine ⟨((updSky_only s f).mono (by decide)).trans honly, hvalid, hheading, hrun, fun hl => ?_, fun hu => ?_⟩
    · obtain ⟨h1, h2, h3, h4, h5, hrec⟩ := invalidEpoch_locked (s.updSky f) x (hst.symm ▸ hl)
      exact ⟨h1, h2, h3, h4, h5, hrec.base rfl rfl rfl rfl rfl⟩
    · obtain ⟨h1, h2, h3⟩ := invalidEpoch_unlocked (s.updSky f) x (hst.symm ▸ hu)
      exact ⟨h1.trans hst, h2, h3⟩
  · obtain ⟨f, heq, hstf, hrunf, hsnapf, hclockf⟩ := epochStep_eq x s
    have hval : epochStep x s = validEpoch (s.updSky f) x := by
      rw [heq, if_neg (by simp [hvalid, hexcl]), if_neg (by simp [hclockf, hclock])]
    obtain ⟨honly, hflag, hstate, hrun, hst', hfix, hpose, hheading, hsnap, hch⟩ := validEpoch_delivers (s.updSky f) x (hstf.symm ▸ hst)
    refine .intro (exec_epochSolution hs hx) ?_
    rw [hval]
    refine ⟨((updSky_only s f).mono (by decide)).trans honly, hflag, hstate, hrun.trans (congrArg (· + 1) hrunf), hst'.trans hstf, hfix, hpose, ?_,
      hsnap.trans (hsnapf.trans hch.symm)⟩
    rw [hheading]
    show dualHeadingOk s x = true ↔ _
    simp [dualHeadingOk, and_assoc]
  · refine .intro (congrArg Host.Outcome.next (if_pos (by simp [hs, hst, hflag, hstep]))) ⟨?_, rfl, rfl, rfl, rfl, rfl, rfl⟩
    exact (((updSky_only s _).mono (by decide)).next (updNet_only _ _)).next (updTm_only _ _)
  · exact congrArg Host.Outcome.next (if_pos hslew)
  · refine .intro (congrArg Host.Outcome.next (if_pos ⟨hdev, hstate⟩)) ?_
    have hflag : ∀ w : Nat, (setBit (setBit w 0 false) 5 false).testBit 0 = false := fun w => by
      simp only [setBit_testBit]
      rfl
    by_cases hl : s.sky.status = 1 ∨ s.sky.status = 3
    · rw [if_pos hl]
      exact ⟨(enterHoldover_only s _).next (updSky_only _ _), rfl, rfl, hflag _, rfl, fun _ => ⟨rfl, rfl⟩, fun h0 => by omega⟩
    · rw [if_neg hl]
      exact ⟨(updSky_only s _).mono (by decide), rfl, rfl, hflag _, rfl, fun h => absurd h hl, fun h0 => ⟨h0, rfl⟩⟩

end Sys2Proof.Machine

/-! Proofs of the statement on Skylight's interfaces: corrections, aiding, the PPS edge, the time message and SkyCommand (12 R277–R290). -/

namespace Sys2Proof.Machine

set_option Elab.async false

/-- A frame of the selected source is taken while Skylight runs (R285). -/
theorem exec_rtcmFrame {s : State} {fl : Bool} (f : Bytes) (hs : s.skyRuns = true) (hsel : s.nat 0x5000 9 = (if fl then 1 else 2)) :
    exec (.rtcmFrame fl f) s = .next (if rtcmOk f then rtcmApply s ((f.drop 3).take (f.length - 6))
      else s.updSkyio fun o => { o with rtcmErrors := inc32 o.rtcmErrors }) := by
  show execRtcmFrame fl f s = _
  simp [execRtcmFrame, rtcmStep, hs, hsel]

/-- The bytes of the time message before its CRC. -/
theorem timeBody_length (s : State) (edge : Nat) : (timeBody s edge).length = 30 := by
  simp [timeBody]

/-- The message begins with its synchronisation bytes. -/
theorem timeBody_take (s : State) (edge : Nat) : (timeBody s edge).take 2 = [0x4C#8, 0x48#8] := by
  have hsync : leBytes 2 0x484C = [0x4C#8, 0x48#8] := by decide
  simp [timeBody, hsync, List.append_assoc]

/-- Settles O15. -/
theorem skylightInterfaces : Obligations.SkylightInterfaces := by
  refine ⟨fun s fl f hs hsel hbad => ?_, fun s fl f hs hsel hok hmsg => ?_, fun s f0 f1 f2 t0 t1 t2 hs hon h0 h1 h2 h01 h12 h02 hid hvalid => ?_,
    fun s f0 f1 f2 t0 t1 t2 hs hon hlate => ?_, fun s sec q hsec hlo hhi hemit => ?_, fun s e he => ?_, fun s n h => ?_, fun s n h => ?_⟩
  · rw [exec_rtcmFrame f hs hsel, if_neg (by simp [hbad])]
  · refine .intro (exec_rtcmFrame f hs hsel) ?_
    rw [if_pos hok, rtcmApply, hmsg]
    exact ⟨updSkyio_only _ _, rfl, rfl, rfl⟩
  · refine .intro (congrArg Host.Outcome.next ((if_neg (by simp [hs, hon])).trans ((if_neg (by simp [h0, h1, h2, h01, h12, h02, hid])).trans
      (if_neg (Bool.eq_false_iff.1 hvalid))))) ⟨?_, rfl, rfl, rfl, ?_⟩
    · exact (((updSkyio_only s _).mono (by decide)).next (updSky_only _ _)).next (updSkyio_only _ _)
    · dsimp only [State.updSky_sky, State.updSkyio_sky, Sky.flag]
      rw [setBit_testBit, if_pos rfl]
      cases s.sky.knownTime <;> cases s.sky.knownPos <;> simp only [Bool.or_eq_true, decide_eq_true_eq, or_assoc] <;> rfl
  · show execAidingSet f0 f1 f2 t0 t1 t2 s = _
    simp [execAidingSet, hs, hon, not_le.2 hlate]
    rfl
  · show execPpsEdge sec q s = _
    simp [execPpsEdge, hsec, hlo, hhi, hemit, withUnit]
  · refine .intro (by show execTimeMessage s = _; rw [execTimeMessage, he]) ⟨updSkyio_only _ _, ?_, ?_, ?_, rfl, rfl⟩
    · simp [timeBody_length]
    · rw [← timeBody_take s e]
      exact List.take_append_of_le_length (by rw [timeBody_length]; decide)
    · simp [timeBody_length]
  · exact admitted_ok h rfl
  · exact admitted_ok h rfl

end Sys2Proof.Machine

/-! Proofs of the statement on Belay's clock, the network time client, peer delay and Announce (13 R299–R308). -/

namespace Sys2Proof.Machine

set_option Elab.async false

/-- A command on a unit that exists is what the chapter makes of it. -/
theorem unit_next {p : Prop} {_ : Decidable p} {s t : State} (hp : p) (h : s = t) : withUnit (decide p) s = .next t := by
  rw [withUnit_next (decide_eq_true hp), h]

/-! ## Ports -/

/-- The port that is updated. -/
theorem updPtp_self {n : Net} {p : Nat} (f : Ptp → Ptp) (h : p < n.ptp.length) : (n.updPtp p f).ptp.getD p {} = f (n.ptp.getD p {}) :=
  getD_upd _ _ _ _ h

/-- A port in another state than the first is one that the module has. -/
theorem ptp_held {s : State} {p st : Nat} (h : (s.ptpOf p).state = st) (hst : st ≠ ({} : Ptp).state) : p < s.net.ptp.length :=
  getD_lt (p := fun x : Ptp => x.state = st) h (Ne.symm hst)

/-- The protocol of a port runs while its link is up and it is enabled. -/
theorem portRuns {s : State} {p : Nat} (hs : s.reachable = true) (hlink : (s.net.ports.getD p {}).link = true) (hon : s.nat (0x5610 + p) 1 ≠ 0) :
    (s.netRuns && (s.net.ports.getD p {}).link && decide (s.nat (0x5610 + p) 1 ≠ 0)) = true := by
  rw [State.netRuns, hs, hlink, decide_eq_true hon]
  rfl

/-! ## The end of network discipline (R306) -/

theorem endDiscipline_only (s : State) : Only [.sky, .tm, .net] s (endDiscipline s) := by
  unfold endDiscipline
  split
  · exact (((updSky_only s _).mono (by decide)).next (updTm_only _ _)).next (updNet_only _ _)
  · exact (updNet_only s _).mono (by decide)

/-- The client is not locked any more, and its ports stand. -/
theorem endDiscipline_net (s : State) : (endDiscipline s).net = { s.net with clientLocked := false, lockRun := 0 } := by
  unfold endDiscipline
  split
  · rfl
  · next h => exact congrArg (fun b => { s.net with clientLocked := b, lockRun := 0 }) (Bool.eq_false_iff.2 h)

theorem endDiscipline_tm (s : State) : (endDiscipline s).tm.now = s.tm.now ∧ (endDiscipline s).tm.mono = s.tm.mono ∧
    (endDiscipline s).tm.step = s.tm.step := by
  unfold endDiscipline
  split <;> exact ⟨rfl, rfl, rfl⟩

/-- The growth of holdover starts from the client's last uncertainty. -/
theorem endDiscipline_locked {s : State} (h : s.net.clientLocked = true) :
    (endDiscipline s).sky.u0 = s.net.clientUnc ∧ (endDiscipline s).sky.holdAt = s.tm.now := by
  unfold endDiscipline
  rw [if_pos h]
  exact ⟨rfl, rfl⟩

/-! ## The client (R306) -/

section
variable {s : State} {p : Nat} {o : Int} (a : Nat) (hp : p < 3) (hs : s.reachable = true) (htakes : s.takesTime p = true)
include hp hs htakes

theorem exec_ptpSyncReceive_within (ho : o.natAbs ≤ s.nat 0x5200 6) : exec (.ptpSyncReceive p o a) s =
    .next (syncWithin p o a (s.updNet fun n => { n with clientOffset := clampI (-(2 ^ 31)) (2 ^ 31 - 1) o })) :=
  unit_next hp ((if_pos (by simp [State.netRuns, hs, htakes])).trans (if_pos ho))

theorem exec_ptpSyncReceive_refused (ho : s.nat 0x5200 6 < o.natAbs) : exec (.ptpSyncReceive p o a) s =
    .next (syncRefused p o (s.updNet fun n => { n with clientOffset := clampI (-(2 ^ 31)) (2 ^ 31 - 1) o })) :=
  unit_next hp ((if_pos (by simp [State.netRuns, hs, htakes])).trans (if_neg (Nat.not_le.2 ho)))
end

/-- A refused step leaves machine time, and is recorded when it is the first (R306). -/
theorem syncRefused_refuses (u : State) (p : Nat) (o : Int) :
    Only [.net, .tm, .sky, .flow, .upd] u (syncRefused p o u) ∧ (syncRefused p o u).net.stepRefused = true ∧
      (syncRefused p o u).net.clientLocked = false ∧ (syncRefused p o u).net.refused = (o :: u.net.refused).take 8 ∧
      (syncRefused p o u).net.refusedStep = medianI ((o :: u.net.refused).take 8) ∧ (syncRefused p o u).tm.now = u.tm.now ∧
      (syncRefused p o u).tm.step = u.tm.step ∧ (u.net.stepRefused = true → (syncRefused p o u).flow = u.flow) ∧
      (u.net.stepRefused = false →
        Recorded ⟨0x9004, p, 0x0E, leInt 4 (clampI (-(2 ^ 31)) (2 ^ 31 - 1) o), [], 0xFFFFFFFF, 0xF⟩ u (syncRefused p o u)) := by
  have hend : Only [.net, .tm, .sky, .flow, .upd] u (endDiscipline u) := (endDiscipline_only u).mono (by decide)
  have hnet := endDiscipline_net u
  obtain ⟨hnow, hmono, hstep⟩ := endDiscipline_tm u
  have hflow := (endDiscipline_only u).flow
  unfold syncRefused
  cases hr : u.net.stepRefused with
  | true =>
    simp only [Bool.not_true, Bool.false_eq_true, if_false]
    refine ⟨hend.next (updNet_only _ _), rfl, ?_, ?_, ?_, hnow, hstep, fun _ => hflow, fun h => nomatch h⟩ <;>
      simp [hnet]
  | false =>
    simp only [Bool.not_false, if_true, State.record_net, State.record_tm]
    refine ⟨(hend.next (updNet_only _ _)).next (record_only _ _), rfl, ?_, ?_, ?_, hnow, hstep,
      fun h => (nomatch h), fun _ => ?_⟩
    case refine_4 =>
      exact (Recorded.self _ _).base hflow (endDiscipline_only u).pw (endDiscipline_only u).dict hnow hmono
    all_goals simp [hnet]

/-- A TimeCommand after a refusal clears the refusal, and 0x01 applies the step that was refused. -/
theorem timeCommand_refused {s : State} (h : s.net.stepRefused = true) (v : Int) : timeCommand v s =
    if v = 1 then .ok ((s.updNet fun n => { n with stepRefused := false, freqHeld := false, refused := [], refusedStep := 0, goodRun := 0 }).updTm
      fun t => { t with step := some (-s.net.refusedStep), stepCause := 2, stepAt := (nextSecond t.now).toNat })
    else .ok (s.updNet fun n => { n with stepRefused := false, freqHeld := false, refused := [], refusedStep := 0, goodRun := 0 }) := 
  if_neg (by rw [h]; decide)

theorem nextSecond_toNat (t : Nat) : (nextSecond t).toNat = (t / 1000000000 + 1) * 1000000000 := by
  unfold nextSecond
  omega

/-- Settles O16. -/
theorem networkTime : Obligations.NetworkTime := by
  refine ⟨fun s hs => congrArg Host.Outcome.next (if_pos hs), fun s p o a hp hs htakes ho href => ?_, fun s p o a hp hs htakes ho => ?_,
    fun s p hp hs hst hlink hon hdue => ?_, fun s p d hp hs hlink hon hlen hdelays hpath => ?_,
    fun s p d e hp hs hlink hon hlen hdelays hout hfar => ?_, fun s p a hp hs hlink hon hlen hport hrole hcannot => ?_,
    fun s p a hp hs hlink hon hlen hcan => ?_, fun s hst => ?_, fun s n h href => ?_, fun s n h href => ?_, fun s n h href => ?_⟩
  · refine .intro ((exec_ptpSyncReceive_within a hp hs htakes ho).trans (congrArg Host.Outcome.next (if_neg (Bool.eq_false_iff.1 href)))) ?_
    refine ⟨?_, rfl, rfl, rfl, rfl, rfl⟩
    exact ((((updNet_only s _).mono (by decide)).next (freeInt_only _)).next (updTm_only _ _)).next (updNet_only _ _)
  · obtain ⟨honly, hstep, hlock, hrefused, hmed, hnow, hwait, hkept, hrec⟩ :=
      syncRefused_refuses (s.updNet fun n => { n with clientOffset := clampI (-(2 ^ 31)) (2 ^ 31 - 1) o }) p o
    refine .intro (exec_ptpSyncReceive_refused a hp hs htakes ho) ⟨((updNet_only s _).mono (by decide)).trans honly, hstep, hlock, hrefused,
      hmed.trans (congrArg medianI hrefused.symm), hnow, hwait, ?_⟩
    split
    · next href => exact hkept href
    · next href => exact (hrec (Bool.eq_false_iff.2 href)).base rfl rfl rfl rfl rfl
  · refine .intro (unit_next hp (if_pos (by simp [State.netRuns, hs, hst, hlink, hon, hdue, -List.getD_eq_getElem?_getD]))) ⟨updNet_only _ _, ?_, ?_, ?_⟩
    · exact congrArg Ptp.lastSync (updPtp_self _ (ptp_held hst (by decide)))
    · exact Nat.mul_mod_left _ _
    · exact congrArg Ptp.syncs (updPtp_self _ (ptp_held hst (by decide)))
  · have hfirst : (pdelay (s.nat 0x5200 7) d (s.ptpOf p)).2 = false ∧ (pdelay (s.nat 0x5200 7) d (s.ptpOf p)).1.meanDelay = d ∧
        (pdelay (s.nat 0x5200 7) d (s.ptpOf p)).1.delays = [d] ∧ (pdelay (s.nat 0x5200 7) d (s.ptpOf p)).1.pathChange = false := by
      simp [pdelay, hdelays, hpath]
    obtain ⟨hno, hmean, hlist, hchange⟩ := hfirst
    refine .intro (unit_next hp ((if_pos (portRuns hs hlink hon)).trans (if_neg (Bool.eq_false_iff.1 hno)))) ⟨updNet_only _ _, ?_, ?_, ?_⟩
    · exact (congrArg Ptp.meanDelay (updPtp_self _ hlen)).trans hmean
    · exact (congrArg Ptp.delays (updPtp_self _ hlen)).trans hlist
    · exact (congrArg Ptp.pathChange (updPtp_self _ hlen)).trans hchange
  · have hpd : pdelay (s.nat 0x5200 7) d (s.ptpOf p) =
        ({ (s.ptpOf p) with meanDelay := d, delays := [d, e], outliers := [], within := 0, pathChange := true,
                            pathCount := inc32 (s.ptpOf p).pathCount }, true) := by
      simp [pdelay, hdelays, hout, hfar]
    refine .intro (unit_next hp ((if_pos (portRuns hs hlink hon)).trans (if_pos (congrArg Prod.snd hpd))))
      ⟨((updNet_only s _).mono (by decide)).next (record_only _ _), ?_⟩
    have hport := updPtp_self (n := s.net) (fun _ => (pdelay (s.nat 0x5200 7) d (s.ptpOf p)).1) hlen
    have hport := hport.trans (congrArg Prod.fst hpd)
    unfold State.ptpOf
    rw [State.record_net]
    refine ⟨?_, ?_, ?_, (Recorded.self _ _).base rfl rfl rfl rfl rfl⟩
    · exact congrArg Ptp.pathChange hport
    · exact congrArg Ptp.delays hport
    · exact congrArg Ptp.pathCount hport
  · refine .intro (unit_next hp ((if_pos (portRuns hs hlink hon)).trans ((if_pos rfl).trans
      (if_pos (by simp [hport, hrole, hcannot]))))) ⟨updNet_only _ _, ?_, ?_, rfl⟩
    · exact congrArg Ptp.state (updPtp_self _ hlen)
    · exact congrArg Ptp.foreignGm (updPtp_self _ hlen)
  · refine .intro (unit_next hp ((if_pos (portRuns hs hlink hon)).trans ((if_pos rfl).trans
      (if_neg (by simp [hcan]))))) ⟨updNet_only _ _, ?_, ?_⟩
    · exact congrArg Ptp.state (updPtp_self _ hlen)
    · exact congrArg Ptp.foreignGm (updPtp_self _ hlen)
  · refine .intro (congrArg Host.Outcome.next (if_pos hst)) ?_
    have hlen : s.nat 0x5200 5 < (endDiscipline s).net.ptp.length := by
      rw [endDiscipline_net]
      exact ptp_held hst (by decide)
    refine ⟨((endDiscipline_only s).mono (by decide)).next (updNet_only _ _), congrArg Ptp.state (updPtp_self _ hlen), ?_, ?_,
      fun hl => endDiscipline_locked hl⟩
    · exact congrArg Net.clientLocked (endDiscipline_net s)
    · exact congrArg Net.lockRun (endDiscipline_net s)
  · refine (admitted_ok h ((if_pos rfl).trans ((if_pos rfl).trans ((timeCommand_refused (s := s.touch n) href 1).trans (if_pos rfl))))).trans ?_
    simp only [State.updTm, nextSecond_toNat]
    rfl
  · exact admitted_ok h ((if_pos rfl).trans ((if_pos rfl).trans ((timeCommand_refused (s := s.touch n) href 2).trans (if_neg (by decide)))))
  · exact admitted_error h ((if_pos rfl).trans ((if_pos rfl).trans (if_pos (by rw [touch_net, href]; rfl))))

end Sys2Proof.Machine

/-! Proofs of the statement on a step of machine time, link changes and the writes to the network objects (13 R297–R310). -/

namespace Sys2Proof.Machine

set_option Elab.async false

/-! ## The step (R302) -/

theorem wholeTicks_near (d : Int) : wholeTicks d % 4 = 0 ∧ (wholeTicks d - d).natAbs ≤ 2 := by
  unfold wholeTicks divRound
  split <;> omega

theorem stepExtension_lt (d : Int) : stepExtension d < 100000 := by
  unfold stepExtension
  omega

/-- The stretched frame ends on the grid of frames of the stepped time. -/
theorem stepped_grid {now : Nat} (d : Int) (h : now % 100000 = 0) : ((now : Int) + d + stepExtension d).toNat % 100000 = 0 := by
  unfold stepExtension
  omega

/-- The parts that hold stamps. -/
theorem shiftStamps_only (d : Int) (s : State) : Only [.sens, .pas, .pctl, .lead, .loop, .trace, .valve, .can, .sky, .skyio, .net, .opt, .steer,
    .yield, .fio, .lan, .belay, .serv] s (shiftStamps d s) := by
  intro p
  cases p with
  | tm | pw | flow | per | dict | fleet | upd | free | pending => exact .inr rfl
  | _ => exact .inl (by decide)

/-- The step moves machine time by its ticks and the extension, MonotonicNs by the extension alone. -/
theorem stepTime_moves (d : Int) (s : State) :
    Only [.tm, .sens, .pas, .pctl, .lead, .loop, .trace, .valve, .can, .sky, .skyio, .net, .opt, .steer, .yield, .fio, .lan, .belay, .serv, .flow,
      .upd] s (stepTime d s) ∧
    (stepTime d s).tm = { s.tm with now := ((s.tm.now : Int) + d + stepExtension d).toNat, mono := s.tm.mono + stepExtension d, step := none,
                                    stretchedAt := some (s.tm.mono + stepExtension d), lastStep := d, lastStepFrame := s.tm.frame,
                                    stepCount := inc32 s.tm.stepCount } ∧
    (stepTime d s).skyio.stepSince = true := by
  have hsky : ∀ (u : State) (c : Prop) [Decidable c] (f : Sky → Sky), Only [.sky] u (if c then u.updSky f else u) := fun u c _ f =>
    .ite (updSky_only u f) (.refl _ _)
  unfold stepTime
  refine ⟨?_, ?_, ?_⟩
  · exact ((((((shiftStamps_only d s).mono (by decide)).next (updTm_only _ _)).next (updSkyio_only _ _)).next (hsky _ _ _)).next (record_only _ _))
  · rw [State.record_tm, (hsky _ _ _).tm]
    rfl
  · rw [State.record_skyio, (hsky _ _ _).skyio]
    rfl

/-! ## Links (R303, R310) -/

/-- The port's part in a link that goes down. -/
def dropLink (p : Nat) (s : State) : State :=
  s.updNet fun n => { n.updPtp p fun q => { q with state := 1 } with
    ports := updAt n.ports p fun q => { q with link := false, downCount := inc32 q.downCount, downAt := s.tm.mono } }

/-- A link that is up goes down: network discipline over the port ends, and its protocol stops. -/
theorem linkChange_down {s : State} {p : Nat} (h : (s.net.ports.getD p {}).link = true) :
    linkChange p false s = dropLink p (if (s.ptpOf p).state == 4 then endDiscipline s else s) :=
  if_neg fun hf => Bool.noConfusion (h.symm.trans hf)

/-- A link comes up, and the port's protocol listens. -/
theorem linkChange_up {s : State} {p : Nat} (h : (s.net.ports.getD p {}).link = false) (hon : s.nat (0x5610 + p) 1 ≠ 0) : linkChange p true s =
    s.updNet fun n => { n.updPtp p fun q => { q with state := 2 } with ports := updAt n.ports p fun q => { q with link := true } } := by
  have hst : (if true && decide (s.nat (0x5610 + p) 1 ≠ 0) then 2 else 1) = 2 := if_pos (by simp [hon])
  rw [← hst]
  exact if_neg fun ht => Bool.noConfusion (h.symm.trans ht)

theorem linkChange_same {s : State} {p : Nat} {up : Bool} (h : (s.net.ports.getD p {}).link = up) : linkChange p up s = s := if_pos h

theorem disciplineUnless_only (s : State) (p : Nat) : Only [.net, .sky, .tm] s (if (s.ptpOf p).state == 4 then endDiscipline s else s) :=
  .ite ((endDiscipline_only s).mono (by decide)) (.refl _ _)

/-- The end of network discipline over a port leaves the ports and the clock. -/
theorem disciplineUnless_keeps (s : State) (p : Nat) :
    (if (s.ptpOf p).state == 4 then endDiscipline s else s).net.ports = s.net.ports ∧
    (if (s.ptpOf p).state == 4 then endDiscipline s else s).net.ptp = s.net.ptp ∧
    (if (s.ptpOf p).state == 4 then endDiscipline s else s).tm.mono = s.tm.mono := by
  split
  · rw [endDiscipline_net]
    exact ⟨rfl, rfl, (endDiscipline_tm s).2.1⟩
  · exact ⟨rfl, rfl, rfl⟩

/-- A write to a port's objects stores the value and drops the port's link. -/
theorem restartPort_drops (p : Nat) (s : State) :
    Only [.net, .sky, .tm] s (restartPort p s) ∧ ((restartPort p s).net.ports.getD p {}).link = false := by
  cases hlink : (s.net.ports.getD p {}).link with
  | false =>
    rw [restartPort, linkChange_same hlink]
    exact ⟨.refl _ _, hlink⟩
  | true =>
    rw [restartPort, linkChange_down hlink]
    have hlen : p < s.net.ports.length := getD_lt (p := fun x : Port => x.link = true) hlink (by decide)
    obtain ⟨hports, -, -⟩ := disciplineUnless_keeps s p
    exact ⟨(disciplineUnless_only s p).next (updNet_only _ _), congrArg Port.link (getD_upd _ _ _ _ (hports ▸ hlen))⟩

/-- Settles O17. -/
theorem stepsAndPorts : Obligations.StepsAndPorts := by
  refine ⟨wholeTicks_near, fun s d hstep hs hslew hat => ?_, fun s p hp hs hlink hlen hlen' => ?_, fun s p hp hs hon hlink hlen hlen' hproto => ?_,
    fun s n sub v h h4 h5 h8 => ?_, fun s n p sub v hp h => ?_⟩
  · obtain ⟨honly, htm, hsince⟩ := stepTime_moves (wholeTicks d) s
    refine .intro (t := stepTime (wholeTicks d) s) ?_ ⟨honly, ?_⟩
    · show execTimeStep s = _
      simp [execTimeStep, hstep, hs, hslew, hat]
    · rw [htm]
      exact ⟨rfl, stepExtension_lt _, rfl, stepped_grid _, rfl, rfl, rfl, rfl, rfl, hsince⟩
  · obtain ⟨hports, hptp, hmono⟩ := disciplineUnless_keeps s p
    refine .intro (unit_next hp ((if_pos (by simp [State.netRuns, hs])).trans (linkChange_down hlink)))
      ⟨(disciplineUnless_only s p).next (updNet_only _ _), ?_⟩
    have hport := getD_upd _ p (fun q : Port => { q with link := false, downCount := inc32 q.downCount, downAt := s.tm.mono }) {} hlen
    rw [dropLink, hmono, State.updNet_net, hports]
    refine ⟨congrArg Port.link hport, congrArg Ptp.state (updPtp_self _ (hptp ▸ hlen')), congrArg Port.downCount hport,
      congrArg Port.downAt hport, fun hst => ?_⟩
    rw [if_neg (by simp [hst])]
    exact ⟨rfl, rfl⟩
  · refine .intro (unit_next hp ((if_pos (by simp [State.netRuns, hs, hon])).trans (linkChange_up hlink hproto))) ⟨updNet_only _ _, ?_⟩
    have hport := getD_upd s.net.ports p (fun q => { q with link := true }) {} hlen
    exact ⟨congrArg Port.link hport, congrArg Ptp.state (updPtp_self _ hlen'), (congrArg Port.downCount hport :)⟩
  · exact admitted_ok h ((if_pos rfl).trans ((if_neg h8).trans (if_neg (by simp [h4, h5]))))
  · have hport : portOf (0x5600 + p) = p := by
      unfold portOf
      rw [if_pos (by omega)]
      omega
    have hindex : netIndex (0x5600 + p) = true := by
      simp [netIndex]
      omega
    obtain ⟨honly, hdown⟩ := restartPort_drops p ((s.touch n).put (0x5600 + p) sub v)
    refine .intro ((if_pos hindex).trans (admitted_ok h ((if_neg (by omega)).trans
      (congrArg (fun q => Except.ok (restartPort q ((s.touch n).put (0x5600 + p) sub v))) hport)))) ⟨((put_only _ _ _ _).mono (by decide)).next honly, ?_, hdown⟩
    rw [honly.dict]
    rfl

end Sys2Proof.Machine

/-! Proofs of the statement on the sensor supplies, the analogue inputs and the tare (04 R95–R119), and the rules of sensing and of the death of
Leads that they rest on. -/

namespace Sys2Proof.Machine

set_option Elab.async false

/-! ## The death of Leads (03 R81) -/

theorem killLeads_only (p : Lead → Bool) (r : Nat) (s : State) : Only [.lead, .pas] s (killLeads p r s) := by
  intro q
  cases q with
  | lead | pas => exact .inl (by decide)
  | _ => exact .inr rfl

theorem killUnresolved_only (r : Nat) (s : State) : Only [.lead, .pas] s (killUnresolved r s) := killLeads_only _ r s

/-- Every Lead that was unresolved has died. -/
theorem killUnresolved_resolved (r : Nat) (s : State) : ∀ l ∈ (killUnresolved r s).lead.ring, l.state ≠ 1 := by
  intro l hl
  obtain ⟨hmem, -⟩ := List.mem_filter.1 hl
  obtain ⟨m, -, rfl⟩ := List.mem_map.1 hmem
  by_cases hm : m.state = 1 <;> simp [hm]

/-! ## Sensor records -/

theorem sensorRecord_only (raised : Bool) (code engine status : Nat) (s : State) : Only [.flow, .upd] s (sensorRecord raised code engine status s) :=
  record_only _ _

@[simp] theorem sensorRecord_sens (raised : Bool) (code engine status : Nat) (s : State) :
    (sensorRecord raised code engine status s).sens = s.sens := (sensorRecord_only raised code engine status s).sens

/-! ## Analogue inputs -/

theorem updAi_only (s : State) (a : Nat) (f : Ai → Ai) : Only [.sens] s (s.updAi a f) := updSens_only s _

theorem updAi_aiOf_self {s : State} {a : Nat} (f : Ai → Ai) (h : a < s.sens.ai.length) : (s.updAi a f).aiOf a = f (s.aiOf a) := getD_upd _ _ _ _ h

theorem updAi_aiOf_ne {s : State} {a b : Nat} (f : Ai → Ai) (h : b ≠ a) : (s.updAi a f).aiOf b = s.aiOf b := getD_upd_ne _ _ _ _ _ h

/-- Where the sensing part stands, an analogue input stands. -/
theorem Only.aiOf {ps : List Part} {s t : State} (h : Only ps s t) (k : Part.sens ∉ ps := by decide) (a : Nat) : t.aiOf a = s.aiOf a := by
  unfold State.aiOf
  rw [h.sens k]

/-- An update by which no input becomes valid leaves none valid, held or not. -/
theorem updAi_invalid (s : State) (a : Nat) (f : Ai → Ai) (hf : ∀ x, (f x).valid = false) : ((s.updAi a f).aiOf a).valid = false := by
  by_cases h : a < s.sens.ai.length
  · rw [updAi_aiOf_self f h, hf]
  · have hsame : updAt s.sens.ai a f = s.sens.ai := List.modify_eq_self (Nat.le_of_not_lt h)
    show ((updAt s.sens.ai a f).getD a {}).valid = false
    rw [hsame, List.getD_eq_default _ _ (Nat.le_of_not_lt h)]

section
variable (a : Nat) (s : State)

theorem aiInvalid_only : Only [.sens, .lead, .pas] s (aiInvalid a s) := by
  have hset := (updAi_only s a fun x => { x with valid := false }).mono (qs := [.sens, .lead, .pas]) (by decide)
  unfold aiInvalid
  exact .ite (hset.next (killUnresolved_only _ _)) hset

/-- An input that is no FeedRateSource becomes invalid and nothing else happens. -/
theorem aiInvalid_other (h : s.feedSource a = false) : aiInvalid a s = s.updAi a fun x => { x with valid := false } :=
  if_neg (Bool.eq_false_iff.1 h)

theorem aiInvalid_feed (h : s.feedSource a = true) : ∀ l ∈ (aiInvalid a s).lead.ring, l.state ≠ 1 := by
  unfold aiInvalid
  rw [if_pos h]
  exact killUnresolved_resolved 5 _

theorem aiInvalid_sens : (aiInvalid a s).sens = (s.updAi a fun x => { x with valid := false }).sens := by
  unfold aiInvalid
  split
  · exact (killUnresolved_only _ _).sens
  · rfl

theorem aiInvalid_aiOf (b : Nat) : (aiInvalid a s).aiOf b = (s.updAi a fun x => { x with valid := false }).aiOf b :=
  congrArg (fun z : Sense => z.ai.getD b {}) (aiInvalid_sens a s)
end

theorem aiOf_congr {s t : State} (h : t.sens = s.sens) (b : Nat) : t.aiOf b = s.aiOf b := congrArg (fun z : Sense => z.ai.getD b {}) h

/-- A change of an input, with a record when c holds: the input is changed, and without a record nothing else. -/
theorem updAi_recorded (s : State) (a : Nat) (f : Ai → Ai) (c raised : Bool) (code engine status : Nat) {u : State}
    (hu : (if c then sensorRecord raised code engine status (s.updAi a f) else s.updAi a f) = u) :
    Only [.sens, .flow, .upd] s u ∧ u.sens = (s.updAi a f).sens ∧ (c = false → u.flow = s.flow) := by
  have honly : Only [.flow, .upd] (s.updAi a f) u := hu ▸ .ite (sensorRecord_only _ _ _ _ _) (.refl _ _)
  refine ⟨((updAi_only s a f).mono (by decide)).trans (honly.mono (by decide)), honly.sens, fun hc => ?_⟩
  rw [← hu, if_neg (Bool.eq_false_iff.1 hc)]
  rfl

theorem Only.feedSource {ps : List Part} {s t : State} (h : Only ps s t) (k : Part.dict ∉ ps := by decide) (a : Nat) :
    t.feedSource a = s.feedSource a := by
  unfold State.feedSource
  rw [h.nat k]

/-! ## Sensor supplies (R95) -/

/-- The inputs below n that supply i + 1 feeds become invalid. -/
def supplyLoss (i n : Nat) (s : State) : State :=
  (List.range n).foldl (fun s a => if s.nat (0x4840 + a) 7 == i + 1 && s.nat (0x4840 + a) 1 != 0 then aiInvalid a s else s) s

theorem supplyLoss_succ (i n : Nat) (s : State) : supplyLoss i (n + 1) s =
    if (supplyLoss i n s).nat (0x4840 + n) 7 == i + 1 && (supplyLoss i n s).nat (0x4840 + n) 1 != 0 then aiInvalid n (supplyLoss i n s)
    else supplyLoss i n s := by
  unfold supplyLoss
  rw [List.range_succ, List.foldl_append]
  rfl

theorem supplyLoss_only (i n : Nat) (s : State) : Only [.sens, .lead, .pas] s (supplyLoss i n s) :=
  Only.foldl _ _ (fun s a => .ite (aiInvalid_only a s) (.refl _ _)) _ _

theorem supplyLoss_supplyFault (i n : Nat) (s : State) : (supplyLoss i n s).sens.supplyFault = s.sens.supplyFault := by
  induction n with
  | zero => rfl
  | succ n ih =>
    rw [supplyLoss_succ]
    split
    · rw [aiInvalid_sens]
      exact ih
    · exact ih

/-- Inputs on another supply stand. -/
theorem supplyLoss_other {i n a : Nat} {s : State} (h : s.nat (0x4840 + a) 7 ≠ i + 1) : (supplyLoss i n s).aiOf a = s.aiOf a := by
  induction n with
  | zero => rfl
  | succ n ih =>
    rw [supplyLoss_succ]
    split
    · next hc =>
      rw [(supplyLoss_only i n s).nat] at hc
      have hne : a ≠ n := by
        rintro rfl
        simp [h] at hc
      rw [aiInvalid_aiOf, updAi_aiOf_ne _ hne]
      exact ih
    · exact ih

/-- Inputs on the supply are invalid. -/
theorem supplyLoss_invalid {i n a : Nat} {s : State} (hn : a < n) (h : s.nat (0x4840 + a) 7 = i + 1) (hmode : s.nat (0x4840 + a) 1 ≠ 0) :
    ((supplyLoss i n s).aiOf a).valid = false := by
  induction n with
  | zero => exact absurd hn (Nat.not_lt_zero a)
  | succ n ih =>
    rw [supplyLoss_succ, (supplyLoss_only i n s).nat, (supplyLoss_only i n s).nat]
    by_cases hlast : a = n
    · subst hlast
      rw [if_pos (by simp [h, hmode]), aiInvalid_aiOf]
      exact updAi_invalid _ _ _ fun _ => rfl
    · have ih := ih (by omega)
      split
      · rw [aiInvalid_aiOf, updAi_aiOf_ne _ hlast]
        exact ih
      · exact ih

/-- The input's flags after a raw value beyond a limit of its mode (R106). -/
def outOfRange (s : State) (a : Nat) (raw : Int) (x : Ai) : Ai :=
  { x with low := decide (raw < (aiLimits (s.nat (0x4840 + a) 1)).1), high := decide ((aiLimits (s.nat (0x4840 + a) 1)).2 < raw),
           valid := false, faulted := true }

/-- The same after RangeHold of samples in range, and with the shunt opened (R104, R106). -/
def backInRange (x : Ai) : Ai := { x with valid := true, low := false, high := false, faulted := false }
def shuntOpened (x : Ai) : Ai := { x with shuntOpen := true, faulted := true, valid := false }

/-- The tare after its window is complete, with a mean that fits or does not (R114). -/
def tared (m : Rat) (fits : Bool) (z : Sense) : Sense :=
  { z with tare := if fits then ratRound m else z.tare, tareRefused := !fits, tarePaddles := 0, tareSum := 0, tareN := 0 }

/-- The same on the state, with a record when the refusal begins or ends. -/
def tareStep (s : State) (fits : Bool) : State :=
  if s.sens.tareRefused != !fits then
    sensorRecord (!fits) (s.nat 0x4880 2) 0x0F (b2n (!fits) * 64) (s.updSens (tared (s.sens.tareSum / s.sens.tareN) fits))
  else s.updSens (tared (s.sens.tareSum / s.sens.tareN) fits)

/-! ## The statement -/

/-- Settles O18. -/
theorem analogueInputs : Obligations.AnalogueInputs := by
  refine ⟨fun s i hi hs hok => ?_, fun s i hi hs hbad => ?_, fun s a raw ha hs hmode hraw hshunt hlen hfeed => ?_,
    fun s a ha hs hmode hvalid hshunt hsup hlen => ?_, fun s a ha hs hmode hshunt hlen => ?_, fun s a ua ha hs hshunt hua => ?_,
    fun s n a v ha h => ?_, fun s n a v ha h hconf hsel => ?_, fun s hs hpad hn => ?_⟩
  · obtain ⟨w, hw⟩ : ∃ w, w = sensorRecord true (0xA1 + i) 0x0F (setBit s.sens.supplyFault i true)
        (s.updSens fun x => { x with supplyFault := setBit x.supplyFault i true }) := ⟨_, rfl⟩
    have honly : Only [.sens, .lead, .pas, .flow, .upd] s w :=
      hw ▸ ((updSens_only s _).mono (by decide)).next (sensorRecord_only _ _ _ _ _)
    have hsens : w.sens = { s.sens with supplyFault := setBit s.sens.supplyFault i true } := hw ▸ sensorRecord_sens _ _ _ _ _
    have hrec : Recorded ⟨0x4001, 0xA1 + i, 0x0F, leBytes 4 (setBit s.sens.supplyFault i true), [], 0xFFFFFFFF, 0xF⟩ s w :=
      hw ▸ (Recorded.self _ _).base rfl rfl rfl rfl rfl
    have hloss := supplyLoss_only i 24 w
    refine .intro (t := supplyLoss i 24 w) (hw ▸ unit_next hi (if_pos (by simp [hs, hok])))
      ⟨honly.next hloss, ?_, fun a ha hsup hmode => ?_, fun a hsup => ?_, hrec.of_flow hloss.flow⟩
    · rw [supplyLoss_supplyFault, hsens]
    · exact supplyLoss_invalid ha (by rw [honly.nat, hsup]) (by rwa [honly.nat])
    · rw [supplyLoss_other (by rwa [honly.nat]), State.aiOf, hsens]
      rfl
  · refine .intro (unit_next hi (if_pos (by simp [hs, hbad]))) ⟨((updSens_only s _).mono (by decide)).next (sensorRecord_only _ _ _ _ _), ?_, ?_⟩
    · exact sensorRecord_sens _ _ _ _ _
    · exact (Recorded.self _ _).base rfl rfl rfl rfl rfl
  · have hlow : (s.senses && s.nat (0x4840 + a) 1 != 0 && (decide (raw < (aiLimits (s.nat (0x4840 + a) 1)).1) ||
        decide ((aiLimits (s.nat (0x4840 + a) 1)).2 < raw)) && !(s.aiOf a).shuntOpen) = true := by
      simp [hs, hmode, hshunt, hraw, aiLimits]
    have hlim : decide (raw < (aiLimits (s.nat (0x4840 + a) 1)).1) = true ∧ decide ((aiLimits (s.nat (0x4840 + a) 1)).2 < raw) = false := by
      simp [hmode, aiLimits]
      omega
    obtain ⟨u, hu⟩ : ∃ u, (if (!(s.aiOf a).faulted) = true then sensorRecord true (0x40 + a) 0x0F (aiStatus (s.updAi a (outOfRange s a raw)) a)
        (s.updAi a (outOfRange s a raw)) else s.updAi a (outOfRange s a raw)) = u := ⟨_, rfl⟩
    obtain ⟨honly, hsens, hflow⟩ := updAi_recorded s a (outOfRange s a raw) _ _ _ _ _ hu
    have hself : u.aiOf a = outOfRange s a raw (s.aiOf a) := (aiOf_congr hsens a).trans (updAi_aiOf_self _ hlen)
    have hlen' : a < u.sens.ai.length := by rwa [hsens, State.updAi, State.updSens_sens, updAt, List.length_modify]
    refine .intro (t := u.updAi a fun x => { x with valid := false })
      (unit_next ha ((if_pos hlow).trans (hu ▸ aiInvalid_other _ _ ((hu ▸ honly.feedSource (by decide) a).trans hfeed))))
      ⟨honly.next (updAi_only _ _ _), ?_⟩
    rw [updAi_aiOf_self _ hlen', hself]
    refine ⟨rfl, hlim.1, hlim.2, rfl, fun b hb => ?_, fun hf => hflow (by rw [hf]; rfl)⟩
    refine (List.getElem?_modify_ne _ _ hb.symm).trans ?_
    rw [hsens]
    exact List.getElem?_modify_ne _ _ hb.symm
  · obtain ⟨u, hu⟩ : ∃ u, (if (s.aiOf a).faulted = true then sensorRecord false (0x40 + a) 0x0F (aiStatus (s.updAi a backInRange) a)
        (s.updAi a backInRange) else s.updAi a backInRange) = u := ⟨_, rfl⟩
    obtain ⟨honly, hsens, hflow⟩ := updAi_recorded s a backInRange _ _ _ _ _ hu
    exact .intro (t := u) (hu ▸ unit_next ha (if_pos (by simp [hs, hmode, hvalid, hshunt, hsup])))
      ⟨honly, (aiOf_congr hsens a).trans (updAi_aiOf_self _ hlen), hflow⟩
  · obtain ⟨u, hu⟩ : ∃ u, (if (!(s.aiOf a).faulted) = true then sensorRecord true (0x40 + a) 0x0F (aiStatus (s.updAi a shuntOpened) a)
        (s.updAi a shuntOpened) else s.updAi a shuntOpened) = u := ⟨_, rfl⟩
    obtain ⟨honly, hsens, -⟩ := updAi_recorded s a shuntOpened _ _ _ _ _ hu
    have hself : u.aiOf a = shuntOpened (s.aiOf a) := (aiOf_congr hsens a).trans (updAi_aiOf_self _ hlen)
    have hlen' : a < u.sens.ai.length := by rwa [hsens, State.updAi, State.updSens_sens, updAt, List.length_modify]
    have hinv : (aiInvalid a u).aiOf a = { shuntOpened (s.aiOf a) with valid := false } := by
      rw [aiInvalid_aiOf, updAi_aiOf_self _ hlen', hself]
    refine .intro (t := aiInvalid a u) (hu ▸ unit_next ha (if_pos (by simp [hs, hmode, hshunt]))) ⟨?_, ?_, ?_, fun hfeed => ?_⟩
    · exact (honly.mono (by decide)).next (aiInvalid_only a u)
    · rw [hinv]
      rfl
    · rw [hinv]
    · exact aiInvalid_feed a u ((honly.feedSource (by decide) a).trans hfeed)
  · exact unit_next ha (if_pos (by simp [hs, hshunt, hua]))
  · exact guarded_next ha (admitted_ok h rfl)
  · refine guarded_next ha (admitted_error h ((if_neg (by simp)).trans ((if_neg (by simp)).trans (if_pos ⟨.inl rfl, ?_, ?_⟩))))
    · show (!s.configurable) = true
      rw [hconf]
      rfl
    · rw [Nat.add_sub_cancel_left]
      exact hsel
  · obtain ⟨fits, hfits⟩ : ∃ b, b = decide ((s.sens.tareSum / s.sens.tareN - s.int 0x4880 9).abs ≤ (s.nat 0x4880 0xA : Rat)) := ⟨_, rfl⟩
    have hset := (updSens_only s (tared (s.sens.tareSum / s.sens.tareN) fits)).mono (qs := [.sens, .flow, .upd]) (by decide)
    have hrec : Only [.flow, .upd] (s.updSens (tared (s.sens.tareSum / s.sens.tareN) fits)) (tareStep s fits) := .ite (sensorRecord_only _ _ _ _ _) (.refl _ _)
    have hsens : (tareStep s fits).sens = tared (s.sens.tareSum / s.sens.tareN) fits s.sens := hrec.sens
    refine .intro (t := tareStep s fits) (hfits ▸ congrArg Host.Outcome.next (if_pos (by simp [hs, hpad, hn]))) ⟨hset.next hrec, ?_⟩
    rw [hsens]
    refine ⟨rfl, rfl, rfl, ?_, ?_⟩
    · show (!fits) = true ↔ _
      rw [hfits]
      simp
    · cases fits <;> rfl

end Sys2Proof.Machine

/-! Proofs of the statement on the impact channels: windows, tests, noise and configuration (04 R97–R102). -/

namespace Sys2Proof.Machine

set_option Elab.async false

/-! ## Impact channels -/

theorem updLs_only (s : State) (c : Nat) (f : Ls → Ls) : Only [.sens] s (s.updLs c f) := updSens_only s _

theorem updLs_lsOf_self {s : State} {c : Nat} (f : Ls → Ls) (h : c < s.sens.ls.length) : (s.updLs c f).lsOf c = f (s.lsOf c) := getD_upd _ _ _ _ h

theorem updLs_lsOf_ne {s : State} {c d : Nat} (f : Ls → Ls) (h : d ≠ c) : (s.updLs c f).lsOf d = s.lsOf d := getD_upd_ne _ _ _ _ _ h

@[simp] theorem updLs_length (s : State) (c : Nat) (f : Ls → Ls) : (s.updLs c f).sens.ls.length = s.sens.ls.length := List.length_modify ..

theorem lsOf_congr {s t : State} (h : t.sens = s.sens) (c : Nat) : t.lsOf c = s.lsOf c := congrArg (fun z : Sense => z.ls.getD c {}) h

/-- A change of gain leaves what a channel has counted. -/
theorem regain_keeps (x : Ls) (g : Nat) : (x.regain g).ms = x.ms ∧ (x.regain g).inMs = x.inMs ∧ (x.regain g).grains = x.grains ∧
    (x.regain g).straws = x.straws ∧ (x.regain g).pileUps = x.pileUps ∧ (x.regain g).rateLimited = x.rateLimited := by
  unfold Ls.regain
  split <;> exact ⟨rfl, rfl, rfl, rfl, rfl, rfl⟩

theorem regain_same {x : Ls} {g : Nat} (h : x.gain = g) : x.regain g = x := if_pos h

/-! ## Windows (R97–R99) -/

/-- What a window leaves of the state: the channel, a record when RATE_LIMITED begins, and the impacts of its station. -/
def windowLeaves (c stamp n : Nat) (x y : Ls) (s : State) : State :=
  let t := if y.limitedAt.isSome && x.limitedAt.isNone then sensorRecord true (0x90 + c) 0x0A (lsStatus y) (s.updLs c fun _ => y) else s.updLs c fun _ => y
  if n ≠ 0 ∧ x.healthy ∧ (x.station = 3 ∨ x.station = 4) then
    t.updSens fun z => { z with impacts := z.impacts ++ [(x.station, stamp / 100000 * 100000, n * x.weight)] }
  else t

section
variable {s : State} {c stamp : Nat} {l : List Int} (hc : c < 16) (hs : s.senses = true)
  (hw : pulseWindow (trigLevel s c ((s.lsOf c).regain (s.nat (0x4810 + c) 3))) l ≠ []) (hms : (s.lsOf c).ms = stamp / 1000000)
include hc hs hw hms

/-- A window of a millisecond with fewer than 40 is classified. -/
theorem exec_pulseWindowClose_classified (hfew : (s.lsOf c).inMs < 40) {e n : Nat} {p : Pulse}
    (hcl : classify s c ((s.lsOf c).regain (s.nat (0x4810 + c) 3)).egrain
      (pulseWindow (trigLevel s c ((s.lsOf c).regain (s.nat (0x4810 + c) 3))) l) = (e, p, n)) :
    exec (.pulseWindowClose c stamp l) s = .next (windowLeaves c stamp n ((s.lsOf c).regain (s.nat (0x4810 + c) 3))
      (((s.lsOf c).regain (s.nat (0x4810 + c) 3)).classified (s.monoOf (stamp / 1000 * 1000)) e p n) s) := by
  obtain ⟨hkms, hkin, -⟩ := regain_keeps (s.lsOf c) (s.nat (0x4810 + c) 3)
  refine unit_next hc ((if_pos (by simp [hs, hw])).trans ?_)
  simp only [hkms, hms, if_true, hkin, if_pos hfew, hcl]
  rfl

/-- A window beyond the limit of R99 is counted there. -/
theorem exec_pulseWindowClose_limited (hmany : 40 ≤ (s.lsOf c).inMs) : ∃ e n,
    exec (.pulseWindowClose c stamp l) s = .next (windowLeaves c stamp n ((s.lsOf c).regain (s.nat (0x4810 + c) 3))
      (((s.lsOf c).regain (s.nat (0x4810 + c) 3)).limited (s.monoOf (stamp / 1000 * 1000)) e).1 s) := by
  obtain ⟨hkms, hkin, -⟩ := regain_keeps (s.lsOf c) (s.nat (0x4810 + c) 3)
  obtain ⟨e, he⟩ : ∃ e, (classify s c ((s.lsOf c).regain (s.nat (0x4810 + c) 3)).egrain
    (pulseWindow (trigLevel s c ((s.lsOf c).regain (s.nat (0x4810 + c) 3))) l)).1 = e := ⟨_, rfl⟩
  refine ⟨e, (((s.lsOf c).regain (s.nat (0x4810 + c) 3)).limited (s.monoOf (stamp / 1000 * 1000)) e).2,
    unit_next hc ((if_pos (by simp [hs, hw])).trans ?_)⟩
  simp only [hkms, hms, if_true, hkin, if_neg (Nat.not_lt.2 hmany), he]
  rfl
end

section
variable (c stamp n : Nat) (x y : Ls) (s : State)

theorem windowLeaves_only : Only [.sens, .flow, .upd] s (windowLeaves c stamp n x y s) := by
  have hset := (updLs_only s c fun _ => y).mono (qs := [.sens, .flow, .upd]) (by decide)
  have hrec : Only [.sens, .flow, .upd] s (if y.limitedAt.isSome && x.limitedAt.isNone then
      sensorRecord true (0x90 + c) 0x0A (lsStatus y) (s.updLs c fun _ => y) else s.updLs c fun _ => y) :=
    .ite (hset.next (sensorRecord_only _ _ _ _ _)) hset
  exact .ite (hrec.next (updSens_only _ _)) hrec

/-- The channel is the one that the window leaves. -/
theorem windowLeaves_lsOf (hlen : c < s.sens.ls.length) : (windowLeaves c stamp n x y s).lsOf c = y := by
  have hrec : (if y.limitedAt.isSome && x.limitedAt.isNone then sensorRecord true (0x90 + c) 0x0A (lsStatus y) (s.updLs c fun _ => y)
      else s.updLs c fun _ => y).sens = (s.updLs c fun _ => y).sens := by
    split
    · exact sensorRecord_sens _ _ _ _ _
    · rfl
  have hself : (s.updLs c fun _ => y).lsOf c = y := updLs_lsOf_self _ hlen
  unfold windowLeaves
  dsimp only
  split
  · exact (congrArg (fun z : Sense => z.ls.getD c {}) hrec).trans hself
  · exact (lsOf_congr hrec c).trans hself

/-- Where RATE_LIMITED stands as before nothing is recorded. -/
theorem windowLeaves_silent (h : y.limitedAt = x.limitedAt) : windowLeaves c stamp n x y s =
    if n ≠ 0 ∧ x.healthy ∧ (x.station = 3 ∨ x.station = 4) then
      (s.updLs c fun _ => y).updSens fun z => { z with impacts := z.impacts ++ [(x.station, stamp / 100000 * 100000, n * x.weight)] }
    else s.updLs c fun _ => y := by
  have hno : ¬ (y.limitedAt.isSome && x.limitedAt.isNone) = true := by
    rw [h]
    cases x.limitedAt <;> simp
  unfold windowLeaves
  rw [if_neg hno]
end

/-! ## Tests (R101) -/

/-- A channel is under test, or its test waits. -/
def TestDue (c : Nat) (s : State) : Prop := (s.lsOf c).testing = true ∨ s.sens.testQueue.testBit c = true

/-- One look at a channel whose test may be due. -/
def startTest (s : State) (c : Nat) : State :=
  let st := (s.lsOf c).station
  if s.sens.testQueue.testBit c && !(List.range 16).any (fun d => (s.lsOf d).testing && (s.lsOf d).station == st && st != 0xFF) then
    (s.updLs c fun x => { x with testing := true }).updSens fun z => { z with testQueue := setBit z.testQueue c false }
  else s

theorem startTest_only (s : State) (c : Nat) : Only [.sens] s (startTest s c) :=
  .ite ((updLs_only s c _).trans (updSens_only _ _)) (.refl _ _)

theorem startTests_only (s : State) : Only [.sens] s (startTests s) := Only.foldl _ _ startTest_only _ _

/-- A test that begins is under way, and the others stand; the number of channels stays. -/
theorem startTest_due {s : State} {c : Nat} (d : Nat) (hlen : c < s.sens.ls.length) (h : TestDue c s) :
    c < (startTest s d).sens.ls.length ∧ TestDue c (startTest s d) := by
  unfold startTest
  dsimp only
  split
  · refine ⟨by simpa using hlen, ?_⟩
    by_cases hd : c = d
    · subst hd
      exact .inl (congrArg Ls.testing (updLs_lsOf_self _ hlen))
    · refine h.imp (fun ht => ?_) fun hq => ?_
      · exact (congrArg Ls.testing (updLs_lsOf_ne (s := s) _ hd)).trans ht
      · exact (setBit_testBit _ _ _ _).trans ((if_neg hd).trans hq)
  · exact ⟨hlen, h⟩

theorem startTests_due {s : State} {c : Nat} (hlen : c < s.sens.ls.length) (h : TestDue c s) : TestDue c (startTests s) := by
  have hfold : ∀ (l : List Nat) (s : State), c < s.sens.ls.length → TestDue c s → TestDue c (l.foldl startTest s) := by
    intro l
    induction l with
    | nil => exact fun s _ h => h
    | cons d l ih =>
      intro s hlen h
      obtain ⟨hlen', h'⟩ := startTest_due d hlen h
      exact ih _ hlen' h'
  exact hfold _ s hlen h

/-- With no test waiting none begins. -/
theorem startTests_idle {s : State} (h : s.sens.testQueue = 0) : startTests s = s := by
  have hone : ∀ c, startTest s c = s := fun c => if_neg (by simp [h])
  have hfold : ∀ l : List Nat, l.foldl startTest s = s := by
    intro l
    induction l with
    | nil => rfl
    | cons c l ih => rw [List.foldl_cons, hone, ih]
  exact hfold _

/-- A channel after its test has been judged: OPEN below CapMin, SHORTED above CapMax or at a low resistance. -/
def tested (s : State) (c cap : Nat) (r : Bool) : Ls :=
  { s.lsOf c with testing := false, cap := min cap 0xFFFF, opened := decide (cap < s.nat (0x4810 + c) 0xB),
                  shorted := decide (s.nat (0x4810 + c) 0xC < cap) || r }

/-- The judgement on the state, with a record when the channel's faults change. -/
def judgeTest (c cap : Nat) (r : Bool) (s : State) : State :=
  if ((tested s c cap r).opened || (tested s c cap r).shorted) &&
      ((tested s c cap r).opened != (s.lsOf c).opened || (tested s c cap r).shorted != (s.lsOf c).shorted) then
    sensorRecord true (0x90 + c) 0x0A (lsStatus (tested s c cap r)) (s.updLs c fun _ => tested s c cap r)
  else if ((s.lsOf c).opened || (s.lsOf c).shorted) && !((tested s c cap r).opened || (tested s c cap r).shorted) then
    sensorRecord false (0x90 + c) 0x0A (lsStatus (tested s c cap r)) (s.updLs c fun _ => tested s c cap r)
  else s.updLs c fun _ => tested s c cap r

/-! ## The statement -/

/-- Settles O19. -/
theorem impactChannels : Obligations.ImpactChannels := by
  refine ⟨fun s c stamp l hc hw => ?_, fun s c stamp l hc hs hlen hms hmany hw => ?_,
    fun s c stamp l w e hc hs hlen hgain hms hfew hhealthy hst hwin hw hcl => ?_, fun s c stamp l w e hc hs hlen hgain hms hfew hwin hw hcl => ?_,
    fun s c r hc hs hlen => ?_, fun s c cap r hc hs hlen hq => ?_, fun s c hc hs hlen hne hmono => ?_, fun s n m h => ?_, fun s n c v hc h => ?_,
    fun s n c v hc h hconf hcut => ?_⟩
  · exact unit_next hc (if_neg (by simp [hw]))
  · obtain ⟨e, n, hexec⟩ := exec_pulseWindowClose_limited hc hs hw hms hmany
    obtain ⟨-, -, hgrains, hstraws, hpile, hrate⟩ := regain_keeps (s.lsOf c) (s.nat (0x4810 + c) 3)
    refine .intro hexec ⟨windowLeaves_only _ _ _ _ _ _, ?_⟩
    rw [windowLeaves_lsOf _ _ _ _ _ _ hlen]
    refine ⟨congrArg inc32 hrate, rfl, hstraws, hpile, fun hmax => ?_⟩
    show _ < add32 _ _
    rw [hgrains]
    unfold add32
    omega
  · have hre := regain_same hgain
    have hw' : pulseWindow (trigLevel s c ((s.lsOf c).regain (s.nat (0x4810 + c) 3))) l ≠ [] := by rwa [hre, hwin]
    have hexec := exec_pulseWindowClose_classified (e := e) (p := .grain) (n := 1) hc hs hw' hms hfew (by rw [hre, hwin]; exact hcl)
    rw [hre, windowLeaves_silent c stamp 1 (s.lsOf c)
      ((s.lsOf c).classified (s.monoOf (stamp / 1000 * 1000)) e .grain 1) s rfl,
      if_pos ⟨by decide, hhealthy, hst⟩] at hexec
    refine .intro hexec ⟨(updLs_only s c _).trans (updSens_only _ _), ?_⟩
    have hself := updLs_lsOf_self (s := s) (fun _ => (s.lsOf c).classified (s.monoOf (stamp / 1000 * 1000)) e .grain 1) hlen
    exact ⟨(congrArg Ls.grains hself :), (congrArg Ls.straws hself :), (congrArg Ls.egrain hself :),
      congrArg (fun m => s.sens.impacts ++ [((s.lsOf c).station, stamp / 100000 * 100000, m)]) (one_mul _)⟩
  · have hre := regain_same hgain
    have hw' : pulseWindow (trigLevel s c ((s.lsOf c).regain (s.nat (0x4810 + c) 3))) l ≠ [] := by rwa [hre, hwin]
    have hexec := exec_pulseWindowClose_classified (e := e) (p := .straw) (n := 0) hc hs hw' hms hfew (by rw [hre, hwin]; exact hcl)
    rw [hre, windowLeaves_silent c stamp 0 (s.lsOf c)
      ((s.lsOf c).classified (s.monoOf (stamp / 1000 * 1000)) e .straw 0) s rfl,
      if_neg (by simp)] at hexec
    refine .intro hexec ⟨updLs_only s c _, ?_⟩
    have hself := updLs_lsOf_self (s := s) (fun _ => (s.lsOf c).classified (s.monoOf (stamp / 1000 * 1000)) e .straw 0) hlen
    exact ⟨(congrArg Ls.straws hself :), (congrArg Ls.grains hself :), rfl⟩
  · refine .intro (unit_next hc (if_pos hs)) ⟨(updSens_only s _).trans (startTests_only _), startTests_due hlen (.inr ?_)⟩
    exact (setBit_testBit _ _ _ _).trans (if_pos rfl)
  · obtain ⟨u, hu⟩ : ∃ u, judgeTest c cap r s = u := ⟨_, rfl⟩
    have hset := updLs_only s c fun _ => tested s c cap r
    have hrec : Only [.flow, .upd] (s.updLs c fun _ => tested s c cap r) u :=
      hu ▸ .ite (sensorRecord_only _ _ _ _ _) (.ite (sensorRecord_only _ _ _ _ _) (.refl _ _))
    have hself : u.lsOf c = tested s c cap r := (lsOf_congr hrec.sens c).trans (updLs_lsOf_self _ hlen)
    have hidle : startTests u = u := startTests_idle (by rw [hrec.sens]; exact hq)
    refine .intro (t := u) ((unit_next hc (if_pos hs)).trans (congrArg Host.Outcome.next
      (show startTests (judgeTest c cap r s) = u by rw [hu]; exact hidle)))
      ⟨(hset.mono (by decide)).trans (hrec.mono (by decide)), ?_⟩
    rw [hself]
    exact ⟨rfl, rfl, rfl, rfl⟩
  · obtain ⟨u, hu⟩ : ∃ u, sensorRecord (s.lsOf c).loud (0x90 + c) 0x0A (lsStatus ((s.updLs c fun x => { x with noisy := x.loud }).lsOf c))
        (s.updLs c fun x => { x with noisy := x.loud }) = u := ⟨_, rfl⟩
    have hrec : Only [.flow, .upd] (s.updLs c fun x => { x with noisy := x.loud }) u := hu ▸ sensorRecord_only _ _ _ _ _
    have hls : u.lsOf c = (s.updLs c fun x => { x with noisy := x.loud }).lsOf c := lsOf_congr hrec.sens c
    refine .intro (t := u) (hu ▸ unit_next hc (if_pos (by simp [hs, hne, hmono])))
      ⟨((updLs_only s c _).mono (by decide)).trans (hrec.mono (by decide)), hls.trans (updLs_lsOf_self _ hlen), ?_⟩
    rw [hls, ← hu]
    cases (s.lsOf c).loud <;> exact (Recorded.self _ _).base rfl rfl rfl rfl rfl
  · refine .intro (admitted_ok h (if_pos rfl)) ⟨(updSens_only _ _).trans (startTests_only _), fun c hc hlen hbit => startTests_due hlen (.inr ?_)⟩
    exact (Nat.testBit_or _ _ _).trans (by rw [show (valNum (.int m)).toNat.testBit c = true from hbit, Bool.or_true])
  · exact guarded_next hc (admitted_ok h ((if_neg (by omega)).trans ((if_neg (by simp)).trans ((if_neg (by simp)).trans (if_neg (by simp))))))
  · exact guarded_next hc (admitted_error h ((if_neg (by omega)).trans (if_pos
      ⟨.inl rfl, show ¬(s.configurable = true ∨ (!s.cutting) = true) by simp [hconf, hcut]⟩)))

end Sys2Proof.Machine

/-! Proofs of the statement on the shaft inputs and the IMU (04 R108–R119). -/

namespace Sys2Proof.Machine

set_option Elab.async false

/-! ## Shaft inputs -/

theorem updShaft_only (s : State) (h : Nat) (f : Sh → Sh) : Only [.sens] s (s.updShaft h f) := updSens_only s _

theorem updShaft_shOf_self {s : State} {h : Nat} (f : Sh → Sh) (hl : h < s.sens.sh.length) : (s.updShaft h f).shOf h = f (s.shOf h) :=
  getD_upd _ _ _ _ hl

theorem shOf_congr {s t : State} (h : t.sens = s.sens) (k : Nat) : t.shOf k = s.shOf k := congrArg (fun z : Sense => z.sh.getD k {}) h

/-- A change of sensing with a record where c holds leaves sensing as changed. -/
theorem sensorRecord_if {s : State} (c raised : Bool) (code engine status : Nat) :
    Only [.flow, .upd] s (if c then sensorRecord raised code engine status s else s) :=
  .ite (sensorRecord_only _ _ _ _ _) (.refl _ _)

/-! ## Edges (R108–R111) -/

/-- The input after a crossing that has held. -/
def crossed (s : State) (h stamp : Nat) (l : ShaftLines) : Sh :=
  let old := s.shOf h
  let ha := shaftLevel (s.nat (0x4860 + h) 1) l.a old.high
  let hq := if s.flag (0x4860 + h) 5 then shaftLevel (s.nat (0x4860 + h) 1) l.q old.highQ else old.highQ
  let y := { old with high := ha, highQ := hq }
  if s.flag (0x4860 + h) 5 then
    if ha != old.high && hq != old.highQ then y.quadError
    else if ha != old.high || hq != old.highQ then
      y.count1 (s.monoOf (tick stamp)) (tick stamp) (if leadsA (ha != old.high) ha hq = Config.phaseForward then 1 else -1)
    else y
  else if ha != old.high && edgeCounts (s.nat (0x4860 + h) 3) ha then y.count1 (s.monoOf (tick stamp)) (tick stamp) 1
  else y

section
variable {s : State} {h stamp a q held : Nat} (hh : h < 12) (hs : s.senses = true) (hlen : h < s.sens.sh.length)
  (htype : s.nat (0x4860 + h) 1 ≠ 0) (hheld : s.nat (0x4860 + h) 4 * 100 ≤ held)
include hh hs hlen htype hheld

/-- A crossing that has held leaves the input crossed, and sensing beside it as it stood. -/
theorem shaftEdge_runs {P : State → Prop} (hP : ∀ t, t.shOf h = crossed s h stamp ⟨a, q⟩ → P t) :
    Runs (.shaftEdge h stamp ⟨a, q⟩ held) s [.sens, .flow, .upd] P := by
  obtain ⟨u, hu⟩ : ∃ u, (if shStatus { crossed s h stamp ⟨a, q⟩ with reverse := (s.shOf h).reverse } ≠ shStatus (s.shOf h) then
    sensorRecord true (h + 1) 0x0F (shStatus (crossed s h stamp ⟨a, q⟩)) (s.updShaft h fun _ => crossed s h stamp ⟨a, q⟩)
    else s.updShaft h fun _ => crossed s h stamp ⟨a, q⟩) = u := ⟨_, rfl⟩
  have hrec : Only [.flow, .upd] (s.updShaft h fun _ => crossed s h stamp ⟨a, q⟩) u := hu ▸ .ite (sensorRecord_only _ _ _ _ _) (.refl _ _)
  refine .intro (t := u) (hu ▸ unit_next hh (if_pos (by simp [hs, htype, hheld])))
    ⟨((updShaft_only s h _).mono (by decide)).trans (hrec.mono (by decide)), hP u ?_⟩
  exact (shOf_congr hrec.sens h).trans (updShaft_shOf_self _ hlen)
end

theorem crossed_counted {s : State} {h stamp a q : Nat} (hquad : s.flag (0x4860 + h) 5 = false)
    (hlev : shaftLevel (s.nat (0x4860 + h) 1) a (s.shOf h).high = !(s.shOf h).high)
    (hsel : edgeCounts (s.nat (0x4860 + h) 3) (!(s.shOf h).high) = true) :
    crossed s h stamp ⟨a, q⟩ = ({ s.shOf h with high := !(s.shOf h).high }).count1 (s.monoOf (tick stamp)) (tick stamp) 1 := by
  simp [crossed, hquad, hlev, hsel]

theorem crossed_quadrature {s : State} {h stamp a q : Nat} (hquad : s.flag (0x4860 + h) 5 = true)
    (hlev : shaftLevel (s.nat (0x4860 + h) 1) a (s.shOf h).high = !(s.shOf h).high)
    (hlevQ : shaftLevel (s.nat (0x4860 + h) 1) q (s.shOf h).highQ = (s.shOf h).highQ) :
    crossed s h stamp ⟨a, q⟩ = ({ s.shOf h with high := !(s.shOf h).high }).count1 (s.monoOf (tick stamp)) (tick stamp)
      (if ((!(s.shOf h).high) != (s.shOf h).highQ) = Config.phaseForward then 1 else -1) := by
  simp [crossed, hquad, hlev, hlevQ, leadsA]

theorem crossed_both {s : State} {h stamp a q : Nat} (hquad : s.flag (0x4860 + h) 5 = true)
    (hlev : shaftLevel (s.nat (0x4860 + h) 1) a (s.shOf h).high = !(s.shOf h).high)
    (hlevQ : shaftLevel (s.nat (0x4860 + h) 1) q (s.shOf h).highQ = !(s.shOf h).highQ) :
    crossed s h stamp ⟨a, q⟩ = ({ s.shOf h with high := !(s.shOf h).high, highQ := !(s.shOf h).highQ }).quadError := by
  simp [crossed, hquad, hlev, hlevQ]

/-! ## Faults (R119) -/

/-- An input of which a fault stands is held. -/
theorem held_of_bad {s : State} {h : Nat} (hbad : (s.shOf h).bad = true) : h < s.sens.sh.length :=
  getD_lt (p := fun x : Sh => x.bad = true) hbad (by decide)

/-- Calm, an input is without a fault. -/
theorem clear_bad {x : Sh} {mono : Nat} (hcalm : x.condAt + 100000000 ≤ mono) (hquad : x.quadFault = true → x.errs.headD 0 + 1000 ≤ x.counted) :
    (x.clear mono).bad = false := by
  simpa [Sh.clear, Sh.bad, hcalm, -List.headD_eq_head?_getD] using hquad

/-- Bit 0 of ShStatus is HEALTHY. -/
theorem shStatus_parity (x : Sh) : shStatus x % 2 = b2n (!x.bad) := by
  have : b2n (!x.bad) < 2 := by cases x.bad <;> decide
  unfold shStatus
  omega

theorem shStatus_ne {x y : Sh} (hx : x.bad = false) (hy : y.bad = true) : shStatus x ≠ shStatus y := by
  intro he
  have hpar := congrArg (· % 2) he
  simp only [shStatus_parity, hx, hy] at hpar
  exact absurd hpar (by decide)

/-! ## The IMU (R116, R117) -/

/-- What a sample leaves: the IMU m, with a record where it begins or ends to be bad. -/
def imuLeaves (m : Imu) (s : State) : State :=
  let wasBad := s.sens.imu.selfFail || s.sens.imu.saturated || s.sens.imu.stuck
  let isBad := m.selfFail || m.saturated || m.stuck
  let t := s.updSens fun z => { z with imu := m }
  if wasBad != isBad then sensorRecord isBad 0x88 0x0F (imuStatus m) t else t

theorem imuLeaves_only (m : Imu) (s : State) : Only [.sens, .flow, .upd] s (imuLeaves m s) :=
  ((updSens_only s _).mono (by decide)).trans ((sensorRecord_if _ _ _ _ _).mono (by decide))

@[simp] theorem imuLeaves_imu (m : Imu) (s : State) : (imuLeaves m s).sens.imu = m :=
  congrArg Sense.imu (sensorRecord_if (s := s.updSens fun z => { z with imu := m }) _ _ _ _ _).sens

/-- The IMU after a sample with the bias b. -/
def sampled (s : State) (stamp : Nat) (ax ay az rx ry rz : Int) (b : List Rat) : Imu :=
  let a := imuAxes s 8000 ax ay az
  let r := imuAxes s 25000 rx ry rz
  { s.sens.imu.check [ax, ay, az, rx, ry, rz] r s.shaftTurns with
    accel := a, rate := r, attitude := s.sens.imu.turn (s.nat 0x4890 4) a r, stamp := stamp / 1000000 * 1000000,
    stillRun := if s.still then s.sens.imu.stillRun + 1 else 0, bias := b }

section
variable {s : State} {stamp : Nat} {ax ay az rx ry rz bx b : Int} (hs : s.senses = true)
include hs

/-- With the 5,000th sample at rest the bias is learned. -/
theorem exec_imuSample_learned (h : 5000 ≤ if s.still then s.sens.imu.stillRun + 1 else 0) :
    exec (.imuSample stamp ax ay az rx ry rz bx b) s =
      .next (imuLeaves (sampled s stamp ax ay az rx ry rz [(bx : Rat), b, s.freeInt.1]) s.freeInt.2) := by
  refine congrArg Host.Outcome.next ((if_pos hs).trans ?_)
  simp only [if_pos h]
  rfl

theorem exec_imuSample_kept (h : ¬ 5000 ≤ if s.still then s.sens.imu.stillRun + 1 else 0) :
    exec (.imuSample stamp ax ay az rx ry rz bx b) s = .next (imuLeaves (sampled s stamp ax ay az rx ry rz s.sens.imu.bias) s) := by
  refine congrArg Host.Outcome.next ((if_pos hs).trans ?_)
  simp only [if_neg h]
  rfl
end

/-- Settles O20: a crossing leaves the input that `crossed` names, a sample the IMU that `sampled` names. -/
theorem shaftsAndImu : Obligations.ShaftsAndImu := by
  unfold Obligations.ShaftsAndImu
  refine ⟨fun s h stamp a q held hh hshort => ?_, fun s h stamp a q held hh hs hlen htype hquad hheld hlev hsel => ?_,
    fun s h stamp a q held hh hs hlen htype hquad hheld hlev hlevQ => ?_,
    fun s h stamp a q held hh hs hlen htype hquad hheld hlev hlevQ => ?_,
    fun s h stamp hh hs hlen htype hsrc hcpr => ?_, fun s h e l hh hs he hage => ?_, fun s h e l hh he hage => ?_,
    fun s h hh hs hbad hcalm hquad => ?_, fun s stamp ax ay az rx ry rz bx b hs => ?_, fun s pass hdev => ?_⟩
  · exact unit_next hh (if_neg (by simp; omega))
  · refine shaftEdge_runs hh hs hlen htype hheld fun t ht => ?_
    rw [ht, crossed_counted hquad hlev hsel]
    exact ⟨rfl, rfl, rfl, rfl, rfl, rfl⟩
  · refine shaftEdge_runs hh hs hlen htype hheld fun t ht => ?_
    rw [ht, crossed_quadrature hquad hlev hlevQ]
    exact ⟨rfl, rfl, rfl⟩
  · refine shaftEdge_runs hh hs hlen htype hheld fun t ht => ?_
    rw [ht, crossed_both hquad hlev hlevQ]
    exact ⟨rfl, rfl⟩
  · obtain ⟨off, hoff⟩ : ∃ off, (match (s.shOf h).indexAt with
      | some c => let m := (((s.shOf h).count - c) % s.nat (0x4860 + h) 6).toNat; decide (2 < min m (s.nat (0x4860 + h) 6 - m))
      | none => false) = off := ⟨_, rfl⟩
    obtain ⟨v, hv⟩ : ∃ v, releaseIndex h (s.updShaft h fun x => { x with indexAt := some x.count, indexError := off }) = v := ⟨_, rfl⟩
    have hset : Only [.sens, .loop] s v := hv ▸ ((updShaft_only s h _).mono (by decide)).trans ((updLoop_only _ _).mono (by decide))
    have hself : v.shOf h = { s.shOf h with indexAt := some (s.shOf h).count, indexError := off } := by
      rw [← hv]
      exact updShaft_shOf_self (fun x => { x with indexAt := some x.count, indexError := off }) hlen
    obtain ⟨u, hu⟩ : ∃ u, (if off != (s.shOf h).indexError then sensorRecord off (h + 1) 0x0F (shStatus (v.shOf h)) v else v) = u := ⟨_, rfl⟩
    have hrec : Only [.flow, .upd] v u := hu ▸ sensorRecord_if _ _ _ _ _
    refine .intro (t := u) (hu ▸ hv ▸ hoff ▸ unit_next hh (if_pos (by simp [hs, htype, hsrc, hcpr])))
      ⟨(hset.mono (by decide)).trans (hrec.mono (by decide)), ?_⟩
    rw [shOf_congr hrec.sens h, hself]
    refine ⟨rfl, rfl, fun hnone => ?_⟩
    rw [← hoff, hnone]
  · refine unit_next hh (if_pos ?_)
    rw [he]
    simp [hs, hage]
  · refine unit_next hh (if_neg ?_)
    rw [he]
    simp [hage]
  · have hclear := clear_bad hcalm hquad
    have hlen := held_of_bad hbad
    have hset := updShaft_only s h fun _ => (s.shOf h).clear s.tm.mono
    have hrec := sensorRecord_only false (h + 1) 0x0F (shStatus ((s.shOf h).clear s.tm.mono)) (s.updShaft h fun _ => (s.shOf h).clear s.tm.mono)
    refine .intro (unit_next hh ((if_pos (by simp [hs, hbad])).trans (if_pos (shStatus_ne hclear hbad))))
      ⟨(hset.mono (by decide)).trans (hrec.mono (by decide)), ?_⟩
    rw [shOf_congr hrec.sens h, updShaft_shOf_self _ hlen]
    exact ⟨hclear, rfl, (Recorded.self _ _).base rfl rfl rfl rfl rfl⟩
  · by_cases hrun : 5000 ≤ if s.still then s.sens.imu.stillRun + 1 else 0
    · have hstill : s.still = true := by by_contra hno; simp [hno] at hrun
      refine .intro (exec_imuSample_learned hs hrun)
        ⟨((freeInt_only s).mono (by decide)).trans ((imuLeaves_only _ _).mono (by decide)), ?_⟩
      rw [imuLeaves_imu]
      exact ⟨rfl, rfl, rfl, rfl, rfl, fun _ _ => rfl, fun hmoves => absurd hstill (by simp [hmoves])⟩
    · have honly := imuLeaves_only (sampled s stamp ax ay az rx ry rz s.sens.imu.bias) s
      refine .intro (exec_imuSample_kept hs hrun) ⟨honly.mono (by decide), ?_⟩
      rw [imuLeaves_imu]
      refine ⟨rfl, rfl, rfl, rfl, rfl, fun hstill hlong => absurd hlong ?_, fun _ => ⟨rfl, honly.free⟩⟩
      simp only [hstill, if_true] at hrun
      omega
  · obtain ⟨u, hu⟩ : ∃ u, (if s.sens.imu.selfFail != !pass then sensorRecord (!pass) 0x88 0x0F
        (imuStatus { s.sens.imu with selfFail := !pass }) (s.updSens fun z => { z with imu := { z.imu with selfFail := !pass } })
      else s.updSens fun z => { z with imu := { z.imu with selfFail := !pass } }) = u := ⟨_, rfl⟩
    have hrec : Only [.flow, .upd] (s.updSens fun z => { z with imu := { z.imu with selfFail := !pass } }) u := hu ▸ sensorRecord_if _ _ _ _ _
    refine .intro (t := u) (hu ▸ congrArg Host.Outcome.next (if_pos hdev))
      ⟨((updSens_only s _).mono (by decide)).trans (hrec.mono (by decide)), congrArg Sense.imu hrec.sens, fun heq => ?_⟩
    rw [← hu, heq, if_neg (by simp)]
    rfl

end Sys2Proof.Machine

/-! Proofs of the statements on the Passage's control, its objects and its calibration (02). -/

namespace Sys2Proof.Machine

set_option Elab.async false

/-! ## What the death of Leads leaves of the Passage -/

/-- Of the Passage only the ring has changed, and no entry of it came or went. -/
def SameSlice (s t : State) : Prop := t.pas = { s.pas with ring := t.pas.ring } ∧ t.pas.ring.length = s.pas.ring.length

theorem SameSlice.refl (s : State) : SameSlice s s := ⟨rfl, rfl⟩

theorem SameSlice.trans {s t u : State} (h : SameSlice s t) (k : SameSlice t u) : SameSlice s u :=
  ⟨k.1.trans (by rw [h.1]), k.2.trans h.2⟩

theorem SameSlice.of_pas {s t : State} (h : t.pas = s.pas) : SameSlice s t := ⟨by rw [h], by rw [h]⟩

theorem SameSlice.acc {s t : State} (h : SameSlice s t) : t.pas.acc = s.pas.acc := by rw [h.1]
theorem SameSlice.nextParcel {s t : State} (h : SameSlice s t) : t.pas.nextParcel = s.pas.nextParcel := by rw [h.1]
theorem SameSlice.headerInWork {s t : State} (h : SameSlice s t) : t.pas.headerInWork = s.pas.headerInWork := by rw [h.1]

theorem killLeads_sameSlice (p : Lead → Bool) (r : Nat) (s : State) : SameSlice s (killLeads p r s) := ⟨rfl, List.length_map ..⟩

theorem leadClose_sameSlice (s : State) (c : Nat × Bool) : SameSlice s (leadClose s c) := by
  unfold leadClose
  split
  · exact killLeads_sameSlice _ _ _
  · exact killLeads_sameSlice _ 3 _

theorem leadClose_only (s : State) (c : Nat × Bool) : Only [.lead, .pas] s (leadClose s c) := by
  unfold leadClose
  split
  · exact killLeads_only _ _ _
  · exact (killLeads_only _ _ _).next (updLead_only _ _)

theorem foldl_leadClose_sameSlice (l : List (Nat × Bool)) : ∀ s, SameSlice s (l.foldl leadClose s) := by
  induction l with
  | nil => exact SameSlice.refl
  | cons c l ih => exact fun s => (leadClose_sameSlice s c).trans (ih _)

/-- No uncut parcel has a Lead unresolved any more. -/
theorem killUncut_cut (r : Nat) (s : State) :
    ∀ l ∈ (killUncut r s).lead.ring, l.state = 1 → pbefore l.parcel (killUncut r s).pas.nextParcel = true := by
  intro l hl hopen
  obtain ⟨hmem, -⟩ := List.mem_filter.1 hl
  obtain ⟨m, -, rfl⟩ := List.mem_map.1 hmem
  show pbefore _ s.pas.nextParcel = true
  by_cases hm : m.state == 1 && s.uncut m
  · simp [hm] at hopen
  · rw [if_neg hm] at hopen ⊢
    simpa [hopen, State.uncut] using hm

/-! ## Closing a slice (R33, R37, R52) -/

section
variable (s : State) (len : Nat) (carry ahead : Int) (short : Bool)

theorem closeSlice_only : Only [.pas, .lead, .pctl] s (closeSlice s len carry ahead short).1 := by
  intro p
  unfold closeSlice
  dsimp only
  cases p with
  | pas | lead | pctl => exact .inl (by decide)
  | _ =>
    right
    split
    · split <;> rfl
    · rfl

/-- With a free entry one parcel more stands in the ring, under the next number. -/
theorem closeSlice_free (h : freeEntries s.pas ≠ 0) :
    (closeSlice s len carry ahead short).1.pas.nextParcel = (s.pas.nextParcel + 1) % 2 ^ 32 ∧
    (closeSlice s len carry ahead short).1.pas.ring.length = s.pas.ring.length + 1 := by
  unfold closeSlice
  dsimp only
  rw [if_neg h]
  exact ⟨rfl, List.length_append⟩

theorem closeSlice_full (h : freeEntries s.pas = 0) :
    (closeSlice s len carry ahead short).1.pas.nextParcel = s.pas.nextParcel ∧
    (closeSlice s len carry ahead short).1.pas.ring.length = s.pas.ring.length := by
  unfold closeSlice
  dsimp only
  rw [if_pos h]
  split
  · exact ⟨rfl, rfl⟩
  · exact ⟨rfl, List.length_map ..⟩
end

/-! ## The header (R32, R37) -/

/-- A header that leaves while the Passage cuts makes a parcel of a slice of 10 mm or more, where an entry is free for it. -/
theorem partSlice_parcels {s : State} {r : State × PasEv} (hcut : s.cutting = true)
    (hr : (if s.cutting ∧ 655360 ≤ s.pas.acc then closeSlice s (s.pas.acc / 65536).toNat 0 0 true else (s, {})) = r) :
    r.1.pas.nextParcel = (if 655360 ≤ s.pas.acc ∧ freeEntries s.pas ≠ 0 then (s.pas.nextParcel + 1) % 2 ^ 32 else s.pas.nextParcel) ∧
    r.1.pas.ring.length = (if 655360 ≤ s.pas.acc ∧ freeEntries s.pas ≠ 0 then s.pas.ring.length + 1 else s.pas.ring.length) := by
  by_cases hlong : 655360 ≤ s.pas.acc
  · rw [if_pos ⟨hcut, hlong⟩] at hr
    subst hr
    by_cases hfree : freeEntries s.pas = 0
    · simpa [hfree] using closeSlice_full s (s.pas.acc / 65536).toNat 0 0 true hfree
    · simpa [hfree, hlong] using closeSlice_free s (s.pas.acc / 65536).toNat 0 0 true hfree
  · rw [if_neg fun h => hlong h.2] at hr
    subst hr
    simp [hlong]

/-- What the header's departure leaves of a slice that has been closed, with what the closing made happen. -/
def headerLeft (cut : Bool) (r : State × PasEv) : State :=
  killUncut 2 (r.2.closed.foldl leadClose
    (((r.1.optVoid 0x12).updPas fun p => { (if cut then p.noSlice else p) with headerInWork := false }).records r.2.recs))

theorem headerLeft_only (cut : Bool) (r : State × PasEv) : Only [.pas, .lead, .opt, .flow, .upd] r.1 (headerLeft cut r) := by
  have hvoid : Only [.pas, .lead, .opt, .flow, .upd] r.1 ((r.1.optVoid 0x12).updPas fun p =>
      { (if cut then p.noSlice else p) with headerInWork := false }) :=
    ((updOpt_only _ _).mono (by decide)).next (updPas_only _ _)
  exact ((hvoid.next (records_only _ _)).next (Only.foldl _ _ leadClose_only _ _)).next (killLeads_only _ _ _)

theorem headerLeft_sameSlice (cut : Bool) (r : State × PasEv) :
    SameSlice ((r.1.optVoid 0x12).updPas fun p => { (if cut then p.noSlice else p) with headerInWork := false }) (headerLeft cut r) :=
  ((SameSlice.of_pas (records_only _ _).pas).trans (foldl_leadClose_sameSlice _ _)).trans (killLeads_sameSlice _ _ _)

/-- A departure that closes no slice records nothing. -/
theorem headerLeft_open (cut : Bool) (s : State) : Only [.pas, .lead, .opt] s (headerLeft cut (s, {})) := by
  have hset : Only [.pas, .lead, .opt] s ((s.optVoid 0x12).updPas fun p => { (if cut then p.noSlice else p) with headerInWork := false }) :=
    ((updOpt_only _ _).mono (by decide)).next (updPas_only _ _)
  exact hset.next (killLeads_only _ 2 _)

/-! ## The reset (R69) -/

theorem recordLost_only (s : State) : Only [.free, .flow, .upd] s (recordLost s) :=
  Only.foldl _ _ (fun s w => ((freeInt_only s).mono (by decide)).next (record_only _ _)) _ _

theorem emptyLeads_only (r : Nat) (s : State) : Only [.lead, .pas] s (emptyLeads r s) := (killLeads_only _ _ _).next (updLead_only _ _)

/-- The state on whose Passage a reset begins: the events are discarded and the Leads are gone. -/
def discarded (s : State) : State := emptyLeads 6 (discardEvents (s.optVoid 0x13))

theorem discarded_only (s : State) : Only [.pas, .pctl, .lead, .opt, .flow, .upd, .free] s (discarded s) :=
  ((((updOpt_only _ _).mono (by decide)).next (recordLost_only _)).next (updPctl_only _ _)).next (emptyLeads_only _ _)

theorem discarded_pctl (s : State) : (discarded s).pctl = (discardEvents (s.optVoid 0x13)).pctl := (emptyLeads_only _ _).pctl

theorem discarded_nextParcel (s : State) : (discarded s).pas.nextParcel = s.pas.nextParcel :=
  (killLeads_sameSlice _ 6 _).nextParcel.trans (congrArg Pas.nextParcel (recordLost_only (s.optVoid 0x13)).pas)

theorem beginReset_only (by_ : Option Nat) (s : State) : Only [.pas, .pctl, .lead, .opt, .flow, .upd, .free] s (beginReset by_ s) := by
  refine (discarded_only s).trans fun p => ?_
  cases p with
  | pas | pctl | opt => exact .inl (by decide)
  | _ => exact .inr rfl

theorem beginReset_passage (by_ : Option Nat) (s : State) : (beginReset by_ s).pas.ring = [] ∧ (beginReset by_ s).pas.acc = 0 ∧
    (beginReset by_ s).pas.nextParcel = s.pas.nextParcel := ⟨rfl, rfl, discarded_nextParcel s⟩

theorem beginReset_control (by_ : Option Nat) (s : State) : (beginReset by_ s).pctl.events = [] ∧ (beginReset by_ s).pctl.resetActive = true ∧
    (beginReset by_ s).pctl.resetCount = inc32 s.pctl.resetCount ∧
    (beginReset by_ s).pctl.discarded = add32 s.pctl.discarded s.pctl.events.length := by
  have hlost : (recordLost (s.optVoid 0x13)).pctl = s.pctl := (recordLost_only _).pctl
  have hctl : (discarded s).pctl.events = [] ∧ (discarded s).pctl.resetCount = s.pctl.resetCount ∧
      (discarded s).pctl.discarded = add32 s.pctl.discarded s.pctl.events.length := by
    rw [discarded_pctl]
    exact ⟨rfl, (congrArg PasCtl.resetCount hlost :), congrArg (fun c : PasCtl => add32 c.discarded c.events.length) hlost⟩
  obtain ⟨hevents, hcount, hsum⟩ := hctl
  exact ⟨hevents, rfl, congrArg inc32 hcount, hsum⟩

/-- Settles O21, from what a closed slice leaves of the Passage and what a reset discards. -/
theorem passageControl : Obligations.PassageControl := by
  unfold Obligations.PassageControl
  refine ⟨fun s k hk hs => unit_next hk (if_pos hs), fun s hg hsky => congrArg Host.Outcome.next (if_pos (by simp [hg, hsky])),
    fun s hs hlevel hout => ?_, fun s hs hcut => ?_, fun s hs hin hcut => ?_,
    fun s hr hdev => congrArg Host.Outcome.next (if_pos ⟨hr, hdev⟩), fun s hr => ?_, fun s a b hr => ?_⟩
  · exact .intro (congrArg Host.Outcome.next (if_pos ⟨hs, hlevel, by simp [hout]⟩))
      ⟨((updOpt_only _ _).mono (by decide)).next (updPas_only _ _), rfl, rfl⟩
  · have hin : s.pas.headerInWork = true := by
      simp only [State.cutting, Bool.and_eq_true] at hcut
      exact hcut.1.1.1.2
    obtain ⟨r, hr⟩ : ∃ r, (if s.cutting ∧ 655360 ≤ s.pas.acc then closeSlice s (s.pas.acc / 65536).toNat 0 0 true else (s, {})) = r := ⟨_, rfl⟩
    have hexec : exec .headerLeavesWork s = .next (headerLeft s.cutting r) := hr ▸ congrArg Host.Outcome.next (if_pos ⟨hs, hin⟩)
    have hsame := headerLeft_sameSlice s.cutting r
    obtain ⟨hnext, hring⟩ := partSlice_parcels hcut hr
    have hclosed : Only [.pas, .lead, .pctl] s r.1 := by
      rw [← hr]
      split
      · exact closeSlice_only _ _ _ _ _
      · exact .refl _ _
    refine .intro hexec ⟨(hclosed.mono (by decide)).trans ((headerLeft_only _ _).mono (by decide)),
      hsame.headerInWork, hsame.acc.trans ?_, hsame.nextParcel.trans ?_, hsame.2.trans ?_, killUncut_cut _ _⟩
    · show (if s.cutting then r.1.pas.noSlice else r.1.pas).acc = 0
      rw [if_pos hcut]
      rfl
    · show (if s.cutting then r.1.pas.noSlice else r.1.pas).nextParcel = _
      rw [if_pos hcut]
      exact hnext
    · show (if s.cutting then r.1.pas.noSlice else r.1.pas).ring.length = _
      rw [if_pos hcut]
      exact hring
  · have hexec : exec .headerLeavesWork s = .next (headerLeft false (s, {})) := by
      refine congrArg Host.Outcome.next ((if_pos ⟨hs, hin⟩).trans ?_)
      simp only [hcut]
      rfl
    exact .intro hexec ⟨headerLeft_open _ _, (headerLeft_sameSlice false (s, {})).1, (headerLeft_sameSlice false (s, {})).2, killUncut_cut _ _⟩
  · obtain ⟨hring, hacc, hnext⟩ := beginReset_passage none s
    obtain ⟨hevents, hactive, hcount, hsum⟩ := beginReset_control none s
    exact .intro (congrArg Host.Outcome.next (if_pos hr)) ⟨beginReset_only none s, hring, hacc, hnext, rfl, hevents, hactive, hcount, hsum⟩
  · have hreset := beginReset_only none s
    have hrec := record_only (beginReset none s) ⟨0x3001, 0, 0x05, leBytes 4 a ++ leBytes 4 b, [], 0xFFFFFFFF, 0xF⟩
    refine .intro (congrArg Host.Outcome.next (if_pos hr)) ⟨hreset.next hrec, ?_, ?_, _, congrArg Host.Outcome.next (if_pos hr), rfl⟩
    · exact (congrArg Pas.ring hrec.pas).trans (beginReset_passage none s).1
    · exact (congrArg PasCtl.resetActive hrec.pctl).trans (beginReset_control none s).2.1

end Sys2Proof.Machine

/-! Proofs of the statements on the Passage's objects and on the calibration of transits (02 R40–R68). -/

namespace Sys2Proof.Machine

set_option Elab.async false

/-! ## Events (R60, R61) -/

section
variable {s : State} {n : Nat} {b : Bytes} (h : s.admits n 0x3820 1 (.bytes b))
include h

/-- An event that passes its checks is queued, and the session is told its identifier. -/
theorem exec_eventRecord_queued (hlen : b.length = 24) (hok : eventFieldsOk b (eventOf b) = true) (hres : eventResult s true (eventOf b) = 0) :
    exec (.eventRecord n b) s = .next (((queueEvent (eventOf b) (s.touch n)).updWin n fun x =>
      { x with eventResult := 0, eventId := s.pctl.nextEvent }).ack n) := by
  have hfields : (b.length == 24 && eventFieldsOk b (eventOf b)) = true := by simp [hlen, hok]
  have hins : insertEvent b (s.touch n) = (0, queueEvent (eventOf b) (s.touch n)) := by
    have hzero : eventResult (s.touch n) true (eventOf b) = 0 := hres
    simp only [insertEvent, hfields, hzero, if_true]
  exact admitted_ok h (show (Except.ok ((insertEvent b (s.touch n)).2.updWin n fun x => { x with
    eventResult := (insertEvent b (s.touch n)).1,
    eventId := if (insertEvent b (s.touch n)).1 = 0 then s.pctl.nextEvent else x.eventId }) : Except Nat State) = _ by rw [hins]; rfl)

/-- During a reset no event is taken. -/
theorem exec_eventRecord_reset (hreset : s.pctl.resetActive = true) :
    exec (.eventRecord n b) s = .next (((s.touch n).updWin n fun x => { x with eventResult := 7 }).ack n) := by
  have hins : insertEvent b (s.touch n) = (7, s.touch n) := by
    have hseven (ok : Bool) : eventResult (s.touch n) ok (eventOf b) = 7 := if_pos hreset
    simp only [insertEvent, hseven]
    rfl
  exact admitted_ok h (show (Except.ok ((insertEvent b (s.touch n)).2.updWin n fun x => { x with
    eventResult := (insertEvent b (s.touch n)).1,
    eventId := if (insertEvent b (s.touch n)).1 = 0 then s.pctl.nextEvent else x.eventId }) : Except Nat State) = _ by rw [hins]; rfl)
end

/-! ## Stations and kernels (R40–R42) -/

section
variable {s : State} {n k j : Nat} {v : Int} (hk : k < 10) (hj : j < 16) (h : s.admits n (0x3800 + k) (8 + j) (.int v))
include hk hj h

/-- An admitted write of a tap is answered with what it makes of the kernel. -/
theorem exec_kernelWrite : exec (.kernelWrite n k (8 + j) v) s = .next ((s.touch n).answer n (match kernelAfter s k j v with
    | some t => .ok (putTaps (s.touch n) k t)
    | none => .error Abort.range)) := by
  have hrow : 0x3800 + k - 0x3800 = k := Nat.add_sub_cancel_left ..
  have htap : 8 + j - 8 = j := Nat.add_sub_cancel_left ..
  refine guarded_next hk ((session_ok h _).trans (congrArg (fun e => Host.Outcome.next ((s.touch n).answer n e)) ?_))
  refine (if_neg (by omega)).trans ((if_neg (by omega)).trans ((if_neg (by omega)).trans ((if_neg (by omega)).trans
    ((if_pos ⟨by omega, by omega⟩).trans ?_))))
  rw [hrow, htap]
  rfl
end

/-! ## Calibration (R66–R68) -/

theorem commit_only (s : State) (layer key : Nat) (v : Val) : Only [.per] s (s.commit layer key v) := updPer_only s _

theorem putTaps_only (s : State) (k : Nat) (t : List Int) : Only [.dict] s (putTaps s k t) := Only.foldl _ _ (fun _ _ => put_only _ _ _ _) _ _

theorem updStation_only (s : State) (k : Nat) (f : Station → Station) : Only [.pas] s (s.updStation k f) := updPas_only s _

theorem updStation_self {s : State} {k : Nat} (f : Station → Station) (h : k < s.pas.stations.length) : (s.updStation k f).stOf k = f (s.stOf k) :=
  getD_upd _ _ _ _ h

theorem updStation_ne {s : State} {k m : Nat} (f : Station → Station) (h : m ≠ k) : (s.updStation k f).stOf m = s.stOf m :=
  getD_upd_ne _ _ _ _ _ h

/-- An update that gives a field of a station a value gives it in every station, held or not, where the default has it. -/
theorem updStation_field {α} (s : State) (k : Nat) (f : Station → Station) (p : Station → α) (a : α) (hf : ∀ x, p (f x) = a)
    (hd : p {} = a) : p ((s.updStation k f).stOf k) = a := by
  by_cases h : k < s.pas.stations.length
  · rw [updStation_self f h, hf]
  · have hsame : updAt s.pas.stations k f = s.pas.stations := List.modify_eq_self (Nat.le_of_not_lt h)
    show p ((updAt s.pas.stations k f).getD k {}) = a
    rw [hsame, List.getD_eq_default _ _ (Nat.le_of_not_lt h), hd]

/-- The station with the proposal in it, before the proposal is made persistent. -/
def proposed (s : State) : State :=
  let c := s.pctl.cal
  (putTaps ((s.put (stObj c.station) 3 (.int c.transit)).put (stObj c.station) 7 (.int c.step)) c.station (normalise c.kernel)).updStation
    c.station fun t => { t with stepSet := true, trim := 0 }

/-- The proposal made persistent. -/
def committed (s t : State) : State :=
  let c := s.pctl.cal
  ((normalise c.kernel).zipIdx.foldl (fun t e => t.commit 2 (keyOf (stObj c.station) (8 + e.2)) (.int e.1))
    ((t.commit 2 (keyOf (stObj c.station) 3) (.int c.transit)).commit 2 (keyOf (stObj c.station) 7) (.int c.step)))

theorem committed_only (s t : State) : Only [.per] t (committed s t) :=
  ((commit_only _ _ _ _).trans (commit_only _ _ _ _)).trans (Only.foldl _ _ (fun _ _ => commit_only _ _ _ _) _ _)

theorem proposed_only (s : State) : Only [.dict, .pas] s (proposed s) :=
  ((((put_only _ _ _ _).mono (by decide)).next (put_only _ _ _ _)).next (putTaps_only _ _ _)).next (updStation_only _ _ _)

theorem proposed_pas (s : State) : (proposed s).pas.ring = s.pas.ring ∧ ((proposed s).stOf s.pctl.cal.station).trim = 0 := by
  have hput : Only [.dict] s (putTaps ((s.put (stObj s.pctl.cal.station) 3 (.int s.pctl.cal.transit)).put (stObj s.pctl.cal.station) 7
    (.int s.pctl.cal.step)) s.pctl.cal.station (normalise s.pctl.cal.kernel)) :=
    ((put_only _ _ _ _).trans (put_only _ _ _ _)).trans (putTaps_only _ _ _)
  exact ⟨(congrArg Pas.ring hput.pas :), updStation_field _ _ _ Station.trim 0 (fun _ => rfl) rfl⟩

/-- A proposal is refused as a whole, with one code, or taken as a whole. -/
theorem acceptCal_eq (s : State) : acceptCal s =
    if s.pctl.cal.kernel.foldl (· + ·) 0 < 31130 ∨ 34404 < s.pctl.cal.kernel.foldl (· + ·) 0 ∨ !transitsOk (proposed s) s.pctl.cal.station then
      .error Abort.range
    else .ok ((committed s (proposed s)).updPctl fun p => { p with cal := { p.cal with state := 3 } }) := rfl

theorem acceptCal_ok_inv {s u : State} (h : acceptCal s = .ok u) :
    (31130 ≤ s.pctl.cal.kernel.foldl (· + ·) 0 ∧ s.pctl.cal.kernel.foldl (· + ·) 0 ≤ 34404) ∧
    u = (committed s (proposed s)).updPctl fun p => { p with cal := { p.cal with state := 3 } } := by
  rw [acceptCal_eq] at h
  split at h
  · cases h
  next hsum =>
    obtain ⟨hlo, hhi⟩ := not_or.1 hsum
    exact ⟨⟨by omega, not_lt.1 (not_or.1 hhi).1⟩, (Except.ok.inj h).symm⟩

theorem acceptCal_error_inv {s : State} {a : Nat} (h : acceptCal s = .error a) : a = Abort.range := by
  rw [acceptCal_eq] at h
  split at h
  · exact (Except.error.inj h).symm
  · cases h

/-- A snapshot of a parcel writes its result and its copy into the session's window. -/
theorem parcelSnapshot_window (s : State) (n : Nat) : ∃ f, parcelSnapshot n s = s.updWin n f ∧
    ∀ w, (f w).parcelResult = selectResult s (s.sessOf n).win.parcelSelect ∧ (f w).parcelSelect = w.parcelSelect := by
  unfold parcelSnapshot
  exact ⟨_, rfl, fun _ => ⟨rfl, rfl⟩⟩

/-- A cancel gives no identifier away. -/
theorem cancelEvent_nextEvent (id : Nat) (s : State) : (cancelEvent id s).2.pctl.nextEvent = s.pctl.nextEvent := by
  unfold cancelEvent
  split
  · rfl
  · split <;> rfl

/-- Settles O22: each write by the branch of its sub-index, events by what the insertion makes of them. -/
theorem passageObjects : Obligations.PassageObjects := by
  unfold Obligations.PassageObjects
  refine ⟨fun s n b h hreset hlen hok hres => ?_, fun s n b h hreset => exec_eventRecord_reset h hreset, fun s n id h hwait => ?_,
    fun s n id h hno hrel => ?_, fun s n v h => ?_, fun s n k v hk h hfree => ?_, fun s n k v hk h hbusy => ?_,
    fun s n k j v hk hj h hker => ?_, fun s n k j v ts hk hj h hker => ?_, fun s n v h => ?_⟩
  · have hopen : ((queueEvent (eventOf b) (s.touch n)).sessOf n).opened = true :=
      (touch_keep s n Sess.opened fun _ _ => rfl).trans h.opened
    refine .intro (exec_eventRecord_queued h hlen hok hres)
      ⟨((updPctl_only _ _).mono (by decide)).next (updWin_only _ _ _), rfl, rfl, ?_, ?_⟩ <;> rw [updWin_win hopen]
  · obtain ⟨hres, honly, hev, -, -⟩ := cancelEvent_waiting (s := s.touch n) hwait
    have hopen : ((cancelEvent id (s.touch n)).2.sessOf n).opened = true := by
      rw [honly.sessOf (by decide), touch_keep s n Sess.opened fun _ _ => rfl]
      exact h.opened
    refine .intro (exec_eventCancel h) ⟨(honly.mono (by decide)).next (updWin_only _ _ _), ?_, hev, cancelEvent_nextEvent id (s.touch n)⟩
    rw [updWin_win hopen, hres]
  · have hc : cancelEvent id (s.touch n) = (1, s.touch n) := (cancelEvent_notWaiting (s := s.touch n) hno).trans (if_pos hrel)
    rw [exec_eventCancel h, hc]
  · have hopen : ((s.touch n).sessOf n).opened = true := (touch_keep s n Sess.opened fun _ _ => rfl).trans h.opened
    have hwin : ((s.touch n).sessOf n).win = (s.sessOf n).win := touch_keep s n Sess.win fun _ _ => rfl
    refine .intro (t := parcelSnapshot n (s.touch n)) (admitted_ok h rfl) ⟨updWin_only _ _ _, ?_⟩
    obtain ⟨f, hf, hfields⟩ := parcelSnapshot_window (s.touch n) n
    rw [hf, updWin_win hopen, (hfields _).1, (hfields _).2, hwin]
    exact ⟨rfl, rfl⟩
  · exact guarded_next hk (admitted_ok h ((if_neg (by omega)).trans ((if_pos (.inr (.inl rfl))).trans
      (if_pos (show s.configurable = true ∨ s.stIdle (0x3800 + k - 0x3800) = true by simpa [Nat.add_sub_cancel_left] using hfree)))))
  · exact guarded_next hk (admitted_error h ((if_neg (by omega)).trans ((if_pos (.inr (.inl rfl))).trans
      (if_neg (show ¬(s.configurable = true ∨ s.stIdle (0x3800 + k - 0x3800) = true) by simpa [Nat.add_sub_cancel_left] using hbusy)))))
  · rw [exec_kernelWrite hk hj h, hker]
    rfl
  · rw [exec_kernelWrite hk hj h, hker]
    rfl
  · exact admitted_ok h (if_neg (by omega))

/-- Settles O23: the commands by CalState, the proposal as `acceptCal_eq` says. -/
theorem transitCalibration : Obligations.TransitCalibration := by
  unfold Obligations.TransitCalibration
  refine ⟨fun s n h hst hk => admitted_ok h ((if_neg hst).trans (if_neg (show ¬(s.nat 0x3812 2 = 2 ∨ s.nat 0x3812 2 = 5 ∨ s.nat 0x3812 2 = 7) by simpa using hk))),
    fun s n h hst => admitted_ok h (if_pos hst), fun s n u h hst hacc => admitted_ok h ((if_pos hst).trans hacc),
    fun s u hacc => ?_, fun s n a h hst hacc => ⟨acceptCal_error_inv hacc, admitted_error h ((if_pos hst).trans hacc)⟩,
    fun s n h hst => admitted_ok h (if_pos hst), fun s n h hst => admitted_error h (if_neg hst),
    fun s tr st ker q hlen hst hen hq => ?_, fun s tr st ker q hlen hst hen hq => ?_, fun s x hen hcount hlen => ?_⟩
  · obtain ⟨⟨hlo, hhi⟩, rfl⟩ := acceptCal_ok_inv hacc
    have hkeep := committed_only s (proposed s)
    obtain ⟨hring, htrim⟩ := proposed_pas s
    refine ⟨rfl, ?_, (hkeep.tm).trans (proposed_only s).tm, (congrArg Pas.ring hkeep.pas).trans hring, hlo, hhi⟩
    exact (congrArg (fun p : Pas => (p.stations.getD s.pctl.cal.station {}).trim) hkeep.pas).trans htrim
  · refine (withUnit_next (by simp [hlen])).trans (congrArg Host.Outcome.next ((if_pos ⟨hst, hen⟩).trans ?_))
    simp only [if_pos hq]
  · refine (withUnit_next (by simp [hlen])).trans (congrArg Host.Outcome.next ((if_pos ⟨hst, hen⟩).trans ?_))
    simp only [if_neg (not_lt.2 hq)]
  · refine .intro ((withUnit_next rfl).trans (congrArg Host.Outcome.next (if_pos ⟨hen, hcount⟩)))
      ⟨((updStation_only _ _ _).mono (by decide)).next (updPctl_only _ _), rfl, ?_, fun k hk => ?_, rfl⟩
    · exact congrArg Station.trim (updStation_self (fun y => { y with trim := clampI (-3276) 3276 x }) hlen)
    · exact updStation_ne _ hk

end Sys2Proof.Machine

/-! Proofs of the statements on the commands of the lead engine, the repetitive memories and the trace (03, 06). -/

namespace Sys2Proof.Machine

set_option Elab.async false

/-! ## Sessions that have been touched -/

section
variable (s : State) (n : Nat)

@[simp] theorem touch_win : ((s.touch n).sessOf n).win = (s.sessOf n).win := touch_keep s n Sess.win fun _ _ => rfl
@[simp] theorem touch_opened : ((s.touch n).sessOf n).opened = (s.sessOf n).opened := touch_keep s n Sess.opened fun _ _ => rfl
@[simp] theorem touch_transport : ((s.touch n).sessOf n).transport = (s.sessOf n).transport := touch_keep s n Sess.transport fun _ _ => rfl
@[simp] theorem touch_role : ((s.touch n).sessOf n).role = (s.sessOf n).role := touch_keep s n Sess.role fun _ _ => rfl
end

/-- An admitted write that the chapter carries out for the session's role or number. -/
theorem admitted_by {s t : State} {n i sub : Nat} {v : Val} {w : Ctx → State → Except Nat State} (h : s.admits n i sub v)
    (hw : w (s.ctxOf n) (s.touch n) = .ok t) : s.asSession n i (fun c s => checked c i sub v s (w c)) = .next (t.ack n) :=
  served_ok h.serves ((checked_admitted h _).trans hw)

/-! ## Leads (03 R75–R91) -/

theorem leadSnapshot_only (n : Nat) (s : State) : Only [.serv] s (leadSnapshot n s) := updWin_only _ _ _

/-- Every unresolved Lead is counted among the dead. -/
theorem killUnresolved_died (r : Nat) (s : State) :
    (killUnresolved r s).lead.died = add32 s.lead.died (s.lead.ring.filter fun l => l.state == 1).length := by
  show add32 _ (s.lead.ring.filter fun l => l.state == 1 && true).length = _
  simp only [Bool.and_true]

/-- Settles O24: the kill of every unresolved Lead by what it leaves of the ring, each write by its branch. -/
theorem leadCommands : Obligations.LeadCommands := by
  unfold Obligations.LeadCommands
  refine ⟨fun s n h => admitted_ok h rfl,
    fun s r => ⟨killUnresolved_resolved r s, killUnresolved_died r s, rfl, killUnresolved_only r s⟩,
    fun s n h hyield hslot => ?_, fun s n h hyield => admitted_error h (if_pos (Or.inl hyield)),
    fun s n j v hj h => ?_, fun s n j v hj h hon => ?_,
    fun s hsus hcut => congrArg Host.Outcome.next (if_pos (by simp [hsus, hcut])), fun s hsome => ?_,
    fun s n v h htr => ⟨?_, leadSnapshot_only n s⟩, fun s n v h htr => ?_⟩
  · have hany : (List.range 8).any (fun j => (s.slotFn j).isSome) = true := by
      obtain ⟨j, hj, hs⟩ := hslot
      exact List.any_eq_true.2 ⟨j, List.mem_range.2 hj, hs⟩
    exact admitted_ok h (if_neg (show ¬(s.nat 0x3810 0xA = 0xFF ∨ (!(List.range 8).any fun j => (s.slotFn j).isSome) = true) by simp [hyield, hany]))
  · exact guarded_next hj (admitted_ok h ((if_neg (by omega)).trans ((if_neg (by omega)).trans (if_neg (by omega)))))
  · exact guarded_next hj (admitted_error h ((if_neg (by omega)).trans (if_pos ⟨.inr rfl, hon⟩)))
  · have hrec := record_only s ⟨0x3010, 0, 0x05, leBytes 4 s.lead.periodWent ++ leBytes 4 s.lead.periodDied, [], 0xFFFFFFFF, 0xF⟩
    exact .intro (congrArg Host.Outcome.next (if_pos hsome)) ⟨(hrec.mono (by decide)).next (updLead_only _ _),
      congrArg (fun x : Leads => { x with periodWent := 0, periodDied := 0 }) hrec.lead, (Recorded.self _ _).of_flow rfl⟩
  · exact served_ok (w := fun w => leadWindowWrite w 0x38C0 2 (.int v)) h.serves ((if_neg (mt (touch_transport s n).symm.trans htr)).trans (checked_admitted h _))
  · exact served_error (w := fun w => leadWindowWrite w 0x38C0 2 (.int v)) h (if_pos ((touch_transport s n).trans htr))

/-! ## Repetitive memories (06 R157–R162) -/

section
variable {s : State} {n c : Nat} (hc : c < 128)
include hc

/-- An admitted RepCommand is carried out on the memory of its context. -/
theorem exec_rep {v : Int} {t : State} (h : s.admits n (0x3400 + c) 0xC (.int v)) (hw : repCommand (s.ctxOf n) c v (s.touch n) = .ok t) :
    (if c < 128 then s.asSession n (compObj c) (fun w => compWrite w (compObj c) 0xC (.int v)) else withUnit false s) = .next (t.ack n) := by
  refine guarded_next hc (admitted_by h ((if_pos rfl).trans ?_))
  rw [show compObj c - 0x3400 = c from Nat.add_sub_cancel_left ..]
  exact hw

/-- An admitted write of the memory is refused to a context that runs and does not hold. -/
theorem exec_compTableWrite {b : Bytes} (h : s.admits n (0x3400 + c) 0xD (.bytes b)) :
    exec (.compTableWrite n c 0xD b) s = .next ((s.touch n).answer n (
      if ((s.ctxAt c).enabled = true ∧ (!(s.ctxAt c).comp.held) = true) then .error Abort.state
      else .ok ((s.touch n).updComp c fun x => { x with mem := cellsOf b }))) := by
  refine guarded_next hc ((serve_ok h.serves).trans (congrArg (fun e => Host.Outcome.next ((s.touch n).answer n e)) ?_))
  refine (checked_admitted h _).trans ((if_neg (by simp)).trans ((if_neg (by simp)).trans ((if_neg (by simp)).trans ((if_neg (by simp)).trans
    ((if_neg (by simp)).trans ((if_neg (by simp)).trans ((if_neg (by simp)).trans ((if_neg (by simp)).trans ((if_pos rfl).trans ?_)))))))))
  rw [show compObj c - 0x3400 = c from Nat.add_sub_cancel_left ..]
  rfl

/-- RepSave is of the roles Service and Factory. -/
theorem repSave_right {w : Ctx} (hrole : w.role < 2) : preCheck w (0x3400 + c) 0xC (.int 4) = Abort.noRight := by
  have hall : ∀ c < 128, ∀ r < 2, preCheck ⟨r, none, false⟩ (0x3400 + c) 0xC (.int 4) = Abort.noRight := by decide +kernel
  exact hall c hc w.role hrole
end

/-- Settles O25: each command by what `repCommand` makes of it, the load by what stands for the memory. -/
theorem compensationCommands : Obligations.CompensationCommands := by
  unfold Obligations.CompensationCommands
  refine ⟨fun s n c hc h => exec_rep hc h rfl, fun s n c hc h => exec_rep hc h rfl, fun s n c hc h => exec_rep hc h rfl,
    fun s n c hc h hrole hsave hsaving => ?_, fun s n c hc h hrole => ?_, fun s c hc hdev hnone => ?_, fun s n c b hc h hoff => ?_,
    fun s n c b hc h hon hfree => ?_⟩
  · exact exec_rep hc h ((if_neg (Nat.not_lt.2 hrole)).trans (if_neg (show ¬((s.ctxAt c).comp.save = true ∨ (s.ctxAt c).comp.saving = true) by simp [hsave, hsaving])))
  · have hpre := repSave_right hc (w := s.ctxOf n) hrole
    exact guarded_next hc (served_error h ((if_neg (by rw [hpre]; decide)).trans (congrArg Except.error hpre)))
  · refine unit_next hc ((if_pos hdev).trans ?_)
    unfold loadMemory
    rw [hnone]
    rfl
  · rw [exec_compTableWrite hc h, if_neg (by simp [hoff])]
    rfl
  · rw [exec_compTableWrite hc h, if_pos (by simp [hon, hfree])]
    rfl

/-! ## The trace (06 R168–R170) -/

/-- An admitted TraceCommand of the owner, or while nobody owns the trace, is carried out. -/
theorem traceWrite_owned {s : State} {n : Nat} {v : Int} (h : s.admits n 0x3600 1 (.int v)) (hown : s.trace.owner = 0xFF ∨ s.trace.owner = n) :
    traceWrite (s.ctxOf n) 0x3600 1 (.int v) (s.touch n) = traceCommand (s.ctxOf n) v (s.touch n) := by
  have hfree : ¬(s.trace.owner ≠ 0xFF ∧ (s.ctxOf n).sess ≠ some s.trace.owner) := by
    rintro ⟨hff, hn⟩
    exact hown.elim hff fun he => hn (congrArg some he.symm)
  exact (checked_admitted h _).trans ((if_neg (by simp)).trans ((if_neg (by simp)).trans ((if_neg (by simp)).trans ((if_neg (by simp)).trans
    ((if_neg (by simp)).trans ((if_neg hfree).trans (if_pos ⟨rfl, rfl⟩)))))))

theorem traceWrite_foreign {s : State} {n : Nat} {v : Int} (h : s.admits n 0x3600 1 (.int v)) (hown : s.trace.owner ≠ 0xFF)
    (hother : s.trace.owner ≠ n) : traceWrite (s.ctxOf n) 0x3600 1 (.int v) (s.touch n) = .error Abort.state := by
  have hheld : s.trace.owner ≠ 0xFF ∧ (s.ctxOf n).sess ≠ some s.trace.owner := ⟨hown, fun he => hother (Option.some.inj he).symm⟩
  exact (checked_admitted h _).trans ((if_neg (by simp)).trans ((if_neg (by simp)).trans ((if_neg (by simp)).trans ((if_neg (by simp)).trans
    ((if_neg (by simp)).trans (if_pos hheld))))))

theorem readoutRefused_touch (s : State) (n : Nat) : readoutRefused (s.touch n) n = readoutRefused s n := by
  unfold readoutRefused
  dsimp only
  rw [touch_transport, touch_win]
  rfl

theorem readBlockBytes_touch (s : State) (n : Nat) : readBlockBytes (s.touch n) n = readBlockBytes s n := by
  unfold readBlockBytes readBuf
  simp

/-- A read of the block is served by the read-out. -/
theorem exec_readBlock {s : State} {n : Nat} (h : s.serves n 0x3620) : exec (.readBlock n) s = .next (readBlock n (s.touch n)) := by
  obtain ⟨hn, hopen, hreach⟩ := h
  exact unit_next hn (if_pos (by simp [hopen, hreach]))

theorem readBlock_refused {s : State} {n : Nat} (h : readoutRefused s n ≠ 0) :
    readBlock n s = s.updSess n fun x => { x with answer := readoutRefused s n, answerData := [] } := if_pos h

theorem readBlock_read {s : State} {n : Nat} (h : readoutRefused s n = 0) : readBlock n s = s.updSess n fun x =>
    { x with answer := 0, answerData := readBlockBytes s n,
             win := { x.win with readOffset := x.win.readOffset + (readBlockBytes s n).length / 2 } } := if_neg (not_not.2 h)

/-- Settles O26: the commands of the owner as `traceCommand` says, the read-out as `readBlock` says. -/
theorem traceCommands : Obligations.TraceCommands := by
  unfold Obligations.TraceCommands
  refine ⟨fun s n h hown hst hon => ?_, fun s n h hown hoff => ?_,
    fun s n h hown hother => served_error (w := fun w => traceWrite w 0x3600 1 (.int 1)) h.serves (traceWrite_foreign h hown hother),
    fun s n h hown hst => served_ok (w := fun w => traceWrite w 0x3600 1 (.int 2)) h.serves ((traceWrite_owned h (.inr hown)).trans ?_),
    fun s n h hown => .intro (served_ok (w := fun w => traceWrite w 0x3600 1 (.int 3)) h.serves ((traceWrite_owned h (.inr hown)).trans rfl))
      ⟨updTrace_only _ _, rfl, hown, rfl⟩,
    fun s n h hown => .intro (served_ok (w := fun w => traceWrite w 0x3600 1 (.int 4)) h.serves ((traceWrite_owned h (.inr hown)).trans rfl))
      ⟨updTrace_only _ _, rfl, fun hst => ?_⟩,
    fun s n h hok => ?_, fun s n h hst htr => ?_⟩
  · have hany : (List.range 8).any (traceOn s) = true := by
      obtain ⟨c, hc, hc'⟩ := hon
      exact List.any_eq_true.2 ⟨c, List.mem_range.2 hc, hc'⟩
    refine .intro (served_ok (w := fun w => traceWrite w 0x3600 1 (.int 1)) h.serves ((traceWrite_owned h (.inl hown)).trans
      (if_neg (show ¬(!((s.trace.state = 0 ∨ s.trace.state = 4) ∧ (List.range 8).any (traceOn s) = true : Bool)) = true by simp [hst, hany]))))
      ⟨updTrace_only (s.touch n) fun _ => _, rfl, rfl, rfl, rfl⟩
  · have hany : (List.range 8).any (traceOn s) = false := by
      rw [List.any_eq_false]
      exact fun c hc => by simp [hoff c (List.mem_range.1 hc)]
    exact served_error (w := fun w => traceWrite w 0x3600 1 (.int 1)) h.serves ((traceWrite_owned h (.inl hown)).trans
      (if_pos (show (!((s.trace.state = 0 ∨ s.trace.state = 4) ∧ (List.range 8).any (traceOn s) = true : Bool)) = true by simp [hany])))
  · have hforce : traceForce s.trace = { s.trace with force := true } := if_pos hst
    exact congrArg (fun x : Trace => Except.ok { s.touch n with trace := x }) hforce
  · show ({ stopContinuous s.trace with owner := 0xFF } : Trace) = _
    rw [stopContinuous, if_neg hst]
  · rw [← readoutRefused_touch] at hok
    refine .intro (exec_readBlock h) ?_
    rw [readBlock_read hok, sess_upd (by simpa using h.2.1), readBlockBytes_touch]
    refine ⟨(touch_only s n).trans (updSess_only _ _ _), rfl, rfl, ?_⟩
    rw [← touch_win s n]
  · have href : readoutRefused (s.touch n) n = Abort.state := by
      rw [readoutRefused_touch]
      exact (if_neg fun hc => htr hc.1).trans (if_pos hst)
    rw [exec_readBlock h, readBlock_refused (by rw [href]; decide), href]

end Sys2Proof.Machine

/-! Proofs of the statements on the loop engine: contexts and their placement, and the commands of the functions (05). -/

namespace Sys2Proof.Machine

set_option Elab.async false

/-! ## Contexts and functions -/

theorem updCtx_only (s : State) (n : Nat) (f : LCtx → LCtx) : Only [.loop] s (s.updCtx n f) := updLoop_only s _

theorem updCtx_ctxAt_self {s : State} {n : Nat} (f : LCtx → LCtx) (h : n < s.loop.ctx.length) : (s.updCtx n f).ctxAt n = f (s.ctxAt n) :=
  getD_upd _ _ _ _ h

/-- A context that is enabled is one that the state holds. -/
theorem held_of_enabled {s : State} {n : Nat} (h : (s.ctxAt n).enabled = true) : n < s.loop.ctx.length :=
  getD_lt (p := fun x : LCtx => x.enabled = true) h (by decide)

/-! ## Placement (R124, R125) -/

/-- Every class period divides the 1,000 frames of the schedule. -/
theorem periodOf_dvd (s : State) (n : Nat) : 0 < periodOf s n ∧ periodOf s n ∣ 1000 := by
  unfold periodOf
  split <;> decide

theorem greatest_le {l : List Nat} {x : Nat} (h : x ∈ l) : x ≤ greatest l := by
  have hfold : ∀ (l : List Nat) (a : Nat), a ≤ l.foldl max a ∧ ∀ x ∈ l, x ≤ l.foldl max a := by
    intro l
    induction l with
    | nil => exact fun a => ⟨le_refl a, fun x hx => nomatch hx⟩
    | cons y l ih =>
      intro a
      obtain ⟨hstart, hrest⟩ := ih (max a y)
      refine ⟨(le_max_left a y).trans hstart, fun x hx => ?_⟩
      rcases List.mem_cons.1 hx with rfl | hx
      · exact (le_max_right a x).trans hstart
      · exact hrest x hx
  exact (hfold l 0).2 x h

/-- The load that a phase gives. -/
def loadAt (loads : List Nat) (per cost p : Nat) : Nat :=
  max (greatest loads) (greatest ((List.range (1000 / per)).map fun j => loads.getD (p + j * per) 0) + cost)

/-- A phase of the period beside the load that it gives. -/
def PhaseLoad (loads : List Nat) (per cost : Nat) (b : Nat × Nat) : Prop := b.1 < per ∧ b.2 = loadAt loads per cost b.1

/-- The best phase is one of the period's, and the load beside it is the one that it gives. -/
theorem bestPhase_spec (loads : List Nat) {per : Nat} (cost : Nat) (hper : 0 < per) : PhaseLoad loads per cost (bestPhase loads per cost) := by
  refine List.foldlRecOn (motive := PhaseLoad loads per cost) (b := (0, loadAt loads per cost 0)) _ _ ⟨hper, rfl⟩ fun b hb p hp => ?_
  split
  · exact ⟨List.mem_range.1 hp, rfl⟩
  · exact hb

theorem laneLoads_length (l : List (Nat × Nat × Nat)) : (laneLoads l).length = 1000 := by
  unfold laneLoads
  rw [List.length_map, List.length_range]

/-- The load of a phase bounds each of the 1,000 frames, the runs of the new context counted. -/
theorem loadAt_bounds {loads : List Nat} {per cost p f : Nat} (hlen : loads.length = 1000) (hdvd : per ∣ 1000) (hf : f < 1000) :
    loads.getD f 0 + (if f % per = p then cost else 0) ≤ loadAt loads per cost p := by
  by_cases hp : f % per = p
  · rw [if_pos hp]
    have hrun : f / per < 1000 / per := Nat.div_lt_div_of_lt_of_dvd hdvd hf
    have hmem : loads.getD f 0 ∈ (List.range (1000 / per)).map fun j => loads.getD (p + j * per) 0 := by
      refine List.mem_map.2 ⟨f / per, List.mem_range.2 hrun, ?_⟩
      rw [← hp, Nat.mul_comm, Nat.mod_add_div]
    exact (Nat.add_le_add_right (greatest_le hmem) cost).trans (le_max_right _ _)
  · rw [if_neg hp, Nat.add_zero]
    have hmem : loads.getD f 0 ∈ loads := by
      rw [List.getD_eq_getElem _ _ (hlen ▸ hf)]
      exact List.getElem_mem _
    exact (greatest_le hmem).trans (le_max_left _ _)

/-- Settles O28: the placement is a lane whose best phase stays within the 19,600 cycles. -/
theorem placementFits : Obligations.PlacementFits := by
  unfold Obligations.PlacementFits
  intro s n lane phase h
  obtain ⟨q, hq, hfits⟩ := List.exists_of_findSome?_eq_some h
  obtain ⟨l, -, rfl⟩ := List.mem_map.1 hq
  rw [Option.ite_none_right_eq_some] at hfits
  obtain ⟨hload, heq⟩ := hfits
  obtain ⟨rfl, rfl⟩ := Prod.mk.inj (Option.some.inj heq)
  obtain ⟨hper, hdvd⟩ := periodOf_dvd s n
  obtain ⟨hphase, hsame⟩ := bestPhase_spec (laneLoads (placed s l)) (runCost s n) hper
  refine ⟨hphase, fun f hf => ?_⟩
  exact (loadAt_bounds (laneLoads_length _) hdvd hf).trans (hsame ▸ hload)

/-! ## ContextEnable (R122) -/

section
variable {s : State} {k n : Nat} (hn : n < 128) {v : Int} (h : s.admits k (0x3000 + n) 1 (.int v))
include hn h

/-- An admitted write of ContextEnable is answered with what it makes of the context. -/
theorem exec_enable : sessionEnable k n v s = .next ((if v = 1 then enableContext n (s.touch k) else disableContext n (s.touch k)).2.updSess k
    fun x => { x with answer := (if v = 1 then enableContext n (s.touch k) else disableContext n (s.touch k)).1 }) := by
  obtain ⟨⟨hk, hopen, hreach⟩, hpre⟩ := h
  have hwrite : writeEnable (s.ctxOf k) n v (s.touch k) = if v = 1 then enableContext n (s.touch k) else disableContext n (s.touch k) :=
    if_neg (not_not.2 hpre)
  unfold sessionEnable
  rw [withUnit_next (by simp [hk, hn]), if_pos (by simp [hopen, hreach]), hwrite]

theorem exec_enable_ok {t : State} (hw : (if v = 1 then enableContext n (s.touch k) else disableContext n (s.touch k)) = (0, t)) :
    sessionEnable k n v s = .next (t.ack k) := by
  rw [exec_enable hn h, hw]
  rfl

theorem exec_enable_refused {t : State} {a : Nat} (hw : (if v = 1 then enableContext n (s.touch k) else disableContext n (s.touch k)) = (a, t)) :
    sessionEnable k n v s = .next (t.deny k a) := by
  rw [exec_enable hn h, hw]
  rfl
end

/-- A context that is configured of no disagreement and stands as enabled or not: what ContextEnable makes of it. -/
theorem enableContext_placed {s : State} {n : Nat} (hfn : s.nat (0x3000 + n) 2 ≠ 0xFF) (hconf : ctxConfigurable s n = true)
    (hagree : disagreeing s (s.nat (0x3000 + n) 2) = false) : enableContext n s =
      if (s.ctxAt n).enabled then (0, s)
      else if (scheduleCheck s n).1 ≠ 0 then (Abort.range, s.updCtx n fun x => { x with result := (scheduleCheck s n).1 })
      else (0, s.updCtx n fun x =>
        { x with enabled := true, lane := (scheduleCheck s n).2.1, phase := (scheduleCheck s n).2.2, cost := runCost s n, result := 0, mode := 1,
                 tracking := true, faultAct := false, u := 0, posOn := false, negOn := false, d := 0, map := mapOf s n, last := {},
                 comp := { x.comp with total := 0, runs := 0, eSum := 0, xPrev := none } }) :=
  (if_neg hfn).trans (if_neg (show ¬((!ctxConfigurable s n) = true ∨ disagreeing s (s.nat (0x3000 + n) 2) = true) by simp [hconf, hagree]))

/-- A context on which an enabled one depends is not disabled, be it configurable or not. -/
theorem disableContext_inner {s : State} {n : Nat} (hon : (s.ctxAt n).enabled = true)
    (hinner : ∃ m < 128, (s.ctxAt m).enabled = true ∧ outerOf s m = some n) : disableContext n s = (Abort.state, s) := by
  have hsome : (indices 128 fun m => (s.ctxAt m).enabled && outerOf s m == some n) ≠ [] := by
    obtain ⟨m, hm, hmon, hout⟩ := hinner
    exact List.ne_nil_of_mem (List.mem_filter.2 ⟨List.mem_range.2 hm, by simp [hmon, hout]⟩)
  unfold disableContext
  by_cases hconf : (!ctxConfigurable s n) = true
  · rw [if_pos hconf]
  · rw [if_neg hconf, if_neg (by simp [hon]), if_pos hsome]

/-- A context without inner ones and without a swap that waits leaves its lane. -/
theorem disableContext_free {s : State} {n : Nat} (hon : (s.ctxAt n).enabled = true) (hconf : ctxConfigurable s n = true)
    (hinner : ∀ m < 128, (s.ctxAt m).enabled = true → outerOf s m ≠ some n) (hswap : (s.ctxAt n).swap = false) :
    disableContext n s = (0, (clearDests s n).updCtx n fun _ =>
      { s.ctxAt n with enabled := false, lane := 0xFF, phase := 0, cost := 0, tracking := false, posOn := false, negOn := false }) := by
  have hnone : (indices 128 fun m => (s.ctxAt m).enabled && outerOf s m == some n) = [] := by
    refine List.filter_eq_nil_iff.2 fun m hm hboth => ?_
    rw [Bool.and_eq_true, beq_iff_eq] at hboth
    exact hinner m (List.mem_range.1 hm) hboth.1 hboth.2
  unfold disableContext
  rw [if_neg (by simp [hconf]), if_neg (by simp [hon]), if_neg (not_not.2 hnone)]
  simp [hswap]

/-! ## Coefficient sets and swaps (R139, R140) -/

section
variable {s : State} {k n : Nat}

/-- An admitted write of a coefficient set is refused to a context that runs with it or waits to. -/
theorem exec_coefSetWrite {set : Nat} {b : Bytes} (hn : n < 128) (hset : set < 2) (h : s.admits k (0x3000 + n) (0x10 + set) (.bytes b))
    (hok : coefOk b = true) : exec (.coefSetWrite k n set b) s = .next ((s.touch k).answer k
      (if (s.ctxAt n).enabled = true ∧ ((s.ctxAt n).swap = true ∨ (s.ctxAt n).active + 0x10 = 0x10 + set) then .error Abort.state
       else .ok ((s.touch k).put (0x3000 + n) (0x10 + set) (.bytes b)))) := by
  refine guarded_next (p := n < 128 ∧ set < 2) ⟨hn, hset⟩ ((session_ok h _).trans (congrArg (fun e => Host.Outcome.next ((s.touch k).answer k e)) ?_))
  refine (if_pos (by omega)).trans ((if_neg (show ¬(!coefOk b) = true by simp [hok])).trans ?_)
  rw [show ctxObj n - 0x3000 = n from Nat.add_sub_cancel_left ..]
  rfl

/-- An admitted SwapRequest is carried out on its context. -/
theorem exec_swapRequest {v : Int} (hn : n < 128) (h : s.admits k (0x3000 + n) 0x13 (.int v)) :
    exec (.swapRequest k n v) s = .next ((s.touch k).answer k (swapRequest n (s.touch k))) := by
  refine guarded_next hn ((session_ok h _).trans (congrArg (fun e => Host.Outcome.next ((s.touch k).answer k e)) ?_))
  refine (if_neg (by omega)).trans ((if_pos rfl).trans ?_)
  rw [show ctxObj n - 0x3000 = n from Nat.add_sub_cancel_left ..]
end

/-- Settles O27: ContextEnable as `enableContext_placed` and `disableContext_free` say, the writes by their branches. -/
theorem contextCommands : Obligations.ContextCommands := by
  unfold Obligations.ContextCommands
  refine ⟨fun s k n hn h hoff hfn hconf hagree => ⟨fun hok => ?_, fun hbad => ?_⟩, fun s k n hn h hon hfn hconf hagree => ?_,
    fun s k n hn h hfn => exec_enable_refused hn h ((if_pos rfl).trans (if_pos hfn)), fun s k n hn h hfn hconf => ?_,
    fun s k n hn h hon hconf hinner hswap => ?_,
    fun s k n hn h hon hinner => ?_, fun s k n set b hn hset h hok hfree => ?_, fun s k n set b hn hset h hok hon hact => ?_,
    fun s k n hn h hswap hon => ?_, fun s k n hn h hswap => ?_⟩
  · exact exec_enable_ok hn h ((if_pos rfl).trans ((enableContext_placed (s := s.touch k) hfn hconf hagree).trans
      ((if_neg (Bool.eq_false_iff.1 hoff)).trans (if_neg (not_not.2 hok)))))
  · exact exec_enable_refused hn h ((if_pos rfl).trans ((enableContext_placed (s := s.touch k) hfn hconf hagree).trans
      ((if_neg (Bool.eq_false_iff.1 hoff)).trans (if_pos hbad))))
  · exact exec_enable_ok hn h ((if_pos rfl).trans ((enableContext_placed (s := s.touch k) hfn hconf hagree).trans (if_pos hon)))
  · have hnot : (!ctxConfigurable (s.touch k) n) = true := congrArg Bool.not hconf
    exact exec_enable_refused hn h ((if_pos rfl).trans ((if_neg hfn).trans (if_pos (.inl hnot))))
  · refine .intro (exec_enable_ok hn h ((if_neg (by decide)).trans (disableContext_free (s := s.touch k) hon hconf hinner hswap)))
      ⟨(updLoop_only _ _).trans (updCtx_only _ _ _), updCtx_ctxAt_self (s := clearDests (s.touch k) n) _ (held_of_enabled hon)⟩
  · exact exec_enable_refused hn h ((if_neg (by decide)).trans (disableContext_inner (s := s.touch k) hon hinner))
  · rw [exec_coefSetWrite hn hset h hok, if_neg ?_]
    · rfl
    · rcases hfree with hoff | ⟨hswap, hact⟩
      · simp [hoff]
      · simp [hswap]
        omega
  · rw [exec_coefSetWrite hn hset h hok, if_pos ⟨hon, .inr (by omega)⟩]
    rfl
  · exact (exec_swapRequest hn h).trans (congrArg Host.Outcome.next (answer_ok ((if_neg (Bool.eq_false_iff.1 hswap)).trans (if_pos hon))))
  · exact (exec_swapRequest hn h).trans (congrArg Host.Outcome.next (answer_error (if_pos hswap)))

/-! ## Functions (R136–R148) -/

theorem updFn_only (s : State) (f : Nat) (g : Fn → Fn) : Only [.loop] s (s.updFn f g) := updLoop_only s _

theorem updFn_fnOf_self {s : State} {f : Nat} (g : Fn → Fn) (h : f < s.loop.fn.length) : (s.updFn f g).fnOf f = g (s.fnOf f) := getD_upd _ _ _ _ h

/-- A session's write to a function that the loop engine carries out, or refuses. -/
theorem fnCommand_ok {s t : State} {k f sub : Nat} {v : Int} (hf : f < 48) (h : s.admits k (0x2800 + f) sub (.int v))
    (hw : fnWrite (s.ctxOf k) (0x2800 + f) sub (.int v) (s.touch k) = .ok t) : fnCommand k f sub v s = .next (t.ack k) :=
  guarded_next hf (served_ok (w := fun w => fnWrite w (0x2800 + f) sub (.int v)) h.serves hw)

theorem fnCommand_refused {s : State} {k f sub a : Nat} {v : Int} (hf : f < 48) (h : s.admits k (0x2800 + f) sub (.int v))
    (hw : fnWrite (s.ctxOf k) (0x2800 + f) sub (.int v) (s.touch k) = .error a) : fnCommand k f sub v s = .next ((s.touch k).deny k a) :=
  guarded_next hf (served_error (w := fun w => fnWrite w (0x2800 + f) sub (.int v)) h.serves hw)

section
variable {s : State} {w : Ctx} {f : Nat} {v : Int}

theorem fnWrite_mode (h : preCheck w (0x2800 + f) 1 (.int v) = 0) : fnWrite w (0x2800 + f) 1 (.int v) s = writeMode f v s := by
  refine (if_pos h).trans ((if_pos rfl).trans ?_)
  rw [Nat.add_sub_cancel_left]
  rfl

theorem fnWrite_setpoint (h : preCheck w (0x2800 + f) 3 (.int v) = 0) (hfn : f ≠ s.steerFn) : fnWrite w (0x2800 + f) 3 (.int v) s =
    if v < s.int (0x2800 + f) 4 ∨ s.int (0x2800 + f) 5 < v then .error Abort.range
    else if 2 ≤ s.nat (0x2800 + f) 8 then .error Abort.state
    else .ok ((if v = (s.fnOf f).c then s.optForeign f else s.optChange f false false).updFn f fun x => { x with c := v }) := by
  refine (if_pos h).trans ((if_neg (by omega)).trans ((if_neg (by omega)).trans ((if_neg (by omega)).trans ((if_pos rfl).trans ?_))))
  rw [Nat.add_sub_cancel_left]
  rfl

theorem fnWrite_limits {sub : Nat} (h : preCheck w (0x2800 + f) sub (.int v) = 0)
    (hfits : sub = 4 ∧ v < s.int (0x2800 + f) 5 ∨ sub = 5 ∧ s.int (0x2800 + f) 4 < v) :
    fnWrite w (0x2800 + f) sub (.int v) s = .ok (s.put (0x2800 + f) sub (.int v)) := by
  have hok : ¬((sub = 4 ∧ s.int (0x2800 + f) 5 ≤ v) ∨ (sub = 5 ∧ v ≤ s.int (0x2800 + f) 4)) := by omega
  exact (if_pos h).trans ((if_neg (by omega)).trans ((if_neg (by omega)).trans ((if_neg (by omega)).trans ((if_neg (by omega)).trans
    ((if_neg hok).trans ((if_neg (by omega)).trans ((if_neg (by omega)).trans ((if_neg (by omega)).trans (if_neg (by omega))))))))))

/-- A source that fits is stored, unless the function moves. -/
theorem fnWrite_source {sub : Nat} (h : preCheck w (0x2800 + f) sub (.int v) = 0) (hsub : sub = 8 ∨ sub = 9) (hfn : sub = 8 → f ≠ s.steerFn)
    (hfits : sub = 8 ∧ sourceFits v (s.int (0x2800 + f) 9) = true ∨ sub = 9 ∧ sourceFits (s.int (0x2800 + f) 8) v = true) :
    fnWrite w (0x2800 + f) sub (.int v) s =
      if !(s.configurable || (s.fnOf f).mode == 1 || (s.fnOf f).mode == 3) then .error Abort.state else .ok (s.put (0x2800 + f) sub (.int v)) := by
  have hok : ¬((sub = 8 ∧ (!sourceFits v (s.int (0x2800 + f) 9)) = true) ∨ (sub = 9 ∧ (!sourceFits (s.int (0x2800 + f) 8) v) = true)) := by
    rcases hfits with ⟨rfl, hv⟩ | ⟨rfl, hv⟩ <;> simp [hv]
  refine (if_pos h).trans ((if_neg (by omega)).trans ((if_neg (by omega)).trans ((if_neg (by omega)).trans ((if_neg (by omega)).trans
    ((if_neg (by omega)).trans ((if_neg hok).trans ?_))))))
  rw [Nat.add_sub_cancel_left]
  by_cases hquiet : (!(s.configurable || (s.fnOf f).mode == 1 || (s.fnOf f).mode == 3)) = true
  · rw [if_pos ⟨hsub, hquiet⟩, if_pos hquiet]
  · rw [if_neg fun hd => hquiet hd.2, if_neg hquiet, if_neg (by omega), if_neg (by omega)]

theorem fnWrite_manual (h : preCheck w (0x2800 + f) 0xB (.int v) = 0) : fnWrite w (0x2800 + f) 0xB (.int v) s = .ok (s.updFn f fun x =>
    { x with manual := v, atSafe := x.atSafe && (x.forced || !(s.pw.dev == .run || s.pw.dev == .service)),
             safeOff := x.safeOff && (x.forced || !(s.pw.dev == .run || s.pw.dev == .service)), still := false }) := by
  refine (if_pos h).trans ((if_neg (by omega)).trans ((if_neg (by omega)).trans ((if_neg (by omega)).trans ((if_neg (by omega)).trans
    ((if_neg (by omega)).trans ((if_neg (by omega)).trans ((if_neg (by omega)).trans ((if_pos rfl).trans ?_))))))))
  rw [Nat.add_sub_cancel_left]
  rfl

theorem fnWrite_command (h : preCheck w (0x2800 + f) 0x13 (.int v) = 0) : fnWrite w (0x2800 + f) 0x13 (.int v) s = clearForced f s := by
  refine (if_pos h).trans ((if_neg (by omega)).trans ((if_neg (by omega)).trans ((if_neg (by omega)).trans ((if_neg (by omega)).trans
    ((if_neg (by omega)).trans ((if_neg (by omega)).trans ((if_neg (by omega)).trans ((if_neg (by omega)).trans ((if_pos rfl).trans ?_)))))))))
  rw [Nat.add_sub_cancel_left]

/-- A mode is written to a function that is not the steering one, in Run and Service, and as Auto only where R141 allows it. -/
theorem writeMode_next (hdev : s.pw.dev = .run ∨ s.pw.dev = .service) (hfn : f ≠ s.steerFn) (hauto : v = 2 → autoRefused s f = false) :
    writeMode f v s = .ok ((s.optChange f false true).updFn f fun x =>
      { x with next := some v.toNat, safe := false, atSafe := x.atSafe && x.forced, safeOff := x.safeOff && x.forced, still := false }) :=
  (if_neg (fun hd => hdev.elim hd.1 hd.2)).trans ((if_neg fun hd => hfn hd.2).trans
    ((if_neg fun hd => Bool.eq_false_iff.1 (hauto hd.1) hd.2).trans (if_neg fun hd => hfn hd.1)))

/-- Auto is refused to the steering function, and where R141 refuses it. -/
theorem writeMode_auto_refused (h : f = s.steerFn ∨ autoRefused s f = true) : writeMode f 2 s = .error Abort.state := by
  unfold writeMode
  split
  · rfl
  · split
    · rfl
    next hfn => exact if_pos ⟨rfl, h.resolve_left fun he => hfn ⟨by decide, he⟩⟩

/-- FunctionCommand 0x01 of a forced function whose sequencers have agreed for 1,000 frames. -/
theorem clearForced_agreed (hforced : (s.fnOf f).forced = true) (heng : (s.fnOf f).engineFault = false) (hagree : 1000 ≤ (s.fnOf f).agreed) :
    ∃ t, clearForced f s = .ok t ∧ Only [.loop] s t ∧ (t.fnOf f).forced = false ∧
      ∀ n, s.nat (0x3000 + n) 2 = f → (t.ctxAt n).mismatch = false := by
  refine ⟨_, (if_neg (Bool.eq_false_iff.1 heng)).trans ((if_neg (by simp [hforced])).trans (if_neg (Nat.not_lt.2 hagree))),
    (updFn_only _ _ _).trans (updLoop_only _ _), ?_, fun n hn => ?_⟩
  · have hlen : f < s.loop.fn.length := getD_lt (p := fun x : Fn => x.forced = true) hforced (by decide)
    exact congrArg Fn.forced (updFn_fnOf_self (fun y => { y with forced := false, atSafe := y.atSafe && y.safe, safeOff := y.safeOff && y.safe }) hlen)
  · show ((s.loop.ctx.mapIdx fun n c => if s.nat (0x3000 + n) 2 = f then { c with mismatch := false } else c).getD n {}).mismatch = false
    rw [List.getD_eq_getElem?_getD, List.getElem?_mapIdx]
    cases s.loop.ctx[n]? with
    | none => rfl
    | some c => exact congrArg LCtx.mismatch (if_pos hn)
end

/-- Settles O29: each write as the lemma of its sub-index says. -/
theorem functionCommands : Obligations.FunctionCommands := by
  unfold Obligations.FunctionCommands
  refine ⟨fun s k f hf h hdev hfn => ?_, fun s k f hf h hdev hfn heng => ?_, fun s k f hf h hdev hfn hauto => ?_, fun s k f hf h hno => ?_,
    fun s k f hf h hdev hfn => ?_, fun s k f v hf h hfn hlo hhi hsrc => ?_, fun s k f v hf h hfn hout => ?_, fun s k f v hf h hv => ?_,
    fun s k f v hf h hv => ?_, fun s k f v hf h hfn hfits hconf => ?_, fun s k f v hf h hfits hconf hmode => ?_,
    fun s k f v hf h hdev => ?_, fun s k f v hf h hrun hservice => ?_, fun s k f hf h hforced heng => ⟨fun hagree => ?_, fun hagree => ?_⟩⟩
  · exact fnCommand_ok hf h ((fnWrite_mode h.2).trans (writeMode_next (s := s.touch k) hdev hfn fun hv => nomatch hv))
  · refine fnCommand_ok hf h ((fnWrite_mode h.2).trans ?_)
    exact (if_neg (fun hd => hdev.elim hd.1 hd.2)).trans ((if_neg fun hd => hd.1 rfl).trans ((if_neg fun hd => nomatch hd.1).trans (if_pos ⟨hfn, heng⟩)))
  · exact fnCommand_ok hf h ((fnWrite_mode h.2).trans (writeMode_next (s := s.touch k) hdev hfn fun _ => hauto))
  · exact fnCommand_refused hf h ((fnWrite_mode h.2).trans (writeMode_auto_refused (s := s.touch k) hno))
  · exact fnCommand_ok hf h ((fnWrite_mode h.2).trans (writeMode_next (s := s.touch k) hdev hfn fun hv => nomatch hv))
  · exact fnCommand_ok hf h ((fnWrite_setpoint (s := s.touch k) h.2 hfn).trans ((if_neg (by rintro (hl | hr); exacts [absurd hlo (not_le.2 hl), absurd hhi (not_le.2 hr)])).trans
      (if_neg (Nat.not_le.2 hsrc))))
  · exact fnCommand_refused hf h ((fnWrite_setpoint (s := s.touch k) h.2 hfn).trans (if_pos hout))
  · exact fnCommand_ok hf h (fnWrite_limits (s := s.touch k) h.2 (.inl ⟨rfl, hv⟩))
  · exact fnCommand_ok hf h (fnWrite_limits (s := s.touch k) h.2 (.inr ⟨rfl, hv⟩))
  · have hquiet : ¬(!((s.touch k).configurable || ((s.touch k).fnOf f).mode == 1 || ((s.touch k).fnOf f).mode == 3)) = true := by
      rw [show (s.touch k).configurable = true from hconf]
      simp
    exact fnCommand_ok hf h ((fnWrite_source (s := s.touch k) h.2 (.inl rfl) (fun _ => hfn) (.inl ⟨rfl, hfits⟩)).trans (if_neg hquiet))
  · have hbusy : (!((s.touch k).configurable || ((s.touch k).fnOf f).mode == 1 || ((s.touch k).fnOf f).mode == 3)) = true := by
      rw [show (s.touch k).configurable = false from hconf, show ((s.touch k).fnOf f).mode = 2 from hmode]
      rfl
    exact fnCommand_refused hf h ((fnWrite_source (s := s.touch k) h.2 (.inr rfl) (fun he => nomatch he) (.inr ⟨rfl, hfits⟩)).trans (if_pos hbusy))
  · refine (fnCommand_ok hf h (fnWrite_manual (s := s.touch k) h.2)).trans ?_
    have hd : ((s.touch k).pw.dev == .run || (s.touch k).pw.dev == .service) = true := by simpa using hdev
    simp only [hd, Bool.not_true, Bool.or_false]
  · refine (fnCommand_ok hf h (fnWrite_manual (s := s.touch k) h.2)).trans ?_
    have hd : ((s.touch k).pw.dev == .run || (s.touch k).pw.dev == .service) = false := by simp [hrun, hservice]
    simp only [hd, Bool.not_false, Bool.or_true, Bool.and_true]
  · obtain ⟨t, ht, honly, hclear, hmatch⟩ := clearForced_agreed (s := s.touch k) hforced heng hagree
    exact .intro (fnCommand_ok hf h ((fnWrite_command h.2).trans ht)) ⟨honly, hclear, fun n _ => hmatch n⟩
  · have hno : ¬(!((s.touch k).fnOf f).forced) = true := by rw [show ((s.touch k).fnOf f).forced = true from hforced]; decide
    exact fnCommand_refused hf h ((fnWrite_command h.2).trans ((if_neg (Bool.eq_false_iff.1 heng)).trans ((if_neg hno).trans (if_pos hagree))))

end Sys2Proof.Machine

/-! Proofs of the statements on steering: withdrawal, engagement, lines, turns and the crop edge (08). -/

namespace Sys2Proof.Machine

set_option Elab.async false

/-! ## Disengagement (R196) -/

theorem manualZero_only (f : Nat) (s : State) : Only [.loop] s (manualZero f s) := (updFn_only _ _ _).trans (updLoop_only _ _)

theorem disengage_idle {s : State} (reason engine : Nat) (h : s.steer.engaged = false) : disengage reason engine s = s :=
  if_pos (by simp [h])

theorem disengage_only (reason engine : Nat) (s : State) : Only [.flow, .upd, .loop, .steer] s (disengage reason engine s) :=
  .ite (.refl _ _) ((((record_only _ _).mono (by decide)).next (manualZero_only _ _)).next (updSteer_only _ _))

/-- What the disengagement of an engaged steering leaves of it. -/
theorem disengage_steer {s : State} (reason engine : Nat) (h : s.steer.engaged = true) : (disengage reason engine s).steer =
    { s.steer with engaged := false, enable := false, mode := 0, goal := 0, alpha := 0, integ := [0, 0, 0], reason := reason, coast := none,
                   conds := s.steer.conds.filter fun c => c != 5 && c != 7,
                   guide := { s.steer.guide with turn := if s.steer.guide.turn = 3 then 3 else 0, turnPath := [], heldAt := none } } := by
  unfold disengage
  rw [if_neg (by simp [h])]
  have hsteer : (manualZero (s.record (disengageRecord s reason engine)).steerFn (s.record (disengageRecord s reason engine))).steer = s.steer :=
    (manualZero_only _ _).steer.trans (record_only _ _).steer
  exact congrArg (fun x : Steer => { x with
    engaged := false, enable := false, mode := 0, goal := 0, alpha := 0, integ := [0, 0, 0], reason := reason, coast := none,
    conds := x.conds.filter fun c => c != 5 && c != 7,
    guide := { x.guide with turn := if x.guide.turn = 3 then 3 else 0, turnPath := [], heldAt := none } }) hsteer

/-- The function of an update of the loop engine's contexts stands. -/
theorem manualZero_fnOf {f : Nat} {s : State} (h : f < s.loop.fn.length) :
    ((manualZero f s).fnOf f).mode = 1 ∧ ((manualZero f s).fnOf f).manual = 0 := by
  have hself : (manualZero f s).fnOf f = { s.fnOf f with mode := 1, next := none, manual := 0 } :=
    updFn_fnOf_self (fun x => { x with mode := 1, next := none, manual := 0 }) h
  rw [hself]
  exact ⟨rfl, rfl⟩

theorem disengage_loop {s : State} (reason engine : Nat) (h : s.steer.engaged = true) :
    (disengage reason engine s).loop = (manualZero s.steerFn (s.record (disengageRecord s reason engine))).loop := by
  have hfn : (s.record (disengageRecord s reason engine)).steerFn = s.steerFn := (record_only _ _).nat (by decide) _ _
  unfold disengage
  rw [if_neg (by simp [h])]
  exact congrArg (fun f => (manualZero f (s.record (disengageRecord s reason engine))).loop) hfn

theorem disengage_recorded {s : State} (reason engine : Nat) (h : s.steer.engaged = true) :
    Recorded (disengageRecord s reason engine) s (disengage reason engine s) := by
  refine (Recorded.self s (disengageRecord s reason engine)).of_flow ?_
  unfold disengage
  rw [if_neg (by simp [h])]
  exact (manualZero_only (s.record (disengageRecord s reason engine)).steerFn (s.record (disengageRecord s reason engine))).flow

/-- An engaged steering is disengaged; an update of steering that keeps what Table 08-3 says keeps that. -/
theorem disengaged_of_steer {s t : State} {reason engine : Nat} (h : s.steer.engaged = true) (f : Steer → Steer)
    (ht : t = (disengage reason engine s).updSteer f)
    (hf : ∀ x, (f x).engaged = x.engaged ∧ (f x).mode = x.mode ∧ (f x).goal = x.goal ∧ (f x).reason = x.reason ∧ (f x).coast = x.coast ∧
      (f x).integ = x.integ ∧ (f x).guide = x.guide ∧ (x.enable = false → (f x).enable = false)) : Disengaged reason engine s t := by
  obtain ⟨hengaged, hmode, hgoal, hreason, hcoast, hinteg, hguide, henable⟩ := hf (disengage reason engine s).steer
  have hsteer := disengage_steer reason engine h
  have hturn : t.steer.guide.turn = if s.steer.guide.turn = 3 then 3 else 0 := by
    rw [ht]
    exact (congrArg Guide.turn hguide).trans (congrArg (fun x : Steer => x.guide.turn) hsteer)
  subst ht
  refine ⟨hengaged.trans (congrArg Steer.engaged hsteer), henable (congrArg Steer.enable hsteer), hmode.trans (congrArg Steer.mode hsteer),
    hgoal.trans (congrArg Steer.goal hsteer), hreason.trans (congrArg Steer.reason hsteer), hcoast.trans (congrArg Steer.coast hsteer),
    hinteg.trans (congrArg Steer.integ hsteer), ?_, ?_, fun hlen => ?_, (disengage_recorded reason engine h).of_flow rfl⟩
  · rw [hturn]
    split <;> decide
  · rw [hturn]
    split <;> decide
  · have hrec : Only [.flow, .upd] s (s.record (disengageRecord s reason engine)) := record_only _ _
    have hlen' : s.steerFn < (s.record (disengageRecord s reason engine)).loop.fn.length := by rwa [hrec.loop]
    have hfn : ((disengage reason engine s).updSteer f).fnOf s.steerFn =
        (manualZero s.steerFn (s.record (disengageRecord s reason engine))).fnOf s.steerFn :=
      congrArg (fun l : LoopSt => l.fn.getD s.steerFn {}) (disengage_loop reason engine h)
    rw [hfn]
    exact manualZero_fnOf hlen'

theorem disengage_disengaged {s : State} (reason engine : Nat) (h : s.steer.engaged = true) : Disengaged reason engine s (disengage reason engine s) :=
  disengaged_of_steer h id rfl fun _ => ⟨rfl, rfl, rfl, rfl, rfl, rfl, rfl, id⟩

/-! ## Column-A (R195, Table 08-3) -/

theorem disengage_engaged (reason engine : Nat) (s : State) : (disengage reason engine s).steer.engaged = false := by
  cases h : s.steer.engaged with
  | false => rwa [disengage_idle _ _ h]
  | true => exact congrArg Steer.engaged (disengage_steer reason engine h)

theorem takeover_only (s : State) : Only [.flow, .upd, .loop, .steer] s (takeover s) := (disengage_only _ _ _).next (updSteer_only _ _)

theorem takeoverCount_disengage (reason engine : Nat) (s : State) : (disengage reason engine s).steer.takeoverCount = s.steer.takeoverCount := by
  cases h : s.steer.engaged with
  | false => rw [disengage_idle _ _ h]
  | true => exact (congrArg Steer.takeoverCount (disengage_steer reason engine h) :)

theorem withdraw_only (r : Nat) (s : State) : Only [.flow, .upd, .loop, .steer] s (withdraw r s) := (disengage_only _ _ _).next (updSteer_only _ _)

theorem withdraw_disengaged {s : State} (r : Nat) (h : s.steer.engaged = true) : Disengaged r 2 s (withdraw r s) :=
  disengaged_of_steer h _ rfl fun _ => ⟨rfl, rfl, rfl, rfl, rfl, rfl, rfl, fun _ => rfl⟩

/-- A condition that Column-A holds against new engagements. -/
theorem withdraw_held {r : Nat} (s : State) (h : r ≠ 5 ∧ r ≠ 7) : r ∈ (withdraw r s).steer.conds := by
  show r ∈ if r = 5 ∨ r = 7 then _ else r :: _
  rw [if_neg (not_or.2 h)]
  exact List.mem_cons_self

/-- A condition that has lasted its time withdraws the enable. -/
theorem checkCond_runs {s : State} {r : Nat} {c : Instr} (hc : exec c s = .next (checkCond s r)) (hr : s.reachable = true)
    (hmet : condMet s r = true) {P : State → Prop} (hP : P (withdraw r s)) : Runs c s [.flow, .upd, .loop, .steer] P :=
  .intro (hc.trans (congrArg Host.Outcome.next (if_pos ⟨hr, hmet⟩))) ⟨withdraw_only r s, hP⟩

theorem checkCond_none {s : State} {r : Nat} (h : condMet s r = false) : checkCond s r = s := if_neg fun hc => Bool.eq_false_iff.1 h hc.2

/-- The conditions 5 and 7 are present only while steering is engaged. -/
theorem engaged_of_condMet {s : State} {r : Nat} (hr : r = 5 ∨ r = 7) (h : condMet s r = true) : s.steer.engaged = true := by
  have hpresent : present s r = true := by
    unfold condMet at h
    rw [if_neg (by omega), Bool.and_eq_true] at h
    exact h.1
  rcases hr with rfl | rfl <;> simp only [present, Bool.and_eq_true] at hpresent
  · exact hpresent.1.1
  · exact hpresent.1

theorem takeoverOver_iff (s : State) : takeoverOver s = true ↔ s.steer.takeoverAt + 1000000000 ≤ s.tm.mono := by
  unfold takeoverOver
  exact decide_eq_true_iff

theorem coastUsed_of {s : State} {c : Nat × Int} (hcoast : s.steer.coast = some c)
    (h : c.1 + s.nat 0x3C00 0x1B * 1000000 ≤ s.tm.mono ∨ s.nat 0x3C00 0x1C * 100 * 65536 ≤ ((s.stOf 0).travel - c.2).natAbs) :
    coastUsed s = true := by
  unfold coastUsed
  rw [hcoast, Option.any_some, Bool.or_eq_true, decide_eq_true_iff, decide_eq_true_iff]
  exact h

/-- Settles O31: each withdrawal is a disengagement beside what Column-A notes of it. -/
theorem steeringWithdrawal : Obligations.SteeringWithdrawal := by
  unfold Obligations.SteeringWithdrawal
  refine ⟨fun s r hlo hhi heng => ?_, fun s r hlo hhi heng => ?_, fun s stamp hr hnow => ?_, fun s stamp hno => ?_, fun s hover => ?_,
    fun s hnot => ?_, fun s hr hmet => ?_, fun s hr hmet => ?_, fun s hr hmet => ?_, fun s hr hmet => ?_, fun s hr hmet => ?_,
    fun s => ⟨fun h => ?_, fun h => ?_, fun h => ?_, fun h => ?_, fun h => ?_⟩, fun s c hr heng hcoast hused => ?_⟩
  · exact .intro (withUnit_next (by simp [hlo, hhi])) ⟨disengage_only _ _ _, disengage_disengaged _ _ heng⟩
  · exact (withUnit_next (by simp [hlo, hhi])).trans (congrArg Host.Outcome.next (disengage_idle _ _ heng))
  · exact .intro (congrArg Host.Outcome.next (if_pos ⟨hr, hnow⟩)) ⟨takeover_only s, disengage_engaged _ _ _, rfl, rfl, rfl,
      congrArg inc32 (takeoverCount_disengage _ _ _), fun heng => disengaged_of_steer heng _ rfl fun _ => ⟨rfl, rfl, rfl, rfl, rfl, rfl, rfl, fun _ => rfl⟩⟩
  · exact congrArg Host.Outcome.next (if_neg fun hc => Bool.eq_false_iff.1 hno hc.2)
  · exact .intro (congrArg Host.Outcome.next (if_pos ((takeoverOver_iff s).2 hover))) ⟨updSteer_only _ _, rfl⟩
  · exact congrArg Host.Outcome.next (if_neg (mt (takeoverOver_iff s).1 (Nat.not_le.2 hnot)))
  · exact checkCond_runs rfl hr hmet ⟨disengage_engaged _ _ _, rfl, withdraw_held s (by decide), withdraw_disengaged 3⟩
  · exact checkCond_runs rfl hr hmet ⟨disengage_engaged _ _ _, rfl, withdraw_held s (by decide), withdraw_disengaged 4⟩
  · exact checkCond_runs rfl hr hmet (withdraw_disengaged 5 (engaged_of_condMet (.inl rfl) hmet))
  · exact checkCond_runs rfl hr hmet ⟨disengage_engaged _ _ _, rfl, withdraw_held s (by decide), withdraw_disengaged 6⟩
  · exact checkCond_runs rfl hr hmet (withdraw_disengaged 7 (engaged_of_condMet (.inr rfl) hmet))
  · exact congrArg Host.Outcome.next (checkCond_none h)
  · exact congrArg Host.Outcome.next (checkCond_none h)
  · exact congrArg Host.Outcome.next (checkCond_none h)
  · exact congrArg Host.Outcome.next (checkCond_none h)
  · exact congrArg Host.Outcome.next (checkCond_none h)
  · refine .intro (congrArg Host.Outcome.next (if_pos ?_)) ⟨disengage_only _ _ _, disengage_disengaged _ _ heng⟩
    exact coastUsed_of hcoast hused

/-! ## Engagement (R201) -/

/-- What the Gallery gives a request is steering's. -/
theorem forRequest_only (s : State) (b : Nat) : Only [.steer] s (forRequest s b) := by
  unfold forRequest fillWindow
  split
  · split
    · exact (updSteer_only _ _).trans (updSteer_only _ _)
    · exact ((updSteer_only _ _).trans (updSteer_only _ _)).trans (updSteer_only _ _)
  · exact .refl _ _

/-- Of steering, t differs from s in the guidance alone. -/
def Guided (s t : State) : Prop := ∃ g, t.steer = { s.steer with guide := g }

theorem Guided.refl (s : State) : Guided s s := ⟨_, rfl⟩

theorem Guided.trans {s t u : State} (h : Guided s t) (k : Guided t u) : Guided s u := by
  obtain ⟨g, hg⟩ := h
  obtain ⟨g', hg'⟩ := k
  exact ⟨g', by rw [hg', hg]⟩

theorem updSteer_guided (s : State) (g : Steer → Guide) : Guided s (s.updSteer fun x => { x with guide := g x }) := ⟨_, rfl⟩

theorem fillWindow_guided (s : State) : Guided s (fillWindow s) := by
  unfold fillWindow
  split
  · exact updSteer_guided _ _
  · exact (updSteer_guided _ _).trans (updSteer_guided _ _)

theorem forRequest_guided (s : State) (b : Nat) : Guided s (forRequest s b) := by
  unfold forRequest
  split
  · exact (updSteer_guided _ _).trans (fillWindow_guided _)
  · exact .refl _

/-- The Gallery reads nothing of a session. -/
theorem fillWindow_touch (s : State) (k : Nat) : fillWindow (s.touch k) = (fillWindow s).touch k := by
  unfold fillWindow
  by_cases hturn : s.steer.guide.turn = 2
  · rw [if_pos hturn, if_pos (show (s.touch k).steer.guide.turn = 2 from hturn)]
    rfl
  · rw [if_neg hturn, if_neg (show ¬(s.touch k).steer.guide.turn = 2 from hturn)]
    rfl

theorem forRequest_touch (s : State) (k b : Nat) : forRequest (s.touch k) b = (forRequest s b).touch k := by
  unfold forRequest
  by_cases hb : b = 1 ∧ s.steer.mode ≠ 1
  · rw [if_pos hb, if_pos (show b = 1 ∧ (s.touch k).steer.mode ≠ 1 from hb)]
    exact fillWindow_touch (s.updSteer fun x => { x with guide := { x.guide with activePass := nearestPass s (guidedPoint s) } }) k
  · rw [if_neg hb, if_neg (show ¬(b = 1 ∧ (s.touch k).steer.mode ≠ 1) from hb)]

/-- A whole number rounds to itself. -/
theorem halfUp_intCast (x : Int) : halfUp x = x := by
  unfold halfUp divHalfUp
  simp only [Rat.num_intCast, Rat.den_intCast]
  omega

/-- The demand of a request at its error inputs, 0 where the mode has none. -/
def requestDemand (r : State) (b : Nat) : Rat := match modeInput r b with | some e => demandWith r e 0 | none => 0

/-- A request while steering is not engaged: accepted where no code refuses it, else recorded with the code. -/
theorem steerRequest_idle {s : State} {b : Nat} (hb : b = s.nat 0x3C10 1) (h : s.steer.engaged = false) : steerRequest s =
    match (refusal (forRequest s b) b).or
      (if (s.nat 0x3C00 0x11 : Rat) < (requestDemand (forRequest s b) b - ((wheelAngle s 1).1 : Rat)).abs then some 0x10 else none) with
    | none => accept (forRequest s b) b (requestDemand (forRequest s b) b) (wheelAngle s 1).1
    | some c => (s.record ⟨0x6002, c, 0x04, leInt 4 (halfUp (requestDemand (forRequest s b) b)) ++ leInt 4 (wheelAngle s 1).1, [], 0xFFFFFFFF, 0xF⟩).updSteer
        fun x => { x with result := c } := by
  subst hb
  have hcur : (if s.steer.engaged = true then s.steer.c else ((wheelAngle s 1).1 : Rat)) = (wheelAngle s 1).1 := if_neg (Bool.eq_false_iff.1 h)
  unfold steerRequest
  rw [if_neg fun hc => Bool.eq_false_iff.1 h hc.1]
  dsimp only
  rw [hcur, halfUp_intCast]
  rfl

/-- An accepted request of an idle steering engages it. -/
theorem accept_engages {s : State} (b : Nat) (d0 cur : Rat) (h : s.steer.mode = 0) :
    Only [.steer, .loop] s (accept s b d0 cur) ∧ (accept s b d0 cur).steer.engaged = true ∧ (accept s b d0 cur).steer.enable = true ∧
      (accept s b d0 cur).steer.goal = b ∧ (accept s b d0 cur).steer.alpha = 0 ∧ (accept s b d0 cur).steer.result = 0 ∧
      (accept s b d0 cur).steer.c = cur ∧
      (s.steerFn < s.loop.fn.length → ((accept s b d0 cur).fnOf s.steerFn).next = some 2) := by
  unfold accept
  rw [if_neg (not_not.2 h)]
  refine ⟨?_, rfl, rfl, rfl, rfl, rfl, rfl, fun hlen => ?_⟩
  · exact ((((updSteer_only _ _).mono (by decide)).next (updSteer_only _ _)).next (updFn_only _ _ _)).next (updLoop_only _ _)
  · exact (congrArg Fn.next (updFn_fnOf_self (fun x => { x with next := some 2, safe := false, atSafe := false, safeOff := false, still := false }) hlen) :)

/-- A session's command of steering is carried out. -/
theorem exec_steerCommand {s : State} {k : Nat} {v : Int} (h : s.admits k 0x3C10 2 (.int v)) :
    s.asSession k 0x3C10 (fun w => steerWrite w 0x3C10 2 (.int v)) = .next ((steerCommand v (s.touch k)).ack k) :=
  admitted_ok h ((if_neg (by decide)).trans (if_pos ⟨rfl, rfl⟩))

/-- What is refused of a request reads nothing of the session that makes it. -/
theorem requestDemand_touch (s : State) (k b : Nat) : requestDemand (forRequest (s.touch k) b) b = requestDemand (forRequest s b) b := by
  rw [forRequest_touch]
  rfl

theorem refusal_request_touch (s : State) (k b : Nat) : refusal (forRequest (s.touch k) b) b = refusal (forRequest s b) b := by
  rw [forRequest_touch]
  rfl

/-- Steering as the steering of a state that differs in the guidance alone. -/
theorem Guided.mode {s t : State} (h : Guided s t) : t.steer.mode = s.steer.mode := by
  obtain ⟨g, hg⟩ := h
  rw [hg]

theorem forRequest_activePass {s : State} (h : s.steer.mode ≠ 1) :
    (forRequest s 1).steer.guide.activePass = nearestPass s (guidedPoint s) := by
  unfold forRequest fillWindow
  rw [if_pos ⟨rfl, h⟩]
  split <;> rfl

/-- A request that is refused leaves its code and its record. -/
theorem request_refused {s : State} {k b c : Nat} (hb : b = s.nat 0x3C10 1) (h : s.admits k 0x3C10 2 (.int 1)) (heng : s.steer.engaged = false)
    (hcode : (refusal (forRequest s b) b).or (if (s.nat 0x3C00 0x11 : Rat) <
      (requestDemand (forRequest s b) b - ((wheelAngle s 1).1 : Rat)).abs then some 0x10 else none) = some c) :
    Written (.steerEngage (some k)) s k [.flow, .upd, .steer] fun t => t.steer = { s.steer with result := c } ∧
      Recorded ⟨0x6002, c, 0x04, leInt 4 (halfUp (requestDemand (forRequest s b) b)) ++ leInt 4 (wheelAngle s 1).1, [], 0xFFFFFFFF, 0xF⟩ s t := by
  have hreq : steerRequest (s.touch k) = ((s.touch k).record ⟨0x6002, c, 0x04, leInt 4 (halfUp (requestDemand (forRequest s b) b)) ++
      leInt 4 (wheelAngle s 1).1, [], 0xFFFFFFFF, 0xF⟩).updSteer fun x => { x with result := c } := by
    rw [steerRequest_idle (s := s.touch k) hb heng, requestDemand_touch, refusal_request_touch]
    show (match (refusal (forRequest s b) b).or (if (s.nat 0x3C00 0x11 : Rat) <
      (requestDemand (forRequest s b) b - ((wheelAngle s 1).1 : Rat)).abs then some 0x10 else none) with | none => _ | some c => _) = _
    rw [hcode]
    rfl
  have hrec := record_only (s.touch k) ⟨0x6002, c, 0x04, leInt 4 (halfUp (requestDemand (forRequest s b) b)) ++ leInt 4 (wheelAngle s 1).1,
    [], 0xFFFFFFFF, 0xF⟩
  have hself : Recorded ⟨0x6002, c, 0x04, leInt 4 (halfUp (requestDemand (forRequest s b) b)) ++ leInt 4 (wheelAngle s 1).1, [], 0xFFFFFFFF, 0xF⟩ s
      ((s.touch k).record ⟨0x6002, c, 0x04, leInt 4 (halfUp (requestDemand (forRequest s b) b)) ++ leInt 4 (wheelAngle s 1).1,
        [], 0xFFFFFFFF, 0xF⟩) := (Recorded.self (s.touch k) _).base rfl rfl rfl rfl rfl
  refine .intro (exec_steerCommand h) ?_
  rw [show steerCommand 1 (s.touch k) = _ from hreq]
  exact ⟨(hrec.mono (by decide)).next (updSteer_only _ _), congrArg (fun x : Steer => { x with result := c }) hrec.steer,
    hself.of_flow rfl⟩

/-- Settles O32: a request is what `steerRequest_idle` says of it. -/
theorem steeringEngagement : Obligations.SteeringEngagement := by
  unfold Obligations.SteeringEngagement
  refine ⟨fun s k b hb h heng hmode href e he hlim => ?_, fun s k b c hb h heng href => ?_, fun s k b e hb h heng href he hlim => ?_,
    fun s => ⟨if_neg (by simp), if_neg (by simp), fun hmode _ => forRequest_activePass hmode⟩, fun s k h heng hmode hgoal => ?_,
    fun s hr hpin hvalid => congrArg Host.Outcome.next (if_pos ⟨hr, hpin, hvalid⟩), fun s hno => congrArg Host.Outcome.next (if_neg ?_),
    fun s k h heng => ?_, fun s k h heng => ?_⟩
  · have hdemand : requestDemand (forRequest s b) b = demandWith (forRequest s b) e 0 := by rw [requestDemand, he]
    have hreq : steerRequest (s.touch k) = accept (forRequest (s.touch k) b) b (requestDemand (forRequest s b) b) (wheelAngle s 1).1 := by
      have hnear : ¬(s.nat 0x3C00 0x11 : Rat) < (requestDemand (forRequest s b) b - ((wheelAngle s 1).1 : Rat)).abs := by
        rw [hdemand]
        exact not_lt.2 hlim
      rw [steerRequest_idle (s := s.touch k) hb heng, requestDemand_touch, refusal_request_touch, href]
      show (match (none : Option Nat).or (if (s.nat 0x3C00 0x11 : Rat) <
        (requestDemand (forRequest s b) b - ((wheelAngle s 1).1 : Rat)).abs then some 0x10 else none) with | none => _ | some c => _) = _
      rw [if_neg hnear]
      rfl
    have hguide := forRequest_only (s.touch k) b
    obtain ⟨honly, hengaged, henable, hgoal, halpha, hresult, hc, hnext⟩ := accept_engages b (requestDemand (forRequest s b) b)
      (wheelAngle s 1).1 ((forRequest_guided (s.touch k) b).mode.trans hmode)
    refine .intro (exec_steerCommand h) ?_
    rw [show steerCommand 1 (s.touch k) = _ from hreq]
    refine ⟨(hguide.mono (by decide)).trans honly, hengaged, henable, hgoal, halpha, hresult, hc, fun hlen => ?_⟩
    have hfn : (forRequest (s.touch k) b).steerFn = s.steerFn := hguide.nat (by decide) _ _
    rw [hfn] at hnext
    exact hnext (by rwa [hguide.loop])
  · exact request_refused hb h heng (by rw [href]; rfl)
  · have hdemand : requestDemand (forRequest s b) b = demandWith (forRequest s b) e 0 := by rw [requestDemand, he]
    obtain ⟨t, hexec, honly, hsteer, -⟩ := request_refused (c := 0x10) hb h heng (by rw [href, hdemand, if_pos hlim]; rfl)
    exact ⟨t, hexec, honly, hsteer⟩
  · have hreq : steerRequest (s.touch k) = (s.touch k).updSteer fun x => { x with result := 0 } := if_pos ⟨heng, hmode, hgoal⟩
    exact (exec_steerCommand h).trans (congrArg (fun t : State => Host.Outcome.next (t.ack k)) hreq)
  · rintro ⟨hr, hpin, hvalid⟩
    rcases hno with h | h | h
    · simp [h] at hr
    · exact hpin h
    · simp [h] at hvalid
  · refine .intro (exec_steerCommand h) ⟨(disengage_only _ _ _).next (updSteer_only _ _), rfl, disengage_engaged _ _ _, ?_, ?_⟩
    · exact congrArg Steer.enable (disengage_steer (s := s.touch k) 2 4 heng)
    · exact congrArg Steer.reason (disengage_steer (s := s.touch k) 2 4 heng)
  · refine (exec_steerCommand h).trans (congrArg (fun t : State => Host.Outcome.next (t.ack k)) ?_)
    refine (if_neg (by decide)).trans ?_
    rw [disengage_idle (s := s.touch k) 2 4 heng]

/-! ## Lines, turns and the crop edge (R199–R205) -/

/-- A session's LineCommand is carried out. -/
theorem steerWrite_line {w : Ctx} {s : State} {v : Int} (h : preCheck w 0x3C20 0xB (.int v) = 0) :
    steerWrite w 0x3C20 0xB (.int v) s = lineCommand v s :=
  (if_pos h).trans ((if_neg (by decide)).trans ((if_neg (by decide)).trans ((if_pos rfl).trans (if_pos rfl))))

theorem steerWrite_turn {w : Ctx} {s : State} {v : Int} (h : preCheck w 0x3C30 7 (.int v) = 0) :
    steerWrite w 0x3C30 7 (.int v) s = turnCommand v s :=
  (if_pos h).trans ((if_neg (by decide)).trans ((if_neg (by decide)).trans ((if_neg (by decide)).trans (if_pos ⟨rfl, rfl⟩))))

section
variable {s t : State} {k a : Nat} {v : Int}

theorem exec_line (h : s.admits k 0x3C20 0xB (.int v)) (hw : lineCommand v (s.touch k) = .ok t) :
    s.asSession k 0x3C20 (fun w => steerWrite w 0x3C20 0xB (.int v)) = .next (t.ack k) :=
  served_ok (w := fun w => steerWrite w 0x3C20 0xB (.int v)) h.serves ((steerWrite_line h.2).trans hw)

theorem exec_line_refused (h : s.admits k 0x3C20 0xB (.int v)) (hw : lineCommand v (s.touch k) = .error a) :
    s.asSession k 0x3C20 (fun w => steerWrite w 0x3C20 0xB (.int v)) = .next ((s.touch k).deny k a) :=
  served_error (w := fun w => steerWrite w 0x3C20 0xB (.int v)) h.serves ((steerWrite_line h.2).trans hw)

theorem exec_turn (h : s.admits k 0x3C30 7 (.int v)) (hw : turnCommand v (s.touch k) = .ok t) :
    s.asSession k 0x3C30 (fun w => steerWrite w 0x3C30 7 (.int v)) = .next (t.ack k) :=
  served_ok (w := fun w => steerWrite w 0x3C30 7 (.int v)) h.serves ((steerWrite_turn h.2).trans hw)

theorem exec_turn_refused (h : s.admits k 0x3C30 7 (.int v)) (hw : turnCommand v (s.touch k) = .error a) :
    s.asSession k 0x3C30 (fun w => steerWrite w 0x3C30 7 (.int v)) = .next ((s.touch k).deny k a) :=
  served_error (w := fun w => steerWrite w 0x3C30 7 (.int v)) h.serves ((steerWrite_turn h.2).trans hw)
end

section
variable {s : State} {ch id stamp : Nat} {data : Bytes} (hlo : 1 ≤ ch) (hhi : ch ≤ 8) (hs : s.senses = true)
include hlo hhi hs

theorem exec_edgeFrame {t : State} (h : edgeFrame ch id data s = t) : exec (.edgeFrame ch id stamp data) s = .next t :=
  (withUnit_next (by simp [hlo, hhi])).trans (congrArg Host.Outcome.next ((if_pos hs).trans h))
end

/-- A frame on the edge's channel that repeats no counter. -/
theorem edgeFrame_new {s : State} {ch id : Nat} {data : Bytes} (hch : ch = s.nat 0x3C38 1) (hid : id = s.nat 0x3C38 2) (hlen : data.length = 8)
    (hcnt : s.steer.edgeCounter ≠ some (fieldLe data 3 1)) : edgeFrame ch id data s =
      if s.nat 0x3C38 5 ≤ fieldLe data 2 1 then
        (s.updSteer fun x => { x with edgeQuality := fieldLe data 2 1, edgeCounter := some (fieldLe data 3 1) }).updSteer fun x =>
          { x with edgeOffset := fieldInt data 0 2, edgeValid := true, edgeAt := s.tm.mono }
      else s.updSteer fun x => { x with edgeQuality := fieldLe data 2 1, edgeCounter := some (fieldLe data 3 1) } :=
  if_neg (by simp [hch, hid, hlen, hcnt])

/-- Settles O33: each command by its branch, a frame of the edge as `edgeFrame_new` says. -/
theorem linesTurnsAndEdge : Obligations.LinesTurnsAndEdge := by
  unfold Obligations.LinesTurnsAndEdge
  refine ⟨fun s k h => exec_line h rfl, fun s k h => exec_line h rfl, fun s k h => exec_line h rfl, fun s k l t h hrec => ?_,
    fun s k h hfree => ?_, fun s k h hgnss hbusy => ?_, fun s k h hturn hok => ?_, fun s k h hturn => exec_turn_refused h (if_pos hturn),
    fun s k h hturn => ?_, fun s at_ hturn hheld hlong => ?_, fun s hno => ?_, fun s ch id stamp data hlo hhi hs hch hid hlen hcnt hq => ?_,
    fun s ch id stamp data hlo hhi hs hch hid hlen hcnt hq => ?_, fun s ch id stamp data hlo hhi hs hcnt => ?_,
    fun s => .intro rfl ⟨updSteer_only _ _, rfl⟩⟩
  · have hcurve : lineCommand 4 (s.touch k) = match some (l, t) with
      | some r => .ok (((s.touch k).put 0x3C20 9 (.bytes (r.1.flatMap fun p => leInt 4 p.1 ++ leInt 4 p.2))).updSteer fun x =>
          { x with guide := { x.guide with record := none } })
      | none => .ok (s.touch k) := by
      rw [← hrec]
      rfl
    exact exec_line h hcurve
  · have hmay : ¬(inGnss (s.touch k) = true ∧ ((s.touch k).steer.goal ≠ 0 ∨ (s.touch k).steer.guide.turn = 2)) := by
      rintro ⟨hgnss, hbusy⟩
      rcases hfree with h0 | ⟨h1, h2⟩
      · exact Bool.eq_false_iff.1 h0 hgnss
      · exact hbusy.elim (· h1) h2
    exact guarded_next (s := s) (p := (5 : Int) = 5) rfl (exec_line h (if_neg hmay))
  · exact guarded_next (s := s) (p := (5 : Int) = 5) rfl (exec_line_refused h (if_pos ⟨hgnss, hbusy⟩))
  · refine .intro (exec_turn h ((if_neg hturn).trans ((if_pos rfl).trans (congrArg Except.ok (if_pos hok)))))
      ⟨(updSteer_only _ _).trans (updSteer_only _ _), rfl⟩
  · exact exec_turn h ((if_neg (show ¬(s.touch k).steer.guide.turn = 2 by rw [touch_steer, hturn]; decide)).trans
      ((if_neg (by decide)).trans (congrArg Except.ok (if_pos hturn))))
  · have hover : s.steer.guide.turn = 2 ∧ s.steer.guide.heldAt.any (fun t => decide (t + 2000000000 ≤ s.tm.mono)) = true :=
      ⟨hturn, by rw [hheld, Option.any_some]; exact decide_eq_true hlong⟩
    exact .intro (congrArg Host.Outcome.next (if_pos hover)) ⟨updSteer_only _ _, rfl⟩
  · refine congrArg Host.Outcome.next (if_neg fun hc => ?_)
    rcases hno with hturn | hheld
    · exact hturn hc.1
    · rw [hheld] at hc
      exact absurd hc.2 (by simp)
  · exact .intro (exec_edgeFrame hlo hhi hs ((edgeFrame_new hch hid hlen hcnt).trans (if_pos hq)))
      ⟨(updSteer_only _ _).trans (updSteer_only _ _), rfl⟩
  · exact .intro (exec_edgeFrame hlo hhi hs ((edgeFrame_new hch hid hlen hcnt).trans (if_neg (Nat.not_le.2 hq)))) ⟨updSteer_only _ _, rfl⟩
  · exact exec_edgeFrame hlo hhi hs (if_pos (.inr (.inr (.inr hcnt))))

end Sys2Proof.Machine

/-! Proofs of the statement on the optimiser's commands (07). -/

namespace Sys2Proof.Machine

set_option Elab.async false

/-! ## Slots -/

theorem updOslot_only (s : State) (j : Nat) (f : OSlot → OSlot) : Only [.opt] s (s.updOslot j f) := updOpt_only s _

/-- An update of a slot that is held, or one that leaves the default slot, is read back. -/
theorem updOslot_self {s : State} {j : Nat} (f : OSlot → OSlot) (h : j < s.opt.slots.length ∨ f {} = {}) : (s.updOslot j f).oslot j = f (s.oslot j) := by
  by_cases hl : j < s.opt.slots.length
  · exact getD_upd _ _ _ _ hl
  · have hsame : updAt s.opt.slots j f = s.opt.slots := List.modify_eq_self (Nat.le_of_not_lt hl)
    have hnone : s.oslot j = {} := List.getD_eq_default _ _ (Nat.le_of_not_lt hl)
    rw [hnone, h.resolve_left hl]
    show (updAt s.opt.slots j f).getD j {} = {}
    rw [hsame]
    exact hnone

theorem updOslot_ne {s : State} {i j : Nat} (f : OSlot → OSlot) (h : i ≠ j) : (s.updOslot j f).oslot i = s.oslot i := getD_upd_ne _ _ _ _ _ h

/-- An update that leaves the slot leaves every slot. -/
theorem updOslot_same {s : State} {j : Nat} {f : OSlot → OSlot} (h : f (s.oslot j) = s.oslot j) (i : Nat) : (s.updOslot j f).oslot i = s.oslot i := by
  by_cases hi : i = j
  · subst hi
    by_cases hl : i < s.opt.slots.length
    · rw [updOslot_self f (.inl hl), h]
    · have hsame : updAt s.opt.slots i f = s.opt.slots := List.modify_eq_self (Nat.le_of_not_lt hl)
      exact congrArg (fun l : List OSlot => l.getD i {}) hsame
  · exact updOslot_ne f hi

/-! ## The end of a cycle (R183, R187) -/

/-- What the optimiser holds of a cycle: the cycle, its void and its reports. -/
def cycleParts (s : State) : Option OptCycle × Option Nat × List OptRep := (s.opt.cycle, s.opt.void, s.opt.reps)

theorem cycleParts_of_opt {s t : State} (h : t.opt = s.opt) : cycleParts t = cycleParts s := by
  unfold cycleParts
  rw [h]

theorem cycleParts_updOpt (s : State) (f : Opt → Opt) (h : ∀ o, (f o).cycle = o.cycle ∧ (f o).void = o.void ∧ (f o).reps = o.reps) :
    cycleParts (s.updOpt f) = cycleParts s := by
  obtain ⟨hcycle, hvoid, hreps⟩ := h s.opt
  show ((f s.opt).cycle, (f s.opt).void, (f s.opt).reps) = _
  rw [hcycle, hvoid, hreps]
  rfl

theorem cancelEvent_only (id : Nat) (s : State) : Only [.pctl] s (cancelEvent id s).2 := by
  unfold cancelEvent
  split
  · exact updPctl_only _ _
  · split <;> exact .refl _ _

theorem cancelBlocks_only (l : List PBlk) (s : State) : Only [.pctl] s (cancelBlocks l s) :=
  Only.foldl _ _ (fun s b => Only.foldl _ _ (fun s e => by
    cases e with
    | none => exact .refl _ _
    | some id => exact cancelEvent_only id s) _ _) _ _

/-- The end of a cycle leaves the optimiser none, and counts no void. -/
theorem endCycle_ended (c : OptCycle) (res : Nat) (recs : List Bytes) (s : State) :
    cycleParts (endCycle c res recs s) = (none, none, []) ∧ (endCycle c res recs s).opt.voids = s.opt.voids := by
  have hrec : (s.records (recs.map fun r => optEvent 0x5003 c.slot [] r)).opt = s.opt := (records_only _ s).opt
  exact ⟨rfl, (congrArg Opt.voids hrec :)⟩

/-- A void ends the running cycle and is counted. -/
theorem voidCycle_ended {s : State} {c : OptCycle} (code : Nat) (h : s.opt.cycle = some c) :
    cycleParts (voidCycle code s) = (none, none, []) ∧ (voidCycle code s).opt.voids = inc32 s.opt.voids := by
  have hmatch : ∀ u, voidCycle code s = u → cycleParts u = (none, none, []) ∧ u.opt.voids = inc32 s.opt.voids := by
    intro u hu
    unfold voidCycle at hu
    split at hu
    next hnone => rw [h] at hnone; cases hnone
    next c _ =>
      extract_lets a b d x y pid z at hu
      have ha : a.opt = s.opt := (cancelBlocks_only _ _).opt
      have hb : b.opt = a.opt := Only.opt (ps := [.loop]) (.ite (updFn_only _ _ _) (.refl _ _))
      have hd : d.opt = b.opt := Only.opt (ps := [.loop]) (.ite (updFn_only _ _ _) (.refl _ _))
      obtain ⟨hparts, hvoids⟩ := endCycle_ended c code (c.blocks.map fun b => blockRecord x c.slot b 3 []) x
      have hz : z.opt = y.opt := (record_only y _).opt
      rw [← hu]
      have hend : cycleParts (z.optSettle.updOpt fun o => { o with voids := inc32 o.voids }) = cycleParts z :=
        (cycleParts_updOpt _ _ fun _ => ⟨rfl, rfl, rfl⟩).trans (cycleParts_updOpt _ _ fun _ => ⟨rfl, rfl, rfl⟩)
      refine ⟨hend.trans ((cycleParts_of_opt hz).trans hparts), congrArg inc32 ?_⟩
      exact (congrArg Opt.voids hz).trans (hvoids.trans (congrArg Opt.voids (hd.trans (hb.trans ha)) :))
  exact hmatch _ rfl

/-- The evaluation of a cycle ends it. -/
theorem evaluate_ended {s : State} {c d : OptCycle} (h : s.opt.cycle = some d) : cycleParts (evaluate c s) = (none, none, []) := by
  unfold evaluate
  split
  · exact (voidCycle_ended _ h).1
  · extract_lets
    exact (cycleParts_updOpt _ _ fun _ => ⟨rfl, rfl, rfl⟩).trans
      ((cycleParts_of_opt (record_only _ _).opt).trans (endCycle_ended _ _ _ _).1)

theorem insertOwn_opt (e : Event) (s : State) : (insertOwn e s).2.opt = s.opt := by
  unfold insertOwn
  dsimp only
  split <;> rfl

theorem updOslot_cycle (s : State) (j : Nat) (f : OSlot → OSlot) : cycleParts (s.updOslot j f) = cycleParts s := rfl

/-- A move leaves the cycle. -/
theorem tryMove_cycle (m : OMove) (s : State) : cycleParts (tryMove m s).2 = cycleParts s := by
  unfold tryMove
  extract_lets o
  split
  · rfl
  · split
    · rfl
    · extract_lets r
      split
      · exact (cycleParts_of_opt (record_only _ _).opt).trans ((updOslot_cycle _ _ _).trans (cycleParts_of_opt (insertOwn_opt _ s)))
      · rfl

theorem doMoves_cycle (s : State) : cycleParts (doMoves s) = cycleParts s := by
  have hfold : ∀ (l : List OMove) (a : List OMove × State),
      cycleParts (l.foldl (fun (a : List OMove × State) m =>
        let t := tryMove m a.2
        (if t.1 ∨ m.source = 1 then a.1 else a.1 ++ [m], t.2)) a).2 = cycleParts a.2 := by
    intro l
    induction l with
    | nil => exact fun a => rfl
    | cons m l ih => exact fun a => (ih _).trans (tryMove_cycle m a.2)
  exact hfold _ ([], s)

/-! ## The judged blocks (R182) -/

section
variable {s : State} {c : OptCycle} {b : PBlk} (hcyc : s.opt.cycle = some c) (hvoid : voidNow s = none)
  (hfind : c.blocks.find? (fun b => b.judged.isNone && blockReady s b) = some b)
include hcyc hvoid hfind

/-- The cycle with a block judged. -/
def OptCycle.withJudged (c : OptCycle) (s : State) (b : PBlk) : OptCycle :=
  { c with blocks := c.blocks.map fun x => if x.id = b.id then { x with judged := some (judgeBlock s c b) } else x }

theorem exec_blockJudged : exec .blockJudged s = .next (
    if (c.withJudged s b).blocks.length = 2 * (c.withJudged s b).set 0xF ∧ (c.withJudged s b).blocks.all (fun x => x.judged.isSome) then
      doMoves (evaluate (c.withJudged s b) (s.updOpt fun o => { o with cycle := some (c.withJudged s b) }))
    else s.updOpt fun o => { o with cycle := some (c.withJudged s b) }) := by
  show execBlockJudged s = _
  unfold execBlockJudged
  rw [hcyc, hvoid]
  dsimp only
  rw [hfind]
  rfl
end

/-- With a block judged, the blocks are all judged when the others were. -/
theorem withJudged_all {s : State} {c : OptCycle} {b : PBlk} :
    (c.withJudged s b).blocks.all (fun x => x.judged.isSome) = true ↔ ∀ x ∈ c.blocks, x.id = b.id ∨ x.judged.isSome = true := by
  unfold OptCycle.withJudged
  rw [List.all_map, List.all_eq_true]
  refine forall₂_congr fun x _ => ?_
  by_cases hid : x.id = b.id <;> simp [hid]

theorem withJudged_length {s : State} {c : OptCycle} {b : PBlk} : (c.withJudged s b).blocks.length = c.blocks.length := List.length_map _

/-! ## Commands and writes (R175–R177, R185) -/

section
variable {s t : State} {k j : Nat} (hj : j < 8) {sub : Nat} {v : Int} (h : s.admits k (0x3A10 + j) sub (.int v))
include hj h

/-- An admitted write of a slot that the optimiser carries out, or refuses. -/
theorem exec_optSlot {w : Except Nat State} (hw : optSlotWrite (s.ctxOf k) (optObj j) sub (.int v) (s.touch k) = w) :
    execOptSlotWrite k j sub v s = .next ((s.touch k).answer k w) :=
  guarded_next hj ((serve_ok h.serves).trans (congrArg (fun e => Host.Outcome.next ((s.touch k).answer k e)) hw))
end

/-- An admitted SuggestionCommand is carried out on its slot. -/
theorem optSlotWrite_suggestion {s : State} {w : Ctx} {j : Nat} {v : Int} (h : preCheck w (0x3A10 + j) 0xF (.int v) = 0) :
    optSlotWrite w (optObj j) 0xF (.int v) s = suggestionCommand j v s := by
  refine (if_pos h).trans ((if_pos rfl).trans ?_)
  rw [show optObj j - 0x3A10 = j from Nat.add_sub_cancel_left ..]
  rfl

/-- Whether the running cycle is one of slot j. -/
def cycleOn (s : State) (j : Nat) : Bool := match s.opt.cycle with | some c => c.slot == j | none => false

/-- A slot's advance is taken while no cycle runs on it. -/
theorem optSlotWrite_advance {s : State} {w : Ctx} {j : Nat} {v : Int} (h : preCheck w (0x3A10 + j) 8 (.int v) = 0) :
    optSlotWrite w (optObj j) 8 (.int v) s = if cycleOn s j = true then .error Abort.state else .ok (s.put (0x3A10 + j) 8 (.int v)) := by
  refine (if_pos h).trans ((if_neg (by omega)).trans ((if_neg (by omega)).trans ((if_neg (by omega)).trans ((if_neg (by omega)).trans ?_))))
  rw [show optObj j - 0x3A10 = j from Nat.add_sub_cancel_left ..]
  by_cases hon : cycleOn s j = true
  · exact (if_pos ⟨by decide, hon⟩).trans (if_pos hon).symm
  · exact (if_neg fun hc => hon hc.2).trans ((if_neg (by omega)).trans (if_neg hon).symm)

/-- A damage record that is in order is taken and assigned. -/
theorem damageRecord_taken {s : State} {d : Bytes} (h : d.length = 16 ∧ (fieldLe d 14 1).testBit 0 ∧ !(fieldLe d 14 1).testBit 1 ∧
    fieldLe d 0 8 ≤ s.tm.now ∧ s.tm.now ≤ fieldLe d 0 8 + 2000000000) : damageRecord d s =
      match s.opt.s6.find? fun e => decide ((e.1 : Int) ≤ (fieldLe d 0 8 : Int) - s.nat 0x3A00 0x1A * 1000000) with
      | some e => (s.updOpt fun o => { o with stale := false, damageAt := s.tm.mono, hubSeq := fieldLe d 12 2 }).updOpt fun o =>
          { o with damage := addDamage o.damage e.2 (fieldLe d 8 2), foreign := addDamage o.foreign e.2 (fieldLe d 10 2) }
      | none => s.updOpt fun o => { o with stale := false, damageAt := s.tm.mono, hubSeq := fieldLe d 12 2 } := if_pos h

/-- A damage record reaches the optimiser on E2 while the module is reachable. -/
theorem exec_damage {s t : State} {d : Bytes} (h : s.reachable = true) (ht : damageRecord d s = t) : exec (.damageDatagram .e2 d) s = .next t :=
  congrArg Host.Outcome.next ((if_pos ⟨h, rfl⟩).trans ht)

/-- A slot whose suggestion may have expired, or whose hold may have ended (R185, R186). -/
def sugExpired (s : State) (x : OSlot) : OSlot :=
  if x.sugState = 1 ∧ !x.accepted ∧ x.sugAt + s.nat 0x3A00 0x18 * 1000000000 ≤ s.tm.mono then { x with sugState := 3 } else x

def holdExpired (s : State) (x : OSlot) : OSlot := if x.heldAt + s.nat 0x3A00 0x17 * 1000000000 ≤ s.tm.mono then { x with held := false } else x

theorem exec_suggestionExpiry (s : State) {j : Nat} (hj : j < 8) : exec (.suggestionExpiry j) s = .next (s.updOslot j (sugExpired s)) :=
  withUnit_next (decide_eq_true hj)

theorem exec_operatorHoldExpiry (s : State) {j : Nat} (hj : j < 8) : exec (.operatorHoldExpiry j) s = .next (s.updOslot j (holdExpired s)) :=
  withUnit_next (decide_eq_true hj)

/-- Settles O34: a judgement by `exec_blockJudged` and what the end of a cycle leaves, the rest by the branch of each command. -/
theorem optimiserCommands : Obligations.OptimiserCommands := by
  unfold Obligations.OptimiserCommands
  refine ⟨fun s c b hcyc hvoid hfind hmore => ?_, fun s c b hcyc hvoid hfind hlen hall => ?_, fun s c v hcyc hvoid => ?_,
    fun s k j hj h hsug => ?_, fun s k j hj h hsug => ?_, fun s k j hj h hsug => ?_, fun s j hj hsug hacc hlife => ?_, fun s j hj hlife => ?_,
    fun s j hj hlife => ?_, fun s j hj hlife => ?_, fun s d hr hlen hbit hstale hpast hrecent => ?_, fun s d hr hbad => ?_,
    fun s d => congrArg Host.Outcome.next (if_neg fun hc => Transport.noConfusion hc.2),
    fun s h => .intro (congrArg Host.Outcome.next (if_pos h)) ⟨updOpt_only _ _, rfl⟩,
    fun s k v h => ?_, fun s k h hflag => ?_, fun s k v h => ?_, fun s k j v hj h hno => ?_, fun s k j v c hj h hcyc hslot => ?_⟩
  · refine .intro ((exec_blockJudged hcyc hvoid hfind).trans (congrArg Host.Outcome.next (if_neg ?_))) ⟨updOpt_only _ _, rfl⟩
    rintro ⟨hlen, hall⟩
    rcases hmore with hlen' | ⟨x, hx, hid, hnone⟩
    · exact hlen' (withJudged_length.symm.trans hlen)
    · exact (withJudged_all.1 hall x hx).elim hid fun hsome => by simp [hnone] at hsome
  · have hend := evaluate_ended (c := c.withJudged s b) (s := s.updOpt fun o => { o with cycle := some (c.withJudged s b) }) rfl
    have hparts := (doMoves_cycle _).trans hend
    refine ⟨_, (exec_blockJudged hcyc hvoid hfind).trans (congrArg Host.Outcome.next (if_pos ⟨withJudged_length.trans hlen, withJudged_all.2 hall⟩)), ?_⟩
    exact ⟨congrArg (·.1) hparts, congrArg (·.2.1) hparts, congrArg (·.2.2) hparts⟩
  · obtain ⟨hparts, hvoids⟩ := voidCycle_ended v hcyc
    refine ⟨voidCycle v s, ?_, congrArg (·.1) hparts, congrArg (·.2.1) hparts, hvoids⟩
    show execBlockJudged s = _
    unfold execBlockJudged
    rw [hcyc, hvoid]
  · exact exec_optSlot hj h ((optSlotWrite_suggestion h.2).trans (if_neg (not_not.2 hsug)))
  · exact exec_optSlot hj h ((optSlotWrite_suggestion h.2).trans (if_pos hsug))
  · exact exec_optSlot hj h ((optSlotWrite_suggestion h.2).trans (if_neg (not_not.2 hsug)))
  · refine .intro (exec_suggestionExpiry s hj) ⟨updOslot_only _ _ _, ?_, fun i hi => updOslot_ne _ hi⟩
    have hdefault : sugExpired s {} = {} := if_neg fun hc => absurd hc.1 (by decide)
    exact (updOslot_self (sugExpired s) (.inr hdefault)).trans (if_pos ⟨hsug, by simp [hacc], hlife⟩)
  · exact .intro (exec_suggestionExpiry s hj) ⟨updOslot_only _ _ _, updOslot_same (f := sugExpired s) (if_neg fun hc => Nat.not_le.2 hlife hc.2.2)⟩
  · refine .intro (exec_operatorHoldExpiry s hj) ⟨updOslot_only _ _ _, ?_, fun i hi => updOslot_ne _ hi⟩
    have hdefault : holdExpired s {} = {} := ite_self _
    exact (updOslot_self (holdExpired s) (.inr hdefault)).trans (if_pos hlife)
  · exact .intro (exec_operatorHoldExpiry s hj) ⟨updOslot_only _ _ _, updOslot_same (f := holdExpired s) (if_neg (Nat.not_le.2 hlife))⟩
  · have htaken := damageRecord_taken (s := s) ⟨hlen, hbit, by simp [hstale], hpast, hrecent⟩
    cases hfind : s.opt.s6.find? fun e => decide ((e.1 : Int) ≤ (fieldLe d 0 8 : Int) - s.nat 0x3A00 0x1A * 1000000) with
    | none =>
      rw [hfind] at htaken
      exact .intro (exec_damage hr htaken) ⟨updOpt_only _ _, rfl, rfl, rfl, rfl, rfl, rfl⟩
    | some e =>
      rw [hfind] at htaken
      exact .intro (exec_damage hr htaken) ⟨(updOpt_only _ _).trans (updOpt_only _ _), rfl, rfl, rfl, rfl, rfl, rfl⟩
  · refine .intro (exec_damage hr (if_neg ?_)) ⟨updOpt_only _ _, rfl⟩
    rintro ⟨hlen, hbit, hstale, -⟩
    rcases hbad with h | h | h
    · exact h hlen
    · exact Bool.eq_false_iff.1 h hbit
    · rw [h] at hstale
      exact absurd hstale (by decide)
  · exact admitted_ok h ((if_neg (by decide)).trans ((if_neg (by simp)).trans (if_neg (by decide))))
  · exact admitted_error h ((if_pos rfl).trans (if_pos ⟨rfl, by simp [show (s.touch k).flag 0x3A00 2 = false from hflag]⟩))
  · exact admitted_ok h ((if_neg (by decide)).trans ((if_neg (by simp)).trans (if_pos rfl)))
  · refine exec_optSlot hj h ((optSlotWrite_advance h.2).trans (if_neg ?_))
    show ¬cycleOn s j = true
    unfold cycleOn
    split
    next c hcyc => exact fun hc => hno c hcyc (eq_of_beq hc)
    next => decide
  · refine exec_optSlot hj h ((optSlotWrite_advance h.2).trans (if_pos ?_))
    show cycleOn s j = true
    unfold cycleOn
    rw [hcyc]
    exact beq_iff_eq.2 hslot

end Sys2Proof.Machine

/-! Proofs of the statements on the load calibration, the yield map and the fleet link (09). -/

namespace Sys2Proof.Machine

set_option Elab.async false

/-! ## The load calibration (R212) -/

section
variable {s : State} {k : Nat} {v : Int}

/-- An admitted LoadCommand, or MapCommand, is carried out. -/
theorem exec_load (h : s.admits k 0x3E00 0x10 (.int v)) :
    s.asSession k 0x3E00 (fun w => yieldWrite w 0x3E00 0x10 (.int v)) = .next ((s.touch k).answer k (loadCommand v (s.touch k))) :=
  (session_ok h _).trans (congrArg (fun e => Host.Outcome.next ((s.touch k).answer k e))
    ((if_neg (by decide)).trans ((if_neg (by decide)).trans (if_pos rfl))))

theorem exec_map (h : s.admits k 0x3E00 8 (.int v)) :
    s.asSession k 0x3E00 (fun w => yieldWrite w 0x3E00 8 (.int v)) = .next ((s.touch k).answer k (mapCommand v (s.touch k))) :=
  (session_ok h _).trans (congrArg (fun e => Host.Outcome.next ((s.touch k).answer k e)) ((if_neg (by decide)).trans (if_pos rfl)))

theorem exec_load_ok {t : State} (h : s.admits k 0x3E00 0x10 (.int v)) (hw : loadCommand v (s.touch k) = .ok t) :
    s.asSession k 0x3E00 (fun w => yieldWrite w 0x3E00 0x10 (.int v)) = .next (t.ack k) :=
  (exec_load h).trans (congrArg Host.Outcome.next (answer_ok hw))

theorem exec_load_refused (h : s.admits k 0x3E00 0x10 (.int v)) (hw : loadCommand v (s.touch k) = .error Abort.state) :
    s.asSession k 0x3E00 (fun w => yieldWrite w 0x3E00 0x10 (.int v)) = .next ((s.touch k).deny k 0x08000022) :=
  (exec_load h).trans (congrArg Host.Outcome.next (answer_error hw))

/-- An admitted WeighedMass is stored and weighed. -/
theorem exec_weighed (h : s.admits k 0x3E00 0x13 (.int v)) :
    exec (.weighedMassWrite k v) s = .next ((weigh v.toNat ((s.touch k).put 0x3E00 0x13 (.int v))).ack k) :=
  admitted_ok h ((if_neg (by decide)).trans ((if_neg (by decide)).trans ((if_neg (by decide)).trans (if_pos rfl))))
end

section
variable (s : State)

theorem loadCommand_start : loadCommand 1 s = if s.yield.loadState = 0 ∨ s.yield.loadState = 4 ∨ s.yield.loadState = 5 then
    .ok (s.updYield fun y => { y with loadState := 1, loadMass := 0 }) else .error Abort.state := rfl

theorem loadCommand_empty : loadCommand 2 s = if s.yield.loadState = 1 then
    .ok (s.updYield fun y => { y with loadState := 2, emptyAt := s.tm.mono }) else .error Abort.state := rfl

theorem loadCommand_accept : loadCommand 3 s = if s.yield.loadState = 4 then
    .ok (((s.put 0x4880 7 (.int s.yield.proposed)).commit 2 (keyOf 0x4880 7) (.int s.yield.proposed)).updYield fun y => { y with loadState := 0 })
    else .error Abort.state := rfl

theorem loadCommand_discard : loadCommand 4 s = .ok (s.updYield fun y => { y with loadState := 0 }) := rfl
end

/-- Whether a proposal p of a weighed load is taken. -/
def proposes (s : State) (p : Rat) : Bool := decide (1000000 ≤ s.yield.loadMass) && decide (800 ≤ p) && decide (p ≤ 1250)

/-- A mass that is weighed in state 3 gives the proposal or the refusal. -/
theorem weigh_weighing {s : State} {g : Nat} {p : Rat} (h : s.yield.loadState = 3)
    (hp : p = divQ (s.nat 0x4880 7 * g : Nat) s.yield.loadMass) : weigh g s = s.updYield fun y =>
      { y with loadState := if proposes s p then 4 else 5, proposed := if proposes s p then (halfUp p).toNat else y.proposed } := by
  subst hp
  exact if_pos h

/-- Settles O35: each command by its branch of `loadCommand`, the weighing as `weigh_weighing` says. -/
theorem loadCalibration : Obligations.LoadCalibration := by
  unfold Obligations.LoadCalibration
  refine ⟨fun s k h hst => exec_load_ok h ((loadCommand_start _).trans (if_pos hst)),
    fun s k h hst => exec_load_refused h ((loadCommand_start _).trans
      (if_neg (show ¬(s.yield.loadState = 0 ∨ s.yield.loadState = 4 ∨ s.yield.loadState = 5) by omega))),
    fun s k h hst => exec_load_ok h ((loadCommand_empty _).trans (if_pos hst)),
    fun s hst hdone => .intro (congrArg Host.Outcome.next (if_pos ⟨hst, hdone⟩)) ⟨updYield_only _ _, rfl⟩,
    fun s hst hfull hwait => congrArg Host.Outcome.next (if_neg fun hc => hc.2.elim (fun he => hfull he.1) (Nat.not_le.2 hwait)),
    fun s k g p hwf h hst hp => ?_, fun s k h hst => exec_load_ok h ((loadCommand_accept _).trans (if_pos hst)),
    fun s k h hst => exec_load_refused h ((loadCommand_accept _).trans (if_neg hst)),
    fun s k h => exec_load_ok h (loadCommand_discard _)⟩
  have hfactor : ((s.touch k).put 0x3E00 0x13 (.int g)).nat 0x4880 7 = s.nat 0x4880 7 :=
    State.put_nat_ne (s := s.touch k) hwf (by decide) (by decide) (by decide)
  have hweigh := weigh_weighing (s := (s.touch k).put 0x3E00 0x13 (.int g)) (g := g.toNat) hst (hp.trans (by rw [hfactor]; rfl))
  have honly : Only [.yield, .dict] (s.touch k) (weigh g.toNat ((s.touch k).put 0x3E00 0x13 (.int g))) := by
    rw [hweigh]
    exact ((put_only _ _ _ _).mono (by decide)).next (updYield_only _ _)
  refine ⟨fun ⟨hmass, hlo, hhi⟩ => .intro (exec_weighed h) ⟨honly, ?_⟩, fun hout => .intro (exec_weighed h) ⟨honly, ?_⟩⟩
  · have hok : proposes s p = true := by simp [proposes, hmass, hlo, hhi]
    rw [hweigh, show proposes ((s.touch k).put 0x3E00 0x13 (.int g)) p = true from hok]
    exact ⟨rfl, rfl⟩
  · have hbad : proposes s p = false := by
      simp only [proposes, Bool.and_eq_false_iff, decide_eq_false_iff_not, not_le]
      tauto
    rw [hweigh, show proposes ((s.touch k).put 0x3E00 0x13 (.int g)) p = false from hbad]
    rfl

/-! ## Messages (R218–R221) -/

theorem enqueue_only (m : FleetMsg) (s : State) : Only [.fleet] s (enqueue m s) := updFleet_only _ _

/-- A message that waits stands in the queue, be it no parcel batch. -/
theorem enqueue_mem {m : FleetMsg} (s : State) (h : m.topic ≠ 1) : m ∈ (enqueue m s).fleet.queue := by
  unfold enqueue
  dsimp only [State.updFleet_fleet]
  rw [if_neg h]
  exact List.mem_append_right _ (List.mem_singleton.2 rfl)

theorem fleetSend_only (k : Nat) (tile : Option (Int × Int)) (p : Bytes) (stamp : Nat) (s : State) : Only [.fleet] s (fleetSend k tile p stamp s) := by
  unfold fleetSend
  exact .ite ((updFleet_only _ _).trans (updFleet_only _ _)) (.ite (.refl _ _) ((updFleet_only _ _).trans (enqueue_only _ _)))

theorem fleetSend_batch (k : Nat) (tile : Option (Int × Int)) (p : Bytes) (stamp : Nat) (s : State) :
    (fleetSend k tile p stamp s).fleet.batch = s.fleet.batch := by
  unfold fleetSend
  dsimp only
  split
  · rfl
  · split <;> rfl

/-- A message that must arrive waits while the link is down. -/
theorem fleetSend_waits {k : Nat} {tile : Option (Int × Int)} {p : Bytes} {stamp : Nat} {s : State} (hdown : s.fleet.link ≠ 2)
    (hwaits : ¬(s.fleet.link = 0 ∨ k = 0 ∨ k = 6)) : fleetSend k tile p stamp s =
      enqueue ⟨k, tile, fleetHeader (msgType k) (if k = 5 then 0 else p.length) (s.fleet.seqs.getD k 0) stamp ++ p⟩
        (s.updFleet fun f => { f with seqs := f.seqs.set k (seqAdd (s.fleet.seqs.getD k 0) 1) }) := (if_neg hdown).trans (if_neg hwaits)

/-- The connection that is made sends the queue again and leaves it empty. -/
theorem connect_connects (s : State) : Only [.fleet] s (connect s) ∧ (connect s).fleet.link = 2 ∧ (connect s).fleet.wait = 1 ∧
    (connect s).fleet.queue = [] ∧ (connect s).fleet.cfg = (rangeFrom 2 6).map (s.val 0x3E20) := by
  have hresend : ∀ (l : List FleetMsg) (t : State), ∃ f, l.foldl (fun s m =>
      s.updFleet fun f => { f with last := f.last.set m.topic (topicName s m.topic, m.data), queue := f.queue.drop 1 }) t = t.updFleet f ∧
      (f t.fleet).link = t.fleet.link ∧ (f t.fleet).wait = t.fleet.wait ∧ (f t.fleet).cfg = t.fleet.cfg ∧
      (f t.fleet).queue = t.fleet.queue.drop l.length := by
    intro l
    induction l with
    | nil => exact fun t => ⟨id, rfl, rfl, rfl, rfl, rfl⟩
    | cons m l ih =>
      intro t
      obtain ⟨f, hf, hlink, hwait, hcfg, hqueue⟩ := ih (t.updFleet fun f =>
        { f with last := f.last.set m.topic (topicName t m.topic, m.data), queue := f.queue.drop 1 })
      refine ⟨fun x => f { x with last := x.last.set m.topic (topicName t m.topic, m.data), queue := x.queue.drop 1 }, hf, hlink, hwait, hcfg, ?_⟩
      rw [List.length_cons, Nat.add_comm, ← List.drop_drop]
      exact hqueue
  obtain ⟨f, hf, hlink, hwait, hcfg, hqueue⟩ := hresend s.fleet.queue
    (s.updFleet fun f => { f with link := 2, wait := 1, cfg := (rangeFrom 2 6).map (s.val 0x3E20) })
  have hconn : connect s = (s.updFleet fun f => { f with link := 2, wait := 1, cfg := (rangeFrom 2 6).map (s.val 0x3E20) }).updFleet f := hf
  rw [hconn]
  exact ⟨(updFleet_only _ _).trans (updFleet_only _ _), hlink, hwait, hqueue.trans List.drop_length, hcfg⟩

/-- Up to 256 waiting parcel records go in one message. -/
theorem publishBatches_one {n : Nat} {s : State} (h : s.fleet.batch ≠ []) (hlen : s.fleet.batch.length ≤ 256) : publishBatches (n + 1) s =
    (fleetSend 1 none s.fleet.batch.flatten s.tm.now s).updFleet fun f => { f with batch := f.batch.drop 256 } := by
  have hempty : ∀ t : State, t.fleet.batch = [] → publishBatches n t = t := by
    cases n with
    | zero => exact fun t _ => rfl
    | succ n => exact fun t ht => if_pos ht
  rw [publishBatches, if_neg h, List.take_of_length_le hlen]
  refine hempty _ ?_
  show (fleetSend 1 none s.fleet.batch.flatten s.tm.now s).fleet.batch.drop 256 = []
  rw [fleetSend_batch]
  exact List.drop_eq_nil_of_le hlen

/-- Settles O37: each message by its branch of `fleetSend`, a connection as `connect_connects` says. -/
theorem fleetLink : Obligations.FleetLink := by
  unfold Obligations.FleetLink
  refine ⟨fun s hwanted hlink => .intro (congrArg Host.Outcome.next (if_pos ⟨hwanted, hlink⟩)) (connect_connects s), fun s hwanted hlink => ?_,
    fun s hwanted hlink => .intro (congrArg Host.Outcome.next ((if_pos ⟨hwanted, hlink.ge⟩).trans ((if_neg (by decide)).trans (if_neg (by omega)))))
      ⟨updFleet_only _ _, rfl⟩,
    fun s a hlink => .intro (congrArg Host.Outcome.next (if_neg hlink)) ⟨updFleet_only _ _, rfl⟩,
    fun k tile p stamp s hlink => ⟨fleetSend_only _ _ _ _ _, congrArg State.fleet (if_pos hlink)⟩,
    fun k tile p stamp s hlink => (if_neg (by omega)).trans (if_pos (.inl hlink)),
    fun k tile p stamp s hoff hdown hlo hhi => ⟨fleetSend_only _ _ _ _ _, ?_⟩,
    fun s hpub hlink => congrArg Host.Outcome.next (if_pos ⟨hpub, hlink⟩), fun s hpub hbatch hlen => ?_,
    fun s e n x hpub hfield hfind hdirty hnone => ?_, fun s o hpub hlink hnone hnew => ?_,
    fun s hpub hlink hon hrep hfresh hacc => congrArg Host.Outcome.next (if_pos ⟨hpub, hlink, hon, hrep, by simp [hfresh], by simp [hacc]⟩)⟩
  · obtain ⟨honly, hl, -, hqueue, -⟩ := connect_connects s
    exact .intro (congrArg Host.Outcome.next ((if_pos ⟨hwanted, hlink⟩).trans (if_pos rfl))) ⟨honly, hl, hqueue⟩
  · rw [fleetSend_waits hdown (by omega)]
    exact ⟨_, enqueue_mem _ (show k ≠ 1 by omega), rfl, rfl⟩
  · obtain ⟨n, hn⟩ : ∃ n, s.fleet.batch.length = n + 1 := Nat.exists_eq_succ_of_ne_zero (mt List.eq_nil_of_length_eq_zero hbatch)
    refine congrArg Host.Outcome.next ((if_pos hpub).trans ?_)
    rw [hn]
    exact publishBatches_one hbatch hlen
  · show execTilePublish e n s = _
    unfold execTilePublish
    rw [hfind]
    dsimp only
    rw [hnone]
    exact congrArg Host.Outcome.next (if_pos (by simp [hpub, hdirty, hfield]))
  · show execStatePublish o s = _
    unfold execStatePublish
    dsimp only
    rw [hnone]
    exact congrArg Host.Outcome.next (if_pos ⟨hpub, hlink, rfl, hnew⟩)

/-! ## The map (R213–R217) -/

/-- What a published tile leaves of the yield map: all but the tiles. -/
def SameField (s t : State) : Prop := Only [.yield, .fleet] s t ∧ ∃ l, t.yield = { s.yield with tiles := l }

theorem SameField.trans {s t u : State} (h : SameField s t) (k : SameField t u) : SameField s u := by
  obtain ⟨honly, l, hl⟩ := h
  obtain ⟨konly, m, hm⟩ := k
  exact ⟨honly.trans konly, m, by rw [hm, hl]⟩

theorem publishTile_sameField (x : MapTile) (s : State) : SameField s (publishTile x s) := by
  obtain ⟨u, hu⟩ : ∃ u, publishTile x s = u := ⟨_, rfl⟩
  rw [hu]
  unfold publishTile at hu
  split at hu
  · exact hu ▸ ⟨.refl _ _, s.yield.tiles, rfl⟩
  · extract_lets g at hu
    have hsend := fleetSend_only 2 (some (x.e, x.n)) (tileRecord s g) s.tm.now s
    refine hu ▸ ⟨(hsend.mono (by decide)).next (updYield_only _ _), s.yield.tiles.map fun y => if y.e = x.e ∧ y.n = x.n then g else y, ?_⟩
    show ({ (fleetSend 2 (some (x.e, x.n)) (tileRecord s g) s.tm.now s).yield with tiles := _ } : Yield) = _
    rw [hsend.yield]

/-- A field that closes publishes its tiles; a task's documentation becomes due. -/
theorem closeField_closes (s : State) : Only [.yield, .fleet] s (closeField s) ∧ (closeField s).yield.field = none ∧
    (closeField s).yield.task = false ∧ (closeField s).yield.docDue = (s.yield.docDue || s.yield.task) := by
  have hfold : ∀ (l : List MapTile) (t : State), SameField t (l.foldl (fun s t => publishTile t s) t) := by
    intro l
    induction l with
    | nil => exact fun t => ⟨.refl _ _, t.yield.tiles, rfl⟩
    | cons x l ih => exact fun t => (publishTile_sameField x t).trans (ih _)
  obtain ⟨honly, l, hl⟩ := hfold (s.yield.tiles.filter (·.dirty)) s
  refine ⟨honly.next (updYield_only _ _), rfl, rfl, ?_⟩
  show ((List.foldl _ _ _ : State).yield.docDue || (List.foldl _ _ _ : State).yield.task) = _
  rw [hl]

/-- A field that opens where none is open. -/
theorem openField_free {s : State} (id : Nat) (task : Bool) (h : s.yield.field = none) : openField id task s = s.updYield fun y =>
    { y with field := some id, task := task, originSet := false, originLat := 0, originLon := 0, crop := s.nat 0x3A00 0x19,
             wet := 0, dry := 0, area := 0, missing := 0, tiles := [], log := if task then [] else y.log,
             loaded := y.prior.filter fun b => fieldLe b 28 4 == id } := by
  unfold openField
  rw [if_neg (by simp [h])]

/-- A prior tile that holds its check value is kept where none is held, or an older one. -/
theorem storePrior_new {s : State} {b : Bytes} (hok : tileCheckOk b = true) (hnew : s.yield.prior.find? (fun p => tileKey p == tileKey b) = none) :
    storePrior b s = s.updYield fun y => { y with prior := y.prior ++ [b] } := by
  unfold storePrior
  rw [if_pos hok, hnew]

theorem storePrior_newer {s : State} {b p : Bytes} (hok : tileCheckOk b = true)
    (hold : s.yield.prior.find? (fun p => tileKey p == tileKey b) = some p) (hgen : fieldLe p 8 4 < fieldLe b 8 4) :
    storePrior b s = s.updYield fun y => { y with prior := y.prior.map fun p => if tileKey p = tileKey b then b else p } := by
  unfold storePrior
  rw [if_pos hok, hold]
  exact if_pos hgen

theorem exec_priorTile {s t : State} {b : Bytes} (hpub : publishing s = true) (hlink : s.fleet.link = 2) (h : storePrior b s = t) :
    exec (.priorTile b) s = .next t := congrArg Host.Outcome.next ((if_pos ⟨hpub, hlink⟩).trans h)

/-- Settles O36: fields as `openField_free` and `closeField_closes` say, tiles by the branches of `storePrior`. -/
theorem fieldsAndTiles : Obligations.FieldsAndTiles := by
  unfold Obligations.FieldsAndTiles
  refine ⟨fun s k h htask hfield => ?_, fun s k h htask => (exec_map h).trans (congrArg Host.Outcome.next (answer_error (if_pos htask))),
    fun s f hpub hfield => ?_, fun s k h htask => ?_, fun s f htask hfield => ?_, fun s b hpub hlink hok hnew => ?_,
    fun s b p hpub hlink hok hold hgen => ?_, fun s b hbad => ?_, fun s f hdue => ?_⟩
  · have hopen := openField_free (s := s.touch k) (0x80000000 + (s.touch k).yield.opened) false hfield
    refine .intro ((exec_map h).trans (congrArg Host.Outcome.next (answer_ok ((if_neg (by simp [htask])).trans (if_pos rfl))))) ?_
    rw [hopen]
    exact ⟨(updYield_only _ _).trans (updYield_only _ _), rfl, rfl, rfl, rfl, rfl, rfl, rfl, rfl⟩
  · refine .intro (congrArg Host.Outcome.next (if_pos hpub)) ?_
    rw [openField_free f true hfield]
    exact ⟨((updYield_only _ _).mono (by decide)).next ((updOpt_only _ _).trans (updOpt_only _ _)), rfl, rfl, rfl, rfl, rfl, rfl⟩
  · refine .intro ((exec_map h).trans (congrArg Host.Outcome.next (answer_ok ((if_neg (by simp [htask])).trans (if_neg (by decide)))))) ?_
    by_cases hopen : (s.touch k).yield.field.isSome = true
    · obtain ⟨honly, hfield, -, hdoc⟩ := closeField_closes (s.touch k)
      rw [if_pos hopen]
      refine ⟨honly, hfield, hdoc.trans ?_⟩
      show (s.yield.docDue || s.yield.task) = _
      rw [htask, Bool.or_false]
    · rw [if_neg hopen]
      exact ⟨.refl _ _, Option.not_isSome_iff_eq_none.1 hopen, rfl⟩
  · obtain ⟨honly, hnone, hno, hdoc⟩ := closeField_closes s
    exact .intro (congrArg Host.Outcome.next (if_pos ⟨htask, hfield⟩)) ⟨honly, hnone, hno, hdoc.trans (by rw [htask, Bool.or_true])⟩
  · exact .intro (exec_priorTile hpub hlink (storePrior_new hok hnew)) ⟨updYield_only _ _, rfl⟩
  · exact .intro (exec_priorTile hpub hlink (storePrior_newer hok hold hgen)) ⟨updYield_only _ _, rfl⟩
  · exact congrArg Host.Outcome.next ((ite_congr rfl (fun _ => if_neg (Bool.eq_false_iff.1 hbad)) fun _ => rfl).trans (ite_self _))
  · have hsend := fleetSend_only 5 none f s.tm.now s
    exact .intro (congrArg Host.Outcome.next (if_pos hdue)) ⟨(hsend.mono (by decide)).next (updYield_only _ _),
      congrArg (fun y : Yield => { y with docDue := false, log := [] }) hsend.yield, rfl⟩

end Sys2Proof.Machine

/-! Rules of the valve stages (10): what an update of a channel, a bank or a supply leaves, and what a profile does to its channel. -/

namespace Sys2Proof.Machine

set_option Elab.async false

/-! ## Updates of channels, banks and supplies -/

section
variable (s : State) (n : Nat)
theorem updCh_only (f : VCh → VCh) : Only [.valve] s (s.updCh n f) := updValve_only s _
theorem updBank_only (f : VBank → VBank) : Only [.valve] s (s.updBank n f) := updValve_only s _
theorem updSup_only (f : VSup → VSup) : Only [.valve] s (s.updSup n f) := updValve_only s _

@[simp] theorem updCh_vbank (f : VCh → VCh) (b : Nat) : (s.updCh n f).vbank b = s.vbank b := rfl
@[simp] theorem updCh_vsup (f : VCh → VCh) (k : Nat) : (s.updCh n f).vsup k = s.vsup k := rfl
@[simp] theorem updBank_vch (f : VBank → VBank) (m : Nat) : (s.updBank n f).vch m = s.vch m := rfl
@[simp] theorem updBank_vsup (f : VBank → VBank) (k : Nat) : (s.updBank n f).vsup k = s.vsup k := rfl
@[simp] theorem updSup_vch (f : VSup → VSup) (m : Nat) : (s.updSup n f).vch m = s.vch m := rfl
@[simp] theorem updSup_vbank (f : VSup → VSup) (b : Nat) : (s.updSup n f).vbank b = s.vbank b := rfl
end

section
variable {s : State} {n m : Nat}
theorem updCh_self (f : VCh → VCh) (h : n < s.valve.ch.length) : (s.updCh n f).vch n = f (s.vch n) := getD_upd _ _ _ _ h
theorem updCh_ne (f : VCh → VCh) (h : m ≠ n) : (s.updCh n f).vch m = s.vch m := getD_upd_ne _ _ _ _ _ h
theorem updBank_self (f : VBank → VBank) (h : n < s.valve.bank.length) : (s.updBank n f).vbank n = f (s.vbank n) := getD_upd _ _ _ _ h
theorem updBank_ne (f : VBank → VBank) (h : m ≠ n) : (s.updBank n f).vbank m = s.vbank m := getD_upd_ne _ _ _ _ _ h
theorem updSup_self (f : VSup → VSup) (h : n < s.valve.sup.length) : (s.updSup n f).vsup n = f (s.vsup n) := getD_upd _ _ _ _ h
theorem updSup_ne (f : VSup → VSup) (h : m ≠ n) : (s.updSup n f).vsup m = s.vsup m := getD_upd_ne _ _ _ _ _ h

/-- A state without the unit reads as before. -/
theorem updAt_length_le {α} {l : List α} {f : α → α} {k : Nat} (h : l.length ≤ k) : updAt l k f = l := List.modify_eq_self h

theorem updCh_absent (f : VCh → VCh) (h : s.valve.ch.length ≤ n) : (s.updCh n f).vch n = {} := by
  refine (congrArg (fun l : List VCh => l.getD n {}) (updAt_length_le h)).trans ?_
  exact List.getD_eq_default _ _ h

theorem vch_absent (h : s.valve.ch.length ≤ n) : s.vch n = {} := List.getD_eq_default _ _ h

theorem updCh_or (s : State) (n : Nat) (f : VCh → VCh) : (s.updCh n f).vch n = f (s.vch n) ∨ (s.updCh n f).vch n = {} ∧ s.vch n = {} :=
  (Nat.lt_or_ge n s.valve.ch.length).imp (updCh_self f) fun h => ⟨updCh_absent f h, vch_absent h⟩

theorem updBank_absent (f : VBank → VBank) (h : s.valve.bank.length ≤ n) : (s.updBank n f).vbank n = {} := by
  refine (congrArg (fun l : List VBank => l.getD n {}) (updAt_length_le h)).trans ?_
  exact List.getD_eq_default _ _ h

theorem updSup_absent (f : VSup → VSup) (h : s.valve.sup.length ≤ n) : (s.updSup n f).vsup n = {} := by
  refine (congrArg (fun l : List VSup => l.getD n {}) (updAt_length_le h)).trans ?_
  exact List.getD_eq_default _ _ h

/-- What an update leaves of a channel, it leaves of the channel read after it; so for a bank and a supply. -/
theorem updCh_keeps_of {α} {f : VCh → VCh} (g : VCh → α) (h : ∀ c, g (f c) = g c) : g ((s.updCh n f).vch m) = g (s.vch m) := by
  by_cases hm : m = n
  · subst hm
    rcases Nat.lt_or_ge m s.valve.ch.length with hl | hl
    · rw [updCh_self f hl, h]
    · rw [updCh_absent f hl, vch_absent hl]
  · rw [updCh_ne f hm]

theorem updBank_keeps_of {α} {f : VBank → VBank} (g : VBank → α) (h : ∀ c, g (f c) = g c) : g ((s.updBank n f).vbank m) = g (s.vbank m) := by
  by_cases hm : m = n
  · subst hm
    rcases Nat.lt_or_ge m s.valve.bank.length with hl | hl
    · rw [updBank_self f hl, h]
    · rw [updBank_absent f hl, show s.vbank m = {} from List.getD_eq_default _ _ hl]
  · rw [updBank_ne f hm]

theorem updSup_keeps_of {α} {f : VSup → VSup} (g : VSup → α) (h : ∀ c, g (f c) = g c) : g ((s.updSup n f).vsup m) = g (s.vsup m) := by
  by_cases hm : m = n
  · subst hm
    rcases Nat.lt_or_ge m s.valve.sup.length with hl | hl
    · rw [updSup_self f hl, h]
    · rw [updSup_absent f hl, show s.vsup m = {} from List.getD_eq_default _ _ hl]
  · rw [updSup_ne f hm]
end

section
variable {ps : List Part} {s t : State} (h : Only ps s t)
include h
theorem Only.vch (n : Nat) (k : Part.valve ∉ ps := by decide) : t.vch n = s.vch n := congrArg (fun v : Valve => v.ch.getD n {}) (h.valve k)
theorem Only.vbank (b : Nat) (k : Part.valve ∉ ps := by decide) : t.vbank b = s.vbank b := congrArg (fun v : Valve => v.bank.getD b {}) (h.valve k)
theorem Only.vsup (b : Nat) (k : Part.valve ∉ ps := by decide) : t.vsup b = s.vsup b := congrArg (fun v : Valve => v.sup.getD b {}) (h.valve k)
end

/-! ## What a profile does to its channel (R232–R238) -/

/-- A channel without what its profile moves, a bank without its rejections, a supply without what a profile start reads of it. -/
def VCh.still (c : VCh) : VCh :=
  { c with headroom := false, thermal := false, distorted := false, rejected := false, phase := 0, phaseAt := 0, startAt := 0, band := 0, prof := [],
           cut := false, noted := false, boostDelay := 0, edgeAt := 0, blocked := false, lowMean := false }
def VBank.still (x : VBank) : VBank := { x with rejects := 0 }
def VSup.still (x : VSup) : VSup := { x with below := false }

/-- What a profile does not move reads the same of two units that agree but for their profiles. -/
theorem VCh.of_still {α} {c d : VCh} (g : VCh → α) (hg : ∀ c, g c.still = g c) (h : c.still = d.still) : g c = g d := by
  rw [← hg c, h, hg]

theorem VBank.of_still {α} {x y : VBank} (g : VBank → α) (hg : ∀ x, g x.still = g x) (h : x.still = y.still) : g x = g y := by
  rw [← hg x, h, hg]

theorem VSup.of_still {α} {x y : VSup} (g : VSup → α) (hg : ∀ x, g x.still = g x) (h : x.still = y.still) : g x = g y := by
  rw [← hg x, h, hg]

/-- How many channels, banks and supplies a state holds. -/
def valveSizes (s : State) : Nat × Nat × Nat := (s.valve.ch.length, s.valve.bank.length, s.valve.sup.length)

/-- From s to t no channel but those of the list has changed, and of banks and supplies only what profiles move. -/
structure Chans (ps : List Part) (l : List Nat) (s t : State) : Prop where
  only : Only ps s t
  other : ∀ m, m ∉ l → t.vch m = s.vch m
  bank : ∀ b, (t.vbank b).still = (s.vbank b).still
  sup : ∀ k, (t.vsup k).still = (s.vsup k).still
  size : valveSizes t = valveSizes s

/-- The same for one channel, of which only its profile has moved. -/
structure Profiles (ps : List Part) (n : Nat) (s t : State) : Prop extends Chans ps [n] s t where
  chan : (t.vch n).still = (s.vch n).still

section
variable {ps qs : List Part} {l : List Nat} {n : Nat} {s t u : State}

theorem Chans.refl (ps : List Part) (l : List Nat) (s : State) : Chans ps l s s := ⟨.refl _ _, fun _ _ => rfl, fun _ => rfl, fun _ => rfl, rfl⟩

theorem Chans.trans (h : Chans ps l s t) (k : Chans ps l t u) : Chans ps l s u :=
  ⟨h.only.trans k.only, fun m hm => (k.other m hm).trans (h.other m hm), fun b => (k.bank b).trans (h.bank b), fun b => (k.sup b).trans (h.sup b),
    k.size.trans h.size⟩

theorem Chans.mono (h : Chans ps l s t) (hq : ∀ p, p ∈ ps → p ∈ qs := by decide) : Chans qs l s t := ⟨h.only.mono hq, h.other, h.bank, h.sup, h.size⟩

theorem Chans.chLength (h : Chans ps l s t) : t.valve.ch.length = s.valve.ch.length := congrArg (·.1) h.size

theorem Chans.bankLength (h : Chans ps l s t) : t.valve.bank.length = s.valve.bank.length := congrArg (·.2.1) h.size

theorem Chans.sub {l' : List Nat} (h : Chans ps l s t) (hl : ∀ n ∈ l, n ∈ l') : Chans ps l' s t :=
  ⟨h.only, fun m hm => h.other m fun hc => hm (hl m hc), h.bank, h.sup, h.size⟩

theorem Chans.of_only (h : Only ps s t) (k : Part.valve ∉ ps := by decide) : Chans ps l s t :=
  ⟨h, fun _ _ => h.vch _ k, fun b => by rw [h.vbank b k], fun b => by rw [h.vsup b k], congrArg (fun v : Valve => (v.ch.length, v.bank.length, v.sup.length)) (h.valve k)⟩

theorem Chans.updCh (s : State) (n : Nat) (f : VCh → VCh) : Chans [.valve] [n] s (s.updCh n f) :=
  ⟨updCh_only _ _ _, fun _ hm => updCh_ne f (List.ne_of_not_mem_cons hm), fun _ => rfl, fun _ => rfl,
    Prod.ext (List.length_modify ..) rfl⟩

theorem Profiles.refl (ps : List Part) (n : Nat) (s : State) : Profiles ps n s s := ⟨.refl _ _ _, rfl⟩

theorem Profiles.trans (h : Profiles ps n s t) (k : Profiles ps n t u) : Profiles ps n s u := ⟨h.toChans.trans k.toChans, k.chan.trans h.chan⟩

theorem Profiles.mono (h : Profiles ps n s t) (hq : ∀ p, p ∈ ps → p ∈ qs := by decide) : Profiles qs n s t := ⟨h.toChans.mono hq, h.chan⟩

theorem Profiles.next (h : Profiles ps n s t) (k : Profiles qs n t u) (hq : ∀ p, p ∈ qs → p ∈ ps := by decide) : Profiles ps n s u :=
  h.trans (k.mono hq)

theorem Profiles.ite {c : Prop} [Decidable c] (ht : Profiles ps n s t) (hu : Profiles ps n s u) : Profiles ps n s (if c then t else u) := by
  split <;> assumption

theorem Profiles.of_only (h : Only ps s t) (k : Part.valve ∉ ps := by decide) : Profiles ps n s t := ⟨.of_only h k, by rw [h.vch n k]⟩
end

theorem Profiles.updCh (s : State) (n : Nat) {f : VCh → VCh} (h : ∀ c, (f c).still = c.still) : Profiles [.valve] n s (s.updCh n f) :=
  ⟨.updCh s n f, updCh_keeps_of VCh.still h⟩

theorem Profiles.updBank (s : State) (n b : Nat) {f : VBank → VBank} (h : ∀ c, (f c).still = c.still) : Profiles [.valve] n s (s.updBank b f) :=
  ⟨⟨updBank_only _ _ _, fun _ _ => rfl, fun _ => updBank_keeps_of VBank.still h, fun _ => rfl,
    Prod.ext rfl (Prod.ext (List.length_modify ..) rfl)⟩, rfl⟩

theorem Profiles.updSup (s : State) (n k : Nat) {f : VSup → VSup} (h : ∀ c, (f c).still = c.still) : Profiles [.valve] n s (s.updSup k f) :=
  ⟨⟨updSup_only _ _ _, fun _ _ => rfl, fun _ => rfl, fun _ => updSup_keeps_of VSup.still h,
    Prod.ext rfl (Prod.ext rfl (List.length_modify ..))⟩, rfl⟩

theorem Profiles.record (s : State) (n : Nat) (e : FlowEv) : Profiles [.flow, .upd] n s (s.record e) := .of_only (record_only s e)

theorem enterPhase_profiles (n p time : Nat) (s : State) : Profiles [.valve] n s (enterPhase n p time s) := .updCh s n fun _ => rfl

theorem refreshHead_profiles (n : Nat) (s : State) : Profiles [.valve] n s (refreshHead n s) := .ite (.refl _ _ _) (.updCh s n fun _ => rfl)

/-- A fault is an update of the channel, with a record. -/
theorem chanFault_eq (n : Nat) (raised : Bool) (f : VCh → VCh) (s : State) : chanFault n raised f s = (s.updCh n f).record
    ⟨if raised then 0x7001 else 0x7002, n, teOf n, leBytes 2 (channelStatus (s.updCh n f) n), [], 0xFFFFFFFF, 0xF⟩ := rfl

theorem chanFault_chans (n : Nat) (raised : Bool) (f : VCh → VCh) (s : State) : Chans [.valve, .flow, .upd] [n] s (chanFault n raised f s) :=
  ((Chans.updCh s n f).mono (by decide)).trans (Chans.of_only (record_only (s.updCh n f) _)).mono

theorem chanFault_profiles (n : Nat) (raised : Bool) {f : VCh → VCh} (s : State) (h : ∀ c, (f c).still = c.still) :
    Profiles [.valve, .flow, .upd] n s (chanFault n raised f s) := ⟨chanFault_chans n raised f s, by
  rw [chanFault_eq, (record_only (s.updCh n f) _).vch]
  exact updCh_keeps_of VCh.still h⟩

theorem rejectBoost_profiles (n time : Nat) (s : State) : Profiles [.valve, .flow, .upd] n s (rejectBoost n time s) := by
  unfold rejectBoost
  extract_lets c b boosting delay t
  have ht : Profiles [.valve] n s t := by
    refine Profiles.trans (.updCh s n ?_) (.updBank _ n b ?_) <;> exact fun _ => rfl
  exact (ht.mono.next (.record t n _)).next (refreshHead_profiles n _)

theorem svStop_profiles (n : Nat) (s : State) : Profiles [.valve] n s (svStop n s) :=
  .ite (enterPhase_profiles _ _ _ _) (.ite (enterPhase_profiles _ _ _ _) (.refl _ _ _))

theorem svStart_profiles (n : Nat) (s : State) : Profiles [.valve, .free, .flow, .upd] n s (svStart n s) := by
  unfold svStart
  extract_lets c now band hot a
  have ha : Profiles [.valve, .free, .flow, .upd] n s a := .ite (.mono (chanFault_profiles n false s fun _ => rfl)) (.refl _ _ _)
  split
  next v b hfree =>
    extract_lets low d busy wait e
    have hb : Profiles [.free] n a b := by
      rw [show b = a.freeInt.2 by rw [hfree]]
      exact .of_only (freeInt_only a)
    have he : Profiles [.valve] n b e := by
      refine Profiles.trans (.updSup b n 2 ?_) (.updCh d n ?_) <;> exact fun _ => rfl
    exact ((ha.next hb).next he).trans (.ite (.mono (rejectBoost_profiles n now e)) (.mono (refreshHead_profiles n e)))

theorem svFollow_profiles (rise : Bool) (n : Nat) (s : State) : Profiles [.valve, .free, .flow, .upd] n s (svFollow rise n s) := by
  unfold svFollow
  extract_lets c on a d b
  have ha : Profiles [.valve] n s a := .ite (.refl _ _ _) (.updCh s n fun _ => rfl)
  have hb : Profiles [.valve, .free, .flow, .upd] n a b := by
    have hstop : Profiles [.valve, .free, .flow, .upd] n a (svStop n a) := (svStop_profiles n a).mono
    refine .ite hstop (.ite (.ite ?_ (.ite hstop (.refl _ _ _))) (.ite ?_ hstop))
    · have hd : Profiles [.valve, .free, .flow, .upd] n a d := .mono (Profiles.updCh a n fun _ => rfl)
      exact .ite (hd.trans (svStart_profiles n d)) (.ite (hd.next (enterPhase_profiles n 4 _ d)) hd)
    · exact .ite (.ite (.refl _ _ _) (svStart_profiles n a)) (.ite (.mono (enterPhase_profiles n 4 _ a)) (.refl _ _ _))
  exact ((Profiles.mono ha).trans hb).next (refreshHead_profiles n b)

/-! ## A channel that may not be driven -/

/-- A state that differs from another in the valve stages alone. -/
theorem only_valve {s t : State} (h : Only [.valve] s t) : t = { s with valve := t.valve } := by
  cases s
  cases t
  simp only [State.mk.injEq]
  exact ⟨h.tm, h.pw, h.belay, h.flow, h.serv, h.per, h.net, h.sky, h.skyio, h.sens, h.pas, h.pctl, h.lead, h.dict, h.steer, h.opt, h.yield, h.fleet, h.loop,
    h.trace, h.fio, trivial, h.can, h.lan, h.upd, h.free, h.pending⟩

/-- Whether a channel may be driven rests on nothing that its profile moves. -/
theorem chanPowered_congr {n : Nat} {s t : State} (h : Profiles [.valve] n s t) : chanPowered t n = chanPowered s n := by
  have hbank := h.bank (bankOf n)
  have hsup := h.sup (bankSupply (bankOf n))
  have hheld : chanHeld t n = chanHeld s n := by
    unfold chanHeld
    dsimp only
    rw [show (t.vch n).trip = (s.vch n).trip from (VCh.of_still VCh.trip (fun _ => rfl) h.chan), show (t.vch n).latched = (s.vch n).latched from (VCh.of_still VCh.latched (fun _ => rfl) h.chan),
      show (t.vch n).overtemp = (s.vch n).overtemp from (VCh.of_still VCh.overtemp (fun _ => rfl) h.chan),
      show (t.vch n).resumeAt = (s.vch n).resumeAt from (VCh.of_still VCh.resumeAt (fun _ => rfl) h.chan),
      show (t.vbank (bankOf n)).hsTrip = (s.vbank (bankOf n)).hsTrip from (VBank.of_still VBank.hsTrip (fun _ => rfl) hbank),
      show (t.vbank (bankOf n)).latched = (s.vbank (bankOf n)).latched from (VBank.of_still VBank.latched (fun _ => rfl) hbank), h.only.tm]
  have hsteers : steersChannel t n = steersChannel s n := by
    rw [only_valve h.only]
    rfl
  unfold chanPowered
  dsimp only
  rw [hheld, hsteers, show (t.vbank (bankOf n)).enable = (s.vbank (bankOf n)).enable from (VBank.of_still VBank.enable (fun _ => rfl) hbank),
    show (t.vsup (bankSupply (bankOf n))).present = (s.vsup (bankSupply (bankOf n))).present from (VSup.of_still VSup.present (fun _ => rfl) hsup),
    show (t.vch n).live = (s.vch n).live from (VCh.of_still VCh.live (fun _ => rfl) h.chan), h.only.steer]

/-- HEADROOM formed anew leaves the rest of every channel. -/
theorem refreshHead_vch (n : Nat) (s : State) (m : Nat) : ∃ x, (refreshHead n s).vch m = { s.vch m with headroom := x } := by
  unfold refreshHead
  by_cases hn : n < 16
  · rw [if_pos hn]
    exact ⟨(s.vch m).headroom, rfl⟩
  · rw [if_neg hn]
    by_cases hm : m = n
    · subst hm
      rcases updCh_or s m fun c => { c with headroom := svHeadroom s m } with h | ⟨h, h'⟩
      · exact ⟨_, h⟩
      · exact ⟨false, h.trans (by rw [h'])⟩
    · exact ⟨(s.vch m).headroom, updCh_ne _ hm⟩

theorem refreshHead_phase (n : Nat) (s : State) (m : Nat) : ((refreshHead n s).vch m).phase = (s.vch m).phase := by
  obtain ⟨x, hx⟩ := refreshHead_vch n s m
  rw [hx]

theorem enterPhase_phase {n p time : Nat} {s : State} (h : (s.vch n).phase ≠ 0) : ((enterPhase n p time s).vch n).phase = p :=
  (congrArg VCh.phase (updCh_self _ (getD_lt (p := fun c : VCh => c.phase ≠ 0) h (by decide))) :)

/-- Waiting ends in Off; Boost, Peak and Hold end in Quench. -/
theorem svStop_phase (n : Nat) (s : State) : ((svStop n s).vch n).phase =
    if (s.vch n).phase = 1 then 0 else if 2 ≤ (s.vch n).phase ∧ (s.vch n).phase ≤ 4 then 5 else (s.vch n).phase := by
  unfold svStop
  dsimp only
  split
  next h => exact enterPhase_phase (by omega)
  next h =>
    split
    next h2 => exact enterPhase_phase (by omega)
    next h2 => rfl

/-- A switching channel that may not be driven stops whatever it is commanded: its profile ends or its request is dropped. -/
theorem svFollow_unpowered {n : Nat} {s : State} (rise : Bool) (h : chanPowered s n = false) : Profiles [.valve] n s (svFollow rise n s) ∧
    ((svFollow rise n s).vch n).phase = if (s.vch n).phase = 1 then 0 else if 2 ≤ (s.vch n).phase ∧ (s.vch n).phase ≤ 4 then 5 else (s.vch n).phase := by
  unfold svFollow
  extract_lets c on a d b
  have ha : Profiles [.valve] n s a := .ite (.refl _ _ _) (.updCh s n fun _ => rfl)
  have hphase : (a.vch n).phase = (s.vch n).phase := by
    show ((if on = true then s else s.updCh n fun c => { c with blocked := false }).vch n).phase = _
    split
    · rfl
    · exact updCh_keeps_of VCh.phase fun _ => rfl
  have hpow : (!chanPowered a n) = true := by rw [chanPowered_congr ha, h]; rfl
  have hb : b = svStop n a := if_pos hpow
  clear_value b
  subst hb
  refine ⟨(ha.trans (svStop_profiles n a)).trans (refreshHead_profiles n _), ?_⟩
  rw [refreshHead_phase, svStop_phase, hphase]

/-! ## Steps over the channels of a bank -/

/-- Steps that each change their own channel: each channel of the list has had its step. -/
theorem Chans.foldl {ps : List Part} {l : List Nat} {f : State → Nat → State} {Q : Nat → VCh → VCh → Prop} (s : State) (hl : l.Nodup)
    (hstep : ∀ t n, n ∈ l → Chans ps l s t → t.vch n = s.vch n → Chans ps [n] t (f t n) ∧ Q n (t.vch n) ((f t n).vch n)) :
    Chans ps l s (l.foldl f s) ∧ ∀ n ∈ l, Q n (s.vch n) ((l.foldl f s).vch n) := by
  have hgen : ∀ r : List Nat, r.Nodup → (∀ n ∈ r, n ∈ l) → ∀ t, Chans ps l s t → (∀ n ∈ r, t.vch n = s.vch n) →
      Chans ps l s (r.foldl f t) ∧ (∀ n ∈ r, Q n (s.vch n) ((r.foldl f t).vch n)) ∧ ∀ m, m ∉ r → (r.foldl f t).vch m = t.vch m := by
    intro r
    induction r with
    | nil => exact fun _ _ t ht _ => ⟨ht, fun _ hn => absurd hn List.not_mem_nil, fun _ _ => rfl⟩
    | cons a r ih =>
      intro hr hsub t ht hsame
      obtain ⟨ha, hr⟩ := List.nodup_cons.1 hr
      obtain ⟨hone, hq⟩ := hstep t a (hsub a List.mem_cons_self) ht (hsame a List.mem_cons_self)
      have hother : ∀ m, m ≠ a → (f t a).vch m = t.vch m := fun m hm => hone.other m (by simpa using hm)
      obtain ⟨hall, hqs, hrest⟩ := ih hr (fun n hn => hsub n (List.mem_cons_of_mem a hn)) (f t a)
        (ht.trans (hone.sub fun n hn => by rw [List.mem_singleton.1 hn]; exact hsub a List.mem_cons_self))
        fun n hn => (hother n fun hc => ha (hc ▸ hn)).trans (hsame n (List.mem_cons_of_mem a hn))
      refine ⟨hall, fun n hn => ?_, fun m hm => ?_⟩
      · rcases List.mem_cons.1 hn with rfl | hn
        · rw [List.foldl_cons, hrest n ha, ← hsame n List.mem_cons_self]
          exact hq
        · exact hqs n hn
      · rw [List.foldl_cons, hrest m fun hc => hm (List.mem_cons_of_mem a hc)]
        exact hother m fun hc => hm (hc ▸ List.mem_cons_self)
  obtain ⟨hall, hqs, -⟩ := hgen l hl (fun _ h => h) s (.refl _ _ _) fun _ _ => rfl
  exact ⟨hall, hqs⟩

theorem bankChans_nodup {b : Nat} (hb : b < 6) : (bankChans b).Nodup := by
  interval_cases b <;> decide

theorem bankOf_bankChans {b n : Nat} (hb : b < 6) (hn : n ∈ bankChans b) : bankOf n = b ∧ n < 32 := by
  have hall : ∀ b < 6, ∀ n ∈ bankChans b, bankOf n = b ∧ n < 32 := by decide
  exact hall b hb n hn

/-! ## Safe states that the stages force (R225, R244) -/

theorem applySafe_only (f : Nat) (s : State) : Only [.lead, .loop] s (applySafe f s) := by
  have hdrop : Only [.lead, .loop] s (dropLead f s) := by
    unfold dropLead
    split
    · exact (updLead_only _ _).mono (by decide)
    · exact .refl _ _
  exact (hdrop.next (updLoop_only _ _)).next (updFn_only _ _ _)

theorem forceSafe_only (p : Nat → Bool) (s : State) : Only [.loop, .lead, .steer, .flow, .upd] s (forceSafe p s) := by
  unfold forceSafe
  extract_lets l t
  have ht : Only [.lead, .loop] s t := Only.foldl _ _ (fun s f => applySafe_only f s) l s
  exact .ite ((ht.mono (by decide)).next (disengage_only _ _ _)) (ht.mono (by decide))

/-! ## A bank's enable (R224–R226) -/

/-- A channel that is taken out of drive. -/
def VCh.dropped (c : VCh) : VCh := { c with live := false, duty := 0, acc := 0 }

theorem chanPowered_dead {s : State} {n : Nat} (h : (s.vch n).live = false) : chanPowered s n = false := by
  unfold chanPowered
  simp [h]

/-- What the withdrawal of a bank's enable leaves. -/
theorem bankOff_chans {b : Nat} (hb : b < 6) (s : State) :
    Chans [.valve] (bankChans b) (s.updBank b fun x => { x with enable := false, resume := none, guardDue := none }) (bankOff b s) ∧
    ∀ n ∈ bankChans b, ((bankOff b s).vch n).still = (s.vch n).dropped.still := by
  refine Chans.foldl (Q := fun _ c d => d.still = c.dropped.still) _ (bankChans_nodup hb) fun t n _ _ _ => ?_
  extract_lets u
  have hu : Chans [.valve] [n] t u := .updCh t n _
  have hchan : (u.vch n).still = (t.vch n).dropped.still ∧ (u.vch n).live = false := by
    rcases updCh_or t n VCh.dropped with h | ⟨h, h'⟩
    · exact ⟨congrArg VCh.still h, congrArg VCh.live h⟩
    · refine ⟨(congrArg VCh.still h).trans ?_, congrArg VCh.live h⟩
      rw [h']
      rfl
  have hstop := (svFollow_unpowered false (chanPowered_dead hchan.2)).1
  split
  · exact ⟨hu, hchan.1⟩
  · exact ⟨hu.trans hstop.toChans, hstop.chan.trans hchan.1⟩

end Sys2Proof.Machine

/-! Proofs of the statement on bank enables and drive supplies (10). -/

namespace Sys2Proof.Machine

set_option Elab.async false

section
variable {s : State} {b : Nat}

theorem held_of_bank_enable (h : (s.vbank b).enable = true) : b < s.valve.bank.length :=
  getD_lt (p := fun x : VBank => x.enable = true) h (by decide)

theorem held_of_bank_latched (h : (s.vbank b).latched = true) : b < s.valve.bank.length :=
  getD_lt (p := fun x : VBank => x.latched = true) h (by decide)
end

/-- The bank that has lost its enable. -/
theorem bankOff_vbank {b : Nat} (hb : b < 6) (s : State) : ((bankOff b s).vbank b).enable = false ∧ ((bankOff b s).vbank b).resume = none ∧
    ((bankOff b s).vbank b).guardDue = none := by
  obtain ⟨hchans, -⟩ := bankOff_chans hb s
  have hbank := hchans.bank b
  have hset : ((s.updBank b fun x => { x with enable := false, resume := none, guardDue := none }).vbank b).enable = false ∧
      ((s.updBank b fun x => { x with enable := false, resume := none, guardDue := none }).vbank b).resume = none ∧
      ((s.updBank b fun x => { x with enable := false, resume := none, guardDue := none }).vbank b).guardDue = none := by
    rcases Nat.lt_or_ge b s.valve.bank.length with hl | hl
    · rw [updBank_self _ hl]
      exact ⟨rfl, rfl, rfl⟩
    · rw [updBank_absent _ hl]
      exact ⟨rfl, rfl, rfl⟩
  obtain ⟨henable, hresume, hdue⟩ := hset
  exact ⟨(VBank.of_still VBank.enable (fun _ => rfl) hbank).trans henable, (VBank.of_still VBank.resume (fun _ => rfl) hbank).trans hresume, (VBank.of_still VBank.guardDue (fun _ => rfl) hbank).trans hdue⟩

theorem bankOff_only {b : Nat} (hb : b < 6) (s : State) : Only [.valve] s (bankOff b s) := (updBank_only _ _ _).trans (bankOff_chans hb s).1.only

/-- A channel of the bank whose enable falls stands without current; every other one as before. -/
theorem bankOff_vch {b : Nat} (hb : b < 6) (s : State) :
    (∀ n ∈ bankChans b, ((bankOff b s).vch n).live = false ∧ ((bankOff b s).vch n).duty = 0) ∧
      ∀ n, n ∉ bankChans b → (bankOff b s).vch n = s.vch n := by
  obtain ⟨hchans, hoff⟩ := bankOff_chans hb s
  exact ⟨fun n hn => ⟨(VCh.of_still VCh.live (fun _ => rfl) (hoff n hn)), (VCh.of_still VCh.duty (fun _ => rfl) (hoff n hn))⟩, hchans.other⟩

theorem bank_next {b : Nat} {s t : State} (hb : b < 6) (h : s = t) : withUnit (decide (b < 6)) s = .next t := unit_next hb h

/-! ## Supplies (R225) -/

/-- What the loss of its supply leaves of a bank: its guard timer runs on. -/
theorem bankUnfed_vbank {b : Nat} (hb : b < 6) (s : State) : ((bankUnfed b s).vbank b).enable = false ∧
    ((bankUnfed b s).vbank b).guardDue = (s.vbank b).guardDue := by
  obtain ⟨hchans, -⟩ := bankOff_chans hb s
  have hlen : (bankOff b s).valve.bank.length = s.valve.bank.length :=
    hchans.bankLength.trans (List.length_modify ..)
  unfold bankUnfed
  rcases Nat.lt_or_ge b s.valve.bank.length with hl | hl
  · rw [updBank_self _ (hlen ▸ hl)]
    exact ⟨(bankOff_vbank hb s).1, rfl⟩
  · rw [updBank_absent _ (hlen ▸ hl), show s.vbank b = {} from List.getD_eq_default _ _ hl]
    exact ⟨rfl, rfl⟩

theorem bankUnfed_only {b : Nat} (hb : b < 6) (s : State) : Only [.valve] s (bankUnfed b s) := (bankOff_only hb s).trans (updBank_only _ _ _)

theorem bankUnfed_vsup {b : Nat} (hb : b < 6) (s : State) (k : Nat) : ((bankUnfed b s).vsup k).still = (s.vsup k).still :=
  (bankOff_chans hb s).1.sup k

theorem bankUnfed_other {b c : Nat} (hb : b < 6) (hc : c ≠ b) (s : State) : ((bankUnfed b s).vbank c).still = (s.vbank c).still := by
  unfold bankUnfed
  rw [updBank_ne _ hc, (bankOff_chans hb s).1.bank c, updBank_ne _ hc]

/-- What the loss of a supply does to one of its banks. -/
def unfeed (s : State) (b : Nat) : State := forceBank b (bankUnfed b s)

theorem unfeed_valve (s : State) (b : Nat) : (unfeed s b).valve = (bankUnfed b s).valve := (forceSafe_only _ _).valve

/-- The enables of a supply's banks fall, their guard timers running on, and their functions are forced safe. -/
theorem banksUnfed (l : List Nat) (hl : l.Nodup) (h6 : ∀ b ∈ l, b < 6) (s : State) :
    Only [.valve, .loop, .lead, .steer, .flow, .upd] s (l.foldl unfeed s) ∧ (∀ k, ((l.foldl unfeed s).vsup k).still = (s.vsup k).still) ∧
      (∀ b ∈ l, ((l.foldl unfeed s).vbank b).enable = false ∧ ((l.foldl unfeed s).vbank b).guardDue = (s.vbank b).guardDue) ∧
      ∀ c, c ∉ l → ((l.foldl unfeed s).vbank c).still = (s.vbank c).still := by
  induction l generalizing s with
  | nil => exact ⟨.refl _ _, fun _ => rfl, fun _ h => absurd h List.not_mem_nil, fun _ _ => rfl⟩
  | cons a l ih =>
    obtain ⟨ha, hl⟩ := List.nodup_cons.1 hl
    have ha6 := h6 a List.mem_cons_self
    obtain ⟨honly, hsup, hbank, hrest⟩ := ih hl (fun b hb => h6 b (List.mem_cons_of_mem a hb)) (unfeed s a)
    have hvalve := unfeed_valve s a
    have hvsup : ∀ k, (unfeed s a).vsup k = (bankUnfed a s).vsup k := fun k => congrArg (fun v : Valve => v.sup.getD k {}) hvalve
    have hvbank : ∀ c, (unfeed s a).vbank c = (bankUnfed a s).vbank c := fun c => congrArg (fun v : Valve => v.bank.getD c {}) hvalve
    have hone : ∀ c, c ≠ a → ((unfeed s a).vbank c).still = (s.vbank c).still := fun c hc => by rw [hvbank, bankUnfed_other ha6 hc]
    refine ⟨(((bankUnfed_only ha6 s).mono (by decide)).next (forceSafe_only _ _)).trans honly, fun k => ?_, fun b hb => ?_, fun c hc => ?_⟩
    · exact (hsup k).trans (by rw [hvsup, bankUnfed_vsup ha6])
    · rcases List.mem_cons.1 hb with rfl | hmem
      · have hlast := hrest b ha
        obtain ⟨henable, hdue⟩ := bankUnfed_vbank ha6 s
        rw [hvbank] at hlast
        exact ⟨(VBank.of_still VBank.enable (fun _ => rfl) hlast).trans henable, (VBank.of_still VBank.guardDue (fun _ => rfl) hlast).trans hdue⟩
      · obtain ⟨henable, hdue⟩ := hbank b hmem
        exact ⟨henable, hdue.trans (congrArg VBank.guardDue (hone b fun hc => ha (hc ▸ hmem)) :)⟩
    · rw [List.foldl_cons, hrest c fun hmem => hc (List.mem_cons_of_mem a hmem)]
      exact hone c fun hca => hc (hca ▸ List.mem_cons_self)

theorem supplyBanks_spec {k : Nat} (hk : k < 2) : (supplyBanks k).Nodup ∧ ∀ b ∈ supplyBanks k, b < 6 := by
  interval_cases k <;> decide

/-- The report of a supply that is not present, and the absence that begins with it. -/
def VSup.reported (x : VSup) (high : Bool) (mV mono : Nat) : VSup :=
  { x with present := false, low := !high, overV := x.overV || high, condAt := mono, mV := mV, minMv := min x.minMv mV }

def VSup.absence (x : VSup) (mV mono : Nat) : VSup := { x with offCount := inc32 x.offCount, offAt := mono, offMin := mV }

/-- The supply's banks after the report, and the rail that goes with VBB. -/
def supplyGone (k : Nat) (high : Bool) (mV : Nat) (s : State) : State :=
  (supplyBanks k).foldl unfeed ((s.updSup k fun x => x.reported high mV s.tm.mono).updSup k fun x => x.absence mV s.tm.mono)

theorem exec_supplyNotPresent {s : State} {k : Nat} (high : Bool) (mV : Nat) (hk : k < 2) (hr : s.reachable = true) (hp : (s.vsup k).present = true) :
    exec (.driveSupplyNotPresent k high mV) s = .next ((if k = 1 then (supplyGone k high mV s).updSup 2 fun x => { x with present := false }
      else supplyGone k high mV s).record ⟨0x7003, k, 3, [], [], 0xFFFFFFFF, 0xF⟩) :=
  unit_next hk ((if_neg (by simp [valveOn, hr])).trans (if_neg (by simp [hp])))

/-- The rail reads absent once it is set so. -/
theorem updSup_absent_present (s : State) (k : Nat) : ((s.updSup k fun x => { x with present := false }).vsup k).present = false := by
  rcases Nat.lt_or_ge k s.valve.sup.length with hl | hl
  · rw [updSup_self _ hl]
  · rw [updSup_absent _ hl]

/-- A request that waits is rejected. -/
theorem rejectBoost_chan {n time : Nat} {s : State} (h : (s.vch n).phase = 1) : ((rejectBoost n time s).vch n).phase = 0 ∧
    ((rejectBoost n time s).vch n).rejected = true ∧ ((rejectBoost n time s).vch n).blocked = true := by
  have hl : n < s.valve.ch.length := getD_lt (p := fun c : VCh => c.phase = 1) h (by decide)
  unfold rejectBoost
  extract_lets c b boosting delay t
  have ht : t.vch n = { s.vch n with phase := 0, phaseAt := time, rejected := true, blocked := true, boostDelay := min delay 65535 } :=
    updCh_self _ hl
  obtain ⟨x, hx⟩ := refreshHead_vch n (t.record ⟨0x7006, n, teOf n, leBytes 2 boosting ++ leBytes 4 delay, [], 0xFFFFFFFF, 0xF⟩) n
  rw [hx, (record_only t _).vch n, ht]
  exact ⟨rfl, rfl, rfl⟩

/-- The waiting requests of the switching channels, rejected at a rail fault. -/
def railRejected (s : State) : State := (rangeFrom 16 16).foldl (fun s n => if (s.vch n).phase = 1 then rejectBoost n s.tm.now s else s) s

theorem railRejected_chans (s : State) : Chans [.valve, .flow, .upd] (rangeFrom 16 16) s (railRejected s) ∧ ∀ n ∈ rangeFrom 16 16,
    ((railRejected s).vch n).phase ≠ 1 ∧ ((s.vch n).phase = 1 → ((railRejected s).vch n).rejected = true ∧ ((railRejected s).vch n).blocked = true) := by
  refine Chans.foldl (Q := fun _ c d => d.phase ≠ 1 ∧ (c.phase = 1 → d.rejected = true ∧ d.blocked = true)) s (by decide) fun t n _ _ _ => ?_
  split
  next hone =>
    obtain ⟨hphase, hrej, hblock⟩ := rejectBoost_chan (time := t.tm.now) hone
    exact ⟨(rejectBoost_profiles n t.tm.now t).toChans, by rw [hphase]; decide, fun _ => ⟨hrej, hblock⟩⟩
  next hnot => exact ⟨.refl _ _ _, hnot, fun h => absurd h hnot⟩

/-- What a bank's clear leaves of its channels. -/
def bankCleared (b : Nat) (s : State) : State :=
  (bankChans b).foldl (fun s n => if (s.vch n).uncommanded then chanFault n false (fun c => { c with uncommanded := false }) s else s) s

theorem bankCleared_chans {b : Nat} (hb : b < 6) (s : State) : Chans [.valve, .flow, .upd] (bankChans b) s (bankCleared b s) ∧
    ∀ n ∈ bankChans b, ((bankCleared b s).vch n).uncommanded = false := by
  refine Chans.foldl (Q := fun _ _ d => d.uncommanded = false) s (bankChans_nodup hb) fun t n _ _ _ => ?_
  split
  next hon =>
    have hl : n < t.valve.ch.length := getD_lt (p := fun c : VCh => c.uncommanded = true) hon (by decide)
    refine ⟨chanFault_chans _ _ _ _, ?_⟩
    rw [chanFault_eq, (record_only _ _).vch, updCh_self _ hl]
  next hoff => exact ⟨.refl _ _ _, Bool.eq_false_iff.2 hoff⟩

/-- An admitted BankCommand is carried out on its bank. -/
theorem valveWrite_bank {b : Nat} {w : Ctx} {v : Val} {s : State} (hb : b < 6) (h : preCheck w (0x4040 + b) 9 v = 0) :
    valveWrite w (0x4040 + b) 9 v s = bankCommand b s := by
  refine (if_pos h).trans ((if_neg (by omega)).trans ((if_pos (by omega)).trans ((if_pos rfl).trans ?_)))
  rw [Nat.add_sub_cancel_left]

theorem exec_bank {b k : Nat} {s t : State} (hb : b < 6) (h : s.admits k (0x4040 + b) 9 (.int 1)) (hcmd : bankCommand b (s.touch k) = .ok t) :
    exec (.bankCommand k b 1) s = .next (t.ack k) :=
  guarded_next hb (served_ok (w := fun w => valveWrite w (0x4040 + b) 9 (.int 1)) h.serves ((valveWrite_bank hb h.2).trans hcmd))

/-- A latched bank whose channels are off, and have passed the test of an uncommanded current, is cleared. -/
theorem bankCommand_clears {b : Nat} {s : State} (hlat : (s.vbank b).latched = true) (hoff : ∀ n ∈ bankChans b, (s.vch n).cmd = 0)
    (htest : ∀ n ∈ bankChans b, (s.vch n).uncommanded = true → (s.vch n).offOk = true) :
    ∃ t, t = bankCleared b (s.updBank b fun x => { x with latched := false, hsTrip := false, trips := [] }) ∧
      bankCommand b s = .ok (if bankMay t b then bankGrant b t else t) := by
  refine ⟨_, rfl, (if_neg (by simp [hlat])).trans (if_neg ?_)⟩
  rw [List.any_eq_true, List.any_eq_true]
  rintro (⟨n, hn, h⟩ | ⟨n, hn, h⟩)
  · simp [hoff n hn] at h
  · simp only [Bool.and_eq_true, Bool.not_eq_true'] at h
    rw [htest n hn h.1] at h
    exact absurd h.2 (by decide)

/-- A supply that is present again, and the rail that comes with VBB. -/
def supplyReturned (k : Nat) (v : Int) (s : State) : State :=
  if k = 1 then (s.updSup k fun x => { x with present := true, low := false, overV := false, seen := true, mV := v.toNat }).updSup 2 fun x => { x with present := true }
  else s.updSup k fun x => { x with present := true, low := false, overV := false, seen := true, mV := v.toNat }

theorem supplyReturned_valve (k : Nat) (v : Int) (s : State) : Only [.valve] s (supplyReturned k v s) ∧
    (supplyReturned k v s).valve.bank = s.valve.bank ∧ (supplyReturned k v s).valve.ch = s.valve.ch := by
  unfold supplyReturned
  split
  · exact ⟨(updSup_only _ _ _).trans (updSup_only _ _ _), rfl, rfl⟩
  · exact ⟨updSup_only _ _ _, rfl, rfl⟩

theorem supplyReturned_vsup {k : Nat} (v : Int) {s : State} (hl : k < s.valve.sup.length) : (supplyReturned k v s).vsup k =
    { s.vsup k with present := true, low := false, overV := false, seen := true, mV := v.toNat } := by
  unfold supplyReturned
  split
  · rw [updSup_ne _ (by omega), updSup_self _ hl]
  · rw [updSup_self _ hl]

/-- A supply is present again 20 ms after the last report that it was not. -/
theorem exec_supplyPresent {s : State} {k : Nat} (hk : k < 2) (hr : s.reachable = true) (hp : (s.vsup k).present = false)
    (hwait : (s.vsup k).condAt + 20000000 ≤ s.tm.mono) : exec (.driveSupplyPresent k) s = .next (
      if (s.vsup k).seen then (supplyReturned k s.freeInt.1 s.freeInt.2).record (supplyBack k (s.vsup k).offMin (s.tm.mono - (s.vsup k).offAt))
      else supplyReturned k s.freeInt.1 s.freeInt.2) := by
  refine unit_next hk ((if_neg (show ¬((!s.reachable) = true ∨ (s.vsup k).present = true ∨ s.tm.mono < (s.vsup k).condAt + 20000000) by
    simp [hr, hp, hwait])).trans ?_)
  show (if (s.vsup k).seen then (supplyReturned k s.freeInt.1 s.freeInt.2).record (supplyBack k (s.vsup k).offMin
    ((supplyReturned k s.freeInt.1 s.freeInt.2).tm.mono - (s.vsup k).offAt)) else supplyReturned k s.freeInt.1 s.freeInt.2) = _
  rw [(supplyReturned_valve k s.freeInt.1 s.freeInt.2).1.tm]
  rfl

/-- The rail as a fault that clears leaves it. -/
def railCleared (s : State) : State := s.freeInt.2.updSup 2 fun x => { x with fault := false, offMin := s.freeInt.1.toNat }

theorem exec_railFaultClear {s : State} (h : (s.vsup 2).fault = true) : exec .railFaultClear s =
    .next ((railCleared s).record (supplyBack 2 s.freeInt.1.toNat (s.tm.mono - (s.vsup 2).offAt))) :=
  congrArg Host.Outcome.next (if_pos h)

theorem railCleared_only (s : State) : Only [.valve, .free] s (railCleared s) := ((freeInt_only s).mono (by decide)).next (updSup_only _ _ _)

theorem railCleared_vsup {s : State} (h : (s.vsup 2).fault = true) : ((railCleared s).vsup 2).fault = false :=
  (congrArg VSup.fault (updSup_self (s := s.freeInt.2) _ (getD_lt (p := fun x : VSup => x.fault = true) h (by decide))) :)

/-- Settles O38: the enables by `bankOff_vch` and `bankUnfed_vbank`, a resume by what a profile leaves, the rest by branches. -/
theorem banksAndSupplies : Obligations.BanksAndSupplies := by
  unfold Obligations.BanksAndSupplies
  refine ⟨fun s b hb hmay hoff => bank_next hb ((if_pos rfl).trans (if_pos (by simp [hmay, hoff]))),
    fun s b hb hmay => bank_next hb ((if_pos rfl).trans (if_neg (by simp [hmay]))), fun s b hb hon => ?_, fun s b k n hb hres hn hl => ?_,
    fun s b hb hres => ?_, fun s k high mV hk hr hp => ?_, fun s k hk hr hp hwait hl => ?_,
    fun s k hk hwait => unit_next hk (if_pos (.inr (.inr hwait))), fun s hr hf hl => ?_, fun s hf => ?_,
    fun s k b hb h hlat hoff htest => ?_, fun s k b hb h hlat hon => ?_⟩
  · obtain ⟨henable, hresume, hdue⟩ := bankOff_vbank hb s
    exact .intro (bank_next hb ((if_neg (by simp)).trans (if_pos hon))) ⟨bankOff_only hb s, henable, hresume, hdue, bankOff_vch hb s⟩
  · have hbank : b < s.valve.bank.length := getD_lt (p := fun x : VBank => x.resume = some k) hres (by simp)
    obtain ⟨d, hd⟩ : ∃ d, (s.updBank b fun x => { x with resume := if k + 1 < (bankChans b).length then some (k + 1) else none }).updCh n
        (fun c => { c with live := true }) = d := ⟨_, rfl⟩
    have hexec : exec (.bankResumeSlot b) s = .next (if n < 16 then d else svFollow false n d) := by
      refine bank_next hb ?_
      rw [hres]
      dsimp only
      rw [hn]
      exact hd ▸ rfl
    have hlive : (d.vch n).live = true := by rw [← hd, updCh_self _ (show n < (s.updBank b _).valve.ch.length from hl)]
    have hresume : (d.vbank b).resume = if k + 1 < (bankChans b).length then some (k + 1) else none := by
      rw [← hd, updCh_vbank, updBank_self _ hbank]
    have hother : ∀ m, m ≠ n → d.vch m = s.vch m := fun m hm => by rw [← hd, updCh_ne _ hm, updBank_vch]
    have honly : Only [.valve, .free, .flow, .upd] s d := hd ▸ ((updBank_only s b _).mono (by decide)).next (updCh_only _ _ _)
    have hp : Profiles [.valve, .free, .flow, .upd] n d (if n < 16 then d else svFollow false n d) := .ite (.refl _ _ _) (svFollow_profiles false n d)
    exact .intro hexec ⟨honly.trans hp.only, (VCh.of_still VCh.live (fun _ => rfl) hp.chan).trans hlive, (VBank.of_still VBank.resume (fun _ => rfl) (hp.bank b)).trans hresume,
      fun m hm => (hp.other m (by simpa using hm)).trans (hother m hm)⟩
  · refine bank_next hb ?_
    rw [hres]
  · obtain ⟨hnd, h6⟩ := supplyBanks_spec hk
    have hl : k < s.valve.sup.length := getD_lt (p := fun x : VSup => x.present = true) hp (by decide)
    obtain ⟨honly, hsup, hbank, -⟩ := banksUnfed (supplyBanks k) hnd h6
      ((s.updSup k fun x => x.reported high mV s.tm.mono).updSup k fun x => x.absence mV s.tm.mono)
    have hgone : Only [.valve, .loop, .lead, .steer, .flow, .upd] s (supplyGone k high mV s) :=
      ((updSup_only _ _ _).mono (by decide)).trans (((updSup_only _ _ _).mono (by decide)).trans honly)
    have hself : ((supplyGone k high mV s).vsup k).still = (((s.vsup k).reported high mV s.tm.mono).absence mV s.tm.mono).still := by
      refine (hsup k).trans ?_
      rw [updSup_self _ (show k < (s.updSup k _).valve.sup.length from (List.length_modify ..).symm ▸ hl), updSup_self _ hl]
    obtain ⟨u, hu⟩ : ∃ u, (if k = 1 then (supplyGone k high mV s).updSup 2 fun x => { x with present := false } else supplyGone k high mV s) = u :=
      ⟨_, rfl⟩
    have huonly : Only [.valve] (supplyGone k high mV s) u := hu ▸ .ite (updSup_only _ _ _) (.refl _ _)
    have huself : u.vsup k = (supplyGone k high mV s).vsup k := by
      rw [← hu]
      split
      · exact updSup_ne _ (by omega)
      · rfl
    have hubank : ∀ b, u.vbank b = (supplyGone k high mV s).vbank b := by
      intro b
      rw [← hu]
      split <;> rfl
    have hrail : k = 1 → (u.vsup 2).present = false := by
      intro h1
      rw [← hu, if_pos h1]
      exact updSup_absent_present _ _
    have hrec := record_only u ⟨0x7003, k, 3, [], [], 0xFFFFFFFF, 0xF⟩
    have hexec := exec_supplyNotPresent high mV hk hr hp
    rw [hu] at hexec
    refine .intro hexec ⟨(hgone.next huonly).next hrec, ?_⟩
    simp only [hrec.vsup, hrec.vbank, huself, hubank]
    exact ⟨(VSup.of_still VSup.present (fun _ => rfl) hself), (VSup.of_still VSup.low (fun _ => rfl) hself), (VSup.of_still VSup.mV (fun _ => rfl) hself), (VSup.of_still VSup.offAt (fun _ => rfl) hself),
      (VSup.of_still VSup.offCount (fun _ => rfl) hself), hbank, hrail⟩
  · obtain ⟨honly, hbank, hch⟩ := supplyReturned_valve k s.freeInt.1 s.freeInt.2
    have hself := supplyReturned_vsup s.freeInt.1 (s := s.freeInt.2) hl
    have hfree : Only [.valve, .free, .flow, .upd] s (supplyReturned k s.freeInt.1 s.freeInt.2) :=
      ((freeInt_only s).mono (by decide)).next honly
    refine .intro (exec_supplyPresent hk hr hp hwait) ?_
    by_cases hseen : (s.vsup k).seen = true
    · rw [if_pos hseen]
      have hrec := record_only (supplyReturned k s.freeInt.1 s.freeInt.2) (supplyBack k (s.vsup k).offMin (s.tm.mono - (s.vsup k).offAt))
      refine ⟨hfree.next hrec, ?_⟩
      rw [hrec.vsup, hrec.valve, hself]
      exact ⟨rfl, rfl, rfl, hbank, hch, fun _ => (Recorded.self _ _).base honly.flow honly.pw honly.dict (congrArg Tm.now honly.tm)
        (congrArg Tm.mono honly.tm)⟩
    · rw [if_neg hseen]
      refine ⟨hfree, ?_⟩
      rw [hself]
      exact ⟨rfl, rfl, rfl, hbank, hch, fun h => absurd h hseen⟩
  · obtain ⟨t, ht⟩ : ∃ t, s.updSup 2 (fun x => { x with fault := true, offAt := s.tm.mono, offCount := inc32 x.offCount }) = t := ⟨_, rfl⟩
    have htonly : Only [.valve] s t := ht ▸ updSup_only _ _ _
    have hrec := record_only t ⟨0x7003, 2, 3, [], [], 0xFFFFFFFF, 0xF⟩
    have hexec : exec .railFault s = .next (railRejected (t.record ⟨0x7003, 2, 3, [], [], 0xFFFFFFFF, 0xF⟩)) := by
      rw [← ht]
      exact congrArg Host.Outcome.next (if_neg (by simp [valveOn, hr, hf]))
    obtain ⟨hchans, hq⟩ := railRejected_chans (t.record ⟨0x7003, 2, 3, [], [], 0xFFFFFFFF, 0xF⟩)
    have hsup := hchans.sup 2
    have hself : t.vsup 2 = { s.vsup 2 with fault := true, offAt := s.tm.mono, offCount := inc32 (s.vsup 2).offCount } := ht ▸ updSup_self _ hl
    rw [hrec.vsup, hself] at hsup
    refine .intro hexec ⟨((htonly.mono (by decide)).next hrec).trans hchans.only, (VSup.of_still VSup.fault (fun _ => rfl) hsup), (VSup.of_still VSup.offCount (fun _ => rfl) hsup),
      fun n hlo hhi => ?_⟩
    obtain ⟨hphase, hwas⟩ := hq n (List.mem_map.2 ⟨n - 16, List.mem_range.2 (by omega), by omega⟩)
    refine ⟨hphase, fun h => hwas ?_⟩
    rw [hrec.vch, ← ht]
    exact h
  · have hrec := record_only (railCleared s) (supplyBack 2 s.freeInt.1.toNat (s.tm.mono - (s.vsup 2).offAt))
    refine .intro (exec_railFaultClear hf) ⟨((railCleared_only s).mono (by decide)).next hrec, ?_⟩
    rw [hrec.vsup, hrec.valve]
    exact ⟨railCleared_vsup hf, rfl, rfl⟩
  · obtain ⟨t, ht, hcmd⟩ := bankCommand_clears (s := s.touch k) hlat hoff htest
    obtain ⟨hchans, hclear⟩ := bankCleared_chans hb ((s.touch k).updBank b fun x => { x with latched := false, hsTrip := false, trips := [] })
    rw [← ht] at hchans hclear
    have hbank := hchans.bank b
    rw [updBank_self _ (held_of_bank_latched (s := s.touch k) hlat)] at hbank
    have honly : Only [.valve, .flow, .upd] (s.touch k) t := ((updBank_only _ _ _).mono (by decide)).trans hchans.only
    obtain ⟨u, hu⟩ : ∃ u, (if bankMay t b then bankGrant b t else t) = u := ⟨_, rfl⟩
    rw [hu] at hcmd
    have hgrant : Only [.valve] t u ∧ (u.vbank b).latched = (t.vbank b).latched ∧ (u.vbank b).hsTrip = (t.vbank b).hsTrip ∧ ∀ n, u.vch n = t.vch n := by
      rw [← hu]
      split
      · exact ⟨updBank_only _ _ _, updBank_keeps_of VBank.latched fun _ => rfl, updBank_keeps_of VBank.hsTrip fun _ => rfl, fun _ => rfl⟩
      · exact ⟨.refl _ _, rfl, rfl, fun _ => rfl⟩
    obtain ⟨hgonly, hglat, hgtrip, hgch⟩ := hgrant
    exact .intro (exec_bank hb h hcmd) ⟨honly.next hgonly, hglat.trans (VBank.of_still VBank.latched (fun _ => rfl) hbank), hgtrip.trans (VBank.of_still VBank.hsTrip (fun _ => rfl) hbank),
      fun n hn => (congrArg VCh.uncommanded (hgch n)).trans (hclear n hn)⟩
  · refine guarded_next hb (served_error (w := fun w => valveWrite w (0x4040 + b) 9 (.int 1)) h.serves ((valveWrite_bank hb h.2).trans ?_))
    refine (if_neg (show ¬(!(s.vbank b).latched) = true by simp [hlat])).trans (if_pos (.inl ?_))
    obtain ⟨n, hn, hcmd⟩ := hon
    exact List.any_eq_true.2 ⟨n, hn, bne_iff_ne.2 hcmd⟩

end Sys2Proof.Machine

/-! Proofs of the statements on the regulation of proportional channels, coil temperatures and the profiles of switching channels (10). -/

namespace Sys2Proof.Machine

set_option Elab.async false

/-! ## One regulation period (R228, R229) -/

theorem clampQ_between {lo hi : Rat} (v : Rat) (h : lo ≤ hi) : lo ≤ clampQ lo hi v ∧ clampQ lo hi v ≤ hi := by
  unfold clampQ
  split
  · exact ⟨le_refl _, h⟩
  · split
    · exact ⟨h, le_refl _⟩
    · exact ⟨by linarith, by linarith⟩

theorem drive_between (c : Prop) [Decidable c] (v : Rat) :
    0 ≤ (if c then clampQ 0 (98 / 100) v else 0) ∧ (if c then clampQ 0 (98 / 100) v else 0) ≤ 98 / 100 := by
  split
  · exact clampQ_between v (by norm_num)
  · exact ⟨le_refl _, by norm_num⟩

/-- What one period gives of a channel: a duty between 0 and 0.98, and a target of at most CurrentLimit. -/
theorem pvPeriod_bounds (x : PvIn) (s : State) (n : Nat) (c : VCh) :
    0 ≤ (pvPeriod x s n c).duty ∧ (pvPeriod x s n c).duty ≤ 98 / 100 ∧ (pvPeriod x s n c).target ≤ s.nat (0x4000 + n) 0x10 := by
  unfold pvPeriod
  extract_lets o im t0 raw t on e acc res ff duty
  refine ⟨(drive_between _ _).1, (drive_between _ _).2, ?_⟩
  show pvTarget s n ≤ _
  unfold pvTarget
  dsimp only
  split
  · exact (min_le_left _ _).trans (min_le_right _ _)
  · exact min_le_right _ _

/-- A channel that may not be driven is given neither duty nor integrator. -/
theorem pvPeriod_unpowered (x : PvIn) {s : State} {n : Nat} (c : VCh) (h : chanPowered s n = false) :
    (pvPeriod x s n c).duty = 0 ∧ (pvPeriod x s n c).acc = 0 := by
  unfold pvPeriod
  extract_lets o im t0 raw t on e acc res ff duty
  have hoff : ¬on = true := by simp [on, h]
  exact ⟨if_neg hoff, if_neg hoff⟩

/-- The stages after one regulation period. -/
def regulated (x : PvIn) (s : State) : State :=
  s.updValve fun v => { v with ch := v.ch.mapIdx fun n c => if n < 16 then pvPeriod x s n c else c }

theorem regulated_vch (x : PvIn) {s : State} {n : Nat} (hl : n < s.valve.ch.length) :
    (regulated x s).vch n = if n < 16 then pvPeriod x s n (s.vch n) else s.vch n := by
  unfold regulated State.vch
  simp [List.getD_eq_getElem?_getD, hl]

theorem regulated_absent (x : PvIn) {s : State} {n : Nat} (hl : s.valve.ch.length ≤ n) : (regulated x s).vch n = s.vch n := by
  have hlen : (regulated x s).valve.ch.length ≤ n := by
    unfold regulated
    simpa using hl
  rw [vch_absent hlen, vch_absent hl]

/-! ## Faults of a channel with their records -/

theorem channelStatus_record (s : State) (e : FlowEv) (n : Nat) : channelStatus (s.record e) n = channelStatus s n := by
  have heq : s.record e = { s with flow := (s.record e).flow, upd := (s.record e).upd } := by
    have h := record_only s e
    generalize s.record e = t at h
    cases s
    cases t
    simp only [State.mk.injEq]
    exact ⟨h.tm, h.pw, h.belay, trivial, h.serv, h.per, h.net, h.sky, h.skyio, h.sens, h.pas, h.pctl, h.lead, h.dict, h.steer, h.opt, h.yield, h.fleet, h.loop,
      h.trace, h.fio, h.valve, h.can, h.lan, trivial, h.free, h.pending⟩
  rw [heq]
  rfl

/-- A fault of a channel that the state holds: the channel, the others, and the record. -/
theorem chanFault_spec {n : Nat} (raised : Bool) (f : VCh → VCh) {s : State} (hl : n < s.valve.ch.length) :
    Only [.valve, .flow, .upd] s (chanFault n raised f s) ∧ (chanFault n raised f s).vch n = f (s.vch n) ∧
      (∀ m, m ≠ n → (chanFault n raised f s).vch m = s.vch m) ∧
      Recorded ⟨if raised then 0x7001 else 0x7002, n, teOf n, leBytes 2 (channelStatus (chanFault n raised f s) n), [], 0xFFFFFFFF, 0xF⟩ s
        (chanFault n raised f s) := by
  have hch := chanFault_chans n raised f s
  refine ⟨hch.only, ?_, fun m hm => hch.other m (by simpa using hm), ?_⟩
  · rw [chanFault_eq, (record_only _ _).vch, updCh_self _ hl]
  · rw [chanFault_eq, channelStatus_record]
    exact (Recorded.self (s.updCh n f) _).base rfl rfl rfl rfl rfl

/-- An update of a channel that the state holds, with a record. -/
theorem updCh_recorded {n : Nat} (f : VCh → VCh) {s : State} (e : FlowEv) (hl : n < s.valve.ch.length) :
    Only [.valve, .flow, .upd] s ((s.updCh n f).record e) ∧ ((s.updCh n f).record e).vch n = f (s.vch n) ∧
      (∀ m, m ≠ n → ((s.updCh n f).record e).vch m = s.vch m) ∧ Recorded e s ((s.updCh n f).record e) := by
  have hrec := record_only (s.updCh n f) e
  exact ⟨((updCh_only _ _ _).mono (by decide)).next hrec, by rw [hrec.vch, updCh_self _ hl], fun m hm => by rw [hrec.vch, updCh_ne _ hm],
    (Recorded.self (s.updCh n f) _).base rfl rfl rfl rfl rfl⟩

theorem held_of_phase {s : State} {n : Nat} (h : (s.vch n).phase ≠ 0) : n < s.valve.ch.length :=
  getD_lt (p := fun c : VCh => c.phase ≠ 0) h (by decide)

theorem sv_next {n : Nat} {s t : State} (hlo : 16 ≤ n) (hhi : n < 32) (h : s = t) : withUnit (isSv n) s = .next t := by
  rw [withUnit_next (by simp [isSv, hlo, hhi]), h]

theorem pv_next {n : Nat} {s t : State} (hn : n < 16) (h : s = t) : withUnit (isPv n) s = .next t := unit_next hn h

theorem chan_next {n : Nat} {s t : State} (hn : n < 32) (h : s = t) : withUnit (isChan n) s = .next t := unit_next hn h

/-! ## CoilTemp (R240) -/

/-- The state in which a channel's estimate has been formed. -/
def coilFormed (n : Nat) (res : Option Nat) (board : Int) (s : State) : State :=
  (s.updBank (bankOf n) fun b => { b with boardTemp := board }).updCh n (coilUpdate n (s.nat (vObj n) 5) (s.nat (vObj n) 6) s.tm.mono res board)

theorem exec_coilTempUpdate {s : State} {n : Nat} (res : Option Nat) (board : Int) (hn : n < 32) (hr : s.reachable = true) :
    exec (.coilTempUpdate n res board) s = .next (pvThermal n (coilFormed n res board s)) :=
  chan_next hn (if_neg (by simp [valveOn, hr]))

/-- The thermal limit of a proportional channel with its hysteresis. -/
theorem pvThermal_spec (n : Nat) {s : State} (hl : n < s.valve.ch.length) :
    Only [.valve, .flow, .upd] s (pvThermal n s) ∧ ((pvThermal n s).vch n).coilTemp = (s.vch n).coilTemp ∧
      ((pvThermal n s).vch n).coilRes = (s.vch n).coilRes ∧ (∀ b, (pvThermal n s).vbank b = s.vbank b) ∧
      (n < 16 → s.int (0x4000 + n) 7 * 10 ≤ (s.vch n).coilTemp → ((pvThermal n s).vch n).thermal = true) ∧
      (n < 16 → (s.vch n).coilTemp < s.int (0x4000 + n) 7 * 10 - 100 → ((pvThermal n s).vch n).thermal = false) := by
  have hset : ∀ raised v, Only [.valve, .flow, .upd] s (chanFault n raised (fun c => { c with thermal := v }) s) ∧
      (chanFault n raised (fun c => { c with thermal := v }) s).vch n = { s.vch n with thermal := v } ∧
      ∀ b, (chanFault n raised (fun c => { c with thermal := v }) s).vbank b = s.vbank b := by
    intro raised v
    obtain ⟨honly, hself, -, -⟩ := chanFault_spec raised (fun c => { c with thermal := v }) hl
    refine ⟨honly, hself, fun b => ?_⟩
    rw [chanFault_eq, (record_only _ _).vbank]
    rfl
  unfold pvThermal
  extract_lets c lim
  have hlim : s.int (vObj n) 7 = s.int (0x4000 + n) 7 := rfl
  have htemp : c.coilTemp = (s.vch n).coilTemp := rfl
  split
  next hsv =>
    have hno : ¬n < 16 := by simpa [isPv] using hsv
    exact ⟨.refl _ _, rfl, rfl, fun _ => rfl, fun h => absurd h hno, fun h => absurd h hno⟩
  next hpv =>
    split
    next hover =>
      obtain ⟨honly, hself, hbank⟩ := hset true true
      rw [hself]
      exact ⟨honly, rfl, rfl, hbank, fun _ _ => rfl, fun _ hlow => absurd hlow (by have := hover.2; omega)⟩
    next hnot =>
      split
      next hunder =>
        obtain ⟨honly, hself, hbank⟩ := hset false false
        rw [hself]
        exact ⟨honly, rfl, rfl, hbank, fun _ hhigh => absurd hunder.2 (by omega), fun _ _ => rfl⟩
      next hin =>
        refine ⟨.refl _ _, rfl, rfl, fun _ => rfl, fun _ hhigh => ?_, fun _ hlow => ?_⟩
        · by_contra hc
          exact hnot ⟨by simpa using hc, hhigh⟩
        · by_contra hc
          exact hin ⟨by simpa using hc, hlow⟩

theorem coilFormed_only (n : Nat) (res : Option Nat) (board : Int) (s : State) : Only [.valve] s (coilFormed n res board s) :=
  (updBank_only _ _ _).trans (updCh_only _ _ _)

theorem coilFormed_vch {n : Nat} (res : Option Nat) (board : Int) {s : State} (hl : n < s.valve.ch.length) : (coilFormed n res board s).vch n =
    coilUpdate n (s.nat (vObj n) 5) (s.nat (vObj n) 6) s.tm.mono res board (s.vch n) :=
  updCh_self (s := s.updBank (bankOf n) fun b => { b with boardTemp := board }) _ hl

/-- A channel's estimate, case by case. -/
theorem coilUpdate_noRef {n ref tau mono : Nat} (res : Option Nat) (board : Int) (c : VCh) (h : ref = 0) :
    coilUpdate n ref tau mono res board c = c.setTemp board board mono := if_pos h

theorem coilUpdate_cold {n ref tau mono : Nat} (res : Option Nat) (board : Int) {c : VCh} (h : ref ≠ 0) (hc : coilCold c n = true) :
    (coilUpdate n ref tau mono res board c).coilTemp = relaxed c.tempFrom c.tempBoard (mono - c.tempAt) tau ∧
      (coilUpdate n ref tau mono res board c).coilRes = c.coilRes := by
  unfold coilUpdate
  rw [if_neg h, if_pos hc]
  dsimp only
  split <;> exact ⟨rfl, rfl⟩

theorem coilUpdate_warm {n ref tau mono : Nat} (res : Option Nat) (board : Int) {c : VCh} (h : ref ≠ 0) (hc : coilCold c n = false) :
    coilUpdate n ref tau mono res board c = match res with
      | some r => { c with coilRes := r }.setTemp (coilTempOf r ref) board mono
      | none => c.setTemp c.coilTemp board mono := (if_neg h).trans (if_neg (Bool.eq_false_iff.1 hc))

/-! ## STUCK (R231) -/

section
variable {s : State} {n c d : Nat} (hn : n < 16) (hsel : s.nat (0x4000 + n) 0x18 ≠ 0xFF)
include hn hsel

theorem exec_stuck_sets (hno : (s.vch n).stuck = false) (hc : s.nat (0x4000 + n) 0x19 ≤ c) (hd : d < s.nat (0x4000 + n) 0x1A) :
    exec (.stuck n c d) s = .next ((s.updCh n fun c => { c with stuck := true }).record
      ⟨0x7008, n, teOf n, leBytes 2 c ++ leBytes 2 d, [], 0xFFFFFFFF, 0xF⟩) :=
  pv_next hn ((if_neg hsel).trans (if_pos ⟨by simp [hno], hc, hd⟩))

theorem exec_stuck_clears (hon : (s.vch n).stuck = true) (hd : s.nat (0x4000 + n) 0x1A ≤ d) :
    exec (.stuck n c d) s = .next ((s.updCh n fun c => { c with stuck := false }).record
      ⟨0x7009, n, teOf n, leBytes 2 c ++ leBytes 2 d, [], 0xFFFFFFFF, 0xF⟩) :=
  pv_next hn ((if_neg hsel).trans ((if_neg (by simp [hon])).trans (if_pos ⟨hon, hd⟩)))
end

/-- Settles O39: the period by what `pvPeriod` gives, the temperatures by the cases of `coilUpdate` and `pvThermal_spec`. -/
theorem pvAndCoils : Obligations.PvAndCoils := by
  unfold Obligations.PvAndCoils
  refine ⟨fun s x hr => ?_, fun s n hlo hhi hphase hfree hhot => ?_, fun s n hlo hhi hoff => ?_, fun s n r x hn hl hr href hwarm => ?_,
    fun s n r x hn hl hr => ?_, fun s n c d hn hl hsel hno hc hd => ?_, fun s n c d hn hsel hon hd => ?_,
    fun s n c d hn hsel => pv_next hn (if_pos hsel)⟩
  · refine .intro (t := regulated x s) (congrArg Host.Outcome.next (if_pos hr)) ⟨updValve_only _ _, rfl, rfl, fun n hn => ?_, fun n hn hl => ?_⟩
    · rcases Nat.lt_or_ge n s.valve.ch.length with hl | hl
      · rw [regulated_vch x hl, if_neg (by omega)]
      · exact regulated_absent x hl
    · obtain ⟨hpos, hmax, htarget⟩ := pvPeriod_bounds x s n (s.vch n)
      rw [regulated_vch x hl, if_pos hn]
      exact ⟨rfl, hpos, hmax, htarget, pvPeriod_unpowered x _⟩
  · have hnot : ¬((s.vch n).phase = 0 ∨ ((s.vch n).thermal = true ∧ (s.vch n).cut = true) ∨ (s.vch n).coilTemp < s.int (vObj n) 7 * 10) := by
      rintro (h | ⟨h, h'⟩ | h)
      · exact hphase h
      · rcases hfree with hf | hf
        · exact Bool.eq_false_iff.1 hf h
        · exact Bool.eq_false_iff.1 hf h'
      · exact absurd hhot (Int.not_le.2 h)
    exact .intro (sv_next hlo hhi (if_neg hnot)) (chanFault_spec true _ (held_of_phase hphase))
  · exact sv_next hlo hhi (if_pos (hoff.imp_right .inr))
  · obtain ⟨honly, htemp, hres, -, hhigh, hlow⟩ := pvThermal_spec n (s := coilFormed n (some r) x s) (by
      unfold coilFormed
      exact (List.length_modify ..).symm ▸ hl)
    have hself : (coilFormed n (some r) x s).vch n = { s.vch n with coilRes := r }.setTemp (coilTempOf r (s.nat (vObj n) 5)) x s.tm.mono :=
      (coilFormed_vch (some r) x hl).trans (coilUpdate_warm (some r) x href hwarm)
    have hint : (coilFormed n (some r) x s).int (0x4000 + n) 7 = s.int (0x4000 + n) 7 := rfl
    rw [hint] at hhigh hlow
    refine .intro (exec_coilTempUpdate (some r) x hn hr) ⟨((coilFormed_only _ _ _ _).mono (by decide)).trans honly, ?_, ?_, ?_, ?_⟩
    · rw [htemp, hself]; rfl
    · rw [hres, hself]; rfl
    · rw [htemp]; exact hhigh
    · rw [htemp]; exact hlow
  · obtain ⟨honly, htemp, hres, hbank, -, -⟩ := pvThermal_spec n (s := coilFormed n r x s) (by
      unfold coilFormed
      exact (List.length_modify ..).symm ▸ hl)
    have hself := coilFormed_vch r x hl
    refine .intro (exec_coilTempUpdate r x hn hr) ⟨((coilFormed_only _ _ _ _).mono (by decide)).trans honly, fun hb => ?_, fun href => ?_,
      fun href hc => ?_, fun href hwarm hnone => ?_⟩
    · rw [hbank]
      exact (congrArg VBank.boardTemp (updBank_self (s := s) (fun b => { b with boardTemp := x }) hb) :)
    · rw [htemp, hres, hself, coilUpdate_noRef r x _ href]
      exact ⟨rfl, rfl⟩
    · obtain ⟨hct, hcr⟩ := coilUpdate_cold (tau := s.nat (vObj n) 6) (mono := s.tm.mono) r x href hc
      rw [htemp, hres, hself]
      exact ⟨hcr, hct⟩
    · subst hnone
      rw [htemp, hres, hself, coilUpdate_warm none x href hwarm]
      exact ⟨rfl, rfl⟩
  · exact .intro (exec_stuck_sets hn hsel hno hc hd) (updCh_recorded _ _ hl)
  · exact .intro (exec_stuck_clears hn hsel hon hd) (updCh_recorded _ _ (getD_lt (p := fun c : VCh => c.stuck = true) hon (by decide)))

end Sys2Proof.Machine

/-! Proofs of the statement on the phases of a switching channel's profile (10). -/

namespace Sys2Proof.Machine

set_option Elab.async false

/-! ## Entering a phase (R232) -/

/-- A channel that enters a phase. -/
def VCh.entered (c : VCh) (p time : Nat) : VCh := { c with phase := p, phaseAt := time, distorted := false, lowMean := false }

theorem enterPhase_vch {n : Nat} (p time : Nat) {s : State} (hl : n < s.valve.ch.length) :
    (enterPhase n p time s).vch n = (s.vch n).entered p time ∧ ∀ m, m ≠ n → (enterPhase n p time s).vch m = s.vch m :=
  ⟨updCh_self _ hl, fun _ hm => updCh_ne _ hm⟩

/-- A boost that ends, after an update of the channel that leaves its profile. -/
theorem afterBoost_vch {n : Nat} (time : Nat) (f : VCh → VCh) {s : State} (hl : n < s.valve.ch.length) (hf : (f (s.vch n)).prof = (s.vch n).prof) :
    Only [.valve] s (afterBoost n time (s.updCh n f)) ∧
      (afterBoost n time (s.updCh n f)).vch n = (f (s.vch n)).entered (if (s.vch n).prof.getD 2 0 = 0 then 4 else 3) time ∧
      ∀ m, m ≠ n → (afterBoost n time (s.updCh n f)).vch m = s.vch m := by
  obtain ⟨hself, hother⟩ := enterPhase_vch (n := n) (if ((s.updCh n f).vch n).prof.getD 2 0 = 0 then 4 else 3) time (s := s.updCh n f)
    ((List.length_modify ..).symm ▸ hl)
  refine ⟨(updCh_only _ _ _).trans (updCh_only _ _ _), hself.trans ?_, fun m hm => (hother m hm).trans (updCh_ne f hm)⟩
  rw [updCh_self f hl, hf]

theorem svIn_of {s : State} {n p : Nat} (hlo : 16 ≤ n) (h : (s.vch n).phase = p) : svIn s n p = true := by
  unfold svIn
  simp [hlo, h]

/-- A phase that a channel leaves for another. -/
theorem enters {c : Instr} {s : State} {n p time : Nat} (hexec : exec c s = .next (enterPhase n p time s)) (hl : n < s.valve.ch.length) :
    Runs c s [.valve] fun t => t.vch n = (s.vch n).entered p time ∧ ∀ m, m ≠ n → t.vch m = s.vch m :=
  .intro hexec ⟨updCh_only _ _ _, enterPhase_vch p time hl⟩

/-! ## Waiting for the boost (R238) -/

/-- Taking of two the one with the smaller key. -/
def earlier (key : Nat → Nat) (m : Option Nat) (n : Nat) : Option Nat :=
  match m with
  | none => some n
  | some k => if key n < key k then some n else some k

/-- What a search for the smallest key has found among the entries seen: none before the first, then one of them that none undercuts. -/
theorem earlier_least (key : Nat → Nat) (l : List Nat) (m : Option Nat) (n : Nat) (h : l.foldl (earlier key) m = some n) :
    (m = some n ∨ n ∈ l) ∧ (∀ k, m = some k → key n ≤ key k) ∧ ∀ k ∈ l, key n ≤ key k := by
  induction l generalizing m with
  | nil => exact ⟨.inl h, fun k hk => by rw [Option.some.inj (h.symm.trans hk)], fun k hk => absurd hk List.not_mem_nil⟩
  | cons a l ih =>
    obtain ⟨hmem, hacc, hrest⟩ := ih _ h
    have hstep : (earlier key m a = some a ∨ earlier key m a = m) ∧ ∀ k, m = some k ∨ k = a → ∃ j, earlier key m a = some j ∧ key j ≤ key k := by
      cases m with
      | none => exact ⟨.inl rfl, fun k hk => ⟨a, rfl, by rcases hk with hk | rfl; exact absurd hk (by simp); exact le_refl _⟩⟩
      | some j =>
        by_cases hlt : key a < key j
        · refine ⟨.inl (if_pos hlt), fun k hk => ⟨a, if_pos hlt, ?_⟩⟩
          rcases hk with hk | rfl
          · rw [← Option.some.inj hk]
            exact Nat.le_of_lt hlt
          · exact le_refl _
        · refine ⟨.inr (if_neg hlt), fun k hk => ⟨j, if_neg hlt, ?_⟩⟩
          rcases hk with hk | rfl
          · rw [Option.some.inj hk]
          · exact Nat.le_of_not_lt hlt
    obtain ⟨hwho, hle⟩ := hstep
    have hbound : ∀ k, m = some k ∨ k = a → key n ≤ key k := fun k hk => by
      obtain ⟨j, hj, hjk⟩ := hle k hk
      exact (hacc j hj).trans hjk
    refine ⟨?_, fun k hk => hbound k (.inl hk), fun k hk => ?_⟩
    · rcases hmem with hm | hm
      · rcases hwho with hw | hw
        · exact .inr (by rw [← Option.some.inj (hw.symm.trans hm)]; exact List.mem_cons_self)
        · exact .inl (hw.symm.trans hm)
      · exact .inr (List.mem_cons_of_mem a hm)
    · rcases List.mem_cons.1 hk with rfl | hk
      · exact hbound k (.inr rfl)
      · exact hrest k hk

theorem nextWaiting_spec {s : State} {b n : Nat} (h : nextWaiting s b = some n) : n ∈ bankChans b ∧ (s.vch n).phase = 1 ∧
    ∀ m ∈ bankChans b, (s.vch m).phase = 1 → (s.vch n).startAt ≤ (s.vch m).startAt := by
  have hfold : ((bankChans b).filter fun n => (s.vch n).phase == 1).foldl (earlier fun n => (s.vch n).startAt) none = some n := h
  obtain ⟨hmem, -, hle⟩ := earlier_least _ _ _ _ hfold
  obtain ⟨hin, hphase⟩ := List.mem_filter.1 (hmem.resolve_left (by simp))
  exact ⟨hin, eq_of_beq hphase, fun m hm hone => hle m (List.mem_filter.2 ⟨hm, beq_iff_eq.2 hone⟩)⟩

/-- A boost that is granted. -/
def boostGranted (n time : Nat) (s : State) : State :=
  (enterPhase n 2 (toPeriod time) (s.updSup 2 fun x => { x with below := false })).updCh n fun c =>
    { c with boostDelay := min ((toPeriod time - c.startAt) / 1000) 65535 }

theorem boostGranted_spec {n time : Nat} {s : State} (hl : n < s.valve.ch.length) : Only [.valve] s (boostGranted n time s) ∧
    (boostGranted n time s).vch n =
      { (s.vch n).entered 2 (toPeriod time) with boostDelay := min ((toPeriod time - (s.vch n).startAt) / 1000) 65535 } ∧
    ((boostGranted n time s).vsup 2).below = false ∧ ∀ m, m ≠ n → (boostGranted n time s).vch m = s.vch m := by
  obtain ⟨hself, hother⟩ := enterPhase_vch (n := n) 2 (toPeriod time) (s := s.updSup 2 fun x => { x with below := false }) hl
  have hlen : n < (enterPhase n 2 (toPeriod time) (s.updSup 2 fun x => { x with below := false })).valve.ch.length :=
    (List.length_modify ..).symm ▸ hl
  refine ⟨((updSup_only _ _ _).trans (updCh_only _ _ _)).trans (updCh_only _ _ _), ?_, ?_, fun m hm => ?_⟩
  · unfold boostGranted
    rw [updCh_self _ hlen, hself]
    rfl
  · show ((s.updSup 2 fun x => { x with below := false }).vsup 2).below = false
    rcases Nat.lt_or_ge 2 s.valve.sup.length with h2 | h2
    · rw [updSup_self _ h2]
    · rw [updSup_absent _ h2]
  · unfold boostGranted
    rw [updCh_ne _ hm, hother m hm]
    rfl

/-- HEADROOM formed anew of a switching channel. -/
theorem refreshHead_headroom {n : Nat} {s : State} (hn : 16 ≤ n) (hl : n < s.valve.ch.length) :
    ((refreshHead n s).vch n).headroom = svHeadroom s n := by
  unfold refreshHead
  rw [if_neg (by omega), updCh_self _ hl]

/-- A rejected request is counted by its bank and shows in HEADROOM. -/
theorem rejectBoost_counted {n time : Nat} {s : State} (hn : 16 ≤ n) (h : (s.vch n).phase = 1) : ((rejectBoost n time s).vch n).headroom = true ∧
    (bankOf n < s.valve.bank.length → ((rejectBoost n time s).vbank (bankOf n)).rejects = inc32 (s.vbank (bankOf n)).rejects) := by
  have hl : n < s.valve.ch.length := held_of_phase (by rw [h]; decide)
  unfold rejectBoost
  extract_lets c b boosting delay t
  have ht : (t.vch n).rejected = true := (congrArg VCh.rejected (updCh_self (s := s) _ hl) :)
  have hlen : n < t.valve.ch.length := (List.length_modify ..).symm ▸ hl
  have hrec := record_only t ⟨0x7006, n, teOf n, leBytes 2 boosting ++ leBytes 4 delay, [], 0xFFFFFFFF, 0xF⟩
  refine ⟨?_, fun hb => ?_⟩
  · rw [refreshHead_headroom hn (by rw [hrec.valve]; exact hlen)]
    unfold svHeadroom
    dsimp only
    rw [hrec.vch, ht]
    rfl
  · have hbank : ∀ u : State, (refreshHead n u).vbank b = u.vbank b := fun u => by
      unfold refreshHead
      split <;> rfl
    rw [hbank, hrec.vbank]
    exact (congrArg VBank.rejects (updBank_self (s := s.updCh n fun c =>
      { c with phase := 0, phaseAt := time, rejected := true, blocked := true, boostDelay := min delay 65535 }) _ hb) :)

/-! ## Overlaps (R237) -/

/-- The channel after the check of a window, the bank's count, and the first record. -/
def overlapChecked (n mean : Nat) (diff : Int) (bad : Bool) (s : State) : State :=
  let t := s.updCh n fun c => { c with mA := mean, distorted := bad, lowMean := bad && decide (diff < 0), noted := c.noted || bad }
  let u := if bad then t.updBank (bankOf n) fun x => { x with distortions := inc32 x.distortions } else t
  if bad ∧ !(s.vch n).noted then u.record ⟨0x7007, n, teOf n, [], [], 0xFFFFFFFF, 0xF⟩ else u

theorem overlapChecked_spec {n mean : Nat} (diff : Int) (bad : Bool) {s : State} (hl : n < s.valve.ch.length) :
    Only [.valve, .flow, .upd] s (overlapChecked n mean diff bad s) ∧ ((overlapChecked n mean diff bad s).vch n).mA = mean ∧
      ((overlapChecked n mean diff bad s).vch n).distorted = bad ∧ ∀ m, m ≠ n → (overlapChecked n mean diff bad s).vch m = s.vch m := by
  unfold overlapChecked
  extract_lets t u
  have hu : Only [.valve] t u ∧ ∀ m, u.vch m = t.vch m := by
    by_cases hbad : bad = true
    · rw [show u = t.updBank (bankOf n) _ from if_pos hbad]
      exact ⟨updBank_only _ _ _, fun _ => rfl⟩
    · rw [show u = t from if_neg hbad]
      exact ⟨.refl _ _, fun _ => rfl⟩
  obtain ⟨huonly, huch⟩ := hu
  have ht : t.vch n = { s.vch n with mA := mean, distorted := bad, lowMean := bad && decide (diff < 0), noted := (s.vch n).noted || bad } :=
    updCh_self _ hl
  have hother : ∀ m, m ≠ n → t.vch m = s.vch m := fun m hm => updCh_ne _ hm
  have honly : Only [.valve] s u := (updCh_only _ _ _).trans huonly
  obtain ⟨v, hv⟩ : ∃ v, (if bad = true ∧ (!(s.vch n).noted) = true then u.record ⟨0x7007, n, teOf n, [], [], 0xFFFFFFFF, 0xF⟩ else u) = v := ⟨_, rfl⟩
  have hvonly : Only [.flow, .upd] u v := hv ▸ .ite (record_only _ _) (.refl _ _)
  rw [hv]
  refine ⟨(honly.mono (by decide)).next hvonly, ?_, ?_, fun m hm => ?_⟩
  · rw [hvonly.vch, huch, ht]
  · rw [hvonly.vch, huch, ht]
  · rw [hvonly.vch, huch, hother m hm]

theorem exec_overlap {s : State} {n mean tgt : Nat} (hlo : 16 ≤ n) (hhi : n < 32)
    (htgt : (s.vch n).phase = 3 ∧ tgt = (s.vch n).prof.getD 0 0 ∨ (s.vch n).phase = 4 ∧ tgt = holdTarget s n)
    (hlead : leading s (bankOf n) ≠ some n) (hwhole : (s.vch n).phaseAt + 1000000 ≤ s.tm.now / 1000000 * 1000000) :
    exec (.overlapCheck n mean) s = .next (refreshHead n (overlapChecked n mean ((mean : Int) - tgt)
      (decide (max ((s.nat (0x4040 + bankOf n) 4 : Rat) * tgt / 32768) 50 < (((mean : Int) - tgt).natAbs : Rat))) s)) := by
  have hcond : ((s.vch n).phase = 3 ∨ (s.vch n).phase = 4) ∧ leading s (bankOf n) ≠ some n ∧ windowWhole s n = true :=
    ⟨htgt.imp And.left And.left, hlead, decide_eq_true hwhole⟩
  have hsame : (if (s.vch n).phase = 3 then (s.vch n).prof.getD 0 0 else holdTarget s n) = tgt := by
    rcases htgt with ⟨hp, rfl⟩ | ⟨hp, rfl⟩
    · exact if_pos hp
    · exact if_neg (by omega)
  refine sv_next hlo hhi ((if_pos hcond).trans ?_)
  subst hsame
  rfl

/-! ## Movements (R239) -/

theorem exec_moveMeasured {s : State} {n t0 : Nat} (hlo : 16 ≤ n) (hhi : n < 32) (hon : s.flag (0x4000 + n) 0x24 = true)
    (hno : (s.vch n).stuck = false) : exec (.moveDetect n (some t0)) s = .next (s.updCh n fun c => { c with moveTime := t0, stuck := false }) :=
  sv_next hlo hhi ((if_neg (show ¬(!s.flag (0x4000 + n) 0x24) = true by simp [hon])).trans (if_neg (Bool.eq_false_iff.1 hno)))

theorem exec_moveMissed {s : State} {n : Nat} (hlo : 16 ≤ n) (hhi : n < 32) (hon : s.flag (0x4000 + n) 0x24 = true) :
    exec (.moveDetect n none) s = .next ((s.updCh n fun c => { c with moveTime := 0xFFFF, stuck := true }).record
      ⟨0x700B, n, teOf n, leBytes 2 (s.vch n).boostTime, [], 0xFFFFFFFF, 0xF⟩) :=
  sv_next hlo hhi (if_neg (show ¬(!s.flag (0x4000 + n) 0x24) = true by simp [hon]))

/-- Settles O40: each end of a phase is an entry into the next one; the boost goes by `nextWaiting_spec`. -/
theorem svProfiles : Obligations.SvProfiles := by
  unfold Obligations.SvProfiles
  refine ⟨fun s n time hlo hhi hp => ?_, fun s n mA hlo hhi hp hover => ?_, fun s n hlo hhi hp hover => ?_,
    fun s n hlo hhi hp hpulse hguard hsafe hend => ?_, fun s n hlo hhi hp => ?_, fun s b n time hlo hhi hnext hnone hrail hl => ?_,
    fun s b n h => nextWaiting_spec h, fun s n time hlo hhi hp hlate => ?_, fun s n mean tgt hlo hhi htgt hlead hwhole => ?_,
    fun s n mean hlo hhi hl hnot => ?_, fun s n t0 hlo hhi hl hon hno => ?_, fun s n hlo hhi hl hon => ?_⟩
  · exact .intro (sv_next hlo hhi (if_pos (svIn_of hlo hp))) (afterBoost_vch time _ (held_of_phase (by omega)) rfl)
  · have hl : n < s.valve.ch.length := held_of_phase (by omega)
    obtain ⟨honly, hself, hother⟩ := afterBoost_vch ((s.vch n).phaseAt + (s.vch n).prof.getD 3 0 * 1000)
      (fun c => { c with boostTime := (s.vch n).prof.getD 3 0 }) hl rfl
    have hrec := record_only (afterBoost n ((s.vch n).phaseAt + (s.vch n).prof.getD 3 0 * 1000) (s.updCh n fun c =>
      { c with boostTime := (s.vch n).prof.getD 3 0 })) ⟨0x700A, n, teOf n, leBytes 2 mA ++ leBytes 2 ((s.vch n).prof.getD 3 0), [], 0xFFFFFFFF, 0xF⟩
    refine .intro (sv_next hlo hhi (if_pos ⟨svIn_of hlo hp, decide_eq_true hover⟩)) ⟨(honly.mono (by decide)).next hrec, ?_, fun m hm => ?_,
      (Recorded.self _ _).base honly.flow honly.pw honly.dict (congrArg Tm.now honly.tm) (congrArg Tm.mono honly.tm)⟩
    · rw [hrec.vch, hself]
      rfl
    · rw [hrec.vch, hother m hm]
  · exact enters (sv_next hlo hhi (if_pos ⟨svIn_of hlo hp, decide_eq_true hover⟩)) (held_of_phase (by omega))
  · exact enters (sv_next hlo hhi (if_pos ⟨svIn_of hlo hp, hpulse, by simp [hguard], by simp [hsafe], hend⟩)) (held_of_phase (by omega))
  · exact enters (sv_next hlo hhi (if_pos (svIn_of hlo hp))) (held_of_phase (by omega))
  · have hfree : ¬((bankChans b).any (fun m => (s.vch m).phase == 2) = true ∨ (s.vsup 2).fault = true) := by
      rintro (h | h)
      · obtain ⟨m, hm, hphase⟩ := List.any_eq_true.1 h
        exact hnone m hm (eq_of_beq hphase)
      · exact Bool.eq_false_iff.1 hrail h
    have hexec : exec (.svBoostGranted b time) s = .next (boostGranted n time s) := by
      refine (withUnit_next (by simp [hlo, hhi])).trans (congrArg Host.Outcome.next ?_)
      rw [hnext]
      exact if_neg hfree
    exact .intro hexec (boostGranted_spec hl)
  · obtain ⟨hphase, hrej, hblock⟩ := rejectBoost_chan (time := time) hp
    obtain ⟨hhead, hcount⟩ := rejectBoost_counted (time := time) hlo hp
    have hprof := rejectBoost_profiles n time s
    exact .intro (sv_next hlo hhi (if_pos ⟨svIn_of hlo hp, hlate⟩)) ⟨hprof.only, hphase, hrej, hhead, hblock, fun m hm => hprof.other m (by simpa using hm), hcount⟩
  · have hl : n < s.valve.ch.length := held_of_phase (by omega)
    obtain ⟨honly, hmean, hdist, hother⟩ := overlapChecked_spec (mean := mean) ((mean : Int) - tgt)
      (decide (max ((s.nat (0x4040 + bankOf n) 4 : Rat) * tgt / 32768) 50 < (((mean : Int) - tgt).natAbs : Rat))) hl
    refine .intro (exec_overlap hlo hhi htgt hlead hwhole) ⟨honly.next (refreshHead_profiles n _).only, ?_, ?_, fun m hm => ?_⟩
    · obtain ⟨x, hx⟩ := refreshHead_vch n (overlapChecked n mean ((mean : Int) - tgt) _ s) n
      rw [hx]
      exact hmean
    · obtain ⟨x, hx⟩ := refreshHead_vch n (overlapChecked n mean ((mean : Int) - tgt) _ s) n
      rw [hx]
      exact hdist
    · rw [(refreshHead_profiles n _).other m (by simpa using hm), hother m hm]
  · have hno : ¬(((s.vch n).phase = 3 ∨ (s.vch n).phase = 4) ∧ leading s (bankOf n) ≠ some n ∧ windowWhole s n = true) := by
      rintro ⟨hp, hlead, hwhole⟩
      rcases hnot with ⟨h3, h4⟩ | h | h
      · exact hp.elim h3 h4
      · exact hlead h
      · exact absurd (of_decide_eq_true hwhole) (Nat.not_le.2 h)
    have hprof := refreshHead_profiles n (s.updCh n fun c => { c with distorted := false, lowMean := false })
    obtain ⟨x, hx⟩ := refreshHead_vch n (s.updCh n fun c => { c with distorted := false, lowMean := false }) n
    refine .intro (sv_next hlo hhi (if_neg hno)) ⟨(updCh_only _ _ _).trans hprof.only, ?_⟩
    rw [hx, updCh_self _ hl]
    exact ⟨rfl, rfl, rfl, fun m hm => (hprof.other m (by simpa using hm)).trans (updCh_ne _ hm)⟩
  · exact .intro (exec_moveMeasured hlo hhi hon hno) ⟨updCh_only _ _ _, updCh_self _ hl, fun m hm => updCh_ne _ hm⟩
  · exact .intro (exec_moveMissed hlo hhi hon) (updCh_recorded _ _ hl)

end Sys2Proof.Machine

/-! Proofs of the statement on the faults of the valve stages (10). -/

namespace Sys2Proof.Machine

set_option Elab.async false

/-! ## A stage that a fault stops (R244) -/

theorem chanPowered_held {s : State} {n : Nat} (h : chanHeld s n = true) : chanPowered s n = false := by
  unfold chanPowered
  simp [h]

/-- A channel without its profile and its regulation. -/
def VCh.idle (c : VCh) : VCh := { c.still with duty := 0, acc := 0, okRun := 0 }

theorem VCh.of_idle {α} {c d : VCh} (g : VCh → α) (hg : ∀ c, g c.idle = g c) (h : c.idle = d.idle) : g c = g d := by
  rw [← hg c, h, hg]

/-- A channel that may not be driven stops: no duty, no profile. -/
theorem chanStop_spec {n : Nat} {s : State} (h : chanPowered s n = false) : Chans [.valve] [n] s (chanStop n s) ∧
    ((chanStop n s).vch n).idle = (s.vch n).idle ∧ (n < 16 → ((chanStop n s).vch n).duty = 0) ∧
    (16 ≤ n → ((chanStop n s).vch n).phase ≠ 1 ∧ ((chanStop n s).vch n).phase ≠ 2 ∧ ((chanStop n s).vch n).phase ≠ 3 ∧ ((chanStop n s).vch n).phase ≠ 4) := by
  unfold chanStop
  by_cases hn : n < 16
  · rw [if_pos hn]
    refine ⟨.updCh s n _, updCh_keeps_of VCh.idle fun _ => rfl, fun _ => ?_, fun h => absurd hn (by omega)⟩
    rcases updCh_or s n fun c => { c with duty := 0, acc := 0, headroom := c.headroom || c.eff != 0, okRun := 0 } with h | ⟨h, -⟩
    · rw [h]
    · rw [h]
  · rw [if_neg hn]
    obtain ⟨hprof, hphase⟩ := svFollow_unpowered false h
    refine ⟨hprof.toChans, congrArg (fun c : VCh => { c with duty := 0, acc := 0, okRun := 0 }) hprof.chan, fun h => absurd h hn, fun _ => ?_⟩
    rw [hphase]
    split
    · decide
    · split
      · decide
      · omega

/-- A fault that takes a channel out of drive. -/
theorem chanFault_stops {n : Nat} {f : VCh → VCh} {s : State} (hl : n < s.valve.ch.length)
    (hf : (f (s.vch n)).trip = true ∨ (f (s.vch n)).latched = true ∨ (f (s.vch n)).overtemp = true) :
    Chans [.valve, .flow, .upd] [n] s (chanStop n (chanFault n true f s)) ∧ ((chanStop n (chanFault n true f s)).vch n).idle = (f (s.vch n)).idle ∧
      (n < 16 → ((chanStop n (chanFault n true f s)).vch n).duty = 0) ∧
      (16 ≤ n → ((chanStop n (chanFault n true f s)).vch n).phase ≠ 1 ∧ ((chanStop n (chanFault n true f s)).vch n).phase ≠ 2 ∧
        ((chanStop n (chanFault n true f s)).vch n).phase ≠ 3 ∧ ((chanStop n (chanFault n true f s)).vch n).phase ≠ 4) := by
  obtain ⟨-, hself, -, -⟩ := chanFault_spec true f hl
  have hheld : chanHeld (chanFault n true f s) n = true := by
    unfold chanHeld
    dsimp only
    rw [hself]
    rcases hf with h | h | h <;> simp [h]
  obtain ⟨hchans, hidle, hduty, hphase⟩ := chanStop_spec (chanPowered_held hheld)
  rw [hself] at hidle
  exact ⟨(chanFault_chans n true f s).trans hchans.mono, hidle, hduty, hphase⟩

/-- Forcing functions safe, or disengaging, leaves the stages. -/
theorem forceChan_only (n : Nat) (s : State) : Only [.loop, .lead, .steer, .flow, .upd] s (forceChan n s) := forceSafe_only _ _

theorem steerFault_only (n : Nat) (s : State) : Only [.loop, .lead, .steer, .flow, .upd] s (if steersChannel s n then disengage 0xC 2 s else s) :=
  .ite ((disengage_only _ _ _).mono (by decide)) (.refl _ _)

/-! ## A bank that latches -/

theorem mem_bankChans {n : Nat} (hn : n < 32) : n ∈ bankChans (bankOf n) ∧ bankOf n < 6 := by
  have hall : ∀ n < 32, n ∈ bankChans (bankOf n) ∧ bankOf n < 6 := by decide
  exact hall n hn

theorem latchBank_spec {b : Nat} (hb : b < 6) {s : State} (hl : b < s.valve.bank.length) :
    Only [.valve, .loop, .lead, .steer, .flow, .upd] s (latchBank b s) ∧ ((latchBank b s).vbank b).enable = false ∧
      ((latchBank b s).vbank b).latched = true ∧ ((latchBank b s).vbank b).hsTrip = (s.vbank b).hsTrip ∧
      ∀ n ∈ bankChans b, ((latchBank b s).vch n).still = (s.vch n).dropped.still := by
  obtain ⟨t, ht⟩ : ∃ t, s.updBank b (fun x => { x with latched := true }) = t := ⟨_, rfl⟩
  have htself : t.vbank b = { s.vbank b with latched := true } := ht ▸ updBank_self _ hl
  have htl : b < t.valve.bank.length := ht ▸ (List.length_modify ..).symm ▸ hl
  have hforce : Only [.loop, .lead, .steer, .flow, .upd] (bankOff b t) (latchBank b s) := by
    rw [← ht]
    exact forceSafe_only _ _
  obtain ⟨hchans, hdrop⟩ := bankOff_chans hb t
  have hbank := hchans.bank b
  rw [updBank_self _ htl, htself] at hbank
  have honly : Only [.valve] s (bankOff b t) := (ht ▸ updBank_only s b _ : Only [.valve] s t).trans (bankOff_only hb t)
  refine ⟨(honly.mono (by decide)).next hforce, ?_, ?_, ?_, fun n hn => ?_⟩
  · rw [hforce.vbank]
    exact (VBank.of_still VBank.enable (fun _ => rfl) hbank).trans rfl
  · rw [hforce.vbank]
    exact (VBank.of_still VBank.latched (fun _ => rfl) hbank).trans rfl
  · rw [hforce.vbank]
    exact (VBank.of_still VBank.hsTrip (fun _ => rfl) hbank).trans rfl
  · rw [hforce.vch, hdrop n hn, ← ht]
    rfl

/-! ## High-side trips -/

/-- The channels of a bank whose high side has tripped stop. -/
def bankStopped (b : Nat) (s : State) : State := (bankChans b).foldl (fun s n => chanStop n s) s

theorem bankStopped_chans {b : Nat} (hb : b < 6) {s : State} (h : (s.vbank b).hsTrip = true) : Chans [.valve] (bankChans b) s (bankStopped b s) := by
  refine (Chans.foldl (Q := fun _ _ _ => True) s (bankChans_nodup hb) fun t n hn ht _ => ⟨?_, trivial⟩).1
  have htrip : (t.vbank b).hsTrip = true := (VBank.of_still VBank.hsTrip (fun _ => rfl) (ht.bank b)).trans h
  refine (chanStop_spec (chanPowered_held ?_)).1
  unfold chanHeld
  simp [(bankOf_bankChans hb hn).1, htrip]

/-- The state in which a bank's high side has tripped. -/
def highSideTripped (b : Nat) (s : State) : State :=
  bankRecord b true (bankStopped b (s.updBank b fun x => { x with hsTrip := true, trips := addTrip (s.vbank b).trips s.tm.mono }))

theorem highSideTripped_spec {b : Nat} (hb : b < 6) {s : State} (hl : b < s.valve.bank.length) :
    Only [.valve, .flow, .upd] s (highSideTripped b s) ∧ b < (highSideTripped b s).valve.bank.length ∧
      ((highSideTripped b s).vbank b).hsTrip = true ∧ ((highSideTripped b s).vbank b).enable = (s.vbank b).enable ∧
      ((highSideTripped b s).vbank b).latched = (s.vbank b).latched := by
  obtain ⟨t, ht⟩ : ∃ t, s.updBank b (fun x => { x with hsTrip := true, trips := addTrip (s.vbank b).trips s.tm.mono }) = t := ⟨_, rfl⟩
  have htself : t.vbank b = { s.vbank b with hsTrip := true, trips := addTrip (s.vbank b).trips s.tm.mono } := ht ▸ updBank_self _ hl
  have htl : b < t.valve.bank.length := ht ▸ (List.length_modify ..).symm ▸ hl
  have hchans := bankStopped_chans hb (s := t) (by rw [htself])
  have hrec : Only [.flow, .upd] (bankStopped b t) (highSideTripped b s) := by
    rw [← ht]
    exact record_only _ _
  have hbank := hchans.bank b
  rw [htself] at hbank
  have honly : Only [.valve] s t := ht ▸ updBank_only s b _
  refine ⟨((honly.mono (by decide)).next hchans.only).next hrec, ?_, ?_, ?_, ?_⟩
  · rw [hrec.valve]
    exact hchans.bankLength.symm ▸ htl
  · rw [hrec.vbank]
    exact (VBank.of_still VBank.hsTrip (fun _ => rfl) hbank).trans rfl
  · rw [hrec.vbank]
    exact (VBank.of_still VBank.enable (fun _ => rfl) hbank).trans rfl
  · rw [hrec.vbank]
    exact (VBank.of_still VBank.latched (fun _ => rfl) hbank).trans rfl

/-! ## Commands of a channel -/

section
variable {s : State} {n : Nat} {w : Ctx} {v : Val} (hn : n < 32)
include hn

theorem valveWrite_fault (h : preCheck w (0x4000 + n) 9 v = 0) : valveWrite w (0x4000 + n) 9 v s = faultCommand n s := by
  refine (if_pos h).trans ((if_pos (by omega)).trans ((if_pos rfl).trans ?_))
  rw [Nat.add_sub_cancel_left]

/-- A session's FaultCommand is answered with what it makes of the channel. -/
theorem exec_fault {k : Nat} {v : Int} (h : s.admits k (0x4000 + n) 9 (.int v)) :
    exec (.valveFaultCommand k n v) s = .next ((s.touch k).answer k (faultCommand n (s.touch k))) :=
  guarded_next hn ((serve_ok h.serves).trans (congrArg (fun e => Host.Outcome.next ((s.touch k).answer k e)) (valveWrite_fault hn h.2)))
end

/-- A channel that is cleared. -/
def VCh.cleared (c : VCh) (mono : Nat) : VCh :=
  { c with latched := false, trip := false, trips := [], shorted := false, resumeAt := mono + 1000000 }

theorem faultCommand_clears {n : Nat} {s : State} (hlat : (s.vch n).latched = true) (hcmd : (s.vch n).cmd = 0) :
    faultCommand n s = .ok (refreshHead n (chanFault n false (fun c => c.cleared s.tm.mono) s)) :=
  (if_neg (by simp [hlat])).trans (if_neg (not_not.2 hcmd))

/-- A fault whose HEADROOM is formed anew. -/
theorem refreshed_spec {n : Nat} (raised : Bool) (f : VCh → VCh) {s : State} (hl : n < s.valve.ch.length) :
    Only [.valve, .flow, .upd] s (refreshHead n (chanFault n raised f s)) ∧
      (∃ x, (refreshHead n (chanFault n raised f s)).vch n = { f (s.vch n) with headroom := x }) ∧
      ∀ m, m ≠ n → (refreshHead n (chanFault n raised f s)).vch m = s.vch m := by
  obtain ⟨honly, hself, hother, -⟩ := chanFault_spec raised f hl
  have hprof := refreshHead_profiles n (chanFault n raised f s)
  obtain ⟨x, hx⟩ := refreshHead_vch n (chanFault n raised f s) n
  rw [hself] at hx
  exact ⟨honly.next hprof.only, ⟨x, hx⟩, fun m hm => (hprof.other m (by simpa using hm)).trans (hother m hm)⟩

/-- The same with a headroom that the fault itself withholds. -/
theorem refreshed_headroom {n : Nat} {f : VCh → VCh} {s : State} (hl : n < s.valve.ch.length) (hhead : (f (s.vch n)).headroom = true)
    (hopen : (f (s.vch n)).openLoad = true) : ((refreshHead n (chanFault n true f s)).vch n).headroom = true := by
  obtain ⟨-, hself, -, -⟩ := chanFault_spec true f hl
  by_cases hn : n < 16
  · rw [show refreshHead n (chanFault n true f s) = chanFault n true f s from if_pos hn, hself, hhead]
  · have hlen : n < (chanFault n true f s).valve.ch.length := by
      rw [(chanFault_chans n true f s).chLength]
      exact hl
    rw [refreshHead_headroom (Nat.le_of_not_lt hn) hlen]
    unfold svHeadroom
    dsimp only
    rw [hself, hopen]
    simp

/-- Settles O41: a fault that stops a channel by `chanFault_stops`, one that latches a bank by `latchBank_spec`, the rest by branches. -/
theorem stageFaults : Obligations.StageFaults := by
  unfold Obligations.StageFaults
  refine ⟨fun s n hn hl hpow => ?_, fun s n hn hpow => chan_next hn (if_pos (by simp [hpow])), fun s n hn htrip hlat hover => ?_,
    fun s n hn h1 h2 => ?_, fun s b hb => unit_next (by omega) (if_pos (.inl hb)), fun s b hlo hhi hon hno => ?_,
    fun s n hn hl hr hon hidle => ?_, fun s n hn hl hr hoff hopen => ?_, fun s n hn hl hr hoff hopen => ?_, fun s n hn hl hopen hpow hdrive => ?_,
    fun s n hn hopen => ?_, fun s n hn hl hr hno hshort => ?_, fun s n hn hl hr hno => ?_, fun s n k hn h hlat hcmd => ?_,
    fun s n k hn h hlat hcmd => ?_⟩
  · obtain ⟨u, hu⟩ : ∃ u, chanStop n (chanFault n true (fun c => { c with
        trip := true, trips := addTrip (s.vch n).trips s.tm.mono, tripCount := inc32 c.tripCount,
        latched := c.latched || decide (3 ≤ (addTrip (s.vch n).trips s.tm.mono).length) }) s) = u := ⟨_, rfl⟩
    obtain ⟨hchans, hidle, hduty, hphase⟩ := chanFault_stops (f := fun c => { c with
        trip := true, trips := addTrip (s.vch n).trips s.tm.mono, tripCount := inc32 c.tripCount,
        latched := c.latched || decide (3 ≤ (addTrip (s.vch n).trips s.tm.mono).length) }) hl (.inl rfl)
    rw [hu] at hchans hidle hduty hphase
    obtain ⟨t, ht⟩ : ∃ t, (if decide (3 ≤ (addTrip (s.vch n).trips s.tm.mono).length) = true then forceChan n u
      else if steersChannel u n = true then disengage 0xC 2 u else u) = t := ⟨_, rfl⟩
    have hfin : Only [.loop, .lead, .steer, .flow, .upd] u t := ht ▸ .ite (forceChan_only n u) (steerFault_only n u)
    have hexec : exec (.valveOvercurrent n) s = .next t := by
      rw [← ht, ← hu]
      exact chan_next hn (if_neg (by simp [hpow]))
    refine .intro hexec ⟨(hchans.only.mono (by decide)).next hfin, ?_⟩
    simp only [hfin.vch]
    exact ⟨VCh.of_idle VCh.trip (fun _ => rfl) hidle, VCh.of_idle VCh.tripCount (fun _ => rfl) hidle, VCh.of_idle VCh.latched (fun _ => rfl) hidle,
      hduty, hphase, fun m hm => hchans.other m (by simpa using hm)⟩
  · have hl : n < s.valve.ch.length := getD_lt (p := fun c : VCh => c.trip = true) htrip (by decide)
    obtain ⟨honly, hself, hother, -⟩ := chanFault_spec false (fun c => { c with trip := false }) hl
    obtain ⟨u, hu⟩ : ∃ u, chanFault n false (fun c => { c with trip := false }) s = u := ⟨_, rfl⟩
    rw [hu] at honly hself hother
    have hprof : Profiles [.valve, .free, .flow, .upd] n u (if n < 16 then u else svFollow false n u) := .ite (.refl _ _ _) (svFollow_profiles false n u)
    have hexec : exec (.valveTripRetry n) s = .next (if n < 16 then u else svFollow false n u) := by
      rw [← hu]
      exact chan_next hn (if_pos ⟨htrip, by simp [hlat], decide_eq_true hover⟩)
    refine .intro hexec ⟨(honly.mono (by decide)).trans hprof.only, (VCh.of_still VCh.trip (fun _ => rfl) hprof.chan).trans ?_, fun m hm =>
      (hprof.other m (by simpa using hm)).trans (hother m hm)⟩
    rw [hself]
  · refine chan_next hn ((if_neg ?_).trans (if_neg ?_))
    · rintro ⟨htrip, -, hover⟩
      rcases h1 with h | h
      · exact Bool.eq_false_iff.1 h htrip
      · exact absurd (of_decide_eq_true hover) (Nat.not_le.2 h)
    · rintro ⟨htrip, -, hover⟩
      rcases h2 with h | h
      · exact Bool.eq_false_iff.1 h htrip
      · exact absurd (of_decide_eq_true hover) (Nat.not_le.2 h)
  · obtain ⟨honly, hlen, htrip, henable, hlatched⟩ := highSideTripped_spec hhi (held_of_bank_enable hon)
    have hexec : exec (.highSideTrip b) s = .next (if 3 ≤ (addTrip (s.vbank b).trips s.tm.mono).length then latchBank b (highSideTripped b s)
        else highSideTripped b s) := bank_next hhi (if_neg (by simp [Nat.not_lt.2 hlo, hon, hno]))
    obtain ⟨hlonly, hloff, hllat, hltrip, -⟩ := latchBank_spec hhi hlen
    refine .intro hexec ?_
    by_cases h3 : 3 ≤ (addTrip (s.vbank b).trips s.tm.mono).length
    · rw [if_pos h3]
      exact ⟨(honly.mono (by decide)).trans hlonly, hltrip.trans htrip, fun h => absurd h3 (by omega), fun _ => ⟨hloff, hllat⟩⟩
    · rw [if_neg h3]
      exact ⟨honly.mono (by decide), htrip, fun _ => ⟨henable.trans hon, hlatched⟩, fun h => absurd h h3⟩
  · obtain ⟨hmem, hb⟩ := mem_bankChans hn
    obtain ⟨honly, hself, -, -⟩ := chanFault_spec true (fun c => { c with uncommanded := true, offOk := false }) hl
    have hlen : bankOf n < (chanFault n true (fun c => { c with uncommanded := true, offOk := false }) s).valve.bank.length := by
      rw [(chanFault_chans n true (fun c => { c with uncommanded := true, offOk := false }) s).bankLength]
      exact held_of_bank_enable hon
    obtain ⟨hlonly, hloff, hllat, -, hdrop⟩ := latchBank_spec hb hlen
    have hchan := hdrop n hmem
    rw [hself] at hchan
    exact .intro (chan_next hn (if_pos ⟨hr, hon, hidle⟩)) ⟨(honly.mono (by decide)).trans hlonly, VCh.of_still VCh.uncommanded (fun _ => rfl) hchan,
      VCh.of_still VCh.offOk (fun _ => rfl) hchan, hllat, hloff⟩
  · have hsame : ¬((s.updCh n fun c => { c with offOk := true }).vch n).openLoad = true := by
      rw [updCh_self _ hl]
      exact Bool.eq_false_iff.1 hopen
    exact .intro (chan_next hn ((if_neg (by simp [valveOn, hr, hoff])).trans (if_neg hsame))) ⟨updCh_only _ _ _, updCh_self _ hl, fun m hm => updCh_ne _ hm⟩
  · obtain ⟨u, hu⟩ : ∃ u, s.updCh n (fun c => { c with offOk := true }) = u := ⟨_, rfl⟩
    have huself : u.vch n = { s.vch n with offOk := true } := hu ▸ updCh_self _ hl
    have hul : n < u.valve.ch.length := hu ▸ (List.length_modify ..).symm ▸ hl
    obtain ⟨honly, ⟨x, hx⟩, hother⟩ := refreshed_spec true (fun c => { c with openLoad := true }) hul
    have hexec : exec (.offStateTest n .openLoad) s = .next (refreshHead n (chanFault n true (fun c => { c with openLoad := true }) u)) := by
      have hsame : ¬(u.vch n).openLoad = true := by
        rw [huself]
        exact Bool.eq_false_iff.1 hopen
      rw [← hu] at hsame ⊢
      exact chan_next hn ((if_neg (by simp [valveOn, hr, hoff])).trans (if_neg hsame))
    refine .intro hexec ⟨((hu ▸ updCh_only s n _ : Only [.valve] s u).mono (by decide)).trans honly, ?_⟩
    rw [hx, huself]
    exact ⟨rfl, rfl, fun m hm => (hother m hm).trans (hu ▸ updCh_ne _ hm)⟩
  · obtain ⟨honly, ⟨x, hx⟩, hother⟩ := refreshed_spec true (fun c => { c with openLoad := true, headroom := true, okRun := 0 }) hl
    have hhead := refreshed_headroom (f := fun c => { c with openLoad := true, headroom := true, okRun := 0 }) hl rfl rfl
    obtain ⟨u, hu⟩ : ∃ u, refreshHead n (chanFault n true (fun c => { c with openLoad := true, headroom := true, okRun := 0 }) s) = u := ⟨_, rfl⟩
    rw [hu] at honly hx hother hhead
    obtain ⟨t, ht⟩ : ∃ t, (if steersChannel u n = true then disengage 0xC 2 u else u) = t := ⟨_, rfl⟩
    have hfin : Only [.loop, .lead, .steer, .flow, .upd] u t := ht ▸ steerFault_only n u
    have hdriven : (chanPowered s n && (if n < 16 then decide (0 < (s.vch n).eff) else (s.vch n).phase == 4)) = true := by
      rcases hdrive with ⟨hlt, heff⟩ | ⟨hge, hp⟩
      · rw [if_pos hlt, hpow]
        exact decide_eq_true heff
      · rw [if_neg (by omega), hpow, hp]
        rfl
    have hexec : exec (.openLoadDriven n true) s = .next t := by
      rw [← ht, ← hu]
      exact chan_next hn ((if_neg (by simp [hopen])).trans ((if_pos rfl).trans (if_pos hdriven)))
    refine .intro hexec ⟨(honly.mono (by decide)).next hfin, ?_⟩
    simp only [hfin.vch]
    exact ⟨(congrArg VCh.openLoad hx :), hhead, hother⟩
  · obtain ⟨honly, ⟨x, hx⟩, hother⟩ := refreshed_spec false (fun c => { c with openLoad := false })
      (getD_lt (p := fun c : VCh => c.openLoad = true) hopen (by decide))
    exact .intro (chan_next hn ((if_neg (by simp [hopen])).trans (if_neg (by decide)))) ⟨honly, (congrArg VCh.openLoad hx :), hother⟩
  · obtain ⟨hchans, hidle, hduty, -⟩ := chanFault_stops (f := fun c => { c with shorted := true, latched := true }) hl (.inr (.inl rfl))
    obtain ⟨u, hu⟩ : ∃ u, chanStop n (chanFault n true (fun c => { c with shorted := true, latched := true }) s) = u := ⟨_, rfl⟩
    rw [hu] at hchans hidle hduty
    have hfin := forceChan_only n u
    have hcoil : coilShort s n = true := by
      unfold coilShort
      rcases hshort with ⟨hne, hlow⟩ | ⟨hge, hp, hfast⟩
      · simp [hne, hlow]
      · rcases hp with hp | hp <;> simp [hge, hp, hfast]
    have hexec : exec (.shortedCoil n) s = .next (forceChan n u) := by
      rw [← hu]
      exact chan_next hn (if_neg (by simp [valveOn, hr, hno, hcoil]))
    refine .intro hexec ⟨(hchans.only.mono (by decide)).next hfin, ?_⟩
    simp only [hfin.vch]
    exact ⟨VCh.of_idle VCh.shorted (fun _ => rfl) hidle, VCh.of_idle VCh.latched (fun _ => rfl) hidle, hduty, fun m hm => hchans.other m (by simpa using hm)⟩
  · obtain ⟨hchans, hidle, hduty, -⟩ := chanFault_stops (f := fun c => { c with overtemp := true }) hl (.inr (.inr rfl))
    obtain ⟨u, hu⟩ : ∃ u, chanStop n (chanFault n true (fun c => { c with overtemp := true }) s) = u := ⟨_, rfl⟩
    rw [hu] at hchans hidle hduty
    have hfin := steerFault_only n u
    have hexec : exec (.valveOvertempStage n true) s = .next (if steersChannel u n then disengage 0xC 2 u else u) := by
      rw [← hu]
      exact chan_next hn (if_neg (by simp [valveOn, hr, hno]))
    refine .intro hexec ⟨(hchans.only.mono (by decide)).next hfin, ?_⟩
    simp only [hfin.vch]
    exact ⟨VCh.of_idle VCh.overtemp (fun _ => rfl) hidle, hduty, fun m hm => hchans.other m (by simpa using hm)⟩
  · obtain ⟨honly, ⟨x, hx⟩, hother⟩ := refreshed_spec (s := s.touch k) false (fun c => c.cleared s.tm.mono)
      (getD_lt (p := fun c : VCh => c.latched = true) hlat (by decide))
    refine .intro ((exec_fault hn h).trans (congrArg Host.Outcome.next (answer_ok (faultCommand_clears (s := s.touch k) hlat hcmd)))) ⟨honly, ?_⟩
    exact ⟨(congrArg VCh.latched hx :), (congrArg VCh.trip hx :), (congrArg VCh.shorted hx :), (congrArg VCh.resumeAt hx :), hother⟩
  · exact (exec_fault hn h).trans (congrArg Host.Outcome.next (answer_error ((if_neg (show ¬(!(s.vch n).latched) = true by simp [hlat])).trans (if_pos hcmd))))

end Sys2Proof.Machine

/-! Proofs of the statement on the guard, the tests, the configuration and the SENT inputs of the valve stages (10). -/

namespace Sys2Proof.Machine

set_option Elab.async false

/-! ## Commands imposed on a channel (R245, R247) -/

/-- Changing what a channel is commanded moves the channel's profile alone. -/
theorem setCommand_chans (n : Nat) (f : VCh → VCh) (s : State) : Chans [.valve, .free, .flow, .upd] [n] s (setCommand n f s) ∧
    ((setCommand n f s).vch n).still = ((s.updCh n f).vch n).still := by
  unfold setCommand
  extract_lets t
  have ht : Chans [.valve, .free, .flow, .upd] [n] s t := (Chans.updCh s n f).mono
  split
  · exact ⟨ht, rfl⟩
  · have hprof := svFollow_profiles (rises s n (s.vch n) (t.vch n)) n t
    exact ⟨ht.trans hprof.toChans, hprof.chan⟩

theorem setCommand_self {n : Nat} (f : VCh → VCh) {s : State} (hl : n < s.valve.ch.length) :
    ((setCommand n f s).vch n).still = (f (s.vch n)).still := by
  rw [(setCommand_chans n f s).2, updCh_self f hl]

/-! ## The guard (R245) -/

/-- The guard's commands are imposed on the channels of a bank. -/
def guardImposed (b : Nat) (s : State) : State :=
  (bankChans b).foldl (fun s n => setCommand n (fun c => { c with guardCmd := some (guardChannel s n) }) s) s

theorem guardImposed_chans {b : Nat} (hb : b < 6) (s : State) : Chans [.valve, .free, .flow, .upd] (bankChans b) s (guardImposed b s) ∧
    ∀ n ∈ bankChans b, n < s.valve.ch.length → ((guardImposed b s).vch n).guardCmd = some (guardChannel s n) := by
  refine Chans.foldl (Q := fun n _ d => n < s.valve.ch.length → d.guardCmd = some (guardChannel s n)) s (bankChans_nodup hb)
    fun t n _ ht hsame => ⟨(setCommand_chans n _ t).1, fun hl => ?_⟩
  have hguard : guardChannel t n = guardChannel s n := by
    unfold guardChannel
    rw [ht.only.nat, ht.only.nat, hsame]
  rw [← hguard]
  exact VCh.of_still VCh.guardCmd (fun _ => rfl) (setCommand_self (fun c => { c with guardCmd := some (guardChannel t n) }) (ht.chLength.symm ▸ hl))

/-- The guard's commands are lifted. -/
def guardLifted (b : Nat) (s : State) : State := (bankChans b).foldl (fun s n => setCommand n (fun c => { c with guardCmd := none }) s) s

theorem guardLifted_chans {b : Nat} (hb : b < 6) (s : State) : Chans [.valve, .free, .flow, .upd] (bankChans b) s (guardLifted b s) ∧
    ∀ n ∈ bankChans b, ((guardLifted b s).vch n).guardCmd = none := by
  refine Chans.foldl (Q := fun _ _ d => d.guardCmd = none) s (bankChans_nodup hb) fun t n _ _ _ => ⟨(setCommand_chans n _ t).1, ?_⟩
  refine (VCh.of_still VCh.guardCmd (fun _ => rfl) (setCommand_chans n (fun c => { c with guardCmd := none }) t).2).trans ?_
  rcases updCh_or t n fun c => { c with guardCmd := none } with h | ⟨h, -⟩
  · rw [h]
  · rw [h]

/-- The guard acts on a bank. -/
theorem exec_guardExpiry {s : State} {b : Nat} (hb : b < 6) (hr : s.reachable = true) (hon : (s.vbank b).enable = true) (hno : (s.vbank b).guard = false)
    (hdue : guardOver s (s.vbank b).guardDue = true) : exec (.valveGuardExpiry b) s = .next (forceBank b ((guardImposed b (s.updBank b fun x =>
      { x with guard := true, latches := 0, guardCount := inc32 x.guardCount })).record ⟨0x7005, b, 3, [], [], 0xFFFFFFFF, 0xF⟩)) := by
  have hruns : guardRuns s b = true := by
    unfold guardRuns
    simp [hon]
  exact bank_next hb (if_neg (by simp [hno, hruns, hdue, valveOn, hr]))

/-! ## Tests and configuration (R247, R248) -/

section
variable {s : State} {n : Nat} {w : Ctx} {v : Val} (hn : n < 32)
include hn

theorem valveWrite_test (h : preCheck w (0x4000 + n) 0xA v = 0) : valveWrite w (0x4000 + n) 0xA v s = testCommand w n (valNum v).toNat s := by
  refine (if_pos h).trans ((if_pos (by omega)).trans ((if_neg (by omega)).trans ((if_pos rfl).trans ?_)))
  rw [Nat.add_sub_cancel_left]

/-- A session's TestCommand is answered with what it makes of the channel. -/
theorem exec_test {k : Nat} {v : Int} (h : s.admits k (0x4000 + n) 0xA (.int v)) :
    exec (.testCommand k n v) s = .next ((s.touch k).answer k (testCommand (s.ctxOf k) n v.toNat (s.touch k))) :=
  guarded_next hn ((serve_ok h.serves).trans (congrArg (fun e => Host.Outcome.next ((s.touch k).answer k e)) (valveWrite_test hn h.2)))

/-- An object of a channel that is neither a command nor a source of its travel is stored, unless it is the pulse mode of a running profile or a
profile table that R235 rejects. -/
theorem valveWrite_config {sub : Nat} (h : preCheck w (0x4000 + n) sub v = 0) (h9 : sub ≠ 9) (hA : sub ≠ 0xA) (h18 : sub ≠ 0x18) :
    valveWrite w (0x4000 + n) sub v s = if sub = 0x20 ∧ (s.vch n).phase ≠ 0 then .error Abort.state
      else if sub = 0x22 ∧ !profileOk (valRaw v) then .error Abort.range else .ok (s.put (0x4000 + n) sub v) := by
  refine (if_pos h).trans ((if_pos (by omega)).trans ((if_neg h9).trans ((if_neg hA).trans ?_)))
  rw [Nat.add_sub_cancel_left, if_neg fun hc : sub = 0x18 ∧ _ => h18 hc.1]

theorem exec_config {k sub : Nat} (h : s.admits k (0x4000 + n) sub v) : exec (.valveConfigWrite k (0x4000 + n) sub v) s =
    .next ((s.touch k).answer k (valveWrite (s.ctxOf k) (0x4000 + n) sub v (s.touch k))) := by
  have hindex : valveIndex (0x4000 + n) = true := by
    unfold valveIndex
    simp only [Bool.or_eq_true, Bool.and_eq_true, decide_eq_true_eq]
    omega
  exact guarded_next (s := s) hindex (serve_ok h.serves)
end

/-! ## SENT inputs (R241–R243) -/

theorem updSent_only (s : State) (i : Nat) (f : Sent → Sent) : Only [.sens] s (s.updSent i f) := updSens_only s _

theorem updSent_self {s : State} {i : Nat} (f : Sent → Sent) (h : i < s.sens.sent.length) : (s.updSent i f).sens.sent.getD i {} = f (s.sens.sent.getD i {}) :=
  getD_upd _ _ _ _ h

theorem updSent_ne {s : State} {i j : Nat} (f : Sent → Sent) (h : j ≠ i) : (s.updSent i f).sens.sent.getD j {} = s.sens.sent.getD j {} :=
  getD_upd_ne _ _ _ _ _ h

/-- Settles O42: the guard by what its commands leave of each channel, the tests and writes by their branches. -/
theorem guardTestsAndSent : Obligations.GuardTestsAndSent := by
  unfold Obligations.GuardTestsAndSent
  refine ⟨fun s b hb hr hon hno hdue => ?_, fun s b hb hnone => bank_next hb (if_pos ?_), fun s b hb hon hten => ?_,
    fun s b hb hfew => bank_next hb (if_neg fun hc => absurd hc.2 (Nat.not_le.2 hfew)), fun s n k v hn hl h hval hdev hname => ?_,
    fun s n k v hn h hval hnot => ?_, fun s n k v hlo hhi h hval => ?_, fun s n hn htest => ?_, fun s n k sub v hn h h9 hA h18 h20 h22 => ?_,
    fun s n k b hn h => ?_, fun s n k v hn h hphase => ?_, fun s i f hi hl hr hon hok => ?_, fun s i f hi hl hr hon hbad => ?_,
    fun s i hi hr hon hlate => unit_next hi (if_pos ⟨hr, hon, hlate⟩)⟩
  · obtain ⟨d, hd, hover⟩ := hdue
    have hover' : guardOver s (s.vbank b).guardDue = true := by
      rw [hd]
      exact decide_eq_true hover
    obtain ⟨t, ht⟩ : ∃ t, s.updBank b (fun x => { x with guard := true, latches := 0, guardCount := inc32 x.guardCount }) = t := ⟨_, rfl⟩
    have htself : t.vbank b = { s.vbank b with guard := true, latches := 0, guardCount := inc32 (s.vbank b).guardCount } :=
      ht ▸ updBank_self _ (held_of_bank_enable hon)
    have hexec := exec_guardExpiry hb hr hon hno hover'
    rw [ht] at hexec
    obtain ⟨hchans, hcmds⟩ := guardImposed_chans hb t
    have hbank := hchans.bank b
    rw [htself] at hbank
    have hrec := record_only (guardImposed b t) ⟨0x7005, b, 3, [], [], 0xFFFFFFFF, 0xF⟩
    have hforce : Only [.loop, .lead, .steer, .flow, .upd] (guardImposed b t)
        (forceBank b ((guardImposed b t).record ⟨0x7005, b, 3, [], [], 0xFFFFFFFF, 0xF⟩)) := (hrec.mono (by decide)).trans (forceSafe_only _ _)
    have honly : Only [.valve, .loop, .lead, .steer, .free, .flow, .upd] s (guardImposed b t) :=
      ((ht ▸ updBank_only s b _ : Only [.valve] s t).mono (by decide)).trans (hchans.only.mono (by decide))
    refine .intro hexec ⟨honly.next hforce, ?_⟩
    simp only [hforce.vbank, hforce.vch]
    refine ⟨(VBank.of_still VBank.guard (fun _ => rfl) hbank).trans rfl, (VBank.of_still VBank.latches (fun _ => rfl) hbank).trans rfl,
      (VBank.of_still VBank.guardCount (fun _ => rfl) hbank).trans rfl, fun n hn hl => ?_, fun n hn => (hchans.other n hn).trans (ht ▸ rfl)⟩
    rw [hcmds n hn (ht ▸ hl), ← ht]
    rfl
  · rw [hnone]
    simp [guardOver]
  · obtain ⟨t, ht⟩ : ∃ t, s.updBank b (fun x => { x with guard := false, latches := 0 }) = t := ⟨_, rfl⟩
    have htself : t.vbank b = { s.vbank b with guard := false, latches := 0 } :=
      ht ▸ updBank_self _ (getD_lt (p := fun x : VBank => x.guard = true) hon (by decide))
    obtain ⟨hchans, hcmds⟩ := guardLifted_chans hb t
    have hbank := hchans.bank b
    rw [htself] at hbank
    have hexec : exec (.valveGuardEnd b) s = .next (guardLifted b t) := by
      rw [← ht]
      exact bank_next hb (if_pos ⟨hon, hten⟩)
    exact .intro hexec ⟨((ht ▸ updBank_only s b _ : Only [.valve] s t).mono (by decide)).trans hchans.only,
      (VBank.of_still VBank.guard (fun _ => rfl) hbank).trans rfl, (VBank.of_still VBank.latches (fun _ => rfl) hbank).trans rfl, hcmds,
      fun n hn => (hchans.other n hn).trans (ht ▸ rfl)⟩
  · have htest : testCommand (s.ctxOf k) n v.toNat (s.touch k) = .ok (setCommand n (fun c => { c with test := some (v.toNat, k) }) (s.touch k)) :=
      (if_neg (by omega)).trans (if_neg (show ¬(s.pw.dev ≠ .service ∨ chanNamed s n = true) by simp [hdev, hname]))
    have hchans := (setCommand_chans n (fun c => { c with test := some (v.toNat, k) }) (s.touch k)).1
    exact .intro ((exec_test hn h).trans (congrArg Host.Outcome.next (answer_ok htest))) ⟨hchans.only,
      VCh.of_still VCh.test (fun _ => rfl) (setCommand_self (s := s.touch k) (fun c => { c with test := some (v.toNat, k) }) hl),
      fun m hm => hchans.other m (by simpa using hm)⟩
  · have htest : testCommand (s.ctxOf k) n v.toNat (s.touch k) = .error Abort.state :=
      (if_neg (by omega)).trans (if_pos hnot)
    exact (exec_test hn h).trans (congrArg Host.Outcome.next (answer_error htest))
  · have htest : testCommand (s.ctxOf k) n v.toNat (s.touch k) = .error Abort.range := if_pos ⟨hlo, hval⟩
    exact (exec_test hhi h).trans (congrArg Host.Outcome.next (answer_error htest))
  · obtain ⟨hchans, hself⟩ := setCommand_chans n (fun c => { c with test := none }) s
    have hl : n < s.valve.ch.length := getD_lt (p := fun c : VCh => c.test.isSome = true) htest (by decide)
    exact .intro (chan_next hn (if_pos htest)) ⟨hchans.only, VCh.of_still VCh.test (fun _ => rfl) (setCommand_self (fun c => { c with test := none }) hl),
      fun m hm => hchans.other m (by simpa using hm)⟩
  · exact (exec_config hn h).trans (congrArg Host.Outcome.next (answer_ok ((valveWrite_config hn h.2 h9 hA h18).trans
      ((if_neg fun hc => h20 hc.1).trans (if_neg fun hc => h22 hc.1)))))
  · have hwrite := (valveWrite_config (s := s.touch k) hn h.2 (by decide) (by decide) (by decide)).trans (if_neg (by omega))
    rw [exec_config hn h, hwrite]
    by_cases hok : profileOk b = true
    · rw [if_neg (by simp [valRaw, hok]), if_pos hok]
      rfl
    · rw [if_pos ⟨rfl, by simpa [valRaw] using hok⟩, if_neg hok]
      rfl
  · exact (exec_config hn h).trans (congrArg Host.Outcome.next (answer_error ((valveWrite_config hn h.2 (by decide) (by decide) (by decide)).trans
      (if_pos ⟨rfl, hphase⟩))))
  · refine .intro (unit_next hi ((if_neg (by simp [valveOn, hr, hon])).trans (if_pos hok))) ⟨updSent_only _ _ _, ?_⟩
    rw [updSent_self _ hl]
    exact ⟨rfl, rfl, rfl, rfl, rfl, fun j hj => updSent_ne _ hj⟩
  · refine .intro (unit_next hi ((if_neg (by simp [valveOn, hr, hon])).trans (if_neg (Bool.eq_false_iff.1 hbad)))) ⟨updSent_only _ _ _, ?_⟩
    rw [updSent_self _ hl]
    refine ⟨rfl, rfl, rfl, fun h2 => ⟨?_, ?_⟩, fun j hj => updSent_ne _ hj⟩
    · simp only [Bool.and_eq_false_iff, decide_eq_false_iff_not]
      exact .inr (by omega)
    · simp only [Bool.or_eq_true, decide_eq_true_eq]
      exact .inr (by omega)

end Sys2Proof.Machine

/-! Proofs of the statement on the enables, supplies, guards and faults of the field groups (11). -/

namespace Sys2Proof.Machine

set_option Elab.async false

/-! ## Updates of pins and groups -/

section
variable (s : State) (n : Nat)
theorem updPin_only (f : FPin → FPin) : Only [.fio] s (s.updPin n f) := updFio_only s _
theorem updGrp_only (f : FGrp → FGrp) : Only [.fio] s (s.updGrp n f) := updFio_only s _
@[simp] theorem updPin_fgrp (f : FPin → FPin) (g : Nat) : (s.updPin n f).fgrp g = s.fgrp g := rfl
@[simp] theorem updGrp_fpin (f : FGrp → FGrp) (m : Nat) : (s.updGrp n f).fpin m = s.fpin m := rfl
end

section
variable {s : State} {n m : Nat}
theorem updPin_self (f : FPin → FPin) (h : n < s.fio.pins.length) : (s.updPin n f).fpin n = f (s.fpin n) := getD_upd _ _ _ _ h
theorem updPin_ne (f : FPin → FPin) (h : m ≠ n) : (s.updPin n f).fpin m = s.fpin m := getD_upd_ne _ _ _ _ _ h
theorem updGrp_self (f : FGrp → FGrp) (h : n < s.fio.grp.length) : (s.updGrp n f).fgrp n = f (s.fgrp n) := getD_upd _ _ _ _ h
theorem updGrp_ne (f : FGrp → FGrp) (h : m ≠ n) : (s.updGrp n f).fgrp m = s.fgrp m := getD_upd_ne _ _ _ _ _ h
theorem updGrp_length (f : FGrp → FGrp) : (s.updGrp n f).fio.grp.length = s.fio.grp.length := List.length_modify ..
end

section
variable {ps : List Part} {s t : State} (h : Only ps s t)
include h
theorem Only.fpin (n : Nat) (k : Part.fio ∉ ps := by decide) : t.fpin n = s.fpin n := congrArg (fun x : Fio => x.pins.getD n {}) (h.fio k)
theorem Only.fgrp (g : Nat) (k : Part.fio ∉ ps := by decide) : t.fgrp g = s.fgrp g := congrArg (fun x : Fio => x.grp.getD g {}) (h.fio k)
end

/-- A pin of a list of which each has been changed. -/
theorem getD_mapIdx_eq {α} (l : List α) (f : Nat → α → α) (d : α) (n : Nat) : (l.mapIdx f).getD n d = if n < l.length then f n (l.getD n d) else d := by
  by_cases h : n < l.length
  · simp [List.getD_eq_getElem?_getD, h]
  · simp [List.getD_eq_getElem?_getD, h]

/-! ## An output that is off (R259–R264) -/

section
variable {s : State} {n : Nat}

theorem pinOut_unslotted (h : (s.fpin n).slotted = false) : pinOut s n = false := by
  unfold pinOut
  simp [h]

theorem pinOut_disabled (h : (s.fgrp (grpOf n)).enable = false) : pinOut s n = false := by
  unfold pinOut
  simp [h]

theorem pinOut_overload (h : (s.fgrp (grpOf n)).overload = true) : pinOut s n = false := by
  unfold pinOut
  simp [h]
end

/-- The pins of a group without their slots. -/
def unslot (g : Nat) (l : List FPin) : List FPin := l.mapIdx fun n (p : FPin) => if grpOf n = g then { p with slotted := false } else p

theorem unslot_in {g n : Nat} (l : List FPin) (h : grpOf n = g) : ((unslot g l).getD n {}).slotted = false := by
  rw [unslot, getD_mapIdx_eq, if_pos h]
  split <;> rfl

theorem unslot_out {g n : Nat} (l : List FPin) (h : grpOf n ≠ g) : (unslot g l).getD n {} = l.getD n {} := by
  rw [unslot, getD_mapIdx_eq, if_neg h]
  split
  · rfl
  next hl => exact (List.getD_eq_default _ _ (Nat.le_of_not_lt hl)).symm

/-- A group whose restore starts: its pins stand without slots, the other groups and their pins as before. -/
theorem restart_spec (g : Nat) (s : State) : Only [.fio] s (restart g s) ∧
    (g < s.fio.grp.length → (restart g s).fgrp g = { s.fgrp g with restoring := true, slot := 0 }) ∧
    (∀ n, grpOf n = g → ((restart g s).fpin n).slotted = false) ∧ (∀ n, grpOf n ≠ g → (restart g s).fpin n = s.fpin n) ∧
    ∀ h, h ≠ g → (restart g s).fgrp h = s.fgrp h :=
  ⟨updFio_only _ _, fun hl => getD_upd _ _ _ _ hl, fun _ hn => unslot_in _ hn, fun _ hn => unslot_out _ hn, fun _ hh => getD_upd_ne _ _ _ _ _ hh⟩

/-- A group whose enable falls. -/
theorem grpOff_spec (g : Nat) (s : State) : Only [.fio] s (grpOff g s) ∧
    (g < s.fio.grp.length → (grpOff g s).fgrp g = { s.fgrp g with enable := false, restoring := false, slot := 0, guardDue := none }) ∧
    (∀ n, grpOf n = g → ((grpOff g s).fpin n).slotted = false) ∧ (∀ n, grpOf n ≠ g → (grpOff g s).fpin n = s.fpin n) ∧
    ∀ h, h ≠ g → (grpOff g s).fgrp h = s.fgrp h :=
  ⟨updFio_only _ _, fun hl => getD_upd _ _ _ _ hl, fun _ hn => unslot_in _ hn, fun _ hn => unslot_out _ hn, fun _ hh => getD_upd_ne _ _ _ _ _ hh⟩

/-- A group whose enable falls with its supply: its guard timer runs on. -/
theorem grpUnfed_spec {g : Nat} {s : State} (hl : g < s.fio.grp.length) : Only [.fio] s (grpUnfed g s) ∧
    (grpUnfed g s).fgrp g = { s.fgrp g with enable := false, restoring := false, slot := 0 } ∧
    (∀ n, grpOf n = g → ((grpUnfed g s).fpin n).slotted = false) ∧ (∀ n, grpOf n ≠ g → (grpUnfed g s).fpin n = s.fpin n) ∧
    ∀ h, h ≠ g → (grpUnfed g s).fgrp h = s.fgrp h := by
  obtain ⟨honly, hself, hin, hout, hother⟩ := grpOff_spec g s
  have hlen : g < (grpOff g s).fio.grp.length := (List.length_modify ..).symm ▸ hl
  refine ⟨honly.trans (updGrp_only _ _ _), ?_, hin, hout, fun h hh => (updGrp_ne _ hh).trans (hother h hh)⟩
  unfold grpUnfed
  rw [updGrp_self _ hlen, hself hl]

theorem grp_next {g : Nat} {s t : State} (hg : g < 4) (h : s = t) : withUnit (decide (g < 4)) s = .next t := unit_next hg h

theorem held_of_grp_enable {s : State} {g : Nat} (h : (s.fgrp g).enable = true) : g < s.fio.grp.length :=
  getD_lt (p := fun x : FGrp => x.enable = true) h (by decide)

/-! ## Supplies (R260, R261) -/

/-- A group's update with its record. -/
theorem updGrp_recorded {g : Nat} (f : FGrp → FGrp) {s : State} (e : FlowEv) (hl : g < s.fio.grp.length) :
    Only [.fio, .flow, .upd] s ((s.updGrp g f).record e) ∧ ((s.updGrp g f).record e).fgrp g = f (s.fgrp g) ∧
      ((s.updGrp g f).record e).fio.pins = s.fio.pins ∧ (∀ h, h ≠ g → ((s.updGrp g f).record e).fgrp h = s.fgrp h) ∧
      Recorded e s ((s.updGrp g f).record e) := by
  have hrec := record_only (s.updGrp g f) e
  exact ⟨((updGrp_only _ _ _).mono (by decide)).next hrec, by rw [hrec.fgrp, updGrp_self _ hl], by rw [hrec.fio]; rfl,
    fun h hh => by rw [hrec.fgrp, updGrp_ne _ hh], (Recorded.self (s.updGrp g f) _).base rfl rfl rfl rfl rfl⟩

/-- A condition of a group's supply that begins, with its record, before the enable falls. -/
theorem grpUnfed_recorded {g : Nat} (f : FGrp → FGrp) {s : State} (e : FlowEv) (hl : g < s.fio.grp.length) :
    Only [.fio, .flow, .upd] s (grpUnfed g ((s.updGrp g f).record e)) ∧
      (grpUnfed g ((s.updGrp g f).record e)).fgrp g = { f (s.fgrp g) with enable := false, restoring := false, slot := 0 } ∧
      (∀ n, grpOf n = g → pinOut (grpUnfed g ((s.updGrp g f).record e)) n = false) ∧
      (∀ n, grpOf n ≠ g → (grpUnfed g ((s.updGrp g f).record e)).fpin n = s.fpin n) ∧
      (∀ h, h ≠ g → (grpUnfed g ((s.updGrp g f).record e)).fgrp h = s.fgrp h) ∧ Recorded e s (grpUnfed g ((s.updGrp g f).record e)) := by
  obtain ⟨honly, hself, hpins, hother, hrec⟩ := updGrp_recorded f e hl
  have hlen : g < ((s.updGrp g f).record e).fio.grp.length := by
    rw [(record_only (s.updGrp g f) e).fio, updGrp_length]
    exact hl
  obtain ⟨uonly, uself, uin, uout, uother⟩ := grpUnfed_spec hlen
  refine ⟨honly.next uonly, by rw [uself, hself], fun n hn => pinOut_unslotted (uin n hn), fun n hn => (uout n hn).trans ?_, fun h hh => (uother h hh).trans (hother h hh),
    hrec.of_flow uonly.flow⟩
  exact congrArg (fun l : List FPin => l.getD n {}) hpins

/-- The reports of a group's supply before it is judged. -/
def missingReported (g mV : Nat) (s : State) : State :=
  (s.updGrp g fun y => { y with lastHigh := false, condAt := s.tm.mono }).updGrp g fun y =>
    { y with mV := mV, minMv := min y.minMv mV, lowMin := min y.lowMin mV, missMin := min y.missMin mV }

def overReported (g : Nat) (s : State) : State := s.updGrp g fun y => { y with lastHigh := true, condAt := s.tm.mono }

theorem missingReported_spec (g mV : Nat) {s : State} (hl : g < s.fio.grp.length) : g < (missingReported g mV s).fio.grp.length ∧
    (missingReported g mV s).fgrp g = { s.fgrp g with lastHigh := false, condAt := s.tm.mono, mV := mV, minMv := min (s.fgrp g).minMv mV, lowMin := min (s.fgrp g).lowMin mV, missMin := min (s.fgrp g).missMin mV } ∧
    ∀ h, h ≠ g → (missingReported g mV s).fgrp h = s.fgrp h := by
  have hlen : g < (s.updGrp g fun y => { y with lastHigh := false, condAt := s.tm.mono }).fio.grp.length := (updGrp_length _).symm ▸ hl
  unfold missingReported
  refine ⟨(updGrp_length _).symm ▸ hlen, ?_, fun h hh => (updGrp_ne _ hh).trans (updGrp_ne _ hh)⟩
  rw [updGrp_self _ hlen, updGrp_self _ hl]

section
variable {s : State} {g : Nat} (hg : g < 4) (hr : s.reachable = true) (htake : 48 ≤ s.nat 0x3C00 7 ∨ grpOf (s.nat 0x3C00 7) ≠ g)
include hg hr htake

/-- Without a takeover pin in the group, the loss of its supply changes the group alone. -/
theorem exec_supplyMissing (mV : Nat) (hm : (s.fgrp g).missing = false) : exec (.groupSupplyMissing g false mV) s =
    .next (grpUnfed g (((missingReported g mV s).updGrp g fun y =>
      { y with missing := true, missAt := s.tm.mono, missMin := mV, missingCount := inc32 y.missingCount }).record ⟨0x8005, g, 0x10, [], [], 0xFFFFFFFF, 0xF⟩)) := by
  refine grp_next hg ((if_neg (by simp [hr])).trans ((if_neg ?_).trans ?_))
  · rintro ⟨-, h48, hgrp, -⟩
    exact htake.elim (fun h => absurd h48 (Nat.not_lt.2 h)) fun h => h hgrp
  · rw [if_neg (by decide), if_neg (by simp [hm])]
    rfl

theorem exec_supplyOver (mV : Nat) (ho : (s.fgrp g).overV = false) : exec (.groupSupplyMissing g true mV) s =
    .next (grpUnfed g (((overReported g s).updGrp g fun y =>
      { y with overV := true, overAt := s.tm.mono, overMax := mV, mV := mV }).record ⟨0x8009, g, 0x10, [], [], 0xFFFFFFFF, 0xF⟩)) := by
  refine grp_next hg ((if_neg (by simp [hr])).trans ((if_neg ?_).trans ?_))
  · rintro ⟨-, h48, hgrp, -⟩
    exact htake.elim (fun h => absurd h48 (Nat.not_lt.2 h)) fun h => h hgrp
  · rw [if_pos rfl, if_neg (by simp [ho])]
    rfl
end

/-! ## The restore (R262) -/

/-- A group's changes with perhaps a record: pins and other groups stand. -/
structure GrpOnly (g : Nat) (s t : State) : Prop where
  only : Only [.fio, .flow, .upd] s t
  pins : t.fio.pins = s.fio.pins
  other : ∀ h, h ≠ g → t.fgrp h = s.fgrp h
  length : t.fio.grp.length = s.fio.grp.length

section
variable {g : Nat} {s t u : State}

theorem GrpOnly.trans (h : GrpOnly g s t) (k : GrpOnly g t u) : GrpOnly g s u :=
  ⟨h.only.trans k.only, k.pins.trans h.pins, fun x hx => (k.other x hx).trans (h.other x hx), k.length.trans h.length⟩

theorem GrpOnly.updGrp (g : Nat) (s : State) (f : FGrp → FGrp) : GrpOnly g s (s.updGrp g f) :=
  ⟨(updGrp_only _ _ _).mono (by decide), rfl, fun _ hx => updGrp_ne f hx, updGrp_length f⟩

theorem GrpOnly.record (g : Nat) (s : State) (e : FlowEv) : GrpOnly g s (s.record e) := by
  have h := record_only s e
  exact ⟨h.mono (by decide), by rw [h.fio], fun x _ => h.fgrp x, by rw [h.fio]⟩
end

theorem enterLow_spec (g mV : Nat) {s : State} (hl : g < s.fio.grp.length) : GrpOnly g s (enterLow g mV s) ∧
    (enterLow g mV s).fgrp g = { s.fgrp g with low := true, lowAt := s.tm.mono, lowMin := mV, mV := mV, minMv := min (s.fgrp g).minMv mV, lowFirst := false } := by
  refine ⟨(GrpOnly.updGrp g s _).trans (.record g _ _), ?_⟩
  unfold enterLow
  rw [(record_only _ _).fgrp, updGrp_self _ hl]

theorem leaveMissing_spec {g : Nat} {s : State} (hl : g < s.fio.grp.length) : GrpOnly g s (leaveMissing g s) ∧ ((leaveMissing g s).fgrp g).missing = false ∧
    ((leaveMissing g s).fgrp g).seen = true ∧
    ((s.fgrp g).seen = false → (s.fgrp g).missing = true → (s.fgrp g).lowFirst = true → ((leaveMissing g s).fgrp g).low = true) := by
  obtain ⟨t, ht⟩ : ∃ t, s.updGrp g (fun y => { y with missing := false, seen := true, leftAt := s.tm.mono }) = t := ⟨_, rfl⟩
  have htself : t.fgrp g = { s.fgrp g with missing := false, seen := true, leftAt := s.tm.mono } := ht ▸ updGrp_self _ hl
  have htonly : GrpOnly g s t := ht ▸ .updGrp g s _
  have htl : g < t.fio.grp.length := htonly.length.symm ▸ hl
  have heq : leaveMissing g s = if (s.fgrp g).missing && (s.fgrp g).seen then
      t.record (grpRecord 0x8006 g (grpSpan (s.fgrp g).missMin (t.tm.mono - (s.fgrp g).missAt)))
    else if (s.fgrp g).missing && (s.fgrp g).lowFirst then enterLow g (s.fgrp g).mV t else t := by
    rw [← ht]
    rfl
  obtain ⟨u, hu⟩ : ∃ u, leaveMissing g s = u := ⟨_, rfl⟩
  rw [hu] at heq ⊢
  split at heq
  next hboth =>
    subst heq
    rw [(record_only _ _).fgrp, htself]
    refine ⟨htonly.trans (.record g _ _), rfl, rfl, fun hseen => ?_⟩
    simp [hseen] at hboth
  next hfirst =>
    split at heq
    next hlow =>
      subst heq
      obtain ⟨lonly, lself⟩ := enterLow_spec g (s.fgrp g).mV htl
      rw [lself, htself]
      exact ⟨htonly.trans lonly, rfl, rfl, fun _ _ _ => rfl⟩
    next hhigh =>
      subst heq
      rw [htself]
      exact ⟨htonly, rfl, rfl, fun _ hmiss hlow => absurd (by simp [hmiss, hlow]) hhigh⟩

theorem leaveOver_spec {g : Nat} {s : State} (hl : g < s.fio.grp.length) : GrpOnly g s (leaveOver g s) ∧
    (leaveOver g s).fgrp g = { s.fgrp g with overV := false, leftAt := s.tm.mono } := by
  unfold leaveOver
  extract_lets x t
  have htself : t.fgrp g = { s.fgrp g with overV := false, leftAt := s.tm.mono } := updGrp_self _ hl
  have htonly : GrpOnly g s t := .updGrp g s _
  split
  · rw [(record_only _ _).fgrp, htself]
    exact ⟨htonly.trans (.record g _ _), rfl⟩
  · exact ⟨htonly, htself⟩

/-- What a grant rests on stands through the start of the restore. -/
theorem grpMay_restart {g : Nat} {s t : State} (hl : g < s.fio.grp.length) (ht : t = s ∨ t = grpOn g s) : grpMay (restart g t) g = grpMay s g := by
  have hself : ((restart g t).fgrp g).absent = (s.fgrp g).absent ∧ ((restart g t).fgrp g).latched = (s.fgrp g).latched := by
    rcases ht with rfl | rfl
    · rw [(restart_spec g t).2.1 hl]
      exact ⟨rfl, rfl⟩
    · have hon : (grpOn g s).fgrp g = { s.fgrp g with enable := true, guardDue := some ((s.fgrp g).guardDue.getD (grpGuardTime s g)) } := updGrp_self _ hl
      rw [(restart_spec g (grpOn g s)).2.1 ((updGrp_length _).symm ▸ hl), hon]
      exact ⟨rfl, rfl⟩
  unfold grpMay
  rw [hself.1, hself.2]
  rcases ht with rfl | rfl <;> rfl

/-! ## The guard and the commands of a group (R264, R268) -/

theorem mapGrpPins_spec (g : Nat) (f : Nat → FPin → FPin) (s : State) : Only [.fio] s (mapGrpPins g f s) ∧
    (∀ n, n < s.fio.pins.length → grpOf n = g → (mapGrpPins g f s).fpin n = f n (s.fpin n)) ∧ ∀ n, grpOf n ≠ g → (mapGrpPins g f s).fpin n = s.fpin n := by
  refine ⟨updFio_only _ _, fun n hl hn => ?_, fun n hn => ?_⟩
  · refine (getD_mapIdx_eq s.fio.pins (fun n p => if grpOf n = g then f n p else p) {} n).trans ?_
    rw [if_pos hl, if_pos hn]
    rfl
  · refine (getD_mapIdx_eq s.fio.pins (fun n p => if grpOf n = g then f n p else p) {} n).trans ?_
    rw [if_neg hn]
    split
    · rfl
    next hl => exact (List.getD_eq_default _ _ (Nat.le_of_not_lt hl)).symm

/-- What the guard commands a pin, by its GuardState. -/
def guardTake (s : State) (n : Nat) (p : FPin) : Bool := match s.nat (pinObj n) 4 with | 0 => false | 1 => true | _ => p.cmd

/-- The guard acts on a group. -/
theorem exec_fieldGuard {s : State} {g : Nat} (hg : g < 4) (hr : s.reachable = true) (hno : (s.fgrp g).guard = false) (hon : (s.fgrp g).enable = true)
    (hdue : ∃ d, (s.fgrp g).guardDue = some d ∧ d ≤ s.tm.mono + 100000) : exec (.fieldGuardExpiry g) s = .next (forceGroup g
      ((mapGrpPins g (fun n p => { p with guardCmd := some (guardTake s n p) }) (s.updGrp g fun y =>
        { y with guard := true, latches := 0, guardCount := inc32 y.guardCount })).record (grpRecord 0x8007 g []))) := by
  obtain ⟨d, hd, hle⟩ := hdue
  have hruns : grpGuardRuns s g = true := by
    unfold grpGuardRuns
    simp [hon]
  have hover : guardOver s (s.fgrp g).guardDue = true := by
    rw [hd]
    exact decide_eq_true hle
  exact grp_next hg (if_neg (by simp [hno, hruns, hover, hr]))

/-- The group as an overload leaves it, latched at the third within 10 s. -/
theorem exec_overload {s : State} {g : Nat} (hg : g < 4) (hon : (s.fgrp g).enable = true) (hno : (s.fgrp g).overload = false) :
    exec (.groupOverload g) s = .next (if 3 ≤ (addTrip (s.fgrp g).trips s.tm.mono).length then
      forceGroup g (grpOff g ((s.updGrp g fun y => { y with overload := true, overEnd := s.tm.mono + 100000000, trips := addTrip (s.fgrp g).trips s.tm.mono }).updGrp g
        fun y => { y with latched := true }))
      else s.updGrp g fun y => { y with overload := true, overEnd := s.tm.mono + 100000000, trips := addTrip (s.fgrp g).trips s.tm.mono }) :=
  grp_next hg (if_neg (by simp [hon, hno]))

section
variable {s : State} {g k : Nat} (hg : g < 4) {v : Int} (h : s.admits k (0x4480 + g) 7 (.int v)) (hlat : (s.fgrp g).latched = true)
include hg h hlat

/-- An admitted GroupCommand clears a latched group unless one of its outputs is commanded on. -/
theorem exec_groupCommand : exec (.groupCommand k g v) s = .next ((s.touch k).answer k (if (outPins s g).any (baseCmd s) = true then .error Abort.state
    else .ok (if grpMay ((s.touch k).updGrp g fun y => { y with latched := false, trips := [] }) g then
      grpGrant g ((s.touch k).updGrp g fun y => { y with latched := false, trips := [] })
      else (s.touch k).updGrp g fun y => { y with latched := false, trips := [] }))) := by
  refine guarded_next hg ((session_ok h _).trans (congrArg (fun e => Host.Outcome.next ((s.touch k).answer k e)) ?_))
  rw [if_pos (by omega), if_pos rfl, Nat.add_sub_cancel_left]
  exact if_neg (show ¬(!(s.fgrp g).latched) = true by simp [hlat])
end

/-- Settles O43: each change of a group by what it leaves of the group, its pins and the others. -/
theorem fieldGroups : Obligations.FieldGroups := by
  unfold Obligations.FieldGroups
  refine ⟨fun s g hg hl hmay hoff => ?_, fun s g hg hmay => grp_next hg ((if_pos rfl).trans (if_neg (by simp [hmay]))), fun s g hg hon => ?_,
    fun s g low mV hg hr hseen => ?_, fun s g mV hg hr hseen hlow => ?_, fun s g mV hg hr hseen hlow => ?_, fun s g mV hg hl hr hm htake => ?_,
    fun s g mV hg hl hr ho htake => ?_, fun s g hg hwait => grp_next hg (if_pos (.inr (.inr hwait))), fun s g hg hl hr habs hwait => ?_,
    fun s g n hg hres hn hl => ?_, fun s g hg hres => grp_next hg (if_pos (by simp [hres])), fun s g hg hon hno => ?_,
    fun s g hg hnone => grp_next hg (if_pos ?_), fun s g hg hr hno hon hdue => ?_, fun s g hg hon hten => ?_, fun s k g hg h hlat hoff => ?_,
    fun s k g hg h hlat hon => ?_⟩
  · have hself : (grpOn g s).fgrp g = { s.fgrp g with enable := true, guardDue := some ((s.fgrp g).guardDue.getD (grpGuardTime s g)) } := updGrp_self _ hl
    obtain ⟨honly, hgrp, hin, hout, hother⟩ := restart_spec g (grpOn g s)
    refine .intro (grp_next hg ((if_pos rfl).trans (if_pos (by simp [hmay, hoff])))) ⟨(updGrp_only _ _ _).trans honly, ?_, fun n hn => pinOut_unslotted (hin n hn), hout,
      fun h hh => (hother h hh).trans (updGrp_ne _ hh)⟩
    refine (hgrp ((updGrp_length _).symm ▸ hl)).trans ?_
    rw [hself]
    rfl
  · obtain ⟨honly, hgrp, hin, hout, hother⟩ := grpOff_spec g s
    exact .intro (grp_next hg ((if_neg (by decide)).trans (if_pos hon))) ⟨honly, hgrp (held_of_grp_enable hon), fun n hn => pinOut_unslotted (hin n hn), hout, hother⟩
  · exact grp_next hg ((if_neg (by simp [hr, hseen])).trans (if_pos (by simp [hseen])))
  · exact .intro (grp_next hg ((if_neg (by simp [hr, hlow])).trans ((if_neg (by simp [hseen])).trans (if_pos rfl))))
      (updGrp_recorded _ _ (getD_lt (p := fun x : FGrp => x.seen = true) hseen (by decide)))
  · exact .intro (grp_next hg ((if_neg (by simp [hr, hlow])).trans ((if_neg (by simp [hseen])).trans (if_neg (by decide)))))
      (updGrp_recorded _ _ (getD_lt (p := fun x : FGrp => x.seen = true) hseen (by decide)))
  · obtain ⟨hlen, hself, hother⟩ := missingReported_spec g mV hl
    obtain ⟨honly, hgrp, hin, hout, hrest, hrec⟩ := grpUnfed_recorded (fun y =>
      { y with missing := true, missAt := s.tm.mono, missMin := mV, missingCount := inc32 y.missingCount }) ⟨0x8005, g, 0x10, [], [], 0xFFFFFFFF, 0xF⟩ hlen
    have hbase : Only [.fio] s (missingReported g mV s) := (updGrp_only _ _ _).trans (updGrp_only _ _ _)
    rw [hself] at hgrp
    refine .intro (exec_supplyMissing hg hr htake mV hm) ⟨(hbase.mono (by decide)).trans honly, ?_⟩
    rw [hgrp]
    exact ⟨rfl, rfl, rfl, rfl, rfl, rfl, hin, hout, fun h hh => (hrest h hh).trans (hother h hh), hrec.base rfl rfl rfl rfl rfl⟩
  · have hlen : g < (overReported g s).fio.grp.length := (updGrp_length _).symm ▸ hl
    have hself : (overReported g s).fgrp g = { s.fgrp g with lastHigh := true, condAt := s.tm.mono } := updGrp_self _ hl
    obtain ⟨honly, hgrp, hin, -, hrest, hrec⟩ := grpUnfed_recorded (fun y => { y with overV := true, overAt := s.tm.mono, overMax := mV, mV := mV })
      ⟨0x8009, g, 0x10, [], [], 0xFFFFFFFF, 0xF⟩ hlen
    have hbase : Only [.fio] s (overReported g s) := updGrp_only _ _ _
    rw [hself] at hgrp
    refine .intro (exec_supplyOver hg hr htake mV ho) ⟨(hbase.mono (by decide)).trans honly, ?_⟩
    rw [hgrp]
    exact ⟨rfl, rfl, rfl, rfl, rfl, hin, fun h hh => (hrest h hh).trans (updGrp_ne _ hh), hrec.base rfl rfl rfl rfl rfl⟩
  · obtain ⟨honly1, hmiss, hseen, hlow⟩ := leaveMissing_spec hl
    have hl1 : g < (leaveMissing g s).fio.grp.length := honly1.length.symm ▸ hl
    obtain ⟨honly2, hself⟩ := leaveOver_spec hl1
    have hl2 : g < (leaveOver g (leaveMissing g s)).fio.grp.length := honly2.length.symm ▸ hl1
    have hboth := honly1.trans honly2
    obtain ⟨u, hu⟩ : ∃ u, leaveOver g (leaveMissing g s) = u := ⟨_, rfl⟩
    rw [hu] at hself hl2 hboth
    obtain ⟨v, hv⟩ : ∃ v, (if grpMay u g = true then grpOn g u else u) = v := ⟨_, rfl⟩
    have hv' : GrpOnly g u v ∧ (v = u ∨ v = grpOn g u) ∧ (∃ e d, v.fgrp g = { u.fgrp g with enable := e, guardDue := d } ∧ (grpMay u g = true → e = true)) := by
      rw [← hv]
      by_cases hmay : grpMay u g = true
      · rw [if_pos hmay]
        exact ⟨.updGrp g u _, .inr rfl, true, _, updGrp_self _ hl2, fun _ => rfl⟩
      · rw [if_neg hmay]
        exact ⟨⟨.refl _ _, rfl, fun _ _ => rfl, rfl⟩, .inl rfl, _, _, rfl, fun h => absurd h hmay⟩
    obtain ⟨hvonly, hvor, e, d, hvself, hve⟩ := hv'
    have hlv : g < v.fio.grp.length := hvonly.length.symm ▸ hl2
    obtain ⟨ronly, rgrp, rin, -, rother⟩ := restart_spec g v
    have hexec : exec (.groupRestoreStart g) s = .next (restart g v) := by
      rw [← hv, ← hu]
      exact grp_next hg (if_neg (by simp [hr, habs, hwait]))
    have hmay : grpMay (restart g v) g = grpMay u g := grpMay_restart hl2 hvor
    refine .intro hexec ⟨(hboth.only.trans hvonly.only).next ronly, ?_⟩
    rw [rgrp hlv, hvself, hself, hmay]
    refine ⟨?_, hseen, rfl, rfl, hlow, hve, fun n hn => pinOut_unslotted (rin n hn), fun h hh => (rother h hh).trans ((hvonly.other h hh).trans (hboth.other h hh))⟩
    unfold FGrp.absent
    dsimp only
    rw [hmiss]
    rfl
  · have hlg : g < s.fio.grp.length := getD_lt (p := fun x : FGrp => x.restoring = true) hres (by decide)
    have hexec : exec (.groupRestoreSlot g) s = .next ((s.updPin n fun p => { p with slotted := true }).updGrp g fun y =>
        { y with slot := y.slot + 1, restoring := decide (y.slot + 1 < (outPins s g).length) }) := by
      refine grp_next hg ((if_neg (by simp [hres])).trans ?_)
      rw [hn]
    exact .intro hexec ⟨(updPin_only _ _ _).trans (updGrp_only _ _ _), updPin_self _ hl, fun m hm => updPin_ne _ hm,
      updGrp_self (s := s.updPin n fun p => { p with slotted := true }) _ hlg⟩
  · have hl := held_of_grp_enable hon
    obtain ⟨t, ht⟩ : ∃ t, s.updGrp g (fun y => { y with overload := true, overEnd := s.tm.mono + 100000000, trips := addTrip (s.fgrp g).trips s.tm.mono }) = t := ⟨_, rfl⟩
    have htself : t.fgrp g = { s.fgrp g with overload := true, overEnd := s.tm.mono + 100000000, trips := addTrip (s.fgrp g).trips s.tm.mono } := ht ▸ updGrp_self _ hl
    have htonly : GrpOnly g s t := ht ▸ .updGrp g s _
    have htl : g < t.fio.grp.length := htonly.length.symm ▸ hl
    have htfio : Only [.fio] s t := ht ▸ updGrp_only s g _
    have hexec := exec_overload hg hon hno
    rw [ht] at hexec
    refine .intro hexec ?_
    by_cases h3 : 3 ≤ (addTrip (s.fgrp g).trips s.tm.mono).length
    · rw [if_pos h3]
      obtain ⟨honly, hgrp, hin, -, -⟩ := grpOff_spec g (t.updGrp g fun y => { y with latched := true })
      have hforce : Only [.loop, .lead, .steer, .flow, .upd] (grpOff g (t.updGrp g fun y => { y with latched := true }))
        (forceGroup g (grpOff g (t.updGrp g fun y => { y with latched := true }))) := forceSafe_only _ _
      have hself : (forceGroup g (grpOff g (t.updGrp g fun y => { y with latched := true }))).fgrp g =
          { s.fgrp g with overload := true, overEnd := s.tm.mono + 100000000, trips := addTrip (s.fgrp g).trips s.tm.mono, latched := true, enable := false, restoring := false, slot := 0, guardDue := none } := by
        rw [hforce.fgrp, hgrp ((updGrp_length _).symm ▸ htl), updGrp_self _ htl, htself]
      refine ⟨((htfio.trans ((updGrp_only _ _ _).trans honly)).mono (by decide)).next hforce, ?_⟩
      rw [hself]
      exact ⟨rfl, rfl, fun h => absurd h3 (by omega), fun _ => ⟨rfl, rfl⟩, fun n hn => pinOut_disabled (by rw [hn, hself])⟩
    · rw [if_neg h3]
      refine ⟨htfio.mono (by decide), ?_⟩
      rw [htself]
      exact ⟨rfl, rfl, fun _ => ⟨hon, rfl⟩, fun h => absurd h h3, fun n hn => pinOut_overload (by rw [hn, htself])⟩
  · rw [hnone]
    simp [guardOver]
  · have hl := held_of_grp_enable hon
    obtain ⟨t, ht⟩ : ∃ t, s.updGrp g (fun y => { y with guard := true, latches := 0, guardCount := inc32 y.guardCount }) = t := ⟨_, rfl⟩
    have htself : t.fgrp g = { s.fgrp g with guard := true, latches := 0, guardCount := inc32 (s.fgrp g).guardCount } := ht ▸ updGrp_self _ hl
    obtain ⟨honly, hin, hout⟩ := mapGrpPins_spec g (fun n p => { p with guardCmd := some (guardTake s n p) }) t
    obtain ⟨u, hu⟩ : ∃ u, mapGrpPins g (fun n p => { p with guardCmd := some (guardTake s n p) }) t = u := ⟨_, rfl⟩
    have hugrp : u.fgrp g = t.fgrp g := by
      rw [← hu]
      rfl
    rw [hu] at honly hin hout
    have hforce : Only [.loop, .lead, .steer, .flow, .upd] u (forceGroup g (u.record (grpRecord 0x8007 g []))) :=
      ((record_only u _).mono (by decide)).trans (forceSafe_only _ _)
    have hexec := exec_fieldGuard hg hr hno hon hdue
    rw [ht, hu] at hexec
    refine .intro hexec ⟨(((ht ▸ updGrp_only s g _ : Only [.fio] s t).trans honly).mono (by decide)).next hforce, ?_⟩
    simp only [hforce.fgrp, hforce.fpin]
    refine ⟨hugrp.trans htself, fun n hn hgn => ?_, fun n hgn => (hout n hgn).trans (ht ▸ rfl)⟩
    rw [hin n (ht ▸ hn) hgn, ← ht]
    rfl
  · have hl : g < s.fio.grp.length := getD_lt (p := fun x : FGrp => x.guard = true) hon (by decide)
    obtain ⟨honly, hin, hout⟩ := mapGrpPins_spec g (fun _ p => { p with guardCmd := none }) (s.updGrp g fun y => { y with guard := false, latches := 0 })
    refine .intro (grp_next hg (if_pos ⟨hon, hten⟩)) ⟨(updGrp_only _ _ _).trans honly, updGrp_self _ hl, fun n hn => ?_, hout⟩
    rcases Nat.lt_or_ge n s.fio.pins.length with hln | hln
    · exact hin n hln hn
    · have habsent : s.fpin n = {} := List.getD_eq_default _ _ hln
      rw [habsent]
      exact List.getD_eq_default _ _ ((List.length_mapIdx ..).symm ▸ hln)
  · have hl : g < s.fio.grp.length := getD_lt (p := fun x : FGrp => x.latched = true) hlat (by decide)
    obtain ⟨u, hu⟩ : ∃ u, (s.touch k).updGrp g (fun y => { y with latched := false, trips := [] }) = u := ⟨_, rfl⟩
    have huself : u.fgrp g = { s.fgrp g with latched := false, trips := [] } := hu ▸ updGrp_self (s := s.touch k) _ hl
    have huonly : Only [.fio] (s.touch k) u := hu ▸ updGrp_only _ _ _
    have hul : g < u.fio.grp.length := hu ▸ (updGrp_length (s := s.touch k) _).symm ▸ hl
    have huother : ∀ h, h ≠ g → u.fgrp h = s.fgrp h := fun h hh => hu ▸ updGrp_ne (s := s.touch k) _ hh
    have hexec := exec_groupCommand hg h hlat
    rw [hu, if_neg (Bool.eq_false_iff.1 hoff)] at hexec
    refine .intro hexec ?_
    split
    · obtain ⟨honly, hgrp, -, -, hother⟩ := restart_spec g (grpOn g u)
      have hgrant : (grpGrant g u).fgrp g = { (grpOn g u).fgrp g with restoring := true, slot := 0 } := hgrp ((updGrp_length _).symm ▸ hul)
      have hon : (grpOn g u).fgrp g = { u.fgrp g with enable := true, guardDue := some ((u.fgrp g).guardDue.getD (grpGuardTime u g)) } := updGrp_self _ hul
      rw [hgrant, hon, huself]
      exact ⟨(huonly.trans (updGrp_only _ _ _)).trans honly, rfl, rfl, fun h hh => (hother h hh).trans ((updGrp_ne _ hh).trans (huother h hh))⟩
    · rw [huself]
      exact ⟨huonly, rfl, rfl, huother⟩
  · exact (exec_groupCommand hg h hlat).trans (by rw [if_pos hon]; rfl)

end Sys2Proof.Machine

/-! Proofs of the statement on the inputs, outputs and faults of the field pins (11). -/

namespace Sys2Proof.Machine

set_option Elab.async false

/-! ## Pins -/

theorem pin_next {n : Nat} {s t : State} (hn : n < 48) (h : s = t) : withUnit (decide (n < 48)) s = .next t := unit_next hn h

section
variable {s : State} {n : Nat}

theorem pinOut_tripped (h : (s.fpin n).trip = true) : pinOut s n = false := by
  unfold pinOut
  simp [h]

theorem pinOut_hot (h : (s.fpin n).overtemp = true) : pinOut s n = false := by
  unfold pinOut
  simp [h]
end

/-- A pin's fault that is raised or cleared: its pin alone has changed. -/
theorem pinFault_spec {n : Nat} (raised : Bool) (f : FPin → FPin) {s : State} (hl : n < s.fio.pins.length) :
    Only [.fio, .flow, .upd] s (pinFault n raised f s) ∧ (pinFault n raised f s).fpin n = f (s.fpin n) ∧
      (∀ m, m ≠ n → (pinFault n raised f s).fpin m = s.fpin m) ∧ (pinFault n raised f s).fio.grp = s.fio.grp := by
  obtain ⟨t, ht⟩ : ∃ t, s.updPin n f = t := ⟨_, rfl⟩
  obtain ⟨e, he⟩ : ∃ e, pinFault n raised f s = t.record e := ht ▸ ⟨_, rfl⟩
  have hrec := record_only t e
  rw [he]
  exact ⟨((ht ▸ updPin_only s n f : Only [.fio] s t).mono (by decide)).next hrec, by rw [hrec.fpin, ← ht, updPin_self _ hl],
    fun m hm => by rw [hrec.fpin, ← ht, updPin_ne _ hm], by rw [hrec.fio, ← ht]; rfl⟩

/-! ## Inputs (R255) -/

/-- A pin whose voltage has been read. -/
def pinRead (n : Nat) (mV : Int) (s : State) : State := s.updPin n fun p => { p with mV := (clampI 0 65535 mV).toNat }

/-- The reading of an input, and its new level where that has held. -/
theorem exec_inputChange {s : State} {n stamp : Nat} {mV : Int} (hn : n < 48) (hl : n < s.fio.pins.length) (hr : s.reachable = true) :
    exec (.fieldInputChange n mV stamp) s = .next (
      if pinValid s n = true ∧ inputReads (s.nat (0x4400 + n) 1) mV (s.fpin n).level ≠ (s.fpin n).level ∧
          sampleAt stamp + s.nat (0x4400 + n) 2 * 100000 ≤ s.tm.now + 100000 then
        (pinRead n mV s).updPin n fun p => { p with level := inputReads (s.nat (0x4400 + n) 1) mV (s.fpin n).level, stamp := sampleAt stamp }
      else pinRead n mV s) := by
  have hlevel : ((pinRead n mV s).fpin n).level = (s.fpin n).level := (congrArg FPin.level (updPin_self (s := s) _ hl) :)
  refine pin_next hn ((if_neg (by simp [hr])).trans ?_)
  show (if pinValid (pinRead n mV s) n = true ∧ inputReads (s.nat (0x4400 + n) 1) mV ((pinRead n mV s).fpin n).level ≠ ((pinRead n mV s).fpin n).level ∧
      sampleAt stamp + s.nat (0x4400 + n) 2 * 100000 ≤ s.tm.now + 100000 then
      (pinRead n mV s).updPin n fun p => { p with level := inputReads (s.nat (0x4400 + n) 1) mV ((pinRead n mV s).fpin n).level, stamp := sampleAt stamp }
    else pinRead n mV s) = _
  rw [hlevel]
  rfl

/-! ## Pairs (R267) -/

section
variable {s : State} {m n : Nat} (hm : m < 48) (hn : n < 48) (hne : m ≠ n) (hmm : s.nat (0x4400 + m) 1 = 3) (hmn : s.nat (0x4400 + n) 1 = 3)
  (hgm : (s.fgrp (grpOf m)).absent = false) (hgn : (s.fgrp (grpOf n)).absent = false) (hcmd : pinCmd s m = false)
include hm hn hne hmm hmn hgm hgn hcmd

/-- The pairs under watch after one more transition. -/
def pairCounted (m n : Nat) (c : Nat × Nat) (s : State) : State :=
  s.updFio fun x => { x with pairs := (m, n, c.1, c.2) :: x.pairs.filter fun p => !(p.1 == m && p.2.1 == n) }

/-- A transition of an output for a watched pair of outputs. -/
theorem exec_pinsJoined (followed : Bool) {c : Nat × Nat} (hc : c = if followed then (min ((pairCount s.fio.pairs m n).1 + 1) 3, 0)
    else (0, min ((pairCount s.fio.pairs m n).2 + 1) 3)) : exec (.pinsJoined m n followed) s = .next (
      if c.1 = 3 ∧ !((s.fpin n).joined ∧ (s.fpin n).joinedWith = m) then
        (((pairCounted m n c s).updPin m fun p => { p with joined := true, joinedWith := n }).updPin n fun p => { p with joined := true, joinedWith := m }).record
          ⟨0x8008, m, 0x10, leBytes 1 n, [], 0xFFFFFFFF, 0xF⟩
      else if c.2 = 3 ∧ (s.fpin n).joined ∧ (s.fpin n).joinedWith = m then
        ((pairCounted m n c s).updPin m fun p => { p with joined := false, joinedWith := 0xFF }).updPin n fun p => { p with joined := false, joinedWith := 0xFF }
      else pairCounted m n c s) := by
  subst hc
  refine (withUnit_next (by simp [hm, hn, hne])).trans (congrArg Host.Outcome.next (if_neg ?_))
  simp [hmm, hmn, hgm, hgn, hcmd]
end

/-- A pin whose pair is dissolved, be it one that the state holds or not. -/
theorem unjoined_joined (s : State) (n : Nat) : ((s.updPin n fun p => { p with joined := false, joinedWith := 0xFF }).fpin n).joined = false := by
  rcases Nat.lt_or_ge n s.fio.pins.length with hl | hl
  · rw [updPin_self _ hl]
  · exact congrArg FPin.joined (List.getD_eq_default _ _ ((List.length_modify ..).symm ▸ hl))

/-! ## Writes (R258, R263, R269) -/

section
variable {s : State} {k n : Nat} (hn : n < 48) {v : Int}
include hn

/-- A session's OutputCommand is stored where no other source commands the pin. -/
theorem exec_outputCommand (h : s.admits k (0x4400 + n) 3 (.int v)) : exec (.outputCommandWrite k n v) s = .next ((s.touch k).answer k
    (if s.nat 0x3C00 0xB = n ∨ pinDriven s n = true ∨ (!decide (s.pw.dev = .run ∨ s.pw.dev = .service)) = true then .error Abort.state
     else .ok ((s.touch k).put (0x4400 + n) 3 (.int v)))) := by
  refine guarded_next hn ((session_ok h _).trans (congrArg (fun e => Host.Outcome.next ((s.touch k).answer k e)) ?_))
  rw [if_neg (show ¬0x4480 ≤ 0x4400 + n by omega), if_neg (by decide), if_neg (by decide), if_pos rfl, show pinObj n - 0x4400 = n from Nat.add_sub_cancel_left ..]
  rfl

/-- A session's FaultCommand clears a latched pin unless it is commanded on. -/
theorem exec_fieldFault (h : s.admits k (0x4400 + n) 5 (.int v)) (hlat : (s.fpin n).latched = true) :
    exec (.fieldFaultCommand k n v) s = .next ((s.touch k).answer k (if baseCmd s n = true then .error Abort.state
      else .ok (pinFault n false (fun p => { p with latched := false, trip := false, trips := [] }) (s.touch k)))) := by
  refine guarded_next hn ((session_ok h _).trans (congrArg (fun e => Host.Outcome.next ((s.touch k).answer k e)) ?_))
  rw [if_neg (show ¬0x4480 ≤ 0x4400 + n by omega), if_neg (by decide), if_neg (by decide), if_neg (by decide), if_pos rfl, show pinObj n - 0x4400 = n from Nat.add_sub_cancel_left ..]
  exact if_neg (show ¬(!(s.fpin n).latched) = true by simp [hlat])

/-- A session's PinMode is taken unless the pin is selected while nothing may be configured. -/
theorem exec_pinMode (h : s.admits k (0x4400 + n) 1 (.int v)) : exec (.pinModeWrite k n v) s = .next ((s.touch k).answer k
    (if (!s.configurable) = true ∧ pinSelected s n = true then .error Abort.state else .ok (setPinMode n 1 (.int v) (s.touch k)))) := by
  refine guarded_next hn ((session_ok h _).trans (congrArg (fun e => Host.Outcome.next ((s.touch k).answer k e)) ?_))
  rw [if_neg (show ¬0x4480 ≤ 0x4400 + n by omega), if_pos rfl, show pinObj n - 0x4400 = n from Nat.add_sub_cancel_left ..]
  rfl
end

/-- A pin that is taken out of the outputs: no slot, no command, no partner. -/
theorem setPinMode_input {n : Nat} {v : Int} (hv : v ≠ 3) (s : State) : Only [.fio, .dict] s (setPinMode n 1 (.int v) s) ∧
    (setPinMode n 1 (.int v) s).dict = (s.put (0x4400 + n) 1 (.int v)).dict ∧ ((setPinMode n 1 (.int v) s).fpin n).slotted = false ∧
    ((setPinMode n 1 (.int v) s).fpin n).cmd = false ∧ ((s.fpin n).joined = true → ((setPinMode n 1 (.int v) s).fpin n).joined = false) := by
  have hout : (valNum (.int v) == 3) = false := beq_eq_false_iff_ne.2 hv
  unfold setPinMode
  extract_lets out slotted t
  have ho : out = false := hout
  have hslot : slotted = false := by simp [slotted, ho]
  have hpins : t.fio.pins = (unjoin n s).fio.pins := rfl
  have honly : Only [.fio, .dict] s t :=
    (((updFio_only s _).mono (by decide)).next (put_only _ _ _ _)).next (updGrp_only _ _ _)
  refine ⟨honly.next (updPin_only _ _ _), rfl, ?_⟩
  rcases Nat.lt_or_ge n t.fio.pins.length with hl | hl
  · rw [updPin_self _ hl]
    refine ⟨hslot, by simp [ho], fun hjoin => ?_⟩
    have hunjoin : (t.fpin n) = (unjoin n s).fpin n := rfl
    show (t.fpin n).joined = false
    have hlen : n < s.fio.pins.length := (List.length_mapIdx ..) ▸ hl
    refine (congrArg FPin.joined (getD_mapIdx_eq s.fio.pins (fun m (p : FPin) => if p.joined ∧ (m = n ∨ p.joinedWith = n) then
      { p with joined := false, joinedWith := 0xFF } else p) {} n)).trans ?_
    rw [if_pos hlen, if_pos ⟨hjoin, .inl rfl⟩]
  · have hnone : (t.updPin n fun p => { p with slotted := slotted, next := p.next && out, cmd := p.cmd && out }).fpin n = {} :=
      List.getD_eq_default _ _ ((List.length_modify ..).symm ▸ hl)
    rw [hnone]
    exact ⟨rfl, rfl, fun _ => rfl⟩

/-- Settles O44: each command by the branch it takes and what `pinFault_spec` leaves. -/
theorem fieldPins : Obligations.FieldPins := by
  unfold Obligations.FieldPins
  refine ⟨fun mV old => ⟨rfl, rfl⟩, fun s n mV stamp hn hl hr hvalid hnew hheld => ?_, fun s n mV stamp hn hl hr hvalid => ?_,
    fun s k n v hn h hsteer hdriven hdev => ?_, fun s k n v hn h hno => ?_, fun s n hn hl hout => ?_, fun s n high hn hl hr hnew => ?_,
    fun s n hn hl hno hout => ?_, fun s n hn hon => ?_, fun s n hn hl hno habs hmode hcmd => ?_,
    fun s m n hm hn hne hlm hln hmm hmn hgm hgn hcmd hcount hfree => ?_, fun s m n hm hn hne hln hmm hmn hgm hgn hcmd hcount hjoin hwith => ?_,
    fun s k n hn h hlat hoff => ?_, fun s k n hn h hlat hon => ?_, fun s k n v hn h hconf hv => ?_, fun s k n v hn h hconf hsel => ?_⟩
  · have hself : (pinRead n mV s).fpin n = { s.fpin n with mV := (clampI 0 65535 mV).toNat } := updPin_self _ hl
    have hlen : n < (pinRead n mV s).fio.pins.length := (List.length_modify ..).symm ▸ hl
    refine .intro ((exec_inputChange hn hl hr).trans (congrArg Host.Outcome.next (if_pos ⟨hvalid, hnew, hheld⟩))) ⟨(updPin_only _ _ _).trans (updPin_only _ _ _),
      ?_, fun m hm => (updPin_ne _ hm).trans (updPin_ne _ hm), rfl⟩
    rw [updPin_self _ hlen, hself]
  · exact .intro ((exec_inputChange hn hl hr).trans (congrArg Host.Outcome.next (if_neg fun hc => Bool.eq_false_iff.1 hvalid hc.1))) ⟨updPin_only _ _ _,
      updPin_self _ hl, fun m hm => updPin_ne _ hm, rfl⟩
  · rw [exec_outputCommand hn h, if_neg (by simp [hsteer, hdriven, hdev])]
    rfl
  · rw [exec_outputCommand hn h, if_pos (hno.imp_right (Or.imp_right fun hd => by simp [hd]))]
    rfl
  · obtain ⟨honly, hself, hother, hgrp⟩ := pinFault_spec true (fun p => { p with
      trip := true, tripEnd := s.tm.mono + 100000000, trips := addTrip (s.fpin n).trips s.tm.mono, tripCount := inc32 p.tripCount,
      latched := p.latched || decide (3 ≤ (addTrip (s.fpin n).trips s.tm.mono).length) }) hl
    obtain ⟨u, hu⟩ : ∃ u, pinFault n true (fun p => { p with
      trip := true, tripEnd := s.tm.mono + 100000000, trips := addTrip (s.fpin n).trips s.tm.mono, tripCount := inc32 p.tripCount,
      latched := p.latched || decide (3 ≤ (addTrip (s.fpin n).trips s.tm.mono).length) }) s = u := ⟨_, rfl⟩
    rw [hu] at honly hself hother hgrp
    obtain ⟨t, ht⟩ : ∃ t, (if decide (3 ≤ (addTrip (s.fpin n).trips s.tm.mono).length) = true then forcePin n u else u) = t := ⟨_, rfl⟩
    have hfin : Only [.loop, .lead, .steer, .flow, .upd] u t := ht ▸ .ite (forceSafe_only _ _) (.refl _ _)
    have hexec : exec (.fieldOvercurrent n) s = .next t := by
      rw [← ht, ← hu]
      exact pin_next hn (if_neg (by simp [hout]))
    have htrip : (t.fpin n).trip = true := by rw [hfin.fpin, hself]
    refine .intro hexec ⟨(honly.mono (by decide)).next hfin, htrip, ?_⟩
    rw [hfin.fpin, hself, hfin.fio]
    exact ⟨rfl, rfl, rfl, pinOut_tripped htrip, fun m hm => (hfin.fpin m).trans (hother m hm), hgrp⟩
  · obtain ⟨honly, hself, hother, -⟩ := pinFault_spec high (fun p => { p with overtemp := high }) hl
    exact .intro (pin_next hn (if_neg (by simp [hr, hnew]))) ⟨honly, hself, fun hhigh => pinOut_hot (by rw [hself]; exact hhigh), hother⟩
  · obtain ⟨honly, hself, hother, -⟩ := pinFault_spec true (fun p => { p with noLoad := true }) hl
    exact .intro (pin_next hn (if_neg (by simp [hno, hout]))) ⟨honly, hself, hother⟩
  · obtain ⟨honly, hself, hother, -⟩ := pinFault_spec false (fun p => { p with noLoad := false })
      (getD_lt (p := fun p : FPin => p.noLoad = true) hon (by decide))
    exact .intro (pin_next hn (if_neg (by simp [hon]))) ⟨honly, hself, hother⟩
  · obtain ⟨honly, hself, hother, -⟩ := pinFault_spec true (fun p => { p with extDrive := true }) hl
    exact .intro (pin_next hn (if_neg (by simp [hno, habs, hcmd, show s.nat (pinObj n) 1 = 3 from hmode]))) ⟨honly, hself, hother⟩
  · have hexec := exec_pinsJoined hm hn hne hmm hmn hgm hgn hcmd true (c := (3, 0)) (Prod.ext (by simp only [if_true]; omega) rfl)
    rw [if_pos ⟨rfl, by simp [hfree]⟩] at hexec
    obtain ⟨t, ht⟩ : ∃ t, pairCounted m n (3, 0) s = t := ⟨_, rfl⟩
    rw [ht] at hexec
    have htonly : Only [.fio] s t := ht ▸ updFio_only s _
    have hpins : t.fio.pins = s.fio.pins := ht ▸ rfl
    obtain ⟨u, hu⟩ : ∃ u, t.updPin m (fun p => { p with joined := true, joinedWith := n }) = u := ⟨_, rfl⟩
    have hum : u.fpin m = { t.fpin m with joined := true, joinedWith := n } := hu ▸ updPin_self _ (hpins ▸ hlm)
    have hul : n < u.fio.pins.length := hu ▸ (List.length_modify ..).symm ▸ hpins ▸ hln
    have huonly : Only [.fio] t u := hu ▸ updPin_only _ _ _
    rw [hu] at hexec
    have hrec := record_only (u.updPin n fun p => { p with joined := true, joinedWith := m }) ⟨0x8008, m, 0x10, leBytes 1 n, [], 0xFFFFFFFF, 0xF⟩
    have hall := (htonly.trans huonly).trans (updPin_only u n fun p => { p with joined := true, joinedWith := m })
    refine .intro hexec ⟨(hall.mono (by decide)).next hrec, ?_⟩
    rw [hrec.fpin, hrec.fpin, updPin_ne _ hne, updPin_self _ hul, hum]
    exact ⟨rfl, rfl, rfl, rfl, (Recorded.self _ _).base hall.flow hall.pw hall.dict (congrArg Tm.now hall.tm) (congrArg Tm.mono hall.tm)⟩
  · have hexec := exec_pinsJoined hm hn hne hmm hmn hgm hgn hcmd false (c := (0, 3)) (Prod.ext rfl (by simp only [Bool.false_eq_true, if_false]; omega))
    rw [if_neg (by simp), if_pos ⟨rfl, hjoin, hwith⟩] at hexec
    obtain ⟨t, ht⟩ : ∃ t, pairCounted m n (0, 3) s = t := ⟨_, rfl⟩
    rw [ht] at hexec
    have htonly : Only [.fio] s t := ht ▸ updFio_only s _
    refine .intro hexec ⟨(htonly.trans (updPin_only _ _ _)).trans (updPin_only _ _ _), unjoined_joined _ n, ?_⟩
    rw [updPin_ne _ hne]
    exact unjoined_joined t m
  · obtain ⟨honly, hself, hother, -⟩ := pinFault_spec (s := s.touch k) false (fun p => { p with latched := false, trip := false, trips := [] })
      (getD_lt (p := fun p : FPin => p.latched = true) hlat (by decide))
    refine .intro ((exec_fieldFault hn h hlat).trans (by rw [if_neg (Bool.eq_false_iff.1 hoff)]; rfl)) ⟨honly, hself, hother⟩
  · exact (exec_fieldFault hn h hlat).trans (by rw [if_pos hon]; rfl)
  · obtain ⟨honly, hdict, hslot, hcmd, hjoin⟩ := setPinMode_input (n := n) hv (s.touch k)
    exact .intro ((exec_pinMode hn h).trans (by rw [if_neg (by simp [hconf])]; rfl)) ⟨honly, hdict, hslot, hcmd, hjoin⟩
  · rw [exec_pinMode hn h, if_pos ⟨by simp [hconf], hsel⟩]
    rfl

end Sys2Proof.Machine

/-! Proofs of the statement on the transmission, reception, session frames, cancels and conflicts of the CAN channels (14). -/

namespace Sys2Proof.Machine

set_option Elab.async false

/-! ## One object of a channel -/

/-- Of the channels, object j of channel c has changed, and of that channel what its objects do not hold. -/
structure OneObj (c j : Nat) (s t : State) : Prop where
  objs : ∀ m, m ≠ j → t.cobj c m = s.cobj c m
  chs : ∀ d, d ≠ c → t.cch d = s.cch d

namespace OneObj

theorem trans {c j : Nat} {s t u : State} (h : OneObj c j s t) (k : OneObj c j t u) : OneObj c j s u :=
  ⟨fun m hm => (k.objs m hm).trans (h.objs m hm), fun d hd => (k.chs d hd).trans (h.chs d hd)⟩

theorem of_only {ps : List Part} {s t : State} (h : Only ps s t) (hp : Part.can ∉ ps) (c j : Nat) : OneObj c j s t :=
  ⟨fun m _ => congrArg (fun x : CanCh => x.objs.getD m {}) (h.cch hp c), fun d _ => h.cch hp d⟩

theorem updCobj (s : State) (c j : Nat) (f : CanObj → CanObj) : OneObj c j s (s.updCobj c j f) :=
  ⟨fun _ hm => updCobj_cobj_ne s c f hm, fun _ hd => updCobj_cch_ne s j f hd⟩

end OneObj

/-- An update of a channel that keeps its objects keeps each of them. -/
theorem updCch_cobj (s : State) (c : Nat) (f : CanCh → CanCh) (m : Nat) (hf : ∀ x, (f x).objs = x.objs := by intros; rfl) :
    (s.updCch c f).cobj c m = s.cobj c m :=
  updCch_keep s c c _ (fun x => x.objs.getD m {}) fun x => congrArg (fun l : List CanObj => l.getD m {}) (hf x)

theorem OneObj.updCch (s : State) (c j : Nat) (f : CanCh → CanCh) (hf : ∀ x, (f x).objs = x.objs := by intros; rfl) :
    OneObj c j s (s.updCch c f) :=
  ⟨fun m _ => updCch_cobj s c f m hf, fun _ hd => updCch_cch_ne s f hd⟩

section
variable {s : State} {c : Nat}

/-- A channel that takes part in its bus is one that the state holds. -/
theorem held_of_up (h : (s.cch c).up = true) : c < s.can.ch.length := getD_lt (p := fun x : CanCh => x.up = true) h (by decide)

theorem updCch_length {d : Nat} (s : State) (c : Nat) (f : CanCh → CanCh) (h : d < s.can.ch.length) : d < (s.updCch c f).can.ch.length :=
  Nat.lt_of_lt_of_eq h (List.length_modify f s.can.ch c).symm

theorem endRequest_length {d : Nat} (c j result : Nat) (stamp : Option Nat) (s : State) (h : d < s.can.ch.length) :
    d < (endRequest c j result stamp s).can.ch.length :=
  Nat.lt_of_lt_of_eq (updCch_length s c _ h) (congrArg (fun x : Can => x.ch.length) (tellOwner_only c j stamp _).can.symm)

theorem updCobj_self {j : Nat} (g : CanObj → CanObj) (hc : c < s.can.ch.length) (hj : j < (s.cch c).objs.length) :
    (s.updCobj c j g).cobj c j = g (s.cobj c j) := by
  unfold State.cobj State.updCobj
  rw [updCch_cch_self _ hc, getD_upd _ _ _ _ hj]

/-- A suspended object is one that the state holds. -/
theorem held_of_suspended {j : Nat} (h : (s.cobj c j).suspended = true) : c < s.can.ch.length ∧ j < (s.cch c).objs.length :=
  ⟨getD_lt (p := fun x : CanCh => (x.objs.getD j {}).suspended = true) h (by rw [initialCh_obj]; decide),
    getD_lt (p := fun o : CanObj => o.suspended = true) h (by decide)⟩

/-- The arbitration depends on the channel alone. -/
theorem nextObject_congr {t : State} (h : t.cch c = s.cch c) : nextObject t c = nextObject s c := by
  unfold nextObject State.cobj
  rw [h]

theorem endRequest_one (c j result : Nat) (stamp : Option Nat) (s : State) : OneObj c j s (endRequest c j result stamp s) :=
  ⟨fun _ hm => endRequest_cobj_ne c j result stamp s hm, fun _ hd => endRequest_cch_ne c j result stamp s hd⟩

theorem txError_one (c j : Nat) (s : State) : OneObj c j s (txError c s) := .updCch _ c j _

theorem tellOwner_one (c j : Nat) (stamp : Option Nat) (s : State) : OneObj c j s (tellOwner c j stamp s) :=
  .of_only (tellOwner_only c j stamp s) (by decide) c j

/-- What an update of an object keeps of its channel. -/
theorem updCobj_keep {α : Type} (s : State) (c j : Nat) (g : CanObj → CanObj) (p : CanCh → α) (hp : ∀ x l, p { x with objs := l } = p x) :
    p ((s.updCobj c j g).cch c) = p (s.cch c) := updCch_keep s c c _ p fun x => hp x _

theorem endRequest_keep {α : Type} (c j result : Nat) (stamp : Option Nat) (s : State) (p : CanCh → α) (hp : ∀ x l, p { x with objs := l } = p x) :
    p ((endRequest c j result stamp s).cch c) = p (s.cch c) :=
  (congrArg p (tellOwner_cch c j stamp _ c)).trans (updCobj_keep s c j _ p hp)
end

/-! ## The arbitration (R319–R323) -/

section
variable {s : State} {c j : Nat} {f : CanFrame} (h : nextObject s c = some (j, f))
include h

theorem canTransmit_completed (hform : f.fd = false ∨ f.brs = false) (stamp tdc : Nat) :
    canTransmit c .completed stamp tdc s = endRequest c j (if (s.cobj c j).cancel then 5 else 1) (some stamp)
      ((s.updCch c fun x => CanCh.confine { x with tec := x.tec - 1 }).updCobj c j fun o => { o with conflicts := 0 }) := by
  have hno : ¬ (f.fd = true ∧ f.brs = true) := by
    rintro ⟨h1, h2⟩
    simp [h1, h2] at hform
  unfold canTransmit
  rw [h]
  show endRequest c j _ _ ((if f.fd = true ∧ f.brs = true then _ else _ : State).updCobj c j _) = _
  rw [if_neg hno]

theorem canTransmit_cancelled (hcan : (s.cobj c j).cancel = true) (stamp tdc : Nat) :
    canTransmit c .arbitrationLost stamp tdc s = endRequest c j 3 (some stamp) s ∧
      canTransmit c .errorOther stamp tdc s = endRequest c j 4 (some stamp) (txError c s) := by
  unfold canTransmit
  rw [h]
  simp [hcan]

theorem canTransmit_retry (hcan : (s.cobj c j).cancel = false) (hone : (s.cobj c j).oneShot = false) (stamp tdc : Nat) :
    canTransmit c .arbitrationLost stamp tdc s = tellOwner c j (some stamp) s := by
  unfold canTransmit
  rw [h]
  simp [hcan, hone]

theorem canTransmit_firstConflict (hcan : (s.cobj c j).cancel = false) (hone : (s.cobj c j).oneShot = false) (h0 : (s.cobj c j).conflicts = 0)
    (stamp tdc : Nat) : canTransmit c .errorConflict stamp tdc s =
      tellOwner c j (some stamp) ((txError c s).updCobj c j fun o => { o with conflicts := o.conflicts + 1 }) := by
  unfold canTransmit
  rw [h]
  simp [hcan, hone, h0]

theorem canTransmit_secondConflict (hsus : 1 ≤ (s.cobj c j).conflicts ∨ (s.cobj c j).oneShot = true) (stamp tdc : Nat) :
    canTransmit c .errorConflict stamp tdc s = suspend c j f.id
      (tellOwner c j (some stamp) ((txError c s).updCobj c j fun o => { o with conflicts := o.conflicts + 1 })) := by
  unfold canTransmit
  rw [h]
  exact if_pos hsus
end

/-- A sent frame: its request has ended, and an earlier conflict is forgotten. -/
theorem completed_spec {s : State} {c j : Nat} {f : CanFrame} (hc : c < s.can.ch.length) (hp : (s.cobj c j).pending = some f) (result : Nat)
    (stamp : Option Nat) : ∃ t, endRequest c j result stamp
      ((s.updCch c fun x => CanCh.confine { x with tec := x.tec - 1 }).updCobj c j fun o => { o with conflicts := 0 }) = t ∧
      Only [.can, .serv] s t ∧ OneObj c j s t ∧ (t.cch c).tec = (s.cch c).tec - 1 ∧
      t.cobj c j = { s.cobj c j with pending := none, cancel := false, result := result, conflicts := 0 } := by
  obtain ⟨u, hu⟩ : ∃ u, (s.updCch c fun x => CanCh.confine { x with tec := x.tec - 1 }) = u := ⟨_, rfl⟩
  have huobj : u.cobj c j = s.cobj c j := hu ▸ updCch_cobj _ c _ j
  have hutec : (u.cch c).tec = (s.cch c).tec - 1 := hu ▸ congrArg CanCh.tec (updCch_cch_self _ hc)
  obtain ⟨v, hv⟩ : ∃ v, (u.updCobj c j fun o => { o with conflicts := 0 }) = v := ⟨_, rfl⟩
  have hup : (u.cobj c j).pending = some f := by rw [huobj, hp]
  have hvobj : v.cobj c j = { s.cobj c j with conflicts := 0 } := by rw [← hv, updCobj_cobj_self _ hup, huobj]
  have hvp : (v.cobj c j).pending = some f := by rw [hvobj, hp]
  have huone : OneObj c j s u := hu ▸ .updCch _ c j _
  have hvone : OneObj c j u v := hv ▸ .updCobj u c j _
  have huonly : Only [.can, .serv] s u := hu ▸ (updCch_only s c _).mono (by decide)
  have hvonly : Only [.can] u v := hv ▸ updCobj_only u c j _
  rw [hu, hv]
  refine ⟨_, rfl, (huonly.next hvonly).trans (endRequest_only c j result stamp v), (huone.trans hvone).trans (endRequest_one c j result stamp v), ?_, ?_⟩
  · rw [endRequest_keep c j result stamp v CanCh.tec fun _ _ => rfl, ← hutec, ← hv, updCobj_keep u c j _ CanCh.tec fun _ _ => rfl]
  · rw [endRequest_cobj_self c j result stamp v hvp, hvobj]

/-- A conflict counts in its object, which keeps its request. -/
theorem conflict_spec {s : State} {c j : Nat} {f : CanFrame} (hp : (s.cobj c j).pending = some f) (stamp : Option Nat) :
    ∃ t, tellOwner c j stamp ((txError c s).updCobj c j fun o => { o with conflicts := o.conflicts + 1 }) = t ∧ Only [.can, .serv] s t ∧
      OneObj c j s t ∧ (t.cch c).conflictCount = (s.cch c).conflictCount ∧
      t.cobj c j = { s.cobj c j with conflicts := (s.cobj c j).conflicts + 1 } := by
  obtain ⟨u, hu⟩ : ∃ u, txError c s = u := ⟨_, rfl⟩
  have huobj : u.cobj c j = s.cobj c j := hu ▸ txError_cobj c j s
  obtain ⟨v, hv⟩ : ∃ v, (u.updCobj c j fun o => { o with conflicts := o.conflicts + 1 }) = v := ⟨_, rfl⟩
  have hup : (u.cobj c j).pending = some f := by rw [huobj, hp]
  have huonly : Only [.can, .serv] s u := hu ▸ (txError_only c s).mono (by decide)
  have hvonly : Only [.can] u v := hv ▸ updCobj_only u c j _
  have huone : OneObj c j s u := hu ▸ txError_one c j s
  have hvone : OneObj c j u v := hv ▸ .updCobj u c j _
  have hcount : (v.cch c).conflictCount = (s.cch c).conflictCount := by
    rw [← hv, updCobj_keep u c j _ CanCh.conflictCount fun _ _ => rfl, ← hu]
    exact updCch_keep s c c _ CanCh.conflictCount fun _ => rfl
  rw [hu, hv]
  refine ⟨_, rfl, (huonly.next hvonly).next (tellOwner_only c j stamp v), (huone.trans hvone).trans (tellOwner_one c j stamp v), ?_, ?_⟩
  · rw [tellOwner_cch, hcount]
  · rw [tellOwner_cobj, ← hv, updCobj_cobj_self _ hup, huobj]

/-- The suspension of an object: its request has ended, the channel shows the conflict, and Flowstone holds the record. -/
theorem suspend_spec {s : State} {c j : Nat} {f : CanFrame} (hp : (s.cobj c j).pending = some f) (id : Nat) :
    Only [.can, .serv, .flow, .upd] s (suspend c j id s) ∧ OneObj c j s (suspend c j id s) ∧ ((suspend c j id s).cobj c j).suspended = true ∧
      ((suspend c j id s).cobj c j).result = 8 ∧ ((suspend c j id s).cobj c j).pending = none ∧
      ((suspend c j id s).cch c).idConflict = true ∧ ((suspend c j id s).cch c).conflictCount = inc32 (s.cch c).conflictCount ∧
      ∃ t, Only [.can, .serv] s t ∧
        suspend c j id s = t.record ⟨0xA002, c + 1, 0xC, leBytes 1 j ++ leBytes 4 id, [], 0xFFFFFFFF, 0xF⟩ := by
  obtain ⟨hc, -⟩ := held_of_pending hp
  obtain ⟨u, hu⟩ : ∃ u, (s.updCobj c j fun o => { o with suspended := true }) = u := ⟨_, rfl⟩
  have huobj : u.cobj c j = { s.cobj c j with suspended := true } := hu ▸ updCobj_cobj_self _ hp
  have hup : (u.cobj c j).pending = some f := by rw [huobj, hp]
  obtain ⟨v, hv⟩ : ∃ v, endRequest c j 8 none u = v := ⟨_, rfl⟩
  have hvobj : v.cobj c j = { s.cobj c j with suspended := true, pending := none, cancel := false, result := 8 } := by
    rw [← hv, endRequest_cobj_self c j 8 none u hup, huobj]
  have hvcount : (v.cch c).conflictCount = (s.cch c).conflictCount := by
    rw [← hv, endRequest_keep c j 8 none u CanCh.conflictCount fun _ _ => rfl, ← hu, updCobj_keep s c j _ CanCh.conflictCount fun _ _ => rfl]
  have hvc : c < v.can.ch.length := hv ▸ endRequest_length c j 8 none u (hu ▸ updCch_length s c _ hc)
  obtain ⟨w, hw⟩ : ∃ w, (v.updCch c fun x => { x with idConflict := true, conflictCount := inc32 x.conflictCount }) = w := ⟨_, rfl⟩
  have hwobj : w.cobj c j = v.cobj c j := hw ▸ updCch_cobj _ c _ j
  have hwch : w.cch c = { v.cch c with idConflict := true, conflictCount := inc32 (v.cch c).conflictCount } := hw ▸ updCch_cch_self _ hvc
  have honly : Only [.can, .serv] s w := by
    have h1 : Only [.can, .serv] s u := hu ▸ (updCobj_only s c j _).mono (by decide)
    have h2 : Only [.can, .serv] u v := hv ▸ endRequest_only c j 8 none u
    have h3 : Only [.can] v w := hw ▸ updCch_only v c _
    exact (h1.trans h2).next h3
  have hone : OneObj c j s w := by
    have h1 : OneObj c j s u := hu ▸ .updCobj s c j _
    have h2 : OneObj c j u v := hv ▸ endRequest_one c j 8 none u
    have h3 : OneObj c j v w := hw ▸ .updCch _ c j _
    exact (h1.trans h2).trans h3
  have hrec := record_only w ⟨0xA002, c + 1, 0xC, leBytes 1 j ++ leBytes 4 id, [], 0xFFFFFFFF, 0xF⟩
  have ht : suspend c j id s = w.record ⟨0xA002, c + 1, 0xC, leBytes 1 j ++ leBytes 4 id, [], 0xFFFFFFFF, 0xF⟩ := by
    rw [← hw, ← hv, ← hu]
    rfl
  have htch : (suspend c j id s).cch c = w.cch c := by rw [ht, hrec.cch (by decide)]
  have htobj : (suspend c j id s).cobj c j = { s.cobj c j with suspended := true, pending := none, cancel := false, result := 8 } := by
    rw [← hvobj, ← hwobj]
    exact congrArg (fun x : CanCh => x.objs.getD j {}) htch
  refine ⟨ht ▸ (honly.mono (by decide)).next hrec, ht ▸ hone.trans (.of_only hrec (by decide) c j), by rw [htobj], by rw [htobj], by rw [htobj],
    by rw [htch, hwch], by rw [htch, hwch, hvcount], w, honly, ht⟩

/-! ## Reception (R320) -/

section
variable {s : State} {c : Nat} {f : CanFrame} {stamp : Nat}

theorem exec_canFrameReceive (hc : c < 8) (hup : (s.cch c).up = true) (hform : formOk c f = true) :
    exec (.canFrameReceive c f stamp) s = .next (canReceive c f (tick stamp) s) :=
  unit_next hc (if_pos (by simp [hup, hform]))

/-- The channel's count of a received frame, before a FIFO takes it. -/
def countedIn (c : Nat) (s : State) : State :=
  s.updCch c fun x => CanCh.confine { x with rec_ := if 127 < x.rec_ then 127 else x.rec_ - 1 }

theorem canReceive_dropped (hf : filterOf s c f = none) : canReceive c f stamp s = countedIn c s := by
  have hf' : filterOf (countedIn c s) c f = none := hf
  show (match filterOf (countedIn c s) c f with | none => _ | some k => _) = _
  rw [hf']
  rfl

theorem canReceive_queued (hf : filterOf s c f = some 0) (hroom : ((countedIn c s).cch c).fifo0.length < 128) :
    canReceive c f stamp s = (countedIn c s).updCch c fun x => { x with fifo0 := x.fifo0 ++ [(f, stamp)] } := by
  have hf' : filterOf (countedIn c s) c f = some 0 := hf
  show (match filterOf (countedIn c s) c f with | none => _ | some k => _) = _
  rw [hf']
  exact if_neg (Nat.not_le.2 hroom)

theorem canReceive_full (hf : filterOf s c f = some 1) (hfull : 128 ≤ ((countedIn c s).cch c).fifo1.length) :
    canReceive c f stamp s =
      (countedIn c s).updCch c fun x => { x with overAt := some s.tm.mono, overflow := updAt x.overflow 1 inc32 } := by
  have hf' : filterOf (countedIn c s) c f = some 1 := hf
  show (match filterOf (countedIn c s) c f with | none => _ | some k => _) = _
  rw [hf']
  exact if_pos hfull

/-- Counting a frame changes the channel's receive count and its error state alone. -/
theorem countedIn_spec (hc : c < s.can.ch.length) : c < (countedIn c s).can.ch.length ∧ Only [.can] s (countedIn c s) ∧
    (∀ d, d ≠ c → (countedIn c s).cch d = s.cch d) ∧ ((countedIn c s).cch c).fifo0 = (s.cch c).fifo0 ∧
    ((countedIn c s).cch c).fifo1 = (s.cch c).fifo1 ∧ ((countedIn c s).cch c).overflow = (s.cch c).overflow ∧
    ((countedIn c s).cch c).objs = (s.cch c).objs :=
  ⟨updCch_length s c _ hc, updCch_only s c _, fun _ hd => updCch_cch_ne s _ hd, updCch_keep s c c _ CanCh.fifo0 fun _ => rfl,
    updCch_keep s c c _ CanCh.fifo1 fun _ => rfl, updCch_keep s c c _ CanCh.overflow fun _ => rfl, updCch_keep s c c _ CanCh.objs fun _ => rfl⟩
end

/-! ## The sends and cancels of a session (R322–R324) -/

section
variable {s : State} {n : Nat}

theorem exec_frameSend {r : Bytes} (h : s.admits n 0x5420 2 (.bytes r)) :
    exec (.frameSend n r) s = .next ((s.touch n).answer n (frameSend n r (s.touch n))) := session_ok h _

theorem exec_frameCancel {v : Int} (h : s.admits n 0x5420 3 (.int v)) :
    exec (.frameCancel n v) s = .next ((frameCancel n (s.touch n)).ack n) := session_ok h _

/-- ObjectCommand, written to a channel that the module has. -/
theorem exec_objectCommand {c x : Nat} (hc : c < 8) (h : s.admits n (0x5400 + c) 0x19 (.int x)) :
    s.asSession n (0x5400 + c) (fun w => canWrite w (0x5400 + c) 0x19 (.int x)) =
      .next ((s.touch n).answer n (objectCommand c x (s.touch n))) :=
  (session_ok h _).trans (congrArg (fun e => Host.Outcome.next ((s.touch n).answer n e))
    ((if_pos (show 0x5400 + c < 0x5408 from Nat.add_lt_add_left hc 0x5400)).trans ((if_neg (by decide)).trans ((if_pos rfl).trans
      (congrArg (fun k => objectCommand k x (s.touch n)) (Nat.add_sub_cancel_left ..))))))

/-- The resume of an object by ObjectCommand. -/
theorem objectCommand_resume {c j : Nat} (hj : j < 64) :
    objectCommand c (256 + j) s = .ok (s.updCobj c j fun o => if o.suspended then { o with suspended := false, conflicts := 0 } else o) := by
  have hnum : (256 + j) % 64 = j := by omega
  have hreserved : ¬ (256 + j) / 64 % 4 ≠ 0 := by omega
  have hcode : (256 + j) / 256 = 1 := by omega
  unfold objectCommand
  rw [hnum]
  exact (if_neg hreserved).trans (if_pos hcode)

/-- A session's frame that waits stands in an object of its own. -/
theorem sessionPending_pending {c j : Nat} (h : sessionPending s n = some (c, j)) : ∃ f, (s.cobj c j).pending = some f := by
  unfold sessionPending at h
  obtain ⟨c', -, hc'⟩ := List.mem_flatMap.1 (List.mem_of_mem_head? h)
  obtain ⟨j', hj', heq⟩ := List.mem_map.1 hc'
  obtain ⟨rfl, rfl⟩ := Prod.mk.inj heq
  have hcond := (List.mem_filter.1 hj').2
  exact Option.isSome_iff_exists.1 (Bool.and_eq_true_iff.1 hcond).2
end

/-! ## Sends, cancels and resumes -/

section
variable {s : State} {n c : Nat}

/-- A frame that a channel of the bus takes into the session's object. -/
theorem frameSend_taken {r : Bytes} {f : CanFrame} {one : Bool} {j : Nat} (hch : (s.sessOf n).win.frameChannel = c + 1)
    (hr : frameOfRecord c r = some (f, one)) (hdev : s.pw.dev = .run ∨ s.pw.dev = .service) (hno : sessionPending s n = none)
    (hobj : sessionObject s c n = some j) (hup : (s.cch c).up = true) :
    frameSend n r s = .ok (tellOwner c j none
      (s.updCobj c j fun o => { o with owner := some n, pending := some f, oneShot := one, cancel := false, result := 0 })) := by
  have hc : (s.sessOf n).win.frameChannel - 1 = c := by rw [hch, Nat.add_sub_cancel]
  unfold frameSend
  rw [hc]
  dsimp only
  rw [hr]
  simp [hdev, hno, hobj, hup]

theorem frameSend_busy {r : Bytes} {x : CanFrame × Bool} (hch : (s.sessOf n).win.frameChannel = c + 1) (hr : frameOfRecord c r = some x)
    (hbusy : (sessionPending s n).isSome = true ∨ sessionObject s c n = none) : frameSend n r s = .error Abort.state := by
  have hc : (s.sessOf n).win.frameChannel - 1 = c := by rw [hch, Nat.add_sub_cancel]
  unfold frameSend
  rw [hc]
  dsimp only
  rw [hr]
  rcases hbusy with hp | hno
  · exact if_pos (.inr hp)
  · simp [hno]

theorem frameSend_malformed {r : Bytes} (hch : (s.sessOf n).win.frameChannel = c + 1) (hr : frameOfRecord c r = none) :
    frameSend n r s = .error Abort.range := by
  have hc : (s.sessOf n).win.frameChannel - 1 = c := by rw [hch, Nat.add_sub_cancel]
  unfold frameSend
  rw [hc]
  dsimp only
  rw [hr]

/-- The session's window tells of an object that it owns. -/
theorem tellOwner_result {j : Nat} (stamp : Option Nat) (hown : (s.cobj c j).owner = some n) (hopen : (s.sessOf n).opened = true) :
    ((tellOwner c j stamp s).sessOf n).win.frameResult = (s.cobj c j).result := by
  unfold tellOwner
  rw [hown]
  exact congrArg SessWin.frameResult (updWin_win hopen)

/-- A cancel in time ends the request; one that may come too late is noted. -/
theorem frameCancel_cases {j : Nat} (h : sessionPending s n = some (c, j)) : ∃ t, frameCancel n s = t ∧ Only [.can, .serv, .free] s t ∧
    OneObj c j s t ∧ ((t.cobj c j).pending = none ∧ (t.cobj c j).result = 2 ∨ t.cobj c j = { s.cobj c j with cancel := true }) := by
  obtain ⟨f, hf⟩ := sessionPending_pending h
  obtain ⟨u, hu⟩ : ∃ u, s.freeInt.2 = u := ⟨_, rfl⟩
  have huonly : Only [.free] s u := hu ▸ freeInt_only s
  have hone : OneObj c j s u := .of_only huonly (by decide) c j
  have huobj : u.cobj c j = s.cobj c j := congrArg (fun x : CanCh => x.objs.getD j {}) (huonly.cch (by decide) c)
  have hfu : (u.cobj c j).pending = some f := by rw [huobj, hf]
  have heq : frameCancel n s = if s.freeInt.1 = 0 then endRequest c j 2 none u else u.updCobj c j fun o => { o with cancel := true } := by
    unfold frameCancel
    rw [h, ← hu]
  rw [heq]
  split
  · have hobj := endRequest_cobj_self c j 2 none u hfu
    exact ⟨_, rfl, (huonly.mono (by decide)).next (endRequest_only c j 2 none u), hone.trans (endRequest_one c j 2 none u),
      .inl ⟨by rw [hobj], by rw [hobj]⟩⟩
  · exact ⟨_, rfl, (huonly.mono (by decide)).next (updCobj_only u c j _), hone.trans (.updCobj u c j _),
      .inr (by rw [updCobj_cobj_self _ hfu, huobj])⟩
end

/-- Settles O48: the fate of the object that entered the arbitration by its outcome, what a reception leaves, and the requests of a session. -/
theorem canRequests : Obligations.CanRequests := by
  refine ⟨fun s c j f stamp tdc hc hup hn hform => ?_, fun s c j f out stamp tdc hc hup hn hcan hout => ?_,
    fun s c j f stamp tdc hc hup hn hcan hone => ?_, fun s c j f stamp tdc hc hup hn hcan hone h0 => ?_,
    fun s c j f stamp tdc hc hup hn hsus => ?_, fun s c f stamp hc hup hform hf => ?_, fun s c f stamp hc hup hform hf hroom => ?_,
    fun s c f stamp hc hup hform hf hfull => ?_, fun s n c r f one j h hch hr hdev hno hobj hup hj => ?_, fun s n c r x h hch hr hbusy => ?_,
    fun s n c r h hch hr => ?_, fun s n v c j h hp => ?_, fun s n v h hp => ?_, fun s n c j hc hj h hsus => ?_⟩
  · obtain ⟨-, hp, -⟩ := nextObject_pending hn
    obtain ⟨t, ht, honly, hone, htec, hobj⟩ := completed_spec (held_of_up hup) hp (if (s.cobj c j).cancel then 5 else 1) (some (tick stamp))
    exact .intro ((exec_canFrameTransmit hc hup _ _ _).trans (congrArg Host.Outcome.next ((canTransmit_completed hn hform _ _).trans ht)))
      ⟨honly, hobj, htec, hone.objs, hone.chs⟩
  · obtain ⟨-, hp, -⟩ := nextObject_pending hn
    obtain ⟨hlost, herr⟩ := canTransmit_cancelled hn hcan (tick stamp) tdc
    rcases hout with rfl | rfl
    · have hone := endRequest_one c j 3 (some (tick stamp)) s
      exact .intro ((exec_canFrameTransmit hc hup _ _ _).trans (congrArg Host.Outcome.next hlost))
        ⟨endRequest_only c j 3 _ s, endRequest_cobj_self c j 3 _ s hp, hone.objs, hone.chs⟩
    · have hpu : ((txError c s).cobj c j).pending = some f := by rw [txError_cobj, hp]
      have hone := (txError_one c j s).trans (endRequest_one c j 4 (some (tick stamp)) (txError c s))
      exact .intro ((exec_canFrameTransmit hc hup _ _ _).trans (congrArg Host.Outcome.next herr))
        ⟨((txError_only c s).mono (by decide)).trans (endRequest_only c j 4 _ _),
          (endRequest_cobj_self c j 4 _ _ hpu).trans (by rw [txError_cobj, if_neg (by decide)]), hone.objs, hone.chs⟩
  · exact .intro ((exec_canFrameTransmit hc hup _ _ _).trans (congrArg Host.Outcome.next (canTransmit_retry hn hcan hone _ _)))
      ⟨tellOwner_only c j _ s, (nextObject_congr (tellOwner_cch c j _ s c)).trans hn⟩
  · obtain ⟨-, hp, -⟩ := nextObject_pending hn
    obtain ⟨t, ht, honly, hone', -, hobj⟩ := conflict_spec hp (some (tick stamp))
    exact .intro ((exec_canFrameTransmit hc hup _ _ _).trans (congrArg Host.Outcome.next ((canTransmit_firstConflict hn hcan hone h0 _ _).trans ht)))
      ⟨honly, by rw [hobj, h0], hone'.objs, hone'.chs⟩
  · obtain ⟨-, hp, -⟩ := nextObject_pending hn
    obtain ⟨t, ht, honly, hone, hcount, hobj⟩ := conflict_spec hp (some (tick stamp))
    have hpt : (t.cobj c j).pending = some f := by rw [hobj, hp]
    obtain ⟨hs, hsone, hsusp, hres, hnone, hid, hsc, u, huonly, hrec⟩ := suspend_spec hpt f.id
    have hframe : Only [.can, .serv] s u := honly.trans huonly
    refine .intro ((exec_canFrameTransmit hc hup _ _ _).trans (congrArg Host.Outcome.next
      ((canTransmit_secondConflict hn hsus _ _).trans (congrArg (suspend c j f.id) ht))))
      ⟨(honly.mono (by decide)).trans hs, hsusp, hres, hnone, hid, hcount ▸ hsc, (hone.trans hsone).objs, (hone.trans hsone).chs, ?_⟩
    rw [hrec]
    exact (Recorded.self u _).base hframe.flow hframe.pw hframe.dict (by rw [hframe.tm]) (by rw [hframe.tm])
  · obtain ⟨-, honly, hchs, h0, h1, hover, hobjs⟩ := countedIn_spec (held_of_up hup)
    exact .intro ((exec_canFrameReceive hc hup hform).trans (congrArg Host.Outcome.next (canReceive_dropped hf)))
      ⟨honly, h0, h1, hover, hobjs, hchs⟩
  · obtain ⟨hlen, honly, hchs, h0, h1, hover, hobjs⟩ := countedIn_spec (held_of_up hup)
    have hself := updCch_cch_self (s := countedIn c s) (fun x => { x with fifo0 := x.fifo0 ++ [(f, tick stamp)] }) hlen
    exact .intro ((exec_canFrameReceive hc hup hform).trans (congrArg Host.Outcome.next (canReceive_queued hf (h0.symm ▸ hroom))))
      ⟨honly.trans (updCch_only _ c _), by rw [hself, h0], by rw [hself, h1], by rw [hself, hobjs],
        fun d hd => (updCch_cch_ne _ _ hd).trans (hchs d hd)⟩
  · obtain ⟨hlen, honly, hchs, h0, h1, hover, hobjs⟩ := countedIn_spec (held_of_up hup)
    have hself := updCch_cch_self (s := countedIn c s) (fun x => { x with overAt := some s.tm.mono, overflow := updAt x.overflow 1 inc32 }) hlen
    exact .intro ((exec_canFrameReceive hc hup hform).trans (congrArg Host.Outcome.next (canReceive_full hf (h1.symm ▸ hfull))))
      ⟨honly.trans (updCch_only _ c _), by rw [hself, h1], by rw [hself, h0], by rw [hself], by rw [hself, hover],
        fun d hd => (updCch_cch_ne _ _ hd).trans (hchs d hd)⟩
  · have hopen : (s.sessOf n).opened = true := h.opened
    obtain ⟨u, hu⟩ : ∃ u, ((s.touch n).updCobj c j fun o =>
      { o with owner := some n, pending := some f, oneShot := one, cancel := false, result := 0 }) = u := ⟨_, rfl⟩
    have huonly : Only [.can] (s.touch n) u := hu ▸ updCobj_only _ c j _
    have hone : OneObj c j (s.touch n) u := hu ▸ .updCobj _ c j _
    have huobj : u.cobj c j = { s.cobj c j with owner := some n, pending := some f, oneShot := one, cancel := false, result := 0 } :=
      hu ▸ updCobj_self (s := s.touch n) _ (held_of_up hup) hj
    have hopenu : (u.sessOf n).opened = true := by rw [huonly.sessOf (by decide), touch_opened]; exact hopen
    have hsend := frameSend_taken (s := s.touch n) ((touch_win s n).symm ▸ hch) hr hdev hno hobj hup
    refine .intro ((exec_frameSend h).trans (congrArg Host.Outcome.next (answer_ok (hsend.trans (by rw [hu]))))) ⟨(huonly.mono (by decide)).next
      (tellOwner_only c j none u), (tellOwner_cobj c j none u j).trans huobj, ?_, (hone.trans (tellOwner_one c j none u)).objs,
      (hone.trans (tellOwner_one c j none u)).chs⟩
    rw [tellOwner_result none (by rw [huobj]) hopenu, huobj]
  · exact (exec_frameSend h).trans (congrArg Host.Outcome.next (answer_error (frameSend_busy (s := s.touch n) (by rw [touch_win]; exact hch) hr hbusy)))
  · exact (exec_frameSend h).trans (congrArg Host.Outcome.next (answer_error (frameSend_malformed (s := s.touch n) (by rw [touch_win]; exact hch) hr)))
  · obtain ⟨t, ht, honly, hone, hobj⟩ := frameCancel_cases (s := s.touch n) hp
    exact .intro ((exec_frameCancel h).trans (by rw [ht])) ⟨honly, hobj, hone.objs, hone.chs⟩
  · have hnone : frameCancel n (s.touch n) = s.touch n := by
      unfold frameCancel
      rw [show sessionPending (s.touch n) n = none from hp]
    exact (exec_frameCancel h).trans (by rw [hnone])
  · obtain ⟨hlen, hj'⟩ := held_of_suspended hsus
    have hone := OneObj.updCobj (s.touch n) c j fun o => if o.suspended then { o with suspended := false, conflicts := 0 } else o
    refine .intro (guarded_next ⟨hc, hj⟩ ((exec_objectCommand hc h).trans (congrArg Host.Outcome.next (answer_ok (objectCommand_resume hj)))))
      ⟨updCobj_only _ c j _, ?_, hone.objs, hone.chs⟩
    exact (updCobj_self (s := s.touch n) _ hlen hj').trans (if_pos hsus)

end Sys2Proof.Machine

/-! Proofs of the statement on bus-off, exceptions, configuration, reference messages and address claims of the CAN channels (14). -/

namespace Sys2Proof.Machine

set_option Elab.async false

/-! ## Sessions on C8 -/

/-- An update of a session keeps what it keeps of every value a session can have, also where no such session is held. -/
theorem updSess_keep {α : Type} (s : State) (n m : Nat) (f : Sess → Sess) (p : Sess → α) (hp : ∀ x, p (f x) = p x) :
    p ((s.updSess n f).sessOf m) = p (s.sessOf m) := by
  by_cases hm : m = n
  · subst hm
    by_cases hl : m < s.serv.sess.length
    · exact (congrArg p (getD_upd _ _ _ _ hl)).trans (hp _)
    · have hsame : updAt s.serv.sess m f = s.serv.sess := List.modify_eq_self (Nat.le_of_not_lt hl)
      exact congrArg (fun l : List Sess => p (l.getD m {})) hsame
  · exact congrArg p (sess_upd_ne f hm)

/-- No session is open on C8. -/
def NoneOnC8 (s : State) : Prop := ∀ m, (s.sessOf m).opened = true → (s.sessOf m).transport ≠ .c8

theorem NoneOnC8.congr {s t : State} (h : NoneOnC8 s) (ho : ∀ m, (t.sessOf m).opened = (s.sessOf m).opened)
    (ht : ∀ m, (t.sessOf m).transport = (s.sessOf m).transport) : NoneOnC8 t := fun m hm => by
  rw [ht m]
  exact h m (ho m ▸ hm)

theorem NoneOnC8.updSess {s : State} (h : NoneOnC8 s) (n : Nat) {f : Sess → Sess} (ho : ∀ x, (f x).opened = x.opened := by intros; rfl)
    (ht : ∀ x, (f x).transport = x.transport := by intros; rfl) : NoneOnC8 (s.updSess n f) :=
  h.congr (fun m => updSess_keep s n m f Sess.opened ho) fun m => updSess_keep s n m f Sess.transport ht

/-- Where no session is open on C8, its going ends none. -/
theorem c8Gone_idle {s : State} (h : NoneOnC8 s) : c8Gone s = s := by
  have hone : ∀ n ∈ List.range 16, (if ((s.sessOf n).opened && (s.sessOf n).transport == .c8) = true then endSession n s else s) = s :=
    fun n _ => if_neg fun hb => h n (Bool.and_eq_true_iff.1 hb).1 (beq_iff_eq.1 (Bool.and_eq_true_iff.1 hb).2)
  have hall : endSessions (fun x => x.opened && x.transport == .c8) s = s := by
    unfold endSessions
    exact List.foldlRecOn (motive := fun t => t = s) _ _ rfl fun t ht n hn => by rw [ht]; exact hone n hn
  unfold c8Gone
  rw [hall, ite_self]

/-! ## Every request of a channel discarded (R318) -/

/-- A step among the objects of channel c: the channel's own fields, the other channels and how the sessions are connected stand. -/
structure ObjSteps (c : Nat) (s t : State) : Prop where
  only : Only [.can, .serv] s t
  chs : ∀ d, d ≠ c → t.cch d = s.cch d
  rest : { t.cch c with objs := [] } = { s.cch c with objs := [] }
  opened : ∀ m, (t.sessOf m).opened = (s.sessOf m).opened
  transport : ∀ m, (t.sessOf m).transport = (s.sessOf m).transport

namespace ObjSteps

theorem refl (c : Nat) (s : State) : ObjSteps c s s := ⟨.refl _ _, fun _ _ => rfl, rfl, fun _ => rfl, fun _ => rfl⟩

theorem trans {c : Nat} {s t u : State} (h : ObjSteps c s t) (k : ObjSteps c t u) : ObjSteps c s u :=
  ⟨h.only.trans k.only, fun d hd => (k.chs d hd).trans (h.chs d hd), k.rest.trans h.rest, fun m => (k.opened m).trans (h.opened m),
    fun m => (k.transport m).trans (h.transport m)⟩

end ObjSteps

theorem tellOwner_sess {α : Type} (c j : Nat) (stamp : Option Nat) (s : State) (m : Nat) (p : Sess → α) (hp : ∀ x w, p { x with win := w } = p x) :
    p ((tellOwner c j stamp s).sessOf m) = p (s.sessOf m) := by
  unfold tellOwner
  split
  · exact updSess_keep s _ m _ p fun x => hp x _
  · rfl

theorem endRequest_steps (c j result : Nat) (stamp : Option Nat) (s : State) : ObjSteps c s (endRequest c j result stamp s) where
  only := endRequest_only c j result stamp s
  chs _ hd := endRequest_cch_ne c j result stamp s hd
  rest := endRequest_keep c j result stamp s (fun x => { x with objs := [] }) fun _ _ => rfl
  opened m := tellOwner_sess c j stamp _ m Sess.opened fun _ _ => rfl
  transport m := tellOwner_sess c j stamp _ m Sess.transport fun _ _ => rfl

/-- Object j of channel c has no request in t; one that it had in s has ended as cancelled or discarded. -/
def Discarded (c j : Nat) (s t : State) : Prop :=
  (t.cobj c j).pending = none ∧ ((s.cobj c j).pending.isSome = true → (t.cobj c j).result = if (s.cobj c j).cancel then 4 else 9)

/-- One step of the discarding. -/
def discardOne (c : Nat) (s : State) (j : Nat) : State :=
  if (s.cobj c j).pending.isSome then endRequest c j (if (s.cobj c j).cancel then 4 else 9) none s else s

theorem discardOne_spec (c : Nat) (s : State) (j : Nat) : ObjSteps c s (discardOne c s j) ∧
    (∀ m, m ≠ j → (discardOne c s j).cobj c m = s.cobj c m) ∧ Discarded c j s (discardOne c s j) := by
  unfold discardOne
  split
  next h =>
    obtain ⟨f, hf⟩ := Option.isSome_iff_exists.1 h
    have hobj := endRequest_cobj_self c j (if (s.cobj c j).cancel then 4 else 9) none s hf
    exact ⟨endRequest_steps c j _ none s, fun m hm => endRequest_cobj_ne c j _ none s hm, by rw [hobj], fun _ => by rw [hobj]⟩
  next h =>
    exact ⟨.refl c s, fun _ _ => rfl, Option.not_isSome_iff_eq_none.1 h, fun hs => absurd hs h⟩

theorem discardFirst_spec (c : Nat) (s : State) (n : Nat) : ∃ t, (List.range n).foldl (discardOne c) s = t ∧ ObjSteps c s t ∧
    (∀ m, n ≤ m → t.cobj c m = s.cobj c m) ∧ ∀ j, j < n → Discarded c j s t := by
  induction n with
  | zero => exact ⟨s, rfl, .refl c s, fun _ _ => rfl, fun _ hj => absurd hj (Nat.not_lt_zero _)⟩
  | succ n ih =>
    obtain ⟨t, ht, hsteps, hother, hdone⟩ := ih
    obtain ⟨hstep, hne, hself⟩ := discardOne_spec c t n
    refine ⟨discardOne c t n, by rw [List.range_succ, List.foldl_append, ht]; rfl, hsteps.trans hstep,
      fun m hm => (hne m (Nat.ne_of_gt hm)).trans (hother m (Nat.le_of_succ_le hm)), fun j hj => ?_⟩
    rcases Nat.lt_succ_iff_lt_or_eq.1 hj with hlt | rfl
    · unfold Discarded
      rw [hne j (Nat.ne_of_lt hlt)]
      exact hdone j hlt
    · unfold Discarded at hself ⊢
      rwa [hother j (Nat.le_refl j)] at hself

theorem discardAll_spec (c : Nat) (s : State) : ObjSteps c s (discardAll c s) ∧ ∀ j, j < 64 → Discarded c j s (discardAll c s) := by
  obtain ⟨t, ht, hsteps, -, hdone⟩ := discardFirst_spec c s 64
  have heq : discardAll c s = t := ht
  rw [heq]
  exact ⟨hsteps, hdone⟩

/-! ## Fault confinement (R317, R318) -/

section
variable {s : State} {c : Nat}

theorem goBusOff_eq (hup : (s.cch c).up = true) : goBusOff c s =
    (discardAll c (s.updCch c fun x => { x with state := 4, tec := 255, busOffCount := inc32 x.busOffCount })).record
      ⟨0xA001, c + 1, 0xC, [], [], 0xFFFFFFFF, 0xF⟩ := if_pos hup

/-- Bus-off: every request is discarded, and Flowstone holds the record. -/
theorem goBusOff_spec (hup : (s.cch c).up = true) : ∃ t, goBusOff c s = t ∧ Only [.can, .serv, .flow, .upd] s t ∧ (t.cch c).state = 4 ∧
    (t.cch c).tec = 255 ∧ (t.cch c).busOffCount = inc32 (s.cch c).busOffCount ∧ (∀ j, j < 64 → Discarded c j s t) ∧
    (∀ d, d ≠ c → t.cch d = s.cch d) ∧ Recorded ⟨0xA001, c + 1, 0xC, [], [], 0xFFFFFFFF, 0xF⟩ s t ∧ (NoneOnC8 s → NoneOnC8 t) := by
  obtain ⟨u, hu⟩ : ∃ u, (s.updCch c fun x => { x with state := 4, tec := 255, busOffCount := inc32 x.busOffCount }) = u := ⟨_, rfl⟩
  have huonly : Only [.can] s u := hu ▸ updCch_only s c _
  have huch : u.cch c = { s.cch c with state := 4, tec := 255, busOffCount := inc32 (s.cch c).busOffCount } :=
    hu ▸ updCch_cch_self _ (held_of_up hup)
  have huobj : ∀ j, u.cobj c j = s.cobj c j := fun j => hu ▸ updCch_cobj s c _ j
  have hune : ∀ d, d ≠ c → u.cch d = s.cch d := fun d hd => hu ▸ updCch_cch_ne s _ hd
  obtain ⟨hsteps, hdone⟩ := discardAll_spec c u
  obtain ⟨v, hv⟩ : ∃ v, discardAll c u = v := ⟨_, rfl⟩
  rw [hv] at hsteps hdone
  have hframe : Only [.can, .serv] s v := (huonly.mono (by decide)).trans hsteps.only
  obtain ⟨e, he⟩ : ∃ e : FlowEv, (⟨0xA001, c + 1, 0xC, [], [], 0xFFFFFFFF, 0xF⟩ : FlowEv) = e := ⟨_, rfl⟩
  have hrec := record_only v e
  have hch : (v.record e).cch c = v.cch c := hrec.cch (by decide) c
  have hobj : ∀ j, (v.record e).cobj c j = v.cobj c j := fun j => congrArg (fun x : CanCh => x.objs.getD j {}) hch
  have hrest : { v.cch c with objs := [] } = { u.cch c with objs := [] } := hsteps.rest
  rw [goBusOff_eq hup, hu, hv, he]
  refine ⟨_, rfl, (hframe.mono (by decide)).next hrec, ?_, ?_, ?_, fun j hj => ?_, fun d hd => ?_, ?_, fun hno => ?_⟩
  · rw [hch]
    exact (congrArg CanCh.state hrest).trans (by rw [huch])
  · rw [hch]
    exact (congrArg CanCh.tec hrest).trans (by rw [huch])
  · rw [hch]
    exact (congrArg CanCh.busOffCount hrest).trans (by rw [huch])
  · have hd := hdone j hj
    unfold Discarded at hd ⊢
    rwa [hobj, ← huobj]
  · rw [hrec.cch (by decide), hsteps.chs d hd, hune d hd]
  · exact (Recorded.self v e).base hframe.flow hframe.pw hframe.dict (by rw [hframe.tm]) (by rw [hframe.tm])
  · exact hno.congr (fun m => by rw [hrec.sessOf (by decide), hsteps.opened, huonly.sessOf (by decide)])
      fun m => by rw [hrec.sessOf (by decide), hsteps.transport, huonly.sessOf (by decide)]

theorem rejoin_spec (hl : c < s.can.ch.length) : Only [.can] s (rejoin c s) ∧
    (rejoin c s).cch c = { s.cch c with state := 2, tec := 0, rec_ := 0 } ∧ ∀ d, d ≠ c → (rejoin c s).cch d = s.cch d :=
  ⟨updCch_only s c _, updCch_cch_self _ hl, fun _ hd => updCch_cch_ne s _ hd⟩

theorem held_of_busOff (h : (s.cch c).state = 4) : c < s.can.ch.length := getD_lt (p := fun x : CanCh => x.state = 4) h (by decide)
end

/-! ## Writes of a channel (R314, R315, R318) -/

section
variable {s t : State} {n c : Nat} (hc : c < 8)
include hc

theorem chanWrite_next {sub : Nat} {v : Int} (hno : NoneOnC8 t)
    (h : s.asSession n (canObjIx c) (fun w => canWrite w (canObjIx c) sub (.int v)) = .next t) :
    exec (.canChannelConfigWrite n c sub v) s = .next t :=
  guarded_next hc ((congrArg (thenNext c8Gone) h).trans (congrArg Host.Outcome.next (c8Gone_idle hno)))

/-- A value of the bit timing, written while the channel is off. -/
theorem exec_chanTiming {v : Int} (h : s.admits n (0x5400 + c) 2 (.int v)) (hoff : s.flag (0x5400 + c) 1 = false) (hno : NoneOnC8 s) :
    exec (.canChannelConfigWrite n c 2 v) s = .next (((s.touch n).put (0x5400 + c) 2 (.int v)).ack n) := by
  have hflag : ¬ (2 ≤ 2 ∧ 2 ≤ 0xC ∧ (s.touch n).flag (0x5400 + c) 1 = true) := by
    rintro ⟨-, -, hon⟩
    exact Bool.false_ne_true (hoff.symm.trans hon)
  refine chanWrite_next hc ?_ ((session_ok h _).trans (congrArg Host.Outcome.next (answer_ok ((if_pos (show 0x5400 + c < 0x5408 from
    Nat.add_lt_add_left hc 0x5400)).trans ((if_neg (by decide)).trans ((if_neg (by decide)).trans ((if_neg fun h6 => absurd h6.1 (by decide)).trans (if_neg hflag))))))))
  exact ((hno.updSess n (f := fun x => { x with lastReq := s.tm.mono })).congr (t := (s.touch n).put (0x5400 + c) 2 (.int v)) (fun _ => rfl)
    fun _ => rfl).updSess n

/-- ChannelEnable, written to switch the channel on. -/
theorem exec_chanEnable {o : Except Nat State} (h : s.admits n (0x5400 + c) 1 (.int 1))
    (ho : (if !timingOk (s.touch n) c then .error Abort.range
      else .ok (if (s.cch c).state = 0 then ((s.touch n).put (0x5400 + c) 1 (.int 1)).updCch c fun x => { x with state := 2, tec := 0, rec_ := 0 }
        else (s.touch n).put (0x5400 + c) 1 (.int 1))) = o) (hno : NoneOnC8 ((s.touch n).answer n o)) :
    exec (.canChannelConfigWrite n c 1 1) s = .next ((s.touch n).answer n o) := by
  refine chanWrite_next hc hno ((serve_ok h.serves).trans (congrArg (fun e => Host.Outcome.next ((s.touch n).answer n e))
    ((checked_admitted h _).trans ((if_pos (show 0x5400 + c < 0x5408 from Nat.add_lt_add_left hc 0x5400)).trans ((if_pos rfl).trans ?_)))))
  rw [Nat.add_sub_cancel_left]
  exact ho
end

/-! ## The time master and the address claims (R325, R329, R330) -/

section
variable {s : State} {k : Nat}

theorem updCf_only (s : State) (k : Nat) (f : CanCf → CanCf) : Only [.can] s (s.updCf k f) := updCan_only s _

theorem updCf_self (f : CanCf → CanCf) (hk : k < s.can.cf.length) : (s.updCf k f).can.cf.getD k {} = f (s.can.cf.getD k {}) :=
  getD_upd _ _ _ _ hk

theorem sendClaim_only (k a : Nat) (s : State) : Only [.can] s (sendClaim k a s) := Only.ite (updCobj_only s _ k _) (.refl _ _)

/-- A claim goes to an object: the functions' addresses stand. -/
theorem sendClaim_cf (k a : Nat) (s : State) : (sendClaim k a s).can.cf = s.can.cf := by
  unfold sendClaim
  dsimp only
  split <;> rfl

theorem exec_referenceMessage {sent : Bool} {stamp : Nat} (hr : s.reachable = true) (hon : s.flag 0x5410 1 = true) :
    exec (.referenceMessage sent stamp) s = .next (if (sent && (s.cch (s.nat 0x5410 2 - 1)).up && !s.can.refSuspended) = true then
      s.updCan fun x => { x with cycle := refCycle s, refSent := inc32 x.refSent, lastRef := tick stamp, lastSkipped := false,
                                 refMsg := refBytes s (refCycle s) }
    else s.updCan fun x => { x with cycle := refCycle s, refSkipped := inc32 x.refSkipped, lastSkipped := true }) :=
  congrArg Host.Outcome.next (if_pos ⟨hr, hon⟩)

theorem exec_addressClaim (hk : k < 4) (hr : s.reachable = true) (hname : s.nat (0x5430 + k) 1 ≠ 0) (o : ClaimOutcome) :
    exec (.addressClaim k o) s = .next (match o with
      | .claimed a => if mayClaim s k a then s.updCf k fun x => { x with claimed := a } else s
      | .cannotClaim => sendClaim k 254 (s.updCf k fun x => { x with claimed := 0xFE, holdAt := none })) := by
  refine unit_next hk ((if_neg ?_).trans ?_)
  · rintro (h | h)
    · simp [hr] at h
    · exact hname h
  · cases o <;> rfl

/-- What the new claim of a suspended object leaves, but for its record. -/
def reclaimed (k new : Nat) (s : State) : State :=
  (s.updCf k fun _ => { claimed := new, holdAt := some (s.tm.mono + 250000000) }).updCobj (cfChannel k) k fun o =>
    { o with pending := some (claimFrame s k new), result := 0 }

theorem exec_addressReclaim {new : Nat} (hk : k < 4) (hr : s.reachable = true) (hsus : (s.cobj (cfChannel k) k).suspended = true)
    (hmay : mayClaim s k new = true) : exec (.addressReclaim k new) s = .next ((reclaimed k new s).record
      ⟨0xA003, k, 0xE, leBytes 1 (cfChannel k + 1) ++ leBytes 1 (s.can.cf.getD k {}).claimed ++ leBytes 1 new ++ leBytes 1 0, [],
        0xFFFFFFFF, 0xF⟩) :=
  unit_next hk (if_neg (by simp [hr, hsus, hmay]))

theorem reclaimed_spec {new : Nat} (hl : k < s.can.cf.length) (hsus : (s.cobj (cfChannel k) k).suspended = true) :
    Only [.can] s (reclaimed k new s) ∧
      (reclaimed k new s).can.cf.getD k {} = { claimed := new, holdAt := some (s.tm.mono + 250000000) } ∧
      ((reclaimed k new s).cobj (cfChannel k) k).pending = some (claimFrame s k new) ∧
      ((reclaimed k new s).cobj (cfChannel k) k).suspended = true := by
  obtain ⟨hc, hj⟩ := held_of_suspended hsus
  obtain ⟨u, hu⟩ : ∃ u, (s.updCf k fun _ => { claimed := new, holdAt := some (s.tm.mono + 250000000) }) = u := ⟨_, rfl⟩
  have hucf : u.can.cf.getD k {} = { claimed := new, holdAt := some (s.tm.mono + 250000000) } := hu ▸ updCf_self _ hl
  have huobj : u.cobj (cfChannel k) k = s.cobj (cfChannel k) k := hu ▸ rfl
  have hself := updCobj_self (s := u) (fun o => { o with pending := some (claimFrame s k new), result := 0 }) (c := cfChannel k) (j := k)
    (hu ▸ hc) (hu ▸ hj)
  have huonly : Only [.can] s u := hu ▸ updCf_only s k _
  unfold reclaimed
  rw [hu, hself, huobj]
  exact ⟨huonly.trans (updCobj_only u _ k _), hucf, rfl, hsus⟩
end

/-- Settles O49: bus-off and the ways out of it, the exceptions, the writes of a channel, the time master's reference and the claims. -/
theorem canChannels : Obligations.CanChannels := by
  refine ⟨fun s c hc hup hno => ?_, fun s c hc h4 h0 => ?_, fun s c hc h0 => ?_, fun s n c hc h h4 => ?_, fun s c hc hup => ?_,
    fun s c h2 hc hup => ?_, fun s c h2 => ?_, fun s n c v hc h hoff hno => ?_, fun s n c hc h ht hno => ?_, fun s n c hc h ht h0 hl hno => ?_,
    fun s stamp hr hon hup hsus => ?_, fun s stamp hr hon => ?_, fun s n v h => ?_, fun s k a hk hl hr hname hmay => ?_,
    fun s k hk hl hr hname => ?_, fun s k a hk hl hr hsus hmay => ?_⟩
  · obtain ⟨t, ht, honly, hstate, htec, hcount, hdone, hchs, hrec, hkeep⟩ := goBusOff_spec hup
    exact .intro (unit_next hc ((congrArg c8Gone ht).trans (c8Gone_idle (hkeep hno)))) ⟨honly, hstate, htec, hcount, hdone, hchs, hrec⟩
  · exact .intro (unit_next hc (if_pos ⟨h4, h0⟩)) (rejoin_spec (held_of_busOff h4))
  · exact unit_next hc (if_neg fun hb => h0 hb.2)
  · have hcmd : objectCommand c 512 (s.touch n) = .ok (rejoin c (s.touch n)) := by
      unfold objectCommand
      exact congrArg Except.ok (if_pos h4)
    exact .intro (guarded_next hc ((exec_objectCommand hc h).trans (congrArg Host.Outcome.next (answer_ok hcmd))))
      (rejoin_spec (s := s.touch n) (held_of_busOff h4))
  · exact .intro (unit_next hc (if_pos hup)) ⟨updCch_only s c _, updCch_cch_self _ (held_of_up hup), fun d hd => updCch_cch_ne s _ hd⟩
  · exact .intro (unit_next hc (if_pos ⟨hup, h2⟩)) ⟨updCch_only s c _, updCch_cch_self _ (held_of_up hup), fun d hd => updCch_cch_ne s _ hd⟩
  · exact unit_next (Nat.lt_trans h2 (by decide)) (if_neg fun hb => Nat.not_le.2 h2 hb.2)
  · exact exec_chanTiming hc h hoff hno
  · have hno' : NoneOnC8 ((s.touch n).deny n 0x06090030) :=
      NoneOnC8.updSess (NoneOnC8.updSess hno n (f := fun x => { x with lastReq := s.tm.mono })) n
    have ht' : timingOk (s.touch n) c = false := ht
    exact exec_chanEnable hc h (o := .error Abort.range) (if_pos (by rw [ht']; rfl)) hno'
  · obtain ⟨u, hu⟩ : ∃ u, (s.touch n).put (0x5400 + c) 1 (.int 1) = u := ⟨_, rfl⟩
    have huonly : Only [.dict] (s.touch n) u := hu ▸ put_only _ _ _ _
    have hon := updCch_only u c fun x => { x with state := 2, tec := 0, rec_ := 0 }
    have ht' : timingOk (s.touch n) c = true := ht
    have hno' : NoneOnC8 ((u.updCch c fun x => { x with state := 2, tec := 0, rec_ := 0 }).ack n) := by
      refine NoneOnC8.updSess (NoneOnC8.congr (NoneOnC8.updSess hno n (f := fun x => { x with lastReq := s.tm.mono })) (fun m => ?_) fun m => ?_) n
      · rw [hon.sessOf (by decide), huonly.sessOf (by decide)]; rfl
      · rw [hon.sessOf (by decide), huonly.sessOf (by decide)]; rfl
    refine .intro (exec_chanEnable hc h (o := .ok (u.updCch c fun x => { x with state := 2, tec := 0, rec_ := 0 }))
      ((if_neg (by rw [ht']; decide)).trans (congrArg Except.ok ((if_pos h0).trans (by rw [hu])))) hno')
      ⟨(huonly.mono (by decide)).next hon, ?_, fun d hd => (updCch_cch_ne u _ hd).trans (huonly.cch (by decide) d), hon.dict.trans (hu ▸ rfl)⟩
    rw [updCch_cch_self _ (by rw [huonly.can]; exact hl), huonly.cch (by decide)]
    rfl
  · exact .intro ((exec_referenceMessage hr hon).trans (congrArg Host.Outcome.next (if_pos (by simp [hup, hsus])))) ⟨updCan_only s _, rfl⟩
  · exact .intro ((exec_referenceMessage hr hon).trans (congrArg Host.Outcome.next (if_neg (by simp)))) ⟨updCan_only s _, rfl⟩
  · exact .intro ((session_ok h _).trans (congrArg Host.Outcome.next (answer_ok rfl))) ⟨updCan_only _ _, rfl⟩
  · refine .intro ((exec_addressClaim hk hr hname _).trans (congrArg Host.Outcome.next (if_pos hmay))) ⟨updCf_only s k _, ?_, rfl⟩
    rw [updCf_self _ hl]
  · refine .intro (exec_addressClaim hk hr hname _) ⟨(updCf_only s k _).trans (sendClaim_only k 254 _), ?_⟩
    dsimp only
    rw [sendClaim_cf, updCf_self _ hl]
    exact ⟨rfl, rfl⟩
  · obtain ⟨honly, hcf, hp, hs⟩ := reclaimed_spec (new := a) hl hsus
    have hrec := record_only (reclaimed k a s) ⟨0xA003, k, 0xE,
      leBytes 1 (cfChannel k + 1) ++ leBytes 1 (s.can.cf.getD k {}).claimed ++ leBytes 1 a ++ leBytes 1 0, [], 0xFFFFFFFF, 0xF⟩
    have hobj := congrArg (fun x : CanCh => x.objs.getD k {}) (hrec.cch (by decide) (cfChannel k))
    refine .intro (exec_addressReclaim hk hr hsus hmay) ⟨(honly.mono (by decide)).next hrec, ?_, ?_, ?_, ?_⟩
    · rw [hrec.can]
      exact hcf
    · exact (congrArg CanObj.pending hobj).trans hp
    · exact (congrArg CanObj.suspended hobj).trans hs
    · exact (Recorded.self _ _).base honly.flow honly.pw honly.dict (by rw [honly.tm]) (by rw [honly.tm])

end Sys2Proof.Machine

/-! Proofs of the statement on Flowstone's records, flushes, read window, clears and first occurrences (16). -/

namespace Sys2Proof.Machine

set_option Elab.async false

/-! ## A group written (R362, R364, R366) -/

/-- Beyond the limit of its second a group is suppressed: it takes no SEQ value and is not kept. -/
theorem write_suppressed {f : Flow} {r : FlowRec} (hsev : severityOf r.code ≠ 3) (hlim : f.limit ≤ (codeCount f.perCode r.code).1) :
    f.write r = { f with suppressed := f.suppressed + 1, perCode := codeBump f.perCode r.code true,
                         fot := fotNote f.fot { r with seq := f.nextSeq } false } := if_pos ⟨hsev, hlim⟩

/-- The flow when a group has taken its SEQ values, before it has a place. -/
def Flow.counted (f : Flow) (r : FlowRec) : Flow :=
  { f with nextSeq := seqAdd f.nextSeq r.size, perCode := codeBump f.perCode r.code false, fot := fotNote f.fot { r with seq := f.nextSeq } true
           fotFull := f.fotFull || (decide (1024 ≤ f.fot.length) && !f.fot.any fun e => e.first.code == r.code) }

/-- The flow when a group has its place, a running flush extended by one that triggers. -/
def Flow.extended (g : Flow) (r : FlowRec) : Flow :=
  if g.flushUntil.isSome && g.triggers r then { g with flushUntil := some g.nextSeq } else g

theorem write_counted {f : Flow} {r : FlowRec} (h : ¬ (severityOf r.code ≠ 3 ∧ f.limit ≤ (codeCount f.perCode r.code).1)) :
    f.write r = ((f.counted r).place { r with seq := f.nextSeq }).extended { r with seq := f.nextSeq } := if_neg h

theorem extended_keep {α : Type} (g : Flow) (r : FlowRec) (p : Flow → α) (hp : ∀ x u, p { x with flushUntil := u } = p x) :
    p (g.extended r) = p g := by
  unfold Flow.extended
  split
  · exact hp g _
  · rfl

/-- A group that finds room. -/
theorem place_room {f : Flow} {r : FlowRec} (h : flowSize f.wait + r.size ≤ 8192) : f.place r = { f with wait := f.wait ++ [r] } := if_pos h

/-- A write leaves the ring, the state of the running flush and what has been cleared. -/
theorem place_keep {α : Type} (f : Flow) (r : FlowRec) (p : Flow → α)
    (hw : ∀ x l, p { x with wait := l } = p x) (hl : ∀ x a b c, p { x with lostRecords := a, lostPending := b, lostFirst := c } = p x) :
    p (f.place r) = p f := by
  unfold Flow.place
  split
  · exact hw f _
  · split
    · exact (hw _ _).trans (hl f _ _ _)
    · exact hl f _ _ _

section
variable (f : Flow) (r : FlowRec)

theorem write_ring : (f.write r).ring = f.ring := by
  by_cases h : severityOf r.code ≠ 3 ∧ f.limit ≤ (codeCount f.perCode r.code).1
  · rw [write_suppressed h.1 h.2]
  · rw [write_counted h, extended_keep _ _ Flow.ring fun _ _ => rfl, place_keep _ _ Flow.ring (fun _ _ => rfl) fun _ _ _ _ => rfl]
    rfl

theorem write_flushFailed : (f.write r).flushFailed = f.flushFailed := by
  by_cases h : severityOf r.code ≠ 3 ∧ f.limit ≤ (codeCount f.perCode r.code).1
  · rw [write_suppressed h.1 h.2]
  · rw [write_counted h, extended_keep _ _ Flow.flushFailed fun _ _ => rfl,
      place_keep _ _ Flow.flushFailed (fun _ _ => rfl) fun _ _ _ _ => rfl]
    rfl
end

/-- What every write keeps, a new second and a record keep. -/
theorem newSecond_keep {α : Type} (p : Flow → α) (hw : ∀ f r, p (f.write r) = p f)
    (hp : ∀ f a b c, p { f with second := a, perCode := b, limit := c } = p f) (f : Flow) (sec limit stamp src : Nat) :
    p (f.newSecond sec limit stamp src) = p f :=
  List.foldlRecOn (motive := fun g => p g = p f) _ _ (hp f _ _ _) fun _ hg _ _ => (hw _ _).trans hg

theorem record_keep {α : Type} (p : Flow → α) (hw : ∀ f r, p (f.write r) = p f)
    (hp : ∀ f a b c, p { f with second := a, perCode := b, limit := c } = p f) (s : State) (e : FlowEv) : p (s.record e).flow = p s.flow := by
  rw [record_flow]
  split
  · rfl
  · rw [hw]
    split
    · rfl
    · exact newSecond_keep p hw hp _ _ _ _ _

theorem record_ring (s : State) (e : FlowEv) : (s.record e).flow.ring = s.flow.ring := record_keep Flow.ring write_ring (fun _ _ _ _ => rfl) s e

theorem record_flushFailed (s : State) (e : FlowEv) : (s.record e).flow.flushFailed = s.flow.flushFailed :=
  record_keep Flow.flushFailed write_flushFailed (fun _ _ _ _ => rfl) s e

/-- A second in which nothing was suppressed ends without a record. -/
theorem newSecond_quiet {f : Flow} (h : ∀ e ∈ f.perCode, e.2.2 = 0) (sec limit stamp src : Nat) :
    f.newSecond sec limit stamp src = { f with second := sec, perCode := [], limit := limit } := by
  have hnone : f.perCode.filter (fun e => e.2.2 ≠ 0) = [] := List.filter_eq_nil_iff.2 fun e he => by simp [h e he]
  unfold Flow.newSecond
  rw [hnone]
  rfl

/-! ## The ring (R367) -/

/-- The groups that the ring keeps, oldest first, their records counted, and whether an older one may still be kept. -/
def ringTake (r : FlowRec) (a : List FlowRec × Nat × Bool) : List FlowRec × Nat × Bool :=
  if a.2.2 && decide (a.2.1 + r.size ≤ 1048576) then (r :: a.1, a.2.1 + r.size, true) else (a.1, a.2.1, false)

theorem ringTake_spec (l : List FlowRec) : ∃ a, l.foldr ringTake ([], 0, true) = a ∧ flowSize a.1 = a.2.1 ∧ a.2.1 ≤ 1048576 ∧ a.1 <:+ l ∧
    (a.2.2 = true → a.1 = l) := by
  induction l with
  | nil => exact ⟨_, rfl, rfl, Nat.zero_le _, List.suffix_refl _, fun _ => rfl⟩
  | cons r l ih =>
    obtain ⟨⟨kept, size, open_⟩, ha, hsize, hle, hsuf, hall⟩ := ih
    rw [List.foldr_cons, ha]
    unfold ringTake
    split
    next h =>
      obtain ⟨hopen, hfit⟩ := Bool.and_eq_true_iff.1 h
      have hkept : kept = l := hall hopen
      exact ⟨_, rfl, (Nat.add_comm _ _).trans (congrArg (· + r.size) hsize), of_decide_eq_true hfit, hkept ▸ List.suffix_refl _, fun _ => by rw [hkept]⟩
    next h => exact ⟨_, rfl, hsize, hle, hsuf.trans (List.suffix_cons r l), fun h => absurd h Bool.false_ne_true⟩

theorem trimRing_spec (l : List FlowRec) : flowSize (trimRing l) ≤ 1048576 ∧ trimRing l <:+ l := by
  obtain ⟨a, ha, hsize, hle, hsuf, -⟩ := ringTake_spec l
  have ht : trimRing l = a.1 := congrArg Prod.fst ha
  rw [ht]
  exact ⟨hsize ▸ hle, hsuf⟩

/-! ## The read window (R369) -/

theorem takeWindow_size (l : List FlowRec) (used : Nat) (h : used ≤ 8) : used + flowSize (takeWindow l used).1 ≤ 8 := by
  induction l generalizing used with
  | nil => exact h
  | cons r l ih =>
    unfold takeWindow
    split
    next => exact h
    next hfit =>
      split
      next h8 => exact Nat.le_of_eq ((congrArg (used + ·) (Nat.add_zero r.size)).trans h8)
      next =>
        have hrest := ih (used + r.size) (Nat.le_of_not_lt hfit)
        exact (Nat.add_assoc used r.size _).symm ▸ hrest

theorem mem_of_mem_takeWindow {l : List FlowRec} {r : FlowRec} {used : Nat} (h : r ∈ (takeWindow l used).1) : r ∈ l := by
  induction l generalizing used with
  | nil => exact h
  | cons x l ih =>
    unfold takeWindow at h
    split at h
    · exact absurd h List.not_mem_nil
    · split at h
      · exact List.mem_cons.2 (.inl (List.mem_singleton.1 h))
      · rcases List.mem_cons.1 h with rfl | ht
        · exact List.mem_cons_self
        · exact List.mem_cons_of_mem _ (ih ht)

/-- The groups that a read of the window takes. -/
def windowOf (n : Nat) (s : State) : List FlowRec :=
  (takeWindow (((s.flow.held.filter fun r => !seqBefore r.seq
    (if seqBefore (s.sessOf n).win.readCursor s.flow.oldest then s.flow.oldest else (s.sessOf n).win.readCursor)).filter fun r =>
      !hidden s.flow (s.sessOf n).role r && decide ((s.sessOf n).win.minSeverity ≤ severityOf r.code))) 0).1

theorem mem_windowOf {n : Nat} {s : State} {r : FlowRec} (h : r ∈ windowOf n s) : r ∈ s.flow.held ∧
    hidden s.flow (s.sessOf n).role r = false ∧ (s.sessOf n).win.minSeverity ≤ severityOf r.code ∧
    (seqBefore (s.sessOf n).win.readCursor s.flow.oldest = false → seqBefore r.seq (s.sessOf n).win.readCursor = false) := by
  obtain ⟨hfrom, hseen⟩ := List.mem_filter.1 (mem_of_mem_takeWindow h)
  obtain ⟨hheld, hstart⟩ := List.mem_filter.1 hfrom
  obtain ⟨hhid, hsev⟩ := Bool.and_eq_true_iff.1 hseen
  refine ⟨hheld, Bool.not_eq_true' _ ▸ hhid, of_decide_eq_true hsev, fun hno => ?_⟩
  rw [hno] at hstart
  exact Bool.not_eq_true' _ ▸ hstart

/-- A read of the window answers with its bytes, and the session's window holds what was read. -/
theorem readWindow_spec {n : Nat} {s : State} (hopen : (s.sessOf n).opened = true) : ∃ t, readWindow n s = t ∧ Only [.serv] s t ∧
    (t.sessOf n).win.window = windowOf n s ∧ (t.sessOf n).answer = 0 ∧
    (t.sessOf n).answerData = (windowOf n s).flatMap fun r => (List.range r.size).flatMap fun j => r.bytes j := by
  refine ⟨_, rfl, updSess_only s n _, ?_, ?_, ?_⟩
  · exact congrArg (fun x : Sess => x.win.window) (sess_upd hopen)
  · exact congrArg Sess.answer (sess_upd hopen)
  · exact congrArg Sess.answerData (sess_upd hopen)

/-! ## Flushes (R364, R365, R367) -/

section
variable {s : State}

theorem completeFlush_quiet {u : Nat} (hu : s.flow.flushUntil = some u) (hok : s.flow.flushFailed = false) (hlost : s.flow.lostPending = 0) :
    completeFlush s = s.updFlow fun f =>
      { f with wait := s.flow.wait.filter fun r => !seqBefore r.seq u
               ring := trimRing (f.ring ++ s.flow.wait.filter fun r => seqBefore r.seq u), flushUntil := none, flushFailed := false
               flushedSeq := match (s.flow.wait.filter fun r => seqBefore r.seq u).getLast? with
                 | some r => seqAdd r.seq (r.size - 1) | none => f.flushedSeq } := by
  unfold completeFlush
  rw [hu]
  dsimp only
  rw [hok]
  exact if_pos hlost

theorem reportLost_some {k q : Nat} (hk : s.flow.lostPending = k) (hq : s.flow.lostFirst = q) (h0 : k ≠ 0) : reportLost s =
    (s.updFlow fun f => { f with lostPending := 0 }).record ⟨0x0003, 0, 0, leBytes 4 k ++ leBytes 4 q, [], 0xFFFFFFFF, 0xF⟩ := by
  subst hk hq
  exact if_neg h0

/-- What the discard of a torn group leaves, but for its record. -/
def tornOff (k : Nat) (l : List FlowRec) (r : FlowRec) (s : State) : State :=
  s.updFlow fun f => { f with ring := l, lostRecords := add32 f.lostRecords k, lostPending := 0, lostFirst := r.seq }

theorem exec_tornGroup {k : Nat} {l : List FlowRec} {r : FlowRec} (hdev : s.pw.dev = .start) (hring : s.flow.ring = l ++ [r]) (hk : k ≠ 0)
    (hlost : s.flow.lostPending = 0) : exec (.tornGroupDiscard k) s =
      .next ((tornOff k l r s).record ⟨0x0003, 0, 0, leBytes 4 k ++ leBytes 4 r.seq, [], 0xFFFFFFFF, 0xF⟩) := by
  have hlast : s.flow.ring.getLast? = some r := by rw [hring, List.getLast?_concat]
  have hinit : s.flow.ring.dropLast = l := by rw [hring, List.dropLast_concat]
  have hcount : s.flow.lostPending + k = k := by rw [hlost, Nat.zero_add]
  refine congrArg Host.Outcome.next ((if_pos hdev).trans ?_)
  rw [hlast]
  have hflow : (s.updFlow fun f => { f with ring := f.ring.dropLast, lostRecords := add32 f.lostRecords k, lostPending := 0
                                            lostFirst := if f.lostPending = 0 then r.seq else f.lostFirst }) = tornOff k l r s := by
    unfold tornOff State.updFlow
    dsimp only
    rw [hinit, if_pos hlost]
  exact (reportLost_some hcount (if_pos hlost) hk).trans (congrArg (fun t : State => t.record _) hflow)
end

/-! ## Clears and first occurrences (R368, R371) -/

section
variable {s : State} {n : Nat}

/-- ClearCommand, written by a session. -/
theorem exec_clearCommand {v : Int} (h : s.admits n 0x5800 0xA (.int v)) : s.asSession n 0x5800 (fun w => flowWrite w 0x5800 0xA (.int v)) =
    .next ((s.touch n).answer n (clearCommand (s.ctxOf n) v.toNat (s.touch n))) :=
  (serve_ok h.serves).trans (congrArg (fun e => Host.Outcome.next ((s.touch n).answer n e)) (checked_admitted h _))

/-- A clear that is carried out leaves its own record. -/
theorem cleared {c : Instr} {v : Nat} {g : Flow → Flow} (hexec : exec c s =
    .next ((s.touch n).answer n (.ok (((s.touch n).updFlow g).record (clearRecord (s.ctxOf n) v))))) :
    Written c s n [.flow, .upd] fun t => Recorded (clearRecord (s.ctxOf n) v) (s.updFlow g) t := by
  obtain ⟨e, he⟩ : ∃ e, clearRecord (s.ctxOf n) v = e := ⟨_, rfl⟩
  rw [he] at hexec ⊢
  exact .intro (hexec.trans (congrArg Host.Outcome.next (answer_ok rfl))) ⟨((updFlow_only (s.touch n) g).mono (by decide)).next (record_only _ e),
    (Recorded.self _ e).base rfl rfl rfl rfl rfl⟩

/-- The look-up of a code's first occurrence. -/
theorem exec_fotLookup {c : Nat} (h : s.admits n 0x5820 3 (.int c)) : exec (.fotLookup n c) s = .next ((s.touch n).answer n
    (match s.flow.fot.findIdx? fun e => e.first.code == c with
      | some k => .ok ((s.touch n).updWin n fun y => { y with fotIndex := k })
      | none => .error Abort.state)) := by
  show s.asSession n 0x5820 (fun w => flowWrite w 0x5820 3 (.int c)) = _
  refine (serve_ok h.serves).trans ?_
  refine congrArg (fun e => Host.Outcome.next ((s.touch n).answer n e)) ((checked_admitted h _).trans ?_)
  have hcode : (valNum (.int c)).toNat = c := Int.toNat_natCast c
  rw [hcode]
  cases hk : s.flow.fot.findIdx? fun e => e.first.code == c <;> simp [State.ctxOf, hk]
end

/-- Settles O50: the writing of groups and their suppression, flushes and the ring, the read window, the clears and the look-up. -/
theorem flowstoneCommands : Obligations.FlowstoneCommands := by
  refine ⟨fun s ev hrec hcode hmore hpay => ?_, fun f r hmay hroom => ?_, fun f r hsev hlim => ?_, fun s hrec hsec hquiet => ?_,
    fun s hrec hwait => ?_, fun s hrec hwait => ?_, fun s u hrec hu hok hlost => ?_, trimRing_spec, fun s e hrec hu hok => ?_,
    fun s k l r hdev hring hk hlost => ?_, fun s n h => ?_, fun s n h => ?_, fun s n h => ?_, fun s n h => ?_, fun s n h hrole hfuse => ?_,
    fun s n h hrole hfuse => ?_, fun s n c k h hk => ?_, fun s n c h hno => ?_⟩
  · exact .intro (congrArg Host.Outcome.next (if_pos ⟨hcode, hmore, hpay⟩)) ⟨record_only s ev, .self s ev⟩
  · have hno : ¬ (severityOf r.code ≠ 3 ∧ f.limit ≤ (codeCount f.perCode r.code).1) := fun hb =>
      hmay.elim hb.1 fun hlt => Nat.not_lt.2 hb.2 hlt
    have hplace : (f.counted r).place { r with seq := f.nextSeq } = { f.counted r with wait := f.wait ++ [{ r with seq := f.nextSeq }] } :=
      place_room hroom
    rw [write_counted hno, hplace]
    refine ⟨?_, ?_, ?_, ?_, ?_⟩
    · exact extended_keep _ _ Flow.nextSeq fun _ _ => rfl
    · exact extended_keep _ _ Flow.wait fun _ _ => rfl
    · exact extended_keep _ _ Flow.suppressed fun _ _ => rfl
    · exact extended_keep _ _ Flow.lostRecords fun _ _ => rfl
    · exact extended_keep _ _ Flow.ring fun _ _ => rfl
  · rw [write_suppressed hsev hlim]
    exact ⟨rfl, rfl, rfl, rfl⟩
  · have hroll : s.rollSecond = s.updFlow fun f => { f with second := s.tm.mono / 1000000000, perCode := [], limit := s.nat 0x5800 7 } :=
      (if_neg hsec).trans (congrArg (fun g => s.updFlow fun _ => g) (newSecond_quiet hquiet _ _ _ _))
    exact .intro (congrArg Host.Outcome.next ((if_pos hrec).trans hroll)) ⟨updFlow_only s _, rfl⟩
  · exact .intro (congrArg Host.Outcome.next ((if_pos hrec).trans (congrArg (fun g => s.updFlow fun _ => g) (if_neg hwait))))
      ⟨updFlow_only s _, rfl⟩
  · exact congrArg Host.Outcome.next ((if_pos hrec).trans (congrArg (fun g => s.updFlow fun _ => g) (if_pos hwait)))
  · exact .intro (congrArg Host.Outcome.next ((if_pos hrec).trans (completeFlush_quiet hu hok hlost))) ⟨updFlow_only s _, rfl, rfl, rfl, rfl, rfl⟩
  · obtain ⟨ev, hev⟩ : ∃ ev : FlowEv, (⟨0x0005, 0, 0, leBytes 4 e, [], 0xFFFFFFFF, 0xF⟩ : FlowEv) = ev := ⟨_, rfl⟩
    have hexec : exec (.flushFailed e) s = .next ((s.updFlow fun f => { f with flushFailed := true }).record ev) :=
      congrArg Host.Outcome.next ((if_pos ⟨hrec, hu, by rw [hok]; rfl⟩).trans (by rw [hev]))
    rw [hev]
    exact .intro hexec ⟨((updFlow_only s _).mono (by decide)).next (record_only _ ev), record_flushFailed _ ev, record_ring _ ev, .self _ ev⟩
  · refine .intro (exec_tornGroup hdev hring hk hlost) ⟨((updFlow_only s _).mono (by decide)).next (record_only _ _), record_ring _ _, .self _ _⟩
  · have hopen : ((s.touch n).sessOf n).opened = true := (touch_opened s n).trans h.2.1
    obtain ⟨t, ht, honly, hwin, hans, hdata⟩ := readWindow_spec hopen
    refine .intro (unit_next h.1 ((if_pos (Bool.and_eq_true_iff.2 ⟨h.2.1, h.2.2⟩)).trans ht)) ⟨(touch_only s n).trans honly, ?_, hans, ?_, fun r hr => ?_⟩
    · rw [hwin]
      exact (Nat.zero_add _).ge.trans (takeWindow_size _ 0 (Nat.zero_le 8))
    · rw [hdata, hwin]
    · have hmem := mem_windowOf (hwin ▸ hr)
      rwa [touch_win, touch_role] at hmem
  · exact cleared (exec_clearCommand h)
  · exact cleared (exec_clearCommand h)
  · exact cleared (exec_clearCommand h)
  · have hcmd : clearCommand (s.ctxOf n) 4 (s.touch n) =
        .ok (((s.touch n).updFlow fun f => { f with ring := [], fot := [], fotFull := false }).record (clearRecord (s.ctxOf n) 4)) :=
      (if_neg (not_not.2 hrole)).trans (if_neg (by rw [touch_per, hfuse]; decide))
    exact cleared ((exec_clearCommand h).trans (congrArg (fun e => Host.Outcome.next ((s.touch n).answer n e)) hcmd))
  · have hcmd : clearCommand (s.ctxOf n) 4 (s.touch n) = .error Abort.state := (if_neg (not_not.2 hrole)).trans (if_pos hfuse)
    exact (exec_clearCommand h).trans (congrArg (fun e => Host.Outcome.next ((s.touch n).answer n e)) hcmd)
  · exact (exec_fotLookup h).trans (by rw [hk]; rfl)
  · have hnone : s.flow.fot.findIdx? (fun e => e.first.code == c) = none :=
      List.findIdx?_eq_none_iff.2 fun e he => beq_eq_false_iff_ne.2 (hno e he)
    exact (exec_fotLookup h).trans (by rw [hnone]; rfl)

end Sys2Proof.Machine

/-! Proofs of the statement on the panel's power-up, power-down, faults, training and VCOM (17). -/

namespace Sys2Proof.Machine

set_option Elab.async false

/-! ## Power sequencing (R389–R391) -/

section
variable {s : State}

theorem lanUp_only (s : State) : Only [.lan] s (lanUp s) := updLan_only s _

theorem lanDischarge_only (ms : Nat) (s : State) : Only [.lan] s (lanDischarge ms s) := updLan_only s _

theorem lanMay_iff : lanMay s = true ↔ s.reachable = true ∧ s.flag 0x5C00 1 = true := Bool.and_eq_true_iff

/-- A power-down in a frame that is being sent waits for its end. -/
theorem lanDown_running (h : s.lan.state = 3 ∨ s.lan.state = 4) (hret : s.lan.retraining = false) :
    lanDown s = s.updLan fun x => { x with state := 5, down := 1, blen := false, backAt := none } := by
  have hno : ¬ (s.lan.state = 0 ∨ s.lan.state = 5 ∨ s.lan.state = 6) := by omega
  exact (if_neg hno).trans (if_pos ⟨h, by rw [hret]; rfl⟩)

/-- A power-down before the first frame goes at once to the discharge. -/
theorem lanDown_starting (h : s.lan.state = 1 ∨ s.lan.state = 2) : lanDown s = s.updLan fun x =>
    { x with state := 5, down := 3, blen := false, backAt := none, stepEnd := s.tm.mono + s.lan.cfg.discharge * 1000000, locked := false
             retraining := false } := by
  have hno : ¬ (s.lan.state = 0 ∨ s.lan.state = 5 ∨ s.lan.state = 6) := by omega
  have hframe : ¬ ((s.lan.state = 3 ∨ s.lan.state = 4) ∧ (!s.lan.retraining) = true) := fun hb => by omega
  exact (if_neg hno).trans (if_neg hframe)

/-- The frame in progress is lost by a fast power-down. -/
def frameLost (x : Lantern) : Bool :=
  (decide (x.state = 3) || decide (x.state = 4) || (decide (x.state = 5) && decide (x.down ≤ 2))) && !x.retraining

theorem frameLost_iff (x : Lantern) :
    frameLost x = true ↔ (x.state = 3 ∨ x.state = 4 ∨ x.state = 5 ∧ x.down ≤ 2) ∧ x.retraining = false := by
  simp [frameLost, or_assoc]

theorem lanFast_eq (h0 : s.lan.state ≠ 0) (h6 : s.lan.state ≠ 6) : lanFast s = s.updLan fun x =>
    { x with state := 5, down := 3, blen := false, backAt := none, stepEnd := s.tm.mono + 5 * 1000000, locked := false, retraining := false
             lost := if frameLost s.lan then inc32 x.lost else x.lost } :=
  if_neg (not_or.2 ⟨h0, h6⟩)
end

/-! ## PanelCommand and PanelEnable -/

theorem put_flag_self {s : State} {i sub : Nat} {v : Val} (h : dictWf s.dict = true) (hs : sub < 256) :
    (s.put i sub v).flag i sub = decide (valNum v ≠ 0) := by
  unfold State.flag State.int
  rw [State.put_val_self h hs]

section
variable {s : State} {n : Nat}

theorem exec_panelCommand {v : Int} (h : s.admits n 0x5C00 0x17 (.int v)) : exec (.panelCommand n v) s =
    .next (((s.touch n).updLan fun x => if x.state = 6 then { x with state := 0, faults := [] } else x).ack n) := admitted_ok h rfl

/-- Switching the panel on while it is off powers it up. -/
theorem exec_panelOn (hwf : dictWf s.dict = true) (h : s.admits n 0x5C00 1 (.int 1)) (hr : s.reachable = true) (hoff : s.flag 0x5C00 1 = false)
    (h0 : s.lan.state = 0) : exec (.panelEnableWrite n 1) s = .next ((lanUp ((s.touch n).put 0x5C00 1 (.int 1))).ack n) := by
  obtain ⟨t, ht⟩ : ∃ t, (s.touch n).put 0x5C00 1 (.int 1) = t := ⟨_, rfl⟩
  have hnow : t.flag 0x5C00 1 = true := ht ▸ put_flag_self (s := s.touch n) hwf (by decide)
  have hlan : t.lan = s.lan := ht ▸ rfl
  have hmay : lanMay t = true ∧ t.lan.state = 0 := ⟨lanMay_iff.2 ⟨ht ▸ hr, hnow⟩, hlan ▸ h0⟩
  have hw : (if (s.touch n).flag 0x5C00 1 = true then t
      else if t.lan.state = 5 then t.updLan fun x => { x with again := true }
      else if lanMay t = true ∧ t.lan.state = 0 then lanUp t else t) = lanUp t := by
    refine (if_neg fun hon => Bool.false_ne_true (hoff.symm.trans hon)).trans ((if_neg ?_).trans (if_pos hmay))
    rw [hmay.2]
    decide
  rw [ht]
  exact admitted_ok h (congrArg Except.ok (by rw [← hw, ← ht]))

theorem exec_panelOff (h : s.admits n 0x5C00 1 (.int 0)) : exec (.panelEnableWrite n 0) s =
    .next ((lanDown (((s.touch n).put 0x5C00 1 (.int 0)).updLan fun x => { x with again := false })).ack n) := admitted_ok h rfl

/-- The settings of the panel's timing stand apart from PanelEnable. -/
theorem lanTime_put (hwf : dictWf s.dict = true) (v : Val) : lanTime (s.put 0x5C00 1 v) = lanTime s := by
  have hne : ∀ sub, sub ≠ 1 → sub < 256 → (s.put 0x5C00 1 v).nat 0x5C00 sub = s.nat 0x5C00 sub := fun sub h1 hlt =>
    State.put_nat_ne hwf (by decide) hlt fun heq => h1 (Prod.mk.inj heq).2
  unfold lanTime
  dsimp only
  rw [hne 2 (by decide) (by decide), hne 3 (by decide) (by decide), hne 4 (by decide) (by decide), hne 5 (by decide) (by decide),
    hne 6 (by decide) (by decide), hne 7 (by decide) (by decide), hne 8 (by decide) (by decide)]
end

/-! ## The statement -/

section
variable {s : State}

theorem exec_vpnlFault (h1 : 1 ≤ s.lan.state) (h5 : s.lan.state ≤ 5) : exec .vpnlFault s = .next (s.updLan fun x =>
    { x with supplyFault := true, again := false, failAt := s.tm.mono, state := 5, down := 3, blen := false, backAt := none
             stepEnd := s.tm.mono + 5 * 1000000, locked := false, retraining := false
             faults := s.tm.mono :: x.faults.filter fun t => decide (s.tm.mono < t + 60000000000)
             lost := if frameLost s.lan then inc32 x.lost else x.lost }) := by
  have h0 : s.lan.state ≠ 0 := by omega
  have h6 : s.lan.state ≠ 6 := by omega
  refine congrArg Host.Outcome.next ((if_pos ⟨h1, h5⟩).trans ?_)
  exact lanFast_eq (s := s.updLan fun x => { x with
    supplyFault := true, again := false, failAt := s.tm.mono
    faults := s.tm.mono :: x.faults.filter fun t => decide (s.tm.mono < t + 60000000000) }) h0 h6

theorem exec_vcomFault_set (h2 : 2 ≤ s.lan.state) (h6 : s.lan.state ≠ 6) (hno : s.lan.vcomFault = false) : exec (.vcomFault true) s =
    .next (s.freeInt.2.updLan fun x => { x with vcomFault := true, vcomMeas := (s.freeInt.1 % 65536).toNat }) := by
  have hcond : ¬ (s.lan.state < 2 ∨ s.lan.state = 6 ∨ s.lan.vcomFault = true) := by
    rw [hno]
    exact not_or.2 ⟨Nat.not_lt.2 h2, not_or.2 ⟨h6, Bool.false_ne_true⟩⟩
  exact congrArg Host.Outcome.next ((if_neg hcond).trans (if_pos rfl))

theorem exec_vcomFault_clear (h2 : 2 ≤ s.lan.state) (h6 : s.lan.state ≠ 6) (hon : s.lan.vcomFault = true) : exec (.vcomFault false) s =
    .next (s.updLan fun x => { x with vcomFault := false, vcomMeas := x.cfg.vcom }) := by
  have hcond : ¬ (s.lan.state < 2 ∨ s.lan.state = 6 ∨ s.lan.vcomFault = false) := by
    rw [hon]
    exact not_or.2 ⟨Nat.not_lt.2 h2, not_or.2 ⟨h6, fun hb => nomatch hb⟩⟩
  exact congrArg Host.Outcome.next ((if_neg hcond).trans (if_neg Bool.false_ne_true))
end

/-- Settles O51: the ways the panel is powered up and down, its faults and their retry, training, loss of lock and VCOM. -/
theorem panelPower : Obligations.PanelPower := by
  refine ⟨fun s hr hon h0 => ?_, fun s h0 => ?_, fun s hdown h hret => ?_, fun s hdown h => ?_, fun s h0 h6 => ?_, fun s h => ?_, fun s h1 h5 => ?_,
    fun s hr hon h0 hf ht => ?_, fun s ht => ?_, fun s n v h h6 => ?_, fun s n v h h6 => ?_, fun s n hwf h hr hoff h0 => ?_, fun s n h h4 hret => ?_,
    fun s h hl => ?_, fun s h2 hl => ?_, fun s h hret => ?_, fun s h2 h6 hno => ?_, fun s h2 h6 hon => ?_, fun s hr => ?_⟩
  · exact .intro (congrArg Host.Outcome.next (if_pos ⟨lanMay_iff.2 ⟨hr, hon⟩, h0⟩)) ⟨lanUp_only s, rfl, rfl, rfl, rfl, rfl, rfl, rfl, rfl, rfl⟩
  · exact congrArg Host.Outcome.next (if_neg fun hb => h0 hb.2)
  · exact .intro (congrArg Host.Outcome.next ((if_pos (hdown.imp_right fun hoff => by rw [hoff]; rfl)).trans (lanDown_running h hret)))
      ⟨updLan_only s _, rfl⟩
  · exact .intro (congrArg Host.Outcome.next ((if_pos (hdown.imp_right fun hoff => by rw [hoff]; rfl)).trans (lanDown_starting h)))
      ⟨updLan_only s _, rfl⟩
  · refine .intro (congrArg Host.Outcome.next (lanFast_eq h0 h6)) ⟨updLan_only s _, rfl, rfl, rfl, rfl, ?_⟩
    show (if frameLost s.lan = true then inc32 s.lan.lost else s.lan.lost) = _
    rw [if_congr (frameLost_iff s.lan) rfl rfl]
  · exact congrArg Host.Outcome.next (if_pos h)
  · exact .intro (exec_vpnlFault h1 h5) ⟨updLan_only s _, rfl, rfl, rfl, rfl, rfl, rfl⟩
  · exact .intro (congrArg Host.Outcome.next (if_pos ⟨lanMay_iff.2 ⟨hr, hon⟩, h0, hf, ht⟩)) ⟨lanUp_only s, rfl, rfl, rfl⟩
  · exact congrArg Host.Outcome.next (if_neg fun hb => Nat.not_le.2 ht hb.2.2.2)
  · exact .intro (exec_panelCommand h) ⟨updLan_only _ _, if_pos h6⟩
  · have hsame : ((s.touch n).updLan fun x => if x.state = 6 then { x with state := 0, faults := [] } else x) = s.touch n :=
      congrArg (fun x => (s.touch n).updLan fun _ => x) (if_neg h6)
    exact (exec_panelCommand h).trans (by rw [hsame])
  · exact .intro (exec_panelOn hwf h hr hoff h0) ⟨((put_only _ _ _ _).mono (by decide)).next (lanUp_only _), rfl, rfl, lanTime_put (s := s.touch n) hwf _⟩
  · have hdown := lanDown_running (s := ((s.touch n).put 0x5C00 1 (.int 0)).updLan fun x => { x with again := false }) (.inr h4) hret
    exact .intro ((exec_panelOff h).trans (by rw [hdown]))
      ⟨(((put_only _ _ _ _).mono (by decide)).next (updLan_only _ _)).next (updLan_only _ _), rfl, rfl⟩
  · have hcond : ¬ ((!decide (s.lan.state = 2 ∨ s.lan.retraining = true)) = true ∨ s.lan.locked = true) := by simp [h, hl]
    exact .intro (congrArg Host.Outcome.next ((if_neg hcond).trans (if_pos rfl))) ⟨updLan_only s _, rfl⟩
  · have hcond : ¬ ((!decide (s.lan.state = 2 ∨ s.lan.retraining = true)) = true ∨ s.lan.locked = true) := by simp [h2, hl]
    have hdown := lanDown_starting (s := s.updLan fun x => { x with linkFault := true, failAt := s.tm.mono }) (.inr h2)
    exact .intro (congrArg Host.Outcome.next ((if_neg hcond).trans ((if_neg Bool.false_ne_true).trans hdown)))
      ⟨(updLan_only s _).trans (updLan_only _ _), rfl, rfl, rfl, rfl, rfl⟩
  · have hcond : (s.lan.state = 3 ∨ s.lan.state = 4 ∨ s.lan.state = 5 ∧ s.lan.down ≤ 2) ∧ (!s.lan.retraining) = true :=
      ⟨h.imp_right .inl, by rw [hret]; rfl⟩
    have h5 : ¬ s.lan.state = 5 := by omega
    exact .intro (congrArg Host.Outcome.next ((if_pos hcond).trans (if_neg h5))) ⟨updLan_only s _, rfl⟩
  · refine .intro (exec_vcomFault_set h2 h6 hno) ⟨((freeInt_only s).mono (by decide)).next (updLan_only _ _), rfl, ?_⟩
    exact (Int.toNat_lt (Int.emod_nonneg _ (by decide))).2 (Int.emod_lt_of_pos _ (by decide))
  · exact .intro (exec_vcomFault_clear h2 h6 hon) ⟨updLan_only s _, rfl⟩
  · exact .intro (congrArg Host.Outcome.next (if_pos hr)) ⟨updLan_only s _, rfl⟩

end Sys2Proof.Machine

/-! Proofs of the statement on the panel's lines, polarity, bands, blanking and overlay check (17). -/

namespace Sys2Proof.Machine

set_option Elab.async false

/-! ## Lines, polarity and bands (R377, R382–R384) -/

/-- In the overlay a subpixel is the overlay's, whatever was to be shown. -/
theorem sentSub_cover {x : Lantern} {n i : Nat} (h : inCover x n i = true) (old : Option Bytes) (b : Byte) : sentSub x n old i b =
    (rgb (coverPixel x.cover x.frameCount (i / 3 - x.cover.x) (n - x.cover.y))).getD (i % 3) 0#8 := if_pos h

/-- Outside the overlay, with no overdrive or no previous frame, a subpixel is sent as it is. -/
theorem sentSub_plain {x : Lantern} {n i : Nat} {old : Option Bytes} (h : inCover x n i = false) (hod : x.cfg.overdrive = false ∨ old = none)
    (b : Byte) : sentSub x n old i b = b := by
  unfold sentSub
  rw [if_neg (Bool.eq_false_iff.1 h)]
  rcases hod with hod | rfl
  · cases old with
    | none => rfl
    | some l => exact if_neg (Bool.eq_false_iff.1 hod)
  · rfl

theorem odd_succ (a b : Nat) (h : b = a + 1) : (b % 2 == 1) = !(a % 2 == 1) := by
  rcases Nat.mod_two_eq_zero_or_one a with h0 | h1
  · rw [show b % 2 = 1 by omega, h0]; rfl
  · rw [show b % 2 = 0 by omega, h1]; rfl

/-- The polarity of a subpixel changes from frame to frame in every mode. -/
theorem polarity_succ (m f x y : Nat) : polarity m (f + 1) x y = !polarity m f x y := by
  unfold polarity
  refine odd_succ _ _ ?_
  split <;> omega

theorem bandUp_stays {l : List Int} {t : Int} {b : Nat} (h : b < 3 → t < 10 * l.getD b 0 + 10) (n : Nat) : bandUp l t n b = b := by
  cases n with
  | zero => rfl
  | succ n => exact if_neg fun hb => Int.not_le.2 (h hb.1) hb.2

theorem bandDown_stays {l : List Int} {t : Int} {b : Nat} (h : 0 < b → 10 * l.getD (b - 1) 0 - 10 ≤ t) (n : Nat) : bandDown l t n b = b := by
  cases n with
  | zero => rfl
  | succ n => exact if_neg fun hb => Int.not_lt.2 (h hb.1) hb.2

/-- Within 1 °C of its thresholds a band stays. -/
theorem bandNext_stays {l : List Int} {t : Int} {b : Nat} (hdown : 0 < b → 10 * l.getD (b - 1) 0 - 10 ≤ t) (hup : b < 3 → t < 10 * l.getD b 0 + 10) :
    bandNext l t (some b) = b :=
  (congrArg (bandDown l t 3) (bandUp_stays hup 3)).trans (bandDown_stays hdown 3)

/-- What a line is to show. -/
def lineOf (px : Bytes) (x : Lantern) : Bytes :=
  if x.blackNow then List.replicate (3 * x.time.width) (byteOf x.cfg.black) else lineTarget x px

theorem sendLine_spec (n : Nat) (px : Bytes) (x : Lantern) : (sendLine n px x).packets.length = x.time.drivers ∧
    sendLine n px x = { x with packets := (sendLine n px x).packets, prev := (sendLine n px x).prev } ∧
    (sendLine n px x).prev.head? = some (n, lineOf px x) :=
  ⟨(List.length_map _).trans List.length_range, rfl, rfl⟩

/-! ## The end of a frame and the opening of the next (R375, R385) -/

/-- The frame that has ended was whole. -/
def frameWhole (x : BlankIn) (y : Lantern) : Bool := x.whole && !y.broken && !y.retraining

theorem endFrame_keep {α : Type} (whole : Bool) (y : Lantern) (p : Lantern → α) (hlost : ∀ y a, p { y with lost := a } = p y)
    (hret : ∀ y a, p { y with retraining := a } = p y) (hstate : ∀ y a b, p { y with state := a, blackDone := b } = p y)
    (hdown : ∀ y a, p { y with down := a } = p y) : p (endFrame whole y) = p y := by
  obtain ⟨y1, h1⟩ : ∃ y1, (if whole = true ∨ y.frameCount = 0 then y else { y with lost := inc32 y.lost }) = y1 := ⟨_, rfl⟩
  have hp1 : p y1 = p y := by
    rw [← h1]
    split
    · rfl
    · exact hlost y _
  obtain ⟨y2, h2⟩ : ∃ y2, (if y1.retraining = true ∧ y1.locked = true then { y1 with retraining := false } else y1) = y2 := ⟨_, rfl⟩
  have hp2 : p y2 = p y := by
    rw [← h2, ← hp1]
    split
    · exact hret y1 _
    · rfl
  unfold endFrame
  rw [h1]
  dsimp only
  rw [h2]
  split
  · exact (hstate y2 _ _).trans hp2
  · split
    · split
      · exact (hstate y2 _ _).trans hp2
      · exact (hstate y2 y2.state _).trans hp2
    · split
      · exact (hdown y2 _).trans hp2
      · exact hp2

/-- With the link in training once more out of the way, the frame's end is told by the panel's state. -/
theorem endFrame_eq {whole : Bool} {y : Lantern} (hret : y.retraining = false) : endFrame whole y =
    (let z := if whole ∨ y.frameCount = 0 then y else { y with lost := inc32 y.lost }
     if y.state = 2 ∧ y.locked then { z with state := 3, blackDone := 0 }
     else if y.state = 3 ∧ whole ∧ 0 < y.frameCount then
       (if y.cfg.blackFrames ≤ y.blackDone + 1 then { z with state := 4, blackDone := 0 } else { z with blackDone := y.blackDone + 1 })
     else if y.state = 5 ∧ y.down = 1 then { z with down := 2 }
     else z) := by
  unfold endFrame
  by_cases h : whole = true ∨ y.frameCount = 0
  · simp [h, hret]
  · simp [h, hret]

theorem openFrame_keep {α : Type} (stamp mono : Nat) (y : Lantern) (p : Lantern → α)
    (h : ∀ y a b c d e f, p { y with frameCount := a, frameStamp := b, broken := c, blackNow := d, backAt := e, packets := f } = p y) :
    p (openFrame stamp mono y) = p y := by
  unfold openFrame
  dsimp only
  split
  · exact h y _ _ _ _ _ _
  · exact h y _ _ _ _ y.backAt _

theorem endFrame_retraining {whole : Bool} {y : Lantern} (hret : y.retraining = false) : (endFrame whole y).retraining = false := by
  obtain ⟨z, hz⟩ : ∃ z, (if whole = true ∨ y.frameCount = 0 then y else { y with lost := inc32 y.lost }) = z := ⟨_, rfl⟩
  have hzret : z.retraining = false := by
    rw [← hz]
    split
    · exact hret
    · exact hret
  rw [endFrame_eq hret, hz]
  dsimp only
  split
  · exact hzret
  · split
    · split
      · exact hzret
      · exact hzret
    · split
      · exact hzret
      · exact hzret

/-- The blanking after the check of the frame that has ended, with the link up: R375. -/
def opened (x : BlankIn) (whole : Bool) (s : State) : State :=
  (blankLoad x (s.updLan (endFrame whole))).updLan (openFrame x.stamp s.tm.mono)

theorem opened_only (x : BlankIn) (whole : Bool) (s : State) : Only [.lan] s (opened x whole s) :=
  ((updLan_only s _).trans (updLan_only _ _)).trans (updLan_only _ _)

section
variable (x : BlankIn) (whole : Bool) (s : State)

theorem opened_state : (opened x whole s).lan.state = (endFrame whole s.lan).state := openFrame_keep _ _ _ Lantern.state fun _ _ _ _ _ _ _ => rfl

theorem opened_blackDone : (opened x whole s).lan.blackDone = (endFrame whole s.lan).blackDone :=
  openFrame_keep _ _ _ Lantern.blackDone fun _ _ _ _ _ _ _ => rfl

theorem opened_frame : (opened x whole s).lan.frameCount = (s.lan.frameCount + 1) % 2 ^ 32 ∧
    (opened x whole s).lan.frameStamp = x.stamp + blankNs s.lan.time ∧
    (opened x whole s).lan.blackNow = ((endFrame whole s.lan).state == 3 || (endFrame whole s.lan).down == 2) := by
  have hcount : (endFrame whole s.lan).frameCount = s.lan.frameCount :=
    endFrame_keep whole s.lan Lantern.frameCount (fun _ _ => rfl) (fun _ _ => rfl) (fun _ _ _ => rfl) fun _ _ => rfl
  have htime : (endFrame whole s.lan).time = s.lan.time :=
    endFrame_keep whole s.lan Lantern.time (fun _ _ => rfl) (fun _ _ => rfl) (fun _ _ _ => rfl) fun _ _ => rfl
  obtain ⟨y, hy⟩ : ∃ y, (blankLoad x (s.updLan (endFrame whole))).lan = y := ⟨_, rfl⟩
  have hstate : y.state = (endFrame whole s.lan).state := hy ▸ rfl
  have hdown : y.down = (endFrame whole s.lan).down := hy ▸ rfl
  have hyc : y.frameCount = s.lan.frameCount := hcount ▸ hy ▸ rfl
  have hyt : y.time = s.lan.time := htime ▸ hy ▸ rfl
  have hlan : (opened x whole s).lan = openFrame x.stamp s.tm.mono y := hy ▸ rfl
  rw [hlan, ← hstate, ← hdown, ← hyc, ← hyt]
  unfold openFrame
  dsimp only
  split
  · exact ⟨rfl, rfl, rfl⟩
  · exact ⟨rfl, rfl, rfl⟩

theorem opened_check : (opened x whole s).lan.check = s.lan.check :=
  (openFrame_keep _ _ _ Lantern.check fun _ _ _ _ _ _ _ => rfl).trans
    (endFrame_keep whole s.lan Lantern.check (fun _ _ => rfl) (fun _ _ => rfl) (fun _ _ _ => rfl) fun _ _ => rfl)

/-- What the blanking loads and takes over. -/
theorem opened_loads : (opened x whole s).lan.cfg = lanLoad s ∧ (opened x whole s).lan.swap = false ∧
    (opened x whole s).lan.front = (if s.lan.swap then !s.lan.front else s.lan.front) ∧
    (opened x whole s).lan.swapped = (s.lan.swapped || s.lan.swap) ∧ (opened x whole s).lan.ptempFault = x.temp.isNone := by
  obtain ⟨y, hy⟩ : ∃ y, endFrame whole s.lan = y := ⟨_, rfl⟩
  have hswap : y.swap = s.lan.swap := hy ▸ endFrame_keep whole s.lan Lantern.swap (fun _ _ => rfl) (fun _ _ => rfl) (fun _ _ _ => rfl) fun _ _ => rfl
  have hfront : y.front = s.lan.front :=
    hy ▸ endFrame_keep whole s.lan Lantern.front (fun _ _ => rfl) (fun _ _ => rfl) (fun _ _ _ => rfl) fun _ _ => rfl
  have hswapped : y.swapped = s.lan.swapped :=
    hy ▸ endFrame_keep whole s.lan Lantern.swapped (fun _ _ => rfl) (fun _ _ => rfl) (fun _ _ _ => rfl) fun _ _ => rfl
  rw [← hswap, ← hfront, ← hswapped, ← hy]
  refine ⟨?_, ?_, ?_, ?_, ?_⟩
  · exact openFrame_keep _ _ _ Lantern.cfg fun _ _ _ _ _ _ _ => rfl
  · exact openFrame_keep _ _ _ Lantern.swap fun _ _ _ _ _ _ _ => rfl
  · exact openFrame_keep _ _ _ Lantern.front fun _ _ _ _ _ _ _ => rfl
  · exact openFrame_keep _ _ _ Lantern.swapped fun _ _ _ _ _ _ _ => rfl
  · exact openFrame_keep _ _ _ Lantern.ptempFault fun _ _ _ _ _ _ _ => rfl

/-- The panel temperature and the band, with a reading and without one. -/
theorem opened_band : (∀ c, x.temp = some c → (opened x whole s).lan.temp = c ∧
    (opened x whole s).lan.band = some (bandNext s.lan.cfg.bands c s.lan.band)) ∧
    (x.temp = none → (opened x whole s).lan.band = some s.lan.cfg.faultBand) := by
  obtain ⟨y, hy⟩ : ∃ y, endFrame whole s.lan = y := ⟨_, rfl⟩
  have hcfg : y.cfg = s.lan.cfg := hy ▸ endFrame_keep whole s.lan Lantern.cfg (fun _ _ => rfl) (fun _ _ => rfl) (fun _ _ _ => rfl) fun _ _ => rfl
  have hband : y.band = s.lan.band := hy ▸ endFrame_keep whole s.lan Lantern.band (fun _ _ => rfl) (fun _ _ => rfl) (fun _ _ _ => rfl) fun _ _ => rfl
  have htemp : (opened x whole s).lan.temp = x.temp.getD y.temp := by
    rw [← hy]
    exact openFrame_keep _ _ _ Lantern.temp fun _ _ _ _ _ _ _ => rfl
  have hnext : (opened x whole s).lan.band = (blankLoad x (s.updLan (endFrame whole))).lan.band :=
    openFrame_keep _ _ _ Lantern.band fun _ _ _ _ _ _ _ => rfl
  refine ⟨fun c hc => ⟨by rw [htemp, hc]; rfl, ?_⟩, fun hc => ?_⟩
  · rw [hnext, ← hcfg, ← hband, ← hy]
    unfold blankLoad
    rw [hc]
    rfl
  · rw [hnext, ← hcfg, ← hy]
    unfold blankLoad
    rw [hc]
    rfl
end

/-! ## The overlay check (R387, R388) -/

/-- The state after the check of the frame that has ended, where one is due. -/
def checked4 (x : BlankIn) (s : State) : State :=
  if s.lan.state = 4 ∧ s.lan.cover.on ∧ !s.lan.blackNow then
    checkFrame (frameWhole x s.lan && x.crcRead == coverCrc s.lan.cover s.lan.frameCount) (coverCrc s.lan.cover s.lan.frameCount) x.crcRead s
  else s

/-- A frame that fails counts; the fault that it raises is recorded. -/
theorem checkFrame_failed {s : State} (e r : Nat) : checkFrame false e r s =
    (if (!s.lan.check.fault && decide (s.lan.cover.failFrames ≤ s.lan.check.fails + 1)) = true then
      (s.updLan fun x => { x with check := { fails := s.lan.check.fails + 1, passes := 0, failCount := inc32 s.lan.check.failCount, fault :=
        s.lan.check.fault || (!s.lan.check.fault && decide (s.lan.cover.failFrames ≤ s.lan.check.fails + 1)) } }).record
          ⟨0xD001, 0, 3, leBytes 4 e ++ leBytes 4 r, [], 0xFFFFFFFF, 0xF⟩
    else s.updLan fun x => { x with check := { fails := s.lan.check.fails + 1, passes := 0, failCount := inc32 s.lan.check.failCount, fault :=
        s.lan.check.fault || (!s.lan.check.fault && decide (s.lan.cover.failFrames ≤ s.lan.check.fails + 1)) } }) := rfl

/-- The check changes the check alone, and Flowstone by its record. -/
theorem checkFrame_keep {α : Type} (passed : Bool) (e r : Nat) (s : State) (p : Lantern → α) (hp : ∀ y c, p { y with check := c } = p y) :
    p (checkFrame passed e r s).lan = p s.lan := by
  cases passed with
  | true => exact hp _ _
  | false =>
    rw [checkFrame_failed]
    split
    · rw [State.record_lan]
      exact hp _ _
    · exact hp _ _

theorem checked4_keep {α : Type} (x : BlankIn) (s : State) (p : Lantern → α) (hp : ∀ y c, p { y with check := c } = p y) :
    p (checked4 x s).lan = p s.lan := by
  unfold checked4
  split
  · exact checkFrame_keep _ _ _ s p hp
  · rfl

theorem blanking_opens {x : BlankIn} {s : State} (hret : s.lan.retraining = false) (h5 : ¬ (s.lan.state = 5 ∧ s.lan.down = 2)) :
    blanking x s = opened x (frameWhole x s.lan) (checked4 x s) := by
  have hret' : (checked4 x s).lan.retraining = false := (checked4_keep x s Lantern.retraining fun _ _ => rfl).trans hret
  have hno : ¬ (blankLoad x ((checked4 x s).updLan (endFrame (frameWhole x s.lan)))).lan.retraining = true :=
    Bool.eq_false_iff.1 (endFrame_retraining hret')
  exact (if_neg h5).trans (if_neg hno)

/-! ## The statement -/

section
variable {s : State} {x : BlankIn}

theorem exec_blanking (h : s.lan.state = 2 ∧ s.lan.locked = true ∨ s.lan.state = 3 ∨ s.lan.state = 4 ∨ s.lan.state = 5 ∧ s.lan.down ≤ 2) :
    exec (.verticalBlanking x) s = .next (blanking x s) := congrArg Host.Outcome.next (if_pos h)

/-- A blanking outside the overlay check. -/
theorem exec_blanking_unchecked (h : s.lan.state = 2 ∧ s.lan.locked = true ∨ s.lan.state = 3 ∨ s.lan.state = 4) (hret : s.lan.retraining = false)
    (hoff : s.lan.state = 4 → s.lan.cover.on = false) : exec (.verticalBlanking x) s = .next (opened x (frameWhole x s.lan) s) := by
  have h5 : ¬ (s.lan.state = 5 ∧ s.lan.down = 2) := by omega
  have hno : checked4 x s = s := if_neg fun hb => Bool.false_ne_true ((hoff hb.1).symm.trans hb.2.1)
  refine (exec_blanking (h.imp_right (Or.imp_right .inl))).trans ?_
  rw [blanking_opens hret h5, hno]

/-- A blanking with the overlay check. -/
theorem exec_blanking_checked (h4 : s.lan.state = 4) (hret : s.lan.retraining = false) (hon : s.lan.cover.on = true) (hblack : s.lan.blackNow = false)
    {passed : Bool} (hp : (frameWhole x s.lan && x.crcRead == coverCrc s.lan.cover s.lan.frameCount) = passed) : exec (.verticalBlanking x) s =
      .next (opened x (frameWhole x s.lan) (checkFrame passed (coverCrc s.lan.cover s.lan.frameCount) x.crcRead s)) := by
  have h5 : ¬ (s.lan.state = 5 ∧ s.lan.down = 2) := by omega
  have hyes : checked4 x s = checkFrame passed (coverCrc s.lan.cover s.lan.frameCount) x.crcRead s := by
    rw [← hp]
    exact if_pos ⟨h4, hon, by rw [hblack]; rfl⟩
  refine (exec_blanking (.inr (.inr (.inl h4)))).trans ?_
  rw [blanking_opens hret h5, hyes]

/-- The check fails on a frame that was not whole or whose overlay reads otherwise. -/
theorem check_fails
    (h : x.whole = false ∨ s.lan.broken = true ∨ x.crcRead ≠ coverCrc s.lan.cover s.lan.frameCount) :
    (frameWhole x s.lan && x.crcRead == coverCrc s.lan.cover s.lan.frameCount) = false := by
  unfold frameWhole
  rcases h with h | h | h
  · rw [h]; rfl
  · rw [h, Bool.not_true, Bool.and_false]; rfl
  · rw [beq_eq_false_iff_ne.2 h, Bool.and_false]

theorem endFrame_locked {whole : Bool} {y : Lantern} (h2 : y.state = 2) (hl : y.locked = true) (hret : y.retraining = false) :
    (endFrame whole y).state = 3 ∧ (endFrame whole y).blackDone = 0 := by
  rw [endFrame_eq hret]
  dsimp only
  rw [if_pos ⟨h2, hl⟩]
  exact ⟨rfl, rfl⟩

theorem endFrame_black {y : Lantern} (h3 : y.state = 3) (hc : 0 < y.frameCount) (hret : y.retraining = false) :
    (endFrame true y).state = if y.cfg.blackFrames ≤ y.blackDone + 1 then 4 else 3 := by
  have h2 : ¬ (y.state = 2 ∧ y.locked = true) := by omega
  have hlost : (if true = true ∨ y.frameCount = 0 then y else { y with lost := inc32 y.lost }) = y := if_pos (.inl rfl)
  rw [endFrame_eq hret, hlost]
  dsimp only
  rw [if_neg h2, if_pos ⟨h3, rfl, hc⟩]
  split
  · rfl
  · exact h3

theorem endFrame_shown {whole : Bool} {y : Lantern} (h4 : y.state = 4) (hret : y.retraining = false) : (endFrame whole y).state = 4 := by
  have h2 : ¬ (y.state = 2 ∧ y.locked = true) := by omega
  have h3 : ¬ (y.state = 3 ∧ whole = true ∧ 0 < y.frameCount) := by omega
  have h5 : ¬ (y.state = 5 ∧ y.down = 1) := by omega
  rw [endFrame_eq hret]
  dsimp only
  rw [if_neg h2, if_neg h3, if_neg h5]
  split
  · exact h4
  · exact h4
end

/-- Settles O52: what a line shows, how polarity and band go on, and what each blanking leaves by the panel's state. -/
theorem panelFrames : Obligations.PanelFrames := by
  refine ⟨fun s n px h hret hc hn hpx => ?_, fun s n px h => ?_, fun x n i old old' b b' h => ?_, fun x n i b h hod => ?_, fun m f x y => polarity_succ m f x y,
    fun T1 T2 T3 t b _ hdown hup => bandNext_stays hdown hup, fun s x h => ?_, fun s x h2 hl hret => ?_, fun s x h3 hret hb hw hc => ?_,
    fun s x h4 hret hoff => ?_, fun s x h4 hret hb hon hblack hw hcrc => ?_, fun s x h4 hret hon hblack hfail hno hmany => ?_,
    fun s x h4 hret hon hblack hfail hstill => ?_, fun s x h5 hd => ?_⟩
  · obtain ⟨hlen, heq, hhead⟩ := sendLine_spec n px s.lan
    refine .intro (congrArg Host.Outcome.next (if_pos ⟨h.imp_right .inl, by rw [hret]; rfl, hc, hn, hpx⟩)) ⟨updLan_only s _, hlen, heq, _, hhead, ?_, ?_⟩
    · intro hblack hswap
      exact (if_neg (Bool.eq_false_iff.1 hblack)).trans (if_pos hswap)
    · intro hblack
      exact if_pos hblack
  · refine congrArg Host.Outcome.next (if_neg fun hb => ?_)
    obtain ⟨hstate, hret, -⟩ := hb
    rcases h with h | h | h
    · omega
    · omega
    · rw [h] at hret
      exact Bool.false_ne_true hret
  · rw [sentSub_cover h, sentSub_cover h]
  · exact sentSub_plain h (hod.imp_right fun hprev => by rw [hprev]; rfl) b
  · exact congrArg Host.Outcome.next (if_neg (by omega))
  · obtain ⟨hs, hd⟩ := endFrame_locked (whole := frameWhole x s.lan) h2 hl hret
    obtain ⟨hcount, -, hblack⟩ := opened_frame x (frameWhole x s.lan) s
    refine .intro (exec_blanking_unchecked (.inl ⟨h2, hl⟩) hret (by omega)) ⟨opened_only x _ s, ?_, ?_, ?_, hcount⟩
    · rw [opened_state, hs]
    · rw [opened_blackDone, hd]
    · rw [hblack, hs]; rfl
  · have hwhole : frameWhole x s.lan = true := by unfold frameWhole; rw [hw, hb, hret]; rfl
    obtain ⟨hcount, -, -⟩ := opened_frame x (frameWhole x s.lan) s
    refine .intro (exec_blanking_unchecked (.inr (.inl h3)) hret (by omega)) ⟨opened_only x _ s, ?_, hcount⟩
    rw [opened_state, hwhole, endFrame_black h3 hc hret]
  · obtain ⟨hcount, hstamp, -⟩ := opened_frame x (frameWhole x s.lan) s
    obtain ⟨hcfg, hswap, hfront, hswapped, htemp⟩ := opened_loads x (frameWhole x s.lan) s
    obtain ⟨hread, hnone⟩ := opened_band x (frameWhole x s.lan) s
    exact .intro (exec_blanking_unchecked (.inr (.inr h4)) hret fun _ => hoff)
      ⟨opened_only x _ s, (opened_state x _ s).trans (endFrame_shown h4 hret), hcount, hstamp, hcfg, hswap, hfront, hswapped, htemp, hread, hnone,
        opened_check x _ s⟩
  · have hwhole : frameWhole x s.lan = true := by unfold frameWhole; rw [hw, hb, hret]; rfl
    have hp : (frameWhole x s.lan && x.crcRead == coverCrc s.lan.cover s.lan.frameCount) = true := by rw [hwhole, beq_iff_eq.2 hcrc]; rfl
    have hcheck := opened_check x (frameWhole x s.lan) (checkFrame true (coverCrc s.lan.cover s.lan.frameCount) x.crcRead s)
    refine .intro (exec_blanking_checked h4 hret hon hblack hp) ⟨((updLan_only s _ : Only [.lan] s (checkFrame true _ _ s))).trans (opened_only x _ _), ?_⟩
    rw [hcheck]
    exact ⟨rfl, rfl, rfl, rfl⟩
  · obtain ⟨u, hu⟩ : ∃ u, (s.updLan fun y => { y with check :=
      { fails := s.lan.check.fails + 1, passes := 0, failCount := inc32 s.lan.check.failCount, fault := true } }) = u := ⟨_, rfl⟩
    obtain ⟨e, he⟩ : ∃ e : FlowEv, (⟨0xD001, 0, 3, leBytes 4 (coverCrc s.lan.cover s.lan.frameCount) ++ leBytes 4 x.crcRead, [],
      0xFFFFFFFF, 0xF⟩ : FlowEv) = e := ⟨_, rfl⟩
    have hraise : (!s.lan.check.fault && decide (s.lan.cover.failFrames ≤ s.lan.check.fails + 1)) = true := by rw [hno, decide_eq_true hmany]; rfl
    have hstate : checkFrame false (coverCrc s.lan.cover s.lan.frameCount) x.crcRead s = u.record e := by
      rw [checkFrame_failed, if_pos hraise, hraise, Bool.or_true, hu, he]
    have huonly : Only [.lan] s u := hu ▸ updLan_only s _
    have hopen := opened_only x (frameWhole x s.lan) (u.record e)
    rw [he]
    refine .intro ((exec_blanking_checked h4 hret hon hblack (check_fails hfail)).trans (by rw [hstate]))
      ⟨((huonly.mono (by decide)).next (record_only u e)).next hopen, ?_, ?_⟩
    · rw [opened_check, State.record_lan, ← hu]
      rfl
    · exact ((Recorded.self u e).base huonly.flow huonly.pw huonly.dict (by rw [huonly.tm]) (by rw [huonly.tm])).of_flow hopen.flow
  · have hraise : ¬ (!s.lan.check.fault && decide (s.lan.cover.failFrames ≤ s.lan.check.fails + 1)) = true := by
      intro hb
      obtain ⟨hno, hmany⟩ := Bool.and_eq_true_iff.1 hb
      rcases hstill with hf | hlt
      · rw [hf] at hno
        exact Bool.false_ne_true hno
      · exact Nat.not_le.2 hlt (of_decide_eq_true hmany)
    have hstate : checkFrame false (coverCrc s.lan.cover s.lan.frameCount) x.crcRead s = s.updLan fun y => { y with check :=
        { s.lan.check with fails := s.lan.check.fails + 1, passes := 0, failCount := inc32 s.lan.check.failCount } } := by
      rw [checkFrame_failed, if_neg hraise, Bool.eq_false_iff.2 hraise, Bool.or_false]
    refine .intro ((exec_blanking_checked h4 hret hon hblack (check_fails hfail)).trans (by rw [hstate]))
      ⟨(updLan_only s _).trans (opened_only x _ _), opened_check x _ _⟩
  · have hcheck : ¬ (s.lan.state = 4 ∧ s.lan.cover.on = true ∧ (!s.lan.blackNow) = true) := by omega
    have hb : blanking x s = lanDischarge s.lan.cfg.discharge (s.updLan fun z => if frameWhole x s.lan then z else { z with lost := inc32 z.lost }) := by
      refine (if_pos ⟨h5, hd⟩).trans ?_
      show lanDischarge _ (State.updLan (if s.lan.state = 4 ∧ s.lan.cover.on = true ∧ (!s.lan.blackNow) = true then _ else s) _) = _
      rw [if_neg hcheck]
      rfl
    exact .intro ((exec_blanking (.inr (.inr (.inr ⟨h5, by omega⟩)))).trans (congrArg Host.Outcome.next hb))
      ⟨(updLan_only s _).trans (lanDischarge_only _ _), rfl, rfl, rfl⟩

end Sys2Proof.Machine

/-! Proofs of the statement on Store, persistent writes, the three copies, the persistence window and the calibration fuse (15). -/

namespace Sys2Proof.Machine

set_option Elab.async false

/-! ## The list of targets (R352) -/

section
variable {l : List Target} {layer key : Nat}

theorem findTarget_names {t : Target} (h : findTarget l layer key = some t) : t.layer = layer ∧ t.key = key := by
  obtain ⟨hlayer, hkey⟩ := Bool.and_eq_true_iff.1 (List.find?_some (p := fun t : Target => t.layer == layer && t.key == key) h)
  exact ⟨beq_iff_eq.1 hlayer, beq_iff_eq.1 hkey⟩

/-- A target that is stored is found. -/
theorem findTarget_put {t : Target} (hl : t.layer = layer) (hk : t.key = key) : findTarget (putTarget l t) layer key = some t := by
  subst hl hk
  have hself : (t.layer == t.layer && t.key == t.key) = true := by simp
  unfold findTarget putTarget
  split
  next h =>
    rw [List.find?_map, Option.map_eq_some_iff]
    obtain ⟨x, hx, hp⟩ := List.any_eq_true.1 h
    have hsome : (l.find? ((fun y : Target => y.layer == t.layer && y.key == t.key) ∘ fun y => if (y.layer == t.layer && y.key == t.key) = true
        then t else y)).isSome = true :=
      List.find?_isSome.2 ⟨x, hx, by simp only [Function.comp, hp, if_true, hself]⟩
    obtain ⟨y, hy⟩ := Option.isSome_iff_exists.1 hsome
    refine ⟨y, hy, if_pos ?_⟩
    have hcond := List.find?_some hy
    by_cases hyt : (y.layer == t.layer && y.key == t.key) = true
    · exact hyt
    · simpa only [Function.comp, if_neg hyt] using hcond
  next h =>
    have hnone : l.find? (fun y => y.layer == t.layer && y.key == t.key) = none :=
      List.find?_eq_none.2 fun y hy hp => h (List.any_eq_true.2 ⟨y, hy, hp⟩)
    rw [List.find?_append, hnone, Option.none_or]
    exact List.find?_cons_of_pos hself

/-- A target that takes the place of its namesakes is no other one's. -/
theorem find_replaced {t : Target} (hno : (t.layer == layer && t.key == key) = false) :
    findTarget (l.map fun y => if y.layer == t.layer && y.key == t.key then t else y) layer key = findTarget l layer key := by
  induction l with
  | nil => rfl
  | cons y l ih =>
    unfold findTarget at ih ⊢
    rw [List.map_cons, List.find?_cons, List.find?_cons, ih]
    by_cases hyt : (y.layer == t.layer && y.key == t.key) = true
    · obtain ⟨h1, h2⟩ := Bool.and_eq_true_iff.1 hyt
      rw [if_pos hyt, hno, beq_iff_eq.1 h1, beq_iff_eq.1 h2, hno]
    · rw [if_neg hyt]

/-- Storing a target leaves every other one as it is found. -/
theorem findTarget_put_ne {t : Target} (h : ¬ (layer = t.layer ∧ key = t.key)) : findTarget (putTarget l t) layer key = findTarget l layer key := by
  have hno : (t.layer == layer && t.key == key) = false := by
    refine Bool.eq_false_iff.2 fun hb => h ?_
    obtain ⟨h1, h2⟩ := Bool.and_eq_true_iff.1 hb
    exact ⟨(beq_iff_eq.1 h1).symm, (beq_iff_eq.1 h2).symm⟩
  unfold putTarget
  split
  next => exact find_replaced hno
  next =>
    unfold findTarget
    rw [List.find?_append, List.find?_cons, hno, List.find?_nil, Option.or_none]
end

/-- A write of copies keeps what the target is. -/
theorem writeCopies_names (t : Target) (v : Val) (a b c : Bool) : (writeCopies t v a b c).layer = t.layer ∧ (writeCopies t v a b c).key = t.key := by
  unfold writeCopies
  dsimp only
  split
  · exact ⟨rfl, rfl⟩
  · exact ⟨rfl, rfl⟩

/-- Three copies that verify give the value that was written. -/
theorem writeCopies_used (t : Target) (v : Val) : (writeCopies t v true true true).used = some v := rfl

/-! ## Persistent writes (R349, R352, R356) -/

/-- The target of a layer and key, or a new one. -/
def targetOf (l : List Target) (layer key : Nat) : Target := (findTarget l layer key).getD ⟨layer, key, none, none, none, 0⟩

theorem targetOf_names (l : List Target) (layer key : Nat) : (targetOf l layer key).layer = layer ∧ (targetOf l layer key).key = key := by
  unfold targetOf
  cases h : findTarget l layer key with
  | none => exact ⟨rfl, rfl⟩
  | some t => exact findTarget_names h

/-- The list of targets after one write. -/
def putCopies (layer key : Nat) (v : Val) (a b c : Bool) (l : List Target) : List Target := putTarget l (writeCopies (targetOf l layer key) v a b c)

section
variable (layer key : Nat) (v : Val) (a b c : Bool) (l : List Target)

theorem findTarget_putCopies : findTarget (putCopies layer key v a b c l) layer key = some (writeCopies (targetOf l layer key) v a b c) := by
  obtain ⟨hl, hk⟩ := targetOf_names l layer key
  obtain ⟨hwl, hwk⟩ := writeCopies_names (targetOf l layer key) v a b c
  exact findTarget_put (hwl.trans hl) (hwk.trans hk)

theorem findTarget_putCopies_ne {m k : Nat} (h : ¬ (m = layer ∧ k = key)) :
    findTarget (putCopies layer key v a b c l) m k = findTarget l m k := by
  obtain ⟨hl, hk⟩ := targetOf_names l layer key
  obtain ⟨hwl, hwk⟩ := writeCopies_names (targetOf l layer key) v a b c
  exact findTarget_put_ne (by rwa [hwl.trans hl, hwk.trans hk])
end

section
variable {s : State} {layer key : Nat} {v : Val} {a b c : Bool}

theorem commitWith_only (layer key : Nat) (v : Val) (a b c : Bool) (s : State) : Only [.per] s (commitWith layer key v a b c s) := updPer_only s _

theorem commitWith_plain (h : layer = 1 → safetyKey (key / 256) (key % 256) = false) :
    commitWith layer key v a b c s = s.updPer fun p => { p with targets := putCopies layer key v a b c p.targets } := by
  have hno : ¬ (layer = 1 ∧ safetyKey (key / 256) (key % 256) = true) := fun hb => Bool.false_ne_true ((h hb.1).symm.trans hb.2)
  exact congrArg (fun l => s.updPer fun p => { p with targets := l }) (if_neg hno)

theorem commitWith_safety (h : safetyKey (key / 256) (key % 256) = true) :
    commitWith 1 key v a b c s = s.updPer fun p => { p with targets := putCopies 3 key v a b c (putCopies 1 key v a b c p.targets) } :=
  congrArg (fun l => s.updPer fun p => { p with targets := l }) (if_pos ⟨rfl, h⟩)

theorem persistent_next {t : State} (h1 : 1 ≤ layer) (h3 : layer ≤ 3) (h : s = t) :
    withUnit (decide (1 ≤ layer) && decide (layer ≤ 3)) s = .next t := by
  rw [← h]
  exact withUnit_next (by rw [decide_eq_true h1, decide_eq_true h3]; rfl)

/-- With no Store running a persistent write is a write of its copies. -/
theorem exec_persistentWrite (h1 : 1 ≤ layer) (h3 : layer ≤ 3) (hr : s.reachable = true) (hno : s.per.store = none) :
    exec (.persistentWrite layer key v a b c) s = .next (commitWith layer key v a b c s) := by
  have hstore : (commitWith layer key v a b c s).per.store = none := hno
  refine persistent_next h1 h3 ((if_neg (by simp [hr])).trans ?_)
  dsimp only
  rw [hstore]

/-- A write that fails in two copies answers the session whose Store wrote it. -/
theorem exec_persistentWrite_lost {n : Nat} {x : Val} (hr : s.reachable = true) (hs : s.per.store = some (n, [(key, x)])) :
    exec (.persistentWrite 1 key v false false true) s = .next
      (((commitWith 1 key v false false true s).updSess n fun y => { y with answer := Abort.notCommitted }).updPer fun p =>
        { p with store := some (n, []) }) := by
  have hstore : (commitWith 1 key v false false true s).per.store = some (n, [(key, x)]) := hs
  have hin : (1 = 1 ∧ ([(key, x)].any fun e => e.1 == key) = true) := ⟨rfl, by simp⟩
  have hout : [(key, x)].filter (fun e => e.1 != key) = [] := by simp
  refine persistent_next (Nat.le_refl 1) (by decide) ((if_neg (by simp [hr])).trans ?_)
  dsimp only
  rw [hstore]
  dsimp only
  rw [if_pos hin, hout]
  rfl

theorem finishStore_only (s : State) : Only [.per] s (finishStore s) := by
  unfold finishStore
  split
  · exact .refl _ _
  next l _ =>
    have hstep : ∀ (u : State) (e : Nat × Val), Only [.per] u (commitWith 1 e.1 e.2 true true true u) := fun u e => commitWith_only 1 e.1 e.2 _ _ _ u
    exact (Only.foldl [.per] (fun u (e : Nat × Val) => commitWith 1 e.1 e.2 true true true u) hstep l s).trans (updPer_only _ _)

theorem finishStore_store (s : State) : (finishStore s).per.store = none := by
  unfold finishStore
  split
  next h => exact h
  next => rfl
end

/-! ## Table 15-11 (R353) -/

section
variable {t : Target} {x y z : Copy}

theorem goodCopy_ok (h : x.ok = true) : goodCopy (some x) = some x := if_pos h

theorem resolve_three (ha : t.a = some x) (hb : t.b = some y) (hc : t.c = some z) (hx : x.ok = true) (hy : y.ok = true) (hz : z.ok = true) :
    [t.a, t.b, t.c].filterMap goodCopy = [x, y, z] := by
  rw [ha, hb, hc]
  simp [goodCopy_ok hx, goodCopy_ok hy, goodCopy_ok hz]

theorem resolve_agree (ha : t.a = some x) (hb : t.b = some x) (hc : t.c = some x) (hx : x.ok = true) :
    (resolveCopies t).state = 0 ∧ (resolveCopies t).used = some x.value := by
  have hres : resolveCopies t = { t with state := 0 } := by
    unfold resolveCopies
    rw [resolve_three ha hb hc hx hx hx]
    simp
  rw [hres]
  refine ⟨rfl, ?_⟩
  unfold Target.used
  simp [ha, hx]

theorem resolve_differ (ha : t.a = some x) (hb : t.b = some y) (hc : t.c = some z) (hx : x.ok = true) (hy : y.ok = true) (hz : z.ok = true)
    (hxy : x.gen ≠ y.gen) (hyz : y.gen ≠ z.gen) (hxz : x.gen ≠ z.gen) : (resolveCopies t).state = 2 ∧ (resolveCopies t).used = none := by
  have hres : resolveCopies t = { t with state := 2 } := by
    unfold resolveCopies
    rw [resolve_three ha hb hc hx hy hz]
    simp [hxy, hyz, hxz]
  rw [hres]
  exact ⟨rfl, rfl⟩

theorem resolve_older (ha : t.a = some x) (hb : t.b = some y) (hc : t.c = none) (hx : x.ok = true) (hy : y.ok = true) (hgen : y.gen < x.gen) :
    (resolveCopies t).state = 4 ∧ (resolveCopies t).used = some y.value := by
  have hgood : [t.a, t.b, t.c].filterMap goodCopy = [x, y] := by
    have hnone : goodCopy none = none := rfl
    rw [ha, hb, hc]
    simp [goodCopy_ok hx, goodCopy_ok hy, hnone]
  have hres : resolveCopies t = t.all y 4 := by
    unfold resolveCopies
    rw [hgood]
    simp [Nat.ne_of_gt hgen, hgen]
  rw [hres]
  refine ⟨rfl, ?_⟩
  unfold Target.used Target.all
  simp [hy]
end

/-! ## The persistence window and the fuse (R348, R355) -/

/-- An admitted write is answered with what the chapter makes of it for the session's role and number. -/
theorem admitted_answer {s : State} {n i sub : Nat} {v : Val} {w : Ctx → State → Except Nat State} (h : s.admits n i sub v) :
    s.asSession n i (fun c s => checked c i sub v s (w c)) = .next ((s.touch n).answer n (w (s.ctxOf n) (s.touch n))) :=
  (serve_ok h.serves).trans (congrArg (fun e => Host.Outcome.next ((s.touch n).answer n e)) (checked_admitted h _))

section
variable {s : State} {n : Nat}

theorem exec_storeWrite {v : Int} (h : s.admits n 0x1010 1 (.int v)) : exec (.store n v) s = .next ((s.touch n).answer n
    (if v ≠ 0x65766173 then .error Abort.order
      else if s.per.store.isSome then .error Abort.state
      else .ok ((s.touch n).updPer fun p => { p with store := some (n, storeList (s.sessOf n).role (s.touch n)) }))) := by
  show s.asSession n 0x1010 (fun w => storeWrite w 0x1010 1 (.int v)) = _
  exact (admitted_answer h).trans rfl

theorem exec_restoreWrite {v : Int} (h : s.admits n 0x1011 1 (.int v)) : exec (.restoreDefaults n v) s = .next ((s.touch n).answer n
    (if v ≠ 0x64616F6C then .error Abort.order else .ok ((s.touch n).updPer fun p => { p with restore := true }))) := by
  show s.asSession n 0x1011 (fun w => storeWrite w 0x1011 1 (.int v)) = _
  exact (admitted_answer h).trans rfl

theorem exec_snapshot (h : s.admits n 0x2140 3 (.int 1)) : exec (.persistSnapshot n 1) s = .next ((persistSnapshot n (s.touch n)).ack n) := by
  show s.asSession n 0x2140 (fun w => windowWrite w 0x2140 3 (.int 1)) = _
  exact (admitted_answer h).trans rfl

theorem exec_confirm {v : Int} (h : s.admits n 0x2140 0xB (.int v)) :
    exec (.confirmCommand n v) s = .next ((s.touch n).answer n (confirm n v.toNat (s.touch n))) := by
  show s.asSession n 0x2140 (fun w => windowWrite w 0x2140 0xB (.int v)) = _
  exact (admitted_answer h).trans rfl

/-- The snapshot tells whether the target is held, may be held, or is none. -/
theorem persistSnapshot_result (hopen : (s.sessOf n).opened = true) : Only [.serv] s (persistSnapshot n s) ∧
    ((persistSnapshot n s).sessOf n).win.persistResult =
      (match findTarget s.per.targets (s.sessOf n).win.persistLayer (s.sessOf n).win.persistTarget with
        | some _ => 0
        | none => if mayPersist (s.sessOf n).win.persistLayer (s.sessOf n).win.persistTarget then 1 else 2) := by
  unfold persistSnapshot
  dsimp only
  cases h : findTarget s.per.targets (s.sessOf n).win.persistLayer (s.sessOf n).win.persistTarget with
  | none => exact ⟨updWin_only s n _, congrArg SessWin.persistResult (updWin_win hopen)⟩
  | some t => exact ⟨updWin_only s n _, congrArg SessWin.persistResult (updWin_win hopen)⟩

/-- A confirmation of copy A of a target of the Column. -/
theorem confirm_columnA {x : Target} {u : Copy} (hl : (s.sessOf n).win.persistLayer = 3)
    (hx : findTarget s.per.targets 3 (s.sessOf n).win.persistTarget = some x) (hbad : x.state = 2 ∨ x.state = 6) (ha : x.a = some u)
    (hok : u.ok = true) : confirm n 1 s = .ok (s.updPer fun p =>
      { p with targets := putTarget p.targets { writeCopies x u.value true true true with state := 3 } }) := by
  have hno : ¬ (x.state ≠ 2 ∧ x.state ≠ 6) := fun hb => hbad.elim hb.1 hb.2
  unfold confirm
  dsimp only
  rw [hl, hx]
  dsimp only
  rw [if_neg hno, ha, goodCopy_ok hok]
  rfl

theorem confirm_resolved {x : Target} {v : Nat} (hx : findTarget s.per.targets (s.sessOf n).win.persistLayer (s.sessOf n).win.persistTarget = some x)
    (h2 : x.state ≠ 2) (h6 : x.state ≠ 6) : confirm n v s = .error Abort.state := by
  unfold confirm
  dsimp only
  rw [hx]
  exact if_pos ⟨h2, h6⟩
end

/-- Settles O53: what each command of persistence leaves in the lists of targets, and the rows of Table 15-11 by what the copies hold. -/
theorem persistence : Obligations.Persistence := by
  refine ⟨fun s n h hno => ?_, fun s n h hrun => ?_, fun s n v h hv => ?_, fun s n key x hr hs hsafe hnew => ?_, fun s hr => ?_, fun s hr => ?_,
    fun s n h => ?_, fun s n v h hv => ?_, fun s layer key v a b c h1 h3 hr hno hsafe => ?_, fun s key v hr hno hsafe => ?_,
    fun s n key x v hr hs => ?_, fun s layer key v a b c h1 h3 hr => ?_, fun s n h => ?_, fun s n x u h hl hx hbad ha hok => ?_,
    fun s n v x h hx h2 h6 => ?_, fun s n v h hf => ?_, fun s n v h hf => ?_, fun t x ha hb hc hx => resolve_agree ha hb hc hx,
    fun t x y z ha hb hc hx hy hz hxy hyz hxz => resolve_differ ha hb hc hx hy hz hxy hyz hxz,
    fun t x y ha hb hc hx hy hgen => resolve_older ha hb hc hx hy hgen⟩
  · have hok : ¬ s.per.store.isSome = true := by rw [hno]; decide
    exact .intro ((exec_storeWrite h).trans (congrArg Host.Outcome.next (answer_ok ((if_neg (not_not.2 rfl)).trans (if_neg hok)))))
      ⟨updPer_only _ _, rfl⟩
  · exact (exec_storeWrite h).trans (congrArg Host.Outcome.next (answer_error ((if_neg (not_not.2 rfl)).trans (if_pos hrun))))
  · exact (exec_storeWrite h).trans (congrArg Host.Outcome.next (answer_error (if_pos hv)))
  · have hfind : findTarget s.per.targets 1 key = none := List.find?_eq_none.2 fun t ht hp => by
      obtain ⟨hl, hk⟩ := Bool.and_eq_true_iff.1 hp
      exact hnew t ht ⟨beq_iff_eq.1 hl, beq_iff_eq.1 hk⟩
    have hput := findTarget_putCopies 1 key x true true true s.per.targets
    rw [show targetOf s.per.targets 1 key = ⟨1, key, none, none, none, 0⟩ by unfold targetOf; rw [hfind]; rfl] at hput
    have hfin : finishStore s = (s.updPer fun p => { p with targets := putCopies 1 key x true true true p.targets }).updPer fun p =>
        { p with store := none } := by
      unfold finishStore
      rw [hs]
      exact congrArg (fun u : State => u.updPer fun p => { p with store := none }) (commitWith_plain fun _ => hsafe)
    exact .intro (congrArg Host.Outcome.next ((if_pos hr).trans hfin)) ⟨(updPer_only s _).trans (updPer_only _ _), rfl, hput⟩
  · refine .intro (congrArg Host.Outcome.next (if_pos hr)) ⟨finishStore_only s, finishStore_store s, fun hno => ?_⟩
    unfold finishStore
    rw [hno]
  · exact congrArg Host.Outcome.next (if_neg (Bool.eq_false_iff.1 hr))
  · exact .intro ((exec_restoreWrite h).trans (congrArg Host.Outcome.next (answer_ok (if_neg (not_not.2 rfl))))) ⟨updPer_only _ _, rfl⟩
  · exact (exec_restoreWrite h).trans (congrArg Host.Outcome.next (answer_error (if_pos hv)))
  · refine .intro ((exec_persistentWrite h1 h3 hr hno).trans (congrArg Host.Outcome.next (commitWith_plain hsafe))) ⟨updPer_only s _, hno, ?_, ?_⟩
    · exact findTarget_putCopies layer key v a b c s.per.targets
    · exact fun l k hne => findTarget_putCopies_ne layer key v a b c s.per.targets hne
  · refine .intro ((exec_persistentWrite (Nat.le_refl 1) (by decide) hr hno).trans (congrArg Host.Outcome.next (commitWith_safety hsafe)))
      ⟨updPer_only s _, _, _, ?_, findTarget_putCopies 3 key v true true true _, writeCopies_used (targetOf s.per.targets 1 key) v, writeCopies_used _ v⟩
    exact (findTarget_putCopies_ne 3 key v true true true _ (fun hb => absurd hb.1 (by decide))).trans (findTarget_putCopies 1 key v true true true s.per.targets)
  · exact .intro (exec_persistentWrite_lost hr hs)
      ⟨((((commitWith_only 1 key v false false true s).mono (by decide)).next (updSess_only _ n _)).next (updPer_only _ _)), rfl, rfl⟩
  · exact persistent_next h1 h3 (if_pos (by simp [hr]))
  · obtain ⟨honly, hres⟩ := persistSnapshot_result (s := s.touch n) ((touch_opened s n).trans h.opened)
    rw [touch_win] at hres
    exact .intro (exec_snapshot h) ⟨honly, hres⟩
  · obtain ⟨hxl, hxk⟩ := findTarget_names hx
    obtain ⟨hwl, hwk⟩ := writeCopies_names x u.value true true true
    have hc := confirm_columnA (s := s.touch n) (n := n) ((congrArg SessWin.persistLayer (touch_win s n)).trans hl)
      (by rw [touch_win]; exact hx) hbad ha hok
    exact .intro ((exec_confirm h).trans (congrArg Host.Outcome.next (answer_ok hc)))
      ⟨updPer_only _ _, findTarget_put (hwl.trans hxl) (hwk.trans hxk)⟩
  · exact (exec_confirm h).trans (congrArg Host.Outcome.next (answer_error (confirm_resolved (s := s.touch n) (by rw [touch_win]; exact hx) h2 h6)))
  · have hw : factoryWrite (s.ctxOf n) 0x6000 1 (.int v) (s.touch n) = .ok ((s.touch n).updPer fun p => { p with fuse := true }) :=
      (if_neg fun hb => Bool.false_ne_true (hf.symm.trans hb.1)).trans ((checked_admitted h _).trans (if_pos ⟨rfl, rfl⟩))
    exact .intro (served_ok (w := fun w => factoryWrite w 0x6000 1 (.int v)) h.serves hw) ⟨updPer_only _ _, rfl⟩
  · have hrow : (objRow? 0x6000 1).isSome = true := by decide +kernel
    exact served_error (w := fun w => factoryWrite w 0x6000 1 (.int v)) h (if_pos ⟨hf, hrow⟩)

end Sys2Proof.Machine

/-! Proofs of the statement on the opening, roles, challenges, lockouts and ends of sessions (15). -/

namespace Sys2Proof.Machine

set_option Elab.async false

/-! ## Device state changes -/

theorem devRecord_only (old new cause : Nat) (s : State) : Only [.flow, .upd] s (devRecord old new cause s) := record_only s _

theorem noteHistory_only (state cause : Nat) (s : State) : Only [.belay] s (noteHistory state cause s) := updBelay_only s _

theorem changeDev_only (d : Dev) (cause : Nat) (s : State) : Only [.flow, .upd, .pw, .belay] s (changeDev d cause s) := by
  unfold changeDev
  extract_lets old sleep s1 s2
  have h1 : Only [.flow, .upd, .pw, .belay] s s1 := .ite ((devRecord_only _ _ _ s).mono (by decide)) (.refl _ _)
  have h2 : Only [.flow, .upd, .pw, .belay] s s2 := (h1.next (updPw_only s1 _)).next (noteHistory_only _ _ _)
  exact .ite h2 (h2.next (devRecord_only _ _ _ s2))

theorem serviceToRun_only (cause : Nat) (s : State) : Only [.flow, .upd, .pw, .belay] s (serviceToRun cause s) :=
  ((updPw_only s _).mono (by decide)).trans (changeDev_only _ _ _)

/-! ## The end of a session (R341) -/

theorem endTests_only (p : Nat × Nat → Bool) (s : State) : Only [.valve, .free, .flow, .upd] s (endTests p s) := by
  unfold endTests
  refine Only.foldl _ _ (fun t n => ?_) _ s
  split
  · exact .ite (setCommand_chans n _ t).1.only (.refl _ _)
  · exact .refl _ _

theorem traceSessionEnd_only (n : Nat) (s : State) : Only [.trace] s (traceSessionEnd n s) := .ite (updTrace_only s _) (.refl _ _)

theorem orphan_only (s : State) : Only [.upd] s (orphan s) := .ite (updUpd_only s _) (updUpd_only s _)

/-- The parts in which a session holds anything, but for the server's own. -/
abbrev sessionParts : List Part := [.trace, .valve, .free, .flow, .upd, .can, .pctl, .pw, .belay]

/-- The end of an open session releases what it held and takes it off the server's list. -/
theorem endSession_spec {n : Nat} {s : State} (hopen : (s.sessOf n).opened = true) : Only (.serv :: sessionParts) s (endSession n s) ∧
    (endSession n s).serv = { s.serv with sess := s.serv.sess.set n {} } := by
  unfold endSession
  rw [if_neg (by simp [hopen])]
  extract_lets s1 s2 s3 s4 s5
  have h1 : Only sessionParts s s1 :=
    (((traceSessionEnd_only n s).mono (by decide)).next (endTests_only _ _)).next (updCan_only _ _)
  have h2 : Only sessionParts s s2 := .ite (h1.next (orphan_only s1)) h1
  have h4 : Only sessionParts s s4 := (h2.next (updUpd_only s2 _)).next (updPctl_only s3 _)
  have h5 : Only (.serv :: sessionParts) s s5 := (h4.mono (by decide)).next (updServ_only s4 _)
  have hserv : s5.serv = { s.serv with sess := s.serv.sess.set n {} } := congrArg (fun v : Serv => { v with sess := v.sess.set n {} }) h4.serv
  split
  · split
    · have hrun := serviceToRun_only 0xA s5
      exact ⟨h5.next hrun, hrun.serv.trans hserv⟩
    · exact ⟨h5.next (updPw_only s5 _), hserv⟩
  · exact ⟨h5, hserv⟩

theorem endSession_closed {n : Nat} {s : State} (h : (s.sessOf n).opened = false) : endSession n s = s := if_pos (by rw [h]; rfl)

theorem endSession_self {n : Nat} {s : State} (hopen : (s.sessOf n).opened = true) : (endSession n s).sessOf n = {} := by
  unfold State.sessOf
  rw [(endSession_spec hopen).2]
  by_cases hl : n < s.serv.sess.length
  · simp [List.getD, hl]
  · simp [List.getD, hl]

theorem endSession_ne {n m : Nat} (s : State) (h : m ≠ n) : (endSession n s).sessOf m = s.sessOf m := by
  by_cases hopen : (s.sessOf n).opened = true
  · unfold State.sessOf
    rw [(endSession_spec hopen).2]
    simp [List.getD, List.getElem?_set_ne (Ne.symm h)]
  · rw [endSession_closed (Bool.not_eq_true _ ▸ hopen)]

theorem endSession_only (n : Nat) (s : State) : Only (.serv :: sessionParts) s (endSession n s) := by
  by_cases hopen : (s.sessOf n).opened = true
  · exact (endSession_spec hopen).1
  · rw [endSession_closed (Bool.not_eq_true _ ▸ hopen)]
    exact .refl _ _

/-- One step of the end of every session with a property. -/
def endIf (p : Sess → Bool) (s : State) (n : Nat) : State := if p (s.sessOf n) then endSession n s else s

/-- The first k sessions with a property end; the others stay. -/
theorem endFirst_spec {p : Sess → Bool} (hp : ∀ x, p x = true → x.opened = true) (s : State) (k : Nat) :
    ∃ t, (List.range k).foldl (endIf p) s = t ∧ Only (.serv :: sessionParts) s t ∧
      ∀ m, t.sessOf m = if m < k ∧ p (s.sessOf m) = true then {} else s.sessOf m := by
  induction k with
  | zero => exact ⟨s, rfl, .refl _ _, fun m => (if_neg fun h => Nat.not_lt_zero m h.1).symm⟩
  | succ k ih =>
    obtain ⟨t, ht, honly, hsess⟩ := ih
    have hk : t.sessOf k = s.sessOf k := (hsess k).trans (if_neg fun h => Nat.lt_irrefl k h.1)
    refine ⟨endIf p t k, by rw [List.range_succ, List.foldl_append, ht]; rfl, honly.trans (.ite (endSession_only k t) (.refl _ _)), fun m => ?_⟩
    unfold endIf
    rw [hk]
    by_cases hm : m = k
    · subst hm
      by_cases hpm : p (s.sessOf m) = true
      · rw [if_pos hpm, if_pos ⟨Nat.lt_succ_self m, hpm⟩]
        exact endSession_self (by rw [hk]; exact hp _ hpm)
      · rw [if_neg hpm, if_neg fun h => hpm h.2, hk]
    · have hlt : (m < k + 1 ∧ p (s.sessOf m) = true) ↔ (m < k ∧ p (s.sessOf m) = true) := by
        rw [Nat.lt_succ_iff_lt_or_eq, or_iff_left hm]
      rw [if_congr hlt rfl rfl, ← hsess m]
      split
      · exact endSession_ne t hm
      · rfl

theorem endSessions_spec {p : Sess → Bool} (hp : ∀ x, p x = true → x.opened = true) (s : State) :
    Only (.serv :: sessionParts) s (endSessions p s) ∧
      ∀ m, m < 16 → (endSessions p s).sessOf m = if p (s.sessOf m) = true then {} else s.sessOf m := by
  obtain ⟨t, ht, honly, hsess⟩ := endFirst_spec hp s 16
  have heq : endSessions p s = t := ht
  rw [heq]
  exact ⟨honly, fun m hm => (hsess m).trans (if_congr (and_iff_right hm) rfl rfl)⟩

/-- Every session on a transport ends. -/
theorem endTransport_spec (tr : Transport) (s : State) : ∃ t, endSessions (fun x => x.opened && x.transport == tr) s = t ∧
    Only (.serv :: sessionParts) s t ∧
    ∀ m, m < 16 → t.sessOf m = if (s.sessOf m).opened = true ∧ (s.sessOf m).transport = tr then {} else s.sessOf m := by
  obtain ⟨honly, hsess⟩ := endSessions_spec (p := fun x => x.opened && x.transport == tr) (fun x hx => (Bool.and_eq_true_iff.1 hx).1) s
  refine ⟨_, rfl, honly, fun m hm => (hsess m hm).trans (if_congr ?_ rfl rfl)⟩
  rw [Bool.and_eq_true, beq_iff_eq]

/-! ## Opening and roles (R339, R340) -/

section
variable {s : State} {n : Nat}

theorem updSess_self {f : Sess → Sess} (h : n < s.serv.sess.length) : (s.updSess n f).sessOf n = f (s.sessOf n) := getD_upd _ _ _ _ h

section
variable (s n)
@[simp] theorem touch_source : ((s.touch n).sessOf n).source = (s.sessOf n).source := touch_keep s n Sess.source fun _ _ => rfl
@[simp] theorem touch_chal : ((s.touch n).sessOf n).chal = (s.sessOf n).chal := touch_keep s n Sess.chal fun _ _ => rfl
@[simp] theorem touch_roleReq : ((s.touch n).sessOf n).roleReq = (s.sessOf n).roleReq := touch_keep s n Sess.roleReq fun _ _ => rfl
end

theorem freeSession_free (h : freeSession s = some n) : n < 16 ∧ (s.sessOf n).opened = false := by
  obtain ⟨hn, hfree⟩ := List.mem_filter.1 (List.mem_of_mem_head? h)
  exact ⟨List.mem_range.1 hn, by simpa using hfree⟩

theorem exec_sessionOpen {tr : Transport} {x : Nat} (hopen : sessionsOpen s = true) (htr : transportServes s tr = true)
    (hcl : tr = .c8 → clientSession s x = none) : exec (.sessionOpen tr x) s =
      .next (match openSession tr x s with | some p => p.2 | none => s) := by
  have hcond : ¬ (!sessionsOpen s || !transportServes s tr || (decide (tr = .c8) && (clientSession s x).isSome)) = true := by
    rw [hopen, htr]
    by_cases hc : tr = .c8
    · simp [hcl hc]
    · simp [hc]
  exact congrArg Host.Outcome.next (if_neg hcond)

/-- The writes of 0x2100. -/
theorem exec_roleRequest {v : Int} (h : s.admits n 0x2100 2 (.int v)) :
    exec (.roleRequest n v) s = .next ((s.touch n).answer n (requestRole n v.toNat (s.touch n))) := by
  show s.asSession n 0x2100 (fun w => sessionWrite w 0x2100 2 (.int v)) = _
  exact (admitted_answer h).trans rfl

theorem exec_response {b : Bytes} (h : s.admits n 0x2100 4 (.bytes b)) :
    exec (.response n b) s = .next ((s.touch n).answer n (checkResponse n b (s.touch n))) := by
  show s.asSession n 0x2100 (fun w => sessionWrite w 0x2100 4 (.bytes b)) = _
  exact (admitted_answer h).trans rfl

theorem exec_sessionClose {v : Int} (h : s.admits n 0x2100 7 (.int v)) :
    exec (.sessionClose n v) s = .next ((endSession n (s.touch n)).ack n) := by
  show s.asSession n 0x2100 (fun w => sessionWrite w 0x2100 7 (.int v)) = _
  exact (admitted_answer h).trans rfl

theorem requestRole_taken {r : Nat} (hrole : roleAllowed s (s.sessOf n).transport r = true)
    (hlock : s.serv.lockouts.any (·.1 == (s.sessOf n).source) = false) :
    requestRole n r s = .ok (s.updSess n fun x => { x with roleReq := some r, chal := none }) :=
  (if_neg (by rw [hrole]; decide)).trans (if_neg (Bool.eq_false_iff.1 hlock))

theorem requestRole_locked {r : Nat} (hrole : roleAllowed s (s.sessOf n).transport r = true)
    (hlock : s.serv.lockouts.any (·.1 == (s.sessOf n).source) = true) : requestRole n r s = .error Abort.state :=
  (if_neg (by rw [hrole]; decide)).trans (if_pos hlock)

theorem requestRole_barred {r : Nat} (hrole : roleAllowed s (s.sessOf n).transport r = false) : requestRole n r s = .error Abort.noRight :=
  if_pos (by rw [hrole]; rfl)
end

/-! ## Challenge and response (R340) -/

section
variable {s : State} {n r : Nat} {c : Chal} {b : Bytes}

/-- The session with its challenge used. -/
def challengeUsed (n : Nat) (c : Chal) (s : State) : State := s.updSess n fun x => { x with chal := some { c with used := true } }

/-- The session with the role of an answered challenge. -/
def roleGranted (n r : Nat) (b : Bytes) (c : Chal) (s : State) : State :=
  (challengeUsed n c s).updSess n fun x => { x with role := r, key := s.roleKey r, response := b }

section
variable (hchal : (s.sessOf n).chal = some c) (hreq : (s.sessOf n).roleReq = some r) (hnew : c.used = false)
  (htime : s.tm.mono ≤ c.time + 10000000000)
include hchal hreq hnew htime

theorem checkResponse_right (hmac : hmac256 (s.roleKey r) (responseMessage c n r) = b) :
    checkResponse n b s = .ok (roleRecord 0xB001 n r (s.sessOf n).source (roleGranted n r b c s)) := by
  have hno : ¬ (c.used = true ∨ c.time + 10000000000 < s.tm.mono) :=
    not_or.2 ⟨Bool.eq_false_iff.1 hnew, Nat.not_lt.2 htime⟩
  have hright : hmac256 ((challengeUsed n c s).roleKey r) (responseMessage c n r) = b := hmac
  unfold checkResponse
  dsimp only
  rw [hchal, hreq]
  exact (if_neg hno).trans (if_pos hright)

theorem checkResponse_wrong (hmac : hmac256 (s.roleKey r) (responseMessage c n r) ≠ b) :
    checkResponse n b s = .ok (failResponse n r (challengeUsed n c s)) := by
  have hno : ¬ (c.used = true ∨ c.time + 10000000000 < s.tm.mono) :=
    not_or.2 ⟨Bool.eq_false_iff.1 hnew, Nat.not_lt.2 htime⟩
  have hwrong : ¬ hmac256 ((challengeUsed n c s).roleKey r) (responseMessage c n r) = b := hmac
  unfold checkResponse
  dsimp only
  rw [hchal, hreq]
  exact (if_neg hno).trans (if_neg hwrong)
end

theorem checkResponse_stale (hchal : (s.sessOf n).chal = some c) (h : c.used = true ∨ c.time + 10000000000 < s.tm.mono) :
    checkResponse n b s = .error Abort.state := by
  unfold checkResponse
  dsimp only
  rw [hchal]
  cases (s.sessOf n).roleReq with
  | none => rfl
  | some r => exact if_pos h

theorem checkResponse_none (hchal : (s.sessOf n).chal = none) : checkResponse n b s = .error Abort.state := by
  unfold checkResponse
  dsimp only
  rw [hchal]

/-- The lockouts after one more failed response of a source. -/
def lockoutsAfter (src mono : Nat) (v : Serv) : List (Nat × Nat) :=
  if 5 ≤ (((src, mono) :: v.fails).filter fun f => f.1 == src && decide (mono ≤ f.2 + 600000000000)).length ∧
      !v.lockouts.any (·.1 == src) then (src, mono) :: v.lockouts else v.lockouts

theorem lockoutsAfter_eq (src mono : Nat) (v : Serv) : lockoutsAfter src mono v =
    if 4 ≤ (v.fails.filter fun f => f.1 == src && decide (mono ≤ f.2 + 600000000000)).length ∧ v.lockouts.any (·.1 == src) = false then
      (src, mono) :: v.lockouts else v.lockouts := by
  have hself : ((src, mono).1 == src && decide (mono ≤ (src, mono).2 + 600000000000)) = true := by
    rw [beq_self_eq_true, Bool.true_and]
    exact decide_eq_true (Nat.le_add_right _ _)
  unfold lockoutsAfter
  rw [List.filter_cons_of_pos (p := fun f : Nat × Nat => f.1 == src && decide (mono ≤ f.2 + 600000000000)) hself, List.length_cons]
  refine if_congr (and_congr Nat.succ_le_succ_iff ?_) rfl rfl
  rw [Bool.not_eq_true']

theorem failResponse_spec (n r : Nat) (s : State) : ∃ t, failResponse n r s = t ∧ Only [.serv, .flow, .upd] s t ∧
    t.serv.failedAttempts = inc32 s.serv.failedAttempts ∧ t.serv.lockouts = lockoutsAfter (s.sessOf n).source s.tm.mono s.serv ∧
    ∀ m, t.sessOf m = s.sessOf m := by
  obtain ⟨u, hu⟩ : ∃ u, (s.updServ fun v => { v with
      failedAttempts := inc32 v.failedAttempts, fails := ((s.sessOf n).source, s.tm.mono) :: s.serv.fails
      lockouts := lockoutsAfter (s.sessOf n).source s.tm.mono s.serv }) = u := ⟨_, rfl⟩
  have hfail : failResponse n r s = roleRecord 0xB002 n r (s.sessOf n).source u := hu ▸ rfl
  have honly : Only [.serv] s u := hu ▸ updServ_only s _
  have hrec : Only [.flow, .upd] u (roleRecord 0xB002 n r (s.sessOf n).source u) := record_only u _
  refine ⟨_, hfail, (honly.mono (by decide)).next hrec, ?_, ?_, fun m => ?_⟩
  · rw [hrec.serv, ← hu]
    rfl
  · rw [hrec.serv, ← hu]
    rfl
  · rw [hrec.sessOf (by decide), ← hu]
    rfl
end

/-- Settles O54: the session that each command names opens, asks for, gains or fails to gain its role, or ends, and every other one stands. -/
theorem sessionsAndRoles : Obligations.SessionsAndRoles := by
  refine ⟨fun s tr n x hopen htr hcl hfree hlen => ?_, fun s tr x h => ?_, fun s n v h hrole hlock => ?_, fun s n v h hrole hlock => ?_,
    fun s n h hc8 husb => ?_, fun s n b h hlen => ?_, fun s n c r h hchal hreq hnew htime => ?_,
    fun s n c r b h hchal hreq hnew htime hmac => ?_, fun s n c b h hchal hstale => ?_, fun s n b h hchal => ?_, fun s x => ?_,
    fun s n hn hopen hreach hwait => ?_, fun s n hn hwait => ?_, fun s n v h hlen => ?_, fun s n x hn htr hwait => ?_, fun s n hn hwait => ?_,
    fun s => ?_, fun s hlen => ?_, fun s p hp hlen hlink hwait => ?_, fun s p hp h => ?_⟩
  · obtain ⟨hn, hclosed⟩ := freeSession_free hfree
    have hself : (s.updSess n fun _ => { opened := true, transport := tr, source := x, lastReq := s.tm.mono }).sessOf n =
        { opened := true, transport := tr, source := x, lastReq := s.tm.mono } := updSess_self (by rw [hlen]; exact hn)
    refine .intro ((exec_sessionOpen hopen htr hcl).trans ?_) ⟨updSess_only s n fun _ => _, hn, hclosed, hself, by rw [hself], fun m hm => sess_upd_ne _ hm⟩
    unfold openSession
    rw [hfree]
    rfl
  · by_cases hcond : (!sessionsOpen s || !transportServes s tr || (decide (tr = .c8) && (clientSession s x).isSome)) = true
    · exact congrArg Host.Outcome.next (if_pos hcond)
    · have hfree : freeSession s = none := by
        rcases h with h | h | h
        · exact absurd (by simp [h]) hcond
        · exact absurd (by simp [h]) hcond
        · exact h
      refine congrArg Host.Outcome.next ((if_neg hcond).trans ?_)
      unfold openSession
      rw [hfree]
      rfl
  · have hopen : ((s.touch n).sessOf n).opened = true := (touch_opened s n).trans h.opened
    have hreq := requestRole_taken (s := s.touch n) (n := n) (r := v.toNat) (by rw [touch_transport]; exact hrole) (by rw [touch_source]; exact hlock)
    refine .intro ((exec_roleRequest h).trans (congrArg Host.Outcome.next (answer_ok hreq))) ⟨updSess_only _ n _, ?_⟩
    rw [sess_upd hopen]
    exact ⟨rfl, rfl, touch_role s n⟩
  · exact (exec_roleRequest h).trans (congrArg Host.Outcome.next (answer_error (requestRole_locked (s := s.touch n) (n := n)
      (by rw [touch_transport]; exact hrole) (by rw [touch_source]; exact hlock))))
  · have hbar : roleAllowed (s.touch n) ((s.touch n).sessOf n).transport 4 = false := by
      rw [touch_transport]
      simp [roleAllowed, hc8, husb]
    exact (exec_roleRequest h).trans (congrArg Host.Outcome.next (answer_error (requestRole_barred hbar)))
  · have htake : (b ++ List.replicate 16 0#8).take 16 = b := hlen ▸ List.take_left
    have hopen : ((s.touch n).sessOf n).opened = true := (touch_opened s n).trans h.2.1
    have hcond : ((s.sessOf n).opened && s.reaches 0x2100) = true := Bool.and_eq_true_iff.2 ⟨h.2.1, h.2.2⟩
    refine .intro (unit_next h.1 ((if_pos hcond).trans (congrArg (takeChallenge n · (s.touch n)) htake))) ⟨(touch_only s n).trans (updSess_only _ n _), ?_⟩
    unfold takeChallenge
    rw [sess_upd hopen]
    exact ⟨rfl, rfl, rfl, congrArg Sess.lastReq (touch_sessOf h.2.1)⟩
  · have hopen : ((s.touch n).sessOf n).opened = true := (touch_opened s n).trans h.opened
    obtain ⟨u, hu⟩ : ∃ u, challengeUsed n c (s.touch n) = u := ⟨_, rfl⟩
    have hus : u.sessOf n = { (s.touch n).sessOf n with chal := some { c with used := true } } := hu ▸ sess_upd hopen
    have huonly : Only [.serv] (s.touch n) u := hu ▸ updSess_only _ n _
    obtain ⟨v, hv⟩ : ∃ v, roleGranted n r (hmac256 (s.roleKey r) (responseMessage c n r)) c (s.touch n) = v := ⟨_, rfl⟩
    have hvs : v.sessOf n = { u.sessOf n with
        role := r, key := s.roleKey r, response := hmac256 (s.roleKey r) (responseMessage c n r) } :=
      hv ▸ hu ▸ sess_upd (s := challengeUsed n c (s.touch n)) (by rw [hu, hus]; exact hopen)
    have hvonly : Only [.serv] (s.touch n) v := hv ▸ (hu ▸ huonly : Only [.serv] (s.touch n) (challengeUsed n c (s.touch n))).trans (updSess_only _ n _)
    have hrec := record_only v ⟨0xB001, n, 0xE, leBytes 1 r ++ leBytes 4 ((s.touch n).sessOf n).source ++ List.replicate 3 0#8, [], 0xFFFFFFFF, 0xF⟩
    have hok := checkResponse_right (s := s.touch n) (n := n) (by rw [touch_chal]; exact hchal) (by rw [touch_roleReq]; exact hreq) hnew htime rfl
    refine .intro ((exec_response h).trans (congrArg Host.Outcome.next (answer_ok (hok.trans (congrArg (fun t => Except.ok (roleRecord _ _ _ _ t)) hv)))))
      ⟨(hvonly.mono (by decide)).next hrec, ?_⟩
    unfold roleRecord
    rw [hrec.sessOf (by decide), hvs, hus]
    exact ⟨rfl, rfl, rfl⟩
  · have hopen : ((s.touch n).sessOf n).opened = true := (touch_opened s n).trans h.opened
    obtain ⟨u, hu⟩ : ∃ u, challengeUsed n c (s.touch n) = u := ⟨_, rfl⟩
    have hus : u.sessOf n = { (s.touch n).sessOf n with chal := some { c with used := true } } := hu ▸ sess_upd hopen
    have huonly : Only [.serv] (s.touch n) u := hu ▸ updSess_only _ n _
    have hsrc : (u.sessOf n).source = (s.sessOf n).source := by rw [hus]; exact touch_source s n
    have hfails : u.serv.fails = s.serv.fails := hu ▸ rfl
    have hlocks : u.serv.lockouts = s.serv.lockouts := hu ▸ rfl
    have hcount : u.serv.failedAttempts = s.serv.failedAttempts := hu ▸ rfl
    obtain ⟨t, ht, htonly, hattempts, hlock, hsess⟩ := failResponse_spec n r u
    have hok := checkResponse_wrong (s := s.touch n) (n := n) (by rw [touch_chal]; exact hchal) (by rw [touch_roleReq]; exact hreq) hnew htime hmac
    refine .intro ((exec_response h).trans (congrArg Host.Outcome.next (answer_ok (hok.trans (by rw [hu, ht])))))
      ⟨(huonly.mono (by decide)).trans htonly, ?_, ?_, ?_, ?_⟩
    · rw [hsess, hus]
      exact touch_role s n
    · rw [hsess, hus]
    · rw [hattempts, hcount]
    · rw [hlock, lockoutsAfter_eq, hsrc, hfails, hlocks, huonly.tm]
      rfl
  · exact (exec_response h).trans (congrArg Host.Outcome.next (answer_error
      (checkResponse_stale (s := s.touch n) (n := n) (by rw [touch_chal]; exact hchal) hstale)))
  · exact (exec_response h).trans (congrArg Host.Outcome.next (answer_error (checkResponse_none (s := s.touch n) (n := n) (by rw [touch_chal]; exact hchal))))
  · refine .intro (show exec (.roleLockoutEnd x) s = .next _ from rfl) ⟨updServ_only s _, rfl, fun e => List.mem_filter.trans (and_congr_right fun _ => ?_)⟩
    rw [Bool.not_eq_true', Bool.and_eq_false_iff, beq_eq_false_iff_ne]
  · exact ⟨_, unit_next hn (if_pos (Bool.and_eq_true_iff.2 ⟨hreach, hwait⟩)), endSession_self hopen, fun m hm => endSession_ne s hm⟩
  · exact unit_next hn (if_neg (by rw [hwait, Bool.and_false]; decide))
  · have hopen : ((s.touch n).sessOf n).opened = true := (touch_opened s n).trans h.opened
    have hlen' : n < (endSession n (s.touch n)).serv.sess.length := by
      rw [(endSession_spec hopen).2]
      simpa [State.touch, State.updSess, State.updServ, updAt, hlen] using h.1.1
    refine ⟨_, exec_sessionClose h, ?_, fun m hm => ?_⟩
    · exact (updSess_self hlen').trans (by rw [endSession_self hopen])
    · exact (sess_upd_ne _ hm).trans ((endSession_ne _ hm).trans (sess_upd_ne _ hm))
  · have hlen : n < s.serv.sess.length := getD_lt (p := fun y : Sess => y.transfer = some x) htr fun hb => nomatch hb
    refine .intro (unit_next hn ?_) ⟨updSess_only s n fun y => { y with transfer := none, answer := Abort.timedOut }, ?_⟩
    · rw [htr]
      exact if_pos hwait
    · rw [updSess_self hlen]
      exact ⟨rfl, rfl, rfl⟩
  · refine unit_next hn ?_
    cases htr : (s.sessOf n).transfer with
    | none => rfl
    | some x => exact if_neg (by rw [hwait x htr]; decide)
  · exact .intro (show exec (.usbVbusChange true) s = .next _ from rfl) ⟨updNet_only s fun n => { n with vbus := true }, rfl⟩
  · obtain ⟨t, ht, honly, hsess⟩ := endTransport_spec .usb (s.updNet fun n => { n with vbus := false })
    exact ⟨t, congrArg Host.Outcome.next ((if_neg Bool.false_ne_true).trans ht), by rw [honly.net]; rfl, hsess⟩
  · obtain ⟨t, ht, honly, hsess⟩ := endTransport_spec (portTransport p) s
    exact ⟨t, unit_next hp ((if_neg (by rw [hlink, hwait]; decide)).trans ht), hsess⟩
  · refine unit_next hp (if_pos ?_)
    rcases h with h | h
    · rw [h, Bool.true_or]
    · rw [h, Bool.not_false, Bool.or_true]

end Sys2Proof.Machine

/-! Proofs of the statement on offers, blocks, commits, aborts and the fleet link's messages of an update (19). -/

namespace Sys2Proof.Machine

set_option Elab.async false

/-! ## Records, results and regions of an update -/

/-- A record of information or a warning leaves the update regions' probation as it is. -/
theorem record_flow_only {e : FlowEv} (h : severityOf e.code < 2) (s : State) : Only [.flow] s (s.record e) := by
  have hroll : Only [.flow] s s.rollSecond := .ite (.refl _ _) (updFlow_only s _)
  unfold State.record
  split
  · exact .refl _ _
  · dsimp only
    rw [if_neg (Nat.not_le.2 h)]
    exact hroll.trans (updFlow_only _ _)

theorem updRecord_only (region id event result : Nat) (s : State) : Only [.flow] s (updRecord region id event result s) :=
  record_flow_only (show severityOf 0xC001 < 2 by decide) s

section
variable {s : State} {n : Nat}

/-- A session is told the result and the identifier of its update. -/
def updTold (n result : Nat) (s : State) : State := s.updSess n fun x => { x with updResult := result }
def updNamed (n id : Nat) (s : State) : State := s.updSess n fun x => { x with updId := id }

theorem setResult_session (hn : n < 16) (code : Nat) (s : State) : setResult n code s = updTold n code s := if_neg (Nat.ne_of_lt hn)

theorem setId_session (hn : n < 16) (id : Nat) (s : State) : setId n id s = updNamed n id s := if_neg (Nat.ne_of_lt hn)

theorem updTold_only (n code : Nat) (s : State) : Only [.serv] s (updTold n code s) := updSess_only s n _

theorem updNamed_only (n id : Nat) (s : State) : Only [.serv] s (updNamed n id s) := updSess_only s n _

/-- A session told and named, where it is open: what it reads. -/
theorem updTold_result (hopen : (s.sessOf n).opened = true) (code : Nat) : ((updTold n code s).sessOf n).updResult = code ∧
    ((updTold n code s).sessOf n).opened = true := by
  unfold updTold
  rw [sess_upd hopen]
  exact ⟨rfl, hopen⟩

theorem updNamed_told (hopen : (s.sessOf n).opened = true) (code id : Nat) :
    ((updNamed n id (updTold n code s)).sessOf n).updResult = code ∧ ((updNamed n id (updTold n code s)).sessOf n).updId = id := by
  obtain ⟨hres, hstill⟩ := updTold_result hopen code
  unfold updNamed
  rw [sess_upd hstill]
  exact ⟨hres, rfl⟩
end

section
variable {s : State} {c : Nat}

theorem updRegion_only (c : Nat) (f : Region → Region) (s : State) : Only [.upd] s (s.updRegion c f) := updUpd_only s _

theorem updRegion_self {f : Region → Region} (h : c - 1 < s.upd.regions.length) : (s.updRegion c f).region c = f (s.region c) := getD_upd _ _ _ _ h

/-- Where the update part stands, every region does. -/
theorem Only.region {ps : List Part} {s t : State} (h : Only ps s t) (k : Part.upd ∉ ps := by decide) (c : Nat) : t.region c = s.region c := by
  unfold State.region
  rw [h.upd k]
end

/-! ## The Antechamber and the end of an update -/

theorem freeAnte_only (restore : Bool) (s : State) : Only [.upd] s (freeAnte restore s) := by
  unfold freeAnte
  extract_lets s1
  have h1 : Only [.upd] s s1 := by
    show Only [.upd] s (match s.upd.cur with | some o => _ | none => s)
    split
    · exact .ite (updRegion_only _ _ s) (.refl _ _)
    · exact .refl _ _
  exact h1.trans (updUpd_only s1 _)

theorem freeAnte_free (restore : Bool) (s : State) : (freeAnte restore s).upd.state = 0 ∧ (freeAnte restore s).upd.owner = none ∧
    (freeAnte restore s).upd.cur = none ∧ (freeAnte restore s).upd.committed = false := ⟨rfl, rfl, rfl, rfl⟩

/-- A running update that ends: its Antechamber is free, and its owner has been told. -/
theorem endUpdate_spec {s : State} {n : Nat} {o : Offer} (hn : n < 16) (hopen : (s.sessOf n).opened = true) (hcur : s.upd.cur = some o)
    (hown : s.upd.owner = some n) (event code : Nat) : ∃ t, endUpdate event code s = t ∧ Only [.serv, .upd, .flow] s t ∧ t.upd.state = 0 ∧
      t.upd.owner = none ∧ t.upd.cur = none ∧ (t.sessOf n).updResult = code := by
  obtain ⟨u, hu⟩ : ∃ u, freeAnte true ((updTold n code s).updRegion o.region fun r => { r with lastResult := code }) = u := ⟨_, rfl⟩
  have heq : endUpdate event code s = updRecord o.region o.id event code u := by
    unfold endUpdate
    rw [hcur, hown]
    dsimp only
    rw [setResult_session hn, hu]
  have htold : Only [.serv] s (updTold n code s) := updTold_only n code s
  have hframe : Only [.upd] (updTold n code s) u := hu ▸ (updRegion_only _ _ _).trans (freeAnte_only true _)
  obtain ⟨hstate, howner, hfree, -⟩ := freeAnte_free true ((updTold n code s).updRegion o.region fun r => { r with lastResult := code })
  have hrec := updRecord_only o.region o.id event code u
  refine ⟨_, heq, ((htold.mono (by decide)).next hframe).next hrec, ?_, ?_, ?_, ?_⟩
  · rw [hrec.upd, ← hu, hstate]
  · rw [hrec.upd, ← hu, howner]
  · rw [hrec.upd, ← hu, hfree]
  · rw [hrec.sessOf (by decide), hframe.sessOf (by decide)]
    exact (updTold_result hopen code).1

/-! ## The writes of 0x5A10 -/

section
variable {s : State} {n : Nat} (hdev : s.pw.dev ≠ .ladder)
include hdev

theorem exec_updateOffer {r : Bytes} (h : s.admits n 0x5A10 1 (.bytes r)) (hz : zeros (r.drop 199) = true) :
    exec (.updateOffer (.session n) r) s = .next ((offer n r (s.touch n)).ack n) := by
  have hno : ¬ (decide ((s.touch n).pw.dev = .ladder)) = true := fun hb => hdev (of_decide_eq_true hb)
  show s.asSession n 0x5A10 (fun w => updWrite w 0x5A10 1 (.bytes r)) = _
  refine served_ok (w := fun w => updWrite w 0x5A10 1 (.bytes r)) h.serves ((checked_admitted h _).trans ?_)
  exact (if_neg (not_not.2 rfl)).trans (congrArg Except.ok ((if_neg hno).trans (if_pos hz)))

/-- A block is taken at the offset that its bytes tell. -/
theorem exec_updateBlock_any {off : Nat} {d : Bytes} (h : s.admits n 0x5A10 2 (.bytes (leBytes 4 off ++ d))) :
    exec (.updateBlock (.session n) off d) s = .next ((block n (fieldLe (leBytes 4 off ++ d) 0 4) d (s.touch n)).ack n) := by
  have hno : ¬ (decide ((s.touch n).pw.dev = .ladder)) = true := fun hb => hdev (of_decide_eq_true hb)
  have hdrop : (leBytes 4 off ++ d).drop 4 = d := List.drop_left' (leBytes_length 4 off)
  show s.asSession n 0x5A10 (fun w => updWrite w 0x5A10 2 (.bytes (leBytes 4 off ++ d))) = _
  refine served_ok (w := fun w => updWrite w 0x5A10 2 (.bytes (leBytes 4 off ++ d))) h.serves ((checked_admitted h _).trans ?_)
  refine (if_neg (not_not.2 rfl)).trans (congrArg Except.ok ?_)
  show (if (decide ((s.touch n).pw.dev = .ladder)) = true then ladderBlock else block) n _ _ (s.touch n) = _
  rw [if_neg hno]
  exact congrArg (fun x => block n (fieldLe (leBytes 4 off ++ d) 0 4) x (s.touch n)) hdrop

theorem exec_updateBlock {off : Nat} {d : Bytes} (h : s.admits n 0x5A10 2 (.bytes (leBytes 4 off ++ d))) (hoff : off < 2 ^ 32) :
    exec (.updateBlock (.session n) off d) s = .next ((block n off d (s.touch n)).ack n) := by
  have hfield : fieldLe (leBytes 4 off ++ d) 0 4 = off := by
    unfold fieldLe
    rw [List.drop_zero, List.take_left' (leBytes_length 4 off), leNat_leBytes hoff]
  rw [exec_updateBlock_any hdev h, hfield]

theorem exec_updateCommand {cmd c : Nat} (hc : c < 256) (h : s.admits n 0x5A10 3 (.int ((cmd * 256 + c : Nat) : Int))) :
    updateCommand (.session n) cmd c s = .next ((s.touch n).answer n (regionCommand n (s.sessOf n).role cmd c (s.touch n))) := by
  have hno : ¬ ((decide ((s.touch n).pw.dev = .ladder)) = true ∧ (cmd * 256 + c) / 256 = 1) := fun hb => hdev (of_decide_eq_true hb.1)
  have hcmd : (cmd * 256 + c) / 256 = cmd := by omega
  have hreg : (cmd * 256 + c) % 256 = c := by omega
  show s.asSession n 0x5A10 (fun w => updWrite w 0x5A10 3 (.int ((cmd * 256 + c : Nat) : Int))) = _
  refine (serve_ok h.serves).trans (congrArg (fun e => Host.Outcome.next ((s.touch n).answer n e)) ((checked_admitted h _).trans ?_))
  refine (if_neg (not_not.2 rfl)).trans ((if_neg hno).trans ?_)
  show regionCommand n (s.sessOf n).role ((cmd * 256 + c) / 256) ((cmd * 256 + c) % 256) (s.touch n) = _
  rw [hcmd, hreg]
end

/-! ## Offers (R420, R423) -/

section
variable {s : State} {n : Nat} {r : Bytes}

/-- The offer that a record makes, with the next identifier. -/
def offerOf (r : Bytes) (s : State) : Offer :=
  ⟨s.upd.count + 1, headerRegion (r.take 96), r.take 96, (r.drop 96).take 96, sha384 (r.take 96), offerTotal (r.take 96)⟩

theorem offer_faulty (hn : n < 16) (hf : offerFault r s ≠ 0) : offer n r s =
    updRecord (headerRegion (r.take 96)) 0 1 (offerFault r s) (updTold n (offerFault r s) s) :=
  (if_pos hf).trans (by rw [setResult_session hn])

/-- With the Antechamber free an offer is judged on its region. -/
theorem offer_judged (hf : offerFault r s = 0) (hcur : s.upd.cur = none) (hown : s.upd.owner = none) : offer n r s = judgeOffer n r s := by
  have hpre : ¬ preempts n s = true := by
    unfold preempts
    rw [hown]
    simp
  unfold offer
  dsimp only
  rw [if_neg (not_not.2 hf), hcur]
  dsimp only
  rw [if_neg hpre]

theorem judgeOffer_taken (hn : n < 16) (hcur : s.upd.cur = none) (hbusy : regionBusy s (headerRegion (r.take 96)) = false) :
    judgeOffer n r s = updRecord (headerRegion (r.take 96)) (s.upd.count + 1) 1 0 (updNamed n (s.upd.count + 1) (updTold n 0
      (s.updUpd fun u => { u with count := s.upd.count + 1, offers := (n, offerOf r s) :: u.offers.filter fun p => p.1 != n }))) := by
  unfold judgeOffer
  dsimp only
  rw [hcur]
  dsimp only
  rw [if_neg (Bool.eq_false_iff.1 hbusy), setResult_session hn, setId_session hn]
  rfl

theorem judgeOffer_busy (hn : n < 16) (hcur : s.upd.cur = none) (hbusy : regionBusy s (headerRegion (r.take 96)) = true) :
    judgeOffer n r s = updRecord (headerRegion (r.take 96)) (s.region (headerRegion (r.take 96))).lastId 1 4
      (updNamed n (s.region (headerRegion (r.take 96))).lastId (updTold n 4 s)) := by
  unfold judgeOffer
  dsimp only
  rw [hcur]
  dsimp only
  rw [if_pos hbusy, setResult_session hn, setId_session hn]
end

/-! ## Blocks (R420) -/

section
variable {s : State} {n off : Nat} {d : Bytes}

theorem block_next (hown : s.upd.owner = some n) (hst : s.upd.state = 1) (hoff : off = s.upd.body.length) (hlast : s.upd.last ≠ some (off, d)) :
    block n off d s = setResult n 0 (s.updUpd fun u => { u with body := u.body ++ d, last := some (off, d) }) :=
  (if_pos ⟨hown, hst⟩).trans ((if_neg hlast).trans (if_pos hoff))

theorem block_again (hown : s.upd.owner = some n) (hst : s.upd.state = 1) (hlast : s.upd.last = some (off, d)) :
    block n off d s = setResult n 0 s := (if_pos ⟨hown, hst⟩).trans (if_pos hlast)

theorem block_gap (hown : s.upd.owner = some n) (hst : s.upd.state = 1) (hoff : off ≠ s.upd.body.length) (hlast : s.upd.last ≠ some (off, d)) :
    block n off d s = setResult n 0xB s := (if_pos ⟨hown, hst⟩).trans ((if_neg hlast).trans (if_neg hoff))

theorem block_foreign {o : Offer} (hcur : s.upd.cur = some o) (hown : s.upd.owner ≠ some n) :
    block n off d s = setId n o.id (setResult n (busyCode s) s) := by
  unfold block
  rw [if_neg fun hb => hown hb.1, hcur]
  exact if_neg hown

/-- The first block of an offer takes the Antechamber. -/
def beganUpdate (n : Nat) (o : Offer) (d : Bytes) (s : State) : State :=
  (s.updUpd fun u => { u with offers := u.offers.filter fun p => p.1 != n
                              state := 1, owner := some n, ownTransport := (sourceOf s n).1, ownSource := (sourceOf s n).2, cur := some o, body := d
                              last := some (0, d), committed := false }).updRegion o.region fun r =>
    { r with before := r.state, state := 1, lastId := o.id }

theorem block_first {o : Offer} (hn : n < 16) (hown : s.upd.owner = none) (hcur : s.upd.cur = none)
    (hoffer : (s.upd.offers.find? fun p => p.1 == n) = some (n, o)) (hbusy : regionBusy s o.region = false) :
    block n 0 d s = updRecord o.region o.id 2 0 (updNamed n o.id (updTold n 0 (beganUpdate n o d s))) := by
  have hno : ¬ (s.upd.owner = some n ∧ s.upd.state = 1) := by
    rw [hown]
    exact fun hb => nomatch hb.1
  unfold block
  rw [if_neg hno, hcur]
  dsimp only
  rw [hoffer]
  dsimp only
  rw [if_neg (not_not.2 rfl), if_neg (Bool.eq_false_iff.1 hbusy), setResult_session hn, setId_session hn]
  rfl

theorem beganUpdate_spec {o : Offer} (hreg : o.region - 1 < s.upd.regions.length) : ∃ t, beganUpdate n o d s = t ∧ Only [.upd] s t ∧
    t.upd.state = 1 ∧ t.upd.owner = some n ∧ t.upd.cur = some o ∧ t.upd.body = d ∧ t.upd.committed = false ∧ (t.region o.region).state = 1 ∧
    (t.region o.region).before = (s.region o.region).state ∧ (t.region o.region).lastId = o.id := by
  obtain ⟨u, hu⟩ : ∃ u, (s.updUpd fun u => { u with
    offers := u.offers.filter fun p => p.1 != n
    state := 1, owner := some n, ownTransport := (sourceOf s n).1, ownSource := (sourceOf s n).2, cur := some o, body := d
    last := some (0, d), committed := false }) = u := ⟨_, rfl⟩
  have hlen : o.region - 1 < u.upd.regions.length := hu ▸ hreg
  have hself := updRegion_self (f := fun r => { r with before := r.state, state := 1, lastId := o.id }) hlen
  have huonly : Only [.upd] s u := hu ▸ updUpd_only s _
  have hustate : (u.region o.region).state = (s.region o.region).state := hu ▸ rfl
  refine ⟨u.updRegion o.region fun r => { r with before := r.state, state := 1, lastId := o.id }, by rw [← hu]; rfl,
    huonly.trans (updRegion_only _ _ u), by rw [← hu]; rfl, by rw [← hu]; rfl, by rw [← hu]; rfl, by rw [← hu]; rfl, by rw [← hu]; rfl, ?_, ?_, ?_⟩
  · rw [hself]
  · rw [hself, hustate]
  · rw [hself]
end

/-! ## Commit and abort (R420, R425) -/

section
variable {s : State} {n : Nat} {o : Offer}

theorem commit_whole (hown : s.upd.owner = some n) (hst : s.upd.state = 1) (hcur : s.upd.cur = some o) (hok : bodyOk o s = true) :
    commitUpdate n s = .ok (updRecord o.region o.id 3 0 (setResult n 0 (s.updUpd fun u => { u with committed := true, state := 3 }))) := by
  unfold commitUpdate
  rw [if_pos ⟨hown, hst⟩, hcur]
  exact if_pos hok

theorem commit_broken (hown : s.upd.owner = some n) (hst : s.upd.state = 1) (hcur : s.upd.cur = some o) (hok : bodyOk o s = false) :
    commitUpdate n s = .ok (endUpdate 3 0xC s) := by
  unfold commitUpdate
  rw [if_pos ⟨hown, hst⟩, hcur]
  exact if_neg (Bool.eq_false_iff.1 hok)

theorem commit_refused (h : s.upd.owner ≠ some n ∨ s.upd.state ≠ 1) : commitUpdate n s = .error Abort.state :=
  if_neg fun hb => h.elim (· hb.1) (· hb.2)
end

/-! ## The fleet link (09 R219) -/

section
variable {s : State}

/-- A commit on the fleet link. -/
theorem fleetCommit {o : Offer} {st : Nat} (hown : s.upd.owner = some 16) (hst : s.upd.state = 1) (hcur : s.upd.cur = some o)
    (hok : bodyOk o s = true) : fleetUpdate st [⟨0x5A10, 3, [0#8, 1#8]⟩] s =
      updRecord o.region o.id 3 0 (s.updUpd fun u => { u with committed := true, state := 3, fleetResult := 0 }) :=
  congrArg (fun r => (answered s r).2) (commit_whole hown hst hcur hok)

theorem fleetMessage_cart {m : Bytes} (hok : headerOk .cartPose m = true) (hlen : m.length = 36) (hkind : fieldLe m 18 1 = 3) :
    fleetMessage .cartPose m s = s.updSteer fun x => { x with cart := { x.cart with report := some (cartReport m) } } := by
  have hno : ¬ (m.length ≠ 36 ∨ fieldLe m 18 1 ≠ 3) := not_or.2 ⟨not_not.2 hlen, not_not.2 hkind⟩
  exact (if_neg (by decide)).trans ((if_neg (by rw [hok]; decide)).trans (if_neg hno))

theorem fleetMessage_rejected {p : InTopic} {m : Bytes} (hp : p ≠ .rtcm) (hno : headerOk p m = false) : fleetMessage p m s = rejectMessage s :=
  (if_neg hp).trans (if_pos (by rw [hno]; rfl))
end

/-- Settles O55: each request of an update by what stands in the Antechamber, who holds it, and what the request names. -/
theorem updateTransfers : Obligations.UpdateTransfers := by
  refine ⟨fun s n r h hdev hz hf => ?_, fun s n r h hdev hz hf hcur hown hbusy => ?_, fun s n r h hdev hz hf hcur hown hbusy => ?_,
    fun s st r hr hno => ?_, fun s n off d h hoff hdev hown hst hlen hlast => ?_, fun s n off d h hoff hdev hown hst hlast => ?_,
    fun s n off d h hoff hdev hown hst hlen hlast => ?_, fun s n d o h hdev hown hcur hoffer hbusy hreg => ?_,
    fun s n off d o h hdev hcur hown => ?_, fun s st off d hr h1 hmax hown hst hlen hlast => ?_, fun s n o h hdev hown hst hcur hok => ?_,
    fun s n o h hdev hown hst hcur hok => ?_, fun s n h hdev hno => ?_, fun s n o h hdev hown hcur => ?_, fun s n h hdev hno => ?_,
    fun s st o hpub hlink hown hst hcur hok => ?_, fun s st l hno => ?_, fun s m hpub hlink hhead hlen hkind => ?_, fun s p m hpub hlink hp hhead => ?_,
    fun s h4 hwait => ?_, fun s hno => ?_⟩
  · have hopen : ((s.touch n).sessOf n).opened = true := (touch_opened s n).trans h.opened
    have hrec := updRecord_only (headerRegion (r.take 96)) 0 1 (offerFault r (s.touch n)) (updTold n (offerFault r (s.touch n)) (s.touch n))
    refine .intro ((exec_updateOffer hdev h hz).trans (by rw [offer_faulty (s := s.touch n) h.1.1 hf])) ⟨((updTold_only n _ _).mono (by decide)).next hrec, ?_⟩
    rw [hrec.sessOf (by decide), (updTold_result hopen _).1]
    rfl
  · obtain ⟨u, hu⟩ : ∃ u, ((s.touch n).updUpd fun u => { u with
      count := s.upd.count + 1, offers := (n, offerOf r s) :: u.offers.filter fun p => p.1 != n }) = u := ⟨_, rfl⟩
    have huonly : Only [.upd] (s.touch n) u := hu ▸ updUpd_only _ _
    have hopen : (u.sessOf n).opened = true := by rw [huonly.sessOf (by decide), touch_opened]; exact h.opened
    have htold : Only [.serv] u (updNamed n (s.upd.count + 1) (updTold n 0 u)) := (updTold_only n 0 u).trans (updNamed_only n _ _)
    have hrec := updRecord_only (headerRegion (r.take 96)) (s.upd.count + 1) 1 0 (updNamed n (s.upd.count + 1) (updTold n 0 u))
    have hoff : offer n r (s.touch n) = updRecord (headerRegion (r.take 96)) (s.upd.count + 1) 1 0 (updNamed n (s.upd.count + 1) (updTold n 0 u)) :=
      (offer_judged (s := s.touch n) hf hcur hown).trans ((judgeOffer_taken (s := s.touch n) h.1.1 hcur hbusy).trans (hu ▸ rfl))
    refine .intro ((exec_updateOffer hdev h hz).trans (by rw [hoff])) ⟨((huonly.mono (by decide)).next htold).next hrec, ?_, ?_, ?_⟩
    · rw [hrec.sessOf (by decide), (updNamed_told hopen 0 _).1]
    · rw [hrec.sessOf (by decide), (updNamed_told hopen 0 _).2]
    · rw [hrec.upd, htold.upd, ← hu]
      rfl
  · have hopen : ((s.touch n).sessOf n).opened = true := (touch_opened s n).trans h.opened
    obtain ⟨id, hid⟩ : ∃ id, (s.region (headerRegion (r.take 96))).lastId = id := ⟨_, rfl⟩
    have htold : Only [.serv] (s.touch n) (updNamed n id (updTold n 4 (s.touch n))) := (updTold_only n 4 _).trans (updNamed_only n _ _)
    have hrec := updRecord_only (headerRegion (r.take 96)) id 1 4 (updNamed n id (updTold n 4 (s.touch n)))
    have hoff : offer n r (s.touch n) = updRecord (headerRegion (r.take 96)) id 1 4 (updNamed n id (updTold n 4 (s.touch n))) :=
      (offer_judged (s := s.touch n) hf hcur hown).trans ((judgeOffer_busy (s := s.touch n) h.1.1 hcur hbusy).trans (hid ▸ rfl))
    rw [hid]
    refine .intro ((exec_updateOffer hdev h hz).trans (by rw [hoff])) ⟨(htold.mono (by decide)).next hrec, ?_⟩
    rw [hrec.sessOf (by decide)]
    exact updNamed_told hopen 4 id
  · exact .intro (congrArg Host.Outcome.next ((if_pos hr).trans (if_neg (Bool.eq_false_iff.1 hno)))) ⟨updFleet_only s _, rfl⟩
  · have hopen : ((s.touch n).sessOf n).opened = true := (touch_opened s n).trans h.opened
    have hblock := (block_next (s := s.touch n) hown hst hlen hlast).trans (setResult_session h.1.1 0 _)
    exact .intro ((exec_updateBlock hdev h hoff).trans (by rw [hblock])) ⟨((updUpd_only _ _).mono (by decide)).next (updTold_only n 0 _), rfl,
      (updTold_result hopen 0).1⟩
  · have hopen : ((s.touch n).sessOf n).opened = true := (touch_opened s n).trans h.opened
    have hblock := (block_again (s := s.touch n) hown hst hlast).trans (setResult_session h.1.1 0 _)
    exact .intro ((exec_updateBlock hdev h hoff).trans (by rw [hblock])) ⟨updTold_only n 0 _, (updTold_result hopen 0).1⟩
  · have hopen : ((s.touch n).sessOf n).opened = true := (touch_opened s n).trans h.opened
    have hblock := (block_gap (s := s.touch n) hown hst hlen hlast).trans (setResult_session h.1.1 0xB _)
    exact .intro ((exec_updateBlock hdev h hoff).trans (by rw [hblock])) ⟨updTold_only n 0xB _, (updTold_result hopen 0xB).1⟩
  · have hopen : ((s.touch n).sessOf n).opened = true := (touch_opened s n).trans h.opened
    obtain ⟨t, ht, honly, hstate, howner, hfree, hbody, hcom, hrs, hrb, hrid⟩ := beganUpdate_spec (s := s.touch n) (n := n) (d := d) (o := o) hreg
    have hopent : (t.sessOf n).opened = true := by rw [honly.sessOf (by decide)]; exact hopen
    have htold : Only [.serv] t (updNamed n o.id (updTold n 0 t)) := (updTold_only n 0 _).trans (updNamed_only n _ _)
    have hrec := updRecord_only o.region o.id 2 0 (updNamed n o.id (updTold n 0 t))
    have hblock := block_first (s := s.touch n) (d := d) h.1.1 hown hcur hoffer hbusy
    rw [ht] at hblock
    refine .intro ((exec_updateBlock hdev h (by decide)).trans (by rw [hblock])) ⟨((honly.mono (by decide)).next htold).next hrec, ?_⟩
    rw [hrec.upd, hrec.region, htold.upd, htold.region, hrec.sessOf (by decide)]
    exact ⟨hstate, howner, hfree, hbody, hcom, hrs, hrb, hrid, updNamed_told hopent 0 o.id⟩
  · have hopen : ((s.touch n).sessOf n).opened = true := (touch_opened s n).trans h.opened
    obtain ⟨b, hb⟩ : ∃ b, busyCode s = b := ⟨_, rfl⟩
    have hblock : ∀ off', block n off' d (s.touch n) = updNamed n o.id (updTold n b (s.touch n)) := fun off' => by
      rw [block_foreign (s := s.touch n) hcur hown, setResult_session h.1.1, setId_session h.1.1, ← hb]
      rfl
    rw [hb]
    exact .intro ((exec_updateBlock_any hdev h).trans (by rw [hblock])) ⟨(updTold_only n b _).trans (updNamed_only n _ _), updNamed_told hopen b o.id⟩
  · refine .intro (congrArg Host.Outcome.next ((if_pos ⟨hr, h1, hmax⟩).trans (block_next hown hst hlen hlast))) ⟨?_, rfl⟩
    exact (updUpd_only s _).trans (updUpd_only _ _)
  · have hopen : ((s.touch n).sessOf n).opened = true := (touch_opened s n).trans h.opened
    obtain ⟨u, hu⟩ : ∃ u, ((s.touch n).updUpd fun u => { u with committed := true, state := 3 }) = u := ⟨_, rfl⟩
    have huonly : Only [.upd] (s.touch n) u := hu ▸ updUpd_only _ _
    have hopenu : (u.sessOf n).opened = true := by rw [huonly.sessOf (by decide)]; exact hopen
    have hrec := updRecord_only o.region o.id 3 0 (updTold n 0 u)
    have hcom := commit_whole (s := s.touch n) hown hst hcur hok
    rw [hu, setResult_session h.1.1] at hcom
    refine .intro ((exec_updateCommand hdev (cmd := 1) (c := 0) (by decide) h).trans (congrArg Host.Outcome.next (answer_ok hcom)))
      ⟨((huonly.mono (by decide)).next (updTold_only n 0 u)).next hrec, ?_, ?_⟩
    · rw [hrec.upd, (updTold_only n 0 u).upd, ← hu]
      rfl
    · rw [hrec.sessOf (by decide)]
      exact (updTold_result hopenu 0).1
  · have hopen : ((s.touch n).sessOf n).opened = true := (touch_opened s n).trans h.opened
    obtain ⟨t, ht, honly, hend⟩ := endUpdate_spec h.1.1 hopen (s := s.touch n) hcur hown 3 0xC
    have hcom := commit_broken (s := s.touch n) hown hst hcur hok
    rw [ht] at hcom
    exact .intro ((exec_updateCommand hdev (cmd := 1) (c := 0) (by decide) h).trans (congrArg Host.Outcome.next (answer_ok hcom))) ⟨honly, hend⟩
  · exact (exec_updateCommand hdev (cmd := 1) (c := 0) (by decide) h).trans (congrArg Host.Outcome.next (answer_error (commit_refused (s := s.touch n) hno)))
  · have hopen : ((s.touch n).sessOf n).opened = true := (touch_opened s n).trans h.opened
    obtain ⟨t, ht, honly, hend⟩ := endUpdate_spec h.1.1 hopen (s := s.touch n) hcur hown 0xA 0x11
    have habort : abortUpdateBy n (s.touch n) = .ok t :=
      (if_pos ⟨hown, by rw [touch_upd, hcur]; rfl⟩).trans (congrArg Except.ok ht)
    exact .intro ((exec_updateCommand hdev (cmd := 2) (c := 0) (by decide) h).trans (congrArg Host.Outcome.next (answer_ok habort))) ⟨honly, hend⟩
  · have habort : abortUpdateBy n (s.touch n) = .error Abort.state := if_neg fun hb => hno hb.1
    exact (exec_updateCommand hdev (cmd := 2) (c := 0) (by decide) h).trans (congrArg Host.Outcome.next (answer_error habort))
  · have hrec := updRecord_only o.region o.id 3 0 (s.updUpd fun u => { u with committed := true, state := 3, fleetResult := 0 })
    exact .intro (congrArg Host.Outcome.next ((if_pos ⟨hpub, hlink⟩).trans (fleetCommit hown hst hcur hok)))
      ⟨((updUpd_only s _).mono (by decide)).next hrec, hrec.upd⟩
  · exact congrArg Host.Outcome.next (if_neg fun hb => hno.elim (fun hp => Bool.false_ne_true (hp.symm.trans hb.1)) (· hb.2))
  · exact .intro (congrArg Host.Outcome.next ((if_pos ⟨hpub, hlink⟩).trans (fleetMessage_cart hhead hlen hkind))) ⟨updSteer_only s _, rfl⟩
  · exact .intro (congrArg Host.Outcome.next ((if_pos ⟨hpub, hlink⟩).trans (fleetMessage_rejected hp hhead))) ⟨updFleet_only s _, rfl⟩
  · exact .intro (congrArg Host.Outcome.next (if_pos ⟨h4, hwait⟩)) ⟨freeAnte_only true s, freeAnte_free true s⟩
  · exact congrArg Host.Outcome.next (if_neg fun hb => hno.elim (· hb.1) fun hw => Bool.false_ne_true (hw.symm.trans hb.2))

end Sys2Proof.Machine

/-! Proofs of the statement on the regions of an update: withdrawal, confirmation, fall-back, hand-over, staging and recovery (19). -/

namespace Sys2Proof.Machine

set_option Elab.async false

/-! ## The owner of an update -/

/-- The owner of the running update is told its result. -/
def ownerTold (code : Nat) (s : State) : State := match s.upd.owner with | some n => setResult n code s | none => s

theorem setResult_only (src code : Nat) (s : State) : Only [.serv, .upd] s (setResult src code s) :=
  .ite ((updUpd_only s _).mono (by decide)) ((updSess_only s src _).mono (by decide))

theorem setResult_keep {α : Type} (src code : Nat) (s : State) (p : Upd → α) (hp : ∀ u x, p { u with fleetResult := x } = p u) :
    p (setResult src code s).upd = p s.upd := by
  unfold setResult
  split
  · exact hp _ _
  · rfl

theorem ownerTold_only (code : Nat) (s : State) : Only [.serv, .upd] s (ownerTold code s) := by
  unfold ownerTold
  split
  · exact setResult_only _ _ _
  · exact .refl _ _

theorem ownerTold_keep {α : Type} (code : Nat) (s : State) (p : Upd → α) (hp : ∀ u x, p { u with fleetResult := x } = p u) :
    p (ownerTold code s).upd = p s.upd := by
  unfold ownerTold
  split
  · exact setResult_keep _ _ s p hp
  · rfl

theorem ownerTold_region (code c : Nat) (s : State) : (ownerTold code s).region c = s.region c :=
  ownerTold_keep code s (fun u => u.regions.getD (c - 1) {}) fun _ _ => rfl

theorem freeAnte_kept (s : State) (c : Nat) : (freeAnte false s).region c = s.region c := by
  unfold freeAnte
  cases s.upd.cur with
  | none => rfl
  | some o => rfl

/-- A region that was receiving returns to its earlier state when the Antechamber is freed. -/
theorem freeAnte_restored {s : State} {o : Offer} (hcur : s.upd.cur = some o) (hlen : o.region - 1 < s.upd.regions.length) :
    (freeAnte true s).region o.region = { s.region o.region with state := (s.region o.region).before } := by
  have heq : freeAnte true s = (s.updRegion o.region fun r => { r with state := r.before }).updUpd fun u =>
      { u with state := 0, owner := none, cur := none, body := [], last := none, committed := false } := by
    unfold freeAnte
    rw [hcur]
    rfl
  rw [heq]
  exact updRegion_self (s := s) hlen

theorem updRegion_length {s : State} (c : Nat) (f : Region → Region) : (s.updRegion c f).upd.regions.length = s.upd.regions.length :=
  List.length_modify _ _ _

/-! ## Hand-over (R421) -/

section
variable {s : State} {c : Nat} {o : Offer}

theorem committedFor_spec (h : committedFor c s = some o) : s.upd.cur = some o ∧ s.upd.committed = true ∧ o.region = c := by
  unfold committedFor at h
  cases hcur : s.upd.cur with
  | none => rw [hcur] at h; cases h
  | some x =>
    rw [hcur] at h
    dsimp only at h
    split at h
    next hb =>
      cases h
      exact ⟨rfl, hb⟩
    next => cases h

/-- What a live hand-over makes of its region. -/
def handedOver (o : Offer) (r : Region) : Region :=
  { r with state := 3, prev := some r.active, active := imgOf o.header, left := probationNs, restarts := 0, fall := false, lastResult := 0 }

theorem inEffect_spec (hlen : o.region - 1 < s.upd.regions.length) : ∃ t, inEffect o s = t ∧ Only [.serv, .upd, .flow, .lead] s t ∧
    (o.region ≠ 1 → Only [.serv, .upd, .flow] s t) ∧ (o.region = 1 → t.lead = { s.lead with pause := true }) ∧ t.upd.state = 0 ∧
    t.upd.cur = none ∧ t.upd.committed = false ∧ t.region o.region = handedOver o (s.region o.region) := by
  obtain ⟨u, hu⟩ : ∃ u, s.updRegion o.region (handedOver o) = u := ⟨_, rfl⟩
  have huonly : Only [.upd] s u := hu ▸ updRegion_only _ _ s
  have hureg : u.region o.region = handedOver o (s.region o.region) := hu ▸ updRegion_self hlen
  obtain ⟨v, hv⟩ : ∃ v, (if o.region = 1 then u.updLead fun x => { x with pause := true } else u) = v := ⟨_, rfl⟩
  have hvonly : Only [.lead] u v := hv ▸ .ite (updLead_only u _) (.refl _ _)
  have hfree := ownerTold_only 0 v
  have hante := freeAnte_only false (ownerTold 0 v)
  obtain ⟨hstate, -, hcur, hcom⟩ := freeAnte_free false (ownerTold 0 v)
  have heq : inEffect o s = updRecord o.region o.id 4 0 (freeAnte false (ownerTold 0 v)) := by
    rw [← hv, ← hu]
    rfl
  have hrec := updRecord_only o.region o.id 4 0 (freeAnte false (ownerTold 0 v))
  refine ⟨_, heq, ?_, fun h1 => ?_, fun h1 => ?_, ?_, ?_, ?_, ?_⟩
  · exact ((((huonly.mono (by decide)).next hvonly).next hfree).next hante).next hrec
  · have hvu : v = u := by rw [← hv, if_neg h1]
    rw [hvu] at hfree hante hrec ⊢
    exact (((huonly.mono (by decide)).next hfree).next hante).next hrec
  · rw [hrec.lead, hante.lead, hfree.lead, ← hv, if_pos h1, ← huonly.lead]
    rfl
  · rw [hrec.upd, hstate]
  · rw [hrec.upd, hcur]
  · rw [hrec.upd, hcom]
  · rw [hrec.region, freeAnte_kept, ownerTold_region, hvonly.region, hureg]

/-- An update that ends frees the Antechamber, and its region has the result. -/
theorem endUpdate_region (hcur : s.upd.cur = some o) (hlen : o.region - 1 < s.upd.regions.length) (event code : Nat) :
    ∃ t, endUpdate event code s = t ∧ Only [.serv, .upd, .flow] s t ∧ t.upd.state = 0 ∧ t.upd.cur = none ∧
      t.region o.region = { s.region o.region with state := (s.region o.region).before, lastResult := code } := by
  obtain ⟨u, hu⟩ : ∃ u, ownerTold code s = u := ⟨_, rfl⟩
  have huonly : Only [.serv, .upd] s u := hu ▸ ownerTold_only code s
  have hucur : u.upd.cur = some o := hu ▸ (ownerTold_keep code s Upd.cur fun _ _ => rfl).trans hcur
  have hureg : u.region o.region = s.region o.region := hu ▸ ownerTold_region code _ s
  have hulen : o.region - 1 < u.upd.regions.length := by
    rw [← hu, ownerTold_keep code s (fun x => x.regions.length) fun _ _ => rfl]
    exact hlen
  obtain ⟨v, hv⟩ : ∃ v, (u.updRegion o.region fun r => { r with lastResult := code }) = v := ⟨_, rfl⟩
  have hvonly : Only [.upd] u v := hv ▸ updRegion_only _ _ u
  have hvreg : v.region o.region = { s.region o.region with lastResult := code } := by rw [← hv, updRegion_self hulen, hureg]
  have hvlen : o.region - 1 < v.upd.regions.length := by rw [← hv, updRegion_length]; exact hulen
  have hvcur : v.upd.cur = some o := hv ▸ hucur
  have heq : endUpdate event code s = updRecord o.region o.id event code (freeAnte true v) := by
    unfold endUpdate
    rw [hcur, ← hv, ← hu]
    rfl
  have hante := freeAnte_only true v
  have hrec := updRecord_only o.region o.id event code (freeAnte true v)
  obtain ⟨hstate, -, hfree, -⟩ := freeAnte_free true v
  refine ⟨_, heq, (((huonly.mono (by decide)).next hvonly).next hante).next hrec, ?_, ?_, ?_⟩
  · rw [hrec.upd, hstate]
  · rw [hrec.upd, hfree]
  · rw [hrec.region, freeAnte_restored hvcur hvlen, hvreg]

section
variable (hcom : committedFor c s = some o) (hlive : liveMay s = true)
include hcom hlive

theorem applyImage_fits {code : Nat} {conv : Bool} (hset : settingsFit (s.region c).active o.header conv = true) :
    applyImage c code conv true s = inEffect o s := by
  unfold applyImage
  rw [hcom]
  exact (if_neg (by rw [hlive]; decide)).trans ((if_neg (by rw [hset]; decide)).trans (if_neg (by decide)))

theorem applyImage_refused {code : Nat} {conv : Bool} (hset : settingsFit (s.region c).active o.header conv = true) :
    applyImage c code conv false s = endUpdate 4 code s := by
  unfold applyImage
  rw [hcom]
  exact (if_neg (by rw [hlive]; decide)).trans ((if_neg (by rw [hset]; decide)).trans (if_pos (by decide)))
end

theorem applyImage_none {code : Nat} {conv fits : Bool} (h : committedFor c s = none) : applyImage c code conv fits s = s := by
  unfold applyImage
  rw [h]

theorem applyPackage_none (h : committedFor 4 s = none) : applyPackage s = s := by
  unfold applyPackage
  rw [h]

/-- A package that every entry of is taken. -/
theorem applyPackage_taken {p : Package} {u : State} (hcom : committedFor 4 s = some o) (hlive : liveMay s = true)
    (hp : packageOf s (o.header.take 32) (s.upd.body.take (o.total - 96)) (s.upd.body.drop (o.total - 96)) = some p)
    (hu : applyLive p s = (none, u)) :
    applyPackage s = updRecord 4 o.id 4 0 (freeAnte true (ownerTold 0 (u.updRegion 4 fun x => { x with lastResult := 0 }))) := by
  unfold applyPackage
  rw [hcom]
  dsimp only
  rw [if_neg (by rw [hlive, Bool.true_or]; decide), hp]
  dsimp only
  rw [hu]
  rfl
end

/-! ## Staging (R422) -/

section
variable {s : State} {c : Nat} {o : Offer} {x : Img}

/-- A committed image moved to its staging area. -/
theorem stageImage_staged (hcur : s.upd.cur = some o) (hcom : s.upd.committed = true) (hst : stagedRegion o.region = true) :
    stageImage s = updRecord o.region o.id 5 0 (freeAnte false (ownerTold 0 (s.updRegion o.region fun r =>
      { r with state := 2, staged := some (imgOf o.header), stagedMin := fieldLe o.header 22 2, lastResult := 0 }))) := by
  unfold stageImage
  rw [hcur]
  dsimp only
  rw [if_pos ⟨hcom, hst⟩]
  rfl

/-- The staged image copied and running. -/
def copiedIn (x : Img) (r : Region) : Region :=
  { r with staged := none, state := 3, prev := some r.active, active := x, left := probationNs, restarts := 0, fall := false, lastResult := 0 }

theorem copyStaged_verified {selfTest conv : Bool} (hx : (s.region c).staged = some x) (hformat : x.format = (s.region c).active.format) :
    copyStaged c true selfTest conv s =
      (if (!selfTest) = true then fallBackNow c (updRecord c (s.region c).lastId 6 0 (s.updRegion c (copiedIn x)))
        else updRecord c (s.region c).lastId 6 0 (s.updRegion c (copiedIn x))) := by
  unfold copyStaged
  simp only [hx, hformat]
  cases selfTest <;> simp <;> rfl

theorem copyStaged_unverified {selfTest conv : Bool} (hx : (s.region c).staged = some x) :
    copyStaged c false selfTest conv s =
      updRecord c (s.region c).lastId 6 0x13 (s.updRegion c fun r => { r with staged := none, state := r.before, lastResult := 0x13 }) := by
  unfold copyStaged
  simp [hx]

theorem exec_stagedCopy {verified selfTest conv : Bool} (hc : stagedRegion c = true) (hdev : s.pw.dev = .start) :
    exec (.stagedCopy c verified selfTest conv) s = .next (copyStaged c verified selfTest conv s) :=
  (withUnit_next hc).trans (congrArg Host.Outcome.next (if_pos hdev))
end

/-! ## Withdrawal, confirmation and fall-back (R423, R427) -/

section
variable {s : State} {c : Nat}

/-- A fall-back of a region to its previous image. -/
def fallenBack (r : Region) : Region :=
  { r with active := r.prev.getD r.active, prev := none, state := 0, left := 0, restarts := 0, fall := false }

/-- The confirmation of a region's image. -/
def confirmedImage (r : Region) : Region :=
  { r with state := 4, prev := none, left := 0, fall := false, fuse := max r.fuse (min r.active.rollback 63) }

theorem fallBackNow_spec (hlen : c - 1 < s.upd.regions.length) : Only [.upd, .flow] s (fallBackNow c s) ∧
    (fallBackNow c s).region c = fallenBack (s.region c) := by
  obtain ⟨u, hu⟩ : ∃ u, s.updRegion c fallenBack = u := ⟨_, rfl⟩
  have hrec := updRecord_only c (u.region c).lastId 8 0 u
  have heq : fallBackNow c s = updRecord c (u.region c).lastId 8 0 u := by rw [← hu]; rfl
  have hself : u.region c = fallenBack (s.region c) := hu ▸ updRegion_self hlen
  have honly : Only [.upd] s u := hu ▸ updRegion_only c _ s
  rw [heq]
  exact ⟨(honly.mono (by decide)).next hrec, (hrec.region (by decide) c).trans hself⟩

theorem confirmed_spec (hlen : c - 1 < s.upd.regions.length) : Only [.upd, .flow] s (confirmed c s) ∧
    (confirmed c s).region c = confirmedImage (s.region c) := by
  obtain ⟨u, hu⟩ : ∃ u, s.updRegion c confirmedImage = u := ⟨_, rfl⟩
  have hrec := updRecord_only c (u.region c).lastId 7 0 u
  have heq : confirmed c s = updRecord c (u.region c).lastId 7 0 u := by rw [← hu]; rfl
  have hself : u.region c = confirmedImage (s.region c) := hu ▸ updRegion_self hlen
  have honly : Only [.upd] s u := hu ▸ updRegion_only c _ s
  rw [heq]
  exact ⟨(honly.mono (by decide)).next hrec, (hrec.region (by decide) c).trans hself⟩

/-- A region's command by a session whose role has the right. -/
theorem regionCommand_right {n role k : Nat} (h3 : 3 ≤ k) (h5 : k ≤ 5) (hrole : 2 ≤ role) (h1 : 1 ≤ c) (h8 : c ≤ 8) :
    regionCommand n role k c s = if k = 3 then withdrawRegion c s else if k = 4 then confirmCommand c s else fallBackCommand c s := by
  have hos : Right.os.met role = true := decide_eq_true hrole
  have hc0 : c ≠ 0 := Nat.ne_of_gt h1
  have hk : k = 3 ∨ k = 4 ∨ k = 5 := by omega
  unfold regionCommand
  rcases hk with rfl | rfl | rfl
  · simp [hos, hc0, h8]
  · simp [hos, hc0, h8]
  · simp [hos, hc0, h8]

theorem regionCommand_noRight {n role : Nat} (hn : n < 16) (hrole : role = 1) : regionCommand n role 3 c s = .error Abort.noRight := by
  have hos : Right.os.met role = false := by rw [hrole]; rfl
  unfold regionCommand
  simp [hos, Nat.ne_of_lt hn]

/-- A region's command of a session, as the fleet's commands are carried out. -/
theorem exec_regionCommand {n k : Nat} (hdev : s.pw.dev ≠ .ladder) (h8 : c ≤ 8) (h : s.admits n 0x5A10 3 (.int ((k * 256 + c : Nat) : Int))) :
    updateCommand (.session n) k (c % 256) s = .next ((s.touch n).answer n (regionCommand n (s.sessOf n).role k c (s.touch n))) := by
  have hc : c < 256 := by omega
  rw [Nat.mod_eq_of_lt hc]
  exact exec_updateCommand hdev hc h

theorem probation_next {t : State} (h1 : 1 ≤ c) (h8 : c ≤ 8) (h : s = t) : withUnit (decide (1 ≤ c) && decide (c ≤ 8)) s = .next t := by
  rw [← h]
  exact withUnit_next (by rw [decide_eq_true h1, decide_eq_true h8]; rfl)
end

/-! ## Recovery in Ladder (R429) -/

section
variable {s : State} {n : Nat} {hdr sig body : Bytes}

/-- The offer that an image in Ladder makes. -/
def ladderOfferOf (hdr sig : Bytes) (s : State) : Offer := ⟨s.upd.count + 1, headerRegion hdr, hdr, sig, sha384 hdr, offerTotal hdr⟩

/-- The record of an image in Ladder carries its header, its signature and zeros. -/
theorem imageRecord_parts (hh : hdr.length = 96) (hs : sig.length = 96) :
    (hdr ++ sig ++ List.replicate 40 0#8).take 96 = hdr ∧ ((hdr ++ sig ++ List.replicate 40 0#8).drop 96).take 96 = sig ∧
      zeros (((hdr ++ sig ++ List.replicate 40 0#8).drop 192).take 7) = true := by
  have hlen : (hdr ++ sig).length = 192 := by rw [List.length_append, hh, hs]
  refine ⟨?_, ?_, ?_⟩
  · rw [List.append_assoc]
    exact List.take_left' hh
  · rw [List.append_assoc, List.drop_left' hh]
    exact List.take_left' hs
  · rw [List.drop_left' hlen]
    decide

/-- An accepted offer in Ladder stands in the slot. -/
theorem ladderOffer_taken (hn : n < 16) (hh : hdr.length = 96) (hs : sig.length = 96) (hf : ladderFault hdr sig s = 0) :
    ladderOffer n (hdr ++ sig ++ List.replicate 40 0#8) s = updRecord (headerRegion hdr) (s.upd.count + 1) 1 0 (updNamed n (s.upd.count + 1)
      (updTold n 0 (s.updUpd fun u => { u with count := s.upd.count + 1, slot := some (n, ladderOfferOf hdr sig s, []) }))) := by
  obtain ⟨hhdr, hsig, hz⟩ := imageRecord_parts hh hs
  unfold ladderOffer
  dsimp only
  rw [hz, hhdr, hsig, if_pos rfl, if_neg (not_not.2 hf), setResult_session hn, setId_session hn]
  rfl

theorem ladderBlock_whole {o : Offer} (hn : n < 16) (hslot : s.upd.slot = some (n, o, [])) :
    ladderBlock n 0 body s = updTold n 0 (s.updUpd fun u => { u with slot := some (n, o, body) }) := by
  unfold ladderBlock
  rw [hslot]
  exact (if_pos ⟨rfl, rfl⟩).trans (setResult_session hn 0 _)

/-- The image in the slot made active. -/
def ladderActive (o : Offer) (s : State) : State :=
  (((s.updUpd fun u => { u with slot := none }).updRegion o.region fun r =>
    { r with prev := some r.active, active := imgOf o.header, state := 0, left := 0, fall := false }).updUpd fun u =>
      { u with ladderReason := ladderReasonAfter o.region u.ladderReason }).updRegion o.region fun r => { r with lastId := o.id, lastResult := 0 }

theorem ladderCommit_whole {o : Offer} (hn : n < 16) (hslot : s.upd.slot = some (n, o, body)) (hlen : body.length = o.total)
    (hsha : sha384 body = o.header.drop 48) : ladderCommit n s = .ok (updRecord o.region o.id 3 0 (updTold n 0 (ladderActive o s))) := by
  unfold ladderCommit
  rw [hslot]
  dsimp only
  rw [if_neg (not_not.2 rfl), if_pos ⟨hlen, hsha⟩, if_neg (not_not.2 rfl), setResult_session hn]
  rfl

theorem ladderActive_spec {o : Offer} (hlen : o.region - 1 < s.upd.regions.length) : ∃ t, ladderActive o s = t ∧ Only [.upd] s t ∧
    t.upd.slot = none ∧ (t.region o.region).active = imgOf o.header ∧ (t.region o.region).state = 0 ∧
    t.upd.ladderReason = ladderReasonAfter o.region s.upd.ladderReason := by
  obtain ⟨u, hu⟩ : ∃ u, (((s.updUpd fun u => { u with slot := none }).updRegion o.region fun r =>
    { r with prev := some r.active, active := imgOf o.header, state := 0, left := 0, fall := false }).updUpd fun u =>
      { u with ladderReason := ladderReasonAfter o.region u.ladderReason }) = u := ⟨_, rfl⟩
  have huonly : Only [.upd] s u := hu ▸ ((updUpd_only s _).trans (updRegion_only _ _ _)).trans (updUpd_only _ _)
  have hself := updRegion_self (s := s.updUpd fun u => { u with slot := none }) (c := o.region)
    (f := fun r => { r with prev := some r.active, active := imgOf o.header, state := 0, left := 0, fall := false }) hlen
  have hureg : u.region o.region = { s.region o.region with
      prev := some (s.region o.region).active, active := imgOf o.header, state := 0, left := 0, fall := false } := hu ▸ hself
  have hulen : o.region - 1 < u.upd.regions.length := by
    rw [← hu]
    exact Nat.lt_of_lt_of_eq hlen (updRegion_length (s := s.updUpd fun u => { u with slot := none }) o.region _).symm
  have htself := updRegion_self (f := fun r => { r with lastId := o.id, lastResult := 0 }) hulen
  refine ⟨u.updRegion o.region fun r => { r with lastId := o.id, lastResult := 0 }, by rw [← hu]; rfl, huonly.trans (updRegion_only _ _ u),
    by rw [← hu]; rfl, ?_, ?_, by rw [← hu]; rfl⟩
  · rw [htself, hureg]
  · rw [htself, hureg]

/-- The whole recovery of an image. -/
theorem ladderImage_spec (hn : n < 16) (hopen : (s.sessOf n).opened = true) (hh : hdr.length = 96) (hs : sig.length = 96)
    (hf : ladderFault hdr sig s = 0) (hlen : body.length = offerTotal hdr) (hsha : sha384 body = hdr.drop 48)
    (hreg : headerRegion hdr - 1 < s.upd.regions.length) : ∃ t, ladderImage n hdr sig body s = .ok t ∧ Only [.serv, .upd, .flow] s t ∧
      (t.sessOf n).updResult = 0 ∧ t.upd.slot = none ∧ (t.region (headerRegion hdr)).active = imgOf hdr ∧ (t.region (headerRegion hdr)).state = 0 ∧
      t.upd.ladderReason = ladderReasonAfter (headerRegion hdr) s.upd.ladderReason := by
  obtain ⟨u0, hu0⟩ : ∃ u0, (s.updUpd fun u => { u with count := s.upd.count + 1, slot := some (n, ladderOfferOf hdr sig s, []) }) = u0 := ⟨_, rfl⟩
  have h0only : Only [.upd] s u0 := hu0 ▸ updUpd_only s _
  have hopen0 : (u0.sessOf n).opened = true := by rw [h0only.sessOf (by decide)]; exact hopen
  obtain ⟨u1, hu1⟩ : ∃ u1, updRecord (headerRegion hdr) (s.upd.count + 1) 1 0 (updNamed n (s.upd.count + 1) (updTold n 0 u0)) = u1 := ⟨_, rfl⟩
  have hnamed : Only [.serv] u0 (updNamed n (s.upd.count + 1) (updTold n 0 u0)) := (updTold_only n 0 u0).trans (updNamed_only n _ _)
  have hrec1 : Only [.flow] (updNamed n (s.upd.count + 1) (updTold n 0 u0)) u1 := hu1 ▸ updRecord_only _ _ _ _ _
  have h1only : Only [.serv, .flow] u0 u1 := (hnamed.mono (by decide)).next hrec1
  have hoffer : ladderOffer n (hdr ++ sig ++ List.replicate 40 0#8) s = u1 := by
    rw [ladderOffer_taken hn hh hs hf, hu0, hu1]
  have hres : (u1.sessOf n).updResult = 0 := by
    rw [hrec1.sessOf (by decide)]
    exact (updNamed_told hopen0 0 _).1
  have hopen1 : (u1.sessOf n).opened = true := by
    rw [hrec1.sessOf (by decide)]
    unfold updNamed
    rw [sess_upd (updTold_result hopen0 0).2]
    exact (updTold_result hopen0 0).2
  have hslot1 : u1.upd.slot = some (n, ladderOfferOf hdr sig s, []) := by rw [h1only.upd, ← hu0]; rfl
  obtain ⟨u2, hu2⟩ : ∃ u2, updTold n 0 (u1.updUpd fun u => { u with slot := some (n, ladderOfferOf hdr sig s, body) }) = u2 := ⟨_, rfl⟩
  have h2only : Only [.serv, .upd] u1 u2 := hu2 ▸ ((updUpd_only u1 _).mono (by decide)).next (updTold_only n 0 _)
  have hopen2 : (u2.sessOf n).opened = true :=
    hu2 ▸ (updTold_result (s := u1.updUpd fun u => { u with slot := some (n, ladderOfferOf hdr sig s, body) }) hopen1 0).2
  have hslot2 : u2.upd.slot = some (n, ladderOfferOf hdr sig s, body) := hu2 ▸ rfl
  have hblock : ladderBlock n 0 body u1 = u2 := (ladderBlock_whole hn hslot1).trans hu2
  have hreg2 : headerRegion hdr - 1 < u2.upd.regions.length := by
    have hlen2 : u2.upd.regions = u1.upd.regions := hu2 ▸ rfl
    rw [hlen2, h1only.upd, ← hu0]
    exact hreg
  have hreason2 : u2.upd.ladderReason = s.upd.ladderReason := by
    have hlr : u2.upd.ladderReason = u1.upd.ladderReason := hu2 ▸ rfl
    rw [hlr, h1only.upd, ← hu0]
    rfl
  obtain ⟨u3, hu3, h3only, hslot3, hact, hstate, hreason⟩ := ladderActive_spec (s := u2) (o := ladderOfferOf hdr sig s) hreg2
  have hopen3 : (u3.sessOf n).opened = true := by rw [h3only.sessOf (by decide)]; exact hopen2
  have hcommit : ladderCommit n u2 = .ok (updRecord (headerRegion hdr) (s.upd.count + 1) 3 0 (updTold n 0 u3)) :=
    hu3 ▸ ladderCommit_whole hn hslot2 hlen hsha
  have htold : Only [.serv] u3 (updTold n 0 u3) := updTold_only n 0 u3
  have hrec3 := updRecord_only (headerRegion hdr) (s.upd.count + 1) 3 0 (updTold n 0 u3)
  refine ⟨_, ?_, (((((h0only.mono (by decide)).next h1only).next h2only).next h3only).next htold).next hrec3, ?_, ?_, ?_, ?_, ?_⟩
  · unfold ladderImage
    dsimp only
    rw [hoffer, if_neg (not_not.2 hres), hblock, hcommit]
  · rw [hrec3.sessOf (by decide)]
    exact (updTold_result hopen3 0).1
  · rw [hrec3.upd, htold.upd, hslot3]
  · rw [hrec3.region, htold.region]
    exact hact
  · rw [hrec3.region, htold.region]
    exact hstate
  · rw [hrec3.upd, htold.upd, hreason, hreason2]
    rfl
end

/-- A session's image in Ladder: what the write asks for, in order. -/
def ladderWrite (n : Nat) (hdr sig body : Bytes) (w : Ctx) (s : State) : Except Nat State :=
  if !Right.svc.met w.role then .error Abort.noRight
  else if s.pw.dev ≠ .ladder then .error Abort.state
  else if hdr.length ≠ 96 ∨ sig.length ≠ 96 then .error Abort.range
  else ladderImage n hdr sig body s

/-- Settles O56: what each command, hand-over, copy and end of a probation makes of its region, and the recovery of an image in Ladder. -/
theorem updateRegions : Obligations.UpdateRegions := by
  refine ⟨fun s n c h hdev hrole h1 h8 hlen hst => ?_, fun s n c h hdev hrole h1 h8 hst => ?_, fun s n c h hdev hrole h8 => ?_,
    fun s n c h hdev hrole h1 h8 hlen hst => ?_, fun s n c h hdev hrole h1 h3 hlen hst hfall => ?_, fun s n c h hdev hrole h5 h8 hlen hst hfall => ?_,
    fun s o conv hcom hlive hset hlen => ?_, fun s o conv hcom hlive hset hlen => ?_, fun s o hcom hlive hset hlen => ?_, fun s hno => ?_,
    fun s o p u hcom hlive hp hu hlen => ?_, fun s hno => ?_, fun s o hr hcur hcom hst hlen => ?_, fun s c x conv hdev hc hlen hx hformat => ?_,
    fun s c x st conv hdev hc hlen hx => ?_, fun s c x conv hdev hc hlen hx hformat => ?_, fun s c h1 h8 hlen hdev hst hleft => ?_,
    fun s c h1 h8 hleft => ?_, fun s c x h1 h3 hlen hr hst hprev => ?_, fun s n hdr sig body h hrole hdev hh hs hf hlen hsha hreg => ?_,
    fun s n hdr sig body h h2 h4 => ?_⟩
  · have hcmd := (regionCommand_right (s := s.touch n) (n := n) (k := 3) (by decide) (by decide) hrole h1 h8).trans (if_pos rfl)
    exact .intro ((exec_regionCommand hdev h8 (k := 3) h).trans (congrArg Host.Outcome.next (answer_ok (hcmd.trans (if_pos hst)))))
      ⟨updRegion_only c _ _, updRegion_self (s := s.touch n) hlen⟩
  · have hcmd := (regionCommand_right (s := s.touch n) (n := n) (k := 3) (by decide) (by decide) hrole h1 h8).trans (if_pos rfl)
    exact (exec_regionCommand hdev h8 (k := 3) h).trans (congrArg Host.Outcome.next (answer_error (hcmd.trans (if_neg hst))))
  · exact (exec_regionCommand hdev h8 (k := 3) h).trans (congrArg Host.Outcome.next (answer_error (regionCommand_noRight h.1.1 hrole)))
  · have hcmd := (regionCommand_right (s := s.touch n) (n := n) (k := 4) (by decide) (by decide) hrole h1 h8).trans rfl
    exact .intro ((exec_regionCommand hdev h8 (k := 4) h).trans (congrArg Host.Outcome.next (answer_ok (hcmd.trans (if_pos hst)))))
      (confirmed_spec (s := s.touch n) hlen)
  · have hlive : liveRegion c = true := by
      have hc : c = 1 ∨ c = 2 ∨ c = 3 := by omega
      rcases hc with rfl | rfl | rfl <;> rfl
    have hmay : ¬ ((s.region c).state ≠ 3 ∨ (s.region c).fall = true) := not_or.2 ⟨not_not.2 hst, Bool.eq_false_iff.1 hfall⟩
    have hcmd := (regionCommand_right (s := s.touch n) (n := n) (k := 5) (by decide) (by decide) hrole h1 (by omega)).trans rfl
    exact .intro ((exec_regionCommand hdev (by omega) (k := 5) h).trans (congrArg Host.Outcome.next
      (answer_ok (hcmd.trans ((if_neg hmay).trans (congrArg Except.ok (if_pos hlive))))))) (fallBackNow_spec (s := s.touch n) hlen)
  · have hlive : ¬ liveRegion c = true := by
      have hc : c = 5 ∨ c = 6 ∨ c = 7 ∨ c = 8 := by omega
      rcases hc with rfl | rfl | rfl | rfl <;> decide
    have hmay : ¬ ((s.region c).state ≠ 3 ∨ (s.region c).fall = true) := not_or.2 ⟨not_not.2 hst, Bool.eq_false_iff.1 hfall⟩
    have hcmd := (regionCommand_right (s := s.touch n) (n := n) (k := 5) (by decide) (by decide) hrole (by omega) h8).trans rfl
    exact .intro ((exec_regionCommand hdev h8 (k := 5) h).trans (congrArg Host.Outcome.next
      (answer_ok (hcmd.trans ((if_neg hmay).trans (congrArg Except.ok (if_neg hlive)))))))
      ⟨updRegion_only c _ _, updRegion_self (s := s.touch n) hlen⟩
  · obtain ⟨hcur, hc, h1⟩ := committedFor_spec hcom
    obtain ⟨t, ht, honly, -, hlead, hstate, hfree, hend, hreg⟩ := inEffect_spec (s := s) (o := o) (by rw [h1]; exact hlen)
    rw [h1] at hreg
    exact .intro (congrArg Host.Outcome.next ((applyImage_fits hcom hlive hset).trans ht)) ⟨honly, hlead h1, hstate, hfree, hend, hreg⟩
  · obtain ⟨hcur, hc, h1⟩ := committedFor_spec hcom
    obtain ⟨t, ht, honly, hstate, hfree, hreg⟩ := endUpdate_region hcur (by rw [h1]; exact hlen) 4 0xF
    rw [h1] at hreg
    exact .intro (congrArg Host.Outcome.next ((applyImage_refused hcom hlive hset).trans ht)) ⟨honly, hstate, hfree, hreg⟩
  · obtain ⟨hcur, hc, h3⟩ := committedFor_spec hcom
    obtain ⟨t, ht, -, honly, -, hstate, -, -, hreg⟩ := inEffect_spec (s := s) (o := o) (by rw [h3]; exact hlen)
    rw [h3] at hreg
    exact .intro (congrArg Host.Outcome.next ((applyImage_fits hcom hlive hset).trans ht)) ⟨honly (by rw [h3]; decide), hstate, hreg⟩
  · exact congrArg Host.Outcome.next (applyImage_none hno)
  · obtain ⟨v, hv⟩ : ∃ v, ownerTold 0 (u.updRegion 4 fun x => { x with lastResult := 0 }) = v := ⟨_, rfl⟩
    have hvonly : Only [.serv, .upd] u v := hv ▸ ((updRegion_only 4 _ u).mono (by decide)).trans (ownerTold_only 0 _)
    have hvreg : (v.region 4).lastResult = 0 := by
      rw [← hv, ownerTold_region, updRegion_self hlen]
    have hvcur : v.upd.cur = u.upd.cur := hv ▸ ownerTold_keep 0 (u.updRegion 4 fun x => { x with lastResult := 0 }) Upd.cur fun _ _ => rfl
    have hante := freeAnte_only true v
    have hrec := updRecord_only 4 o.id 4 0 (freeAnte true v)
    refine ⟨_, congrArg Host.Outcome.next ((applyPackage_taken hcom hlive hp hu).trans (by rw [hv])), ((hvonly.mono (by decide)).next hante).next hrec,
      ?_, ?_, ?_, fun hfree => ?_⟩
    · rw [hrec.upd, (freeAnte_free true v).1]
    · rw [hrec.upd, (freeAnte_free true v).2.2.1]
    · rw [hrec.upd, (freeAnte_free true v).2.2.2]
    · have hkept : (freeAnte true v).region 4 = v.region 4 := by
        unfold freeAnte
        rw [hvcur, hfree]
        rfl
      rw [hrec.region, hkept, hvreg]
  · exact congrArg Host.Outcome.next (applyPackage_none hno)
  · obtain ⟨u, hu⟩ : ∃ u, (s.updRegion o.region fun r =>
      { r with state := 2, staged := some (imgOf o.header), stagedMin := fieldLe o.header 22 2, lastResult := 0 }) = u := ⟨_, rfl⟩
    have huonly : Only [.upd] s u := hu ▸ updRegion_only _ _ s
    have hureg : u.region o.region = { s.region o.region with
        state := 2, staged := some (imgOf o.header), stagedMin := fieldLe o.header 22 2, lastResult := 0 } := hu ▸ updRegion_self hlen
    have hante := freeAnte_only false (ownerTold 0 u)
    have hrec := updRecord_only o.region o.id 5 0 (freeAnte false (ownerTold 0 u))
    refine .intro (congrArg Host.Outcome.next ((if_pos hr).trans ((stageImage_staged hcur hcom hst).trans (by rw [hu]))))
      ⟨(((huonly.mono (by decide)).next (ownerTold_only 0 u)).next hante).next hrec, ?_, ?_, ?_⟩
    · rw [hrec.upd, (freeAnte_free false _).1]
    · rw [hrec.upd, (freeAnte_free false _).2.2.1]
    · rw [hrec.region, freeAnte_kept, ownerTold_region, hureg]
  · have hrec := updRecord_only c (s.region c).lastId 6 0 (s.updRegion c (copiedIn x))
    exact .intro ((exec_stagedCopy hc hdev).trans (congrArg Host.Outcome.next ((copyStaged_verified hx hformat).trans (if_neg (by decide)))))
      ⟨((updRegion_only c _ s).mono (by decide)).next hrec, (hrec.region (by decide) c).trans (updRegion_self hlen)⟩
  · have hrec := updRecord_only c (s.region c).lastId 6 0x13 (s.updRegion c fun r => { r with staged := none, state := r.before, lastResult := 0x13 })
    exact .intro ((exec_stagedCopy hc hdev).trans (congrArg Host.Outcome.next (copyStaged_unverified hx)))
      ⟨((updRegion_only c _ s).mono (by decide)).next hrec, (hrec.region (by decide) c).trans (updRegion_self hlen)⟩
  · obtain ⟨u, hu⟩ : ∃ u, updRecord c (s.region c).lastId 6 0 (s.updRegion c (copiedIn x)) = u := ⟨_, rfl⟩
    have hrec : Only [.flow] (s.updRegion c (copiedIn x)) u := hu ▸ updRecord_only _ _ _ _ _
    have huonly : Only [.upd, .flow] s u := ((updRegion_only c _ s).mono (by decide)).next hrec
    have hureg : u.region c = copiedIn x (s.region c) := (hrec.region (by decide) c).trans (updRegion_self hlen)
    have hulen : c - 1 < u.upd.regions.length := by rw [hrec.upd, updRegion_length]; exact hlen
    obtain ⟨honly, hself⟩ := fallBackNow_spec hulen
    refine .intro ((exec_stagedCopy hc hdev).trans (congrArg Host.Outcome.next ((copyStaged_verified hx hformat).trans ((if_pos (by decide)).trans
      (by rw [hu]))))) ⟨huonly.trans honly, ?_⟩
    rw [hself, hureg]
    exact ⟨rfl, rfl, rfl⟩
  · obtain ⟨honly, hself⟩ := confirmed_spec hlen
    refine .intro (probation_next h1 h8 (if_pos ⟨hdev, hst, hleft⟩)) ⟨honly, ?_⟩
    rw [hself]
    exact ⟨rfl, rfl, rfl⟩
  · exact probation_next h1 h8 (if_neg fun hb => hleft hb.2.2)
  · have hlive : liveRegion c = true := by
      have hc : c = 1 ∨ c = 2 ∨ c = 3 := by omega
      rcases hc with rfl | rfl | rfl <;> rfl
    obtain ⟨honly, hself⟩ := fallBackNow_spec hlen
    refine .intro ((withUnit_next hlive).trans (congrArg Host.Outcome.next (if_pos ⟨hr, hst⟩))) ⟨honly, ?_⟩
    rw [hself]
    unfold fallenBack
    rw [hprev]
    exact ⟨rfl, rfl, rfl⟩
  · have hopen : ((s.touch n).sessOf n).opened = true := (touch_opened s n).trans h.2.1
    obtain ⟨t, ht, honly, hspec⟩ := ladderImage_spec (s := s.touch n) h.1 hopen hh hs hf hlen hsha hreg
    have hmet : ¬ (!Right.svc.met (s.sessOf n).role) = true := by
      rcases hrole with hr | hr
      · rw [hr]; decide
      · rw [hr]; decide
    have hform : ¬ (hdr.length ≠ 96 ∨ sig.length ≠ 96) := not_or.2 ⟨not_not.2 hh, not_not.2 hs⟩
    exact .intro (served_ok (w := ladderWrite n hdr sig body) h ((if_neg hmet).trans ((if_neg (not_not.2 hdev)).trans ((if_neg hform).trans ht))))
      ⟨honly, hspec⟩
  · have hmet : (!Right.svc.met (s.sessOf n).role) = true := by
      have hno : Right.svc.met (s.sessOf n).role = false := by
        show ((s.sessOf n).role == 2 || (s.sessOf n).role == 4) = false
        rw [beq_eq_false_iff_ne.2 h2, beq_eq_false_iff_ne.2 h4]
        rfl
      rw [hno]
      rfl
    exact served_error (w := ladderWrite n hdr sig body) h (if_pos hmet)

end Sys2Proof.Machine

/-! Proofs of the statement on wake sources and the ways into Start and Ladder (18). -/

namespace Sys2Proof.Machine

set_option Elab.async false

/-! ## What a wake leaves -/

theorem loseSessions_only (s : State) : Only [.serv, .upd] s (loseSessions s) :=
  ((updServ_only s _).mono (by decide)).next (updUpd_only _ _)

theorem loadTime_only (s : State) : Only [.tm, .free] s (loadTime s) := by
  unfold loadTime
  extract_lets q p
  have hp : Only [.tm, .free] s p.2 := by
    show Only _ s (if _ then _ else _ : Nat × State).2
    split
    · exact (freeInt_only s).mono (by decide)
    · exact .refl _ _
  refine hp.trans fun part => ?_
  cases part with
  | tm => exact .inl (by decide)
  | _ => exact .inr rfl

theorem loadParcel_belay (s : State) : (loadParcel s).belay = { s.belay with memLost := false } := rfl

theorem loadParcel_only (s : State) : Only [.pas, .belay] s (loadParcel s) :=
  ((updPas_only s _).mono (by decide)).next (updBelay_only _ _)

/-- Kilxus as it comes up, before Belay's part of the wake is settled. -/
def poweredUp (s : State) : State := loadParcel (loadTime (loseSessions (loseVolatile s)))

theorem poweredUp_only (s : State) : Only [.serv, .upd, .tm, .free, .pas, .belay] (loseVolatile s) (poweredUp s) :=
  (((loseSessions_only _).mono (by decide)).next (loadTime_only _)).next (loadParcel_only _)

/-- The orphan that an update begun before the wake becomes. -/
def orphaned (s : State) : State := if s.upd.state = 1 then orphan s else s

theorem orphaned_only (s : State) : Only [.upd] s (orphaned s) := .ite (orphan_only s) (.refl _ _)

/-- Belay's part of the wake, and the points from which the optimiser and an update count anew. -/
def settled (parcel : Nat) (s : State) : State :=
  (((s.updOpt fun o => { o with settleAt := parcel }).updUpd fun u => { u with orphanAt := 0 }).updPw fun p =>
    { p with wakeLadder := false }).updBelay fun b =>
    { b with onHoldup := false, restartWait := false, resetWait := false, critical := false, throttleTime := 0, throttleAt := 0 }

theorem wakeUp_eq (s : State) : wakeUp s = settled (poweredUp s).pas.nextParcel (orphaned (poweredUp s)) := rfl

theorem settled_only (parcel : Nat) (s : State) : Only [.opt, .upd, .pw, .belay] s (settled parcel s) :=
  ((((updOpt_only s _).mono (by decide)).next (updUpd_only _ _)).next (updPw_only _ _)).next (updBelay_only _ _)

theorem wakeUp_only (s : State) : Only [.serv, .upd, .tm, .free, .pas, .belay, .opt, .pw] (loseVolatile s) (wakeUp s) :=
  (((poweredUp_only s).mono (by decide)).next (orphaned_only _)).next (settled_only _ _)

theorem settled_pw (parcel : Nat) (s : State) : (settled parcel s).pw = { s.pw with wakeLadder := false } := rfl

theorem wakeUp_pw (s : State) : (wakeUp s).pw = { s.pw with wakeLadder := false } := by
  have h : (orphaned (poweredUp s)).pw = s.pw := (orphaned_only _).pw.trans (poweredUp_only s).pw
  rw [wakeUp_eq, settled_pw, h]

theorem poweredUp_belay (s : State) : (poweredUp s).belay = { s.belay with memLost := false } := by
  have h : (loadTime (loseSessions (loseVolatile s))).belay = s.belay := (loadTime_only _).belay
  exact (loadParcel_belay _).trans (congrArg (fun b : Belay => { b with memLost := false }) h)

theorem settled_history (parcel : Nat) (s : State) : (settled parcel s).belay.history = s.belay.history := rfl

theorem wakeUp_history (s : State) : (wakeUp s).belay.history = s.belay.history := by
  rw [wakeUp_eq, settled_history, (orphaned_only _).belay, poweredUp_belay]

theorem loseSessions_sessions (s : State) : (loseSessions s).serv.sess = List.replicate 16 {} := rfl

theorem wakeUp_sessions (s : State) : (wakeUp s).serv.sess = List.replicate 16 {} := by
  rw [wakeUp_eq, (settled_only _ _).serv, (orphaned_only _).serv, poweredUp, (loadParcel_only _).serv, (loadTime_only _).serv, loseSessions_sessions]

/-! ## Start -/

theorem startFallBacks_only (s : State) : Only [.upd, .flow] s (startFallBacks s) := by
  refine Only.foldl _ _ (fun t c => ?_) _ s
  exact .ite (((updRegion_only c _ t).mono (by decide)).next (updRecord_only c _ 8 0 _)) (.refl _ _)

theorem startRecords_only (s : State) : Only [.flow, .upd, .pas, .pctl, .lead, .opt, .free] s (startRecords s) := by
  unfold startRecords
  extract_lets s1 s2
  have h1 : Only [.flow, .upd, .pas, .pctl, .lead, .opt, .free] s s1 := (record_only s _).mono (by decide)
  have h2 : Only [.flow, .upd, .pas, .pctl, .lead, .opt, .free] s s2 := .ite h1 (h1.next (record_only s1 _))
  exact (h2.next (beginReset_only none s2)).next (startFallBacks_only _)

theorem startRecords_ring (s : State) : (startRecords s).pas.ring = [] := by
  unfold startRecords
  extract_lets s1 s2
  exact (congrArg Pas.ring (startFallBacks_only (beginReset none s2)).pas).trans (beginReset_passage none s2).1

/-- The history entry of an entry to a state: made now, or by the reset without hold-up that the entry ends. -/
def entered (restart : Bool) (old cause : Nat) (d : Dev) (s : State) : State :=
  if restart then devRecord old (devCode d) 6 (s.updPw fun p => { p with dev := d }) else changeDev d cause s

theorem changeDev_awake {d : Dev} {cause : Nat} {s : State} (h : d ≠ .park ∧ d ≠ .dormant) : (changeDev d cause s).pw = { s.pw with dev := d } ∧
    (changeDev d cause s).belay = { s.belay with history := (⟨s.tm.now / 1000000000, devCode d, cause⟩ :: s.belay.history).take 16 } := by
  have hd : (decide (d = Dev.park) || decide (d = Dev.dormant)) = false := by simp [h]
  have heq : changeDev d cause s =
      devRecord (devCode s.pw.dev) (devCode d) cause (noteHistory (devCode d) cause (s.updPw fun p => { p with dev := d })) := by
    unfold changeDev
    rw [hd]
    rfl
  rw [heq]
  exact ⟨(devRecord_only _ _ _ _).pw, (devRecord_only _ _ _ _).belay⟩

/-- A change of state is recorded with a severity that no update counts. -/
theorem devRecord_flow (old new cause : Nat) (s : State) : Only [.flow] s (devRecord old new cause s) :=
  record_flow_only (e := ⟨0x1002, new, 1, leBytes 1 old ++ leBytes 1 cause ++ List.replicate 6 0#8, [], 0xFFFFFFFF, 0xF⟩)
    (show severityOf 0x1002 < 2 by decide) s

theorem changeDev_quiet (d : Dev) (cause : Nat) (s : State) : Only [.flow, .pw, .belay] s (changeDev d cause s) := by
  unfold changeDev
  extract_lets old sleep s1 s2
  have h1 : Only [.flow, .pw, .belay] s s1 := .ite ((devRecord_flow _ _ _ s).mono (by decide)) (.refl _ _)
  have h2 : Only [.flow, .pw, .belay] s s2 := (h1.next (updPw_only s1 _)).next (noteHistory_only _ _ _)
  exact .ite h2 (h2.next (devRecord_flow _ _ _ s2))

theorem entered_only (restart : Bool) (old cause : Nat) (d : Dev) (s : State) : Only [.flow, .pw, .belay] s (entered restart old cause d s) :=
  .ite (((updPw_only s _).mono (by decide)).next (devRecord_flow _ _ _ _)) (changeDev_quiet d cause s)

theorem entered_pw {restart : Bool} {old cause : Nat} {d : Dev} {s : State} (h : d ≠ .park ∧ d ≠ .dormant) : (entered restart old cause d s).pw = { s.pw with dev := d } := by
  unfold entered
  split
  · exact (devRecord_only _ _ _ _).pw
  · exact (changeDev_awake h).1

theorem entered_holdup {restart : Bool} {old cause : Nat} {d : Dev} {s : State} (h : d ≠ .park ∧ d ≠ .dormant) : (entered restart old cause d s).belay.holdup = s.belay.holdup := by
  unfold entered
  split
  · exact congrArg Belay.holdup (devRecord_only _ _ _ _).belay
  · rw [(changeDev_awake h).2]

theorem entered_history {old cause : Nat} {d : Dev} {s : State} (h : d ≠ .park ∧ d ≠ .dormant) : ∃ tai, (entered false old cause d s).belay.history =
    (⟨tai, devCode d, cause⟩ :: s.belay.history).take 16 := ⟨_, congrArg Belay.history (changeDev_awake h).2⟩

/-- The supply's part of the state as an entry to Start leaves it. -/
def startedPw (src : Nat) (s : State) : Pw :=
  { s.pw with wake := none, wakeSource := src, keyHold := false, reqSess := none, episode := false, batMin := s.pw.batMv, episodeCount := 0,
              lastEpisodeMin := 0, lastEpisodeDuration := 0, storeCut := s.belay.cut, wakeLadder := false, dev := .start }

/-- What the supply keeps of itself into a Start that a source causes. -/
def forStart (src : Nat) (s : State) : State := s.updPw fun p =>
  { p with wake := none, wakeSource := src, keyHold := false, reqSess := none, episode := false, batMin := p.batMv, episodeCount := 0,
           lastEpisodeMin := 0, lastEpisodeDuration := 0, storeCut := s.belay.cut }

/-- Start before its history entry and records. -/
def charged (s : State) : State :=
  let s := s.updBelay fun b => { b with holdup := .charging, holdupEnergy := 0, cut := false }
  s.updSky fun k => { k with state := 1, knownTime := rtcKnown s }

theorem charged_belay (s : State) : (charged s).belay = { s.belay with holdup := .charging, holdupEnergy := 0, cut := false } := rfl

theorem charged_only (s : State) : Only [.belay, .sky] s (charged s) := ((updBelay_only s _).mono (by decide)).next (updSky_only _ _)

/-- Start before its history entry and records. -/
def starting (src : Nat) (s : State) : State := charged (wakeUp (forStart src s))

theorem enterStart_eq (cause src : Nat) (s : State) :
    enterStart cause src s = startRecords (entered s.belay.resetWait (starting src s).belay.resetFrom cause .start (starting src s)) := rfl

theorem loseVolatile_layers (s : State) : (loseVolatile s).dict = retained s.dict ∧ (loseVolatile s).per.built = false ∧
    (loseVolatile s).per.targets = s.per.targets := ⟨rfl, rfl, rfl⟩

theorem starting_wakes (src : Nat) (s : State) : (starting src s).serv.sess = List.replicate 16 {} ∧ (starting src s).dict = retained s.dict ∧
    (starting src s).per.built = false ∧ (starting src s).per.targets = s.per.targets ∧ (starting src s).belay.history = s.belay.history ∧
    (starting src s).belay.holdup = .charging ∧ (starting src s).pw = { (forStart src s).pw with wakeLadder := false } := by
  obtain ⟨hdict, hbuilt, htargets⟩ := loseVolatile_layers (forStart src s)
  unfold starting
  refine ⟨?_, ?_, ?_, ?_, ?_, ?_, ?_⟩
  · rw [(charged_only _).serv, wakeUp_sessions]
  · rw [(charged_only _).dict, (wakeUp_only _).dict, hdict]
    rfl
  · rw [(charged_only _).per, (wakeUp_only _).per, hbuilt]
  · rw [(charged_only _).per, (wakeUp_only _).per, htargets]
    rfl
  · rw [charged_belay, wakeUp_history]
    rfl
  · rw [charged_belay]
  · rw [(charged_only _).pw, wakeUp_pw]

theorem enterStart_pw (cause src : Nat) (s : State) : (enterStart cause src s).pw = startedPw src s := by
  obtain ⟨-, -, -, -, -, -, hpw⟩ := starting_wakes src s
  rw [enterStart_eq, (startRecords_only _).pw, entered_pw (d := .start) ⟨nofun, nofun⟩, hpw]
  rfl

theorem enterStart_started (cause src : Nat) (s : State) : Started cause src s (enterStart cause src s) := by
  obtain ⟨hsess, hdict, hbuilt, htargets, hhist, hcharge, -⟩ := starting_wakes src s
  have hpw := enterStart_pw cause src s
  rw [enterStart_eq] at hpw ⊢
  generalize starting src s = u at *
  have henter := entered_only s.belay.resetWait u.belay.resetFrom cause .start u
  have hrec := startRecords_only (entered s.belay.resetWait u.belay.resetFrom cause .start u)
  refine ⟨congrArg Pw.dev hpw, congrArg Pw.wakeSource hpw, congrArg Pw.wake hpw, congrArg Pw.keyHold hpw, ?_, ?_, ?_, ?_, ?_,
    startRecords_ring _, fun hreset => ?_⟩
  · rw [hrec.serv, henter.serv, hsess]
  · rw [hrec.dict, henter.dict, hdict]
  · rw [hrec.per, henter.per, hbuilt]
  · rw [hrec.per, henter.per, htargets]
  · rw [hrec.belay, entered_holdup (d := .start) ⟨nofun, nofun⟩, hcharge]
  · obtain ⟨tai, htai⟩ := entered_history (old := u.belay.resetFrom) (cause := cause) (s := u) (d := .start) ⟨nofun, nofun⟩
    rw [hrec.belay, hreset, htai, hhist]
    exact ⟨tai, rfl⟩

/-! ## Ladder -/

/-- What the supply keeps of itself into Ladder. -/
def forLadder (s : State) : State := s.updPw fun p => { p with wake := none, keyHold := false, reqSess := none, episode := false }

/-- C8 alone comes up, for a LadderReason. -/
def eighthOnly (reason : Nat) (s : State) : State :=
  ((canLadder s).updBelay fun b => { b with holdup := .off }).updUpd fun u => { u with ladderReason := reason }

theorem eighthOnly_only (reason : Nat) (s : State) : Only [.can, .belay, .upd] s (eighthOnly reason s) := fun p => by
  cases p with
  | can | belay | upd => exact .inl (by decide)
  | _ => exact .inr rfl

/-- C8 alone runs in Ladder. -/
theorem eighthOnly_states (reason : Nat) (s : State) : ((eighthOnly reason s).cch 7).state = 2 ∧
    ∀ c, c < 7 → ((eighthOnly reason s).cch c).state = 0 := by
  refine ⟨rfl, fun c hc => ?_⟩
  match c, hc with
  | 0, _ | 1, _ | 2, _ | 3, _ | 4, _ | 5, _ | 6, _ => rfl

theorem eighthOnly_belay (reason : Nat) (s : State) : (eighthOnly reason s).belay = { s.belay with holdup := .off } ∧
    (eighthOnly reason s).upd.ladderReason = reason := ⟨rfl, rfl⟩

/-- Ladder before its history entry. -/
def laddering (reason : Nat) (s : State) : State := eighthOnly reason (wakeUp (forLadder s))

theorem enterLadder_eq (cause reason : Nat) (s : State) : enterLadder cause reason s =
    entered s.belay.resetWait (laddering reason s).belay.resetFrom cause .ladder (laddering reason s) := rfl

theorem laddering_wakes (reason : Nat) (s : State) : (laddering reason s).serv.sess = List.replicate 16 {} ∧
    (laddering reason s).noEnable = true ∧ (laddering reason s).belay.history = s.belay.history ∧
    (laddering reason s).belay.holdup = .off ∧ (laddering reason s).upd.ladderReason = reason ∧
    (laddering reason s).pw = { (forLadder s).pw with wakeLadder := false } := by
  obtain ⟨hbelay, hreason⟩ := eighthOnly_belay reason (wakeUp (forLadder s))
  have honly := eighthOnly_only reason (wakeUp (forLadder s))
  unfold laddering
  refine ⟨?_, ?_, ?_, ?_, hreason, ?_⟩
  · rw [honly.serv, wakeUp_sessions]
  · rw [noEnable_congr honly.valve honly.fio honly.steer, (wakeUp_off _).1]
  · rw [hbelay, wakeUp_history]
    rfl
  · rw [hbelay]
  · rw [honly.pw, wakeUp_pw]

theorem enterLadder_laddered (cause reason : Nat) (s : State) : Laddered cause reason s (enterLadder cause reason s) := by
  obtain ⟨hsess, hoff, hhist, hholdup, hreason, hwake⟩ := laddering_wakes reason s
  obtain ⟨heighth, hothers⟩ := eighthOnly_states reason (wakeUp (forLadder s))
  change ((laddering reason s).cch 7).state = 2 at heighth
  change ∀ c, c < 7 → ((laddering reason s).cch c).state = 0 at hothers
  rw [enterLadder_eq]
  generalize laddering reason s = u at *
  have henter := entered_only s.belay.resetWait u.belay.resetFrom cause .ladder u
  have hpw := entered_pw (restart := s.belay.resetWait) (old := u.belay.resetFrom) (cause := cause) (s := u) (d := .ladder) ⟨nofun, nofun⟩
  refine ⟨congrArg Pw.dev hpw, ?_, ?_, ?_, ?_, ?_, ?_, fun c hc => ?_, fun hreset => ?_⟩
  · rw [henter.upd, hreason]
  · rw [henter.serv, hsess]
  · rw [hpw, hwake]
    rfl
  · rw [noEnable_congr henter.valve henter.fio henter.steer, hoff]
  · rw [entered_holdup (d := .ladder) ⟨nofun, nofun⟩, hholdup]
  · rw [henter.cch (by decide), heighth]
  · rw [henter.cch (by decide), hothers c hc]
  · obtain ⟨tai, htai⟩ := entered_history (old := u.belay.resetFrom) (cause := cause) (s := u) (d := .ladder) ⟨nofun, nofun⟩
    rw [hreset, htai, hhist]
    exact ⟨tai, rfl⟩

/-! ## The filtered IGN and KEYSVC (R407) -/

theorem asleep_dev {s : State} (h : asleep s = true) : s.pw.dev = .park ∨ s.pw.dev = .dormant := by
  simp only [asleep, Bool.and_eq_true, Bool.or_eq_true, decide_eq_true_eq] at h
  exact h.1

theorem asleep_free {s : State} (h : asleep s = true) : s.belay.restartWait = false := by
  simp only [asleep, Bool.and_eq_true, Bool.not_eq_true'] at h
  exact h.2

theorem asleep_of {s : State} (hdev : s.pw.dev = .park ∨ s.pw.dev = .dormant) (hfree : s.belay.restartWait = false) : asleep s = true := by
  simp [asleep, hdev, hfree]

theorem not_asleep {s : State} (h : s.pw.dev ≠ .park ∧ s.pw.dev ≠ .dormant) : ¬ asleep s = true := fun ha =>
  (asleep_dev ha).elim h.1 h.2

/-- IGN reads high. -/
def State.ignited (s : State) : State := s.updPw fun p => { p with ign := true }

/-- A critical temperature no longer holds the module once IGN has been low. -/
def released (s : State) : State := if s.belay.ignSeenLow then s.updBelay fun b => { b with criticalLock := false } else s

/-- What IGN does of itself in a module asleep that no critical temperature holds. -/
def unlocked (s : State) : State := s.ignited.updBelay fun b => { b with criticalLock := false }

/-- What an IGN rise does in Park or Dormant. -/
def ignStarts (s : State) : State :=
  if s.belay.criticalLock then s
  else if s.pw.keysvc then
    if s.pw.belowWarning then s.updPw fun p => { p with wake := some 1, wakeLadder := true, keyHold := false } else enterLadder 9 4 s
  else startFrom 1 s

theorem ignRise_asleep {s : State} (h : asleep s = true) : ignRise s = ignStarts (released s.ignited) := if_pos h

/-- Clearing a lock that does not stand changes nothing. -/
theorem updBelay_unlocked {s : State} (h : s.belay.criticalLock = false) : (s.updBelay fun b => { b with criticalLock := false }) = s := by
  unfold State.updBelay
  rw [← h]

theorem released_unlocked {s : State} (h : s.belay.criticalLock = false ∨ s.belay.ignSeenLow = true) : released s.ignited = unlocked s := by
  by_cases hlow : s.belay.ignSeenLow = true
  · exact if_pos hlow
  · exact (if_neg hlow).trans (updBelay_unlocked (s := s.ignited) (h.resolve_right hlow)).symm

section
variable {s : State}

theorem ignRise_woken (h : asleep s = true) (hlock : s.belay.criticalLock = false ∨ s.belay.ignSeenLow = true) : ignRise s =
    if s.pw.keysvc then
      if s.pw.belowWarning then (unlocked s).updPw fun p => { p with wake := some 1, wakeLadder := true, keyHold := false }
      else enterLadder 9 4 (unlocked s)
    else startFrom 1 (unlocked s) := by
  rw [ignRise_asleep h, released_unlocked hlock]
  exact if_neg Bool.false_ne_true

theorem ignRise_locked (h : asleep s = true) (hlock : s.belay.criticalLock = true) (hlow : s.belay.ignSeenLow = false) : ignRise s = s.ignited := by
  have hsame : released s.ignited = s.ignited := if_neg (Bool.eq_false_iff.1 hlow)
  rw [ignRise_asleep h, hsame]
  exact if_pos hlock

/-- What an IGN rise does outside Park and Dormant. -/
def ignMeets (was : Bool) (s : State) : State :=
  if s.pw.dev = .ladder ∧ !was ∧ !s.belay.resetWait then enterStart 0xE 1 s
  else if s.pw.dev = .shutdown then s.updPw fun p => { p with wake := some (p.wake.getD 1) }
  else s

theorem ignRise_meets (h : s.pw.dev ≠ .park ∧ s.pw.dev ≠ .dormant) : ignRise s = ignMeets s.pw.ign s.ignited := if_neg (not_asleep h)

theorem ignMeets_ladder (hd : s.pw.dev = .ladder) (hr : s.belay.resetWait = false) : ignMeets false s = enterStart 0xE 1 s :=
  if_pos ⟨hd, rfl, by rw [hr]; rfl⟩

theorem ignRise_ladder (hd : s.pw.dev = .ladder) (hi : s.pw.ign = false) (hr : s.belay.resetWait = false) :
    ignRise s = enterStart 0xE 1 s.ignited := by
  rw [ignRise_meets (by rw [hd]; exact ⟨nofun, nofun⟩), hi]
  exact ignMeets_ladder (s := s.ignited) hd hr

theorem ignRise_shutdown (hd : s.pw.dev = .shutdown) : ignRise s = s.updPw fun p => { p with ign := true, wake := some (p.wake.getD 1) } := by
  have hladder : s.pw.dev ≠ .ladder := by rw [hd]; exact nofun
  rw [ignRise_meets (by rw [hd]; exact ⟨nofun, nofun⟩)]
  exact (if_neg fun hb => hladder hb.1).trans (if_pos hd)

theorem ignRise_on (h : s.pw.dev = .start ∨ s.pw.dev = .run ∨ s.pw.dev = .service) : ignRise s = s.ignited := by
  have hdev : (s.pw.dev ≠ .park ∧ s.pw.dev ≠ .dormant) ∧ s.pw.dev ≠ .ladder ∧ s.pw.dev ≠ .shutdown := by
    rcases h with h | h | h <;> rw [h] <;> exact ⟨⟨nofun, nofun⟩, nofun, nofun⟩
  obtain ⟨hsleep, hladder, hshut⟩ := hdev
  rw [ignRise_meets hsleep]
  exact (if_neg fun hb => hladder hb.1).trans (if_neg hshut)

theorem startFrom_waits {src : Nat} (h : s.pw.belowWarning = true) : startFrom src s = s.updPw fun p => { p with wake := some src, keyHold := false } :=
  if_pos h

theorem startFrom_starts {src : Nat} (h : s.pw.belowWarning = false) : startFrom src s = enterStart 1 src s := if_neg (Bool.eq_false_iff.1 h)

theorem unlocked_only (s : State) : Only [.pw, .belay] s (unlocked s) := ((updPw_only s _).mono (by decide)).next (updBelay_only _ _)

/-! ## The alarm (R408) -/

theorem advanceAlarm_put {a : Nat} (h : s.nat 0x2013 1 ≠ 0)
    (ha : a = (if s.nat 0x2013 2 = 0 then 0 else (s.nat 0x2013 1 + s.nat 0x2013 2 * 1000000000) % 2 ^ 64)) :
    advanceAlarm s = s.put 0x2013 1 (.int (a : Nat)) := by
  rw [ha]
  exact if_neg h

theorem exec_alarmWake {a : Nat} (hdev : s.pw.dev = .park ∨ s.pw.dev = .dormant) (h : s.nat 0x2013 1 ≠ 0)
    (ha : a = (if s.nat 0x2013 2 = 0 then 0 else (s.nat 0x2013 1 + s.nat 0x2013 2 * 1000000000) % 2 ^ 64)) :
    exec .alarmWake s = .next (if asleep s ∧ !s.belay.criticalLock then startFrom 3 (s.put 0x2013 1 (.int (a : Nat)))
      else s.put 0x2013 1 (.int (a : Nat))) := by
  rw [← advanceAlarm_put h ha]
  exact congrArg Host.Outcome.next ((if_pos ⟨hdev, h⟩).trans (by rw [advanceAlarm_put h ha]; rfl))

/-! ## The CAN wake (14 R326) -/

/-- The wake is counted with what caused it. -/
def wakeCounted (w how : Nat) (s : State) : State := s.updCan fun c => { c with wakes := updAt c.wakes w fun x => (inc32 x.1, how) }

theorem exec_canWake {w : Nat} {how : CanWake} (hw : w < 2) (hdev : s.pw.dev = .park) (hfree : s.belay.restartWait = false)
    (hlock : s.belay.criticalLock = false) (hchan : (s.cch (7 * w)).state = 5) (hm : wakeMatch s w how ≠ 0) :
    exec (.canWake w how) s = .next (startFrom (4 + w) (wakeCounted w (wakeMatch s w how) s)) :=
  unit_next hw (if_pos ⟨hdev, asleep_of (.inl hdev) hfree, by rw [hlock]; rfl, hchan, hm⟩)

/-! ## The wait for the start-allowed level -/

/-- BAT+ has reached the start-allowed level. -/
def risen (s : State) : State := s.updPw fun p => { p with belowWarning := false, batMv := max p.batMv (startLevel s) }

theorem exec_startAllowed_reset (h : s.belay.resetWait = true) : exec .startAllowedWaitEnd s =
    .next (if s.pw.dev = .ladder then enterLadder 6 s.upd.ladderReason (risen s) else enterStart 6 s.pw.wakeSource (risen s)) :=
  congrArg Host.Outcome.next (if_pos h)

/-- A latched wake goes on once BAT+ has risen. -/
def wakeOn (s : State) : State :=
  match s.pw.wake with
  | some src => if asleep s ∧ !s.pw.keyHold then (if s.pw.wakeLadder then enterLadder 9 4 s else enterStart 1 src s) else s
  | none => s

theorem wakeOn_some {src : Nat} (h : s.pw.wake = some src) :
    wakeOn s = if asleep s ∧ !s.pw.keyHold then (if s.pw.wakeLadder then enterLadder 9 4 s else enterStart 1 src s) else s := by
  unfold wakeOn
  rw [h]

theorem wakeOn_none (h : s.pw.wake = none) : wakeOn s = s := by
  unfold wakeOn
  rw [h]

theorem exec_startAllowed (h : s.belay.resetWait = false) : exec .startAllowedWaitEnd s = .next (wakeOn (risen s)) :=
  congrArg Host.Outcome.next (if_neg (Bool.eq_false_iff.1 h))

theorem exec_startAllowed_woken {src : Nat} (h : s.belay.resetWait = false) (hw : s.pw.wake = some src) : exec .startAllowedWaitEnd s =
    .next (if asleep s ∧ !s.pw.keyHold then (if s.pw.wakeLadder then enterLadder 9 4 (risen s) else enterStart 1 src (risen s)) else risen s) :=
  (exec_startAllowed h).trans (congrArg Host.Outcome.next (wakeOn_some (s := risen s) hw))

theorem exec_startAllowed_idle (h : s.belay.resetWait = false) (hw : s.pw.wake = none) : exec .startAllowedWaitEnd s = .next (risen s) :=
  (exec_startAllowed h).trans (congrArg Host.Outcome.next (wakeOn_none (s := risen s) hw))

end

/-- Settles O57: wakes, the wait for the start voltage, and the ways into Start and Ladder. -/
theorem powerWake : Obligations.PowerWake := by
  refine ⟨fun s h hl hk hb => ?_, fun s h hl hk hb => ?_, fun s h hl hk hb => ?_, fun s h hl hk hb => ?_, fun s h hl hlow => ?_,
    fun s hd hi hr => ?_, fun s hd => ?_, fun s hd => ?_, fun s h hl => ?_, fun s hd => ?_, fun s h hd => ?_, fun s h hk hb => ?_,
    fun s h hk hb => ?_, fun s h => ?_, fun s a hd ht ha hr hl hb => ?_, fun s a hd ht ha hr hl hb => ?_, fun s a hd ht ha hl => ?_,
    fun s h => ?_, fun s a hp hdm ht ha => ?_, fun s h => ?_, fun s w how hw hd hr hl hc hm hb => ?_, fun s w how hw hd hr hl hc hm hb => ?_,
    fun s w how hw hd hm => ?_, fun s w how hw h => ?_, fun s w h => if_pos h, fun s w h => if_pos h, fun s hr hd => ?_, fun s hr hd => ?_,
    fun s src hr hw h hk hl => ?_, fun s src hr hw h hk hl => ?_, fun s hr h => ?_, fun s m hd hv hdet => ?_, fun s m h => ?_, fun s a => rfl⟩
  · refine ⟨_, congrArg Host.Outcome.next ((ignRise_woken h hl).trans ((if_neg (Bool.eq_false_iff.1 hk)).trans
      (startFrom_starts (s := unlocked s) hb))), enterStart_started 1 1 (unlocked s), ?_⟩
    rw [enterStart_pw]
    rfl
  · exact .intro (congrArg Host.Outcome.next ((ignRise_woken h hl).trans ((if_neg (Bool.eq_false_iff.1 hk)).trans
      (startFrom_waits (s := unlocked s) hb)))) ⟨(unlocked_only s).next (updPw_only _ _), rfl, rfl⟩
  · exact ⟨_, congrArg Host.Outcome.next ((ignRise_woken h hl).trans ((if_pos hk).trans (if_neg (Bool.eq_false_iff.1 hb)))),
      enterLadder_laddered 9 4 (unlocked s)⟩
  · exact .intro (congrArg Host.Outcome.next ((ignRise_woken h hl).trans ((if_pos hk).trans (if_pos hb))))
      ⟨(unlocked_only s).next (updPw_only _ _), rfl, rfl⟩
  · exact congrArg Host.Outcome.next (ignRise_locked h hl hlow)
  · exact ⟨_, congrArg Host.Outcome.next (ignRise_ladder hd hi hr), enterStart_started 0xE 1 s.ignited⟩
  · exact congrArg Host.Outcome.next (ignRise_shutdown hd)
  · exact congrArg Host.Outcome.next (ignRise_on hd)
  · exact congrArg Host.Outcome.next (if_pos ⟨h, by rw [show (s.updPw fun p => { p with keysvc := true }).belay.criticalLock = false from hl]; rfl⟩)
  · exact congrArg Host.Outcome.next ((if_neg fun hb => not_asleep (s := s) (by rw [hd]; exact ⟨nofun, nofun⟩) hb.1).trans (if_pos hd))
  · refine congrArg Host.Outcome.next ((if_neg fun hb => ?_).trans (if_neg hd))
    obtain ⟨ha, hl⟩ := hb
    rcases h with h | h
    · exact Bool.false_ne_true (h.symm.trans ha)
    · rw [show (s.updPw fun p => { p with keysvc := true }).belay.criticalLock = true from h] at hl
      exact Bool.false_ne_true hl
  · exact ⟨_, congrArg Host.Outcome.next ((if_pos ⟨h, hk⟩).trans (startFrom_starts hb)), enterStart_started 1 2 s⟩
  · exact congrArg Host.Outcome.next ((if_pos ⟨h, hk⟩).trans (startFrom_waits hb))
  · refine congrArg Host.Outcome.next (if_neg fun hb => ?_)
    obtain ⟨ha, hk⟩ := hb
    exact Bool.false_ne_true (h.elim (·.symm.trans ha) (·.symm.trans hk))
  · exact ⟨_, (exec_alarmWake hd ht ha).trans (congrArg Host.Outcome.next ((if_pos ⟨asleep_of hd hr, by rw [hl]; rfl⟩).trans
      (startFrom_starts (s := s.put 0x2013 1 (.int (a : Nat))) hb))), enterStart_started 1 3 _⟩
  · exact (exec_alarmWake hd ht ha).trans (congrArg Host.Outcome.next ((if_pos ⟨asleep_of hd hr, by rw [hl]; rfl⟩).trans
      (startFrom_waits (s := s.put 0x2013 1 (.int (a : Nat))) hb)))
  · refine (exec_alarmWake hd ht ha).trans (congrArg Host.Outcome.next (if_neg fun hb => ?_))
    obtain ⟨hsleep, hno⟩ := hb
    rcases hl with hl | hl
    · exact Bool.false_ne_true ((asleep_free hsleep).symm.trans hl)
    · rw [hl] at hno
      exact Bool.false_ne_true hno
  · exact congrArg Host.Outcome.next (if_neg fun hb => h.elim (fun hdev => hb.1.elim hdev.1 hdev.2) hb.2)
  · exact congrArg Host.Outcome.next ((if_neg fun hb => hb.elim hp hdm).trans (advanceAlarm_put ht ha))
  · by_cases hdev : s.pw.dev = .park ∨ s.pw.dev = .dormant
    · exact congrArg Host.Outcome.next (if_pos hdev)
    · have ht : s.nat 0x2013 1 = 0 := h.elim (fun hp => absurd (.inl hp) hdev) fun h => h.resolve_left fun hdm => hdev (.inr hdm)
      exact congrArg Host.Outcome.next ((if_neg hdev).trans (if_pos ht))
  · exact ⟨_, (exec_canWake hw hd hr hl hc hm).trans (congrArg Host.Outcome.next (startFrom_starts (s := wakeCounted w (wakeMatch s w how) s) hb)),
      enterStart_started 1 (4 + w) (wakeCounted w (wakeMatch s w how) s)⟩
  · exact .intro ((exec_canWake hw hd hr hl hc hm).trans (congrArg Host.Outcome.next
      (startFrom_waits (s := wakeCounted w (wakeMatch s w how) s) hb))) ⟨((updCan_only s _).mono (by decide)).next (updPw_only _ _), rfl, rfl⟩
  · have hpark : s.pw.dev ≠ .park := by rw [hd]; exact nofun
    exact .intro (unit_next hw ((if_neg fun hb => hpark hb.1).trans (if_pos ⟨hd, hm⟩)))
      ⟨((updCan_only s _).mono (by decide)).next (updPw_only _ _), rfl, rfl⟩
  · have hpark : s.pw.dev = .park → wakeMatch s w how = 0 ∨ s.belay.criticalLock = true ∨ (s.cch (7 * w)).state ≠ 5 := fun hd =>
      h.elim (fun hn => absurd hd hn.1) fun h => h.imp_right (·.2)
    have hshut : s.pw.dev = .shutdown → wakeMatch s w how = 0 := fun hd =>
      h.elim (fun hn => absurd hd hn.2) fun h => h.elim id fun hp => absurd (hp.1.symm.trans hd) nofun
    refine unit_next hw ((if_neg fun hb => ?_).trans (if_neg fun hb => hb.2 (hshut hb.1)))
    obtain ⟨hd, -, hno, hchan, hm⟩ := hb
    rcases hpark hd with h0 | hl | hc
    · exact hm h0
    · rw [hl] at hno
      exact Bool.false_ne_true hno
    · exact hc hchan
  · exact ⟨_, (exec_startAllowed_reset hr).trans (congrArg Host.Outcome.next (if_pos hd)), enterLadder_laddered 6 s.upd.ladderReason (risen s)⟩
  · exact ⟨_, (exec_startAllowed_reset hr).trans (congrArg Host.Outcome.next (if_neg hd)), enterStart_started 6 s.pw.wakeSource (risen s)⟩
  · exact ⟨_, (exec_startAllowed_woken hr hw).trans (congrArg Host.Outcome.next ((if_pos ⟨h, by rw [hk]; rfl⟩).trans
      (if_neg (Bool.eq_false_iff.1 hl)))), enterStart_started 1 src (risen s)⟩
  · exact ⟨_, (exec_startAllowed_woken hr hw).trans (congrArg Host.Outcome.next ((if_pos ⟨h, by rw [hk]; rfl⟩).trans (if_pos hl))),
      enterLadder_laddered 9 4 (risen s)⟩
  · rcases hw : s.pw.wake with _ | src
    · exact exec_startAllowed_idle hr hw
    · refine (exec_startAllowed_woken hr hw).trans (congrArg Host.Outcome.next (if_neg fun hb => ?_))
      obtain ⟨hsleep, hk⟩ := hb
      rcases h with h | h | h
      · exact nomatch hw.symm.trans h
      · exact Bool.false_ne_true (h.symm.trans hsleep)
      · rw [h] at hk
        exact Bool.false_ne_true hk
  · exact congrArg Host.Outcome.next (if_pos ⟨hd, hv, hdet⟩)
  · refine congrArg Host.Outcome.next (if_neg fun hb => ?_)
    obtain ⟨hd, hv, hdet⟩ := hb
    exact h.elim (· hd) fun h => h.elim (· hv) (· hdet)

end Sys2Proof.Machine

/-! Proofs of the statement on the device states (01, 15, 18, 19). -/

namespace Sys2Proof.Machine

set_option Elab.async false

/-! ## LAYER_BUILD (15 R345–R347) -/

/-- RestoreDefaults takes effect at Start: the safety layer alone is left. -/
def restored (s : State) : State :=
  if s.per.restore then s.updPer fun x => { x with restore := false, targets := x.targets.filter fun t => t.layer == 2 } else s

/-- The layers before the package is looked at. -/
def layersBegun (s : State) : State := resolveAll (restored { s with dict := retained s.dict })

/-- The layers from the package on. -/
def layersOn (s : State) : State :=
  match s.per.package with
  | none => (applyLayer 2 (applyLayer 1 s)).updPer fun x => { x with built := true, mdpState := 0 }
  | some p =>
    let r := applyEntries p.entries 1 s
    match r.1 with
    | some (n, a) => s.updPer fun x => { x with mdpState := 2, mdpEntry := n, mdpAbort := a }
    | none =>
      let s := (clearForPackage p r.2).updPer fun x => { x with mdpState := 1, mdpEntry := 0, mdpAbort := 0, built := true }
      applyLayer 2 (applyLayer 1 s)

theorem restored_per (s : State) : ∃ b l, (restored s).per = { s.per with restore := b, targets := l } ∧ (s.per.targets = [] → l = []) := by
  unfold restored
  split
  · exact ⟨false, _, rfl, fun h => by rw [h]; rfl⟩
  · exact ⟨_, _, rfl, id⟩

theorem restored_only (s : State) : Only [.per] s (restored s) := .ite (updPer_only s _) (.refl _ _)

/-- The targets as LAYER_BUILD resolves them. -/
def resolved (s : State) : State := s.updPer fun p => { p with targets := s.per.targets.map resolveCopies }

theorem resolveAll_only (s : State) : Only [.flow, .upd] (resolved s) (resolveAll s) := records_only _ _

theorem resolved_only (s : State) : Only [.per] s (resolved s) := updPer_only s _

theorem layersBegun_dict (s : State) : (layersBegun s).dict = retained s.dict := by
  unfold layersBegun
  rw [(resolveAll_only _).dict, (resolved_only _).dict, (restored_only _).dict]

theorem layersBegun_per (s : State) : ∃ b l, (layersBegun s).per = { s.per with restore := b, targets := l } ∧ (s.per.targets = [] → l = []) := by
  obtain ⟨b, l, hper, hl⟩ := restored_per { s with dict := retained s.dict }
  refine ⟨b, l.map resolveCopies, ?_, fun h => by rw [hl h]; rfl⟩
  unfold layersBegun
  rw [(resolveAll_only _).per]
  unfold resolved State.updPer
  dsimp only
  rw [hper]

/-- A layer without targets leaves everything as it is. -/
theorem applyLayer_empty (layer : Nat) {s : State} (h : s.per.targets = []) : applyLayer layer s = s := by
  unfold applyLayer
  rw [h]
  rfl

theorem layersOn_none {s : State} (h : s.per.package = none) :
    layersOn s = (applyLayer 2 (applyLayer 1 s)).updPer fun x => { x with built := true, mdpState := 0 } := by
  unfold layersOn
  rw [h]

/-- The first entry names an object that the dictionary lacks: the package is refused with its number. -/
theorem layersOn_lacking {s : State} {p : Package} {e : ObjEntry} {l : List ObjEntry} (h : s.per.package = some p) (hp : p.entries = e :: l)
    (ho : objRow? e.index e.sub = none) : layersOn s = s.updPer fun x => { x with mdpState := 2, mdpEntry := 1, mdpAbort := 0x06020000 } := by
  have hwrite : entryWrite e s = (0x06020000, s) := by
    unfold entryWrite
    rw [ho]
  have happly : applyEntries p.entries 1 s = (some (1, 0x06020000), s) := by
    rw [hp]
    unfold applyEntries
    rw [hwrite]
    rfl
  unfold layersOn
  rw [h]
  dsimp only
  rw [happly]

/-! ## The engines come up -/

theorem fleetStart_only (s : State) : Only [.fleet] s (fleetStart s) := fun p => by
  cases p with
  | fleet => exact .inl (by decide)
  | _ => exact .inr rfl

/-- The bus engine with no channel up yet. -/
def busesOff (s : State) : State := { s with can := { wakes := s.can.wakes, vt := { stored := s.can.vt.stored } } }

theorem busesOff_only (s : State) : Only [.can] s (busesOff s) := fun p => by
  cases p with
  | can => exact .inl (by decide)
  | _ => exact .inr rfl

theorem canStart_only (s : State) : Only [.can] s (canStart s) := by
  unfold canStart
  extract_lets s1 s2
  have h1 : Only [.can] s s1 := busesOff_only s
  have h2 : Only [.can] s1 s2 := Only.foldl _ _ (fun t c => .ite (updCch_only t c _) (.refl _ _)) _ _
  exact (h1.trans h2).trans (Only.foldl _ _ (fun t k => .ite (.refl _ _) (sendClaim_only _ _ _)) _ _)

theorem lanStart_only (s : State) : Only [.lan] s (lanStart s) := by
  unfold lanStart
  extract_lets o s1
  have h1 : Only [.lan] s s1 := fun p => by
    cases p with
    | lan => exact .inl (by decide)
    | _ => exact .inr rfl
  exact .ite (h1.trans (lanUp_only s1)) h1

theorem valveStart_only (s : State) : Only [.valve] s (valveStart s) := updValve_only s _

/-- What sensing, the supply, the server and Flowstone take up at Start. -/
def takenUp (s : State) : State :=
  ((senseStart (s.updPw fun p => { p with systemVoltage := s.nat 0x2010 1, shutdownLimit := s.nat 0x2010 3 })).updServ fun v =>
    { v with nodeId := s.nat 0x2103 1 }).updFlow fun f => { f with limit := s.nat 0x5800 7 }

theorem bringUp_eq (s : State) : bringUp s = fleetStart (canStart (lanStart (valveStart (takenUp s)))) := rfl

theorem bringUp_only (s : State) : Only [.valve, .lan, .can, .fleet] (takenUp s) (bringUp s) := by
  rw [bringUp_eq]
  exact ((((valveStart_only _).mono (by decide)).next (lanStart_only _)).next (canStart_only _)).next (fleetStart_only _)

/-- The engines come up with the values that the dictionary holds. -/
theorem bringUp_spec (s : State) : ∃ t, bringUp s = t ∧ t.per = s.per ∧ t.dict = s.dict ∧ t.pw.systemVoltage = t.nat 0x2010 1 ∧
    t.pw.shutdownLimit = t.nat 0x2010 3 ∧ t.serv.nodeId = t.nat 0x2103 1 ∧ t.flow.limit = t.nat 0x5800 7 ∧ t.sens.tare = t.int 0x4880 9 := by
  have honly := bringUp_only s
  have hdict : (bringUp s).dict = s.dict := honly.dict
  have hnat : ∀ i sub, (bringUp s).nat i sub = s.nat i sub := fun i sub => honly.nat (by decide) i sub
  have hint : ∀ i sub, (bringUp s).int i sub = s.int i sub := fun i sub => honly.int (by decide) i sub
  refine ⟨_, rfl, honly.per, hdict, ?_, ?_, ?_, ?_, ?_⟩
  · rw [honly.pw, hnat]
    rfl
  · rw [honly.pw, hnat]
    rfl
  · rw [honly.serv, hnat]
    rfl
  · rw [honly.flow, hnat]
    rfl
  · rw [honly.sens, hint]
    rfl

theorem exec_layerBuild {s : State} (hd : s.pw.dev = .start) (hr : s.reachable = true) (hb : s.per.built = false) (hm : s.per.mdpState ≠ 2) :
    exec .layerBuild s = .next (bringUp (layersOn (layersBegun s))) :=
  congrArg Host.Outcome.next (if_pos ⟨hd, hr, by rw [hb]; rfl, hm⟩)

section
variable {s : State} (hd : s.pw.dev = .start) (hr : s.reachable = true) (hb : s.per.built = false) (hm : s.per.mdpState ≠ 2)
include hd hr hb hm

/-- LAYER_BUILD without a package. -/
theorem layerBuild_builds (hp : s.per.package = none) : ∃ t, exec .layerBuild s = .next t ∧ t.per.built = true ∧ t.per.mdpState = 0 ∧
    t.pw.systemVoltage = t.nat 0x2010 1 ∧ t.pw.shutdownLimit = t.nat 0x2010 3 ∧ t.serv.nodeId = t.nat 0x2103 1 ∧ t.flow.limit = t.nat 0x5800 7 ∧
    t.sens.tare = t.int 0x4880 9 ∧ (s.per.targets = [] → t.dict = retained s.dict) := by
  obtain ⟨b, l, hper, hl⟩ := layersBegun_per s
  have hdict := layersBegun_dict s
  have hexec := exec_layerBuild hd hr hb hm
  generalize layersBegun s = u at *
  have hon := layersOn_none ((congrArg Persist.package hper).trans hp)
  have hbuilt : (layersOn u).per.built = true ∧ (layersOn u).per.mdpState = 0 := by
    rw [hon]
    exact ⟨rfl, rfl⟩
  obtain ⟨t, ht, hper2, hdict2, hsys, hlimit, hnode, hflow, htare⟩ := bringUp_spec (layersOn u)
  rw [← hper2] at hbuilt
  refine ⟨t, hexec.trans (by rw [ht]), hbuilt.1, hbuilt.2, hsys, hlimit, hnode, hflow, htare, fun htargets => ?_⟩
  have hempty : u.per.targets = [] := (congrArg Persist.targets hper).trans (hl htargets)
  rw [hdict2, hon, applyLayer_empty 1 hempty, applyLayer_empty 2 hempty]
  exact hdict

/-- LAYER_BUILD with a package whose first entry names an object that the dictionary lacks. -/
theorem layerBuild_refuses {p : Package} {e : ObjEntry} {l : List ObjEntry} (hp : s.per.package = some p) (hl : p.entries = e :: l)
    (ho : objRow? e.index e.sub = none) : ∃ t, exec .layerBuild s = .next t ∧ t.per.built = false ∧ t.per.mdpState = 2 ∧
    t.per.mdpEntry = 1 ∧ t.per.mdpAbort = 0x06020000 ∧ t.dict = retained s.dict := by
  obtain ⟨b, ts, hper, -⟩ := layersBegun_per s
  have hdict := layersBegun_dict s
  have hexec := exec_layerBuild hd hr hb hm
  generalize layersBegun s = u at *
  have hon := layersOn_lacking ((congrArg Persist.package hper).trans hp) hl ho
  have hbuilt : u.per.built = false := (congrArg Persist.built hper).trans hb
  obtain ⟨v, hv⟩ : ∃ v, layersOn u = v := ⟨_, rfl⟩
  have hrefused : v.per.built = false ∧ v.per.mdpState = 2 ∧ v.per.mdpEntry = 1 ∧ v.per.mdpAbort = 0x06020000 ∧ v.dict = retained s.dict := by
    rw [← hv, hon]
    exact ⟨hbuilt, rfl, rfl, rfl, hdict⟩
  obtain ⟨t, ht, hper2, hdict2, -⟩ := bringUp_spec v
  rw [← hper2, ← hdict2] at hrefused
  exact ⟨t, hexec.trans (by rw [hv, ht]), hrefused⟩
end

/-! ## Start to Run (05 R141) -/

/-- The mode that function f enters from Start. -/
def startMode (s : State) (f : Nat) : Nat :=
  if s.steerFn = f then 1 else if s.nat (fnObj f) 2 = 2 ∧ (leadCtx s f = none ∨ (s.fnOf f).forced = true) then 1 else s.nat (fnObj f) 2

theorem leadCtx_congr {s t : State} (hdict : t.dict = s.dict) (hctx : t.loop.ctx = s.loop.ctx) (f : Nat) : leadCtx t f = leadCtx s f := by
  unfold leadCtx enabledOf physical State.ctxAt State.nat State.int State.val
  rw [hdict, hctx]

/-- One function takes up its start mode. -/
def startFn (s : State) (f : Nat) : State :=
  s.updFn f fun x => { x with next := some (if (s.nat (fnObj f) 2 = 2 ∧ autoRefused s f) ∨ s.nat 0x3C00 1 = f then 1 else s.nat (fnObj f) 2) }

theorem startModes_eq (s : State) : startModes s = (List.range 48).foldl startFn s := rfl

theorem startFn_mode {s : State} (hrun : s.pw.dev = .run) (f : Nat) :
    (if (s.nat (fnObj f) 2 = 2 ∧ autoRefused s f) ∨ s.nat 0x3C00 1 = f then 1 else s.nat (fnObj f) 2) = startMode s f := by
  have hrefused : autoRefused s f = true ↔ leadCtx s f = none ∨ (s.fnOf f).forced = true := by
    unfold autoRefused
    rw [hrun]
    simp
  unfold startMode State.steerFn
  by_cases hsteer : s.nat 0x3C00 1 = f
  · rw [if_pos (.inr hsteer), if_pos hsteer]
  · rw [if_neg hsteer]
    exact if_congr ((or_iff_left hsteer).trans (and_congr_right fun _ => hrefused)) rfl rfl

/-- The functions below n have taken up their start modes. -/
theorem startFirst_spec {s : State} (hrun : s.pw.dev = .run) (n : Nat) : ∃ t, (List.range n).foldl startFn s = t ∧ Only [.loop] s t ∧
    t.loop.ctx = s.loop.ctx ∧ t.loop.fn.length = s.loop.fn.length ∧ (∀ f, n ≤ f → t.fnOf f = s.fnOf f) ∧
    ∀ f, f < n → f < s.loop.fn.length → t.fnOf f = { s.fnOf f with next := some (startMode s f) } := by
  induction n with
  | zero => exact ⟨s, rfl, .refl _ _, rfl, rfl, fun _ _ => rfl, fun f hf => absurd hf (Nat.not_lt_zero f)⟩
  | succ n ih =>
    obtain ⟨t, ht, honly, hctx, hlen, hover, hunder⟩ := ih
    have hn : t.fnOf n = s.fnOf n := hover n (Nat.le_refl n)
    have hmode : startMode t n = startMode s n := by
      unfold startMode State.steerFn
      rw [leadCtx_congr honly.dict hctx, hn, honly.nat (by decide), honly.nat (by decide)]
    have hne : ∀ f, f ≠ n → (startFn t n).fnOf f = t.fnOf f := fun f hf => getD_upd_ne _ _ _ _ _ hf
    refine ⟨startFn t n, by rw [List.range_succ, List.foldl_append, ht]; rfl, honly.trans (updFn_only _ _ _), hctx, ?_, fun f hf => ?_,
      fun f hf hl => ?_⟩
    · exact (List.length_modify ..).trans hlen
    · exact (hne f (Nat.ne_of_gt hf)).trans (hover f (Nat.le_of_succ_le hf))
    · rcases Nat.lt_succ_iff_lt_or_eq.1 hf with hlt | rfl
      · exact (hne f (Nat.ne_of_lt hlt)).trans (hunder f hlt hl)
      · unfold startFn
        rw [updFn_fnOf_self _ (hlen ▸ hl), startFn_mode (honly.pw ▸ hrun), hmode, hn]

/-- Every function of the module takes up its start mode. -/
theorem startModes_spec {s : State} (hrun : s.pw.dev = .run) : Only [.loop] s (startModes s) ∧
    ∀ f, f < 48 → f < s.loop.fn.length → (startModes s).fnOf f = { s.fnOf f with next := some (startMode s f) } := by
  obtain ⟨t, ht, honly, -, -, -, hmodes⟩ := startFirst_spec hrun 48
  rw [startModes_eq, ht]
  exact ⟨honly, hmodes⟩

/-! ## The end of every session -/

/-- A step of the ends of sessions that leaves Belay alone, and the supply's part but for the session that asked for Service. -/
def QuietEnd (s t : State) : Prop :=
  Only [.serv, .trace, .valve, .free, .flow, .upd, .can, .pctl, .pw] s t ∧ { t.pw with reqSess := none } = { s.pw with reqSess := none }

theorem QuietEnd.refl (s : State) : QuietEnd s s := ⟨.refl _ _, rfl⟩

theorem QuietEnd.trans {s t u : State} (h : QuietEnd s t) (k : QuietEnd t u) : QuietEnd s u := ⟨h.1.trans k.1, k.2.trans h.2⟩

theorem QuietEnd.dev {s t : State} (h : QuietEnd s t) : t.pw.dev = s.pw.dev := (congrArg Pw.dev h.2 :)

/-- Outside Service the end of a session changes no device state. -/
theorem endSession_quiet {s : State} (n : Nat) (h : s.pw.dev ≠ .service) : QuietEnd s (endSession n s) := by
  by_cases hopen : (s.sessOf n).opened = true
  · unfold endSession
    rw [if_neg (by simp [hopen])]
    extract_lets s1 s2 s3 s4 s5
    have h1 : Only [.trace, .valve, .free, .flow, .upd, .can] s s1 :=
      (((traceSessionEnd_only n s).mono (by decide)).next (endTests_only _ _)).next (updCan_only _ _)
    have h2 : Only [.trace, .valve, .free, .flow, .upd, .can] s s2 := .ite (h1.next (orphan_only s1)) h1
    have h5 : Only [.serv, .trace, .valve, .free, .flow, .upd, .can, .pctl] s s5 :=
      (((h2.mono (by decide)).next (updUpd_only s2 _)).next (updPctl_only s3 _)).next (updServ_only s4 _)
    have hq : QuietEnd s s5 := ⟨h5.mono (by decide), congrArg (fun p : Pw => { p with reqSess := none }) h5.pw⟩
    have hdev : s5.pw.dev ≠ .service := by rwa [h5.pw]
    clear_value s5
    rw [if_neg hdev]
    split
    · exact hq.trans ⟨(updPw_only s5 _).mono (by decide), rfl⟩
    · exact hq
  · rw [endSession_closed (Bool.not_eq_true _ ▸ hopen)]
    exact .refl s

theorem endSessions_quiet {s : State} (p : Sess → Bool) (h : s.pw.dev ≠ .service) : QuietEnd s (endSessions p s) := by
  refine List.foldlRecOn (motive := QuietEnd s) _ _ (.refl s) fun t ht n _ => ?_
  split
  · exact ht.trans (endSession_quiet n (by rwa [ht.dev]))
  · exact ht

/-- Every open session has ended. -/
theorem endSessions_closed (s : State) {m : Nat} (hm : m < 16) : ((endSessions (fun x => x.opened) s).sessOf m).opened = false := by
  rw [(endSessions_spec (p := fun x => x.opened) (fun _ hx => hx) s).2 m hm]
  by_cases h : (s.sessOf m).opened = true
  · rw [if_pos h]
  · rw [if_neg h]
    exact Bool.not_eq_true _ ▸ h

theorem exec_startToLadder {s : State} {a b : Bool} (hd : s.pw.dev = .start) (hr : s.reachable = true) (h : a = true ∨ b = true) :
    exec (.startToLadder a b) s = .next (enterLadder 8 (b2n a + 2 * b2n b) (endSessions (fun x => x.opened) s)) :=
  congrArg Host.Outcome.next (if_pos ⟨hd, hr, h⟩)

/-- The end of the sessions before Ladder is no part of what Ladder is entered from. -/
theorem Laddered.of_belay {cause reason : Nat} {s u t : State} (hu : u.belay = s.belay) (h : Laddered cause reason u t) :
    Laddered cause reason s t := by
  unfold Laddered at h ⊢
  rwa [hu] at h

/-! ## The channels at the end of a Shutdown (14 R326, R327) -/

/-- One channel stops, asleep or off. -/
def stopChannel (park : Bool) (s : State) (c : Nat) : State :=
  let sleep := park && ((c == 0 && s.nat 0x5418 1 != 0) || (c == 7 && s.nat 0x5419 1 != 0))
  (discardAll c s).updCch c fun x => { x with state := if sleep then 5 else 0, fifo0 := [], fifo1 := [] }

theorem canStop_eq (park : Bool) (s : State) : canStop park s = (List.range 8).foldl (stopChannel park) s := rfl

/-- A channel of the module is written, or there is no channel of that number. -/
theorem updCch_or (s : State) (c : Nat) (f : CanCh → CanCh) : (s.updCch c f).cch c = f (s.cch c) ∨ (s.updCch c f).cch c = {} := by
  by_cases h : c < s.can.ch.length
  · exact .inl (getD_upd _ _ _ _ h)
  · exact .inr (List.getD_eq_default _ _ ((List.length_modify ..).trans_le (Nat.le_of_not_lt h)))

theorem stopChannel_spec (park : Bool) (s : State) (c : Nat) : Only [.can, .serv] s (stopChannel park s c) ∧
    (∀ m, ((stopChannel park s c).sessOf m).opened = (s.sessOf m).opened) ∧ (∀ d, d ≠ c → (stopChannel park s c).cch d = s.cch d) ∧
    (((stopChannel park s c).cch c).state = 0 ∨ (park = true ∧ ((stopChannel park s c).cch c).state = 5)) := by
  obtain ⟨hsteps, -⟩ := discardAll_spec c s
  unfold stopChannel
  extract_lets sleep
  obtain ⟨u, hu⟩ : ∃ u, discardAll c s = u := ⟨_, rfl⟩
  rw [hu] at hsteps ⊢
  refine ⟨hsteps.only.next (updCch_only u c _), hsteps.opened, fun d hd => (getD_upd_ne _ _ _ _ _ hd).trans (hsteps.chs d hd), ?_⟩
  rcases updCch_or u c fun x => { x with state := if sleep then 5 else 0, fifo0 := [], fifo1 := [] } with h | h <;> rw [h]
  · by_cases hsleep : sleep = true
    · exact .inr ⟨(Bool.and_eq_true_iff.1 hsleep).1, if_pos hsleep⟩
    · exact .inl (if_neg hsleep)
  · exact .inl rfl

theorem stopFirst_spec (park : Bool) (s : State) (n : Nat) : ∃ t, (List.range n).foldl (stopChannel park) s = t ∧ Only [.can, .serv] s t ∧
    (∀ m, (t.sessOf m).opened = (s.sessOf m).opened) ∧
    ∀ c, c < n → (t.cch c).state = 0 ∨ (park = true ∧ (t.cch c).state = 5) := by
  induction n with
  | zero => exact ⟨s, rfl, .refl _ _, fun _ => rfl, fun c hc => absurd hc (Nat.not_lt_zero c)⟩
  | succ n ih =>
    obtain ⟨t, ht, honly, hopen, hdone⟩ := ih
    obtain ⟨hstep, hstepOpen, hne, hself⟩ := stopChannel_spec park t n
    refine ⟨stopChannel park t n, by rw [List.range_succ, List.foldl_append, ht]; rfl, honly.trans hstep,
      fun m => (hstepOpen m).trans (hopen m), fun c hc => ?_⟩
    rcases Nat.lt_succ_iff_lt_or_eq.1 hc with hlt | rfl
    · rw [hne c (Nat.ne_of_lt hlt)]
      exact hdone c hlt
    · exact hself

theorem canStop_spec (park : Bool) (s : State) : Only [.can, .serv] s (canStop park s) ∧
    (∀ m, ((canStop park s).sessOf m).opened = (s.sessOf m).opened) ∧
    ∀ c, c < 8 → ((canStop park s).cch c).state = 0 ∨ (park = true ∧ ((canStop park s).cch c).state = 5) := by
  obtain ⟨t, ht, h⟩ := stopFirst_spec park s 8
  rw [canStop_eq, ht]
  exact h

theorem canStop_off (s : State) {c : Nat} (hc : c < 8) : ((canStop false s).cch c).state = 0 :=
  ((canStop_spec false s).2.2 c hc).resolve_right fun h => Bool.false_ne_true h.1

/-- A change to Park or Dormant. -/
theorem changeDev_asleep {d : Dev} {cause : Nat} {s : State} (h : d = .park ∨ d = .dormant) : (changeDev d cause s).pw = { s.pw with dev := d } ∧
    (changeDev d cause s).belay = { s.belay with history := (⟨s.tm.now / 1000000000, devCode d, cause⟩ :: s.belay.history).take 16 } := by
  have hd : (decide (d = Dev.park) || decide (d = Dev.dormant)) = true := by simp [h]
  obtain ⟨u, hu⟩ : ∃ u, devRecord (devCode s.pw.dev) (devCode d) cause s = u := ⟨_, rfl⟩
  have honly : Only [.flow] s u := hu ▸ devRecord_flow _ _ _ s
  have heq : changeDev d cause s = noteHistory (devCode d) cause (u.updPw fun p => { p with dev := d }) := by
    unfold changeDev
    rw [hd]
    dsimp only
    rw [if_pos rfl, if_pos rfl, hu]
  rw [heq, ← honly.pw, ← honly.belay, ← honly.tm]
  exact ⟨rfl, rfl⟩

/-! ## What is recorded commits no update -/

/-- An update is committed in t as it is in s. -/
def CommitKept (s t : State) : Prop := t.upd.committed = s.upd.committed

namespace CommitKept

theorem of_only {ps : List Part} {s t : State} (h : Only ps s t) (k : Part.upd ∉ ps := by decide) : CommitKept s t := (congrArg Upd.committed (h.upd k) :)

theorem trans {s t u : State} (h : CommitKept s t) (k : CommitKept t u) : CommitKept s u := Eq.trans k h

theorem ite {s t u : State} {p : Prop} [Decidable p] (h : p → CommitKept s t) (k : CommitKept s u) : CommitKept s (if p then t else u) := by
  split
  next hp => exact h hp
  next => exact k

theorem record (s : State) (e : FlowEv) : CommitKept s (s.record e) := by
  have hroll : s.rollSecond.upd = s.upd := by
    unfold State.rollSecond
    split <;> rfl
  unfold CommitKept State.record
  split
  · rfl
  · dsimp only
    split <;> exact (congrArg Upd.committed hroll :)

theorem foldl {α : Type} {f : State → α → State} (hf : ∀ s a, CommitKept s (f s a)) (l : List α) (s : State) : CommitKept s (l.foldl f s) :=
  List.foldlRecOn (motive := CommitKept s) _ _ rfl fun t ht a _ => ht.trans (hf t a)

theorem chanFault (n : Nat) (raised : Bool) (f : VCh → VCh) (s : State) : CommitKept s (chanFault n raised f s) := record (s.updCh n f) _

theorem rejectBoost (n time : Nat) (s : State) : CommitKept s (rejectBoost n time s) := by
  unfold Machine.rejectBoost
  extract_lets c b boosting delay t
  have ht : CommitKept s t := rfl
  exact (ht.trans (record t _)).trans (of_only (refreshHead_profiles n _).only)

theorem svStart (n : Nat) (s : State) : CommitKept s (svStart n s) := by
  unfold Machine.svStart
  extract_lets c now band hot a
  have ha : CommitKept s a := ite (fun _ => chanFault _ _ _ _) rfl
  split
  next v b hfree =>
    extract_lets low d busy wait e
    have hb : CommitKept a b := by
      rw [show b = a.freeInt.2 by rw [hfree]]
      rfl
    have he : CommitKept b e := rfl
    exact ((ha.trans hb).trans he).trans (ite (fun _ => rejectBoost _ _ _) (of_only (refreshHead_profiles n e).only))

theorem svFollow (rise : Bool) (n : Nat) (s : State) : CommitKept s (svFollow rise n s) := by
  unfold Machine.svFollow
  extract_lets c on a d b
  have ha : CommitKept s a := ite (fun _ => rfl) rfl
  have hstop : CommitKept a (svStop n a) := of_only (svStop_profiles n a).only
  have hb : CommitKept a b := ite (fun _ => hstop) (ite
    (fun _ => ite (fun _ => ite (fun _ => svStart n d) (ite (fun _ => rfl) rfl)) (ite (fun _ => hstop) rfl))
    (ite (fun _ => ite (fun _ => ite (fun _ => rfl) (svStart n a)) (ite (fun _ => rfl) rfl)) hstop))
  exact (ha.trans hb).trans (of_only (refreshHead_profiles n b).only)

theorem setCommand (n : Nat) (f : VCh → VCh) (s : State) : CommitKept s (setCommand n f s) :=
  ite (t := s.updCh n f) (fun _ => rfl) (svFollow _ n (s.updCh n f))

theorem endTests (p : Nat × Nat → Bool) (s : State) : CommitKept s (endTests p s) := by
  refine foldl (fun t n => ?_) _ s
  split
  · exact ite (fun _ => setCommand n _ t) rfl
  · rfl

theorem disengage (reason engine : Nat) (s : State) : CommitKept s (disengage reason engine s) := by
  unfold Machine.disengage
  refine ite (fun _ => rfl) ?_
  extract_lets u
  exact (record s (disengageRecord s reason engine)).trans ((of_only (manualZero_only u.steerFn u)).trans rfl)

theorem recordLost (s : State) : CommitKept s (recordLost s) := by
  unfold Machine.recordLost
  exact foldl (fun t _ => record t.freeInt.2 _) _ s

theorem discardEvents (s : State) : CommitKept s (discardEvents s) := (recordLost s).trans (of_only (updPctl_only _ _))

end CommitKept

/-! ## Entry to Shutdown (01 R29) -/

theorem discardEvents_only (s : State) : Only [.free, .flow, .upd, .pctl] s (discardEvents s) :=
  ((recordLost_only s).mono (by decide)).next (updPctl_only _ _)

theorem discardEvents_events (s : State) : (discardEvents s).pctl.events = [] := rfl

theorem freeAnte_cur (restore : Bool) (s : State) : (freeAnte restore s).upd.cur = none := rfl

theorem endUpdate_only (event code : Nat) (s : State) : Only [.serv, .upd, .flow] s (endUpdate event code s) := by
  unfold endUpdate
  split
  · exact .refl _ _
  next o _ =>
    extract_lets s1 s2
    have h1 : Only [.serv, .upd, .flow] s s1 := (ownerTold_only code s).mono (by decide)
    have h2 : Only [.serv, .upd, .flow] s s2 := h1.next (updRegion_only _ _ s1)
    exact (h2.next (freeAnte_only true s2)).next (updRecord_only _ _ _ _ _)

theorem endUpdate_cur (event code : Nat) (s : State) : (endUpdate event code s).upd.cur = none := by
  unfold endUpdate
  split
  · assumption
  · rw [(updRecord_only _ _ _ _ _).upd, freeAnte_cur]

theorem updShutdown_only (s : State) : Only [.serv, .upd, .flow] s (updShutdown s) :=
  (show Only [.serv, .upd, .flow] s _ from .ite (.refl _ _) (endUpdate_only _ _ _)).next (updUpd_only _ _)

theorem updShutdown_offers (s : State) : (updShutdown s).upd.offers = [] := rfl

theorem updShutdown_cur {s : State} (h : s.upd.committed = false) : (updShutdown s).upd.cur = none := by
  unfold updShutdown
  rw [if_neg (Bool.eq_false_iff.1 h)]
  exact endUpdate_cur 0xA 0x11 s

/-- The supply's part of an entry to Shutdown. -/
def shutting (cause : Nat) (s : State) : State :=
  let s := (changeDev .shutdown cause s).updPw fun p => { p with reqSess := none }
  s.updBelay fun b => { b with shutdownAt := s.tm.now }

/-- The functions and Leads of an entry to Shutdown. -/
def stilled (s : State) : State := emptyLeads 7 (applySafeAll (allTestsEnd (disengage 0xD 2 s)))

theorem enterShutdown_eq (cause : Nat) (s : State) :
    enterShutdown cause s = updShutdown (discardEvents ((stilled (shutting cause s)).optVoid 0x15)) := rfl

theorem shutting_spec (cause : Nat) (s : State) : Only [.flow, .pw, .belay] s (shutting cause s) ∧
    (shutting cause s).pw = { s.pw with dev := .shutdown, reqSess := none } ∧ (shutting cause s).belay.shutdownAt = s.tm.now ∧
    (shutting cause s).belay.history = (⟨s.tm.now / 1000000000, 7, cause⟩ :: s.belay.history).take 16 := by
  obtain ⟨hpw, hbelay⟩ := changeDev_awake (d := .shutdown) (cause := cause) (s := s) ⟨nofun, nofun⟩
  have honly := changeDev_quiet .shutdown cause s
  unfold shutting
  obtain ⟨u, hu⟩ : ∃ u, changeDev .shutdown cause s = u := ⟨_, rfl⟩
  rw [hu] at hpw hbelay honly ⊢
  refine ⟨(honly.next (updPw_only u _)).next (updBelay_only _ _), congrArg (fun p : Pw => { p with reqSess := none }) hpw, congrArg Tm.now honly.tm,
    congrArg Belay.history hbelay⟩

theorem applySafeAll_only (s : State) : Only [.lead, .loop] s (applySafeAll s) := Only.foldl _ _ (fun t f => applySafe_only f t) _ _

theorem stilled_only (s : State) : Only [.flow, .upd, .loop, .steer, .valve, .free, .lead, .pas] s (stilled s) :=
  ((((disengage_only 0xD 2 s).mono (by decide)).next (endTests_only _ _)).next
    (applySafeAll_only _)).next (emptyLeads_only _ _)

theorem stilled_ring (s : State) : (stilled s).lead.ring = [] := rfl

theorem stilled_engaged (s : State) : (stilled s).steer.engaged = false := by
  unfold stilled allTestsEnd
  rw [(emptyLeads_only _ _).steer, (applySafeAll_only _).steer, (endTests_only _ _).steer]
  exact disengage_engaged _ _ _

theorem stilled_commit (s : State) : CommitKept s (stilled s) :=
  (((CommitKept.disengage 0xD 2 s).trans (.endTests _ _)).trans (.of_only (applySafeAll_only _))).trans (.of_only (emptyLeads_only _ _))

theorem optVoid_only (code : Nat) (s : State) : Only [.opt] s (s.optVoid code) := updOpt_only s _

/-- The parts that an entry to Shutdown may change. -/
abbrev shutdownParts : List Part := [.pw, .belay, .flow, .upd, .serv, .pctl, .pas, .lead, .free, .opt, .loop, .steer, .valve]

theorem enterShutdown_spec (cause : Nat) (s : State) : Only shutdownParts s (enterShutdown cause s) ∧ ShutDown cause s (enterShutdown cause s) := by
  obtain ⟨hshut, hpw, hat, hhist⟩ := shutting_spec cause s
  rw [enterShutdown_eq]
  generalize shutting cause s = u at *
  have hstill := stilled_only u
  have hring := stilled_ring u
  have heng := stilled_engaged u
  have hcom := stilled_commit u
  generalize stilled u = v at *
  have hvoid := optVoid_only 0x15 v
  generalize v.optVoid 0x15 = w at *
  have hdis := discardEvents_only w
  have hev := discardEvents_events w
  have hcom2 := CommitKept.discardEvents w
  generalize discardEvents w = x at *
  have hupd := updShutdown_only x
  refine ⟨((((hshut.mono (by decide)).next hstill).next hvoid).next hdis).next hupd, ?_, ?_, ?_, ?_, ?_, ?_, updShutdown_offers x, fun hc => ?_⟩
  · rw [hupd.pw, hdis.pw, hvoid.pw, hstill.pw, hpw]
  · rw [hupd.belay, hdis.belay, hvoid.belay, hstill.belay, hat]
  · rw [hupd.belay, hdis.belay, hvoid.belay, hstill.belay, hhist]
  · rw [hupd.pctl, hev]
  · rw [hupd.steer, hdis.steer, hvoid.steer, heng]
  · rw [hupd.lead, hdis.lead, hvoid.lead, hring]
  · refine updShutdown_cur ?_
    unfold CommitKept at hcom hcom2
    rw [hcom2, hvoid.upd, hcom, hshut.upd, hc]

/-! ## The end of a Shutdown (18 R404, R405, R411) -/

theorem endStore_only (cut : Bool) (s : State) : Only [.per, .belay] s (endStore cut s) :=
  .ite (((updPer_only s _).mono (by decide)).next (updBelay_only _ _)) ((finishStore_only s).mono (by decide))

theorem endStore_store (cut : Bool) (s : State) : (endStore cut s).per.store = none := by
  unfold endStore
  split
  · rfl
  · exact finishStore_store s

/-- The end of the Store tells Belay nothing but that it was cut off. -/
theorem endStore_belay (cut : Bool) (s : State) : ∃ b, (endStore cut s).belay = { s.belay with cut := b } ∧
    (cut = true → s.per.store.isSome = true → b = true) := by
  unfold endStore
  split
  · exact ⟨true, rfl, fun _ _ => rfl⟩
  next h => exact ⟨s.belay.cut, (finishStore_only s).belay, fun hc hs => absurd ⟨hc, hs⟩ h⟩

/-- What is queued for the fleet link when the channels close. -/
def queueCut (cut : Bool) (s : State) : State := if cut then loseQueue s else s

theorem queueCut_only (cut : Bool) (s : State) : Only [.fleet] s (queueCut cut s) := .ite (updFleet_only s _) (.refl _ _)

theorem valveOff_only (s : State) : Only [.valve] s (valveOff s) := by
  have hbanks : Only [.valve] s ((List.range 6).foldl (fun s b => bankOff b s) s) :=
    List.foldlRecOn (motive := Only [.valve] s) _ _ (.refl _ _) fun t ht b hb => ht.trans (bankOff_only (List.mem_range.1 hb) t)
  exact hbanks.trans (updSup_only _ _ _)

theorem fioOff_only (s : State) : Only [.fio] s (fioOff s) := Only.foldl [.fio] _ (fun t g => (grpOff_spec g t).1) _ s

/-- The panel and the fleet link close. -/
def linkClosed (s : State) : State := fleetShutdown (lanOff s)

/-- No output stands. -/
def outputsOff (s : State) : State := (fioOff (valveOff s)).updSteer fun x => { x with enable := false }

theorem outputsOff_only (s : State) : Only [.valve, .fio, .steer] s (outputsOff s) :=
  (((valveOff_only s).mono (by decide)).next (fioOff_only _)).next (updSteer_only _ _)

theorem linkClosed_only (s : State) : Only [.lan, .fleet] s (linkClosed s) := ((updLan_only s _).mono (by decide)).next (updFleet_only _ _)

theorem linkClosed_fleet (s : State) : (linkClosed s).fleet = { s.fleet with link := 0 } := rfl

theorem closeOutputs_eq (s : State) : closeOutputs s = linkClosed (endSessions (fun x => x.opened) (outputsOff s)) := by
  unfold closeOutputs linkClosed outputsOff
  dsimp only

/-- The parts that close at the end of a Shutdown. -/
abbrev outputParts : List Part := [.valve, .fio, .steer, .lan, .fleet, .serv, .trace, .free, .flow, .upd, .can, .pctl, .pw]

theorem closeOutputs_spec {s : State} (h : s.pw.dev ≠ .service) : Only outputParts s (closeOutputs s) ∧
    { (closeOutputs s).pw with reqSess := none } = { s.pw with reqSess := none } ∧ (closeOutputs s).fleet = { s.fleet with link := 0 } ∧
    ∀ m, m < 16 → ((closeOutputs s).sessOf m).opened = false := by
  have hoff := outputsOff_only s
  rw [closeOutputs_eq]
  generalize outputsOff s = u at *
  have hq := endSessions_quiet (fun x => x.opened) (s := u) (by rwa [hoff.pw])
  have hclosed := fun m hm => endSessions_closed u (m := m) hm
  generalize endSessions (fun x => x.opened) u = v at *
  have hlink := linkClosed_only v
  refine ⟨((hoff.mono (by decide)).next hq.1).next hlink, ?_, ?_, fun m hm => ?_⟩
  · rw [hlink.pw, hq.2, hoff.pw]
  · rw [linkClosed_fleet, hq.1.fleet, hoff.fleet]
  · exact (congrArg Sess.opened (hlink.sessOf (by decide) m)).trans (hclosed m hm)

/-- The parcel number is saved. -/
def parcelSaved (s : State) : State := s.updPas fun p => { p with nextParcelNor := p.nextParcel }

/-- The clock is written with a number of ticks. -/
def clockSet (ticks : Nat) (s : State) : State := s.updBelay fun b => { b with rtc := ticks, rtcValid := true }

/-- The time is saved with the length of a hold-up. -/
def timeSaved (s : State) : State := s.updBelay fun b =>
  { b with norTime := s.tm.now, holdup := .off, lastHoldupTime := if b.onHoldup then (s.tm.now - b.shutdownAt) / 1000000 else b.lastHoldupTime }

theorem writeRtc_eq (s : State) : writeRtc s = clockSet (rtcTicks s.tm.now) s := rfl

theorem saveAll_eq (s : State) : saveAll s = timeSaved (writeRtc (parcelSaved s)) := rfl

theorem parcelSaved_spec (s : State) : Only [.pas] s (parcelSaved s) ∧ (parcelSaved s).pas.nextParcelNor = s.pas.nextParcel := ⟨updPas_only s _, rfl⟩

theorem clockSet_spec (ticks : Nat) (s : State) : Only [.belay] s (clockSet ticks s) ∧
    (clockSet ticks s).belay = { s.belay with rtc := ticks, rtcValid := true } := ⟨updBelay_only s _, rfl⟩

theorem timeSaved_spec (s : State) : Only [.belay] s (timeSaved s) ∧ (timeSaved s).belay = { s.belay with
    norTime := s.tm.now, holdup := .off
    lastHoldupTime := if s.belay.onHoldup then (s.tm.now - s.belay.shutdownAt) / 1000000 else s.belay.lastHoldupTime } :=
  ⟨updBelay_only s _, rfl⟩

theorem saveAll_only (s : State) : Only [.pas, .belay] s (saveAll s) := by
  rw [saveAll_eq, writeRtc_eq]
  exact (((parcelSaved_spec s).1.mono (by decide)).next (clockSet_spec _ _).1).next (timeSaved_spec _).1

/-- What is saved at the end of a Shutdown. -/
theorem saveAll_saves (s : State) : (saveAll s).pas.nextParcelNor = s.pas.nextParcel ∧ (saveAll s).belay.norTime = s.tm.now ∧
    (saveAll s).belay.holdup = .off ∧ (saveAll s).belay.rtcValid = true ∧ (saveAll s).belay.history = s.belay.history ∧
    (saveAll s).belay.onHoldup = s.belay.onHoldup ∧ (saveAll s).belay.criticalLock = s.belay.criticalLock ∧
    (saveAll s).belay.cut = s.belay.cut := by
  obtain ⟨hparcel, hnor⟩ := parcelSaved_spec s
  rw [saveAll_eq, writeRtc_eq]
  generalize rtcTicks (parcelSaved s).tm.now = ticks
  generalize parcelSaved s = u at *
  obtain ⟨hclock, hticks⟩ := clockSet_spec ticks u
  generalize clockSet ticks u = v at *
  obtain ⟨htime, hbelay⟩ := timeSaved_spec v
  rw [htime.pas, hclock.pas, hbelay, hticks, hclock.tm, hparcel.tm, hparcel.belay]
  exact ⟨hnor, rfl, rfl, rfl, rfl, rfl, rfl, rfl⟩

theorem reportLost_only (s : State) : Only [.flow, .upd] s (reportLost s) :=
  .ite (.refl _ _) (((updFlow_only s _).mono (by decide)).next (record_only _ _))

theorem completeFlush_only (s : State) : Only [.flow, .upd] s (completeFlush s) := by
  unfold completeFlush
  split
  · exact .refl _ _
  · extract_lets done rest was s1 s2
    have h1 : Only [.flow, .upd] s s1 := (updFlow_only s _).mono (by decide)
    exact (show Only [.flow, .upd] s s2 from .ite (h1.next (record_only s1 _)) h1).next (reportLost_only s2)

/-- The last record of a Shutdown is written out. -/
def lastRecord (d : Dev) (s : State) : State := completeFlush (beginFlush (devRecord 7 (devCode d) 0xB s))

theorem lastRecord_only (d : Dev) (s : State) : Only [.flow, .upd] s (lastRecord d s) :=
  (((devRecord_flow 7 (devCode d) 0xB s).mono (by decide)).next (updFlow_only _ _)).next (completeFlush_only _)

theorem closeDown_eq (cut : Bool) (d : Dev) (s : State) : closeDown cut d s = lastRecord d (canStop (d == .park)
    ((saveAll (closeOutputs (queueCut cut (endStore (cut || s.belay.onHoldup) s)))).updTrace fun _ => {})) := rfl

/-- What the end of a Shutdown that began in s has closed and saved before Park or Dormant is entered. -/
structure Closed (cut : Bool) (s t : State) : Prop where
  tm : t.tm = s.tm
  pw : { t.pw with reqSess := none } = { s.pw with reqSess := none }
  dict : t.dict = s.dict
  history : t.belay.history = s.belay.history
  holdup : t.belay.holdup = .off
  clock : t.belay.rtcValid = true ∧ t.belay.norTime = s.tm.now
  onHoldup : t.belay.onHoldup = s.belay.onHoldup
  lock : t.belay.criticalLock = s.belay.criticalLock
  cutOff : cut = true → s.per.store.isSome = true → t.belay.cut = true
  parcel : t.pas.nextParcelNor = s.pas.nextParcel
  store : t.per.store = none
  trace : t.trace = {}
  link : t.fleet.link = 0
  queue : t.fleet.queue = (queueCut cut s).fleet.queue ∧ t.fleet.dropped = (queueCut cut s).fleet.dropped
  closed : ∀ m, m < 16 → (t.sessOf m).opened = false
  chans : ∀ c, c < 8 → (t.cch c).state = 0 ∨ (t.cch c).state = 5
  off : t.noEnable = true

theorem queueCut_fleet {cut : Bool} {s t : State} (h : t.fleet = s.fleet) : (queueCut cut t).fleet = (queueCut cut s).fleet := by
  cases cut
  · exact h
  · exact (congrArg (fun f : Fleet => { f with queue := [], dropped := add32 f.dropped (f.queue.countP fun m : FleetMsg => m.topic == 1) }) h :)

theorem closeDown_closed {s : State} (cut : Bool) (d : Dev) (h : s.pw.dev = .shutdown) : Closed cut s (closeDown cut d s) := by
  have hoff := (closeDown_off cut d h).1
  rw [closeDown_eq] at hoff ⊢
  have hstore := endStore_only (cut || s.belay.onHoldup) s
  have hgone := endStore_store (cut || s.belay.onHoldup) s
  obtain ⟨b, hbelay, hcut⟩ := endStore_belay (cut || s.belay.onHoldup) s
  generalize endStore (cut || s.belay.onHoldup) s = u at *
  have hqueue := queueCut_only cut u
  have hfleet := queueCut_fleet (cut := cut) hstore.fleet
  generalize queueCut cut u = v at *
  obtain ⟨hclose, hpw, hlink, hsess⟩ := closeOutputs_spec (s := v) (by rw [hqueue.pw, hstore.pw, h]; exact nofun)
  generalize closeOutputs v = w at *
  have hsave := saveAll_only w
  obtain ⟨hparcel, htime, hhold, hrtc, hhist, hon, hlock, hcutw⟩ := saveAll_saves w
  generalize saveAll w = x at *
  have htrace := updTrace_only x fun _ => {}
  have hnone : (x.updTrace fun _ => {}).trace = {} := rfl
  generalize (x.updTrace fun _ => {}) = y at *
  obtain ⟨hstop, hopen, hstate⟩ := canStop_spec (d == .park) y
  generalize canStop (d == .park) y = z at *
  have hlast := lastRecord_only d z
  have hwb : w.belay = { s.belay with cut := b } := by rw [hclose.belay, hqueue.belay, hbelay]
  have hb : (lastRecord d z).belay = x.belay := by rw [hlast.belay, hstop.belay, htrace.belay]
  refine ⟨?_, ?_, ?_, ?_, ?_, ⟨?_, ?_⟩, ?_, ?_, fun hc hs => ?_, ?_, ?_, ?_, ?_, ⟨?_, ?_⟩, fun m hm => ?_, fun c hc => ?_, hoff⟩
  · rw [hlast.tm, hstop.tm, htrace.tm, hsave.tm, hclose.tm, hqueue.tm, hstore.tm]
  · rw [hlast.pw, hstop.pw, htrace.pw, hsave.pw, hpw, hqueue.pw, hstore.pw]
  · rw [hlast.dict, hstop.dict, htrace.dict, hsave.dict, hclose.dict, hqueue.dict, hstore.dict]
  · rw [hb, hhist, hwb]
  · rw [hb, hhold]
  · rw [hb, hrtc]
  · rw [hb, htime, hclose.tm, hqueue.tm, hstore.tm]
  · rw [hb, hon, hwb]
  · rw [hb, hlock, hwb]
  · rw [hb, hcutw, hwb]
    exact hcut (by rw [hc]; rfl) hs
  · rw [hlast.pas, hstop.pas, htrace.pas, hparcel, hclose.pas, hqueue.pas, hstore.pas]
  · rw [hlast.per, hstop.per, htrace.per, hsave.per, hclose.per, hqueue.per, hgone]
  · rw [hlast.trace, hstop.trace, hnone]
  · rw [hlast.fleet, hstop.fleet, htrace.fleet, hsave.fleet, hlink]
  · rw [hlast.fleet, hstop.fleet, htrace.fleet, hsave.fleet, hlink, ← hfleet]
  · rw [hlast.fleet, hstop.fleet, htrace.fleet, hsave.fleet, hlink, ← hfleet]
  · rw [hlast.sessOf (by decide), hopen, htrace.sessOf (by decide), hsave.sessOf (by decide), hsess m hm]
  · rw [hlast.cch (by decide)]
    exact (hstate c hc).imp_right fun h => h.2

/-- Park or Dormant as it is entered, before a wake that was latched. -/
def resting (hold : Bool) (d : Dev) (s : State) : State :=
  (noteHistory (devCode d) 0xB (s.updPw fun p => { p with dev := d, episode := false })).updBelay fun b =>
    { b with onHoldup := false, restartWait := hold }

theorem resting_rested {cut : Bool} {s u : State} (h : Closed cut s u) : Rested s (resting s.belay.onHoldup (restState s) u) := by
  refine ⟨rfl, h.off, h.holdup, h.clock.1, h.clock.2, rfl, h.parcel, h.store, h.trace, h.link, h.closed, fun _ => h.chans, ?_⟩
  show (⟨u.tm.now / 1000000000, devCode (restState s), 0xB⟩ :: u.belay.history).take 16 = _
  rw [h.tm, h.history]
  rfl

/-- The supply's part of a rest may change but for the device state. -/
theorem Rested.updPw {s t : State} (h : Rested s t) {f : Pw → Pw} (hf : (f t.pw).dev = t.pw.dev) : Rested s (t.updPw f) := by
  obtain ⟨hdev, hoff, hhold, hrtc, hnor, hwait, hparcel, hstore, htrace, hlink, hclosed, hchans, hhist⟩ := h
  refine ⟨hf.trans hdev, hoff, hhold, hrtc, hnor, hwait, hparcel, hstore, htrace, hlink, hclosed, hchans, ?_⟩
  rw [show (t.updPw f).pw.dev = t.pw.dev from hf]
  exact hhist

/-- What a latched wake does to a module at rest. -/
def wakeRested (s : State) : State :=
  match s.pw.wake with
  | some src => if s.belay.criticalLock then s.updPw fun p => { p with wake := none } else startFrom src s
  | none => s

theorem goToRest_eq (hold : Bool) (d : Dev) (s : State) : goToRest hold d s = if hold then resting hold d s else wakeRested (resting hold d s) := rfl

theorem wakeRested_none {s : State} (h : s.pw.wake = none) : wakeRested s = s := by
  unfold wakeRested
  rw [h]

theorem wakeRested_some {s : State} {src : Nat} (h : s.pw.wake = some src) : wakeRested s =
    if s.belay.criticalLock then s.updPw fun p => { p with wake := none } else startFrom src s := by
  unfold wakeRested
  rw [h]

theorem endShutdown_eq (cut : Bool) (s : State) :
    endShutdown cut s = goToRest s.belay.onHoldup (restState s) (closeDown cut (restState s) s) := rfl

section
variable {s u : State} {cut : Bool} (h : Closed cut s u) (hold : Bool) (d : Dev)
include h

theorem closed_wake : u.pw.wake = s.pw.wake := (congrArg Pw.wake h.pw :)

theorem resting_wake : (resting hold d u).pw.wake = s.pw.wake := (congrArg Pw.wake h.pw :)

theorem resting_below : (resting hold d u).pw.belowWarning = s.pw.belowWarning := (congrArg Pw.belowWarning h.pw :)

theorem resting_lock : (resting hold d u).belay.criticalLock = s.belay.criticalLock := h.lock
end

/-- A module at rest that is not woken. -/
theorem goToRest_stays {s : State} {hold : Bool} (d : Dev) (h : hold = true ∨ s.pw.wake = none ∨ s.belay.criticalLock = true) :
    ∃ w, goToRest hold d s = (resting hold d s).updPw (fun p => { p with wake := w }) ∧ (hold = false → w = none) := by
  obtain ⟨u, hu⟩ : ∃ u, resting hold d s = u := ⟨_, rfl⟩
  have hwake : u.pw.wake = s.pw.wake := hu ▸ rfl
  have hlock : u.belay.criticalLock = s.belay.criticalLock := hu ▸ rfl
  have hsame : ∀ w, u.pw.wake = w → u = u.updPw fun p => { p with wake := w } := fun w hw => by subst hw; rfl
  rw [goToRest_eq, hu]
  by_cases hhold : hold = true
  · rw [if_pos hhold]
    exact ⟨_, hsame _ rfl, fun hb => absurd (hb.symm.trans hhold) Bool.false_ne_true⟩
  · rw [if_neg hhold]
    rcases hw : s.pw.wake with _ | src
    · rw [wakeRested_none (hwake.trans hw)]
      exact ⟨none, hsame _ (hwake.trans hw), fun _ => rfl⟩
    · have hon : u.belay.criticalLock = true := hlock.trans ((h.resolve_left hhold).resolve_left (by rw [hw]; exact nofun))
      rw [wakeRested_some (hwake.trans hw), if_pos hon]
      exact ⟨none, rfl, fun _ => rfl⟩

/-- The state at rest with what is left of a latched wake. -/
theorem resting_unwoken {s u : State} {cut : Bool} (h : Closed cut s u) (w : Option Nat) :
    Rested s ((resting s.belay.onHoldup (restState s) u).updPw fun p => { p with wake := w }) ∧
    ((resting s.belay.onHoldup (restState s) u).updPw fun p => { p with wake := w }).fleet = u.fleet ∧
    ((resting s.belay.onHoldup (restState s) u).updPw fun p => { p with wake := w }).belay.cut = u.belay.cut ∧
    ((resting s.belay.onHoldup (restState s) u).updPw fun p => { p with wake := w }).pw.wake = w :=
  ⟨(resting_rested h).updPw rfl, rfl, rfl, rfl⟩

/-- Nothing wakes the module at the end of this Shutdown: it rests. -/
theorem endShutdown_rests {s : State} (cut : Bool) (hd : s.pw.dev = .shutdown)
    (h : s.belay.onHoldup = true ∨ s.pw.wake = none ∨ s.belay.criticalLock = true) :
    ∃ u t, endShutdown cut s = t ∧ Closed cut s u ∧ Rested s t ∧ t.fleet = u.fleet ∧ t.belay.cut = u.belay.cut ∧
      (s.belay.onHoldup = false → t.pw.wake = none) := by
  have hclosed := closeDown_closed cut (restState s) hd
  rw [endShutdown_eq]
  generalize closeDown cut (restState s) s = u at *
  have hwake := closed_wake hclosed
  obtain ⟨w, hrest, hnone⟩ := goToRest_stays (s := u) (restState s) (h.imp_right fun h => h.imp hwake.trans hclosed.lock.trans)
  obtain ⟨hrested, hfleet, hcut, hwake⟩ := resting_unwoken hclosed w
  exact ⟨u, _, hrest, hclosed, hrested, hfleet, hcut, fun hhold => hwake.trans (hnone hhold)⟩

/-- A wake is latched at the end of this Shutdown. -/
theorem endShutdown_wakes {s : State} {src : Nat} (cut : Bool) (hd : s.pw.dev = .shutdown) (hhold : s.belay.onHoldup = false)
    (hw : s.pw.wake = some src) (hlock : s.belay.criticalLock = false) :
    ∃ u, endShutdown cut s = startFrom src u ∧ Rested s u ∧ u.pw.belowWarning = s.pw.belowWarning := by
  have hclosed := closeDown_closed cut (restState s) hd
  rw [endShutdown_eq, goToRest_eq]
  generalize closeDown cut (restState s) s = u at *
  refine ⟨resting s.belay.onHoldup (restState s) u, ?_, resting_rested hclosed, resting_below hclosed _ _⟩
  rw [if_neg (Bool.eq_false_iff.1 hhold), wakeRested_some ((resting_wake hclosed _ _).trans hw)]
  exact if_neg (by rw [resting_lock hclosed, hlock]; exact Bool.false_ne_true)

/-! ## IGN low (01 R24) -/

theorem withdrawEnables_only (s : State) : Only [.valve, .fio, .steer] s (withdrawEnables s) := by
  unfold withdrawEnables
  extract_lets s1 s2
  have h1 : Only [.valve] s s1 := List.foldlRecOn (motive := Only [.valve] s) _ _ (.refl _ _) fun t ht b hb =>
    ht.trans (.ite (bankOff_only (List.mem_range.1 hb) t) (.refl _ _))
  have h2 : Only [.fio] s1 s2 := Only.foldl [.fio] _ (fun t g => .ite (grpOff_spec g t).1 (.refl _ _)) _ s1
  exact ((h1.mono (by decide)).next h2).next (updSteer_only _ _)

/-- The supply with IGN low, or KEYSVC. -/
theorem exec_ignFall (s : State) (k : Bool) : exec (.ignKeysvcFall true k) s = .next (withdrawEnables (disengage 0xD 2
    ((s.updPw fun p => { p with ign := false, keysvc := p.keysvc && !k }).updBelay fun b => { b with ignSeenLow := true }))) := by
  have hpw : (fun p : Pw => { p with ign := p.ign && !true, keysvc := p.keysvc && !k }) =
      fun p : Pw => { p with ign := false, keysvc := p.keysvc && !k } := funext fun p => by rw [Bool.not_true, Bool.and_false]
  rw [← hpw]
  rfl

theorem exec_keysvcFall (s : State) (k : Bool) : exec (.ignKeysvcFall false k) s = .next (s.updPw fun p => { p with keysvc := p.keysvc && !k }) := by
  have hpw : (fun p : Pw => { p with ign := p.ign && !false, keysvc := p.keysvc && !k }) =
      fun p : Pw => { p with keysvc := p.keysvc && !k } := funext fun p => by rw [Bool.not_false, Bool.and_true]
  rw [← hpw]
  rfl

theorem ignFall_spec (s : State) (k : Bool) : Runs (.ignKeysvcFall true k) s [.pw, .belay, .flow, .upd, .loop, .steer, .valve, .fio] fun t =>
    t.pw = { s.pw with ign := false, keysvc := s.pw.keysvc && !k } ∧ t.belay = { s.belay with ignSeenLow := true } ∧ t.noEnable = true ∧
    t.steer.engaged = false := by
  obtain ⟨u, hu⟩ : ∃ u, (s.updPw fun p => { p with ign := false, keysvc := p.keysvc && !k }).updBelay (fun b => { b with ignSeenLow := true }) = u :=
    ⟨_, rfl⟩
  have hlow : Only [.pw, .belay] s u := hu ▸ ((updPw_only s _).mono (by decide)).next (updBelay_only _ _)
  have hpw : u.pw = { s.pw with ign := false, keysvc := s.pw.keysvc && !k } := hu ▸ rfl
  have hbelay : u.belay = { s.belay with ignSeenLow := true } := hu ▸ rfl
  have hdis := disengage_only 0xD 2 u
  have heng := disengage_engaged 0xD 2 u
  have hexec := exec_ignFall s k
  rw [hu] at hexec
  generalize disengage 0xD 2 u = v at *
  have hgrants : ¬ v.Grants := fun hg => by
    have hign := hg.2
    rw [hdis.pw, hpw] at hign
    exact Bool.false_ne_true hign
  obtain ⟨hquiet, hnone⟩ := withdrawEnables_off hgrants
  have hwith := withdrawEnables_only v
  refine .intro hexec ⟨((hlow.mono (by decide)).next hdis).next hwith, ?_, ?_, hnone,
    Bool.eq_false_iff.2 fun h => Bool.eq_false_iff.1 heng (hquiet.engaged h)⟩
  · rw [hwith.pw, hdis.pw, hpw]
  · rw [hwith.belay, hdis.belay, hbelay]

/-! ## Requests for a device state (01 R28, R29) -/

/-- DeviceStateRequest Run, Service and Shutdown. -/
def requestRun (w : Ctx) (s : State) : Except Nat State := deviceRequest w (.int 4) s
def requestService (w : Ctx) (s : State) : Except Nat State := deviceRequest w (.int 5) s
def requestShutdown (w : Ctx) (s : State) : Except Nat State := deviceRequest w (.int 7) s

section
variable {w : Ctx} {s : State}

theorem requestRun_run (h : 1 ≤ w.role) (hd : s.pw.dev = .run) : requestRun w s = .ok (s.requested 4) := by
  unfold requestRun deviceRequest
  rw [show Right.op.met w.role = true from decide_eq_true h, hd]
  rfl

theorem requestRun_service (h : 1 ≤ w.role) (hd : s.pw.dev = .service) : requestRun w s = .ok ((serviceToRun 3 s).requested 4) := by
  unfold requestRun deviceRequest
  rw [show Right.op.met w.role = true from decide_eq_true h, hd]
  rfl

theorem requestRun_state (h : 1 ≤ w.role) (hr : s.pw.dev ≠ .run) (hs : s.pw.dev ≠ .service) : requestRun w s = .error Abort.state := by
  unfold requestRun deviceRequest
  rw [show Right.op.met w.role = true from decide_eq_true h]
  cases hd : s.pw.dev with
  | run => exact absurd hd hr
  | service => exact absurd hd hs
  | _ => rfl

theorem requestRun_right (h : w.role = 0) : requestRun w s = .error Abort.noRight := by
  unfold requestRun deviceRequest
  rw [h]
  rfl

theorem svc_met (h : w.role = 2 ∨ w.role = 4) : Right.svc.met w.role = true := by
  rcases h with h | h <;> rw [h] <;> rfl

theorem requestService_service (h : w.role = 2 ∨ w.role = 4) (hd : s.pw.dev = .service) : requestService w s = .ok (s.requested 5) := by
  unfold requestService deviceRequest
  rw [svc_met h, hd]
  rfl

theorem requestService_run (h : w.role = 2 ∨ w.role = 4) (hd : s.pw.dev = .run) : requestService w s =
    if serviceAllowed s then .ok ((toService w.sess s).requested 5) else .error Abort.state := by
  unfold requestService deviceRequest
  rw [svc_met h, hd]
  rfl

theorem requestService_state (h : w.role = 2 ∨ w.role = 4) (hd : s.pw.dev = .start ∨ s.pw.dev = .shutdown) :
    requestService w s = .error Abort.state := by
  unfold requestService deviceRequest
  rcases hd with hd | hd <;> rw [svc_met h, hd] <;> rfl

theorem svc_unmet (h2 : w.role ≠ 2) (h4 : w.role ≠ 4) : Right.svc.met w.role = false := by simp [Right.met, h2, h4]

theorem requestService_right (h2 : w.role ≠ 2) (h4 : w.role ≠ 4) : requestService w s = .error Abort.noRight := by
  unfold requestService deviceRequest
  rw [svc_unmet h2 h4]
  rfl

theorem requestShutdown_shutdown (h : 2 ≤ w.role) (hd : s.pw.dev = .shutdown) : requestShutdown w s = .ok (s.requested 7) := by
  unfold requestShutdown deviceRequest
  rw [show Right.os.met w.role = true from decide_eq_true h, hd]
  rfl

theorem requestShutdown_runs (h : 2 ≤ w.role) (hd : s.pw.dev = .run ∨ s.pw.dev = .service) :
    requestShutdown w s = .ok ((enterShutdown 3 s).requested 7) := by
  unfold requestShutdown deviceRequest
  rcases hd with hd | hd <;> rw [show Right.os.met w.role = true from decide_eq_true h, hd] <;> rfl

theorem requestShutdown_start (h : 2 ≤ w.role) (hd : s.pw.dev = .start) : requestShutdown w s = .error Abort.state := by
  unfold requestShutdown deviceRequest
  rw [show Right.os.met w.role = true from decide_eq_true h, hd]
  rfl

theorem requestShutdown_right (h : w.role < 2) : requestShutdown w s = .error Abort.noRight := by
  unfold requestShutdown deviceRequest
  rw [show Right.os.met w.role = false from decide_eq_false (Nat.not_le_of_lt h)]
  rfl

theorem leaveLadder_leaves (hd : s.pw.dev = .ladder) (h : w.role = 2 ∨ w.role = 4) (hr : s.upd.ladderReason % 4 = 0) :
    leaveLadder w s = .ok (enterStart 0xD s.pw.wakeSource s) :=
  (if_neg (not_not.2 hd)).trans ((if_neg (by rw [svc_met h]; exact Bool.false_ne_true)).trans (if_neg (not_not.2 hr)))

theorem leaveLadder_faulty (hd : s.pw.dev = .ladder) (h : w.role = 2 ∨ w.role = 4) (hr : s.upd.ladderReason % 4 ≠ 0) :
    leaveLadder w s = .error Abort.state :=
  (if_neg (not_not.2 hd)).trans ((if_neg (by rw [svc_met h]; exact Bool.false_ne_true)).trans (if_pos hr))

theorem leaveLadder_right (hd : s.pw.dev = .ladder) (h2 : w.role ≠ 2) (h4 : w.role ≠ 4) : leaveLadder w s = .error Abort.noRight :=
  (if_neg (not_not.2 hd)).trans (if_pos (by rw [svc_unmet h2 h4]; rfl))
end

/-! ## Run to Service -/

/-- The Leads and the optimiser give way to Service, and Probe becomes Auto. -/
def yielding (s : State) : State :=
  ((emptyLeads 7 s).optVoid 0x15).updLoop fun l => { l with fn := l.fn.map fun f => if f.mode = 4 then { f with next := some 2 } else f }

theorem toService_eq (sess : Option Nat) (s : State) :
    toService sess s = changeDev .service 3 ((yielding s).updPw fun p => { p with reqSess := sess }) := rfl

theorem yielding_only (s : State) : Only [.lead, .pas, .opt, .loop] s (yielding s) :=
  (((emptyLeads_only 7 s).mono (by decide)).next (optVoid_only _ _)).next (updLoop_only _ _)

/-- A running cycle that nothing has voided yet is void. -/
theorem optVoid_voids {s : State} (code : Nat) (hc : s.opt.cycle.isSome = true) (hv : s.opt.void = none) : (s.optVoid code).opt.void = some code := by
  unfold State.optVoid State.updOpt
  dsimp only
  rw [if_pos (by rw [hc, hv]; rfl)]

/-- A function in Probe goes on in Auto. -/
def probeEnds (f : Fn) : Fn := if f.mode = 4 then { f with next := some 2 } else f

theorem yielding_spec (s : State) : (yielding s).lead.ring = [] ∧
    (s.opt.cycle.isSome = true → s.opt.void = none → (yielding s).opt.void = some 0x15) ∧
    ∀ f, (yielding s).fnOf f = probeEnds (s.fnOf f) := by
  have hempty := emptyLeads_only 7 s
  refine ⟨rfl, fun hc hv => ?_, fun f => ?_⟩
  · have hopt : (emptyLeads 7 s).opt = s.opt := hempty.opt
    exact optVoid_voids (s := emptyLeads 7 s) 0x15 (by rw [hopt, hc]) (by rw [hopt, hv])
  · unfold State.fnOf
    show (s.loop.fn.map probeEnds).getD f {} = _
    have hnone : probeEnds {} = {} := rfl
    by_cases hl : f < s.loop.fn.length
    · simp [List.getD, hl]
    · simp [List.getD, hl, hnone]

theorem toService_spec (sess : Option Nat) (s : State) : Only [.pw, .belay, .flow, .lead, .pas, .opt, .loop] s (toService sess s) ∧
    (toService sess s).pw = { s.pw with dev := .service, reqSess := sess } ∧
    (toService sess s).belay.history = (⟨s.tm.now / 1000000000, 5, 3⟩ :: s.belay.history).take 16 ∧
    (toService sess s).lead = (yielding s).lead ∧ (toService sess s).opt = (yielding s).opt ∧ (toService sess s).loop = (yielding s).loop := by
  have hyield := yielding_only s
  rw [toService_eq]
  generalize yielding s = u at *
  have hreq := updPw_only u fun p => { p with reqSess := sess }
  have hpw : (u.updPw fun p => { p with reqSess := sess }).pw = { u.pw with reqSess := sess } := rfl
  generalize (u.updPw fun p => { p with reqSess := sess }) = v at *
  obtain ⟨hdev, hhist⟩ := changeDev_awake (d := .service) (cause := 3) (s := v) ⟨nofun, nofun⟩
  have hquiet := changeDev_quiet .service 3 v
  refine ⟨((hyield.mono (by decide)).next hreq).next hquiet, ?_, ?_, ?_, ?_, ?_⟩
  · rw [hdev, hpw, hyield.pw]
  · rw [hhist, hreq.tm, hyield.tm, hreq.belay, hyield.belay]
    rfl
  · rw [hquiet.lead, hreq.lead]
  · rw [hquiet.opt, hreq.opt]
  · rw [hquiet.loop, hreq.loop]

theorem serviceToRun_spec (cause : Nat) (s : State) : Only [.flow, .pw, .belay] s (serviceToRun cause s) ∧
    (serviceToRun cause s).pw = { s.pw with dev := .run, reqSess := none } ∧
    (serviceToRun cause s).belay.history = (⟨s.tm.now / 1000000000, 4, cause⟩ :: s.belay.history).take 16 := by
  have hreq := updPw_only s fun p => { p with reqSess := none }
  have hpw : (s.updPw fun p => { p with reqSess := none }).pw = { s.pw with reqSess := none } := rfl
  unfold serviceToRun
  generalize (s.updPw fun p => { p with reqSess := none }) = v at *
  obtain ⟨hdev, hhist⟩ := changeDev_awake (d := .run) (cause := cause) (s := v) ⟨nofun, nofun⟩
  refine ⟨(hreq.mono (by decide)).next (changeDev_quiet .run cause v), ?_, ?_⟩
  · rw [hdev, hpw]
  · rw [hhist, hreq.tm, hreq.belay]
    rfl

/-- A request to the server bars no Service. -/
theorem serviceAllowed_eq (s : State) (n : Nat) : serviceAllowed (s.touch n) = serviceAllowed s := rfl

theorem serviceAllowed_touch (s : State) (n : Nat) (h : serviceAllowed s = true) : serviceAllowed (s.touch n) = true := (serviceAllowed_eq s n).trans h

theorem serviceBarred_touch (s : State) (n : Nat) (h : serviceAllowed s = false) : ¬ serviceAllowed (s.touch n) = true := by
  rw [serviceAllowed_eq, h]
  exact Bool.false_ne_true

theorem Started.of_same {cause src : Nat} {s u t : State} (h : Started cause src u t) (hdict : u.dict = s.dict) (hper : u.per = s.per)
    (hbelay : u.belay = s.belay) : Started cause src s t := by
  unfold Started at h ⊢
  rwa [hdict, hper, hbelay] at h

/-! ## Start to Run -/

theorem startToRun_spec {s : State} (hd : s.pw.dev = .start) (hr : s.reachable = true) (hb : s.per.built = true) :
    ∃ t, exec .startToRun s = .next t ∧ Only [.pw, .belay, .flow, .loop] s t ∧ t.pw = { s.pw with dev := .run } ∧
    t.belay.history = (⟨s.tm.now / 1000000000, 4, 7⟩ :: s.belay.history).take 16 ∧
    ∀ f, f < 48 → f < s.loop.fn.length → t.fnOf f = { s.fnOf f with next := some (startMode s f) } := by
  obtain ⟨hdev, hhist⟩ := changeDev_awake (d := .run) (cause := 7) (s := s) ⟨nofun, nofun⟩
  have hquiet := changeDev_quiet .run 7 s
  have hexec : exec .startToRun s = .next (startModes (changeDev .run 7 s)) := congrArg Host.Outcome.next (if_pos ⟨hd, hr, hb⟩)
  generalize changeDev .run 7 s = u at *
  obtain ⟨hmodes, hfns⟩ := startModes_spec (s := u) (by rw [hdev])
  have hfn : ∀ f, u.fnOf f = s.fnOf f := fun f => by unfold State.fnOf; rw [hquiet.loop]
  have hmode : ∀ f, startMode u f = startMode s f := fun f => by
    unfold startMode State.steerFn
    rw [leadCtx_congr hquiet.dict (congrArg LoopSt.ctx hquiet.loop), hfn, hquiet.nat (by decide), hquiet.nat (by decide)]
  refine ⟨_, hexec, (hquiet.mono (by decide)).next hmodes, ?_, ?_, fun f hf hl => ?_⟩
  · rw [hmodes.pw, hdev]
  · rw [hmodes.belay, hhist]
    rfl
  · rw [hfns f hf (by rw [hquiet.loop]; exact hl), hfn, hmode]

/-! ## The obligation -/

theorem shutdown_reachable {s : State} (hd : s.pw.dev = .shutdown) (hr : s.belay.resetWait = false) : s.reachable = true := by
  simp [State.reachable, hd, hr]

theorem exec_shutdownComplete {s : State} (hd : s.pw.dev = .shutdown) (hr : s.belay.resetWait = false) :
    exec .shutdownComplete s = .next (endShutdown false s) := congrArg Host.Outcome.next (if_pos ⟨hd, shutdown_reachable hd hr⟩)

/-- Ladder, left without IGN and KEYSVC. -/
theorem ladderLeft (s : State) : ∃ t, changeDev .dormant 2 (canStop false (endSessions (fun x => x.opened) s)) = t ∧ t.pw.dev = .dormant ∧
    (∀ m, m < 16 → (t.sessOf m).opened = false) ∧ (∀ c, c < 8 → (t.cch c).state = 0) ∧
    (s.pw.dev ≠ .service → t.belay.history = (⟨s.tm.now / 1000000000, 1, 2⟩ :: s.belay.history).take 16) := by
  have hclosed := fun m hm => endSessions_closed s (m := m) hm
  have hquiet := endSessions_quiet (fun x => x.opened) (s := s)
  generalize endSessions (fun x => x.opened) s = u at *
  obtain ⟨hstop, hopen, -⟩ := canStop_spec false u
  have hoff := fun c hc => canStop_off u (c := c) hc
  generalize canStop false u = v at *
  obtain ⟨hdev, hhist⟩ := changeDev_asleep (d := .dormant) (cause := 2) (s := v) (.inr rfl)
  have hq := changeDev_quiet .dormant 2 v
  refine ⟨_, rfl, congrArg Pw.dev hdev, fun m hm => ?_, fun c hc => ?_, fun hs => ?_⟩
  · rw [hq.sessOf (by decide), hopen, hclosed m hm]
  · rw [hq.cch (by decide), hoff c hc]
  · rw [hhist, hstop.belay, hstop.tm, (hquiet hs).1.belay, (hquiet hs).1.tm]
    rfl

/-- Settles O58: LAYER_BUILD, the device states and the requests for them, and the ends of Shutdown and Ladder. -/
theorem powerStates : Obligations.PowerStates := by
  refine ⟨fun s hd hr hb hm hp => ?_, fun s p e l hd hr hb hm hp hl ho => ?_, fun s h => ?_, fun s hd hr hb => ?_, fun s h => ?_,
    fun s a b hd hr h => ?_, fun s a b h => ?_, fun s n h hrole hd => ?_, fun s n h hrole hd => ?_, fun s n h hrole hd hd2 => ?_,
    fun s n h hrole => ?_, fun s n h hrole hd => ?_, fun s n h hrole hd hok => ?_, fun s n h hrole hd => ?_, fun s n h h2 h4 => ?_,
    fun s n h hrole hd => ?_, fun s n h hrole hd => ?_, fun s n h hrole hd => ?_, fun s n h hrole => ?_, fun s hd hi hk hsess => ?_,
    fun s h => ?_, fun s hd hi hk hr => ?_, fun s h => ?_, fun s hd => ?_, fun s hd => congrArg Host.Outcome.next (if_neg hd), fun s hd hr h => ?_,
    fun s src hd hr hhold hw hlock hb => ?_, fun s src hd hr hhold hw hlock hb => ?_, fun s hd hr hhold hw hover => ?_, fun s h => ?_,
    fun s hd => congrArg Host.Outcome.next (if_neg fun hb => hd hb.1), ignFall_spec, exec_keysvcFall, fun s n h hrole hd hr => ?_,
    fun s n h hrole hd hr => ?_, fun s n h hd => ?_, fun s n h hd h2 h4 => ?_⟩
  · exact layerBuild_builds hd hr hb hm hp
  · exact layerBuild_refuses hd hr hb hm hp hl ho
  · refine congrArg Host.Outcome.next (if_neg fun hb => ?_)
    obtain ⟨hd, hr, hbuilt, hm⟩ := hb
    rcases h with h | h | h | h
    · exact h hd
    · exact Bool.false_ne_true (h.symm.trans hr)
    · rw [h] at hbuilt
      exact Bool.false_ne_true hbuilt
    · exact hm h
  · obtain ⟨t, ht, honly, hpw, hhist, hfns⟩ := startToRun_spec hd hr hb
    exact .intro ht ⟨honly.mono (by decide), hpw, hhist, hfns⟩
  · refine congrArg Host.Outcome.next (if_neg fun hb => ?_)
    obtain ⟨hd, hr, hbuilt⟩ := hb
    rcases h with h | h | h
    · exact h hd
    · exact Bool.false_ne_true (h.symm.trans hr)
    · exact Bool.false_ne_true (h.symm.trans hbuilt)
  · have hquiet := endSessions_quiet (fun x => x.opened) (s := s) (by rw [hd]; exact nofun)
    exact ⟨_, exec_startToLadder hd hr h, (enterLadder_laddered 8 _ _).of_belay hquiet.1.belay⟩
  · refine congrArg Host.Outcome.next (if_neg fun hb => ?_)
    obtain ⟨hd, hr, hab⟩ := hb
    rcases h with h | h | ⟨ha, hb⟩
    · exact h hd
    · exact Bool.false_ne_true (h.symm.trans hr)
    · exact hab.elim (fun h => Bool.false_ne_true (ha.symm.trans h)) fun h => Bool.false_ne_true (hb.symm.trans h)
  · exact served_ok (w := requestRun) h (requestRun_run (w := s.ctxOf n) (s := s.touch n) hrole hd)
  · obtain ⟨honly, hpw, hhist⟩ := serviceToRun_spec 3 (s.touch n)
    have hexec := served_ok (w := requestRun) h (requestRun_service (w := s.ctxOf n) (s := s.touch n) hrole hd)
    generalize serviceToRun 3 (s.touch n) = u at *
    refine .intro hexec ⟨(honly.mono (by decide)).next (put_only u _ _ _), hpw, ?_, hhist⟩
    exact congrArg (fun l => dictPut l 0x2000 2 (.int 4)) honly.dict
  · exact served_error (w := requestRun) h (requestRun_state (w := s.ctxOf n) (s := s.touch n) hrole hd hd2)
  · exact served_error (w := requestRun) h (requestRun_right (w := s.ctxOf n) (s := s.touch n) hrole)
  · exact served_ok (w := requestService) h (requestService_service (w := s.ctxOf n) (s := s.touch n) hrole hd)
  · obtain ⟨honly, hpw, hhist, hlead, hopt, hloop⟩ := toService_spec (some n) (s.touch n)
    obtain ⟨hring, hvoid, hfns⟩ := yielding_spec (s.touch n)
    have hexec := served_ok (w := requestService) h ((requestService_run (w := s.ctxOf n) (s := s.touch n) hrole hd).trans
      (if_pos (serviceAllowed_touch s n hok)))
    have hfn : ∀ f, (toService (some n) (s.touch n)).fnOf f = probeEnds (s.fnOf f) := fun f =>
      (congrArg (fun l : LoopSt => l.fn.getD f {}) hloop).trans (hfns f)
    refine .intro hexec ⟨(honly.mono (by decide)).next (put_only _ _ _ _), hpw, ?_, hhist, (congrArg Leads.ring hlead).trans hring,
      fun hc hv => (congrArg Opt.void hopt).trans (hvoid hc hv), fun f hl hf => ?_, fun f hf => ?_⟩
    · exact congrArg (fun l => dictPut l 0x2000 2 (.int 5)) honly.dict
    · exact congrArg Fn.next ((hfn f).trans (if_pos hf))
    · exact (hfn f).trans (if_neg hf)
  · have hdev : (s.pw.dev = .run ∧ serviceAllowed s = false) ∨ s.pw.dev = .start ∨ s.pw.dev = .shutdown := hd
    rcases hdev with ⟨hd, hno⟩ | hd
    · exact served_error (w := requestService) h ((requestService_run (w := s.ctxOf n) (s := s.touch n) hrole hd).trans
        (if_neg (serviceBarred_touch s n hno)))
    · exact served_error (w := requestService) h (requestService_state (w := s.ctxOf n) (s := s.touch n) hrole hd)
  · exact served_error (w := requestService) h (requestService_right (w := s.ctxOf n) (s := s.touch n) h2 h4)
  · obtain ⟨honly, hshut⟩ := enterShutdown_spec 3 (s.touch n)
    have hexec := served_ok (w := requestShutdown) h (requestShutdown_runs (w := s.ctxOf n) (s := s.touch n) hrole hd)
    generalize enterShutdown 3 (s.touch n) = u at *
    refine .intro hexec ⟨(honly.mono (by decide)).next (put_only u _ _ _), hshut, ?_⟩
    exact congrArg (fun l => dictPut l 0x2000 2 (.int 7)) honly.dict
  · exact served_ok (w := requestShutdown) h (requestShutdown_shutdown (w := s.ctxOf n) (s := s.touch n) hrole hd)
  · exact served_error (w := requestShutdown) h (requestShutdown_start (w := s.ctxOf n) (s := s.touch n) hrole hd)
  · exact served_error (w := requestShutdown) h (requestShutdown_right (w := s.ctxOf n) (s := s.touch n) hrole)
  · obtain ⟨honly, hshut⟩ := enterShutdown_spec 2 s
    refine .intro (congrArg Host.Outcome.next (if_pos ⟨hd, by rw [hi]; rfl, by rw [hk]; rfl, ?_⟩)) ⟨honly, hshut⟩
    exact List.all_eq_true.2 fun x hx => by rw [hsess x hx]; rfl
  · refine congrArg Host.Outcome.next (if_neg fun hb => ?_)
    obtain ⟨hd, hi, hk, hall⟩ := hb
    rcases h with ⟨hr, hs⟩ | h | h | ⟨x, hx, hopen⟩
    · exact hd.elim hr hs
    · rw [h] at hi
      exact Bool.false_ne_true hi
    · rw [h] at hk
      exact Bool.false_ne_true hk
    · have hclosed := List.all_eq_true.1 hall x hx
      rw [hopen] at hclosed
      exact Bool.false_ne_true hclosed
  · obtain ⟨t, ht, hdev, hclosed, hoff, hhist⟩ := ladderLeft s
    have hexec : exec .ladderIgnOffExpiry s = .next (changeDev .dormant 2 (canStop false (endSessions (fun x => x.opened) s))) :=
      congrArg Host.Outcome.next (if_pos ⟨hd, by rw [hi]; rfl, by rw [hk]; rfl, by rw [hr]; rfl⟩)
    exact ⟨t, hexec.trans (by rw [ht]), hdev, hclosed, fun _ => hoff, hhist (by rw [hd]; exact nofun)⟩
  · refine congrArg Host.Outcome.next (if_neg fun hb => ?_)
    obtain ⟨hd, hi, hk, -⟩ := hb
    rcases h with h | h | h
    · exact h hd
    · rw [h] at hi
      exact Bool.false_ne_true hi
    · rw [h] at hk
      exact Bool.false_ne_true hk
  · obtain ⟨hdev, hhist⟩ := changeDev_asleep (d := .dormant) (cause := 0xC) (s := s) (.inr rfl)
    have hquiet := changeDev_quiet .dormant 0xC s
    have hexec : exec .parkDwellExpiry s = .next (canStop false (changeDev .dormant 0xC s)) := congrArg Host.Outcome.next (if_pos hd)
    generalize changeDev .dormant 0xC s = u at *
    have hstop := (canStop_spec false u).1
    refine .intro hexec ⟨(hquiet.mono (by decide)).next hstop, ?_, ?_, fun _ c hc => canStop_off u hc⟩
    · rw [hstop.pw, hdev]
    · rw [hstop.belay, hhist]
      rfl
  · obtain ⟨u, t, ht, hclosed, hrested, hfleet, -, hwake⟩ := endShutdown_rests false hd h
    refine ⟨t, (exec_shutdownComplete hd hr).trans (by rw [ht]), hrested, hwake, ?_⟩
    rw [hfleet, hclosed.queue.1]
    rfl
  · obtain ⟨u, hu, hrested, hbelow⟩ := endShutdown_wakes false hd hhold hw hlock
    refine ⟨_, (exec_shutdownComplete hd hr).trans (by rw [hu, startFrom_waits (hbelow.trans hb)]), hrested.updPw rfl, rfl⟩
  · obtain ⟨u, hu, hrested, hbelow⟩ := endShutdown_wakes false hd hhold hw hlock
    exact ⟨u, enterStart 1 src u, (exec_shutdownComplete hd hr).trans (by rw [hu, startFrom_starts (hbelow.trans hb)]), hrested, enterStart_started 1 src u⟩
  · obtain ⟨u, t, ht, hclosed, hrested, hfleet, hcut, -⟩ := endShutdown_rests true hd (.inr (.inl hw))
    have hexec : exec .shutdownLimitExpiry s = .next (endShutdown true s) :=
      congrArg Host.Outcome.next (if_pos ⟨hd, shutdown_reachable hd hr, by rw [hhold]; rfl, hover⟩)
    refine ⟨t, hexec.trans (by rw [ht]), hrested, ?_, ?_, fun hs => hcut.trans (hclosed.cutOff rfl hs)⟩
    · rw [hfleet, hclosed.queue.1]
      rfl
    · rw [hfleet, hclosed.queue.2]
      rfl
  · refine congrArg Host.Outcome.next (if_neg fun hb => ?_)
    obtain ⟨hd, -, hhold, hover⟩ := hb
    rcases h with h | h | h
    · exact h hd
    · rw [h] at hhold
      exact Bool.false_ne_true hhold
    · exact Nat.not_le_of_lt h hover
  · have hexec := served_ok (w := leaveLadder) h (leaveLadder_leaves (w := s.ctxOf n) (s := s.touch n) hd hrole hr)
    exact ⟨_, hexec, (enterStart_started 0xD s.pw.wakeSource (s.touch n)).of_same rfl rfl rfl⟩
  · exact served_error (w := leaveLadder) h (leaveLadder_faulty (w := s.ctxOf n) (s := s.touch n) hd hrole hr)
  · exact served_error (w := leaveLadder) h (if_pos hd)
  · exact served_error (w := leaveLadder) h (leaveLadder_right (w := s.ctxOf n) (s := s.touch n) hd h2 h4)

end Sys2Proof.Machine

/-! Proofs of the statement on the supply, the temperature and the memories (18, 01). -/

namespace Sys2Proof.Machine

set_option Elab.async false

/-! ## Records of the supply -/

/-- What is recorded does not rest on the supply's levels. -/
theorem record_flow_pw {s u : State} (e : FlowEv) (hdev : u.pw.dev = s.pw.dev) (hflow : u.flow = s.flow) (htm : u.tm = s.tm)
    (hdict : u.dict = s.dict) : (u.record e).flow = (s.record e).flow := by
  have hlimit : u.nat 0x5800 7 = s.nat 0x5800 7 := by
    unfold State.nat State.int State.val
    rw [hdict]
  rw [record_flow, record_flow, hdev, hflow, htm, hlimit]

theorem beginFlush_only (s : State) : Only [.flow] s (beginFlush s) := updFlow_only s _

/-- Which groups a flush takes rests on Flowstone alone. -/
theorem beginFlush_flow {s u : State} (h : u.flow = s.flow) : (beginFlush u).flow = (beginFlush s).flow :=
  (congrArg (fun f : Flow => if f.wait = [] then f else { f with flushUntil := some f.nextSeq }) h :)

/-! ## Brownout episodes (R400, R401) -/

/-- BAT+ has fallen to a level. -/
def fallenTo (mV : Nat) (s : State) : State := s.updPw fun p => { p with batMv := mV, batMin := min p.batMin mV, belowWarning := true }

/-- The supply with an episode open. -/
def episodeOpened (mV : Nat) (s : State) : State :=
  (fallenTo mV s).updPw fun p => { p with episode := true, episodeMin := mV, episodeCount := inc32 p.episodeCount }

/-- The supply with the episode closed. -/
def episodeClosed (minMv duration : Nat) (s : State) : State :=
  (risen s).updPw fun p =>
    { p with episode := false, episodeMin := minMv, lastEpisodeMin := minMv, lastEpisodeDuration := duration, batMin := min p.batMin minMv }

section
variable {s : State} {m : Nat}

theorem exec_brownoutOpen (h : m ≤ warnLevel s) : exec (.brownoutOpen m) s = .next (if s.reachable = true ∧ (!s.pw.episode) = true then
    beginFlush ((episodeOpened m s).record ⟨0x1003, 0, 1, [], [], 0xFFFFFFFF, 0xF⟩) else fallenTo m s) :=
  congrArg Host.Outcome.next (if_neg (Nat.not_lt_of_le h))

theorem exec_brownoutClose (m d : Nat) : exec (.brownoutClose m d) s = .next (if s.pw.episode = true then
    (episodeClosed m d s).record ⟨0x1004, 0, 1, leBytes 2 m ++ leBytes 4 d, [], 0xFFFFFFFF, 0xF⟩ else risen s) := rfl

theorem episodeOpened_only (m : Nat) (s : State) : Only [.pw] s (episodeOpened m s) := (updPw_only s _).trans (updPw_only _ _)

theorem episodeClosed_only (m d : Nat) (s : State) : Only [.pw] s (episodeClosed m d s) := (updPw_only s _).trans (updPw_only _ _)
end

/-! ## Load shedding (R402) -/

/-- The link of one port goes down and the others stand. -/
theorem linkChange_ports (p : Nat) (s : State) : Only [.net, .sky, .tm] s (linkChange p false s) ∧
    ((linkChange p false s).net.ports.getD p {}).link = false ∧
    ∀ q, q ≠ p → ((linkChange p false s).net.ports.getD q {}).link = (s.net.ports.getD q {}).link := by
  obtain ⟨honly, hdown⟩ := restartPort_drops p s
  refine ⟨honly, hdown, fun q hq => ?_⟩
  cases hlink : (s.net.ports.getD p {}).link with
  | false => rw [linkChange_same hlink]
  | true =>
    obtain ⟨hports, -, -⟩ := disciplineUnless_keeps s p
    rw [linkChange_down hlink, ← hports]
    exact congrArg Port.link (getD_upd_ne _ _ _ _ _ hq)

/-- The links of the ports below n go down. -/
theorem linksDown_spec (s : State) (n : Nat) : ∃ t, (List.range n).foldl (fun s p => linkChange p false s) s = t ∧ Only [.net, .sky, .tm] s t ∧
    ∀ p, p < n → (t.net.ports.getD p {}).link = false := by
  induction n with
  | zero => exact ⟨s, rfl, .refl _ _, fun p hp => absurd hp (Nat.not_lt_zero p)⟩
  | succ n ih =>
    obtain ⟨t, ht, honly, hdown⟩ := ih
    obtain ⟨hstep, hself, hne⟩ := linkChange_ports n t
    refine ⟨linkChange n false t, by rw [List.range_succ, List.foldl_append, ht]; rfl, honly.trans hstep, fun p hp => ?_⟩
    rcases Nat.lt_succ_iff_lt_or_eq.1 hp with hlt | rfl
    · rw [hne p (Nat.ne_of_lt hlt), hdown p hlt]
    · exact hself

/-- One channel goes off with its requests. -/
def shedChannel (s : State) (c : Nat) : State := (discardAll c s).updCch c fun x => { x with state := 0 }

theorem shedChannel_spec (s : State) (c : Nat) : Only [.can, .serv] s (shedChannel s c) ∧ ((shedChannel s c).cch c).state = 0 ∧
    ∀ d, d ≠ c → (shedChannel s c).cch d = s.cch d := by
  obtain ⟨hsteps, -⟩ := discardAll_spec c s
  unfold shedChannel
  generalize discardAll c s = u at *
  refine ⟨hsteps.only.next (updCch_only u c _), ?_, fun d hd => (getD_upd_ne _ _ _ _ _ hd).trans (hsteps.chs d hd)⟩
  rcases updCch_or u c fun x => { x with state := 0 } with h | h <;> rw [h]

/-- Every channel of a list goes off. -/
theorem shedChannels_spec (l : List Nat) (s : State) : Only [.can, .serv] s (l.foldl shedChannel s) ∧
    ∀ c, (c ∈ l ∨ (s.cch c).state = 0) → ((l.foldl shedChannel s).cch c).state = 0 := by
  induction l generalizing s with
  | nil => exact ⟨.refl _ _, fun c hc => hc.resolve_left List.not_mem_nil⟩
  | cons a l ih =>
    obtain ⟨hone, hself, hne⟩ := shedChannel_spec s a
    obtain ⟨hall, hoff⟩ := ih (shedChannel s a)
    rw [List.foldl_cons]
    refine ⟨hone.trans hall, fun c hc => hoff c ?_⟩
    by_cases hca : c = a
    · rw [hca]
      exact .inr hself
    · rw [hne c hca]
      exact hc.imp_left fun h => (List.mem_cons.1 h).resolve_left hca

theorem shedLoad_eq (s : State) : shedLoad s = (rangeFrom 1 6).foldl shedChannel ((List.range 4).foldl (fun s p => linkChange p false s) s) := rfl

theorem shedLoad_spec (s : State) : Only [.net, .tm, .sky, .can, .serv] s (shedLoad s) ∧
    (∀ p, p < 4 → ((shedLoad s).net.ports.getD p {}).link = false) ∧ ∀ c, 1 ≤ c → c ≤ 6 → ((shedLoad s).cch c).state = 0 := by
  obtain ⟨t, ht, hlinks, hdown⟩ := linksDown_spec s 4
  obtain ⟨hchans, hoff⟩ := shedChannels_spec (rangeFrom 1 6) t
  rw [shedLoad_eq, ht]
  refine ⟨(hlinks.mono (by decide)).next hchans, fun p hp => ?_, fun c h1 h6 => hoff c (.inl ?_)⟩
  · rw [hchans.net, hdown p hp]
  · have hmem : ∀ c ≤ 6, 1 ≤ c → c ∈ rangeFrom 1 6 := by decide
    exact hmem c h6 h1

/-- The bank supplies the module from the reset level on. -/
def supplying (mV : Nat) (s : State) : State :=
  (fallenTo mV s).updBelay fun b => { b with holdup := .supplying, onHoldup := true, holdupCount := inc32 b.holdupCount }

/-- The load is shed, and the time of the Shutdown counts from now. -/
def shedFrom (s : State) : State := shedLoad (s.updBelay fun b => { b with shutdownAt := s.tm.now })

/-- A running module goes into Shutdown on hold-up, with its record. -/
def heldShutdown (mV : Nat) (s : State) : State :=
  beginFlush (enterShutdown 5 ((s.record ⟨0x1005, 0, 1, leBytes 2 mV, [], 0xFFFFFFFF, 0xF⟩).updPw fun p => { p with episode := false }))

section
variable {s : State} {m : Nat}

theorem exec_resetLevelHoldup (hr : s.reachable = true) (hh : s.belay.holdup = .armed) (hm : m ≤ resetLevel s) :
    exec (.resetLevelHoldup m) s = .next (shedFrom (if s.pw.dev = .shutdown then supplying m s else heldShutdown m (supplying m s))) := by
  have hno : ¬ ((!supervised s) = true ∨ s.belay.holdup ≠ .armed ∨ resetLevel s < m) := by
    rintro (h | h | h)
    · rw [show supervised s = true from hr] at h
      exact Bool.false_ne_true h
    · exact h hh
    · exact Nat.not_le_of_lt h hm
  exact congrArg Host.Outcome.next (if_neg hno)

theorem supplying_only (m : Nat) (s : State) : Only [.pw, .belay] s (supplying m s) := ((updPw_only s _).mono (by decide)).next (updBelay_only _ _)

theorem supplying_spec (m : Nat) (s : State) : (supplying m s).pw = { s.pw with batMv := m, batMin := min s.pw.batMin m, belowWarning := true } ∧
    (supplying m s).belay = { s.belay with holdup := .supplying, onHoldup := true, holdupCount := inc32 s.belay.holdupCount } := ⟨rfl, rfl⟩

theorem shedFrom_spec (s : State) : Only [.belay, .net, .tm, .sky, .can, .serv] s (shedFrom s) ∧
    (shedFrom s).belay = { s.belay with shutdownAt := s.tm.now } ∧ (∀ p, p < 4 → ((shedFrom s).net.ports.getD p {}).link = false) ∧
    ∀ c, 1 ≤ c → c ≤ 6 → ((shedFrom s).cch c).state = 0 := by
  obtain ⟨hshed, hports, hchans⟩ := shedLoad_spec (s.updBelay fun b => { b with shutdownAt := s.tm.now })
  exact ⟨((updBelay_only s _).mono (by decide)).trans (hshed.mono (by decide)), hshed.belay, hports, hchans⟩

/-- The record and the end of the episode before a Shutdown on hold-up. -/
def episodeEnded (mV : Nat) (s : State) : State :=
  (s.record ⟨0x1005, 0, 1, leBytes 2 mV, [], 0xFFFFFFFF, 0xF⟩).updPw fun p => { p with episode := false }

theorem heldShutdown_eq (m : Nat) (s : State) : heldShutdown m s = beginFlush (enterShutdown 5 (episodeEnded m s)) := rfl

theorem episodeEnded_spec (m : Nat) (s : State) : Only [.flow, .upd, .pw] s (episodeEnded m s) ∧
    (episodeEnded m s).pw = { s.pw with episode := false } ∧ CommitKept s (episodeEnded m s) := by
  have hrec := record_only s ⟨0x1005, 0, 1, leBytes 2 m, [], 0xFFFFFFFF, 0xF⟩
  have hkept := CommitKept.record s ⟨0x1005, 0, 1, leBytes 2 m, [], 0xFFFFFFFF, 0xF⟩
  unfold episodeEnded
  generalize s.record ⟨0x1005, 0, 1, leBytes 2 m, [], 0xFFFFFFFF, 0xF⟩ = u at *
  exact ⟨(hrec.mono (by decide)).next (updPw_only u _), congrArg (fun p : Pw => { p with episode := false }) hrec.pw, hkept⟩

theorem shutting_belay (cause : Nat) (s : State) : (shutting cause s).belay = { s.belay with
    shutdownAt := s.tm.now, history := (⟨s.tm.now / 1000000000, 7, cause⟩ :: s.belay.history).take 16 } := by
  have hbelay := (changeDev_awake (d := .shutdown) (cause := cause) (s := s) ⟨nofun, nofun⟩).2
  have htm := (changeDev_quiet .shutdown cause s).tm
  unfold shutting
  generalize changeDev .shutdown cause s = u at *
  show { u.belay with shutdownAt := u.tm.now } = _
  rw [hbelay, htm]
  rfl

theorem enterShutdown_belay (cause : Nat) (s : State) : (enterShutdown cause s).belay = { s.belay with
    shutdownAt := s.tm.now, history := (⟨s.tm.now / 1000000000, 7, cause⟩ :: s.belay.history).take 16 } := by
  rw [enterShutdown_eq, (updShutdown_only _).belay, (discardEvents_only _).belay, (optVoid_only _ _).belay, (stilled_only _).belay, shutting_belay]

/-- The shutdown on hold-up of a running module. -/
theorem heldShutdown_spec (m : Nat) (s : State) : ∃ t, heldShutdown m s = t ∧
    t.pw = { s.pw with episode := false, dev := .shutdown, reqSess := none } ∧ t.tm = s.tm ∧
    t.belay = { s.belay with shutdownAt := s.tm.now, history := (⟨s.tm.now / 1000000000, 7, 5⟩ :: s.belay.history).take 16 } ∧
    t.pctl.events = [] ∧ t.steer.engaged = false ∧ t.lead.ring = [] ∧ (s.upd.committed = false → t.upd.cur = none) := by
  obtain ⟨honly, hpw, hkept⟩ := episodeEnded_spec m s
  rw [heldShutdown_eq]
  generalize episodeEnded m s = u at *
  obtain ⟨henter, hshut⟩ := enterShutdown_spec 5 u
  obtain ⟨hdev, -, -, hevents, hengaged, hring, -, hcur⟩ := hshut
  have hbelay := enterShutdown_belay 5 u
  generalize enterShutdown 5 u = v at *
  have hflush := beginFlush_only v
  refine ⟨_, rfl, ?_, ?_, ?_, ?_, ?_, ?_, fun hc => ?_⟩
  · rw [hflush.pw, hdev, hpw]
  · rw [hflush.tm, henter.tm, honly.tm]
  · rw [hflush.belay, hbelay, honly.belay, honly.tm]
  · rw [hflush.pctl, hevents]
  · rw [hflush.steer, hengaged]
  · rw [hflush.lead, hring]
  · rw [hflush.upd]
    exact hcur (Eq.trans hkept hc)

theorem resetLevel_holds (hr : s.reachable = true) (hh : s.belay.holdup = .armed) (hm : m ≤ resetLevel s) (hd : s.pw.dev ≠ .shutdown) :
    ∃ t, exec (.resetLevelHoldup m) s = .next t ∧ t.pw.dev = .shutdown ∧ t.pw.batMv = m ∧ t.pw.episode = false ∧ t.belay.holdup = .supplying ∧
    t.belay.onHoldup = true ∧ t.belay.holdupCount = inc32 s.belay.holdupCount ∧ t.belay.shutdownAt = s.tm.now ∧
    t.belay.history = (⟨s.tm.now / 1000000000, 7, 5⟩ :: s.belay.history).take 16 ∧ t.steer.engaged = false ∧ t.pctl.events = [] ∧ t.lead.ring = [] ∧
    (s.upd.committed = false → t.upd.cur = none) ∧ (∀ p, p < 4 → (t.net.ports.getD p {}).link = false) ∧
    ∀ c, 1 ≤ c → c ≤ 6 → (t.cch c).state = 0 := by
  have hexec := exec_resetLevelHoldup hr hh hm
  rw [if_neg hd] at hexec
  have honly := supplying_only m s
  obtain ⟨hpw, hbelay⟩ := supplying_spec m s
  generalize supplying m s = u at *
  obtain ⟨v, hv, hvpw, hvtm, hvbelay, hevents, hengaged, hring, hcur⟩ := heldShutdown_spec m u
  rw [hv] at hexec
  obtain ⟨hshed, hshedBelay, hports, hchans⟩ := shedFrom_spec v
  refine ⟨_, hexec, ?_, ?_, ?_, ?_, ?_, ?_, ?_, ?_, ?_, ?_, ?_, fun hc => ?_, hports, hchans⟩
  · rw [hshed.pw, hvpw]
  · rw [hshed.pw, hvpw, hpw]
  · rw [hshed.pw, hvpw]
  · rw [hshedBelay, hvbelay, hbelay]
  · rw [hshedBelay, hvbelay, hbelay]
  · rw [hshedBelay, hvbelay, hbelay]
  · rw [hshedBelay, hvtm, honly.tm]
  · rw [hshedBelay, hvbelay, hbelay, honly.tm]
  · rw [hshed.steer, hengaged]
  · rw [hshed.pctl, hevents]
  · rw [hshed.lead, hring]
  · rw [hshed.upd]
    exact hcur (by rw [honly.upd, hc])
end

/-! ## The reset level without an armed bank, and the loss of Belay's supply (R405, R409) -/

/-- What the module holds when Kilxus and its volatile memory are gone. -/
def stripped (s : State) : State := loseSessions (loseVolatile (orphaned s))

theorem stripped_only (s : State) : Only [.serv, .upd] (loseVolatile (orphaned s)) (stripped s) := loseSessions_only _

theorem loseVolatile_gone (s : State) : (loseVolatile s).pas.ring = [] ∧ (loseVolatile s).pas.nextParcelNor = s.pas.nextParcelNor ∧
    (loseVolatile s).dict = retained s.dict ∧ (loseVolatile s).belay = s.belay ∧ (loseVolatile s).upd = s.upd := ⟨rfl, rfl, rfl, rfl, rfl⟩

theorem loseSessions_state (s : State) : (loseSessions s).upd.state = s.upd.state := rfl

theorem orphaned_state {s : State} (h : s.upd.state = 1) : (orphaned s).upd.state = 4 := by
  have heq : orphaned s = s.updUpd fun u => { u with state := 4, owner := none, orphanAt := s.tm.mono } := (if_pos h).trans (if_pos h)
  rw [heq]
  rfl

theorem stripped_spec (s : State) : (stripped s).serv.sess = List.replicate 16 {} ∧ (stripped s).dict = retained s.dict ∧
    (stripped s).pas.ring = [] ∧ (stripped s).pas.nextParcelNor = s.pas.nextParcelNor ∧ (stripped s).noEnable = true ∧
    (stripped s).steer.engaged = false ∧ (stripped s).belay = s.belay ∧ (s.upd.state = 1 → (stripped s).upd.state = 4) := by
  have horphan := orphaned_only s
  have hstate := fun h => orphaned_state (s := s) h
  have honly := stripped_only s
  have hsess := loseSessions_sessions (loseVolatile (orphaned s))
  have hupd := loseSessions_state (loseVolatile (orphaned s))
  change (stripped s).serv.sess = _ at hsess
  change (stripped s).upd.state = _ at hupd
  generalize stripped s = v at *
  generalize orphaned s = u at *
  obtain ⟨hring, hparcel, hdict, hbelay, hlost⟩ := loseVolatile_gone u
  obtain ⟨hnone, hengaged⟩ := loseVolatile_off u
  refine ⟨hsess, ?_, ?_, ?_, ?_, ?_, ?_, fun h => ?_⟩
  · rw [honly.dict, hdict, horphan.dict]
  · rw [honly.pas, hring]
  · rw [honly.pas, hparcel, horphan.pas]
  · rw [noEnable_congr honly.valve honly.fio honly.steer, hnone]
  · rw [honly.steer, hengaged]
  · rw [honly.belay, hbelay, horphan.belay]
  · rw [hupd, hlost, hstate h]

/-- The supply's and Belay's part of a reset without hold-up, and the queues that it empties. -/
def heldInReset (ladder : Bool) (old : Nat) (s : State) : State :=
  (((s.updFlow fun f => { f with wait := [] }).updFleet fun f => { f with queue := [] }).updPw fun p =>
    { p with dev := if ladder then .ladder else .start, belowWarning := true, episode := false, reqSess := none }).updBelay fun b =>
    { b with holdup := .off, onHoldup := false, resetWait := true, resetFrom := old }

theorem heldInReset_only (ladder : Bool) (old : Nat) (s : State) : Only [.flow, .fleet, .pw, .belay] s (heldInReset ladder old s) :=
  ((((updFlow_only s _).mono (by decide)).next (updFleet_only _ _)).next (updPw_only _ _)).next (updBelay_only _ _)

theorem heldInReset_spec (ladder : Bool) (old : Nat) (s : State) :
    (heldInReset ladder old s).pw.dev = (if ladder then .ladder else .start) ∧ (heldInReset ladder old s).belay =
      { s.belay with holdup := .off, onHoldup := false, resetWait := true, resetFrom := old } ∧
    (heldInReset ladder old s).flow.wait = [] ∧ (heldInReset ladder old s).fleet.queue = [] := ⟨rfl, rfl, rfl, rfl⟩

section
variable {s : State}

theorem exec_resetLevelNoHoldup {d : Dev} (hw : s.belay.resetWait = false) (hd : s.pw.dev = .ladder ∧ d = .ladder ∨ s.reachable = true ∧ d = .start)
    (ha : s.belay.holdup ≠ .armed) (hs : s.belay.holdup ≠ .supplying) : exec .resetLevelNoHoldup s =
      .next (heldInReset (decide (s.pw.dev = .ladder)) (devCode s.pw.dev)
        (stripped (noteHistory (if decide (s.pw.dev = .ladder) then 6 else 3) 6 s))) := by
  refine congrArg Host.Outcome.next (if_neg fun hb => ?_)
  rcases hb with h | h | h | h
  · exact Bool.false_ne_true (hw.symm.trans h)
  · have hoff : ¬ s.pw.dev = .ladder ∧ supervised s = false := by simpa using h
    rcases hd with hd | hd
    · exact hoff.1 hd.1
    · exact Bool.false_ne_true (hoff.2.symm.trans hd.1)
  · exact ha h
  · exact hs h

theorem noteHistory_history (state cause : Nat) (s : State) :
    (noteHistory state cause s).belay = { s.belay with history := (⟨s.tm.now / 1000000000, state, cause⟩ :: s.belay.history).take 16 } := rfl

theorem resetLevel_resets {d : Dev} (hw : s.belay.resetWait = false) (hd : s.pw.dev = .ladder ∧ d = .ladder ∨ s.reachable = true ∧ d = .start)
    (ha : s.belay.holdup ≠ .armed) (hs : s.belay.holdup ≠ .supplying) : ∃ t, exec .resetLevelNoHoldup s = .next t ∧ t.pw.dev = d ∧
    t.belay.resetWait = true ∧ t.belay.holdup = .off ∧ t.belay.onHoldup = false ∧
    t.belay.history = (⟨s.tm.now / 1000000000, devCode d, 6⟩ :: s.belay.history).take 16 ∧ t.serv.sess = List.replicate 16 {} ∧
    t.dict = retained s.dict ∧ t.flow.wait = [] ∧ t.fleet.queue = [] ∧ t.pas.ring = [] ∧ t.noEnable = true ∧ t.steer.engaged = false ∧
    (s.upd.state = 1 → t.upd.state = 4) := by
  have hdev : (if decide (s.pw.dev = .ladder) = true then Dev.ladder else Dev.start) = d ∧
      (if decide (s.pw.dev = .ladder) = true then 6 else 3) = devCode d := by
    rcases hd with ⟨hl, rfl⟩ | ⟨hr, rfl⟩
    · rw [if_pos (decide_eq_true hl), if_pos (decide_eq_true hl)]
      exact ⟨rfl, rfl⟩
    · have hno : s.pw.dev ≠ .ladder := fun hl => by simp [State.reachable, hl] at hr
      rw [if_neg (by simp [hno]), if_neg (by simp [hno])]
      exact ⟨rfl, rfl⟩
  have hexec := exec_resetLevelNoHoldup hw hd ha hs
  obtain ⟨hdevice, hcode⟩ := hdev
  rw [hcode] at hexec
  have hnote := noteHistory_only (devCode d) 6 s
  have hhist := noteHistory_history (devCode d) 6 s
  generalize noteHistory (devCode d) 6 s = u at *
  obtain ⟨hsess, hdict, hring, -, hnone, hengaged, hbelay, hstate⟩ := stripped_spec u
  generalize stripped u = v at *
  obtain ⟨hpw, hheld, hwait, hqueue⟩ := heldInReset_spec (decide (s.pw.dev = .ladder)) (devCode s.pw.dev) v
  have honly := heldInReset_only (decide (s.pw.dev = .ladder)) (devCode s.pw.dev) v
  refine ⟨_, hexec, hpw.trans hdevice, ?_, ?_, ?_, ?_, ?_, ?_, hwait, hqueue, ?_, ?_, ?_, fun h => ?_⟩
  · rw [hheld]
  · rw [hheld]
  · rw [hheld]
  · rw [hheld, hbelay, hhist]
  · rw [honly.serv, hsess]
  · rw [honly.dict, hdict, hnote.dict]
  · rw [honly.pas, hring]
  · rw [noEnable_congr honly.valve honly.fio honly.steer, hnone]
  · rw [honly.steer, hengaged]
  · rw [honly.upd]
    exact hstate (by rw [hnote.upd, h])
end

/-- Belay without its supply: the dictionary's alarm, the records that wait, the supply and Belay's memory are gone. -/
def unsupplied (s : State) : State :=
  let s := { s with dict := s.dict.filter fun e => e.1 / 256 != 0x2013 }
  ((s.updFlow fun f => { f with wait := [] }).updPw fun p =>
    { p with dev := .dormant, wake := none, wakeLadder := false, keyHold := false, reqSess := none, episode := false, belowWarning := true, batMv := 0 }).updBelay
    fun b => { b with holdup := .off, onHoldup := false, restartWait := false, resetWait := false, rtc := 0, rtcValid := false, memLost := true,
                      history := [], criticalLock := false, ignSeenLow := false }

theorem exec_belayPowerLoss (s : State) : exec .belayPowerLoss s = .next (unsupplied (stripped s)) := rfl

theorem unsupplied_only (s : State) : Only [.dict, .flow, .pw, .belay] s (unsupplied s) := fun p => by
  cases p with
  | dict | flow | pw | belay => exact .inl (by decide)
  | _ => exact .inr rfl

theorem unsupplied_spec (s : State) : (unsupplied s).pw.dev = .dormant ∧ (unsupplied s).pw.wake = none ∧ (unsupplied s).belay.rtcValid = false ∧
    (unsupplied s).belay.rtc = 0 ∧ (unsupplied s).belay.history = [] ∧ (unsupplied s).belay.memLost = true ∧
    (unsupplied s).belay.criticalLock = false ∧ (unsupplied s).belay.holdup = .off ∧
    (unsupplied s).dict = s.dict.filter fun e => e.1 / 256 != 0x2013 := ⟨rfl, rfl, rfl, rfl, rfl, rfl, rfl, rfl, rfl⟩

theorem belayLost (s : State) : ∃ t, exec .belayPowerLoss s = .next t ∧ t.pw.dev = .dormant ∧ t.pw.wake = none ∧ t.belay.rtcValid = false ∧
    t.belay.rtc = 0 ∧ t.belay.history = [] ∧ t.belay.memLost = true ∧ t.belay.criticalLock = false ∧ t.belay.holdup = .off ∧
    t.serv.sess = List.replicate 16 {} ∧ t.dict = (retained s.dict).filter (fun e => e.1 / 256 != 0x2013) ∧
    t.pas.nextParcelNor = s.pas.nextParcelNor ∧ t.noEnable = true ∧ t.steer.engaged = false := by
  have hexec := exec_belayPowerLoss s
  obtain ⟨hsess, hdict, -, hparcel, hnone, hengaged, -, -⟩ := stripped_spec s
  generalize stripped s = u at *
  have honly := unsupplied_only u
  obtain ⟨hdev, hwake, hrtc, hticks, hhist, hmem, hlock, hhold, hleft⟩ := unsupplied_spec u
  refine ⟨_, hexec, hdev, hwake, hrtc, hticks, hhist, hmem, hlock, hhold, ?_, ?_, ?_, ?_, ?_⟩
  · rw [honly.serv, hsess]
  · rw [hleft, hdict]
  · rw [honly.pas, hparcel]
  · rw [noEnable_congr honly.valve honly.fio honly.steer, hnone]
  · rw [honly.steer, hengaged]

/-! ## Restart after hold-up -/

/-- BAT+ has held the start-allowed level after a shutdown on hold-up. -/
def restarting (s : State) : State := (s.updBelay fun b => { b with restartWait := false }).updPw fun p =>
  { p with belowWarning := false, batMv := max p.batMv (startLevel s), wake := none }

section
variable {s : State}

theorem exec_holdupRestart (h : s.belay.restartWait = true) : exec .holdupRestartWaitEnd s = .next (if s.belay.criticalLock then restarting s
    else if s.pw.ign then enterStart 1 1 (restarting s) else if s.pw.keysvc then enterStart 1 2 (restarting s) else restarting s) :=
  congrArg Host.Outcome.next (if_pos h)

theorem restarting_only (s : State) : Only [.pw, .belay] s (restarting s) := ((updBelay_only s _).mono (by decide)).next (updPw_only _ _)

theorem exec_holdupArmed {e : Nat} {k : Bool} (hh : s.belay.holdup = .charging) (hr : s.reachable = true) : exec (.holdupArmed e k) s =
    .next (s.updBelay fun b => if k then { b with holdup := .armed, holdupMv := 32000, holdupEnergy := e } else { b with holdup := .fault }) :=
  congrArg Host.Outcome.next (if_pos ⟨hh, hr⟩)
end

/-! ## Temperature (R412) -/

theorem updBelay_congr {s : State} {f g : Belay → Belay} (h : f s.belay = g s.belay) : s.updBelay f = s.updBelay g :=
  congrArg (fun b => { s with belay := b }) h

/-- What the throttle's input makes of Belay. -/
def throttleTo (on : Bool) (mono : Nat) (b : Belay) : Belay :=
  if on = b.throttled then b
  else if on then { b with throttled := true, throttleAt := mono }
  else { b with throttled := false, throttleTime := b.throttleTime + (mono - b.throttleAt) }

theorem exec_thermalThrottle (s : State) (on : Bool) : exec (.thermalThrottle on) s = .next (s.updBelay (throttleTo on s.tm.mono)) := rfl

theorem throttleTo_begins {mono : Nat} {b : Belay} (h : b.throttled = false) :
    throttleTo true mono b = { b with throttled := true, throttleAt := mono } := by
  unfold throttleTo
  rw [h]
  rfl

theorem throttleTo_ends {mono : Nat} {b : Belay} (h : b.throttled = true) :
    throttleTo false mono b = { b with throttled := false, throttleTime := b.throttleTime + (mono - b.throttleAt) } := by
  unfold throttleTo
  rw [h]
  rfl

theorem throttleTo_stays {mono : Nat} (b : Belay) : throttleTo b.throttled mono b = b := if_pos rfl

/-- The lock of a critical temperature leaves a Shutdown as it is. -/
theorem ShutDown.critical {cause : Nat} {s t : State} (h : ShutDown cause s t) (low : Bool) :
    ShutDown cause s (t.updBelay fun b => { b with critical := true, criticalLock := true, ignSeenLow := low }) := h

/-! ## Memory errors (01 R21) -/

/-- A count by number, 0 where there is none. -/
def countOf (l : List (Nat × Nat)) (k : Nat) : Nat := ((l.find? fun p => p.1 == k).map (·.2)).getD 0

/-- A count that is raised. -/
def raised (k : Nat) (p : Nat × Nat) : Nat × Nat := if p.1 = k then (k, inc32 p.2) else p

theorem raised_key (k : Nat) (p : Nat × Nat) : (raised k p).1 = p.1 := by
  unfold raised
  split
  next h => exact h.symm
  next => rfl

theorem find_raised (l : List (Nat × Nat)) (k j : Nat) :
    (l.map (raised k)).find? (fun p => p.1 == j) = (l.find? fun p => p.1 == j).map (raised k) := by
  rw [List.find?_map]
  have hkey : ((fun p : Nat × Nat => p.1 == j) ∘ raised k) = fun p => p.1 == j := funext fun p => by
    show ((raised k p).1 == j) = _
    rw [raised_key]
  rw [hkey]

theorem bump_eq (l : List (Nat × Nat)) (k : Nat) : bump l k = if l.any (fun p => p.1 == k) then l.map (raised k) else l ++ [(k, 1)] := rfl

/-- A count bumped is one more, and every other one stands. -/
theorem bump_self (l : List (Nat × Nat)) (k : Nat) : (bump l k).find? (fun p => p.1 == k) = some (k, inc32 (countOf l k)) := by
  rw [bump_eq]
  by_cases h : l.any (fun p => p.1 == k) = true
  · rw [if_pos h, find_raised]
    obtain ⟨x, hx⟩ : ∃ x, l.find? (fun p => p.1 == k) = some x := by
      rw [← Option.isSome_iff_exists, List.find?_isSome]
      simpa using h
    have hk : x.1 = k := by simpa using List.find?_some hx
    unfold countOf
    rw [hx]
    exact congrArg some (if_pos hk)
  · have hnone : l.find? (fun p => p.1 == k) = none := by
      rw [List.find?_eq_none]
      exact fun p hp hk => h (List.any_eq_true.2 ⟨p, hp, hk⟩)
    rw [if_neg h, List.find?_append]
    unfold countOf
    rw [hnone]
    simp [inc32]

theorem bump_other (l : List (Nat × Nat)) {k j : Nat} (hj : j ≠ k) : (bump l k).find? (fun p => p.1 == j) = l.find? fun p => p.1 == j := by
  rw [bump_eq]
  by_cases h : l.any (fun p => p.1 == k) = true
  · rw [if_pos h, find_raised]
    cases hx : l.find? fun p => p.1 == j with
    | none => rfl
    | some x =>
      have hkey : x.1 = j := by simpa using List.find?_some hx
      exact congrArg some (if_neg (hkey ▸ hj))
  · rw [if_neg h, List.find?_append]
    have hone : List.find? (fun p : Nat × Nat => p.1 == j) [(k, 1)] = none := by simp [Ne.symm hj]
    rw [hone, Option.or_none]

/-- A safe state changes its own function alone. -/
theorem applySafe_fn (f : Nat) (s : State) : ∃ (u : State) (g : Fn → Fn), applySafe f s = u.updFn f g ∧ u.loop.fn = s.loop.fn ∧
    ∀ x, (g x).mode = 1 ∧ (g x).safe = true := by
  have hdrop : (dropLead f s).loop = s.loop := by
    unfold dropLead
    split <;> rfl
  unfold applySafe
  extract_lets a b cmd
  exact ⟨b, _, rfl, (congrArg LoopSt.fn hdrop :), fun _ => ⟨rfl, rfl⟩⟩

/-- A function that Column-B forces safe is so, and every other one stands. -/
theorem columnForce_spec (f : Nat) (s : State) : Only [.lead, .loop] s (columnForce f s) ∧
    (columnForce f s).loop.fn.length = s.loop.fn.length ∧
    (f < s.loop.fn.length → ((columnForce f s).fnOf f).forced = true ∧ ((columnForce f s).fnOf f).mode = 1 ∧ ((columnForce f s).fnOf f).safe = true) ∧
    ∀ g, g ≠ f → (columnForce f s).fnOf g = s.fnOf g := by
  obtain ⟨u, h, happly, hfn, hsafe⟩ := applySafe_fn f s
  have hsafely := applySafe_only f s
  unfold columnForce
  rw [happly] at hsafely ⊢
  have hlen : (u.updFn f h).loop.fn.length = s.loop.fn.length := (List.length_modify ..).trans (congrArg List.length hfn)
  refine ⟨hsafely.next (updFn_only _ _ _), (List.length_modify ..).trans hlen, fun hl => ?_, fun g hg => ?_⟩
  · rw [updFn_fnOf_self _ (hlen ▸ hl), updFn_fnOf_self _ (hfn ▸ hl)]
    exact ⟨rfl, hsafe _⟩
  · exact ((getD_upd_ne _ _ _ _ _ hg).trans (getD_upd_ne _ _ _ _ _ hg)).trans (congrArg (fun l : List Fn => l.getD g {}) hfn)

/-- The functions of a list are forced safe. -/
theorem forced_spec (l : List Nat) (s : State) : ∃ t, l.foldl (fun s f => columnForce f s) s = t ∧ Only [.lead, .loop] s t ∧
    t.loop.fn.length = s.loop.fn.length ∧
    (∀ f, f ∈ l ∨ ((s.fnOf f).forced = true ∧ (s.fnOf f).mode = 1 ∧ (s.fnOf f).safe = true) → f < s.loop.fn.length →
      (t.fnOf f).forced = true ∧ (t.fnOf f).mode = 1 ∧ (t.fnOf f).safe = true) ∧ ∀ f, f ∉ l → t.fnOf f = s.fnOf f := by
  induction l generalizing s with
  | nil => exact ⟨s, rfl, .refl _ _, rfl, fun f hf _ => hf.resolve_left List.not_mem_nil, fun _ _ => rfl⟩
  | cons a l ih =>
    obtain ⟨honly, hlen, hself, hne⟩ := columnForce_spec a s
    obtain ⟨t, ht, hall, hlent, hforced, hrest⟩ := ih (columnForce a s)
    refine ⟨t, ht, honly.trans hall, hlent.trans hlen, fun f hf hl => hforced f ?_ (hlen.symm ▸ hl), fun f hf => ?_⟩
    · by_cases hfa : f = a
      · subst hfa
        exact .inr (hself hl)
      · rw [hne f hfa]
        exact hf.imp_left fun h => (List.mem_cons.1 h).resolve_left hfa
    · have hfa : f ≠ a ∧ f ∉ l := by simpa using hf
      exact (hrest f hfa.2).trans (hne f hfa.1)

theorem exec_eccLoop (s : State) (m a : Nat) (l : List Nat) : exec (.eccUncorrectable m (.columnOrLoop l) a) s =
    .next ((l.filter (· < 48)).foldl (fun s f => columnForce f s) (s.record ⟨0x1007, m, 2, leBytes 8 a, [], 0xFFFFFFFF, 0xF⟩)) := rfl

/-! ## The restart of an engine (01 R21) -/

/-- What an engine other than the Column and the loop engine may hold. -/
abbrev engineParts : List Part :=
  [.flow, .pas, .pctl, .lead, .opt, .upd, .free, .valve, .sens, .sky, .skyio, .can, .lan, .yield, .serv, .fleet, .fio]

/-- The Passage restarts on an empty memory. -/
def passageLost (s : State) : State := { s with pas := (loseVolatile s).pas, pctl := (loseVolatile s).pctl, lead := (loseVolatile s).lead }

/-- The receiver restarts on an empty memory. -/
def skyLost (s : State) : State := { s with sky := { (loseVolatile s).sky with state := 1 }, skyio := (loseVolatile s).skyio }

/-- The application's engines restart on an empty memory. -/
def applicationLost (s : State) : State := { s with opt := (loseVolatile s).opt, yield := (loseVolatile s).yield }

/-- The field engine restarts on an empty memory. -/
def fieldLost (s : State) : State := { s with fio := (loseVolatile s).fio }

section
variable (s : State)

theorem passageLost_only : Only [.pas, .pctl, .lead] s (passageLost s) := fun p => by
  cases p with
  | pas | pctl | lead => exact .inl (by decide)
  | _ => exact .inr rfl

theorem skyLost_only : Only [.sky, .skyio] s (skyLost s) := fun p => by
  cases p with
  | sky | skyio => exact .inl (by decide)
  | _ => exact .inr rfl

theorem applicationLost_only : Only [.opt, .yield] s (applicationLost s) := fun p => by
  cases p with
  | opt | yield => exact .inl (by decide)
  | _ => exact .inr rfl

theorem fieldLost_only : Only [.fio] s (fieldLost s) := fun p => by
  cases p with
  | fio => exact .inl (by decide)
  | _ => exact .inr rfl

theorem restart_passage : restartEngine 5 s = beginReset none (passageLost s) := rfl
theorem restart_sky : restartEngine 0xB s = skyLost s := rfl
theorem restart_application : restartEngine 0xE s = fleetStart (loseSessions (applicationLost s)) := rfl
theorem restart_field : restartEngine 0x10 s = fieldLost s := rfl
end

/-- Another engine than the Passage's and the field's leaves both as they are. -/
theorem restartEngine_other {e : Nat} (s : State) (h5 : e ≠ 5) (h10 : e ≠ 0x10) :
    Only [.flow, .upd, .free, .valve, .sens, .sky, .skyio, .can, .lan, .opt, .yield, .serv, .fleet] s (restartEngine e s) := by
  unfold restartEngine
  split
  · exact (updFlow_only s _).mono (by decide)
  · exact absurd rfl h5
  · exact (updValve_only s _).mono (by decide)
  · exact (updValve_only s _).mono (by decide)
  · exact (updValve_only s _).mono (by decide)
  · exact (updValve_only s _).mono (by decide)
  · exact (updSens_only s _).mono (by decide)
  · exact (skyLost_only s).mono (by decide)
  · exact (canStart_only s).mono (by decide)
  · exact (lanStart_only s).mono (by decide)
  · exact (((applicationLost_only s).mono (by decide)).next (loseSessions_only _)).next (fleetStart_only _)
  · exact (updSens_only s _).mono (by decide)
  · exact absurd rfl h10
  · exact .refl _ _

theorem restartEngine_only (e : Nat) (s : State) : Only engineParts s (restartEngine e s) := by
  by_cases h5 : e = 5
  · rw [h5, restart_passage]
    exact ((passageLost_only s).mono (by decide)).next (beginReset_only none _)
  · by_cases h10 : e = 0x10
    · rw [h10, restart_field]
      exact (fieldLost_only s).mono (by decide)
    · exact (restartEngine_other s h5 h10).mono (by decide)

/-- The record of an uncorrectable error. -/
def eccEvent (mem address : Nat) : FlowEv := ⟨0x1007, mem, 2, leBytes 8 address, [], 0xFFFFFFFF, 0xF⟩

/-- The restart is counted, by engine and by the regions in probation that it runs. -/
def restartCounted (e : Nat) (s : State) : State :=
  (s.updBelay fun b => { b with engineRestarts := bump b.engineRestarts e }).updUpd fun u =>
    { u with regions := u.regions.mapIdx fun r (x : Region) =>
        if x.state = 3 ∧ regionEngine (r + 1) e then { x with restarts := x.restarts + 1 } else x }

theorem restartCounted_only (e : Nat) (s : State) : Only [.belay, .upd] s (restartCounted e s) := ((updBelay_only s _).mono (by decide)).next (updUpd_only _ _)

theorem restartCounted_belay (e : Nat) (s : State) : (restartCounted e s).belay.engineRestarts = bump s.belay.engineRestarts e := rfl

theorem exec_eccOther (s : State) (m e a : Nat) :
    exec (.eccUncorrectable m (.other e) a) s = .next (restartCounted e (restartEngine e (s.record (eccEvent m a)))) := rfl

/-- An uncorrectable error of another engine's memory. -/
theorem eccOther_spec (s : State) (m e a : Nat) : ∃ t, exec (.eccUncorrectable m (.other e) a) s = .next t ∧
    t.belay.engineRestarts = bump s.belay.engineRestarts e ∧ t.pw = s.pw ∧ t.dict = s.dict ∧ t.loop = s.loop ∧ t.steer = s.steer ∧
    (e = 5 → t.pas.ring = [] ∧ t.pctl.events = [] ∧ t.lead.ring = []) ∧ (e = 0xB → t.skyio = {} ∧ t.sky.state = 1) ∧
    (e = 0xE → t.serv.sess = List.replicate 16 {}) ∧ (e = 0x10 → t.fio = {}) ∧ (e ≠ 5 → t.pas = s.pas ∧ t.pctl = s.pctl) ∧
    (e ≠ 0x10 → t.fio = s.fio) := by
  have hrec := record_only s (eccEvent m a)
  have hexec := exec_eccOther s m e a
  generalize s.record (eccEvent m a) = u at *
  have hrestart := restartEngine_only e u
  have hcount := restartCounted_only e (restartEngine e u)
  refine ⟨_, hexec, ?_, ?_, ?_, ?_, ?_, fun h => ?_, fun h => ?_, fun h => ?_, fun h => ?_, fun h => ?_, fun h => ?_⟩
  · rw [restartCounted_belay, hrestart.belay, hrec.belay]
  · rw [hcount.pw, hrestart.pw, hrec.pw]
  · rw [hcount.dict, hrestart.dict, hrec.dict]
  · rw [hcount.loop, hrestart.loop, hrec.loop]
  · rw [hcount.steer, hrestart.steer, hrec.steer]
  · rw [hcount.pas, hcount.pctl, hcount.lead, h, restart_passage]
    exact ⟨rfl, (beginReset_control none _).1, rfl⟩
  · rw [hcount.skyio, hcount.sky, h, restart_sky]
    exact ⟨rfl, rfl⟩
  · rw [hcount.serv, h, restart_application, (fleetStart_only _).serv, loseSessions_sessions]
  · rw [hcount.fio, h, restart_field]
    rfl
  · by_cases h10 : e = 0x10
    · rw [hcount.pas, hcount.pctl, h10, restart_field, (fieldLost_only u).pas, (fieldLost_only u).pctl, hrec.pas, hrec.pctl]
      exact ⟨rfl, rfl⟩
    · have hother := restartEngine_other u h h10
      rw [hcount.pas, hcount.pctl, hother.pas, hother.pctl, hrec.pas, hrec.pctl]
      exact ⟨rfl, rfl⟩
  · rw [hcount.fio]
    by_cases h5 : e = 5
    · rw [h5, restart_passage, (beginReset_only none _).fio, (passageLost_only u).fio, hrec.fio]
    · rw [(restartEngine_other u h5 h).fio, hrec.fio]

/-- A corrected error is counted, and recorded with its count. -/
theorem exec_eccCorrected (s : State) (m : Nat) : exec (.eccCorrected m) s =
    .next ((s.updBelay fun b => { b with eccCount := bump b.eccCount m }).record
      ⟨0x1006, m, 0, leBytes 4 (countOf (bump s.belay.eccCount m) m), [], 0xFFFFFFFF, 0xF⟩) := rfl

theorem countOf_bump (l : List (Nat × Nat)) (k : Nat) : countOf (bump l k) k = inc32 (countOf l k) := by
  rw [show countOf (bump l k) k = (((bump l k).find? fun p => p.1 == k).map (·.2)).getD 0 from rfl, bump_self]
  rfl

/-- Settles O59: episodes, hold-up, resets, the loss of Belay's supply, temperature, and memory errors. -/
theorem powerSupply : Obligations.PowerSupply := by
  refine ⟨fun s m h hr he => ?_, fun s m h hno => ?_, fun s m h => congrArg Host.Outcome.next (if_pos h), fun s m d he => ?_, fun s m d he => ?_,
    fun s m hr hh hm hd => ?_, fun s m hr hh hm hd => ?_, fun s m h => ?_, fun s d hw hd ha hs => resetLevel_resets hw hd ha hs, fun s h => ?_,
    fun s e hh hr => exec_holdupArmed hh hr, fun s e hh hr => exec_holdupArmed hh hr, fun s e k h => ?_, fun s hw hl hi => ?_,
    fun s hw hl hi hk => ?_, fun s hw h => ?_, fun s hw => congrArg Host.Outcome.next (if_neg (Bool.eq_false_iff.1 hw)), belayLost, fun s h => ?_,
    fun s h => ?_, fun s => ?_, fun s => rfl, fun s hd => ?_, fun s hr hsv => ?_, fun s m n hn => ?_, fun s m l a => ?_, eccOther_spec⟩
  · have honly := episodeOpened_only m s
    have hexec := (exec_brownoutOpen h).trans (congrArg Host.Outcome.next (if_pos ⟨hr, by rw [he]; rfl⟩))
    have hpw : (episodeOpened m s).pw = { s.pw with batMv := m, batMin := min s.pw.batMin m, belowWarning := true, episode := true, episodeMin := m
                                                    episodeCount := inc32 s.pw.episodeCount } := rfl
    generalize episodeOpened m s = u at *
    have hrec := record_only u ⟨0x1003, 0, 1, [], [], 0xFFFFFFFF, 0xF⟩
    have hflush := beginFlush_only (u.record ⟨0x1003, 0, 1, [], [], 0xFFFFFFFF, 0xF⟩)
    refine .intro hexec ⟨((honly.mono (by decide)).next hrec).next hflush, ?_, ?_⟩
    · rw [hflush.pw, hrec.pw, hpw]
    · exact beginFlush_flow (record_flow_pw _ (congrArg Pw.dev hpw :) honly.flow honly.tm honly.dict)
  · refine (exec_brownoutOpen h).trans (congrArg Host.Outcome.next (if_neg fun hb => ?_))
    obtain ⟨hr, he⟩ := hb
    rcases hno with hno | hno
    · exact Bool.false_ne_true (hno.symm.trans hr)
    · rw [hno] at he
      exact Bool.false_ne_true he
  · have honly := episodeClosed_only m d s
    have hexec := (exec_brownoutClose (s := s) m d).trans (congrArg Host.Outcome.next (if_pos he))
    have hpw : (episodeClosed m d s).pw = { s.pw with
      belowWarning := false, batMv := max s.pw.batMv (startLevel s), episode := false, episodeMin := m, lastEpisodeMin := m
      lastEpisodeDuration := d, batMin := min s.pw.batMin m } := rfl
    generalize episodeClosed m d s = u at *
    have hrec := record_only u ⟨0x1004, 0, 1, leBytes 2 m ++ leBytes 4 d, [], 0xFFFFFFFF, 0xF⟩
    refine .intro hexec ⟨(honly.mono (by decide)).next hrec, ?_, ?_⟩
    · rw [hrec.pw, hpw]
    · exact record_flow_pw _ (congrArg Pw.dev hpw :) honly.flow honly.tm honly.dict
  · exact (exec_brownoutClose (s := s) m d).trans (congrArg Host.Outcome.next (if_neg (Bool.eq_false_iff.1 he)))
  · obtain ⟨t, ht, hdev, hmv, hep, hhold, hon, hcount, hat, hhist, hengaged, hevents, hring, hcur, hports, hchans⟩ := resetLevel_holds hr hh hm hd
    exact ⟨t, ht, hdev, hmv, hep, hhold, hon, hcount, hat, hhist, hengaged, hevents, hring, hcur, fun _ => hports, fun _ => hchans⟩
  · have hexec := (exec_resetLevelHoldup hr hh hm).trans (by rw [if_pos hd])
    have honly := supplying_only m s
    obtain ⟨hpw, hbelay⟩ := supplying_spec m s
    generalize supplying m s = u at *
    obtain ⟨hshed, hshedBelay, -, -⟩ := shedFrom_spec u
    refine .intro hexec ⟨(honly.mono (by decide)).next hshed, ?_, ?_⟩
    · rw [hshed.pw, hpw]
    · rw [hshedBelay, hbelay, honly.tm]
  · refine congrArg Host.Outcome.next (if_pos ?_)
    exact h.imp_left fun hr => by rw [show supervised s = false from hr]; rfl
  · refine congrArg Host.Outcome.next (if_pos ?_)
    refine h.imp_right fun h => h.imp_left fun hno => ?_
    simp [supervised, hno.1, hno.2]
  · refine congrArg Host.Outcome.next (if_neg fun hb => ?_)
    exact h.elim (· hb.1) fun h => Bool.false_ne_true (h.symm.trans hb.2)
  · exact ⟨_, (exec_holdupRestart hw).trans (congrArg Host.Outcome.next ((if_neg (Bool.eq_false_iff.1 hl)).trans (if_pos hi))),
      enterStart_started 1 1 (restarting s)⟩
  · exact ⟨_, (exec_holdupRestart hw).trans (congrArg Host.Outcome.next ((if_neg (Bool.eq_false_iff.1 hl)).trans
      ((if_neg (Bool.eq_false_iff.1 hi)).trans (if_pos hk)))), enterStart_started 1 2 (restarting s)⟩
  · have hexec : exec .holdupRestartWaitEnd s = .next (restarting s) := by
      rw [exec_holdupRestart hw]
      rcases h with h | ⟨hi, hk⟩
      · rw [h]
        rfl
      · rw [hi, hk]
        exact congrArg Host.Outcome.next (ite_self _)
    exact .intro hexec ⟨restarting_only s, rfl, rfl⟩
  · exact (exec_thermalThrottle s true).trans (congrArg Host.Outcome.next (updBelay_congr (throttleTo_begins h)))
  · exact (exec_thermalThrottle s false).trans (congrArg Host.Outcome.next (updBelay_congr (throttleTo_ends h)))
  · exact (exec_thermalThrottle s _).trans (congrArg Host.Outcome.next (updBelay_congr (g := id) (throttleTo_stays s.belay)))
  · obtain ⟨honly, hshut⟩ := enterShutdown_spec 4 s
    have hexec : exec .thermalCritical s = .next ((enterShutdown 4 s).updBelay fun b =>
      { b with critical := true, criticalLock := true, ignSeenLow := !s.pw.ign }) := congrArg Host.Outcome.next (if_pos hd)
    generalize enterShutdown 4 s = u at *
    exact .intro hexec ⟨honly.next (updBelay_only u _), hshut.critical (!s.pw.ign), rfl, rfl, rfl⟩
  · exact congrArg Host.Outcome.next (if_neg fun hb => hb.elim hr hsv)
  · have hcount : countOf (bump s.belay.eccCount m) m = n := (countOf_bump s.belay.eccCount m).trans hn.symm
    have hexec := exec_eccCorrected s m
    rw [hcount] at hexec
    have honly := updBelay_only s fun b => { b with eccCount := bump b.eccCount m }
    have hbelay : (s.updBelay fun b => { b with eccCount := bump b.eccCount m }).belay.eccCount = bump s.belay.eccCount m := rfl
    generalize (s.updBelay fun b => { b with eccCount := bump b.eccCount m }) = u at *
    have hrec := record_only u ⟨0x1006, m, 0, leBytes 4 n, [], 0xFFFFFFFF, 0xF⟩
    refine .intro hexec ⟨(honly.mono (by decide)).next hrec, ?_, fun k hk => ?_, ?_⟩
    · rw [hrec.belay, hbelay, bump_self, hn]
      rfl
    · rw [hrec.belay, hbelay, bump_other _ hk]
    · exact record_flow_pw _ (congrArg Pw.dev honly.pw) honly.flow honly.tm honly.dict
  · have hrec := record_only s ⟨0x1007, m, 2, leBytes 8 a, [], 0xFFFFFFFF, 0xF⟩
    have hexec := exec_eccLoop s m a l
    obtain ⟨u, hu⟩ : ∃ u, s.record ⟨0x1007, m, 2, leBytes 8 a, [], 0xFFFFFFFF, 0xF⟩ = u := ⟨_, rfl⟩
    rw [hu] at hrec hexec ⊢
    obtain ⟨t, ht, honly, -, hforced, hrest⟩ := forced_spec (l.filter (· < 48)) u
    have hfn : ∀ f, u.fnOf f = s.fnOf f := fun f => by unfold State.fnOf; rw [hrec.loop]
    refine .intro (hexec.trans (by rw [ht])) ⟨(hrec.mono (by decide)).next honly, honly.flow, fun f hf h48 hl => ?_, fun f hf => ?_⟩
    · exact hforced f (.inl (List.mem_filter.2 ⟨hf, decide_eq_true h48⟩)) (by rw [hrec.loop]; exact hl)
    · exact (hrest f fun h => hf (List.mem_filter.1 h).1).trans (hfn f)

end Sys2Proof.Machine

/-! Refutation of the statement on the dictionary server (15). -/

namespace Sys2Proof.Machine

set_option Elab.async false

/-! ## Objects that share a key

A key is index × 256 + sub-index, so a sub-index from 256 on names a key of a later index: 0x2102 with sub-index 257 has the key of NodeId,
0x2103.01. The statement's frame of a write to NodeId speaks of every natural sub-index, and no object of the dictionary has one of 256. -/

/-- A module in Run with one session, number 0, which holds the service role. -/
def oneSession : State := { State.reset with pw := { dev := .run }, serv := { sess := [{ opened := true, role := 2 }] } }

theorem oneSession_admits : oneSession.admits 0 0x2103 1 (.int 5) := ⟨⟨by decide, rfl, rfl⟩, by decide⟩

/-- In a dictionary without entries the other name of NodeId's key reads 0. -/
theorem oneSession_unread : oneSession.val 0x2102 257 = .int 0 := by decide

/-- What an object reads after a command, 0 when it leads to no state. -/
def readAfter (c : Instr) (s : State) (i sub : Nat) : Val :=
  match exec c s with
  | .next t => t.val i sub
  | _ => .int 0

theorem readAfter_next {c : Instr} {s t : State} (h : exec c s = .next t) (i sub : Nat) : readAfter c s i sub = t.val i sub := by
  unfold readAfter
  rw [h]

/-- The model carries the write out, and the other name of NodeId's key reads 5 after it. -/
theorem oneSession_writes : readAfter (.objectWrite 0 0x2103 1 [byteOf 5]) oneSession 0x2102 257 = .int 5 := by decide

/-- Refutes O60: in the state `oneSession` a write of 5 to NodeId is admitted and carried out, but 0x2102 with sub-index 257, which has the
key of NodeId and read 0, reads 5 after it, though the statement lets every other pair of numbers read as before. -/
theorem not_server : ¬ Obligations.Server := by
  intro h
  unfold Obligations.Server at h
  obtain ⟨-, -, -, hnode, -⟩ := h
  obtain ⟨t, hexec, -, -, hframe⟩ := hnode oneSession 0 5 oneSession_admits
  have hwritten : t.val 0x2102 257 = .int 5 := (readAfter_next hexec 0x2102 257).symm.trans oneSession_writes
  have hkept : t.val 0x2102 257 = .int 0 := (hframe 0x2102 257 (by decide)).trans oneSession_unread
  exact absurd (hwritten.symm.trans hkept) (by decide)

end Sys2Proof.Machine
